-- ==== Sys2Proof/Word.lean ====
section
/-! DEFINITION. Bytes, and the passage between bytes and numbers (R16, R17, R60).

A frame, a payload, a key is a list of bytes.  A value that the manual computes with is a natural number; where the
manual numbers its bits, the bit-field readers below read them. -/

namespace Sys2Proof

/-- One byte of a frame, a payload or a buffer. -/
abbrev Byte := BitVec 8

/-- The byte that a number names, modulo 256. -/
def byte (n : Nat) : Byte := BitVec.ofNat 8 n

end Sys2Proof
end

