-- ==== Sys2Proof/Syntax.lean ====
section
/-! DEFINITION. The commands of the K48: one constructor per row of spec/opcode_table.json, with the row's operands.
Operands carry what comes from outside the unit: frames, samples, requests, register writes, readings. -/

namespace Sys2Proof

/-- What the power supply of a bay reports in phase 2 (R191, R219). -/
structure ModuleReport where
  bay : Fin 2
  volts : Nat
  hz : Nat
  output : Nat
  /-- Inlet temperature, 0.1 °C. -/
  inlet : Int
deriving DecidableEq, Repr, Inhabited

/-- Where a DRAM error lies, as the controller found it (R501, R528). -/
structure DramPlace where
  channel : Nat := 0
  rank : Nat := 0xFF
  bank : Nat := 0
  row : Nat := 0
  column : Nat := 0
  port : Nat := 0xFF
  syndrome : Nat := 0
  /-- Unit address of the burst. -/
  address : Nat := 0xFFFFFFFFFFFFFFFF
deriving DecidableEq, Repr, Inhabited

/-- A command of a channel's retry buffer (R521, R531). -/
structure DramCmd where
  time : Nat
  command : Nat
  rank : Nat
  port : Nat
  /-- ROW or COLUMN. -/
  place : Nat
deriving DecidableEq, Repr, Inhabited

/-- What a command that is ready to issue serves (R509, R513, R521): a step of a replay, a forced refresh, a due one, or a
request of a port (6: the scrub), for D0 and D1 of a tenancy's lane, with the time of its arrival and whether it hits an open
row. -/
inductive DramWant where
  | replay
  | forced
  | refresh
  | request (port lane arrived : Nat) (hit : Bool)
deriving DecidableEq, Repr, Inhabited

/-- A command that is ready to issue. -/
structure DramReady where
  want : DramWant
  cmd : DramCmd
deriving DecidableEq, Repr, Inhabited

/-- A command slot of a channel: its time in ns, and the commands whose bank and bus timing let them issue in it (R509). -/
structure DramSlot where
  time : Nat
  ready : List DramReady
deriving DecidableEq, Repr, Inhabited

/-- What a DRAM channel did in the beat just ended, as its controller found it (R504, R505, R516, R529). -/
structure ChannelReport where
  /-- Bytes read and written. -/
  read : Nat := 0
  written : Nat := 0
  /-- Bytes that requests of the beat asked of it (R515, R682). -/
  asked : Nat := 0
  /-- Reads that returned poison, and the bursts corrected. -/
  poison : Nat := 0
  corrected : List DramPlace := []
  /-- The command slots of the beat, in order (R509). -/
  slots : List DramSlot := []
  /-- Requests held for the channel, by port: it is frozen (R525). -/
  held : List Nat := []
deriving DecidableEq, Repr, Inhabited

/-- Engine cycles of the beat just ended in which a block of R658 could not take its next unit, at a port, traffic class and
tenancy (R659). -/
structure StallReport where
  block : Fin 24
  port : Nat
  tc : Nat := 0
  tn : Nat := 0
  cycles : Nat
deriving DecidableEq, Repr, Inhabited

/-- What a DRAM port did in the beat just ended (R510, R511, R530). -/
structure DramPortReport where
  arrived : Nat := 0
  /-- Requests completed at each of the four urgency levels, the longest age in ns, the requests held. -/
  urgency : List Nat := []
  latency : Nat := 0
  depth : Nat := 0
  /-- A request reached level 3. -/
  late : Bool := false
deriving DecidableEq, Repr, Inhabited

/-- The inputs of R9 that phase 2 of a boundary latches, and what the boundary takes from the clock. -/
structure BoundaryInputs where
  /-- Engine cycles of the beat just ended, less 149,997 (R28). -/
  drift : Fin 7 := 3
  /-- Boundary work of the last boundary was still unfinished (R48). -/
  overrun : Bool := false
  /-- Sensor readings: sensor, 0.1 °C (R709). -/
  sensors : List (Fin 8 × Int) := []
  /-- Fan speeds, rev/min and per cent of the commanded, where an evaluation falls at this boundary (R711, R713). -/
  tach : Option (List (Nat × Nat)) := none
  /-- Measured PoE draws: access port, 0.1 W (R208). -/
  draws : List (Fin 48 × Nat) := []
  /-- Power-module reports (R191). -/
  modules : List ModuleReport := []
  /-- The DRAM channels and the six ports. -/
  channels : List ChannelReport := []
  dramPorts : List DramPortReport := []
  /-- Fill of D0's write buffer and of D4's read-ahead buffer, per cent (R511). -/
  fill0 : Nat := 0
  fill4 : Nat := 100
  /-- How far each CAN port's frame on the bus has gone: 0 idle, 1 in arbitration, 2 past it (R110). -/
  cans : List Nat := []
  /-- Configuration space as sampled: NumVFs with VF Enable, by function Bus Master Enable, and the functions whose MSI-X
  Function Mask is set or whose MSI-X Enable is clear (R601, R622). -/
  numVfs : Nat := 0
  masters : Nat := 0
  fnMasks : Nat := 0
  /-- A correctable PCIe error was found (R623). -/
  correctable : Bool := false
  /-- Elements read by the table-load engine, each with its poison mark (R616). -/
  loadData : List (List Byte × Bool) := []
  /-- Elements of tables, as keys of the store, whose words were found uncorrectable (R306, R348), and ports whose operating
  gate list holds such a word (R465). -/
  badCells : List Nat := []
  badGates : List Nat := []
  /-- The fabric was oversubscribed (R360, R682). -/
  oversubscribed : Bool := false
  /-- Corrected errors of the memories of the blocks of R658: block, count (R379, R407, R439, R465). -/
  corrected : List (Nat × Nat) := []
  /-- Stalls of those blocks (R659). -/
  stalls : List StallReport := []
  /-- Uncorrectable words of schedulers: port, queue (8: the port), and 0 bucket, 1 deficit, 2 tag; of policer buckets (R439). -/
  badSched : List (Nat × Nat × Nat) := []
  badPolicers : List Nat := []
  /-- Frames, by record, and workspace units, by buffer and unit, that hold such a word (R379, R407). -/
  badFrames : List Nat := []
  badBufs : List (Nat × Nat) := []
  /-- Spotter instances and held detections with such a word (R595). -/
  badIsland : List Nat := []
  badHeld : List Nat := []
  /-- Such words of counters, by key of the store; of block counters, by 16 * block + counter; of event state, by source and
  tenancy; of values of a snapshot being copied (R675). -/
  badCounters : List Nat := []
  badBlocks : List Nat := []
  badSources : List (Nat × Nat) := []
  badBank : List Nat := []
  /-- Rings of endpoint memory with an uncorrectable word, by function and ring, and one in the recovery journal (R633, R692). -/
  badRings : List (Fin 8 × Fin 13) := []
  badJournal : Bool := false
deriving DecidableEq, Repr, Inhabited

/-- A dictionary request as it reaches the server (R95): the header fields and the payload. -/
structure Req where
  id : Nat
  index : Nat
  sub : Nat
  payload : List Byte := []
  /-- A reserved header bit is set, RESP is set on the mailbox, or LEN exceeds the path's limit or the bytes carried
  (R97). -/
  malformed : Bool := false
deriving DecidableEq, Repr, Inhabited

/-- A frame on a CAN bus (R105). -/
structure CanIn where
  id : Nat
  extended : Bool := false
  fd : Bool := true
  data : List Byte := []
deriving DecidableEq, Repr, Inhabited

/-- The dataset of an Announce message (R51). -/
structure AnnounceMsg where
  /-- domainNumber, and the transport it came by (R49). -/
  domain : Nat
  transport : Nat
  priority1 : Nat
  clockClass : Nat
  accuracy : Nat
  variance : Nat
  priority2 : Nat
  /-- grandmasterIdentity, and the sender's clockIdentity. -/
  identity : Nat
  sender : Nat
  stepsRemoved : Nat
  timeSource : Nat
deriving DecidableEq, Repr, Inhabited

/-- An ARP frame or a Neighbor Discovery message (R336): a request or solicitation, or a reply or advertisement. -/
structure ArpNd where
  request : Bool
  ip6 : Bool
  /-- Protocol addresses of the sender and of the target. -/
  sender : Nat
  target : Nat
  /-- Hardware address of the sender. -/
  mac : Nat
deriving DecidableEq, Repr, Inhabited

/-- The commands. -/
inductive Instr where
  /-- BEAT_BOUNDARY (R42). At each beat boundary the K48 runs its eight phases in order: number, sample, commit, mode, power, refill, gather and background. -/
  | beatBoundary (inp : BoundaryInputs)
  /-- AGE_OUT (R322). A dynamic MAC entry whose age reaches AGE_TIME is removed, with its visible beat set to the next beat. -/
  | ageOut (loc : Fin 262144)
  /-- PTP_SYNC_RECEIVED (R36). A Sync message on the slave port updates the offset used by the lock and loss counts. -/
  | ptpSyncReceived (port : Fin 56) (domain transport : Nat) (offset : Int)
  /-- PTP_ANNOUNCE_RECEIVED (R51). An Announce message is taken into the best master clock algorithm. -/
  | ptpAnnounceReceived (uplink : Fin 4) (msg : AnnounceMsg)
  /-- PTP_ANNOUNCE_TIMEOUT (R52). No Announce message for 3 intervals reruns the best master clock algorithm. -/
  | ptpAnnounceTimeout (uplink : Fin 4)
  /-- BEAT_PTP_LOCKED (R38). After 8 Sync messages within threshold, lock is declared, an alignment beat runs, and the beat aligns, steps or slews. -/
  | beatPtpLocked (t cycles : Nat) (inp : BoundaryInputs)
  /-- BEAT_PTP_UNLOCKED (R37). Offset excess or missing Sync messages declare loss, and the beat continues in holdover. -/
  | beatPtpUnlocked
  /-- BEAT_SLEW_DONE (R39). The slew gap closes, the last beat is shortened onto the PTP instant, and SLEWING clears. -/
  | beatSlewDone (inp : BoundaryInputs)
  /-- ARM_ORIGIN (R33). The command arms the origin strobe on the input named by ORIGIN_STROBE_INPUT. -/
  | armOrigin
  /-- BEAT_ORIGIN_SET (R34). At the strobe instant the beat is renumbered to FREE_RUN_ORIGIN and ELAPSED_BEATS is cleared, with named targets, times and durations carried over. -/
  | beatOriginSet (inp : BoundaryInputs)
  /-- READ (R65). A READ request is checked and answered from the committed state. -/
  | read (m : Fin 15) (r : Req)
  /-- WRITE (R75). A plain WRITE request passes the arrival checks and queues for commit at the next beat. -/
  | write (m : Fin 15) (r : Req)
  /-- WRITE_AT_BEAT (R64). A WRITE_AT_BEAT request is checked against its target beat and queues for that beat. -/
  | writeAtBeat (m : Fin 15) (r : Req)
  /-- COMMAND (R66). A COMMAND request to a CMD object is validated and queued, and its action starts at its commit. -/
  | command (m : Fin 15) (r : Req)
  /-- REQUEST_CACHE_EXPIRY (R84). A cached response expires 8,000 beats after its response beat. -/
  | requestCacheExpiry (m : Fin 15)
  /-- MY_CACHE_FLUSH (R87). The command empties the master's request-id cache. -/
  | myCacheFlush (m : Fin 15)
  /-- CLAMP_CLEAR (R87). The command empties the clamp journal and zeroes every CLAMP_TOTAL. -/
  | clampClear
  /-- SEGMENT_INIT (R101). SEGMENT_INIT opens a segmented write or read transfer, capturing the value for a read. -/
  | segmentInit (m : Fin 15) (r : Req)
  /-- SEGMENT (R102). A SEGMENT carries or fetches one numbered piece, and the last write segment queues the assembled write. -/
  | segment (m : Fin 15) (r : Req)
  /-- SEGMENT_ABANDONED (R104). A transfer with no segment for 8,000 beats closes without commit. -/
  | segmentAbandoned (m : Fin 15)
  /-- CAN_FRAME_IGNORED (R105). A classic, extended or short frame on the request identifier, or a frame with RESP set, is ignored and counted. -/
  | canFrameIgnored (c : Fin 2) (f : CanIn)
  /-- CAN_TX_COMPLETE (R109). A queued response, notification or roll-call frame finishes transmission on the bus. -/
  | canTxComplete (c : Fin 2) (won : Bool)
  /-- CAN_ERROR_STATE_CHANGE (R108). A port enters or leaves error-passive or bus-off. -/
  | canErrorStateChange (c : Fin 2) (tec rec : Nat)
  /-- CAN_BUS_OFF_RECOVERY (R108). After 128 occurrences of 11 recessive bits, the port leaves bus-off. -/
  | canBusOffRecovery (c : Fin 2)
  /-- ROLLCALL (R111). Every ROLLCALL_INTERVAL beats the port sends a roll-call frame. -/
  | rollcall (c : Fin 2)
  /-- ROLLCALL_ANSWER (R112). An answer that echoes the latest CALL_SEQ makes its node present or updates its entry. -/
  | rollcallAnswer (c : Fin 2) (node : Fin 32) (data : List Byte)
  /-- INBAND_REQUEST (R114). An 0x88B5 frame to BASE_MAC is matched to a session, authenticated and passed to the dictionary. -/
  | inbandRequest (port : Fin 56) (frame : List Byte)
  /-- KEY_EPOCH_GRACE_END (R116). 8,000 beats after a key change the previous epoch is no longer accepted. -/
  | keyEpochGraceEnd (s : Fin 4)
  /-- MBX_DOORBELL (R119). A write of REQ hands the request area to the K48, or sets PROTOCOL_ERROR while REQ_BUSY is 1. -/
  | mbxDoorbell (f : Fin 8)
  /-- MBX_REQUEST_TAKE (R119). The K48 takes the mailbox request once response room exists and clears REQ_BUSY. -/
  | mbxRequestTake (f : Fin 8)
  /-- MBX_RSP_RELEASE (R119). Writing 1 to RSP_READY releases the shown response, and the next one is shown within 1 beat. -/
  | mbxRspRelease (f : Fin 8)
  /-- MODE_REQUEST_CONFIGURE (R131). MODE_REQUEST of CONFIGURE moves the unit to CONFIGURE, or wakes it from a supervisor mode. -/
  | modeRequestConfigure
  /-- MODE_REQUEST_SERVICE (R132). MODE_REQUEST of SERVICE moves an IN_SERVICE unit from CONFIGURE into the running family. -/
  | modeRequestService
  /-- MODE_REQUEST_LISTEN (R135). MODE_REQUEST of LISTEN stops forwarding and PoE and places DRAM in self-refresh with the audio island running. -/
  | modeRequestListen
  /-- MODE_REQUEST_DORMANT (R138). MODE_REQUEST of DORMANT starts entry to DORMANT, deferred while the spotter holds a strong partial match. -/
  | modeRequestDormant
  /-- MODE_REQUEST_FREEZE (R130). MODE_REQUEST of FREEZE activates FREEZE_CAUSE and halts the engine. -/
  | modeRequestFreeze
  /-- DORMANT_ENTRY (R138). At the first boundary without a strong partial match, or at d + 16,000, the unit enters DORMANT. -/
  | dormantEntry
  /-- WAKE (R136). An enabled wake source fires in DORMANT or LISTEN and BRINGUP begins at the next boundary. -/
  | wake (source : Fin 5) (line : Fin 52)
  /-- POWER_ON_RESET (R157). With a module output in regulation, BRINGUP starts at the boot-record origin and the on-chip wipe begins. -/
  | powerOnReset
  /-- DRAM_TRAINING_DONE (R536). DRAM training ends, and the zero-fill begins or, after three failures, the unit stays in BRINGUP. -/
  | dramTrainingDone (ok : Bool)
  /-- IMAGE_ACCEPTED (R151). The boot ROM accepts the preferred or the other image, and firmware starts. -/
  | imageAccepted
  /-- STORED_SET_LOAD (R156). The valid stored-set copy with the higher generation, or the defaults, is chosen and applied. -/
  | storedSetLoad
  /-- ZERO_FILL_COMPLETE (R157). The DRAM zero-fill of start-up completes. -/
  | zeroFillComplete
  /-- CONFIGURE_ENTRY (R157). The first beat of CONFIGURE begins, held events are raised and all paths serve. -/
  | configureEntry
  /-- WARM_RESTART (R147). The command archives the counters and restarts through BRINGUP, reloading the stored set. -/
  | warmRestart
  /-- WATCHDOG_RESTART (R147). Firmware missing its check-in for 800 beats triggers a warm restart. -/
  | watchdogRestart
  /-- TRIAL_REVERT (R153). TRIAL_WINDOW ending without confirmation restarts into the previous image. -/
  | trialRevert
  /-- LC_COMMISSION (R141). COMMISSION moves a BLANK unit to IN_SERVICE through a wipe. -/
  | lcCommission (confirm : Nat)
  /-- LC_DECOMMISSION (R141). DECOMMISSION moves an IN_SERVICE unit to RETIRED through a wipe. -/
  | lcDecommission (confirm : Nat)
  /-- LC_VENDOR_RESET (R142). VENDOR_RESET with a valid authorisation moves a RETIRED unit to BLANK through a wipe. -/
  | lcVendorReset (confirm : Nat) (auth : List Byte)
  /-- LC_CHALLENGE_UPDATE (R142). Every 8,000 beats LC_CHALLENGE takes a new value from the generator. -/
  | lcChallengeUpdate
  /-- WIPE_DONE (R144). The wipe completes and verifies, LC_STATE takes the pending value, and a new run begins. -/
  | wipeDone
  /-- WIPE_VERIFY_FAIL (R144). A verification failure repeats the wipe, and after 3 attempts the unit stays in WIPE. -/
  | wipeVerifyFail
  /-- IMAGE_ACTIVATE_VERIFY (R152). IMAGE_ACTIVATE 1 verifies the written slot and reports IMAGE_STATUS. -/
  | imageActivateVerify
  /-- IMAGE_ACTIVATE_TRIAL (R152). IMAGE_ACTIVATE 2 verifies the slot and, if VERIFIED, sets TRIAL and performs a warm restart. -/
  | imageActivateTrial
  /-- IMAGE_CONFIRM (R153). The command confirms the trial image and raises MIN_SECURITY_VERSION. -/
  | imageConfirm
  /-- STORE (R155). STORE writes the lower-generation stored-set copy and the boot-record origin. -/
  | store
  /-- STORE_DONE (R155). The stored-set copy verifies within 40,000 beats, or STORE fails. -/
  | storeDone (ok : Bool)
  /-- POWER_FAIL_WARNING (R164). The warning of the last module carrying load makes firmware write the shutdown record. -/
  | powerFailWarning
  /-- MAINS_COLLAPSE (R131). The output of every module collapses and the unit enters OFF. -/
  | mainsCollapse
  /-- TN_CREATE (R179). CREATE makes an UNDEFINED tenancy ACTIVE, or is deferred while the tenancy is WIPING. -/
  | tnCreate (n : Fin 7)
  /-- TN_RESET (R179). RESET starts a wipe of an ACTIVE tenancy's state while keeping its record. -/
  | tnReset (n : Fin 7)
  /-- TN_DELETE (R179). DELETE starts a wipe that returns the tenancy to UNDEFINED. -/
  | tnDelete (n : Fin 7)
  /-- TENANCY_WIPE_END (R181). At the boundary after the scrub and segment wipe finish, the tenancy becomes ACTIVE or UNDEFINED. -/
  | tenancyWipeEnd (n : Fin 7)
  /-- PSU_INSERTED (R196). An inserted module reaches regulation and reports its first line state. -/
  | psuInserted (bay : Fin 2) (dc : Bool) (volts hz : Nat) (inlet : Int) (serial : Nat)
  /-- PSU_REMOVED (R196). A withdrawn module reports FAILED and then ABSENT. -/
  | psuRemoved (bay : Fin 2)
  /-- MODULE_LINE_FALL (R192). A HIGH_LINE module's AC input falls below 176 V and it reports LOW_LINE. -/
  | moduleLineFall (bay : Fin 2) (volts : Nat)
  /-- MODULE_LINE_RISE (R192). A LOW_LINE module's input above 184 V for 8,000 beats makes it HIGH_LINE. -/
  | moduleLineRise (bay : Fin 2)
  /-- PD_CLASSIFIED (R206). Detection and classification of a valid PD complete, and the port enters WAITING. -/
  | pdClassified (k : Fin 48) (cls : Fin 9) (second : Option (Fin 9)) (type : Fin 5)
  /-- FAULT_STARTUP (R206). A PD that does not complete power-up within 800 beats faults. -/
  | faultStartup (k : Fin 48)
  /-- PD_REMOVED (R206). Loss of the maintain-power signature returns the port to SEARCHING. -/
  | pdRemoved (k : Fin 48)
  /-- PD_FAULT (R206). An overload or short removes power at once and counts toward backoff. -/
  | pdFault (k : Fin 48) (short : Bool)
  /-- HOLD_END (R217). A backoff hold expires, BACKOFF_LEVEL rises and the port enters SEARCHING. -/
  | holdEnd (k : Fin 48)
  /-- BACKOFF_LEVEL_RESET (R217). 4,800,000 beats of continuous POWERED return BACKOFF_LEVEL to 0. -/
  | backoffLevelReset (k : Fin 48)
  /-- SILICON_REQUEST (R202). A deferrable requester asks for its whole token and waits until headroom covers it. -/
  | siliconRequest (r : Fin 4)
  /-- SILICON_RELEASE (R202). A requester releases its token at the end of its burst. -/
  | siliconRelease (r : Fin 4)
  /-- LLDP_POWER_REQUEST (R210). A PD's Power via MDI request lowers or raises the agreed value at the next boundary. -/
  | lldpPowerRequest (k : Fin 48) (watts : Nat)
  /-- PSE_CONTROLLER_FAULT (R225). The PSE controller stops reporting, and the draw is taken as the allocation or every port is turned off. -/
  | pseControllerFault (ports : Nat)
  /-- LINK_UP (R249). A physical port's link comes UP. -/
  | linkUp (p : Fin 52) (partner : Nat) (fec : Fin 4)
  /-- LINK_DOWN (R246). A physical port leaves UP: pause timers clear, queued frames are discarded and a flap adds penalty. -/
  | linkDown (p : Fin 52)
  /-- PENALTY_DECAY (R247). At every multiple of 8,000 elapsed beats each PENALTY decays, ending suppression below reuse. -/
  | penaltyDecay
  /-- SFP_INSERTED (R231). MOD_ABS reading present for 8 beats makes a module present. -/
  | sfpInserted (u : Fin 4)
  /-- MODULE_IDENTIFY (R231). The page A0h read completes and the module is accepted or rejected. -/
  | moduleIdentify (u : Fin 4) (ok : Bool) (id : List Byte)
  /-- SFP_REMOVED (R232). MOD_ABS reading absent for 8 beats removes the module. -/
  | sfpRemoved (u : Fin 4)
  /-- TX_FAULT (R233). TX_FAULT asserts TX_DISABLE, and a third within 10 s puts the port in MODULE_FAULT. -/
  | txFault (u : Fin 4)
  /-- TX_DISABLE_RELEASE (R233). TX_DISABLE is released 8 beats after a TX_FAULT. -/
  | txDisableRelease (u : Fin 4)
  /-- MODULE_DDM_READ (R231). Every 8,000 beats page A2h is read into MODULE_DDM. -/
  | moduleDdmRead (u : Fin 4) (ddm alarms : List Byte)
  /-- PHY_MGMT_TIMEOUT (R264). A PHY that stops answering for 8 beats keeps its port DOWN. -/
  | phyMgmtTimeout (p : Fin 52)
  /-- FRAME_RECEIVED (R234). A frame completes in a MAC FIFO and is checked, or discarded and counted. -/
  | frameReceived (p : Fin 52) (bytes : List Byte) (phyError noRoom : Bool) (age at_ ts : Nat)
  /-- PFC_FRAME_RECEIVED (R238). A received PFC frame loads the pause timers of enabled priorities. -/
  | pfcFrameReceived (p : Fin 52) (vector : Nat) (times : List Nat)
  /-- PAUSE_TIMER_EXPIRY (R238). A priority's pause timer reaches 0 and its queue may start frames again. -/
  | pauseTimerExpiry (p : Fin 52) (q : Fin 8)
  /-- PFC_REFRESH (R240). In XOFF, the PFC frame is sent again each half PAUSE_QUANTA. -/
  | pfcRefresh (p : Fin 52) (q : Fin 8)
  /-- PFC_STORM_TRIP (R243). 1,600 storm beats trip the watchdog and start a recovery window. -/
  | pfcStormTrip (p : Fin 52) (q : Fin 8)
  /-- PFC_STORM_CLEAR (R245). The 8,000-beat recovery window ends and pauses are honoured again. -/
  | pfcStormClear (p : Fin 52) (q : Fin 8)
  /-- LLDPDU_RECEIVED (R252). An LLDPDU adds or refreshes a neighbour entry, or is discarded as a fifth key. -/
  | lldpduReceived (p : Fin 52) (mac : Nat) (pdu : List Byte)
  /-- LLDP_NEIGHBOUR_LOST (R252). A neighbour's TTL expires and its entry is removed. -/
  | lldpNeighbourLost (p : Fin 52) (slot : Fin 4)
  /-- LLDP_TRANSMIT (R251). Every TX_INTERVAL the firmware sends an LLDPDU on the port. -/
  | lldpTransmit (p : Fin 52)
  /-- FRAME_TX_DONE (R353). A frame's transmission ends, releasing its references and cells. -/
  | frameTxDone (p : Fin 53) (at_ : Nat) (linkError : Option (Fin 8))
  /-- RECLAIM_PASS_DONE (R379). The 768-beat reclaim pass returns every unreferenced cell to the free list. -/
  | reclaimPassDone
  /-- VERSION_RETIRE (R288). A version retires once no earlier frame awaits its table. -/
  | versionRetire
  /-- TWILL_SWAP (R293). At beat s the named tables change banks together, or the weave is abandoned. -/
  | twillSwap (mask : Nat)
  /-- TWILL_DRAIN_DONE (R293). The former active bank drains and becomes the shadow. -/
  | twillDrainDone
  /-- SHADOW_COPY (R297). The command copies the active bank into the shadow at 4 KiB per beat. -/
  | shadowCopy (t : Fin 4)
  /-- SHADOW_COPY_DONE (R297). The shadow copy completes. -/
  | shadowCopyDone (t : Fin 4)
  /-- LEARN_APPLY (R317). At the boundary of b+63 the learn requests of beat b create, refresh or move entries. -/
  | learnApply
  /-- SETTLE (R314). At boundary v + 64 changed entries copy DEST to PREV_DEST and removed locations are freed. -/
  | settle
  /-- DAMPING_WINDOW_END (R321). At each 8,000-beat window boundary move flags clear where fewer than 9 moves were counted. -/
  | dampingWindowEnd
  /-- ADD_STATIC (R324). MAC_OP ADD_STATIC writes or converts a static entry. -/
  | addStatic (m : Fin 15)
  /-- DELETE (R324). MAC_OP DELETE removes an entry. -/
  | delete (m : Fin 15)
  /-- FIND (R324). MAC_OP FIND reports the location of an entry. -/
  | find (m : Fin 15)
  /-- FLUSH_PORT (R325). MAC_OP FLUSH_PORT queues a flush criterion for a port. -/
  | flushPort (m : Fin 15)
  /-- FLUSH_FID (R325). MAC_OP FLUSH_FID queues a flush criterion for a FID. -/
  | flushFid (m : Fin 15)
  /-- FLUSH_TENANCY (R325). MAC_OP FLUSH_TENANCY queues a flush criterion for a tenancy. -/
  | flushTenancy (m : Fin 15)
  /-- MAC_FLUSH_DONE (R325). A 256-beat flush pass completes. -/
  | macFlushDone
  /-- ARP_ND_RECEIVED (R336). Firmware answers ARP or ND for the router addresses and resolves next hops. -/
  | arpNdReceived (p : Fin 52) (vlan : Nat) (m : ArpNd)
  /-- NH_REFRESH (R336). Every NH_REFRESH seconds firmware re-resolves each next hop. -/
  | nhRefresh (n : Fin 8192)
  /-- NH_UNRESOLVED (R336). A next hop missing 3 resolutions returns to UNRESOLVED. -/
  | nhUnresolved (n : Fin 8192)
  /-- SNOOP_REPORT (R338). An IGMP or MLD report adds its port to the group. -/
  | snoopReport (p : Fin 52) (vlan : Nat) (ip6 : Bool) (groups : List Nat) (frame : List Byte)
  /-- SNOOP_LEAVE (R338). A leave or done message removes the port at once under FAST_LEAVE. -/
  | snoopLeave (p : Fin 52) (vlan : Nat) (ip6 : Bool) (group : Nat)
  /-- SNOOP_QUERY (R338). A received query makes its port a router port. -/
  | snoopQuery (p : Fin 52) (vlan : Nat) (frame : List Byte)
  /-- SNOOP_MEMBER_EXPIRY (R338). A member or router port without reports or queries for SNOOP_GMI seconds is removed. -/
  | snoopMemberExpiry
  /-- ALLOC (R391). ALLOC grants the lowest free buffer of the chosen pool or refuses it. -/
  | alloc (r : Fin 16) (size : Nat) (tn : Fin 8)
  /-- SHARE (R396). SHARE adds an owner and may move the final mark and charge. -/
  | share (r : Fin 16) (h : Nat) (new : Fin 16) (final : Bool)
  /-- RELEASE (R396). RELEASE removes a non-final owner. -/
  | release (r : Fin 16) (h : Nat)
  /-- FREE (R396). FREE by the only owner advances the generation and starts zero-fill. -/
  | free (r : Fin 16) (h : Nat)
  /-- ZERO_FILL_DONE (R399). A freed buffer's zero-fill ends and it becomes free. -/
  | zeroFillDone (pool : Fin 6) (index : Nat)
  /-- APERTURE_READ (R620). A host read through the buffer aperture is checked and served or aborted. -/
  | apertureRead (f : Fin 8) (offset len : Nat)
  /-- APERTURE_WRITE (R620). A host write through the buffer aperture is checked and stored or journalled. -/
  | apertureWrite (f : Fin 8) (offset : Nat) (data : List Byte) (poison : Bool)
  /-- FLUSH (R428). FLUSH discards the unselected frames of the named queues. -/
  | flush (p : Fin 56) (mask : Nat)
  /-- HIST_CLEAR (R431). HIST_CLEAR clears the sojourn histograms of the named queues. -/
  | histClear (p : Fin 56) (mask : Nat)
  /-- CHANGE_TIME (R446). CHANGE_TIME copies the pending list into the armed change for instant t. -/
  | changeTime (p : Fin 52) (t : Nat)
  /-- CANCEL (R448). CANCEL discards an armed gate change. -/
  | cancel (p : Fin 52)
  /-- GATE_TAKEOVER (R447). At instant t the armed change becomes the operating list with origin t. -/
  | gateTakeover (p : Fin 52)
  /-- GATE_ENTRY_START (R442). A gate list entry begins and the gates take its states. -/
  | gateEntryStart (p : Fin 52) (at_ : Nat)
  /-- KEEP_COPY (R467). A keep copy from port K is written into its stream's open segment, or discarded. -/
  | keepCopy (at_ : Nat) (linkError : Option (Fin 8))
  /-- SEGMENT_AGE_CLOSE (R471). An open segment closes 480,000 beats after its first record. -/
  | segmentAgeClose
  /-- PREROLL_FREE (R473). A PREROLL segment older than the pre-roll is freed. -/
  | prerollFree
  /-- HEARTBEAT_CHECK (R476). At each probe check, misses and replies are counted and the probe judgement updated. -/
  | heartbeatCheck
  /-- HEARTBEAT_SEND (R477). A heartbeat datagram is sent j beats after the check. -/
  | heartbeatSend (at_ : Nat)
  /-- PROBE_REPLY (R477). A reply datagram is validated and recorded, or ignored. -/
  | probeReply (port : Fin 56) (src : Nat) (payload : List Byte)
  /-- DRAIN_OFFER (R483). A RETAINED segment is shared with its function and offered through the drain ring. -/
  | drainOffer (f : Fin 8)
  /-- DRAIN_ACK (R614). A host acknowledgement commits in phase 2 and frees its segment. -/
  | drainAck (f : Fin 8)
  /-- FLN_DRAIN_TIMEOUT (R484). An unacknowledged offer is withdrawn after DRAIN_ACK_TIMEOUT. -/
  | flnDrainTimeout
  /-- BACKFILL_SEND (R485). Shaped backfill datagrams of a RETAINED segment are sent. -/
  | backfillSend (at_ : Nat)
  /-- BACKFILL_ACK (R486). A collector ACK frees its segment, or is ignored. -/
  | backfillAck (n : Fin 8) (payload : List Byte)
  /-- FLN_BACKFILL_TIMEOUT (R486). A segment without an ACK after BACKFILL_ACK_TIMEOUT is sent again. -/
  | flnBackfillTimeout
  /-- INDEX_EXPORT (R490). INDEX_EXPORT captures the tenancy's index records into compressed blocks. -/
  | indexExport (n : Fin 8)
  /-- PURGE (R494). PURGE sets the stream PURGED and frees its segments. -/
  | purge (s : Fin 96)
  /-- DRAM_ALERT (R521). ALERT_n falling stops issue and starts a replay of the buffered commands. -/
  | dramAlert (c : Fin 2) (crc : Bool) (time : Nat) (slots : List DramSlot) (place : DramPlace)
  /-- DRAM_REPLAY_DONE (R521). The re-issued commands complete and the channel resumes. -/
  | dramReplayDone (c : Fin 2)
  /-- DRAM_UE (R523). An uncorrectable read returns data poisoned and writes the burst back poisoned. -/
  | dramUe (place : DramPlace)
  /-- REFRESH_DUE (R512). A rank's refresh falls due and is issued, postponed or forced. -/
  | refreshDue (c : Fin 2) (rank : Fin 2) (fill0 fill4 : Nat)
  /-- IDLE_SELF_REFRESH (R517). A channel idle for IDLE_SR_BEATS enters self-refresh. -/
  | idleSelfRefresh (c : Fin 2)
  /-- SELF_REFRESH_EXIT (R519). A request for a channel in or entering self-refresh abandons or exits it. -/
  | selfRefreshExit (c : Fin 2) (early : Bool)
  /-- DRAM_SCRUB_PASS_DONE (R527). The patrol scrub completes a pass of 64 GiB. -/
  | dramScrubPassDone
  /-- DIAG_READ (R526). DIAG_READ reads one burst without correction into DIAG_DATA. -/
  | diagRead
  /-- LOG_CLEAR (R528). LOG_CLEAR empties the DRAM error log. -/
  | logClear
  /-- JOB_ADMIT (R537). In phase 8 each engine admits at most one descriptor from each source into its queue. -/
  | jobAdmit (e : Fin 2) (source : Fin 10) (desc : List Byte)
  /-- COMPRESS (R544). A COMPRESS job allocates output and writes one DEFLATE stream in its wrapper. -/
  | compress
  /-- DECOMPRESS (R548). A DECOMPRESS job decodes one stream and checks its wrapper. -/
  | decompress
  /-- COPY_1D (R554). A COPY_1D job copies a byte range between buffers. -/
  | copy1d
  /-- COPY_2D (R555). A COPY_2D job copies a rectangle, reversed or staged on overlap. -/
  | copy2d
  /-- JOB_END (R549). A job ends, delivering its whole result or freeing its output. -/
  | jobEnd (e : Fin 2) (bad : Bool)
  /-- JOB_COMPLETION_POST (R557). The completion is posted in phase 8 of the boundary after the job ends. -/
  | jobCompletionPost (e : Fin 2)
  /-- AES_RX_LOCKED (R567). 192 correct frames lock a receiver. -/
  | aesRxLocked (r : Fin 4) (rate : Fin 5) (hz : Nat)
  /-- AES_RX_LOST (R567). Errors, silence or an out-of-range rate drop a receiver to NO_SIGNAL. -/
  | aesRxLost (r : Fin 4)
  /-- AES_CS_CHANGE (R569). A channel-status or user block is captured, checked and accepted. -/
  | aesCsChange (r : Fin 4) (b : Bool) (cs user : List Byte)
  /-- ASRC_SLIP (R570). A converter underruns or overruns and recentres its FIFO. -/
  | asrcSlip (tx : Bool) (i : Fin 4) (high : Bool)
  /-- AUDIO_RAMP_IN (R580). After 2 good beats a faded source ramps back in. -/
  | audioRampIn (source : Fin 16)
  /-- PACKET_OUT (R581). A packet-out stream sends an AAF or RTP packet at each due boundary. -/
  | packetOut (stream : Fin 8) (at_ : Nat)
  /-- PACKET_IN (R584). A frame at port M is matched to a packet-in stream and its samples placed in slots. -/
  | packetIn (at_ : Nat) (linkError : Option (Fin 8))
  /-- FEATURE_FRAME (R586). Every 80 beats each enabled spotter instance computes a feature frame and updates its paths. -/
  | featureFrame (i : Fin 2)
  /-- CLIP_RELEASE (R589). CLIP_RELEASE clears CLIP_LOCKED. -/
  | clipRelease (i : Fin 2)
  /-- PCIE_LINK_UP (R627). The PCIe link returns to DL_Active. -/
  | pcieLinkUp (gen : Fin 4) (width : Fin 4)
  /-- PCIE_LINK_DOWN (R627). Link loss or PERST# resets every function. -/
  | pcieLinkDown
  /-- HOST_WATCHDOG_EXPIRY (R601). No HOST_ALIVE write within WATCHDOG_BEATS makes the function absent. -/
  | hostWatchdogExpiry (f : Fin 8)
  /-- HOST_ALIVE (R601). Any write restarts the function's host watchdog. -/
  | hostAlive (f : Fin 8)
  /-- FLR_START (R626). Initiate FLR makes the function absent and silent within 8 µs. -/
  | flrStart (f : Fin 8)
  /-- FLR_CLEANUP (R626). At boundary w+1 queued writes, buffers, jobs, loads and offers of the function are released. -/
  | flrCleanup (f : Fin 8)
  /-- FLR_DONE (R626). At boundary w+9 the function returns to reset values and RESET_DONE sets. -/
  | flrDone (f : Fin 8)
  /-- RING_ENABLE (R605). Setting ENABLE zeroes the indexes and starts the ring, or stops it on a bad size. -/
  | ringEnable (f : Fin 8) (k : Fin 13) (control : Nat)
  /-- RING_DISABLE (R605). Clearing ENABLE stops the ring's SQ reads and CQ writes. -/
  | ringDisable (f : Fin 8) (k : Fin 13) (control : Nat)
  /-- RING_QUIESCED (R605). Every DMA of a disabled ring completes and QUIESCED sets. -/
  | ringQuiesced (f : Fin 8) (k : Fin 13)
  /-- SQ_TAIL_WRITE (R605). An SQ_TAIL write hands entries to the endpoint, or stops the ring when out of range. -/
  | sqTailWrite (f : Fin 8) (k : Fin 13) (v : Nat)
  /-- CQ_HEAD_WRITE (R605). A CQ_HEAD write frees completion entries, or stops the ring when it passes the tail. -/
  | cqHeadWrite (f : Fin 8) (k : Fin 13) (v : Nat)
  /-- SQ_ENTRY_TAKE (R607). The endpoint takes an SQ entry once CQ room is reserved for it. -/
  | sqEntryTake (f : Fin 8) (k : Fin 13) (entry : List Byte)
  /-- RX_FRAME_HANDOVER (R608). Port H writes a frame into the next receive buffer, or discards it. -/
  | rxFrameHandover (entry : List Byte) (at_ : Nat)
  /-- TX_FRAME (R612). A TX entry's frame is read whole and handed to port H's ingress or denied. -/
  | txFrame (f : Fin 8) (k : Fin 4) (data : List Byte) (poison : Bool) (at_ : Nat)
  /-- DRAIN_BUFFER_POST (R613). A BUFFER entry posts a 1 MiB host buffer for drain offers. -/
  | drainBufferPost (f : Fin 8)
  /-- TABLE_LOAD (R616). A LOAD entry starts a bulk load of Calico elements into a bank. -/
  | tableLoad (f : Fin 8) (entry : List Byte)
  /-- TABLE_LOAD_DONE (R616). A bulk load ends and its completion is written. -/
  | tableLoadDone
  /-- CQ_COALESCE_TIMEOUT (R606). Unconsumed entries waiting BEATS beats signal the ring's vector. -/
  | cqCoalesceTimeout (f : Fin 8) (k : Fin 13)
  /-- DMA_READ_FAILED (R617). A failed or poisoned read of an SQ entry or data stops the ring or fails the frame or load. -/
  | dmaReadFailed (f : Fin 8) (k : Fin 13) (data : Bool) (poisoned timeout : Bool)
  /-- REGISTER_WRITE (R625). A write to a BAR0 register without a row of its own is applied, or journalled when it cannot be carried out. -/
  | registerWrite (f : Fin 8) (offset : Nat) (data : List Byte) (poison : Bool)
  /-- RECOVERY_COMMIT (R628). COMMIT in RECOVERY_CONTROL has the ROM check the staged image. -/
  | recoveryCommit (length : Nat)
  /-- RECOVERY_USED (R628). An accepted recovery image is written to slot A and a warm restart begins. -/
  | recoveryUsed
  /-- CLEAR (R639). CLEAR clears the latches of the named sources. -/
  | clear (g : Fin 20) (tn : Fin 8) (mask : Nat)
  /-- UNMASK (R644). UNMASK clears the mask and notification count of the named sources. -/
  | unmask (g : Fin 20) (tn : Fin 8) (mask : Nat)
  /-- SPACING_EXPIRY (R643). SPACING ends and one notification of the deferred occurrences is sent. -/
  | spacingExpiry (src : Fin 640) (tn : Fin 8)
  /-- GPIO_LEVEL_CHANGE (R650). An input stable for DEBOUNCE_BEATS changes its LEVEL. -/
  | gpioLevelChange (i : Fin 16)
  /-- CHATTER_WINDOW_END (R651). At a chatter window's end the input is judged CHATTERING or not. -/
  | chatterWindowEnd (i : Fin 16)
  /-- GPIO_STUCK (R652). An input at 1 for STUCK_S seconds becomes STUCK. -/
  | gpioStuck (i : Fin 16)
  /-- SNAPSHOT_CAPTURE (R664). A commanded or automatic capture copies every counter as at the end of its beat. -/
  | snapshotCapture
  /-- SNAPSHOT_DONE (R665). The copy ends and the bank is shown at the next phase 7. -/
  | snapshotDone
  /-- WITHDRAWN_CLEAR (R682). WITHDRAWN_CLEAR clears GUARANTEES and the recorded cause. -/
  | withdrawnClear
  /-- FAN_EVALUATION (R711). Every 8,000 beats thermal control sets the fan level and judges fans. -/
  | fanEvaluation (tach : List (Nat × Nat))
  /-- TRAY_PRESENCE_CHANGE (R713). The fan tray is removed or inserted, debounced over 8 beats. -/
  | trayPresenceChange (present : Bool)
  /-- SENSOR_FAULT (R710). A sensor without a report for 8 beats enters FAULT. -/
  | sensorFault (sensor : Fin 8)
  /-- THERMAL_TRIP (R715). ENGINE_DIE at 125 °C writes the shutdown record and turns off every module. -/
  | thermalTrip
  /-- THERMAL_TRIP_RESTORE (R715). 600 s after a trip the modules restore output and a power-on reset follows. -/
  | thermalTripRestore
  /-- LED_TEST (R708). LED_TEST lights every LED in every colour in turn. -/
  | ledTest
  /-- LED_TEST_END (R708). The LED test ends after 8,000 beats. -/
  | ledTestEnd
  /-- PSU_POWER_FAIL_WARNING (R194). A module whose input is lost asserts its power-fail warning and reports WARNING with limit 0 while another module still carries load. -/
  | psuPowerFailWarning (bay : Fin 2)
  /-- PSU_FAILED (R191). A present module's output leaves regulation or its report stops, and it reports FAILED with limit 0. -/
  | psuFailed (bay : Fin 2)
  /-- PSU_INPUT_OUT_OF_RANGE (R191). A module's input leaves both the AC and DC ranges, its output turns off and it reports OUT_OF_RANGE. -/
  | psuInputOutOfRange (bay : Fin 2) (volts hz : Nat)
  /-- MAINS_RESTORED (R136). A module whose input was lost or out of range regains input, its output returns to regulation, and it reports its line state again. -/
  | mainsRestored (bay : Fin 2) (dc : Bool) (volts hz : Nat)
  /-- PSE_CONTROLLER_FAULT_CLEAR (R225). The PSE controller reports again for its ports, and ports held OFF with reason MODE leave that hold. -/
  | pseControllerFaultClear (ports : Nat)
  /-- SENSOR_REPORT_RESTORED (R710). A sensor in FAULT reports again and its STATE leaves FAULT by the other rules of R710. -/
  | sensorReportRestored (sensor : Fin 8)
  /-- PHY_RETRY (R264). Every 8,000 beats the K48 retries a PHY that stopped answering its management interface. -/
  | phyRetry (p : Fin 52) (answers : Bool)
  /-- PTP_SYNC_TRANSMIT (R51). At each Sync or Announce interval the boundary clock sends Sync and Announce messages on its master ports. -/
  | ptpSyncTransmit (announce : Bool)
  /-- PTP_DELAY_MESSAGE (R49). A Delay_Req, Delay_Resp or peer-delay message is sent or received and answered under the instance's delay mechanism, updating the mean path delay. -/
  | ptpDelayMessage (port : Fin 56) (delay : Nat)
  /-- NOTIFY_REQUEST (R83). A request with OP NOTIFY or the reserved OP 7 that reaches the dictionary from a master is answered TYPE_LENGTH. -/
  | notifyRequest (m : Fin 15) (r : Req)
  /-- MALFORMED_TLP (R633). An ECRC-failing or malformed TLP from the host is discarded under the PCIe specification and reported through AER without a journal entry. -/
  | malformedTlp (ecrc : Bool)
  /-- GPIO_SAMPLE (R649). At each eighth of a beat the supervisor samples every GPIO input's raw state XOR INVERT, giving the samples that debounce and chatter judge. -/
  | gpioSample (raw : Nat)
  /-- AES_RX_LOCKING (R567). A receiver in NO_SIGNAL sees transitions on its line and enters LOCKING. -/
  | aesRxLocking (r : Fin 4)
  /-- AES3_SUBFRAME_RECEIVED (R568). A receiver decodes a subframe, takes its sample by WORD_MODE, and replaces an invalid sample with the previous valid one, counting it. -/
  | aes3SubframeReceived (r : Fin 4) (b : Bool) (raw : BitVec 24) (validity parity biphase : Bool)
  /-- AES3_FRAME_TRANSMIT (R574). A transmitter sends one frame at its clock, with samples from its converter and the channel-status and user bits it builds. -/
  | aes3FrameTransmit (t : Fin 4) (take : Nat)
  /-- SAMPLE_SLOT (R576). At each of the six 48 kHz slots of a beat the matrix mixes the faded sources into every sink, applies gain and delay ramps, and reads and writes the delay lines. -/
  | sampleSlot (takes : List Nat) (misses : Nat)
deriving DecidableEq, Repr

end Sys2Proof
end

