-- ==== Sys2Proof/Decode.lean ====
section
/-! DEFINITION. Decoding.  The K48 is modelled as a block: it takes commands, and no row of spec/opcode_table.json gives a
command any bits, so no word spells one. -/

namespace Sys2Proof

/-- The command that a word of the table's bits spells: none, for no row gives bits. -/
def decodeTableWord (_nbits _w : Nat) : Option Instr := none

end Sys2Proof
end

