-- ==== Sys2Proof/Config.lean ====
section
/-! DEFINITION. What one unit fixes at manufacture, and the free values: quantities the manual leaves open.  Every
constant here is opaque: no proof can see a value of it, so a claim holds whatever it is. -/

namespace Sys2Proof.Config

open Sys2Proof

/-- Whether the fitting is K48-2, with two module bays (R1, R2).  Fixed at manufacture. -/
opaque twoBays : Bool

/-- SERIAL, 12 ASCII bytes as a number (R86). -/
opaque serial : Nat

/-- BOARD_ISSUE, ENGINE_STEPPING and MANUFACTURE_DATE (R86). -/
opaque boardIssue : Nat
opaque engineStepping : Nat
opaque manufactureDate : Nat

/-- BASE_MAC without its six least significant bits, which are 0 (R732). -/
opaque baseMacHigh : Nat

/-- Quadedy's PCI vendor ID, the same in every unit (R597); the manual does not give it. -/
opaque pciVendorId : Nat

/-- The bytes of image slots A (0) and B (1) as delivered (R150): slot, offset. -/
opaque imageByte : Nat → Nat → Byte

/-- DICTIONARY_VERSION (R86). -/
opaque dictionaryVersion : Nat

/-- Whether a byte string carries a valid Ed25519 signature: argument 0 selects Quadedy's image key, 1 the key of
VENDOR_AUTH; the bytes are the signed message followed by the signature (R142, R150).  The keys are not in the manual. -/
opaque signatureValid : Nat → List Byte → Bool

/-- The engine's generator (R10): a choice seeded from a configuration value and the beat number; the first argument
names the use, the last counts the draws of one beat.  The manual does not give the generator. -/
opaque generator : Nat → Nat → Nat → Nat → Nat

/-- A fresh free value each time the model's own counter moves (see the assumption log). -/
opaque freeValue : Nat → Nat

/-- Whether the Hann window of the spotter is the periodic one of 1,024 points; else the symmetric one (R586): not given. -/
opaque hannPeriodic : Bool

/-- The body of the DEFLATE stream that the compression engine chooses for a level and an input (R544): which of the legal
encodings is not given. -/
opaque deflateBody : Nat → List Byte → List Byte

/-- The search level less 1 at which an index export is compressed (R490): not given. -/
opaque exportLevel : Nat

/-- A sample rate converter's output for its input window and fractional position (R570): the filter is not given. -/
opaque asrcSample : Nat → List Int → Int

end Sys2Proof.Config
end

