-- ==== Sys2Proof/Machine/Bits.lean ====
section
/-! DEFINITION. Reading and building multi-byte values: most significant byte first in every format of the unit's own
(R17), least significant byte first on the PCIe side, and two's complement for I32 (R60). -/

namespace Sys2Proof.Machine

open Sys2Proof

/-- The value of bytes, most significant byte first (R17). -/
def beVal (bs : List Byte) : Nat := bs.foldl (fun a b => a * 256 + b.toNat) 0

/-- The value of bytes, least significant byte first (R17, PCIe side). -/
def leVal (bs : List Byte) : Nat := beVal bs.reverse

/-- `n` bytes of a value, least significant first. -/
def leBytes : Nat → Nat → List Byte
  | 0, _ => []
  | n + 1, v => byte v :: leBytes n (v / 256)

/-- `n` bytes of a value, most significant byte first (R17). -/
def beBytes (n v : Nat) : List Byte := (leBytes n v).reverse

/-- U8, U16, U32 and 64-bit items of a payload (R60, R646). -/
def u8 (v : Nat) : List Byte := beBytes 1 v
def u16 (v : Nat) : List Byte := beBytes 2 v
def u32 (v : Nat) : List Byte := beBytes 4 v
def u48 (v : Nat) : List Byte := beBytes 6 v
def u64 (v : Nat) : List Byte := beBytes 8 v

/-- `len` bits of `v` from bit `lo` upward; bit 0 is the least significant (R16). -/
def bits (v lo len : Nat) : Nat := v / 2 ^ lo % 2 ^ len

/-- Bit `k` of `v` (R16). -/
def bit (v k : Nat) : Bool := v.testBit k

/-- `v` with bits `lo` to `lo + len - 1` replaced by `x`. -/
def setBits (v lo len x : Nat) : Nat :=
  v - bits v lo len * 2 ^ lo + (x % 2 ^ len) * 2 ^ lo

/-- `v` with bit `k` set to `b`. -/
def setBit (v k : Nat) (b : Bool) : Nat := setBits v k 1 b.toNat

/-- The set of a list of small numbers as a 64-bit mask, bit k for member k (R646). -/
def maskOf (ks : List Nat) : Nat := ks.eraseDups.foldl (fun m k => m + 2 ^ k) 0

/-- The members of a mask below `n`, ascending. -/
def members (n m : Nat) : List Nat := (List.range n).filter (bit m)

/-- An I32 from its 32-bit encoding, two's complement (R60). -/
def toI32 (v : Nat) : Int :=
  if v % 4294967296 < 2147483648 then (v % 4294967296 : Nat) else (v % 4294967296 : Nat) - (4294967296 : Int)

/-- The 32-bit encoding of an I32, two's complement (R60). -/
def ofI32 (i : Int) : Nat := (i % 4294967296).toNat

/-- A value no lower than `lo` and no higher than `hi` (`lo` wins where they cross). -/
def clampI (lo hi x : Int) : Int := if x < lo then lo else if hi < x then hi else x

/-- Quotient rounded up. -/
def cdiv (a b : Nat) : Nat := (a + b - 1) / b

/-- Nearest integer to a / b, halves away from zero. -/
def rdiv (a b : Nat) : Nat := (2 * a + b) / (2 * b)

/-- Bytes `i` to `i + n - 1` of a frame, zeros beyond its end. -/
def slice (bs : List Byte) (i n : Nat) : List Byte :=
  let s := (bs.drop i).take n
  s ++ List.replicate (n - s.length) 0

/-- The big-endian value of `n` bytes from byte `i`. -/
def fieldAt (bs : List Byte) (i n : Nat) : Nat := beVal (slice bs i n)

/-- The bytes `i` onward replaced by `new`. -/
def patch (bs : List Byte) (i : Nat) (new : List Byte) : List Byte :=
  bs.take i ++ new ++ bs.drop (i + new.length)

/-- Element `i` of a list replaced by `f` of itself. -/
def modifyAt {α : Type} (f : α → α) : List α → Nat → List α
  | [], _ => []
  | x :: xs, 0 => f x :: xs
  | x :: xs, i + 1 => x :: modifyAt f xs i

/-- The last `n` elements of a list. -/
def lastN {α : Type} (n : Nat) (xs : List α) : List α := xs.drop (xs.length - n)

/-- The sum of `f` over a list. -/
def sumOf {α : Type} (f : α → Nat) (xs : List α) : Nat := xs.foldl (fun a x => a + f x) 0

/-- Insertion into a list that ascends under `key`, after equals. -/
def insertBy {α : Type} (key : α → Nat) (x : α) : List α → List α
  | [] => [x]
  | y :: ys => if key x < key y then x :: y :: ys else y :: insertBy key x ys

/-- A stable ascending sort under `key`. -/
def sortBy {α : Type} (key : α → Nat) (xs : List α) : List α := xs.foldl (fun acc x => insertBy key x acc) []

end Sys2Proof.Machine
end

