-- ==== Sys2Proof/Machine/Object.lean ====
section
/-! DEFINITION. What a dictionary object is: its place, type, access kind, default, range, clamp rule, owner kind and
visibility (R60, R63, R67, R72, R73).  One descriptor serves a run of records, and a run of subindexes of one meaning. -/

namespace Sys2Proof.Machine

open Sys2Proof

/-- Data types (R60). -/
inductive Ty where
  | u (bytes : Nat) | i32 | bool | enum8 | bits32 | octets (n : Nat) | time64 | rate64 | beat64
deriving DecidableEq, Repr, Inhabited

/-- The length of a type in bytes (R60). -/
def Ty.len : Ty → Nat
  | .u n => n
  | .i32 => 4
  | .bool => 1
  | .enum8 => 1
  | .bits32 => 4
  | .octets n => n
  | .time64 => 8
  | .rate64 => 8
  | .beat64 => 8

/-- Access kinds (R63). -/
inductive Access where
  | const | ro | rw | rwb | wo | cmd
deriving DecidableEq, Repr, Inhabited

/-- Owner kinds (R72). -/
inductive OwnerKind where
  | tn0 | bound | perTn | perMaster
deriving DecidableEq, Repr, Inhabited

/-- Visibility masks that differ from all five classes (R73). -/
inductive Visibility where
  | all | pfFw | pfCanFw
deriving DecidableEq, Repr, Inhabited

/-- Where a default comes from: one value, a value of the unit, or a rule of the defining chapter. -/
inductive Dflt where
  | const (v : Nat)
  | unit
  | accessUplink (access uplink : Nat)
  | perItem (vs : List Nat)
  | guarantee
  | poolMax
  | effectiveQuota
  | sourceConfig
  | pendingGate
deriving DecidableEq, Repr, Inhabited

/-- Legal values. -/
inductive Rng where
  | any
  | between (lo hi : Int)
  | stepped (lo hi step : Nat)
  | orZero (lo hi : Nat)
  | codes (cs : List Nat)
  | bits (mask : Nat)
  | only (acts : List Nat)
  | poolCount | queueLimit | alarm | evenStereo | step8
  | portOwner | vlanRanges | sourceConfig | blockConfig | eventBits | elem
deriving DecidableEq, Repr, Inhabited

/-- Clamp rules (R67).  `orZero` is "to nearest" with the values between 0 and the lower limit raised to it;
`perField` is a rule given field by field by the defining chapter. -/
inductive Clamp where
  | none | nearest | step | default | bits | noAction | orZero | perField
deriving DecidableEq, Repr, Inhabited

/-- A dictionary object, or a run of alike objects: items `lo` to `hi` at indexes `base + stride * i`, subindexes `sub`
to `sub + count - 1`. -/
structure Obj where
  base : Nat
  stride : Nat := 1
  lo : Nat := 0
  hi : Nat := 0
  hole : Option Nat := none
  sub : Nat
  count : Nat := 1
  ty : Ty
  acc : Access
  dflt : Dflt := .const 0
  rng : Rng := .any
  clamp : Clamp := .none
  own : OwnerKind := .tn0
  vis : Visibility := .all
deriving DecidableEq, Repr, Inhabited

/-- The length of an object's value in bytes. -/
def Obj.len (o : Obj) : Nat := o.ty.len

/-- The index of item `i` of a run. -/
def Obj.index (o : Obj) (i : Nat) : Nat := o.base + o.stride * i

/-- The key under which the store holds item `i`, subindex offset `k`, instance `t` (the tenancy of a PER_TN object, the
rank of a PER_MASTER object, otherwise 0). -/
def Obj.key (o : Obj) (i k t : Nat) : Nat := (t * 65536 + o.index i) * 256 + (o.sub + k)

/-- The item of a run that an index names. -/
def Obj.item? (o : Obj) (index : Nat) : Option Nat :=
  if index < o.base then none
  else
    let d := index - o.base
    if d % o.stride = 0 ∧ o.lo ≤ d / o.stride ∧ d / o.stride ≤ o.hi ∧ o.hole ≠ some (d / o.stride) then some (d / o.stride)
    else none

/-- Whether a subindex belongs to the object, and at what offset. -/
def Obj.sub? (o : Obj) (sub : Nat) : Option Nat :=
  if o.sub ≤ sub ∧ sub < o.sub + o.count then some (sub - o.sub) else none

/-- The counts of buffers of the pools B256 to B1M (R382). -/
def poolCount (k : Nat) : Nat := [8192, 2048, 512, 128, 32768, 61440].getD k 0

/-- The default guarantee of a requester in a pool (R387). -/
def defaultGuarantee (r k : Nat) : Nat :=
  match r with
  | 0 => [0, 0, 64, 0, 0, 57344].getD k 0
  | 1 => [0, 0, 32, 0, 4096, 512].getD k 0
  | 2 => [0, 0, 16, 0, 2048, 256].getD k 0
  | 3 => [2048, 128, 0, 0, 0, 0].getD k 0
  | 4 => [512, 128, 32, 8, 512, 64].getD k 0
  | 5 => [512, 128, 0, 16, 0, 0].getD k 0
  | 6 => [256, 0, 0, 16, 0, 0].getD k 0
  | 8 => [256, 64, 16, 8, 2048, 1024].getD k 0
  | _ => 0

/-- The Totals and the TN0 floors of the tenancy quotas, subindexes 0x10 to 0x1B (R170). -/
def quotaTotal (q : Nat) : Nat :=
  [16384, 8192, 4096, 16384, 262144, 65536, 8192, 4096, 4096, 196608, 57344, 384].getD q 0
def quotaFloor (q : Nat) : Nat := [1024, 512, 256, 1024, 8192, 4096, 512, 256, 256, 16384, 0, 32].getD q 0

/-- Level sources, as the chapters' event tables state (R635). -/
def levelSources : List Nat :=
  [22, 23, 38, 68, 69, 70, 71, 98, 100, 101, 102, 103, 108, 111, 250, 258, 288, 289, 292, 293, 294, 295, 296,
   320, 321, 322, 327, 328, 359, 360, 384, 394, 395, 397, 418, 419, 437, 438, 439, 440, 455, 457, 462, 463,
   480, 486, 487, 489, 490, 492, 493, 516, 519, 554, 560, 561, 562, 565, 566, 567, 584, 585, 586, 588, 591,
   624, 625, 629, 630, 631, 632]

/-- Whether a source is a level source. -/
def isLevel (src : Nat) : Bool := levelSources.contains src

/-- Whether a source carries ROUTE_TENANCY (R635): the chapters that route it "also to the tenancy"
(R186, R261, R303, R345, R376, R404, R436, R462, R496, R560, R592, R630, R672, and the note of spec/06 under R223). -/
def routesTenancy (src : Nat) : Bool :=
  (19 ≤ src && src ≤ 23) || src == 110 || (128 ≤ src && src ≤ 175) || (192 ≤ src && src ≤ 247)
  || (253 ≤ src && src ≤ 257) || src == 289 || src == 291 || (323 ≤ src && src ≤ 326) || src == 356 || src == 357
  || (385 ≤ src && src ≤ 389) || src == 395 || src == 396 || src == 416 || (418 ≤ src && src ≤ 420)
  || (432 ≤ src && src ≤ 435) || src == 438 || src == 439 || (453 ≤ src && src ≤ 464) || (512 ≤ src && src ≤ 515)
  || src == 517 || src == 560 || src == 561 || (578 ≤ src && src ≤ 585) || (588 ≤ src && src ≤ 590)
  || src == 627 || src == 628

/-- Whether a source is named, not reserved (R726). -/
def namedSource (src : Nat) : Bool :=
  src ≤ 25 || (32 ≤ src && src ≤ 41) || (64 ≤ src && src ≤ 79) || (96 ≤ src && src ≤ 111) || (128 ≤ src && src ≤ 175)
  || (192 ≤ src && src ≤ 258) || (288 ≤ src && src ≤ 297) || (320 ≤ src && src ≤ 328) || (352 ≤ src && src ≤ 360)
  || (384 ≤ src && src ≤ 397) || src == 416 || (418 ≤ src && src ≤ 421) || (432 ≤ src && src ≤ 440)
  || (448 ≤ src && src ≤ 464) || (480 ≤ src && src ≤ 494) || (512 ≤ src && src ≤ 519) || (544 ≤ src && src ≤ 567)
  || (576 ≤ src && src ≤ 593) || (608 ≤ src && src ≤ 632)

/-- The mask of the named sources of a group (R669). -/
def groupMask (g : Nat) : Nat := maskOf ((List.range 32).filter fun k => namedSource (32 * g + k))

/-- The default SOURCE_CONFIG of a source (R669): ROUTES in byte 0, ROUTE_TENANCY and LEVEL in byte 4. -/
def defaultSourceConfig (src : Nat) : Nat :=
  if namedSource src then
    (if src = 25 then 0x0D else if routesTenancy src then 0x07 else 0x05) * 2 ^ 56
      + ((routesTenancy src).toNat * 0x80 + (isLevel src).toNat * 0x40) * 2 ^ 24
  else 0

/-- BASE_MAC + k (R732). -/
def baseMac (k : Nat) : Nat :=
  let high := Config.baseMacHigh % 2 ^ 42
  setBits high 34 1 0 * 64 + k % 64

/-- The unit's own constants of the identity record and of ROUTER_MAC (R86, R342, R597). -/
def unitConst (base sub t : Nat) : Nat :=
  match base, sub with
  | 0x0000, 0x04 => if Config.twoBays then 2 else 1
  | 0x0000, 0x05 => Config.serial
  | 0x0000, 0x06 => Config.boardIssue
  | 0x0000, 0x07 => Config.engineStepping
  | 0x0000, 0x08 => baseMac 0
  | 0x0000, 0x0A => Config.manufactureDate
  | 0x0C10, 0x04 => baseMac (16 + t)
  | 0x1600, 0x01 => Config.pciVendorId
  | _, _ => 0

/-- The default of item `i`, subindex offset `k`, instance `t` of an object. -/
def Obj.defaultAt (o : Obj) (i k t : Nat) : Nat :=
  match o.dflt with
  | .const v => v
  | .unit => unitConst o.base o.sub t
  | .accessUplink a u => if 48 ≤ i ∧ i ≤ 51 then u else a
  | .perItem vs => vs.getD i 0
  | .guarantee => defaultGuarantee i k
  | .poolMax => if i = 0 ∧ k = 5 then 57344 else poolCount k
  | .effectiveQuota => if i = 0 then quotaTotal k else 0
  | .sourceConfig => defaultSourceConfig (32 * i + k)
  | .pendingGate => if i % 2 = 0 ∧ k = 0 then 0xFF00000000000000 + 1000000 else 0

end Sys2Proof.Machine
end

