-- ==== Sys2Proof/Machine/Catalogue.lean ====
section
/-! DEFINITION. The catalogue of dictionary objects: one named descriptor per row of the object tables of
spec/01 to spec/21 (R53, R86, R122, R160, R184, R219 to R221, R258 to R260, R300 to R302, R342 to R344, R372 to R375,
R401, R402, R432 to R435, R460, R461, R493, R495, R529 to R531, R559, R590, R591, R629, R669 to R671, R687, R719)
and per table array of R725.  A run of records is one descriptor. -/
namespace Sys2Proof.Machine

/-! Objects of spec/01_beat.md. -/
def Obj.BEAT_NUMBER : Obj := { base := 0x0100, sub := 0x01, ty := .beat64, acc := .ro }
def Obj.BEAT_STATE : Obj := { base := 0x0100, sub := 0x02, ty := .bits32, acc := .ro, dflt := .const 0x2 }
def Obj.BEAT_PTP_TIME : Obj := { base := 0x0100, sub := 0x03, ty := .time64, acc := .ro }
def Obj.BEAT_LAST_CYCLES : Obj := { base := 0x0100, sub := 0x04, ty := .u 4, acc := .ro }
def Obj.BEAT_SLEW_REMAINING : Obj := { base := 0x0100, sub := 0x05, ty := .u 8, acc := .ro }
def Obj.ELAPSED_BEATS : Obj := { base := 0x0100, sub := 0x06, ty := .u 8, acc := .ro }
def Obj.FREE_RUN_ORIGIN : Obj := { base := 0x0101, sub := 0x01, ty := .beat64, acc := .rw, rng := .between (0) 4611686018427387904, clamp := .nearest }
def Obj.ORIGIN_STROBE_INPUT : Obj := { base := 0x0101, sub := 0x02, ty := .enum8, acc := .rw, dflt := .const 0xFF, rng := .codes [0,1,2,3,4,5,6,7,8,9,10,11,12,13,14,15,255], clamp := .default }
def Obj.ARM_ORIGIN : Obj := { base := 0x0101, sub := 0x03, ty := .bool, acc := .cmd, rng := .only [1], clamp := .noAction }
def Obj.PTP_DOMAIN : Obj := { base := 0x0102, sub := 0x01, ty := .u 1, acc := .rw, rng := .between (0) 127, clamp := .nearest }
def Obj.PTP_SLAVE_CANDIDATES : Obj := { base := 0x0102, sub := 0x02, ty := .bits32, acc := .rw, dflt := .const 0xF, rng := .bits 0xF, clamp := .bits }
def Obj.PTP_DELAY_MECHANISM : Obj := { base := 0x0102, sub := 0x03, ty := .enum8, acc := .rw, rng := .codes [0,1], clamp := .default }
def Obj.PTP_TRANSPORT : Obj := { base := 0x0102, sub := 0x04, ty := .enum8, acc := .rw, rng := .codes [0,1,2], clamp := .default }
def Obj.PTP_LOG_SYNC_INTERVAL : Obj := { base := 0x0102, sub := 0x05, ty := .i32, acc := .rw, dflt := .const 0xFFFFFFFD, rng := .between (-7) 0, clamp := .nearest }
def Obj.PTP_ONE_STEP_UPLINK : Obj := { base := 0x0102, sub := 0x06, ty := .bool, acc := .rw, dflt := .const 0x1, rng := .between 0 1, clamp := .nearest }
def Obj.PTP_MASTER_PORTS : Obj := { base := 0x0102, sub := 0x07, ty := .octets 8, acc := .rw, dflt := .const 0xFFFFFFFFFFFF, rng := .bits 0xFFFFFFFFFFFF, clamp := .bits }
def Obj.PTP_LOCK_THRESHOLD_NS : Obj := { base := 0x0102, sub := 0x08, ty := .u 4, acc := .rw, dflt := .const 0x1F4, rng := .between (50) 10000, clamp := .nearest }
def Obj.PTP_UNLOCK_THRESHOLD_NS : Obj := { base := 0x0102, sub := 0x09, ty := .u 4, acc := .rw, dflt := .const 0x7D0, rng := .between (100) 100000, clamp := .nearest }
def Obj.PTP_SLAVE_PORT : Obj := { base := 0x0103, sub := 0x01, ty := .enum8, acc := .ro, dflt := .const 0xFF }
def Obj.PTP_OFFSET_NS : Obj := { base := 0x0103, sub := 0x02, ty := .i32, acc := .ro }
def Obj.PTP_MEAN_PATH_DELAY_NS : Obj := { base := 0x0103, sub := 0x03, ty := .u 4, acc := .ro }
def Obj.PTP_PARENT_IDENTITY : Obj := { base := 0x0103, sub := 0x04, ty := .octets 8, acc := .ro }
def Obj.PTP_STEPS_REMOVED : Obj := { base := 0x0103, sub := 0x05, ty := .u 2, acc := .ro }

/-! Objects of spec/02_dictionary.md. -/
def Obj.VENDOR : Obj := { base := 0x0000, sub := 0x01, ty := .octets 8, acc := .const, dflt := .const 0x5155414445445920 }
def Obj.PRODUCT : Obj := { base := 0x0000, sub := 0x02, ty := .octets 8, acc := .const, dflt := .const 0x434C45484F524E20 }
def Obj.MODEL : Obj := { base := 0x0000, sub := 0x03, ty := .octets 4, acc := .const, dflt := .const 0x4B343820 }
def Obj.FITTING : Obj := { base := 0x0000, sub := 0x04, ty := .enum8, acc := .const, dflt := .unit }
def Obj.SERIAL : Obj := { base := 0x0000, sub := 0x05, ty := .octets 12, acc := .const, dflt := .unit }
def Obj.BOARD_ISSUE : Obj := { base := 0x0000, sub := 0x06, ty := .u 2, acc := .const, dflt := .unit }
def Obj.ENGINE_STEPPING : Obj := { base := 0x0000, sub := 0x07, ty := .u 2, acc := .const, dflt := .unit }
def Obj.BASE_MAC : Obj := { base := 0x0000, sub := 0x08, ty := .octets 6, acc := .const, dflt := .unit }
def Obj.MAC_COUNT : Obj := { base := 0x0000, sub := 0x09, ty := .u 2, acc := .const, dflt := .const 0x40 }
def Obj.MANUFACTURE_DATE : Obj := { base := 0x0000, sub := 0x0A, ty := .u 4, acc := .const, dflt := .unit }
def Obj.RUNNING_IMAGE : Obj := { base := 0x0001, sub := 0x01, ty := .enum8, acc := .ro }
def Obj.IMAGE_A_VERSION : Obj := { base := 0x0001, sub := 0x02, ty := .u 4, acc := .ro }
def Obj.IMAGE_B_VERSION : Obj := { base := 0x0001, sub := 0x03, ty := .u 4, acc := .ro }
def Obj.DICTIONARY_VERSION : Obj := { base := 0x0001, sub := 0x04, ty := .u 4, acc := .ro }
def Obj.QUEUE_DEPTH_00D0 : Obj := { base := 0x00D0, sub := 0x01, ty := .u 2, acc := .ro, vis := .pfFw }
def Obj.LAST_COMMIT_COUNT : Obj := { base := 0x00D0, sub := 0x02, ty := .u 1, acc := .ro, vis := .pfFw }
def Obj.CARRIED_TOTAL : Obj := { base := 0x00D0, sub := 0x03, ty := .u 8, acc := .ro, vis := .pfFw }
def Obj.SUPERSEDED_TOTAL : Obj := { base := 0x00D0, sub := 0x04, ty := .u 8, acc := .ro, vis := .pfFw }
def Obj.DUPLICATE_TOTAL : Obj := { base := 0x00D0, sub := 0x05, ty := .u 8, acc := .ro, vis := .pfFw }
def Obj.RESOURCE_TOTAL : Obj := { base := 0x00D0, sub := 0x06, ty := .u 8, acc := .ro, vis := .pfFw }
def Obj.MY_RANK : Obj := { base := 0x00D1, sub := 0x01, ty := .u 1, acc := .ro, own := .perMaster }
def Obj.MY_TENANCY : Obj := { base := 0x00D1, sub := 0x02, ty := .u 1, acc := .ro, own := .perMaster }
def Obj.MY_PENDING : Obj := { base := 0x00D1, sub := 0x03, ty := .u 2, acc := .ro, own := .perMaster }
def Obj.MY_CACHE_FLUSH : Obj := { base := 0x00D1, sub := 0x04, ty := .bool, acc := .cmd, rng := .only [1], clamp := .noAction, own := .perMaster }
def Obj.CLAMP_TOTAL : Obj := { base := 0x00E0, sub := 0x01, ty := .u 4, acc := .ro }
def Obj.CLAMP_RING : Obj := { base := 0x00E0, sub := 0x02, ty := .octets 6144, acc := .ro }
def Obj.CLAMP_CLEAR : Obj := { base := 0x00E0, sub := 0x03, ty := .bool, acc := .cmd, rng := .only [1], clamp := .noAction, vis := .pfFw }

/-! Objects of spec/03_dictionary_wire.md. -/
def Obj.ENABLE_0780 : Obj := { base := 0x0780, sub := 0x01, lo := 0, hi := 1, ty := .bool, acc := .rw, dflt := .const 0x1, rng := .between 0 1, clamp := .nearest }
def Obj.NODE : Obj := { base := 0x0780, sub := 0x02, lo := 0, hi := 1, ty := .u 1, acc := .rw, dflt := .const 0x1A, rng := .between (1) 31, clamp := .nearest }
def Obj.NOMINAL_RATE : Obj := { base := 0x0780, sub := 0x03, lo := 0, hi := 1, ty := .enum8, acc := .rw, dflt := .const 0x2, rng := .codes [0,1,2,3], clamp := .default }
def Obj.DATA_RATE : Obj := { base := 0x0780, sub := 0x04, lo := 0, hi := 1, ty := .enum8, acc := .rw, dflt := .const 0x2, rng := .codes [1,2,3,4], clamp := .default }
def Obj.NOMINAL_SAMPLE_POINT : Obj := { base := 0x0780, sub := 0x05, lo := 0, hi := 1, ty := .u 1, acc := .rw, dflt := .const 0x50, rng := .between (60) 90, clamp := .nearest }
def Obj.DATA_SAMPLE_POINT : Obj := { base := 0x0780, sub := 0x06, lo := 0, hi := 1, ty := .u 1, acc := .rw, dflt := .const 0x4B, rng := .between (60) 90, clamp := .nearest }
def Obj.TERMINATION : Obj := { base := 0x0780, sub := 0x07, lo := 0, hi := 1, ty := .bool, acc := .rw, rng := .between 0 1, clamp := .nearest }
def Obj.ROLLCALL_INTERVAL : Obj := { base := 0x0780, sub := 0x08, lo := 0, hi := 1, ty := .u 4, acc := .rw, dflt := .const 0x1F40, rng := .between (800) 80000, clamp := .nearest }
def Obj.ROLLCALL_ENABLE : Obj := { base := 0x0780, sub := 0x09, lo := 0, hi := 1, ty := .bool, acc := .rw, dflt := .const 0x1, rng := .between 0 1, clamp := .nearest }
def Obj.STATE_0782 : Obj := { base := 0x0782, sub := 0x01, lo := 0, hi := 1, ty := .enum8, acc := .ro, dflt := .const 0x3 }
def Obj.TEC : Obj := { base := 0x0782, sub := 0x02, lo := 0, hi := 1, ty := .u 1, acc := .ro }
def Obj.REC : Obj := { base := 0x0782, sub := 0x03, lo := 0, hi := 1, ty := .u 1, acc := .ro }
def Obj.TX_WITHDRAWN : Obj := { base := 0x0782, sub := 0x04, lo := 0, hi := 1, ty := .u 8, acc := .ro }
def Obj.TX_TOO_LATE : Obj := { base := 0x0782, sub := 0x05, lo := 0, hi := 1, ty := .u 8, acc := .ro }
def Obj.RX_IGNORED : Obj := { base := 0x0782, sub := 0x06, lo := 0, hi := 1, ty := .u 8, acc := .ro }
def Obj.NOTIFY_DISCARDED : Obj := { base := 0x0782, sub := 0x07, lo := 0, hi := 1, ty := .u 8, acc := .ro }
def Obj.REQ_DROPPED : Obj := { base := 0x0782, sub := 0x08, lo := 0, hi := 1, ty := .u 8, acc := .ro }
def Obj.NODES_PRESENT : Obj := { base := 0x0782, sub := 0x09, lo := 0, hi := 1, ty := .bits32, acc := .ro }
def Obj.NODE_TABLE : Obj := { base := 0x0784, sub := 0x01, lo := 0, hi := 1, ty := .octets 256, acc := .ro }
def Obj.ENABLE_0790 : Obj := { base := 0x0790, sub := 0x01, lo := 0, hi := 3, ty := .bool, acc := .rw, rng := .between 0 1, clamp := .nearest, vis := .pfFw }
def Obj.KEY : Obj := { base := 0x0790, sub := 0x02, lo := 0, hi := 3, ty := .octets 32, acc := .wo, vis := .pfFw }
def Obj.KEY_EPOCH : Obj := { base := 0x0790, sub := 0x03, lo := 0, hi := 3, ty := .u 2, acc := .ro, vis := .pfFw }
def Obj.ALLOWED_PORTS : Obj := { base := 0x0790, sub := 0x04, lo := 0, hi := 3, ty := .octets 8, acc := .rw, dflt := .const 0xF000000000000, rng := .bits 0xFFFFFFFFFFFFF, clamp := .bits, vis := .pfFw }
def Obj.VID : Obj := { base := 0x0790, sub := 0x05, lo := 0, hi := 3, ty := .u 2, acc := .rw, rng := .between (0) 4094, clamp := .nearest, vis := .pfFw }
def Obj.PEER_MAC : Obj := { base := 0x0790, sub := 0x06, lo := 0, hi := 3, ty := .octets 6, acc := .rw, vis := .pfFw }
def Obj.RX_SEQ_HIGH : Obj := { base := 0x0790, sub := 0x07, lo := 0, hi := 3, ty := .u 4, acc := .ro, vis := .pfFw }
def Obj.TX_SEQ : Obj := { base := 0x0790, sub := 0x08, lo := 0, hi := 3, ty := .u 4, acc := .ro, vis := .pfFw }
def Obj.AUTH_FAIL_COUNT : Obj := { base := 0x0790, sub := 0x09, lo := 0, hi := 3, ty := .u 8, acc := .ro, vis := .pfFw }
def Obj.DISCARD_COUNT : Obj := { base := 0x0790, sub := 0x0A, lo := 0, hi := 3, ty := .u 8, acc := .ro, vis := .pfFw }

/-! Objects of spec/04_modes_lifecycle.md. -/
def Obj.LC_STATE : Obj := { base := 0x0010, sub := 0x01, ty := .enum8, acc := .ro, vis := .pfCanFw }
def Obj.LC_TRANSITION_COUNT : Obj := { base := 0x0010, sub := 0x02, ty := .u 4, acc := .ro, vis := .pfCanFw }
def Obj.LC_PENDING : Obj := { base := 0x0010, sub := 0x03, ty := .enum8, acc := .ro, dflt := .const 0xFF, vis := .pfCanFw }
def Obj.LC_COMMAND : Obj := { base := 0x0011, sub := 0x01, ty := .enum8, acc := .cmd, dflt := .const 0xFF, rng := .codes [1,2,3,255], clamp := .default, vis := .pfCanFw }
def Obj.LC_CONFIRM : Obj := { base := 0x0011, sub := 0x02, ty := .u 4, acc := .wo, vis := .pfCanFw }
def Obj.LC_CHALLENGE : Obj := { base := 0x0011, sub := 0x03, ty := .u 4, acc := .ro, vis := .pfCanFw }
def Obj.VENDOR_AUTH : Obj := { base := 0x0011, sub := 0x04, ty := .octets 64, acc := .wo, vis := .pfCanFw }
def Obj.LAST_RESET : Obj := { base := 0x0020, sub := 0x01, ty := .enum8, acc := .ro }
def Obj.RESTART_COUNT : Obj := { base := 0x0020, sub := 0x02, ty := .u 4, acc := .ro }
def Obj.RUN_START_BEAT : Obj := { base := 0x0020, sub := 0x03, ty := .beat64, acc := .ro }
def Obj.BOOT_PREFERENCE : Obj := { base := 0x0030, sub := 0x01, ty := .enum8, acc := .rw, rng := .codes [0, 1], clamp := .default, vis := .pfCanFw }
def Obj.TRIAL : Obj := { base := 0x0030, sub := 0x02, ty := .bool, acc := .ro, vis := .pfCanFw }
def Obj.TRIAL_WINDOW : Obj := { base := 0x0030, sub := 0x03, ty := .u 4, acc := .rw, dflt := .const 0x75300, rng := .between (80000) 4800000, clamp := .nearest, vis := .pfCanFw }
def Obj.IMAGE_CONFIRM : Obj := { base := 0x0030, sub := 0x04, ty := .bool, acc := .cmd, rng := .only [1], clamp := .noAction, vis := .pfCanFw }
def Obj.MIN_SECURITY_VERSION : Obj := { base := 0x0030, sub := 0x05, ty := .u 4, acc := .ro, vis := .pfCanFw }
def Obj.IMAGE_WRITE_OFFSET : Obj := { base := 0x0030, sub := 0x06, ty := .u 1, acc := .rw, rng := .between (0) 31, clamp := .nearest, vis := .pfCanFw }
def Obj.IMAGE_BLOCK : Obj := { base := 0x0030, sub := 0x07, ty := .octets 1048576, acc := .wo, vis := .pfCanFw }
def Obj.IMAGE_ACTIVATE : Obj := { base := 0x0030, sub := 0x08, ty := .enum8, acc := .cmd, rng := .codes [0,1,2], clamp := .default, vis := .pfCanFw }
def Obj.IMAGE_STATUS : Obj := { base := 0x0030, sub := 0x09, ty := .enum8, acc := .ro, vis := .pfCanFw }
def Obj.STORE : Obj := { base := 0x0038, sub := 0x01, ty := .bool, acc := .cmd, rng := .only [1], clamp := .noAction }
def Obj.STORED_GENERATION : Obj := { base := 0x0038, sub := 0x02, ty := .u 4, acc := .ro }
def Obj.STORED_STATUS : Obj := { base := 0x0038, sub := 0x03, ty := .enum8, acc := .ro }
def Obj.LOADED_FROM : Obj := { base := 0x0038, sub := 0x04, ty := .enum8, acc := .ro }
def Obj.STORED_DIRTY : Obj := { base := 0x0038, sub := 0x06, ty := .bool, acc := .ro }
def Obj.MODE_REQUEST : Obj := { base := 0x0110, sub := 0x01, ty := .enum8, acc := .cmd, dflt := .const 0xFF, rng := .codes [1,2,5,6,10,255], clamp := .default }
def Obj.PRESERVE_KEEP : Obj := { base := 0x0110, sub := 0x02, ty := .bool, acc := .rw, dflt := .const 0x1, rng := .between 0 1, clamp := .nearest }
def Obj.AUTO_SERVICE : Obj := { base := 0x0110, sub := 0x03, ty := .bool, acc := .rw, dflt := .const 0x1, rng := .between 0 1, clamp := .nearest }
def Obj.WARM_RESTART : Obj := { base := 0x0110, sub := 0x04, ty := .bool, acc := .cmd, rng := .only [1], clamp := .noAction }
def Obj.WAKE_SOURCES : Obj := { base := 0x0110, sub := 0x05, ty := .bits32, acc := .rw, dflt := .const 0x13, rng := .bits 0x1F, clamp := .perField }
def Obj.WAKE_GPIO_MASK : Obj := { base := 0x0110, sub := 0x06, ty := .bits32, acc := .rw, rng := .bits 0xFFFF, clamp := .bits }
def Obj.WAKE_LINK_PORTS : Obj := { base := 0x0110, sub := 0x07, ty := .octets 8, acc := .rw, dflt := .const 0xF000000000000, rng := .bits 0xFFFFFFFFFFFFF, clamp := .bits }
def Obj.MODE : Obj := { base := 0x0111, sub := 0x01, ty := .enum8, acc := .ro }
def Obj.MODE_SINCE : Obj := { base := 0x0111, sub := 0x02, ty := .beat64, acc := .ro }
def Obj.MODE_CAUSES : Obj := { base := 0x0111, sub := 0x03, ty := .bits32, acc := .ro }
def Obj.DORMANT_DEFERRED : Obj := { base := 0x0111, sub := 0x05, ty := .bool, acc := .ro }
def Obj.LAST_WAKE_SOURCE : Obj := { base := 0x0111, sub := 0x06, ty := .enum8, acc := .ro, dflt := .const 0xFF }
def Obj.EARLY_POE_PORTS : Obj := { base := 0x0112, sub := 0x01, ty := .octets 8, acc := .rw, rng := .bits 0xFFFFFFFFFFFF, clamp := .bits }

/-! Objects of spec/05_tenancies.md. -/
def Obj.TN_ACTIVE : Obj := { base := 0x1100, sub := 0x01, ty := .bits32, acc := .ro, dflt := .const 0x1, vis := .pfCanFw }
def Obj.PORT_OWNER : Obj := { base := 0x1100, sub := 0x02, ty := .octets 48, acc := .rw, rng := .portOwner, clamp := .perField, vis := .pfCanFw }
def Obj.SESSION_BINDING : Obj := { base := 0x1100, sub := 0x03, ty := .octets 4, acc := .ro, vis := .pfCanFw }
def Obj.QUOTA_SHORT : Obj := { base := 0x1100, sub := 0x04, ty := .bits32, acc := .ro, vis := .pfCanFw }
def Obj.OVER_QUOTA : Obj := { base := 0x1100, sub := 0x05, ty := .bits32, acc := .ro, vis := .pfCanFw }
def Obj.TN_WINDOW : Obj := { base := 0x1101, sub := 0x01, ty := .u 1, acc := .rw, rng := .between (0) 7, clamp := .nearest, own := .perMaster, vis := .pfFw }

/-! Objects of spec/06_power_poe.md. -/
def Obj.STATE_0200 : Obj := { base := 0x0200, sub := 0x01, lo := 0, hi := 1, ty := .enum8, acc := .ro }
def Obj.INPUT_KIND : Obj := { base := 0x0200, sub := 0x02, lo := 0, hi := 1, ty := .enum8, acc := .ro, dflt := .const 0xFF }
def Obj.INPUT_VOLTS : Obj := { base := 0x0200, sub := 0x03, lo := 0, hi := 1, ty := .u 2, acc := .ro }
def Obj.INPUT_HZ : Obj := { base := 0x0200, sub := 0x04, lo := 0, hi := 1, ty := .u 2, acc := .ro }
def Obj.LIMIT : Obj := { base := 0x0200, sub := 0x05, lo := 0, hi := 1, ty := .u 2, acc := .ro }
def Obj.OUTPUT : Obj := { base := 0x0200, sub := 0x06, lo := 0, hi := 1, ty := .u 2, acc := .ro }
def Obj.INLET_TEMP : Obj := { base := 0x0200, sub := 0x07, lo := 0, hi := 1, ty := .i32, acc := .ro }
def Obj.MODULE_SERIAL : Obj := { base := 0x0200, sub := 0x08, lo := 0, hi := 1, ty := .octets 12, acc := .ro }
def Obj.BUDGET_MODE : Obj := { base := 0x0210, sub := 0x01, ty := .enum8, acc := .rw, rng := .codes [0, 1], clamp := .default }
def Obj.POE_BUDGET_CAP : Obj := { base := 0x0210, sub := 0x02, ty := .u 2, acc := .rw, dflt := .const 0x72D8, rng := .between (0) 29400, clamp := .nearest }
def Obj.RESTORE_HOLD : Obj := { base := 0x0210, sub := 0x03, ty := .u 4, acc := .rw, dflt := .const 0x1F40, rng := .between (800) 480000, clamp := .nearest }
def Obj.ADMIT_PER_BEAT : Obj := { base := 0x0210, sub := 0x04, ty := .u 1, acc := .rw, dflt := .const 0x4, rng := .between (1) 8, clamp := .nearest }
def Obj.TOTAL : Obj := { base := 0x0211, sub := 0x01, ty := .u 4, acc := .ro }
def Obj.SYSTEM_RESERVE : Obj := { base := 0x0211, sub := 0x02, ty := .u 2, acc := .const, dflt := .const 0xA28 }
def Obj.POOL : Obj := { base := 0x0211, sub := 0x03, ty := .u 4, acc := .ro }
def Obj.POE_GRANTED : Obj := { base := 0x0211, sub := 0x04, ty := .u 4, acc := .ro }
def Obj.SILICON_GRANTED : Obj := { base := 0x0211, sub := 0x05, ty := .u 4, acc := .ro }
def Obj.CLAIMS : Obj := { base := 0x0211, sub := 0x06, ty := .u 4, acc := .ro }
def Obj.SHED_PORTS : Obj := { base := 0x0211, sub := 0x07, ty := .octets 8, acc := .ro }
def Obj.SHED_TOTAL : Obj := { base := 0x0211, sub := 0x08, ty := .u 8, acc := .ro }
def Obj.LAST_POOL_FALL : Obj := { base := 0x0211, sub := 0x09, ty := .beat64, acc := .ro }
def Obj.SILICON_TOKENS : Obj := { base := 0x0211, sub := 0x0A, ty := .octets 32, acc := .ro }
def Obj.ENABLE_0300 : Obj := { base := 0x0300, sub := 0x01, lo := 0, hi := 47, ty := .bool, acc := .rw, dflt := .const 0x1, rng := .between 0 1, clamp := .nearest, own := .bound }
def Obj.PRIORITY_0300 : Obj := { base := 0x0300, sub := 0x02, lo := 0, hi := 47, ty := .enum8, acc := .rw, dflt := .const 0x2, rng := .codes [0, 1, 2], clamp := .default }
def Obj.POLICY : Obj := { base := 0x0300, sub := 0x03, lo := 0, hi := 47, ty := .enum8, acc := .rw, rng := .codes [0, 1], clamp := .default, own := .bound }
def Obj.MEASURED_MARGIN : Obj := { base := 0x0300, sub := 0x04, lo := 0, hi := 47, ty := .u 2, acc := .rw, dflt := .const 0x1E, rng := .between (0) 300, clamp := .nearest, own := .bound }
def Obj.CLASS_LIMIT : Obj := { base := 0x0300, sub := 0x05, lo := 0, hi := 47, ty := .u 1, acc := .rw, dflt := .const 0x8, rng := .between (1) 8, clamp := .nearest, own := .bound }
def Obj.LLDP_POWER : Obj := { base := 0x0300, sub := 0x06, lo := 0, hi := 47, ty := .bool, acc := .rw, dflt := .const 0x1, rng := .between 0 1, clamp := .nearest, own := .bound }
def Obj.STATE_0340 : Obj := { base := 0x0340, sub := 0x01, lo := 0, hi := 47, ty := .enum8, acc := .ro, own := .bound }
def Obj.REASON : Obj := { base := 0x0340, sub := 0x02, lo := 0, hi := 47, ty := .enum8, acc := .ro, dflt := .const 0x2, own := .bound }
def Obj.CLASS : Obj := { base := 0x0340, sub := 0x03, lo := 0, hi := 47, ty := .u 1, acc := .ro, dflt := .const 0xFF, own := .bound }
def Obj.PD_TYPE : Obj := { base := 0x0340, sub := 0x04, lo := 0, hi := 47, ty := .enum8, acc := .ro, own := .bound }
def Obj.GRANT : Obj := { base := 0x0340, sub := 0x05, lo := 0, hi := 47, ty := .u 2, acc := .ro, own := .bound }
def Obj.MEASURED : Obj := { base := 0x0340, sub := 0x06, lo := 0, hi := 47, ty := .u 2, acc := .ro, own := .bound }
def Obj.AGREED : Obj := { base := 0x0340, sub := 0x07, lo := 0, hi := 47, ty := .u 2, acc := .ro, own := .bound }
def Obj.POWER_ON_BEAT : Obj := { base := 0x0340, sub := 0x08, lo := 0, hi := 47, ty := .beat64, acc := .ro, own := .bound }
def Obj.CLAIM : Obj := { base := 0x0340, sub := 0x09, lo := 0, hi := 47, ty := .u 2, acc := .ro, own := .bound }
def Obj.FAULTS_IN_WINDOW : Obj := { base := 0x0340, sub := 0x0A, lo := 0, hi := 47, ty := .u 1, acc := .ro, own := .bound }
def Obj.BACKOFF_LEVEL : Obj := { base := 0x0340, sub := 0x0B, lo := 0, hi := 47, ty := .u 1, acc := .ro, own := .bound }
def Obj.HOLD_REMAINING : Obj := { base := 0x0340, sub := 0x0C, lo := 0, hi := 47, ty := .u 4, acc := .ro, own := .bound }

/-! Objects of spec/07_ports_discovery.md. -/
def Obj.ENABLE_0400 : Obj := { base := 0x0400, sub := 0x01, lo := 0, hi := 51, stride := 16, ty := .bool, acc := .rw, dflt := .const 0x1, rng := .between 0 1, clamp := .nearest, own := .bound }
def Obj.ADVERTISE : Obj := { base := 0x0400, sub := 0x02, lo := 0, hi := 47, stride := 16, ty := .bits32, acc := .rw, dflt := .const 0xF, rng := .bits 0xF, clamp := .perField, own := .bound }
def Obj.SPEED : Obj := { base := 0x0400, sub := 0x03, lo := 48, hi := 51, stride := 16, ty := .enum8, acc := .rw, rng := .codes [0,1,2], clamp := .default, own := .bound }
def Obj.FEC_MODE : Obj := { base := 0x0400, sub := 0x04, lo := 48, hi := 51, stride := 16, ty := .enum8, acc := .rw, rng := .codes [0,1,2,3], clamp := .default, own := .bound }
def Obj.MAX_FRAME : Obj := { base := 0x0400, sub := 0x05, lo := 0, hi := 51, stride := 16, ty := .u 2, acc := .rw, dflt := .const 0x5F2, rng := .between 1522 9216, clamp := .nearest, own := .bound }
def Obj.LINK_STATE_0401 : Obj := { base := 0x0401, sub := 0x01, lo := 0, hi := 55, stride := 16, ty := .enum8, acc := .ro, dflt := .const 0x1, own := .bound }
def Obj.LINK_SPEED_0401 : Obj := { base := 0x0401, sub := 0x02, lo := 0, hi := 55, stride := 16, ty := .u 4, acc := .ro, own := .bound }
def Obj.FEC_ACTIVE : Obj := { base := 0x0401, sub := 0x03, lo := 0, hi := 55, stride := 16, ty := .enum8, acc := .ro, dflt := .const 0x1, own := .bound }
def Obj.PARTNER_ADVERTISE : Obj := { base := 0x0401, sub := 0x04, lo := 0, hi := 55, stride := 16, ty := .bits32, acc := .ro, own := .bound }
def Obj.LAST_CHANGE_BEAT_0401 : Obj := { base := 0x0401, sub := 0x05, lo := 0, hi := 55, stride := 16, ty := .beat64, acc := .ro, own := .bound }
def Obj.LINK_CHANGES : Obj := { base := 0x0401, sub := 0x06, lo := 0, hi := 55, stride := 16, ty := .u 8, acc := .ro, own := .bound }
def Obj.PFC_RX_ENABLE : Obj := { base := 0x0402, sub := 0x01, lo := 0, hi := 51, stride := 16, ty := .bits32, acc := .rw, rng := .bits 0xFF, clamp := .bits, own := .bound }
def Obj.PFC_TX_ENABLE : Obj := { base := 0x0402, sub := 0x02, lo := 0, hi := 51, stride := 16, ty := .bits32, acc := .rw, rng := .bits 0xFF, clamp := .bits, own := .bound }
def Obj.PAUSE_QUANTA : Obj := { base := 0x0402, sub := 0x03, lo := 0, hi := 51, stride := 16, ty := .u 2, acc := .rw, dflt := .const 0xFFFF, rng := .between (2) 65535, clamp := .nearest }
def Obj.PAUSED_RX : Obj := { base := 0x0402, sub := 0x04, lo := 0, hi := 51, stride := 16, ty := .bits32, acc := .ro, own := .bound }
def Obj.XOFF_TX : Obj := { base := 0x0402, sub := 0x05, lo := 0, hi := 51, stride := 16, ty := .bits32, acc := .ro, own := .bound }
def Obj.XOFF : Obj := { base := 0x0402, sub := 0x10, lo := 0, hi := 51, stride := 16, count := 8, ty := .u 2, acc := .rw, dflt := .accessUplink 96 768, rng := .between 1 16384, clamp := .nearest }
def Obj.XON : Obj := { base := 0x0402, sub := 0x18, lo := 0, hi := 51, stride := 16, count := 8, ty := .u 2, acc := .rw, dflt := .accessUplink 64 512, rng := .between 0 16383, clamp := .nearest }
def Obj.STORM_ENABLE : Obj := { base := 0x0403, sub := 0x01, lo := 0, hi := 51, stride := 16, ty := .bool, acc := .rw, dflt := .const 0x1, rng := .between 0 1, clamp := .nearest }
def Obj.STORM_ACTION : Obj := { base := 0x0403, sub := 0x02, lo := 0, hi := 51, stride := 16, ty := .enum8, acc := .rw, rng := .codes [0, 1], clamp := .default }
def Obj.STORM_ACTIVE : Obj := { base := 0x0403, sub := 0x03, lo := 0, hi := 51, stride := 16, ty := .bits32, acc := .ro, own := .bound }
def Obj.STORM_BEATS : Obj := { base := 0x0403, sub := 0x04, lo := 0, hi := 51, stride := 16, ty := .octets 16, acc := .ro, own := .bound }
def Obj.STORM_TRIPS : Obj := { base := 0x0403, sub := 0x05, lo := 0, hi := 51, stride := 16, ty := .u 8, acc := .ro, own := .bound }
def Obj.DAMP_ENABLE : Obj := { base := 0x0404, sub := 0x01, lo := 0, hi := 51, stride := 16, ty := .bool, acc := .rw, dflt := .const 0x1, rng := .between 0 1, clamp := .nearest }
def Obj.FLAP_PENALTY : Obj := { base := 0x0404, sub := 0x02, lo := 0, hi := 51, stride := 16, ty := .u 4, acc := .rw, dflt := .const 0x3E8, rng := .between (1) 100000, clamp := .nearest }
def Obj.SUPPRESS : Obj := { base := 0x0404, sub := 0x03, lo := 0, hi := 51, stride := 16, ty := .u 4, acc := .rw, dflt := .const 0xBB8, rng := .between (2) 1000000, clamp := .nearest }
def Obj.REUSE : Obj := { base := 0x0404, sub := 0x04, lo := 0, hi := 51, stride := 16, ty := .u 4, acc := .rw, dflt := .const 0x2EE, rng := .between (1) 999999, clamp := .nearest }
def Obj.HALF_LIFE : Obj := { base := 0x0404, sub := 0x05, lo := 0, hi := 51, stride := 16, ty := .u 2, acc := .rw, dflt := .const 0xF, rng := .between (1) 900, clamp := .nearest }
def Obj.MAX_PENALTY : Obj := { base := 0x0404, sub := 0x06, lo := 0, hi := 51, stride := 16, ty := .u 4, acc := .rw, dflt := .const 0x2EE0, rng := .between (2) 1000000, clamp := .nearest }
def Obj.PENALTY : Obj := { base := 0x0404, sub := 0x07, lo := 0, hi := 51, stride := 16, ty := .u 4, acc := .ro, own := .bound }
def Obj.LLDP_MODE : Obj := { base := 0x0405, sub := 0x01, lo := 0, hi := 51, stride := 16, ty := .enum8, acc := .rw, dflt := .const 0x3, rng := .codes [0, 1, 2, 3], clamp := .default, own := .bound }
def Obj.TX_INTERVAL : Obj := { base := 0x0405, sub := 0x02, lo := 0, hi := 51, stride := 16, ty := .u 2, acc := .rw, dflt := .const 0x1E, rng := .between (5) 3600, clamp := .nearest, own := .bound }
def Obj.NEIGHBOURS : Obj := { base := 0x0405, sub := 0x03, lo := 0, hi := 51, stride := 16, ty := .octets 416, acc := .ro, own := .bound }
def Obj.LLDP_TOO_MANY : Obj := { base := 0x0405, sub := 0x04, lo := 0, hi := 51, stride := 16, ty := .u 8, acc := .ro, own := .bound }
def Obj.MODULE_STATE : Obj := { base := 0x0406, sub := 0x01, lo := 48, hi := 51, stride := 16, ty := .enum8, acc := .ro, own := .bound }
def Obj.MODULE_ID : Obj := { base := 0x0406, sub := 0x02, lo := 48, hi := 51, stride := 16, ty := .octets 96, acc := .ro, own := .bound }
def Obj.MODULE_DDM : Obj := { base := 0x0406, sub := 0x03, lo := 48, hi := 51, stride := 16, ty := .octets 10, acc := .ro, own := .bound }
def Obj.MODULE_ALARMS : Obj := { base := 0x0406, sub := 0x04, lo := 48, hi := 51, stride := 16, ty := .octets 4, acc := .ro, own := .bound }
def Obj.MEMBERS : Obj := { base := 0x07A0, sub := 0x01, lo := 0, hi := 1, ty := .bits32, acc := .rw, rng := .bits 0xF, clamp := .bits }
def Obj.MIN_ACTIVE : Obj := { base := 0x07A0, sub := 0x02, lo := 0, hi := 1, ty := .u 1, acc := .rw, dflt := .const 0x1, rng := .between (1) 4, clamp := .nearest }
def Obj.HASH_FIELDS : Obj := { base := 0x07A0, sub := 0x03, lo := 0, hi := 1, ty := .bits32, acc := .rw, dflt := .const 0x1F0, rng := .bits 0x3FF, clamp := .bits }
def Obj.HASH_SEED : Obj := { base := 0x07A0, sub := 0x04, lo := 0, hi := 1, ty := .u 4, acc := .rw }
def Obj.ACTIVE_MEMBERS : Obj := { base := 0x07A0, sub := 0x05, lo := 0, hi := 1, ty := .bits32, acc := .ro }
def Obj.LAG_DOWN_DROPS : Obj := { base := 0x07A0, sub := 0x06, lo := 0, hi := 1, ty := .u 8, acc := .ro }

/-! Objects of spec/08_calico.md. -/
def Obj.DEFAULT_VID : Obj := { base := 0x0A00, sub := 0x01, lo := 0, hi := 51, ty := .u 2, acc := .rw, dflt := .const 0x1, rng := .between (1) 4094, clamp := .nearest, own := .bound }
def Obj.DEFAULT_PCP : Obj := { base := 0x0A00, sub := 0x02, lo := 0, hi := 51, ty := .u 1, acc := .rw, rng := .between (0) 7, clamp := .nearest, own := .bound }
def Obj.CT0_MISS : Obj := { base := 0x0A00, sub := 0x03, lo := 0, hi := 51, ty := .enum8, acc := .rw, rng := .codes [0, 1], clamp := .default, own := .bound }
def Obj.CT0_MISS_DROPS : Obj := { base := 0x0A00, sub := 0x10, lo := 0, hi := 51, ty := .u 8, acc := .ro, own := .bound }
def Obj.CLASS_DROPS : Obj := { base := 0x0A00, sub := 0x11, lo := 0, hi := 51, ty := .u 8, acc := .ro, own := .bound }
def Obj.TRAPPED : Obj := { base := 0x0A00, sub := 0x12, lo := 0, hi := 51, ty := .u 8, acc := .ro, own := .bound }
def Obj.PARSE_STOPPED : Obj := { base := 0x0A00, sub := 0x13, lo := 0, hi := 51, ty := .u 8, acc := .ro, own := .bound }
def Obj.BINDINGS_CLEARED : Obj := { base := 0x0A00, sub := 0x14, lo := 0, hi := 51, ty := .u 8, acc := .ro, own := .bound }
def Obj.CT1_MISS : Obj := { base := 0x0A40, sub := 0x01, ty := .enum8, acc := .rw, rng := .codes [0, 1], clamp := .default, own := .perTn }
def Obj.FLOW_FIELDS : Obj := { base := 0x0A40, sub := 0x02, ty := .bits32, acc := .rw, dflt := .const 0x5F0, rng := .bits 0xFFF, clamp := .bits, own := .perTn }
def Obj.MIRROR_DEST : Obj := { base := 0x0A40, sub := 0x10, count := 4, ty := .enum8, acc := .rw, dflt := .const 0xFF, rng := .codes (List.range 52 ++ [54, 0x40, 0x41, 0xFF]), clamp := .default, own := .perTn }
def Obj.MIRROR_TRUNCATE : Obj := { base := 0x0A40, sub := 0x14, count := 4, ty := .u 2, acc := .rw, rng := .orZero 64 9216, clamp := .orZero, own := .perTn }
def Obj.METHOD : Obj := { base := 0x0A80, sub := 0x01, lo := 0, hi := 3, ty := .enum8, acc := .rw, dflt := .perItem [1,0,0,1], rng := .codes [0,1], clamp := .default }
def Obj.ACTIVE_BANK : Obj := { base := 0x0A80, sub := 0x02, lo := 0, hi := 3, ty := .enum8, acc := .ro }
def Obj.SWAP_STATE : Obj := { base := 0x0A80, sub := 0x03, lo := 0, hi := 3, ty := .enum8, acc := .ro }
def Obj.LAST_SWAP_BEAT : Obj := { base := 0x0A80, sub := 0x04, lo := 0, hi := 3, ty := .beat64, acc := .ro }
def Obj.SHADOW_COPY : Obj := { base := 0x0A80, sub := 0x05, lo := 0, hi := 3, ty := .bool, acc := .cmd, rng := .only [1], clamp := .noAction }
def Obj.SHADOW_COPY_BUSY : Obj := { base := 0x0A80, sub := 0x06, lo := 0, hi := 3, ty := .bool, acc := .ro }
def Obj.SWAP : Obj := { base := 0x0A90, sub := 0x01, ty := .bits32, acc := .rwb, rng := .bits 0xF, clamp := .bits }
def Obj.SWAP_RESULT : Obj := { base := 0x0A90, sub := 0x02, ty := .enum8, acc := .ro }
def Obj.TABLE_GENERATION : Obj := { base := 0x0A90, sub := 0x03, ty := .u 4, acc := .ro }
def Obj.VERSIONS_HELD_0A90 : Obj := { base := 0x0A90, sub := 0x04, ty := .u 2, acc := .ro }

/-! Objects of spec/09_forwarding.md. -/
def Obj.MAC_HASH_SEED : Obj := { base := 0x0C00, sub := 0x01, ty := .u 4, acc := .rw }
def Obj.MAC_USED : Obj := { base := 0x0C00, sub := 0x02, ty := .u 4, acc := .ro }
def Obj.CAM_USED : Obj := { base := 0x0C00, sub := 0x03, ty := .u 2, acc := .ro }
def Obj.SWEEP_POSITION : Obj := { base := 0x0C00, sub := 0x04, ty := .u 4, acc := .ro }
def Obj.FLUSH_BUSY : Obj := { base := 0x0C00, sub := 0x05, ty := .bool, acc := .ro }
def Obj.TABLE_FULL_REFUSALS : Obj := { base := 0x0C00, sub := 0x06, ty := .u 8, acc := .ro }
def Obj.VERSIONS_HELD_0C00 : Obj := { base := 0x0C00, sub := 0x07, ty := .u 2, acc := .ro }
def Obj.AGE_TIME : Obj := { base := 0x0C10, sub := 0x01, ty := .u 4, acc := .rw, dflt := .const 0x12C, rng := .between (10) 30000, clamp := .nearest, own := .perTn }
def Obj.MOVE_ACTION : Obj := { base := 0x0C10, sub := 0x02, ty := .enum8, acc := .rw, rng := .codes [0, 1], clamp := .default, own := .perTn }
def Obj.STATIC_DROP : Obj := { base := 0x0C10, sub := 0x03, ty := .bool, acc := .rw, dflt := .const 0x1, rng := .between 0 1, clamp := .nearest, own := .perTn }
def Obj.ROUTER_MAC : Obj := { base := 0x0C10, sub := 0x04, ty := .octets 6, acc := .ro, dflt := .unit, own := .perTn }
def Obj.SNOOP_GROUP_FIRST : Obj := { base := 0x0C10, sub := 0x05, ty := .u 2, acc := .rw, rng := .between (0) 4095, clamp := .nearest, own := .perTn }
def Obj.SNOOP_GROUP_COUNT : Obj := { base := 0x0C10, sub := 0x06, ty := .u 2, acc := .rw, rng := .between (0) 4096, clamp := .nearest, own := .perTn }
def Obj.SNOOP_GMI : Obj := { base := 0x0C10, sub := 0x07, ty := .u 4, acc := .rw, dflt := .const 0x104, rng := .between (10) 3600, clamp := .nearest, own := .perTn }
def Obj.FAST_LEAVE : Obj := { base := 0x0C10, sub := 0x08, ty := .bool, acc := .rw, rng := .between 0 1, clamp := .nearest, own := .perTn }
def Obj.NH_REFRESH : Obj := { base := 0x0C10, sub := 0x09, ty := .u 4, acc := .rw, dflt := .const 0x3C, rng := .between (10) 3600, clamp := .nearest, own := .perTn }
def Obj.MROUTER_PORTS : Obj := { base := 0x0C10, sub := 0x0A, ty := .octets 8, acc := .rw, rng := .bits 0xFFFFFFFFFFFFF, clamp := .perField, own := .perTn }
def Obj.LEARN_ENABLE : Obj := { base := 0x0C40, sub := 0x01, lo := 0, hi := 51, ty := .bool, acc := .rw, dflt := .const 0x1, rng := .between 0 1, clamp := .nearest, own := .bound }
def Obj.LEARN_LIMIT : Obj := { base := 0x0C40, sub := 0x02, lo := 0, hi := 51, ty := .u 4, acc := .rw, dflt := .const 0x40000, rng := .between (0) 262144, clamp := .nearest, own := .bound }
def Obj.LIMIT_ACTION : Obj := { base := 0x0C40, sub := 0x03, lo := 0, hi := 51, ty := .enum8, acc := .rw, rng := .codes [0, 1], clamp := .default, own := .bound }
def Obj.FLUSH_ON_DOWN : Obj := { base := 0x0C40, sub := 0x04, lo := 0, hi := 51, ty := .bool, acc := .rw, dflt := .const 0x1, rng := .between 0 1, clamp := .nearest, own := .bound }
def Obj.LEARNED : Obj := { base := 0x0C40, sub := 0x05, lo := 0, hi := 51, ty := .u 4, acc := .ro, own := .bound }
def Obj.LEARN_REFUSED : Obj := { base := 0x0C40, sub := 0x10, lo := 0, hi := 51, ty := .u 8, acc := .ro, own := .bound }
def Obj.MOVES_IN : Obj := { base := 0x0C40, sub := 0x11, lo := 0, hi := 51, ty := .u 8, acc := .ro, own := .bound }
def Obj.STATIC_VIOLATIONS : Obj := { base := 0x0C40, sub := 0x12, lo := 0, hi := 51, ty := .u 8, acc := .ro, own := .bound }
def Obj.LEARN_LIMIT_DROPS : Obj := { base := 0x0C40, sub := 0x13, lo := 0, hi := 51, ty := .u 8, acc := .ro, own := .bound }
def Obj.UNKNOWN_UC_FLOODED : Obj := { base := 0x0C40, sub := 0x14, lo := 0, hi := 51, ty := .u 8, acc := .ro, own := .bound }
def Obj.UNKNOWN_UC_DROPS : Obj := { base := 0x0C40, sub := 0x15, lo := 0, hi := 51, ty := .u 8, acc := .ro, own := .bound }
def Obj.FILTERED : Obj := { base := 0x0C40, sub := 0x16, lo := 0, hi := 51, ty := .u 8, acc := .ro, own := .bound }
def Obj.ROUTED : Obj := { base := 0x0C40, sub := 0x17, lo := 0, hi := 51, ty := .u 8, acc := .ro, own := .bound }
def Obj.ROUTE_DROPS : Obj := { base := 0x0C40, sub := 0x18, lo := 0, hi := 51, ty := .u 8, acc := .ro, own := .bound }
def Obj.BLANK : Obj := { base := 0x0C40, sub := 0x19, lo := 0, hi := 51, ty := .u 8, acc := .ro, own := .bound }
def Obj.OP_FID : Obj := { base := 0x0C80, sub := 0x01, ty := .u 2, acc := .rw, dflt := .const 0x1, rng := .between (1) 4094, clamp := .nearest, own := .perMaster }
def Obj.OP_MAC : Obj := { base := 0x0C80, sub := 0x02, ty := .octets 6, acc := .rw, own := .perMaster }
def Obj.OP_DEST_KIND : Obj := { base := 0x0C80, sub := 0x03, ty := .enum8, acc := .rw, rng := .codes [0,1,2,3], clamp := .default, own := .perMaster }
def Obj.OP_DEST_NUMBER : Obj := { base := 0x0C80, sub := 0x04, ty := .u 2, acc := .rw, rng := .between 0 4095, clamp := .nearest, own := .perMaster }
def Obj.OP : Obj := { base := 0x0C80, sub := 0x05, ty := .enum8, acc := .cmd, dflt := .const 0xFF, rng := .codes [1,2,3,4,5,6,255], clamp := .default, own := .perMaster }
def Obj.OP_RESULT : Obj := { base := 0x0C80, sub := 0x06, ty := .enum8, acc := .ro, own := .perMaster }
def Obj.OP_LOCATION : Obj := { base := 0x0C80, sub := 0x07, ty := .u 4, acc := .ro, dflt := .const 0xFFFFFFFF, own := .perMaster }
def Obj.OP_EFFECTIVE : Obj := { base := 0x0C80, sub := 0x08, ty := .beat64, acc := .ro, own := .perMaster }

/-! Objects of spec/10_fabric_buffers.md. -/
def Obj.CELLS_TOTAL : Obj := { base := 0x0800, sub := 0x01, ty := .u 4, acc := .const, dflt := .const 0x30000 }
def Obj.CELLS_FREE : Obj := { base := 0x0800, sub := 0x02, ty := .u 4, acc := .ro, dflt := .const 0x30000 }
def Obj.CELLS_FREE_LOW : Obj := { base := 0x0800, sub := 0x03, ty := .u 4, acc := .ro, dflt := .const 0x30000 }
def Obj.ENTRIES_FREE : Obj := { base := 0x0800, sub := 0x04, ty := .u 4, acc := .ro, dflt := .const 0x40000 }
def Obj.FABRIC_SEED : Obj := { base := 0x0800, sub := 0x05, ty := .u 4, acc := .rw }
def Obj.FREE_ALARM : Obj := { base := 0x0800, sub := 0x06, ty := .u 4, acc := .rw, dflt := .const 0x2000, rng := .between (0) 196608, clamp := .nearest }
def Obj.ECC_CORRECTED : Obj := { base := 0x0800, sub := 0x07, ty := .u 8, acc := .ro }
def Obj.UPLINK_FREE : Obj := { base := 0x0801, sub := 0x01, count := 4, ty := .u 2, acc := .ro, dflt := .const 0x3F00 }
def Obj.QUEUE_LIMIT : Obj := { base := 0x0810, sub := 0x10, lo := 0, hi := 55, count := 8, ty := .u 4, acc := .rw, dflt := .accessUplink 1024 4096, rng := .queueLimit, clamp := .nearest, own := .bound }
def Obj.WRED_PROFILE : Obj := { base := 0x0810, sub := 0x18, lo := 0, hi := 55, count := 8, ty := .enum8, acc := .rw, dflt := .const 0xFF, rng := .codes (List.range 64 ++ [0xFF]), clamp := .default, own := .bound }
def Obj.HEADROOM : Obj := { base := 0x0810, sub := 0x20, lo := 0, hi := 51, count := 8, ty := .u 2, acc := .rw, rng := .between 0 16384, clamp := .nearest }
def Obj.HEADROOM_USED : Obj := { base := 0x0810, sub := 0x28, lo := 0, hi := 51, ty := .octets 16, acc := .ro, own := .bound }
def Obj.AVG_DEPTH : Obj := { base := 0x0810, sub := 0x30, lo := 0, hi := 55, count := 8, ty := .u 4, acc := .ro, own := .bound }
def Obj.QUOTA_DROPS : Obj := { base := 0x0810, sub := 0x40, lo := 0, hi := 55, ty := .u 8, acc := .ro, own := .bound }
def Obj.NO_CELL_DROPS : Obj := { base := 0x0810, sub := 0x41, lo := 0, hi := 55, ty := .u 8, acc := .ro, own := .bound }
def Obj.LIMIT_DROPS : Obj := { base := 0x0810, sub := 0x42, lo := 0, hi := 55, ty := .u 8, acc := .ro, own := .bound }
def Obj.WRED_DROPS_GREEN : Obj := { base := 0x0810, sub := 0x43, lo := 0, hi := 55, ty := .u 8, acc := .ro, own := .bound }
def Obj.WRED_DROPS_YELLOW : Obj := { base := 0x0810, sub := 0x44, lo := 0, hi := 55, ty := .u 8, acc := .ro, own := .bound }
def Obj.WRED_DROPS_RED : Obj := { base := 0x0810, sub := 0x45, lo := 0, hi := 55, ty := .u 8, acc := .ro, own := .bound }
def Obj.ECN_MARKED_0810 : Obj := { base := 0x0810, sub := 0x46, lo := 0, hi := 55, ty := .u 8, acc := .ro, own := .bound }
def Obj.HEADROOM_MISSES : Obj := { base := 0x0810, sub := 0x47, lo := 0, hi := 55, ty := .u 8, acc := .ro, own := .bound }
def Obj.STAGING_DROPS : Obj := { base := 0x0810, sub := 0x48, lo := 0, hi := 55, ty := .u 8, acc := .ro, own := .bound }
def Obj.POISON_TX : Obj := { base := 0x0810, sub := 0x49, lo := 0, hi := 55, ty := .u 8, acc := .ro, own := .bound }
def Obj.GREEN_MIN : Obj := { base := 0x0880, sub := 0x01, lo := 0, hi := 63, ty := .u 4, acc := .rw, dflt := .const 0x200, rng := .between (0) 196608, clamp := .nearest }
def Obj.GREEN_MAX : Obj := { base := 0x0880, sub := 0x02, lo := 0, hi := 63, ty := .u 4, acc := .rw, dflt := .const 0x400, rng := .between (0) 196608, clamp := .nearest }
def Obj.GREEN_PMAX : Obj := { base := 0x0880, sub := 0x03, lo := 0, hi := 63, ty := .u 2, acc := .rw, dflt := .const 0x64, rng := .between (0) 1000, clamp := .nearest }
def Obj.YELLOW_MIN : Obj := { base := 0x0880, sub := 0x04, lo := 0, hi := 63, ty := .u 4, acc := .rw, dflt := .const 0x100, rng := .between (0) 196608, clamp := .nearest }
def Obj.YELLOW_MAX : Obj := { base := 0x0880, sub := 0x05, lo := 0, hi := 63, ty := .u 4, acc := .rw, dflt := .const 0x300, rng := .between (0) 196608, clamp := .nearest }
def Obj.YELLOW_PMAX : Obj := { base := 0x0880, sub := 0x06, lo := 0, hi := 63, ty := .u 2, acc := .rw, dflt := .const 0xC8, rng := .between (0) 1000, clamp := .nearest }
def Obj.RED_MIN : Obj := { base := 0x0880, sub := 0x07, lo := 0, hi := 63, ty := .u 4, acc := .rw, dflt := .const 0x80, rng := .between (0) 196608, clamp := .nearest }
def Obj.RED_MAX : Obj := { base := 0x0880, sub := 0x08, lo := 0, hi := 63, ty := .u 4, acc := .rw, dflt := .const 0x200, rng := .between (0) 196608, clamp := .nearest }
def Obj.RED_PMAX : Obj := { base := 0x0880, sub := 0x09, lo := 0, hi := 63, ty := .u 2, acc := .rw, dflt := .const 0x190, rng := .between (0) 1000, clamp := .nearest }
def Obj.WEIGHT : Obj := { base := 0x0880, sub := 0x0A, lo := 0, hi := 63, ty := .u 1, acc := .rw, dflt := .const 0x4, rng := .between (0) 15, clamp := .nearest }
def Obj.ECN : Obj := { base := 0x0880, sub := 0x0B, lo := 0, hi := 63, ty := .bool, acc := .rw, rng := .between 0 1, clamp := .nearest }
def Obj.RESERVED_HEADROOM : Obj := { base := 0x0850, sub := 0x01, lo := 0, hi := 7, ty := .u 4, acc := .ro, own := .bound }
def Obj.GENERAL_LIMIT : Obj := { base := 0x0850, sub := 0x02, lo := 0, hi := 7, ty := .u 4, acc := .ro, dflt := .const 0x30000, own := .bound }
def Obj.GENERAL_USED : Obj := { base := 0x0850, sub := 0x03, lo := 0, hi := 7, ty := .u 4, acc := .ro, own := .bound }
def Obj.HEADROOM_CHARGED : Obj := { base := 0x0850, sub := 0x04, lo := 0, hi := 7, ty := .u 4, acc := .ro, own := .bound }
def Obj.ADMIT_DROPS : Obj := { base := 0x0850, sub := 0x10, lo := 0, hi := 7, ty := .u 8, acc := .ro, own := .bound }
def Obj.ECN_MARKED_0850 : Obj := { base := 0x0850, sub := 0x11, lo := 0, hi := 7, ty := .u 8, acc := .ro, own := .bound }

/-! Objects of spec/11_buffer_pools.md. -/
def Obj.BUF_SIZE : Obj := { base := 0x0900, sub := 0x01, lo := 0, hi := 5, ty := .u 4, acc := .const, dflt := .perItem [256,1024,4096,16384,65536,1048576] }
def Obj.BUF_COUNT : Obj := { base := 0x0900, sub := 0x02, lo := 0, hi := 5, ty := .u 4, acc := .const, dflt := .perItem [8192,2048,512,128,32768,61440] }
def Obj.IN_USE : Obj := { base := 0x0900, sub := 0x03, lo := 0, hi := 5, ty := .u 4, acc := .ro }
def Obj.IN_USE_HIGH : Obj := { base := 0x0900, sub := 0x04, lo := 0, hi := 5, ty := .u 4, acc := .ro }
def Obj.LEVEL_0900 : Obj := { base := 0x0900, sub := 0x05, lo := 0, hi := 5, ty := .enum8, acc := .ro }
def Obj.BACK_PRESSURE : Obj := { base := 0x0900, sub := 0x06, lo := 0, hi := 5, ty := .bool, acc := .ro }
def Obj.RESERVED_UNUSED : Obj := { base := 0x0900, sub := 0x07, lo := 0, hi := 5, ty := .u 4, acc := .ro }
def Obj.REFUSALS : Obj := { base := 0x0900, sub := 0x08, lo := 0, hi := 5, ty := .u 8, acc := .ro }
def Obj.CLASS_0910 : Obj := { base := 0x0910, sub := 0x01, lo := 0, hi := 15, hole := some 7, ty := .enum8, acc := .rw, dflt := .perItem [0,1,1,0,0,0,1,1,1,1,1,1,1,1,1,1], rng := .codes [0,1], clamp := .default }
def Obj.GUARANTEE : Obj := { base := 0x0910, sub := 0x10, lo := 0, hi := 15, hole := some 7, count := 6, ty := .u 4, acc := .rw, dflt := .guarantee, rng := .poolCount, clamp := .nearest }
def Obj.MAX : Obj := { base := 0x0910, sub := 0x18, lo := 0, hi := 15, hole := some 7, count := 6, ty := .u 4, acc := .rw, dflt := .poolMax, rng := .poolCount, clamp := .nearest }
def Obj.HELD : Obj := { base := 0x0910, sub := 0x20, lo := 0, hi := 15, hole := some 7, count := 6, ty := .u 4, acc := .ro, own := .bound }
def Obj.EFFECTIVE_GUARANTEE : Obj := { base := 0x0910, sub := 0x28, lo := 0, hi := 15, hole := some 7, count := 6, ty := .u 4, acc := .ro, dflt := .guarantee, own := .bound }
def Obj.REFUSED : Obj := { base := 0x0910, sub := 0x30, lo := 0, hi := 15, hole := some 7, ty := .u 8, acc := .ro, own := .bound }
def Obj.HANDLE_FAULTS : Obj := { base := 0x0910, sub := 0x31, lo := 0, hi := 15, hole := some 7, ty := .u 8, acc := .ro, own := .bound }
def Obj.OWNER_FAULTS : Obj := { base := 0x0910, sub := 0x32, lo := 0, hi := 15, hole := some 7, ty := .u 8, acc := .ro, own := .bound }
def Obj.FORCED_RELEASES : Obj := { base := 0x0910, sub := 0x33, lo := 0, hi := 15, hole := some 7, ty := .u 8, acc := .ro, own := .bound }
def Obj.SCRUB_BACKLOG : Obj := { base := 0x0920, sub := 0x01, ty := .u 8, acc := .ro }
def Obj.WORKSPACE_ECC_CORRECTED : Obj := { base := 0x0920, sub := 0x02, ty := .u 8, acc := .ro }

/-! Objects of spec/12_queues_shaping.md. -/
def Obj.SERVICE_MODE : Obj := { base := 0x0E00, sub := 0x01, lo := 0, hi := 55, ty := .enum8, acc := .rw, rng := .codes [0, 1], clamp := .default, own := .bound }
def Obj.STRICT_COUNT : Obj := { base := 0x0E00, sub := 0x02, lo := 0, hi := 55, ty := .u 1, acc := .rw, dflt := .const 0x2, rng := .between (0) 7, clamp := .nearest, own := .bound }
def Obj.DRR_WEIGHT : Obj := { base := 0x0E00, sub := 0x10, lo := 0, hi := 55, count := 8, ty := .u 1, acc := .rw, dflt := .const 0x1, rng := .between (1) 255, clamp := .nearest, own := .bound }
def Obj.WFQ_WEIGHT : Obj := { base := 0x0E00, sub := 0x18, lo := 0, hi := 55, count := 8, ty := .u 2, acc := .rw, dflt := .const 0x1, rng := .between (1) 1023, clamp := .nearest, own := .bound }
def Obj.PORT_SHAPE_ENABLE : Obj := { base := 0x0E00, sub := 0x20, lo := 0, hi := 55, ty := .bool, acc := .rw, rng := .between 0 1, clamp := .nearest, own := .bound }
def Obj.PORT_RATE : Obj := { base := 0x0E00, sub := 0x21, lo := 0, hi := 55, ty := .u 4, acc := .rw, dflt := .const 0x2FAF08, rng := .between (0) 3125000, clamp := .nearest, own := .bound }
def Obj.PORT_BURST : Obj := { base := 0x0E00, sub := 0x22, lo := 0, hi := 55, ty := .u 4, acc := .rw, dflt := .const 0x4000, rng := .between (0) 16777215, clamp := .nearest, own := .bound }
def Obj.PORT_CHANGE_MODE : Obj := { base := 0x0E00, sub := 0x23, lo := 0, hi := 55, ty := .enum8, acc := .rw, rng := .codes [0,1,2], clamp := .default, own := .bound }
def Obj.Q_SHAPE_ENABLE : Obj := { base := 0x0E00, sub := 0x30, lo := 0, hi := 55, count := 8, ty := .bool, acc := .rw, rng := .between 0 1, clamp := .nearest, own := .bound }
def Obj.Q_RATE : Obj := { base := 0x0E00, sub := 0x38, lo := 0, hi := 55, count := 8, ty := .u 4, acc := .rw, dflt := .const 0x2FAF08, rng := .between (0) 3125000, clamp := .nearest, own := .bound }
def Obj.Q_BURST : Obj := { base := 0x0E00, sub := 0x40, lo := 0, hi := 55, count := 8, ty := .u 4, acc := .rw, dflt := .const 0x4000, rng := .between (0) 16777215, clamp := .nearest, own := .bound }
def Obj.Q_CHANGE_MODE : Obj := { base := 0x0E00, sub := 0x48, lo := 0, hi := 55, count := 8, ty := .enum8, acc := .rw, rng := .codes [0,1,2], clamp := .default, own := .bound }
def Obj.FLUSH : Obj := { base := 0x0E00, sub := 0x50, lo := 0, hi := 55, ty := .bits32, acc := .cmd, rng := .bits 0xFF, clamp := .bits, own := .bound }
def Obj.FLUSH_IN_FLIGHT : Obj := { base := 0x0E00, sub := 0x51, lo := 0, hi := 55, ty := .bits32, acc := .ro, own := .bound }
def Obj.LAST_FLUSH_BEAT : Obj := { base := 0x0E00, sub := 0x52, lo := 0, hi := 55, ty := .beat64, acc := .ro, own := .bound }
def Obj.TOKENS : Obj := { base := 0x0E40, sub := 0x01, lo := 0, hi := 55, count := 8, ty := .i32, acc := .ro, own := .bound }
def Obj.PORT_TOKENS : Obj := { base := 0x0E40, sub := 0x09, lo := 0, hi := 55, ty := .i32, acc := .ro, own := .bound }
def Obj.DEFICIT : Obj := { base := 0x0E40, sub := 0x0A, lo := 0, hi := 55, count := 8, ty := .u 4, acc := .ro, own := .bound }
def Obj.TX_FRAMES_Q : Obj := { base := 0x0E80, sub := 0x10, lo := 0, hi := 55, count := 8, ty := .u 8, acc := .ro, own := .bound }
def Obj.TX_BYTES_Q : Obj := { base := 0x0E80, sub := 0x18, lo := 0, hi := 55, count := 8, ty := .u 8, acc := .ro, own := .bound }
def Obj.DROPS_Q : Obj := { base := 0x0E80, sub := 0x20, lo := 0, hi := 55, count := 8, ty := .u 8, acc := .ro, own := .bound }
def Obj.FLUSH_DROPS_Q : Obj := { base := 0x0E80, sub := 0x28, lo := 0, hi := 55, count := 8, ty := .u 8, acc := .ro, own := .bound }
def Obj.RING_Q : Obj := { base := 0x0EC0, sub := 0x01, lo := 0, hi := 55, count := 8, ty := .octets 1024, acc := .ro, own := .bound }
def Obj.HIST_Q : Obj := { base := 0x0EC0, sub := 0x09, lo := 0, hi := 55, count := 8, ty := .octets 128, acc := .ro, own := .bound }
def Obj.HIST_CLEAR : Obj := { base := 0x0EC0, sub := 0x11, lo := 0, hi := 55, ty := .bits32, acc := .cmd, rng := .bits 0xFF, clamp := .bits, own := .bound }
def Obj.SOJOURN_ALARM_NS : Obj := { base := 0x0F00, sub := 0x01, ty := .u 4, acc := .rw }
def Obj.SCHED_ECC_CORRECTED : Obj := { base := 0x0F00, sub := 0x02, ty := .u 8, acc := .ro }

/-! Objects of spec/13_gingham.md. -/
def Obj.GUARD_MODE : Obj := { base := 0x1000, sub := 0x01, lo := 0, hi := 51, ty := .enum8, acc := .rw, rng := .codes [0, 1], clamp := .default, own := .bound }
def Obj.GUARD_NS : Obj := { base := 0x1000, sub := 0x02, lo := 0, hi := 51, ty := .u 4, acc := .rw, dflt := .const 0x3030, rng := .stepped 0 7392000 8, clamp := .step, own := .bound }
def Obj.PTP_LOSS_POLICY : Obj := { base := 0x1000, sub := 0x03, lo := 0, hi := 51, ty := .enum8, acc := .rw, rng := .codes [0, 1], clamp := .default, own := .bound }
def Obj.PENDING_LENGTH : Obj := { base := 0x1000, sub := 0x04, lo := 0, hi := 51, ty := .u 2, acc := .rw, dflt := .const 0x1, rng := .between (1) 256, clamp := .nearest, own := .bound }
def Obj.PENDING_CYCLE_NS : Obj := { base := 0x1000, sub := 0x05, lo := 0, hi := 51, ty := .u 4, acc := .rw, dflt := .const 0xF4240, rng := .stepped 256 1000000000 8, clamp := .step, own := .bound }
def Obj.CHANGE_TIME : Obj := { base := 0x1000, sub := 0x10, lo := 0, hi := 51, ty := .time64, acc := .cmd, rng := .step8, clamp := .step, own := .bound }
def Obj.CANCEL : Obj := { base := 0x1000, sub := 0x11, lo := 0, hi := 51, ty := .bool, acc := .cmd, rng := .only [1], clamp := .noAction, own := .bound }
def Obj.OPER_LENGTH : Obj := { base := 0x1040, sub := 0x01, lo := 0, hi := 51, ty := .u 2, acc := .ro, dflt := .const 0x1, own := .bound }
def Obj.OPER_CYCLE_NS : Obj := { base := 0x1040, sub := 0x02, lo := 0, hi := 51, ty := .u 4, acc := .ro, dflt := .const 0xF4240, own := .bound }
def Obj.OPER_ORIGIN : Obj := { base := 0x1040, sub := 0x03, lo := 0, hi := 51, ty := .time64, acc := .ro, own := .bound }
def Obj.CHANGE_STATE : Obj := { base := 0x1040, sub := 0x04, lo := 0, hi := 51, ty := .enum8, acc := .ro, own := .bound }
def Obj.ARMED_TIME : Obj := { base := 0x1040, sub := 0x05, lo := 0, hi := 51, ty := .time64, acc := .ro, own := .bound }
def Obj.LAST_TAKEOVER : Obj := { base := 0x1040, sub := 0x06, lo := 0, hi := 51, ty := .time64, acc := .ro, own := .bound }
def Obj.GATES_NOW : Obj := { base := 0x1040, sub := 0x07, lo := 0, hi := 51, ty := .bits32, acc := .ro, dflt := .const 0xFF, own := .bound }
def Obj.OPER_ENTRY : Obj := { base := 0x1040, sub := 0x08, lo := 0, hi := 51, ty := .u 2, acc := .ro, own := .bound }
def Obj.OPEN_ALL_ACTIVE : Obj := { base := 0x1040, sub := 0x09, lo := 0, hi := 51, ty := .bool, acc := .ro, own := .bound }
def Obj.LONGEST_OPEN_NS : Obj := { base := 0x1040, sub := 0x0A, lo := 0, hi := 51, ty := .octets 32, acc := .ro, dflt := .const 0xFFFFFFFFFFFFFFFFFFFFFFFFFFFFFFFFFFFFFFFFFFFFFFFFFFFFFFFFFFFFFFFF, own := .bound }
def Obj.TAKEOVERS : Obj := { base := 0x1080, sub := 0x01, lo := 0, hi := 51, ty := .u 8, acc := .ro, own := .bound }
def Obj.GATE_TOO_LONG_DROPS : Obj := { base := 0x1080, sub := 0x02, lo := 0, hi := 51, ty := .u 8, acc := .ro, own := .bound }
def Obj.OVERRUN_FRAMES : Obj := { base := 0x1080, sub := 0x03, lo := 0, hi := 51, ty := .u 8, acc := .ro, own := .bound }
def Obj.LATE_TAKEOVERS : Obj := { base := 0x1080, sub := 0x04, lo := 0, hi := 51, ty := .u 8, acc := .ro, own := .bound }

/-! Objects of spec/14_flannel.md. -/
def Obj.PROBE_ENABLE : Obj := { base := 0x1200, sub := 0x01, ty := .bool, acc := .rw, dflt := .const 0x1, rng := .between 0 1, clamp := .nearest }
def Obj.FAMILY : Obj := { base := 0x1200, sub := 0x02, ty := .enum8, acc := .rw, rng := .codes [0, 1], clamp := .default }
def Obj.UNIT_IP : Obj := { base := 0x1200, sub := 0x03, ty := .octets 16, acc := .rw }
def Obj.COLLECTOR_IP : Obj := { base := 0x1200, sub := 0x04, ty := .octets 16, acc := .rw }
def Obj.COLLECTOR_PORT : Obj := { base := 0x1200, sub := 0x05, ty := .u 2, acc := .rw, dflt := .const 0xB810, rng := .between (1) 65535, clamp := .nearest }
def Obj.PROBE_PORT : Obj := { base := 0x1200, sub := 0x06, ty := .u 2, acc := .rw, dflt := .const 0xB811, rng := .between (1024) 65535, clamp := .nearest }
def Obj.GATEWAY_MAC : Obj := { base := 0x1200, sub := 0x07, ty := .octets 6, acc := .rw }
def Obj.PROBE_VLAN : Obj := { base := 0x1200, sub := 0x08, ty := .u 2, acc := .rw, dflt := .const 0x1, rng := .between (1) 4094, clamp := .nearest }
def Obj.PROBE_INTERVAL : Obj := { base := 0x1200, sub := 0x09, ty := .u 4, acc := .rw, dflt := .const 0x1F40, rng := .between 800 80000, clamp := .nearest }
def Obj.LOST_MISSES : Obj := { base := 0x1200, sub := 0x0A, ty := .u 1, acc := .rw, dflt := .const 0x3, rng := .between (1) 15, clamp := .nearest }
def Obj.RESTORE_REPLIES : Obj := { base := 0x1200, sub := 0x0B, ty := .u 1, acc := .rw, dflt := .const 0x2, rng := .between (1) 15, clamp := .nearest }
def Obj.PROBE_JITTER : Obj := { base := 0x1200, sub := 0x0C, ty := .u 1, acc := .rw, dflt := .const 0x10, rng := .between (0) 63, clamp := .nearest }
def Obj.HEALTH_UPLINKS : Obj := { base := 0x1200, sub := 0x0D, ty := .bits32, acc := .rw, dflt := .const 0xF, rng := .bits 0xF, clamp := .bits }
def Obj.BACKFILL_PCT : Obj := { base := 0x1200, sub := 0x0E, ty := .u 1, acc := .rw, dflt := .const 0xA, rng := .between (1) 100, clamp := .nearest }
def Obj.BACKFILL_PIECE : Obj := { base := 0x1200, sub := 0x0F, ty := .u 2, acc := .rw, dflt := .const 0x578, rng := .between (256) 8960, clamp := .nearest }
def Obj.BACKFILL_WINDOW : Obj := { base := 0x1200, sub := 0x10, ty := .u 1, acc := .rw, dflt := .const 0x8, rng := .between (1) 32, clamp := .nearest }
def Obj.BACKFILL_ACK_TIMEOUT : Obj := { base := 0x1200, sub := 0x11, ty := .u 4, acc := .rw, dflt := .const 0x1F40, rng := .between (800) 80000, clamp := .nearest }
def Obj.BF_PORT_BASE : Obj := { base := 0x1200, sub := 0x12, ty := .u 2, acc := .rw, dflt := .const 0xB81A, rng := .between (1024) 65528, clamp := .nearest }
def Obj.PROBE_JUDGEMENT : Obj := { base := 0x1201, sub := 0x01, ty := .enum8, acc := .ro }
def Obj.LINK_JUDGEMENT : Obj := { base := 0x1201, sub := 0x02, ty := .enum8, acc := .ro }
def Obj.MISSES : Obj := { base := 0x1201, sub := 0x03, ty := .u 1, acc := .ro }
def Obj.REPLIES : Obj := { base := 0x1201, sub := 0x04, ty := .u 1, acc := .ro }
def Obj.PROBE_SEQ : Obj := { base := 0x1201, sub := 0x05, ty := .u 4, acc := .ro }
def Obj.LAST_REPLY_BEAT : Obj := { base := 0x1201, sub := 0x06, ty := .beat64, acc := .ro }
def Obj.LOST_SINCE : Obj := { base := 0x1201, sub := 0x07, ty := .beat64, acc := .ro }
def Obj.BACKLOG_SEGMENTS : Obj := { base := 0x1201, sub := 0x08, ty := .u 4, acc := .ro }
def Obj.REPLIES_IGNORED : Obj := { base := 0x1201, sub := 0x09, ty := .u 8, acc := .ro }
def Obj.ACKS_IGNORED : Obj := { base := 0x1201, sub := 0x0A, ty := .u 8, acc := .ro }
def Obj.FULL_POLICY : Obj := { base := 0x1210, sub := 0x01, ty := .enum8, acc := .rw, rng := .codes [0, 1], clamp := .default, own := .perTn }
def Obj.RETURN_PATH : Obj := { base := 0x1210, sub := 0x02, ty := .enum8, acc := .rw, dflt := .const 0x1, rng := .codes [0, 1, 2], clamp := .default, own := .perTn }
def Obj.BF_DEST_IP : Obj := { base := 0x1210, sub := 0x03, ty := .octets 16, acc := .rw, own := .perTn }
def Obj.BF_DEST_PORT : Obj := { base := 0x1210, sub := 0x04, ty := .u 2, acc := .rw, dflt := .const 0xB810, rng := .between (1) 65535, clamp := .nearest, own := .perTn }
def Obj.BF_VLAN : Obj := { base := 0x1210, sub := 0x05, ty := .u 2, acc := .rw, dflt := .const 0x1, rng := .between (1) 4094, clamp := .nearest, own := .perTn }
def Obj.BF_GATEWAY_MAC : Obj := { base := 0x1210, sub := 0x06, ty := .octets 6, acc := .rw, own := .perTn }
def Obj.DRAIN_WINDOW : Obj := { base := 0x1210, sub := 0x07, ty := .u 1, acc := .rw, dflt := .const 0x10, rng := .between (1) 64, clamp := .nearest, own := .perTn }
def Obj.DRAIN_ACK_TIMEOUT : Obj := { base := 0x1210, sub := 0x08, ty := .u 4, acc := .rw, dflt := .const 0x13880, rng := .between (8000) 800000, clamp := .nearest, own := .perTn }
def Obj.INDEX_EXPORT : Obj := { base := 0x1210, sub := 0x09, ty := .bool, acc := .cmd, rng := .only [1], clamp := .noAction, own := .perTn }
def Obj.SEGMENTS_HELD : Obj := { base := 0x1210, sub := 0x10, ty := .u 4, acc := .ro, own := .perTn }
def Obj.OVERWRITTEN : Obj := { base := 0x1210, sub := 0x11, ty := .u 8, acc := .ro, own := .perTn }
def Obj.RETURNED : Obj := { base := 0x1210, sub := 0x12, ty := .u 8, acc := .ro, own := .perTn }
def Obj.EXPORT_BUSY : Obj := { base := 0x1210, sub := 0x13, ty := .bool, acc := .ro, own := .perTn }
def Obj.ENABLE_1240 : Obj := { base := 0x1240, sub := 0x01, lo := 0, hi := 95, ty := .bool, acc := .rw, rng := .between 0 1, clamp := .nearest, own := .bound }
def Obj.PREROLL_S : Obj := { base := 0x1240, sub := 0x02, lo := 0, hi := 95, ty := .u 1, acc := .rw, dflt := .const 0xA, rng := .between (0) 120, clamp := .nearest, own := .bound }
def Obj.ISLAND_KEEP : Obj := { base := 0x1240, sub := 0x03, lo := 0, hi := 95, ty := .bool, acc := .rw, dflt := .const 0x1, rng := .between 0 1, clamp := .nearest, own := .bound }
def Obj.PRIORITY_1240 : Obj := { base := 0x1240, sub := 0x04, lo := 0, hi := 95, ty := .u 1, acc := .rw, rng := .between (0) 7, clamp := .nearest, own := .bound }
def Obj.PURGE : Obj := { base := 0x1240, sub := 0x05, lo := 0, hi := 95, ty := .bool, acc := .cmd, rng := .only [1], clamp := .noAction, own := .bound }
def Obj.STATE_1240 : Obj := { base := 0x1240, sub := 0x10, lo := 0, hi := 95, ty := .enum8, acc := .ro, own := .bound }
def Obj.OPEN_HANDLE : Obj := { base := 0x1240, sub := 0x11, lo := 0, hi := 95, ty := .u 4, acc := .ro, own := .bound }
def Obj.PREROLL_SEGMENTS : Obj := { base := 0x1240, sub := 0x12, lo := 0, hi := 95, ty := .u 4, acc := .ro, own := .bound }
def Obj.RETAINED_SEGMENTS : Obj := { base := 0x1240, sub := 0x13, lo := 0, hi := 95, ty := .u 4, acc := .ro, own := .bound }
def Obj.NEXT_SEQ : Obj := { base := 0x1240, sub := 0x14, lo := 0, hi := 95, ty := .u 4, acc := .ro, own := .bound }
def Obj.FRAMES_KEPT : Obj := { base := 0x1240, sub := 0x20, lo := 0, hi := 95, ty := .u 8, acc := .ro, own := .bound }
def Obj.BYTES_KEPT : Obj := { base := 0x1240, sub := 0x21, lo := 0, hi := 95, ty := .u 8, acc := .ro, own := .bound }
def Obj.KEEP_DISCARDS : Obj := { base := 0x1240, sub := 0x22, lo := 0, hi := 95, ty := .u 8, acc := .ro, own := .bound }
def Obj.PREROLL_FREED : Obj := { base := 0x1240, sub := 0x23, lo := 0, hi := 95, ty := .u 8, acc := .ro, own := .bound }
def Obj.PREROLL_SHED : Obj := { base := 0x1240, sub := 0x24, lo := 0, hi := 95, ty := .u 8, acc := .ro, own := .bound }
def Obj.SEGMENTS_OVERWRITTEN : Obj := { base := 0x1240, sub := 0x25, lo := 0, hi := 95, ty := .u 8, acc := .ro, own := .bound }
def Obj.SEGMENTS_RETURNED : Obj := { base := 0x1240, sub := 0x26, lo := 0, hi := 95, ty := .u 8, acc := .ro, own := .bound }

/-! Objects of spec/15_dram.md. -/
def Obj.ERROR_POLICY : Obj := { base := 0x1300, sub := 0x01, lo := 0, hi := 1, ty := .enum8, acc := .rw, rng := .codes [0,1], clamp := .default }
def Obj.FREEZE_ON_DIAGNOSE : Obj := { base := 0x1300, sub := 0x02, lo := 0, hi := 1, ty := .bool, acc := .rw, dflt := .const 0x1, rng := .between 0 1, clamp := .nearest }
def Obj.WRITE_CRC : Obj := { base := 0x1300, sub := 0x03, lo := 0, hi := 1, ty := .bool, acc := .rw, rng := .between 0 1, clamp := .nearest }
def Obj.IDLE_SR_ENABLE : Obj := { base := 0x1300, sub := 0x04, lo := 0, hi := 1, ty := .bool, acc := .rw, rng := .between 0 1, clamp := .nearest }
def Obj.IDLE_SR_BEATS : Obj := { base := 0x1300, sub := 0x05, lo := 0, hi := 1, ty := .u 2, acc := .rw, dflt := .const 0x10, rng := .between (2) 8000, clamp := .nearest }
def Obj.STATE_1302 : Obj := { base := 0x1302, sub := 0x01, lo := 0, hi := 1, ty := .enum8, acc := .ro, dflt := .const 0x4 }
def Obj.CASE_TEMP : Obj := { base := 0x1302, sub := 0x02, lo := 0, hi := 1, ty := .i32, acc := .ro }
def Obj.REFRESH_INTERVAL_NS : Obj := { base := 0x1302, sub := 0x03, lo := 0, hi := 1, ty := .u 2, acc := .ro, dflt := .const 0x1E78 }
def Obj.REFRESH_OWED : Obj := { base := 0x1302, sub := 0x04, lo := 0, hi := 1, ty := .u 1, acc := .ro }
def Obj.REFRESH_POSTPONED_MAX : Obj := { base := 0x1302, sub := 0x05, lo := 0, hi := 1, ty := .u 1, acc := .ro }
def Obj.CE_COUNT : Obj := { base := 0x1302, sub := 0x06, lo := 0, hi := 1, ty := .u 8, acc := .ro }
def Obj.UE_COUNT : Obj := { base := 0x1302, sub := 0x07, lo := 0, hi := 1, ty := .u 8, acc := .ro }
def Obj.POISON_READS : Obj := { base := 0x1302, sub := 0x08, lo := 0, hi := 1, ty := .u 8, acc := .ro }
def Obj.CA_PARITY_ERRORS : Obj := { base := 0x1302, sub := 0x09, lo := 0, hi := 1, ty := .u 8, acc := .ro }
def Obj.WRITE_CRC_ERRORS : Obj := { base := 0x1302, sub := 0x0A, lo := 0, hi := 1, ty := .u 8, acc := .ro }
def Obj.REPLAYS : Obj := { base := 0x1302, sub := 0x0B, lo := 0, hi := 1, ty := .u 8, acc := .ro }
def Obj.REFRESH_FORCED : Obj := { base := 0x1302, sub := 0x0C, lo := 0, hi := 1, ty := .u 8, acc := .ro }
def Obj.SR_ENTRIES : Obj := { base := 0x1302, sub := 0x0D, lo := 0, hi := 1, ty := .u 8, acc := .ro }
def Obj.SR_ABANDONED : Obj := { base := 0x1302, sub := 0x0E, lo := 0, hi := 1, ty := .u 8, acc := .ro }
def Obj.THROTTLED_BEATS : Obj := { base := 0x1302, sub := 0x0F, lo := 0, hi := 1, ty := .u 8, acc := .ro }
def Obj.BYTES_READ : Obj := { base := 0x1302, sub := 0x10, lo := 0, hi := 1, ty := .u 8, acc := .ro }
def Obj.BYTES_WRITTEN : Obj := { base := 0x1302, sub := 0x11, lo := 0, hi := 1, ty := .u 8, acc := .ro }
def Obj.LATENCY_TARGET_NS : Obj := { base := 0x1310, sub := 0x01, lo := 0, hi := 5, ty := .u 4, acc := .rw, dflt := .perItem [2000,8000,4000,16000,1000,8000], rng := .between 250 1000000, clamp := .nearest }
def Obj.PORT_WEIGHT : Obj := { base := 0x1310, sub := 0x02, lo := 0, hi := 5, ty := .u 1, acc := .rw, dflt := .perItem [32,16,32,16,8,8], rng := .between 1 255, clamp := .nearest }
def Obj.PANIC_ON : Obj := { base := 0x1310, sub := 0x03, ty := .u 1, acc := .rw, dflt := .const 0x4B, rng := .between 1 99, clamp := .nearest }
def Obj.PANIC_ON_D4 : Obj := { base := 0x1310, sub := 0x03, lo := 4, hi := 4, ty := .u 1, acc := .rw, dflt := .const 0x19, rng := .between 1 99, clamp := .nearest }
def Obj.PANIC_OFF : Obj := { base := 0x1310, sub := 0x04, ty := .u 1, acc := .rw, dflt := .const 0x32, rng := .between 1 99, clamp := .nearest }
def Obj.PANIC_OFF_D4 : Obj := { base := 0x1310, sub := 0x04, lo := 4, hi := 4, ty := .u 1, acc := .rw, dflt := .const 0x32, rng := .between 1 99, clamp := .nearest }
def Obj.QUEUE_DEPTH_1310 : Obj := { base := 0x1310, sub := 0x10, lo := 0, hi := 5, ty := .u 2, acc := .ro }
def Obj.PANIC : Obj := { base := 0x1310, sub := 0x11, lo := 0, hi := 5, ty := .bool, acc := .ro }
def Obj.URGENCY : Obj := { base := 0x1310, sub := 0x12, lo := 0, hi := 5, count := 4, ty := .u 8, acc := .ro }
def Obj.MAX_LATENCY_NS : Obj := { base := 0x1310, sub := 0x16, lo := 0, hi := 5, ty := .u 4, acc := .ro }
def Obj.PANIC_BEATS : Obj := { base := 0x1310, sub := 0x17, lo := 0, hi := 5, ty := .u 8, acc := .ro }
def Obj.SCRUB_ENABLE : Obj := { base := 0x1320, sub := 0x01, ty := .bool, acc := .rw, dflt := .const 0x1, rng := .between 0 1, clamp := .nearest }
def Obj.SCRUB_POSITION : Obj := { base := 0x1320, sub := 0x02, ty := .u 8, acc := .ro }
def Obj.SCRUB_PASSES : Obj := { base := 0x1320, sub := 0x03, ty := .u 8, acc := .ro }
def Obj.LAST_PASS_BEAT : Obj := { base := 0x1320, sub := 0x04, ty := .beat64, acc := .ro }
def Obj.SCRUB_CARRIED : Obj := { base := 0x1320, sub := 0x05, ty := .u 4, acc := .ro }
def Obj.LOG_TOTAL : Obj := { base := 0x1330, sub := 0x01, ty := .u 4, acc := .ro, vis := .pfCanFw }
def Obj.LOG : Obj := { base := 0x1330, sub := 0x02, ty := .octets 1024, acc := .ro, vis := .pfCanFw }
def Obj.LOG_CLEAR : Obj := { base := 0x1330, sub := 0x03, ty := .bool, acc := .cmd, rng := .only [1], clamp := .noAction, vis := .pfCanFw }
def Obj.FROZEN_CHANNELS : Obj := { base := 0x1340, sub := 0x01, ty := .bits32, acc := .ro, vis := .pfCanFw }
def Obj.DIAG_CHANNEL : Obj := { base := 0x1340, sub := 0x02, ty := .u 1, acc := .rw, rng := .between 0 1, clamp := .nearest, vis := .pfCanFw }
def Obj.RETRY_BUFFER : Obj := { base := 0x1340, sub := 0x03, ty := .octets 1024, acc := .ro, vis := .pfCanFw }
def Obj.HELD_REQUESTS : Obj := { base := 0x1340, sub := 0x04, ty := .octets 12, acc := .ro, vis := .pfCanFw }
def Obj.DIAG_ADDRESS : Obj := { base := 0x1340, sub := 0x05, ty := .u 8, acc := .rw, rng := .stepped 0 0xFFFFFFFC0 64, clamp := .step, vis := .pfCanFw }
def Obj.DIAG_READ : Obj := { base := 0x1340, sub := 0x06, ty := .bool, acc := .cmd, rng := .only [1], clamp := .noAction, vis := .pfCanFw }
def Obj.DIAG_DATA : Obj := { base := 0x1340, sub := 0x07, ty := .octets 72, acc := .ro, vis := .pfCanFw }

/-! Objects of spec/16_compression_mover.md. -/
def Obj.BOOST_ENABLE : Obj := { base := 0x1400, sub := 0x01, lo := 0, hi := 1, ty := .bool, acc := .rw, dflt := .const 0x1, rng := .between 0 1, clamp := .nearest }
def Obj.QUEUE_DEPTH_1400 : Obj := { base := 0x1400, sub := 0x02, lo := 0, hi := 1, ty := .u 1, acc := .ro }
def Obj.BOOSTED : Obj := { base := 0x1400, sub := 0x03, lo := 0, hi := 1, ty := .bool, acc := .ro }
def Obj.JOBS_OK : Obj := { base := 0x1400, sub := 0x10, lo := 0, hi := 1, ty := .u 8, acc := .ro }
def Obj.JOBS_FAILED : Obj := { base := 0x1400, sub := 0x11, lo := 0, hi := 1, ty := .u 8, acc := .ro }
def Obj.BYTES_IN : Obj := { base := 0x1400, sub := 0x12, lo := 0, hi := 1, ty := .u 8, acc := .ro }
def Obj.BYTES_OUT : Obj := { base := 0x1400, sub := 0x13, lo := 0, hi := 1, ty := .u 8, acc := .ro }
def Obj.OUT_FULL_JOBS : Obj := { base := 0x1400, sub := 0x14, lo := 0, hi := 1, ty := .u 8, acc := .ro }
def Obj.BASE_BEATS : Obj := { base := 0x1400, sub := 0x15, lo := 0, hi := 1, ty := .u 8, acc := .ro }
def Obj.ABORTED_JOBS : Obj := { base := 0x1400, sub := 0x16, lo := 0, hi := 1, ty := .u 8, acc := .ro }
def Obj.COMP_OK : Obj := { base := 0x1410, sub := 0x01, ty := .u 8, acc := .ro, own := .perTn }
def Obj.COMP_FAILED : Obj := { base := 0x1410, sub := 0x02, ty := .u 8, acc := .ro, own := .perTn }
def Obj.MOVE_OK : Obj := { base := 0x1410, sub := 0x03, ty := .u 8, acc := .ro, own := .perTn }
def Obj.MOVE_FAILED : Obj := { base := 0x1410, sub := 0x04, ty := .u 8, acc := .ro, own := .perTn }

/-! Objects of spec/17_muslin_audio.md. -/
def Obj.FADE_OUT_MS : Obj := { base := 0x1500, sub := 0x01, ty := .u 1, acc := .rw, dflt := .const 0x5, rng := .between (1) 64, clamp := .nearest }
def Obj.FADE_IN_MS : Obj := { base := 0x1500, sub := 0x02, ty := .u 1, acc := .rw, dflt := .const 0x14, rng := .between (1) 250, clamp := .nearest }
def Obj.GAIN_RAMP_BEATS : Obj := { base := 0x1500, sub := 0x03, ty := .u 1, acc := .rw, dflt := .const 0x8, rng := .between (0) 80, clamp := .nearest }
def Obj.VALIDITY_POLICY : Obj := { base := 0x1500, sub := 0x04, ty := .enum8, acc := .rw, rng := .codes [0, 1], clamp := .default }
def Obj.HELD_DETECTIONS : Obj := { base := 0x1500, sub := 0x05, ty := .u 1, acc := .ro }
def Obj.AUDIO_HELD_LOST : Obj := { base := 0x1500, sub := 0x06, ty := .u 8, acc := .ro }
def Obj.CLIP_SAMPLES : Obj := { base := 0x1500, sub := 0x07, ty := .u 8, acc := .ro }
def Obj.ENABLE_1510 : Obj := { base := 0x1510, sub := 0x01, lo := 0, hi := 3, ty := .bool, acc := .rw, dflt := .const 0x1, rng := .between 0 1, clamp := .nearest }
def Obj.WORD_MODE : Obj := { base := 0x1510, sub := 0x02, lo := 0, hi := 3, ty := .enum8, acc := .rw, rng := .codes [0, 1, 2], clamp := .default }
def Obj.LOCK_STATE : Obj := { base := 0x1510, sub := 0x10, lo := 0, hi := 3, ty := .enum8, acc := .ro }
def Obj.RATE : Obj := { base := 0x1510, sub := 0x11, lo := 0, hi := 3, ty := .enum8, acc := .ro }
def Obj.CS_FORMAT_1510 : Obj := { base := 0x1510, sub := 0x12, lo := 0, hi := 3, ty := .enum8, acc := .ro, dflt := .const 0xFF }
def Obj.CS_A : Obj := { base := 0x1510, sub := 0x13, lo := 0, hi := 3, ty := .octets 24, acc := .ro }
def Obj.CS_B : Obj := { base := 0x1510, sub := 0x14, lo := 0, hi := 3, ty := .octets 24, acc := .ro }
def Obj.USER_A : Obj := { base := 0x1510, sub := 0x15, lo := 0, hi := 3, ty := .octets 24, acc := .ro }
def Obj.USER_B : Obj := { base := 0x1510, sub := 0x16, lo := 0, hi := 3, ty := .octets 24, acc := .ro }
def Obj.CS_BLOCK_BEAT : Obj := { base := 0x1510, sub := 0x17, lo := 0, hi := 3, ty := .beat64, acc := .ro }
def Obj.INVALID_SAMPLES : Obj := { base := 0x1510, sub := 0x18, lo := 0, hi := 3, ty := .u 8, acc := .ro }
def Obj.BIPHASE_ERRORS : Obj := { base := 0x1510, sub := 0x19, lo := 0, hi := 3, ty := .u 8, acc := .ro }
def Obj.CS_CRC_ERRORS : Obj := { base := 0x1510, sub := 0x1A, lo := 0, hi := 3, ty := .u 8, acc := .ro }
def Obj.LOCK_LOSSES : Obj := { base := 0x1510, sub := 0x1B, lo := 0, hi := 3, ty := .u 8, acc := .ro }
def Obj.ENABLE_1520 : Obj := { base := 0x1520, sub := 0x01, lo := 0, hi := 3, ty := .bool, acc := .rw, dflt := .const 0x1, rng := .between 0 1, clamp := .nearest }
def Obj.CLOCK : Obj := { base := 0x1520, sub := 0x02, lo := 0, hi := 3, ty := .enum8, acc := .rw, rng := .codes [0,1,2,3,4], clamp := .default }
def Obj.TX_RATE : Obj := { base := 0x1520, sub := 0x03, lo := 0, hi := 3, ty := .enum8, acc := .rw, dflt := .const 0x3, rng := .codes [1,2,3,4,5], clamp := .default }
def Obj.CS_FORMAT_1520 : Obj := { base := 0x1520, sub := 0x04, lo := 0, hi := 3, ty := .enum8, acc := .rw, rng := .codes [0, 1], clamp := .default }
def Obj.NON_AUDIO : Obj := { base := 0x1520, sub := 0x05, lo := 0, hi := 3, ty := .bool, acc := .rw, rng := .between 0 1, clamp := .nearest }
def Obj.CHANNEL_ORIGIN : Obj := { base := 0x1520, sub := 0x06, lo := 0, hi := 3, ty := .octets 4, acc := .rw }
def Obj.CHANNEL_DEST : Obj := { base := 0x1520, sub := 0x07, lo := 0, hi := 3, ty := .octets 4, acc := .rw }
def Obj.CATEGORY : Obj := { base := 0x1520, sub := 0x08, lo := 0, hi := 3, ty := .u 1, acc := .rw }
def Obj.COPY_PERMITTED : Obj := { base := 0x1520, sub := 0x09, lo := 0, hi := 3, ty := .bool, acc := .rw, dflt := .const 0x1, rng := .between 0 1, clamp := .nearest }
def Obj.USER_SOURCE : Obj := { base := 0x1520, sub := 0x0A, lo := 0, hi := 3, ty := .enum8, acc := .rw, dflt := .const 0xFF, rng := .codes [0,1,2,3,4,5,6,7,255], clamp := .default }
def Obj.FALLBACK_RATE : Obj := { base := 0x1520, sub := 0x0B, lo := 0, hi := 3, ty := .enum8, acc := .rw, dflt := .const 0x3, rng := .codes [1,3,5], clamp := .default }
def Obj.RATE_ACTIVE : Obj := { base := 0x1520, sub := 0x10, lo := 0, hi := 3, ty := .enum8, acc := .ro, dflt := .const 0x3 }
def Obj.CLOCK_ACTIVE : Obj := { base := 0x1520, sub := 0x11, lo := 0, hi := 3, ty := .enum8, acc := .ro }
def Obj.CS_BUILT_A : Obj := { base := 0x1520, sub := 0x12, lo := 0, hi := 3, ty := .octets 24, acc := .ro }
def Obj.FALLBACKS : Obj := { base := 0x1520, sub := 0x13, lo := 0, hi := 3, ty := .u 8, acc := .ro }
def Obj.DELAY_SAMPLES : Obj := { base := 0x1530, sub := 0x01, lo := 0, hi := 15, ty := .u 4, acc := .rw, rng := .between (0) 2880000, clamp := .nearest }
def Obj.MUTE : Obj := { base := 0x1530, sub := 0x02, lo := 0, hi := 15, ty := .bool, acc := .rw, rng := .between 0 1, clamp := .nearest }
def Obj.CLIPPED : Obj := { base := 0x1530, sub := 0x03, lo := 0, hi := 15, ty := .u 8, acc := .ro }
def Obj.DELAY_MISSES : Obj := { base := 0x1530, sub := 0x04, lo := 0, hi := 15, ty := .u 8, acc := .ro }
def Obj.UNDERRUN_SAMPLES_1530 : Obj := { base := 0x1530, sub := 0x05, lo := 0, hi := 15, ty := .u 8, acc := .ro }
def Obj.OVERRUN_SAMPLES_1530 : Obj := { base := 0x1530, sub := 0x06, lo := 0, hi := 15, ty := .u 8, acc := .ro }
def Obj.STATE_1540 : Obj := { base := 0x1540, sub := 0x01, lo := 0, hi := 15, ty := .enum8, acc := .ro }
def Obj.PHI : Obj := { base := 0x1540, sub := 0x02, lo := 0, hi := 15, ty := .u 4, acc := .ro }
def Obj.FADES : Obj := { base := 0x1540, sub := 0x03, lo := 0, hi := 15, ty := .u 8, acc := .ro }
def Obj.RAMPS : Obj := { base := 0x1540, sub := 0x04, lo := 0, hi := 15, ty := .u 8, acc := .ro }
def Obj.UNDERRUN_SAMPLES_1540 : Obj := { base := 0x1540, sub := 0x05, lo := 0, hi := 15, ty := .u 8, acc := .ro }
def Obj.OVERRUN_SAMPLES_1540 : Obj := { base := 0x1540, sub := 0x06, lo := 0, hi := 15, ty := .u 8, acc := .ro }
def Obj.ENABLE_1550 : Obj := { base := 0x1550, sub := 0x01, lo := 0, hi := 7, ty := .bool, acc := .rw, rng := .between 0 1, clamp := .nearest, own := .bound }
def Obj.FORMAT : Obj := { base := 0x1550, sub := 0x02, lo := 0, hi := 7, ty := .enum8, acc := .rw, rng := .codes [0, 1], clamp := .default, own := .bound }
def Obj.CHANNELS : Obj := { base := 0x1550, sub := 0x03, lo := 0, hi := 7, ty := .u 1, acc := .rw, dflt := .const 0x1, rng := .evenStereo, clamp := .nearest, own := .bound }
def Obj.TENANCY : Obj := { base := 0x1550, sub := 0x04, lo := 0, hi := 7, ty := .u 1, acc := .rw, rng := .between (0) 7, clamp := .nearest }
def Obj.DEST_MAC : Obj := { base := 0x1550, sub := 0x05, lo := 0, hi := 7, ty := .octets 6, acc := .rw, own := .bound }
def Obj.VID_1550 : Obj := { base := 0x1550, sub := 0x06, lo := 0, hi := 7, ty := .u 2, acc := .rw, dflt := .const 0x1, rng := .between 1 4094, clamp := .nearest, own := .bound }
def Obj.PCP : Obj := { base := 0x1550, sub := 0x07, lo := 0, hi := 7, ty := .u 1, acc := .rw, dflt := .const 0x6, rng := .between 0 7, clamp := .nearest, own := .bound }
def Obj.STREAM_ID_1550 : Obj := { base := 0x1550, sub := 0x08, lo := 0, hi := 7, ty := .octets 8, acc := .rw, own := .bound }
def Obj.PRESENTATION_OFFSET_NS : Obj := { base := 0x1550, sub := 0x09, lo := 0, hi := 7, ty := .u 4, acc := .rw, dflt := .const 0x1E8480, rng := .between (125000) 100000000, clamp := .nearest, own := .bound }
def Obj.SRC_IP : Obj := { base := 0x1550, sub := 0x0A, lo := 0, hi := 7, ty := .octets 4, acc := .rw, own := .bound }
def Obj.DST_IP : Obj := { base := 0x1550, sub := 0x0B, lo := 0, hi := 7, ty := .octets 4, acc := .rw, own := .bound }
def Obj.UDP_SRC : Obj := { base := 0x1550, sub := 0x0C, lo := 0, hi := 7, ty := .u 2, acc := .rw, dflt := .const 0x138C, rng := .between 1 65535, clamp := .nearest, own := .bound }
def Obj.UDP_DST_1550 : Obj := { base := 0x1550, sub := 0x0D, lo := 0, hi := 7, ty := .u 2, acc := .rw, dflt := .const 0x138C, rng := .between 1 65535, clamp := .nearest, own := .bound }
def Obj.PAYLOAD_TYPE : Obj := { base := 0x1550, sub := 0x0E, lo := 0, hi := 7, ty := .u 1, acc := .rw, dflt := .const 0x61, rng := .between (96) 127, clamp := .nearest, own := .bound }
def Obj.SSRC_1550 : Obj := { base := 0x1550, sub := 0x0F, lo := 0, hi := 7, ty := .u 4, acc := .rw, own := .bound }
def Obj.SAMPLES_PER_PACKET : Obj := { base := 0x1550, sub := 0x10, lo := 0, hi := 7, ty := .u 1, acc := .rw, dflt := .const 0x6, rng := .stepped 6 48 6, clamp := .step, own := .bound }
def Obj.PACKETS_SENT : Obj := { base := 0x1550, sub := 0x20, lo := 0, hi := 7, ty := .u 8, acc := .ro, own := .bound }
def Obj.PACKETS_HELD : Obj := { base := 0x1550, sub := 0x21, lo := 0, hi := 7, ty := .u 8, acc := .ro, own := .bound }
def Obj.IN_ENABLE : Obj := { base := 0x1558, sub := 0x01, lo := 0, hi := 7, ty := .bool, acc := .rw, rng := .between 0 1, clamp := .nearest, own := .bound }
def Obj.IN_FORMAT : Obj := { base := 0x1558, sub := 0x02, lo := 0, hi := 7, ty := .enum8, acc := .rw, rng := .codes [0,1], clamp := .default, own := .bound }
def Obj.IN_CHANNELS : Obj := { base := 0x1558, sub := 0x03, lo := 0, hi := 7, ty := .u 1, acc := .rw, dflt := .const 0x1, rng := .evenStereo, clamp := .nearest, own := .bound }
def Obj.IN_TENANCY : Obj := { base := 0x1558, sub := 0x04, lo := 0, hi := 7, ty := .u 1, acc := .rw, rng := .between 0 7, clamp := .nearest }
def Obj.STREAM_ID_1558 : Obj := { base := 0x1558, sub := 0x05, lo := 0, hi := 7, ty := .octets 8, acc := .rw, own := .bound }
def Obj.IN_UDP_DST : Obj := { base := 0x1558, sub := 0x06, lo := 0, hi := 7, ty := .u 2, acc := .rw, dflt := .const 0x138C, rng := .between 1 65535, clamp := .nearest, own := .bound }
def Obj.IN_PAYLOAD_TYPE : Obj := { base := 0x1558, sub := 0x07, lo := 0, hi := 7, ty := .u 1, acc := .rw, dflt := .const 0x61, rng := .between 96 127, clamp := .nearest, own := .bound }
def Obj.IN_SSRC : Obj := { base := 0x1558, sub := 0x08, lo := 0, hi := 7, ty := .u 4, acc := .rw, own := .bound }
def Obj.RTP_LATENCY_SAMPLES : Obj := { base := 0x1558, sub := 0x09, lo := 0, hi := 7, ty := .u 4, acc := .rw, dflt := .const 0x60, rng := .between (6) 1536, clamp := .nearest, own := .bound }
def Obj.PACKETS_ACCEPTED : Obj := { base := 0x1558, sub := 0x20, lo := 0, hi := 7, ty := .u 8, acc := .ro, own := .bound }
def Obj.PACKETS_LATE : Obj := { base := 0x1558, sub := 0x21, lo := 0, hi := 7, ty := .u 8, acc := .ro, own := .bound }
def Obj.PACKETS_EARLY : Obj := { base := 0x1558, sub := 0x22, lo := 0, hi := 7, ty := .u 8, acc := .ro, own := .bound }
def Obj.PACKETS_DISCARDED : Obj := { base := 0x1558, sub := 0x23, lo := 0, hi := 7, ty := .u 8, acc := .ro, own := .bound }
def Obj.SEQ_GAPS : Obj := { base := 0x1558, sub := 0x24, lo := 0, hi := 7, ty := .u 8, acc := .ro, own := .bound }
def Obj.ENABLE_1560 : Obj := { base := 0x1560, sub := 0x01, lo := 0, hi := 1, ty := .bool, acc := .rw, rng := .between 0 1, clamp := .nearest }
def Obj.SOURCE : Obj := { base := 0x1560, sub := 0x02, lo := 0, hi := 1, ty := .enum8, acc := .rw, rng := .codes [0, 1, 2, 3, 4, 5, 6, 7], clamp := .default }
def Obj.TEMPLATES : Obj := { base := 0x1560, sub := 0x03, lo := 0, hi := 1, ty := .bits32, acc := .rw, rng := .bits 0xFF, clamp := .bits }
def Obj.THRESHOLD : Obj := { base := 0x1560, sub := 0x04, lo := 0, hi := 1, ty := .u 2, acc := .rw, dflt := .const 0x352, rng := .between (1) 1000, clamp := .nearest }
def Obj.REFRACTORY : Obj := { base := 0x1560, sub := 0x05, lo := 0, hi := 1, ty := .u 2, acc := .rw, dflt := .const 0x32, rng := .between (0) 1000, clamp := .nearest }
def Obj.PARTIAL_SCORE : Obj := { base := 0x1560, sub := 0x06, lo := 0, hi := 1, ty := .u 2, acc := .ro }
def Obj.LAST_DETECTION : Obj := { base := 0x1560, sub := 0x07, lo := 0, hi := 1, ty := .octets 32, acc := .ro }
def Obj.DETECTIONS : Obj := { base := 0x1560, sub := 0x08, lo := 0, hi := 1, ty := .u 8, acc := .ro }
def Obj.RING_1560 : Obj := { base := 0x1560, sub := 0x09, lo := 0, hi := 1, ty := .octets 288016, acc := .ro }
def Obj.CLIP : Obj := { base := 0x1560, sub := 0x0A, lo := 0, hi := 1, ty := .octets 288016, acc := .ro }
def Obj.CLIP_LOCKED : Obj := { base := 0x1560, sub := 0x0B, lo := 0, hi := 1, ty := .bool, acc := .ro }
def Obj.CLIP_RELEASE : Obj := { base := 0x1560, sub := 0x0C, lo := 0, hi := 1, ty := .bool, acc := .cmd, rng := .only [1], clamp := .noAction }
def Obj.LENGTH : Obj := { base := 0x1568, sub := 0x01, lo := 0, hi := 7, ty := .u 1, acc := .rw, rng := .orZero 8 160, clamp := .orZero }
def Obj.FEATURES : Obj := { base := 0x1568, sub := 0x02, lo := 0, hi := 7, ty := .octets 6400, acc := .rw }
def Obj.LABEL : Obj := { base := 0x1568, sub := 0x03, lo := 0, hi := 7, ty := .octets 16, acc := .rw }

/-! Objects of spec/18_host_endpoint.md. -/
def Obj.PCI_VENDOR_ID : Obj := { base := 0x1600, sub := 0x01, ty := .u 2, acc := .const, dflt := .unit }
def Obj.LINK_STATE_1600 : Obj := { base := 0x1600, sub := 0x02, ty := .enum8, acc := .ro }
def Obj.LINK_SPEED_1600 : Obj := { base := 0x1600, sub := 0x03, ty := .enum8, acc := .ro }
def Obj.LINK_WIDTH : Obj := { base := 0x1600, sub := 0x04, ty := .u 1, acc := .ro }
def Obj.NUM_VFS : Obj := { base := 0x1600, sub := 0x05, ty := .u 1, acc := .ro }
def Obj.H_RATE : Obj := { base := 0x1600, sub := 0x06, ty := .rate64, acc := .ro }
def Obj.PRESENT : Obj := { base := 0x1610, sub := 0x01, lo := 0, hi := 7, ty := .bool, acc := .ro, own := .bound }
def Obj.FLR_COUNT : Obj := { base := 0x1610, sub := 0x02, lo := 0, hi := 7, ty := .u 8, acc := .ro, own := .bound }
def Obj.H_RX_DELIVERED : Obj := { base := 0x1610, sub := 0x10, lo := 0, hi := 7, ty := .u 8, acc := .ro, own := .bound }
def Obj.H_RX_ABSENT : Obj := { base := 0x1610, sub := 0x11, lo := 0, hi := 7, ty := .u 8, acc := .ro, own := .bound }
def Obj.H_RX_TOO_LONG : Obj := { base := 0x1610, sub := 0x12, lo := 0, hi := 7, ty := .u 8, acc := .ro, own := .bound }
def Obj.H_RX_RING_FULL : Obj := { base := 0x1610, sub := 0x13, lo := 0, hi := 7, ty := .u 8, acc := .ro, own := .bound }
def Obj.H_RX_ABORTED : Obj := { base := 0x1610, sub := 0x14, lo := 0, hi := 7, ty := .u 8, acc := .ro, own := .bound }
def Obj.H_TX_ACCEPTED : Obj := { base := 0x1610, sub := 0x15, lo := 0, hi := 7, ty := .u 8, acc := .ro, own := .bound }
def Obj.H_TX_DENIED : Obj := { base := 0x1610, sub := 0x16, lo := 0, hi := 7, ty := .u 8, acc := .ro, own := .bound }
def Obj.H_TX_DMA_ERRORS : Obj := { base := 0x1610, sub := 0x17, lo := 0, hi := 7, ty := .u 8, acc := .ro, own := .bound }
def Obj.H_TX_ABORTED : Obj := { base := 0x1610, sub := 0x18, lo := 0, hi := 7, ty := .u 8, acc := .ro, own := .bound }
def Obj.EVENTS_LOST : Obj := { base := 0x1610, sub := 0x19, lo := 0, hi := 7, ty := .u 8, acc := .ro, own := .bound }
def Obj.RING_ERRORS : Obj := { base := 0x1610, sub := 0x1A, lo := 0, hi := 7, ty := .u 8, acc := .ro, own := .bound }
def Obj.JOURNAL_SEQ : Obj := { base := 0x1620, sub := 0x01, lo := 0, hi := 7, ty := .u 4, acc := .ro, own := .bound, vis := .pfFw }
def Obj.JOURNAL : Obj := { base := 0x1620, sub := 0x02, lo := 0, hi := 7, ty := .octets 1024, acc := .ro, own := .bound, vis := .pfFw }

/-! Objects of spec/19_events_counters.md. -/
def Obj.NOTIFICATIONS_SENT : Obj := { base := 0x1700, sub := 0x01, ty := .u 8, acc := .ro }
def Obj.NOTIFY_CARRIED : Obj := { base := 0x1700, sub := 0x02, ty := .u 2, acc := .ro }
def Obj.HELD_LOST : Obj := { base := 0x1700, sub := 0x03, ty := .u 8, acc := .ro }
def Obj.RAW_1701 : Obj := { base := 0x1701, sub := 0x01, lo := 0, hi := 19, ty := .bits32, acc := .ro, own := .perTn }
def Obj.LATCHED : Obj := { base := 0x1701, sub := 0x02, lo := 0, hi := 19, ty := .bits32, acc := .ro, own := .perTn }
def Obj.MASKED : Obj := { base := 0x1701, sub := 0x03, lo := 0, hi := 19, ty := .bits32, acc := .ro, own := .perTn }
def Obj.EVENT_CLEAR : Obj := { base := 0x1701, sub := 0x04, lo := 0, hi := 19, ty := .bits32, acc := .cmd, rng := .eventBits, clamp := .bits, own := .perTn }
def Obj.EVENT_UNMASK : Obj := { base := 0x1701, sub := 0x05, lo := 0, hi := 19, ty := .bits32, acc := .cmd, rng := .eventBits, clamp := .bits, own := .perTn }
def Obj.SOURCE_CONFIG : Obj := { base := 0x1720, sub := 0x01, lo := 0, hi := 19, count := 32, ty := .octets 8, acc := .rw, dflt := .sourceConfig, rng := .sourceConfig, clamp := .perField }
def Obj.SOURCE_STATUS : Obj := { base := 0x1740, sub := 0x01, lo := 0, hi := 19, count := 32, ty := .octets 16, acc := .ro, own := .perTn }
def Obj.SNAPSHOT : Obj := { base := 0x1800, sub := 0x01, ty := .bool, acc := .rwb, rng := .between 1 1, clamp := .nearest }
def Obj.AUTO_SNAPSHOT_BEATS : Obj := { base := 0x1800, sub := 0x02, ty := .u 4, acc := .rw, rng := .orZero 80 80000000, clamp := .orZero }
def Obj.SHOWN_BANK : Obj := { base := 0x1800, sub := 0x03, ty := .u 1, acc := .ro }
def Obj.SNAPSHOT_BEAT : Obj := { base := 0x1800, sub := 0x04, ty := .beat64, acc := .ro }
def Obj.SNAPSHOT_SEQ : Obj := { base := 0x1800, sub := 0x05, ty := .u 4, acc := .ro }
def Obj.SNAPSHOT_BUSY : Obj := { base := 0x1800, sub := 0x06, ty := .bool, acc := .ro }
def Obj.WRAPPED_ANY : Obj := { base := 0x1800, sub := 0x07, ty := .bool, acc := .ro }
def Obj.SNAP_READS : Obj := { base := 0x1801, sub := 0x01, ty := .bool, acc := .rw, rng := .between 0 1, clamp := .nearest, own := .perMaster }
def Obj.CONFIG : Obj := { base := 0x1810, sub := 0x01, lo := 0, hi := 23, count := 16, ty := .octets 8, acc := .rw, dflt := .const 0xFFFF0000000000, rng := .blockConfig, clamp := .perField, own := .bound }
def Obj.BLOCK_VALUE : Obj := { base := 0x1830, sub := 0x01, lo := 0, hi := 23, count := 16, ty := .octets 32, acc := .ro, own := .bound }
def Obj.KIND : Obj := { base := 0x1900, sub := 0x01, lo := 0, hi := 15, ty := .enum8, acc := .rw, rng := .codes [0,1], clamp := .default }
def Obj.INVERT_1900 : Obj := { base := 0x1900, sub := 0x02, lo := 0, hi := 15, ty := .bool, acc := .rw, rng := .between 0 1, clamp := .nearest }
def Obj.DEBOUNCE_BEATS : Obj := { base := 0x1900, sub := 0x03, lo := 0, hi := 15, ty := .u 2, acc := .rw, dflt := .const 0x50, rng := .between (1) 8000, clamp := .nearest }
def Obj.CHATTER_WINDOW : Obj := { base := 0x1900, sub := 0x04, lo := 0, hi := 15, ty := .u 4, acc := .rw, dflt := .const 0x1F40, rng := .between (80) 80000, clamp := .nearest }
def Obj.CHATTER_TRANSITIONS : Obj := { base := 0x1900, sub := 0x05, lo := 0, hi := 15, ty := .u 2, acc := .rw, dflt := .const 0x10, rng := .between (2) 1000, clamp := .nearest }
def Obj.STUCK_S : Obj := { base := 0x1900, sub := 0x06, lo := 0, hi := 15, ty := .u 4, acc := .rw, rng := .between (0) 604800, clamp := .nearest }
def Obj.RAW_1900 : Obj := { base := 0x1900, sub := 0x10, lo := 0, hi := 15, ty := .bool, acc := .ro }
def Obj.LEVEL_1900 : Obj := { base := 0x1900, sub := 0x11, lo := 0, hi := 15, ty := .bool, acc := .ro }
def Obj.CHATTERING : Obj := { base := 0x1900, sub := 0x12, lo := 0, hi := 15, ty := .bool, acc := .ro }
def Obj.STUCK : Obj := { base := 0x1900, sub := 0x13, lo := 0, hi := 15, ty := .bool, acc := .ro }
def Obj.LAST_CHANGE_BEAT_1900 : Obj := { base := 0x1900, sub := 0x14, lo := 0, hi := 15, ty := .beat64, acc := .ro }
def Obj.CHANGES : Obj := { base := 0x1900, sub := 0x15, lo := 0, hi := 15, ty := .u 8, acc := .ro }
def Obj.CHATTER_WINDOWS : Obj := { base := 0x1900, sub := 0x16, lo := 0, hi := 15, ty := .u 8, acc := .ro }
def Obj.STUCK_EPISODES : Obj := { base := 0x1900, sub := 0x17, lo := 0, hi := 15, ty := .u 8, acc := .ro }
def Obj.RELAY_MODE : Obj := { base := 0x1910, sub := 0x01, lo := 0, hi := 3, ty := .enum8, acc := .rw, rng := .codes [0,1,2], clamp := .default }
def Obj.RELAY_COMMAND : Obj := { base := 0x1910, sub := 0x02, lo := 0, hi := 3, ty := .bool, acc := .rw, rng := .between 0 1, clamp := .nearest }
def Obj.FOLLOW_EVENT : Obj := { base := 0x1910, sub := 0x03, lo := 0, hi := 3, ty := .u 2, acc := .rw, rng := .between (0) 639, clamp := .nearest }
def Obj.FOLLOW_INPUT : Obj := { base := 0x1910, sub := 0x04, lo := 0, hi := 3, ty := .u 1, acc := .rw, rng := .between (0) 15, clamp := .nearest }
def Obj.INVERT_1910 : Obj := { base := 0x1910, sub := 0x05, lo := 0, hi := 3, ty := .bool, acc := .rw, rng := .between 0 1, clamp := .nearest }
def Obj.HOLD_ON_RESTART : Obj := { base := 0x1910, sub := 0x06, lo := 0, hi := 3, ty := .bool, acc := .rw, dflt := .const 0x1, rng := .between 0 1, clamp := .nearest }
def Obj.ENERGISED : Obj := { base := 0x1910, sub := 0x10, lo := 0, hi := 3, ty := .bool, acc := .ro }
def Obj.OPERATIONS : Obj := { base := 0x1910, sub := 0x11, lo := 0, hi := 3, ty := .u 8, acc := .ro }

/-! Objects of spec/20_recovery.md. -/
def Obj.GUARANTEES : Obj := { base := 0x0118, sub := 0x01, ty := .bits32, acc := .ro }
def Obj.WITHDRAWN_CAUSE : Obj := { base := 0x0118, sub := 0x02, ty := .enum8, acc := .ro }
def Obj.WITHDRAWN_BEAT : Obj := { base := 0x0118, sub := 0x03, ty := .beat64, acc := .ro }
def Obj.WITHDRAWN_CLEAR : Obj := { base := 0x0118, sub := 0x04, ty := .bool, acc := .cmd, rng := .only [1], clamp := .noAction }
def Obj.RECOVERY_TOTAL : Obj := { base := 0x0119, sub := 0x01, ty := .u 4, acc := .ro, vis := .pfCanFw }
def Obj.RECOVERY_RING : Obj := { base := 0x0119, sub := 0x02, ty := .octets 2048, acc := .ro, vis := .pfCanFw }

/-! Objects of spec/21_unit_hardware.md. -/
def Obj.FAN_MIN_LEVEL : Obj := { base := 0x1980, sub := 0x01, ty := .u 1, acc := .rw, rng := .between (0) 15, clamp := .nearest }
def Obj.THERMAL_ACTION : Obj := { base := 0x1980, sub := 0x02, ty := .enum8, acc := .rw, rng := .codes [0, 1], clamp := .default }
def Obj.FAN_LEVEL : Obj := { base := 0x1980, sub := 0x03, ty := .u 1, acc := .ro, dflt := .const 0x3 }
def Obj.BOOST_REQUEST : Obj := { base := 0x1980, sub := 0x04, ty := .u 2, acc := .ro }
def Obj.TRAY_PRESENT : Obj := { base := 0x1980, sub := 0x05, ty := .bool, acc := .ro, dflt := .const 0x1 }
def Obj.FAN_FAILED : Obj := { base := 0x1980, sub := 0x06, ty := .bits32, acc := .ro }
def Obj.FAN_RPM : Obj := { base := 0x1980, sub := 0x07, count := 3, ty := .u 2, acc := .ro }
def Obj.THERMAL_TRIPS : Obj := { base := 0x1980, sub := 0x0A, ty := .u 4, acc := .ro }
def Obj.VALUE : Obj := { base := 0x1990, sub := 0x01, lo := 0, hi := 7, ty := .i32, acc := .ro }
def Obj.ALARM : Obj := { base := 0x1990, sub := 0x02, lo := 0, hi := 7, ty := .i32, acc := .rw, dflt := .perItem [650,850,1000,850,850,950,700,750], rng := .alarm, clamp := .nearest }
def Obj.CRITICAL : Obj := { base := 0x1990, sub := 0x03, lo := 0, hi := 7, ty := .i32, acc := .const, dflt := .perItem [700,950,1100,950,950,1050,800,850] }
def Obj.STATE_1990 : Obj := { base := 0x1990, sub := 0x04, lo := 0, hi := 7, ty := .enum8, acc := .ro }
def Obj.PEAK : Obj := { base := 0x1990, sub := 0x05, lo := 0, hi := 7, ty := .i32, acc := .ro }
def Obj.LOCATE : Obj := { base := 0x19A0, sub := 0x01, ty := .bool, acc := .rw, rng := .between 0 1, clamp := .nearest }
def Obj.LED_TEST : Obj := { base := 0x19A0, sub := 0x02, ty := .bool, acc := .cmd, rng := .only [1], clamp := .noAction }
def Obj.FAULT_CODE : Obj := { base := 0x19A0, sub := 0x03, ty := .u 1, acc := .ro }

/-! Objects of spec/05_tenancies.md. -/
def Obj.TN_STATE : Obj := { base := 0x1110, sub := 0x01, lo := 0, hi := 7, ty := .enum8, acc := .ro, dflt := .perItem [1,0,0,0,0,0,0,0], vis := .pfCanFw }
def Obj.TN_COMMAND : Obj := { base := 0x1110, sub := 0x02, lo := 1, hi := 7, ty := .enum8, acc := .cmd, dflt := .const 0xFF, rng := .codes [1,2,3,255], clamp := .default, vis := .pfCanFw }
def Obj.TN_LABEL : Obj := { base := 0x1110, sub := 0x03, lo := 0, hi := 7, ty := .octets 16, acc := .rw, vis := .pfCanFw }
def Obj.INBAND_SESSIONS : Obj := { base := 0x1110, sub := 0x04, lo := 1, hi := 7, ty := .bits32, acc := .rw, rng := .bits 0xF, clamp := .bits, vis := .pfCanFw }
def Obj.VLAN_RANGES : Obj := { base := 0x1110, sub := 0x05, lo := 1, hi := 7, ty := .octets 16, acc := .rw, rng := .vlanRanges, clamp := .perField, vis := .pfCanFw }
def Obj.CT0_ENTRIES : Obj := { base := 0x1110, sub := 0x10, lo := 1, hi := 7, ty := .u 4, acc := .rw, rng := .between 0 15360, clamp := .nearest, vis := .pfCanFw }
def Obj.CT1_ENTRIES : Obj := { base := 0x1110, sub := 0x11, lo := 1, hi := 7, ty := .u 4, acc := .rw, rng := .between 0 7680, clamp := .nearest, vis := .pfCanFw }
def Obj.CT2_ENTRIES : Obj := { base := 0x1110, sub := 0x12, lo := 1, hi := 7, ty := .u 4, acc := .rw, rng := .between 0 3840, clamp := .nearest, vis := .pfCanFw }
def Obj.CT3_ENTRIES : Obj := { base := 0x1110, sub := 0x13, lo := 1, hi := 7, ty := .u 4, acc := .rw, rng := .between 0 15360, clamp := .nearest, vis := .pfCanFw }
def Obj.MAC_LIMIT : Obj := { base := 0x1110, sub := 0x14, lo := 1, hi := 7, ty := .u 4, acc := .rw, rng := .between 0 253952, clamp := .nearest, vis := .pfCanFw }
def Obj.DAMASK_SLOTS : Obj := { base := 0x1110, sub := 0x15, lo := 1, hi := 7, ty := .u 4, acc := .rw, rng := .between 0 61440, clamp := .nearest, vis := .pfCanFw }
def Obj.NEXT_HOPS : Obj := { base := 0x1110, sub := 0x16, lo := 1, hi := 7, ty := .u 4, acc := .rw, rng := .between 0 7680, clamp := .nearest, vis := .pfCanFw }
def Obj.MCAST_GROUPS : Obj := { base := 0x1110, sub := 0x17, lo := 1, hi := 7, ty := .u 4, acc := .rw, rng := .between 0 3840, clamp := .nearest, vis := .pfCanFw }
def Obj.POLICERS : Obj := { base := 0x1110, sub := 0x18, lo := 1, hi := 7, ty := .u 4, acc := .rw, rng := .between 0 3840, clamp := .nearest, vis := .pfCanFw }
def Obj.CELLS : Obj := { base := 0x1110, sub := 0x19, lo := 1, hi := 7, ty := .u 4, acc := .rw, rng := .between 0 180224, clamp := .nearest, vis := .pfCanFw }
def Obj.RETAIN_SEGMENTS : Obj := { base := 0x1110, sub := 0x1A, lo := 1, hi := 7, ty := .u 4, acc := .rw, rng := .between 0 57344, clamp := .nearest, vis := .pfCanFw }
def Obj.BLOCK_COUNTERS : Obj := { base := 0x1110, sub := 0x1B, lo := 1, hi := 7, ty := .u 4, acc := .rw, rng := .between 0 352, clamp := .nearest, vis := .pfCanFw }
def Obj.POE_QUOTA : Obj := { base := 0x1110, sub := 0x1C, lo := 1, hi := 7, ty := .u 4, acc := .rw, rng := .between 0 29400, clamp := .nearest, vis := .pfCanFw }
def Obj.DRAM_SHARE : Obj := { base := 0x1110, sub := 0x1D, lo := 1, hi := 7, ty := .u 1, acc := .rw, rng := .between 0 100, clamp := .nearest, vis := .pfCanFw }
def Obj.WIPE_START_BEAT : Obj := { base := 0x1110, sub := 0x20, lo := 1, hi := 7, ty := .beat64, acc := .ro, vis := .pfCanFw }
def Obj.EFFECTIVE_QUOTA : Obj := { base := 0x1120, sub := 0x10, lo := 0, hi := 7, count := 12, ty := .u 4, acc := .ro, dflt := .effectiveQuota, own := .bound }
def Obj.QUOTA_USAGE : Obj := { base := 0x1130, sub := 0x10, lo := 0, hi := 7, count := 12, ty := .u 4, acc := .ro, own := .bound }

/-! Objects of spec/07_ports_discovery.md. -/
def Obj.RX_FRAMES : Obj := { base := 0x0407, sub := 0x01, lo := 0, hi := 55, stride := 16, ty := .u 8, acc := .ro, own := .bound }
def Obj.RX_BYTES : Obj := { base := 0x0407, sub := 0x02, lo := 0, hi := 55, stride := 16, ty := .u 8, acc := .ro, own := .bound }
def Obj.TX_FRAMES : Obj := { base := 0x0407, sub := 0x03, lo := 0, hi := 55, stride := 16, ty := .u 8, acc := .ro, own := .bound }
def Obj.TX_BYTES : Obj := { base := 0x0407, sub := 0x04, lo := 0, hi := 55, stride := 16, ty := .u 8, acc := .ro, own := .bound }
def Obj.RX_ERRORS : Obj := { base := 0x0407, sub := 0x05, lo := 0, hi := 55, stride := 16, ty := .u 8, acc := .ro, own := .bound }
def Obj.RX_RUNTS : Obj := { base := 0x0407, sub := 0x06, lo := 0, hi := 55, stride := 16, ty := .u 8, acc := .ro, own := .bound }
def Obj.RX_OVERSIZE : Obj := { base := 0x0407, sub := 0x07, lo := 0, hi := 55, stride := 16, ty := .u 8, acc := .ro, own := .bound }
def Obj.RX_OVERFLOW_DROPS : Obj := { base := 0x0407, sub := 0x08, lo := 0, hi := 55, stride := 16, ty := .u 8, acc := .ro, own := .bound }
def Obj.RX_MAC_CONTROL : Obj := { base := 0x0407, sub := 0x09, lo := 0, hi := 55, stride := 16, ty := .u 8, acc := .ro, own := .bound }
def Obj.DISCARD_NOT_FORWARDING : Obj := { base := 0x0407, sub := 0x0A, lo := 0, hi := 55, stride := 16, ty := .u 8, acc := .ro, own := .bound }
def Obj.DISCARD_NO_TENANCY : Obj := { base := 0x0407, sub := 0x0B, lo := 0, hi := 55, stride := 16, ty := .u 8, acc := .ro, own := .bound }
def Obj.PFC_RX_FRAMES : Obj := { base := 0x0407, sub := 0x0C, lo := 0, hi := 55, stride := 16, ty := .u 8, acc := .ro, own := .bound }
def Obj.PFC_RX_IGNORED : Obj := { base := 0x0407, sub := 0x0D, lo := 0, hi := 55, stride := 16, ty := .u 8, acc := .ro, own := .bound }
def Obj.PFC_TX_FRAMES : Obj := { base := 0x0407, sub := 0x0E, lo := 0, hi := 55, stride := 16, ty := .u 8, acc := .ro, own := .bound }
def Obj.QUEUE_DROPS : Obj := { base := 0x0407, sub := 0x0F, lo := 0, hi := 55, stride := 16, ty := .u 8, acc := .ro, own := .bound }
def Obj.STORM_DROPS : Obj := { base := 0x0407, sub := 0x10, lo := 0, hi := 55, stride := 16, ty := .u 8, acc := .ro, own := .bound }
def Obj.LINK_DOWN_DROPS : Obj := { base := 0x0407, sub := 0x11, lo := 0, hi := 55, stride := 16, ty := .u 8, acc := .ro, own := .bound }

/-! Objects of spec/08_calico.md. -/
def Obj.CT0 : Obj := { base := 0x2000, sub := 0x01, lo := 0, hi := 255, count := 128, ty := .octets 16, acc := .rw, rng := .elem, clamp := .perField, own := .bound }
def Obj.CT1 : Obj := { base := 0x2100, sub := 0x01, lo := 0, hi := 127, count := 128, ty := .octets 88, acc := .rw, rng := .elem, clamp := .perField, own := .bound }
def Obj.CT2 : Obj := { base := 0x2180, sub := 0x01, lo := 0, hi := 63, count := 128, ty := .octets 48, acc := .rw, rng := .elem, clamp := .perField, own := .bound }
def Obj.CT3 : Obj := { base := 0x2200, sub := 0x01, lo := 0, hi := 255, count := 128, ty := .octets 16, acc := .rw, rng := .elem, clamp := .perField, own := .bound }
def Obj.CT3_HITS : Obj := { base := 0x2300, sub := 0x01, lo := 0, hi := 255, count := 128, ty := .octets 16, acc := .ro, own := .bound }

/-! Objects of spec/09_forwarding.md. -/
def Obj.MAC_TABLE : Obj := { base := 0x2400, sub := 0x01, lo := 0, hi := 2047, count := 128, ty := .octets 16, acc := .ro, own := .bound }
def Obj.DAMASK : Obj := { base := 0x2C00, sub := 0x01, lo := 0, hi := 511, count := 128, ty := .octets 12, acc := .rw, rng := .elem, clamp := .perField, own := .bound }
def Obj.NEXT_HOP_TABLE : Obj := { base := 0x2E00, sub := 0x01, lo := 0, hi := 63, count := 128, ty := .octets 32, acc := .rw, rng := .elem, clamp := .perField, own := .bound }
def Obj.GROUP_TABLE : Obj := { base := 0x2E40, sub := 0x01, lo := 0, hi := 31, count := 128, ty := .octets 16, acc := .rw, rng := .elem, clamp := .perField, own := .bound }
def Obj.VLAN_TABLE : Obj := { base := 0x2E60, sub := 0x01, lo := 0, hi := 31, count := 128, ty := .octets 48, acc := .rw, rng := .elem, clamp := .perField, own := .bound }

/-! Objects of spec/12_queues_shaping.md. -/
def Obj.POLICER_TABLE : Obj := { base := 0x3000, sub := 0x01, lo := 0, hi := 31, count := 128, ty := .octets 32, acc := .rw, rng := .elem, clamp := .perField, own := .bound }
def Obj.POLICER_STATS : Obj := { base := 0x3020, sub := 0x01, lo := 0, hi := 31, count := 128, ty := .octets 48, acc := .ro, own := .bound }

/-! Objects of spec/13_gingham.md. -/
def Obj.GATE_PENDING : Obj := { base := 0x3100, sub := 0x01, lo := 0, hi := 103, count := 128, ty := .octets 8, acc := .rw, dflt := .pendingGate, rng := .elem, clamp := .perField, own := .bound }
def Obj.GATE_OPER : Obj := { base := 0x3180, sub := 0x01, lo := 0, hi := 103, count := 128, ty := .octets 8, acc := .ro, dflt := .pendingGate, own := .bound }
def Obj.GATE_ARMED : Obj := { base := 0x3200, sub := 0x01, lo := 0, hi := 103, count := 128, ty := .octets 8, acc := .ro, own := .bound }

/-! Objects of spec/14_flannel.md. -/
def Obj.INDEX_RECORDS : Obj := { base := 0x3400, sub := 0x01, lo := 0, hi := 479, count := 128, ty := .octets 64, acc := .ro, own := .bound }

/-! Objects of spec/17_muslin_audio.md. -/
def Obj.CROSSPOINTS : Obj := { base := 0x3600, sub := 0x01, lo := 0, hi := 1, count := 128, ty := .u 1, acc := .rw, rng := .between 0 205, clamp := .nearest }

def catalogue01_0 : List Obj := [.BEAT_NUMBER, .BEAT_STATE, .BEAT_PTP_TIME, .BEAT_LAST_CYCLES, .BEAT_SLEW_REMAINING, .ELAPSED_BEATS, .FREE_RUN_ORIGIN, .ORIGIN_STROBE_INPUT, .ARM_ORIGIN, .PTP_DOMAIN, .PTP_SLAVE_CANDIDATES, .PTP_DELAY_MECHANISM, .PTP_TRANSPORT, .PTP_LOG_SYNC_INTERVAL, .PTP_ONE_STEP_UPLINK, .PTP_MASTER_PORTS, .PTP_LOCK_THRESHOLD_NS, .PTP_UNLOCK_THRESHOLD_NS, .PTP_SLAVE_PORT, .PTP_OFFSET_NS, .PTP_MEAN_PATH_DELAY_NS, .PTP_PARENT_IDENTITY, .PTP_STEPS_REMOVED]

/-- Every object of spec/01_beat.md. -/
def catalogue01 : List Obj := catalogue01_0

def catalogue02_0 : List Obj := [.VENDOR, .PRODUCT, .MODEL, .FITTING, .SERIAL, .BOARD_ISSUE, .ENGINE_STEPPING, .BASE_MAC, .MAC_COUNT, .MANUFACTURE_DATE, .RUNNING_IMAGE, .IMAGE_A_VERSION, .IMAGE_B_VERSION, .DICTIONARY_VERSION, .QUEUE_DEPTH_00D0, .LAST_COMMIT_COUNT, .CARRIED_TOTAL, .SUPERSEDED_TOTAL, .DUPLICATE_TOTAL, .RESOURCE_TOTAL, .MY_RANK, .MY_TENANCY, .MY_PENDING, .MY_CACHE_FLUSH]

def catalogue02_1 : List Obj := [.CLAMP_TOTAL, .CLAMP_RING, .CLAMP_CLEAR]

/-- Every object of spec/02_dictionary.md. -/
def catalogue02 : List Obj := catalogue02_0 ++ catalogue02_1

def catalogue03_0 : List Obj := [.ENABLE_0780, .NODE, .NOMINAL_RATE, .DATA_RATE, .NOMINAL_SAMPLE_POINT, .DATA_SAMPLE_POINT, .TERMINATION, .ROLLCALL_INTERVAL, .ROLLCALL_ENABLE, .STATE_0782, .TEC, .REC, .TX_WITHDRAWN, .TX_TOO_LATE, .RX_IGNORED, .NOTIFY_DISCARDED, .REQ_DROPPED, .NODES_PRESENT, .NODE_TABLE, .ENABLE_0790, .KEY, .KEY_EPOCH, .ALLOWED_PORTS, .VID]

def catalogue03_1 : List Obj := [.PEER_MAC, .RX_SEQ_HIGH, .TX_SEQ, .AUTH_FAIL_COUNT, .DISCARD_COUNT]

/-- Every object of spec/03_dictionary_wire.md. -/
def catalogue03 : List Obj := catalogue03_0 ++ catalogue03_1

def catalogue04_0 : List Obj := [.LC_STATE, .LC_TRANSITION_COUNT, .LC_PENDING, .LC_COMMAND, .LC_CONFIRM, .LC_CHALLENGE, .VENDOR_AUTH, .LAST_RESET, .RESTART_COUNT, .RUN_START_BEAT, .BOOT_PREFERENCE, .TRIAL, .TRIAL_WINDOW, .IMAGE_CONFIRM, .MIN_SECURITY_VERSION, .IMAGE_WRITE_OFFSET, .IMAGE_BLOCK, .IMAGE_ACTIVATE, .IMAGE_STATUS, .STORE, .STORED_GENERATION, .STORED_STATUS, .LOADED_FROM, .STORED_DIRTY]

def catalogue04_1 : List Obj := [.MODE_REQUEST, .PRESERVE_KEEP, .AUTO_SERVICE, .WARM_RESTART, .WAKE_SOURCES, .WAKE_GPIO_MASK, .WAKE_LINK_PORTS, .MODE, .MODE_SINCE, .MODE_CAUSES, .DORMANT_DEFERRED, .LAST_WAKE_SOURCE, .EARLY_POE_PORTS]

/-- Every object of spec/04_modes_lifecycle.md. -/
def catalogue04 : List Obj := catalogue04_0 ++ catalogue04_1

def catalogue05_0 : List Obj := [.TN_ACTIVE, .PORT_OWNER, .SESSION_BINDING, .QUOTA_SHORT, .OVER_QUOTA, .TN_WINDOW, .TN_STATE, .TN_COMMAND, .TN_LABEL, .INBAND_SESSIONS, .VLAN_RANGES, .CT0_ENTRIES, .CT1_ENTRIES, .CT2_ENTRIES, .CT3_ENTRIES, .MAC_LIMIT, .DAMASK_SLOTS, .NEXT_HOPS, .MCAST_GROUPS, .POLICERS, .CELLS, .RETAIN_SEGMENTS, .BLOCK_COUNTERS, .POE_QUOTA]

def catalogue05_1 : List Obj := [.DRAM_SHARE, .WIPE_START_BEAT, .EFFECTIVE_QUOTA, .QUOTA_USAGE]

/-- Every object of spec/05_tenancies.md. -/
def catalogue05 : List Obj := catalogue05_0 ++ catalogue05_1

def catalogue06_0 : List Obj := [.STATE_0200, .INPUT_KIND, .INPUT_VOLTS, .INPUT_HZ, .LIMIT, .OUTPUT, .INLET_TEMP, .MODULE_SERIAL, .BUDGET_MODE, .POE_BUDGET_CAP, .RESTORE_HOLD, .ADMIT_PER_BEAT, .TOTAL, .SYSTEM_RESERVE, .POOL, .POE_GRANTED, .SILICON_GRANTED, .CLAIMS, .SHED_PORTS, .SHED_TOTAL, .LAST_POOL_FALL, .SILICON_TOKENS, .ENABLE_0300, .PRIORITY_0300]

def catalogue06_1 : List Obj := [.POLICY, .MEASURED_MARGIN, .CLASS_LIMIT, .LLDP_POWER, .STATE_0340, .REASON, .CLASS, .PD_TYPE, .GRANT, .MEASURED, .AGREED, .POWER_ON_BEAT, .CLAIM, .FAULTS_IN_WINDOW, .BACKOFF_LEVEL, .HOLD_REMAINING]

/-- Every object of spec/06_power_poe.md. -/
def catalogue06 : List Obj := catalogue06_0 ++ catalogue06_1

def catalogue07_0 : List Obj := [.ENABLE_0400, .ADVERTISE, .SPEED, .FEC_MODE, .MAX_FRAME, .LINK_STATE_0401, .LINK_SPEED_0401, .FEC_ACTIVE, .PARTNER_ADVERTISE, .LAST_CHANGE_BEAT_0401, .LINK_CHANGES, .PFC_RX_ENABLE, .PFC_TX_ENABLE, .PAUSE_QUANTA, .PAUSED_RX, .XOFF_TX, .XOFF, .XON, .STORM_ENABLE, .STORM_ACTION, .STORM_ACTIVE, .STORM_BEATS, .STORM_TRIPS, .DAMP_ENABLE]

def catalogue07_1 : List Obj := [.FLAP_PENALTY, .SUPPRESS, .REUSE, .HALF_LIFE, .MAX_PENALTY, .PENALTY, .LLDP_MODE, .TX_INTERVAL, .NEIGHBOURS, .LLDP_TOO_MANY, .MODULE_STATE, .MODULE_ID, .MODULE_DDM, .MODULE_ALARMS, .MEMBERS, .MIN_ACTIVE, .HASH_FIELDS, .HASH_SEED, .ACTIVE_MEMBERS, .LAG_DOWN_DROPS, .RX_FRAMES, .RX_BYTES, .TX_FRAMES, .TX_BYTES]

def catalogue07_2 : List Obj := [.RX_ERRORS, .RX_RUNTS, .RX_OVERSIZE, .RX_OVERFLOW_DROPS, .RX_MAC_CONTROL, .DISCARD_NOT_FORWARDING, .DISCARD_NO_TENANCY, .PFC_RX_FRAMES, .PFC_RX_IGNORED, .PFC_TX_FRAMES, .QUEUE_DROPS, .STORM_DROPS, .LINK_DOWN_DROPS]

/-- Every object of spec/07_ports_discovery.md. -/
def catalogue07 : List Obj := catalogue07_0 ++ catalogue07_1 ++ catalogue07_2

def catalogue08_0 : List Obj := [.DEFAULT_VID, .DEFAULT_PCP, .CT0_MISS, .CT0_MISS_DROPS, .CLASS_DROPS, .TRAPPED, .PARSE_STOPPED, .BINDINGS_CLEARED, .CT1_MISS, .FLOW_FIELDS, .MIRROR_DEST, .MIRROR_TRUNCATE, .METHOD, .ACTIVE_BANK, .SWAP_STATE, .LAST_SWAP_BEAT, .SHADOW_COPY, .SHADOW_COPY_BUSY, .SWAP, .SWAP_RESULT, .TABLE_GENERATION, .VERSIONS_HELD_0A90, .CT0, .CT1]

def catalogue08_1 : List Obj := [.CT2, .CT3, .CT3_HITS]

/-- Every object of spec/08_calico.md. -/
def catalogue08 : List Obj := catalogue08_0 ++ catalogue08_1

def catalogue09_0 : List Obj := [.MAC_HASH_SEED, .MAC_USED, .CAM_USED, .SWEEP_POSITION, .FLUSH_BUSY, .TABLE_FULL_REFUSALS, .VERSIONS_HELD_0C00, .AGE_TIME, .MOVE_ACTION, .STATIC_DROP, .ROUTER_MAC, .SNOOP_GROUP_FIRST, .SNOOP_GROUP_COUNT, .SNOOP_GMI, .FAST_LEAVE, .NH_REFRESH, .MROUTER_PORTS, .LEARN_ENABLE, .LEARN_LIMIT, .LIMIT_ACTION, .FLUSH_ON_DOWN, .LEARNED, .LEARN_REFUSED, .MOVES_IN]

def catalogue09_1 : List Obj := [.STATIC_VIOLATIONS, .LEARN_LIMIT_DROPS, .UNKNOWN_UC_FLOODED, .UNKNOWN_UC_DROPS, .FILTERED, .ROUTED, .ROUTE_DROPS, .BLANK, .OP_FID, .OP_MAC, .OP_DEST_KIND, .OP_DEST_NUMBER, .OP, .OP_RESULT, .OP_LOCATION, .OP_EFFECTIVE, .MAC_TABLE, .DAMASK, .NEXT_HOP_TABLE, .GROUP_TABLE, .VLAN_TABLE]

/-- Every object of spec/09_forwarding.md. -/
def catalogue09 : List Obj := catalogue09_0 ++ catalogue09_1

def catalogue10_0 : List Obj := [.CELLS_TOTAL, .CELLS_FREE, .CELLS_FREE_LOW, .ENTRIES_FREE, .FABRIC_SEED, .FREE_ALARM, .ECC_CORRECTED, .UPLINK_FREE, .QUEUE_LIMIT, .WRED_PROFILE, .HEADROOM, .HEADROOM_USED, .AVG_DEPTH, .QUOTA_DROPS, .NO_CELL_DROPS, .LIMIT_DROPS, .WRED_DROPS_GREEN, .WRED_DROPS_YELLOW, .WRED_DROPS_RED, .ECN_MARKED_0810, .HEADROOM_MISSES, .STAGING_DROPS, .POISON_TX, .GREEN_MIN]

def catalogue10_1 : List Obj := [.GREEN_MAX, .GREEN_PMAX, .YELLOW_MIN, .YELLOW_MAX, .YELLOW_PMAX, .RED_MIN, .RED_MAX, .RED_PMAX, .WEIGHT, .ECN, .RESERVED_HEADROOM, .GENERAL_LIMIT, .GENERAL_USED, .HEADROOM_CHARGED, .ADMIT_DROPS, .ECN_MARKED_0850]

/-- Every object of spec/10_fabric_buffers.md. -/
def catalogue10 : List Obj := catalogue10_0 ++ catalogue10_1

def catalogue11_0 : List Obj := [.BUF_SIZE, .BUF_COUNT, .IN_USE, .IN_USE_HIGH, .LEVEL_0900, .BACK_PRESSURE, .RESERVED_UNUSED, .REFUSALS, .CLASS_0910, .GUARANTEE, .MAX, .HELD, .EFFECTIVE_GUARANTEE, .REFUSED, .HANDLE_FAULTS, .OWNER_FAULTS, .FORCED_RELEASES, .SCRUB_BACKLOG, .WORKSPACE_ECC_CORRECTED]

/-- Every object of spec/11_buffer_pools.md. -/
def catalogue11 : List Obj := catalogue11_0

def catalogue12_0 : List Obj := [.SERVICE_MODE, .STRICT_COUNT, .DRR_WEIGHT, .WFQ_WEIGHT, .PORT_SHAPE_ENABLE, .PORT_RATE, .PORT_BURST, .PORT_CHANGE_MODE, .Q_SHAPE_ENABLE, .Q_RATE, .Q_BURST, .Q_CHANGE_MODE, .FLUSH, .FLUSH_IN_FLIGHT, .LAST_FLUSH_BEAT, .TOKENS, .PORT_TOKENS, .DEFICIT, .TX_FRAMES_Q, .TX_BYTES_Q, .DROPS_Q, .FLUSH_DROPS_Q, .RING_Q, .HIST_Q]

def catalogue12_1 : List Obj := [.HIST_CLEAR, .SOJOURN_ALARM_NS, .SCHED_ECC_CORRECTED, .POLICER_TABLE, .POLICER_STATS]

/-- Every object of spec/12_queues_shaping.md. -/
def catalogue12 : List Obj := catalogue12_0 ++ catalogue12_1

def catalogue13_0 : List Obj := [.GUARD_MODE, .GUARD_NS, .PTP_LOSS_POLICY, .PENDING_LENGTH, .PENDING_CYCLE_NS, .CHANGE_TIME, .CANCEL, .OPER_LENGTH, .OPER_CYCLE_NS, .OPER_ORIGIN, .CHANGE_STATE, .ARMED_TIME, .LAST_TAKEOVER, .GATES_NOW, .OPER_ENTRY, .OPEN_ALL_ACTIVE, .LONGEST_OPEN_NS, .TAKEOVERS, .GATE_TOO_LONG_DROPS, .OVERRUN_FRAMES, .LATE_TAKEOVERS, .GATE_PENDING, .GATE_OPER, .GATE_ARMED]

/-- Every object of spec/13_gingham.md. -/
def catalogue13 : List Obj := catalogue13_0

def catalogue14_0 : List Obj := [.PROBE_ENABLE, .FAMILY, .UNIT_IP, .COLLECTOR_IP, .COLLECTOR_PORT, .PROBE_PORT, .GATEWAY_MAC, .PROBE_VLAN, .PROBE_INTERVAL, .LOST_MISSES, .RESTORE_REPLIES, .PROBE_JITTER, .HEALTH_UPLINKS, .BACKFILL_PCT, .BACKFILL_PIECE, .BACKFILL_WINDOW, .BACKFILL_ACK_TIMEOUT, .BF_PORT_BASE, .PROBE_JUDGEMENT, .LINK_JUDGEMENT, .MISSES, .REPLIES, .PROBE_SEQ, .LAST_REPLY_BEAT]

def catalogue14_1 : List Obj := [.LOST_SINCE, .BACKLOG_SEGMENTS, .REPLIES_IGNORED, .ACKS_IGNORED, .FULL_POLICY, .RETURN_PATH, .BF_DEST_IP, .BF_DEST_PORT, .BF_VLAN, .BF_GATEWAY_MAC, .DRAIN_WINDOW, .DRAIN_ACK_TIMEOUT, .INDEX_EXPORT, .SEGMENTS_HELD, .OVERWRITTEN, .RETURNED, .EXPORT_BUSY, .ENABLE_1240, .PREROLL_S, .ISLAND_KEEP, .PRIORITY_1240, .PURGE, .STATE_1240, .OPEN_HANDLE]

def catalogue14_2 : List Obj := [.PREROLL_SEGMENTS, .RETAINED_SEGMENTS, .NEXT_SEQ, .FRAMES_KEPT, .BYTES_KEPT, .KEEP_DISCARDS, .PREROLL_FREED, .PREROLL_SHED, .SEGMENTS_OVERWRITTEN, .SEGMENTS_RETURNED, .INDEX_RECORDS]

/-- Every object of spec/14_flannel.md. -/
def catalogue14 : List Obj := catalogue14_0 ++ catalogue14_1 ++ catalogue14_2

def catalogue15_0 : List Obj := [.ERROR_POLICY, .FREEZE_ON_DIAGNOSE, .WRITE_CRC, .IDLE_SR_ENABLE, .IDLE_SR_BEATS, .STATE_1302, .CASE_TEMP, .REFRESH_INTERVAL_NS, .REFRESH_OWED, .REFRESH_POSTPONED_MAX, .CE_COUNT, .UE_COUNT, .POISON_READS, .CA_PARITY_ERRORS, .WRITE_CRC_ERRORS, .REPLAYS, .REFRESH_FORCED, .SR_ENTRIES, .SR_ABANDONED, .THROTTLED_BEATS, .BYTES_READ, .BYTES_WRITTEN, .LATENCY_TARGET_NS, .PORT_WEIGHT]

def catalogue15_1 : List Obj := [.PANIC_ON, .PANIC_ON_D4, .PANIC_OFF, .PANIC_OFF_D4, .QUEUE_DEPTH_1310, .PANIC, .URGENCY, .MAX_LATENCY_NS, .PANIC_BEATS, .SCRUB_ENABLE, .SCRUB_POSITION, .SCRUB_PASSES, .LAST_PASS_BEAT, .SCRUB_CARRIED, .LOG_TOTAL, .LOG, .LOG_CLEAR, .FROZEN_CHANNELS, .DIAG_CHANNEL, .RETRY_BUFFER, .HELD_REQUESTS, .DIAG_ADDRESS, .DIAG_READ, .DIAG_DATA]

/-- Every object of spec/15_dram.md. -/
def catalogue15 : List Obj := catalogue15_0 ++ catalogue15_1

def catalogue16_0 : List Obj := [.BOOST_ENABLE, .QUEUE_DEPTH_1400, .BOOSTED, .JOBS_OK, .JOBS_FAILED, .BYTES_IN, .BYTES_OUT, .OUT_FULL_JOBS, .BASE_BEATS, .ABORTED_JOBS, .COMP_OK, .COMP_FAILED, .MOVE_OK, .MOVE_FAILED]

/-- Every object of spec/16_compression_mover.md. -/
def catalogue16 : List Obj := catalogue16_0

def catalogue17_0 : List Obj := [.FADE_OUT_MS, .FADE_IN_MS, .GAIN_RAMP_BEATS, .VALIDITY_POLICY, .HELD_DETECTIONS, .AUDIO_HELD_LOST, .CLIP_SAMPLES, .ENABLE_1510, .WORD_MODE, .LOCK_STATE, .RATE, .CS_FORMAT_1510, .CS_A, .CS_B, .USER_A, .USER_B, .CS_BLOCK_BEAT, .INVALID_SAMPLES, .BIPHASE_ERRORS, .CS_CRC_ERRORS, .LOCK_LOSSES, .ENABLE_1520, .CLOCK, .TX_RATE]

def catalogue17_1 : List Obj := [.CS_FORMAT_1520, .NON_AUDIO, .CHANNEL_ORIGIN, .CHANNEL_DEST, .CATEGORY, .COPY_PERMITTED, .USER_SOURCE, .FALLBACK_RATE, .RATE_ACTIVE, .CLOCK_ACTIVE, .CS_BUILT_A, .FALLBACKS, .DELAY_SAMPLES, .MUTE, .CLIPPED, .DELAY_MISSES, .UNDERRUN_SAMPLES_1530, .OVERRUN_SAMPLES_1530, .STATE_1540, .PHI, .FADES, .RAMPS, .UNDERRUN_SAMPLES_1540, .OVERRUN_SAMPLES_1540]

def catalogue17_2 : List Obj := [.ENABLE_1550, .FORMAT, .CHANNELS, .TENANCY, .DEST_MAC, .VID_1550, .PCP, .STREAM_ID_1550, .PRESENTATION_OFFSET_NS, .SRC_IP, .DST_IP, .UDP_SRC, .UDP_DST_1550, .PAYLOAD_TYPE, .SSRC_1550, .SAMPLES_PER_PACKET, .PACKETS_SENT, .PACKETS_HELD, .IN_ENABLE, .IN_FORMAT, .IN_CHANNELS, .IN_TENANCY, .STREAM_ID_1558, .IN_UDP_DST]

def catalogue17_3 : List Obj := [.IN_PAYLOAD_TYPE, .IN_SSRC, .RTP_LATENCY_SAMPLES, .PACKETS_ACCEPTED, .PACKETS_LATE, .PACKETS_EARLY, .PACKETS_DISCARDED, .SEQ_GAPS, .ENABLE_1560, .SOURCE, .TEMPLATES, .THRESHOLD, .REFRACTORY, .PARTIAL_SCORE, .LAST_DETECTION, .DETECTIONS, .RING_1560, .CLIP, .CLIP_LOCKED, .CLIP_RELEASE, .LENGTH, .FEATURES, .LABEL, .CROSSPOINTS]

/-- Every object of spec/17_muslin_audio.md. -/
def catalogue17 : List Obj := catalogue17_0 ++ catalogue17_1 ++ catalogue17_2 ++ catalogue17_3

def catalogue18_0 : List Obj := [.PCI_VENDOR_ID, .LINK_STATE_1600, .LINK_SPEED_1600, .LINK_WIDTH, .NUM_VFS, .H_RATE, .PRESENT, .FLR_COUNT, .H_RX_DELIVERED, .H_RX_ABSENT, .H_RX_TOO_LONG, .H_RX_RING_FULL, .H_RX_ABORTED, .H_TX_ACCEPTED, .H_TX_DENIED, .H_TX_DMA_ERRORS, .H_TX_ABORTED, .EVENTS_LOST, .RING_ERRORS, .JOURNAL_SEQ, .JOURNAL]

/-- Every object of spec/18_host_endpoint.md. -/
def catalogue18 : List Obj := catalogue18_0

def catalogue19_0 : List Obj := [.NOTIFICATIONS_SENT, .NOTIFY_CARRIED, .HELD_LOST, .RAW_1701, .LATCHED, .MASKED, .EVENT_CLEAR, .EVENT_UNMASK, .SOURCE_CONFIG, .SOURCE_STATUS, .SNAPSHOT, .AUTO_SNAPSHOT_BEATS, .SHOWN_BANK, .SNAPSHOT_BEAT, .SNAPSHOT_SEQ, .SNAPSHOT_BUSY, .WRAPPED_ANY, .SNAP_READS, .CONFIG, .BLOCK_VALUE, .KIND, .INVERT_1900, .DEBOUNCE_BEATS, .CHATTER_WINDOW]

def catalogue19_1 : List Obj := [.CHATTER_TRANSITIONS, .STUCK_S, .RAW_1900, .LEVEL_1900, .CHATTERING, .STUCK, .LAST_CHANGE_BEAT_1900, .CHANGES, .CHATTER_WINDOWS, .STUCK_EPISODES, .RELAY_MODE, .RELAY_COMMAND, .FOLLOW_EVENT, .FOLLOW_INPUT, .INVERT_1910, .HOLD_ON_RESTART, .ENERGISED, .OPERATIONS]

/-- Every object of spec/19_events_counters.md. -/
def catalogue19 : List Obj := catalogue19_0 ++ catalogue19_1

def catalogue20_0 : List Obj := [.GUARANTEES, .WITHDRAWN_CAUSE, .WITHDRAWN_BEAT, .WITHDRAWN_CLEAR, .RECOVERY_TOTAL, .RECOVERY_RING]

/-- Every object of spec/20_recovery.md. -/
def catalogue20 : List Obj := catalogue20_0

def catalogue21_0 : List Obj := [.FAN_MIN_LEVEL, .THERMAL_ACTION, .FAN_LEVEL, .BOOST_REQUEST, .TRAY_PRESENT, .FAN_FAILED, .FAN_RPM, .THERMAL_TRIPS, .VALUE, .ALARM, .CRITICAL, .STATE_1990, .PEAK, .LOCATE, .LED_TEST, .FAULT_CODE]

/-- Every object of spec/21_unit_hardware.md. -/
def catalogue21 : List Obj := catalogue21_0

/-- Every object of the dictionary (R724, R725). -/
def catalogue : List Obj :=
  catalogue01 ++ catalogue02 ++ catalogue03 ++ catalogue04 ++ catalogue05 ++ catalogue06 ++ catalogue07 ++ catalogue08 ++ catalogue09 ++ catalogue10 ++ catalogue11 ++ catalogue12 ++ catalogue13 ++ catalogue14 ++ catalogue15 ++ catalogue16 ++ catalogue17 ++ catalogue18 ++ catalogue19 ++ catalogue20 ++ catalogue21

end Sys2Proof.Machine
end

