-- ==== Sys2Proof/Machine/Table.lean ====
section
/-! DEFINITION. Sparse tables: a list of (key, value) pairs in one canonical form, keys strictly rising and no entry
equal to what an unlisted key reads as.  An unlisted key reads as the type's default, which for a record is the
record's value at reset. -/

namespace Sys2Proof.Machine

/-- A sparse table from numbers to values. -/
abbrev Tbl (α : Type) := List (Nat × α)

/-- The value listed for a key. -/
def Tbl.find? {α : Type} : Tbl α → Nat → Option α
  | [], _ => none
  | (k, v) :: t, i => if i = k then some v else Tbl.find? t i

/-- The value of a key: the one listed, or the default. -/
def Tbl.get {α : Type} [Inhabited α] (t : Tbl α) (i : Nat) : α := (t.find? i).getD default

/-- The table without an entry for a key. -/
def Tbl.del {α : Type} : Tbl α → Nat → Tbl α
  | [], _ => []
  | (k, v) :: t, i => if i = k then Tbl.del t i else (k, v) :: Tbl.del t i

/-- The table with an entry for a key, in order of keys. -/
def Tbl.ins {α : Type} : Tbl α → Nat → α → Tbl α
  | [], i, x => [(i, x)]
  | (k, v) :: t, i, x => if i < k then (i, x) :: (k, v) :: t else (k, v) :: Tbl.ins t i x

/-- The table with value `x` at key `i`; `d` is what an unlisted key reads as, and is never listed. -/
def Tbl.putD {α : Type} [DecidableEq α] (d : α) (t : Tbl α) (i : Nat) (x : α) : Tbl α :=
  if x = d then Tbl.del t i else Tbl.ins (Tbl.del t i) i x

/-- The table with value `x` at key `i`. -/
def Tbl.put {α : Type} [DecidableEq α] [Inhabited α] (t : Tbl α) (i : Nat) (x : α) : Tbl α := Tbl.putD default t i x

/-- The table with the value at key `i` changed by `f`. -/
def Tbl.upd {α : Type} [DecidableEq α] [Inhabited α] (t : Tbl α) (i : Nat) (f : α → α) : Tbl α := t.put i (f (t.get i))

/-- The keys listed, ascending. -/
def Tbl.keys {α : Type} (t : Tbl α) : List Nat := t.map Prod.fst

/-- The table with only the entries that `p` keeps. -/
def Tbl.keep {α : Type} (t : Tbl α) (p : Nat → α → Bool) : Tbl α := t.filter fun e => p e.1 e.2

/-- Keys strictly rising. -/
def Tbl.sorted {α : Type} : Tbl α → Bool
  | [] => true
  | [_] => true
  | (a, _) :: (b, y) :: t => decide (a < b) && Tbl.sorted ((b, y) :: t)

/-- The canonical form: keys strictly rising and no listed default. -/
def Tbl.wf {α : Type} [DecidableEq α] [Inhabited α] (t : Tbl α) : Bool :=
  t.sorted && t.all fun e => decide (e.2 ≠ default)

end Sys2Proof.Machine
end

