-- ==== Sys2Proof/Machine/State.lean ====
section
/-! DEFINITION. The state of the K48.

Every dictionary object's value (settings, statuses and counters that software reads whole) lives in ONE sparse store,
`Live.store`, keyed by index, subindex and instance; an unlisted cell reads as the object's default, which is its value at
reset (the catalogue gives it).  What is not a dictionary value (queues, frames, buffers, rings, records in progress) lives
in the structures below.  All of it is plain data. -/

namespace Sys2Proof.Machine

open Sys2Proof

/-! ## The beat (01_beat.md) -/

/-- What an uplink's Announce messages last said (R51, R52): the dataset that the best master clock algorithm compares. -/
structure Announce where
  priority1 : Nat := 255
  clockClass : Nat := 255
  accuracy : Nat := 255
  variance : Nat := 65535
  priority2 : Nat := 255
  /-- Identity of the grandmaster, and of the clock that sent the message. -/
  identity : Nat := 0
  sender : Nat := 0
  stepsRemoved : Nat := 0
  /-- timeSource of the dataset. -/
  timeSource : Nat := 0xA0
  /-- Count of beats at the last Announce. -/
  last : Nat := 0
deriving DecidableEq, Repr, Inhabited

/-- The beat and the time unit (R25 to R59). -/
structure Beat where
  /-- BEAT_NUMBER of the current beat (R26). -/
  number : Nat := 0
  /-- ELAPSED_BEATS (R29). -/
  elapsed : Nat := 0
  /-- Beats that occurred so far, a count of the model's own that no strobe and no new run clears: every duration is measured on it (R30, R35). -/
  ticks : Nat := 0
  /-- The fields of BEAT_STATE (R54). -/
  locked : Bool := false
  freeRun : Bool := true
  holdover : Bool := false
  slewing : Bool := false
  overrunSeen : Bool := false
  stepped : Bool := false
  /-- PTP time at the start of the current beat, in half nanoseconds (R31, R39). -/
  halfNs : Nat := 0
  /-- BEAT_LAST_CYCLES: engine cycles of the previous beat. -/
  lastCycles : Nat := 0
  /-- The slew gap left, in sixteenths of a beat (R39). -/
  slewUnits : Nat := 0
  /-- ARM_ORIGIN has armed the strobe (R32, R33). -/
  strobeArmed : Bool := false
  /-- The strobe was taken at the boundary that began this beat; the beat ends at the strobe instant (R32). -/
  strobeTaken : Bool := false
  /-- The beat is the alignment beat of a lock decision (R38). -/
  aligning : Bool := false
  /-- Consecutive Sync messages with the offset within the lock threshold, and beyond the unlock threshold (R36). -/
  goodSyncs : Nat := 0
  badSyncs : Nat := 0
  /-- Count of beats at the last Sync (R36). -/
  lastSync : Nat := 0
  /-- The offsets of the last 64 Sync messages, newest first: the averaged frequency of holdover (R37). -/
  offsets : List Int := []
  /-- Whether the PTP instance runs (R59). -/
  ptpRunning : Bool := false
  /-- What each candidate uplink's Announce messages said, by uplink (R52). -/
  announces : Tbl (Option Announce) := []
  /-- Sync and Announce messages sent on master ports: how many of each, the beat count of the last of each, and the
  dataset last announced (R51). -/
  syncsSent : Nat := 0
  announcesSent : Nat := 0
  lastSyncSent : Option Nat := none
  lastAnnounceSent : Option Nat := none
  announced : Option Announce := none
  /-- Delay messages answered (R49). -/
  delaysAnswered : Nat := 0
  /-- The ports on which the last Sync or Announce went, and those of them on which a Follow_Up followed, as sets (R49). -/
  sentOn : Nat := 0
  followedUp : Nat := 0
  /-- The hardware timestamps of the last PTP event message received, with its port, and sent: TIME64, 8 ns (R50). -/
  stampIn : Option (Nat × Nat) := none
  stampOut : Option Nat := none
  /-- Where the numbering jumped: the count of beats at the first beat after, and the number of the beat before; oldest first.
  The model's own: the number of an ingress beat past (R43). -/
  jumps : List (Nat × Nat) := []
deriving DecidableEq, Repr, Inhabited

/-! ## The dictionary and its paths (02_dictionary.md, 03_dictionary_wire.md) -/

/-- A write that waits for its commit beat (R75 to R80). -/
structure PendingWrite where
  /-- Rank of the master (R71). -/
  rank : Nat
  /-- Operation: 1 WRITE, 2 WRITE_AT_BEAT, 3 COMMAND, 5 a completed segmented write (R96). -/
  op : Nat
  reqId : Nat
  index : Nat
  sub : Nat
  /-- The instance that a PER_TN or PER_MASTER object reaches (R72, R185). -/
  inst : Nat := 0
  /-- Subindexes and values of the fields carried. -/
  fields : List (Nat × Nat)
  /-- Count of beats at its arrival. -/
  arrival : Nat
  /-- Order of arrival over all masters. -/
  order : Nat
  /-- Responses cached when it arrived (R85). -/
  seen : Nat := 0
  /-- The named beat of a write-at-beat (R64). -/
  target : Option Nat := none
  /-- Carried from an earlier phase (R77). -/
  carried : Bool := false
  /-- SEG_NO of the last segment of a segmented write (R102). -/
  segNo : Nat := 0
  /-- LC_CHALLENGE at arrival, and the value before it (R142). -/
  challenge : Nat × Nat := (0, 0)
deriving DecidableEq, Repr, Inhabited

/-- A response towards a master (R79, R96). -/
structure Response where
  rank : Nat
  op : Nat
  reqId : Nat
  index : Nat
  sub : Nat
  status : Nat
  payload : List Byte := []
deriving DecidableEq, Repr, Inhabited

/-- A cached response (R84). -/
structure CacheEntry where
  op : Nat
  reqId : Nat
  index : Nat
  sub : Nat
  code : Nat
  payload : List Byte := []
  /-- Count of beats of the response's beat. -/
  at_ : Nat := 0
  /-- How many responses were cached before it. -/
  serial : Nat := 0
deriving DecidableEq, Repr, Inhabited

/-- An open segmented transfer (R99 to R104). -/
structure Transfer where
  reqId : Nat
  index : Nat
  sub : Nat
  inst : Nat := 0
  read : Bool := false
  /-- Length of the value, and data bytes in a segment. -/
  total : Nat
  size : Nat
  target : Option Nat := none
  /-- The captured value of a read, or what a write has collected. -/
  data : List Byte := []
  /-- The next SEG_NO. -/
  next : Nat := 0
  /-- Count of beats at the last segment. -/
  last : Nat := 0
  /-- The last segment of a read has been served: only its repeat is still answered. -/
  done : Bool := false
deriving DecidableEq, Repr, Inhabited

/-- An entry of the clamp journal (R70). -/
structure ClampEntry where
  beat : Nat
  rank : Nat
  tenancy : Nat
  reqId : Nat
  index : Nat
  sub : Nat
  status : Nat
  mask : Nat
deriving DecidableEq, Repr, Inhabited

/-- The dictionary server. -/
structure Dict where
  /-- The commit queue (R80). -/
  queue : List PendingWrite := []
  /-- Order number of the next arrival. -/
  arrivals : Nat := 0
  /-- Cached responses by rank, oldest first, at most 64 each (R84), and how many responses have been cached. -/
  cache : Tbl (List CacheEntry) := []
  cached : Nat := 0
  /-- Open transfers by rank (R99). -/
  transfers : Tbl (Option Transfer) := []
  /-- The clamp journal, oldest first, at most 256; a wiped entry is `none` and reads all zero (R70, R87). -/
  journal : List (Option ClampEntry) := []
  /-- CLAMP_TOTAL as TN0 masters read it, and as those of TN1 to TN7 do (R87). -/
  clampTotal : Tbl Nat := []
  /-- Responses made in this step and not yet handed to their paths (empty between steps). -/
  outbox : List Response := []
  /-- The firmware's last response. -/
  firmware : Option Response := none
  /-- Notification sequence of each master, by rank (R98). -/
  notifySeq : Tbl Nat := []
deriving DecidableEq, Repr, Inhabited

/-- A frame on a CAN port's transmit queues: a data frame with its identifier (R105, R109). -/
structure CanFrame where
  /-- Identifier. -/
  id : Nat
  data : List Byte
  /-- A notification, not a response. -/
  notify : Bool := false
  /-- An FD frame, with the bit rate switched in its data phase, and transmitter delay compensation there (R105). -/
  fd : Bool := true
  brs : Bool := false
  tdc : Bool := false
deriving DecidableEq, Repr, Inhabited

/-- How far a CAN port's current frame has gone (R110). -/
inductive CanProgress where
  | idle | arbitration | past
deriving DecidableEq, Repr, Inhabited

/-- A CAN port (R105 to R112). -/
structure CanPort where
  /-- Responses and notifications waiting, in arrival order. -/
  waiting : List CanFrame := []
  /-- Roll-call frames waiting. -/
  calls : List CanFrame := []
  /-- The frame being sent and its progress. -/
  sending : Option CanFrame := none
  progress : CanProgress := .idle
  /-- The frame being sent will complete as TOO_LATE; if it loses arbitration, it is not queued again (R110). -/
  tooLate : Bool := false
  drop : Bool := false
  /-- The NODE in force until that frame ends (R110). -/
  node : Option Nat := none
  /-- The last frame sent whole. -/
  lastSent : Option CanFrame := none
  callSeq : Nat := 0
  /-- Count of beats of the last roll-call. -/
  lastCall : Nat := 0
  /-- A call has been sent and its answers are open. -/
  callOpen : Bool := false
  /-- Nodes that answered the latest call, and calls missed in a row by node (R112). -/
  answered : List Nat := []
  missed : Tbl Nat := []
  /-- A change of settings excuses a missed answer to the latest call; the count of beats of the last such change (R125). -/
  excuse : Bool := false
  changedAt : Option Nat := none
deriving DecidableEq, Repr, Inhabited

/-- A sequence window: the highest accepted, and which of the 63 below it have been (R115). -/
structure SeqWindow where
  high : Nat := 0
  seen : List Nat := []
deriving DecidableEq, Repr, Inhabited

/-- The last accepted request of an in-band session: where notifications go (R117). -/
structure InbandPeer where
  port : Nat
  mac : Nat
  vid : Option Nat
  /-- Its epoch, and the key of that epoch. -/
  epoch : Nat
  key : Nat := 0
deriving DecidableEq, Repr, Inhabited

/-- The way back of an accepted request (R117). -/
structure InbandRoute where
  op : Nat
  reqId : Nat
  index : Nat
  sub : Nat
  peer : InbandPeer
deriving DecidableEq, Repr, Inhabited

/-- An in-band session (R113 to R117). -/
structure Session where
  /-- A key has been written since power-on reset. -/
  keyed : Bool := false
  /-- The session has started and not ended. -/
  open_ : Bool := false
  window : SeqWindow := {}
  /-- The previous key, its window, and the count of beats at which its grace ends (R116). -/
  oldKey : Nat := 0
  oldWindow : SeqWindow := {}
  graceEnd : Option Nat := none
  /-- Last sequences that this session sent under former epochs, by epoch. -/
  formerTx : Tbl Nat := []
  /-- A direction has reached 2^32 - 1 (R115). -/
  exhausted : Bool := false
  /-- Count of beats of the last AUTH_FAIL answered (R114). -/
  lastAuthFail : Option Nat := none
  peer : Option InbandPeer := none
  /-- Routes of requests not yet answered, oldest first (R117). -/
  routes : List InbandRoute := []
deriving DecidableEq, Repr, Inhabited

/-- A function's mailbox page (R118 to R120). -/
structure Mailbox where
  request : List Byte := []
  response : List Byte := []
  reqBusy : Bool := false
  rspReady : Bool := false
  protocolError : Bool := false
  rspIrqEn : Bool := false
  /-- Responses behind the one shown. -/
  waiting : List Response := []
deriving DecidableEq, Repr, Inhabited

/-! ## Modes, life cycle, images, the stored set (04_modes_lifecycle.md) -/

/-- The twelve unit modes. -/
inductive Mode where
  | off | dormant | listen | bringup | wipe | configure | service | island | backfill | lean | freeze | decommissioned
deriving DecidableEq, Repr, Inhabited

/-- A mode's number. -/
def Mode.code : Mode → Nat
  | .off => 0 | .dormant => 1 | .listen => 2 | .bringup => 3 | .wipe => 4 | .configure => 5 | .service => 6
  | .island => 7 | .backfill => 8 | .lean => 9 | .freeze => 10 | .decommissioned => 11

/-- What began the current start-up (R146). -/
inductive ResetKind where
  | powerOn | warm | wake | lifeCycle
deriving DecidableEq, Repr, Inhabited

/-- A copy of the stored set (R154). -/
structure StoredCopy where
  /-- Never written, or erased: such a copy fails no CRC. -/
  blank : Bool := true
  valid : Bool := false
  generation : Nat := 0
  /-- The stored cells of the dictionary, tables included. -/
  cells : Tbl Nat := []
  /-- States of TN1 to TN7: 1 ACTIVE; a WIPING one as 2 for a reset, 3 for a deletion, 4 for kept segments, 5 and 6 for
  the last two where a CREATE waits. -/
  tenancies : Tbl Nat := []
  /-- Sessions whose key has been written, as a set. -/
  keyed : Nat := 0
deriving DecidableEq, Repr, Inhabited

/-- The shutdown record in NOR (R164). -/
structure ShutdownRecord where
  beat : Nat
  mode : Nat
  causes : Nat
  /-- 0 MAINS, 1 THERMAL. -/
  reason : Nat
deriving DecidableEq, Repr, Inhabited

/-- An image slot in NOR: the 1 MiB blocks written to it; an unlisted block is as delivered (R150, R152). -/
structure ImageSlot where
  blocks : Tbl (List Byte) := []
deriving DecidableEq, Repr, Inhabited

/-- Modes, life cycle and start-up. -/
structure Modes where
  mode : Mode := .bringup
  /-- MODE_SINCE. -/
  since : Nat := 0
  /-- A committed MODE_REQUEST of FREEZE (R128). -/
  freezeAsked : Bool := false
  /-- The DORMANT request that waits: the count of beats at its commit (R138). -/
  dormantAsked : Option Nat := none
  /-- A wake source that has fired: its bit, and the count of beats at which the first of them fired (R136). -/
  wake : Option Nat := none
  wakeAt : Nat := 0
  /-- A transition committed in this phase 3 and due in phase 4: the mode to enter. -/
  goTo : Option Mode := none
  /-- A warm restart asked for: 1 commanded, 2 firmware watchdog, 3 trial (R147). -/
  restart : Option Nat := none
  /-- A mode-affecting write has taken effect in this commit phase (R163). -/
  acted : Bool := false
  /-- What began this start-up, and the count of beats at its first BRINGUP beat. -/
  kind : ResetKind := .powerOn
  began : Nat := 0
  /-- Start-up milestones reached (R157). -/
  trained : Bool := false
  imageOk : Bool := false
  recovery : Bool := false
  storedLoaded : Bool := false
  filled : Bool := false
  /-- A stored value has changed since the commit beat of the last STORE (R149). -/
  dirtySince : Bool := false
  /-- Failed trainings and failed wipes. -/
  trainingFails : Nat := 0
  wipeAttempts : Nat := 0
  /-- The LC_CHALLENGE before the current one, and when it changed (R142). -/
  oldChallenge : Nat := 0
  challengeAt : Nat := 0
  /-- The count of beats at the trial's first CONFIGURE beat (R153). -/
  trialStart : Option Nat := none
  /-- The image that ran before the trial. -/
  previousImage : Nat := 0
  /-- A trial revert is due at the next BRINGUP. -/
  revert : Bool := false
  slotA : ImageSlot := {}
  slotB : ImageSlot := {}
  copy0 : StoredCopy := {}
  copy1 : StoredCopy := {}
  /-- The copy a STORE is writing, and when it began (R155). -/
  storing : Option (Nat × StoredCopy × Nat) := none
  /-- A STORE was cut off by a restart. -/
  storeCut : Bool := false
  /-- The beat origin of the boot record in NOR (R31). -/
  bootOrigin : Nat := 0
  shutdown : Option ShutdownRecord := none
  /-- Frames each MAC discarded between the stop of forwarding and CONFIGURE (R148). -/
  holdCounts : Tbl Nat := []
  /-- The DRAM counter archive (R148). -/
  archive : Tbl Nat := []
  /-- States of the tenancies in the stored set just loaded, until the first CONFIGURE beat (R190). -/
  loadedTns : Tbl Nat := []
  /-- Sessions whose key the stored set just loaded holds. -/
  loadedKeys : Nat := 0
  /-- Retained segments were kept by this restart (R158). -/
  keeps : Bool := false
deriving DecidableEq, Repr, Inhabited

/-! ## Tenancies (05_tenancies.md) -/

/-- What the wipe of a tenancy is for (R179, R189). -/
inductive WipeKind where
  | reset | delete | kept
deriving DecidableEq, Repr, Inhabited

/-- A tenancy's wipe in progress (R180, R181). -/
structure TnWipe where
  kind : WipeKind := .reset
  /-- The elapsed-beat count at which its own scrub starts. -/
  start : Nat := 0
  /-- Segments to be zero-filled. -/
  segments : Nat := 0
  /-- A CREATE waits for its end. -/
  create : Bool := false
  /-- Beat c of the command. -/
  beat : Nat := 0
deriving DecidableEq, Repr, Inhabited

/-- The tenancies. -/
structure Tenancies where
  wipes : Tbl (Option TnWipe) := []
  /-- Claims of sessions that are ignored: 4 * tenancy + session (R167). -/
  conflicts : List Nat := []
deriving DecidableEq, Repr, Inhabited

/-! ## Power (06_power_poe.md) -/

/-- What a power module itself knows and reports; the boundary samples it into the module objects (R191 to R196). -/
structure Module where
  /-- Module state code that the module reports (R191). -/
  report : Nat := 0
  /-- A module stands in the bay; it reports ABSENT until its output has been in regulation (R196). -/
  fitted : Bool := false
  /-- The module leaves: it reports ABSENT after the next sample (R196). -/
  leaving : Bool := false
  /-- 0 AC, 1 DC. -/
  kind : Nat := 0
  volts : Nat := 0
  hz : Nat := 0
  output : Nat := 0
  inlet : Int := 250
  serial : Nat := 0
  /-- Count of beats since which the AC input has been above 184 V (R192). -/
  aboveSince : Option Nat := none
deriving DecidableEq, Repr, Inhabited

/-- An access port's PSE: what the port objects do not show (R204 to R217). -/
structure Pse where
  /-- The second pair set's class of a dual-signature PD. -/
  class2 : Option Nat := none
  /-- The last per-beat draws since power-on, newest first, at most 8 (R208). -/
  draws : List Nat := []
  /-- Some draw has been measured since power-on: power-up is complete. -/
  drawn : Bool := false
  /-- Count of beats at POWER_ON_BEAT. -/
  onTick : Nat := 0
  /-- Counts of beats of the counted faults in the window, oldest first (R217). -/
  faults : List Nat := []
  holdEnd : Option Nat := none
  /-- The grant that a port shed for cap held. -/
  lastGrant : Nat := 0
  /-- A PD's request by LLDP that waits for the next boundary (R210). -/
  request : Option Nat := none
deriving DecidableEq, Repr, Inhabited

/-- Power intake and the arbiter. -/
structure Power where
  modules : Tbl Module := []
  ports : Tbl Pse := []
  /-- Silicon requesters that wait, and the consecutive boundaries they have waited (R202). -/
  waiting : Tbl (Option Nat) := []
  /-- Counts of beats of the last shed for budget and for cap (R212). -/
  lastBudget : Option Nat := none
  lastCap : Option Nat := none
  /-- Ports for which the PSE controller does not report (R225). -/
  pseFault : Nat := 0
  /-- Early PoE runs (R159). -/
  early : Bool := false
deriving DecidableEq, Repr, Inhabited

/-! ## Ports, frames, queues and gates (07 to 10, 12, 13) -/

/-- What a cell of the store held before a change (R43, R287): frames of earlier ingress beats still read it. -/
structure Version where
  key : Nat
  /-- Count of beats at the change. -/
  at_ : Nat
  old : Nat
deriving DecidableEq, Repr, Inhabited

/-- A frame record (R351): the frame as received, its final metadata word, and what its transmission needs. -/
structure Frame where
  bytes : List Byte := []
  /-- The metadata word that left CT3 (R270), with the policer's colour and the routed VLAN. -/
  word : Nat := 0
  /-- Ingress port, and the count and number of its ingress beat. -/
  port : Nat := 0
  ingress : Nat := 0
  beat : Nat := 0
  /-- PTP time of admission in nanoseconds (R430). -/
  admitted : Nat := 0
  /-- PTP ingress timestamp in nanoseconds (R9). -/
  stamp : Nat := 0
  /-- Ports that send the frame untagged (R329). -/
  untagged : Nat := 0
  /-- Routed: the new source and destination addresses (R335). -/
  routed : Option (Nat × Nat) := none
  /-- The DSCP that REMARK writes (R416). -/
  dscp : Option Nat := none
  /-- The frame holds a poisoned word (R379). -/
  poisoned : Bool := false
  /-- The frame was built whole by its source: no edit applies at transmission. -/
  plain : Bool := false
  /-- Stored in this uplink's output memory; otherwise in cell memory. -/
  uplink : Option Nat := none
  /-- Queue entries that refer to the record. -/
  refs : Nat := 0
  /-- Step 4 charged its ingress count; admitted from headroom (R362). -/
  charged : Bool := false
  headroom : Bool := false
  /-- The function of a frame for port H, and whether the frame came from a function (R612). -/
  function : Option Nat := none
deriving DecidableEq, Repr, Inhabited

/-- A queue entry (R351): a frame record and this destination's ECN mark. -/
structure QEntry where
  frame : Nat
  ecn : Bool := false
deriving DecidableEq, Repr, Inhabited

/-- The frame that a port sends now. -/
structure Tx where
  /-- The frame record and its queue; `none` for a PFC frame. -/
  entry : Option (Nat × Nat) := none
  /-- The bytes on the line. -/
  bytes : List Byte := []
  /-- The instant of its first preamble bit and the close time in force then, in units of 0.01 ns of PTP time (R450, R453). -/
  start : Nat := 0
  close : Option Nat := none
deriving DecidableEq, Repr, Inhabited

/-- An LLDP neighbour (R252, R253). -/
structure Neighbour where
  chassisType : Nat := 0
  chassis : List Byte := []
  portType : Nat := 0
  portId : List Byte := []
  name : List Byte := []
  mac : Nat := 0
  caps : Nat := 0
  arrival : Nat := 0
  /-- Count of beats at which its TTL expires. -/
  expires : Nat := 0
deriving DecidableEq, Repr, Inhabited

/-- What a port holds beside its objects. -/
structure Port where
  /-- Pause times loaded, in quanta, by priority; 0 is not paused (R238). -/
  pause : Tbl Nat := []
  /-- Priorities whose timer has stayed above 0 since the beat began (R243). -/
  whole : Nat := 0
  /-- Priorities for which a PFC frame is due (R240). -/
  pfcDue : Nat := 0
  tx : Option Tx := none
  /-- The scheduler: queues visited in the DRR round, the DRR pointer, virtual time, tags, and the head frame that each
  tag was computed for (R421, R422). -/
  visited : Nat := 0
  drrPtr : Nat := 0
  vtime : Nat := 0
  tags : Tbl Nat := []
  tagOf : Tbl (Option Nat) := []
  /-- Step-3 tests made by each queue for frames of an ingress beat: queue, beat count, tests (R369). -/
  tests : List (Nat × Nat × Nat) := []
  /-- The uplink staging area: bits still held, and the time of that reading in nanoseconds (R355). -/
  staged : Nat := 0
  stagedAt : Nat := 0
  /-- Line rate in Mb/s of the last link. -/
  lastSpeed : Nat := 0
  /-- The PHY does not answer its management interface, and the count of beats of the last retry (R264). -/
  phySilent : Bool := false
  phyAt : Nat := 0
  /-- What the PHY sensed in this beat: the link up, with the partner's abilities and the FEC negotiated, or lost (R42). -/
  sensed : Option (Bool × Nat × Nat) := none
  /-- The module has asserted TX_FAULT in this beat (R233, R263). -/
  faulted : Bool := false
  /-- TX_DISABLE is asserted, and until which count of beats after a TX_FAULT (R233). -/
  txDisabled : Bool := true
  release : Option Nat := none
  /-- Counts of beats of the TX_FAULTs in the window, oldest first. -/
  txFaults : List Nat := []
  /-- Failed identification reads in succession, and the count of beats of presence (R231). -/
  idFails : Nat := 0
  present : Bool := false
  /-- Count of beats at the last LLDPDU sent. -/
  lldpSent : Option Nat := none
  neighbours : Tbl (Option Neighbour) := []
  /-- Length and cycle of the armed change (R446). -/
  armed : Nat × Nat := (0, 0)
  /-- An uncorrectable word stands in the operating list (R465). -/
  gateError : Bool := false
deriving DecidableEq, Repr, Inhabited

/-- A learn request (R316). -/
structure Learn where
  ingress : Nat
  port : Nat
  fid : Nat
  mac : Nat
  dest : Nat
  tn : Nat
deriving DecidableEq, Repr, Inhabited

/-- A flush criterion (R325). -/
inductive FlushKind where
  | port (p : Nat) | fid (f : Nat) | tenancy (n : Nat)
deriving DecidableEq, Repr, Inhabited

/-- A flush criterion with the beat count of its commit. -/
structure FlushCrit where
  kind : FlushKind
  at_ : Nat
deriving DecidableEq, Repr, Inhabited

/-- A snooped group (R338, R339): its tenancy, VLAN, MAC address and group element, and the ports with the count of beats
at which each leaves. -/
structure Snooped where
  tn : Nat
  vlan : Nat
  mac : Nat
  group : Nat
  ports : List (Nat × Nat) := []
deriving DecidableEq, Repr, Inhabited

/-- A next hop's resolution (R336). -/
structure Resolution where
  /-- Resolutions sent in a row with no answer. -/
  missed : Nat := 0
  /-- Counts of beats of the last copy to port C for it (R335), of the last resolution sent, and of the last answer. -/
  copied : Option Nat := none
  asked : Option Nat := none
  done : Option Nat := none
deriving DecidableEq, Repr, Inhabited

/-- A change of a MAC entry that waits for its visible beat (R315): DEST 0x0FFE removes the entry. -/
structure MacLater where
  at_ : Nat
  tn : Nat
  fid : Nat
  mac : Nat
  dest : Nat
  static : Bool := false
deriving DecidableEq, Repr, Inhabited

/-- The forwarding tables' work in progress. -/
structure Fwd where
  learns : List Learn := []
  later : List MacLater := []
  /-- Changes of the last 64 visible beats: location and visible beat, as counts of beats (R314). -/
  settle : List (Nat × Nat) := []
  /-- Last visible beat of each location. -/
  visible : Tbl Nat := []
  /-- Criteria that wait, and those of the pass that runs with its position and the count of beats of its start (R325). -/
  flushes : List FlushCrit := []
  pass : List FlushCrit := []
  passPos : Nat := 0
  snooped : List Snooped := []
  /-- Router ports that queries showed: tenancy, port, count of beats at which each leaves. -/
  routers : List (Nat × Nat × Nat) := []
  nextHops : Tbl Resolution := []
  /-- Tenancies whose snooping range is exhausted. -/
  exhausted : Nat := 0
  /-- Uplinks that have left UP since the LAGs were last settled (R263, R326). -/
  downs : List Nat := []
  /-- Count of beats at the last end of a damping window (R321). -/
  dampedAt : Option Nat := none
deriving DecidableEq, Repr, Inhabited

/-- A shadow copy in progress (R297). -/
structure ShadowCopy where
  /-- Count of beats of its commit, the bank it fills, and the bytes copied so far. -/
  start : Nat
  bank : Nat
  pos : Nat := 0
  /-- What is still to come of the active bank as at the commit: element and content, all-zero ones left out. -/
  source : List (Nat × Nat) := []
  /-- Elements of the shadow written since, which the copy leaves. -/
  kept : List Nat := []
deriving DecidableEq, Repr, Inhabited

/-- Calico's work in progress. -/
structure Calico where
  /-- The shadow copy of each table, and the count of beats at which each table's swap took place. -/
  copies : Tbl (Option ShadowCopy) := []
  drains : Tbl (Option Nat) := []
deriving DecidableEq, Repr, Inhabited

/-- The data plane. -/
structure Plane where
  /-- Former values of table elements that frames of earlier ingress beats still read (R287, R288). -/
  versions : List Version := []
  /-- Table elements with an uncorrectable word, by key of the store (R306, R348, R465). -/
  bad : List Nat := []
  /-- Frames held, by record number, and the number of the next record (R350). -/
  frames : Tbl (Option Frame) := []
  nextFrame : Nat := 0
  /-- Queue entries by 8 * port + queue, the head first. -/
  queues : Tbl (List QEntry) := []
  /-- What each port holds beside its objects (R227 to R258). -/
  ports : Tbl Port := []
  /-- Nanoseconds into the beat of the latest timed input. -/
  sub : Nat := 0
  /-- Swaps, copies and drains of the classification tables (R290). -/
  calico : Calico := {}
  /-- Learning, aging, flushes and snooping (R309). -/
  fwd : Fwd := {}
  /-- Count of beats at which a reclaim pass began, and the cells it has to return (R379). -/
  reclaim : Option Nat := none
  reclaimCells : Nat := 0
  /-- Bytes and copies written to the buffer memories in this beat (R360). -/
  wroteBytes : Nat := 0
  wroteFrames : Nat := 0
  /-- Shapers whose RATE or BURST changed (1) or that were enabled (2) in this commit phase, by 9 * port + queue, 8 the
  port's own (R425, R426). -/
  shaperMarks : Tbl Nat := []
  /-- Queue samples (R430): the beat stamp of each of the 64 slots, and by 64 * (8 * port + queue) + slot the depth in
  bytes times 2^32 plus the sojourn. -/
  stamps : Tbl Nat := []
  samples : Tbl Nat := []
  /-- Samples taken since reset, that count at each queue's last HIST_CLEAR, and the bins above 0 by
  16 * (8 * port + queue) + bin (R431). -/
  sampled : Nat := 0
  histFrom : Tbl Nat := []
  hist : Tbl Nat := []
  /-- Policer buckets: C and E or P, in bits (R411). -/
  bucketC : Tbl Nat := []
  bucketE : Tbl Nat := []
  /-- Count of beats at the last decay of the penalties (R247). -/
  decayedAt : Option Nat := none
deriving DecidableEq, Repr, Inhabited

/-! ## Buffers (11_buffer_pools.md) -/

/-- A buffer of the BPM (R384, R385, R396, R407). -/
structure Buf where
  /-- Its current generation. -/
  gen : Nat := 1
  /-- Its owners, the one that has held it longest first, and the final owner. -/
  owners : List Nat := []
  final : Nat := 0
  tn : Nat := 0
  /-- Freed, and waiting for its zero-fill. -/
  zeroing : Bool := false
  /-- Its bytes from offset 0; what is not listed is zero, and the last byte listed is not. -/
  data : List Byte := []
  /-- The 64-byte units that are poisoned. -/
  poison : List Nat := []
  /-- It holds an uncorrectable word. -/
  bad : Bool := false
deriving DecidableEq, Repr, Inhabited

/-- The buffer pool manager. -/
structure Bpm where
  /-- Buffers by 2^25 * pool + index. -/
  bufs : Tbl Buf := []
  /-- DRAM buffers whose zero-fill waits, in the order of their FREE (R399). -/
  fills : List Nat := []
  /-- The start-up fill of the DRAM buffers that no kept segment holds has come to this buffer, and goes before the queue
  (R408). -/
  sweep : Option Nat := none
  /-- Result code and handle of the last operation, by requester (R403, R619). -/
  results : Tbl (Nat × Nat) := []
deriving DecidableEq, Repr, Inhabited

/-! ## Retention (14_flannel.md) -/

/-- Work of the probe engine (R45, R477): a heartbeat to send, or a datagram to PROBE_PORT to check, with its ingress port,
source, payload and beat. -/
inductive ProbeWork where
  | send
  | reply (port src : Nat) (payload : List Byte) (beat : Nat)
deriving DecidableEq, Repr, Inhabited

/-- A segment, by the number of its B1M buffer: its index record (R472) and what Flannel keeps beside it. -/
structure Segment where
  stream : Nat := 0
  tn : Nat := 0
  /-- 0 FREE, 1 OPEN, 2 PREROLL, 3 RETAINED, 4 RETURNING. -/
  state : Nat := 0
  poison : Bool := false
  crcBad : Bool := false
  reoffered : Bool := false
  resent : Bool := false
  fromPreroll : Bool := false
  kept : Bool := false
  firstBeat : Nat := 0
  lastBeat : Nat := 0
  firstTs : Nat := 0
  bytes : Nat := 0
  frames : Nat := 0
  crc : Nat := 0
  firstSeq : Nat := 0
  datagrams : Nat := 0
  handle : Nat := 0
  closeBeat : Nat := 0
  /-- Its record has committed. -/
  committed : Bool := false
  /-- It holds a frame written while its stream was RETAINING (R471). -/
  island : Bool := false
  /-- Counts of beats of its first record, and of the ingress beat of its last (R471, R473). -/
  opened : Nat := 0
  lastAt : Nat := 0
  /-- The function it is offered to, and the count of beats of the offer's commit (R483). -/
  offer : Option (Nat × Nat) := none
  /-- Datagrams sent of the present sending, and the count of beats of the last one (R485, R486). -/
  sent : Nat := 0
  sentAt : Option Nat := none
  /-- Bytes of a piece at the first send. -/
  piece : Nat := 0
deriving DecidableEq, Repr, Inhabited

/-- An export block (R490). -/
structure ExportBlock where
  tn : Nat
  number : Nat
  /-- The block's bytes, until its compression job is admitted. -/
  bytes : List Byte := []
  admitted : Bool := false
  /-- The handle of its B64K buffer and the compressed length, once compressed. -/
  handle : Nat := 0
  length : Nat := 0
  offer : Option (Nat × Nat) := none
  reoffered : Bool := false
deriving DecidableEq, Repr, Inhabited

/-- Flannel. -/
structure Flannel where
  segs : Tbl Segment := []
  /-- Closed segments whose records wait for the index engine, in its order: (count of beats of the close * 128 + stream) *
  65536 + buffer number (R46). -/
  commits : List Nat := []
  /-- Records committed in the current beat (R45). -/
  committed : Nat := 0
  /-- Streams that a purge holds PURGED, as a set, and the buffers whose zero-fill it awaits: stream, key (R494). -/
  purging : Nat := 0
  purgeKeys : List (Nat × Nat) := []
  /-- UPLINK_LOST (R475). -/
  lost : Bool := false
  /-- BACKLOG as last evaluated (R481). -/
  backlog : Bool := false
  /-- Counts of beats at which the running family was entered, and of the last heartbeat check since (R476, R500). -/
  ranFrom : Nat := 0
  lastCheck : Option Nat := none
  /-- A heartbeat has been sent and not yet judged, and a valid reply to it has come (R476). -/
  beaten : Bool := false
  replied : Bool := false
  /-- The count of beats at which the next heartbeat goes (R476). -/
  sendAt : Option Nat := none
  /-- The latest valid reply carries HOLD_BACKFILL (R485). -/
  holdBackfill : Bool := false
  /-- The segment that the backfill sender serves, the tenancy served last, and the shaper's credit in bits, once filled
  (R487). -/
  sending : Option Nat := none
  turn : Nat := 7
  credit : Option Int := none
  blocks : List ExportBlock := []
  /-- Tenancies whose committed INDEX_EXPORT awaits the end of its commit boundary, as a set (R490). -/
  exportAsked : Nat := 0
  /-- Work that the probe engine carries, oldest first, and the count of beats of its last work (R45, R46). -/
  probeQueue : List ProbeWork := []
  probed : Option Nat := none
  /-- ACKs of the collector that arrived in this beat: tenancy and payload (R486). -/
  acks : List (Nat × List Byte) := []
deriving DecidableEq, Repr, Inhabited

/-! ## DRAM (15_dram.md) -/

/-- An entry of the error log (R528). -/
structure DramError where
  beat : Nat := 0
  kind : Nat := 0
  place : DramPlace := {}
  outcome : Nat := 0
  again : Nat := 0
  /-- Count of beats of BEAT. -/
  at_ : Nat := 0
deriving DecidableEq, Repr, Inhabited

/-- A channel, beside its objects. -/
structure Channel where
  /-- The retry buffer, oldest first, at most 64 (R521). -/
  retry : List DramCmd := []
  /-- The failed command of the replay in progress and how often it has failed (R522). -/
  failed : Option DramCmd := none
  failures : Nat := 0
  /-- Refreshes owed by each rank (R513). -/
  owed0 : Nat := 0
  owed1 : Nat := 0
  /-- Requests held for the frozen channel, by port (R525). -/
  held : Tbl Nat := []
  /-- Count of beats at the last request (R517). -/
  used : Nat := 0
  /-- SRE has been issued (R519). -/
  sre : Bool := false
  /-- Bytes served in the beat before (R516). -/
  served : Nat := 0
  /-- The policy in force: REPLAY or DIAGNOSE (R520, R536). -/
  diagnose : Bool := false
  /-- Where the deficit round robin stands and what its turn has left in 64-byte quanta: 0 among the ports, 1 and 2 among the
  lanes of D0 and of D1 (R509). -/
  rounds : Tbl (Nat × Nat) := []
  /-- Bytes of the accesses issued in this beat (R516). -/
  spent : Nat := 0
deriving DecidableEq, Repr, Inhabited

/-- The DRAM controller. -/
structure Dram where
  ch0 : Channel := {}
  ch1 : Channel := {}
  log : List DramError := []
  /-- Ports that have been in panic in the current beat, as a set (R511). -/
  panicked : Nat := 0
  /-- Scrub passes completed and not yet recorded (R527). -/
  passes : Nat := 0
  /-- A diagnostic freeze stands: the restart that ends it keeps the log and zero-fills DRAM (R525, R536). -/
  diagnosed : Bool := false
deriving DecidableEq, Repr, Inhabited

/-! ## Job engines (16_compression_mover.md) -/

/-- How a job ends (R549, R557). -/
structure JobResult where
  status : Nat := 0
  detail : Nat := 0
  /-- The bytes of output, and those read. -/
  output : List Byte := []
  consumed : Nat := 0
  check : Nat := 0
  stored : Bool := false
  trailing : Bool := false
  poisonCopied : Bool := false
  staged : Bool := false
  reversed : Bool := false
  bytes : Nat := 0
  /-- Destination units that a copy marks poisoned. -/
  marks : List Nat := []
deriving DecidableEq, Repr, Inhabited

/-- A job: source 0 firmware, 1 Flannel, 2 + f function f (R537). -/
structure Job where
  source : Nat
  desc : List Byte
  /-- Tenancy that its output buffers carry. -/
  tn : Nat := 0
  /-- Beat in which it started. -/
  start : Option Nat := none
  /-- Its engine was idle when it was admitted: it runs from the start of the beat. -/
  first : Bool := false
  /-- The input it read from its extents. -/
  input : List Byte := []
  /-- Handles allocated for it: outputs, or a temporary. -/
  outs : List Nat := []
  unboosted : Bool := false
  result : Option JobResult := none
  /-- Beat in which it ended, and its completion entry. -/
  done : Nat := 0
  /-- Counts of beats of its admission and of its end. -/
  taken : Nat := 0
  ended : Nat := 0
  entry : List Byte := []
  notify : Bool := false
deriving DecidableEq, Repr, Inhabited

/-- An engine: 0 compression, 1 mover. -/
structure Engine where
  queue : List Job := []
  /-- Jobs that have ended and await their completion (R557, R602). -/
  ended : List Job := []
  /-- The count of beats of the last admission of each source (R537). -/
  admitted : Tbl (Option Nat) := []
deriving DecidableEq, Repr, Inhabited

/-! ## Audio (17_muslin_audio.md) -/

/-- A ramp of a value over slots (R577, R578). -/
structure Ramp where
  old : Int
  new : Int
  /-- Slots run and slots in all. -/
  pos : Nat := 0
  len : Nat
deriving DecidableEq, Repr, Inhabited

/-- A channel-status block with its user bits: of channel B or A (R569). -/
structure CsBlock where
  chB : Bool
  status : Nat
  user : Nat
  beat : Nat
deriving DecidableEq, Repr, Inhabited

/-- A receiver's runtime. -/
structure AesRx where
  /-- Previous valid sample of channels A and B (R568). -/
  prevA : Int := 0
  prevB : Int := 0
  /-- Samples in the converter, newest first, at most 64 (R570). -/
  fifoA : List Int := []
  fifoB : List Int := []
  /-- Recovered frame rate in Hz. -/
  hz : Nat := 0
  /-- What the line showed last since phase 2 sampled it: state, rate code, frame rate (R567). -/
  sensed : Option (Nat × Nat × Nat) := none
  /-- Blocks accepted that the objects do not show yet, with the beat in which each ended (R569). -/
  blocks : List CsBlock := []
deriving DecidableEq, Repr, Inhabited

/-- A fade position, a fraction from 0 to 1 (R579). -/
structure Fade where
  num : Nat := 0
  den : Nat := 1
  /-- 0 SILENT, 1 RAMPING_IN, 2 PLAYING, 3 FADING_OUT. -/
  state : Nat := 0
deriving DecidableEq, Repr, Inhabited

/-- A source's runtime: 0 to 7 receiver channels, 8 to 15 packet-in streams. -/
structure AudioSource where
  fade : Fade := {}
  /-- The last valid sample. -/
  last : Int := 0
  /-- Faulted in this beat, and good beats in a row. -/
  faulted : Bool := false
  good : Nat := 0
  /-- Packet samples that wait, by slot number modulo 2^32 (R584). -/
  slots : Tbl (Option Int) := []
  /-- The sequence number of the last frame. -/
  seq : Option Nat := none
deriving DecidableEq, Repr, Inhabited

/-- A sink's runtime. -/
structure AudioSink where
  /-- Coefficients that move, by source. -/
  ramps : Tbl (Option Ramp) := []
  /-- The delay line, newest first. -/
  line : List Int := []
  /-- A delay that crosses over to the committed one. -/
  delay : Option Ramp := none
  /-- Outputs, newest first, at most 54. -/
  recent : List Int := []
  /-- The fade of a transmitter's sink: position 1 while no clock switch is in progress (R573). -/
  fade : Fade := { num := 1, den := 1, state := 2 }
deriving DecidableEq, Repr, Inhabited

/-- A transmitter's runtime. -/
structure AesTx where
  /-- Frames sent since it last started (R574). -/
  frames : Nat := 0
  /-- User blocks being sent. -/
  user : Nat := 0
  csB : Nat := 0
  /-- The two subframes sent last: time slots 4 to 31 as bits 0 to 27. -/
  subA : Nat := 0
  subB : Nat := 0
  /-- Samples in the converter, newest first (R570). -/
  fifoA : List Int := []
  fifoB : List Int := []
  /-- A looped transmitter runs in fallback; the count of beats at which its sinks ramp in (R573). -/
  fallback : Bool := false
  rampAt : Option Nat := none
  /-- The sinks fade for a switch at the next boundary. -/
  due : Bool := false
deriving DecidableEq, Repr, Inhabited

/-- A packet-out stream's runtime. -/
structure PacketOut where
  seq : Nat := 0
  mr : Bool := false
  /-- The next RTP packet carries M (R583). -/
  mark : Bool := true
  /-- Count of beats of the last packet due. -/
  last : Option Nat := none
deriving DecidableEq, Repr, Inhabited

/-- A path of a template frame (R587): the stamp of its first feature frame, its length, its distance sum in fortieths, and
how long it has stayed. -/
structure SpotPath where
  start : Nat
  len : Nat
  sum : Nat
  stay : Nat
deriving DecidableEq, Repr, Inhabited

/-- A template's state in an instance. -/
structure SpotTemplate where
  paths : List (Option SpotPath) := []
  /-- complete(i - 1), the path that gave it, and feature frames since the last detection. -/
  complete : Nat := 0
  path : Option SpotPath := none
  since : Option Nat := none
deriving DecidableEq, Repr, Inhabited

/-- A spotter instance's runtime (R586 to R589). -/
structure Spotter where
  /-- The pre-roll ring, newest first, at most 96,000 samples; the beat of the newest. -/
  ring : List Int := []
  ringBeat : Nat := 0
  clip : List Int := []
  clipBeat : Nat := 0
  clipDecision : Nat := 0
  templates : Tbl SpotTemplate := []
  /-- The stamp of the last feature frame, and its count of beats. -/
  frame : Nat := 0
  framed : Option Nat := none
deriving DecidableEq, Repr, Inhabited

/-- A detection (R588). -/
structure Detection where
  inst : Nat
  template : Nat
  score : Nat
  startBeat : Nat
  endBeat : Nat
  decision : Nat
  clipped : Bool := false
deriving DecidableEq, Repr, Inhabited

/-- A buffer with the samples of a packet: its handle, its stream, its first and its last slot modulo 2^32 (R584, R585). -/
structure AudioBuf where
  handle : Nat
  stream : Nat
  first : Nat
  last : Nat
deriving DecidableEq, Repr, Inhabited

/-- Muslin. -/
structure Audio where
  rx : Tbl AesRx := []
  tx : Tbl AesTx := []
  sources : Tbl AudioSource := []
  sinks : Tbl AudioSink := []
  outs : Tbl PacketOut := []
  spotters : Tbl Spotter := []
  /-- The next slot of the beat, 0 to 6. -/
  slot : Nat := 0
  /-- What ran before BRINGUP: 0 nothing, 1 as in LISTEN, 2 receivers and spotter (R565). -/
  before : Nat := 0
  /-- Buffers that hold packet samples (R585). -/
  packets : List AudioBuf := []
  /-- Detections that the island holds, and how many were displaced (R140, R588). -/
  held : List Detection := []
  displaced : Nat := 0
deriving DecidableEq, Repr, Inhabited

/-! ## The host endpoint (18_host_endpoint.md) -/

/-- A ring of a function (R604 to R607). -/
structure Ring where
  sqBase : Nat := 0
  cqBase : Nat := 0
  cqWb : Nat := 0
  /-- RING_CONTROL. -/
  enable : Bool := false
  vector : Nat := 0
  irqEn : Bool := false
  cqLog2 : Nat := 0
  sqLog2 : Nat := 0
  /-- RING_STATUS. -/
  errorCode : Nat := 0
  error : Bool := false
  quiesced : Bool := true
  active : Bool := false
  sqTail : Nat := 0
  sqHead : Nat := 0
  cqHead : Nat := 0
  cqTail : Nat := 0
  /-- COALESCE. -/
  coalesce : Nat := 0
  /-- Entries still owed to the CQ (R607). -/
  owed : Nat := 0
  /-- Counts of beats at which the unconsumed entries were written, oldest first; the vector has been signalled since
  CQ_HEAD moved. -/
  waits : List Nat := []
  signalled : Bool := false
  /-- SQ entries taken and not yet acted on, each with its count of beats. -/
  taken : List (Nat × List Byte) := []
  /-- What the endpoint last wrote to host memory for the ring: a CQ entry, and data. -/
  lastEntry : List Byte := []
  lastData : List Byte := []
deriving DecidableEq, Repr, Inhabited

/-- An entry of the posted-write fault journal (R625). -/
structure HostFault where
  seq : Nat
  reason : Nat
  detail : Nat
  length : Nat
  address : Nat
  data : Nat
  beat : Nat
deriving DecidableEq, Repr, Inhabited

/-- A bulk load in progress (R616). -/
structure Load where
  fn : Nat
  table : Nat
  bank : Nat
  first : Nat
  count : Nat
  cookie : Nat
  /-- Elements taken from the data so far, written, clamped, denied. -/
  pos : Nat := 0
  written : Nat := 0
  clamped : Nat := 0
  denied : Nat := 0
  poison : Bool := false
deriving DecidableEq, Repr, Inhabited

/-- A function: the PF (0) or a VF (1 to 7). -/
structure Fn where
  /-- Registers of the control page: MBX_VECTOR, DRIVER_READY, the journal and reset flags, WATCHDOG_BEATS, the RX map (R604). -/
  mbxVector : Nat := 0
  driverReady : Bool := false
  journalNew : Bool := false
  resetDone : Bool := false
  watchdog : Nat := 0
  rxMap : Nat := 0
  /-- Count of beats at the last write of HOST_ALIVE. -/
  alive : Nat := 0
  /-- Bus Master Enable; for a VF, VF Enable. -/
  master : Bool := false
  vfEnable : Bool := false
  /-- Present, as sampled (R601). -/
  present : Bool := false
  rings : Tbl Ring := []
  bpmArg : Nat := 0
  winHandle : Nat := 0
  winOffset : Nat := 0
  journal : List HostFault := []
  journalSeq : Nat := 0
  /-- MSI-X table words by 4 * vector + word, pending bits, Function Mask, and vectors signalled. -/
  msix : Tbl Nat := []
  pending : Nat := 0
  fnMask : Bool := false
  signals : Tbl Nat := []
  /-- Posted drain buffers, oldest first (R613). -/
  buffers : List Nat := []
  /-- Count of beats at which a function-level reset began, and whether its boundary w + 1 has run (R626). -/
  flr : Option Nat := none
  cleaned : Bool := false
  /-- The last aperture read: its data, or none where it completed with Completer Abort (R620). -/
  apertureRead : Option (List Byte) := some []
deriving DecidableEq, Repr, Inhabited

/-- The endpoint. -/
structure Endpoint where
  fns : Tbl Fn := []
  /-- The link is in DL_Active. -/
  up : Bool := false
  /-- Bulk loads, in the order in which their entries were taken, and the count of beats of each function's last. -/
  loads : List Load := []
  loadAt : Tbl (Option Nat) := []
  /-- Banks that hold an incomplete load, as 2 * table + bank (R684). -/
  marks : List Nat := []
  /-- The recovery window: RECOVERY_CONTROL's BODY_LENGTH, RECOVERY_STATUS, the staged image and its verdict (R628). -/
  recoveryLength : Nat := 0
  recoveryStatus : Nat := 0
  staged : List Byte := []
deriving DecidableEq, Repr, Inhabited

/-! ## Events, GPIO, relays and counters (19_events_counters.md) -/

/-- An occurrence of an event source's instance (R635, R637). -/
structure Occ where
  src : Nat
  tn : Nat := 0
  stamp : Nat
  data : List Byte := []
  held : Bool := false
  prior : Bool := false
deriving DecidableEq, Repr, Inhabited

/-- An instance of an event source (R635, R638 to R644). -/
structure EvInst where
  raw : Bool := false
  latched : Bool := false
  /-- A level instance that has latched and not re-armed (R638). -/
  disarmed : Bool := false
  masked : Bool := false
  occurrences : Nat := 0
  lastBeat : Nat := 0
  /-- Notifications sent since the last unmasking (R644). -/
  sent : Nat := 0
  /-- The elapsed-beat count from which the next notification may go (R643). -/
  nextAt : Nat := 0
  /-- Deferred occurrences: the latest, and how many others. -/
  deferred : Option Occ := none
  folded : Nat := 0
deriving DecidableEq, Repr, Inhabited

/-- A notification on its way to one destination: 0 PF, 1 to 7 VFs, 8 firmware, 9 and 10 CAN ports, 11 to 14 in-band
sessions (R641, R645). -/
structure Note where
  dest : Nat
  src : Nat
  tn : Nat
  payload : List Byte
deriving DecidableEq, Repr, Inhabited

/-- A GPIO input's sampling (R649 to R652). -/
structure Gpio where
  /-- The last sample, and how many equal samples in a row. -/
  sample : Bool := false
  run : Nat := 0
  /-- Value changes of the samples within the chatter window. -/
  transitions : Nat := 0
  /-- Elapsed-beat count from which LEVEL has been 1. -/
  levelSince : Nat := 0
  /-- Count of beats at the last end of a chatter window (R651). -/
  judgedAt : Option Nat := none
deriving DecidableEq, Repr, Inhabited

/-- A block counter's hardware part and what VALUE shows (R658 to R663). -/
structure BlkCtr where
  /-- Count of the current beat. -/
  hw : Nat := 0
  /-- Count of the beat just ended, handed over at the boundary (R661). -/
  hwOld : Nat := 0
  reprogrammed : Bool := false
  accum : Nat := 0
  prevAccum : Nat := 0
  prevEnd : Nat := 0
  prevSelect : Nat := 0
  /-- SELECT in force before the reprogramming. -/
  oldSelect : Nat := 0
  wrapped : Bool := false
  prevWrapped : Bool := false
  resetByError : Bool := false
deriving DecidableEq, Repr, Inhabited

/-- A bank of captured counters (R665): the counter cells of the store, and the block counters. -/
structure Bank where
  cells : Tbl Nat := []
  blocks : Tbl BlkCtr := []
  beat : Nat := 0
  seq : Nat := 0
  postponed : Bool := false
  /-- Captured under AUTO_SNAPSHOT_BEATS alone. -/
  auto : Bool := false
deriving DecidableEq, Repr, Inhabited

/-- Events, GPIO and counters. -/
structure Events where
  /-- Instances, by 8 * source + tenancy. -/
  inst : Tbl EvInst := []
  /-- Occurrences that await the next evaluation, in order. -/
  arisen : List Occ := []
  /-- Level conditions stated "in any beat in which" that held in this beat: source, tenancy, data. -/
  seen : List (Nat × Nat × List Byte) := []
  /-- Held occurrences, oldest first (R648). -/
  held : List Occ := []
  /-- Notifications carried to later beats (R647). -/
  queue : List Note := []
  gpio : Tbl Gpio := []
  /-- Block counters, by 16 * block + counter. -/
  blocks : Tbl BlkCtr := []
  /-- Beats of commanded captures committed and not yet captured (R664). -/
  armed : List Nat := []
  /-- The counters as at the end of the beat before, kept by phase 7 for the captures due at this boundary (R662, R664). -/
  gathered : Option Bank := none
  /-- The capture whose copy is in progress: the bank and the elapsed-beat count of the capture (R665). -/
  copying : Option (Bank × Nat) := none
  /-- That copy has ended: the next phase 7 shows its bank. -/
  copied : Bool := false
  bank0 : Bank := {}
  bank1 : Bank := {}
deriving DecidableEq, Repr, Inhabited

/-! ## Recoveries (20_recovery.md) -/

/-- A recovery in progress (R677, R678). -/
structure Recovery where
  kind : Nat
  subject : Nat
  tn : Nat
  start : Nat
  /-- The sum of its loss counters at its start; of kind 5, LINK_DOWN_DROPS by port and the set of ports shed. -/
  losses : Nat := 0
  bases : Tbl Nat := []
  ports : Nat := 0
  overlapped : Bool := false
deriving DecidableEq, Repr, Inhabited

/-- Recoveries. -/
structure Recoveries where
  active : List Recovery := []
  /-- Completed in this step and not yet journalled: kind, and the entry without its SEQUENCE. -/
  done : List (Nat × Nat) := []
  /-- The journal's entries as 256-bit numbers, oldest first, at most 64 (R688). -/
  journal : List Nat := []
deriving DecidableEq, Repr, Inhabited

/-! ## The unit (21_unit_hardware.md) -/

/-- Sensors, fans, LEDs. -/
structure Enclosure where
  /-- Beats since each sensor last reported (R710), and the sensors that have reported since the start, as a set. -/
  silent : Tbl Nat := []
  seen : Nat := 0
  /-- Evaluations in succession below 50 % of the commanded speed, by fan, and the count of beats of the last evaluation
  (R711, R713). -/
  misses : Tbl Nat := []
  evaluated : Option Nat := none
  /-- Count of beats at which the LED test began (R708). -/
  ledTest : Option Nat := none
  /-- A thermal trip stands: its beat number (R715). -/
  trip : Option Nat := none
  /-- The fault code of a trip is shown until CONFIGURE. -/
  tripped : Bool := false
deriving DecidableEq, Repr, Inhabited


/-- The whole machine but its command queue. -/
structure Live where
  /-- The committed value of every dictionary object and table element, and every status and counter (R5, R63). -/
  store : Tbl Nat := []
  /-- The beat and the time unit. -/
  beat : Beat := {}
  /-- The commit queue, request caches, transfers and the clamp journal (R77, R84, R99, R87). -/
  dict : Dict := {}
  /-- CAN0 and CAN1. -/
  can : Tbl CanPort := []
  /-- In-band sessions 0 to 3. -/
  sessions : Tbl Session := []
  /-- Mailbox pages of functions 0 to 7. -/
  mailboxes : Tbl Mailbox := []
  /-- The unit mode, start-up, life cycle, images and the stored set (R128, R150, R154). -/
  modes : Modes := {}
  /-- Tenancy commands and wipes in progress (R179). -/
  tenancies : Tenancies := {}
  /-- Modules, PoE ports and the arbiter (R191, R203). -/
  power : Power := {}
  /-- Ports, frames, queues, tables in use, gates. -/
  plane : Plane := {}
  /-- Buffers and pools (R382). -/
  bpm : Bpm := {}
  /-- Segments, streams, the probe and backfill (R470). -/
  flannel : Flannel := {}
  /-- The two channels, the error log (R501). -/
  dram : Dram := {}
  /-- The compression engine and the block mover: queued jobs and results (R538). -/
  comp : Engine := {}
  mover : Engine := {}
  /-- Terminals, matrix, streams and the spotter (R564). -/
  audio : Audio := {}
  /-- The endpoint and its functions (R597). -/
  host : Endpoint := {}
  /-- Event instances, held occurrences, notifications, GPIO, block counters, captures (R635). -/
  events : Events := {}
  /-- Recoveries in progress and their journal (R677). -/
  recoveries : Recoveries := {}
  /-- Sensors, fans, LEDs (R706). -/
  enclosure : Enclosure := {}
  /-- The model's own: how many free values have been taken (not the spec's). -/
  free : Nat := 0
deriving DecidableEq, Repr, Inhabited

/-- The state: the machine as it stands, the machine as it stood at the start of the current beat, from which reads are
answered (R65), and the commands that wait, first in, first out. -/
structure State where
  live : Live := {}
  start : Live := {}
  pending : List Instr := []
deriving DecidableEq, Repr

/-- Faults: none.  Every command of the manual leaves a next state. -/
inductive Fault where
deriving DecidableEq, Repr

/-- Refusals. -/
inductive Refusal where
  /-- Raised by a dispatch arm whose command has no meaning yet; safe. -/
  | notModelled (mnemonic : String)
deriving DecidableEq, Repr

/-- The machine right after a power-on reset (R31, R131, R141, R157): the first beat of BRINGUP.  Every dictionary value is at
its default (the catalogue's), but for LC_STATE, cell 4097, kept in NOR: IN_SERVICE (DESIGN CHOICE, log entry 1).  The boot
record's origin is 0.  The change of mode from OFF is a held occurrence of event 0 (R646, R648). -/
def Live.reset : Live :=
  { store := [(4097, 2)]
    events := { held := [{ src := 0, stamp := 0, data := [byte 0, byte 3, byte 0xFF], held := true }] } }

/-- The state after reset, with no command waiting. -/
def State.reset : State := { live := Live.reset, start := Live.reset, pending := [] }

end Sys2Proof.Machine
end

