-- ==== Sys2Proof/Machine/Ops.lean ====
section
/-! DEFINITION. The named operations over the machine: reading and writing dictionary values, counting, raising events,
and taking free values. -/

namespace Sys2Proof.Machine

open Sys2Proof

/-! ### Dictionary values -/

/-- The committed value of an object: item `i`, subindex offset `k`, instance `t` (R63). -/
def Live.rd (l : Live) (o : Obj) (i : Nat := 0) (k : Nat := 0) (t : Nat := 0) : Nat :=
  (l.store.find? (o.key i k t)).getD (o.defaultAt i k t)

/-- The committed value of a BOOL. -/
def Live.rdB (l : Live) (o : Obj) (i : Nat := 0) (k : Nat := 0) (t : Nat := 0) : Bool := l.rd o i k t != 0

/-- The committed value of an I32. -/
def Live.rdI (l : Live) (o : Obj) (i : Nat := 0) (k : Nat := 0) (t : Nat := 0) : Int := toI32 (l.rd o i k t)

/-- Set an object's value; it is kept within the length of the object's type (R60). -/
def Live.wr (l : Live) (o : Obj) (v : Nat) (i : Nat := 0) (k : Nat := 0) (t : Nat := 0) : Live :=
  { l with store := l.store.putD (o.defaultAt i k t) (o.key i k t) (v % 256 ^ o.len) }

/-- Set a BOOL. -/
def Live.wrB (l : Live) (o : Obj) (b : Bool) (i : Nat := 0) (k : Nat := 0) (t : Nat := 0) : Live := l.wr o b.toNat i k t

/-- Set an I32. -/
def Live.wrI (l : Live) (o : Obj) (v : Int) (i : Nat := 0) (k : Nat := 0) (t : Nat := 0) : Live := l.wr o (ofI32 v) i k t

/-- Set a numeric value that saturates at the type's largest. -/
def Live.wrSat (l : Live) (o : Obj) (v : Nat) (i : Nat := 0) (k : Nat := 0) (t : Nat := 0) : Live :=
  l.wr o (min v (256 ^ o.len - 1)) i k t

/-- Return an object to its default. -/
def Live.toDefault (l : Live) (o : Obj) (i : Nat := 0) (k : Nat := 0) (t : Nat := 0) : Live :=
  { l with store := l.store.del (o.key i k t) }

/-! ### The beat, free values, the unit mode -/

/-- The current beat number and elapsed-beat count. -/
def Live.now (l : Live) : Nat := l.beat.number
def Live.elapsed (l : Live) : Nat := l.beat.elapsed

/-- The count on which durations are measured (R30, R35). -/
def Live.ticks (l : Live) : Nat := l.beat.ticks

/-- PTP time at the start of the current beat in nanoseconds (R53). -/
def Live.ptpNs (l : Live) : Nat := l.beat.halfNs / 2 % 18446744073709551616

/-- A free value: nothing constrains it; each taking reads another. -/
def Live.freeVal (l : Live) : Nat := Config.freeValue l.free

/-- The machine after a free value has been taken. -/
def Live.tookFree (l : Live) : Live := { l with free := l.free + 1 }

def Live.mode (l : Live) : Mode := l.modes.mode

/-- The running family: SERVICE, ISLAND, BACKFILL, LEAN, and FREEZE where stated (R128). -/
def Mode.running : Mode → Bool
  | .service | .island | .backfill | .lean => true
  | _ => false

/-- Modes in which the engine forwards or may forward (R131, R134). -/
def Mode.engineOn : Mode → Bool
  | .configure | .service | .island | .backfill | .lean => true
  | _ => false

/-- Modes in which events are evaluated (R648). -/
def Mode.evaluates : Mode → Bool
  | .off | .dormant | .listen | .bringup | .wipe => false
  | _ => true

/-! ### Events -/

/-- Sources that can arise in DORMANT and LISTEN (R648). -/
def supervisorSource (m : Mode) (src : Nat) : Bool :=
  src ≤ 18 || (96 ≤ src && src ≤ 103) || (608 ≤ src && src ≤ 625) || (m == .listen && 64 ≤ src && src ≤ 71)

/-- The instance that an occurrence about a resource of tenancy `tn` belongs to (R635). -/
def instanceOf (src tn : Nat) : Nat := if routesTenancy src then tn else 0

/-- Hold an occurrence until events are next evaluated: up to 256, later ones add 1 to HELD_LOST (R648). -/
def Live.hold (l : Live) (o : Occ) : Live :=
  if l.events.held.length < 256 then
    { l with events := { l.events with held := l.events.held ++ [{ o with held := true }] } }
  else l.wr .HELD_LOST (l.rd .HELD_LOST + 1)

/-- An occurrence of a source arises, stamped `stamp`, about a resource of tenancy `tn` (R44, R637, R648). -/
def Live.raiseAt (l : Live) (stamp src : Nat) (data : List Byte := []) (tn : Nat := 0) : Live :=
  let o : Occ := { src := src, tn := instanceOf src tn, stamp := stamp, data := data }
  match l.mode with
  | .off => l
  | .dormant => if supervisorSource .dormant src then l.hold o else l
  | .listen => if supervisorSource .listen src then l.hold o else l
  | .bringup => l.hold o
  | .wipe => l.hold o
  | _ => { l with events := { l.events with arisen := l.events.arisen ++ [o] } }

/-- An occurrence of a source arises in the current beat. -/
def Live.raise (l : Live) (src : Nat) (data : List Byte := []) (tn : Nat := 0) : Live := l.raiseAt l.now src data tn

/-- A level condition stated "in any beat in which" holds in this beat; the first data of the beat is kept (R637). -/
def Live.mark (l : Live) (src : Nat) (data : List Byte := []) (tn : Nat := 0) : Live :=
  let t := instanceOf src tn
  if l.events.seen.any fun e => e.1 == src && e.2.1 == t then l
  else { l with events := { l.events with seen := l.events.seen ++ [(src, t, data)] } }

/-- A level condition that carries the lowest number of those concerned (R436). -/
def Live.markLeast (l : Live) (src : Nat) (data : List Byte) (tn : Nat) : Live :=
  let t := instanceOf src tn
  let l1 := l.mark src data tn
  { l1 with events := { l1.events with seen := l1.events.seen.map fun e =>
      if e.1 == src && e.2.1 == t && decide (beVal data < beVal e.2.2) then (src, t, data) else e } }

/-- A level condition without data. -/
def levelIf (c : Bool) (src : Nat) (data : List Byte := []) : List (Nat × Nat × List Byte) := if c then [(src, 0, data)] else []

/-! ### Counting -/

/-- Add to a counter that wraps past 2^64 - 1, with event 627 and WRAPPED_ANY (R656, R663).  In FREEZE no counter
changes (R130, R668).  Nothing counts at an item that has no such counter (a port without the object's group). -/
def Live.count (l : Live) (o : Obj) (n : Nat := 1) (i : Nat := 0) (k : Nat := 0) (t : Nat := 0) : Live :=
  if l.mode = .freeze ∨ i < o.lo ∨ o.hi < i then l
  else
    let v := l.rd o i k t + n
    let l1 := l.wr o v i k t
    if v < 256 ^ o.len then l1
    else (l1.wrB .WRAPPED_ANY true).raise 627 (u16 (o.index i) ++ u8 (o.sub + k) ++ u8 t) t

/-- Signals of block counters (R659): the number is the SELECT code. -/
inductive Signal where
  | eventsIn | bytesIn | eventsOut | bytesOut | drops | stall | ecc | signalA | signalB
deriving DecidableEq, Repr

def Signal.code : Signal → Nat
  | .eventsIn => 1 | .bytesIn => 2 | .eventsOut => 3 | .bytesOut => 4 | .drops => 5 | .stall => 6 | .ecc => 7
  | .signalA => 8 | .signalB => 9

/-- The fields of a block counter's CONFIG (R670). -/
def Live.blkSelect (l : Live) (b c : Nat) : Nat := bits (l.rd .CONFIG b c) 56 8
def Live.blkPort (l : Live) (b c : Nat) : Nat := bits (l.rd .CONFIG b c) 48 8
def Live.blkTcMask (l : Live) (b c : Nat) : Nat := bits (l.rd .CONFIG b c) 40 8
def Live.blkOwner (l : Live) (b c : Nat) : Nat := bits (l.rd .CONFIG b c) 32 3
def Live.blkAll (l : Live) (b c : Nat) : Bool := bit (l.rd .CONFIG b c) 39

/-- Whether counter `c` of block `b` counts a signal at a port, traffic class and tenancy (R658, R660). -/
def Live.blkCounts (l : Live) (b c : Nat) (s : Signal) (port tc tn : Nat) : Bool :=
  l.blkSelect b c == s.code && (l.blkPort b c == 0xFF || l.blkPort b c == port)
    && (19 ≤ b || bit (l.blkTcMask b c) tc)
    && (l.blkOwner b c == tn || (l.blkAll b c && l.blkOwner b c == 0))

/-- Every counter of a block that counts the signal adds `n` in hardware (R658 to R661). -/
def Live.blk (l : Live) (b : Nat) (s : Signal) (n : Nat := 1) (port : Nat := 0) (tc : Nat := 0) (tn : Nat := 0) : Live :=
  if l.mode = .freeze ∨ n = 0 then l
  else
    (List.range 16).foldl (fun l c =>
      if l.blkCounts b c s port tc tn then
        { l with events := { l.events with blocks := l.events.blocks.upd (16 * b + c) fun x =>
            { x with hw := (x.hw + n) % 2 ^ 48 } } }
      else l) l

/-- A stored value has changed: STORED_DIRTY reads 1 until a later STORE completes (R149). -/
def Live.markDirty (l : Live) : Live := ({ l with modes := { l.modes with dirtySince := true } }).wrB .STORED_DIRTY true

/-! ### Ports and tenancies -/

/-- The tenancy that owns a port (R169): its byte of PORT_OWNER for an access port, TN0 otherwise. -/
def Live.portOwner (l : Live) (p : Nat) : Nat := if p < 48 then bits (l.rd .PORT_OWNER) (8 * (47 - p)) 8 else 0

/-- Tenancy states: 0 UNDEFINED, 1 ACTIVE, 2 WIPING. -/
def Live.tnActive (l : Live) (n : Nat) : Bool := n == 0 || l.rd .TN_STATE n == 1
def Live.tnWiping (l : Live) (n : Nat) : Bool := n != 0 && l.rd .TN_STATE n == 2
def Live.tnServes (l : Live) (n : Nat) : Bool := l.tnActive n || l.tnWiping n

/-- The tenancy for which an in-band session acts (R167). -/
def Live.sessionTenancy (l : Live) (s : Nat) : Nat := bits (l.rd .SESSION_BINDING) (8 * (3 - s)) 8

/-- Master classes (R71). -/
inductive MasterClass where
  | pf | can | inband | vf | firmware
deriving DecidableEq, Repr

def masterClass (rank : Nat) : MasterClass :=
  if rank = 1 then .pf else if rank ≤ 3 then .can else if rank ≤ 7 then .inband else if rank ≤ 14 then .vf else .firmware

/-- The tenancy a master acts for (R71, R167). -/
def Live.masterTenancy (l : Live) (rank : Nat) : Nat :=
  match masterClass rank with
  | .inband => l.sessionTenancy (rank - 4)
  | .vf => rank - 7
  | _ => 0

/-- A fold of a machine over the numbers below `n`. -/
def Live.forN (l : Live) (n : Nat) (f : Live → Nat → Live) : Live := (List.range n).foldl f l

/-- A fold of a machine over a list. -/
def Live.forL {α : Type} (l : Live) (xs : List α) (f : Live → α → Live) : Live := xs.foldl f l

/-- The machine where a condition holds, changed; otherwise as it is. -/
def Live.when (l : Live) (c : Bool) (f : Live → Live) : Live := if c then f l else l

/-! ### Wake sources (R136) -/

/-- A wake source has fired; the lowest-numbered of one beat counts (R136). -/
def Live.wakeFired (l : Live) (bit_ : Nat) : Live :=
  let m := match l.modes.wake with
    | some b => if l.modes.wakeAt = l.ticks then { l.modes with wake := some (min b bit_) } else l.modes
    | none => { l.modes with wake := some bit_, wakeAt := l.ticks }
  { l with modes := m }

/-- A wake source fires where it is enabled: MODE_CMD always; LINK and PHRASE in LISTEN only. -/
def Live.wakeBy (l : Live) (source : Nat) : Live :=
  let here : Bool := match l.mode with
    | .listen => true
    | .dormant => source != 2 && source != 3
    | _ => false
  if here ∧ (source = 0 ∨ bit (l.rd .WAKE_SOURCES) source) then l.wakeFired source else l

/-! ### States -/

/-- A state with another machine part. -/
def State.withLive (s : State) (l : Live) : State := { s with live := l }

/-- A command's effect as a next state: the machine part changes, the snapshot and the queue stay. -/
def State.effect (s : State) (f : Live → Live) : Host.Outcome State Fault Refusal := .next (s.withLive (f s.live))

/-- The effect of a boundary: the machine changes, and the start-of-beat snapshot with it (R65). -/
def State.boundaryEffect (s : State) (f : Live → Live) : Host.Outcome State Fault Refusal :=
  let l := f s.live
  .next { s with live := l, start := l }

end Sys2Proof.Machine
end

