-- ==== Sys2Proof/Machine/Events.lean ====
section
/-! DEFINITION. Event sources, notifications, GPIO inputs, relays, block counters and snapshots
(spec/19_events_counters.md). -/

namespace Sys2Proof.Machine

open Sys2Proof

/-! ### Source settings (R641, R643, R644, R669) -/

def Live.srcConfig (l : Live) (src : Nat) : Nat := l.rd .SOURCE_CONFIG (src / 32) (src % 32)
def Live.srcRoutes (l : Live) (src : Nat) : Nat := bits (l.srcConfig src) 56 6
def Live.srcMaskAfter (l : Live) (src : Nat) : Nat := bits (l.srcConfig src) 48 8
def Live.srcSpacing (l : Live) (src : Nat) : Nat := bits (l.srcConfig src) 32 16

/-- The key of an instance. -/
def evKey (src tn : Nat) : Nat := 8 * src + tn

def Live.ev (l : Live) (src tn : Nat) : EvInst := l.events.inst.get (evKey src tn)

def Live.setEv (l : Live) (src tn : Nat) (f : EvInst → EvInst) : Live :=
  { l with events := { l.events with inst := l.events.inst.upd (evKey src tn) f } }

/-! ### Notifications (R641, R642, R645) -/

/-- The destinations along the routes of a source for the instance of a tenancy. -/
def Live.noteDests (l : Live) (src tn : Nat) : List Nat :=
  let r := l.srcRoutes src
  (if bit r 0 then [0] else [])
  ++ (if bit r 1 && 1 ≤ tn && tn ≤ 7 then [tn] else [])
  ++ (if bit r 2 then [8] else [])
  ++ (if bit r 3 && tn == 0 then [9] else [])
  ++ (if bit r 4 && tn == 0 then [10] else [])
  ++ (if bit r 5 then
        ((List.range 4).filter fun s => (l.sessions.get s).open_ && l.sessionTenancy s == tn).map (11 + ·)
      else [])

/-- The 48-byte payload of a notification (R645). -/
def notePayload (o : Occ) (deferred maskedNow : Bool) (suppressed : Nat) : List Byte :=
  u16 o.src
  ++ u8 ((isLevel o.src).toNat + 2 * deferred.toNat + 4 * o.held.toNat + 8 * maskedNow.toNat + 16 * o.prior.toNat)
  ++ u8 o.tn ++ u64 o.stamp ++ u16 (min suppressed 65535) ++ u16 0 ++ slice o.data 0 32

/-- Send one notification of an instance along its routes (R643, R644). -/
def Live.sendNote (l : Live) (o : Occ) (deferred : Bool) (suppressed : Nat) : Live :=
  let e := l.ev o.src o.tn
  let after := l.srcMaskAfter o.src
  let now := after != 0 && e.sent + 1 == after && o.src != 628
  let p := notePayload o deferred now suppressed
  let notes := (l.noteDests o.src o.tn).map fun d => ({ dest := d, src := o.src, tn := o.tn, payload := p } : Note)
  let l1 := { l with events := { l.events with queue := l.events.queue ++ notes } }
  let l2 := l1.setEv o.src o.tn fun e =>
    { e with sent := e.sent + 1, nextAt := l.ticks + l.srcSpacing o.src, masked := e.masked || now,
             deferred := none, folded := 0 }
  if now then l2.raise 628 (u16 o.src) o.tn else l2

/-- Spacing ends for an instance: one notification of the deferred occurrences (R643). -/
def Live.spacingExpiry (l : Live) (src tn : Nat) : Live :=
  let e := l.ev src tn
  match e.deferred with
  | none => l
  | some o =>
    if l.ticks < e.nextAt then l
    else if e.masked ∨ l.noteDests src tn = [] then l.setEv src tn fun e => { e with deferred := none, folded := 0 }
    else l.sendNote o true e.folded

/-- Notify an occurrence, or defer it; an instance that hands a notification toward no destination sends none (R643, R644). -/
def Live.notifyOcc (l : Live) (o : Occ) : Live :=
  let e := l.ev o.src o.tn
  if l.noteDests o.src o.tn = [] ∨ e.masked then l
  else if l.srcSpacing o.src = 0 ∨ (e.nextAt ≤ l.ticks ∧ e.deferred = none) then l.sendNote o false 0
  else l.setEv o.src o.tn fun e =>
    { e with deferred := some o, folded := if e.deferred = none then 0 else e.folded + 1 }

/-- Evaluate one occurrence: its instance latches and counts it, and notifies it. RAW of a held level occurrence stays as the
condition now stands (R638, R640, R648). -/
def Live.evalOcc (l : Live) (o : Occ) : Live :=
  let l1 := l.spacingExpiry o.src o.tn
  let l2 := l1.setEv o.src o.tn fun e =>
    { e with raw := !isLevel o.src || e.raw || !o.held, latched := true, occurrences := e.occurrences + 1, lastBeat := o.stamp }
  l2.notifyOcc o

/-- The level conditions active at an evaluation: those seen in the beat that ended, stamped with its number `b`, and those that
stand now (R44, R637). -/
def Live.levelOccs (l : Live) (b : Nat) (ended standing : List (Nat × Nat × List Byte)) : List Occ :=
  (ended.map fun e => ({ src := e.1, tn := e.2.1, stamp := b, data := e.2.2 } : Occ))
  ++ (standing.map fun e => ({ src := e.1, tn := instanceOf e.1 e.2.1, stamp := l.now, data := e.2.2 } : Occ))

/-- One occurrence of each instance, the first. -/
def dedupOccs : List Occ → List Occ → List Occ
  | acc, [] => acc.reverse
  | acc, o :: os => if acc.any fun a => a.src == o.src && a.tn == o.tn then dedupOccs acc os else dedupOccs (o :: acc) os

/-- The occurrences of armed level instances latch and disarm (R638). -/
def Live.disarm (l : Live) (os : List Occ) : Live :=
  os.foldl (fun l o => l.setEv o.src o.tn fun e => { e with disarmed := true }) l

/-- RAW and re-arming before an evaluation's occurrences are taken (R638): `active` are the level conditions that hold. -/
def Live.rearm (l : Live) (active : List Occ) : Live :=
  l.events.inst.keys.foldl (fun l k =>
    let src := k / 8
    let tn := k % 8
    let on := active.any fun a => a.src == src && a.tn == tn
    l.setEv src tn fun e =>
      if isLevel src then { e with raw := on, disarmed := e.disarmed && (e.latched || on) } else { e with raw := false }) l

/-- The turn of one instance: its spacing may end, then its occurrences are taken in the order in which they arose (R637, R643). -/
def Live.evalInst (l : Live) (os : List Occ) (key : Nat) : Live :=
  (os.filter fun o => evKey o.src o.tn == key).foldl Live.evalOcc (l.spacingExpiry (key / 8) (key % 8))

/-- The instances with occurrences, and those with deferred ones, take their turns in ascending source number and then in
ascending tenancy (R637). -/
def Live.evalTurns (l : Live) (deferred : List Nat) (os : List Occ) : Live :=
  l.forL (sortBy id (deferred ++ os.map fun o => evKey o.src o.tn)).eraseDups fun l k => l.evalInst os k

/-- The instances with deferred occurrences. -/
def Live.deferredKeys (l : Live) : List Nat := l.events.inst.keys.filter fun k => (l.events.inst.get k).deferred.isSome

/-- Evaluation, the last step of phase 8: `ended` are the level conditions seen in the beat `b` that ended, `standing` those
that stand (R637, R638, R648). -/
def Live.evaluate (l : Live) (b : Nat) (ended standing : List (Nat × Nat × List Byte)) : Live :=
  let levels := dedupOccs [] (l.levelOccs b ended standing)
  if l.mode.evaluates then
    let l1 := l.rearm levels
    let fresh := levels.filter fun o => !(l1.ev o.src o.tn).disarmed
    let l2 := l1.disarm fresh
    let held := l2.events.held
    let l3 := { l2 with events := { l2.events with held := [], arisen := [] } }
    let l4 := held.foldl Live.evalOcc l3
    let all := l2.events.arisen ++ fresh
    let due := l4.deferredKeys
    let l5 := l4.evalTurns (due.filter (· < 8 * 628)) (all.filter fun o => o.src < 628)
    let masks := l5.events.arisen
    let l6 := { l5 with events := { l5.events with arisen := [] } }
    l6.evalTurns (due.filter (8 * 628 ≤ ·)) (masks ++ all.filter fun o => 628 ≤ o.src)
  else
    let fresh := levels.filter fun o =>
      !(l.ev o.src o.tn).disarmed && (l.mode = .bringup || l.mode = .wipe || supervisorSource l.mode o.src)
    let l1 := (l.disarm fresh)
    if l.mode = .off then l1 else fresh.foldl Live.hold l1

/-- The notifications served in this beat, at most 64, carried ones first; the rest wait (R45, R647). -/
def Live.takeNotes (l : Live) : List Note × Live :=
  let q := l.events.queue
  (q.take 64, ({ l with events := { l.events with queue := q.drop 64 } }).wrSat .NOTIFY_CARRIED (q.length - 64))

/-- CLEAR: the latches of the named sources clear (R639). -/
def Live.clearLatches (l : Live) (g tn mask : Nat) : Live :=
  l.forL (members 32 mask) fun l k => l.setEv (32 * g + k) tn fun e => { e with latched := false }

/-- UNMASK: the mask and the count of sent notifications clear (R644). -/
def Live.unmask (l : Live) (g tn mask : Nat) : Live :=
  l.forL (members 32 mask) fun l k => l.setEv (32 * g + k) tn fun e => { e with masked := false, sent := 0 }

/-- RAW, LATCHED or MASKED of a group as its 32 bits (R669). -/
def Live.evBits (l : Live) (f : EvInst → Bool) (g tn : Nat) : Nat :=
  maskOf ((List.range 32).filter fun k => f (l.ev (32 * g + k) tn))

/-- SOURCE_STATUS (R669). -/
def Live.evStatus (l : Live) (src tn : Nat) : Nat :=
  (l.ev src tn).occurrences % 2 ^ 64 * 2 ^ 64 + (l.ev src tn).lastBeat % 2 ^ 64

/-! ### GPIO inputs (R649 to R653) -/

def Live.setGpio (l : Live) (i : Nat) (f : Gpio → Gpio) : Live :=
  { l with events := { l.events with gpio := l.events.gpio.upd i f } }

/-- Modes in which chatter and stuck judgements run (R653). -/
def Mode.judges : Mode → Bool
  | .configure | .service | .island | .backfill | .lean | .freeze => true
  | _ => false

/-- One sample of every input (R649). -/
def Live.gpioSample (l : Live) (raw : Nat) : Live :=
  if l.mode = .off then l
  else l.forN 16 fun l i =>
    let v := bit raw i ^^ l.rdB .INVERT_1900 i
    (l.setGpio i fun g =>
      if g.sample = v then { g with run := g.run + 1 }
      else { g with sample := v, run := 1, transitions := g.transitions + l.mode.judges.toNat }).wrB .RAW_1900 v i

/-- Whether an input's samples qualify a change of LEVEL (R650). -/
def Live.gpioDue (l : Live) (i : Nat) : Bool :=
  let g := l.events.gpio.get i
  l.mode != .off && !l.rdB .CHATTERING i && g.sample != l.rdB .LEVEL_1900 i && 8 * l.rd .DEBOUNCE_BEATS i ≤ g.run

/-- A change of LEVEL at a boundary, and the origin strobe it may give (R32, R650, R652). -/
def Live.gpioLevelChange (l : Live) (i : Nat) : Live :=
  if l.gpioDue i then
    let v := (l.events.gpio.get i).sample
    let l1 := ((l.wrB .LEVEL_1900 v i).wr .LAST_CHANGE_BEAT_1900 l.now i).count .CHANGES 1 i
    let l2 := l1.setGpio i fun g => { g with levelSince := l.ticks }
    let l3 := if v then l2 else l2.wrB .STUCK false i
    let l4 := l3.raise (608 + i) (u8 i ++ u8 v.toNat)
    if v ∧ l.beat.strobeArmed ∧ l.mode = .configure ∧ l.rd .ORIGIN_STROBE_INPUT = i then
      { l4 with beat := { l4.beat with strobeArmed := false, strobeTaken := true } }
    else l4
  else l

/-- The end of an input's chatter window (R651). -/
def Live.chatterWindowEnd (l : Live) (i : Nat) : Live :=
  if l.mode.judges ∧ l.beat.elapsed % l.rd .CHATTER_WINDOW i = 0 ∧ (l.events.gpio.get i).judgedAt ≠ some l.ticks then
    let on := l.rd .CHATTER_TRANSITIONS i ≤ (l.events.gpio.get i).transitions
    let l1 := (l.wrB .CHATTERING on i).setGpio i fun g => { g with transitions := 0, judgedAt := some l.ticks }
    if on then l1.count .CHATTER_WINDOWS 1 i else l1
  else l

/-- An input that has been at 1 for STUCK_S seconds becomes STUCK (R652). -/
def Live.gpioStuck (l : Live) (i : Nat) : Live :=
  if l.mode.judges ∧ l.rd .STUCK_S i ≠ 0 ∧ l.rdB .LEVEL_1900 i ∧ ¬ l.rdB .STUCK i
      ∧ (l.events.gpio.get i).levelSince + 8000 * l.rd .STUCK_S i ≤ l.ticks then
    (l.wrB .STUCK true i).count .STUCK_EPISODES 1 i
  else l

/-- The lowest input below 16 whose BOOL object reads 1. -/
def Live.lowestInput (l : Live) (o : Obj) : Option Nat := (List.range 16).find? fun i => l.rdB o i

/-- Chatter and stuck judgements start again at the first beat of CONFIGURE (R653). -/
def Live.gpioConfigure (l : Live) : Live :=
  l.forN 16 fun l i =>
    ((l.wrB .CHATTERING false i).wrB .STUCK false i).setGpio i fun g =>
      { g with transitions := 0, levelSince := l.ticks }

/-! ### Relays (R654, R655) -/

/-- What a relay's MODE asks for, before INVERT. -/
def Live.relayWants (l : Live) (j : Nat) : Bool :=
  match l.rd .RELAY_MODE j with
  | 1 => (l.ev (l.rd .FOLLOW_EVENT j) 0).latched
  | 2 => l.rdB .LEVEL_1900 (l.rd .FOLLOW_INPUT j)
  | _ => l.rdB .RELAY_COMMAND j

/-- Energise or release a relay, counting a change. -/
def Live.relayTo (l : Live) (j : Nat) (b : Bool) : Live :=
  if l.rdB .ENERGISED j = b then l else (l.wrB .ENERGISED b j).count .OPERATIONS 1 j

/-- The relays after evaluation, by unit mode (R655). -/
def Live.setRelays (l : Live) : Live :=
  l.forN 4 fun l j =>
    let want := l.relayWants j ^^ l.rdB .INVERT_1910 j
    match l.mode with
    | .off => l.relayTo j false
    | .wipe => l.relayTo j false
    | .decommissioned => l.relayTo j false
    | .bringup => l
    | .dormant => if l.rd .RELAY_MODE j = 2 then l.relayTo j want else l
    | .listen => if l.rd .RELAY_MODE j = 2 then l.relayTo j want else l
    | _ => l.relayTo j want

/-! ### Block counters (R658 to R663) -/

/-- Phase 1: the hardware counters hand over the count of the beat just ended (R661). -/
def Live.handOver (l : Live) : Live :=
  { l with events := { l.events with blocks := l.events.blocks.foldl (fun t e =>
      t.put e.1 { e.2 with hwOld := e.2.hwOld + e.2.hw, hw := 0 }) l.events.blocks } }

/-- Phase 7: one counter's handed-over count is added to its accumulator (R661, R663). -/
def gatherOne (x : BlkCtr) : BlkCtr :=
  let v := x.accum + x.hwOld
  { x with accum := v % 2 ^ 64, wrapped := x.wrapped || 2 ^ 64 ≤ v, hwOld := 0 }

/-- Phase 7: a reprogrammed counter's accumulator moves to PREV_ACCUM (R662); `b` is the beat just ended. -/
def moveOne (b : Nat) (x : BlkCtr) : BlkCtr :=
  if x.reprogrammed then
    { x with prevAccum := x.accum, prevWrapped := x.wrapped, prevSelect := x.oldSelect, prevEnd := b,
             accum := 0, wrapped := false, reprogrammed := false }
  else x

/-- The beats of the commanded captures that are armed: those that wait for their beat in the commit queue, and those
committed and not yet captured (R664). -/
def Live.armedBeats (l : Live) : List Nat :=
  l.events.armed ++ l.dict.queue.filterMap fun w =>
    if w.index = 0x1800 ∧ w.fields.any (fun f => f.1 == 1) then w.target else none

/-- Whether an automatic capture is due for beat `b` (R664). -/
def Live.autoDue (l : Live) (b : Nat) : Bool :=
  let p := l.rd .AUTO_SNAPSHOT_BEATS
  p != 0 && (b + 1) % p == 0 && l.events.copying == none && !l.armedBeats.any fun a => b < a && a ≤ b + 64

/-- Whether some capture is due at the boundary that ends beat `b`: one armed for it, one armed for a beat before it
(skipped, or waiting for a copy to end), or an automatic one. -/
def Live.captureDue (l : Live) (b : Nat) : Bool :=
  l.events.armed.any (fun a => a ≤ b) || l.autoDue b

/-- The cells of the always-running counters as they stand, with the buckets that POLICER_STATS shows (R434, R656, R664). -/
def Live.imageCells (l : Live) : Tbl Nat :=
  (l.plane.bucketC.keys ++ l.plane.bucketE.keys).eraseDups.foldl (fun t e =>
    let key := Obj.POLICER_STATS.key (e / 128) (e % 128) 0
    t.putD 0 key (setBits (l.rd .POLICER_STATS (e / 128) (e % 128)) 0 64
      (l.plane.bucketC.get e % 2 ^ 32 * 2 ^ 32 + l.plane.bucketE.get e % 2 ^ 32))) l.store

/-- Phase 7: the gather, then the image for captures due, then the reprogrammed counters move (R661, R662, R664). `cells` are
the always-running counters as at the end of beat `b`. -/
def Live.gather (l : Live) (b : Nat) (cells : Tbl Nat) : Live :=
  if l.mode = .freeze then
    let blocks := l.events.blocks.foldl (fun t e => t.put e.1 { e.2 with hwOld := 0 }) l.events.blocks
    { l with events := { l.events with blocks := blocks, gathered := none } }
  else
    let blocks := l.events.blocks.foldl (fun t e => t.put e.1 (gatherOne e.2)) l.events.blocks
    let wrapped := l.events.blocks.filter fun e => 2 ^ 64 ≤ e.2.accum + e.2.hwOld
    let img : Option Bank := if l.captureDue b then some { cells := cells, blocks := blocks, beat := b } else none
    let moved := blocks.foldl (fun t e => t.put e.1 (moveOne b e.2)) blocks
    let l1 := { l with events := { l.events with blocks := moved, gathered := img } }
    l1.forL wrapped fun l e =>
      (l.wrB .WRAPPED_ANY true).raise 627
        (u16 (0x1830 + e.1 / 16) ++ u8 (1 + e.1 % 16) ++ u8 (l.blkOwner (e.1 / 16) (e.1 % 16)))
        (l.blkOwner (e.1 / 16) (e.1 % 16))

/-- The VALUE element of a block counter (R670). -/
def blkValue (x : BlkCtr) : Nat :=
  beVal (u64 x.accum ++ u64 x.prevAccum ++ u64 x.prevEnd ++ u8 x.prevSelect
    ++ u8 (x.wrapped.toNat + 2 * x.prevWrapped.toNat + 4 * x.resetByError.toNat) ++ List.replicate 6 0)

/-- A committed write of CONFIG, or a change of OWNER, reprograms its counter (R662). -/
def Live.reprogram (l : Live) (b c oldSelect : Nat) : Live :=
  { l with events := { l.events with blocks := l.events.blocks.upd (16 * b + c) fun x =>
      { x with reprogrammed := true, oldSelect := if x.reprogrammed then x.oldSelect else oldSelect } } }

/-! ### Snapshots (R664, R665, R668) -/

/-- A capture begins: the image of phase 7 is copied into the bank that is not shown; captures that coincide merge; one
that falls due during a copy waits and is marked POSTPONED. -/
def Live.snapshotCapture (l : Live) : Live :=
  match l.events.gathered, l.events.copying with
  | some b, none =>
    if l.mode = .freeze then l
    else
      let late := l.events.armed.any fun a => a < b.beat
      let only := !l.events.armed.any fun a => a ≤ b.beat
      let rest := l.events.armed.filter fun a => b.beat < a
      { l with events := { l.events with
          gathered := none
          copying := some ({ b with postponed := late, auto := only }, l.ticks)
          armed := rest } } |>.wrB .SNAPSHOT_BUSY true
  | _, _ => l

/-- The copy ends; the bank is shown at the next phase 7 (R665). -/
def Live.snapshotDone (l : Live) : Live :=
  if l.events.copying.isSome then { l with events := { l.events with copied := true } } else l

/-- Phase 7: the bank of a copy that has ended, as every copy has within 64 beats, is shown, and event 626 is raised (R665). -/
def Live.snapshotShow (l : Live) : Live :=
  match l.events.copying with
  | none => l
  | some (b, t) =>
    if l.mode = .freeze ∨ ¬ (l.events.copied ∨ t + 64 ≤ l.ticks) then l
    else
      let seq := (l.rd .SNAPSHOT_SEQ + 1) % 2 ^ 32
      let b' := { b with seq := seq }
      let ev := if l.rd .SHOWN_BANK = 0 then { l.events with bank1 := b', copying := none, copied := false }
                else { l.events with bank0 := b', copying := none, copied := false }
      let l1 := { l with events := ev }
      let l2 := (((l1.wr .SHOWN_BANK (1 - l.rd .SHOWN_BANK)).wr .SNAPSHOT_SEQ seq).wr .SNAPSHOT_BEAT b.beat).wrB
        .SNAPSHOT_BUSY false
      l2.raise 626 (u64 b.beat ++ u32 seq)

/-- The bank that is shown. -/
def Live.shownBank (l : Live) : Bank := if l.rd .SHOWN_BANK = 0 then l.events.bank0 else l.events.bank1

/-- SNAPSHOT commits at its named beat: that beat will be captured (R664). -/
def Live.armSnapshot (l : Live) (t : Nat) : Live :=
  { l with events := { l.events with armed := l.events.armed ++ [t] } }

/-- Whether a commanded snapshot may be armed for beat `t` (R664). -/
def Live.snapshotRoom (l : Live) (t : Nat) : Bool :=
  let near := fun b => b < t + 64 && t < b + 64
  (l.armedBeats.length < 16) && !(l.armedBeats.any near)
    && !(match l.events.copying with | some (b, _) => !b.auto && near b.beat | none => false)

end Sys2Proof.Machine
end

