-- ==== Sys2Proof/Machine/View.lean ====
section
/-! DEFINITION. The configuration as a frame of a given ingress beat meets it: versions of settings and of table elements
(R43, R286 to R288, R334). -/

namespace Sys2Proof.Machine

open Sys2Proof

def Live.setPlane (l : Live) (f : Plane → Plane) : Live := { l with plane := f l.plane }
def Live.portRt (l : Live) (p : Nat) : Port := l.plane.ports.get p
def Live.setPort (l : Live) (p : Nat) (f : Port → Port) : Live :=
  l.setPlane fun x => { x with ports := x.ports.upd p f }

/-- Remember what a cell holds, before a change in the current beat, unless a version of this beat is held; a table element with
an uncorrectable word is remembered as all zero (R306). -/
def Live.keepVersion (l : Live) (key old : Nat) : Live :=
  if l.plane.versions.any fun v => v.key == key && v.at_ == l.ticks then l
  else
    let v : Version := { key := key, at_ := l.ticks, old := if l.plane.bad.contains key then 0 else old }
    l.setPlane fun x => { x with versions := v :: x.versions }

/-- Set a value that frames of earlier ingress beats still read as it was. -/
def Live.wrV (l : Live) (o : Obj) (v : Nat) (i : Nat := 0) (k : Nat := 0) (t : Nat := 0) : Live :=
  if l.rd o i k t = v % 256 ^ o.len then l
  else (l.keepVersion (o.key i k t) (l.rd o i k t)).wr o v i k t

/-- What a cell held for frames of the ingress beat `b`: the content before the first change after `b`. -/
def cellAt (b key cur : Nat) (vs : List Version) : Nat :=
  vs.foldl (fun v x => if x.key = key ∧ b < x.at_ then x.old else v) cur

/-- The value of an object for a frame of ingress beat `b` (R43). -/
def Live.rdAt (l : Live) (b : Nat) (o : Obj) (i : Nat := 0) (k : Nat := 0) (t : Nat := 0) : Nat :=
  if l.plane.bad.contains (o.key i k t) then 0 else cellAt b (o.key i k t) (l.rd o i k t) l.plane.versions

def Live.rdAtB (l : Live) (b : Nat) (o : Obj) (i : Nat := 0) (k : Nat := 0) (t : Nat := 0) : Bool := l.rdAt b o i k t != 0

/-- Versions retire once no frame of an earlier ingress beat can await them (R287, R288): within 63 beats. -/
def Live.retireVersions (l : Live) : Live :=
  l.setPlane fun x => { x with versions := x.versions.filter fun v => l.ticks < v.at_ + 63 }

/-- A version whose life has ended is held. -/
def Live.retireDue (l : Live) : Bool := l.plane.versions.any fun v => v.at_ + 63 ≤ l.ticks

/-- Versions of cells at indexes `lo` to `hi - 1`. -/
def Live.versionsIn (l : Live) (lo hi : Nat) : Nat :=
  (l.plane.versions.filter fun v => lo ≤ v.key / 256 % 65536 && v.key / 256 % 65536 < hi).length

/-- VERSIONS_HELD of Calico, with the policers (R288, R419). -/
def Live.calicoVersions (l : Live) : Nat := min 65535 (l.versionsIn 0x2000 0x2300 + l.versionsIn 0x3000 0x3020)

/-- VERSIONS_HELD of forwarding (R334). -/
def Live.forwardVersions (l : Live) : Nat := min 65535 (l.versionsIn 0x2C00 0x2E80)

/-- Versions retire where some are due (R288). -/
def Live.versionStep (l : Live) : Live :=
  if l.mode ≠ .freeze ∧ l.retireDue then l.retireVersions else l

def execVersionRetire (s : State) : Host.Outcome State Fault Refusal :=
  s.effect Live.versionStep

/-! ### Table elements -/

/-- Element `e` of an array whose items hold 128 elements each; `first` is the item at which the array begins. -/
def Live.elemAt (l : Live) (b : Nat) (o : Obj) (e : Nat) (first : Nat := 0) : Nat := l.rdAt b o (first + e / 128) (e % 128)
def Live.elem (l : Live) (o : Obj) (e : Nat) (first : Nat := 0) : Nat := l.rd o (first + e / 128) (e % 128)
def Live.setElem (l : Live) (o : Obj) (e v : Nat) (first : Nat := 0) : Live := l.wr o v (first + e / 128) (e % 128)

/-- An element that is rewritten has no uncorrectable word any more (R306, R348). -/
def Live.heal (l : Live) (key : Nat) : Live :=
  if l.plane.bad.contains key then l.setPlane fun x => { x with bad := x.bad.filter (· != key) } else l

/-- Rewrite an element that frames of earlier ingress beats still read as it was. -/
def Live.setElemV (l : Live) (o : Obj) (e v : Nat) (first : Nat := 0) : Live :=
  (l.wrV o v (first + e / 128) (e % 128)).heal (o.key (first + e / 128) (e % 128) 0)

/-- Element number of a cell of an array. -/
def elemOf (o : Obj) (first key : Nat) : Nat := (key / 256 - (o.base + first)) * 128 + (key % 256 - 1)

/-- The elements of an array that differ from all zero for ingress beat `b`: number and content, in no given order. -/
def Live.elemsAt (l : Live) (b : Nat) (o : Obj) (first items : Nat) : List (Nat × Nat) :=
  let lo := (o.base + first) * 256
  let hi := (o.base + first + items) * 256
  let ks := (l.store.filter fun e => lo ≤ e.1 && e.1 < hi).map Prod.fst
  let vs := ((l.plane.versions.filter fun v => lo ≤ v.key && v.key < hi && !ks.contains v.key).map (·.key)).eraseDups
  ((ks ++ vs).map fun k => (elemOf o first k, l.elemAt b o (elemOf o first k) first)).filter fun e => e.2 != 0

/-- The elements of an array that differ from all zero now, ascending. -/
def Live.elems (l : Live) (o : Obj) (first items : Nat) : List (Nat × Nat) :=
  let lo := (o.base + first) * 256
  let hi := (o.base + first + items) * 256
  (l.store.filter fun e => lo ≤ e.1 && e.1 < hi).map fun e => (elemOf o first e.1, e.2)

/-- The lowest-numbered element that passes a test. -/
def lowestElem (p : Nat → Bool) (es : List (Nat × Nat)) : Option (Nat × Nat) :=
  es.foldl (fun best e =>
    if p e.2 then
      match best with
      | some x => if e.1 < x.1 then some e else best
      | none => some e
    else best) none

/-! ### Owners as a frame meets them (R169, R178) -/

/-- The owner of a port for ingress beat `b`. -/
def Live.portOwnerAt (l : Live) (b p : Nat) : Nat := if p < 48 then bits (l.rdAt b .PORT_OWNER) (8 * (47 - p)) 8 else 0

/-- Whether a tenancy claims a VID: one of the four pairs of VLAN_RANGES holds it (R171). -/
def inRanges (ranges vid : Nat) : Bool :=
  (List.range 4).any fun k =>
    let first := bits ranges (32 * (3 - k) + 16) 16
    let last := bits ranges (32 * (3 - k)) 16
    first != 0 && first ≤ vid && vid ≤ last

/-- The owner of a VID: the lowest-numbered ACTIVE claimant, else TN0 (R178). -/
def Live.vidOwnerAt (l : Live) (b vid : Nat) : Nat :=
  ((List.range 8).find? fun n =>
    1 ≤ n && l.rdAt b .TN_STATE n == 1 && inRanges (l.rdAt b .VLAN_RANGES n) vid).getD 0

def Live.vidOwner (l : Live) (vid : Nat) : Nat := l.vidOwnerAt l.ticks vid

/-- A destination code that the forwarding rule allows a tenancy (R178): ports it owns, uplinks, LAGs and internal ports. -/
def Live.destAllowed (l : Live) (b tn d : Nat) : Bool := if d < 48 then l.portOwnerAt b d == tn else true

/-- Whether a tenancy is ACTIVE for ingress beat `b`. -/
def Live.activeAt (l : Live) (b n : Nat) : Bool := n == 0 || l.rdAt b .TN_STATE n == 1

end Sys2Proof.Machine
end

