-- ==== Sys2Proof/Machine/Beat.lean ====
section
/-! DEFINITION. The beat, PTP lock and loss, steps, slews and the origin strobe (spec/01_beat.md). -/

namespace Sys2Proof.Machine

open Sys2Proof

/-- Set fields of the beat record. -/
def Live.setBeat (l : Live) (f : Beat → Beat) : Live := { l with beat := f l.beat }

/-- BEAT_STATE (R54). -/
def Live.beatState (l : Live) : Nat :=
  let b := l.beat
  b.locked.toNat + 2 * b.freeRun.toNat + 4 * b.holdover.toNat + 8 * b.slewing.toNat + 16 * b.overrunSeen.toNat
    + 32 * b.stepped.toNat

/-- BEAT_SLEW_REMAINING, a part of a beat counting whole (R39). -/
def Live.slewRemaining (l : Live) : Nat := cdiv l.beat.slewUnits 16

/-! ### Where the numbering jumps (R38, R34, R43) -/

/-- The jumps after the next beat takes number `new` where `next` would follow; those that no frame needs any more go. -/
def Beat.jumped (b : Beat) (next new : Nat) : List (Nat × Nat) :=
  (b.jumps.filter fun j => b.ticks < j.1 + 64) ++ (if new = next then [] else [(b.ticks + 1, b.number)])

/-- The number of the beat `back` beats ago (R43). -/
def Beat.numberAgo (b : Beat) (back : Nat) : Nat :=
  match b.jumps.find? fun j => b.ticks - back < j.1 with
  | some j => j.2 + 1 + (b.ticks - back) - j.1
  | none => b.number - back

/-! ### The length of a beat (R28, R32, R39) -/

/-- Half nanoseconds that a beat adds to PTP time: 125 µs, or 132.8125 µs while slewing. -/
def Beat.span (b : Beat) : Nat := if b.slewing then 265625 else 250000

/-- Engine cycles of the beat that ends: 149,997 and the drift of the oscillator, or 159,375 while slewing. -/
def Beat.cycles (b : Beat) (drift : Nat) : Nat := if b.slewing then 159375 else 149997 + drift

/-- A slew ends with event 36 (R39). -/
def Live.slewEnds (l : Live) : Live :=
  if l.beat.slewing then (l.setBeat fun b => { b with slewing := false, slewUnits := 0 }).raise 36 else l

/-- Phase 1 of an ordinary boundary: both counts advance by one, PTP time is carried forward, and a slew closes by a
sixteenth of a beat (R26, R29, R31, R39). -/
def Live.numberNext (l : Live) (drift : Nat) : Live :=
  let l1 := l.setBeat fun b =>
    { b with number := (b.number + 1) % 2 ^ 64, elapsed := b.elapsed + 1, ticks := b.ticks + 1,
             halfNs := b.halfNs + b.span, lastCycles := b.cycles drift, slewUnits := b.slewUnits - b.slewing.toNat }
  if l1.beat.slewUnits = 0 then l1.slewEnds else l1

/-! ### Lock and loss (R36 to R38) -/

/-- Three Sync intervals have passed without a Sync message; an interval is 8,000 × 2^k beats (R36). -/
def Live.syncMissing (l : Live) : Bool :=
  let k := (-(l.rdI .PTP_LOG_SYNC_INTERVAL)).toNat
  decide (24000 ≤ (l.beat.ticks - l.beat.lastSync) * 2 ^ k)

/-- Loss of lock is due (R36). -/
def Live.lossDue (l : Live) : Bool := l.beat.locked && (decide (3 ≤ l.beat.badSyncs) || l.syncMissing)

/-- Lock is due; where loss is due too, loss wins (R36, R57). -/
def Live.lockDue (l : Live) : Bool :=
  !l.beat.locked && l.beat.ptpRunning && decide (8 ≤ l.beat.goodSyncs) && !decide (3 ≤ l.beat.badSyncs) && !l.syncMissing

/-- Lock is declared at the boundary that starts the alignment beat; a strobe at the same boundary disarms (R36, R38, R57). -/
def Live.declareLock (l : Live) : Live :=
  l.setBeat fun b =>
    { b with locked := true, freeRun := false, holdover := false, aligning := true, strobeArmed := false, strobeTaken := false }

/-- Loss of lock: the beat goes on in holdover (R37). -/
def Live.loseLock (l : Live) : Live :=
  (l.setBeat fun b =>
    { b with locked := false, freeRun := true, holdover := true, aligning := false, goodSyncs := 0,
             badSyncs := 0 }).raise 33

/-- LOCKED passes to holdover with no loss event, on entry to DORMANT or LISTEN and at a restart (R27, R59). -/
def Live.beatHolds (l : Live) : Live :=
  l.setBeat fun b =>
    { b with locked := false, freeRun := true, holdover := b.holdover || b.locked, aligning := false, goodSyncs := 0,
             badSyncs := 0, ptpRunning := false, announces := [] }

/-- The PTP instance shows no parent. -/
def Live.noParent (l : Live) : Live :=
  ((l.toDefault .PTP_SLAVE_PORT).toDefault .PTP_PARENT_IDENTITY).toDefault .PTP_STEPS_REMOVED

/-- The PTP instance starts, or starts again, with the committed objects (R53, R59). -/
def Live.ptpRestart (l : Live) : Live :=
  if l.beat.ptpRunning then
    ((l.setBeat fun b => { b with goodSyncs := 0, badSyncs := 0, announces := [], offsets := [] }).toDefault
      .PTP_OFFSET_NS).toDefault .PTP_MEAN_PATH_DELAY_NS |>.noParent
  else l

/-- At the first beat of CONFIGURE the PTP instance starts (R27, R59). -/
def Live.ptpStart (l : Live) : Live :=
  if l.beat.ptpRunning then l
  else (l.setBeat fun b => { b with ptpRunning := true, lastSync := b.ticks }).ptpRestart

/-- Phase 1 at the end of the alignment beat that started at beat n: PTP names the instant T (R38, R57). -/
def Live.numberLocked (l : Live) (t cycles : Nat) : Live :=
  let n := l.beat.number
  let lock := fun (number : Nat) => l.setBeat fun b =>
    { b with number := number % 2 ^ 64, elapsed := b.elapsed + 1, ticks := b.ticks + 1, halfNs := 250000 * t,
             jumps := b.jumped (n + 1) number, lastCycles := max 150000 (min 300000 cycles), aligning := false }
  if t = n + 1 then ((lock (n + 1)).slewEnds).raise 32
  else if n + 1 < t then
    (((lock t).setBeat fun b => { b with stepped := true }).slewEnds.raise 32).raise 34 (u64 n ++ u64 t)
  else
    let l1 := (lock (n + 1)).setBeat fun b => { b with slewing := true, slewUnits := 16 * (n + 1 - t) }
    let l2 := l1.raise 32
    if l.beat.slewing then l2 else l2.raise 35

/-! ### Messages (R36, R49 to R52) -/

/-- Whether a PTP message belongs to the unit's instance: its domain and its transport (R49). -/
def Live.ptpMine (l : Live) (domain transport : Nat) : Bool :=
  l.beat.ptpRunning && l.rd .PTP_DOMAIN == domain && l.rd .PTP_TRANSPORT == transport

/-- A Sync message on the slave port (R36). -/
def Live.syncReceived (l : Live) (offset : Int) : Live :=
  let good := decide (offset.natAbs ≤ l.rd .PTP_LOCK_THRESHOLD_NS)
  let bad := decide (max (l.rd .PTP_UNLOCK_THRESHOLD_NS) (l.rd .PTP_LOCK_THRESHOLD_NS) < offset.natAbs)
  (l.setBeat fun b =>
    { b with goodSyncs := if good then b.goodSyncs + 1 else 0, badSyncs := if bad then b.badSyncs + 1 else 0,
             lastSync := b.ticks, offsets := (offset :: b.offsets).take 64 }).wrI .PTP_OFFSET_NS
    (clampI (-2147483647) 2147483647 offset)

def execPtpSyncReceived (port : Fin 56) (domain transport : Nat) (offset : Int) (s : State) :
    Host.Outcome State Fault Refusal :=
  s.effect fun l => if l.ptpMine domain transport ∧ l.rd .PTP_SLAVE_PORT = port.val then l.syncReceived offset else l

/-- Whether one dataset is better than another under the default best master clock algorithm (R49). -/
def Announce.better (a b : Announce) : Bool :=
  let ka := [a.priority1, a.clockClass, a.accuracy, a.variance, a.priority2, a.identity, a.stepsRemoved, a.sender]
  let kb := [b.priority1, b.clockClass, b.accuracy, b.variance, b.priority2, b.identity, b.stepsRemoved, b.sender]
  let rec less : List Nat → List Nat → Bool
    | x :: xs, y :: ys => decide (x < y) || (x == y && less xs ys)
    | _, _ => false
  less ka kb

/-- The candidate uplink whose dataset is best; of equals, the lowest (R49).  The unit's own dataset is never better (DESIGN
CHOICE, log entry 111: the spec gives it no priorities and no identity). -/
def Live.bestUplink (l : Live) : Option (Nat × Announce) :=
  (List.range 4).foldl (fun best k =>
    if bit (l.rd .PTP_SLAVE_CANDIDATES) k then
      match l.beat.announces.get k, best with
      | some a, some (j, b) => if a.better b then some (k, a) else some (j, b)
      | some a, none => some (k, a)
      | none, _ => best
    else best) none

/-- The best master clock algorithm chooses the slave port and its parent; a change of parent raises event 39 and leaves the
Sync counts as they stand (R36, R52). -/
def Live.runBmca (l : Live) : Live :=
  match l.bestUplink with
  | none =>
    let l1 := l.noParent
    if l.rd .PTP_SLAVE_PORT = 255 then l1 else l1.raise 39
  | some (k, a) =>
    let changed := l.rd .PTP_SLAVE_PORT != 48 + k || l.rd .PTP_PARENT_IDENTITY != a.sender % 2 ^ 64
    let l1 := ((l.wr .PTP_SLAVE_PORT (48 + k)).wr .PTP_PARENT_IDENTITY a.sender).wr .PTP_STEPS_REMOVED
      (min 255 (a.stepsRemoved + 1))
    if changed then l1.raise 39 else l1

def execPtpAnnounceReceived (uplink : Fin 4) (msg : AnnounceMsg) (s : State) : Host.Outcome State Fault Refusal :=
  s.effect fun l =>
    if l.ptpMine msg.domain msg.transport ∧ bit (l.rd .PTP_SLAVE_CANDIDATES) uplink.val then
      (l.setBeat fun b => { b with announces := b.announces.put uplink.val (some
        { priority1 := msg.priority1, clockClass := msg.clockClass, accuracy := msg.accuracy, variance := msg.variance,
          priority2 := msg.priority2, identity := msg.identity, sender := msg.sender, stepsRemoved := msg.stepsRemoved,
          timeSource := msg.timeSource, last := b.ticks }) }).runBmca
    else l

/-- Three Announce intervals in beats: the default profile's interval is 2 s (R49, R52). -/
def announceTimeout : Nat := 48000

def execPtpAnnounceTimeout (uplink : Fin 4) (s : State) : Host.Outcome State Fault Refusal :=
  s.effect fun l =>
    match l.beat.announces.get uplink.val with
    | some a =>
      if a.last + announceTimeout ≤ l.beat.ticks then
        let l1 := l.setBeat fun b => { b with announces := b.announces.del uplink.val }
        if l.rd .PTP_SLAVE_PORT = 48 + uplink.val then (l1.raise 40).runBmca else l1
      else l
    | none => l

/-- The ports of the PTP instance for a frame of ingress beat `b`: candidate uplinks and the access ports of PTP_MASTER_PORTS
(R49). -/
def Live.ptpPort (l : Live) (b p : Nat) : Bool :=
  l.beat.ptpRunning && (if 48 ≤ p then decide (p < 52) && bit (l.rdAt b .PTP_SLAVE_CANDIDATES) (p - 48)
                        else bit (l.rdAt b .PTP_MASTER_PORTS) p)

/-- The role of a port of the PTP instance (R49). -/
inductive PtpRole where
  | slave | passive | master
deriving DecidableEq, Repr

/-- The role of a port: an uplink that is not the slave port is passive where its own best dataset names the grandmaster of the
best, and master otherwise (R49). -/
def Live.ptpRole (l : Live) (p : Nat) : Option PtpRole :=
  if ¬ l.ptpPort l.ticks p then none
  else if l.rd .PTP_SLAVE_PORT = p then some .slave
  else
    match (if 48 ≤ p then l.beat.announces.get (p - 48) else none), l.bestUplink with
    | some a, some (_, best) => if a.identity = best.identity then some .passive else some .master
    | _, _ => some .master

/-- The master ports, as a set. -/
def Live.ptpMasters (l : Live) : Nat := maskOf ((List.range 52).filter fun p => l.ptpRole p == some .master)

/-- The ports on which a Sync is followed by a Follow_Up: every master port, but uplinks with PTP_ONE_STEP_UPLINK (R49). -/
def Live.twoStepPorts (l : Live) (masters : Nat) : Nat := if l.rdB .PTP_ONE_STEP_UPLINK then masters % 2 ^ 48 else masters

/-- PTP time at this instant at the resolution of a timestamp: 8 ns (R50). -/
def Live.ptpStamp (l : Live) : Nat := (l.ptpNs + l.plane.sub) % 2 ^ 64 / 8 * 8

/-- The dataset that master ports announce (R51).  Clock identity 0 and priorities 0 of the unit's own dataset are the model's
(DESIGN CHOICE, log entry 111). -/
def Live.announceData (l : Live) : Announce :=
  match l.beat.locked, l.bestUplink with
  | true, some (_, a) => { a with stepsRemoved := a.stepsRemoved + 1 }
  | _, _ => { clockClass := 248, accuracy := 0xFE, timeSource := 0xA0, identity := 0 }

/-- Sync or Announce messages are sent on the master ports at their interval (R49, R51). -/
def Live.ptpTransmit (l : Live) (announce : Bool) : Live :=
  if ¬ l.beat.ptpRunning then l
  else if announce then
    let due := match l.beat.lastAnnounceSent with | none => true | some t => decide (t + 16000 ≤ l.beat.ticks)
    if due then l.setBeat fun b =>
      { b with announcesSent := b.announcesSent + 1, lastAnnounceSent := some b.ticks, announced := some l.announceData,
               sentOn := l.ptpMasters, followedUp := 0 }
    else l
  else
    let k := (-(l.rdI .PTP_LOG_SYNC_INTERVAL)).toNat
    let due := match l.beat.lastSyncSent with
      | none => true
      | some t => decide (8000 ≤ (l.beat.ticks - t) * 2 ^ k)
    let on := l.ptpMasters
    if due then l.setBeat fun b =>
      { b with syncsSent := b.syncsSent + 1, lastSyncSent := some b.ticks, sentOn := on, followedUp := l.twoStepPorts on,
               stampOut := some l.ptpStamp }
    else l

def execPtpSyncTransmit (announce : Bool) (s : State) : Host.Outcome State Fault Refusal :=
  s.effect fun l => l.ptpTransmit announce

/-- A delay message of the instance: on the slave port it measures the mean path delay, which saturates; it is answered on a
master port, and under the peer-to-peer mechanism on every other port of the instance (R49, R53). -/
def Live.delayMessage (l : Live) (port delay : Nat) : Live :=
  if ¬ l.beat.ptpRunning then l
  else if l.rd .PTP_SLAVE_PORT = port then l.wrSat .PTP_MEAN_PATH_DELAY_NS delay
  else
    let answers := if l.rd .PTP_DELAY_MECHANISM = 1 then (l.ptpRole port).isSome else l.ptpRole port == some .master
    if answers then l.setBeat fun b => { b with delaysAnswered := b.delaysAnswered + 1 } else l

def execPtpDelayMessage (port : Fin 56) (delay : Nat) (s : State) : Host.Outcome State Fault Refusal :=
  s.effect fun l => l.delayMessage port.val delay

/-- Loss of lock as a step of its own, where it is due (R36, R37). -/
def execBeatPtpUnlocked (s : State) : Host.Outcome State Fault Refusal :=
  s.effect fun l => if l.lossDue then l.loseLock else l

/-! ### The origin strobe (R32 to R35) -/

/-- Whether ARM_ORIGIN may arm the strobe (R33). -/
def Live.armOriginAllowed (l : Live) : Bool :=
  l.mode == .configure && !l.beat.locked && l.rd .ORIGIN_STROBE_INPUT != 0xFF

def Live.armOrigin (l : Live) : Live :=
  if l.armOriginAllowed then l.setBeat fun b => { b with strobeArmed := true } else l

def execArmOrigin (s : State) : Host.Outcome State Fault Refusal := s.effect Live.armOrigin

/-- The strobe disarms when the unit leaves CONFIGURE (R33). -/
def Live.disarmStrobe (l : Live) : Live := l.setBeat fun b => { b with strobeArmed := false, strobeTaken := false }

/-- Phase 1 at the strobe instant: the number becomes FREE_RUN_ORIGIN, the elapsed-beat count 0, PTP time follows, a slew
ends, and event 41 carries the old and the new number (R32, R34, R39, R54). -/
def Live.numberStrobe (l : Live) : Live :=
  let o := (l.beat.number + 1) % 2 ^ 64
  let n := l.rd .FREE_RUN_ORIGIN
  let l1 := l.setBeat fun b =>
    { b with number := n, elapsed := 0, ticks := b.ticks + 1, jumps := b.jumped (b.number + 1) n, halfNs := n * 250000 % 2 ^ 65, lastCycles := 75000,
             strobeTaken := false, stepped := false }
  l1.slewEnds.raise 41 (u64 o ++ u64 n)

end Sys2Proof.Machine
end

