-- ==== Sys2Proof/Machine/Gates.lean ====
section
/-! DEFINITION. Gingham: gate control lists, takeovers, and whether a frame fits (spec/13_gingham.md).

Instants inside this file are PTP times in units of 0.01 ns (R451). -/

namespace Sys2Proof.Machine

open Sys2Proof

/-- The current instant: PTP time at the start of the beat and the latest timed input within it. -/
def Live.now100 (l : Live) : Nat := l.beat.halfNs * 50 + l.plane.sub * 100
def Live.nowNs (l : Live) : Nat := l.ptpNs + l.plane.sub

/-- A timed input moves the instant within the beat forward. -/
def Live.at (l : Live) (ns : Nat) : Live := l.setPlane fun x => { x with sub := max x.sub ns }

/-! ### Lists (R441 to R444) -/

/-- A gate control list: entries as (GATES, INTERVAL_NS), cycle and origin in nanoseconds. -/
structure GateList where
  entries : List (Nat × Nat)
  cycle : Nat
  origin : Nat
deriving DecidableEq, Repr, Inhabited

/-- Entries 0 to `n - 1` of an array of port `p`. -/
def Live.gateEntries (l : Live) (o : Obj) (p n : Nat) : List (Nat × Nat) :=
  (List.range n).map fun e =>
    let v := l.elem o e (2 * p)
    (bits v 56 8, bits v 0 32)

def Live.operList (l : Live) (p : Nat) : GateList :=
  { entries := l.gateEntries .GATE_OPER p (l.rd .OPER_LENGTH p), cycle := l.rd .OPER_CYCLE_NS p,
    origin := l.rd .OPER_ORIGIN p }

/-- The spans that are reached in one cycle, entry by entry: cut at the cycle, the last held to its end (R442). -/
def spansOf : Nat → List (Nat × Nat) → List (Nat × Nat)
  | _, [] => []
  | left, [e] => [(e.1, left)]
  | left, e :: es => if left ≤ e.2 then [(e.1, left)] else (e.1, e.2) :: spansOf (left - e.2) es

def GateList.spans (g : GateList) : List (Nat × Nat) := spansOf g.cycle g.entries

/-- The position of an instant, in 0.01 ns (R442). -/
def GateList.pos (g : GateList) (t : Nat) : Nat := ((t : Int) - (g.origin * 100 : Nat) : Int).emod (g.cycle * 100) |>.toNat

/-- The span that covers a position: its number, its gates, and what is left of it. -/
def spanAt : Nat → Nat → List (Nat × Nat) → Nat × Nat × Nat
  | n, _, [] => (n, 0xFF, 0)
  | n, x, s :: ss => if x < s.2 * 100 then (n, s.1, s.2 * 100 - x) else spanAt (n + 1) (x - s.2 * 100) ss

/-- The gates at an instant, and the entry in force. -/
def GateList.gatesAt (g : GateList) (t : Nat) : Nat := (spanAt 0 (g.pos t) g.spans).2.1
def GateList.entryAt (g : GateList) (t : Nat) : Nat := (spanAt 0 (g.pos t) g.spans).1

/-- How long a queue's gate stays open from the head of a list of spans, up to the first span that closes it. -/
def openRun (q : Nat) : List (Nat × Nat) → Option Nat
  | [] => none
  | s :: ss => if bit s.1 q then (openRun q ss).map (s.2 * 100 + ·) else some 0

/-- The earliest instant at or after `t` at which the queue's gate is closed (R450); `none` where it never closes. -/
def GateList.closes (g : GateList) (q t : Nat) : Option Nat :=
  let here := spanAt 0 (g.pos t) g.spans
  if bit here.2.1 q then
    let after := g.spans.drop (here.1 + 1) ++ g.spans.take (here.1 + 1)
    (openRun q after).map (t + here.2.2 + ·)
  else some t

/-- The longest run of open spans in a list (R444). -/
def longestRun (q : Nat) : Nat → Nat → List (Nat × Nat) → Nat
  | _, best, [] => best
  | run, best, s :: ss => if bit s.1 q then longestRun q (run + s.2) (max best (run + s.2)) ss else longestRun q 0 best ss

/-- LONGEST_OPEN_NS of a queue (R444). -/
def GateList.longest (g : GateList) (q : Nat) : Nat :=
  if g.spans.all fun s => bit s.1 q then 0xFFFFFFFF
  else min g.cycle (longestRun q 0 0 (g.spans ++ g.spans))

/-- Recompute LONGEST_OPEN_NS of a port. -/
def Live.setLongest (l : Live) (p : Nat) : Live :=
  let g := l.operList p
  l.wr .LONGEST_OPEN_NS (beVal ((List.range 8).foldl (fun bs q => u32 (g.longest q) ++ bs) [])) p

/-! ### Whether a frame may start (R450 to R452, R455, R457, R465) -/

/-- Every gate of the port reads open: by policy, or after a memory error. -/
def Live.allOpen (l : Live) (p : Nat) : Bool := 52 ≤ p || l.rdB .OPEN_ALL_ACTIVE p || (l.portRt p).gateError

/-- The armed change as a list with origin t (R446, R450). -/
def Live.armedList (l : Live) (p : Nat) : GateList :=
  { entries := l.gateEntries .GATE_ARMED p (l.portRt p).armed.1, cycle := (l.portRt p).armed.2,
    origin := l.rd .ARMED_TIME p }

/-- The close time c(q, s) (R450). -/
def Live.closeTime (l : Live) (p q s : Nat) : Option Nat :=
  if l.allOpen p then none
  else
    let c := (l.operList p).closes q s
    if l.rd .CHANGE_STATE p = 1 then
      let t := l.rd .ARMED_TIME p * 100
      match c with
      | some x => if x < t then some x else (l.armedList p).closes q (max s t)
      | none => (l.armedList p).closes q (max s t)
    else c

/-- Transmission time of W bytes at a line rate in Mb/s (R451). -/
def wireTime (w mbps : Nat) : Nat := if mbps = 0 then 0 else w * 800000 / mbps

/-- The open time a frame needs: D under LENGTH, GUARD_NS under FIXED (R455). -/
def Live.requiredOpen (l : Live) (p w : Nat) : Nat :=
  if l.rd .GUARD_MODE p = 0 then wireTime w (l.rd .LINK_SPEED_0401 p) else l.rd .GUARD_NS p * 100

/-- Whether Qq's gate lets a frame of W bytes start now (R451, R452). -/
def Live.gateLets (l : Live) (p q w : Nat) : Bool :=
  l.allOpen p ||
    (bit ((l.operList p).gatesAt l.now100) q &&
      match l.closeTime p q l.now100 with
      | none => true
      | some c => l.now100 + l.requiredOpen p w ≤ c)

/-- A frame that can never start under the operating list (R455). -/
def Live.gateTooLong (l : Live) (p q w : Nat) : Bool :=
  let longest := bits (l.rd .LONGEST_OPEN_NS p) (32 * q) 32
  !l.allOpen p && longest != 0xFFFFFFFF && longest * 100 < l.requiredOpen p w

/-! ### Taking over (R445 to R449, R464) -/

/-- Copy elements of one array of a port to another. -/
def Live.copyGates (l : Live) (src dst : Obj) (p n : Nat) : Live :=
  l.forN 256 fun l e => if e < n then l.setElem dst e (l.elem src e (2 * p)) (2 * p) else l.setElem dst e 0 (2 * p)

/-- Discard a port's armed change. -/
def Live.disarmGates (l : Live) (p : Nat) : Live :=
  if l.rd .CHANGE_STATE p = 0 then l
  else (((l.copyGates .GATE_PENDING .GATE_ARMED p 0).wr .CHANGE_STATE 0 p).wr .ARMED_TIME 0 p).setPort p fun x =>
    { x with armed := (0, 0) }

/-- The armed change becomes the operating list with origin t (R447); `late` as R464 states. -/
def Live.takeover (l : Live) (p : Nat) (late : Bool) : Live :=
  let t := l.rd .ARMED_TIME p
  let r := (l.portRt p).armed
  let l1 := (((l.copyGates .GATE_ARMED .GATE_OPER p r.1).wr .OPER_LENGTH r.1 p).wr .OPER_CYCLE_NS r.2 p).wr .OPER_ORIGIN t p
  let l2 := ((l1.disarmGates p).wr .LAST_TAKEOVER t p).count .TAKEOVERS 1 p
  let l3 := ((l2.setPort p fun x => { x with gateError := false }).setLongest p).markDirty
  let l4 := (l3.blk 17 .eventsIn 1 p 0 (l.portOwner p)).raise 432 (u8 p ++ u64 t) (l.portOwner p)
  if late then ((l4.count .LATE_TAKEOVERS 1 p).blk 17 .signalB 1 p 0 (l.portOwner p)).raise 435 (u8 p) (l.portOwner p)
  else l4

/-- The close time of the frame in transmission follows a change armed or cancelled after it started (R453): from the instant,
not before the operating list began, up to which the old close time holds. -/
def Live.recloseTx (l : Live) (p : Nat) : Live :=
  match (l.portRt p).tx with
  | some t =>
    match t.entry with
    | some (_, q) =>
      let from_ := max t.start (l.rd .OPER_ORIGIN p * 100)
      let old : Bool := match t.close with
        | some c => c < from_
        | none => false
      if old then l else l.setPort p fun x => { x with tx := some { t with close := l.closeTime p q from_ } }
    | none => l
  | none => l

/-- CHANGE_TIME commits: the pending list is copied into the armed change (R446), which takes over at once when its
instant lies at or before this boundary (R464). -/
def Live.changeTime (l : Live) (p t : Nat) : Live :=
  let replaced := l.rd .CHANGE_STATE p = 1
  let n := l.rd .PENDING_LENGTH p
  let l1 := (((l.copyGates .GATE_PENDING .GATE_ARMED p n).wr .CHANGE_STATE 1 p).wr .ARMED_TIME t p).setPort p fun x =>
    { x with armed := (n, l.rd .PENDING_CYCLE_NS p) }
  let l2 := if replaced then l1.raise 433 (u8 p) (l.portOwner p) else l1
  if t ≤ l.ptpNs then l2.takeover p true else l2.recloseTx p

/-- CANCEL commits (R448). -/
def Live.gateCancel (l : Live) (p : Nat) : Live :=
  if l.rd .CHANGE_STATE p = 1 then ((l.disarmGates p).recloseTx p).raise 434 (u8 p) (l.portOwner p) else l

/-- The default list, with an origin (R464, R466). -/
def Live.defaultGates (l : Live) (p origin : Nat) : Live :=
  let l1 := l.forN 256 fun l e => l.toDefault .GATE_OPER (2 * p + e / 128) (e % 128)
  (((l1.toDefault .OPER_LENGTH p).toDefault .OPER_CYCLE_NS p).wr .OPER_ORIGIN origin p).setLongest p

/-! ### Boundaries, jumps and the origin strobe (R457 to R460) -/

/-- Modes in which gates are evaluated (R459). -/
def Mode.gates : Mode → Bool
  | .configure | .service | .island | .backfill | .lean => true
  | _ => false

/-- Status at the start of a beat: OPEN_ALL, GATES_NOW and OPER_ENTRY (R457, R460). -/
def Live.gateSample (l : Live) : Live :=
  if l.mode.gates then
    l.forN 52 fun l p =>
      let l1 := l.wrB .OPEN_ALL_ACTIVE (l.rd .PTP_LOSS_POLICY p = 1 && !l.beat.locked) p
      let t := l1.beat.halfNs * 50
      let g := l1.operList p
      (l1.wr .GATES_NOW (if l1.allOpen p then 0xFF else g.gatesAt t) p).wr .OPER_ENTRY (g.entryAt t) p
  else l

/-- Takeovers whose instant has passed at a step of PTP time (R458). -/
def Live.passedTakeovers (l : Live) : Live :=
  l.forN 52 fun l p => if l.rd .CHANGE_STATE p = 1 ∧ l.rd .ARMED_TIME p ≤ l.ptpNs then l.takeover p false else l

/-- The frames in transmission end at the stepped time (R453, R458). -/
def Live.jumpTx (l : Live) (step : Int) : Live :=
  l.forN 52 fun l p => l.setPort p fun x =>
    { x with tx := x.tx.map fun t => { t with start := ((t.start : Int) + step * 100).toNat } }

/-- PTP time steps by `step` nanoseconds (R458). -/
def Live.gateJump (l : Live) (step : Int) : Live :=
  if l.mode.gates ∧ step ≠ 0 then
    ((l.jumpTx step).passedTakeovers).raise 436 (u64 (step % 18446744073709551616).toNat)
  else l

/-- Takeovers whose instant is that of a boundary, or was passed in the beat it ends (R447, R464; DEDUCED, log 128). -/
def Live.dueTakeovers (l : Live) : Live := if l.mode.gates then l.passedTakeovers else l

/-- At an origin strobe every PTP time named moves with it (R34). -/
def Live.shiftGates (l : Live) (o n : Nat) : Live :=
  let shift := fun (t : Nat) => (((t : Int) + ((n : Int) - o) * 125000).emod 18446744073709551616).toNat
  l.forN 52 fun l p =>
    let l1 := l.wr .OPER_ORIGIN (shift (l.rd .OPER_ORIGIN p)) p
    if l.rd .CHANGE_STATE p = 1 then l1.wr .ARMED_TIME (shift (l.rd .ARMED_TIME p)) p else l1

/-- Armed changes are lost where the mode stops them (R459). -/
def Live.loseArmed (l : Live) : Live := l.forN 52 fun l p => l.disarmGates p

end Sys2Proof.Machine
end

