-- ==== Sys2Proof/Machine/Parse.lean ====
section
/-! DEFINITION. The CRC-32 of the manual's hashes, and the parser (R266 to R269, R272, R280). -/

namespace Sys2Proof.Machine

open Sys2Proof

/-! ### CRC-32 (R272): IEEE 802.3 polynomial, reflected -/

/-- One bit of the reflected calculation. -/
def crcStep (c : Nat) : Nat := if c % 2 = 1 then (c / 2) ^^^ 0xEDB88320 else c / 2

/-- One byte. -/
def crcByte (c : Nat) (b : Byte) : Nat :=
  crcStep (crcStep (crcStep (crcStep (crcStep (crcStep (crcStep (crcStep (c ^^^ b.toNat))))))))

/-- The CRC-32 of bytes from a register's initial value, with the final complement. -/
def crc32From (init : Nat) (bs : List Byte) : Nat := bs.foldl crcByte init ^^^ 0xFFFFFFFF

/-- The CRC-32 as the Ethernet FCS is computed (R272). -/
def crc32 (bs : List Byte) : Nat := crc32From 0xFFFFFFFF bs

/-- The four FCS bytes of a frame as they stand on the line: least significant byte of the CRC first. -/
def fcsOf (bs : List Byte) : List Byte := leBytes 4 (crc32 bs)

/-- A frame's bytes without and with a correct FCS. -/
def body (f : List Byte) : List Byte := f.take (f.length - 4)
def withFcs (bs : List Byte) : List Byte := bs ++ fcsOf bs

/-- Whether a frame's last four bytes are its FCS (R234). -/
def fcsGood (f : List Byte) : Bool := 4 ≤ f.length && fcsOf (body f) == f.drop (f.length - 4)

/-! ### What the parser finds -/

/-- The key set (R266 to R269). -/
structure Parsed where
  da : Nat := 0
  sa : Nat := 0
  /-- VLAN tags: 0, 1 or 2. -/
  tags : Nat := 0
  outerVid : Nat := 0
  outerPcp : Nat := 0
  innerVid : Nat := 0
  innerPcp : Nat := 0
  etherType : Nat := 0
  /-- 0 none, 4 or 6: the IP version parsed, and where its header starts. -/
  ip : Nat := 0
  ipOff : Nat := 0
  dscp : Nat := 0
  ecn : Nat := 0
  ttl : Nat := 0
  proto : Nat := 0
  sip : Nat := 0
  dip : Nat := 0
  flow : Nat := 0
  l4 : Bool := false
  l4Off : Nat := 0
  l4Src : Nat := 0
  l4Dst : Nat := 0
  tcpFlags : Nat := 0
  frag : Bool := false
  fragLater : Bool := false
  ipExtra : Bool := false
  stop : Bool := false
  avtpSubtype : Nat := 0
  stream : Option Nat := none
  ptp : Bool := false
deriving DecidableEq, Repr, Inhabited

/-- PARSE_FLAGS (R269). -/
def Parsed.flags (p : Parsed) : Nat :=
  (p.ip != 0).toNat * 128 + p.l4.toNat * 64 + p.frag.toNat * 32 + p.fragLater.toNat * 16 + p.ipExtra.toNat * 8
    + p.stop.toNat * 4 + (p.tags == 2).toNat * 2 + (p.tags != 0).toNat

/-- KEY_TYPE (R275): 0 L2, 1 IPV4, 2 IPV6. -/
def Parsed.keyType (p : Parsed) : Nat := if p.ip = 4 then 1 else if p.ip = 6 then 2 else 0

def Parsed.stopped (p : Parsed) : Parsed := { p with stop := true }

/-- The UDP, TCP, ICMP or ICMPv6 header at `off` (R266, R268); headers must end by `lim`. -/
def parseL4 (f : List Byte) (lim off icmp : Nat) (p : Parsed) : Parsed :=
  if p.fragLater then p
  else if p.proto = 17 then
    if lim < off + 8 then p.stopped
    else
      let d := fieldAt f (off + 2) 2
      { p with l4 := true, l4Off := off, l4Src := fieldAt f off 2, l4Dst := d, ptp := d == 319 || d == 320 }
  else if p.proto = 6 then
    if lim < off + 20 ∨ lim < off + 4 * (fieldAt f (off + 12) 1 / 16) then p.stopped
    else { p with l4 := true, l4Off := off, l4Src := fieldAt f off 2, l4Dst := fieldAt f (off + 2) 2,
                  tcpFlags := fieldAt f (off + 13) 1 }
  else if p.proto = icmp then
    if lim < off + 8 then p.stopped else { p with l4 := true, l4Off := off, l4Src := fieldAt f off 2 }
  else p

/-- An IPv4 header at `off` (R266 to R268). -/
def parseIpv4 (f : List Byte) (lim off : Nat) (p : Parsed) : Parsed :=
  let b0 := fieldAt f off 1
  let ihl := b0 % 16
  if lim < off + 1 ∨ b0 / 16 ≠ 4 ∨ ihl < 5 ∨ lim < off + 4 * ihl then p.stopped
  else
    let tos := fieldAt f (off + 1) 1
    let fr := fieldAt f (off + 6) 2
    let q := { p with ip := 4, ipOff := off, dscp := tos / 4, ecn := tos % 4, ttl := fieldAt f (off + 8) 1,
                      proto := fieldAt f (off + 9) 1, sip := fieldAt f (off + 12) 4, dip := fieldAt f (off + 16) 4,
                      ipExtra := decide (5 < ihl), frag := fr % 16384 != 0, fragLater := fr % 8192 != 0 }
    parseL4 f lim (off + 4 * ihl) 1 q

/-- The IPv6 extension headers the parser understands, and those it does not (R266, R267). -/
def v6Known : List Nat := [0, 43, 44, 60]
def v6Unknown : List Nat := [50, 51, 135, 139, 140, 253, 254]

/-- The extension headers from `off`, of which at most `left` more are understood, then the layer 4 header. -/
def parseExt (f : List Byte) (lim : Nat) : Nat → Nat → Parsed → Parsed
  | left, off, p =>
    if v6Unknown.contains p.proto then { p with ipExtra := true }.stopped
    else if v6Known.contains p.proto then
      match left with
      | 0 => p.stopped
      | left + 1 =>
        let len := if p.proto = 44 then 8 else (fieldAt f (off + 1) 1 + 1) * 8
        if lim < off + 8 ∨ lim < off + len then { p with ipExtra := true }.stopped
        else
          let fo := if p.proto = 44 then fieldAt f (off + 2) 2 else 0
          parseExt f lim left (off + len)
            { p with ipExtra := true, proto := fieldAt f off 1, frag := p.frag || fo / 8 != 0 || fo % 2 != 0,
                     fragLater := p.fragLater || fo / 8 != 0 }
    else parseL4 f lim off 58 p

/-- An IPv6 header at `off` (R266 to R268). -/
def parseIpv6 (f : List Byte) (lim off : Nat) (p : Parsed) : Parsed :=
  if lim < off + 40 ∨ fieldAt f off 1 / 16 ≠ 6 then p.stopped
  else
    let w := fieldAt f off 4
    parseExt f lim 2 (off + 40)
      { p with ip := 6, ipOff := off, dscp := bits w 22 6, ecn := bits w 20 2, flow := bits w 0 20,
               proto := fieldAt f (off + 6) 1, ttl := fieldAt f (off + 7) 1, sip := fieldAt f (off + 8) 16,
               dip := fieldAt f (off + 24) 16 }

/-- The AVTP subtypes whose header has the 64-bit stream ID in bytes 4 to 11 (R268; PRESUMED from IEEE 1722-2016: the stream data
subtypes, CRF, TSCF and NTSCF; log 122). -/
def avtpStreamed (subtype : Nat) : Bool := subtype ≤ 7 || subtype == 0x6E || subtype == 0x6F || subtype == 0x7F || subtype == 0x82

/-- What follows the EtherType at `off - 2` (R266, R268). -/
def parseType (f : List Byte) (lim off et : Nat) (p : Parsed) : Parsed :=
  if et < 0x0600 then p
  else
    let q := { p with etherType := et }
    if et = 0x0800 then parseIpv4 f lim off q
    else if et = 0x86DD then parseIpv6 f lim off q
    else if et = 0x22F0 then
      if lim < off + 1 then q.stopped
      else { q with avtpSubtype := fieldAt f off 1,
                    stream := if off + 12 ≤ lim ∧ avtpStreamed (fieldAt f off 1) then some (fieldAt f (off + 4) 8) else none }
    else if et = 0x88F7 then { q with ptp := true }
    else q

/-- The parser: a frame from the destination address through the FCS (R266 to R269). -/
def parse (f : List Byte) : Parsed :=
  let lim := min 256 (f.length - 4)
  let p : Parsed := { da := fieldAt f 0 6, sa := fieldAt f 6 6 }
  let t0 := fieldAt f 12 2
  if t0 ≠ 0x8100 ∧ t0 ≠ 0x88A8 then parseType f lim 14 t0 p
  else
    let c0 := fieldAt f 14 2
    let p1 := { p with tags := 1, outerVid := c0 % 4096, outerPcp := c0 / 8192 }
    let t1 := fieldAt f 16 2
    if t1 ≠ 0x8100 then parseType f lim 18 t1 p1
    else
      let c1 := fieldAt f 18 2
      let p2 := { p1 with tags := 2, innerVid := c1 % 4096, innerPcp := c1 / 8192 }
      let t2 := fieldAt f 20 2
      if t2 = 0x8100 ∨ t2 = 0x88A8 then p2.stopped else parseType f lim 22 t2 p2

/-! ### The fields of the hashes (R257, R280) -/

/-- The bytes that a hash takes of a frame: the selected fields in ascending bit order, each most significant byte first;
a field the frame lacks contributes nothing. -/
def Parsed.hashBytes (p : Parsed) (ingress sel : Nat) : List Byte :=
  let pick := fun (k : Nat) (bs : List Byte) => if bit sel k then bs else []
  let ipLen := if p.ip = 6 then 16 else 4
  pick 0 (u48 p.sa) ++ pick 1 (u48 p.da) ++ pick 2 (if p.tags = 0 then [] else u16 p.outerVid)
    ++ pick 3 (if p.etherType = 0 then [] else u16 p.etherType)
    ++ pick 4 (if p.ip = 0 then [] else beBytes ipLen p.sip) ++ pick 5 (if p.ip = 0 then [] else beBytes ipLen p.dip)
    ++ pick 6 (if p.ip = 0 then [] else u8 p.proto) ++ pick 7 (if p.l4 then u16 p.l4Src else [])
    ++ pick 8 (if p.l4 then u16 p.l4Dst else []) ++ pick 9 (if p.ip = 6 then beBytes 3 p.flow else [])
    ++ pick 10 (u8 ingress) ++ pick 11 (match p.stream with | some s => u64 s | none => [])

end Sys2Proof.Machine
end

