-- ==== Sys2Proof/Machine/Fabric.lean ====
section
/-! DEFINITION. Frame records, queues, occupancies, releases, pause frames, and the edits at transmission
(spec/10_fabric_buffers.md, R237 to R242, R329, R335, R350 to R356, R370, R416). -/

namespace Sys2Proof.Machine

open Sys2Proof

/-! ### The metadata word (R270) -/

def wTn (w : Nat) : Nat := bits w 61 3
def wVlan (w : Nat) : Nat := bits w 49 12
def wClass (w : Nat) : Nat := bits w 45 4
def wTc (w : Nat) : Nat := bits w 42 3
def wColour (w : Nat) : Nat := bits w 40 2
def wPolice (w : Nat) : Bool := bit w 39
def wPolicer (w : Nat) : Nat := bits w 27 12
def wDrop (w : Nat) : Bool := bit w 26
def wCopyC (w : Nat) : Bool := bit w 25
def wKeep (w : Nat) : Bool := bit w 24
def wKeepSlot (w : Nat) : Nat := bits w 23 1
def wMirror (w : Nat) : Bool := bit w 22
def wSession (w : Nat) : Nat := bits w 20 2
def wRoute (w : Nat) : Bool := bit w 19
def wGroup (w : Nat) : Nat := bits w 7 12
def wMcast (w : Nat) : Bool := bit w 6
def wInput (w : Nat) : Bool := bit w 5
def wUser (w : Nat) : Nat := bits w 0 5

/-- A word with a tenancy, a VLAN and a traffic class, and nothing else set. -/
def wordOf (tn vlan tc : Nat) : Nat := setBits (setBits (setBits 0 61 3 tn) 49 12 vlan) 42 3 tc

/-! ### Records and occupancies (R350 to R353) -/

def cellsOf (len : Nat) : Nat := cdiv len 256
def Frame.cells (f : Frame) : Nat := cellsOf f.bytes.length
def Frame.tn (f : Frame) : Nat := wTn f.word
def Frame.tc (f : Frame) : Nat := wTc f.word

def isUplink (p : Nat) : Bool := 48 ≤ p && p < 52

def Live.frame (l : Live) (h : Nat) : Frame := (l.plane.frames.get h).getD {}
def Live.setFrame (l : Live) (h : Nat) (f : Frame) : Live :=
  l.setPlane fun x => { x with frames := x.frames.put h (some f) }

/-- The records that stand in cell memory. -/
def Live.cellFrames (l : Live) : List Frame :=
  (l.plane.frames.filterMap fun e => e.2).filter fun f => f.uplink == none

def Live.queue (l : Live) (p q : Nat) : List QEntry := l.plane.queues.get (8 * p + q)
def Live.setQueue (l : Live) (p q : Nat) (es : List QEntry) : Live :=
  l.setPlane fun x => { x with queues := x.queues.put (8 * p + q) es }

/-- Queue depth in cells and in bytes (R352, R430). -/
def Live.depth (l : Live) (p q : Nat) : Nat := sumOf (fun (e : QEntry) => (l.frame e.frame).cells) (l.queue p q)
def Live.depthBytes (l : Live) (p q : Nat) : Nat := sumOf (fun (e : QEntry) => (l.frame e.frame).bytes.length) (l.queue p q)

/-- Tenancy usage, headroom use of a tenancy, ingress count and headroom use of (p, q), in cells (R352). -/
def Live.cellUse (l : Live) (n : Nat) : Nat := sumOf Frame.cells (l.cellFrames.filter fun f => f.tn == n)
def Live.headroomOf (l : Live) (n : Nat) : Nat := sumOf Frame.cells (l.cellFrames.filter fun f => f.tn == n && f.headroom)
def Live.ingressCount (l : Live) (p q : Nat) : Nat :=
  sumOf Frame.cells (l.cellFrames.filter fun f => f.charged && f.port == p && f.tc == q)
def Live.headroomUse (l : Live) (p q : Nat) : Nat :=
  sumOf Frame.cells (l.cellFrames.filter fun f => f.headroom && f.port == p && f.tc == q)

def Live.cellsFree (l : Live) : Nat := 196608 - sumOf Frame.cells l.cellFrames - l.plane.reclaimCells
def Live.uplinkFree (l : Live) (u : Nat) : Nat :=
  16128 - sumOf Frame.cells ((l.plane.frames.filterMap fun e => e.2).filter fun f => f.uplink == some u)
def Live.entriesFree (l : Live) : Nat :=
  262144 - sumOf (fun (e : Nat × List QEntry) => if isUplink (e.1 / 8) then 0 else e.2.length) l.plane.queues

/-- Whether a port passes frames: a physical port that is UP, or an internal port (R250). -/
def Live.portUp (l : Live) (p : Nat) : Bool := if p < 52 then l.rd .LINK_STATE_0401 p == 3 else l.mode.engineOn

/-- Ports that the mode serves (R134, R380, R440): all in the running family, port C alone in CONFIGURE. -/
def Live.portServed (l : Live) (p : Nat) : Bool := l.mode.running || (l.mode == .configure && p == 52)

/-- The MAC transmit and receive blocks of a port (R658). -/
def macBlock (p : Nat) : Nat := if isUplink p then 1 else 0

/-! ### Pause frames (R237 to R242) -/

/-- The bytes of a PFC frame (IEEE 802.1Qbb, R237): priorities of `mask`, each with its time. -/
def pfcBytes (mask : Nat) (time : Nat → Nat) : List Byte :=
  let head := beBytes 6 0x0180C2000001 ++ u48 (baseMac 0) ++ u16 0x8808 ++ u16 0x0101 ++ u16 mask
  let times := ((List.range 8).map fun p => u16 (if bit mask p then time p else 0)).flatten
  withFcs (slice (head ++ times) 0 60)

/-- A PFC frame that is due starts when no frame is in transmission (R241). -/
def Live.startPfc (l : Live) (p : Nat) : Live :=
  let r := l.portRt p
  if r.tx = none ∧ r.pfcDue ≠ 0 ∧ p < 52 ∧ l.portUp p ∧ l.mode ≠ .freeze then
    let xoff := l.rd .XOFF_TX p
    let bs := pfcBytes r.pfcDue fun q => if bit xoff q then l.rd .PAUSE_QUANTA p else 0
    let l1 := l.setPort p fun x => { x with pfcDue := 0, tx := some { bytes := bs, start := l.now100 } }
    (l1.count .PFC_TX_FRAMES 1 p).blk (2 + macBlock p) .signalB 1 p
  else l

/-- A PFC frame falls due for a priority. -/
def Live.duePfc (l : Live) (p q : Nat) : Live :=
  (l.setPort p fun x => { x with pfcDue := setBit x.pfcDue q true }).startPfc p

/-- The thresholds of (p, q) against the current count (R240, R242). -/
def Live.pfcEval (l : Live) (p q : Nat) : Live :=
  if 52 ≤ p then l
  else
    let on := bit (l.rd .PFC_TX_ENABLE p) q
    let xoff := bit (l.rd .XOFF_TX p) q
    let n := l.ingressCount p q
    let hi := l.rd .XOFF p q
    if on ∧ ¬ xoff ∧ hi ≤ n then (l.wr .XOFF_TX (setBit (l.rd .XOFF_TX p) q true) p).duePfc p q
    else if xoff ∧ (¬ on ∨ n ≤ min (l.rd .XON p q) (hi - 1)) then
      (l.wr .XOFF_TX (setBit (l.rd .XOFF_TX p) q false) p).duePfc p q
    else l

/-! ### Releases and drops (R353, R363, R371) -/

/-- The figures of the fabric that its objects show (R372, R373, R375). -/
def Live.showCells (l : Live) : Live :=
  let free := l.cellsFree
  ((l.wr .CELLS_FREE free).wr .CELLS_FREE_LOW (min free (l.rd .CELLS_FREE_LOW))).wr .ENTRIES_FREE l.entriesFree

/-- One reference to a record ends; at the last, its cells return to the free list (R353). -/
def Live.unref (l : Live) (h : Nat) : Live :=
  match l.plane.frames.get h with
  | none => l
  | some f =>
    if 1 < f.refs then l.setFrame h { f with refs := f.refs - 1 }
    else
      let l1 := l.setPlane fun x => { x with frames := x.frames.put h none }
      match f.uplink with
      | some u => l1.wr .UPLINK_FREE (l1.uplinkFree u) 0 (u - 48)
      | none =>
        let l2 := (l1.blk 14 .eventsOut f.cells f.port f.tc f.tn).showCells
        if f.charged then l2.pfcEval f.port f.tc else l2

/-- A queue's drop counter and QUEUE_DROPS of its port (R259, R433). -/
def Live.queueDrop (l : Live) (p q : Nat) : Live := (l.count .DROPS_Q 1 p q).count .QUEUE_DROPS 1 p

/-- Remove the entries of a queue that `drop` names, each released. -/
def Live.removeEntries (l : Live) (p q : Nat) (drop : QEntry → Bool) : Live :=
  let es := l.queue p q
  let l1 := l.setQueue p q (es.filter fun e => !drop e)
  let l2 := l1.forL (es.filter drop) fun l e => l.unref e.frame
  let l3 := if (l2.queue p q).isEmpty then l2.wr .DEFICIT 0 p q else l2
  if isUplink p then l3 else l3.wr .ENTRIES_FREE l3.entriesFree

/-- The frame that a port's transmission has selected, as an entry of its queue. -/
def Live.inFlight (l : Live) (p q : Nat) (e : QEntry) : Bool :=
  match (l.portRt p).tx with
  | some t => t.entry == some (e.frame, q)
  | none => false

/-- Discard at the head the frames of a queue that are not in transmission, each counted in the queue's drop counter and
in `cause` (R244, R250). -/
def Live.discardQueue (l : Live) (p q : Nat) (cause : Option Obj) : Live :=
  let gone := (l.queue p q).filter fun e => !l.inFlight p q e
  let l1 := l.forL gone fun l e =>
    let l1 := (l.queueDrop p q).blk (2 + macBlock p) .drops 1 p q (l.frame e.frame).tn
    match cause with
    | some o => l1.count o 1 p
    | none => l1
  l1.removeEntries p q fun e => !l.inFlight p q e

/-- Every queue of a port discards its frames and counts each; one in transmission is cut and lost whole with them (R7, R380). -/
def Live.discardPort (l : Live) (p : Nat) : Live :=
  (l.setPort p fun x => { x with tx := none, pfcDue := 0 }).forN 8 fun l q => l.discardQueue p q none

/-- The boundary at which a mode stops serving every port (R380). -/
def Live.discardAll (l : Live) : Live := l.forN 56 fun l p => l.discardPort p

/-! ### Edits at transmission (R329, R335, R350, R370, R416) -/

/-- A header checksum after a 16-bit word changed from `m` to `m'` (RFC 1624). -/
def csumUpdate (hc m m' : Nat) : Nat :=
  let s := (65535 - hc) + (65535 - m) + m'
  let s1 := s % 65536 + s / 65536
  let s2 := s1 % 65536 + s1 / 65536
  65535 - s2

/-- A 16-bit word of an IPv4 header changed, and the checksum with it. -/
def editIpv4 (b : List Byte) (ip off v : Nat) : List Byte :=
  let old := fieldAt b (ip + off) 2
  patch (patch b (ip + off) (u16 v)) (ip + 10) (u16 (csumUpdate (fieldAt b (ip + 10) 2) old v))

/-- DSCP and ECN of the IP header set. -/
def setTos (b : List Byte) (p : Parsed) (dscp ecn : Nat) : List Byte :=
  if p.ip = 4 then editIpv4 b p.ipOff 0 (fieldAt b p.ipOff 1 * 256 + dscp * 4 + ecn)
  else if p.ip = 6 then patch b p.ipOff (u32 (setBits (fieldAt b p.ipOff 4) 20 8 (dscp * 4 + ecn)))
  else b

/-- TTL or hop limit less 1 (R335). -/
def lowerTtl (b : List Byte) (p : Parsed) : List Byte :=
  if p.ip = 4 then editIpv4 b p.ipOff 8 (fieldAt b (p.ipOff + 8) 2 - 256)
  else if p.ip = 6 then patch b (p.ipOff + 7) (u8 (p.ttl - 1))
  else b

/-- Addresses and TTL of a routed frame (R335). -/
def routedBytes (f : Frame) (x : Parsed) (b : List Byte) : List Byte :=
  match f.routed with
  | some (src, dst) => patch (lowerTtl b x) 0 (u48 dst ++ u48 src)
  | none => b

/-- A frame without its FCS after the edits that every destination gets: DSCP, ECN mark, routing (R335, R370, R416). -/
def editedBody (f : Frame) (ecn : Bool) : List Byte :=
  let x := parse f.bytes
  let b := body f.bytes
  routedBytes f x (if f.dscp = none ∧ ¬ ecn then b else setTos b x (f.dscp.getD x.dscp) (if ecn then 3 else x.ecn))

/-- The frame as port `p` sends it: an internal port keeps the tags and the metadata word (R329). -/
def sentBytes (f : Frame) (ecn : Bool) (p : Nat) : List Byte :=
  if f.plain then f.bytes
  else if 52 ≤ p then
    if f.routed = none ∧ f.dscp = none ∧ ¬ ecn then f.bytes else withFcs (editedBody f ecn)
  else
    let x := parse f.bytes
    let b2 := editedBody f ecn
    let b3 := if x.tags = 0 then b2 else b2.take 12 ++ b2.drop 16
    let b4 := if bit f.untagged p then b3
      else
        let tci := f.tc * 8192 + (wColour f.word == 1).toNat * 4096 + wVlan f.word
        b3.take 12 ++ u16 0x8100 ++ u16 tci ++ b3.drop 12
    let b5 := b4 ++ List.replicate (60 - b4.length) 0
    if f.poisoned then b5 ++ (fcsOf b5).map (fun c => ~~~c) else withFcs b5

/-- W of an entry at a port: the length as sent and 20 bytes. -/
def Live.wireLen (l : Live) (p : Nat) (e : QEntry) : Nat := (sentBytes (l.frame e.frame) e.ecn p).length + 20

end Sys2Proof.Machine
end

