-- ==== Sys2Proof/Machine/Recovery.lean ====
section
/-! DEFINITION. The recovery journal and withdrawn guarantees (spec/20_recovery.md). -/

namespace Sys2Proof.Machine

open Sys2Proof

def Live.setRec (l : Live) (f : Recoveries → Recoveries) : Live := { l with recoveries := f l.recoveries }

/-! ### Withdrawn guarantees (R682, R689, R691) -/

/-- The GUARANTEES bits that a cause sets: bit 0 EQUIVALENCE, bit 1 TIMING. -/
def causeBits (c : Nat) : Nat := if c = 4 then 2 else 3

/-- Causes detected at one phase: every bit they name is set, and the lowest is recorded; event 25 carries each. -/
def Live.withdraw (l : Live) (causes : List Nat) : Live :=
  match sortBy id causes with
  | [] => l
  | c :: cs =>
    let l1 := l.wr .GUARANTEES ((c :: cs).foldl (fun g x => g ||| causeBits x) (l.rd .GUARANTEES))
    (c :: cs).foldl (fun l x => l.raise 25 (u8 x)) ((l1.wr .WITHDRAWN_CAUSE c).wr .WITHDRAWN_BEAT l.now)

/-- WITHDRAWN_CLEAR (R682). -/
def Live.withdrawnClear (l : Live) : Live :=
  ((l.wr .GUARANTEES 0).wr .WITHDRAWN_CAUSE 0).wr .WITHDRAWN_BEAT 0

def execWithdrawnClear (s : State) : Host.Outcome State Fault Refusal :=
  s.effect fun l => if l.mode.engineOn then l.withdrawnClear else l

/-! ### The journal (R677, R678, R688) -/

/-- The sum of the loss counters of a kind and subject. -/
def Live.lossSum (l : Live) (kind subject : Nat) : Nat :=
  match kind with
  | 2 => l.rd .H_TX_ABORTED subject + l.rd .H_RX_ABORTED subject + l.rd .H_RX_ABSENT subject
  | 4 => l.rd .STORM_DROPS (subject / 8)
  | 6 => sumOf (fun s => l.rd .KEEP_DISCARDS s) (List.range 96)
  | 7 => sumOf (fun s => l.rd .SEGMENTS_RETURNED s) (List.range 96)
  | 8 => sumOf (fun p => l.rd .RX_OVERFLOW_DROPS p + l.rd .QUEUE_DROPS p) (List.range 56)
  | _ => 0

/-- Whether spans of two kinds share loss counters: a restart takes in the drops of ports. -/
def sharesLosses (a b : Nat) : Bool := (a == 8 && (b == 2 || b == 4 || b == 5)) || (b == 8 && (a == 2 || a == 4 || a == 5))

/-- A recovery starts. -/
def Live.recoveryStart (l : Live) (kind subject tn : Nat) : Live :=
  if l.mode = .freeze ∨ l.recoveries.active.any fun r => r.kind == kind && (r.subject == subject || 5 ≤ kind) then l
  else
    let beyond := l.recoveries.active.any fun r => sharesLosses r.kind kind
    let bases := if kind = 5 then (List.range 48).foldl (fun (t : Tbl Nat) p => t.put p (l.rd .LINK_DOWN_DROPS p)) [] else []
    let r : Recovery :=
      { kind := kind, subject := subject, tn := tn, start := l.now, losses := l.lossSum kind subject, bases := bases,
        overlapped := beyond }
    l.setRec fun x =>
      { x with active := (x.active.map fun (a : Recovery) =>
          { a with overlapped := a.overlapped || sharesLosses a.kind kind }) ++ [r] }

/-- The subject that an entry shows, and the frames lost. -/
def Live.entryOf (l : Live) (r : Recovery) : Nat × Nat :=
  match r.kind with
  | 5 => (r.subject, sumOf (fun p => l.rd .LINK_DOWN_DROPS p - r.bases.get p) (members 48 r.ports))
  | 7 => (l.lossSum 7 0 - r.losses, 0)
  | k => (r.subject, l.lossSum k r.subject - r.losses)

/-- A recovery completes: its entry, without SEQUENCE, awaits the journal. -/
def Live.recoveryOver (l : Live) (r : Recovery) (byRestart : Bool) : Live :=
  let e := l.entryOf r
  let v := beVal (u64 r.start ++ u64 l.now ++ u8 r.kind ++ u8 (byRestart.toNat + 2 * r.overlapped.toNat) ++ u8 r.tn ++ u8 0
    ++ u16 e.1 ++ u16 0 ++ u32 (min e.2 4294967295) ++ u32 0)
  l.setRec fun x => { x with done := x.done ++ [(r.kind, v)], active := x.active.filter fun a => a != r }

/-- The recoveries of a kind and subject complete; kinds 5 to 8 have one span at a time. -/
def Live.recoveryDone (l : Live) (kind subject : Nat) : Live :=
  l.forL (l.recoveries.active.filter fun r => r.kind == kind && (r.subject == subject || 5 ≤ kind)) fun l r =>
    l.recoveryOver r false

/-- The most subjects at once of a kind (ports shed, streams retaining). -/
def Live.recoveryPeak (l : Live) (kind n ports : Nat) : Live :=
  l.setRec fun x => { x with active := x.active.map fun (r : Recovery) =>
    if r.kind = kind then { r with subject := max r.subject n, ports := r.ports ||| ports } else r }

/-- Completed recoveries are journalled in ascending kind (R688, R691). -/
def Live.journalRecoveries (l : Live) : Live :=
  let l1 := (sortBy Prod.fst l.recoveries.done).foldl (fun (l : Live) e =>
    let n := (l.rd .RECOVERY_TOTAL + 1) % 2 ^ 32
    (l.wr .RECOVERY_TOTAL n).setRec fun x => { x with journal := lastN 64 (x.journal ++ [e.2 + n]) }) l
  l1.setRec fun x => { x with done := [] }

/-- An uncorrectable word in the journal clears it (R692). -/
def Live.journalCleared (l : Live) : Live := l.setRec fun x => { x with journal := [] }

/-- A recovery that starts and completes at once. -/
def Live.recoveryAt (l : Live) (kind subject tn : Nat) : Live := (l.recoveryStart kind subject tn).recoveryDone kind subject

/-- The recoveries of a kind whose subject satisfies `p` leave no entry. -/
def Live.recoveriesCut (l : Live) (kind : Nat) (p : Nat → Bool) : Live :=
  l.setRec fun x => { x with active := x.active.filter fun r => !(r.kind == kind && p r.subject) }

/-- Recoveries in progress that leave no entry (R679): FREEZE, and a mode that ends the run. -/
def Live.recoveriesDropped (l : Live) : Live := l.setRec fun x => { x with active := [] }

/-- Recoveries in progress when a restart began end at its first CONFIGURE beat (R679). -/
def Live.recoveriesRestarted (l : Live) : Live :=
  l.forL (l.recoveries.active.filter fun r => r.kind != 8) fun l r => l.recoveryOver r true

/-- RECOVERY_RING: 64 entries, oldest first (R687). -/
def Live.recoveryRing (l : Live) : List Byte :=
  slice ((l.recoveries.journal.map (beBytes 32)).flatten) 0 2048

end Sys2Proof.Machine
end

