-- ==== Sys2Proof/Machine/Sched.lean ====
section
/-! DEFINITION. Service modes, selection, transmission, shapers, policer buckets, flush and sampling
(spec/12_queues_shaping.md). -/

namespace Sys2Proof.Machine

open Sys2Proof

/-! ### Heads, deficits and tags (R421, R422) -/

def Live.headOf (l : Live) (p q : Nat) : Option QEntry := (l.queue p q).head?

/-- Tag a precedes tag b (R422). -/
def tagBefore (a b : Nat) : Bool := decide (a ≠ b) && decide ((b + 2 ^ 64 - a) % 2 ^ 64 < 2 ^ 63)

/-- The tags of queues whose head is new (R422). -/
def Live.retag (l : Live) (p : Nat) : Live :=
  l.forN 8 fun l q =>
    let r := l.portRt p
    match l.headOf p q with
    | none => if r.tagOf.get q = none then l else l.setPort p fun x => { x with tagOf := x.tagOf.put q none }
    | some e =>
      if r.tagOf.get q = some e.frame then l
      else
        let f := r.tags.get q
        let from_ := if tagBefore f r.vtime then r.vtime else f
        let tag := (from_ + l.wireLen p e * 65536 / max 1 (l.rd .WFQ_WEIGHT p q)) % 2 ^ 64
        l.setPort p fun x => { x with tags := x.tags.put q tag, tagOf := x.tagOf.put q (some e.frame) }

/-- The bytes of a shaper's token object as a signed number. -/
def Live.qTokens (l : Live) (p q : Nat) : Int := l.rdI .TOKENS p q

def Live.queuePaused (l : Live) (p q : Nat) : Bool := (l.portRt p).pause.get q != 0
def Live.queueShaped (l : Live) (p q : Nat) : Bool := l.rdB .Q_SHAPE_ENABLE p q && decide (l.qTokens p q < 0)
def Live.portShaped (l : Live) (p : Nat) : Bool := l.rdB .PORT_SHAPE_ENABLE p && decide (l.rdI .PORT_TOKENS p < 0)

/-- Eligibility (R420). -/
def Live.eligible (l : Live) (p q : Nat) : Bool :=
  match l.headOf p q with
  | none => false
  | some e =>
    l.portUp p && l.portServed p && !l.queuePaused p q && !l.queueShaped p q && !l.portShaped p
      && l.gateLets p q (l.wireLen p e)

/-- The queues served by DRR, in descending number (R421). -/
def drrQueues (strict : Nat) : List Nat := (List.range (8 - strict)).reverse

/-- The DRR queue after `q`, cyclic. -/
def drrNext (strict q : Nat) : Nat := if q = 0 then 7 - strict else q - 1

/-- What a DRR selection changes: deficits, visited queues and the pointer. -/
structure Drr where
  deficit : Nat → Nat
  visited : Nat
  ptr : Nat

/-- The DRR procedure (R421), bounded by the rounds that the largest frame can need. -/
def drrSelect (elig : Nat → Bool) (need weight : Nat → Nat) (strict : Nat) : Nat → Drr → Option (Nat × Drr)
  | 0, _ => none
  | fuel + 1, d =>
    let q := d.ptr
    if elig q then
      let def1 := if bit d.visited q then d.deficit q else d.deficit q + 64 * weight q
      if need q ≤ def1 then
        some (q, { d with deficit := fun x => if x = q then def1 - need q else d.deficit x, visited := setBit d.visited q true })
      else drrSelect elig need weight strict fuel
        { deficit := fun x => if x = q then def1 else d.deficit x, visited := setBit d.visited q false, ptr := drrNext strict q }
    else drrSelect elig need weight strict fuel { d with visited := setBit d.visited q false, ptr := drrNext strict q }

/-- The frame length W of a queue's head. -/
def Live.headLen (l : Live) (p q : Nat) : Nat := match l.headOf p q with | some e => l.wireLen p e | none => 0

/-- Selection under HYBRID by DRR, with its deficits written back. -/
def Live.selectDrr (l : Live) (p strict : Nat) : Option Nat × Live :=
  let r := l.portRt p
  if (drrQueues strict).any (l.eligible p) then
    let ptr := if r.drrPtr < 8 - strict then r.drrPtr else 7 - strict
    match drrSelect (l.eligible p) (l.headLen p) (fun q => l.rd .DRR_WEIGHT p q) strict 1400
        { deficit := fun q => l.rd .DEFICIT p q, visited := r.visited, ptr := ptr } with
    | some (q, d) =>
      let l1 := l.forL (drrQueues strict) fun l x => l.wr .DEFICIT (d.deficit x) p x
      (some q, l1.setPort p fun x => { x with visited := d.visited, drrPtr := d.ptr })
    | none => (none, l)
  else (none, l)

/-- Selection under WFQ (R422). -/
def Live.selectWfq (l : Live) (p : Nat) : Option Nat × Live :=
  let r := l.portRt p
  let best := (List.range 8).foldl (fun (best : Option Nat) q =>
    if l.eligible p q then
      match best with
      | some b => if tagBefore (r.tags.get b) (r.tags.get q) then best else some q
      | none => some q
    else best) none
  match best with
  | some q => (some q, l.setPort p fun x => { x with vtime := x.tags.get q })
  | none => (none, l)

/-- The scheduler's selection (R421, R422). -/
def Live.select (l : Live) (p : Nat) : Option Nat × Live :=
  if l.rd .SERVICE_MODE p = 1 then l.selectWfq p
  else
    let strict := l.rd .STRICT_COUNT p
    match (List.range strict).find? fun k => l.eligible p (7 - k) with
    | some k => (some (7 - k), l)
    | none => l.selectDrr p strict

/-- W × 8 is taken from the enabled shapers in the path (R424). -/
def Live.chargeShapers (l : Live) (p q w : Nat) : Live :=
  let l1 := if l.rdB .Q_SHAPE_ENABLE p q then l.wrI .TOKENS (l.qTokens p q - (w * 8 : Nat)) p q else l
  if l1.rdB .PORT_SHAPE_ENABLE p then l1.wrI .PORT_TOKENS (l1.rdI .PORT_TOKENS p - (w * 8 : Nat)) p else l1

/-- Signals of a selection that left a frame waiting for its pause or a shaper (R658). -/
def Live.blockedSignals (l : Live) (p : Nat) : Live :=
  let waits := (List.range 8).filter fun q => (l.headOf p q).isSome
  let l1 := if waits.any (l.queuePaused p) then l.blk 16 .signalA 1 p else l
  if waits.any fun q => l.queueShaped p q || l.portShaped p then l1.blk 16 .signalB 1 p else l1

/-- A frame is selected: its first cell read is issued and its shapers are charged (R420, R424). -/
def Live.selected (l : Live) (p q : Nat) (e : QEntry) : Live :=
  let f := l.frame e.frame
  let w := l.wireLen p e
  ((((l.chargeShapers p q w).blk 16 .eventsIn 1 p q f.tn).blk 16 .bytesIn f.bytes.length p q f.tn).blk (2 + macBlock p)
    .eventsIn 1 p q f.tn).blk (2 + macBlock p) .bytesIn f.bytes.length p q f.tn

/-! ### Discards at the head (R244, R250, R455) -/

/-- A head frame that can never fit its gate is discarded (R455). -/
def Live.dropTooLong (l : Live) (p q : Nat) : Live :=
  match l.headOf p q with
  | none => l
  | some e =>
    if l.gateTooLong p q (l.wireLen p e) ∧ ¬ l.inFlight p q e then
      let tn := (l.frame e.frame).tn
      let l1 := ((((l.queueDrop p q).count .GATE_TOO_LONG_DROPS 1 p).blk 17 .drops 1 p q tn).blk (2 + macBlock p) .drops 1 p q tn)
      (l1.mark 438 [] (l.portOwner p)).removeEntries p q fun x => x == e
    else l

/-- The discards that come before a selection. -/
def Live.headDiscards (l : Live) (p : Nat) : Live :=
  if 52 ≤ p then l
  else if l.portUp p then
    let active := l.rd .STORM_ACTIVE p
    let l1 := l.forN 8 fun l q =>
      if bit active q ∧ l.rd .STORM_ACTION p = 0 then l.discardQueue p q (some .STORM_DROPS) else l
    l1.forN 8 fun l q => (l.queue p q).foldl (fun l _ => l.dropTooLong p q) l
  else l.forN 8 fun l q => l.discardQueue p q (some .LINK_DOWN_DROPS)

/-! ### Starting and ending a transmission -/

/-- The scheduler selects the next frame of a port that can start one (R420 to R422, R454); a PFC frame goes first (R241).
Discards at the head, and the tags of new heads, wait for no transmission (R244, R250, R422, R455). -/
def Live.kick (l : Live) (p : Nat) : Live :=
  if l.mode = .freeze then l
  else if 52 < p then l.retag p
  else
    let l0 := (l.headDiscards p).retag p
    if (l0.portRt p).tx ≠ none then l0
    else
      let l1 := l0.startPfc p
      if (l1.portRt p).tx ≠ none then l1
      else
      match l1.select p with
      | (none, l2) => l2
      | (some q, l2) =>
        match l2.headOf p q with
        | none => l2
        | some e =>
          let close := l2.closeTime p q l2.now100
          ((l2.blockedSignals p).selected p q e).setPort p fun x =>
            { x with tx := some { entry := some (e.frame, q), bytes := sentBytes (l2.frame e.frame) e.ecn p,
                                  start := l2.now100, close := close } }

/-- Every port that is idle starts what it can. -/
def Live.kickAll (l : Live) : Live := l.forN 53 Live.kick

/-- Counts of a frame that a port has sent whole (R259, R433). -/
def Live.countSent (l : Live) (p q len tn : Nat) : Live :=
  let l1 := (((l.count .TX_FRAMES_Q 1 p q).count .TX_BYTES_Q len p q).count .TX_FRAMES 1 p).count .TX_BYTES len p
  (((l1.blk 16 .eventsOut 1 p q tn).blk 16 .bytesOut len p q tn).blk (2 + macBlock p) .eventsOut 1 p q tn).blk (2 + macBlock p)
    .bytesOut len p q tn

/-- The transmission in progress ends (R353, R433, R453). -/
def Live.txEnd (l : Live) (p : Nat) : Live :=
  match (l.portRt p).tx with
  | none => l
  | some t =>
    let l0 := l.setPort p fun x => { x with tx := none }
    match t.entry with
    | none => l0
    | some (h, q) =>
      let f := l.frame h
      let len := t.bytes.length
      let l1 := l0.countSent p q len f.tn
      let l2 := if f.poisoned ∧ p < 52 then l1.count .POISON_TX 1 p else l1
      let l3 := if isUplink p then (l2.blk 15 .eventsOut 1 p q f.tn).blk 15 .bytesOut len p q f.tn else l2
      let beyond := match t.close with
        | some c => decide (c < t.start + wireTime (len + 20) (l.rd .LINK_SPEED_0401 p))
        | none => false
      let l4 := if beyond then
          (((l3.count .OVERRUN_FRAMES 1 p).blk 17 .signalA 1 p q f.tn).blk (2 + macBlock p) .signalB 1 p q f.tn).mark 439 []
            (l.portOwner p)
        else l3
      l4.removeEntries p q fun e => e.frame == h

/-- A port that hands its frames on takes the next one: the entry selected, counted as sent, and its record (R354). -/
def Live.takeFrom (l : Live) (p : Nat) : Option Frame × Live :=
  match (l.retag p).select p with
  | (none, l1) => (none, l1)
  | (some q, l1) =>
    match l1.headOf p q with
    | none => (none, l1)
    | some e =>
      let g := l1.frame e.frame
      let f := { g with bytes := sentBytes g e.ecn p }
      let l2 := ((l1.selected p q e).countSent p q f.bytes.length f.tn)
      (some f, (l2.removeEntries p q fun x => x == e).retag p)

/-! ### Link memory (R379) -/

/-- An uncorrectable link word of a queue: its remaining frames are discarded, and a reclaim pass returns the cells. -/
def Live.linkMemoryError (l : Live) (p q : Nat) : Live :=
  let gone := (l.queue p q).filter fun e => !l.inFlight p q e
  let lost := sumOf (fun (e : QEntry) => let f := l.frame e.frame
    if f.uplink = none ∧ f.refs ≤ 1 then f.cells else 0) gone
  let l1 := ((l.raise 297).withdraw [9]).discardQueue p q none
  (l1.setPlane fun x => { x with reclaim := some l.ticks, reclaimCells := x.reclaimCells + lost }).showCells

/-- The reclaim pass of 768 beats ends (R379): the cells count as free then (DESIGN CHOICE, log 126). -/
def Live.reclaimDone (l : Live) : Live :=
  match l.plane.reclaim with
  | some t =>
    if t + 768 ≤ l.ticks ∧ l.mode ≠ .freeze then
      (l.setPlane fun x => { x with reclaim := none, reclaimCells := 0 }).showCells
    else l
  | none => l

/-! ### Shapers and policer buckets at a refill (R411, R424 to R427) -/

/-- The tokens of a shaper after phase 6. -/
def refillTokens (mark mode : Nat) (enabled : Bool) (tokens : Int) (rate burst : Nat) : Int :=
  let cap : Int := (burst * 8 : Nat)
  if mark = 2 then cap
  else if !enabled then tokens
  else if mark = 1 ∧ mode = 1 then cap
  else if mark = 1 ∧ mode = 2 then 0
  else min (tokens + (rate : Nat)) cap

/-- Phase 6 of a port's shapers. -/
def Live.refillPort (l : Live) (p : Nat) : Live :=
  let marks := l.plane.shaperMarks
  let l1 := l.forN 8 fun l q =>
    if l.rdB .Q_SHAPE_ENABLE p q then
      l.wrI .TOKENS (refillTokens (marks.get (9 * p + q)) (l.rd .Q_CHANGE_MODE p q) true (l.qTokens p q) (l.rd .Q_RATE p q)
        (l.rd .Q_BURST p q)) p q
    else l
  if l1.rdB .PORT_SHAPE_ENABLE p then
    l1.wrI .PORT_TOKENS (refillTokens (marks.get (9 * p + 8)) (l1.rd .PORT_CHANGE_MODE p) true (l1.rdI .PORT_TOKENS p)
      (l1.rd .PORT_RATE p) (l1.rd .PORT_BURST p)) p
  else l1

/-- Fields of a policer element (R417), a 256-bit value. -/
def polCir (v : Nat) : Nat := bits v 224 32
def polPir (v : Nat) : Nat := bits v 192 32
def polCbs (v : Nat) : Nat := bits v 160 32
def polEbs (v : Nat) : Nat := bits v 128 32
def polValid (v : Nat) : Bool := bit v 127
def polOwner (v : Nat) : Nat := bits v 124 3
def polTwoRate (v : Nat) : Bool := bit v 123
def polAware (v : Nat) : Bool := bit v 122
/-- The action for a colour (0 green, 1 yellow, 2 red), and the DSCP for REMARK (R413, R416). -/
def polAction (v c : Nat) : Nat := bits v (118 - 2 * c) 2
def polDscp (v c : Nat) : Nat := bits v (104 - 8 * c) 6

/-- The buckets of a policer set full (R419). -/
def Live.fillBuckets (l : Live) (e v : Nat) : Live :=
  l.setPlane fun x => { x with bucketC := x.bucketC.put e (polCbs v * 8), bucketE := x.bucketE.put e (polEbs v * 8) }

/-- One refill of a policer (R411). -/
def Live.refillPolicer (l : Live) (e v : Nat) : Live :=
  let c := l.plane.bucketC.get e + polCir v
  let capC := polCbs v * 8
  let capE := polEbs v * 8
  let gain := if polTwoRate v then polPir v else c - capC
  l.setPlane fun x => { x with bucketC := x.bucketC.put e (min c capC),
                               bucketE := x.bucketE.put e (min (x.bucketE.get e + gain) capE) }

/-- Phase 6: every policer and shaper receives one beat's refill (R409). -/
def Live.refill (l : Live) : Live :=
  if l.mode.engineOn then
    let l1 := l.forL (l.elems .POLICER_TABLE 0 32) fun l e => if polValid e.2 then l.refillPolicer e.1 e.2 else l
    (l1.forN 56 Live.refillPort).setPlane fun x => { x with shaperMarks := [] }
  else l.setPlane fun x => { x with shaperMarks := [] }

/-- A commit that enables a shaper, or changes its rate or burst, leaves a mark for the refill (R425, R426). -/
def Live.markShaper (l : Live) (p q mark : Nat) : Live :=
  l.setPlane fun x => { x with shaperMarks := x.shaperMarks.put (9 * p + q) (max mark (x.shaperMarks.get (9 * p + q))) }

/-- A SERVICE_MODE or STRICT_COUNT commit (R423).  The DRR pointer starts again at Q7 (DESIGN CHOICE, log 127). -/
def Live.serviceReset (l : Live) (p : Nat) : Live :=
  (l.forN 8 fun l q => l.wr .DEFICIT 0 p q).setPort p fun x =>
    { x with visited := 0, drrPtr := 7, tags := (List.range 8).foldl (fun t q => t.put q x.vtime) [] }

/-- Every bucket full, every deficit, tag and V 0 (R440). -/
def Live.queuesStart (l : Live) : Live :=
  l.forN 56 fun l p =>
    let l1 := l.forN 8 fun l q => (l.wr .DEFICIT 0 p q).wr .TOKENS (l.rd .Q_BURST p q * 8) p q
    (l1.wr .PORT_TOKENS (l1.rd .PORT_BURST p * 8) p).setPort p fun x =>
      { x with visited := 0, drrPtr := 7, vtime := 0, tags := [], tagOf := [] }

/-! ### Flush (R428) -/

def Live.flushQueues (l : Live) (p mask : Nat) : Live :=
  let qs := members 8 mask
  let sent := qs.filter fun q => (l.queue p q).any (l.inFlight p q)
  let l1 := l.forL qs fun l q =>
    let gone := (l.queue p q).filter fun e => !l.inFlight p q e
    let l1 := l.forL gone fun l e => ((l.queueDrop p q).count .FLUSH_DROPS_Q 1 p q).blk 16 .drops 1 p q (l.frame e.frame).tn
    l1.removeEntries p q fun e => !l.inFlight p q e
  ((l1.wr .FLUSH_IN_FLIGHT (maskOf sent) p).wr .LAST_FLUSH_BEAT l.now p).raise 416
    (u8 p ++ u64 (mask % 256) ++ u32 sent.length) (l.portOwner p)

/-! ### Sampling and averages (R368, R430, R431) -/

/-- The sojourn of a queue's head in nanoseconds, at 8 ns resolution. -/
def Live.sojourn (l : Live) (p q : Nat) : Nat :=
  match l.headOf p q with
  | none => 0
  | some e => min 0xFFFFFFFF ((l.ptpNs - (l.frame e.frame).admitted) / 8 * 8)

/-- The histogram bin of a sojourn (R431). -/
def sojournBin (ns : Nat) : Nat :=
  if ns = 0 then 0 else if ns < 256 then 1
  else ((List.range 13).find? fun k => ns < 2 ^ (k + 9)).elim 15 (· + 2)

/-- One queue's sample. -/
def Live.sampleQueue (l : Live) (slot p q : Nat) : Live :=
  let ns := l.sojourn p q
  let qn := 8 * p + q
  let bin := sojournBin ns
  let l1 := l.setPlane fun x =>
    { x with samples := x.samples.put (64 * qn + slot) (min 0xFFFFFFFF (l.depthBytes p q) * 2 ^ 32 + ns),
             hist := if bin = 0 then x.hist else x.hist.upd (16 * qn + bin) (· + 1) }
  let alarm := l.rd .SOJOURN_ALARM_NS
  if alarm ≠ 0 ∧ alarm < ns then l1.mark 419 (u8 p ++ u8 q) (l.portOwner p) else l1

/-- Phase 8: each queue's depth and sojourn (R430, R431). -/
def Live.sampleQueues (l : Live) : Live :=
  if l.mode.engineOn then
    let slot := l.elapsed % 64
    let l1 := l.setPlane fun x => { x with stamps := x.stamps.put slot l.now, sampled := x.sampled + 1 }
    l1.forN 56 fun l p => l.forN 8 fun l q => l.sampleQueue slot p q
  else l

/-- RING_Q and HIST_Q as they read (R430, R431). -/
def Live.ringOf (l : Live) (p q : Nat) : Nat :=
  (List.range 64).foldl (fun v s => v * 2 ^ 128 + l.plane.stamps.get s * 2 ^ 64 + l.plane.samples.get (64 * (8 * p + q) + s)) 0
def Live.histOf (l : Live) (p q : Nat) : Nat :=
  let qn := 8 * p + q
  let others := sumOf (fun b => l.plane.hist.get (16 * qn + 1 + b)) (List.range 15)
  (List.range 15).foldl (fun v b => v * 2 ^ 64 + l.plane.hist.get (16 * qn + 1 + b))
    (l.plane.sampled - l.plane.histFrom.get qn - others)

/-- HIST_CLEAR (R431). -/
def Live.histClear (l : Live) (p mask : Nat) : Live :=
  l.forL (members 8 mask) fun l q => l.setPlane fun x =>
    { x with histFrom := x.histFrom.put (8 * p + q) x.sampled,
             hist := x.hist.keep fun k _ => k / 16 != 8 * p + q }

/-- A truncated division, toward zero. -/
def truncDiv (a : Int) (b : Nat) : Int := a.tdiv b

/-- Phase 8: the WRED average of every queue (R368). -/
def Live.redAverage (l : Live) : Live :=
  if l.mode.engineOn then
    l.forN 56 fun l p => l.forN 8 fun l q =>
      let a := l.rd .AVG_DEPTH p q
      let d := l.depth p q
      if a = 0 ∧ d = 0 then l
      else
        let prof := l.rd .WRED_PROFILE p q
        let w := if prof = 0xFF then 4 else l.rd .WEIGHT prof
        l.wr .AVG_DEPTH (((a : Int) + truncDiv ((256 * d : Nat) - (a : Int)) (2 ^ w)).toNat) p q
  else l

end Sys2Proof.Machine
end

