-- ==== Sys2Proof/Machine/Admit.lean ====
section
/-! DEFINITION. Admission: headroom, quotas, queue limits, WRED, storage (R355 to R371). -/

namespace Sys2Proof.Machine

open Sys2Proof

/-- Reserved headroom of a tenancy for frames of ingress beat `b` (R43, R364). -/
def Live.reservedHeadroom (l : Live) (b n : Nat) : Nat :=
  sumOf (fun p =>
    if l.portOwnerAt b p = n then
      let on := l.rdAt b .PFC_TX_ENABLE p
      sumOf (fun q => if bit on q then l.rdAt b .HEADROOM p q else 0) (List.range 8)
    else 0) (List.range 52)

/-- The general limit of a tenancy for frames of ingress beat `b` (R43, R364): subindex 9 of the quotas is CELLS. -/
def Live.generalLimit (l : Live) (b n : Nat) : Nat := l.rdAt b .EFFECTIVE_QUOTA n 9 - l.reservedHeadroom b n

/-- The general use of a tenancy (R364). -/
def Live.generalUse (l : Live) (n : Nat) : Nat := l.cellUse n - l.headroomOf n

/-- A drop of admission at a destination queue (R363). -/
def Live.admitDrop (l : Live) (f : Frame) (d : Nat) (cause : Obj) : Live :=
  (((l.queueDrop d f.tc).count cause 1 d).count .ADMIT_DROPS 1 f.tn).blk 13 .drops 1 d f.tc f.tn

/-- A copy is written to a memory: it counts toward the fabric's writes of the beat (R360). -/
def Live.fabricWrite (l : Live) (bytes : Nat) : Live :=
  l.setPlane fun x => { x with wroteBytes := x.wroteBytes + bytes, wroteFrames := x.wroteFrames + 1 }

/-- The writes of a beat exceed 512 Gb/s or 380 million frames a second, over a beat of 125 µs (R360; log 125). -/
def Live.fabricOver (l : Live) : Bool := 8000000 < l.plane.wroteBytes || 47500 < l.plane.wroteFrames

/-! ### WRED (R368 to R370) -/

/-- MIN, MAX and PMAX of a colour in a profile. -/
def Live.wredColour (l : Live) (b prof c : Nat) : Nat × Nat × Nat :=
  match c with
  | 0 => (l.rdAt b .GREEN_MIN prof, l.rdAt b .GREEN_MAX prof, l.rdAt b .GREEN_PMAX prof)
  | 1 => (l.rdAt b .YELLOW_MIN prof, l.rdAt b .YELLOW_MAX prof, l.rdAt b .YELLOW_PMAX prof)
  | _ => (l.rdAt b .RED_MIN prof, l.rdAt b .RED_MAX prof, l.rdAt b .RED_PMAX prof)

/-- P in units of 0.1 % (R369). -/
def wredP (avg : Nat) (m : Nat × Nat × Nat) : Nat :=
  if m.2.1 ≤ m.1 then (if avg < m.1 then 0 else 1000)
  else if avg < m.1 then 0
  else if avg < m.2.1 then m.2.2 * (avg - m.1) / (m.2.1 - m.1)
  else 1000

/-- The step-3 tests that a queue has made for frames of an ingress beat. -/
def Live.testsOf (l : Live) (d q ingress : Nat) : Nat :=
  match (l.portRt d).tests.find? fun t => t.1 == q && t.2.1 == ingress with
  | some t => t.2.2
  | none => 0

/-- One more step-3 test. -/
def Live.countTest (l : Live) (d q ingress : Nat) : Live :=
  let n := l.testsOf d q ingress
  l.setPort d fun x => { x with
    tests := (q, ingress, n + 1) :: x.tests.filter fun t => !(t.1 == q && t.2.1 == ingress) && decide (l.ticks < t.2.1 + 64) }

/-- The draw u (R369). -/
def wredDraw (seed beat qn n : Nat) : Nat := crc32 (u32 seed ++ u64 beat ++ u16 qn ++ u32 n) % 65536

/-- What step 3 decides for a frame at a destination: take it, take it with an ECN mark, or drop. -/
inductive Wred where
  | pass | mark | drop
deriving DecidableEq, Repr

/-- Step 3 (R369, R370). -/
def Live.wred (l : Live) (f : Frame) (d : Nat) : Wred × Live :=
  let q := f.tc
  let prof := l.rdAt f.ingress .WRED_PROFILE d q
  if prof = 0xFF then (.pass, l)
  else
    let p := wredP (l.rd .AVG_DEPTH d q / 256) (l.wredColour f.ingress prof (wColour f.word))
    let u := wredDraw (l.rdAt f.ingress .FABRIC_SEED) f.beat (8 * d + q) (l.testsOf d q f.ingress)
    let l1 := l.countTest d q f.ingress
    let x := parse f.bytes
    if p * 65536 / 1000 ≤ u then (.pass, l1)
    else if l.rdAtB f.ingress .ECN prof ∧ x.ip ≠ 0 ∧ x.ecn ≠ 0 ∧ p < 1000 then
      if x.ecn = 3 then (.pass, l1)
      else (.mark, ((l1.count .ECN_MARKED_0810 1 d).count .ECN_MARKED_0850 1 f.tn).blk 13 .signalB 1 d q f.tn)
    else (.drop, l1)

/-- The drop counter of a colour (R363). -/
def wredCounter (c : Nat) : Obj :=
  match c with
  | 0 => .WRED_DROPS_GREEN
  | 1 => .WRED_DROPS_YELLOW
  | _ => .WRED_DROPS_RED

/-- Step 3 with its drop counted: whether the frame goes on, and its ECN mark. -/
def Live.wredTest (l : Live) (f : Frame) (d : Nat) : Option Bool × Live :=
  match l.wred f d with
  | (.pass, l1) => (some false, l1)
  | (.mark, l1) => (some true, l1)
  | (.drop, l1) => (none, (l1.admitDrop f d (wredCounter (wColour f.word))).blk 13 .signalA 1 d f.tc f.tn)

/-! ### Uplink output memories (R355, R356) -/

/-- Writer speed in bits per nanosecond: twice the line rate, of the last link when none is up. -/
def Live.writerRate (l : Live) (u : Nat) : Nat :=
  let s := if l.rd .LINK_SPEED_0401 u = 0 then (l.portRt u).lastSpeed else l.rd .LINK_SPEED_0401 u
  if s = 10000 then 20 else 50

/-- Bits that the staging area still holds now. -/
def Live.stagedNow (l : Live) (u : Nat) : Nat :=
  let r := l.portRt u
  r.staged - (l.nowNs - r.stagedAt) * l.writerRate u

/-- Steps 2 and 3 at an uplink, and storage in its memory. -/
def Live.admitUplink (l : Live) (f : Frame) (u : Nat) : Live :=
  let q := f.tc
  let l0 := l.blk 13 .eventsIn 1 u q f.tn
  let full := cdiv (l0.stagedNow u) 2048 + f.cells
  if l0.rdAt f.ingress .QUEUE_LIMIT u q < l0.depth u q + f.cells ∨ l0.uplinkFree u < f.cells then l0.admitDrop f u .LIMIT_DROPS
  else if 256 < full then
    (((l0.admitDrop f u .LIMIT_DROPS).count .STAGING_DROPS 1 u).blk 15 .drops 1 u q f.tn).mark 295
  else
    match l0.wredTest f u with
    | (none, l1) => l1
    | (some mark, l1) =>
      let h := l1.plane.nextFrame
      let staged := l1.stagedNow u + f.cells * 2048
      let l2 := (l1.setFrame h { f with uplink := some u, refs := 1, admitted := l1.nowNs, charged := false, headroom := false })
      let l3 := (l2.setPlane fun x => { x with nextFrame := h + 1 }).setPort u fun x =>
        { x with staged := staged, stagedAt := l2.nowNs }
      let l4 := (l3.setQueue u q (l3.queue u q ++ [({ frame := h, ecn := mark } : QEntry)])).fabricWrite f.bytes.length
      let l5 := ((l4.wr .UPLINK_FREE (l4.uplinkFree u) 0 (u - 48)).blk 15 .eventsIn 1 u q f.tn).blk 15 .bytesIn f.bytes.length u q f.tn
      (l5.blk 13 .eventsOut 1 u q f.tn).kick u

/-! ### Cell memory (R362) -/

/-- What the headroom step and step 1 decide. -/
inductive Entry where
  | general | headroom | quota | noCell
deriving DecidableEq, Repr

/-- The headroom step and step 1 for a frame toward `dests` in cell memory; copies of R359 draw on no headroom. -/
def Live.stepOne (l : Live) (f : Frame) (dests : List Nat) (copy : Bool) : Entry × Live :=
  let q := f.tc
  let wants := !copy && decide (f.port < 52) && bit (l.rd .XOFF_TX f.port) q && bit (l.rdAt f.ingress .PFC_TX_ENABLE f.port) q
  let fits := decide (l.headroomUse f.port q + f.cells ≤ l.rdAt f.ingress .HEADROOM f.port q)
  if wants ∧ fits then (if l.cellsFree < f.cells then (.noCell, l) else (.headroom, l))
  else
    let l1 := if wants then (l.forL dests fun l d => l.count .HEADROOM_MISSES 1 d).raise 291 (u8 f.port ++ u8 q) f.tn else l
    if l1.generalLimit f.ingress f.tn < l1.generalUse f.tn + f.cells then (.quota, l1)
    else if l1.cellsFree < f.cells then (.noCell, l1)
    else (.general, l1)

/-- Steps 2 and 3 at each cell-memory destination: the entries admitted. -/
def Live.stepTwo (l : Live) (f : Frame) (headroom : Bool) (dests : List Nat) : List (Nat × Bool) × Live :=
  dests.foldl (fun (acc : List (Nat × Bool) × Live) d =>
    let l := acc.2.blk 13 .eventsIn 1 d f.tc f.tn
    if l.entriesFree ≤ acc.1.length then (acc.1, l.admitDrop f d .LIMIT_DROPS)
    else if headroom then (acc.1 ++ [(d, false)], l)
    else if l.rdAt f.ingress .QUEUE_LIMIT d f.tc < l.depth d f.tc + f.cells then (acc.1, l.admitDrop f d .LIMIT_DROPS)
    else
      match l.wredTest f d with
      | (none, l1) => (acc.1, l1)
      | (some mark, l1) => (acc.1 ++ [(d, mark)], l1)) ([], l)

/-- Storage of a frame in cell memory, with step 4 (R362). -/
def Live.storeCell (l : Live) (f : Frame) (headroom copy : Bool) (es : List (Nat × Bool)) : Live :=
  let h := l.plane.nextFrame
  let charged := !copy && decide (f.port < 52)
  let rec_ := { f with uplink := none, refs := es.length, admitted := l.nowNs, charged := charged, headroom := headroom }
  let l1 := ((l.setFrame h rec_).setPlane fun x => { x with nextFrame := h + 1 }).fabricWrite f.bytes.length
  let l2 := l1.forL es fun l e =>
    ((l.setQueue e.1 f.tc (l.queue e.1 f.tc ++ [({ frame := h, ecn := e.2 } : QEntry)])).blk 13 .eventsOut 1 e.1 f.tc f.tn).blk
      14 .signalB 1 e.1 f.tc f.tn
  let first := (es.head?.map Prod.fst).getD 0
  let l3 := (l2.blk 14 .eventsIn f.cells first f.tc f.tn).showCells
  let l4 := if headroom then l3.blk 14 .signalA 1 first f.tc f.tn else l3
  let l5 := if charged then l4.pfcEval f.port f.tc else l4
  l5.forL es fun l e => l.kick e.1

/-- Admission of one frame, or one INPUT copy, to its destinations in cell memory. -/
def Live.admitCell (l : Live) (f : Frame) (dests : List Nat) (copy : Bool) : Live :=
  if dests.isEmpty then l
  else
    match l.stepOne f dests copy with
    | (.quota, l1) => (l1.forL dests fun l d => (l.blk 13 .eventsIn 1 d f.tc f.tn).admitDrop f d .QUOTA_DROPS).mark 289 (u8 f.tn) f.tn
    | (.noCell, l1) => (l1.forL dests fun l d => (l.blk 13 .eventsIn 1 d f.tc f.tn).admitDrop f d .NO_CELL_DROPS).raise 290
    | (.general, l1) =>
      let r := l1.stepTwo f false dests
      if r.1.isEmpty then r.2 else r.2.storeCell f false copy r.1
    | (.headroom, l1) =>
      let r := l1.stepTwo f true dests
      if r.1.isEmpty then r.2 else r.2.storeCell f true copy r.1

/-- Admission of a frame to a set of ports (R357, R362); in CONFIGURE port C alone is served (R380). -/
def Live.enterFabric (l : Live) (f : Frame) (dests : List Nat) (copy : Bool := false) : Live :=
  if l.mode = .freeze then l
  else
    let ds := dests.filter l.portServed
    let l1 := l.admitCell f (ds.filter fun d => !isUplink d) copy
    (ds.filter isUplink).foldl (fun l u => l.admitUplink f u) l1

/-- INPUT replication: a copy for each destination, each admitted as a frame of its own (R358). -/
def Live.admitEach (l : Live) (f : Frame) (dests : List Nat) : Live := l.forL dests fun l d => l.enterFabric f [d]

/-! ### Levels and objects of the fabric (R364, R372 to R376) -/

/-- HEADROOM_USED of a port: priority 7 first. -/
def Live.headroomUsed (l : Live) (p : Nat) : Nat :=
  (List.range 8).foldl (fun v k => v * 65536 + l.headroomUse p (7 - k)) 0

/-- Level conditions of the fabric that stand (R376). -/
def Live.fabricLevels (l : Live) : List (Nat × Nat × List Byte) :=
  let on := fun (c : Bool) (src : Nat) => (if c then [(src, 0, [])] else [] : List (Nat × Nat × List Byte))
  if l.mode.evaluates then
    on (l.rd .CELLS_FREE < l.rd .FREE_ALARM) 288
      ++ on ((List.range 8).any fun n => l.rd .EFFECTIVE_QUOTA n 9 < l.reservedHeadroom l.ticks n) 292
      ++ on (l.entriesFree < 4096) 293
      ++ on ((l.plane.frames.filterMap fun e => e.2).any fun f => f.poisoned) 296
  else []

end Sys2Proof.Machine
end

