-- ==== Sys2Proof/Machine/Mac.lean ====
section
/-! DEFINITION. The MAC table: lookup, learning, moves, aging, host operations and flushes (R309 to R326, R342, R343). -/

namespace Sys2Proof.Machine

open Sys2Proof

def Live.setFwd (l : Live) (f : Fwd → Fwd) : Live := l.setPlane fun x => { x with fwd := f x.fwd }

/-! ### Entries and destination codes (R310, R311) -/

/-- A MAC entry's fields. -/
structure MacEntry where
  static : Bool
  tn : Nat
  fid : Nat
  mac : Nat
  dest : Nat
  prev : Nat
  age : Nat
  effective : Nat
  flag : Bool := false
  moves : Nat := 0
deriving DecidableEq, Repr, Inhabited

def destAbsent : Nat := 0x0FFE
def destDiscard : Nat := 0x0FFF

/-- The 16 bytes of a valid entry. -/
def MacEntry.pack (e : MacEntry) : Nat :=
  2 ^ 127 + e.static.toNat * 2 ^ 126 + e.tn % 8 * 2 ^ 123 + e.fid % 4096 * 2 ^ 111 + e.mac % 2 ^ 48 * 2 ^ 63
    + e.dest % 8192 * 2 ^ 50 + e.prev % 8192 * 2 ^ 37 + e.age % 65536 * 2 ^ 21 + e.effective % 256 * 2 ^ 13
    + e.flag.toNat * 2 ^ 12 + min e.moves 15 * 2 ^ 8

def MacEntry.unpack (v : Nat) : MacEntry :=
  { static := bit v 126, tn := bits v 123 3, fid := bits v 111 12, mac := bits v 63 48, dest := bits v 50 13,
    prev := bits v 37 13, age := bits v 21 16, effective := bits v 13 8, flag := bit v 12, moves := bits v 8 4 }

/-- Whether a location is in use. -/
def macUsed (v : Nat) : Bool := bit v 127

/-! ### Locations (R309) -/

def wayLoc (seed fid mac w : Nat) : Nat :=
  65024 * w + crc32From (seed ^^^ (0x11111111 * (w + 1))) (u16 fid ++ u48 mac) % 65024

def Live.wayLocs (l : Live) (fid mac : Nat) : List Nat := (List.range 4).map (wayLoc (l.rd .MAC_HASH_SEED) fid mac)

def Live.macAt (l : Live) (loc : Nat) : Nat := l.elem .MAC_TABLE loc
def Live.setMac (l : Live) (loc : Nat) (e : MacEntry) : Live := l.setElem .MAC_TABLE loc e.pack

/-- Locations of the overflow CAM in use, ascending. -/
def Live.camLocs (l : Live) : List Nat := (l.elems .MAC_TABLE 2032 16).map fun e => e.1 + 260096

/-- Every location in use, with its entry, ascending. -/
def Live.macAll (l : Live) : List (Nat × MacEntry) := (l.elems .MAC_TABLE 0 2048).map fun e => (e.1, MacEntry.unpack e.2)

/-- The location that holds a key. -/
def Live.macFind (l : Live) (fid mac : Nat) : Option (Nat × MacEntry) :=
  ((l.wayLocs fid mac ++ l.camLocs).find? fun loc =>
    let v := l.macAt loc
    macUsed v && bits v 111 12 == fid && bits v 63 48 == mac).map fun loc => (loc, MacEntry.unpack (l.macAt loc))

/-- The elapsed count, modulo 256, of the beat whose count of beats is `b`. -/
def Live.elapsed8 (l : Live) (b : Nat) : Nat := ((l.elapsed : Int) - ((l.ticks : Int) - b)).emod 256 |>.toNat

/-- The destination that a frame of ingress count `c` reads (R312). -/
def MacEntry.destFor (e : MacEntry) (c : Nat) : Option Nat :=
  let d := if (c + 256 - e.effective) % 256 < 128 then e.dest else e.prev
  if d = destAbsent then none else some d

/-- A lookup for a frame of ingress beat `b` (R312). -/
def Live.macLookup (l : Live) (b fid mac : Nat) : Option (MacEntry × Nat) :=
  match l.macFind fid mac with
  | none => none
  | some (_, e) => (e.destFor (l.elapsed8 b)).map fun d => (e, d)

/-! ### Counts (R318, R342) -/

/-- The source destination of a port: LAG n when it is in LAG n's MEMBERS, LAG0 first (R255, R316). -/
def Live.sourceOf (l : Live) (b p : Nat) : Nat :=
  if isUplink p then
    if bit (l.rdAt b .MEMBERS 0) (p - 48) then 0x40 else if bit (l.rdAt b .MEMBERS 1) (p - 48) then 0x41 else p
  else p

/-- The port at which entries of a destination count in LEARNED: a LAG's lowest-numbered member. -/
def Live.countPort (l : Live) (d : Nat) : Nat :=
  if d = 0x40 ∨ d = 0x41 then 48 + (((List.range 4).find? fun k => l.sourceOf l.ticks (48 + k) = d).getD 0) else d

/-- MAC_USED, CAM_USED, LEARNED and the tenancies' usage, as frames of earlier beats still read them. -/
def Live.showMac (l : Live) : Live :=
  let all := l.macAll
  let live := all.filter fun e => e.2.dest != destAbsent
  let ports := live.foldl (fun (t : Tbl Nat) e => if e.2.static then t else t.upd (l.countPort e.2.dest) (· + 1)) []
  let tns := live.foldl (fun (t : Tbl Nat) e => t.upd e.2.tn (· + 1)) []
  let l1 := (l.wr .MAC_USED all.length).wr .CAM_USED (all.filter fun e => 260096 ≤ e.1).length
  let l2 := l1.forN 52 fun l p => l.wrV .LEARNED (ports.get p) p
  l2.forN 8 fun l n => l.wrV .QUOTA_USAGE (tns.get n) n 4

/-- MAC usage and LEARNED now. -/
def Live.macUse (l : Live) (n : Nat) : Nat :=
  ((l.macAll).filter fun e => e.2.dest != destAbsent && e.2.tn == n).length
def Live.learnedNow (l : Live) (p : Nat) : Nat :=
  ((l.macAll).filter fun e => !e.2.static && e.2.dest != destAbsent && l.countPort e.2.dest == p).length

/-! ### Changes (R313 to R315) -/

/-- The visible beats of the changes of an entry at `loc`: the last one made, and those that still wait. -/
def Live.macVisible (l : Live) (loc : Nat) (e : MacEntry) : List Nat :=
  (l.plane.fwd.visible.find? loc).toList
    ++ (l.plane.fwd.later.filter fun c => c.fid == e.fid && c.mac == e.mac).map (·.at_)

/-- Whether a change of an entry with visible beat `v` keeps 64 beats from every other (R315). -/
def Live.macFree (l : Live) (loc v : Nat) (e : MacEntry) : Bool := (l.macVisible loc e).all fun u => decide (u + 64 ≤ v)

/-- The first visible beat from `v` on that R315 leaves a change of an entry. -/
def Live.macNext (l : Live) (loc v : Nat) (e : MacEntry) : Nat := (l.macVisible loc e).foldl (fun m u => max m (u + 64)) v

/-- An entry's destination changes with visible beat `v`, a count of beats (R313). -/
def Live.macChange (l : Live) (loc v : Nat) (e : MacEntry) (dest : Nat) : Live :=
  let e1 := { e with prev := e.dest, dest := dest, effective := l.elapsed8 v }
  (l.setMac loc e1).setFwd fun x => { x with settle := x.settle ++ [(v, loc)], visible := Tbl.ins (x.visible.del loc) loc v }

/-- The lowest free location for a key: the ways in order, then the CAM (R320). -/
def Live.freeLoc (l : Live) (fid mac : Nat) : Option Nat :=
  match (l.wayLocs fid mac).find? fun loc => !macUsed (l.macAt loc) with
  | some loc => some loc
  | none =>
    let used := l.camLocs
    (((List.range 2048).map (260096 + ·)).find? fun loc => !used.contains loc)

/-- A creation with visible beat `v` (R313). -/
def Live.macCreate (l : Live) (loc v : Nat) (e : MacEntry) : Live :=
  l.macChange loc v { e with dest := destAbsent } e.dest

/-- A location becomes free for another key. -/
def Live.macErase (l : Live) (loc : Nat) : Live :=
  (l.setElem .MAC_TABLE loc 0).setFwd fun x =>
    { x with visible := x.visible.del loc, settle := x.settle.filter fun s => s.2 != loc }

/-- A change of an entry with visible beat `v`, or with the first beat after it that R315 leaves. -/
def Live.macSet (l : Live) (loc v : Nat) (e : MacEntry) (dest : Nat) : Live :=
  if l.macFree loc v e then l.macChange loc v e dest
  else l.setFwd fun x => { x with later := x.later ++
    [{ at_ := l.macNext loc v e, tn := e.tn, fid := e.fid, mac := e.mac, dest := dest, static := e.static }] }

/-- Remove an entry with visible beat `v`, or later where R315 asks. -/
def Live.macRemove (l : Live) (loc v : Nat) (e : MacEntry) : Live := l.macSet loc v e destAbsent

/-- Changes that waited for their visible beat (R315). -/
def Live.macLater (l : Live) (c : MacLater) : Live :=
  match l.macFind c.fid c.mac with
  | some (loc, e) => l.macChange loc (max c.at_ l.ticks) { e with static := c.static, tn := c.tn } c.dest
  | none =>
    if c.dest = destAbsent then l
    else
      match l.freeLoc c.fid c.mac with
      | some loc => l.macCreate loc (max c.at_ l.ticks)
          { static := c.static, tn := c.tn, fid := c.fid, mac := c.mac, dest := c.dest, prev := 0, age := 0, effective := 0 }
      | none => l

/-- The change of a location with visible beat `v` settles (R314).  Where the location has changed again, its PREV_DEST already
holds what that change wrote; where a change of the same key waits, the location stays its own. -/
def Live.macSettle (l : Live) (v loc : Nat) : Live :=
  let e := MacEntry.unpack (l.macAt loc)
  if !macUsed (l.macAt loc) ∨ l.plane.fwd.visible.find? loc ≠ some v then l
  else if e.dest = destAbsent ∧ ¬ l.plane.fwd.later.any fun c => c.fid == e.fid && c.mac == e.mac then l.macErase loc
  else l.setMac loc { e with prev := e.dest }

/-- Changes whose visible beat lies 64 beats back settle, removed locations are freed, and changes that waited take
effect (R314, R315). -/
def Live.settle (l : Live) : Live :=
  let due := l.plane.fwd.settle.filter fun s => s.1 + 64 ≤ l.ticks
  let l1 := l.setFwd fun x => { x with settle := x.settle.filter fun s => l.ticks < s.1 + 64 }
  let l2 := l1.forL due fun l s => l.macSettle s.1 s.2
  let now := l2.plane.fwd.later.filter fun c => c.at_ ≤ l.ticks
  let l3 := l2.setFwd fun x => { x with later := x.later.filter fun c => l.ticks < c.at_ }
  (l3.forL now Live.macLater).showMac

/-- Changes settle where some are due (R314). -/
def Live.settleStep (l : Live) : Live :=
  let due := l.plane.fwd.settle.any (fun s => s.1 + 64 ≤ l.ticks) || l.plane.fwd.later.any fun c => c.at_ ≤ l.ticks
  if due ∧ l.mode ≠ .freeze then l.settle else l

def execSettle (s : State) : Host.Outcome State Fault Refusal :=
  s.effect Live.settleStep

/-! ### Learning (R316 to R321) -/

/-- AGE_STAMP of a count of beats: units of 8,192 elapsed beats. -/
def Live.stampOf (l : Live) (b : Nat) : Nat := ((l.elapsed : Int) - ((l.ticks : Int) - b)).toNat / 8192 % 65536

/-- Refuse a learn request (R315, R318, R320). -/
def Live.learnRefused (l : Live) (r : Learn) : Live :=
  (l.count .LEARN_REFUSED 1 r.port).blk 10 .drops 1 r.port 0 r.tn

/-- A request that finds no entry (R318, R320), or at `held` one of the same key that is removed but not yet free (DEDUCED from
R313: the location is kept from other keys only; log 123). -/
def Live.learnNew (l : Live) (r : Learn) (v : Nat) (held : Option Nat) : Live :=
  if l.rd .EFFECTIVE_QUOTA r.tn 4 ≤ l.macUse r.tn then (l.learnRefused r).raise 385 [] r.tn
  else if l.rd .LEARN_LIMIT r.port ≤ l.learnedNow (l.countPort r.dest) then (l.learnRefused r).raise 386 [] r.tn
  else
    match held.or (l.freeLoc r.fid r.mac) with
    | none => ((l.learnRefused r).count .TABLE_FULL_REFUSALS).mark 384
    | some loc =>
      ((l.macCreate loc v { static := false, tn := r.tn, fid := r.fid, mac := r.mac, dest := r.dest, prev := 0,
                            age := l.stampOf r.ingress, effective := 0 }).blk 10 .eventsOut 1 r.port 0 r.tn).blk 10 .signalB 1
        r.port 0 r.tn

/-- A request that moves an entry (R315, R321). -/
def Live.learnMove (l : Live) (r : Learn) (v loc : Nat) (e : MacEntry) : Live :=
  if ¬ l.macFree loc v e then l.learnRefused r
  else
    let n := min 15 (e.moves + 1)
    if e.flag ∧ l.rd .MOVE_ACTION 0 0 e.tn = 1 then (l.setMac loc { e with moves := n }).learnRefused r
    else
      let trips := n = 9 ∧ e.moves = 8
      let e1 := { e with moves := n, flag := e.flag || decide trips, age := l.stampOf r.ingress, tn := r.tn }
      let l1 := (((l.macChange loc v e1 r.dest).count .MOVES_IN 1 r.port).blk 10 .eventsOut 1 r.port 0 r.tn).blk 10 .signalA 1
        r.port 0 r.tn
      if trips then l1.raise 388 [] r.tn else l1

/-- One learn request against the entry as it stands (R317). -/
def Live.learnOne (l : Live) (r : Learn) : Live :=
  let v := max (r.ingress + 64) (l.ticks + 1)
  match l.macFind r.fid r.mac with
  | none => l.learnNew r v none
  | some (loc, e) =>
    if e.dest = destAbsent then if l.macFree loc v e then l.learnNew r v (some loc) else l.learnRefused r
    else if e.static then l
    else if e.dest = r.dest then
      let s := l.stampOf r.ingress
      let l1 := l.blk 10 .eventsOut 1 r.port 0 r.tn
      if (s + 65536 - e.age) % 65536 < 32768 then l1.setMac loc { e with age := s } else l1
    else l.learnMove r v loc e

/-- Requests of one beat with equal key and source merge into one (R317). -/
def mergeLearns : List Learn → List Learn → List Learn
  | acc, [] => acc.reverse
  | acc, r :: rs =>
    if acc.any fun a => a.ingress == r.ingress && a.fid == r.fid && a.mac == r.mac && a.dest == r.dest then mergeLearns acc rs
    else mergeLearns (r :: acc) rs

/-- The learn requests of ingress beat b at the boundary of b + 63, in ascending port, then in order (R317). -/
def Live.learnApply (l : Live) : Live :=
  let due := l.plane.fwd.learns.filter fun r => r.ingress + 63 ≤ l.ticks
  let l1 := l.setFwd fun x => { x with learns := x.learns.filter fun r => l.ticks < r.ingress + 63 }
  let sorted := sortBy (·.ingress) (sortBy (·.port) due)
  ((l1.forL (mergeLearns [] sorted) Live.learnOne)).showMac

/-- The learn unit works where requests are due (R317). -/
def Live.learnStep (l : Live) : Live :=
  if l.mode.running ∧ l.plane.fwd.learns.any (fun r => r.ingress + 63 ≤ l.ticks) then l.learnApply else l

def execLearnApply (s : State) : Host.Outcome State Fault Refusal :=
  s.effect Live.learnStep

/-- A damping window ends (R321). -/
def Live.dampingEnd (l : Live) : Live :=
  l.forL l.macAll fun l x =>
    let e := x.2
    if e.moves = 0 ∧ ¬ e.flag then l
    else
      let clears := e.flag && decide (e.moves < 9)
      let l1 := l.setMac x.1 { e with moves := 0, flag := e.flag && !clears }
      if clears then l1.raise 389 [] e.tn else l1

/-- A damping window ends where the elapsed-beat count is a multiple of 8,000 (R321). -/
def Live.dampingStep (l : Live) : Live :=
  if l.mode.engineOn ∧ l.elapsed % 8000 = 0 ∧ l.plane.fwd.dampedAt ≠ some l.ticks then
    l.dampingEnd.setFwd fun x => { x with dampedAt := some l.ticks }
  else l

def execDampingWindowEnd (s : State) : Host.Outcome State Fault Refusal :=
  s.effect Live.dampingStep

/-! ### Aging (R322, R323) -/

/-- Whether an entry's age reaches AGE_TIME of its tenancy. -/
def Live.aged (l : Live) (e : MacEntry) : Bool :=
  let limit := cdiv (l.rd .AGE_TIME 0 0 e.tn * 1000) 1024
  !e.static && e.dest != destAbsent && decide (limit ≤ (l.elapsed / 8192 + 65536 - e.age) % 65536)

/-- The sweep's visit of a location: an aged entry is removed with the next beat visible, unless R315 makes it wait. -/
def Live.ageVisit (l : Live) (loc : Nat) : Live :=
  let v := l.macAt loc
  let e := MacEntry.unpack v
  if macUsed v ∧ l.aged e ∧ l.macFree loc (l.ticks + 1) e then l.macChange loc (l.ticks + 1) e destAbsent else l

/-- Phase 8: the next 256 locations. -/
def Live.agingSweep (l : Live) : Live :=
  if l.mode.engineOn then
    let pos := l.rd .SWEEP_POSITION
    let hit := (l.macAll).filter fun e => pos ≤ e.1 && e.1 < pos + 256
    let l1 := l.forL hit fun l e => l.ageVisit e.1
    (if hit.isEmpty then l1 else l1.showMac).wr .SWEEP_POSITION ((pos + 256) % 262144)
  else l

def execAgeOut (loc : Fin 262144) (s : State) : Host.Outcome State Fault Refusal :=
  s.effect fun l => if l.mode.engineOn then (l.ageVisit loc.val).showMac else l

/-- The origin strobe sets AGE_STAMP of every dynamic entry to 0 (R323). -/
def Live.clearAges (l : Live) : Live :=
  l.forL l.macAll fun l x => if x.2.static then l else l.setMac x.1 { x.2 with age := 0 }

/-! ### Host operations (R324, R343) -/

/-- OP_RESULT codes. -/
def opDone := 1
def opNotFound := 2
def opNoRoom := 3
def opDenied := 4
def opOverQuota := 5
def opQueued := 6

/-- The destination code that a MAC_OP record names (R311, R343). -/
def Live.opDest (l : Live) (rank : Nat) : Nat :=
  let n := l.rd .OP_DEST_NUMBER 0 0 rank
  match l.rd .OP_DEST_KIND 0 0 rank with
  | 0 => min n 55
  | 1 => 0x40 + min n 1
  | 2 => 0x1000 + min n 4095
  | _ => destDiscard

/-- Tenancy of a group element (R337). -/
def groupTn (v : Nat) : Nat := bits v 56 3

/-- Whether a master acting for `tn` may name a destination (R178, R324). -/
def Live.opDestAllowed (l : Live) (tn d : Nat) : Bool :=
  tn == 0 || (if 0x1000 ≤ d then groupTn (l.elem .GROUP_TABLE (d - 0x1000)) == tn else l.destAllowed l.ticks tn d)

/-- Report a MAC_OP (R324, R343). -/
def Live.opReport (l : Live) (rank op result loc eff : Nat) : Live :=
  (((l.wr .OP_RESULT result 0 0 rank).wr .OP_LOCATION loc 0 0 rank).wr .OP_EFFECTIVE eff 0 0 rank).raise 391
    (u8 rank ++ u8 op ++ u8 result ++ u32 loc ++ u64 eff) (l.masterTenancy rank)

/-- The beat number of a count of beats at or after now. -/
def Live.beatOf (l : Live) (tick : Nat) : Nat := l.now + (tick - l.ticks)

def noLoc : Nat := 0xFFFFFFFF

/-- ADD_STATIC (R324). -/
def Live.addStatic (l : Live) (rank tn : Nat) : Live :=
  let fid := l.rd .OP_FID 0 0 rank
  let mac := l.rd .OP_MAC 0 0 rank
  let dest := l.opDest rank
  let owner := l.vidOwner fid
  if tn ≠ 0 ∧ (owner ≠ tn ∨ ¬ l.opDestAllowed tn dest) then l.opReport rank 1 opDenied noLoc l.now
  else
    match l.macFind fid mac with
    | some (loc, e) =>
      if e.dest = destAbsent ∧ l.rd .EFFECTIVE_QUOTA owner 4 ≤ l.macUse owner then l.opReport rank 1 opOverQuota noLoc l.now
      else
        ((l.macSet loc l.ticks { e with static := true, tn := owner } dest).showMac.markDirty).opReport rank 1 opDone loc
          (l.beatOf (l.macNext loc l.ticks e))
    | none =>
      if l.rd .EFFECTIVE_QUOTA owner 4 ≤ l.macUse owner then l.opReport rank 1 opOverQuota noLoc l.now
      else
        match l.freeLoc fid mac with
        | none => l.opReport rank 1 opNoRoom noLoc l.now
        | some loc =>
          ((l.macCreate loc l.ticks { static := true, tn := owner, fid := fid, mac := mac, dest := dest, prev := 0, age := 0,
                                      effective := 0 }).showMac.markDirty).opReport rank 1 opDone loc l.now

/-- DELETE (R324). -/
def Live.macDelete (l : Live) (rank tn : Nat) : Live :=
  let fid := l.rd .OP_FID 0 0 rank
  if tn ≠ 0 ∧ l.vidOwner fid ≠ tn then l.opReport rank 2 opDenied noLoc l.now
  else
    match l.macFind fid (l.rd .OP_MAC 0 0 rank) with
    | some (loc, e) =>
      if e.dest = destAbsent then l.opReport rank 2 opNotFound noLoc l.now
      else
        (((l.macRemove loc l.ticks e).showMac).when e.static Live.markDirty).opReport rank 2 opDone loc
          (l.beatOf (l.macNext loc l.ticks e))
    | none => l.opReport rank 2 opNotFound noLoc l.now

/-- FIND (R324). -/
def Live.macFindOp (l : Live) (rank tn : Nat) : Live :=
  let fid := l.rd .OP_FID 0 0 rank
  if tn ≠ 0 ∧ l.vidOwner fid ≠ tn then l.opReport rank 3 opDenied noLoc l.now
  else
    match l.macFind fid (l.rd .OP_MAC 0 0 rank) with
    | some (loc, e) => if e.dest = destAbsent then l.opReport rank 3 opNotFound noLoc l.now else l.opReport rank 3 opDone loc l.now
    | none => l.opReport rank 3 opNotFound noLoc l.now

/-- Room for another flush criterion: at most 16 wait (R325). -/
def Live.flushRoom (l : Live) : Bool := l.plane.fwd.flushes.length < 16

/-- Queue a flush criterion (R325). -/
def Live.queueFlush (l : Live) (k : FlushKind) : Live :=
  if l.flushRoom then l.setFwd fun x => { x with flushes := x.flushes ++ [{ kind := k, at_ := l.ticks }] } else l

/-- A flush operation (R324): a master of TNn names only its own ports and FIDs. -/
def Live.macFlush (l : Live) (rank tn op : Nat) (k : FlushKind) (allowed : Bool) : Live :=
  if tn ≠ 0 ∧ ¬ allowed then l.opReport rank op opDenied noLoc l.now
  else if l.flushRoom then (l.queueFlush k).opReport rank op opQueued noLoc l.now
  else l

def Live.flushPortOp (l : Live) (rank tn : Nat) : Live :=
  let p := min 55 (l.rd .OP_DEST_NUMBER 0 0 rank)
  l.macFlush rank tn 4 (.port p) (l.destAllowed l.ticks tn p)

def Live.flushFidOp (l : Live) (rank tn : Nat) : Live :=
  let f := l.rd .OP_FID 0 0 rank
  l.macFlush rank tn 5 (.fid f) (l.vidOwner f == tn)

/-- FLUSH_TENANCY: the master's own tenancy, or for the PF that of TN_WINDOW (R185, R324). -/
def Live.flushTenancyOp (l : Live) (rank tn : Nat) : Live :=
  l.macFlush rank tn 6 (.tenancy (if rank = 1 then l.rd .TN_WINDOW 0 0 rank else tn)) true

/-- A MAC_OP commits (R324). -/
def Live.macOp (l : Live) (rank op : Nat) : Live :=
  let tn := l.masterTenancy rank
  match op with
  | 1 => l.addStatic rank tn
  | 2 => l.macDelete rank tn
  | 3 => l.macFindOp rank tn
  | 4 => l.flushPortOp rank tn
  | 5 => l.flushFidOp rank tn
  | 6 => l.flushTenancyOp rank tn
  | _ => l

/-- A MAC_OP as a command of its own: master `m` of rank m + 1, with its record as committed. -/
def State.macOp (s : State) (m : Fin 15) (op : Live → Nat → Nat → Live) : Host.Outcome State Fault Refusal :=
  s.effect fun l => if l.mode.engineOn then op l (m.val + 1) (l.masterTenancy (m.val + 1)) else l

def execAddStatic (m : Fin 15) (s : State) : Host.Outcome State Fault Refusal := s.macOp m Live.addStatic
def execDelete (m : Fin 15) (s : State) : Host.Outcome State Fault Refusal := s.macOp m Live.macDelete
def execFind (m : Fin 15) (s : State) : Host.Outcome State Fault Refusal := s.macOp m Live.macFindOp
def execFlushPort (m : Fin 15) (s : State) : Host.Outcome State Fault Refusal := s.macOp m Live.flushPortOp
def execFlushFid (m : Fin 15) (s : State) : Host.Outcome State Fault Refusal := s.macOp m Live.flushFidOp
def execFlushTenancy (m : Fin 15) (s : State) : Host.Outcome State Fault Refusal := s.macOp m Live.flushTenancyOp

/-! ### The flush engine (R325) -/

def FlushKind.matches (k : FlushKind) (e : MacEntry) : Bool :=
  match k with
  | .port p => e.dest == p
  | .fid f => e.fid == f
  | .tenancy n => e.tn == n

/-- One beat of a pass: 1,024 locations. -/
def Live.flushStep (l : Live) : Live :=
  let f := l.plane.fwd
  if f.pass.isEmpty then
    if f.flushes.isEmpty ∨ ¬ l.mode.engineOn then l
    else (l.setFwd fun x => { x with pass := x.flushes, flushes := [], passPos := 0 }).wrB .FLUSH_BUSY true
  else if 262144 ≤ f.passPos ∨ ¬ l.mode.engineOn then l
  else
    let hit := (l.macAll).filter fun e => f.passPos ≤ e.1 && e.1 < f.passPos + 1024
    let l1 := l.forL hit fun l e =>
      let last := f.visible.get e.1
      if !e.2.static ∧ e.2.dest ≠ destAbsent ∧ f.pass.any fun c => c.kind.matches e.2 && decide (last ≤ c.at_) then
        l.macRemove e.1 (l.ticks + 1) e.2
      else l
    (if hit.isEmpty then l1 else l1.showMac).setFwd fun x => { x with passPos := x.passPos + 1024 }

/-- A pass completes (R325). -/
def Live.flushDone (l : Live) : Live :=
  ((l.setFwd fun x => { x with pass := [], passPos := 0 }).wrB .FLUSH_BUSY false).raise 393

/-- A pass that has visited every location ends (R325). -/
def Live.flushStepEnd (l : Live) : Live :=
  if ¬ l.plane.fwd.pass.isEmpty ∧ 262144 ≤ l.plane.fwd.passPos ∧ l.mode ≠ .freeze then l.flushDone else l

def execMacFlushDone (s : State) : Host.Outcome State Fault Refusal :=
  s.effect Live.flushStepEnd

/-! ### Whole-table changes (R183, R289, R342, R349) -/

/-- Entries that a test names are removed with no version (R289). -/
def Live.macPurge (l : Live) (p : MacEntry → Bool) : Live :=
  ((l.macAll).foldl (fun l x => if p x.2 then l.macErase x.1 else l) l).showMac

/-- A tenancy's entries and requests are removed (R180, R347). -/
def Live.macWipe (l : Live) (n : Nat) : Live :=
  (l.setFwd fun x => { x with learns := x.learns.filter fun r => r.tn != n, later := x.later.filter fun c => c.tn != n }).macPurge
    fun e => e.tn == n

/-- Static entries are placed again, in ascending old location (R342, R349). -/
def Live.placeStatics (l : Live) (es : List MacEntry) : Live :=
  l.forL es fun l e =>
    match l.freeLoc e.fid e.mac with
    | some loc => l.setMac loc { e with prev := e.dest }
    | none => l.raise 390

/-- MAC_HASH_SEED commits: every dynamic entry goes, the static ones are placed again (R342). -/
def Live.reseed (l : Live) : Live :=
  let statics := ((l.macAll).filter fun e => e.2.static && e.2.dest != destAbsent).map Prod.snd
  let l1 := (l.macAll).foldl (fun l x => l.macErase x.1) l
  ((l1.setFwd fun x => { x with settle := [], visible := [] }).placeStatics statics).showMac

end Sys2Proof.Machine
end

