-- ==== Sys2Proof/Machine/Forward.lean ====
section
/-! DEFINITION. The forwarding decision, VLANs, Damask, next hops, groups, LAGs (R255 to R257, R308, R327 to R340). -/

namespace Sys2Proof.Machine

open Sys2Proof

/-! ### VLAN elements (R327) -/

/-- A VLAN element's fields, of a 384-bit value. -/
def vlanMembers (v : Nat) : Nat := bits v 320 64 % 2 ^ 56
def vlanUntagged (v : Nat) : Nat := bits v 256 64 % 2 ^ 56
def vlanFid (v : Nat) : Nat := bits v 240 16
def vlanValid (v : Nat) : Bool := bit v 239
def vlanLearn (v : Nat) : Bool := bit v 238
def vlanFloodUc (v : Nat) : Bool := bit v 237
def vlanFloodMc (v : Nat) : Bool := bit v 236
def vlanRouteIf (v : Nat) : Bool := bit v 235
def vlanSnoop (v : Nat) : Bool := bit v 234
def vlanIpv4 (v : Nat) : Nat := bits v 192 32
def vlanIpv6 (v : Nat) : Nat := bits v 64 128

/-- The VLAN element for a frame of ingress beat `b`; elements 0 and 4,095 have no effect. -/
def Live.vlanAt (l : Live) (b vid : Nat) : Nat := if vid = 0 ∨ vid = 4095 then 0 else l.elemAt b .VLAN_TABLE vid

def memberPorts (mask : Nat) : List Nat := members 56 mask

/-! ### Damask and next hops (R330 to R333) -/

/-- RESULT of a Damask slot's 96-bit value; its 72 bits lie above. -/
def slotResult (v : Nat) : Nat := bits v 8 16
def slotType (v : Nat) : Nat := bits v 93 2
def slotValid (v : Nat) : Bool := bit v 95
def slotTn (v : Nat) : Nat := bits v 90 3

/-- Whether the top `len` of `w` bits of two addresses are equal. -/
def topEqual (w len a d : Nat) : Bool := a / 2 ^ (w - len) == d / 2 ^ (w - len)

/-- An IPv4 slot hits (R331). -/
def hit4 (tn dip v : Nat) : Bool :=
  slotValid v && slotType v == 1 && slotTn v == tn && bits v 84 6 ≤ 32 && topEqual 32 (bits v 84 6) (bits v 24 32) dip

/-- An IPv6 head with its tail hits (R330, R331). -/
def hit6 (tn dip head tail : Nat) : Bool :=
  let len := bits head 82 8
  let addr := bits head 24 58 * 2 ^ 70 + bits tail 95 1 * 2 ^ 69 + bits tail 24 69
  slotValid head && slotType head == 2 && slotType tail == 3 && slotTn head == tn && len ≤ 128 && topEqual 128 len addr dip

/-- RESULT of the lowest-numbered hit for a routed frame (R331). -/
def Live.damask (l : Live) (b tn ip dip : Nat) : Option Nat :=
  let es := l.elemsAt b .DAMASK 0 512
  let hit := es.filter fun e =>
    if ip = 4 then hit4 tn dip e.2 else e.1 % 2 == 0 && hit6 tn dip e.2 (l.elemAt b .DAMASK (e.1 + 1))
  (lowestElem (fun _ => true) hit).map fun e => slotResult e.2

/-- Fields of a next-hop element, of a 256-bit value (R333). -/
def nhValid (v : Nat) : Bool := bit v 255
def nhState (v : Nat) : Nat := bits v 253 2
def nhFamily (v : Nat) : Nat := bits v 252 1
def nhTn (v : Nat) : Nat := bits v 248 3
def nhVlan (v : Nat) : Nat := bits v 224 16
def nhMac (v : Nat) : Nat := bits v 176 48
def nhIp (v : Nat) : Nat := if nhFamily v = 0 then bits v 0 32 else bits v 0 128

/-! ### Groups (R337) -/

/-- Fields of a group element, of a 128-bit value. -/
def groupMembers (v : Nat) : Nat := bits v 64 58
def groupValid (v : Nat) : Bool := bit v 63
def groupInput (v : Nat) : Bool := bit v 62
def groupSnooped (v : Nat) : Bool := bit v 61

/-- The members of a group as destination codes: ports, then LAG0, then LAG1 (R358). -/
def groupDests (v : Nat) : List Nat :=
  memberPorts (groupMembers v) ++ (if bit (groupMembers v) 56 then [0x40] else []) ++ (if bit (groupMembers v) 57 then [0x41] else [])

/-! ### LAGs (R255 to R257) -/

/-- The members of a LAG; an uplink in both records belongs to LAG0. -/
def Live.lagMembers (l : Live) (n : Nat) : List Nat :=
  (List.range 4).filter fun k => if n = 0 then bit (l.rd .MEMBERS 0) k else bit (l.rd .MEMBERS 1) k && !bit (l.rd .MEMBERS 0) k

/-- The active members of a LAG (R256). -/
def Live.lagActive (l : Live) (n : Nat) : List Nat :=
  let up := (l.lagMembers n).filter fun k => l.rd .LINK_STATE_0401 (48 + k) == 3
  let speed := match up with | k :: _ => l.rd .LINK_SPEED_0401 (48 + k) | [] => 0
  let act := up.filter fun k => l.rd .LINK_SPEED_0401 (48 + k) == speed
  if act.length < l.rd .MIN_ACTIVE n then [] else act

/-- Recompute the active members of a LAG; event 252 tells a change (R256). -/
def Live.lagUpdate (l : Live) (n : Nat) : Live :=
  let new := maskOf (l.lagActive n)
  if new = l.rd .ACTIVE_MEMBERS n then l
  else (l.wrV .ACTIVE_MEMBERS new n).raise 252 (u8 n ++ u64 new)

/-- Uplinks with FLUSH_ON_DOWN that have left UP, as sources of the MAC table: the port, or its LAG (R326). -/
def Live.downSources (l : Live) : List Nat :=
  (l.plane.fwd.downs.filter fun p => l.rdB .FLUSH_ON_DOWN p).map (l.sourceOf l.ticks)

/-- The LAGs follow the links and MEMBERS after the commit phase (R256, R263).  An uplink that left UP with FLUSH_ON_DOWN has
its flush queued, a LAG member's only where the LAG has gone down (R326). -/
def Live.lagSettle (l : Live) : Live :=
  let from_ := l.downSources
  let alone := l.forL (from_.filter fun x => x < 0x40) fun l p => l.queueFlush (.port p)
  let l1 := alone.forN 2 fun l n =>
    let l1 := l.lagUpdate n
    if from_.contains (0x40 + n) ∧ l.rd .ACTIVE_MEMBERS n ≠ 0 ∧ l1.rd .ACTIVE_MEMBERS n = 0 then l1.queueFlush (.port (0x40 + n))
    else l1
  l1.setFwd fun x => { x with downs := [] }

/-- The member that a frame sent to a LAG takes (R257). -/
def Live.lagPort (l : Live) (b n ingress : Nat) (x : Parsed) : Option Nat :=
  let act := members 4 (l.rdAt b .ACTIVE_MEMBERS n)
  if act.isEmpty then none
  else
    let h := crc32 (x.hashBytes ingress (l.rdAt b .HASH_FIELDS n % 1024)) ^^^ l.rdAt b .HASH_SEED n
    act[h % 64 % act.length]?.map (48 + ·)

/-! ### What forwarding decides -/

/-- A decision: destination codes, replication, and whether filters 1 and 2 apply. -/
structure Decision where
  dests : List Nat := []
  input : Bool := false
  routed : Bool := false
  byMembers : Bool := false
  /-- The VLAN whose MEMBERS filter, and whose UNTAGGED the edits follow. -/
  vlan : Nat
  /-- A copy to port C that forwarding itself asks for. -/
  copyC : Bool := false
deriving DecidableEq, Repr, Inhabited

/-- A frame as forwarding meets it: record, key set. -/
structure Item where
  f : Frame
  x : Parsed
deriving DecidableEq, Repr, Inhabited

def isMulticast (mac : Nat) : Bool := bit mac 40
def macBroadcast : Nat := 0xFFFFFFFFFFFF

/-- A unicast IP destination. -/
def unicastIp (x : Parsed) : Bool :=
  if x.ip = 4 then x.dip / 2 ^ 28 != 14 && x.dip != 0xFFFFFFFF else x.ip == 6 && x.dip / 2 ^ 120 != 0xFF

/-- Multicast addresses that always go to every member (R340). -/
def linkLocalGroup (mac : Nat) : Bool := mac / 256 == 0x01005E0000 || mac / 256 == 0x3333000000

/-- Router ports of a tenancy for a frame of ingress beat `b`: MROUTER_PORTS and ports that a query showed (R338). -/
def Live.routerPorts (l : Live) (b tn : Nat) : Nat :=
  (l.plane.fwd.routers.filter fun r => r.1 == tn).foldl (fun m r => m ||| 2 ^ r.2.1) (l.rdAt b .MROUTER_PORTS 0 0 tn)

/-- FILTERED of the ingress port, and its block signal. -/
def Live.filtered (l : Live) (it : Item) (n : Nat := 1) : Live :=
  if n = 0 then l else (l.count .FILTERED n it.f.port).blk 9 .drops n it.f.port it.f.tc it.f.tn

/-- A group as the result (R337). -/
def Live.groupResult (l : Live) (it : Item) (g vlan : Nat) : Option Decision × Live :=
  let v := l.elemAt it.f.ingress .GROUP_TABLE g
  if groupValid v then (some { dests := groupDests v, input := groupInput v || wInput it.f.word, vlan := vlan }, l)
  else (none, l.filtered it)

/-- A MAC table destination as the result. -/
def Live.destResult (l : Live) (it : Item) (d vlan : Nat) : Option Decision × Live :=
  if d = destDiscard then (none, l.filtered it)
  else if 0x1000 ≤ d then
    match l.groupResult it (d - 0x1000) vlan with
    | (some r, l1) => (some { r with byMembers := true }, l1)
    | (none, l1) => (none, l1)
  else (some { dests := [d], vlan := vlan, byMembers := true }, l)

/-- Row 7: a unicast destination address in a VLAN (R308). -/
def Live.unicastRow (l : Live) (it : Item) (mac vlan v : Nat) : Option Decision × Live :=
  match l.macLookup it.f.ingress (vlanFid v) mac with
  | some (_, d) => l.destResult it d vlan
  | none =>
    if vlanFloodUc v then
      (some { dests := memberPorts (vlanMembers v), vlan := vlan, byMembers := true },
        (l.count .UNKNOWN_UC_FLOODED 1 it.f.port).blk 9 .signalA 1 it.f.port it.f.tc it.f.tn)
    else (none, l.count .UNKNOWN_UC_DROPS 1 it.f.port)

/-- Row 6: a multicast destination address (R308, R340). -/
def Live.multicastRow (l : Live) (it : Item) (vlan v : Nat) : Option Decision × Live :=
  match l.macLookup it.f.ingress (vlanFid v) it.x.da with
  | some (_, d) => l.destResult it d vlan
  | none =>
    let all : Decision := { dests := memberPorts (vlanMembers v), vlan := vlan, byMembers := true }
    if linkLocalGroup it.x.da then (some all, l)
    else if vlanSnoop v then
      (some { dests := memberPorts (l.routerPorts it.f.ingress it.f.tn), vlan := vlan, byMembers := true }, l)
    else if vlanFloodMc v then (some all, l)
    else (none, l.filtered it)

/-- A discard of Damask (R331, R335). -/
def Live.routeDrop (l : Live) (it : Item) : Live :=
  (l.count .ROUTE_DROPS 1 it.f.port).blk 11 .drops 1 it.f.port it.f.tc it.f.tn

/-- A frame toward an UNRESOLVED next hop: at most one in 8 beats is copied to port C (R335). -/
def Live.unresolvedHop (l : Live) (it : Item) (n : Nat) : Option Decision × Live :=
  let l1 := (l.routeDrop it).blk 11 .signalA 1 it.f.port it.f.tc it.f.tn
  let due : Bool := match (l.plane.fwd.nextHops.get n).copied with
    | some t => t + 8 ≤ l.ticks
    | none => true
  if due then
    (some { vlan := wVlan it.f.word, copyC := true },
      l1.setFwd fun x => { x with nextHops := x.nextHops.upd n fun r => { r with copied := some l.ticks } })
  else (none, l1)

/-- The answer of Damask for a frame that row 3 routes (R331, R333, R335): the decision and the frame as changed. -/
def Live.routeRow (l : Live) (it : Item) : (Option Decision × Item) × Live :=
  let b := it.f.ingress
  let tn := it.f.tn
  let l0 := l.blk 11 .eventsIn 1 it.f.port it.f.tc tn
  match l0.damask b tn it.x.ip it.x.dip with
  | none => ((none, it), l0.routeDrop it)
  | some res =>
    let l1 := l0.blk 11 .eventsOut 1 it.f.port it.f.tc tn
    if res / 8192 = 2 then ((some { vlan := wVlan it.f.word, copyC := true }, it), l1)
    else if res / 8192 ≠ 0 then ((none, it), l1.routeDrop it)
    else
      let n := res % 8192
      let v := l1.elemAt b .NEXT_HOP_TABLE n
      if !nhValid v ∨ nhTn v ≠ tn ∨ l1.vidOwnerAt b (nhVlan v) ≠ tn then ((none, it), l1.routeDrop it)
      else if it.x.ttl ≤ 1 then ((none, it), (l1.routeDrop it).blk 11 .signalB 1 it.f.port it.f.tc tn)
      else if nhState v = 0 ∨ nhState v = 3 then
        let r := l1.unresolvedHop it n
        ((r.1, it), r.2)
      else
        let vl := nhVlan v
        let ve := l1.vlanAt b vl
        let f := { it.f with word := setBits it.f.word 49 12 vl, routed := some (l1.rd .ROUTER_MAC 0 0 tn, nhMac v) }
        let it1 : Item := { it with f := f }
        let l2 := (l1.count .ROUTED 1 it.f.port).blk 9 .signalB 1 it.f.port it.f.tc tn
        if vlanValid ve then
          match l2.unicastRow it1 (nhMac v) vl ve with
          | (some d, l3) => ((some { d with routed := true }, it1), l3)
          | (none, l3) => ((none, it1), l3)
        else ((none, it1), l2.filtered it)

/-- Rows 3 to 7 for a frame on a VALID VLAN (R308). -/
def Live.decideRows (l : Live) (it : Item) (v : Nat) : (Option Decision × Item) × Live :=
  let vlan := wVlan it.f.word
  if wRoute it.f.word ∧ it.x.da = l.rd .ROUTER_MAC 0 0 it.f.tn ∧ it.x.ip ≠ 0 ∧ unicastIp it.x ∧ vlanRouteIf v then l.routeRow it
  else
    let r :=
      if wMcast it.f.word then l.groupResult it (wGroup it.f.word) vlan
      else if it.x.da = macBroadcast then
        (some { dests := memberPorts (vlanMembers v), vlan := vlan, byMembers := true }, l)
      else if isMulticast it.x.da then l.multicastRow it vlan v
      else l.unicastRow it it.x.da vlan v
    ((r.1, it), r.2)

/-- The four filters of R308: ingress port, VLAN members, R178, LAG. -/
def Live.filters (l : Live) (it : Item) (d : Decision) : List Nat × Live :=
  let b := it.f.ingress
  let src := it.f.port
  let own := l.sourceOf b src
  let f1 := if d.routed then d.dests else d.dests.filter fun x => x != src && x != own
  let ms := vlanMembers (l.vlanAt b d.vlan)
  let f2 := if d.byMembers then f1.filter fun x => 56 ≤ x || bit ms x else f1
  let f3 := f2.filter fun x => l.destAllowed b it.f.tn x
  let l1 := l.filtered it (d.dests.length - f2.length)
  f3.foldl (fun (acc : List Nat × Live) x =>
    if x = 0x40 ∨ x = 0x41 then
      match acc.2.lagPort b (x - 0x40) src it.x with
      | some p => (acc.1 ++ [p], acc.2)
      | none => (acc.1, acc.2.count .LAG_DOWN_DROPS 1 (x - 0x40))
    else (acc.1 ++ [x], acc.2)) ([], l1)

/-! ### The source address (R316, R318, R319) -/

/-- What the source address asks for: discard the frame, and a learn request. -/
structure Source where
  discard : Bool := false
  learn : Option Learn := none
deriving DecidableEq, Repr, Inhabited

/-- Whether a frame qualifies for a learn request (R316). -/
def Live.canLearn (l : Live) (it : Item) (v : Nat) : Bool :=
  it.f.port < 52 && !wDrop it.f.word && !isMulticast it.x.sa && it.x.sa != 0 && vlanLearn v
    && l.rdAtB it.f.ingress .LEARN_ENABLE it.f.port && l.mode.running

/-- The SA lookup (R318, R319): LIMIT_ACTION applies to every miss at a limit. -/
def Live.sourceCheck (l : Live) (it : Item) (v : Nat) : Source × Live :=
  let b := it.f.ingress
  let p := it.f.port
  let tn := it.f.tn
  let src := l.sourceOf b p
  let req : Learn := { ingress := b, port := p, fid := vlanFid v, mac := it.x.sa, dest := src, tn := tn }
  if 52 ≤ p then ({}, l)
  else
    match l.macLookup b (vlanFid v) it.x.sa with
    | some (e, d) =>
      if e.static then
        if d = src then ({}, l)
        else ({ discard := l.rdAtB b .STATIC_DROP 0 0 tn }, (l.count .STATIC_VIOLATIONS 1 p).raise 387 [] tn)
      else if l.canLearn it v then ({ learn := some req }, l) else ({}, l)
    | none =>
      if l.rdAt b .LEARN_LIMIT p ≤ l.rdAt b .LEARNED (l.countPort src) ∨ l.rdAt b .EFFECTIVE_QUOTA tn 4 ≤ l.rdAt b .QUOTA_USAGE tn 4
      then
        if l.rdAt b .LIMIT_ACTION p = 1 then ({ discard := true }, l.count .LEARN_LIMIT_DROPS 1 p) else ({}, l)
      else if l.canLearn it v then ({ learn := some req }, l)
      else ({}, l)

/-- Make a learn request (R316). -/
def Live.requestLearn (l : Live) (r : Option Learn) : Live :=
  match r with
  | none => l
  | some q => (l.setFwd fun x => { x with learns := x.learns ++ [q] }).blk 10 .eventsIn 1 q.port 0 q.tn

/-- A forwarding decision with its learn request: the ports that the frame goes to (R308), the frame, INPUT replication,
and a copy to port C. -/
structure Outgo where
  ports : List Nat := []
  item : Item
  input : Bool := false
  copyC : Bool := false
deriving DecidableEq, Repr, Inhabited

def Live.forward (l : Live) (it : Item) : Outgo × Live :=
  let v := l.vlanAt it.f.ingress (wVlan it.f.word)
  let none_ : Outgo := { item := it }
  if !vlanValid v then (none_, l.filtered it)
  else
    let s := l.sourceCheck it v
    if s.1.discard then (none_, s.2)
    else
      let l1 := (s.2.requestLearn s.1.learn).blk 9 .eventsIn 1 it.f.port it.f.tc it.f.tn
      match l1.decideRows it v with
      | ((none, _), l2) => (none_, l2)
      | ((some d, it1), l2) =>
        let r := l2.filters it1 d
        let ports := r.1.eraseDups
        let un := vlanUntagged (l2.vlanAt it.f.ingress d.vlan)
        ({ ports := ports, item := { it1 with f := { it1.f with untagged := un } }, input := d.input, copyC := d.copyC },
          r.2.blk 9 .eventsOut ports.length it.f.port it.f.tc it.f.tn)

end Sys2Proof.Machine
end

