-- ==== Sys2Proof/Machine/Calico.lean ====
section
/-! DEFINITION. Calico: CT0 to CT3, traps, reference checks and copies; policers (spec/08_calico.md, R410 to R415). -/

namespace Sys2Proof.Machine

open Sys2Proof

/-! ### The initial word and CT0 (R270 to R274) -/

/-- The word that the parser sets before CT0 (R270). -/
def Live.firstWord (l : Live) (b p : Nat) (x : Parsed) : Nat :=
  let vid := if x.tags = 0 ∨ x.outerVid = 0 then l.rdAt b .DEFAULT_VID p else x.outerVid
  let tc := if x.tags = 0 then l.rdAt b .DEFAULT_PCP p else x.outerPcp
  wordOf (l.portOwnerAt b p) vid tc

/-- The 32-bit key of CT0 (R272). -/
def ct0Key (p : Nat) (x : Parsed) : Nat :=
  p * 2 ^ 26 + x.tags * 2 ^ 24 + (if x.tags = 0 then 0 else x.outerVid) * 2 ^ 12 + (if x.tags = 2 then x.innerVid else 0)

/-- The lowest-numbered valid element of a bucket of four whose high bits equal the key (R272). -/
def Live.bucketHit (l : Live) (b : Nat) (o : Obj) (bank bucket keyLo key : Nat) : Option (Nat × Nat) :=
  ((List.range 4).map fun k => (4 * bucket + k, l.elemAt b o (4 * bucket + k) (128 * bank))).find? fun e =>
    bit e.2 0 && e.2 / 2 ^ keyLo == key

def Live.ct0Hit (l : Live) (b p : Nat) (x : Parsed) : Option Nat :=
  let key := ct0Key p x
  (l.bucketHit b .CT0 (l.rdAt b .ACTIVE_BANK 0) (crc32 (u32 key) % 4096) 96 key).map Prod.snd

/-- What a CT0 hit writes (R272). -/
def ct0Apply (w v : Nat) : Nat :=
  let w1 := setBits (setBits (setBits (setBits w 61 3 (bits v 93 3)) 49 12 (bits v 81 12)) 45 4 (bits v 77 4)) 19 1 (bits v 76 1)
  let w2 := if bit v 75 then setBits w1 42 3 (bits v 72 3) else w1
  let w3 := if bit v 71 then setBits w2 0 5 (bits v 66 5) else w2
  if bit v 65 then setBit w3 26 true else w3

/-- What happens to a frame at a stage: it goes on with a word, or ends there. -/
inductive Stage where
  | on (w : Nat)
  | ended
deriving DecidableEq, Repr

/-- A block signal of classification: port and traffic class of the frame, its tenancy as the word stands. -/
def Live.ctBlk (l : Live) (b : Nat) (s : Signal) (p w : Nat) : Live := l.blk b s 1 p (wTc w) (wTn w)

/-- CT0 (R182, R273, R274).  On a miss the VID of an owner that is not ACTIVE belongs to another. -/
def Live.ct0 (l : Live) (b p w : Nat) (x : Parsed) : Stage × Live :=
  let l0 := l.ctBlk 5 .eventsIn p w
  match l0.ct0Hit b p x with
  | some v =>
    let w1 := ct0Apply w v
    let l1 := l0.ctBlk 5 .eventsOut p w1
    if ¬ l1.activeAt b (wTn w1) then
      (.ended, ((l1.count .DISCARD_NO_TENANCY 1 p).ctBlk 5 .drops p w).ctBlk 5 .signalB p w)
    else if wDrop w1 then (.ended, (l1.count .CLASS_DROPS 1 p).ctBlk 5 .drops p w1)
    else (.on w1, l1)
  | none =>
    let l1 := l0.ctBlk 5 .signalA p w
    if l1.rdAt b .CT0_MISS p = 1 ∨ l1.vidOwnerAt b (wVlan w) ≠ wTn w then
      (.ended, (l1.count .CT0_MISS_DROPS 1 p).ctBlk 5 .drops p w)
    else (.on w, l1)

/-! ### CT1 and CT2 (R275 to R279) -/

/-- Fields packed from the most significant end: width and value. -/
def packFields (fs : List (Nat × Nat)) : Nat := fs.foldl (fun v f => v * 2 ^ f.1 + f.2 % 2 ^ f.1) 0

/-- The 320-bit key of CT1 (R275). -/
def ct1Key (p w : Nat) (x : Parsed) : Nat :=
  let head := [(2, x.keyType), (3, wTn w), (6, p), (12, wVlan w), (4, wClass w), (5, wUser w), (3, x.outerPcp), (6, x.dscp),
    (8, x.proto), (8, x.flags), (7, 0)]
  let bodyFields :=
    if x.ip = 4 then [(32, x.sip), (32, x.dip), (16, x.l4Src), (16, x.l4Dst), (8, x.tcpFlags), (152, 0)]
    else if x.ip = 6 then
      [(128, x.dip), (64, x.sip / 2 ^ 64), (16, x.l4Src), (16, x.l4Dst), (8, x.tcpFlags), (20, x.flow), (4, 0)]
    else [(48, x.da), (48, x.sa), (16, x.etherType), (12, x.innerVid), (64, x.stream.getD 0), (8, x.avtpSubtype), (60, 0)]
  packFields (head ++ bodyFields)

/-- The 160-bit key of CT2 (R278). -/
def ct2Key (p w : Nat) (x : Parsed) : Nat :=
  packFields [(3, wTn w), (6, p), (12, wVlan w), (4, wClass w), (5, wUser w), (3, x.outerPcp), (6, x.dscp), (8, x.proto),
    (8, x.flags), (16, x.l4Dst), (16, x.l4Src), (16, x.etherType), (3, x.innerPcp), (32, x.dip), (22, 0)]

/-- Whether a ternary element hits: VALUE and MASK of `n` bits above bit 64, VALID at bit 31 (R275). -/
def ternaryHit (n key v : Nat) : Bool :=
  let m := bits v 64 n
  bit v 31 && (key &&& m) == (bits v (64 + n) n &&& m)

/-- The action of the lowest-numbered valid hit of a ternary table. -/
def Live.ternary (l : Live) (b : Nat) (o : Obj) (first items n key : Nat) : Option Nat :=
  (lowestElem (ternaryHit n key) (l.elemsAt b o first items)).map fun e => bits e.2 32 32

/-- What a CT1 hit writes (R275). -/
def ct1Apply (w a : Nat) : Nat :=
  let w1 := if bit a 31 then setBit w 26 true else w
  let w2 := if bit a 30 then setBit w1 25 true else w1
  let w3 := if bit a 29 then setBits (setBit w2 22 true) 20 2 (bits a 27 2) else w2
  let w4 := if bit a 26 then setBits w3 0 5 (bits a 21 5) else w3
  if bit a 20 then setBits w4 45 4 (bits a 16 4) else w4

/-- CT1 (R275 to R277): the word it leaves. -/
def Live.ct1 (l : Live) (b p w : Nat) (x : Parsed) : Nat × Live :=
  let l0 := l.ctBlk 6 .eventsIn p w
  let r := match l0.ternary b .CT1 (64 * l0.rdAt b .ACTIVE_BANK 1) 64 320 (ct1Key p w x) with
    | some a => (ct1Apply w a, l0.ctBlk 6 .eventsOut p w)
    | none => (if l0.rdAt b .CT1_MISS 0 0 (wTn w) = 1 then setBit w 26 true else w, l0.ctBlk 6 .signalA p w)
  (r.1, if wCopyC r.1 then r.2.ctBlk 6 .signalB p r.1 else r.2)

/-- What a CT2 hit writes (R278). -/
def ct2Apply (w a : Nat) : Nat :=
  let w1 := if bit a 31 then setBits w 42 3 (bits a 28 3) else w
  let w2 := if bit a 27 then setBits w1 40 2 (bits a 25 2) else w1
  let w3 := if bit a 24 then setBits (setBit w2 39 true) 27 12 (bits a 12 12)
            else if bit a 11 then setBit w2 39 false else w2
  if bit a 10 then setBits w3 0 5 (bits a 5 5) else w3

/-- CT2 (R278, R279). -/
def Live.ct2 (l : Live) (b p w : Nat) (x : Parsed) : Nat × Live :=
  let l0 := l.ctBlk 7 .eventsIn p w
  match l0.ternary b .CT2 (32 * l0.rdAt b .ACTIVE_BANK 2) 32 160 (ct2Key p w x) with
  | some a =>
    let w1 := ct2Apply w a
    let l1 := l0.ctBlk 7 .eventsOut p w1
    (w1, if wPolice w1 then l1.ctBlk 7 .signalB p w1 else l1)
  | none => (w, l0.ctBlk 7 .signalA p w)

/-! ### CT3 (R280 to R282) -/

/-- The flow hash (R280). -/
def Live.flowHash (l : Live) (b p w : Nat) (x : Parsed) : Nat := crc32 (x.hashBytes p (l.rdAt b .FLOW_FIELDS 0 0 (wTn w)))

/-- What a CT3 hit writes (R281). -/
def ct3Apply (w v : Nat) : Nat :=
  let w1 := if bit v 80 then setBits (setBit w 24 true) 23 1 (bits v 79 1) else w
  let w2 := if bit v 78 then setBits (setBit w1 22 true) 20 2 (bits v 76 2) else w1
  let w3 := if bit v 75 then setBits (setBit w2 6 true) 7 12 (bits v 63 12) else w2
  if bit v 62 then setBit w3 5 true else w3

/-- The hit counter pair of an element counts a frame (R282). -/
def Live.ct3Count (l : Live) (bank e len : Nat) : Live :=
  if l.mode = .freeze then l
  else
    let v := l.elem .CT3_HITS e (128 * bank)
    l.setElem .CT3_HITS e ((bits v 64 64 + 1) % 2 ^ 64 * 2 ^ 64 + (bits v 0 64 + len) % 2 ^ 64) (128 * bank)

/-- CT3 (R281, R282). -/
def Live.ct3 (l : Live) (b p w len : Nat) (x : Parsed) : Nat × Live :=
  let l0 := l.ctBlk 8 .eventsIn p w
  let fh := l0.flowHash b p w x
  let bank := l0.rdAt b .ACTIVE_BANK 3
  match l0.bucketHit b .CT3 bank (fh % 4096) 81 (wTn w * 2 ^ 44 + wVlan w * 2 ^ 32 + fh) with
  | some (e, v) =>
    let w1 := ct3Apply w v
    let l1 := l0.ctBlk 8 .eventsOut p w1
    let l2 := if bit v 61 then l1.ct3Count bank e len else l1
    (w1, if wKeep w1 then l2.ctBlk 8 .signalB p w1 else l2)
  | none => (w, l0.ctBlk 8 .signalA p w)

/-! ### Reference checks (R285) -/

/-- A reference that fails is cleared, counted and reported. -/
def Live.bindingCleared (l : Live) (p w field number : Nat) : Live :=
  (l.count .BINDINGS_CLEARED 1 p).raise 357 (u8 p ++ u8 field ++ u16 number) (wTn w)

/-- The destination of a mirror session (R284, R285). -/
def Live.mirrorDest (l : Live) (b w : Nat) : Nat := l.rdAt b .MIRROR_DEST 0 (wSession w) (wTn w)

/-- The mirror reference. -/
def Live.checkMirror (l : Live) (b p w : Nat) : Nat × Live :=
  let d := l.mirrorDest b w
  if wMirror w ∧ (d = 0xFF ∨ ¬ l.destAllowed b (wTn w) d) then (setBit w 22 false, l.bindingCleared p w 2 (wSession w)) else (w, l)

/-- The references of the final word. -/
def Live.checkRefs (l : Live) (b p w : Nat) : Nat × Live :=
  let r0 := if wPolice w ∧ polOwner (l.elemAt b .POLICER_TABLE (wPolicer w)) ≠ wTn w
    then (setBit w 39 false, l.bindingCleared p w 0 (wPolicer w)) else (w, l)
  let r1 := if wMcast r0.1 ∧ groupTn (l.elemAt b .GROUP_TABLE (wGroup w)) ≠ wTn w
    then (setBit r0.1 6 false, r0.2.bindingCleared p w 1 (wGroup w)) else r0
  let r2 := r1.2.checkMirror b p r1.1
  if wKeep r2.1 ∧ 48 ≤ p then (setBit r2.1 24 false, r2.2.bindingCleared p w 3 0) else r2

/-! ### Traps (R283) -/

/-- PTP group addresses (IEEE 1588): layer 2, IPv4 and IPv6. -/
def ptpGroup (x : Parsed) : Bool :=
  if x.ip = 4 then x.dip == 0xE0000181 || x.dip == 0xE000006B
  else if x.ip = 6 then (x.dip / 2 ^ 120 == 0xFF && x.dip % 2 ^ 112 == 0x181) || x.dip == 0xFF02 * 2 ^ 112 + 0x6B
  else x.da == 0x011B19000000 || x.da == 0x0180C200000E

/-- A PTP event message: UDP port 319, or a message type below 4 over Ethernet (IEEE 1588). -/
def ptpEvent (bytes : List Byte) (x : Parsed) : Bool :=
  if x.l4 then x.l4Dst == 319 else fieldAt bytes (14 + 4 * x.tags) 1 % 16 < 4

/-- Where a trap takes a frame: port C, or the time unit. -/
inductive Trap where
  | portC | timeUnit | flannel
deriving DecidableEq, Repr

/-- A datagram for UNIT_IP at PROBE_PORT, or at a backfill port, behind BASE_MAC (R478). -/
def Live.toFlannel (l : Live) (b : Nat) (x : Parsed) : Bool :=
  let base := l.rdAt b .BF_PORT_BASE
  let ip := l.rdAt b .UNIT_IP
  x.da == baseMac 0 && x.l4 && x.proto == 17 && x.ip == (if l.rdAt b .FAMILY = 0 then 4 else 6) && x.dip == ip
    && x.dip != 0 && (x.l4Dst == l.rdAt b .PROBE_PORT || (base ≤ x.l4Dst && x.l4Dst ≤ base + 7))

/-- The trap that takes a frame of ingress beat `b` (R283, R478). -/
def Live.trapOf (l : Live) (b p : Nat) (x : Parsed) : Option Trap :=
  if x.etherType = 0x88CC ∧ x.da = 0x0180C200000E then some .portC
  else if x.ptp ∧ ptpGroup x ∧ l.ptpPort b p then some .timeUnit
  else if x.etherType = 0x88B5 ∧ x.da = baseMac 0 then some .portC
  else if l.toFlannel b x then some .flannel
  else none

/-- The control frames that firmware serves beside the traps, on a VLAN element: ARP and ND where ROUTE_IF is set (R336),
IGMP and MLD where SNOOP is set (R338). -/
def arpNd (x : Parsed) : Bool :=
  x.etherType == 0x0806 || (x.ip == 6 && x.l4 && x.proto == 58 && 133 ≤ x.l4Src / 256 && x.l4Src / 256 ≤ 137)
def igmpMld (x : Parsed) : Bool :=
  (x.ip == 4 && x.proto == 2)
    || (x.ip == 6 && x.l4 && x.proto == 58 && (x.l4Src / 256 == 143 || (130 ≤ x.l4Src / 256 && x.l4Src / 256 ≤ 132)))

/-! ### Metering (R410 to R415) -/

/-- The outcome of a meter: the result colour and the buckets left. -/
def meter (v b pre c e : Nat) : Nat × Nat × Nat :=
  let pre := if polAware v then min pre 2 else 0
  if polTwoRate v then
    if pre = 2 ∨ e < b then (2, c, e)
    else if pre = 1 ∨ c < b then (1, c, e - b)
    else (0, c - b, e - b)
  else if pre = 2 ∨ (c < b ∧ e < b) ∨ (pre = 1 ∧ e < b) then (2, c, e)
  else if pre = 1 ∨ c < b then (1, c, e - b)
  else (0, c - b, e)

/-- Add to a field of a policer's statistics: fields 0 to 4 are U64 from the front (R434). -/
def Live.polCount (l : Live) (e k n : Nat) : Live :=
  if l.mode = .freeze then l
  else
    let v := l.elem .POLICER_STATS e
    let lo := 320 - 64 * k
    l.setElem .POLICER_STATS e (setBits v lo 64 (bits v lo 64 + n))

/-- The policer's verdict on a frame: whether it goes on, and the frame with its colour and DSCP (R412, R413, R416). -/
def Live.police (l : Live) (f : Frame) : Bool × Frame × Live :=
  let e := wPolicer f.word
  let v := l.elemAt f.ingress .POLICER_TABLE e
  if ¬ wPolice f.word ∨ ¬ polValid v then (true, f, l)
  else
    let r := meter v (f.bytes.length * 8) (wColour f.word) (l.plane.bucketC.get e) (l.plane.bucketE.get e)
    let l0 := l.setPlane fun x => { x with bucketC := x.bucketC.put e r.2.1, bucketE := x.bucketE.put e r.2.2 }
    let l1 := (l0.polCount e r.1 1).blk 12 .eventsIn 1 f.port f.tc f.tn
    let l2 := l1.blk 12 (if r.1 = 0 then .eventsOut else if r.1 = 1 then .signalB else .signalA) 1 f.port f.tc f.tn
    let f1 := { f with word := setBits f.word 40 2 r.1 }
    let act := polAction v r.1
    if 2 ≤ act then
      (false, f1, (((l2.polCount e 3 1).polCount e 4 f.bytes.length).blk 12 .drops 1 f.port f.tc f.tn).markLeast 418 (u16 e)
        (polOwner v))
    else if act = 1 ∧ (parse f.bytes).ip ≠ 0 then (true, { f1 with dscp := some (polDscp v r.1) }, l2)
    else (true, f1, l2)

/-! ### Copies and admission (R284, R358) -/

/-- The mirror copy: the first TRUNCATE - 4 bytes with a new FCS (R284). -/
def truncated (bs : List Byte) (n : Nat) : List Byte := if n = 0 ∨ bs.length ≤ n then bs else withFcs (bs.take (n - 4))

/-- The port C copy, the mirror copy and the keep copy, in that order (R284, R358). -/
def Live.copies (l : Live) (f : Frame) (x : Parsed) (toC : Bool) : Live :=
  let b := f.ingress
  let l1 := if toC then l.enterFabric f [52] true else l
  let l2 := if wMirror f.word then
      let d := l1.mirrorDest b f.word
      let g := { f with bytes := truncated f.bytes (l1.rdAt b .MIRROR_TRUNCATE 0 (wSession f.word) f.tn), function := some f.tn }
      if d = 0x40 ∨ d = 0x41 then
        match l1.lagPort b (d - 0x40) f.port x with
        | some p => l1.enterFabric g [p] true
        | none => l1.count .LAG_DOWN_DROPS 1 (d - 0x40)
      else l1.enterFabric g [d] true
    else l1
  if wKeep f.word then l2.enterFabric f [53] true else l2

/-- A frame whose classification has ended is metered, forwarded, copied and admitted (R308, R358, R412). -/
def Live.dispatchFrame (l : Live) (f : Frame) (x : Parsed) : Live :=
  let v := l.vlanAt f.ingress (wVlan f.word)
  let snoop := vlanValid v && vlanSnoop v && igmpMld x && f.port < 52
  let m := l.police f
  let o := m.2.2.forward { f := m.2.1, x := x }
  let out := o.1.item.f
  let ports := if snoop ∨ ¬ m.1 then [] else o.1.ports
  let l1 := if o.1.input then o.2.admitEach { out with function := some out.tn } ports
            else o.2.enterFabric { out with function := some out.tn } ports
  let toC := wCopyC f.word || snoop || o.1.copyC || (vlanValid v && vlanRouteIf v && arpNd x)
  l1.copies { f with untagged := vlanUntagged v } x toC

/-- In CONFIGURE port C takes the frames for BASE_MAC and the control protocols that firmware serves; every other frame is
discarded (R134). -/
def Live.configureFrame (l : Live) (f : Frame) (x : Parsed) : Live :=
  let v := l.vlanAt f.ingress (wVlan f.word)
  let served := x.da == baseMac 0 || (vlanValid v && ((vlanRouteIf v && arpNd x) || (vlanSnoop v && igmpMld x)))
  if served then l.enterFabric f [52] true else l.count .DISCARD_NOT_FORWARDING 1 f.port

/-- CT1 to CT3, the reference checks and what follows (R275 to R285). -/
def Live.classifyOn (l : Live) (f : Frame) (x : Parsed) : Live :=
  let b := f.ingress
  let p := f.port
  let r1 := l.ct1 b p f.word x
  if wDrop r1.1 then
    let m := r1.2.checkMirror b p r1.1
    let l1 := (m.2.count .CLASS_DROPS 1 p).ctBlk 6 .drops p r1.1
    let f1 := { f with word := m.1, untagged := vlanUntagged (l1.vlanAt b (wVlan m.1)) }
    if l1.mode = .configure then l1 else l1.copies f1 x (wCopyC m.1)
  else
    let r2 := r1.2.ct2 b p r1.1 x
    let r3 := r2.2.ct3 b p r2.1 f.bytes.length x
    let r4 := r3.2.checkRefs b p r3.1
    let f1 := { f with word := r4.1 }
    if r4.2.mode = .configure then r4.2.configureFrame f1 x else r4.2.dispatchFrame f1 x

/-- A frame that the parser takes (R266 to R285). -/
def Live.classify (l : Live) (p b beat ts : Nat) (bytes : List Byte) : Live :=
  let x := parse bytes
  let w := l.firstWord b p x
  let l0 := (((l.ctBlk 4 .eventsIn p w).ctBlk 4 .eventsOut p w).blk 4 .bytesIn bytes.length p (wTc w) (wTn w)).blk 4 .bytesOut
    bytes.length p (wTc w) (wTn w)
  let l1 := if x.stop then ((l0.count .PARSE_STOPPED 1 p).ctBlk 4 .signalA p w).mark 359 else l0
  match l1.ct0 b p w x with
  | (.ended, l2) => l2
  | (.on w1, l2) =>
    let f : Frame := { bytes := bytes, word := w1, port := p, ingress := b, beat := beat, stamp := ts }
    match l2.trapOf b p x with
    | some .portC => ((l2.count .TRAPPED 1 p).ctBlk 4 .signalB p w1).enterFabric f [52]
    | some .timeUnit =>
      let l3 := (l2.count .TRAPPED 1 p).ctBlk 4 .signalB p w1
      if ptpEvent bytes x then { l3 with beat := { l3.beat with stampIn := some (p, ts) } } else l3
    | some .flannel => (l2.count .TRAPPED 1 p).ctBlk 4 .signalB p w1
    | none => l2.classifyOn f x

/-! ### Swaps, copies of banks (R290 to R297) -/

def Live.setCalico (l : Live) (f : Calico → Calico) : Live := l.setPlane fun x => { x with calico := f x.calico }

/-- The object and the items per bank of a table. -/
def ctObj (t : Nat) : Obj := match t with | 0 => .CT0 | 1 => .CT1 | 2 => .CT2 | _ => .CT3
def ctItems (t : Nat) : Nat := [128, 64, 32, 128].getD t 0

/-- Elements of one bank of a table, and the bytes of an element (R302). -/
def ctSize (t : Nat) : Nat := 128 * ctItems t
def ctBytes (t : Nat) : Nat := [16, 88, 48, 16].getD t 16

/-- The content of the active bank as frames read it: an element with an uncorrectable word is all zero (R306). -/
def Live.bankContent (l : Live) (t bank : Nat) : List (Nat × Nat) :=
  let first := ctItems t * bank
  (l.elems (ctObj t) first (ctItems t)).filter fun e => !l.plane.bad.contains ((ctObj t).key (first + e.1 / 128) (e.1 % 128) 0)

/-- SHADOW_COPY: the shadow is to take the active bank as at this commit (R297). -/
def Live.shadowCopy (l : Live) (t : Nat) : Live :=
  let a := l.rd .ACTIVE_BANK t
  let c : ShadowCopy := { start := l.ticks, bank := 1 - a, source := l.bankContent t a }
  (l.setCalico fun x => { x with copies := x.copies.put t (some c) }).wrB .SHADOW_COPY_BUSY true t

/-- One element of the shadow takes what is copied; the hit counters of a CT3 element that changes clear (R282). -/
def Live.copyElem (l : Live) (t bank e v : Nat) : Live :=
  let first := ctItems t * bank
  if l.elem (ctObj t) e first = v then l
  else
    let l1 := (l.setElem (ctObj t) e v first).markDirty
    if t = 3 then l1.setElem .CT3_HITS e 0 first else l1

/-- 4 KiB of a shadow copy, in each beat after its commit in which the engine runs; what is rewritten has no uncorrectable word
any more (R297, R306, R307). -/
def Live.copyStep (l : Live) (t : Nat) : Live :=
  match l.plane.calico.copies.get t with
  | some c =>
    if l.mode.engineOn ∧ c.start < l.ticks then
      let pos := min (c.pos + 4096) (ctSize t * ctBytes t)
      let here := fun (e : Nat) => c.pos / ctBytes t ≤ e && e < pos / ctBytes t && !c.kept.contains e
      let new := c.source.filter fun e => here e.1
      let gone := (l.elems (ctObj t) (ctItems t * c.bank) (ctItems t)).filter fun e => here e.1 && !new.any fun x => x.1 == e.1
      let l1 := (l.forL gone fun l e => l.copyElem t c.bank e.1 0).forL new fun l e => l.copyElem t c.bank e.1 e.2
      let first := (ctObj t).base + ctItems t * c.bank
      let mine := fun (k : Nat) => first ≤ k / 256 && k / 256 < first + ctItems t && here ((k / 256 - first) * 128 + (k % 256 - 1))
      let l2 := l1.setPlane fun x => { x with bad := x.bad.filter fun k => !mine k }
      l2.setCalico fun x =>
        { x with copies := x.copies.put t (some { c with pos := pos, source := c.source.filter fun e => pos / ctBytes t ≤ e.1 }) }
    else l
  | none => l

/-- A write of element `e` of a table's array, both banks counted through, meets a shadow copy in progress: one to the shadow
stands, and one without version to the active bank is what the copy takes (R289, R297). -/
def Live.copyMeets (l : Live) (t e : Nat) (gone : Option Nat) : Live :=
  match l.plane.calico.copies.get t with
  | some c =>
    let k := e % ctSize t
    if e / ctSize t = c.bank then
      l.setCalico fun x => { x with copies := x.copies.put t (some { c with kept := k :: c.kept }) }
    else
      match gone with
      | some v =>
        l.setCalico fun x =>
          { x with copies := x.copies.put t (some { c with source := c.source.map fun y => if y.1 = k then (k, v) else y }) }
      | none => l
  | none => l

/-- Tables that a queued SWAP names: they read ARMED (R291). -/
def Live.swapArmed (l : Live) (t : Nat) : Bool :=
  l.dict.queue.any fun w => w.index == 0x0A90 && w.fields.any fun f => f.1 == 1 && bit f.2 t

def Live.draining (l : Live) (t : Nat) : Bool := l.plane.calico.drains.get t != none
def Live.copying (l : Live) (t : Nat) : Bool := l.plane.calico.copies.get t != none

/-- A shadow copy may start (R297). -/
def Live.shadowCopyAllowed (l : Live) (t : Nat) : Bool := !l.swapArmed t && !l.draining t

/-- The last byte has been copied: event 355 (R297). -/
def Live.shadowCopyDone (l : Live) (t : Nat) : Live :=
  match l.plane.calico.copies.get t with
  | some c =>
    if ctSize t * ctBytes t ≤ c.pos ∧ l.mode ≠ .freeze then
      let l1 := (l.setCalico fun x => { x with copies := x.copies.put t none }).wrB .SHADOW_COPY_BUSY false t
      let mark := 2 * t + (1 - l.rd .ACTIVE_BANK t)
      { l1 with host := { l1.host with marks := l1.host.marks.filter (· != mark) } }.raise 355 (u64 (2 ^ t))
    else l
  | none => l

/-- The shadow bank of a table holds, or is receiving, an incomplete bulk load (R292, R684). -/
def Live.shadowIncomplete (l : Live) (t : Nat) : Bool :=
  let b := 1 - l.rd .ACTIVE_BANK t
  l.host.marks.contains (2 * t + b) || l.host.loads.any fun x => x.table == t && x.bank == b

/-- The named tables change banks together, or the weave is abandoned; the former active banks drain (R292, R293). -/
def Live.twillSwap (l : Live) (mask : Nat) : Live :=
  let ts := members 4 mask
  if ts.isEmpty then l
  else
    let result := if ts.any l.shadowIncomplete then 2 else if ts.any l.copying then 4 else if ts.any l.draining then 3 else 1
    let set := mask % 16
    if result = 1 then
      let l1 := l.forL ts fun l t =>
        ((l.wrV .ACTIVE_BANK (1 - l.rd .ACTIVE_BANK t) t).wr .LAST_SWAP_BEAT l.now t).setCalico fun x =>
          { x with drains := x.drains.put t (some l.ticks) }
      let g := (l.rd .TABLE_GENERATION + 1) % 2 ^ 32
      ((l1.wr .TABLE_GENERATION g).wr .SWAP_RESULT 1).raise 352 (u64 set ++ u32 g ++ u64 l.now)
    else
      let l1 := (l.wr .SWAP_RESULT result).raise 353 (u64 set ++ u8 result ++ u64 l.now)
      (if result = 2 then l1.withdraw [4] else l1).recoveryAt 3 set 0xFF

/-- Banks whose swap lies at least `age` beats back have drained (R293): one beat where the front end says that no frame of an
earlier ingress beat awaits them, and at the latest 63. -/
def Live.drainDone (l : Live) (age : Nat) : Live :=
  let done := (List.range 4).filter fun t => match l.plane.calico.drains.get t with
    | some s => s + age ≤ l.ticks
    | none => false
  if done.isEmpty ∨ l.mode = .freeze then l
  else (l.setCalico fun x => { x with drains := done.foldl (fun d t => d.put t none) x.drains }).raise 354 (u64 (maskOf done))

/-- SWAP_STATE as it reads (R291, R293). -/
def Live.swapState (l : Live) (t : Nat) : Nat := if l.swapArmed t then 1 else if l.draining t then 2 else 0

end Sys2Proof.Machine
end

