-- ==== Sys2Proof/Machine/Dict.lean ====
section
/-! DEFINITION. The dictionary server: the order of checks, the commit phase, repeated requests and segmented transfer
(spec/02_dictionary.md, and R95 to R104 of spec/03_dictionary_wire.md).

What single objects mean is a parameter here, a record of rules that Machine/Commit.lean fills in. -/

namespace Sys2Proof.Machine

open Sys2Proof

/-- A field that took a value in a commit phase. -/
structure Change where
  obj : Obj
  item : Nat
  off : Nat
  inst : Nat
  /-- Rank of the writing master. -/
  rank : Nat
  old : Nat
  new : Nat

/-- What the chapters say of their objects. -/
structure DictRules where
  /-- The tenancy to which a BOUND object belongs. -/
  owner : Live → Obj → Nat → Nat → Nat
  /-- The object's instance that a master reaches (R72, R185). -/
  inst : Live → Nat → Obj → Nat
  /-- Whether a master reaches an instance of an item at all: a VF without a serving tenancy, a window that names none (R166,
  R185). -/
  reaches : Live → Nat → Obj → Nat → Nat → Bool
  /-- Elements that every master sees, and that read as all zero where they are bound to another tenancy (R298, R341, R434,
  R495, R670). -/
  byElement : Obj → Bool
  /-- A chapter rule of check 10 or 13 governs the object (R78). -/
  governed : Obj → Bool
  /-- Check 10 by the chapter's own rule: whether this value may be written now. -/
  allowed : Live → Nat → Obj → Nat → Nat → Nat → Nat → Bool
  /-- Check 7 at commit by content: the write is denied (R298, R341, R418, R660). -/
  denied : Live → PendingWrite → Bool
  /-- What a clamp of a field raises beside its answer: rank, object, item, offset, instance, value asked. -/
  clamped : Live → Nat → Obj → Nat → Nat → Nat → Nat → Live
  /-- A clamp rule given field by field: rank, object, item, offset, instance, value. -/
  fieldwise : Live → Nat → Obj → Nat → Nat → Nat → Nat → Nat
  /-- What follows from the fields that changed in one step of a commit phase. -/
  committed : List Change → Live → Live
  /-- Order in which commands start in one phase: by object and item. -/
  order : Obj → Nat → Nat
  /-- A command that gives way to another of its phase (R464). -/
  yields : Obj → Nat → Obj → Nat → Bool
  /-- Check 9 by the chapter's own rule, at arrival: index, fields, target (R445, R664). -/
  arrival : Live → Nat → List (Nat × Nat) → Option Nat → Nat
  /-- Check 13 and the start of a command: a status code and the machine. -/
  start : Live → Nat → PendingWrite → Obj → Nat → Nat → Nat → Nat → Nat × Live
  /-- The value that a read shows. -/
  read : Live → Nat → Obj → Nat → Nat → Nat → List Byte
  /-- A tenancy command: the tenancy that it resets or deletes (R90). -/
  wipes : Live → Obj → Nat → Nat → Option Nat

/-! ### Finding objects (R60, R73, R725) -/

/-- Every object at an index, with its item. -/
def objectsAt (index : Nat) : List (Obj × Nat) := catalogue.filterMap fun o => (o.item? index).map fun i => (o, i)

/-- The object, item and offset of index.subindex; a reserved source has no SOURCE_CONFIG (R669). -/
def findObject (index sub : Nat) : Option (Obj × Nat × Nat) :=
  (objectsAt index).findSome? fun e =>
    (e.1.sub? sub).bind fun k =>
      if e.1.rng = .sourceConfig ∧ ¬ namedSource (32 * e.2 + k) then none else some (e.1, e.2, k)

/-- The highest subindex in use at an index, which subindex 0 shows; 0x80 for a table array (R725). -/
def highestSub (index : Nat) : Nat := (objectsAt index).foldl (fun m e => max m (e.1.sub + e.1.count - 1)) 0

/-- The access kinds: what may be written, and read. -/
def Access.writable : Access → Bool
  | .rw | .rwb | .wo | .cmd => true
  | _ => false

def Access.readable : Access → Bool
  | .const | .ro | .rw | .rwb => true
  | _ => false

/-- Visibility by class (R73). -/
def Visibility.shows (v : Visibility) (c : MasterClass) : Bool :=
  match v, c with
  | .all, _ => true
  | .pfFw, .pf | .pfFw, .firmware => true
  | .pfCanFw, .pf | .pfCanFw, .can | .pfCanFw, .firmware => true
  | _, _ => false

/-- PF and firmware reach every BOUND object (R72). -/
def reachesAll (rank : Nat) : Bool := rank == 1 || rank == 15

/-- Whether a master sees instance `t` of an object: its class bit, and R72. -/
def DictRules.visible (R : DictRules) (l : Live) (rank t : Nat) (o : Obj) (i k : Nat) : Bool :=
  o.vis.shows (masterClass rank) && R.reaches l rank o i t
    && (o.own != .bound || reachesAll rank || R.byElement o || R.owner l o i k == l.masterTenancy rank)

/-- Whether a master may write an object that it sees (R72, R74). -/
def DictRules.mayWrite (R : DictRules) (l : Live) (rank : Nat) (o : Obj) (i k : Nat) : Bool :=
  match o.own with
  | .tn0 => l.masterTenancy rank == 0
  | .bound => reachesAll rank || R.byElement o || R.owner l o i k == l.masterTenancy rank
  | _ => true

/-! ### Service by mode (R76) -/

/-- Whether the dictionary serves a path at all in the mode. -/
def Mode.serves (m : Mode) (rank : Nat) : Bool :=
  match m with
  | .off | .bringup | .wipe => false
  | .dormant | .listen => rank == 2 || rank == 3
  | _ => true

/-- Whether the mode allows a read of an index. -/
def Mode.allowsRead (m : Mode) (index : Nat) : Bool :=
  match m with
  | .off | .bringup | .wipe => false
  | .dormant | .listen => index ≤ 0x01FF || (0x1900 ≤ index && index ≤ 0x19FF)
  | .decommissioned => index ≤ 0x003F
  | _ => true

/-- Whether the mode allows a write of index.subindex. -/
def Mode.allowsWrite (m : Mode) (index sub : Nat) : Bool :=
  match m with
  | .off | .bringup | .wipe => false
  | .dormant | .listen => index == 0x0110 && sub == 0x01
  | .freeze => (0x0100 ≤ index && index ≤ 0x01FF) || (0x1300 ≤ index && index ≤ 0x13FF)
  | .decommissioned => 0x0010 ≤ index && index ≤ 0x003F
  | _ => true

/-! ### Responses and the request-id cache (R79, R84, R85, R96) -/

/-- Status codes (R82). -/
def stOk := 0x0
def stClamped := 0x1
def stDuplicate := 0x2
def stSuperseded := 0x3
def stNoObject := 0x4
def stNoSubindex := 0x5
def stDenied := 0x6
def stReadOnly := 0x7
def stWriteOnly := 0x8
def stTypeLength := 0x9
def stModeForbids := 0xA
def stBusy := 0xB
def stSegment := 0xC
def stAuthFail := 0xD
def stBeatPast := 0xE
def stResource := 0xF

def Live.setDict (l : Live) (f : Dict → Dict) : Live := { l with dict := f l.dict }

/-- A cached response is kept through 8,000 beats after its own (R84). -/
def CacheEntry.fresh (e : CacheEntry) (ticks : Nat) : Bool := decide (ticks ≤ e.at_ + 8000)

/-- Enter responses of one request into a master's cache: they replace the entries of the same id that stood when the request
arrived, the first `seen` cached, and the oldest beyond 64 go (R84, R85, R103). -/
def Live.cacheAll (l : Live) (rank seen : Nat) (es : List CacheEntry) : Live :=
  l.setDict fun d =>
    let old := (d.cache.get rank).filter fun e => !(decide (e.serial < seen) && es.any fun n => n.reqId == e.reqId)
    let new := es.map fun e => { e with serial := d.cached }
    { d with cache := d.cache.put rank (lastN 64 (old ++ new)), cached := d.cached + 1 }

/-- The cache without what has expired. -/
def Live.cacheExpire (l : Live) (rank : Nat) : Live :=
  l.setDict fun d => { d with cache := d.cache.put rank ((d.cache.get rank).filter fun e => e.fresh l.ticks) }

/-- The cache emptied (R87, R92). -/
def Live.cacheFlush (l : Live) (rank : Nat) : Live := l.setDict fun d => { d with cache := d.cache.del rank }

/-- Send a response towards its master; RESOURCE and DUPLICATE are counted (R86). -/
def Live.send (l : Live) (r : Response) : Live :=
  let l1 := l.setDict fun d => { d with outbox := d.outbox ++ [r] }
  let l2 := if r.status % 16 = stResource then l1.count .RESOURCE_TOTAL else l1
  if r.status % 16 = stDuplicate then l2.count .DUPLICATE_TOTAL else l2

/-- Answer a request that arrived when `seen` responses had been cached, and cache the answer under the operations named. -/
def Live.answerAs (l : Live) (seen : Nat) (ops : List Nat) (r : Response) : Live :=
  (l.cacheAll r.rank seen (ops.map fun op =>
    { op := op, reqId := r.reqId, index := r.index, sub := r.sub, code := r.status, payload := r.payload,
      at_ := l.ticks })).send r

/-- Answer a request and cache the answer under its own operation. -/
def Live.answer (l : Live) (r : Response) : Live := l.answerAs l.dict.cached [r.op] r

/-- A master's queued writes. -/
def Live.queuedOf (l : Live) (rank : Nat) : List PendingWrite := l.dict.queue.filter fun w => w.rank == rank

/-- Withdraw a master's queued writes without response, empty its cache and close its transfer (R92, R125). -/
def Live.withdrawMaster (l : Live) (rank : Nat) : Live :=
  l.setDict fun d => { d with queue := d.queue.filter fun w => w.rank != rank, cache := d.cache.del rank,
                              transfers := d.transfers.del rank }

/-! ### The clamp journal (R70, R87) -/

/-- Enter a clamped write; in FREEZE no journal changes (R130). -/
def Live.clampJournal (l : Live) (w : PendingWrite) (status mask : Nat) : Live :=
  if l.mode = .freeze then l
  else
  let tn := l.masterTenancy w.rank
  let e : ClampEntry := { beat := l.now, rank := w.rank, tenancy := tn, reqId := w.reqId, index := w.index, sub := w.sub,
                          status := status, mask := mask }
  l.setDict fun d =>
    { d with journal := lastN 256 (d.journal ++ [some e]),
             clampTotal := (if tn = 0 then d.clampTotal else d.clampTotal.upd tn fun n => (n + 1) % 2 ^ 32).upd 0
               fun n => (n + 1) % 2 ^ 32 }

/-- CLAMP_CLEAR (R87). -/
def Live.clampClear (l : Live) : Live := l.setDict fun d => { d with journal := [], clampTotal := [] }

/-- The wipe of a tenancy removes its entries, whose slots then read all zero, and its total (R87, R180). -/
def Live.clampWipe (l : Live) (tn : Nat) : Live :=
  l.setDict fun d =>
    { d with journal := d.journal.map fun e =>
               match e with
               | some x => if x.tenancy = tn then none else some x
               | none => none
             clampTotal := d.clampTotal.del tn }

/-- An entry's 24 bytes. -/
def ClampEntry.bytes (e : ClampEntry) : List Byte :=
  u64 e.beat ++ u8 e.rank ++ u8 e.tenancy ++ u16 e.reqId ++ u16 e.index ++ u8 e.sub ++ u8 e.status ++ u64 e.mask

/-- The subindexes that an entry concerns. -/
def ClampEntry.subs (e : ClampEntry) : List Nat :=
  if e.sub = 0xFF then ((List.range 64).filter fun k => bit e.mask k).map (· + 1) else [e.sub]

/-- CLAMP_RING as a master that acts for `tn` and sees what `sees` tells reads it (R73, R87). -/
def Live.clampRing (l : Live) (tn : Nat) (sees : Nat → Nat → Bool) : List Byte :=
  slice (l.dict.journal.flatMap fun e =>
    match e with
    | some x =>
      if (tn = 0 ∨ x.tenancy = tn) ∧ x.subs.all (sees x.index) then x.bytes else List.replicate 24 (byte 0)
    | none => List.replicate 24 (byte 0)) 0 6144

/-- CLAMP_TOTAL as a master that acts for `tn` reads it. -/
def Live.clampTotalOf (l : Live) (tn : Nat) : Nat := l.dict.clampTotal.get tn

/-! ### Validation (R67, R68) -/

/-- The nearest legal step, the lower on a tie. -/
def nearestStep (lo hi step v : Nat) : Nat :=
  let x := max lo (min hi v)
  let q := (x - lo) / step
  let r := (x - lo) % step
  let n := if 2 * r ≤ step then q else q + 1
  min hi (lo + n * step)

/-- A field's value after its clamp rule; `none` where the command then does not run. -/
def DictRules.validate (R : DictRules) (l : Live) (rank : Nat) (o : Obj) (i k t v : Nat) : Option Nat :=
  match o.clamp, o.rng with
  | .perField, _ => some (R.fieldwise l rank o i k t v)
  | .noAction, .only acts => if acts.contains v then some v else none
  | .nearest, .between lo hi =>
    if o.ty = .i32 then some (ofI32 (clampI lo hi (toI32 v))) else some (clampI lo hi v).toNat
  | .nearest, .stepped lo hi _ => some (max lo (min hi v))
  | .step, .stepped lo hi s => some (nearestStep lo hi s v)
  | .orZero, .orZero lo hi => some (if v = 0 then 0 else max lo (min hi v))
  | .default, .codes cs => some (if cs.contains v then v else o.defaultAt i k t)
  | .bits, .bits m => some (v &&& m)
  | .none, _ => some v
  | _, _ => some (R.fieldwise l rank o i k t v)

/-! ### Arrival (R75) -/

/-- The payload limit of a master's path; the firmware has none of its own (R124). -/
def payloadLimit (rank : Nat) : Nat := if rank = 2 ∨ rank = 3 then 56 else if rank = 15 then 1048576 else 1024

/-- Data bytes of a segment on a master's path (R101). -/
def segmentData (rank : Nat) : Nat := if rank = 2 ∨ rank = 3 then 54 else 1022

/-- The fields of a record write, or none where mask and length do not fit (R62). -/
def recordFields (index : Nat) (value : List Byte) : Option (List (Nat × Nat)) :=
  if value.length < 8 then none
  else
    let mask := fieldAt value 0 8
    let subs := (List.range 64).filterMap fun k => if bit mask k then some (k + 1) else none
    let rec take : List Nat → List Byte → Option (List (Nat × Nat))
      | [], [] => some []
      | [], _ => none
      | s :: ss, bs =>
        match findObject index s with
        | none => none
        | some (o, _, _) =>
          if o.acc.writable ∧ o.len ≤ bs.length then
            (take ss (bs.drop o.len)).map fun r => (s, beVal (bs.take o.len)) :: r
          else none
    take subs (value.drop 8)

/-- The fields that a write of a value sets, or none where its length is wrong (R61, R62). -/
def writeFields (index sub : Nat) (value : List Byte) : Option (List (Nat × Nat)) :=
  if sub = 0xFF then recordFields index value
  else
    match findObject index sub with
    | some (o, _, _) => if value.length = o.len then some [(sub, beVal value)] else none
    | none => none

/-- The instance that a request of a master names at an index that holds PER_TN or PER_MASTER objects (R72, R185). -/
def DictRules.instAt (R : DictRules) (l : Live) (rank index : Nat) : Nat :=
  match (objectsAt index).find? fun e => e.1.own == .perTn || e.1.own == .perMaster with
  | some (o, _) => R.inst l rank o
  | none => 0

/-- Checks 4 to 8 for a request on instance `t`, but for its length: a status, 0 where they pass.  `write` tells the
direction. -/
def DictRules.checkReach (R : DictRules) (l : Live) (rank t index sub : Nat) (write : Bool) (value : List Byte) : Nat :=
  let seen := (objectsAt index).any fun e => (List.range e.1.count).any fun k => R.visible l rank t e.1 e.2 k
  if ¬ seen then stNoObject
  else if sub = 0 then (if write then stReadOnly else stOk)
  else if sub = 0xFF then
    if write then
      let mask := fieldAt value 0 8
      let subs := (List.range 64).filterMap fun k => if bit mask k then some (k + 1) else none
      let found := subs.filterMap (findObject index)
      let sees := fun (e : Obj × Nat × Nat) => R.visible l rank t e.1 e.2.1 e.2.2
      if found.any fun e => sees e && !R.mayWrite l rank e.1 e.2.1 e.2.2 then stDenied
      else if found.any fun e => !sees e then stTypeLength
      else stOk
    else stNoSubindex
  else
    match findObject index sub with
    | none => stNoSubindex
    | some (o, i, k) =>
      if ¬ R.visible l rank t o i k then stNoObject
      else if write then
        if ¬ o.acc.writable then stReadOnly else if ¬ R.mayWrite l rank o i k then stDenied else stOk
      else if o.acc.readable then stOk else stWriteOnly

/-- Check 9 for a write of the subindexes named: its target beat, and room in the queue (R64, R80). -/
def Live.checkTarget (l : Live) (rank index : Nat) (subs : List Nat) (target : Option Nat) : Nat :=
  let rwb := subs.any fun sub => match findObject index sub with
    | some (o, _, _) => o.acc == .rwb
    | none => false
  let late := match target with
    | some t => if t < l.now + 2 then stBeatPast else if l.now + 16777216 < t then stResource else stOk
    | none => if rwb then stBeatPast else stOk
  if late ≠ stOk then late
  else if 2048 ≤ l.dict.queue.length ∨ 256 ≤ (l.queuedOf rank).length then stResource
  else stOk

/-- Put a write into the commit queue. -/
def Live.enqueueWrite (l : Live) (w : PendingWrite) : Live :=
  l.setDict fun d =>
    { d with queue := d.queue ++ [{ w with arrival := l.ticks, order := d.arrivals, seen := d.cached,
                                           challenge := (l.rd .LC_CHALLENGE, l.modes.oldChallenge) }]
             arrivals := d.arrivals + 1 }

/-- Whether a pending write matches a request (R85, R103). -/
def PendingWrite.same (w : PendingWrite) (rank op : Nat) (r : Req) : Bool :=
  w.rank == rank && w.reqId == r.id && w.index == r.index && w.sub == r.sub
    && (w.op == op || (w.op == 5 && op == 4))

/-- Check 2: a cached answer, or a pending request (R84, R85); `none` where the request is new. -/
def Live.repeated (l : Live) (rank op : Nat) (r : Req) : Option Live :=
  let hit := (l.dict.cache.get rank).find? fun e =>
    e.op == op && e.reqId == r.id && e.index == r.index && e.sub == r.sub && e.fresh l.ticks
  match hit with
  | some e => some (l.send { rank := rank, op := op, reqId := r.id, index := r.index, sub := r.sub,
                             status := 16 * (e.code % 16) + stDuplicate, payload := e.payload })
  | none =>
    if l.dict.queue.any fun w => w.same rank op r then
      some (l.send { rank := rank, op := op, reqId := r.id, index := r.index, sub := r.sub, status := stBusy })
    else none

/-- The value of index.subindex as a master reads it; subindex 0 gives the highest subindex in use. -/
def DictRules.valueAt (R : DictRules) (st : Live) (rank index sub : Nat) : List Byte :=
  match findObject index sub with
  | some (o, i, k) => R.read st rank o i k (R.inst st rank o)
  | none => u8 (highestSub index)

/-- A READ (R65, R96, R97): `st` is the machine at the start of the beat. -/
def DictRules.serveRead (R : DictRules) (st l : Live) (rank : Nat) (r : Req) : Live :=
  let reply := fun (status : Nat) (payload : List Byte) =>
    l.answer { rank := rank, op := 0, reqId := r.id, index := r.index, sub := r.sub, status := status, payload := payload }
  let c := R.checkReach st rank (R.instAt st rank r.index) r.index r.sub false []
  let v := R.valueAt st rank r.index r.sub
  if c ≠ stOk then reply c []
  else if r.payload ≠ [] ∨ r.malformed ∨ payloadLimit rank < v.length then reply stTypeLength []
  else if ¬ l.mode.allowsRead r.index then reply stModeForbids []
  else reply stOk v

/-- A WRITE, WRITE_AT_BEAT or COMMAND at its arrival (R64, R75, R97). -/
def DictRules.serveWrite (R : DictRules) (l : Live) (rank op : Nat) (r : Req) : Live :=
  let fail := fun (status : Nat) =>
    l.answer { rank := rank, op := op, reqId := r.id, index := r.index, sub := r.sub, status := status }
  let value := if op = 2 then r.payload.drop 8 else r.payload
  let inst := R.instAt l rank r.index
  let c := R.checkReach l rank inst r.index r.sub true value
  if c ≠ stOk then fail c
  else if r.malformed ∨ (op = 2 ∧ r.payload.length < 8) then fail stTypeLength
  else
    let command : Bool := match findObject r.index r.sub with
      | some (o, _, _) => o.acc == .cmd
      | none => false
    if op = 3 ∧ ¬ command then fail stTypeLength
    else
      match writeFields r.index r.sub value with
      | none => fail stTypeLength
      | some fs =>
        let target := if op = 2 then some (fieldAt r.payload 0 8) else none
        let t0 := l.checkTarget rank r.index (fs.map Prod.fst) target
        let t := if t0 ≠ stOk then t0 else R.arrival l r.index fs target
        if t ≠ stOk then fail t
        else
          l.enqueueWrite { rank := rank, op := op, reqId := r.id, index := r.index, sub := r.sub, inst := inst,
                           fields := fs, arrival := l.ticks, order := 0, target := target }

/-! ### Segmented transfer (R99 to R104) -/

/-- SEGMENT_INIT. -/
def DictRules.serveSegInit (R : DictRules) (st l : Live) (rank : Nat) (r : Req) : Live :=
  let reply := fun (l : Live) (status : Nat) (payload : List Byte) =>
    l.answer { rank := rank, op := 4, reqId := r.id, index := r.index, sub := r.sub, status := status, payload := payload }
  let quiet := fun (l : Live) (status : Nat) (payload : List Byte) =>
    l.send { rank := rank, op := 4, reqId := r.id, index := r.index, sub := r.sub, status := status, payload := payload }
  let open_ := match l.dict.transfers.get rank with
    | some t => if t.done then none else some t
    | none => none
  match open_ with
  | some t => if t.reqId = r.id then quiet l stBusy [] else reply l stResource []
  | none =>
    let p := r.payload
    let total := fieldAt p 0 4
    let flags := fieldAt p 4 1
    let read := bit flags 0
    let atBeat := bit flags 1
    let from_ := if read then st else l
    let inst := R.instAt from_ rank r.index
    let c := R.checkReach from_ rank inst r.index r.sub (!read) []
    let formed := !r.malformed && p.length == (if atBeat then 16 else 8) && flags < 4 && fieldAt p 5 3 == 0
      && !(read && (total != 0 || atBeat)) && (read || total != 0)
    if c ≠ stOk then reply l c []
    else if ¬ formed then reply l stTypeLength []
    else if 1048576 < total then reply l stResource []
    else
      let size := segmentData rank
      let opened := fun (t : Transfer) =>
        quiet (l.setDict fun d => { d with transfers := d.transfers.put rank (some t) }) stOk
          (u32 t.total ++ u16 t.size ++ u16 (cdiv t.total t.size))
      if read then
        if ¬ l.mode.allowsRead r.index then reply l stModeForbids []
        else
          let v := R.valueAt st rank r.index r.sub
          opened { reqId := r.id, index := r.index, sub := r.sub, read := true, total := v.length, size := size, data := v,
                   last := l.ticks }
      else
        let fits := r.sub == 0xFF || (match findObject r.index r.sub with | some (o, _, _) => o.len == total | none => false)
        let target := if atBeat then some (fieldAt p 8 8) else none
        let t := l.checkTarget rank r.index [r.sub] target
        if ¬ fits then reply l stTypeLength []
        else if t ≠ stOk then reply l t []
        else
          opened { reqId := r.id, index := r.index, sub := r.sub, inst := inst, total := total, size := size,
                   target := target, last := l.ticks }

/-- The data of segment `n` of a read. -/
def Transfer.piece (t : Transfer) (n : Nat) : List Byte := (t.data.drop (n * t.size)).take t.size

/-- SEGMENT.  A malformed one that is in order is answered TYPE_LENGTH and does nothing else (R97).  A read transfer stays open
for a repeat of its last segment and then lapses without event 78, and a repeat does not restart the idle count (DESIGN
CHOICE, log entry 113: R104 leaves both open). -/
def DictRules.serveSegment (R : DictRules) (l : Live) (rank : Nat) (r : Req) : Live :=
  let reply := fun (l : Live) (status : Nat) (payload : List Byte) =>
    l.send { rank := rank, op := 5, reqId := r.id, index := r.index, sub := r.sub, status := status, payload := payload }
  let close := fun (l : Live) => l.setDict fun d => { d with transfers := d.transfers.del rank }
  match l.dict.transfers.get rank with
  | none => reply l stSegment []
  | some t =>
    let n := fieldAt r.payload 0 2
    let count := cdiv t.total t.size
    let put := fun (t : Transfer) => l.setDict fun d => { d with transfers := d.transfers.put rank (some t) }
    if t.reqId ≠ r.id ∨ t.index ≠ r.index ∨ t.sub ≠ r.sub ∨ r.payload.length < 2 ∨ (n ≠ t.next ∧ n + 1 ≠ t.next) then
      reply (close l) stSegment []
    else if r.malformed then reply l stTypeLength []
    else if t.read then
      if r.payload.length ≠ 2 then reply (close l) stSegment []
      else if t.next ≠ 0 ∧ n + 1 = t.next then reply l stOk (u16 n ++ t.piece n)
      else if n = t.next ∧ n < max 1 count ∧ ¬ t.done then
        reply (put { t with next := n + 1, last := l.ticks, done := decide (count ≤ n + 1) }) stOk (u16 n ++ t.piece n)
      else reply (close l) stSegment []
    else if t.next ≠ 0 ∧ n + 1 = t.next then reply l stOk (u16 n)
    else
      let want := min t.size (t.total - n * t.size)
      if n ≠ t.next ∨ r.payload.length ≠ 2 + want then reply (close l) stSegment []
      else
        let data := t.data ++ r.payload.drop 2
        if n + 1 < count then reply (put { t with next := n + 1, data := data, last := l.ticks }) stOk (u16 n)
        else
          let l1 := close l
          let fail := fun (status : Nat) =>
            l1.answerAs l1.dict.cached [4, 5]
              { rank := rank, op := 5, reqId := r.id, index := r.index, sub := r.sub, status := status, payload := u16 n }
          let hidden := r.sub == 0xFF && R.checkReach l rank t.inst r.index r.sub true data == stTypeLength
          match writeFields r.index r.sub data with
          | none => fail stTypeLength
          | some fs =>
            let c0 := l1.checkTarget rank r.index (fs.map Prod.fst) t.target
            let c := if c0 ≠ stOk then c0 else R.arrival l1 r.index fs t.target
            if hidden then fail stTypeLength
            else if c ≠ stOk then fail c
            else l1.enqueueWrite { rank := rank, op := 5, reqId := r.id, index := r.index, sub := r.sub, inst := t.inst,
                                   fields := fs, arrival := l.ticks, order := 0, target := t.target, segNo := n }

/-- A request reaches the dictionary from a master (R75, R83, R96, R97). -/
def DictRules.request (R : DictRules) (st l : Live) (rank op : Nat) (r : Req) : Live :=
  if ¬ l.mode.serves rank then l
  else
    let own := op == 5 && (match l.dict.transfers.get rank with
      | some t => t.reqId == r.id && t.index == r.index && t.sub == r.sub
      | none => false)
    match (if own then none else l.repeated rank op r) with
    | some l' => l'
    | none =>
      match op with
      | 0 => R.serveRead st l rank r
      | 4 => R.serveSegInit st l rank r
      | 5 => R.serveSegment l rank r
      | 1 => R.serveWrite l rank 1 r
      | 2 => R.serveWrite l rank 2 r
      | 3 => R.serveWrite l rank 3 r
      | _ =>
        let c := R.checkReach l rank (R.instAt l rank r.index) r.index r.sub false []
        let status := if c = stNoObject ∨ c = stNoSubindex then c else stTypeLength
        l.answer { rank := rank, op := op, reqId := r.id, index := r.index, sub := r.sub, status := status }

/-- A transfer that has had no segment for 8,000 beats closes with event 78 (R104). -/
def Live.segmentAbandon (l : Live) (rank : Nat) : Live :=
  match l.dict.transfers.get rank with
  | some t =>
    if t.last + 8000 ≤ l.ticks then
      let l1 := l.setDict fun d => { d with transfers := d.transfers.del rank }
      if t.done then l1 else l1.raise 78
    else l
  | none => l

/-! ### The commit phase (R77 to R79, R90) -/

/-- A write taken into a phase, with its state so far. -/
structure Taken where
  w : PendingWrite
  /-- A status that excludes it, once found. -/
  out : Option Nat := none
  clampMask : Nat := 0
  superMask : Nat := 0
  /-- The status of check 13. -/
  started : Nat := 0

/-- The bit of a subindex in the masks (R68). -/
def subBit (sub : Nat) : Nat := 2 ^ ((sub + 63) % 64)

/-- Every field's bit. -/
def PendingWrite.allBits (w : PendingWrite) : Nat := w.fields.foldl (fun m f => m ||| subBit f.1) 0

/-- The order of the commit phase: carried writes by the beat of their arrival, then those that name a beat that has come, by
target, then plain writes; each by rank and then by order of arrival (R41, R77).  Carried writes that named a beat are placed
by their arrival too, whatever order the phase that carried them had (DESIGN CHOICE, log entry 114). -/
def Live.commitOrder (l : Live) : List PendingWrite :=
  let due := l.dict.queue.filter fun w =>
    match w.target with
    | some t => decide (t ≤ l.now)
    | none => true
  let byOrder := sortBy (fun w => w.rank) (sortBy (fun w => w.order) due)
  let carried := sortBy (fun w => w.arrival) (byOrder.filter fun w => w.carried)
  let fresh := byOrder.filter fun w => !w.carried
  let named := sortBy (fun w => w.target.getD 0) (fresh.filter fun w => w.target.isSome)
  carried ++ named ++ fresh.filter fun w => w.target.isNone

/-- The writes that fit in 64 field writes, and those that are carried. -/
def fitWrites : Nat → List PendingWrite → List PendingWrite × List PendingWrite
  | _, [] => ([], [])
  | room, w :: ws =>
    if w.fields.length ≤ room then
      let r := fitWrites (room - w.fields.length) ws
      (w :: r.1, r.2)
    else ([], w :: ws)

/-- One field of a taken write, found in the catalogue. -/
structure FieldRef where
  pos : Nat
  sub : Nat
  value : Nat
  obj : Obj
  item : Nat
  off : Nat
  inst : Nat

/-- The fields of the taken write at position `p`. -/
def Taken.refs (t : Taken) (p : Nat) : List FieldRef :=
  t.w.fields.filterMap fun f =>
    (findObject t.w.index f.1).map fun e =>
      { pos := p, sub := f.1, value := f.2, obj := e.1, item := e.2.1, off := e.2.2,
        inst := if e.1.own = .perTn ∨ e.1.own = .perMaster then t.w.inst else 0 }

def FieldRef.key (f : FieldRef) : Nat := f.obj.key f.item f.off f.inst

/-- Whether the write at position `p` beats the one at `q` for a field both set: the lower rank, or the later of one
master (R78). -/
def beats (ts : List Taken) (p q : Nat) : Bool :=
  match ts[p]?, ts[q]? with
  | some a, some b => decide (a.w.rank < b.w.rank) || (a.w.rank == b.w.rank && decide (b.w.order < a.w.order))
  | _, _ => false

/-- The winners among fields. -/
def winners (ts : List Taken) (fs : List FieldRef) : List FieldRef :=
  fs.filter fun f => !fs.any fun g => g.pos != f.pos && g.key == f.key && beats ts g.pos f.pos

/-- Set the value of a field that won, after validation. -/
def DictRules.applyField (R : DictRules) (acc : Live × List Taken × List Change) (f : FieldRef) :
    Live × List Taken × List Change :=
  let (l, ts, cs) := acc
  let rank := (ts[f.pos]?.map fun t => t.w.rank).getD 15
  match R.validate l rank f.obj f.item f.off f.inst f.value with
  | none => (l, modifyAt (fun t => { t with clampMask := t.clampMask ||| subBit f.sub }) ts f.pos, cs)
  | some v =>
    let ts' := if v = f.value then ts
      else modifyAt (fun t => { t with clampMask := t.clampMask ||| subBit f.sub }) ts f.pos
    if f.obj.acc = .cmd then (l, ts', cs)
    else
      let old := l.rd f.obj f.item f.off f.inst
      let l1 := if v = f.value then l else R.clamped l rank f.obj f.item f.off f.inst f.value
      (l1.wr f.obj v f.item f.off f.inst, ts',
        cs ++ [{ obj := f.obj, item := f.item, off := f.off, inst := f.inst, rank := rank, old := old, new := v }])

/-- Positions and writes that still take part. -/
def livePositions (ts : List Taken) (p : Taken → Bool) : List (Nat × Taken) :=
  ((List.range ts.length).zip ts).filter fun e => e.2.out.isNone && p e.2

/-- The rank of the write at a position. -/
def rankAt (ts : List Taken) (p : Nat) : Nat :=
  match ts[p]? with
  | some t => t.w.rank
  | none => 15

/-- Each write with its position. -/
def positions (ts : List Taken) : List (Nat × Taken) := (List.range ts.length).zip ts

/-- The fields of the writes that still take part and satisfy `p`. -/
def refsWhere (ts : List Taken) (p : Taken → Bool) : List FieldRef :=
  (livePositions ts p).flatMap fun e => e.2.refs e.1

/-- The field mask of a write, as a record write spells it. -/
def PendingWrite.mask (w : PendingWrite) : List Byte := u64 (w.fields.foldl (fun m f => m + 2 ^ ((f.1 - 1) % 64)) 0)

/-- Step 1: checks 4 and 7, and the unit mode, against the state before the phase; a master that no longer reaches what it
named at arrival is denied (R89, R185). -/
def DictRules.stepOne (R : DictRules) (l : Live) (w : PendingWrite) : Taken :=
  { w := w, out := if R.checkReach l w.rank w.inst w.index w.sub true w.mask ≠ stOk then some stDenied
                   else if ¬ l.mode.allowsWrite w.index w.sub then some stModeForbids
                   else if R.denied l w then some stDenied else none }

/-- The tenancies that winning commands of the phase reset or delete, with the command's position (R90). -/
def DictRules.wiping (R : DictRules) (l : Live) (ts : List Taken) : List (Nat × Nat) :=
  (winners ts (refsWhere ts fun _ => true)).filterMap fun f =>
    match R.validate l (rankAt ts f.pos) f.obj f.item f.off f.inst f.value with
    | some v =>
      if R.allowed l (rankAt ts f.pos) f.obj f.item f.off f.inst v then (R.wipes l f.obj f.item v).map fun n => (f.pos, n)
      else none
    | none => none

/-- Whether a field belongs to a tenancy's object. -/
def DictRules.fieldOf (R : DictRules) (l : Live) (f : FieldRef) (n : Nat) : Bool :=
  (f.obj.own == .bound && R.owner l f.obj f.item f.off == n) || (f.obj.own == .perTn && f.inst == n)

/-- A tenancy reset or deletion sets aside the other writes that concern the tenancy (R90). -/
def DictRules.setAside (R : DictRules) (l : Live) (ts : List Taken) : List Taken :=
  let wiping := R.wiping l ts
  (positions ts).map fun e =>
    let hit := e.2.out.isNone && wiping.any fun x =>
      x.1 != e.1 && (l.masterTenancy e.2.w.rank == x.2 || (e.2.refs e.1).any fun f => R.fieldOf l f x.2)
    if hit then { e.2 with out := some stSuperseded, superMask := e.2.w.allBits } else e.2

/-- A write with a field that a chapter rule governs. -/
def DictRules.governs (R : DictRules) (t : Taken) : Bool := (t.refs 0).any fun f => R.governed f.obj

/-- The write at a position holds a field that a chapter rule governs. -/
def DictRules.governsAt (R : DictRules) (ts : List Taken) (p : Nat) : Bool :=
  match ts[p]? with
  | some t => R.governs t
  | none => false

/-- The winning fields among the writes that still take part. -/
def wonFields (ts : List Taken) : List FieldRef := winners ts (refsWhere ts fun _ => true)

/-- Step 3: whether the chapter rules allow the write at a position, judged on the state that step 2 leaves with the free
fields that governed writes win, so on the values that the phase leaves (R33, R78). -/
def DictRules.judge (R : DictRules) (l : Live) (ts : List Taken) (p : Nat) : List Taken :=
  match ts[p]? with
  | none => ts
  | some t =>
    if t.out.isNone ∧ R.governs t then
      let free := (wonFields ts).filter fun f => !R.governed f.obj && R.governsAt ts f.pos
      let view := (free.foldl R.applyField (l, ts, [])).1
      let good := (t.refs p).all fun f =>
        match R.validate view t.w.rank f.obj f.item f.off f.inst f.value with
        | some v => R.allowed view t.w.rank f.obj f.item f.off f.inst v
        | none => true
      if good then ts else modifyAt (fun t => { t with out := some stModeForbids }) ts p
    else ts

/-- The order in which the writes of a phase are judged: by rank, and the later of one master first (R78). -/
def judgeOrder (ts : List Taken) : List Nat :=
  (sortBy (fun (e : Nat × Taken) => e.2.w.rank) ((positions ts).reverse)).map Prod.fst

/-- The superseded mask of a write, given the fields that won. -/
def Taken.lost (won : List FieldRef) (e : Nat × Taken) : Taken :=
  if e.2.out.isNone then
    let lost := (e.2.refs e.1).filter fun f => !won.any fun g => g.pos == f.pos && g.sub == f.sub
    { e.2 with superMask := lost.foldl (fun m f => m ||| subBit f.sub) 0 }
  else e.2

/-- The status with which a write is known to fail check 13, by position. -/
def failsWith (skip : List (Nat × Nat)) (p : Nat) : Nat := ((skip.find? fun x => x.1 == p).map Prod.snd).getD stOk

/-- Step 5: one command; `won` are the commands of the phase, `skip` the writes known to fail check 13. -/
def DictRules.startCommand (R : DictRules) (won : List FieldRef) (skip : List (Nat × Nat)) (acc : Live × List Taken)
    (f : FieldRef) : Live × List Taken :=
  match acc.2[f.pos]? with
  | none => acc
  | some t =>
    if won.any fun g => R.yields f.obj f.item g.obj g.item then
      (acc.1, modifyAt (fun t => { t with out := some stSuperseded, superMask := t.w.allBits }) acc.2 f.pos)
    else
    match R.validate acc.1 t.w.rank f.obj f.item f.off f.inst f.value with
    | none => acc
    | some v =>
      let r := R.start acc.1 t.w.rank t.w f.obj f.item f.off f.inst v
      let after := fun (t : Taken) =>
        if r.1 = stSuperseded then { t with out := some stSuperseded, superMask := t.w.allBits } else { t with started := r.1 }
      let known := failsWith skip f.pos
      if known ≠ stOk ∧ r.1 = stOk then (acc.1, modifyAt (fun t => { t with started := known }) acc.2 f.pos)
      else (r.2, modifyAt after acc.2 f.pos)

/-- The effects of one commit phase, in the five steps of R78; `skip` are the writes known to fail check 13, which win their
contention and apply nothing.  A field that an ungoverned write wins over all is settled in step 2, any other in step 4. -/
def DictRules.commitWith (R : DictRules) (l : Live) (taken : List PendingWrite) (skip : List (Nat × Nat)) :
    Live × List Taken :=
  let ts1 := R.setAside l (taken.map (R.stepOne l))
  let early := (wonFields ts1).filter fun f => !R.governsAt ts1 f.pos
  let s2 := early.foldl R.applyField (l, ts1, [])
  let l2 := R.committed s2.2.2 s2.1
  let ts3 := (judgeOrder s2.2.1).foldl (R.judge l2) s2.2.1
  let won := wonFields ts3
  let late := won.filter fun f => failsWith skip f.pos == stOk && !early.any fun g => g.pos == f.pos && g.sub == f.sub
  let s4 := late.foldl R.applyField (l2, ts3, [])
  let l4 := R.committed s4.2.2 s4.1
  let ts5 := (positions s4.2.1).map (Taken.lost won)
  let cmds := won.filter fun f => f.obj.acc == .cmd
  (sortBy (fun (f : FieldRef) => R.order f.obj f.item) cmds).foldl (R.startCommand cmds skip) (l4, ts5)

/-- The record writes of a phase that failed check 13 with fields of their own applied. -/
def failedRecords (ts : List Taken) (skip : List (Nat × Nat)) : List (Nat × Nat) :=
  (positions ts).filterMap fun e =>
    if e.2.started ≠ stOk ∧ 1 < e.2.w.fields.length ∧ failsWith skip e.1 = stOk then some (e.1, e.2.started) else none

/-- One commit phase: a record write that fails check 13 has no effect, so the phase is settled again without its fields (R78,
R79); each round settles one write more at least. -/
def DictRules.commitRounds (R : DictRules) (l : Live) (taken : List PendingWrite) : Nat → List (Nat × Nat) → Live × List Taken
  | 0, skip => R.commitWith l taken skip
  | n + 1, skip =>
    let r := R.commitWith l taken skip
    match failedRecords r.2 skip with
    | [] => r
    | more => R.commitRounds l taken n (skip ++ more)

/-- The effects of one commit phase (R78). -/
def DictRules.commitTaken (R : DictRules) (l : Live) (taken : List PendingWrite) : Live × List Taken :=
  R.commitRounds l taken taken.length []

/-- The response of a taken write (R79, R102). -/
def Taken.response (t : Taken) (beat : Nat) : Response :=
  let status := match t.out with
    | some c => c
    | none => if t.started ≠ 0 then t.started else if t.superMask ≠ 0 then stSuperseded
              else if t.clampMask ≠ 0 then stClamped else stOk
  let refused := t.started ≠ 0 ∨ (t.out.isSome ∧ t.out ≠ some stSuperseded)
  let block := u64 beat ++ u64 (if refused then 0 else t.clampMask) ++ u64 (if refused then 0 else t.superMask)
  { rank := t.w.rank, op := t.w.op, reqId := t.w.reqId, index := t.w.index, sub := t.w.sub, status := status,
    payload := (if t.w.op = 5 then u16 t.w.segNo else []) ++ block }

/-- A write of LC_COMMAND that asks for an action (R142). -/
def PendingWrite.asksLife (w : PendingWrite) : Bool :=
  w.index == 0x0011 && w.fields.any fun f => f.1 == 1 && 1 ≤ f.2 && f.2 ≤ 3

/-- Answer a taken write, journal its clamps and count what it lost.  A life-cycle command that the unit mode refuses raises
event 18 as any other refusal of it does (R142). -/
def Live.answerTaken (l : Live) (t : Taken) : Live :=
  let r := t.response l.now
  let l1 := l.answerAs t.w.seen (if t.w.op = 5 then [4, 5] else [t.w.op]) r
  let l2 := if t.clampMask ≠ 0 ∧ t.out.isNone ∧ t.started = 0 then l1.clampJournal t.w r.status t.clampMask else l1
  let lost := (t.w.fields.filter fun f => (t.superMask &&& subBit f.1) != 0).length
  let l3 := if lost = 0 ∨ t.started ≠ 0 then l2 else l2.count .SUPERSEDED_TOTAL lost
  if t.out = some stModeForbids ∧ t.w.asksLife then l3.raise 18 else l3

/-- Phase 3, the dictionary's part (R77 to R79). -/
def DictRules.commitPhase (R : DictRules) (l : Live) : Live :=
  let order := l.commitOrder
  let (taken, left) := fitWrites 64 order
  let newly := (left.filter fun w => !w.carried).length
  let rest := (l.dict.queue.filter fun w => !taken.any fun t => t.order == w.order).map fun w =>
    if left.any fun x => x.order == w.order then { w with carried := true } else w
  let l1 := (l.setDict fun d => { d with queue := rest }).count .CARRIED_TOTAL newly
  let l2 := l1.wr .LAST_COMMIT_COUNT (sumOf (fun w => w.fields.length) taken)
  let (l3, ts) := R.commitTaken l2 taken
  ts.foldl Live.answerTaken l3

/-- Queued writes of a tenancy's own masters are withdrawn and answered SUPERSEDED, with every field marked (R90). -/
def Live.supersedeQueued (l : Live) (tn : Nat) : Live :=
  let mine := l.dict.queue.filter fun w => l.masterTenancy w.rank == tn
  let l1 := l.setDict fun d => { d with queue := d.queue.filter fun w => l.masterTenancy w.rank != tn }
  mine.foldl (fun l w => l.answerTaken { w := w, out := some stSuperseded, superMask := w.allBits }) l1

end Sys2Proof.Machine
end

