-- ==== Sys2Proof/Machine/Power.lean ====
section
/-! DEFINITION. Power modules, the budget, the arbiter and PoE ports (spec/06_power_poe.md). -/

namespace Sys2Proof.Machine

open Sys2Proof

def Live.setPower (l : Live) (f : Power → Power) : Live := { l with power := f l.power }
def Live.setModule (l : Live) (b : Nat) (f : Module → Module) : Live :=
  l.setPower fun p => { p with modules := p.modules.upd b f }
def Live.setPse (l : Live) (k : Nat) (f : Pse → Pse) : Live := l.setPower fun p => { p with ports := p.ports.upd k f }

/-- The bays that the fitting has (R1, R219). -/
def bays : Nat := if Config.twoBays then 2 else 1

/-! ### Modules (R191 to R196) -/

/-- Module state codes (R191). -/
def modAbsent := 0
def modHigh := 1
def modLow := 2
def modWarning := 3
def modFailed := 4
def modOutOfRange := 5

/-- The temperature factor in percent (R193): 2 % less for each whole degree above 50 °C, 70 % at least. -/
def tempFactor (inlet : Int) : Nat := max 70 (100 - 2 * ((inlet - 500) / 10).toNat)

/-- The limit of a module's report in 0.1 W (R191, R193). -/
def Module.limit (m : Module) : Nat :=
  if m.report = modHigh then 16000 * tempFactor m.inlet / 100
  else if m.report = modLow then 10000 * tempFactor m.inlet / 100
  else 0

/-- Whether an input lies in the AC or the DC range; volts and hertz in tenths (R191). -/
def inputInRange (dc : Bool) (volts hz : Nat) : Bool :=
  if dc then 1920 ≤ volts && volts ≤ 2880 else 850 ≤ volts && volts ≤ 2770 && 470 ≤ hz && hz ≤ 630

/-- The first line state of a module (R192). -/
def firstLine (dc : Bool) (volts : Nat) : Nat := if dc ∨ 1800 ≤ volts then modHigh else modLow

/-- A module carries load: its output is in regulation. -/
def Module.carries (m : Module) : Bool := m.report == modHigh || m.report == modLow

/-- Another module than that of bay `b` carries load. -/
def Live.otherCarries (l : Live) (b : Nat) : Bool :=
  (List.range bays).any fun c => c != b && (l.power.modules.get c).carries

/-- The line state of a module whose input is as given: ABSENT until its output is first in regulation (R192, R196). -/
def lineState (dc : Bool) (volts hz : Nat) : Nat := if inputInRange dc volts hz then firstLine dc volts else modAbsent

/-- A module is inserted: event 96, and its first line state once its output is in regulation (R192, R196). -/
def Live.psuInserted (l : Live) (b : Nat) (dc : Bool) (volts hz : Nat) (inlet : Int) (serial : Nat) : Live :=
  if b < bays ∧ ¬ (l.power.modules.get b).fitted then
    (l.setModule b fun _ => { report := lineState dc volts hz, fitted := true, kind := dc.toNat, volts := volts,
                              hz := if dc then 0 else hz, inlet := inlet, serial := serial % 2 ^ 96 }).raise 96 (u8 b)
  else l

def execPsuInserted (bay : Fin 2) (dc : Bool) (volts hz : Nat) (inlet : Int) (serial : Nat) (s : State) :
    Host.Outcome State Fault Refusal := s.effect fun l => l.psuInserted bay.val dc volts hz inlet serial

/-- A withdrawn module reports FAILED, and ABSENT from the next beat; event 97 (R196). -/
def Live.psuRemoved (l : Live) (b : Nat) : Live :=
  let m := l.power.modules.get b
  if b < bays ∧ m.fitted ∧ ¬ m.leaving then
    (l.setModule b fun m => if m.report = modAbsent then {} else { m with report := modFailed, leaving := true }).raise 97 (u8 b)
  else l

def execPsuRemoved (bay : Fin 2) (s : State) : Host.Outcome State Fault Refusal := s.effect fun l => l.psuRemoved bay.val

/-- The AC input of a HIGH_LINE module falls below 176 V (R192). -/
def execModuleLineFall (bay : Fin 2) (volts : Nat) (s : State) : Host.Outcome State Fault Refusal :=
  s.effect fun l =>
    let m := l.power.modules.get bay.val
    if m.report = modHigh ∧ m.kind = 0 ∧ volts < 1760 ∧ 850 ≤ volts then
      l.setModule bay.val fun m => { m with report := modLow, volts := volts, aboveSince := none }
    else l

/-- A LOW_LINE module's input has stayed above 184 V for 8,000 beats (R192). -/
def Live.lineRise (l : Live) (bay : Nat) : Live :=
  let m := l.power.modules.get bay
  match m.aboveSince with
  | some t => if m.report = modLow ∧ t + 8000 ≤ l.ticks then
      l.setModule bay fun m => { m with report := modHigh, aboveSince := none } else l
  | none => l

def execModuleLineRise (bay : Fin 2) (s : State) : Host.Outcome State Fault Refusal :=
  s.effect fun l => l.lineRise bay.val

/-- Firmware writes the shutdown record on the warning of the last module that carries load (R164). -/
def Live.shutdownRecord (l : Live) (reason : Nat) : Live :=
  { l with modes := { l.modes with
      shutdown := some { beat := l.now, mode := l.mode.code, causes := l.rd .MODE_CAUSES, reason := reason } } }

/-- The power-fail warning of a module that carries load: WARNING at once and event 99; where no other carries, the shutdown
record follows (R164, R191, R194). -/
def Live.powerFailWarning (l : Live) (b : Nat) : Live :=
  if (l.power.modules.get b).carries then
    let l1 := (l.setModule b fun m => { m with report := modWarning, aboveSince := none }).raise 99 (u8 b)
    if l.otherCarries b ∨ l.mode = .off then l1 else l1.shutdownRecord 0
  else l

/-- A module's input is lost (R191, R194). -/
def execPsuPowerFailWarning (bay : Fin 2) (s : State) : Host.Outcome State Fault Refusal :=
  s.effect fun l => l.powerFailWarning bay.val

/-- The warning of the last module that carries load (R164); where that module has warned already, the record is written. -/
def Live.lastWarning (l : Live) : Live :=
  match (List.range bays).filter fun b => (l.power.modules.get b).carries with
  | [] => if l.mode = .off then l else l.shutdownRecord 0
  | [b] => l.powerFailWarning b
  | _ => l

/-- A present module's output leaves regulation, or its report stops (R191, R225). -/
def execPsuFailed (bay : Fin 2) (s : State) : Host.Outcome State Fault Refusal :=
  s.effect fun l =>
    if (l.power.modules.get bay.val).report ≠ modAbsent then
      l.setModule bay.val fun m => { m with report := modFailed, aboveSince := none }
    else l

/-- A module's input leaves both ranges (R191). -/
def execPsuInputOutOfRange (bay : Fin 2) (volts hz : Nat) (s : State) : Host.Outcome State Fault Refusal :=
  s.effect fun l =>
    let m := l.power.modules.get bay.val
    if m.report ≠ modAbsent ∧ ¬ m.leaving ∧ ¬ inputInRange (m.kind == 1) volts hz then
      l.setModule bay.val fun m =>
        { m with report := modOutOfRange, volts := volts, hz := if m.kind = 1 then 0 else hz, aboveSince := none }
    else l

/-- A module whose input was lost or out of range regains it and reports its line state again (R136, R192). -/
def Live.mainsRestored (l : Live) (b : Nat) (dc : Bool) (volts hz : Nat) : Live :=
  let m := l.power.modules.get b
  if m.fitted ∧ ¬ m.carries ∧ ¬ m.leaving ∧ inputInRange dc volts hz then
    let l1 := if l.otherCarries b then l.wakeBy 4 else l
    l1.setModule b fun m =>
      { m with report := firstLine dc volts, kind := dc.toNat, volts := volts, hz := if dc then 0 else hz, aboveSince := none }
  else l

def execMainsRestored (bay : Fin 2) (dc : Bool) (volts hz : Nat) (s : State) : Host.Outcome State Fault Refusal :=
  s.effect fun l => l.mainsRestored bay.val dc volts hz

/-- The outputs of every module collapse or are turned off: each present module reports OUT_OF_RANGE or FAILED. -/
def Live.modulesDark (l : Live) : Live :=
  l.forN bays fun l b =>
    if (l.power.modules.get b).report = modAbsent then l
    else l.setModule b fun m => { m with report := modOutOfRange, output := 0, aboveSince := none }

/-- Phase 2: readings of a module reach its report (R191 to R193). -/
def Live.moduleReading (l : Live) (r : ModuleReport) : Live :=
  if (l.power.modules.get r.bay.val).report = modAbsent then l
  else l.setModule r.bay.val fun m =>
    { m with volts := r.volts, hz := if m.kind = 1 then 0 else r.hz, output := r.output, inlet := r.inlet }

/-- Phase 2: the reports of the modules are sampled into the module objects (R42, R191, R219). -/
def Live.sampleModules (l : Live) : Live :=
  l.forN bays fun l b =>
    let m := l.power.modules.get b
    let above := m.report == modLow && m.kind == 0 && decide (1840 < m.volts)
    let absent := m.report = modAbsent
    let l1 := ((((((((l.wr .STATE_0200 m.report b).wr .INPUT_KIND (if absent then 0xFF else m.kind) b).wrSat .INPUT_VOLTS
      m.volts b).wrSat .INPUT_HZ m.hz b).wr .LIMIT m.limit b).wrSat .OUTPUT m.output b).wrI .INLET_TEMP
      (if absent then 0 else m.inlet) b).wr .MODULE_SERIAL m.serial b)
    l1.setModule b fun m =>
      if m.leaving then {}
      else { m with aboveSince := if above then (match m.aboveSince with | some t => some t | none => some l.ticks) else none }

/-! ### The budget (R197, R198) -/

/-- TOTAL (R197). -/
def Live.totalPower (l : Live) : Nat :=
  let a := l.rd .LIMIT 0
  let b := if bays = 2 then l.rd .LIMIT 1 else 0
  if bays = 2 ∧ l.rd .BUDGET_MODE = 1 then (if a ≠ 0 ∧ b ≠ 0 then min a b else a + b) else a + b

/-- POOL (R198). -/
def Live.poolPower (l : Live) : Nat := min (l.totalPower - 2600) (l.rd .POE_BUDGET_CAP)

/-- Step 1: the pool, and event 104 for its falls. -/
def Live.computePool (l : Live) : Live :=
  let old := l.rd .POOL
  let new := l.poolPower
  let l1 := (l.wr .TOTAL l.totalPower).wr .POOL new
  if new < old then (l1.wr .LAST_POOL_FALL l.now).raise 104 (u32 old ++ u32 new) else l1

/-! ### Silicon tokens (R201 to R203) -/

/-- The size of a deferrable token. -/
def tokenSize (r : Nat) : Nat := [300, 80, 140, 140].getD r 0

/-- A requester's token: 16-bit fields of SILICON_TOKENS, requester 0 first. -/
def Live.token (l : Live) (r : Nat) : Nat := bits (l.rd .SILICON_TOKENS) (16 * (15 - r)) 16
def Live.setToken (l : Live) (r v : Nat) : Live :=
  l.wr .SILICON_TOKENS (setBits (l.rd .SILICON_TOKENS) (16 * (15 - r)) 16 v)

def Live.tokenSum (l : Live) : Nat := sumOf l.token (List.range 16)

/-- A deferrable requester asks for its whole token (R202). -/
def Live.siliconRequest (l : Live) (r : Nat) : Live :=
  if r < 4 ∧ l.token r = 0 then
    match l.power.waiting.get r with
    | some _ => l
    | none => l.setPower fun p => { p with waiting := p.waiting.put r (some 0) }
  else l

/-- A requester gives its token back, or ceases to ask (R202). -/
def Live.siliconRelease (l : Live) (r : Nat) : Live :=
  if r < 4 then (l.setToken r 0).setPower fun p => { p with waiting := p.waiting.del r } else l

/-- A deferrable requester wants its token: an engine with a job and BOOST_ENABLE (R551), a channel that served more than
60 % of its peak in the beat before (R516). -/
def Live.siliconWants (l : Live) (r : Nat) : Bool :=
  match r with
  | 0 => l.rdB .BOOST_ENABLE 0 && !l.comp.queue.isEmpty
  | 1 => l.rdB .BOOST_ENABLE 1 && !l.mover.queue.isEmpty
  | 2 => decide (1920000 < l.dram.ch0.served)
  | _ => decide (1920000 < l.dram.ch1.served)

/-- Its burst has ended: an empty queue, or at most 50 % of peak served. -/
def Live.siliconEnds (l : Live) (r : Nat) : Bool :=
  match r with
  | 0 => l.comp.queue.isEmpty || !l.rdB .BOOST_ENABLE 0
  | 1 => l.mover.queue.isEmpty || !l.rdB .BOOST_ENABLE 1
  | 2 => decide (l.dram.ch0.served ≤ 1600000)
  | _ => decide (l.dram.ch1.served ≤ 1600000)

def execSiliconRequest (r : Fin 4) (s : State) : Host.Outcome State Fault Refusal :=
  s.effect fun l => if l.mode.engineOn ∧ l.siliconWants r.val then l.siliconRequest r.val else l
def execSiliconRelease (r : Fin 4) (s : State) : Host.Outcome State Fault Refusal :=
  s.effect fun l => if l.siliconEnds r.val then l.siliconRelease r.val else l

/-- Level event 108: some request has waited 8 consecutive beats (R202). -/
def Live.siliconWaits (l : Live) : Bool :=
  l.power.waiting.any fun e => match e.2 with | some n => decide (8 ≤ n) | none => false

/-! ### PoE ports (R204 to R210) -/

/-- Port states and reasons (R205). -/
def poeOff := 0
def poeSearching := 1
def poeWaiting := 2
def poePowered := 3
def poeShed := 4
def poeHold := 5

/-- Class allocations (R204). -/
def classAllocation (c : Nat) : Nat := [154, 40, 70, 154, 300, 450, 600, 750, 900].getD c 0

/-- A class after demotion to CLASS_LIMIT: never more than the limit's allocation (R204). -/
def demoted (c limit : Nat) : Nat := min (classAllocation c) (classAllocation limit)

/-- A port's allocation, the sum over both pair sets of a dual-signature PD (R204). -/
def Live.allocation (l : Live) (k : Nat) : Nat :=
  let lim := l.rd .CLASS_LIMIT k
  let second := match (l.power.ports.get k).class2 with
    | some c => demoted c lim
    | none => 0
  if l.rd .CLASS k = 0xFF then 0 else min 900 (demoted (l.rd .CLASS k) lim + second)

/-- The upper limit of a grant: the allocation, or what LLDP agreed (R208, R210). -/
def Live.grantCeiling (l : Live) (k : Nat) : Nat :=
  let a := l.allocation k
  let g := l.rd .AGREED k
  if g = 0 then a else min a g

/-- The mean of the last 8 draws, rounded up, once there are 8 (R208). -/
def Live.meanDraw (l : Live) (k : Nat) : Option Nat :=
  let ds := (l.power.ports.get k).draws
  if ds.length < 8 then none else some (cdiv (sumOf id ds) 8)

/-- The grant of a powered port under its policy (R208). -/
def Live.grantOf (l : Live) (k : Nat) : Nat :=
  let top := l.grantCeiling k
  if l.rd .POLICY k = 0 then top
  else if l.ticks < (l.power.ports.get k).onTick + 8 then top
  else
    match l.meanDraw k with
    | some a => min top (a + l.rd .MEASURED_MARGIN k)
    | none => l.rd .GRANT k

/-- A port changes state: event 128+k for entry to POWERED, SHED or HOLD, and for leaving POWERED (R207).  The end of a hold
empties the fault window (R217). -/
def Live.poeTo (l : Live) (k state reason : Nat) : Live :=
  let was := l.rd .STATE_0340 k
  let l1 := (l.wr .STATE_0340 state k).wr .REASON reason k
  let l2 := if state = poePowered then l1
    else ((l1.wr .GRANT 0 k).wr .AGREED 0 k).wr .MEASURED 0 k |>.setPse k fun p =>
      { p with draws := [], drawn := false, request := none }
  let l3 := if state = poeShed then l2 else l2.wr .CLAIM 0 k
  let l4 := if state = poeOff ∨ state = poeSearching then
      ((l3.wr .CLASS 0xFF k).wr .PD_TYPE 0 k).setPse k fun p => { p with class2 := none }
    else l3
  let l5 := if state = poeHold then l4
    else if was = poeHold then
      ((l4.wr .HOLD_REMAINING 0 k).wr .FAULTS_IN_WINDOW 0 k).setPse k fun p => { p with holdEnd := none, faults := [] }
    else l4
  let tells := state != was && (state == poePowered || state == poeShed || state == poeHold || was == poePowered)
  if tells then l5.raise (128 + k) (u8 state ++ u8 reason) (l.portOwner k) else l5

/-- A port receives its grant (R206, R211). -/
def Live.powerOn (l : Live) (k grant : Nat) : Live :=
  (((l.poeTo k poePowered 0).wr .GRANT grant k).wr .POWER_ON_BEAT l.now k).setPse k fun p =>
    { p with onTick := l.ticks, draws := [], drawn := false, lastGrant := grant }

/-- A measured draw reaches its port's samples; a port whose controller does not report draws its allocation
(R208, R225). -/
def Live.drawSample (l : Live) (k v : Nat) : Live :=
  if l.rd .STATE_0340 k = poePowered then
    let x := if bit l.power.pseFault k then l.allocation k else v
    l.setPse k fun p => { p with draws := (x :: p.draws).take 8, drawn := p.drawn || decide (0 < v) }
  else l

/-- Phase 2: the draws of a beat; a port without a reading repeats its last (R208). -/
def Live.sampleDraws (l : Live) (draws : List (Fin 48 × Nat)) : Live :=
  l.forN 48 fun l k =>
    let last := (l.power.ports.get k).draws.headD 0
    let v := match draws.find? fun d => d.1.val == k with
      | some d => d.2
      | none => last
    l.drawSample k v

/-! ### Events of the PSE (R206, R217, R225) -/

/-- Modes in which the arbiter runs in full (R218). -/
def Mode.arbiterFull : Mode → Bool
  | .configure | .service | .island | .backfill | .lean => true
  | _ => false

def execPdClassified (k : Fin 48) (cls : Fin 9) (second : Option (Fin 9)) (type : Fin 5) (s : State) :
    Host.Outcome State Fault Refusal :=
  s.effect fun l =>
    if l.rd .STATE_0340 k.val = poeSearching then
      ((((l.wr .STATE_0340 poeWaiting k.val).wr .REASON 0 k.val).wr .CLASS cls.val k.val).wr .PD_TYPE
        (type.val + (if second.isSome then 0x80 else 0)) k.val).setPse k.val fun p => { p with class2 := second.map Fin.val }
    else l

/-- A counted fault: the fourth within 480,000 beats of the first of the four puts the port in HOLD (R217). -/
def Live.poeFault (l : Live) (k reason : Nat) : Live :=
  let p := l.power.ports.get k
  let fs := p.faults.filter fun t => l.ticks ≤ t + 480000
  if fs.length < 3 then
    ((l.poeTo k poeSearching reason).setPse k fun p => { p with faults := fs ++ [l.ticks] }).wr .FAULTS_IN_WINDOW
      (fs.length + 1) k
  else
    let hold := 240000 * 2 ^ l.rd .BACKOFF_LEVEL k
    (((l.poeTo k poeHold 10).setPse k fun p => { p with faults := fs ++ [l.ticks], holdEnd := some (l.ticks + hold) }).wr
      .HOLD_REMAINING hold k).wr .FAULTS_IN_WINDOW 3 k

/-- No power-up within 800 beats of the grant (R206). -/
def Live.startupFault (l : Live) (k : Nat) : Live :=
  let p := l.power.ports.get k
  if l.rd .STATE_0340 k = poePowered ∧ p.onTick + 800 ≤ l.ticks ∧ ¬ p.drawn then l.poeFault k 8 else l

def execFaultStartup (k : Fin 48) (s : State) : Host.Outcome State Fault Refusal :=
  s.effect fun l => l.startupFault k.val

/-- The maintain-power signature is lost (R206). -/
def execPdRemoved (k : Fin 48) (s : State) : Host.Outcome State Fault Refusal :=
  s.effect fun l => if l.rd .STATE_0340 k.val = poePowered then l.poeTo k.val poeSearching 9 else l

/-- An overload or a short circuit (R206). -/
def execPdFault (k : Fin 48) (short : Bool) (s : State) : Host.Outcome State Fault Refusal :=
  s.effect fun l =>
    if l.rd .STATE_0340 k.val = poePowered then l.poeFault k.val (if short then 7 else 6) else l

/-- A hold expires (R217). -/
def Live.holdEnds (l : Live) (k : Nat) : Live :=
  match (l.power.ports.get k).holdEnd with
  | some t =>
    if l.rd .STATE_0340 k = poeHold ∧ t ≤ l.ticks then
      (l.poeTo k poeSearching 0).wr .BACKOFF_LEVEL (min 4 (l.rd .BACKOFF_LEVEL k + 1)) k
    else l
  | none => l

def execHoldEnd (k : Fin 48) (s : State) : Host.Outcome State Fault Refusal := s.effect fun l => l.holdEnds k.val

/-- Ten minutes of continuous POWERED (R217). -/
def Live.backoffReset (l : Live) (k : Nat) : Live :=
  if l.rd .STATE_0340 k = poePowered ∧ (l.power.ports.get k).onTick + 4800000 ≤ l.ticks then
    l.wr .BACKOFF_LEVEL 0 k
  else l

def execBackoffLevelReset (k : Fin 48) (s : State) : Host.Outcome State Fault Refusal :=
  s.effect fun l => l.backoffReset k.val

/-- A PD's Power via MDI request, which waits for the next boundary; 0 is no request (R210). -/
def execLldpPowerRequest (k : Fin 48) (watts : Nat) (s : State) : Host.Outcome State Fault Refusal :=
  s.effect fun l =>
    if l.rd .STATE_0340 k.val = poePowered ∧ l.rdB .LLDP_POWER k.val ∧ watts ≠ 0 then
      l.setPse k.val fun p => { p with request := some watts }
    else l

/-- Every port's bit. -/
def allPorts48 : Nat := 2 ^ 48 - 1

/-- The PSE controller stops reporting for a set of ports; a fault over every port turns them all off (R225). -/
def execPseControllerFault (ports : Nat) (s : State) : Host.Outcome State Fault Refusal :=
  s.effect fun l =>
    let mask := l.power.pseFault ||| ports % 2 ^ 48
    let l1 := l.setPower fun p => { p with pseFault := mask }
    if mask = allPorts48 then l1.forN 48 fun l k => if l.rd .STATE_0340 k = poeOff then l else l.poeTo k poeOff 2 else l1

/-- The controller reports again; ports held OFF leave that hold at the arbiter's next step (R225). -/
def execPseControllerFaultClear (ports : Nat) (s : State) : Host.Outcome State Fault Refusal :=
  s.effect fun l => l.setPower fun p => { p with pseFault := p.pseFault - (p.pseFault &&& ports % 2 ^ 48) }

/-- ENABLE commits from 0 to 1: the backoff level is 0 again (R217). -/
def Live.poeEnabled (l : Live) (k : Nat) : Live := l.wr .BACKOFF_LEVEL 0 k

/-! ### The arbiter's steps (R199 to R217) -/

def Live.grantSum (l : Live) : Nat := sumOf (fun k => l.rd .GRANT k) (List.range 48)
def Live.claimSum (l : Live) : Nat := sumOf (fun k => l.rd .CLAIM k) (List.range 48)
def Live.demand (l : Live) : Nat := l.grantSum + l.tokenSum

/-- The grants of a tenancy's ports. -/
def Live.tenancyGrants (l : Live) (n : Nat) : Nat :=
  sumOf (fun k => if l.portOwner k = n then l.rd .GRANT k else 0) (List.range 48)

/-- The cap of the port's owner covers `more` beyond its grants (R216). -/
def Live.capCovers (l : Live) (k more : Nat) : Bool :=
  let n := l.portOwner k
  n == 0 || decide (l.tenancyGrants n + more ≤ l.rd .POE_QUOTA n)

/-- Ports in shedding order: lowest priority, then latest POWER_ON_BEAT, then highest number first (R213). -/
def Live.shedOrder (l : Live) (ks : List Nat) : List Nat :=
  (sortBy (fun k => l.rd .PRIORITY_0300 k)
    (sortBy (fun k => l.rd .POWER_ON_BEAT k) (sortBy (fun k => k) ks))).reverse

/-- Restore order: the reverse (R212). -/
def Live.restoreOrder (l : Live) (ks : List Nat) : List Nat := (l.shedOrder ks).reverse

/-- The ports in a state. -/
def Live.poePorts (l : Live) (state : Nat) : List Nat := (List.range 48).filter fun k => l.rd .STATE_0340 k == state

/-- Step 2 for one port: setting, owner and controller; an OFF port that may run searches (R215, R216, R218, R225). -/
def Live.portSettings (l : Live) (k : Nat) : Live :=
  let st := l.rd .STATE_0340 k
  let off := fun (reason : Nat) => if st = poeOff ∧ l.rd .REASON k = reason then l else l.poeTo k poeOff reason
  if ¬ l.rdB .ENABLE_0300 k then off 1
  else if ¬ l.tnActive (l.portOwner k) then off 5
  else if l.power.pseFault = allPorts48 then off 2
  else if st = poeOff then l.poeTo k poeSearching 0
  else l

/-- The 8-beat mean of a powered port's draws (R221). -/
def Live.measuredShown (l : Live) (k : Nat) : Live :=
  if l.rd .STATE_0340 k = poePowered then l.wr .MEASURED ((l.meanDraw k).getD 0) k else l

/-- Step 2 for one powered port: its grant under policy (R208, R209). -/
def Live.portGrant (l : Live) (k : Nat) : Live :=
  if l.rd .STATE_0340 k ≠ poePowered then l
  else
    let l0 := if l.rdB .LLDP_POWER k then l else (l.wr .AGREED 0 k).setPse k fun p => { p with request := none }
    (l0.wr .GRANT (l0.grantOf k) k).measuredShown k

/-- Step 2 for one powered port whose PD has asked by LLDP, once every measured grant has been recomputed (R210, R224). -/
def Live.portRequest (l : Live) (k : Nat) : Live :=
  match (l.power.ports.get k).request with
  | none => l
  | some r =>
    if l.rd .STATE_0340 k ≠ poePowered then l
    else
      let now := l.grantCeiling k
      let want := min r (l.allocation k)
      let l2 := l.setPse k fun p => { p with request := none }
      let trial := l2.wr .AGREED want k
      let more := trial.grantOf k - l.rd .GRANT k
      if want ≤ now ∨ (l2.demand + more ≤ l2.rd .POOL ∧ l2.capCovers k more) then
        trial.wr .GRANT (trial.grantOf k) k
      else l2.wr .AGREED now k

/-- Shed one port for budget: its last grant is its claim (R213). -/
def Live.shedBudget (l : Live) (k : Nat) : Live :=
  let g := l.rd .GRANT k
  (((l.poeTo k poeShed 3).wr .CLAIM g k).count .SHED_TOTAL).setPower fun p => { p with lastBudget := some l.ticks }

/-- Shed one port for its tenancy's cap: it holds no claim (R216). -/
def Live.shedCap (l : Live) (k : Nat) : Live :=
  let g := l.rd .GRANT k
  (((l.poeTo k poeShed 4).setPse k fun p => { p with lastGrant := g }).count .SHED_TOTAL).setPower fun p =>
    { p with lastCap := some l.ticks }

/-- Step 3: the caps, in ascending tenancy order, with event 110 for each tenancy that sheds (R216). -/
def Live.tenancyCaps (l : Live) : Live :=
  (List.range 8).foldl (fun l n =>
    if n = 0 then l
    else
      let mine := (l.poePorts poePowered).filter fun k => l.portOwner k == n
      let before := l.poePorts poeShed
      let l1 := (l.shedOrder mine).foldl (fun l k =>
        if l.rd .POE_QUOTA n < l.tenancyGrants n then l.shedCap k else l) l
      let shed := (l1.poePorts poeShed).filter fun k => !before.contains k
      if shed = [] then l1 else l1.raise 110 (u64 (maskOf shed) ++ u32 shed.length) n) l

/-- Ports SHED with reason BUDGET (R214). -/
def Live.poeBudgetShed (l : Live) : List Nat := (l.poePorts poeShed).filter fun k => l.rd .REASON k == 3

/-- Step 5: tokens are revoked, then ports shed, until demand fits the pool (R203, R213). -/
def Live.shedForBudget (l : Live) : Live :=
  let pool := l.rd .POOL
  if l.demand ≤ pool then l
  else
    let deficit := l.demand - pool
    let l1 := [3, 2, 1, 0].foldl (fun l r => if pool < l.demand ∧ l.token r ≠ 0 then l.setToken r 0 else l) l
    let l2 := if l1.tokenSum < l.tokenSum then l1.raise 107 else l1
    let before := l2.poePorts poePowered
    let l3 := (l2.shedOrder before).foldl (fun l k => if pool < l.demand then l.shedBudget k else l) l2
    let n := before.length - (l3.poePorts poePowered).length
    if n = 0 then l3
    else
      let shed := l3.poeBudgetShed
      let l4 := ((l3.raise 105 (u32 n ++ u32 deficit)).recoveryStart 5 0 0xFF).recoveryPeak 5 shed.length (maskOf shed)
      if l.demand - l.token 4 ≤ pool then l4.raise 109 else l4

/-- Step 6: deferrable requests from the headroom, in ascending number (R202). -/
def Live.grantTokens (l : Live) : Live :=
  (List.range 4).foldl (fun l r =>
    match l.power.waiting.get r with
    | none => l
    | some n =>
      if l.demand + tokenSize r ≤ l.rd .POOL then
        (l.setToken r (tokenSize r)).setPower fun p => { p with waiting := p.waiting.del r }
      else l.setPower fun p => { p with waiting := p.waiting.put r (some (n + 1)) }) l

/-- Whether a SHED port may be released; `ahead` is the sum of the claims of it and of those before it (R212). -/
def Live.mayRelease (l : Live) (k ahead : Nat) : Bool :=
  let cap := l.rd .REASON k == 4
  let last := if cap then l.power.lastCap else l.power.lastBudget
  let held := match last with
    | some t => decide (t + l.rd .RESTORE_HOLD ≤ l.ticks)
    | none => true
  held && decide (l.demand + ahead ≤ l.rd .POOL) && (!cap || l.capCovers k (l.power.ports.get k).lastGrant)

/-- Step 7: at most one SHED port is released (R212). -/
def Live.releaseOne (l : Live) : Live :=
  let rec go : List Nat → Nat → Option Nat
    | [], _ => none
    | k :: ks, ahead =>
      let a := ahead + l.rd .CLAIM k
      if l.mayRelease k a then some k else go ks a
  match go (l.restoreOrder (l.poePorts poeShed)) 0 with
  | some k => (l.poeTo k poeSearching 0).raise 106
  | none => l

/-- Admit one WAITING port if headroom less claims and its cap cover its grant (R211). -/
def Live.admitPort (l : Live) (k : Nat) : Live :=
  let g := l.grantCeiling k
  if ¬ decide (l.demand + l.claimSum + g ≤ l.rd .POOL) then l.wr .REASON 3 k
  else if ¬ l.capCovers k g then l.wr .REASON 4 k
  else l.powerOn k g

/-- The order of admission (R211). -/
def Live.admitOrder (l : Live) : List Nat := sortBy (fun k => l.rd .PRIORITY_0300 k) (l.poePorts poeWaiting)

/-- Step 8 (R211). -/
def Live.admitPorts (l : Live) : Live :=
  (l.admitOrder.foldl (fun (acc : Live × Nat) k =>
    if acc.2 = 0 then acc
    else
      let l' := acc.1.admitPort k
      if l'.rd .STATE_0340 k = poePowered then (l', acc.2 - 1) else (l', acc.2)) (l, l.rd .ADMIT_PER_BEAT)).1

/-- The arbiter's totals (R220). -/
def Live.arbiterTotals (l : Live) : Live :=
  (((l.wr .POE_GRANTED l.grantSum).wr .SILICON_GRANTED l.tokenSum).wr .CLAIMS l.claimSum).wr .SHED_PORTS
    (maskOf (l.poePorts poeShed))

/-- Fault windows and holds as the port objects show them (R217, R221). -/
def Live.backoffShown (l : Live) : Live :=
  l.power.ports.keys.foldl (fun l k =>
    let p := l.power.ports.get k
    let fs := p.faults.filter fun t => l.ticks ≤ t + 480000
    let rem := match p.holdEnd with
      | some t => t - l.ticks
      | none => 0
    ((l.setPse k fun p => { p with faults := fs }).wr .FAULTS_IN_WINDOW (min 3 fs.length) k).wr .HOLD_REMAINING rem k) l

/-- Phase 5 in CONFIGURE to LEAN: all the steps of R199. -/
def Live.arbiterFullBeat (l : Live) : Live :=
  let l1 := l.computePool
  let l2 := l1.forN 48 Live.portSettings
  let l3 := (l2.forN 48 Live.portGrant).forN 48 Live.portRequest
  let before := l3.rd .SHED_TOTAL
  let l4 := l3.tenancyCaps
  let l5 := (l4.setToken 4 (l4.rd .BOOST_REQUEST)).shedForBudget
  let l6 := l5.grantTokens
  let quiet := l6.rd .SHED_TOTAL == before
  let l7 := if quiet then l6.releaseOne.admitPorts else l6
  l7.backoffShown.arbiterTotals

/-- Phase 5 in FREEZE: steps 1, 4 and 5; what the port objects show goes on (R218, R221). -/
def Live.arbiterFreezeBeat (l : Live) : Live :=
  let l1 := l.computePool
  ((l1.setToken 4 (l1.rd .BOOST_REQUEST)).shedForBudget.forN 48 Live.measuredShown).backoffShown.arbiterTotals

/-- In BRINGUP a tenancy is active if the stored set restores it so (R190, R216). -/
def Live.earlyOwner (l : Live) (k : Nat) : Bool := l.portOwner k == 0 || l.modes.loadedTns.get (l.portOwner k) == 1

/-- The ports that early PoE may power (R159, R216, R225). -/
def Live.earlyPorts (l : Live) : List Nat :=
  (List.range 48).filter fun k =>
    bit (l.rd .EARLY_POE_PORTS) k && l.rdB .ENABLE_0300 k && l.earlyOwner k && l.power.pseFault != allPorts48

/-- Early PoE's decision on a WAITING port: it is powered, or left with its reason until CONFIGURE's first decision (R159,
R216). -/
def Live.earlyAdmit (l : Live) (k : Nat) : Live :=
  let g := l.allocation k
  if l.rd .REASON k ≠ 0 then l
  else if l.rd .POOL < l.demand + g then l.wr .REASON 3 k
  else if ¬ l.capCovers k g then l.wr .REASON 4 k
  else l.powerOn k g

/-- Phase 5 in BRINGUP: early PoE under class policy, CRITICAL first and then ascending, within the pool (R159, R218). -/
def Live.arbiterEarlyBeat (l : Live) : Live :=
  let l1 := l.computePool
  if ¬ l.power.early then l1.arbiterTotals
  else
    let ports := l1.earlyPorts
    let l2 := l1.forL ports fun l k => if l.rd .STATE_0340 k = poeOff then l.poeTo k poeSearching 0 else l
    (l2.forL (l2.admitOrder.filter fun k => ports.contains k) Live.earlyAdmit).arbiterTotals

/-- The first CONFIGURE boundary: ports with a grant are adopted as they stand, and those without one search; a hold goes on
(R217, R218). -/
def Live.poeAdopt (l : Live) : Live :=
  l.forN 48 fun l k =>
    let st := l.rd .STATE_0340 k
    if st = poeWaiting ∨ st = poeShed then l.poeTo k poeSearching 0 else l

/-- Every port OFF with reason MODE (R218). -/
def Live.poeAllOff (l : Live) : Live :=
  (l.forN 48 fun l k => if l.rd .STATE_0340 k = poeOff ∧ l.rd .REASON k = 2 then l else l.poeTo k poeOff 2).arbiterTotals

/-- Phase 5 by mode (R199, R218). -/
def Live.arbiterBeat (l : Live) : Live :=
  match l.mode with
  | .bringup => l.arbiterEarlyBeat
  | .freeze => l.arbiterFreezeBeat
  | .configure | .service | .island | .backfill | .lean => l.arbiterFullBeat
  | _ => l

/-- LEAN_CAUSE: some port is SHED with reason BUDGET (R214). -/
def Live.leanCause (l : Live) : Bool := !l.poeBudgetShed.isEmpty

/-- The lowest bay whose sampled module satisfies `p`. -/
def Live.bayWhere (l : Live) (p : Nat → Bool) : Option Nat := (List.range bays).find? p

/-- Standing level conditions of power (R197, R202, R222, R225). -/
def Live.powerLevels (l : Live) : List (Nat × Nat × List Byte) :=
  let bay := fun (src : Nat) (p : Nat → Bool) =>
    match l.bayWhere p with
    | some b => [(src, 0, u8 b)]
    | none => []
  bay 98 (fun b => l.rd .STATE_0200 b == modFailed)
  ++ bay 100 (fun b => l.rd .STATE_0200 b == modLow)
  ++ bay 101 (fun b => l.rd .STATE_0200 b == modOutOfRange)
  ++ bay 102 (fun b => l.rd .LIMIT b != 0 && decide (tempFactor (l.rdI .INLET_TEMP b) < 100))
  ++ (if bays = 2 ∧ l.rd .BUDGET_MODE = 1 ∧ ((List.range 2).filter fun b => l.rd .LIMIT b != 0).length < 2 then
        [(103, 0, [])] else [])
  ++ (if l.siliconWaits then [(108, 0, [])] else [])
  ++ (if l.power.pseFault ≠ 0 then [(111, 0, [])] else [])

end Sys2Proof.Machine
end

