-- ==== Sys2Proof/Machine/Ports.lean ====
section
/-! DEFINITION. Links, modules, reception, pause frames, the storm watchdog, damping, LLDP (spec/07_ports_discovery.md). -/

namespace Sys2Proof.Machine

open Sys2Proof

/-! ### Link states -/

def linkDisabled := 0
def linkHeld := 1
def linkDown := 2
def linkUp := 3
def linkSuppressed := 4
def linkNoModule := 5
def linkUnsupported := 6
def linkFault := 7

def Live.linkState (l : Live) (p : Nat) : Nat := l.rd .LINK_STATE_0401 p

/-- Modes in which uplink modules are served: those in which the ports run, and FREEZE, which stops no module (R130, R231). -/
def Mode.modulesRun (m : Mode) : Bool := m == .configure || m.running || m == .freeze

/-- Modes in which the ports run (R265). -/
def Mode.portsRun : Mode → Bool
  | .configure | .service | .island | .backfill | .lean => true
  | _ => false

/-- The state of a port that is neither UP nor SUPPRESSED. -/
def Live.restState (l : Live) (p : Nat) : Nat :=
  if ¬ l.mode.portsRun then linkHeld
  else if ¬ l.rdB .ENABLE_0400 p then linkDisabled
  else if isUplink p then
    match l.rd .MODULE_STATE p with
    | 2 => linkDown
    | 3 => linkUnsupported
    | 4 => linkFault
    | _ => linkNoModule
  else linkDown

/-- Event 192 + p and the record of a change of link state (R249). -/
def Live.linkTo (l : Live) (p new : Nat) : Live :=
  let old := l.linkState p
  let data := u8 old ++ u8 new
    ++ (if new = linkUp then u32 (l.rd .LINK_SPEED_0401 p) ++ u8 (l.rd .FEC_ACTIVE p) else [])
  (((l.wrV .LINK_STATE_0401 new p).wr .LAST_CHANGE_BEAT_0401 l.now p).count .LINK_CHANGES 1 p).raise (192 + p) data (l.portOwner p)

/-- A pause timer's value, with PAUSED_RX (R238). -/
def Live.setPause (l : Live) (p q t : Nat) : Live :=
  let l1 := l.setPort p fun x => { x with pause := x.pause.put q t, whole := if t = 0 then setBit x.whole q false else x.whole }
  l1.wr .PAUSED_RX (setBit (l1.rd .PAUSED_RX p) q (t != 0)) p

/-- The storm-beat count of a priority, or the window beats left (R258): 8 × U16, priority 7 first. -/
def Live.stormBeats (l : Live) (p q : Nat) : Nat := bits (l.rd .STORM_BEATS p) (16 * q) 16
def Live.setStormBeats (l : Live) (p q n : Nat) : Live :=
  l.wr .STORM_BEATS (setBits (l.rd .STORM_BEATS p) (16 * q) 16 (min n 65535)) p

/-- A neighbour leaves (R252). -/
def Live.neighbourLost (l : Live) (p slot : Nat) : Live :=
  match (l.portRt p).neighbours.get slot with
  | none => l
  | some _ => (l.setPort p fun x => { x with neighbours := x.neighbours.put slot none }).raise 254 (u8 p ++ u8 slot) (l.portOwner p)

/-- Every neighbour of a port leaves. -/
def Live.neighboursGone (l : Live) (p : Nat) : Live := l.forN 4 fun l s => l.neighbourLost p s

/-- An access port leaving UP with FLUSH_ON_DOWN queues its flush; an uplink's waits for its LAG (R326). -/
def Live.flushOnDown (l : Live) (p : Nat) : Live :=
  if isUplink p then l.setFwd fun x => { x with downs := x.downs ++ [p] }
  else if l.rdB .FLUSH_ON_DOWN p then l.queueFlush (.port p)
  else l

/-- The frame in transmission is cut: it is lost whole, at the head of its queue (R7, R250). -/
def Live.cutTx (l : Live) (p : Nat) : Live := l.setPort p fun x => { x with tx := none }

/-- Pause timers clear, and a recovery window ends without event 257 (R239, R263). -/
def Live.clearPauses (l : Live) (p : Nat) : Live :=
  let l1 := l.forN 8 fun l q => if (l.portRt p).pause.get q = 0 then l else l.setPause p q 0
  (l1.wr .STORM_ACTIVE 0 p).wr .STORM_BEATS 0 p

/-- The link of a physical port goes from UP to another state (R239, R252). -/
def Live.leaveLink (l : Live) (p new : Nat) : Live :=
  let l1 := (l.linkTo p new).setPort p fun x => { x with lastSpeed := l.rd .LINK_SPEED_0401 p, pfcDue := 0 }
  let l2 := (((l1.wr .LINK_SPEED_0401 0 p).wr .FEC_ACTIVE 1 p).clearPauses p).neighboursGone p
  (l2.recoveriesCut 4 fun x => x / 8 == p).flushOnDown p

/-- A physical port leaves UP: its frames are discarded, the one in transmission with them (R7, R250). -/
def Live.leaveUp (l : Live) (p new : Nat) : Live := ((l.leaveLink p new).cutTx p).headDiscards p

/-- A port takes a state other than UP. -/
def Live.linkRest (l : Live) (p new : Nat) : Live :=
  if l.linkState p = new then l
  else if l.linkState p = linkUp then l.leaveUp p new
  else (l.linkTo p new).clearPauses p

/-- The state of a port follows its settings, module and mode, a suppression kept (R246, R265). -/
def Live.linkSettle (l : Live) (p : Nat) : Live :=
  let rest := l.restState p
  if (l.linkState p = linkUp ∨ l.linkState p = linkSuppressed) ∧ rest = linkDown then l else l.linkRest p rest

/-! ### Modules (R229 to R233) -/

/-- Byte `i` of MODULE_ID. -/
def Live.moduleByte (l : Live) (u i : Nat) : Nat := bits (l.rd .MODULE_ID u) (8 * (95 - i)) 8

/-- Media of R229 that a module's identification declares (SFF-8472: bytes 3, 8 and 36). -/
def has25 (b36 : Nat) : Bool := b36 == 0x02 || b36 == 0x03 || b36 == 0x0B || b36 == 0x0C || b36 == 0x0D
def has10 (b3 b8 : Nat) : Bool := bit b3 4 || bit b3 5 || bit b8 2 || bit b8 3
def isCopper (b8 b36 : Nat) : Bool := bit b8 2 || bit b8 3 || b36 == 0x0B || b36 == 0x0C || b36 == 0x0D

/-- Whether identification data is accepted: SFP, a medium of R229, at most 2.0 W (R231). -/
def moduleAccepted (id : List Byte) : Bool :=
  let at_ := fun i => fieldAt id i 1
  at_ 0 == 3 && (has25 (at_ 36) || has10 (at_ 3) (at_ 8)) && !bit (at_ 64) 6

/-- The speed that an uplink comes up with: the highest declared under AUTO, a forced one if declared (R230). -/
def Live.uplinkSpeed (l : Live) (u : Nat) : Nat :=
  let fast := has25 (l.moduleByte u 36)
  let slow := has10 (l.moduleByte u 3) (l.moduleByte u 8)
  match l.rd .SPEED u with
  | 1 => if fast then 25000 else 0
  | 2 => if slow then 10000 else 0
  | _ => if fast then 25000 else if slow then 10000 else 0

/-- FEC at a speed; `negotiated` is Clause 73's result (R229). -/
def Live.uplinkFec (l : Live) (u speed negotiated : Nat) : Nat :=
  if speed ≠ 25000 then 1
  else
    match l.rd .FEC_MODE u with
    | 1 => 1
    | 2 => 2
    | 3 => 3
    | _ => if isCopper (l.moduleByte u 8) (l.moduleByte u 36) then (if negotiated = 2 ∨ negotiated = 3 then negotiated else 1) else 3

/-- The highest speed common to two full-duplex advertisements (R227). -/
def commonSpeed (mine partner : Nat) : Nat :=
  let c := mine &&& partner
  if bit c 3 then 2500 else if bit c 2 then 1000 else if bit c 1 then 100 else if bit c 0 then 10 else 0

/-- A physical port's link comes up (R227, R229, R230, R249). -/
def Live.linkComes (l : Live) (p partner fec : Nat) : Live :=
  if 52 ≤ p ∨ l.linkState p ≠ linkDown ∨ ¬ l.mode.portsRun ∨ (l.portRt p).phySilent then l
  else
    let speed := if isUplink p then (if (l.portRt p).txDisabled then 0 else l.uplinkSpeed p)
                 else commonSpeed (l.rd .ADVERTISE p) (partner % 16)
    let l0 := if isUplink p then l else l.wr .PARTNER_ADVERTISE (partner % 16) p
    if speed = 0 then l0
    else
      let l1 := (l0.wr .LINK_SPEED_0401 speed p).wr .FEC_ACTIVE (if isUplink p then l0.uplinkFec p speed fec else 1) p
      ((l1.setPort p fun x => { x with lastSpeed := speed }).linkTo p linkUp).kick p

/-- A PHY's link comes up: phase 2 of the next boundary samples it (R42, R249). -/
def execLinkUp (p : Fin 52) (partner : Nat) (fec : Fin 4) (s : State) : Host.Outcome State Fault Refusal :=
  s.effect fun l => l.setPort p.val fun x => { x with sensed := some (true, partner % 16, fec.val) }

/-- A flap's penalty (R246, R248): the state that the port goes to. -/
def Live.flap (l : Live) (p : Nat) : Nat × Live :=
  if l.rdB .DAMP_ENABLE p then
    let pen := min (l.rd .PENALTY p + l.rd .FLAP_PENALTY p) (l.rd .MAX_PENALTY p)
    (if l.rd .SUPPRESS p ≤ pen then linkSuppressed else linkDown, l.wr .PENALTY pen p)
  else (linkDown, l)

/-- A link is lost: a flap (R246). -/
def Live.linkLost (l : Live) (p : Nat) : Live :=
  if 52 ≤ p ∨ l.linkState p ≠ linkUp ∨ ¬ l.mode.portsRun then l
  else
    let r := l.flap p
    let l1 := if r.1 = linkSuppressed ∧ isUplink p then r.2.setPort p fun x => { x with txDisabled := true } else r.2
    l1.leaveUp p r.1

/-- A PHY's link is lost: phase 2 of the next boundary samples it (R42, R246). -/
def execLinkDown (p : Fin 52) (s : State) : Host.Outcome State Fault Refusal :=
  s.effect fun l => l.setPort p.val fun x => { x with sensed := some (false, 0, 0) }

/-- Phase 2: what the PHYs sensed in the beat that ends, the last of the beat standing (R42). -/
def Live.sampleLinks (l : Live) : Live :=
  l.forN 52 fun l p =>
    match (l.portRt p).sensed with
    | none => l
    | some (up, partner, fec) =>
      let l1 := l.setPort p fun x => { x with sensed := none }
      if up then l1.linkComes p partner fec else l1.linkLost p

/-- M of R247: the largest m with 2 m^h at most 65536^h. -/
def decayFactor (halfLife : Nat) : Nat :=
  (List.range 17).foldl (fun m k =>
    let t := m + 2 ^ (16 - k)
    if t ≤ 65536 ∧ 2 * t ^ halfLife ≤ 65536 ^ halfLife then t else m) 0

/-- One decay step of a port (R247, R248). -/
def Live.decayPort (l : Live) (p : Nat) : Live :=
  let pen := l.rd .PENALTY p * decayFactor (l.rd .HALF_LIFE p) / 65536
  let l1 := if l.rd .PENALTY p = 0 then l else l.wr .PENALTY pen p
  if l.linkState p = linkSuppressed ∧ pen < min (l.rd .REUSE p) (l.rd .SUPPRESS p - 1) then
    (l1.setPort p fun x => { x with txDisabled := false }).linkRest p (l1.restState p)
  else l1

/-- One decay step of every port, once at each boundary at which the elapsed-beat count is a multiple of 8,000, in FREEZE too
(R247). -/
def Live.penaltyDecay (l : Live) : Live :=
  if l.mode.modulesRun ∧ l.elapsed % 8000 = 0 ∧ l.plane.decayedAt ≠ some l.ticks then
    (l.forN 52 Live.decayPort).setPlane fun x => { x with decayedAt := some l.ticks }
  else l

def execPenaltyDecay (s : State) : Host.Outcome State Fault Refusal :=
  s.effect Live.penaltyDecay

/-- DAMP_ENABLE clears, or ENABLE commits from 0 to 1: PENALTY is 0 and suppression ends (R248), also where the port has left
SUPPRESSED for DISABLED; an accepted module has TX_DISABLE released unless a TX_FAULT holds it. -/
def Live.endSuppression (l : Live) (p : Nat) : Live :=
  let l1 := (l.wr .PENALTY 0 p).setPort p fun x =>
    { x with txDisabled := x.txDisabled && (l.rd .MODULE_STATE p != 2 || x.release != none) }
  if l.linkState p = linkSuppressed then l1.linkRest p (l1.restState p) else l1

/-- ENABLE commits from 0 to 1: suppression and a module fault end (R233, R248). -/
def Live.portEnabled (l : Live) (p : Nat) : Live :=
  let l1 := if isUplink p ∧ l.rd .MODULE_STATE p = 4 then
      (l.wr .MODULE_STATE 2 p).setPort p fun x => { x with txFaults := [], txDisabled := false, release := none }
    else l
  (l1.endSuppression p).linkSettle p

/-- A commit that makes the link negotiate again: not a flap (R246). -/
def Live.renegotiate (l : Live) (p : Nat) : Live := if l.linkState p = linkUp then l.leaveUp p (l.restState p) else l

/-- A module becomes present: identification begins (R231). -/
def Live.moduleArrives (l : Live) (u : Nat) : Live :=
  ((l.setPort u fun x => { x with present := true, idFails := 0, txDisabled := true, release := none, txFaults := [] }).wr .MODULE_STATE
    1 u).raise 248 (u8 (u - 48))

/-- MOD_ABS has read present for 8 beats; where no module is served, the first beat of CONFIGURE finds it (R231, R265). -/
def execSfpInserted (u : Fin 4) (s : State) : Host.Outcome State Fault Refusal :=
  s.effect fun l =>
    let p := 48 + u.val
    if (l.portRt p).present then l
    else if l.mode.modulesRun then l.moduleArrives p
    else l.setPort p fun x => { x with present := true }

/-- A module is rejected (R231). -/
def Live.moduleRejected (l : Live) (p : Nat) : Live := ((l.wr .MODULE_STATE 3 p).raise 251).linkSettle p

/-- The identification read ends; three failures reject (R231). -/
def Live.identify (l : Live) (p : Nat) (ok : Bool) (id : List Byte) : Live :=
  if l.rd .MODULE_STATE p ≠ 1 ∨ ¬ l.mode.modulesRun then l
  else if ok then
    let l1 := l.wr .MODULE_ID (beVal (slice id 0 96)) p
    if moduleAccepted id then
      ((l1.wr .MODULE_STATE 2 p).setPort p fun x => { x with txDisabled := false }).linkSettle p
    else l1.moduleRejected p
  else
    let n := (l.portRt p).idFails + 1
    let l1 := l.setPort p fun x => { x with idFails := n }
    if 3 ≤ n then l1.moduleRejected p else l1

def execModuleIdentify (u : Fin 4) (ok : Bool) (id : List Byte) (s : State) : Host.Outcome State Fault Refusal :=
  s.effect fun l => l.identify (48 + u.val) ok id

/-- A module is removed (R232); a TX_FAULT at the same boundary is part of it (R263). -/
def Live.moduleRemoved (l : Live) (p : Nat) : Live :=
  if ¬ (l.portRt p).present then l
  else
    let l1 := l.setPort p fun x =>
      { x with present := false, idFails := 0, faulted := false, txDisabled := true, release := none, txFaults := [] }
    if l.mode.modulesRun then
      let l2 := (((l1.wr .MODULE_STATE 0 p).wr .MODULE_ID 0 p).wr .MODULE_DDM 0 p).wr .MODULE_ALARMS 0 p
      (l2.linkRest p (l2.restState p)).raise 249
    else l1

def execSfpRemoved (u : Fin 4) (s : State) : Host.Outcome State Fault Refusal := s.effect fun l => l.moduleRemoved (48 + u.val)

/-- An accepted module has asserted TX_FAULT (R233): a link that it takes down flaps (R246). -/
def Live.txFault (l : Live) (p : Nat) : Live :=
  if l.rd .MODULE_STATE p ≠ 2 ∨ ¬ l.mode.modulesRun then l
  else
    let fs := ((l.portRt p).txFaults.filter fun t => decide (l.ticks ≤ t + 80000)) ++ [l.ticks]
    let l1 := l.setPort p fun x => { x with txFaults := fs, txDisabled := true, release := some (l.ticks + 8) }
    if 3 ≤ fs.length then
      let l2 := (l1.setPort p fun x => { x with release := none }).wr .MODULE_STATE 4 p
      l2.linkRest p (l2.restState p)
    else l1.linkLost p

/-- A module asserts TX_FAULT; phase 2 of the next boundary finds it, unless the module has been removed by then (R263). -/
def execTxFault (u : Fin 4) (s : State) : Host.Outcome State Fault Refusal :=
  s.effect fun l => l.setPort (48 + u.val) fun x => { x with faulted := x.present }

/-- Phase 2: the TX_FAULTs of the beat that ends. -/
def Live.sampleFaults (l : Live) : Live :=
  l.forN 4 fun l u =>
    let p := 48 + u
    if (l.portRt p).faulted then (l.setPort p fun x => { x with faulted := false }).txFault p else l

/-- TX_DISABLE is released 8 beats after a TX_FAULT (R233). -/
def Live.txRelease (l : Live) (u : Nat) : Live :=
  let p := 48 + u
  match (l.portRt p).release with
  | some t =>
    if t ≤ l.ticks then l.setPort p fun x => { x with release := none, txDisabled := l.linkState p == linkSuppressed } else l
  | none => l

def execTxDisableRelease (u : Fin 4) (s : State) : Host.Outcome State Fault Refusal :=
  s.effect fun l => l.txRelease u.val

/-- Page A2h of an accepted module that declares digital diagnostics (R231). -/
def execModuleDdmRead (u : Fin 4) (ddm alarms : List Byte) (s : State) : Host.Outcome State Fault Refusal :=
  s.effect fun l =>
    let p := 48 + u.val
    if l.rd .MODULE_STATE p = 2 ∧ bit (l.moduleByte p 92) 6 ∧ l.mode.modulesRun then
      (l.wr .MODULE_DDM (beVal (slice ddm 0 10)) p).wr .MODULE_ALARMS (beVal (slice alarms 0 4)) p
    else l

/-- A PHY stops answering for 8 beats: its port stays DOWN; a link that it takes down flaps (R246, R264). -/
def execPhyMgmtTimeout (p : Fin 52) (s : State) : Host.Outcome State Fault Refusal :=
  s.effect fun l =>
    if ¬ l.mode.portsRun ∨ (l.portRt p.val).phySilent then l
    else
      let l1 := l.setPort p.val fun x => { x with phySilent := true, phyAt := l.ticks }
      if l1.linkState p.val = linkUp then l1.linkLost p.val
      else if l1.linkState p.val = linkDown then l1.raise (192 + p.val) (u8 linkDown ++ u8 linkDown) (l1.portOwner p.val)
      else l1

/-- Every 8,000 beats the K48 retries a PHY that stopped answering (R264). -/
def execPhyRetry (p : Fin 52) (answers : Bool) (s : State) : Host.Outcome State Fault Refusal :=
  s.effect fun l =>
    let r := l.portRt p.val
    if r.phySilent ∧ r.phyAt + 8000 ≤ l.ticks ∧ l.mode.portsRun then
      l.setPort p.val fun x => { x with phySilent := !answers, phyAt := l.ticks }
    else l

/-! ### Pause frames received (R236 to R240) -/

/-- A PFC frame's enable vector and times. -/
def pfcVector (f : List Byte) : Nat := fieldAt f 16 2 % 256
def pfcTime (f : List Byte) (q : Nat) : Nat := fieldAt f (18 + 2 * q) 2

/-- A received PFC frame (R238, R244). -/
def Live.pfcReceived (l : Live) (p : Nat) (f : List Byte) : Live :=
  let on := l.rd .PFC_RX_ENABLE p
  let vec := pfcVector f
  let l1 := (l.count .PFC_RX_FRAMES 1 p).blk (macBlock p) .signalA 1 p
  let l2 := l1.count .PFC_RX_IGNORED ((members 8 vec).filter fun q => !bit on q).length p
  let l3 := l2.forL ((members 8 vec).filter fun q => bit on q && !bit (l2.rd .STORM_ACTIVE p) q) fun l q => l.setPause p q (pfcTime f q)
  l3.kick p

/-- Whether a port receives frames now. -/
def Live.receives (l : Live) (p : Nat) : Bool := p < 52 && l.linkState p == linkUp && l.mode.engineOn

def execPfcFrameReceived (p : Fin 52) (vector : Nat) (times : List Nat) (s : State) : Host.Outcome State Fault Refusal :=
  s.effect fun l =>
    if l.receives p.val then l.pfcReceived p.val (pfcBytes (vector % 256) fun q => times.getD q 0) else l

/-- A priority's pause timer reaches 0 (R238). -/
def execPauseTimerExpiry (p : Fin 52) (q : Fin 8) (s : State) : Host.Outcome State Fault Refusal :=
  s.effect fun l =>
    if (l.portRt p.val).pause.get q.val ≠ 0 ∧ l.mode ≠ .freeze then (l.setPause p.val q.val 0).kick p.val else l

/-- In XOFF the PFC frame is sent again (R240). -/
def execPfcRefresh (p : Fin 52) (q : Fin 8) (s : State) : Host.Outcome State Fault Refusal :=
  s.effect fun l =>
    if bit (l.rd .XOFF_TX p.val) q.val ∧ l.receives p.val then l.duePfc p.val q.val else l

/-- A commit of XOFF, XON or PFC_TX_ENABLE is applied against the current count (R242). -/
def Live.pfcApply (l : Live) (p : Nat) : Live := l.forN 8 fun l q => l.pfcEval p q

/-! ### The pause-storm watchdog (R243 to R245) -/

/-- Phase 8 of a boundary: storm beats and the beats left of a window (R243). -/
def Live.stormCount (l : Live) : Live :=
  if l.mode.engineOn then
    l.forN 52 fun l p =>
      let r := l.portRt p
      if r.pause = [] ∧ l.rd .STORM_BEATS p = 0 then l
      else
        let act := l.rd .STORM_ACTIVE p
        let l1 := l.forN 8 fun l q =>
          let n := l.stormBeats p q
          if bit act q then l.setStormBeats p q (n - 1)
          else if bit r.whole q then l.setStormBeats p q (n + 1)
          else if n = 0 then l else l.setStormBeats p q 0
        l1.setPort p fun x => { x with whole := maskOf ((List.range 8).filter fun q => x.pause.get q != 0) }
  else l

/-- The watchdog trips (R243, R244). -/
def Live.stormTrip (l : Live) (p : Nat) (q : Nat) : Live :=
  if l.rdB .STORM_ENABLE p ∧ ¬ bit (l.rd .STORM_ACTIVE p) q ∧ 1600 ≤ l.stormBeats p q ∧ l.mode.engineOn then
    let l1 := (l.wr .STORM_ACTIVE (setBit (l.rd .STORM_ACTIVE p) q true) p).count .STORM_TRIPS 1 p
    let l2 := ((l1.setStormBeats p q 8000).setPause p q 0).recoveryStart 4 (8 * p + q) (l.portOwner p)
    (l2.raise 256 (u8 p ++ u8 q) (l.portOwner p)).kick p
  else l

def execPfcStormTrip (p : Fin 52) (q : Fin 8) (s : State) : Host.Outcome State Fault Refusal :=
  s.effect fun l => l.stormTrip p.val q.val

/-- The recovery window ends (R245). -/
def Live.stormClear (l : Live) (p : Nat) (q : Nat) : Live :=
  if bit (l.rd .STORM_ACTIVE p) q ∧ l.stormBeats p q = 0 ∧ l.mode.engineOn then
    ((l.wr .STORM_ACTIVE (setBit (l.rd .STORM_ACTIVE p) q false) p).raise 257 [] (l.portOwner p)).kick p
      |>.recoveryDone 4 (8 * p + q) |>.journalRecoveries
  else l

def execPfcStormClear (p : Fin 52) (q : Fin 8) (s : State) : Host.Outcome State Fault Refusal :=
  s.effect fun l => l.stormClear p.val q.val

/-! ### Reception (R234 to R236) -/

/-- The ingress FIFO of a physical port in bytes (R234). -/
def fifoBytes (p : Nat) : Nat := if isUplink p then 262144 else 32768

/-- A discard of the MAC (R234, R235). -/
def Live.macDiscard (l : Live) (p : Nat) (o : Obj) : Live := (l.count o 1 p).blk (macBlock p) .drops 1 p

/-- A frame whose last byte has arrived (R234 to R236, R266). `age` is how many beats ago its ingress beat began.  The parser has
emptied the FIFO when a frame begins, so it overflows where a frame alone exceeds it; `noRoom` says that the front end found it
full, outside published limits (DESIGN CHOICE, log 120). -/
def Live.receiveFrame (l : Live) (p : Nat) (f : List Byte) (phyError noRoom : Bool) (age ts : Nat) : Live :=
  let l0 := (l.blk (macBlock p) .eventsIn 1 p).blk (macBlock p) .bytesIn f.length p
  let back := min (min age 61) l.ticks
  let b := l.ticks - back
  if noRoom ∨ fifoBytes p < f.length then (l0.macDiscard p .RX_OVERFLOW_DROPS).mark 258
  else if phyError ∨ ¬ fcsGood f then l0.macDiscard p .RX_ERRORS
  else if f.length < 64 then (l0.macDiscard p .RX_RUNTS).blk (macBlock p) .signalB 1 p
  else if l0.rdAt b .MAX_FRAME p < f.length then l0.macDiscard p .RX_OVERSIZE
  else
    let et := fieldAt f 12 2
    if et = 0x8808 ∧ fieldAt f 14 2 = 0x0101 then l0.pfcReceived p f
    else if et = 0x8808 ∨ et = 0x8809 then l0.count .RX_MAC_CONTROL 1 p
    else
      let l1 := ((l0.count .RX_FRAMES 1 p).count .RX_BYTES f.length p)
      let l2 := (l1.blk (macBlock p) .eventsOut 1 p).blk (macBlock p) .bytesOut f.length p
      l2.classify p b (l.beat.numberAgo back) (ts % 2 ^ 64 / 8 * 8) f

/-- Frames discarded between the stop of forwarding and CONFIGURE go to hold counters (R148). -/
def Live.holdFrame (l : Live) (p : Nat) : Live :=
  match l.mode, l.modes.kind with
  | .bringup, .warm => { l with modes := { l.modes with holdCounts := l.modes.holdCounts.upd p (· + 1) } }
  | .bringup, .wake => { l with modes := { l.modes with holdCounts := l.modes.holdCounts.upd p (· + 1) } }
  | _, _ => l

def execFrameReceived (p : Fin 52) (bytes : List Byte) (phyError noRoom : Bool) (age at_ ts : Nat) (s : State) :
    Host.Outcome State Fault Refusal :=
  s.effect fun l => if l.receives p.val then (l.at at_).receiveFrame p.val bytes phyError noRoom age ts else l.holdFrame p.val

/-! ### The end of a transmission (R353, R379, R421) -/

def execFrameTxDone (p : Fin 53) (at_ : Nat) (linkError : Option (Fin 8)) (s : State) : Host.Outcome State Fault Refusal :=
  s.effect fun l =>
    if (l.portRt p.val).tx = none ∨ l.mode = .freeze then l
    else
      let l1 := (l.at at_).txEnd p.val
      let l2 := match linkError with
        | some q => l1.linkMemoryError p.val q.val
        | none => l1
      l2.kick p.val

def execReclaimPassDone (s : State) : Host.Outcome State Fault Refusal := s.effect Live.reclaimDone

/-! ### Queue and gate commands -/

def execFlush (p : Fin 56) (mask : Nat) (s : State) : Host.Outcome State Fault Refusal :=
  s.effect fun l => if l.mode.engineOn then l.flushQueues p.val (mask % 256) else l

def execHistClear (p : Fin 56) (mask : Nat) (s : State) : Host.Outcome State Fault Refusal :=
  s.effect fun l => if l.mode.engineOn then l.histClear p.val mask else l

def execChangeTime (p : Fin 52) (t : Nat) (s : State) : Host.Outcome State Fault Refusal :=
  s.effect fun l => if l.mode.gates then l.changeTime p.val (t % 2 ^ 64 / 8 * 8) else l

def execCancel (p : Fin 52) (s : State) : Host.Outcome State Fault Refusal :=
  s.effect fun l => if l.mode.gates then l.gateCancel p.val else l

/-- At its instant an armed change takes over (R447). -/
def execGateTakeover (p : Fin 52) (s : State) : Host.Outcome State Fault Refusal :=
  s.effect fun l =>
    let t := l.rd .ARMED_TIME p.val
    if l.rd .CHANGE_STATE p.val = 1 ∧ l.mode.gates ∧ t < l.ptpNs + 125000 then
      ((l.at (t - l.ptpNs)).takeover p.val false).kick p.val
    else l

/-- A gate list entry begins: the gates take its states (R442, R454). -/
def execGateEntryStart (p : Fin 52) (at_ : Nat) (s : State) : Host.Outcome State Fault Refusal :=
  s.effect fun l =>
    if l.mode.gates then
      let l1 := l.at at_
      let old := (l.operList p.val).gatesAt (l1.now100 - 100)
      let new := (l.operList p.val).gatesAt l1.now100
      (l1.blk 17 .eventsOut ((List.range 8).filter fun q => bit new q && !bit old q).length p.val 0 (l.portOwner p.val)).kick p.val
    else l

def execTwillSwap (mask : Nat) (s : State) : Host.Outcome State Fault Refusal :=
  s.effect fun l =>
    if l.mode.engineOn ∧ (members 4 mask).all fun t => l.rd .METHOD t == 0 then (l.twillSwap mask).journalRecoveries else l

def execTwillDrainDone (s : State) : Host.Outcome State Fault Refusal := s.effect fun l => l.drainDone 1

def execShadowCopy (t : Fin 4) (s : State) : Host.Outcome State Fault Refusal :=
  s.effect fun l => if l.mode.engineOn ∧ l.shadowCopyAllowed t.val then l.shadowCopy t.val else l

def execShadowCopyDone (t : Fin 4) (s : State) : Host.Outcome State Fault Refusal := s.effect fun l => l.shadowCopyDone t.val

/-! ### LLDP (R251 to R253) -/

/-- The TLVs of an LLDPDU: type and value. -/
def lldpTlvs : Nat → List Byte → List (Nat × List Byte)
  | 0, _ => []
  | fuel + 1, bs =>
    if bs.length < 2 then []
    else
      let h := fieldAt bs 0 2
      let ty := h / 512
      let len := h % 512
      if ty = 0 then [] else (ty, slice bs 2 len) :: lldpTlvs fuel (bs.drop (2 + len))

def tlvOf (ts : List (Nat × List Byte)) (ty : Nat) : Option (List Byte) := (ts.find? fun t => t.1 == ty).map Prod.snd

/-- An LLDPDU as a neighbour and its TTL in seconds; `none` when a mandatory TLV is missing (IEEE 802.1AB). -/
def lldpParse (l : Live) (mac : Nat) (pdu : List Byte) : Option (Neighbour × Nat) :=
  let ts := lldpTlvs 100 pdu
  match tlvOf ts 1, tlvOf ts 2, tlvOf ts 3 with
  | some c, some p, some t =>
    if c.length < 2 ∨ p.length < 2 ∨ t.length < 2 then none
    else
      let ttl := fieldAt t 0 2
      let caps := match tlvOf ts 7 with | some x => fieldAt x 2 2 | none => 0
      some ({ chassisType := fieldAt c 0 1, chassis := c.drop 1, portType := fieldAt p 0 1, portId := p.drop 1,
              name := (tlvOf ts 5).getD [], mac := mac, caps := caps, arrival := l.now, expires := l.ticks + 8000 * ttl }, ttl)
  | _, _, _ => none

def Neighbour.sameKey (a b : Neighbour) : Bool :=
  a.chassisType == b.chassisType && a.chassis == b.chassis && a.portType == b.portType && a.portId == b.portId

/-- The firmware receives LLDP on a port. -/
def Live.lldpRx (l : Live) (p : Nat) : Bool := l.linkState p == linkUp && l.mode.engineOn && bit (l.rd .LLDP_MODE p) 0
def Live.lldpTx (l : Live) (p : Nat) : Bool := l.linkState p == linkUp && l.mode.engineOn && bit (l.rd .LLDP_MODE p) 1

/-- An LLDPDU adds, refreshes or removes an entry, or comes from a fifth key (R252). -/
def Live.lldpReceived (l : Live) (p mac : Nat) (pdu : List Byte) : Live :=
  match lldpParse l mac pdu with
  | none => l
  | some (n, ttl) =>
    let slots := (l.portRt p).neighbours
    let known := (List.range 4).find? fun s => match slots.get s with | some m => m.sameKey n | none => false
    match known with
    | some s =>
      if ttl = 0 then l.neighbourLost p s
      else l.setPort p fun x => { x with neighbours := x.neighbours.upd s fun m => some { n with arrival := (m.getD n).arrival } }
    | none =>
      if ttl = 0 then l
      else
        match (List.range 4).find? fun s => slots.get s == none with
        | some s => (l.setPort p fun x => { x with neighbours := x.neighbours.put s (some n) }).raise 253 (u8 p ++ u8 s) (l.portOwner p)
        | none => (l.count .LLDP_TOO_MANY 1 p).raise 255 [] (l.portOwner p)

def execLldpduReceived (p : Fin 52) (mac : Nat) (pdu : List Byte) (s : State) : Host.Outcome State Fault Refusal :=
  s.effect fun l => if l.lldpRx p.val then l.lldpReceived p.val mac pdu else l

/-- A neighbour's TTL expires (R252). -/
def Live.neighbourAged (l : Live) (p : Nat) (slot : Nat) : Live :=
  match (l.portRt p).neighbours.get slot with
  | some n => if n.expires ≤ l.ticks then l.neighbourLost p slot else l
  | none => l

def execLldpNeighbourLost (p : Fin 52) (slot : Fin 4) (s : State) : Host.Outcome State Fault Refusal :=
  s.effect fun l => l.neighbourAged p.val slot.val

/-- An entry of NEIGHBOURS (R253). -/
def Live.neighbourEntry (l : Live) (p slot : Nat) : List Byte :=
  match (l.portRt p).neighbours.get slot with
  | none => List.replicate 104 0
  | some n =>
    u8 1 ++ u8 n.chassisType ++ u8 (min 32 n.chassis.length) ++ u8 n.portType ++ u8 (min 32 n.portId.length)
      ++ u8 (min 16 n.name.length) ++ u16 (cdiv (n.expires - l.ticks) 8000) ++ u48 n.mac ++ u16 n.caps
      ++ slice n.chassis 0 32 ++ slice n.portId 0 32 ++ slice n.name 0 16 ++ u64 n.arrival

/-- Characters as bytes. -/
def ascii (s : String) : List Byte := s.toList.map fun c => byte c.toNat

/-- A port's name, such as A12 or U0. -/
def portName (p : Nat) : List Byte := if isUplink p then ascii ("U" ++ toString (p - 48)) else ascii ("A" ++ toString p)

def tlv (ty : Nat) (v : List Byte) : List Byte := u16 (ty * 512 + v.length) ++ v

/-- The Type 3 and Type 4 extension of the Power via MDI TLV: powers by mode and by alternative of a dual-signature PD, power
status, system setup (a Type 4 PSE), the most that the PSE can give, no autoclass, no power-down (PRESUMED from IEEE 802.3
Clause 79; log 121). -/
def Live.mdiExtension (l : Live) (p : Nat) : List Byte :=
  let cls := l.rd .CLASS p
  let lim := l.rd .CLASS_LIMIT p
  let on := l.rd .STATE_0340 p == poePowered
  let most := classAllocation lim
  match (l.power.ports.get p).class2 with
  | some c2 =>
    let a := if on then demoted cls lim else 0
    let b := if on then demoted c2 lim else 0
    u16 a ++ u16 b ++ u16 a ++ u16 b
      ++ u16 ((if on then 0xE000 else 0) + 0x0C00 + min cls 5 % 8 * 128 + min c2 5 % 8 * 16 + 15) ++ u8 2 ++ u16 most ++ u8 0
      ++ beBytes 3 0
  | none =>
    u16 0 ++ u16 0 ++ u16 0 ++ u16 0 ++ u16 ((if on then 0x9000 else 0) + 0x0C00 + (if cls = 0xFF then 0 else cls)) ++ u8 2
      ++ u16 most ++ u8 0 ++ beBytes 3 0

/-- The Power via MDI TLV of an access port (R210): allocated power in 0.1 W, with the extension. -/
def Live.mdiTlv (l : Live) (p : Nat) : List Byte :=
  tlv 127 (beBytes 3 0x00120F ++ u8 2 ++ u8 0x07 ++ u8 1 ++ u8 (min 5 (l.rd .CLASS p + 1)) ++ u8 0 ++ u16 (l.rd .AGREED p)
    ++ u16 (if l.rd .AGREED p = 0 then l.rd .GRANT p else l.rd .AGREED p) ++ l.mdiExtension p)

/-- The LLDPDU frame of a port (R251). -/
def Live.lldpFrame (l : Live) (p : Nat) : List Byte :=
  let label := (beBytes 16 (l.rd .TN_LABEL 0)).takeWhile fun b => b != 0
  let pdu := tlv 1 (u8 4 ++ u48 (baseMac 0)) ++ tlv 2 (u8 7 ++ portName p) ++ tlv 3 (u16 (min 65535 (4 * l.rd .TX_INTERVAL p)))
    ++ tlv 5 label ++ tlv 7 (u16 0x14 ++ u16 0x14) ++ (if p < 48 ∧ l.rdB .LLDP_POWER p then l.mdiTlv p else []) ++ u16 0
  let b := u48 0x0180C200000E ++ u48 (baseMac 0) ++ u16 0x88CC ++ pdu
  withFcs (b ++ List.replicate (60 - b.length) 0)

/-- Traffic class of the frames that firmware sends. -/
def firmwareTc : Nat := 7

/-- A frame that firmware sends to a port through port C, with the metadata that it gives it; `vlan` none leaves it as built. -/
def Live.firmwareSend (l : Live) (p tn : Nat) (vlan : Option Nat) (bytes : List Byte) : Live :=
  l.enterFabric { bytes := bytes, word := wordOf tn (vlan.getD 0) firmwareTc, port := 52, ingress := l.ticks, beat := l.now,
                  plain := vlan == none, untagged := match vlan with | some v => vlanUntagged (l.vlanAt l.ticks v) | none => 0 } [p]

/-- Every TX_INTERVAL the firmware sends an LLDPDU (R251). -/
def execLldpTransmit (p : Fin 52) (s : State) : Host.Outcome State Fault Refusal :=
  s.effect fun l =>
    let due : Bool := match (l.portRt p.val).lldpSent with
      | some t => t + 8000 * l.rd .TX_INTERVAL p.val ≤ l.ticks
      | none => true
    if l.lldpTx p.val ∧ due then
      (l.setPort p.val fun x => { x with lldpSent := some l.ticks }).firmwareSend p.val 0 none (l.lldpFrame p.val)
    else l

end Sys2Proof.Machine
end

