-- ==== Sys2Proof/Machine/Neighbour.lean ====
section
/-! DEFINITION. What firmware does with the control frames that reach it through port C: ARP and Neighbor Discovery, next
hops, IGMP and MLD snooping (R336 to R339). -/

namespace Sys2Proof.Machine

open Sys2Proof

/-! ### Internet checksums -/

/-- The 16-bit words of bytes, an odd last byte padded with zero. -/
def words16 : List Byte → List Nat
  | a :: b :: bs => (a.toNat * 256 + b.toNat) :: words16 bs
  | [a] => [a.toNat * 256]
  | [] => []

/-- The internet checksum of bytes (RFC 1071). -/
def inetChecksum (bs : List Byte) : Nat :=
  let s := (words16 bs).foldl (· + ·) 0
  let s1 := s % 65536 + s / 65536
  let s2 := s1 % 65536 + s1 / 65536
  65535 - s2 % 65536

/-- The checksum of an upper layer behind an IPv6 or IPv4 pseudo-header. -/
def pseudoChecksum (ip6 : Bool) (src dst proto : Nat) (seg : List Byte) : Nat :=
  if ip6 then inetChecksum (beBytes 16 src ++ beBytes 16 dst ++ u32 seg.length ++ u32 proto ++ seg)
  else inetChecksum (u32 src ++ u32 dst ++ u16 proto ++ u16 seg.length ++ seg)

/-- An IPv4 packet: DF set, TTL, DSCP 0 (R478). -/
def ipv4Packet (src dst proto ttl : Nat) (seg : List Byte) : List Byte :=
  let h := u8 0x45 ++ u8 0 ++ u16 (20 + seg.length) ++ u16 0 ++ u16 0x4000 ++ u8 ttl ++ u8 proto
  let t := u32 src ++ u32 dst
  h ++ u16 (inetChecksum (h ++ u16 0 ++ t)) ++ t ++ seg

/-- An IPv6 packet: hop limit, DSCP 0. -/
def ipv6Packet (src dst proto hop : Nat) (seg : List Byte) : List Byte :=
  u32 0x60000000 ++ u16 seg.length ++ u8 proto ++ u8 hop ++ beBytes 16 src ++ beBytes 16 dst ++ seg

/-- An Ethernet frame, untagged, padded to 60 bytes, with its FCS. -/
def ethernet (dst src et : Nat) (payload : List Byte) : List Byte :=
  let b := u48 dst ++ u48 src ++ u16 et ++ payload
  withFcs (b ++ List.replicate (60 - b.length) 0)

/-! ### Addresses of the router (R336) -/

/-- The link-local address formed from a MAC as a modified EUI-64. -/
def linkLocal (mac : Nat) : Nat :=
  let m := mac ^^^ (2 * 2 ^ 40)
  0xFE80 * 2 ^ 112 + m / 2 ^ 24 % 2 ^ 24 * 2 ^ 40 + 0xFFFE * 2 ^ 24 + m % 2 ^ 24

/-- ROUTER_MAC of the tenancy that owns a VLAN. -/
def Live.routerMac (l : Live) (vlan : Nat) : Nat := l.rd .ROUTER_MAC 0 0 (l.vidOwner vlan)

/-- Whether an address is one that firmware answers for on a VLAN. -/
def Live.ownAddress (l : Live) (vlan : Nat) (ip6 : Bool) (a : Nat) : Bool :=
  let v := l.vlanAt l.ticks vlan
  if ip6 then (vlanIpv6 v != 0 && a == vlanIpv6 v) || a == linkLocal (l.routerMac vlan)
  else vlanIpv4 v != 0 && a == vlanIpv4 v

/-- Whether firmware serves ARP and ND on a VLAN. -/
def Live.routes (l : Live) (vlan : Nat) : Bool :=
  let v := l.vlanAt l.ticks vlan
  l.mode.running && vlanValid v && vlanRouteIf v

/-- An answer to a request or solicitation. -/
def arpAnswer (rmac : Nat) (m : ArpNd) : List Byte :=
  if m.ip6 then
    let dst := if m.sender = 0 then 0xFF02 * 2 ^ 112 + 1 else m.sender
    let mac := if m.sender = 0 then 0x333300000001 else m.mac
    let seg := fun (c : Nat) =>
      u8 136 ++ u8 0 ++ u16 c ++ u32 (if m.sender = 0 then 0xA0000000 else 0xE0000000) ++ beBytes 16 m.target ++ u8 2 ++ u8 1
        ++ u48 rmac
    ethernet mac rmac 0x86DD (ipv6Packet m.target dst 58 255 (seg (pseudoChecksum true m.target dst 58 (seg 0))))
  else
    ethernet m.mac rmac 0x0806
      (u16 1 ++ u16 0x0800 ++ u8 6 ++ u8 4 ++ u16 2 ++ u48 rmac ++ u32 m.target ++ u48 m.mac ++ u32 m.sender)

/-- A request for a next hop's address. -/
def arpRequest (rmac own target : Nat) (ip6 : Bool) : List Byte :=
  if ip6 then
    let dst := 0xFF02 * 2 ^ 112 + 0x1FF000000 + target % 2 ^ 24
    let seg := fun (c : Nat) => u8 135 ++ u8 0 ++ u16 c ++ u32 0 ++ beBytes 16 target ++ u8 1 ++ u8 1 ++ u48 rmac
    ethernet (0x3333FF000000 + target % 2 ^ 24) rmac 0x86DD
      (ipv6Packet own dst 58 255 (seg (pseudoChecksum true own dst 58 (seg 0))))
  else
    ethernet macBroadcast rmac 0x0806
      (u16 1 ++ u16 0x0800 ++ u8 6 ++ u8 4 ++ u16 1 ++ u48 rmac ++ u32 own ++ u48 0 ++ u32 target)

/-- A frame that firmware sends on a VLAN to a set of ports that the forwarding rule allows (R178). -/
def Live.firmwareFlood (l : Live) (vlan mask : Nat) (bytes : List Byte) : Live :=
  let tn := l.vidOwner vlan
  let ports := (members 52 mask).filter fun p => l.destAllowed l.ticks tn p
  l.enterFabric { bytes := bytes, word := wordOf tn vlan firmwareTc, port := 52, ingress := l.ticks, beat := l.now,
                  untagged := vlanUntagged (l.vlanAt l.ticks vlan) } ports

/-! ### Next hops (R333, R336) -/

def Live.setHop (l : Live) (n : Nat) (f : Resolution → Resolution) : Live :=
  l.setFwd fun x => { x with nextHops := x.nextHops.upd n f }

/-- A next hop is resolved: its element is RESOLVED with the address found. -/
def Live.resolveHop (l : Live) (n mac : Nat) : Live :=
  let v := l.elem .NEXT_HOP_TABLE n
  let l1 := (l.setElemV .NEXT_HOP_TABLE n (setBits (setBits v 253 2 1) 176 48 mac)).setHop n fun r =>
    { r with missed := 0, asked := none, done := some l.ticks }
  if nhState v = 1 then l1 else l1.raise 392

/-- The next hops that an ARP or ND message resolves. -/
def Live.resolveBy (l : Live) (vlan : Nat) (m : ArpNd) : Live :=
  let ours := !m.request || l.ownAddress vlan m.ip6 m.target
  let hit := (l.elems .NEXT_HOP_TABLE 0 64).filter fun e =>
    nhValid e.2 && nhVlan e.2 == vlan && nhFamily e.2 == m.ip6.toNat && nhIp e.2 == m.sender && nhState e.2 != 2
      && (ours || (!m.ip6 && nhState e.2 == 1))
  l.forL hit fun l e => l.resolveHop e.1 m.mac

/-- An ARP frame, a solicitation or an advertisement reaches firmware (R336). -/
def execArpNdReceived (p : Fin 52) (vlan : Nat) (m : ArpNd) (s : State) : Host.Outcome State Fault Refusal :=
  s.effect fun l =>
    if l.routes vlan then
      let l1 := l.resolveBy vlan m
      if m.request ∧ l1.ownAddress vlan m.ip6 m.target then
        l1.firmwareSend p.val (l1.vidOwner vlan) (some vlan) (arpAnswer (l1.routerMac vlan) m)
      else l1
    else l

/-- Whether a resolution of a next hop is due (R336): at once while UNRESOLVED or unanswered, 1 s apart; for a RESOLVED one
every NH_REFRESH seconds. -/
def Live.hopDue (l : Live) (n : Nat) : Bool :=
  let v := l.elem .NEXT_HOP_TABLE n
  let r := l.plane.fwd.nextHops.get n
  nhValid v && nhState v != 2 && l.routes (nhVlan v)
    && (match r.asked with
        | some t => t + 8000 ≤ l.ticks && (nhState v != 1 || r.missed < 3)
        | none =>
          nhState v != 1 || (match r.done with
            | some t => t + 8000 * l.rd .NH_REFRESH 0 0 (nhTn v) ≤ l.ticks
            | none => true))

/-- Firmware sends a resolution of a next hop. -/
def execNhRefresh (n : Fin 8192) (s : State) : Host.Outcome State Fault Refusal :=
  s.effect fun l =>
    if l.hopDue n.val then
      let v := l.elem .NEXT_HOP_TABLE n.val
      let ve := l.vlanAt l.ticks (nhVlan v)
      let rmac := l.routerMac (nhVlan v)
      let own := if nhFamily v = 0 then vlanIpv4 ve else if vlanIpv6 ve = 0 then linkLocal rmac else vlanIpv6 ve
      (l.setHop n.val fun r => { r with asked := some l.ticks, missed := r.missed + 1 }).firmwareFlood (nhVlan v)
        (vlanMembers ve) (arpRequest rmac own (nhIp v) (nhFamily v == 1))
    else l

/-- A next hop that misses 3 resolutions returns to UNRESOLVED (R336). -/
def execNhUnresolved (n : Fin 8192) (s : State) : Host.Outcome State Fault Refusal :=
  s.effect fun l =>
    let v := l.elem .NEXT_HOP_TABLE n.val
    let r := l.plane.fwd.nextHops.get n.val
    let due : Bool := match r.asked with
      | some t => t + 8000 ≤ l.ticks
      | none => false
    if nhValid v ∧ nhState v = 1 ∧ 3 ≤ r.missed ∧ due ∧ l.mode.running then
      (l.setElemV .NEXT_HOP_TABLE n.val (setBits v 253 2 0)).setHop n.val fun r => { r with missed := 0, asked := none, done := none }
    else l

/-- Whether any next hop is UNRESOLVED: level event 394 (R336). -/
def Live.hopUnresolved (l : Live) : Bool :=
  (l.elems .NEXT_HOP_TABLE 0 64).any fun e => nhValid e.2 && (nhState e.2 == 0 || nhState e.2 == 3)

/-! ### Snooping (R338, R339) -/

/-- The MAC address that a report's group maps to. -/
def groupMac (ip6 : Bool) (g : Nat) : Nat := if ip6 then 0x333300000000 + g % 2 ^ 32 else 0x01005E000000 + g % 2 ^ 23

/-- Whether firmware snoops on a VLAN. -/
def Live.snoops (l : Live) (vlan : Nat) : Bool :=
  let v := l.vlanAt l.ticks vlan
  l.mode.running && vlanValid v && vlanSnoop v

/-- The element of a snooped group: its members, with the tenancy's router ports. -/
def Live.showGroup (l : Live) (g : Snooped) : Live :=
  let ports := g.ports.foldl (fun m p => m ||| 2 ^ p.1) (l.routerPorts l.ticks g.tn)
  l.setElemV .GROUP_TABLE g.group (ports % 2 ^ 56 * 2 ^ 64 + 2 ^ 63 + 2 ^ 61 + g.tn * 2 ^ 56)

/-- Every snooped group of a tenancy shows its router ports anew. -/
def Live.showGroups (l : Live) (tn : Nat) : Live :=
  l.forL (l.plane.fwd.snooped.filter fun g => g.tn == tn) Live.showGroup

/-- The lowest element of a tenancy's range that firmware may take (R339). -/
def Live.freeGroup (l : Live) (tn : Nat) : Option Nat :=
  let first := l.rd .SNOOP_GROUP_FIRST 0 0 tn
  ((List.range (l.rd .SNOOP_GROUP_COUNT 0 0 tn)).map (first + ·)).find? fun g =>
    let v := l.elem .GROUP_TABLE g
    g < 4096 && (!groupValid v || groupSnooped v) && !(l.plane.fwd.snooped.any fun x => x.group == g)

/-- A tenancy's snooping range is exhausted, or no longer. -/
def Live.setExhausted (l : Live) (tn : Nat) (b : Bool) : Live :=
  l.setFwd fun x => { x with exhausted := setBit x.exhausted tn b }

/-- A group's STATIC entry with DEST 0x1000 + group is installed: at a free location, or over an entry that holds the key, as
ADD_STATIC converts one (R324, R339). -/
def Live.installGroup (l : Live) (e : MacEntry) : Option Live :=
  match l.macFind e.fid e.mac with
  | some (loc, was) => some (l.macSet loc (l.ticks + 1) { was with static := true, tn := e.tn } e.dest).showMac
  | none => (l.freeLoc e.fid e.mac).map fun loc => (l.macCreate loc (l.ticks + 1) e).showMac

/-- Whether a group has no member other than router ports (R339). -/
def Live.onlyRouters (l : Live) (g : Snooped) : Bool := g.ports.all fun p => bit (l.routerPorts l.ticks g.tn) p.1

/-- A group gains a port, or is taken with it (R338, R339).  A report on a router port makes no group.  One that finds the MAC
quota used up, or no place for the entry, makes none either (DESIGN CHOICE, log 124). -/
def Live.joinGroup (l : Live) (p fid tn mac : Nat) : Live :=
  let leave := l.ticks + 8000 * l.rd .SNOOP_GMI 0 0 tn
  match l.plane.fwd.snooped.find? fun g => g.vlan == fid && g.mac == mac with
  | some g =>
    let g1 := { g with ports := (g.ports.filter fun x => x.1 != p) ++ [(p, leave)] }
    (l.setFwd fun x => { x with snooped := x.snooped.map fun y => if y.vlan = fid ∧ y.mac = mac then g1 else y }).showGroup g1
  | none =>
    if bit (l.routerPorts l.ticks tn) p then l
    else
      match l.freeGroup tn with
      | none => l.setExhausted tn true
      | some n =>
        let g : Snooped := { tn := tn, vlan := fid, mac := mac, group := n, ports := [(p, leave)] }
        if l.rd .EFFECTIVE_QUOTA tn 4 ≤ l.macUse tn then l
        else
          match l.installGroup { static := true, tn := tn, fid := fid, mac := mac, dest := 0x1000 + n, prev := 0, age := 0,
                                 effective := 0 } with
          | some l1 => (l1.setFwd fun x => { x with snooped := x.snooped ++ [g] }).showGroup g
          | none => l

/-- A group left with no member: its MAC entry is removed and its element is invalid again (R339). -/
def Live.dropGroup (l : Live) (g : Snooped) : Live :=
  let l1 := (l.setFwd fun x => { x with snooped := x.snooped.filter fun y => !(y.vlan == g.vlan && y.mac == g.mac) }).setElemV
    .GROUP_TABLE g.group 0
  let l2 := match l1.macFind g.vlan g.mac with
    | some (loc, e) => (l1.macRemove loc (l1.ticks + 1) e).showMac
    | none => l1
  l2.setExhausted g.tn false

/-- The groups with the ports that `keep` names; those with no member other than router ports go (R339). -/
def Live.keepMembers (l : Live) (keep : Snooped → Nat × Nat → Bool) : Live :=
  l.forL l.plane.fwd.snooped fun l g =>
    let g1 := { g with ports := g.ports.filter (keep g) }
    if l.onlyRouters g1 then l.dropGroup g
    else if g1 = g then l
    else (l.setFwd fun x => { x with snooped := x.snooped.map fun y => if y.vlan = g.vlan ∧ y.mac = g.mac then g1 else y }).showGroup g1

/-- An IGMP or MLD report: every group it names is joined whole, and the frame goes to the router ports (R338). -/
def execSnoopReport (p : Fin 52) (vlan : Nat) (ip6 : Bool) (groups : List Nat) (frame : List Byte) (s : State) :
    Host.Outcome State Fault Refusal :=
  s.effect fun l =>
    if l.snoops vlan then
      let tn := l.vidOwner vlan
      let fid := vlanFid (l.vlanAt l.ticks vlan)
      let l1 := l.forL groups fun l g => l.joinGroup p.val fid tn (groupMac ip6 g)
      l1.firmwareFlood vlan (setBit (l1.routerPorts l1.ticks tn) p.val false) frame
    else l

/-- A leave or done message: under FAST_LEAVE its port is no member any more (R338). -/
def execSnoopLeave (p : Fin 52) (vlan : Nat) (ip6 : Bool) (group : Nat) (s : State) : Host.Outcome State Fault Refusal :=
  s.effect fun l =>
    let fid := vlanFid (l.vlanAt l.ticks vlan)
    if l.snoops vlan ∧ l.rdB .FAST_LEAVE 0 0 (l.vidOwner vlan) then
      l.keepMembers fun g m => !(g.vlan == fid && g.mac == groupMac ip6 group && m.1 == p.val)
    else l

/-- A query: its port is a router port for SNOOP_GMI seconds, and the frame goes to every member of the VLAN (R338). -/
def execSnoopQuery (p : Fin 52) (vlan : Nat) (frame : List Byte) (s : State) : Host.Outcome State Fault Refusal :=
  s.effect fun l =>
    if l.snoops vlan then
      let tn := l.vidOwner vlan
      let leave := l.ticks + 8000 * l.rd .SNOOP_GMI 0 0 tn
      let l1 := ((l.setFwd fun x =>
        { x with routers := (x.routers.filter fun r => !(r.1 == tn && r.2.1 == p.val)) ++ [(tn, p.val, leave)] }).keepMembers
          fun _ _ => true).showGroups tn
      l1.firmwareFlood vlan (setBit (vlanMembers (l1.vlanAt l1.ticks vlan)) p.val false) frame
    else l

/-- Members and router ports whose time has passed are removed (R338). -/
def Live.snoopExpiry (l : Live) : Live :=
  if l.mode.engineOn then
    let gone := (l.plane.fwd.routers.filter fun r => r.2.2 ≤ l.ticks).map (·.1)
    let l1 := (l.setFwd fun x => { x with routers := x.routers.filter fun r => l.ticks < r.2.2 }).keepMembers fun _ m =>
      l.ticks < m.2
    l1.forL gone.eraseDups Live.showGroups
  else l

def execSnoopMemberExpiry (s : State) : Host.Outcome State Fault Refusal :=
  s.effect Live.snoopExpiry

/-- A firmware restart, a reset of the unit or a tenancy's wipe forgets memberships (R348, R349). -/
def Live.forgetSnooping (l : Live) (p : Nat → Bool) : Live :=
  let l1 := l.forL (l.plane.fwd.snooped.filter fun g => p g.tn) Live.dropGroup
  l1.setFwd fun x => { x with routers := x.routers.filter fun r => !p r.1 }

end Sys2Proof.Machine
end

