-- ==== Sys2Proof/Machine/Bpm.lean ====
section
/-! DEFINITION. The buffer pool manager: pools, handles, requesters, allocation, ownership, zero-fill, forced release
(spec/11_buffer_pools.md), and the bytes of buffers. -/

namespace Sys2Proof.Machine

open Sys2Proof

/-! ### Pools, handles, requesters (R381 to R387) -/

def poolSize (k : Nat) : Nat := [256, 1024, 4096, 16384, 65536, 1048576].getD k 0
def poolAmber (k : Nat) : Nat := poolCount k * 75 / 100
def poolRed (k : Nat) : Nat := poolCount k * 90 / 100
def poolBlack (k : Nat) : Nat := poolCount k * 98 / 100
def poolClear (k : Nat) : Nat := poolCount k * 85 / 100

/-- The pool with the smallest buffer that holds a size (R382). -/
def poolFor (size : Nat) : Option Nat :=
  if size = 0 ∨ 1048576 < size then none else (List.range 6).find? fun k => size ≤ poolSize k

def bufKey (pool index : Nat) : Nat := pool * 2 ^ 25 + index
def handleOf (pool gen index : Nat) : Nat := pool * 2 ^ 29 + gen * 2 ^ 25 + index
def handlePool (h : Nat) : Nat := bits h 29 3
def handleGen (h : Nat) : Nat := bits h 25 4
def handleIndex (h : Nat) : Nat := bits h 0 25
def handleKey (h : Nat) : Nat := bufKey (handlePool h) (handleIndex h)

def requesters : List Nat := [0, 1, 2, 3, 4, 5, 6, 8, 9, 10, 11, 12, 13, 14, 15]

/-- The tenancy of a requester: a host function's, else TN0 (R660). -/
def requesterTn (r : Nat) : Nat := r - 8

def Live.setBpm (l : Live) (f : Bpm → Bpm) : Live := { l with bpm := f l.bpm }
def Live.buf (l : Live) (key : Nat) : Buf := l.bpm.bufs.get key
def Live.setBuf (l : Live) (key : Nat) (f : Buf → Buf) : Live := l.setBpm fun x => { x with bufs := x.bufs.upd key f }

/-- Allocated, or waiting for zero-fill (R381). -/
def Buf.inUse (b : Buf) : Bool := b.owners != [] || b.zeroing

/-- The buffers of a pool that are in use, ascending. -/
def Live.poolUsed (l : Live) (k : Nat) : List (Nat × Buf) :=
  (l.bpm.bufs.filter fun e => e.1 / 2 ^ 25 == k && e.2.inUse).map fun e => (e.1 % 2 ^ 25, e.2)

/-- The index from which the buffers of a pool that are not in use wait for the start-up fill (R408). -/
def Live.sweepFrom (l : Live) (k : Nat) : Nat :=
  match l.bpm.sweep with
  | some s => if k < 4 ∨ k < s / 2 ^ 25 then poolCount k else if k = s / 2 ^ 25 then min (s % 2 ^ 25) (poolCount k) else 0
  | none => poolCount k

/-- How many buffers of a pool wait for the start-up fill. -/
def Live.sweepWaits (l : Live) (k : Nat) : Nat :=
  let i := l.sweepFrom k
  (poolCount k - i) - ((l.poolUsed k).filter fun e => i ≤ e.1).length

def Live.inUse (l : Live) (k : Nat) : Nat := (l.poolUsed k).length + l.sweepWaits k

/-- Buffers of a pool charged to a requester (R391). -/
def Live.held (l : Live) (r k : Nat) : Nat := ((l.poolUsed k).filter fun e => e.2.owners != [] && e.2.final == r).length

/-- The lowest number that ascending numbers leave free. -/
def firstGap : Nat → List Nat → Nat
  | i, [] => i
  | i, u :: us => if u = i then firstGap (i + 1) us else i

/-- The lowest-numbered free buffer of a pool. -/
def Live.freeBuf (l : Live) (k : Nat) : Option Nat :=
  let i := firstGap 0 ((l.poolUsed k).map Prod.fst)
  if i < l.sweepFrom k then some i else none

/-- The buffer that the start-up fill comes to next, from a key on. -/
def Live.sweepNext (l : Live) (s : Nat) : Option Nat :=
  ([4, 5].filter fun k => s / 2 ^ 25 ≤ k).findSome? fun k =>
    let from_ := if k = s / 2 ^ 25 then s % 2 ^ 25 else 0
    let i := firstGap from_ (((l.poolUsed k).map Prod.fst).filter fun u => from_ ≤ u)
    if i < poolCount k then some (bufKey k i) else none

/-! ### Guarantees and maxima (R388 to R390) -/

/-- Whether a requester's tenancy is UNDEFINED. -/
def Live.requesterAbsent (l : Live) (r : Nat) : Bool := 9 ≤ r && !l.tnServes (r - 8)

/-- The effective guarantees, at the end of the commit phase. -/
def Live.computeGuarantees (l : Live) : Live :=
  l.forN 6 fun l k =>
    (requesters.foldl (fun (acc : Live × Nat) r =>
      let g := if acc.1.requesterAbsent r then 0 else min (acc.1.rd .GUARANTEE r k) acc.2
      (acc.1.wr .EFFECTIVE_GUARANTEE g r k, acc.2 - g)) (l, poolCount k)).1

def Live.effGuarantee (l : Live) (r k : Nat) : Nat := l.rd .EFFECTIVE_GUARANTEE r k
def Live.effMax (l : Live) (r k : Nat) : Nat :=
  if l.requesterAbsent r then 0 else max (l.rd .MAX r k) (l.effGuarantee r k)

/-- The reserved-but-unused count U of a pool (R391). -/
def Live.reservedUnused (l : Live) (k : Nat) : Nat := sumOf (fun r => l.effGuarantee r k - l.held r k) requesters

/-- Some effective guarantee is below its configured value: level event 327 (R388). -/
def Live.guaranteeShort (l : Live) : Bool :=
  requesters.any fun r => !l.requesterAbsent r && (List.range 6).any fun k => l.effGuarantee r k < l.rd .GUARANTEE r k

/-! ### Levels and back-pressure (R393, R394) -/

/-- 0 NORMAL, 1 AMBER, 2 RED, 3 BLACK. -/
def Live.poolLevel (l : Live) (k : Nat) : Nat :=
  let n := l.inUse k
  if poolBlack k ≤ n then 3 else if poolRed k ≤ n then 2 else if poolAmber k ≤ n then 1 else 0

/-- Phase 8: the signals. -/
def Live.updateBackPressure (l : Live) : Live :=
  if l.mode.engineOn then
    l.forN 6 fun l k =>
      let n := l.inUse k
      if poolRed k ≤ n then l.wrB .BACK_PRESSURE true k else if n ≤ poolClear k then l.wrB .BACK_PRESSURE false k else l
  else l

/-- Level conditions of the BPM that stand as a beat begins. -/
def Live.bpmLevels (l : Live) : List (Nat × Nat × List Byte) :=
  let at_ := fun (v : Nat) => (List.range 6).filter fun k => v ≤ l.poolLevel k
  let one : Nat → Nat → List (Nat × Nat × List Byte) := fun v src => if (at_ v).isEmpty then [] else [(src, 0, u64 (maskOf (at_ v)))]
  one 1 320 ++ one 2 321 ++ one 3 322
    ++ (if l.guaranteeShort then [(327, 0, [])] else [])
    ++ (if l.bpm.bufs.any fun e => e.2.bad && e.1 / 2 ^ 25 < 4 then [(328, 0, [])] else [])

/-! ### Bytes of buffers (R392, R407, R503 to R506) -/

/-- Bytes without the zeros at their end. -/
def trimZeros (bs : List Byte) : List Byte := (bs.reverse.dropWhile fun b => b == 0).reverse

/-- The 64-byte units that `n` bytes from `off` touch. -/
def unitsOf (off n : Nat) : List Nat := (List.range ((off + n + 63) / 64 - off / 64)).map (off / 64 + ·)

def Buf.read (b : Buf) (off n : Nat) : List Byte := slice b.data off n
def Buf.poisoned (b : Buf) (off n : Nat) : Bool := 0 < n && (unitsOf off n).any fun u => b.poison.contains u

/-- A write: poisoned data marks every unit it touches; in DRAM a unit written whole with clean data loses its mark (R506),
in workspace a mark stays until the zero-fill (R407). -/
def Buf.write (b : Buf) (dram : Bool) (off : Nat) (bs : List Byte) (poisoned : Bool) : Buf :=
  if bs.isEmpty then b
  else
    let wide := b.data ++ List.replicate (off + bs.length - b.data.length) 0
    let us := unitsOf off bs.length
    let whole := us.filter fun u => off ≤ 64 * u && 64 * u + 64 ≤ off + bs.length
    let marks := if poisoned then us.foldl (fun m u => if m.contains u then m else insertBy id u m) b.poison
                 else if dram then b.poison.filter fun u => !whole.contains u
                 else b.poison
    { b with data := trimZeros (patch wide off bs), poison := marks }

def Live.bufRead (l : Live) (key off n : Nat) : List Byte := (l.buf key).read off n
def Live.bufWrite (l : Live) (key off : Nat) (bs : List Byte) (poisoned : Bool) : Live :=
  l.setBuf key fun b => b.write (4 ≤ key / 2 ^ 25) off bs poisoned

/-! ### Results (R403) -/

def bpmOk := 0
def bpmNoBuffer := 1
def bpmOverMax := 2
def bpmAmber := 3
def bpmBlack := 4
def bpmTooLarge := 5
def bpmForbidden := 6
def bpmBadPool := 7
def bpmBadIndex := 8
def bpmStale := 9
def bpmMisaligned := 10
def bpmOwnerFault := 11
def bpmShareFull := 12
def bpmTenancyFault := 13

/-- Whether a function-level reset holds a requester (R400). -/
def Live.requesterReset (l : Live) (r : Nat) : Bool := 8 ≤ r && (l.host.fns.get (r - 8)).flr != none

/-- A refused ALLOC (R391). -/
def Live.allocRefused (l : Live) (r : Nat) (pool : Option Nat) (code : Nat) : Live :=
  let l1 := l.count .REFUSED 1 r
  let l2 := match pool with
    | some k => l1.count .REFUSALS 1 k
    | none => l1
  (l2.blk 20 .drops 1 r 0 (requesterTn r)).raise 323 (u8 r ++ u8 (pool.getD 0xFF) ++ u8 code) (requesterTn r)

/-- A failed check or a refused ownership operation (R386, R396, R397). -/
def Live.bpmFault (l : Live) (r handle code : Nat) : Live :=
  let data := u8 r ++ u32 handle ++ u8 code
  if code ≤ bpmMisaligned then
    ((l.count .HANDLE_FAULTS 1 r).blk 20 .signalA 1 r 0 (requesterTn r)).raise 324 data (requesterTn r)
  else ((l.count .OWNER_FAULTS 1 r).blk 20 .signalB 1 r 0 (requesterTn r)).raise 325 data (requesterTn r)

/-- The checks of a handle, in order (R386); an access names its offset and length. -/
def Live.checkHandle (l : Live) (r h : Nat) (access : Option (Nat × Nat)) : Nat :=
  let b := l.buf (handleKey h)
  if 6 ≤ handlePool h then bpmBadPool
  else if poolCount (handlePool h) ≤ handleIndex h then bpmBadIndex
  else if handleGen h ≠ b.gen then bpmStale
  else
    let bad : Bool := match access with
      | some (off, n) => off % 8 != 0 || n == 0 || poolSize (handlePool h) < off + n
      | none => false
    if bad then bpmMisaligned
    else if ¬ b.owners.contains r ∨ l.requesterReset r then bpmOwnerFault
    else bpmOk

/-! ### Allocation (R391, R392) -/

/-- The decision of an ALLOC in a chosen pool. -/
def Live.allocCode (l : Live) (r k : Nat) : Nat :=
  let h := l.held r k
  let forbidden := (8 ≤ r ∧ ¬ l.tnServes (r - 8)) ∨ l.requesterReset r
  if forbidden then bpmForbidden
  else if l.effMax r k ≤ h then bpmOverMax
  else if h < l.effGuarantee r k then (if l.freeBuf k = none then bpmNoBuffer else bpmOk)
  else if poolBlack k ≤ l.inUse k then bpmBlack
  else if l.rd .CLASS_0910 r = 1 ∧ poolAmber k ≤ l.inUse k then bpmAmber
  else if poolCount k - l.inUse k < l.reservedUnused k + 1 then bpmNoBuffer
  else bpmOk

/-- The tenancy of a new buffer: a function's own, TN0 for Muslin and firmware, else the one the engine names (R392). -/
def bufferTn (r tn : Nat) : Nat := if 8 ≤ r then r - 8 else if r = 3 ∨ r = 4 then 0 else tn

/-- ALLOC: the result code and handle, and the machine after it. -/
def Live.alloc (l : Live) (r size tn : Nat) : (Nat × Nat) × Live :=
  match poolFor size with
  | none => ((bpmTooLarge, 0), l.allocRefused r none bpmTooLarge)
  | some k =>
    let code := l.allocCode r k
    match l.freeBuf k with
    | some i =>
      if code = bpmOk then
        let key := bufKey k i
        let g := (l.buf key).gen
        let l1 := l.setBuf key fun b =>
          { b with owners := [r], final := r, tn := bufferTn r tn, data := [], poison := [] }
        let l2 := l1.wr .IN_USE_HIGH (max (l1.rd .IN_USE_HIGH k) (l1.inUse k)) k
        ((bpmOk, handleOf k g i), l2.blk 20 .eventsIn 1 r 0 (requesterTn r))
      else ((code, 0), l.allocRefused r (some k) code)
    | none => ((code, 0), l.allocRefused r (some k) code)

/-! ### Ownership (R396 to R399) -/

/-- The generation after a FREE (R385). -/
def nextGen (g : Nat) : Nat := if 15 ≤ g then 1 else g + 1

/-- A buffer's last owner leaves: its generation advances and its zero-fill starts (R385, R399). -/
def Live.freeBuffer (l : Live) (key r : Nat) : Live :=
  let l1 := l.setBuf key fun b => { b with owners := [], final := 0, gen := nextGen b.gen, zeroing := true }
  let l2 := if 4 ≤ key / 2 ^ 25 then l1.setBpm fun x => { x with fills := x.fills ++ [key] } else l1
  l2.blk 20 .eventsOut 1 r 0 (requesterTn r)

/-- Whether a requester may be named as a new owner: it exists, and no reset holds it. -/
def Live.requesterExists (l : Live) (r : Nat) : Bool := requesters.contains r && !l.requesterReset r

/-- SHARE (R396, R397). -/
def Live.share (l : Live) (r h new : Nat) (final : Bool) : Nat × Live :=
  let key := handleKey h
  let b := l.buf key
  let c := l.checkHandle r h none
  if c ≠ bpmOk then (c, l.bpmFault r h c)
  else if 4 ≤ b.owners.length then (bpmShareFull, l.bpmFault r h bpmShareFull)
  else if b.owners.contains new ∨ ¬ l.requesterExists new then (bpmOwnerFault, l.bpmFault r h bpmOwnerFault)
  else if 9 ≤ new ∧ b.tn ≠ new - 8 then (bpmTenancyFault, l.bpmFault r h bpmTenancyFault)
  else if final ∧ l.effMax new (handlePool h) ≤ l.held new (handlePool h) then
    (bpmOverMax, l.allocRefused r (some (handlePool h)) bpmOverMax)
  else
    (bpmOk, l.setBuf key fun b => { b with owners := b.owners ++ [new], final := if final then new else b.final })

/-- RELEASE (R396). -/
def Live.release (l : Live) (r h : Nat) : Nat × Live :=
  let key := handleKey h
  let c := l.checkHandle r h none
  if c ≠ bpmOk then (c, l.bpmFault r h c)
  else if (l.buf key).final = r then (bpmOwnerFault, l.bpmFault r h bpmOwnerFault)
  else (bpmOk, l.setBuf key fun b => { b with owners := b.owners.filter fun o => o != r })

/-- FREE (R396). -/
def Live.freeHandle (l : Live) (r h : Nat) : Nat × Live :=
  let key := handleKey h
  let b := l.buf key
  let c := l.checkHandle r h none
  if c ≠ bpmOk then (c, l.bpmFault r h c)
  else if b.final ≠ r ∨ b.owners ≠ [r] then (bpmOwnerFault, l.bpmFault r h bpmOwnerFault)
  else (bpmOk, l.freeBuffer key r)

/-- One requester leaves a buffer as a forced release takes it out (R400). -/
def Live.dropOwner (l : Live) (key r : Nat) : Live :=
  let b := l.buf key
  let rest := b.owners.filter fun o => o != r
  match rest with
  | [] => l.freeBuffer key r
  | o :: _ => l.setBuf key fun b => { b with owners := rest, final := if b.final = r then o else b.final }

/-- Forced release of a requester (R400). -/
def Live.forcedRelease (l : Live) (r : Nat) : Live :=
  let ks := (l.bpm.bufs.filter fun e => e.2.owners.contains r).map Prod.fst
  if ks.isEmpty then l
  else
    ((l.forL ks fun l k => l.dropOwner k r).count .FORCED_RELEASES ks.length r).raise 326 (u8 r ++ u32 ks.length) (requesterTn r)

/-! ### Zero-fill (R399) -/

/-- A buffer's zero-fill ends: it is free, with no content, no mark and no error. -/
def Live.zeroFilled (l : Live) (key : Nat) : Live :=
  let l1 := (l.setBuf key fun b => { gen := b.gen }).setBpm fun x => { x with fills := x.fills.filter fun k => k != key }
  if l.bpm.sweep = some key then l1.setBpm fun x => { x with sweep := l1.sweepNext (key + 1) } else l1

/-- Whether a buffer's zero-fill is the one that ends next: workspace at once, DRAM in the order of the queue. -/
def Live.fillDue (l : Live) (key : Nat) : Bool :=
  if key / 2 ^ 25 < 4 then (l.buf key).zeroing
  else
    match l.bpm.sweep with
    | some s => s == key
    | none => (l.buf key).zeroing && l.bpm.fills.head? == some key

/-- The start-up fill begins (R408): every buffer that waits for it is in use (R399). -/
def Live.sweepStart (l : Live) : Live :=
  (l.setBpm fun x => { x with sweep := l.sweepNext (bufKey 4 0) }).forL [4, 5] fun l k =>
    l.wr .IN_USE_HIGH (max (l.rd .IN_USE_HIGH k) (l.inUse k)) k

/-- SCRUB_BACKLOG: bytes that wait in the queue. -/
def Live.scrubBacklog (l : Live) : Nat :=
  sumOf (fun k => poolSize (k / 2 ^ 25)) l.bpm.fills + sumOf (fun k => poolSize k * l.sweepWaits k) [4, 5]

/-! ### The commands -/

/-- Remember the last result of a requester; ALLOC sets the handle too (R619). -/
def Live.bpmResult (l : Live) (r code : Nat) (handle : Option Nat) : Live :=
  l.setBpm fun x => { x with results := x.results.put r (code, handle.getD (x.results.get r).2) }

/-- Whether the BPM settles operations: not in FREEZE, and not before CONFIGURE (R408, R599). -/
def Live.bpmRuns (l : Live) (r : Nat) : Bool := l.mode.engineOn && requesters.contains r

def execAlloc (r : Fin 16) (size : Nat) (tn : Fin 8) (s : State) : Host.Outcome State Fault Refusal :=
  s.effect fun l =>
    if l.bpmRuns r.val then
      let a := l.alloc r.val size tn.val
      a.2.bpmResult r.val a.1.1 (some a.1.2)
    else l

def execShare (r : Fin 16) (h : Nat) (new : Fin 16) (final : Bool) (s : State) : Host.Outcome State Fault Refusal :=
  s.effect fun l =>
    if l.bpmRuns r.val then
      let a := l.share r.val h new.val final
      a.2.bpmResult r.val a.1 none
    else l

def execRelease (r : Fin 16) (h : Nat) (s : State) : Host.Outcome State Fault Refusal :=
  s.effect fun l =>
    if l.bpmRuns r.val then
      let a := l.release r.val h
      a.2.bpmResult r.val a.1 none
    else l

def execFree (r : Fin 16) (h : Nat) (s : State) : Host.Outcome State Fault Refusal :=
  s.effect fun l =>
    if l.bpmRuns r.val then
      let a := l.freeHandle r.val h
      a.2.bpmResult r.val a.1 none
    else l

end Sys2Proof.Machine
end

