-- ==== Sys2Proof/Machine/Elements.lean ====
section
/-! DEFINITION. Tenancy rules and field rules of table elements: to which tenancy an element is bound, when a master may
write one, what its clamp rule makes of a value, and the quotas (R298, R299, R302, R328, R333, R337, R339, R341, R417,
R418). -/

namespace Sys2Proof.Machine

open Sys2Proof

/-- The tables whose elements are bound by content. -/
inductive ElemTable where
  | ct0 | ct1 | ct2 | ct3 | damask | nextHop | group | vlan | policer
deriving DecidableEq, Repr

/-- The table of an object. -/
def elemTable (o : Obj) : Option ElemTable :=
  match o.base with
  | 0x2000 => some .ct0
  | 0x2100 => some .ct1
  | 0x2180 => some .ct2
  | 0x2200 => some .ct3
  | 0x2C00 => some .damask
  | 0x2E00 => some .nextHop
  | 0x2E40 => some .group
  | 0x2E60 => some .vlan
  | 0x3000 => some .policer
  | _ => none

def ElemTable.obj : ElemTable → Obj
  | .ct0 => .CT0 | .ct1 => .CT1 | .ct2 => .CT2 | .ct3 => .CT3 | .damask => .DAMASK | .nextHop => .NEXT_HOP_TABLE
  | .group => .GROUP_TABLE | .vlan => .VLAN_TABLE | .policer => .POLICER_TABLE

/-- Items of one bank. -/
def ElemTable.items : ElemTable → Nat
  | .ct0 => 128 | .ct1 => 64 | .ct2 => 32 | .ct3 => 128 | .damask => 512 | .nextHop => 64 | .group => 32 | .vlan => 32
  | .policer => 32

/-- The quota that counts the table's elements (R170). -/
def ElemTable.quota : ElemTable → Option Nat
  | .ct0 => some 0 | .ct1 => some 1 | .ct2 => some 2 | .ct3 => some 3 | .damask => some 5 | .nextHop => some 6
  | .group => some 7 | .policer => some 8 | .vlan => none

def tableOf (t : Nat) : ElemTable := match t with | 0 => .ct0 | 1 => .ct1 | 2 => .ct2 | _ => .ct3

/-- A Damask slot is valid: a head or an IPv4 prefix with VALID, or a tail behind a VALID IPv6 head in an even slot. -/
def damaskValid (e v headValue : Nat) : Bool :=
  match slotType v with
  | 0 => false
  | 3 => e % 2 == 1 && slotValid headValue && slotType headValue == 2
  | _ => slotValid v

/-- VALID of an element's content; `other` is the slot before it, for Damask. -/
def ElemTable.valid (t : ElemTable) (e v other : Nat) : Bool :=
  match t with
  | .ct0 | .ct3 => bit v 0
  | .ct1 | .ct2 => bit v 31
  | .damask => damaskValid e v other
  | .nextHop => bit v 255
  | .group => bit v 63
  | .vlan => bit v 239
  | .policer => bit v 127

/-- The content with VALID cleared; a tail has no VALID bit. -/
def ElemTable.clearValid (t : ElemTable) (v : Nat) : Nat :=
  match t with
  | .ct0 | .ct3 => setBit v 0 false
  | .ct1 | .ct2 => setBit v 31 false
  | .damask => if slotType v = 3 then v else setBit v 95 false
  | .nextHop => setBit v 255 false
  | .group => setBit v 63 false
  | .vlan => setBit v 239 false
  | .policer => v

/-- The tenancy to which an element's content binds it (R298, R341, R434). -/
def Live.elemBound (l : Live) (t : ElemTable) (e v other : Nat) : Nat :=
  match t with
  | .ct0 => bits v 93 3
  | .ct3 => bits v 125 3
  | .ct1 => if bits v 379 3 = 7 then bits v 699 3 else 0
  | .ct2 => if bits v 221 3 = 7 then bits v 381 3 else 0
  | .damask => if slotType v = 3 then slotTn other else if slotType v = 0 then 0 else slotTn v
  | .nextHop => bits v 248 3
  | .group => groupTn v
  | .vlan => l.vidOwner (e % 4096)
  | .policer => polOwner v

/-- The element before `e` in its bank: the head of a Damask tail. -/
def Live.elemBefore (l : Live) (t : ElemTable) (e : Nat) : Nat :=
  if t = .damask ∧ 0 < e then l.elem .DAMASK (e - 1) else 0

/-- The tenancy to which an element is bound now. -/
def Live.elemOwner (l : Live) (t : ElemTable) (e : Nat) : Nat := l.elemBound t e (l.elem t.obj e) (l.elemBefore t e)

/-- The VIDs, ports, policers and groups that a content names all belong to a tenancy: of ports, the access ports among a CT0
PORT, members and untagged members (R178, R298, R341). -/
def Live.elemRefs (l : Live) (t : ElemTable) (v n : Nat) : Bool :=
  let vids := match t with
    | .ct0 => [bits v 108 12, bits v 96 12, bits v 81 12]
    | .ct1 => (if bits v 361 12 = 0 then [] else [bits v 681 12])
        ++ (if bits v 702 2 = 0 ∧ bits v 196 12 ≠ 0 then [bits v 516 12] else [])
    | .ct2 => if bits v 203 12 = 0 then [] else [bits v 363 12]
    | .ct3 => [bits v 113 12]
    | .nextHop => [bits v 224 16]
    | _ => []
  let portOk := match t with
    | .ct0 => let p := bits v 122 6; if p < 48 then l.portOwner p == n else p < 52
    | .group => (members 48 (bits v 64 48)).all fun p => l.portOwner p == n
    | .vlan => (members 48 (bits v 320 48 ||| bits v 256 48)).all fun p => l.portOwner p == n
    | _ => true
  let policerOk := match t with
    | .ct2 => !bit v 56 || polOwner (l.elem .POLICER_TABLE (bits v 44 12)) == n
    | _ => true
  let groupOk := match t with
    | .ct3 => !bit v 75 || groupTn (l.elem .GROUP_TABLE (bits v 63 12)) == n
    | _ => true
  (vids.all fun x => x == 0 || l.vidOwner x == n) && portOk && policerOk && groupOk

/-- A write of an element by a master acting for TNn is denied (R298, R339, R341, R418); `head` is what the slot before it
will hold. -/
def Live.elemDenied (l : Live) (n rank : Nat) (t : ElemTable) (e v head : Nat) : Bool :=
  let old := l.elem t.obj e
  if t = .group ∧ bit old 61 ∧ rank ≠ 15 then true
  else if n = 0 then false
  else if t = .policer then polOwner old != n || polOwner v != n
  else
    (t.valid e old (l.elemBefore t e) && l.elemOwner t e != n) || l.elemBound t e v head != n || !l.elemRefs t v n

/-! ### Clamp rules -/

/-- Reserved bits cleared, and numbers to the nearest limit (R302, R327, R328, R333, R337, R417). -/
def Live.elemFields (l : Live) (rank : Nat) (t : ElemTable) (e v : Nat) : Nat :=
  match t with
  | .ct0 => setBits v 1 64 0
  | .ct1 => setBits (setBits (setBits (setBits v 640 7 0) 320 7 0) 32 16 0) 0 31 0
  | .ct2 => setBits (setBits (setBits (setBits v 224 22 0) 64 22 0) 32 5 0) 0 31 0
  | .ct3 => setBits v 1 60 0
  | .damask => setBits v 0 8 0
  | .nextHop =>
    let v1 := setBits (setBits (setBit v 251 false) 240 8 0) 128 48 0
    if nhState v1 = 1 ∧ rank ≠ 15 then setBits v1 253 2 0 else v1
  | .group => setBits (setBits (setBits v 122 6 0) 59 2 0) 0 56 0
  | .vlan =>
    let v1 := setBits (setBits (setBits (setBits v 376 8 0) 312 8 0) 232 2 0) 224 8 0
    let v2 := setBits v1 0 64 0
    let fid := bits v2 240 16
    let fid1 := max 1 (min fid 4094)
    let fid2 := if l.vidOwner fid1 = l.vidOwner (e % 4096) then fid1 else e % 4096
    setBits v2 240 16 fid2
  | .policer =>
    let num := fun (lo lim v : Nat) => setBits v lo 32 (min (bits v lo 32) lim)
    let v1 := num 224 3125000 (num 192 3125000 (num 160 16777215 (num 128 16777215 v)))
    setBits (setBits (setBits (setBits (setBits (setBits v1 120 2 0) 112 2 0) 110 2 0) 102 2 0) 94 2 0) 0 88 0

/-! ### Usage and quotas (R299, R341, R418) -/

/-- Policers by their OWNER, all-zero elements being TN0's (R418). -/
def Live.policersOf (l : Live) (n : Nat) : Nat :=
  let own := fun (m : Nat) => ((l.elems .POLICER_TABLE 0 32).filter fun x => polOwner x.2 == m).length
  if n = 0 then 4096 - sumOf own [1, 2, 3, 4, 5, 6, 7] else own n

/-- Valid elements of a bank bound to a tenancy; a policer counts by its OWNER. -/
def Live.elemCount (l : Live) (t : ElemTable) (bank n : Nat) : Nat :=
  if t = .policer then l.policersOf n
  else
    ((l.elems t.obj (t.items * bank) t.items).filter fun x =>
      let e := x.1 + 128 * t.items * bank
      t.valid e x.2 (l.elemBefore t e) && l.elemBound t e x.2 (l.elemBefore t e) == n).length

/-- The usage of a table: the larger of its banks' counts. -/
def Live.elemUsage (l : Live) (t : ElemTable) (n : Nat) : Nat :=
  match t with
  | .ct0 | .ct1 | .ct2 | .ct3 => max (l.elemCount t 0 n) (l.elemCount t 1 n)
  | _ => l.elemCount t 0 n

/-- A content commits within the quota of the tenancy to which it is bound; otherwise with VALID cleared, or, a policer,
with OWNER unchanged. -/
def Live.elemQuota (l : Live) (t : ElemTable) (e v : Nat) : Nat :=
  match t.quota with
  | none => v
  | some q =>
    let l1 := l.setElem t.obj e v
    let n := l1.elemBound t e v (l1.elemBefore t e)
    let bank := e / (128 * t.items)
    let now := l.elemCount t bank n
    let then_ := l1.elemCount t bank n
    if then_ ≤ now ∨ then_ ≤ l.rd .EFFECTIVE_QUOTA n q then v
    else if t = .policer then setBits v 124 3 (polOwner (l.elem t.obj e))
    else t.clearValid v

/-- What an element's clamp rule makes of a value. -/
def Live.elemClamp (l : Live) (rank : Nat) (t : ElemTable) (e v : Nat) : Nat := l.elemQuota t e (l.elemFields rank t e v)

/-- The event of a quota clamp (R299, R341, R418): the tenancy that asked for more. -/
def Live.elemClampEvent (l : Live) (rank : Nat) (t : ElemTable) (e asked : Nat) : Live :=
  let v := l.elemFields rank t e asked
  if l.elemQuota t e v = v then l
  else
    let n := l.elemBound t e v (l.elemBefore t e)
    match t with
    | .ct0 | .ct1 | .ct2 | .ct3 => l.raise 356 [] n
    | .policer => l.raise 420 [] n
    | _ => l.raise 396 [] n

/-- The Calico table of an element's object. -/
def ctNumber : ElemTable → Option Nat
  | .ct0 => some 0 | .ct1 => some 1 | .ct2 => some 2 | .ct3 => some 3 | _ => none

/-- Whether frames can read an item of an array: of a Calico table, the active bank or one that is DRAINING (R287). -/
def Live.framesRead (l : Live) (o : Obj) (i : Nat) : Bool :=
  match elemTable o with
  | some t =>
    match ctNumber t with
    | some n => i / t.items == l.rd .ACTIVE_BANK n || l.draining n
    | none => true
  | none => true

/-- A write or a removal of an element meets a shadow copy of its table. -/
def Live.elemMeets (l : Live) (t : ElemTable) (e : Nat) (gone : Option Nat) : Live :=
  match ctNumber t with
  | some n => l.copyMeets n e gone
  | none => l

/-- What a write of an element does beside its content (R149, R282, R297, R306, R419): the stored set is no longer what is
committed; CT3 hit counters clear; a policer's buckets fill, and its statistics clear with a change of OWNER. -/
def Live.elemWritten (l0 : Live) (t : ElemTable) (e old new : Nat) : Live :=
  let l := ((l0.heal (t.obj.key (e / 128) (e % 128) 0)).elemMeets t e none).when (old != new) Live.markDirty
  match t with
  | .ct3 => l.setElem .CT3_HITS e 0
  | .policer =>
    let fill := (bit new 127 && !bit old 127) || bit old 123 != bit new 123 || polOwner old != polOwner new
    let l1 := if fill then l.fillBuckets e new else l
    if polOwner old = polOwner new then l1 else l1.setElem .POLICER_STATS e 0
  | _ => l

end Sys2Proof.Machine
end

