-- ==== Sys2Proof/Machine/Sha256.lean ====
section
/-! DEFINITION. SHA-256 and HMAC-SHA-256 (FIPS 180-4, RFC 2104), which R113 and R114 call for by name. -/

namespace Sys2Proof.Machine

open Sys2Proof

/-- A 32-bit word, as a number below 2^32. -/
def w32 (x : Nat) : Nat := x % 4294967296

/-- Rotation to the right by `n` of a 32-bit word. -/
def rotr (x n : Nat) : Nat := (x >>> n ||| x <<< (32 - n)) % 4294967296

/-- The greatest number whose `n`-th power is at most `x`, bit by bit from bit `k - 1` down, above the part found. -/
def rootBits (n x : Nat) : Nat → Nat → Nat
  | 0, r => r
  | k + 1, r => rootBits n x k (if (r + 2 ^ k) ^ n ≤ x then r + 2 ^ k else r)

/-- The first 32 bits of the fraction of the `n`-th root of a small number. -/
def rootFraction (n p : Nat) : Nat := rootBits n (p * 2 ^ (32 * n)) 37 0 % 2 ^ 32

/-- The primes below 312; there are 64 of them. -/
def shaPrimes : List Nat :=
  (List.range 312).filter fun p => 2 ≤ p && [2, 3, 5, 7, 11, 13, 17].all fun d => p == d || p % d != 0

/-- The round constants of FIPS 180-4: fractions of the cube roots of the first 64 primes. -/
def shaK : List Nat := shaPrimes.map (rootFraction 3)

/-- The initial hash value: fractions of the square roots of the first 8 primes. -/
def shaInit : List Nat := (shaPrimes.take 8).map (rootFraction 2)

/-- A mixing function of FIPS 180-4: two rotations joined with a third, or with a shift where `sh` says so. -/
def sigma (sh : Bool) (a b c x : Nat) : Nat := rotr x a ^^^ (rotr x b ^^^ if sh then x / 2 ^ c else rotr x c)

/-- The message schedule, newest word first: each further word from the sixteen before it. -/
def shaSchedule : Nat → List Nat → List Nat
  | 0, ws => ws
  | n + 1, ws =>
    let back := fun k => ws.getD (k - 1) 0
    shaSchedule n (w32 (back 16 + sigma true 7 18 3 (back 15) + back 7 + sigma true 17 19 10 (back 2)) :: ws)

/-- The working variables of a round. -/
structure ShaVars where
  a : Nat
  b : Nat
  c : Nat
  d : Nat
  e : Nat
  f : Nat
  g : Nat
  h : Nat

def ShaVars.ofList (h : List Nat) : ShaVars :=
  let w := fun i => h.getD i 0
  ⟨w 0, w 1, w 2, w 3, w 4, w 5, w 6, w 7⟩

def ShaVars.toList (v : ShaVars) : List Nat := [v.a, v.b, v.c, v.d, v.e, v.f, v.g, v.h]

/-- One round with its constant and schedule word: where `e` has a bit its choice is that of `f`, else that of `g`; the majority
of three bits is two of them agreeing. -/
def shaRound (v : ShaVars) (kw : Nat × Nat) : ShaVars :=
  let pick := v.g ^^^ (v.e &&& (v.f ^^^ v.g))
  let most := (v.a &&& v.b) ||| (v.c &&& (v.a ||| v.b))
  let x := v.h + sigma false 6 11 25 v.e + pick + kw.1 + kw.2
  ⟨w32 (x + sigma false 2 13 22 v.a + most), v.a, v.b, v.c, w32 (v.d + x), v.e, v.f, v.g⟩

/-- One 64-byte block is taken into the hash value. -/
def shaBlock (h : List Nat) (block : List Byte) : List Nat :=
  let ws := (List.range 16).foldl (fun acc i => fieldAt block (4 * i) 4 :: acc) []
  let sched := (shaSchedule 48 ws).reverse
  let v := ((shaK.zip sched).foldl shaRound (.ofList h)).toList
  (h.zip v).map fun p => w32 (p.1 + p.2)

/-- The padded message. -/
def shaPad (m : List Byte) : List Byte :=
  m ++ [byte 0x80] ++ List.replicate ((119 - m.length % 64) % 64) (byte 0) ++ beBytes 8 (8 * m.length)

/-- The blocks of a padded message, one after the other. -/
def shaBlocks : Nat → List Byte → List Nat → List Nat
  | 0, _, h => h
  | n + 1, m, h => shaBlocks n (m.drop 64) (shaBlock h (m.take 64))

/-- SHA-256 of a message: 32 bytes. -/
def sha256 (m : List Byte) : List Byte :=
  let p := shaPad m
  (shaBlocks (p.length / 64) p shaInit).flatMap (beBytes 4)

/-- HMAC-SHA-256 with a key of at most 64 bytes. -/
def hmacSha256 (key m : List Byte) : List Byte :=
  let k := key ++ List.replicate (64 - key.length) (byte 0)
  let inner := sha256 (k.map (· ^^^ byte 0x36) ++ m)
  sha256 (k.map (· ^^^ byte 0x5C) ++ inner)

end Sys2Proof.Machine
end

