-- ==== Sys2Proof/Machine/Wire.lean ====
section
/-! DEFINITION. The paths of the dictionary: the DAU, the CAN ports, the in-band sessions and the mailbox pages
(R95 to R98, R105 to R120 of spec/03_dictionary_wire.md). -/

namespace Sys2Proof.Machine

open Sys2Proof

/-! ### The DAU (R95) -/

/-- A DAU that the unit sends: RESP is set. -/
def dauOut (op id index sub status : Nat) (payload : List Byte) : List Byte :=
  u8 (op % 8 * 32 + 16 + payload.length / 256 % 8) ++ u16 id ++ u16 index ++ u8 sub ++ u8 (payload.length % 256)
    ++ u8 status ++ payload

def Response.dau (r : Response) : List Byte := dauOut r.op r.reqId r.index r.sub r.status r.payload

/-- LEN of a DAU. -/
def dauLen (d : List Byte) : Nat := bits (fieldAt d 0 1) 0 3 * 256 + fieldAt d 6 1

/-- Operation and request of a DAU as it arrives with `limit` bytes of payload room on its path (R97). -/
def dauRequest (d : List Byte) (limit : Nat) (respIsError : Bool) : Nat × Req :=
  let b0 := fieldAt d 0 1
  let len := dauLen d
  (bits b0 5 3,
   { id := fieldAt d 1 2, index := fieldAt d 3 2, sub := fieldAt d 5 1, payload := slice d 8 (min len (d.length - 8)),
     malformed := bit b0 3 || decide (limit < len) || decide (d.length < 8 + len) || (respIsError && bit b0 4) })

/-- The INDEX and SUBINDEX that a notification names (R645). -/
def noteIndex (src : Nat) : Nat := 0x1720 + src / 32
def noteSub (src : Nat) : Nat := 1 + src % 32

/-- The next notification sequence of a master, which the notification takes whether or not it is sent (R98). -/
def Live.takeSeq (l : Live) (rank : Nat) : Nat × Live :=
  let n := l.dict.notifySeq.get rank
  (n, l.setDict fun d => { d with notifySeq := d.notifySeq.put rank ((n + 1) % 65536) })

/-- A path starts: its notification sequence is 0 (R98). -/
def Live.restartSeq (l : Live) (rank : Nat) : Live := l.setDict fun d => { d with notifySeq := d.notifySeq.del rank }

/-! ### CAN ports (R105 to R112) -/

def Live.setCan (l : Live) (c : Nat) (f : CanPort → CanPort) : Live := { l with can := l.can.upd c f }

/-- Data lengths of CAN FD frames. -/
def canLengths : List Nat := [8, 12, 16, 20, 24, 32, 48, 64]

/-- A DAU in a frame's data field, padded to the smallest length that holds it (R106). -/
def canPad (d : List Byte) : List Byte :=
  d ++ List.replicate ((canLengths.find? fun n => d.length ≤ n).getD 64 - d.length) (byte 0)

/-- The identifiers of requests and of responses (R105); a new NODE applies from the end of the last frame that completes
(R110). -/
def Live.canRequestId (l : Live) (c : Nat) : Nat := 0x340 + ((l.can.get c).node.getD (l.rd .NODE c))
def Live.canResponseId (l : Live) (c : Nat) : Nat := 0x360 + l.rd .NODE c

/-- A frame of a port under its settings: BRS where DATA_RATE exceeds NOMINAL_RATE (code 1 against code 3 does not), delay
compensation from 2 Mbit/s (R105). -/
def Live.canFrame (l : Live) (c id : Nat) (data : List Byte) (notify : Bool := false) : CanFrame :=
  { id := id, data := data, notify := notify, brs := l.rd .DATA_RATE c != 1 || l.rd .NOMINAL_RATE c != 3,
    tdc := decide (2 ≤ l.rd .DATA_RATE c) }

/-- A response or notification that waits, under the port's settings as they are now. -/
def Live.canAgain (l : Live) (c : Nat) (f : CanFrame) : CanFrame := l.canFrame c (l.canResponseId c) f.data f.notify

/-- Responses of a port waiting and owed (R109); the frame on the bus is not among them (DESIGN CHOICE, log entry 115). -/
def Live.canOwed (l : Live) (c : Nat) : Nat :=
  ((l.can.get c).waiting.filter fun f => !f.notify).length + (l.queuedOf (2 + c)).length

/-- A response for a port: discarded and counted while ENABLE reads 0 (R110). -/
def Live.canRespond (l : Live) (c : Nat) (r : Response) : Live :=
  if l.rdB .ENABLE_0780 c then
    l.setCan c fun p => { p with waiting := p.waiting ++ [l.canFrame c (l.canResponseId c) (canPad r.dau)] }
  else l.count .TX_WITHDRAWN 1 c

/-- A notification for a port (R98, R109, R110). -/
def Live.canNotify (l : Live) (c src : Nat) (payload : List Byte) : Live :=
  let (n, l1) := l.takeSeq (2 + c)
  let f := l.canFrame c (l.canResponseId c) (canPad (dauOut 6 n (noteIndex src) (noteSub src) 0 payload)) true
  if ¬ l.rdB .ENABLE_0780 c then l1.count .TX_WITHDRAWN 1 c
  else if 64 ≤ ((l.can.get c).waiting.filter fun f => f.notify).length then l1.count .NOTIFY_DISCARDED 1 c
  else l1.setCan c fun p => { p with waiting := p.waiting ++ [f] }

/-- The frame that the port sends next: the one on the bus, else a roll-call frame, else the oldest that waits.  That the queue
of roll-calls goes first is the model's (DESIGN CHOICE, log entry 115). -/
def CanPort.head (p : CanPort) : Option CanFrame :=
  match p.sending, p.calls, p.waiting with
  | some f, _, _ => some f
  | none, f :: _, _ => some f
  | none, [], f :: _ => some f
  | none, [], [] => none

/-- The head leaves its queue and is on the bus. -/
def CanPort.start (p : CanPort) (g : CanProgress) : CanPort :=
  match p.sending, p.calls, p.waiting with
  | some _, _, _ => { p with progress := g }
  | none, f :: fs, _ => { p with sending := some f, calls := fs, progress := g }
  | none, [], f :: fs => { p with sending := some f, waiting := fs, progress := g }
  | none, [], [] => p

/-- What a boundary latches of a port's bus: how far its current frame has gone. -/
def Live.canSample (l : Live) (c code : Nat) : Live :=
  match code with
  | 1 => l.setCan c fun p => p.start .arbitration
  | 2 => l.setCan c fun p => p.start .past
  | _ => l

/-- Abort the pending transmissions of a port whose NODE was `node` (R110): frames not started are withdrawn, and responses and
notifications queued again unless `drop`; the one on the bus completes as TOO_LATE, or is withdrawn if it loses arbitration. -/
def Live.canAbort (l : Live) (c node : Nat) (drop : Bool) : Live :=
  let p := l.can.get c
  let n := p.waiting.length + p.calls.length
  let l1 := l.count .TX_WITHDRAWN n c
  l1.setCan c fun p =>
    { p with tooLate := p.sending.isSome, drop := drop, node := if p.sending.isSome then some (p.node.getD node) else none,
             waiting := if drop then [] else p.waiting.map (l.canAgain c), calls := [] }

/-- A frame ends on the bus, or loses arbitration (R109, R110). -/
def Live.canTxEnd (l : Live) (c : Nat) (won : Bool) : Live :=
  let p := (l.can.get c).start .past
  match p.sending with
  | none => l
  | some f =>
    if l.rd .STATE_0782 c = 2 then l
    else if won then
      let l1 := l.setCan c fun _ =>
        { p with sending := none, progress := .idle, tooLate := false, drop := false, node := none, lastSent := some f }
      if p.tooLate then (l1.count .TX_TOO_LATE 1 c).raise 72 else l1
    else if (l.can.get c).tooLate ∧ (l.can.get c).progress = .arbitration then
      let again := l.rdB .ENABLE_0780 c ∧ ¬ p.drop ∧ f.id ≠ 0x380
      let l1 := l.setCan c fun _ =>
        { p with sending := none, progress := .idle, tooLate := false, drop := false, node := none,
                 waiting := if again then l.canAgain c f :: p.waiting else p.waiting }
      l1.count .TX_WITHDRAWN 1 c
    else l

def execCanTxComplete (c : Fin 2) (won : Bool) (s : State) : Host.Outcome State Fault Refusal :=
  s.effect fun l => l.canTxEnd c.val won

/-- Whether a port's path serves at all: it is enabled and not bus-off, and has started (R108, R127). -/
def Live.canServes (l : Live) (c : Nat) : Bool := l.rd .STATE_0782 c < 2

/-- A frame that the port ignores and counts (R97, R105). -/
def Live.canIgnores (l : Live) (c : Nat) (f : CanIn) : Bool :=
  let id := l.canRequestId c
  if f.extended then f.id / 2 ^ 18 == id
  else f.id == id && (!f.fd || decide (f.data.length < 8) || bit (fieldAt f.data 0 1) 4)

def execCanFrameIgnored (c : Fin 2) (f : CanIn) (s : State) : Host.Outcome State Fault Refusal :=
  s.effect fun l => if l.canServes c.val ∧ l.canIgnores c.val f then l.count .RX_IGNORED 1 c.val else l

/-- The error state that the error counters give: error-passive from 128, bus-off from 256 (R108, ISO 11898-1). -/
def canErrorState (tec rec : Nat) : Nat := if 256 ≤ tec then 2 else if 128 ≤ tec ∨ 128 ≤ rec then 1 else 0

def Live.canErrors (l : Live) (c tec rec : Nat) : Live :=
  if l.rd .STATE_0782 c = 3 ∨ l.rd .STATE_0782 c = 2 then l
  else ((l.wrSat .TEC tec c).wrSat .REC rec c).wr .STATE_0782 (canErrorState tec rec) c

def execCanErrorStateChange (c : Fin 2) (tec rec : Nat) (s : State) : Host.Outcome State Fault Refusal :=
  s.effect fun l => l.canErrors c.val tec rec

/-- Bus-off ends; queue, cache and transfer are kept (R92, R108, R126). -/
def execCanBusOffRecovery (c : Fin 2) (s : State) : Host.Outcome State Fault Refusal :=
  s.effect fun l =>
    if l.rd .STATE_0782 c.val = 2 then ((l.wr .STATE_0782 0 c.val).wr .TEC 0 c.val).wr .REC 0 c.val else l

/-- A port starts to serve (R98, R127); its first roll-call falls one interval later (DESIGN CHOICE, log entry 116: R111 names
no first). -/
def Live.canStart (l : Live) (c : Nat) : Live :=
  if l.rdB .ENABLE_0780 c then
    ((((l.wr .STATE_0782 0 c).wr .TEC 0 c).wr .REC 0 c).restartSeq (2 + c)).setCan c fun p =>
      { p with lastCall := l.ticks }
  else l.wr .STATE_0782 3 c

/-- A port stops: it is silent. -/
def Live.canStop (l : Live) (c : Nat) : Live := l.wr .STATE_0782 3 c

/-- A commit of a port's settings (R110, R125): how ENABLE moved, and the NODE before. -/
def Live.canSettings (l : Live) (c node : Nat) (was now : Bool) : Live :=
  let l1 := (l.canAbort c node (!now)).setCan c fun p => { p with excuse := true, changedAt := some l.ticks }
  if was = now then l1 else if now then l1.canStart c else l1.canStop c

/-! ### Roll-call (R111, R112) -/

/-- Modes in which roll-calls are sent: those in which CAN serves, but DORMANT. -/
def Mode.rollcalls : Mode → Bool
  | .listen | .configure | .service | .island | .backfill | .lean | .freeze | .decommissioned => true
  | _ => false

/-- Entry n of a node table. -/
def Live.nodeEntry (l : Live) (c n : Nat) : Nat := bits (l.rd .NODE_TABLE c) (64 * (31 - n)) 64

/-- Set entry n, and with its PRESENT bit n of NODES_PRESENT. -/
def Live.setNode (l : Live) (c n entry : Nat) : Live :=
  (l.wr .NODE_TABLE (setBits (l.rd .NODE_TABLE c) (64 * (31 - n)) 64 entry) c).wr .NODES_PRESENT
    (setBit (l.rd .NODES_PRESENT c) n (bit entry 56)) c

/-- A node becomes absent: its entry keeps what it last answered, with PRESENT 0 (R112, R122).  The event's node number is a U8
(DESIGN CHOICE, log entry 116). -/
def Live.nodeLost (l : Live) (c n : Nat) : Live :=
  ((l.setNode c n (setBit (l.nodeEntry c n) 56 false)).setCan c fun p => { p with missed := p.missed.del n }).raise (65 + 2 * c) (u8 n)

/-- The answers to the last call are judged: a third call missed in a row makes a node absent. -/
def Live.judgeCall (l : Live) (c : Nat) : Live :=
  let p := l.can.get c
  if ¬ p.callOpen then l
  else
    (members 32 (l.rd .NODES_PRESENT c)).foldl (fun l n =>
      if p.answered.contains n then l.setCan c fun p => { p with missed := p.missed.del n }
      else if p.excuse then l
      else if 2 ≤ p.missed.get n then l.nodeLost c n
      else l.setCan c fun p => { p with missed := p.missed.upd n (· + 1) }) l

/-- The roll-call that falls due (R111). -/
def Live.rollcall (l : Live) (c : Nat) : Live :=
  let p := l.can.get c
  if l.mode.rollcalls ∧ l.canServes c ∧ l.rdB .ROLLCALL_ENABLE c ∧ p.lastCall + l.rd .ROLLCALL_INTERVAL c ≤ l.ticks then
    (l.judgeCall c).setCan c fun p =>
      let n := (p.callSeq + 1) % 256
      { p with callSeq := n, lastCall := l.ticks, callOpen := true, answered := [],
               excuse := p.changedAt == some l.ticks,
               calls := p.calls ++ [l.canFrame c 0x380 (u8 n ++ u8 (l.rd .NODE c) ++ List.replicate 6 (byte 0))] }
  else l

def execRollcall (c : Fin 2) (s : State) : Host.Outcome State Fault Refusal := s.effect fun l => l.rollcall c.val

/-- An answer of a node: CLASS, MAKER and SERIAL follow the echoed CALL_SEQ (R112). -/
def Live.rollcallAnswer (l : Live) (c n : Nat) (data : List Byte) : Live :=
  let p := l.can.get c
  if n = 0 ∨ data.length < 8 ∨ ¬ p.callOpen ∨ fieldAt data 0 1 ≠ p.callSeq ∨ ¬ l.canServes c then l
  else
    let entry := 2 ^ 56 + fieldAt data 1 7
    let old := l.nodeEntry c n
    let l1 := l.setCan c fun p => { p with answered := n :: p.answered, missed := p.missed.del n }
    if old = entry then l1
    else
      let l2 := if bit old 56 then l1.raise (65 + 2 * c) (u8 n) else l1
      (l2.setNode c n entry).raise (64 + 2 * c) (u8 n)

def execRollcallAnswer (c : Fin 2) (node : Fin 32) (data : List Byte) (s : State) : Host.Outcome State Fault Refusal :=
  s.effect fun l => l.rollcallAnswer c.val node.val data

/-- A restart clears the node tables and the ports' queues, and counts what is withdrawn (R110, R112).  A wake from DORMANT or
LISTEN does the same (DESIGN CHOICE, log entry 116: R112 names power-on and warm restart). -/
def Live.canRestart (l : Live) : Live :=
  l.forN 2 fun l c =>
    let l1 := l.canAbort c (l.rd .NODE c) true
    let l2 := ((l1.toDefault .NODE_TABLE c).toDefault .NODES_PRESENT c).canStop c
    l2.setCan c fun p => { p with callSeq := 0, callOpen := false, answered := [], missed := [], excuse := false }

/-! ### In-band sessions (R113 to R117) -/

def Live.setSession (l : Live) (s : Nat) (f : Session → Session) : Live := { l with sessions := l.sessions.upd s f }

/-- The EtherType of in-band frames. -/
def inbandType : Nat := 0x88B5

/-- A session starts (R98, R116). -/
def Live.sessionOpen (l : Live) (s : Nat) : Live :=
  ((l.setSession s fun x => { x with open_ := true, peer := none, routes := [], lastAuthFail := none }).restartSeq
    (4 + s)).raise 75

/-- A session ends, with the effects of R92 (R116). -/
def Live.sessionClose (l : Live) (s : Nat) : Live :=
  if (l.sessions.get s).open_ then
    ((l.setSession s fun x => { x with open_ := false, peer := none, routes := [] }).withdrawMaster (4 + s)).raise 76
  else l

/-- A KEY write commits: the epoch rises, both sequences start again, and the old key keeps its window for 8,000 beats
(R115, R116). -/
def Live.keyCommit (l : Live) (s oldKey : Nat) : Live :=
  let l1 := l.setSession s fun x =>
    { x with keyed := true, window := {}, oldKey := oldKey, oldWindow := x.window,
             formerTx := Tbl.put (x.formerTx.keep fun e _ => x.routes.any fun r => r.peer.epoch == e) (l.rd .KEY_EPOCH s)
               (l.rd .TX_SEQ s),
             graceEnd := if x.keyed then some (l.ticks + 8000) else none, exhausted := false }
  ((l1.wr .KEY_EPOCH ((l.rd .KEY_EPOCH s + 1) % 65536) s).wr .TX_SEQ 0 s).wr .RX_SEQ_HIGH 0 s

/-- The previous epoch's time is over (R116). -/
def Live.epochGrace (l : Live) (s : Nat) : Live :=
  match (l.sessions.get s).graceEnd with
  | some t => if t ≤ l.ticks then l.setSession s fun x => { x with graceEnd := none, oldKey := 0, oldWindow := {} } else l
  | none => l

def execKeyEpochGraceEnd (s : Fin 4) (st : State) : Host.Outcome State Fault Refusal :=
  st.effect fun l => l.epochGrace s.val

/-- Whether a window accepts a sequence (R115). -/
def SeqWindow.accepts (w : SeqWindow) (n : Nat) : Bool :=
  n != 0 && (decide (w.high < n) || (decide (w.high < n + 64) && n != w.high && !w.seen.contains n))

/-- The window after accepting a sequence. -/
def SeqWindow.take (w : SeqWindow) (n : Nat) : SeqWindow :=
  if w.high < n then { high := n, seen := (w.high :: w.seen).filter fun m => n < m + 64 } else { w with seen := n :: w.seen }

/-- A session's direction has reached 2^32 - 1 (R115). -/
def Live.seqExhausted (l : Live) (s : Nat) : Live := (l.setSession s fun x => { x with exhausted := true }).raise 77

/-- The bytes under a session's tag: the addresses and the body (R114). -/
def inbandTag (key : Nat) (dst src : List Byte) (body : List Byte) : List Byte :=
  (hmacSha256 (beBytes 32 key) (dst ++ src ++ body)).take 16

/-- A frame of a session toward a peer, under the epoch of the peer's request: the port and the frame, without FCS, where
the session can send (R113, R115 to R117). -/
def Live.inbandFrame (l : Live) (s : Nat) (peer : InbandPeer) (dau : List Byte) : Option (Nat × List Byte) × Live :=
  let x := l.sessions.get s
  if ¬ x.keyed ∨ x.exhausted then (none, l)
  else
    let current := peer.epoch == l.rd .KEY_EPOCH s
    let seq := (if current then l.rd .TX_SEQ s else x.formerTx.get peer.epoch) + 1
    let body := u8 1 ++ u8 s ++ u16 peer.epoch ++ u32 seq ++ dau
    let dst := u48 peer.mac
    let src := u48 (baseMac 0)
    let vlan := match peer.vid with
      | some v => u16 0x8100 ++ u16 v
      | none => []
    let l1 := if current then l.wr .TX_SEQ seq s else l.setSession s fun x => { x with formerTx := x.formerTx.put peer.epoch seq }
    let l2 := if seq = 4294967295 then l1.seqExhausted s else l1
    (some (peer.port, dst ++ src ++ vlan ++ u16 inbandType ++ body ++ inbandTag peer.key dst src body), l2)

/-- A response answers the request of a route. -/
def InbandRoute.of (e : InbandRoute) (r : Response) : Bool :=
  e.op == r.op && e.reqId == r.reqId && e.index == r.index && e.sub == r.sub

/-- The latest route of a response's request, and the routes without it: a repeat is answered at once, before the write that it
repeats. -/
def takeRoute (r : Response) : List InbandRoute → Option InbandRoute × List InbandRoute
  | [] => (none, [])
  | e :: es =>
    match takeRoute r es with
    | (some x, rest) => (some x, e :: rest)
    | (none, rest) => if e.of r then (some e, rest) else (none, e :: rest)

/-- A response of a session and where it goes (R117). -/
def Live.inbandResponse (l : Live) (s : Nat) (r : Response) : Option (Nat × List Byte) × Live :=
  let x := l.sessions.get s
  if ¬ x.open_ then (none, l)
  else
    match takeRoute r x.routes, x.peer with
    | (some e, rest), _ => (l.setSession s fun x => { x with routes := rest }).inbandFrame s e.peer r.dau
    | (none, _), some p => l.inbandFrame s p r.dau
    | (none, _), none => (none, l)

/-- A notification of a session (R98, R117). -/
def Live.inbandNotify (l : Live) (s src : Nat) (payload : List Byte) : Option (Nat × List Byte) × Live :=
  let (n, l1) := l.takeSeq (4 + s)
  match (l.sessions.get s).peer with
  | some p => l1.inbandFrame s p (dauOut 6 n (noteIndex src) (noteSub src) 0 payload)
  | none => (none, l1.count .DISCARD_COUNT 1 s)

/-- An in-band frame taken apart: addresses, outer VID, and the body after the EtherType. -/
structure InbandIn where
  dst : List Byte
  src : List Byte
  vid : Option Nat
  body : List Byte

/-- The frame's parts where it is an in-band request to BASE_MAC with at most two tags, the inner one 0x8100 (R20, R113, R266). -/
def inbandParse (f : List Byte) : Option InbandIn :=
  let t0 := fieldAt f 12 2
  let t1 := fieldAt f 16 2
  let t2 := fieldAt f 20 2
  let mk := fun (vid : Option Nat) (at_ : Nat) =>
    if f.take 6 = u48 (baseMac 0) then some { dst := f.take 6, src := slice f 6 6, vid := vid, body := f.drop at_ } else none
  if t0 = inbandType then mk none 14
  else if t0 = 0x8100 ∨ t0 = 0x88A8 then
    let vid := some (fieldAt f 14 2 % 4096)
    if t1 = inbandType then mk vid 18
    else if t1 = 0x8100 ∧ t2 = inbandType then mk vid 22
    else none
  else none

/-- The outcome of the checks on an in-band frame. -/
inductive InbandVerdict where
  | ignored
  | discarded (s : Nat)
  | failed (s : Nat) (event : Nat)
  | accepted (s seq : Nat) (old : Bool)
deriving DecidableEq, Repr

/-- The previous epoch, while it is accepted beside the current one (R116). -/
def Live.oldEpoch (l : Live) (s epoch : Nat) : Bool :=
  let now := l.rd .KEY_EPOCH s
  let grace := match (l.sessions.get s).graceEnd with
    | some t => decide (l.ticks < t)
    | none => false
  epoch != now && grace && (epoch + 1) % 65536 == now

/-- The peer of an arriving frame: a response uses the epoch of its request and that epoch's key (R116).  An epoch that the
session does not know is answered under the current one (DESIGN CHOICE, log entry 117). -/
def Live.inbandPeer (l : Live) (port s : Nat) (x : InbandIn) : InbandPeer :=
  let e := fieldAt x.body 2 2
  let old := l.oldEpoch s e
  { port := port, mac := beVal x.src, vid := x.vid, epoch := if old then e else l.rd .KEY_EPOCH s,
    key := if old then (l.sessions.get s).oldKey else l.rd .KEY s }

/-- The checks of R114 in their order. -/
def Live.inbandVerdict (l : Live) (port : Nat) (x : InbandIn) : InbandVerdict :=
  let b := x.body
  let s := fieldAt b 1 1 % 4
  let ses := l.sessions.get s
  let dau := b.drop 8
  let outer := match x.vid with
    | some v => v
    | none => 0
  if fieldAt b 0 1 ≠ 1 ∨ b.length < 16 then .discarded s
  else if ¬ ses.open_ ∨ ¬ ses.keyed ∨ ses.exhausted then .discarded s
  else if ¬ bit (l.rd .ALLOWED_PORTS s) port ∨ outer ≠ l.rd .VID s then .discarded s
  else if l.rd .PEER_MAC s ≠ 0 ∧ beVal x.src ≠ l.rd .PEER_MAC s then .discarded s
  else if bit (fieldAt dau 0 1) 4 then .discarded s
  else
    let epoch := fieldAt b 2 2
    let seq := fieldAt b 4 4
    let now := l.rd .KEY_EPOCH s
    let old := l.oldEpoch s epoch
    let key := if old then ses.oldKey else l.rd .KEY s
    let len := dauLen dau
    let body := b.take (16 + len)
    let tag := slice b (16 + len) 16
    let verified := decide (16 + len + 16 ≤ b.length) && tag == inbandTag key x.dst x.src body
    if epoch ≠ now ∧ ¬ old then .failed s 73
    else if ¬ verified then .failed s 73
    else if ¬ (if old then ses.oldWindow else ses.window).accepts seq then .failed s 74
    else .accepted s seq old

/-! ### Mailbox pages (R118 to R120) -/

def Live.setMbx (l : Live) (f : Nat) (g : Mailbox → Mailbox) : Live := { l with mailboxes := l.mailboxes.upd f g }

/-- The rank of a function (R71). -/
def functionRank (f : Nat) : Nat := if f = 0 then 1 else 7 + f

/-- Responses of a function shown, waiting and owed (R119). -/
def Live.mbxOwed (l : Live) (f : Nat) : Nat :=
  (l.mailboxes.get f).rspReady.toNat + (l.mailboxes.get f).waiting.length + (l.queuedOf (functionRank f)).length

/-- Show the next response where none is shown: the whole area is written (R119). -/
def Mailbox.show (m : Mailbox) : Mailbox :=
  if m.rspReady then m
  else
    match m.waiting with
    | r :: rs => { m with rspReady := true, response := slice r.dau 0 1032, waiting := rs }
    | [] => m

/-- The response is released; the area reads zero until the next is written (R119). -/
def Mailbox.release (m : Mailbox) : Mailbox :=
  if m.rspReady then { m with rspReady := false, response := [] } else m

end Sys2Proof.Machine
end

