-- ==== Sys2Proof/Machine/Host.lean ====
section
/-! DEFINITION. The host endpoint: link, presence, rings, interrupts, frames, drain buffers and table loads
(spec/18_host_endpoint.md). -/

namespace Sys2Proof.Machine

open Sys2Proof

def Live.setHost (l : Live) (f : Endpoint → Endpoint) : Live := { l with host := f l.host }
def Live.fn (l : Live) (f : Nat) : Fn := l.host.fns.get f
def Live.setFn (l : Live) (f : Nat) (g : Fn → Fn) : Live := l.setHost fun h => { h with fns := h.fns.upd f g }
def Live.ring (l : Live) (f k : Nat) : Ring := (l.fn f).rings.get k
def Live.setRing (l : Live) (f k : Nat) (g : Ring → Ring) : Live := l.setFn f fun x => { x with rings := x.rings.upd k g }

/-- The tenancy of a function's events (R630). -/
def fnTn (f : Nat) : Nat := f

/-! ### Interrupts (R606, R622) -/

/-- Vectors of a function, and the vector that a number names. -/
def vectorCount (f : Nat) : Nat := if f = 0 then 64 else 16
def vectorOf (f v : Nat) : Nat := min v (vectorCount f - 1)

/-- A word of the MSI-X table: address, address, data, control, whose mask bit is set at reset. -/
def Fn.msixWord (x : Fn) (i : Nat) : Nat := (x.msix.find? i).getD (if i % 4 = 3 then 1 else 0)

/-- Signal a vector: a masked one stays pending (R622). -/
def Live.signalVector (l : Live) (f v : Nat) : Live :=
  let v := vectorOf f v
  let x := l.fn f
  if x.flr ≠ none ∨ l.modes.recovery ∨ ¬ l.host.up then l
  else if x.fnMask ∨ bit (x.msixWord (4 * v + 3)) 0 then l.setFn f fun x => { x with pending := setBit x.pending v true }
  else l.setFn f fun x => { x with signals := x.signals.upd v (· + 1) }

/-- Pending vectors that are no longer masked are signalled. -/
def Live.unmaskVectors (l : Live) (f : Nat) : Live :=
  let x := l.fn f
  if x.fnMask then l
  else
    l.forL ((members 64 x.pending).filter fun v => !bit (x.msixWord (4 * v + 3)) 0) fun l v =>
      (l.setFn f fun x => { x with pending := setBit x.pending v false }).signalVector f v

/-! ### Rings (R603 to R607) -/

def hasSq (k : Nat) : Bool := k < 12

/-- Entries of the two queues, and those they hold. -/
def Ring.sqSize (r : Ring) : Nat := 2 ^ r.sqLog2
def Ring.cqSize (r : Ring) : Nat := 2 ^ r.cqLog2
def Ring.sqHeld (r : Ring) : Nat := (r.sqTail + r.sqSize - r.sqHead) % r.sqSize
def Ring.cqHeld (r : Ring) : Nat := (r.cqTail + r.cqSize - r.cqHead) % r.cqSize
def Ring.cqFull (r : Ring) : Bool := r.cqSize ≤ r.cqHeld + 1

/-- Modes in which rings run (R634). -/
def Live.ringsRun (l : Live) : Bool := l.mode.engineOn

/-- A ring works: its function is present, and it is enabled and running. -/
def Live.ringWorks (l : Live) (f k : Nat) : Bool := l.ringsRun && (l.fn f).present && (l.ring f k).active

/-- A ring stops on an error (R605, R617). -/
def Live.stopRing (l : Live) (f k code : Nat) : Live :=
  let l1 := l.setRing f k fun r => { r with active := false, error := true, errorCode := code }
  ((l1.count .RING_ERRORS 1 f).blk 23 .signalB 1 f 0 f).raise 583 (u8 f ++ u8 k) (fnTn f)

/-- Signal a ring's vector where R606 says so. -/
def Live.ringSignal (l : Live) (f k : Nat) (now : Bool) : Live :=
  let r := l.ring f k
  let count := max 1 (bits r.coalesce 16 16)
  let beats := bits r.coalesce 0 16
  let late : Bool := match r.waits with
    | t :: _ => beats != 0 && t + beats ≤ l.ticks
    | [] => false
  if r.irqEn ∧ ¬ r.signalled ∧ r.waits ≠ [] ∧ (now ∨ count ≤ r.waits.length ∨ late) then
    (l.setRing f k fun r => { r with signalled := true }).signalVector f r.vector
  else l

/-- Write a CQ entry, and the data that goes with it. -/
def Live.cqWrite (l : Live) (f k : Nat) (entry data : List Byte) (now : Bool) : Live :=
  (l.setRing f k fun r =>
    { r with cqTail := (r.cqTail + 1) % r.cqSize, waits := r.waits ++ [l.ticks], lastEntry := entry, lastData := data,
             quiesced := false }).ringSignal f k now

/-- Write the completion of an entry that was owed. -/
def Live.cqOwed (l : Live) (f k : Nat) (entry data : List Byte) (now : Bool := false) : Live :=
  (l.setRing f k fun r => { r with owed := r.owed - 1 }).cqWrite f k entry data now

/-- Completions of jobs still owed to a ring: the jobs run on while it is disabled (R607, R632). -/
def Live.jobsOwed (l : Live) (f k : Nat) : Nat :=
  let mine := fun (e : Engine) => ((e.queue ++ e.ended).filter fun j => j.source == f + 2).length
  if k = 9 then mine l.comp else if k = 10 then mine l.mover else 0

/-- ENABLE is set: the indexes become 0, and a bad size leaves the ring stopped (R605). -/
def Live.ringStart (l : Live) (f k : Nat) : Live :=
  let r := l.ring f k
  let bad := fun n => n < 6 ∨ 12 < n
  let l1 := l.setRing f k fun r =>
    { r with enable := true, sqTail := 0, sqHead := 0, cqHead := 0, cqTail := 0, owed := l.jobsOwed f k, waits := [], signalled := false,
             taken := [], error := false, errorCode := 0 }
  if (hasSq k ∧ bad r.sqLog2) ∨ bad r.cqLog2 then l1.stopRing f k 5
  else l1.setRing f k fun r => { r with active := true, quiesced := false }

/-- ENABLE is cleared; the entries taken and not acted on are dropped. -/
def Live.ringStop (l : Live) (f k : Nat) : Live :=
  let l1 := l.setRing f k fun r => { r with enable := false, active := false, error := false, errorCode := 0, taken := [] }
  if k = 11 then
    l1.setHost fun h =>
      { h with marks := (h.loads.filter fun x => x.fn == f).foldl (fun ms x => insertBy id (2 * x.table + x.bank)
                 (ms.filter (· != 2 * x.table + x.bank))) h.marks,
               loads := h.loads.filter fun x => x.fn != f }
  else if k = 8 then l1.setFn f fun x => { x with buffers := [] }
  else l1

/-- A write of RING_CONTROL changes a size while ENABLE is 1: that field is ignored, and journalled (R605). -/
def Ring.sizeBusy (r : Ring) (v : Nat) : Bool := r.enable && (bits v 12 4 != r.cqLog2 || bits v 8 4 != r.sqLog2)

/-- A write of RING_CONTROL.  A VF has 16 vectors: bits 25 and 24 of its VECTOR are reserved (R18, R605). -/
def Live.ringControl (l : Live) (f k v : Nat) : Live :=
  let r := l.ring f k
  let on := bit v 31
  let l1 := l.setRing f k fun r =>
    { r with vector := bits v 20 (if f = 0 then 6 else 4), irqEn := bit v 19, cqLog2 := if r.enable then r.cqLog2 else bits v 12 4,
             sqLog2 := if r.enable then r.sqLog2 else bits v 8 4 }
  if on ∧ ¬ r.enable then l1.ringStart f k else if ¬ on ∧ r.enable then l1.ringStop f k else l1

/-- The registers of a function take writes: the unit serves BAR0, and no reset of the function is in progress. -/
def Live.bar0Serves (l : Live) (f : Nat) : Bool :=
  l.host.up && (l.fn f).flr == none && (l.mode.engineOn || l.mode == .freeze)

/-! ### The posted-write fault journal (R625) -/

def faultReserved := 1
def faultReadOnly := 2
def faultBpmCheck := 3
def faultPoisoned := 4
def faultRingBusy := 5
def faultFrozen := 6
def faultNotServed := 7
def faultResetting := 8
def faultMisaligned := 9
def faultMailboxBusy := 10

/-- A write that cannot be carried out is journalled. -/
def Live.hostFault (l : Live) (f reason detail offset : Nat) (data : List Byte) : Live :=
  let n := ((l.fn f).journalSeq + 1) % 2 ^ 32
  let e : HostFault := { seq := n, reason := reason, detail := detail, length := data.length, address := offset,
                         data := beVal (slice data 0 8), beat := l.now }
  let l1 := l.setFn f fun x => { x with journal := lastN 32 (x.journal ++ [e]), journalSeq := n, journalNew := true }
  ((l1.wr .JOURNAL_SEQ n f).blk 23 .signalA 1 f 0 f).raise 580 (u8 f ++ u8 reason) (fnTn f)

/-- The journal as JOURNAL and the journal page show it, little-endian. -/
def HostFault.bytes (e : HostFault) : List Byte :=
  leBytes 4 e.seq ++ u8 e.reason ++ u8 e.detail ++ leBytes 2 e.length ++ leBytes 8 e.address ++ u64 e.data ++ leBytes 8 e.beat
def Live.faultJournal (l : Live) (f : Nat) : List Byte := slice ((l.fn f).journal.flatMap HostFault.bytes) 0 1024

/-! ### Ring registers with rows of their own -/

/-- The byte offset of a ring register. -/
def ringOffset (k r : Nat) : Nat := 0x4000 + 64 * k + r

/-- A write of RING_CONTROL at an offset in BAR0. -/
def Live.ringControlWrite (l : Live) (f k v off : Nat) (data : List Byte) : Live :=
  (l.ringControl f k v).when ((l.ring f k).sizeBusy v) fun l => l.hostFault f faultRingBusy 0 off data

/-- A write of RING_CONTROL with ENABLE as the command says. -/
def Live.ringSwitch (l : Live) (f k control : Nat) (on : Bool) : Live :=
  let v := setBit (control % 2 ^ 32) 31 on
  l.ringControlWrite f k v (ringOffset k 0x10) (leBytes 4 v)

def execRingEnable (f : Fin 8) (k : Fin 13) (control : Nat) (s : State) : Host.Outcome State Fault Refusal :=
  s.effect fun l =>
    if l.bar0Serves f.val then l.ringSwitch f.val k.val control true else l

def execRingDisable (f : Fin 8) (k : Fin 13) (control : Nat) (s : State) : Host.Outcome State Fault Refusal :=
  s.effect fun l =>
    if l.bar0Serves f.val then l.ringSwitch f.val k.val control false else l

/-- Every DMA of a ring that does not run has completed (R605). -/
def execRingQuiesced (f : Fin 8) (k : Fin 13) (s : State) : Host.Outcome State Fault Refusal :=
  s.effect fun l =>
    if (l.ring f.val k.val).active then l else l.setRing f.val k.val fun r => { r with quiesced := true }

/-- A write of SQ_TAIL (R605). -/
def Live.sqTailWrite (l : Live) (f k v : Nat) : Live :=
  let r := l.ring f k
  if ¬ hasSq k ∨ ¬ r.active then l
  else if r.sqSize ≤ v then l.stopRing f k 3
  else l.setRing f k fun r => { r with sqTail := v }

/-- A write of CQ_HEAD (R605, R606). -/
def Live.cqHeadWrite (l : Live) (f k v : Nat) : Live :=
  let r := l.ring f k
  if ¬ r.active then l
  else
    let move := (v + r.cqSize - r.cqHead) % r.cqSize
    if r.cqSize ≤ v ∨ r.cqHeld < move then l.stopRing f k 4
    else if move = 0 then l
    else (l.setRing f k fun r =>
      { r with cqHead := v, waits := r.waits.drop move, signalled := false }).ringSignal f k false

def execSqTailWrite (f : Fin 8) (k : Fin 13) (v : Nat) (s : State) : Host.Outcome State Fault Refusal :=
  s.effect fun l => if l.bar0Serves f.val then l.sqTailWrite f.val k.val v else l

def execCqHeadWrite (f : Fin 8) (k : Fin 13) (v : Nat) (s : State) : Host.Outcome State Fault Refusal :=
  s.effect fun l => if l.bar0Serves f.val then l.cqHeadWrite f.val k.val v else l

/-- Unconsumed entries have waited BEATS beats (R606). -/
def execCqCoalesceTimeout (f : Fin 8) (k : Fin 13) (s : State) : Host.Outcome State Fault Refusal :=
  s.effect fun l => if l.ringWorks f.val k.val then l.ringSignal f.val k.val false else l

/-- Whether an SQ entry may be taken: there is one, and the CQ has room for every entry owed plus one (R607). -/
def Live.mayTake (l : Live) (f k : Nat) : Bool :=
  let r := l.ring f k
  l.ringWorks f k && hasSq k && r.sqHeld != 0 && r.cqHeld + r.owed + 1 < r.cqSize

/-- An SQ entry is taken from its ring; an acknowledgement owes no CQ entry. -/
def Live.takeEntry (l : Live) (f k : Nat) (entry : List Byte) (owes : Bool) : Live :=
  l.setRing f k fun r =>
    { r with sqHead := (r.sqHead + 1) % r.sqSize, owed := r.owed + owes.toNat, taken := r.taken ++ [(l.ticks, entry)],
             quiesced := false }

/-- The length of a ring's SQ entry. -/
def sqEntryLen (k : Nat) : Nat := if k < 4 then 16 else if k < 8 then 32 else if k = 8 then 16 else if k = 9 then 256
  else if k = 10 then 64 else 32

/-- Fields of a drain SQ entry (R613). -/
def drainOp (e : List Byte) : Nat := fieldAt e 0 1
def leAt (bs : List Byte) (i n : Nat) : Nat := leVal (slice bs i n)

/-- The endpoint takes an SQ entry of a TX, DRAIN, COMP or MOVE ring; receive buffers are taken at hand-over and load entries
by the table-load engine (R607, R610, R613, R616). -/
def execSqEntryTake (f : Fin 8) (k : Fin 13) (entry : List Byte) (s : State) : Host.Outcome State Fault Refusal :=
  s.effect fun l =>
    let f := f.val
    let k := k.val
    let e := slice entry 0 (sqEntryLen k)
    if k < 4 ∨ 11 ≤ k ∨ ¬ l.mayTake f k then l
    else if k = 8 ∧ (¬ (drainOp e = 1 ∨ drainOp e = 2) ∨ (drainOp e = 1 ∧ leAt e 8 8 % 4096 ≠ 0)) then l.stopRing f k 1
    else l.takeEntry f k e (k ≠ 8 ∨ drainOp e = 1)

/-- The oldest entry taken from a ring is done with. -/
def Live.dropTaken (l : Live) (f k : Nat) : Live := l.setRing f k fun r => { r with taken := r.taken.drop 1 }

/-! ### Presence (R601, R602) -/

/-- The conditions of presence. -/
def Live.isPresent (l : Live) (f : Nat) : Bool :=
  let x := l.fn f
  l.host.up && (f == 0 || x.vfEnable) && x.master && x.driverReady && x.flr == none
    && (x.watchdog == 0 || l.ticks ≤ x.alive + x.watchdog)

/-- Phase 2 samples the presence of a function. -/
def Live.samplePresence (l : Live) (f : Nat) : Live :=
  let now := l.isPresent f
  if now = (l.fn f).present then l
  else
    let l1 := (l.setFn f fun x => { x with present := now }).wrB .PRESENT now f
    l1.raise (if now then 578 else 579) (u8 f) (fnTn f)

def Live.samplePresences (l : Live) : Live := l.forN 8 Live.samplePresence

/-- Any write of HOST_ALIVE restarts the watchdog. -/
def Live.hostAlive (l : Live) (f : Nat) : Live := l.setFn f fun x => { x with alive := l.ticks }

def execHostAlive (f : Fin 8) (s : State) : Host.Outcome State Fault Refusal :=
  s.effect fun l => if l.bar0Serves f.val then l.hostAlive f.val else l

/-- WATCHDOG_BEATS have passed with no write of HOST_ALIVE: the function ceases to be present. -/
def execHostWatchdogExpiry (f : Fin 8) (s : State) : Host.Outcome State Fault Refusal :=
  s.effect fun l =>
    let x := l.fn f.val
    if x.watchdog ≠ 0 ∧ x.alive + x.watchdog < l.ticks then l.samplePresence f.val else l

/-! ### The link (R597 to R599, R627) -/

/-- Modes in which the link may train. -/
def Live.linkHeldDown (l : Live) : Bool :=
  match l.mode with
  | .off | .dormant | .listen | .wipe => true
  | .bringup => !(l.modes.imageOk || l.modes.recovery)
  | _ => false

/-- Port H's rate for a generation 0 to 3 and a width code 0 to 3 (R598). -/
def portHRate (gen width : Nat) : Nat := 100000000000 * 2 ^ width / 8 / 2 ^ (3 - gen)

def execPcieLinkUp (gen : Fin 4) (width : Fin 4) (s : State) : Host.Outcome State Fault Refusal :=
  s.effect fun l =>
    if l.host.up ∨ l.linkHeldDown then l
    else
      let l1 := (l.setHost fun h => { h with up := true }).wr .LINK_STATE_1600 2
      let l2 := ((l1.wr .LINK_SPEED_1600 (gen.val + 1)).wr .LINK_WIDTH (2 ^ width.val)).wr .H_RATE (portHRate gen.val width.val)
      l2.raise 576

/-- Level event 591: below 16.0 GT/s, or on fewer than 8 lanes. -/
def Live.linkDegraded (l : Live) : Bool := l.host.up && (l.rd .LINK_SPEED_1600 < 4 || l.rd .LINK_WIDTH < 8)

/-! ### Notifications (R607, R618) -/

/-- A NOTIFY access unit goes to a function's event ring, or is lost. -/
def Live.ringNotify (l : Live) (f : Nat) (dau : List Byte) : Live :=
  if ¬ l.ringWorks f 12 then l.count .EVENTS_LOST 1 f
  else if (l.ring f 12).cqFull then (l.count .EVENTS_LOST 1 f).mark 585 (u8 f) (fnTn f)
  else l.cqWrite f 12 (slice (u8 f ++ List.replicate 7 0 ++ dau) 0 64) [] false

/-! ### Frames (R608 to R612) -/

/-- Poisoned data arrives from the host and is stored with its mark; the TLP is an advisory non-fatal error, which AER counts
among the correctable ones (R623, R624; PRESUMED, log 132). -/
def Live.poisonFromHost (l : Live) (f : Nat) (p : Bool) : Live := if p then (l.raise 589 (u8 f) (fnTn f)).mark 586 else l

/-- Poisoned data goes toward the host. -/
def Live.poisonToHost (l : Live) (f : Nat) (p : Bool) : Live := if p then l.mark 588 (u8 f) (fnTn f) else l

/-- Port H hands the next frame to its function (R602, R608 to R610). -/
def Live.rxHandover (l : Live) (entry : List Byte) : Live :=
  match l.takeFrom 54 with
  | (none, l1) => l1
  | (some fr, l1) =>
    let f := fr.tn
    let x := l1.fn f
    let k := bits x.rxMap (2 * fr.tc) 2
    let data := body fr.bytes
    let drop := fun (l : Live) (o : Obj) => (l.count o 1 f).blk 23 .drops 1 f 0 f
    if x.flr ≠ none ∧ ¬ x.cleaned then drop l1 .H_RX_ABORTED
    else if ¬ x.present then (drop l1 .H_RX_ABSENT).mark 584 (u8 f) (fnTn f)
    else
      let r := l1.ring f k
      if ¬ r.active ∨ r.sqHeld = 0 ∨ r.cqFull then (drop l1 .H_RX_RING_FULL).mark 584 (u8 f) (fnTn f)
      else if leAt entry 8 2 < data.length then (drop l1 .H_RX_TOO_LONG).mark 584 (u8 f) (fnTn f)
      else
        let e := slice entry 12 4 ++ leBytes 2 data.length ++ u8 fr.poisoned.toNat ++ u8 fr.port ++ leBytes 8 fr.word
          ++ leBytes 8 fr.stamp ++ leBytes 8 fr.beat
        let l2 := (l1.setRing f k fun r => { r with sqHead := (r.sqHead + 1) % r.sqSize }).cqWrite f k e data false
        let l3 := ((l2.count .H_RX_DELIVERED 1 f).blk 23 .eventsIn 1 f 0 f).blk 23 .bytesIn data.length f 0 f
        l3.poisonToHost f fr.poisoned

def execRxFrameHandover (entry : List Byte) (at_ : Nat) (s : State) : Host.Outcome State Fault Refusal :=
  s.effect fun l => if l.mode.running then (l.at at_).rxHandover entry else l

/-- Statuses of a send completion (R611). -/
def txAccepted := 0
def txDenied := 1
def txBadEntry := 2
def txDmaError := 3

/-- The send completion of a TX entry. -/
def Live.txComplete (l : Live) (f k : Nat) (e : List Byte) (status beat : Nat) : Live :=
  (l.dropTaken f k).cqOwed f k (slice e 16 4 ++ u8 status ++ List.replicate 3 0 ++ leBytes 8 beat) []

/-- A frame from a function enters port H's ingress (R612). -/
def Live.txEnter (l : Live) (f tn vlan tc dest : Nat) (direct : Bool) (data : List Byte) (poison : Bool) : Live :=
  let bytes := withFcs data
  let fr : Frame :=
    { bytes := bytes, word := wordOf tn vlan tc, port := 54, ingress := l.ticks, beat := l.now, stamp := l.nowNs,
      poisoned := poison, function := some f, untagged := vlanUntagged (l.vlanAt l.ticks vlan) }
  let x := parse bytes
  if direct then
    let port := if dest < 64 then some dest else l.lagPort l.ticks (dest - 64) 54 x
    match port with
    | some p => l.enterFabric fr [p]
    | none => l
  else l.classifyOn fr x

/-- A TX entry's frame has been read whole (R611, R612). -/
def execTxFrame (f : Fin 8) (k : Fin 4) (data : List Byte) (poison : Bool) (at_ : Nat) (s : State) :
    Host.Outcome State Fault Refusal :=
  s.effect fun l =>
    let f := f.val
    let k := 4 + k.val
    match (l.ring f k).taken with
    | [] => l
    | (_, e) :: _ =>
      if ¬ l.ringWorks f k then l
      else
        let l := l.at at_
        let len := leAt e 8 2
        let direct := bit (fieldAt e 10 1) 0
        let tc := fieldAt e 11 1 % 8
        let vlan := leAt e 12 2
        let dest := fieldAt e 14 1
        let tn := if f = 0 then fieldAt e 15 1 else f
        let bad := len < 60 ∨ 9212 < len ∨ vlan = 0 ∨ 4094 < vlan ∨ 7 < tn
          ∨ (direct ∧ ¬ (dest < 52 ∨ dest = 0x40 ∨ dest = 0x41))
        if bad then l.tookFree.txComplete f k e txBadEntry (l.freeVal % 2 ^ 64)
        else
          let l1 := l.poisonFromHost f poison
          if ¬ l1.tnActive tn ∨ l1.vidOwner vlan ≠ tn ∨ (direct ∧ ¬ l1.destAllowed l1.ticks tn dest) then
            (l1.count .H_TX_DENIED 1 f).txComplete f k e txDenied l1.now
          else
            let l2 := ((l1.count .H_TX_ACCEPTED 1 f).blk 23 .eventsOut 1 f 0 f).blk 23 .bytesOut len f 0 f
            (l2.txEnter f tn vlan tc dest direct (slice data 0 len) poison).txComplete f k e txAccepted l1.now

/-! ### Drain buffers (R613, R615) -/

/-- A BUFFER entry posts a host buffer. -/
def execDrainBufferPost (f : Fin 8) (s : State) : Host.Outcome State Fault Refusal :=
  s.effect fun l =>
    match (l.ring f.val 8).taken with
    | [] => l
    | (_, e) :: _ =>
      if l.ringWorks f.val 8 ∧ drainOp e = 1 then
        (l.dropTaken f.val 8).setFn f.val fun x => { x with buffers := x.buffers ++ [leAt e 8 8] }
      else l

/-! ### Bulk loads (R295, R296, R616, R684) -/


/-- Mark a bank as holding an incomplete load, or clear its mark (R684). -/
def Live.markBank (l : Live) (t b : Nat) (on : Bool) : Live :=
  l.setHost fun h =>
    let ms := h.marks.filter (· != 2 * t + b)
    { h with marks := if on then insertBy id (2 * t + b) ms else ms }

/-- The completion of a load. -/
def Live.loadComplete (l : Live) (x : Load) (status : Nat) : Live :=
  let e := leBytes 4 x.cookie ++ u8 status ++ u8 x.poison.toNat ++ leBytes 2 0 ++ leBytes 4 x.written ++ leBytes 4 x.clamped
    ++ leBytes 4 x.denied ++ leBytes 4 0 ++ leBytes 8 l.now
  (l.cqOwed x.fn 11 e []).raise 593

/-- A LOAD entry is taken, in phase 8: at most one of each function per boundary (R616). -/
def Live.tableLoad (l : Live) (f : Nat) (entry : List Byte) : Live :=
  let e := slice entry 0 32
  let x : Load :=
    { fn := f, table := fieldAt e 8 1, bank := fieldAt e 9 1, first := leAt e 12 4, count := leAt e 16 4,
      cookie := leAt e 20 4 }
  let l1 := (l.takeEntry f 11 e true).dropTaken f 11
  let l2 := l1.setHost fun h => { h with loadAt := h.loadAt.put f (some l.ticks) }
  if 4 ≤ x.table ∨ 2 ≤ x.bank ∨ x.count = 0 ∨ ctSize x.table < x.first + x.count then l2.loadComplete x 2
  else if x.bank = l.rd .ACTIVE_BANK x.table ∨ l.draining x.table then (l2.loadComplete x 1).raise 358
  else l2.setHost fun h => { h with loads := h.loads ++ [x] }

/-- A function has had its turn at this boundary, or a later one has: ascending function order (R616). -/
def Live.loadTurn (l : Live) (f : Nat) : Bool :=
  (List.range 8).any fun g => f ≤ g && l.host.loadAt.get g == some l.ticks

def execTableLoad (f : Fin 8) (entry : List Byte) (s : State) : Host.Outcome State Fault Refusal :=
  s.effect fun l =>
    if l.mayTake f.val 11 ∧ ¬ l.loadTurn f.val ∧ l.tnActive f.val then l.tableLoad f.val entry else l


/-- One element of a load: denied, or written under its clamp rule (R295). -/
def Live.loadElement (l : Live) (x : Load) (bs : List Byte) (poisoned : Bool) : Live × Load :=
  let t := tableOf x.table
  let e := ctSize x.table * x.bank + x.first + x.pos
  let v := beVal (slice bs 0 (ctBytes x.table))
  let x1 := { x with pos := x.pos + 1 }
  if poisoned then (l, { x1 with denied := x1.denied + 1, poison := true })
  else if l.elemDenied x.fn (functionRank x.fn) t e v 0 then (l, { x1 with denied := x1.denied + 1 })
  else
    let w := l.elemClamp (functionRank x.fn) t e v
    let old := l.elem t.obj e
    let l1 := if w = v then l else l.elemClampEvent (functionRank x.fn) t e v
    let l2 := (l1.setElem t.obj e w).elemWritten t e old w
    (l2, { x1 with written := x1.written + 1, clamped := x1.clamped + (w != v).toNat })

/-- The elements that arrive for the load being served: at most 65,536 bytes of them a beat (R616); in FREEZE no load proceeds
(R307). -/
def Live.loadBeat (l : Live) (data : List (List Byte × Bool)) : Live :=
  match l.host.loads with
  | [] => l
  | x :: rest =>
    if ¬ l.mode.engineOn then l
    else
    let room := min (65536 / ctBytes x.table) (x.count - x.pos)
    let r := (data.take room).foldl (fun (a : Live × Load) d => a.1.loadElement a.2 d.1 d.2) (l, x)
    r.1.setHost fun h => { h with loads := r.2 :: rest }

/-- A load ends with its last element: its completion, and the mark of its bank clears (R616, R684). -/
def execTableLoadDone (s : State) : Host.Outcome State Fault Refusal :=
  s.effect fun l =>
    match l.host.loads with
    | [] => l
    | x :: rest =>
      if x.pos < x.count ∨ ¬ l.ringWorks x.fn 11 then l
      else ((l.setHost fun h => { h with loads := rest }).markBank x.table x.bank false).loadComplete x 0

/-- The loads of a function end without their last element: their banks are marked (R684). -/
def Live.loadsCut (l : Live) (f : Nat) : Live :=
  let mine := l.host.loads.filter fun x => x.fn == f
  (l.forL mine fun l x => l.markBank x.table x.bank true).setHost fun h => { h with loads := h.loads.filter fun x => x.fn != f }

/-! ### Failed reads (R617, R633) -/

/-- A DMA read fails; a poisoned completion is a failure for ring control data alone.  A Completion Timeout is an uncorrectable
error too, status bit 14 (R617, R623, R624, R633). -/
def execDmaReadFailed (f : Fin 8) (k : Fin 13) (data : Bool) (poisoned timeout : Bool) (s : State) :
    Host.Outcome State Fault Refusal :=
  s.effect fun l =>
    let f := f.val
    let k := k.val
    let l1 := if timeout then (l.raise 590 (u8 f) (fnTn f)).raise 587 (u8 14) else l
    if ¬ l.ringWorks f k ∨ ¬ hasSq k ∨ (data = true ∧ poisoned = true ∧ timeout = false) then l
    else if ¬ data then l1.stopRing f k (if poisoned ∧ ¬ timeout then 2 else 1)
    else if 4 ≤ k ∧ k < 8 then
      match (l.ring f k).taken with
      | [] => l
      | (_, e) :: _ => (l1.count .H_TX_DMA_ERRORS 1 f).tookFree.txComplete f k e txDmaError (l1.freeVal % 2 ^ 64)
    else if k = 11 then
      match l.host.loads with
      | [] => l
      | x :: rest =>
        if x.fn = f then
          ((l1.setHost fun h => { h with loads := rest }).markBank x.table x.bank true).loadComplete x 3
        else l
    else l

/-- An uncorrectable word in endpoint memory stops a ring (R633). -/
def Live.endpointErrors (l : Live) (rings : List (Nat × Nat)) : Live :=
  l.forL rings fun l e => if (l.ring e.1 e.2).active then l.stopRing e.1 e.2 1 else l

/-- LINK_STATE: down where the link is held down, else training until it is up (R597, R599). -/
def Live.showLink (l : Live) : Live := l.wr .LINK_STATE_1600 (if l.host.up then 2 else if l.linkHeldDown then 0 else 1)

/-! ### Errors of the link (R623, R633) -/

/-- A discarded TLP: ECRC is uncorrectable error 19, a malformed TLP error 18. -/
def execMalformedTlp (ecrc : Bool) (s : State) : Host.Outcome State Fault Refusal :=
  s.effect fun l => if l.host.up then l.raise 587 (u8 (if ecrc then 19 else 18)) else l

end Sys2Proof.Machine
end

