-- ==== Sys2Proof/Machine/Inflate.lean ====
section
/-! DEFINITION. Decoding of DEFLATE streams (RFC 1951) and the checks of their wrappers (R544 to R548). -/

namespace Sys2Proof.Machine

open Sys2Proof

/-- The outcome of a decoding step: a value with the bits left, an error in the data, or input that ends too soon. -/
inductive Inf (α : Type) where
  | ok (a : α) (rest : List Bool)
  | bad
  | short

/-- The bits of a byte string, least significant first. -/
def bitsOf (bs : List Byte) : List Bool := bs.flatMap fun b => (List.range 8).map fun k => b.toNat.testBit k

/-- The number that the first `n` bits spell, least significant first. -/
def takeBits : Nat → List Bool → Inf Nat
  | 0, bs => .ok 0 bs
  | _ + 1, [] => .short
  | n + 1, b :: bs =>
    match takeBits n bs with
    | .ok v r => .ok (b.toNat + 2 * v) r
    | .bad => .bad
    | .short => .short

/-! ### Huffman codes -/

/-- A canonical code: how many codes of each length 1 to 15, and the symbols by length and number. -/
structure Huff where
  counts : List Nat
  symbols : List Nat

def huffOf (lens : List Nat) : Huff :=
  let idx := (List.range lens.length).zip lens
  { counts := (List.range 15).map fun n => (lens.filter (· == n + 1)).length,
    symbols := (List.range 15).flatMap fun n => (idx.filter fun e => e.2 == n + 1).map Prod.fst }

/-- Codes left unused after every length: negative where the lengths claim too many. -/
def Huff.left (h : Huff) : Int := h.counts.foldl (fun (a : Int) (c : Nat) => 2 * a - c) 1

/-- The code is complete, or is one code of one bit, or has no code at all. -/
def Huff.legal (h : Huff) : Bool :=
  h.left == 0 || h.symbols.isEmpty || (h.symbols.length == 1 && h.counts.head? == some 1)

/-- Decode one symbol: the code read so far, the first code of the length, and the place of its symbol. -/
def Huff.walk (symbols : List Nat) : List Nat → Nat → Nat → Nat → List Bool → Inf Nat
  | [], _, _, _, _ => .bad
  | _ :: _, _, _, _, [] => .short
  | c :: cs, code, first, index, b :: bs =>
    let code1 := code + b.toNat
    if code1 < first + c then .ok (symbols.getD (index + (code1 - first)) 0) bs
    else Huff.walk symbols cs (2 * code1) (2 * (first + c)) (index + c) bs

def Huff.sym (h : Huff) (bs : List Bool) : Inf Nat := Huff.walk h.symbols h.counts 0 0 0 bs

/-! ### Blocks -/

/-- Base lengths and extra bits of the length codes 257 to 285, and of the distance codes 0 to 29. -/
def lenBase : List Nat := [3, 4, 5, 6, 7, 8, 9, 10, 11, 13, 15, 17, 19, 23, 27, 31, 35, 43, 51, 59, 67, 83, 99, 115, 131, 163,
  195, 227, 258]
def lenExtra : List Nat := [0, 0, 0, 0, 0, 0, 0, 0, 1, 1, 1, 1, 2, 2, 2, 2, 3, 3, 3, 3, 4, 4, 4, 4, 5, 5, 5, 5, 0]
def distBase : List Nat := [1, 2, 3, 4, 5, 7, 9, 13, 17, 25, 33, 49, 65, 97, 129, 193, 257, 385, 513, 769, 1025, 1537, 2049, 3073,
  4097, 6145, 8193, 12289, 16385, 24577]
def distExtra : List Nat := [0, 0, 0, 0, 1, 1, 2, 2, 3, 3, 4, 4, 5, 5, 6, 6, 7, 7, 8, 8, 9, 9, 10, 10, 11, 11, 12, 12, 13, 13]

/-- Copy `n` bytes from a distance back; the output is newest first. -/
def copyBack : Nat → Nat → List Byte → List Byte
  | 0, _, out => out
  | n + 1, d, out => copyBack n d (out.getD (d - 1) 0 :: out)

/-- The bits of a literal or length code in the fixed coding. -/
def fixedBits (s : Nat) : Nat := if s < 144 then 8 else if s < 256 then 9 else if s < 280 then 7 else 8

/-- The symbols of a Huffman block; `out` is newest first, and `cost` counts the bits that the fixed coding would give them. -/
def inflateCodes (lit dist : Huff) : Nat → List Bool → List Byte → Nat → Inf (List Byte × Nat)
  | 0, _, _, _ => .short
  | fuel + 1, bs, out, cost =>
    match lit.sym bs with
    | .bad => .bad
    | .short => .short
    | .ok s r =>
      if s < 256 then inflateCodes lit dist fuel r (byte s :: out) (cost + fixedBits s)
      else if s = 256 then .ok (out, cost + 7) r
      else if 285 < s then .bad
      else
        match takeBits (lenExtra.getD (s - 257) 0) r with
        | .bad => .bad
        | .short => .short
        | .ok x r1 =>
          match dist.sym r1 with
          | .bad => .bad
          | .short => .short
          | .ok d r2 =>
            if 29 < d then .bad
            else
              match takeBits (distExtra.getD d 0) r2 with
              | .bad => .bad
              | .short => .short
              | .ok y r3 =>
                let back := distBase.getD d 0 + y
                if out.length < back then .bad
                else
                  inflateCodes lit dist fuel r3 (copyBack (lenBase.getD (s - 257) 0 + x) back out)
                    (cost + fixedBits s + lenExtra.getD (s - 257) 0 + 5 + distExtra.getD d 0)

/-- The fixed codes. -/
def fixedLit : Huff := huffOf (List.replicate 144 8 ++ List.replicate 112 9 ++ List.replicate 24 7 ++ List.replicate 8 8)
def fixedDist : Huff := huffOf (List.replicate 30 5)

def clOrder : List Nat := [16, 17, 18, 0, 8, 7, 9, 6, 10, 5, 11, 4, 12, 3, 13, 2, 14, 1, 15]

/-- Read `n` code lengths of 3 bits. -/
def readCl : Nat → List Bool → Inf (List Nat)
  | 0, bs => .ok [] bs
  | n + 1, bs =>
    match takeBits 3 bs with
    | .ok v r =>
      match readCl n r with
      | .ok vs r1 => .ok (v :: vs) r1
      | .bad => .bad
      | .short => .short
    | .bad => .bad
    | .short => .short

/-- Read code lengths until there are `want`; `lens` is newest first. -/
def readLens (h : Huff) (want : Nat) : Nat → List Bool → List Nat → Inf (List Nat)
  | 0, _, _ => .bad
  | fuel + 1, bs, lens =>
    if lens.length = want then .ok lens.reverse bs
    else if want < lens.length then .bad
    else
      match h.sym bs with
      | .bad => .bad
      | .short => .short
      | .ok s r =>
        if s < 16 then readLens h want fuel r (s :: lens)
        else
          match takeBits (if s = 16 then 2 else if s = 17 then 3 else 7) r with
          | .bad => .bad
          | .short => .short
          | .ok x r1 =>
            if s = 16 then
              match lens with
              | [] => .bad
              | v :: _ => readLens h want fuel r1 (List.replicate (3 + x) v ++ lens)
            else readLens h want fuel r1 (List.replicate (x + if s = 17 then 3 else 11) 0 ++ lens)

/-- The codes of a dynamic block. -/
def readDynamic (bs : List Bool) : Inf (Huff × Huff) :=
  match takeBits 14 bs with
  | .bad => .bad
  | .short => .short
  | .ok v r =>
    let nlen := v % 32 + 257
    let ndist := v / 32 % 32 + 1
    let ncode := v / 1024 + 4
    if 286 < nlen ∨ 30 < ndist then .bad
    else
      match readCl ncode r with
      | .bad => .bad
      | .short => .short
      | .ok cls r1 =>
        let h := huffOf ((List.range 19).map fun s => ((clOrder.zip cls).find? fun e => e.1 == s).elim 0 Prod.snd)
        if h.left ≠ 0 then .bad
        else
          match readLens h (nlen + ndist) (nlen + ndist + 2) r1 [] with
          | .bad => .bad
          | .short => .short
          | .ok lens r2 =>
            let lit := huffOf (lens.take nlen)
            let dist := huffOf (lens.drop nlen)
            if lens.getD 256 0 = 0 ∨ ¬ lit.legal ∨ ¬ dist.legal then .bad else .ok (lit, dist) r2

/-- A block: its coding (0 stored, 1 fixed, 2 dynamic), the bits of input left before and behind it, the bytes of output so
far, and the bits that its symbols would take in the fixed coding. -/
structure BlockEnd where
  kind : Nat
  start : Nat
  left : Nat
  out : Nat
  fixed : Nat

/-- A stored block. -/
def inflateStored (bs : List Bool) (out : List Byte) : Inf (List Byte) :=
  match takeBits 32 (bs.drop (bs.length % 8)) with
  | .bad => .bad
  | .short => .short
  | .ok v r =>
    let n := v % 65536
    if v / 65536 ≠ 65535 - n then .bad
    else if r.length < 8 * n then .short
    else
      let data := (List.range n).map fun k =>
        byte (match takeBits 8 ((r.drop (8 * k)).take 8) with | .ok x _ => x | _ => 0)
      .ok (data.reverse ++ out) (r.drop (8 * n))

/-- The state of a decoding: output newest first, and the ends of the blocks decoded, newest first. -/
structure Inflated where
  out : List Byte := []
  ends : List BlockEnd := []
  /-- The output passed its limit after the last block listed. -/
  full : Bool := false

/-- The contents of a block of a coding: the output, and the cost of its symbols in the fixed coding. -/
def blockBody (kind : Nat) (r : List Bool) (out : List Byte) : Inf (List Byte × Nat) :=
  match kind with
  | 0 =>
    match inflateStored r out with
    | .ok o r1 => .ok (o, 0) r1
    | .bad => .bad
    | .short => .short
  | 1 => inflateCodes fixedLit fixedDist (r.length + 1) r out 0
  | 2 =>
    match readDynamic r with
    | .ok c r1 => inflateCodes c.1 c.2 (r1.length + 1) r1 out 0
    | .bad => .bad
    | .short => .short
  | _ => .bad

/-- Decode blocks until the final one, or until the output passes `limit`. -/
def inflateBlocks (limit : Nat) : Nat → List Bool → Inflated → Inf Inflated
  | 0, _, _ => .short
  | fuel + 1, bs, st =>
    match takeBits 3 bs with
    | .bad => .bad
    | .short => .short
    | .ok h r =>
      match blockBody (h / 2) r st.out with
      | .bad => .bad
      | .short => .short
      | .ok (out, cost) r1 =>
        let e : BlockEnd := { kind := h / 2, start := bs.length, left := r1.length, out := out.length, fixed := cost }
        let st1 : Inflated := { out := out, ends := e :: st.ends, full := decide (limit < out.length) }
        if st1.full ∨ h % 2 = 1 then .ok st1 r1 else inflateBlocks limit fuel r1 st1

/-- Decode a raw stream from a byte string. -/
def inflate (limit : Nat) (bs : List Byte) : Inf Inflated := inflateBlocks limit (8 * bs.length + 1) (bitsOf bs) {}

/-! ### Checks -/

/-- Adler-32 (RFC 1950). -/
def adler32 (bs : List Byte) : Nat :=
  let s := bs.foldl (fun (a : Nat × Nat) b =>
    let x := (a.1 + b.toNat) % 65521
    (x, (a.2 + x) % 65521)) (1, 0)
  s.2 * 65536 + s.1

/-- How a decompression ends: status, output, bytes read. -/
structure Decoded where
  status : Nat
  out : List Byte := []
  consumed : Nat := 0

/-- The trailer behind a raw stream: its expected bytes, the status of a mismatch. -/
def decodeTail (data : List Byte) (start limit trailer : Nat) (check : List Byte → List Byte) : Decoded :=
  let bs := data.drop start
  match inflate limit bs with
  | .bad => { status := 2, consumed := data.length }
  | .short => { status := 4, consumed := data.length }
  | .ok st r =>
    let used := start + (bs.length - r.length / 8)
    if st.full then { status := 1, consumed := used }
    else if data.length < used + trailer then { status := 4, consumed := data.length }
    else
      let out := st.out.reverse
      if slice data used trailer = check out then { status := 0, out := out, consumed := used + trailer }
      else { status := 3, consumed := used + trailer }

/-- The place behind a zero-terminated string that starts at `i`. -/
def skipString (data : List Byte) (i : Nat) : Option Nat :=
  ((data.drop i).findIdx? (· == 0)).map fun k => i + k + 1

/-- The gzip header's optional fields, from byte 10: where the stream starts, or a status. -/
def gzipFields (data : List Byte) (flg : Nat) : Nat ⊕ Nat :=
  let a : Option Nat := if bit flg 2 then
      (if data.length < 12 then none else some (12 + leVal (slice data 10 2))) else some 10
  let b := if bit flg 3 then a.bind (skipString data) else a
  let c := if bit flg 4 then b.bind (skipString data) else b
  match c with
  | none => .inr 4
  | some i =>
    if data.length < i then .inr 4
    else if ¬ bit flg 1 then .inl i
    else if data.length < i + 2 then .inr 4
    else if leVal (slice data i 2) = crc32 (data.take i) % 65536 then .inl (i + 2) else .inr 3

/-- DECOMPRESS of an input in a wrapper: 0 RAW, 1 ZLIB, 2 GZIP (R548). -/
def decompress (wrapper limit : Nat) (data : List Byte) : Decoded :=
  let all := data.length
  match wrapper with
  | 0 => decodeTail data 0 limit 0 fun _ => []
  | 1 =>
    let cmf := fieldAt data 0 1
    let flg := fieldAt data 1 1
    if all < 2 then { status := 4, consumed := all }
    else if cmf % 16 ≠ 8 ∨ 7 < cmf / 16 then { status := 5, consumed := 2 }
    else if (cmf * 256 + flg) % 31 ≠ 0 then { status := 2, consumed := 2 }
    else if bit flg 5 then { status := 5, consumed := 2 }
    else decodeTail data 2 limit 4 fun out => u32 (adler32 out)
  | _ =>
    let flg := fieldAt data 3 1
    if all < 10 then { status := 4, consumed := all }
    else if fieldAt data 0 2 ≠ 0x1F8B then { status := 2, consumed := 10 }
    else if fieldAt data 2 1 ≠ 8 then { status := 5, consumed := 10 }
    else if 32 ≤ flg then { status := 2, consumed := 10 }
    else
      match gzipFields data flg with
      | .inr st => { status := st, consumed := all }
      | .inl i => decodeTail data i limit 8 fun out => leBytes 4 (crc32 out) ++ leBytes 4 out.length

/-! ### COMPRESS (R544 to R547) -/

/-- Blocks of 65,535 bytes. -/
def blocksOf : Nat → List Byte → List (List Byte)
  | 0, _ => []
  | fuel + 1, bs => if bs.length ≤ 65535 then [bs] else bs.take 65535 :: blocksOf fuel (bs.drop 65535)

/-- A stream of stored blocks. -/
def storedBody (bs : List Byte) : List Byte :=
  let blocks := blocksOf (bs.length + 1) bs
  let last := blocks.length - 1
  ((List.range blocks.length).zip blocks).flatMap fun e =>
    u8 (if e.1 = last then 1 else 0) ++ leBytes 2 e.2.length ++ leBytes 2 (65535 - e.2.length) ++ e.2

/-- Where a stored block of `n` bytes that begins at bit `p` ends. -/
def storedEnd (p n : Nat) : Nat := cdiv (p + 3) 8 * 8 + 32 + 8 * n

/-- A block of `n` bytes takes the coding that ends earliest: a coded block ends before a stored one would, and a dynamic one
before the fixed coding of its symbols; on a tie stored goes first, then fixed (R545). -/
def BlockEnd.best (e : BlockEnd) (total n : Nat) : Bool :=
  let p := total - e.start
  let stop := total - e.left
  match e.kind with
  | 0 => stop == storedEnd p n
  | 1 => decide (stop < storedEnd p n)
  | _ => decide (stop < storedEnd p n) && decide (stop < p + 3 + e.fixed)

/-- Whether a body is a legal answer of R545: it decodes to the input, its blocks end every 65,535 bytes, and each takes the
coding that ends earliest. -/
def bodyLegal (input bodyBytes : List Byte) : Bool :=
  match inflate input.length bodyBytes with
  | .ok st r =>
    let ends := st.ends.reverse
    r.length < 8 && st.out.reverse == input && ends.length == (blocksOf (input.length + 1) input).length
      && ((List.range ends.length).zip ends).all fun e =>
        let out := min input.length (65535 * (e.1 + 1))
        e.2.out == out && e.2.best (8 * bodyBytes.length) (out - 65535 * e.1)
  | _ => false

/-- The body that the engine writes: its own choice among the legal ones, and stored blocks where that choice is not
legal. -/
def compressBody (level : Nat) (input : List Byte) : List Byte :=
  let b := Config.deflateBody level input
  if bodyLegal input b then b else storedBody input

/-- Header and trailer of a wrapper (R546). -/
def wrapHead (wrapper level : Nat) : List Byte :=
  match wrapper with
  | 0 => []
  | 1 => u8 0x78 ++ u8 ([0x01, 0x5E, 0x9C, 0xDA].getD (level - 1) 0x01)
  | _ => u32 0x1F8B0800 ++ u32 0 ++ u8 (if level = 1 then 4 else if level = 4 then 2 else 0) ++ u8 0xFF
def wrapTail (wrapper : Nat) (input : List Byte) : List Byte :=
  match wrapper with
  | 0 => []
  | 1 => u32 (adler32 input)
  | _ => leBytes 4 (crc32 input) ++ leBytes 4 input.length

/-- The bytes of the body that the first `k` blocks complete, and whether any of them is stored. -/
def bodyEnds (input bodyBytes : List Byte) : List (Nat × Bool) :=
  match inflate input.length bodyBytes with
  | .ok st _ => st.ends.reverse.map fun e => (bodyBytes.length - e.left / 8, e.kind == 0)
  | _ => []

end Sys2Proof.Machine
end

