-- ==== Sys2Proof/Machine/Engines.lean ====
section
/-! DEFINITION. The compression engine and the block mover (spec/16_compression_mover.md). -/

namespace Sys2Proof.Machine

open Sys2Proof

/-- Engine 0 compresses, engine 1 moves; the requester of each. -/
def Live.engine (l : Live) (e : Nat) : Engine := if e = 0 then l.comp else l.mover
def Live.setEngine (l : Live) (e : Nat) (f : Engine → Engine) : Live :=
  if e = 0 then { l with comp := f l.comp } else { l with mover := f l.mover }
def engineRequester (e : Nat) : Nat := 1 + e

/-- The BPM requester of a job's submitter: firmware, Flannel or a function. -/
def submitter (source : Nat) : Nat := if source = 0 then 4 else if source = 1 then 0 else 6 + source

/-- The function of a source, for the block counters; 255 for an internal one. -/
def sourceFn (source : Nat) : Nat := if source < 2 then 255 else source - 2

/-- Status codes (R558). -/
def jobOk := 0
def jobOutFull := 1
def jobShape := 6
def jobBounds := 7
def jobHandle := 8
def jobNoBuffer := 9
def jobBadDescriptor := 10
def jobPoisoned := 11

/-! ### Admission (R537) -/

/-- Admission of compression jobs is held. -/
def Live.compHeld (l : Live) : Bool := l.rdB .BACK_PRESSURE 4 || l.rdB .BACK_PRESSURE 5

/-- The descriptor with which Flannel submits an export block: ZLIB, one extent, an OUT_LIMIT of 65,536; TAG names the
block (R490, R547). -/
def exportDesc (b : ExportBlock) : List Byte :=
  leBytes 2 b.number ++ leBytes 2 b.tn ++ [0, 1, byte (Config.exportLevel % 4 + 1), 1] ++ leBytes 4 65536 ++ List.replicate 244 0

/-- A source has had its turn at this boundary, or a later one of the order has: firmware, Flannel, the PF, VF1 to VF7
(R537). -/
def Live.turnOver (l : Live) (e source : Nat) : Bool :=
  (List.range 10).any fun k => source ≤ k && (l.engine e).admitted.get k == some l.ticks

/-- A job enters an engine's queue. -/
def Live.jobEnter (l : Live) (e source tn : Nat) (desc : List Byte) : Live :=
  let j : Job :=
    { source := source, desc := desc, tn := tn, taken := l.ticks, first := (l.engine e).queue.isEmpty, notify := false }
  (l.setEngine e fun x => { x with queue := x.queue ++ [j], admitted := x.admitted.put source (some l.ticks) }).blk 21
    .eventsIn 1 (sourceFn source) 0 tn

def Live.jobAdmit (l : Live) (e source : Nat) (desc : List Byte) : Live :=
  let x := l.engine e
  let len := if e = 0 then 256 else 64
  if ¬ l.mode.engineOn ∨ 16 ≤ x.queue.length ∨ l.turnOver e source ∨ (e = 0 ∧ l.compHeld) then l
  else if source = 0 then l.jobEnter e 0 0 (slice desc 0 len)
  else if source = 1 then
    if e ≠ 0 then l
    else
      match l.flannel.blocks.find? fun b => !b.admitted with
      | none => l
      | some b =>
        ({ l with flannel := { l.flannel with blocks := l.flannel.blocks.map fun (c : ExportBlock) =>
            if c.tn = b.tn ∧ c.number = b.number then { c with admitted := true } else c } }).jobEnter 0 1 b.tn (exportDesc b)
  else
    let f := source - 2
    match (l.ring f (9 + e)).taken with
    | [] => l
    | (_, d) :: _ => (l.dropTaken f (9 + e)).jobEnter e source f (slice d 0 len)

def execJobAdmit (e : Fin 2) (source : Fin 10) (desc : List Byte) (s : State) : Host.Outcome State Fault Refusal :=
  s.effect fun l => l.jobAdmit e.val source.val desc

/-! ### Compression jobs (R540 to R550) -/

/-- An extent: handle, offset, length. -/
structure Extent where
  handle : Nat
  off : Nat
  len : Nat
deriving DecidableEq, Repr

def compExtents (d : List Byte) : List Extent :=
  (List.range (fieldAt d 7 1)).map fun k =>
    { handle := leAt d (64 + 12 * k) 4, off := leAt d (68 + 12 * k) 4, len := leAt d (72 + 12 * k) 4 }

def outLimit (d : List Byte) : Nat := leAt d 8 4

def allZero (bs : List Byte) : Bool := bs.all (· == 0)

/-- A descriptor that ends as BAD_DESCRIPTOR (R540). -/
def compBad (d : List Byte) : Bool :=
  let op := fieldAt d 4 1
  let level := fieldAt d 6 1
  let n := fieldAt d 7 1
  1 < op || 2 < fieldAt d 5 1 || (if op = 0 then level < 1 || 4 < level else level != 0) || n < 1 || 16 < n
    || outLimit d < 1 || 17825792 < outLimit d || 1 < fieldAt d 12 1 || !allZero (slice d 13 51)
    || !allZero (slice d (64 + 12 * n) (192 - 12 * n))

/-- An extent lies within its buffer; a pool that does not exist is left to the handle check. -/
def Extent.fits (x : Extent) : Bool :=
  1 ≤ x.len && (6 ≤ handlePool x.handle || x.off + x.len ≤ poolSize (handlePool x.handle))

def compBounds (xs : List Extent) : Bool := xs.all Extent.fits && sumOf (·.len) xs ≤ 16777216

/-- What stops the reading of an input: its position, the status and the detail. -/
structure Barrier where
  pos : Nat
  status : Nat
  detail : Nat
deriving DecidableEq, Repr

/-- The first poisoned byte of a range. -/
def Buf.firstPoison (b : Buf) (off n : Nat) : Option Nat :=
  ((unitsOf off n).find? fun u => b.poison.contains u).map fun u => max (64 * u) off - off

/-- The bytes that an engine reads from its extents, up to the first failed check or poisoned word (R541, R550). -/
def Live.readExtents (l : Live) (r : Nat) : List Extent → List Byte → List Byte × Option Barrier × Live
  | [], acc => (acc, none, l)
  | x :: xs, acc =>
    let a := x.off / 8 * 8
    let n := cdiv (x.off + x.len) 8 * 8 - a
    let c := l.checkHandle r x.handle (some (a, n))
    if c ≠ bpmOk then (acc, some { pos := acc.length, status := jobHandle, detail := c }, l.bpmFault r x.handle c)
    else
      let b := l.buf (handleKey x.handle)
      match b.firstPoison x.off x.len with
      | some p =>
        (acc ++ b.read x.off p, some { pos := acc.length + p, status := jobPoisoned, detail := 0 }, l)
      | none => l.readExtents r xs (acc ++ b.read x.off x.len)

/-- The sizes of the output buffers (R542). -/
def outSizes (limit : Nat) : List Nat :=
  let n := cdiv limit 1048576
  List.replicate (n - 1) 1048576 ++ [limit - 1048576 * (n - 1)]

/-- Free buffers that an engine allocated and still owns alone. -/
def Live.freeAll (l : Live) (r : Nat) (hs : List Nat) : Live :=
  l.forL hs fun l h => if (l.buf (handleKey h)).owners.contains r then l.dropOwner (handleKey h) r else l

/-- Allocate in order; at a refusal what was allocated is freed. -/
def Live.allocAll (l : Live) (r tn : Nat) : List Nat → List Nat → (Nat × List Nat) × Live
  | [], hs => ((bpmOk, hs), l)
  | n :: ns, hs =>
    let a := l.alloc r n tn
    if a.1.1 = bpmOk then a.2.allocAll r tn ns (hs ++ [a.1.2]) else ((a.1.1, []), a.2.freeAll r hs)

/-- COMPRESS of what was read (R544 to R549). -/
def compressRun (wrapper level limit : Nat) (data : List Byte) (barrier : Option Barrier) : JobResult :=
  let head := wrapHead wrapper level
  let bodyBytes := compressBody level data
  let ends := bodyEnds data bodyBytes
  let blocks := match barrier with
    | some b => b.pos / 65535
    | none => ends.length
  let beyond := ((List.range blocks).zip ends).find? fun e => limit < head.length + e.2.1
  match beyond, barrier with
  | some e, _ => { status := jobOutFull, consumed := min data.length (65535 * (e.1 + 1)) }
  | none, some b => { status := b.status, detail := b.detail, consumed := b.pos }
  | none, none =>
    let out := head ++ bodyBytes ++ wrapTail wrapper data
    if limit < out.length then { status := jobOutFull, consumed := data.length }
    else
      { status := jobOk, output := out, consumed := data.length, stored := ends.any Prod.snd,
        check := if wrapper = 1 then adler32 data else crc32 data }

/-- DECOMPRESS of what was read; `total` is the length of the whole input (R548, R549). -/
def decompressRun (wrapper limit total : Nat) (data : List Byte) (barrier : Option Barrier) : JobResult :=
  let r := decompress wrapper limit data
  match barrier with
  | some b =>
    if r.status = 4 then { status := b.status, detail := b.detail, consumed := b.pos }
    else if r.status = jobOk then
      { status := jobOk, output := r.out, consumed := r.consumed, trailing := decide (r.consumed < total),
        check := if wrapper = 1 then adler32 r.out else crc32 r.out }
    else { status := r.status, consumed := r.consumed }
  | none =>
    if r.status = jobOk then
      { status := jobOk, output := r.out, consumed := r.consumed, trailing := decide (r.consumed < total),
        check := if wrapper = 1 then adler32 r.out else crc32 r.out }
    else { status := r.status, consumed := r.consumed }

/-- The input of an export block. -/
def Live.exportInput (l : Live) (d : List Byte) : List Byte :=
  match l.flannel.blocks.find? fun b => b.number == leAt d 0 2 && b.tn == leAt d 2 2 with
  | some b => b.bytes
  | none => []

/-- A compression job with its output buffers allocated: its result, its buffers, and the machine. -/
def Live.compWith (l : Live) (j : Job) (a : (Nat × List Nat) × Live) : JobResult × Job × Live :=
  let d := j.desc
  let xs := compExtents d
  if a.1.1 ≠ bpmOk then ({ status := jobNoBuffer, detail := a.1.1 }, j, a.2)
  else
    let input := if j.source = 1 then (l.exportInput d, none, a.2) else a.2.readExtents 1 xs []
    let total := if j.source = 1 then input.1.length else sumOf (·.len) xs
    let r := if fieldAt d 4 1 = 0 then compressRun (fieldAt d 5 1) (fieldAt d 6 1) (outLimit d) input.1 input.2.1
             else decompressRun (fieldAt d 5 1) (outLimit d) total input.1 input.2.1
    (r, { j with outs := a.1.2, input := input.1 }, input.2.2)

/-- A compression job runs: its result, the job with its buffers and its input, the machine (R540 to R550). -/
def Live.compRun (l : Live) (j : Job) : JobResult × Job × Live :=
  if compBad j.desc then ({ status := jobBadDescriptor }, j, l)
  else if j.source ≠ 1 ∧ ¬ compBounds (compExtents j.desc) then ({ status := jobBounds }, j, l)
  else l.compWith j (l.allocAll 1 j.tn (outSizes (outLimit j.desc)) [])

/-! ### Mover jobs (R552 to R556) -/

structure MoveDesc where
  src : Nat
  srcOff : Nat
  dst : Nat
  dstOff : Nat
  len : Nat
  rows : Nat
  srcStride : Nat
  dstStride : Nat
deriving DecidableEq, Repr

def moveDesc (d : List Byte) : MoveDesc :=
  { src := leAt d 8 4, srcOff := leAt d 12 4, dst := leAt d 16 4, dstOff := leAt d 20 4, len := leAt d 24 4,
    rows := leAt d 28 4, srcStride := leAt d 32 4, dstStride := leAt d 36 4 }

def moveBad (d : List Byte) : Bool :=
  let m := moveDesc d
  let op := fieldAt d 4 1
  1 < op || 1 < fieldAt d 5 1 || !allZero (slice d 6 2) || m.len < 1 || 1048576 < m.len || m.rows < 1 || 65536 < m.rows
    || 1048576 < m.srcStride || 1048576 < m.dstStride || (op == 0 && (m.rows != 1 || m.srcStride != 0 || m.dstStride != 0))
    || !allZero (slice d 40 24)

def MoveDesc.srcSpan (m : MoveDesc) : Nat := (m.rows - 1) * m.srcStride + m.len
def MoveDesc.dstSpan (m : MoveDesc) : Nat := (m.rows - 1) * m.dstStride + m.len
def MoveDesc.overlaps (m : MoveDesc) : Bool :=
  m.src == m.dst && m.srcOff < m.dstOff + m.dstSpan && m.dstOff < m.srcOff + m.srcSpan

/-- The destination units that receive a byte from a poisoned source unit (R556). -/
def MoveDesc.marks (m : MoveDesc) (b : Buf) : List Nat :=
  if b.poison = [] then []
  else
    ((List.range m.rows).flatMap fun r =>
      let s := m.srcOff + r * m.srcStride
      let d := m.dstOff + r * m.dstStride
      ((unitsOf s m.len).filter fun u => b.poison.contains u).flatMap fun u =>
        let lo := max (64 * u) s
        let hi := min (64 * u + 64) (s + m.len)
        unitsOf (d + (lo - s)) (hi - lo)).eraseDups

/-- A mover job runs: what it will write, and the temporary it allocates. -/
def Live.moveRun (l : Live) (j : Job) : JobResult × Job × Live :=
  let d := j.desc
  let m := moveDesc d
  let cs := l.checkHandle 2 m.src none
  let cd := l.checkHandle 2 m.dst none
  if moveBad d then ({ status := jobBadDescriptor }, j, l)
  else if 1 < m.rows ∧ (m.srcStride < m.len ∨ m.dstStride < m.len) then ({ status := jobShape }, j, l)
  else if cs ≠ bpmOk then ({ status := jobHandle, detail := cs }, j, l.bpmFault 2 m.src cs)
  else if cd ≠ bpmOk then ({ status := jobHandle, detail := cd }, j, l.bpmFault 2 m.dst cd)
  else if poolSize (handlePool m.src) < m.srcOff + m.srcSpan ∨ poolSize (handlePool m.dst) < m.dstOff + m.dstSpan then
    ({ status := jobBounds }, j, l)
  else
    let staged := m.overlaps && m.srcStride != m.dstStride
    let reversed := m.overlaps && m.srcStride == m.dstStride && decide (m.srcOff < m.dstOff)
    let still := m.overlaps && m.srcStride == m.dstStride && m.srcOff == m.dstOff
    let a := if staged then l.allocAll 2 j.tn [1048576] [] else ((bpmOk, []), l)
    if a.1.1 ≠ bpmOk then ({ status := jobNoBuffer, detail := a.1.1 }, j, a.2)
    else
      let b := l.buf (handleKey m.src)
      let out := if still then [] else (List.range m.rows).flatMap fun r => b.read (m.srcOff + r * m.srcStride) m.len
      let marks := if still then [] else m.marks b
      ({ status := jobOk, output := out, staged := staged, reversed := reversed, poisonCopied := !marks.isEmpty,
         bytes := m.rows * m.len, marks := marks }, { j with outs := a.1.2 }, a.2)

/-! ### Start and end -/

/-- The head job of an engine starts; `op` says whether its OP code is the command's.  A job admitted to an idle engine runs
from the start of the beat, which begins without a token where the engine holds none (R551). -/
def Live.jobStart (l : Live) (e : Nat) (op : Nat → Bool) : Live :=
  match (l.engine e).queue with
  | [] => l
  | j :: js =>
    if j.start ≠ none ∨ ¬ l.mode.engineOn ∨ ¬ op (fieldAt j.desc 4 1) then l
    else
      let r := if e = 0 then l.compRun j else l.moveRun j
      let base := decide (l.token e = 0 ∧ j.first = true ∧ j.taken = l.ticks)
      let l1 := if base then (r.2.2.count .BASE_BEATS 1 e).blk 21 .signalB 1 (sourceFn j.source) 0 j.tn else r.2.2
      l1.setEngine e fun x =>
        { x with queue := { r.2.1 with start := some l.now, result := some r.1, unboosted := base } :: js }

def execCompress (s : State) : Host.Outcome State Fault Refusal := s.effect fun l => l.jobStart 0 fun op => op != 1
def execDecompress (s : State) : Host.Outcome State Fault Refusal := s.effect fun l => l.jobStart 0 fun op => op == 1
def execCopy1d (s : State) : Host.Outcome State Fault Refusal := s.effect fun l => l.jobStart 1 fun op => op != 1
def execCopy2d (s : State) : Host.Outcome State Fault Refusal := s.effect fun l => l.jobStart 1 fun op => op == 1

/-- The handles of a job's buffers that its submitter shared. -/
def jobInputs (e : Nat) (d : List Byte) : List Nat :=
  if e = 0 then (compExtents d).map (·.handle) else [(moveDesc d).src, (moveDesc d).dst]

/-- The engine lets go of the buffers that a submitter shared with it (R398, R563). -/
def Live.dropShares (l : Live) (e : Nat) (j : Job) : Live :=
  l.forL (jobInputs e j.desc).eraseDups fun l h =>
    if l.checkHandle (engineRequester e) h none = bpmOk then l.dropOwner (handleKey h) (engineRequester e) else l

/-- The output of a job whose input has changed since it was read is not defined: free values (R543). -/
def Live.jobOutput (l : Live) (j : Job) (r : JobResult) : JobResult × Live :=
  if j.source = 1 ∨ r.status ≠ jobOk ∨ (l.readExtents 1 (compExtents j.desc) []).1 = j.input then (r, l)
  else
    let n := r.output.length
    ({ r with output := (List.range n).map fun k => byte (Config.freeValue (l.free + k)) }, { l with free := l.free + n })

/-- Output fills the buffers in order, each to its size. -/
def Live.fillOutputs (l : Live) : List Nat → List Byte → Live
  | [], _ => l
  | h :: hs, bs =>
    let n := poolSize (handlePool h)
    (l.bufWrite (handleKey h) 0 (bs.take n) false).fillOutputs hs (bs.drop n)

/-- Pass outputs to the submitter: the first refusal, if any (R398, R549). -/
def Live.handOutputs (l : Live) (new : Nat) : List Nat → Nat × Live
  | [] => (bpmOk, l)
  | h :: hs =>
    let r := l.share 1 h new true
    if r.1 ≠ bpmOk then r else (r.2.release 1 h).2.handOutputs new hs

/-- How many buffers hold `n` bytes of output. -/
def usedOutputs : List Nat → Nat → Nat
  | [], _ => 0
  | h :: hs, n => if n = 0 then 0 else 1 + usedOutputs hs (n - poolSize (handlePool h))

/-- The end of a compression job's buffers: the handles delivered and its final result (R549). -/
def Live.compDeliver (l : Live) (j : Job) (r : JobResult) : List Nat × JobResult × Live :=
  if r.status ≠ jobOk then ([], r, (l.freeAll 1 j.outs).dropShares 0 j)
  else
    let k := usedOutputs j.outs r.output.length
    let o := l.jobOutput j r
    let l1 := (o.2.fillOutputs (j.outs.take k) o.1.output).freeAll 1 (j.outs.drop k)
    let h := l1.handOutputs (submitter j.source) (j.outs.take k)
    if h.1 = bpmOk then (j.outs.take k, o.1, h.2.dropShares 0 j)
    else
      ([], { status := jobNoBuffer, detail := h.1, consumed := r.consumed }, ((l.freeAll 1 j.outs).dropShares 0 j))

/-- The end of a mover job's buffers: its bytes reach the destination (R554 to R556). -/
def Live.moveDeliver (l : Live) (j : Job) (r : JobResult) : Live :=
  let m := moveDesc j.desc
  let key := handleKey m.dst
  let l1 :=
    if r.status ≠ jobOk ∨ r.output = [] ∨ l.checkHandle 2 m.dst none ≠ bpmOk then l
    else
      let w := (List.range m.rows).foldl (fun (a : Live × List Byte) k =>
        (a.1.bufWrite key (m.dstOff + k * m.dstStride) (a.2.take m.len) false, a.2.drop m.len)) (l, r.output)
      w.1.setBuf key fun b => { b with poison := r.marks.foldl (fun ms u => if ms.contains u then ms else insertBy id u ms) b.poison }
  (l1.freeAll 2 j.outs).dropShares 1 j

/-- The completion entries (R557). -/
def compEntry (j : Job) (r : JobResult) (hs : List Nat) (done : Nat) : List Byte :=
  let ok := r.status = jobOk
  let flags := (if ok then r.stored.toNat + 2 * r.trailing.toNat else 0) + 4 * j.unboosted.toNat
  slice j.desc 0 4 ++ u8 r.status ++ u8 r.detail ++ u8 hs.length ++ u8 flags
    ++ leBytes 4 (if ok then r.output.length else 0) ++ leBytes 4 r.consumed ++ leBytes 4 (if ok then r.check else 0)
    ++ leBytes 4 0 ++ leBytes 8 (j.start.getD 0) ++ leBytes 8 done
    ++ slice (hs.flatMap (leBytes 4)) 0 68 ++ List.replicate 20 0
def moveEntry (j : Job) (r : JobResult) (done : Nat) : List Byte :=
  let ok := r.status = jobOk
  let flags := (if ok then r.poisonCopied.toNat + 2 * r.staged.toNat + 4 * r.reversed.toNat else 0) + 8 * j.unboosted.toNat
  slice j.desc 0 4 ++ u8 r.status ++ u8 r.detail ++ u8 flags ++ u8 0 ++ leBytes 4 (if ok then r.bytes else 0) ++ leBytes 4 0
    ++ leBytes 8 (j.start.getD 0) ++ leBytes 8 done

/-- The event of a status (R560). -/
def jobEvent (e status : Nat) : Option Nat :=
  if status = jobOutFull then some 512
  else if 2 ≤ status ∧ status ≤ 5 then some 513
  else if e = 1 ∧ (status = jobShape ∨ status = jobBounds) then some 514
  else if status = jobHandle ∨ status = jobNoBuffer then some 515
  else if status = jobPoisoned then some 517
  else none

/-- Counters and events of a job's end; `bad`: it ended by a word of the engine's own memory, and read no poison (R550, R559,
R560, R563). -/
def Live.jobCount (l : Live) (e : Nat) (bad : Bool) (j : Job) (r : JobResult) : Live :=
  let ok := r.status = jobOk
  let fn := sourceFn j.source
  let inBytes := if e = 0 then r.consumed else if ok then r.bytes else 0
  let outBytes := if ¬ ok then 0 else if e = 0 then r.output.length else r.bytes
  let l1 := (l.count (if ok then .JOBS_OK else .JOBS_FAILED) 1 e).count .BYTES_IN inBytes e
  let l2 := l1.count .BYTES_OUT outBytes e
  let l3 := if (e = 0 ∧ r.status = jobOutFull) ∨ (e = 1 ∧ r.staged) then l2.count .OUT_FULL_JOBS 1 e else l2
  let own : Obj := if e = 0 then (if ok then .COMP_OK else .COMP_FAILED) else (if ok then .MOVE_OK else .MOVE_FAILED)
  let l4 := if 2 ≤ j.source then l3.count own 1 0 0 fn else l3
  let l5 := (((l4.blk 21 .eventsOut 1 fn 0 j.tn).blk 21 .bytesIn inBytes fn 0 j.tn).blk 21 .bytesOut outBytes fn 0 j.tn).blk 21
    .drops (if ok then 0 else 1) fn 0 j.tn
  let l6 := if r.staged then l5.blk 21 .signalA 1 fn 0 j.tn else l5
  match if bad then none else jobEvent e r.status with
  | some src => l6.raise src (u32 (leAt j.desc 0 4) ++ u8 j.source) (if 2 ≤ j.source then fn else 0)
  | none => l6

/-- A running job ends; `bad` is an uncorrectable word in the engine's own memory (R549, R563). -/
def Live.jobEnd (l : Live) (e : Nat) (bad : Bool) : Live :=
  match (l.engine e).queue with
  | [] => l
  | j :: js =>
    match j.result with
    | none => l
    | some r0 =>
      if ¬ l.mode.engineOn then l
      else
        let l0 := if bad then (l.mark 519).withdraw [9] else l
        let r1 : JobResult := if bad then { status := jobPoisoned, consumed := r0.consumed } else r0
        let d := if e = 0 then l0.compDeliver j r1 else ([], r1, l0.moveDeliver j r1)
        let r := d.2.1
        let entry := if e = 0 then compEntry j r d.1 l.now else moveEntry j r l.now
        let notify := bit (fieldAt j.desc (if e = 0 then 12 else 5) 1) 0
        let j1 := { j with result := some r, done := l.now, ended := l.ticks, entry := entry, outs := d.1, notify := notify }
        (d.2.2.jobCount e bad j r).setEngine e fun x => { x with queue := js, ended := x.ended ++ [j1] }

def execJobEnd (e : Fin 2) (bad : Bool) (s : State) : Host.Outcome State Fault Refusal :=
  s.effect fun l => l.jobEnd e.val bad

/-- A completion may be posted: a boundary has passed, and a function's ring takes it. -/
def Live.mayPost (l : Live) (e : Nat) (j : Job) : Bool :=
  decide (j.ended < l.ticks) && (j.source < 2 || l.ringWorks (j.source - 2) (9 + e))

/-- The completion of an export block reaches Flannel: a block that found no buffer is submitted again. -/
def Live.exportDone (l : Live) (j : Job) : Live :=
  let good : Bool := match j.result with
    | some r => r.status == jobOk
    | none => false
  let done := fun (b : ExportBlock) =>
    if ¬ (b.number = leAt j.desc 0 2 ∧ b.tn = leAt j.desc 2 2) then b
    else if good then { b with handle := j.outs.headD 0, length := leAt j.entry 8 4 }
    else { b with admitted := false }
  { l with flannel := { l.flannel with blocks := l.flannel.blocks.map done } }

/-- Phase 8 posts a completion (R557, R602). -/
def Live.jobPost (l : Live) (e : Nat) : Live :=
  if ¬ l.mode.engineOn then l
  else
    match (l.engine e).ended.find? (l.mayPost e) with
    | none => l
    | some j =>
      let l1 := l.setEngine e fun x => { x with ended := x.ended.erase j }
      if j.source = 0 then l1
      else if j.source = 1 then l1.exportDone j
      else l1.cqOwed (j.source - 2) (9 + e) j.entry [] j.notify

def execJobCompletionPost (e : Fin 2) (s : State) : Host.Outcome State Fault Refusal := s.effect fun l => l.jobPost e.val

/-! ### Beats, resets -/

/-- A beat begins: a job runs without its token (R551), and admission may be held (R560). -/
def Live.engineBeat (l : Live) : Live :=
  let l1 := l.forN 2 fun l e =>
    match (l.engine e).queue with
    | [] => l
    | j :: js =>
      if j.start ≠ none ∧ l.token e = 0 ∧ l.mode.engineOn then
        ((l.setEngine e fun x => { x with queue := { j with unboosted := true } :: js }).count .BASE_BEATS 1 e).blk 21 .signalB 1
          (sourceFn j.source) 0 j.tn
      else l
  if l1.compHeld ∧ l1.mode.engineOn then l1.mark 516 else l1

/-- The jobs of a source stop, by a reset of its function or of its tenancy (R563). -/
def Live.jobsStop (l : Live) (source : Nat) : Live :=
  let r := (List.range 2).foldl (fun (a : Live × Nat) e =>
    let x := a.1.engine e
    let mine := x.queue.filter fun j => j.source == source
    let l1 := a.1.setEngine e fun x =>
      { x with queue := x.queue.filter (fun j => j.source != source), ended := x.ended.filter fun j => j.source != source }
    let l2 := l1.forL mine fun l j => (l.freeAll (engineRequester e) j.outs).dropShares e j
    ((if mine.isEmpty then l2 else l2.count .ABORTED_JOBS mine.length e), a.2 + mine.length)) (l, 0)
  if r.2 = 0 then r.1 else r.1.raise 518 (u32 r.2)

end Sys2Proof.Machine
end

