-- ==== Sys2Proof/Machine/Flannel.lean ====
section
/-! DEFINITION. Flannel retention: streams, segments, index records, pre-roll, uplink health, drain, backfill, index export,
purge (spec/14_flannel.md). -/

namespace Sys2Proof.Machine

open Sys2Proof

/-! ### Segments and streams (R467 to R472) -/

def segSize : Nat := 1048576
def segFree := 0
def segOpen := 1
def segPreroll := 2
def segRetained := 3
def segReturning := 4
def streamIdle := 0
def streamRolling := 1
def streamRetaining := 2
def streamDraining := 3
def streamPurged := 4

def Live.setFlannel (l : Live) (f : Flannel → Flannel) : Live := { l with flannel := f l.flannel }
def Live.seg (l : Live) (i : Nat) : Segment := l.flannel.segs.get i
def Live.setSeg (l : Live) (i : Nat) (f : Segment → Segment) : Live :=
  l.setFlannel fun x => { x with segs := x.segs.upd i f }

/-- Segments with a property, by ascending buffer number. -/
def Live.segsWhere (l : Live) (p : Segment → Bool) : List Nat := (l.flannel.segs.filter fun e => p e.2).map Prod.fst

/-- The tenancy of a stream: the owner of its port (R467). -/
def Live.streamTn (l : Live) (s : Nat) : Nat := l.portOwner (s / 2)

/-- The open segment of a stream. -/
def Live.openSeg (l : Live) (s : Nat) : Option Nat := (l.segsWhere fun g => g.state == segOpen && g.stream == s).head?

/-- The return path of a tenancy: 0 NONE, 1 DRAIN, 2 BACKFILL. -/
def Live.returnPath (l : Live) (n : Nat) : Nat := l.rd .RETURN_PATH 0 0 n

/-- RETAINED or RETURNING. -/
def Segment.kept34 (g : Segment) : Bool := g.state == segRetained || g.state == segReturning

/-- A segment that awaits its return by DRAIN or BACKFILL (R469, R481). -/
def Live.awaitsReturn (l : Live) (g : Segment) : Bool := g.kept34 && l.returnPath g.tn != 0

/-- The state that the rules give a stream (R469). -/
def Live.streamState (l : Live) (s : Nat) : Nat :=
  if bit l.flannel.purging s || l.tnWiping (l.streamTn s) then streamPurged
  else if !l.rdB .ENABLE_1240 s || !l.mode.running then streamIdle
  else if l.flannel.lost && l.rdB .ISLAND_KEEP s then streamRetaining
  else if !(l.segsWhere fun g => g.stream == s && l.awaitsReturn g).isEmpty then streamDraining
  else streamRolling

/-- A stream state in which keep copies are written. -/
def streamWrites (st : Nat) : Bool := st == streamRolling || st == streamRetaining || st == streamDraining

/-- A segment closes (R471); its record awaits the index engine (R46).  Frames written while UPLINK_LOST was active make it
RETAINED where its stream was RETAINING then (DEDUCED from R479, by which other streams keep freeing by age; log 129). -/
def Live.closeSeg (l : Live) (i : Nat) : Live :=
  let g := l.seg i
  let st := if l.rd .STATE_1240 g.stream = streamRetaining ∨ g.island then segRetained else segPreroll
  let l1 := l.setSeg i fun g => { g with state := st, crc := crc32 (l.bufRead (bufKey 5 i) 0 g.bytes) }
  (l1.setFlannel fun x =>
    { x with commits := insertBy (· / 65536) ((l.ticks * 128 + g.stream) * 65536 + i) x.commits }).blk 18 .signalA 1
      (g.stream / 2) 0 g.tn

/-- The open segment of a stream closes. -/
def Live.closeOpen (l : Live) (s : Nat) : Live :=
  match l.openSeg s with
  | some i => l.closeSeg i
  | none => l

/-- A record commits, in the beat of the machine (R472). -/
def Live.commitRecord (l : Live) (i : Nat) : Live := l.setSeg i fun g => { g with committed := true, closeBeat := l.now }

/-- The index engine: at most 16 records in each beat (R45, R46). -/
def Live.commitIndex (l : Live) : Live :=
  let n := 16 - l.flannel.committed
  let due := l.flannel.commits.take n
  (l.forL due fun l e => l.commitRecord (e % 65536)).setFlannel fun x =>
    { x with commits := x.commits.drop n, committed := x.committed + due.length }

/-- Every waiting record commits, outside the budget (R135, R492). -/
def Live.commitAll (l : Live) : Live :=
  (l.forL l.flannel.commits fun l e => l.commitRecord (e % 65536)).setFlannel fun x => { x with commits := [] }

/-- A segment is freed: every owner that Flannel gave the buffer leaves it, and its record becomes zero (R472). -/
def Live.freeSeg (l : Live) (i : Nat) : Live :=
  let key := bufKey 5 i
  let l1 := match (l.seg i).offer with
    | some (f, _) => l.dropOwner key (8 + f)
    | none => l
  let l2 := if (l1.buf key).owners.contains 0 then l1.dropOwner key 0 else l1
  l2.setFlannel fun x =>
    { x with segs := x.segs.del i, commits := x.commits.filter fun e => e % 65536 != i,
             sending := if x.sending = some i then none else x.sending }

/-- BACKLOG is taken again; event 454 where it becomes inactive (R481). -/
def Live.refreshBacklog (l : Live) : Live :=
  let b := !(l.segsWhere l.awaitsReturn).isEmpty
  let l1 := if l.flannel.backlog ∧ ¬ b then (l.raise 454).recoveryDone 7 0 else l
  let l2 := l1.setFlannel fun x => { x with backlog := b }
  if b ∧ ¬ l2.flannel.lost ∧ l2.mode.running then l2.recoveryStart 7 0 0xFF else l2

/-- Every stream takes the state that the rules give it (R469); one that leaves the running states closes its segment. -/
def Live.refreshStreams (l : Live) : Live :=
  if l.mode = .freeze then l
  else
    let l1 := l.forN 96 fun l s =>
      let st := l.streamState s
      let old := l.rd .STATE_1240 s
      if st = old then l
      else
        let l1 := if streamWrites old ∧ ¬ streamWrites st then l.closeOpen s else l
        l1.wr .STATE_1240 st s
    let n := ((List.range 96).filter fun s => l1.rd .STATE_1240 s == streamRetaining).length
    (l1.recoveryPeak 6 n 0).refreshBacklog

/-! ### The outstanding returns of a segment (R484, R489) -/

/-- A return is withdrawn: an offer's function leaves the segment, which is marked REOFFERED; a send keeps its sequence
numbers. -/
def Live.withdrawReturn (l : Live) (i : Nat) : Live :=
  let g := l.seg i
  if g.state ≠ segReturning then l
  else
    let l1 := match g.offer with
      | some (f, _) => if (l.buf (bufKey 5 i)).owners.contains (8 + f) then l.dropOwner (bufKey 5 i) (8 + f) else l
      | none => l
    (l1.setSeg i fun g =>
      { g with state := segRetained, offer := none, sent := 0, sentAt := none, reoffered := g.reoffered || g.offer != none
      }).setFlannel fun x => { x with sending := if x.sending = some i then none else x.sending }

/-- The returns of the segments with a property are withdrawn. -/
def Live.withdrawReturns (l : Live) (p : Segment → Bool) : Live := l.forL (l.segsWhere p) Live.withdrawReturn

/-- An export block's offer is withdrawn. -/
def Live.withdrawBlock (l : Live) (b : ExportBlock) : Live :=
  match b.offer with
  | some (f, _) =>
    let key := handleKey b.handle
    let l1 := if (l.buf key).owners.contains (8 + f) then l.dropOwner key (8 + f) else l
    l1.setFlannel fun x => { x with blocks := x.blocks.map fun (c : ExportBlock) =>
      if c = b then { c with offer := none, reoffered := true } else c }
  | none => l

/-- The offers to a function return to RETAINED (R626). -/
def Live.offersCut (l : Live) (f : Nat) : Live :=
  let mine := fun (o : Option (Nat × Nat)) => (o.map Prod.fst) == some f
  let l1 := l.withdrawReturns fun g => mine g.offer
  (l1.forL (l1.flannel.blocks.filter fun b => mine b.offer) Live.withdrawBlock).refreshStreams

/-- A port changes owner: its open segments close and its streams' counters clear (R183, R498). -/
def Live.flannelOwner (l : Live) (p : Nat) : Live :=
  let counters : List Obj := [.FRAMES_KEPT, .BYTES_KEPT, .KEEP_DISCARDS, .PREROLL_FREED, .PREROLL_SHED, .SEGMENTS_OVERWRITTEN,
    .SEGMENTS_RETURNED]
  l.forL [2 * p, 2 * p + 1] fun l s => l.forL counters (fun l o => l.toDefault o s) |>.closeOpen s

/-! ### Writing (R467, R470, R482) -/

/-- The first candidate of a full store (R482). -/
def Live.fullCandidate (l : Live) (n st : Nat) : Option Nat :=
  let cs := l.segsWhere fun g => g.tn == n && g.state == st
  let by1 := sortBy (fun i => (l.seg i).stream) cs
  let by2 := sortBy (fun i => (l.seg i).firstBeat) by1
  (sortBy (fun i => l.rd .PRIORITY_1240 (l.seg i).stream) by2).head?

/-- A full store gives up one segment, where it may. -/
def Live.makeRoom (l : Live) (n : Nat) : Option Live :=
  match l.fullCandidate n segPreroll with
  | some i => some (l.freeSeg i)
  | none =>
    if l.rd .FULL_POLICY 0 0 n = 0 then
      match l.fullCandidate n segRetained with
      | some i =>
        let s := (l.seg i).stream
        let l1 := (l.count .SEGMENTS_OVERWRITTEN 1 s).count .OVERWRITTEN 1 0 0 n
        some (((l1.freeSeg i).raise 456 [] n).refreshStreams)
      | none => none
    else none

/-- A buffer for a new segment of a tenancy: its handle. -/
def Live.segBuffer (l : Live) (n : Nat) : Option Nat × Live :=
  let take := fun (l : Live) => match l.alloc 0 segSize n with
    | ((0, h), l1) => (some h, l1)
    | (_, l1) => (none, l1)
  if (l.segsWhere fun g => g.tn == n).length < l.rd .EFFECTIVE_QUOTA n 10 then take l
  else
    let l1 := l.mark 455 (u8 n) n
    match l1.makeRoom n with
    | some l2 => take l2
    | none => (none, l1)

/-- Bytes of a frame record (R470). -/
def recordSize (len : Nat) : Nat := 16 + 8 * cdiv len 8

/-- A frame record. -/
def frameRecord (f : Frame) (first : Nat) : List Byte :=
  let b := body f.bytes
  slice (u16 b.length ++ u8 (if f.poisoned then 0x80 else 0) ++ u8 f.port ++ u32 ((f.beat + 2 ^ 64 - first) % 2 ^ 32)
    ++ u64 f.stamp ++ b) 0 (recordSize b.length)

/-- A keep copy is discarded (R467). -/
def Live.keepDiscard (l : Live) (f : Frame) (s : Nat) : Live :=
  ((l.count .KEEP_DISCARDS 1 s).blk 18 .drops 1 f.port f.tc (l.streamTn s)).mark 463 [] (l.streamTn s)

/-- A record is appended to an open segment. -/
def Live.append (l : Live) (i : Nat) (f : Frame) : Live :=
  let g := l.seg i
  let n := f.bytes.length - 4
  let r := frameRecord f g.firstBeat
  let l1 := l.bufWrite (bufKey 5 i) g.bytes r f.poisoned
  let l2 := l1.setSeg i fun g =>
    { g with bytes := g.bytes + r.length, frames := g.frames + 1, lastBeat := f.beat, lastAt := f.ingress,
             firstTs := if g.frames = 0 then f.stamp else g.firstTs, opened := if g.frames = 0 then f.ingress else g.opened,
             poison := g.poison || f.poisoned, island := g.island || l.rd .STATE_1240 g.stream == streamRetaining }
  (((l2.count .FRAMES_KEPT 1 g.stream).count .BYTES_KEPT n g.stream).blk 18 .eventsOut 1 f.port f.tc g.tn).blk 18 .bytesOut
    r.length f.port f.tc g.tn

/-- A keep copy reaches Flannel (R467). -/
def Live.keepCopy (l0 : Live) (f : Frame) : Live :=
  let s := 2 * f.port + wKeepSlot f.word
  let n := l0.streamTn s
  let l := (l0.blk 18 .eventsIn 1 f.port f.tc n).blk 18 .bytesIn (f.bytes.length - 4) f.port f.tc n
  if ¬ streamWrites (l.rd .STATE_1240 s) ∨ f.tn ≠ n then l.keepDiscard f s
  else
    let l1 := match l.openSeg s with
      | some i => if segSize < (l.seg i).bytes + recordSize (f.bytes.length - 4) then l.closeSeg i else l
      | none => l
    match l1.openSeg s with
    | some i => l1.append i f
    | none =>
      match l1.segBuffer n with
      | (none, l2) => l2.keepDiscard f s
      | (some h, l2) =>
        let i := handleIndex h
        (l2.setSeg i fun _ =>
          ({ stream := s, tn := n, state := segOpen, firstBeat := f.beat, handle := h, opened := f.ingress } : Segment)).append
            i f

/-- Port K hands a keep copy to Flannel. -/
def execKeepCopy (at_ : Nat) (linkError : Option (Fin 8)) (s : State) : Host.Outcome State Fault Refusal :=
  s.effect fun l =>
    if l.portServed 53 then
      let l1 := match (l.at at_).takeFrom 53 with
        | (some f, l1) => l1.keepCopy f
        | (none, l1) => l1
      match linkError with
      | some q => l1.linkMemoryError 53 q.val
      | none => l1
    else l

/-- A segment is 480,000 beats old (R471). -/
def Live.segmentsAge (l : Live) : Live :=
  if l.mode.running then
    let due := l.segsWhere fun g => g.state == segOpen && g.opened + 480000 ≤ l.ticks
    if due.isEmpty then l else (l.forL due Live.closeSeg).commitIndex
  else l

def execSegmentAgeClose (s : State) : Host.Outcome State Fault Refusal :=
  s.effect Live.segmentsAge

/-! ### Pre-roll (R473, R474) -/

/-- Streams whose pre-roll rolls. -/
def Live.rolls (l : Live) (s : Nat) : Bool :=
  l.rd .STATE_1240 s == streamRolling || l.rd .STATE_1240 s == streamDraining

/-- The pre-roll segments of a stream, the oldest first. -/
def Live.prerollOf (l : Live) (s : Nat) : List Nat :=
  sortBy (fun i => (l.seg i).firstBeat) (l.segsWhere fun g => g.stream == s && g.state == segPreroll)

/-- Phase 8 frees what has aged out of the pre-roll, once its record has committed (R472). -/
def Live.prerollAge (l : Live) : Live :=
  if l.mode.running then
    l.forL ((List.range 96).filter l.rolls) fun l st =>
      l.forL ((l.prerollOf st).filter fun i => (l.seg i).committed && (l.seg i).lastAt + 8000 * l.rd .PREROLL_S st < l.ticks) fun l i =>
        (l.count .PREROLL_FREED 1 st).freeSeg i
  else l

def execPrerollFree (s : State) : Host.Outcome State Fault Refusal :=
  s.effect Live.prerollAge

/-- Phase 8 sheds the oldest pre-roll segment of each stream under back-pressure (R474). -/
def Live.shedPreroll (l : Live) : Live :=
  if l.mode.running ∧ (l.rdB .BACK_PRESSURE 5 ∨ l.rdB .BACK_PRESSURE 2) then
    l.forL ((List.range 96).filter l.rolls) fun l st =>
      match l.prerollOf st with
      | i :: _ =>
        let n := (l.seg i).tn
        (((l.count .PREROLL_SHED 1 st).blk 18 .signalB 1 (st / 2) 0 n).mark 457 [] n).freeSeg i
      | [] => l
  else l

/-! ### Uplink health (R475 to R480) -/

/-- UPLINK_LOST becomes active (R479). -/
def Live.retainStart (l : Live) : Live :=
  let l1 := l.forL ((List.range 96).filter l.rolls) fun l s =>
    let l1 := l.closeOpen s
    if l1.rdB .ISLAND_KEEP s then
      l1.forL (l1.segsWhere fun g => g.stream == s && g.state == segPreroll) fun l i =>
        l.setSeg i fun g => { g with state := segRetained, fromPreroll := true }
    else l1
  let l2 := (l1.setFlannel fun x => { x with lost := true }).wr .LOST_SINCE l.now
  let l3 := (l2.recoveryStart 6 0 0xFF).refreshStreams
  let n := ((List.range 96).filter fun s => l3.rd .STATE_1240 s == streamRetaining).length
  l3.raise 453 (u32 n)

/-- UPLINK_LOST becomes inactive (R480). -/
def Live.retainEnd (l : Live) : Live :=
  let l1 := l.forL ((List.range 96).filter fun s => l.rd .STATE_1240 s == streamRetaining) fun l s => l.closeOpen s
  let l2 := l1.withdrawReturns fun g => g.offer == none
  ((l2.setFlannel fun x => { x with lost := false }).refreshStreams).recoveryDone 6 0

/-- UPLINK_LOST follows the two judgements. -/
def Live.uplinkEval (l : Live) : Live :=
  let lost := l.rd .PROBE_JUDGEMENT = 1 ∨ l.rd .LINK_JUDGEMENT = 1
  if lost ∧ ¬ l.flannel.lost then l.retainStart else if ¬ lost ∧ l.flannel.lost then l.retainEnd else l

/-- Phase 2 samples the link judgement. -/
def Live.judgeLinks (l : Live) : Live :=
  let up := (members 4 (l.rd .HEALTH_UPLINKS)).any fun u => l.rd .LINK_STATE_0401 (48 + u) == 3
  let was := l.rd .LINK_JUDGEMENT
  if ¬ l.mode.engineOn ∨ (was = 0 ∧ up) ∨ (was = 1 ∧ ¬ up) then l
  else ((l.wr .LINK_JUDGEMENT (if up then 0 else 1)).raise (if up then 452 else 451)).uplinkEval

/-- With PROBE_ENABLE 0 the probe judgement is HEALTHY (R475). -/
def Live.probeOff (l : Live) : Live :=
  if l.rdB .PROBE_ENABLE ∨ ¬ l.mode.engineOn then l
  else
    (((l.wr .PROBE_JUDGEMENT 0).wr .MISSES 0).wr .REPLIES 0).setFlannel (fun x =>
      { x with sendAt := none, beaten := false, replied := false, probeQueue := x.probeQueue.filter (· != .send) }) |>.uplinkEval

/-- The unit enters or leaves the running family: checks begin after its first beat (R500). -/
def Live.probeRun (l : Live) : Live :=
  l.setFlannel fun x =>
    { x with ranFrom := l.ticks, lastCheck := none, sendAt := none, beaten := false, replied := false,
             probeQueue := x.probeQueue.filter (· != .send) }

/-- Heartbeats have no source or no destination (R493). -/
def Live.probeBlind (l : Live) : Bool := l.rd .UNIT_IP == 0 || l.rd .COLLECTOR_IP == 0

/-- A heartbeat was answered, or not (R476). -/
def Live.probeJudge (l : Live) (replied : Bool) : Live :=
  let l1 := if replied then l.wr .MISSES 0 else (l.wr .MISSES (min 15 (l.rd .MISSES + 1))).raise 448
  let l2 :=
    if l1.rd .PROBE_JUDGEMENT = 0 then
      if ¬ replied ∧ l1.rd .LOST_MISSES ≤ l1.rd .MISSES then ((l1.wr .PROBE_JUDGEMENT 1).wr .REPLIES 0).raise 449 else l1
    else if replied then
      let l2 := l1.wr .REPLIES (min 15 (l1.rd .REPLIES + 1))
      if l2.rd .RESTORE_REPLIES ≤ l2.rd .REPLIES then (((l2.wr .PROBE_JUDGEMENT 0).wr .MISSES 0).wr .REPLIES 0).raise 450 else l2
    else l1.wr .REPLIES 0
  l2.uplinkEval

/-- A valid reply to the latest heartbeat (R477). -/
def Live.replyValid (l : Live) (port src : Nat) (payload : List Byte) : Bool :=
  isUplink port && 32 ≤ payload.length && fieldAt payload 0 1 == 0x13 && l.rd .PROBE_SEQ != 0
    && fieldAt payload 4 4 == l.rd .PROBE_SEQ && fieldAt payload 16 12 == l.rd .SERIAL && src == l.rd .COLLECTOR_IP

/-- A valid reply to the latest heartbeat has come, one that the engine carries included (R46, R476). -/
def Live.probeReplied (l : Live) : Bool :=
  l.flannel.replied || l.flannel.probeQueue.any fun w => match w with
    | .send => false
    | .reply port src payload _ => l.replyValid port src payload

/-- A check of the probe engine (R476). -/
def Live.heartbeatCheck (l : Live) : Live :=
  let due := l.mode.running && l.rdB .PROBE_ENABLE && l.elapsed % max 1 (l.rd .PROBE_INTERVAL) == 0
    && decide (l.flannel.ranFrom < l.ticks) && l.flannel.lastCheck != some l.ticks
  if !due then l
  else
    let l1 :=
      if l.flannel.lastCheck = none ∧ ¬ l.probeBlind then l
      else l.probeJudge (l.flannel.beaten && l.probeReplied && !l.probeBlind)
    let j := 1 + Config.generator 0 (l.rd .PROBE_JITTER) l.now 0 % (l.rd .PROBE_JITTER + 1)
    (l1.setFlannel fun x =>
      { x with lastCheck := some l.ticks, beaten := false, replied := false, sendAt := some (l.ticks + j) }).commitIndex

def execHeartbeatCheck (s : State) : Host.Outcome State Fault Refusal := s.effect Live.heartbeatCheck

/-- A UDP datagram of Flannel: its EtherType and packet (R478). -/
def Live.flannelUdp (l : Live) (dst sport dport : Nat) (payload : List Byte) : Nat × List Byte :=
  let v6 := l.rd .FAMILY == 1
  let src := if v6 then l.rd .UNIT_IP else l.rd .UNIT_IP % 2 ^ 32
  let d := if v6 then dst else dst % 2 ^ 32
  let seg := fun (c : Nat) => u16 sport ++ u16 dport ++ u16 (8 + payload.length) ++ u16 c ++ payload
  let c := pseudoChecksum v6 src d 17 (seg 0)
  let u := seg (if c = 0 then 0xFFFF else c)
  if v6 then (0x86DD, ipv6Packet src d 17 64 u) else (0x0800, ipv4Packet src d 17 64 u)

/-- A frame of Flannel enters through port K and is forwarded on its destination MAC (R308, R478). -/
def Live.flannelSend (l : Live) (tn vlan tc mac : Nat) (p : Nat × List Byte) : Live :=
  let bytes := ethernet mac (baseMac 0) p.1 p.2
  let f : Frame :=
    { bytes := bytes, word := wordOf tn vlan tc, port := 53, ingress := l.ticks, beat := l.now, stamp := l.nowNs }
  let o := l.forward { f := f, x := parse bytes }
  if o.1.input then o.2.admitEach o.1.item.f o.1.ports else o.2.enterFabric o.1.item.f o.1.ports

/-- A heartbeat goes out, where one can (R476, R477). -/
def Live.heartbeatOut (l : Live) : Live :=
  if ¬ l.mode.running ∨ l.rd .LINK_JUDGEMENT = 1 ∨ l.probeBlind then l
  else
    let seq := (l.rd .PROBE_SEQ + 1) % 2 ^ 32
    let st := l.flannel.lost.toNat * 128 + l.flannel.backlog.toNat * 64
    let payload := u8 0x12 ++ u8 st ++ u16 0 ++ u32 seq ++ u64 l.now ++ beBytes 12 (l.rd .SERIAL) ++ u32 0
    let l1 := (l.wr .PROBE_SEQ seq).setFlannel fun x => { x with beaten := true, replied := false }
    l1.flannelSend 0 (l.rd .PROBE_VLAN) 7 (l.rd .GATEWAY_MAC)
      (l.flannelUdp (l.rd .COLLECTOR_IP) (l.rd .PROBE_PORT) (l.rd .COLLECTOR_PORT) payload)

/-- A datagram to PROBE_PORT is checked: a valid reply tells its ingress beat and HOLD_BACKFILL (R477). -/
def Live.replyCheck (l : Live) (port src : Nat) (payload : List Byte) (beat : Nat) : Live :=
  if l.replyValid port src payload then
    (l.wr .LAST_REPLY_BEAT beat).setFlannel fun x =>
      { x with replied := true, holdBackfill := bit (fieldAt payload 1 1) 7 }
  else l.count .REPLIES_IGNORED

/-- The probe engine does one piece of work, its work of this beat (R45). -/
def Live.probeDo (l : Live) (w : ProbeWork) : Live :=
  let l1 := l.setFlannel fun x => { x with probed := some l.ticks }
  match w with
  | .send => l1.heartbeatOut
  | .reply port src payload beat => l1.replyCheck port src payload beat

/-- Work for the probe engine: done at once where it has done none in this beat and carries none, else carried (R45, R46). -/
def Live.probeWork (l : Live) (w : ProbeWork) : Live :=
  if l.flannel.probed = some l.ticks ∨ l.flannel.probeQueue ≠ [] then
    l.setFlannel fun x => { x with probeQueue := x.probeQueue ++ [w] }
  else l.probeDo w

/-- Phase 8: the oldest carried work of the probe engine is served first (R46). -/
def Live.probeBeat (l : Live) : Live :=
  match l.flannel.probeQueue with
  | [] => l
  | w :: rest => if l.mode.engineOn then (l.setFlannel fun x => { x with probeQueue := rest }).probeDo w else l

/-- The heartbeat that a check scheduled goes out (R476, R477). -/
def execHeartbeatSend (at_ : Nat) (s : State) : Host.Outcome State Fault Refusal :=
  s.effect fun l =>
    match l.flannel.sendAt with
    | none => l
    | some t =>
      if ¬ l.mode.running ∨ l.ticks < t then l
      else ((l.at at_).setFlannel fun x => { x with sendAt := none }).probeWork .send

/-- A datagram to UNIT_IP at PROBE_PORT (R477). -/
def execProbeReply (port : Fin 56) (src : Nat) (payload : List Byte) (s : State) : Host.Outcome State Fault Refusal :=
  s.effect fun l => if l.mode.engineOn then l.probeWork (.reply port.val src payload l.now) else l

/-! ### Index records (R472) -/

/-- FLAGS of a record. -/
def Segment.flags (g : Segment) : Nat :=
  g.poison.toNat + 2 * g.crcBad.toNat + 4 * g.reoffered.toNat + 8 * g.resent.toNat + 16 * g.fromPreroll.toNat
    + 32 * g.kept.toNat

/-- An index record; before its commit only five fields hold values. -/
def Segment.record (g : Segment) : List Byte :=
  if g.state = segFree then List.replicate 64 0
  else
    let head := u16 g.stream ++ u8 g.tn ++ u8 g.state
    if g.committed then
      head ++ u32 g.flags ++ u64 g.firstBeat ++ u64 g.lastBeat ++ u64 g.firstTs ++ u32 g.bytes ++ u32 g.frames ++ u32 g.crc
        ++ u32 g.firstSeq ++ u32 g.datagrams ++ u32 g.handle ++ u64 g.closeBeat
    else head ++ u32 0 ++ u64 g.firstBeat ++ List.replicate 36 0 ++ u32 g.handle ++ u64 0

/-! ### Return to the host (R483, R484, R613 to R615) -/

/-- Segments that a tenancy may return next, in return order: highest PRIORITY, oldest, lowest stream. -/
def Live.returnOrder (l : Live) (n : Nat) : List Nat :=
  let cs := l.segsWhere fun g => g.tn == n && g.state == segRetained && g.committed
  let by1 := sortBy (fun i => (l.seg i).stream) cs
  let by2 := sortBy (fun i => (l.seg i).firstBeat) by1
  sortBy (fun i => 7 - l.rd .PRIORITY_1240 (l.seg i).stream) by2

/-- A segment is read for return: a CRC mismatch marks its record (R499). -/
def Live.checkCrc (l : Live) (i : Nat) : Live :=
  let g := l.seg i
  if ¬ g.crcBad ∧ crc32 (l.bufRead (bufKey 5 i) 0 g.bytes) ≠ g.crc then
    (l.setSeg i fun g => { g with crcBad := true }).raise 464 (u16 g.stream ++ u8 g.tn ++ u32 g.handle) g.tn
  else l

/-- The completion entry of an offer (R615). -/
def offerEntry (record : List Byte) (addr handle len kind : Nat) (poison reoffered : Bool) (beat : Nat) : List Byte :=
  record ++ leBytes 8 addr ++ leBytes 4 handle ++ leBytes 4 len ++ leBytes 1 kind ++
    leBytes 1 (poison.toNat + 2 * reoffered.toNat) ++ List.replicate 6 0 ++ leBytes 8 beat ++ List.replicate 32 0

/-- Offers outstanding to a function. -/
def Live.offersTo (l : Live) (f : Nat) : Nat :=
  (l.segsWhere fun g => (g.offer.map Prod.fst) == some f).length
    + (l.flannel.blocks.filter fun b => (b.offer.map Prod.fst) == some f).length

/-- The function's oldest posted buffer takes what is offered. -/
def Live.offerOut (l : Live) (f handle len kind : Nat) (record : List Byte) (reoffered : Bool) : Live :=
  let key := handleKey handle
  let poison := (l.buf key).poisoned 0 len
  let addr := (l.fn f).buffers.headD 0
  let l1 := (l.share 0 handle (8 + f) false).2
  let l2 := l1.setFn f fun x => { x with buffers := x.buffers.drop 1 }
  (l2.cqOwed f 8 (offerEntry record addr handle len kind poison reoffered l.now) (l.bufRead key 0 len) true).poisonToHost f poison

/-- One offer to a function: an export block first, then a segment in return order. -/
def Live.drainOffer (l : Live) (f : Nat) : Live :=
  let may := l.mode.running && l.ringWorks f 8 && (l.fn f).flr == none && (l.fn f).buffers != [] && l.tnActive f
    && decide (l.offersTo f < l.rd .DRAIN_WINDOW 0 0 f)
  if !may then l
  else
    match l.flannel.blocks.find? fun b => b.tn == f && b.handle != 0 && b.offer == none with
    | some b =>
      (l.offerOut f b.handle b.length 1 (List.replicate 64 0) b.reoffered).setFlannel fun x =>
        { x with blocks := x.blocks.map fun (c : ExportBlock) => if c = b then { c with offer := some (f, l.ticks) } else c }
    | none =>
      if l.returnPath f ≠ 1 then l
      else
        match l.returnOrder f with
        | [] => l
        | i :: _ =>
          let l1 := l.checkCrc i
          let g := l1.seg i
          (l1.offerOut f g.handle g.bytes 0 g.record g.reoffered).setSeg i fun g =>
            { g with state := segReturning, offer := some (f, l.ticks) }

def execDrainOffer (f : Fin 8) (s : State) : Host.Outcome State Fault Refusal := s.effect fun l => l.drainOffer f.val

/-- A segment has been returned and acknowledged (R484, R486). -/
def Live.returned (l : Live) (i : Nat) : Live :=
  let g := l.seg i
  (((l.count .SEGMENTS_RETURNED 1 g.stream).count .RETURNED 1 0 0 g.tn).freeSeg i).refreshStreams

/-- Whether an acknowledgement names a segment offered to a function. -/
def ackNames (f : Nat) (e : List Byte) (g : Segment) : Bool :=
  g.state == segReturning && (g.offer.map Prod.fst) == some f && g.handle == leAt e 4 4 && g.closeBeat == leAt e 8 8

/-- An export block has been acknowledged; with the last one the export is done (R490). -/
def Live.blockReturned (l : Live) (b : ExportBlock) : Live :=
  let key := handleKey b.handle
  let l1 := match b.offer with
    | some (f, _) => if (l.buf key).owners.contains (8 + f) then l.dropOwner key (8 + f) else l
    | none => l
  let l2 := (if (l1.buf key).owners.contains 0 then l1.dropOwner key 0 else l1).setFlannel fun x =>
    { x with blocks := x.blocks.filter fun c => c != b }
  if l2.flannel.blocks.any fun c => c.tn == b.tn then l2 else (l2.wrB .EXPORT_BUSY false 0 0 b.tn).raise 460 [] b.tn

/-- The host acknowledgement taken first, in an earlier beat, commits (R484, R614). -/
def Live.drainAck (l : Live) (f : Nat) : Live :=
  match (l.ring f 8).taken.find? fun e => drainOp e.2 == 2 && decide (e.1 < l.ticks) with
  | some (t, e) =>
    if ¬ l.mode.running then l
    else
      let l1 := l.setRing f 8 fun r => { r with taken := r.taken.erase (t, e) }
      match (l1.segsWhere (ackNames f e)).head? with
      | some i => l1.returned i
      | none =>
        match l1.flannel.blocks.find? fun b => (b.offer.map Prod.fst) == some f && b.handle == leAt e 4 4 && leAt e 8 8 == 0 with
        | some b => l1.blockReturned b
        | none => l1
  | none => l

def execDrainAck (f : Fin 8) (s : State) : Host.Outcome State Fault Refusal := s.effect fun l => l.drainAck f.val

/-- Every acknowledgement of an earlier beat commits before what a commit phase does to its segment (R489, R498, R632). -/
def Live.drainAcks (l : Live) : Live := l.forN 8 fun l f => l.forL (l.ring f 8).taken fun l _ => l.drainAck f

/-- A commit changed a tenancy's RETURN_PATH, after the acknowledgements of phase 2 (R489). -/
def Live.pathChanged (l : Live) (n : Nat) : Live := (l.drainAcks.withdrawReturns fun g => g.tn == n).refreshStreams

/-- Whether an offer of the machine has waited DRAIN_ACK_TIMEOUT, with no acknowledgement of an earlier beat (R484). -/
def Live.offerLate (l : Live) (n handle close : Nat) (offer : Option (Nat × Nat)) : Bool :=
  match offer with
  | some (f, t) =>
    decide (t + l.rd .DRAIN_ACK_TIMEOUT 0 0 n ≤ l.ticks)
      && !((l.ring f 8).taken.any fun e =>
        drainOp e.2 == 2 && decide (e.1 < l.ticks) && handle == leAt e.2 4 4 && close == leAt e.2 8 8)
  | none => false

/-- Offers that waited too long are withdrawn (R484). -/
def Live.drainLate (l : Live) : Live :=
  if ¬ l.mode.engineOn then l
  else
    let l1 := l.forL (l.segsWhere fun g => l.offerLate g.tn g.handle g.closeBeat g.offer) fun l i =>
      (l.withdrawReturn i).raise 458 [] (l.seg i).tn
    l1.forL (l1.flannel.blocks.filter fun b => l1.offerLate b.tn b.handle 0 b.offer) fun l b =>
      (l.withdrawBlock b).raise 458 [] b.tn

def execFlnDrainTimeout (s : State) : Host.Outcome State Fault Refusal :=
  s.effect Live.drainLate

/-! ### Return over the network (R485 to R487) -/

/-- The frame records of a segment's data. -/
def recordsOf : Nat → List Byte → List (List Byte)
  | 0, _ => []
  | n + 1, bs =>
    let len := fieldAt bs 0 2
    if len = 0 then [] else bs.take (16 + len) :: recordsOf n (bs.drop (recordSize len))

/-- A list in pieces of at most `n` bytes. -/
def piecesOf (n : Nat) : Nat → List Byte → List (List Byte)
  | 0, _ => []
  | fuel + 1, bs => if bs.isEmpty then [] else bs.take n :: piecesOf n fuel (bs.drop n)

/-- A datagram of a segment: FIRST_PIECE, LAST_PIECE, POISON, the frame's beat, and the piece. -/
structure Datagram where
  first : Bool
  last : Bool
  poison : Bool
  beat : Nat
  piece : List Byte
deriving DecidableEq, Repr, Inhabited

/-- The datagrams of a record. -/
def datagramsOf (size firstBeat : Nat) (r : List Byte) : List Datagram :=
  let ps := piecesOf size (r.length + 1) r
  (List.range ps.length).map fun k =>
    { first := k == 0, last := k + 1 == ps.length, poison := bit (fieldAt r 2 1) 7,
      beat := (firstBeat + fieldAt r 4 4) % 2 ^ 64, piece := ps.getD k [] }

/-- The datagrams of a segment. -/
def Live.datagrams (l : Live) (i : Nat) : List Datagram :=
  let g := l.seg i
  (recordsOf g.frames (l.bufRead (bufKey 5 i) 0 g.bytes)).flatMap (datagramsOf (max 1 g.piece) g.firstBeat)

/-- BF_VLAN belongs to the tenancy (R178, R493). -/
def Live.backfillVlan (l : Live) (n : Nat) : Bool := l.vidOwner (l.rd .BF_VLAN 0 0 n) == n

/-- RETURNING to the collector. -/
def Segment.sends (g : Segment) : Bool := g.state == segReturning && g.offer == none

/-- The next segment to send: a repeat that is due, else the next tenancy's turn (R486, R487). -/
def Live.nextSend (l : Live) : Option Nat :=
  match (l.segsWhere fun g => g.sends && g.sentAt == none && l.backfillVlan g.tn).head? with
  | some i => some i
  | none =>
    let may := fun (n : Nat) => l.returnPath n == 2 && l.tnActive n && l.backfillVlan n
      && decide ((l.segsWhere fun g => g.tn == n && g.sends).length < l.rd .BACKFILL_WINDOW) && l.returnOrder n != []
    match ((List.range 8).map fun k => (l.flannel.turn + 1 + k) % 8).find? may with
    | some n => (l.returnOrder n).head?
    | none => none

/-- The sender takes up a segment (R485). -/
def Live.beginSend (l0 : Live) (i : Nat) : Live :=
  let l := l0.checkCrc i
  let g := l.seg i
  let l1 :=
    if g.datagrams = 0 then
      let l1 := l.setSeg i fun g => { g with piece := l.rd .BACKFILL_PIECE }
      let n := (l1.datagrams i).length
      (l1.setSeg i fun g => { g with firstSeq := l.rd .NEXT_SEQ g.stream, datagrams := n }).wr .NEXT_SEQ
        ((l.rd .NEXT_SEQ g.stream + n) % 2 ^ 32) g.stream
    else l.setSeg i fun g => { g with resent := true }
  (l1.setSeg i fun g => { g with state := segReturning, sent := 0, sentAt := none }).setFlannel fun x =>
    { x with sending := some i, turn := if g.sends then x.turn else g.tn }

/-- One maximal datagram on the wire, in bits (R487). -/
def Live.maxDatagram (l : Live) : Nat :=
  8 * (16 + l.rd .BACKFILL_PIECE + 8 + (if l.rd .FAMILY = 1 then 40 else 20) + 18 + 4 + 20)

/-- The shaper's credit. -/
def Live.backfillCredit (l : Live) : Int := l.flannel.credit.getD l.maxDatagram

/-- Phase 6 refills the backfill shaper (R487). -/
def Live.backfillRefill (l : Live) : Live :=
  if ¬ l.mode.running then l
  else
    let rate := match (members 4 (l.rd .HEALTH_UPLINKS)).find? fun u => l.rd .LINK_STATE_0401 (48 + u) == 3 with
      | some u => l.rd .LINK_SPEED_0401 (48 + u) * 125 * l.rd .BACKFILL_PCT / 100
      | none => 0
    l.setFlannel fun x => { x with credit := some (match x.credit with
      | some c => min c (l.maxDatagram : Int) + rate
      | none => l.maxDatagram) }

/-- One datagram of the segment that is being sent (R485). -/
def Live.sendDatagram (l : Live) (i : Nat) : Live :=
  let g := l.seg i
  match (l.datagrams i)[g.sent]? with
  | none => l.setFlannel fun x => { x with sending := none }
  | some d =>
    let lastOne := g.sent + 1 == g.datagrams
    let flags := (g.sent == 0).toNat * 128 + lastOne.toNat * 64 + d.first.toNat * 32 + d.last.toNat * 16 + d.poison.toNat * 8
      + g.resent.toNat * 4
    let payload := u8 0x10 ++ u8 flags ++ u16 g.stream ++ u32 ((g.firstSeq + g.sent) % 2 ^ 32) ++ u64 d.beat ++ d.piece
    let p := l.flannelUdp (l.rd .BF_DEST_IP 0 0 g.tn) (l.rd .BF_PORT_BASE + g.tn) (l.rd .BF_DEST_PORT 0 0 g.tn) payload
    let w := 8 * (max 60 (14 + p.2.length) + 4 + 4 + 20)
    let l1 := l.setSeg i fun g => { g with sent := g.sent + 1, sentAt := if lastOne then some l.ticks else none }
    let l2 := l1.setFlannel fun x =>
      { x with credit := some (l.backfillCredit - w), sending := if lastOne then none else some i }
    l2.flannelSend g.tn (l.rd .BF_VLAN 0 0 g.tn) 1 (l.rd .BF_GATEWAY_MAC 0 0 g.tn) p

/-- The backfill sender sends one datagram, where its shaper lets it (R485, R487). -/
def Live.backfillSend (l : Live) : Live :=
  if ¬ l.mode.running ∨ l.flannel.lost ∨ l.flannel.holdBackfill ∨ l.backfillCredit < 0 then l
  else
    match l.flannel.sending with
    | some i => if l.backfillVlan (l.seg i).tn then l.sendDatagram i else l
    | none =>
      match l.nextSend with
      | some i => (l.beginSend i).sendDatagram i
      | none => l

def execBackfillSend (at_ : Nat) (s : State) : Host.Outcome State Fault Refusal :=
  s.effect fun l => if l.mode.running then (l.at at_).backfillSend else l

/-- An ACK takes effect (R486). -/
def Live.backfillAck (l : Live) (n : Nat) (payload : List Byte) : Live :=
  let good := 16 ≤ payload.length && fieldAt payload 0 1 == 0x11
  let names := fun (g : Segment) => g.tn == n && g.sends && g.datagrams != 0 && g.stream == fieldAt payload 2 2
    && (g.firstSeq + g.datagrams - 1) % 2 ^ 32 == fieldAt payload 4 4
  match (if good then (l.segsWhere names).head? else none) with
  | some i => l.returned i
  | none => l.count .ACKS_IGNORED

/-- Phase 8 of the boundary after their ingress beat: ACKs take effect (R486). -/
def Live.backfillAcks (l : Live) : Live :=
  if l.mode.running then
    (l.forL l.flannel.acks fun l a => l.backfillAck a.1 a.2).setFlannel fun x => { x with acks := [] }
  else l.setFlannel fun x => { x with acks := [] }

/-- An ACK of the collector arrives: it takes effect in phase 8 of the boundary that ends this beat (R486). -/
def execBackfillAck (n : Fin 8) (payload : List Byte) (s : State) : Host.Outcome State Fault Refusal :=
  s.effect fun l =>
    if l.mode.running then l.setFlannel fun x => { x with acks := x.acks ++ [(n.val, payload)] } else l

/-- Segments whose ACK has not come are sent again (R486). -/
def Live.backfillLate (l : Live) : Live :=
  if ¬ l.mode.running then l
  else
    let late := fun (g : Segment) => g.sends && (match g.sentAt with
      | some t => decide (t + l.rd .BACKFILL_ACK_TIMEOUT ≤ l.ticks)
      | none => false)
    l.forL (l.segsWhere late) fun l i =>
      (l.setSeg i fun g => { g with sent := 0, sentAt := none, resent := true }).raise 459 [] (l.seg i).tn

def execFlnBackfillTimeout (s : State) : Host.Outcome State Fault Refusal :=
  s.effect Live.backfillLate

/-! ### Index export (R490) -/

/-- Lists of at most `n` elements. -/
def chunks {α : Type} (n : Nat) : Nat → List α → List (List α)
  | 0, _ => []
  | fuel + 1, xs => if xs.isEmpty then [] else xs.take n :: chunks n fuel (xs.drop n)

/-- The records of a tenancy are captured from a machine `m` and packed into blocks. -/
def Live.indexExport (l m : Live) (n : Nat) : Live :=
  if l.rdB .EXPORT_BUSY 0 0 n then l
  else
    let rs := ((m.flannel.segs.filter fun e => e.2.tn == n && e.2.state != segFree).map fun e => e.2.record)
    let cs := chunks 1023 (rs.length + 1) rs
    let block := fun (k : Nat) =>
      ({ tn := n, number := k,
         bytes := u32 0x464C4958 ++ u16 (cs.getD k []).length ++ u16 k ++ u64 l.now ++ (cs.getD k []).flatten } : ExportBlock)
    if cs.isEmpty then l.raise 460 [] n
    else (l.setFlannel fun x => { x with blocks := x.blocks ++ (List.range cs.length).map block }).wrB .EXPORT_BUSY true 0 0 n

/-- Modes in which the command acts: those of the dictionary's commits, less FREEZE where Flannel does not change (R491). -/
def execIndexExport (n : Fin 8) (s : State) : Host.Outcome State Fault Refusal :=
  s.effect fun l => if l.mode.engineOn then l.indexExport s.start n.val else l

/-- Exports whose commands committed at the boundary that ends (R490). -/
def Live.exportsAsked (l : Live) : Live :=
  (l.forL (members 8 l.flannel.exportAsked) fun l n => l.indexExport l n).setFlannel fun x => { x with exportAsked := 0 }

/-! ### Purge and zero-fill (R494, R399) -/

/-- PURGE of a stream. -/
def Live.purge (l0 : Live) (s : Nat) : Live :=
  let l := l0.drainAcks
  let is := l.segsWhere fun g => g.stream == s
  let l1 := (l.setFlannel fun x =>
    { x with purging := setBit x.purging s true,
             purgeKeys := x.purgeKeys ++ is.map fun i => (s, bufKey 5 i) }).refreshStreams
  let is1 := l1.segsWhere fun g => g.stream == s
  (l1.forL is1 fun l i => (l.withdrawReturn i).freeSeg i).refreshStreams

def execPurge (s : Fin 96) (st : State) : Host.Outcome State Fault Refusal :=
  st.effect fun l => if l.mode.engineOn then l.purge s.val else l

/-- Purges whose last zero-fill has ended (R494). -/
def Live.purgesDone (l : Live) : Live :=
  l.forL ((members 96 l.flannel.purging).filter fun s => !(l.flannel.purgeKeys.any fun e => e.1 == s)) fun l s =>
    (l.setFlannel fun x => { x with purging := setBit x.purging s false }).refreshStreams.raise 461 [] (l.streamTn s)

/-- A buffer's zero-fill ends. -/
def Live.fillDone (l : Live) (key : Nat) : Live :=
  let waited := l.flannel.purgeKeys.any fun e => e.2 == key
  let l1 := (l.zeroFilled key).setFlannel fun x => { x with purgeKeys := x.purgeKeys.filter fun e => e.2 != key }
  if waited then l1.purgesDone else l1

def execZeroFillDone (pool : Fin 6) (index : Nat) (s : State) : Host.Outcome State Fault Refusal :=
  s.effect fun l =>
    let key := bufKey pool.val index
    if index < poolCount pool.val ∧ l.fillDue key ∧ l.mode ≠ .freeze then l.fillDone key else l

/-! ### Modes, wipes and restarts (R135, R180, R491, R492) -/

/-- Entry to DORMANT or LISTEN, and the start of a restart: open segments close and every record commits. -/
def Live.flannelHalt (l : Live) : Live := (l.forN 96 Live.closeOpen).commitAll

/-- The returns of a tenancy that is wiped are withdrawn, and its streams become PURGED (R180). -/
def Live.flannelWipeStart (l : Live) (n : Nat) : Live := (l.withdrawReturns fun g => g.tn == n).refreshStreams

/-- Every segment and export block of a tenancy is freed. -/
def Live.flannelWipe (l : Live) (n : Nat) : Live :=
  let l1 := l.forL (l.segsWhere fun g => g.tn == n) Live.freeSeg
  let l2 := l1.forL (l1.flannel.blocks.filter fun b => b.tn == n) fun l b =>
    let l1 := l.withdrawBlock b
    if b.handle ≠ 0 ∧ (l1.buf (handleKey b.handle)).owners.contains 0 then l1.dropOwner (handleKey b.handle) 0 else l1
  ((l2.setFlannel fun x => { x with blocks := x.blocks.filter fun b => b.tn != n }).wrB .EXPORT_BUSY false 0 0 n).refreshStreams

/-- A restart: with `keep`, closed segments stay under new handles, their offers and sends withdrawn; otherwise nothing
stays (R408, R492). -/
def Live.flannelRestart (l : Live) (keep : Bool) : Live :=
  let l1 := (l.flannelHalt).withdrawReturns fun _ => true
  if keep then
    let segs : Tbl Segment := l1.flannel.segs.map fun e => (e.1, { e.2 with kept := true, handle := handleOf 5 1 e.1 })
    let bufs : Tbl Buf := segs.foldl (fun (t : Tbl Buf) e =>
      let b := l1.buf (bufKey 5 e.1)
      t.put (bufKey 5 e.1) { gen := 1, owners := [0], final := 0, tn := e.2.tn, data := b.data, poison := b.poison }) []
    { l1 with flannel := { segs := segs, backlog := l1.flannel.backlog }, bpm := { bufs := bufs } }
  else { l1 with flannel := {}, bpm := {} }

/-- Level conditions of Flannel: 462 (R493). -/
def Live.flannelLevels (l : Live) : List (Nat × Nat × List Byte) :=
  ((List.range 8).filter fun n => l.tnActive n && l.returnPath n == 2 && !l.backfillVlan n).map fun n => (462, n, [])

end Sys2Proof.Machine
end

