-- ==== Sys2Proof/Machine/HostReset.lean ====
section
/-! DEFINITION. Function-level reset, loss of the PCIe link, and the endpoint across restarts (R626, R627, R634). -/

namespace Sys2Proof.Machine

open Sys2Proof

/-- A function-level reset starts: the function goes absent, and what it had not wholly sent is discarded. -/
def Live.flrStart (l : Live) (f : Nat) : Live :=
  if (l.fn f).flr ≠ none then l
  else
    let l1 := if (l.fn f).present then (l.wrB .PRESENT false f).raise 579 (u8 f) (fnTn f) else l
    let n := sumOf (fun k => (l.ring f k).taken.length) [4, 5, 6, 7]
    let l2 := ((l1.recoveryStart 2 f (fnTn f)).count .H_TX_ABORTED n f).count .RX_OVERFLOW_DROPS n 54
    let l3 := l2.forL [4, 5, 6, 7, 9, 10] fun l k => l.setRing f k fun r => { r with taken := [] }
    (l3.setFn f fun x => { x with present := false, flr := some l.ticks, cleaned := false }).raise 581 (u8 f) (fnTn f)

/-- A reset of a function; the PF's clears VF Enable and resets every VF. -/
def Live.flrOf (l : Live) (f : Nat) : Live :=
  if f = 0 then
    let l1 := ((List.range 8).foldl (fun (l : Live) g => l.setFn g fun x => { x with vfEnable := false }) l).wr .NUM_VFS 0
    l1.forN 8 Live.flrStart
  else l.flrStart f

def execFlrStart (f : Fin 8) (s : State) : Host.Outcome State Fault Refusal :=
  s.effect fun l => if l.host.up then l.flrOf f.val else l

/-- The phase-3 part of a reset, at boundary w + 1: acknowledgements of phase 2 come first (R632). -/
def Live.flrCleanup (l : Live) (f : Nat) : Live :=
  match (l.fn f).flr with
  | none => l
  | some t =>
    if (l.fn f).cleaned ∨ l.ticks ≤ t then l
    else
      let l1 := ((l.drainAcks).withdrawMaster (functionRank f)).setMbx f fun _ => {}
      let l2 := (l1.forcedRelease (8 + f)).jobsStop (2 + f)
      ((l2.loadsCut f).offersCut f).setFn f fun x => { x with cleaned := true }

def execFlrCleanup (f : Fin 8) (s : State) : Host.Outcome State Fault Refusal := s.effect fun l => l.flrCleanup f.val

/-- The event route of the PF returns to its reset value with the PF: bit 0 of each source's ROUTES. The bit of a VF's route is
shared by every VF and stays (DEDUCED, log 138). -/
def Live.routesReset (l : Live) (f : Nat) : Live :=
  if f ≠ 0 then l
  else l.forN 640 fun l src =>
    let v := l.srcConfig src
    let d := Obj.SOURCE_CONFIG.defaultAt (src / 32) (src % 32) 0
    if bit v 56 = bit d 56 then l else (l.wr .SOURCE_CONFIG (setBit v 56 (bit d 56)) (src / 32) (src % 32)).markDirty

/-- A reset completes at boundary w + 9. -/
def Live.flrDone (l : Live) (f : Nat) : Live :=
  match (l.fn f).flr with
  | none => l
  | some t =>
    if ¬ (l.fn f).cleaned ∨ l.ticks < t + 9 then l
    else
      let l1 := l.setFn f fun x => { resetDone := true, journalSeq := x.journalSeq, vfEnable := x.vfEnable }
      let l2 := ((l1.routesReset f).setBpm fun x => { x with results := x.results.del (8 + f) }).restartSeq (functionRank f)
      ((l2.count .FLR_COUNT 1 f).raise 582 (u8 f) (fnTn f)).recoveryDone 2 f |>.journalRecoveries

def execFlrDone (f : Fin 8) (s : State) : Host.Outcome State Fault Refusal := s.effect fun l => l.flrDone f.val

/-- The link leaves DL_Active: every function is reset (R627). -/
def Live.pcieDown (l : Live) : Live :=
  if ¬ l.host.up then l
  else
    let l1 := (l.setHost fun h => { h with up := false }).wr .LINK_STATE_1600 0
    let l2 := ((l1.wr .LINK_SPEED_1600 0).wr .LINK_WIDTH 0).wr .H_RATE 0
    (l2.raise 577).flrOf 0

def execPcieLinkDown (s : State) : Host.Outcome State Fault Refusal := s.effect Live.pcieDown

/-- A restart: every function is absent, every ring disabled and quiesced, every journal empty (R634). -/
def Live.hostRestart (l : Live) : Live :=
  let l1 := l.pcieDown
  let l2 := l1.forN 8 fun l f =>
    (l.setFn f fun x => { journalSeq := x.journalSeq }).wrB .PRESENT false f
  (l2.setHost fun h => { h with loads := [], loadAt := [], marks := [] }).forN 8 fun l f => l.setMbx f fun _ => {}

end Sys2Proof.Machine
end

