-- ==== Sys2Proof/Machine/Dram.lean ====
section
/-! DEFINITION. The DRAM controller: alerts, replay, freeze, uncorrectable bursts, panic, refresh, self-refresh, scrub, error
log, diagnostic read (spec/15_dram.md).  The slots of a channel and the commands whose timing lets them issue are inputs; which of
them issues is R509's choice, made here.  What the controller measures of itself comes with the boundary's inputs too (R515). -/

namespace Sys2Proof.Machine

open Sys2Proof

/-- Effective DRAM shares (R173). -/
def Live.dramShare (l : Live) (n : Nat) : Nat :=
  let set := fun (m : Nat) => if m ≠ 0 ∧ l.tnActive m then l.rd .DRAM_SHARE m else 0
  let sum := sumOf set (List.range 8)
  let eff := fun (m : Nat) => if 90 < sum then set m * 90 / sum else set m
  if n = 0 then 100 - sumOf eff (List.range 8) else eff n

def chActive := 0
def chSelfRefresh := 1
def chReplaying := 2
def chFrozen := 3
def chUntrained := 4

def Live.setDram (l : Live) (f : Dram → Dram) : Live := { l with dram := f l.dram }
def Live.channel (l : Live) (c : Nat) : Channel := if c = 0 then l.dram.ch0 else l.dram.ch1
def Live.setChannel (l : Live) (c : Nat) (f : Channel → Channel) : Live :=
  l.setDram fun d => if c = 0 then { d with ch0 := f d.ch0 } else { d with ch1 := f d.ch1 }
def Live.chState (l : Live) (c : Nat) : Nat := l.rd .STATE_1302 c
def Live.chTo (l : Live) (c st : Nat) : Live := l.wr .STATE_1302 st c
def Live.chIs (l : Live) (st : Nat) : Bool := l.chState 0 == st || l.chState 1 == st

/-! ### The error log (R528) -/

/-- An entry of the log. -/
def DramError.bytes (e : DramError) : List Byte :=
  let p := e.place
  u64 e.beat ++ u8 e.kind ++ u8 p.channel ++ u8 p.rank ++ u8 p.bank ++ u32 p.row ++ u16 p.column ++ u8 p.port
    ++ u8 (if e.kind ≤ 2 then p.syndrome else 0) ++ u64 p.address ++ u16 e.again ++ u8 e.outcome ++ u8 0

/-- Log an error: a repeat within 8,000 beats adds to its entry. -/
def Live.dramLog (l : Live) (kind outcome : Nat) (place : DramPlace) : Live :=
  let same := fun (e : DramError) => e.kind == kind && e.place.channel == place.channel && e.place.address == place.address
    && decide (l.ticks ≤ e.at_ + 8000)
  let more := fun (e : DramError) => if same e then { e with again := min 65535 (e.again + 1) } else e
  if l.dram.log.any same then l.setDram fun d => { d with log := d.log.map more }
  else
    let e : DramError := { beat := l.now, kind := kind, place := place, outcome := outcome, at_ := l.ticks }
    (l.setDram fun d => { d with log := lastN 32 (d.log ++ [e]) }).wr .LOG_TOTAL (l.rd .LOG_TOTAL + 1)

/-- LOG (R531). -/
def Live.dramLogBytes (l : Live) : List Byte := slice (l.dram.log.flatMap DramError.bytes) 0 1024

def Live.dramLogClear (l : Live) : Live := l.setDram fun d => { d with log := [] }

def execLogClear (s : State) : Host.Outcome State Fault Refusal :=
  s.effect fun l => if l.mode.engineOn ∨ l.mode = .freeze then l.dramLogClear else l

/-! ### The choice of a command (R509, R510, R516, R527) -/

/-- The urgency level of a request of age `a` against a target (R510). -/
def urgencyLevel (target a : Nat) : Nat :=
  if target ≤ a then 3 else if 3 * target ≤ 4 * a then 2 else if target ≤ 2 * a then 1 else 0

/-- The urgency level of a request of a port; the scrub has no target, and rises to level 2 after 8,000 beats (R527). -/
def Live.dramUrgency (l : Live) (port a : Nat) : Nat :=
  if port = 6 then (if 8000 * 125000 ≤ a then 2 else 0) else urgencyLevel (l.rd .LATENCY_TARGET_NS port) a

/-- Whether a channel must hold its other requests back: without its full-bandwidth token, past 60 % of peak in the beat
(R516). -/
def Live.dramThrottled (l : Live) (c : Nat) : Bool :=
  decide (l.power.waiting.get (2 + c) ≠ none) && decide (1920000 < (l.channel c).spent + 64)

/-- The class of a ready command at a time, the highest first; class 5 by urgency from 3 down to 0; `none` where the channel's
state keeps it (R509, R513, R516, R524). -/
def Live.dramClass (l : Live) (c time : Nat) (w : DramWant) : Option Nat :=
  let st := l.chState c
  match w with
  | .replay => if st = chReplaying then some 10 else none
  | .forced => some 20
  | .refresh => if l.rdB .PANIC 0 ∨ l.rdB .PANIC 4 then none else some 40
  | .request p _ arrived _ =>
    if st = chFrozen ∨ st = chReplaying then none
    else if (p = 4 ∨ p = 0) ∧ l.rdB .PANIC p then some (if p = 4 then 30 else 31)
    else if l.dramThrottled c then none
    else some (53 - l.dramUrgency p (time - arrived))

/-- A turn of a deficit round robin among `n`: it stays while the turn has something left, else it goes to the next that asks,
with its weight (R509; the order is ascending, DESIGN CHOICE, log 130). -/
def dramTurn (n : Nat) (asks : Nat → Bool) (weight : Nat → Nat) (turn : Nat × Nat) : Nat × Nat :=
  if asks turn.1 && decide (0 < turn.2) then turn
  else
    match ((List.range n).map fun k => (turn.1 + 1 + k) % n).find? asks with
    | some k => (k, max 1 (weight k))
    | none => turn

/-- The port, lane and arrival of a request. -/
def wantPort : DramWant → Nat
  | .request p _ _ _ => p
  | _ => 7
def wantLane : DramWant → Nat
  | .request _ n _ _ => n
  | _ => 0
def wantArrived : DramWant → Nat
  | .request _ _ t _ => t
  | _ => 0
def wantHit : DramWant → Bool
  | .request _ _ _ h => h
  | _ => false

/-- A turn is taken, and an access uses one 64-byte quantum of it. -/
def Live.dramTurnTo (l : Live) (c k : Nat) (turn : Nat × Nat) (access : Bool) : Live :=
  l.setChannel c fun x => { x with rounds := x.rounds.put k (turn.1, if access then turn.2 - 1 else turn.2) }

/-- Commands 1 RD and 2 WR move a burst (R531). -/
def dramAccess (x : DramCmd) : Bool := x.command == 1 || x.command == 2

/-- The oldest of some ready commands. -/
def oldestReady (rs : List DramReady) : Option DramReady := (sortBy (fun (r : DramReady) => wantArrived r.want) rs).head?

/-- Class 5 shares among ports by PORT_WEIGHT, and D0's and D1's turns among their lanes by the effective shares of R173; row
hits go before misses, and the oldest request last of all (R509). -/
def Live.dramShares (l : Live) (c : Nat) (rs : List DramReady) : Option DramReady × Live :=
  let hits := rs.filter fun r => wantHit r.want
  let rs1 := if hits.isEmpty then rs else hits
  let ports := dramTurn 7 (fun p => rs1.any fun r => wantPort r.want == p) (fun p => if p = 6 then 1 else l.rd .PORT_WEIGHT p)
    ((l.channel c).rounds.get 0)
  let rs2 := rs1.filter fun r => wantPort r.want == ports.1
  if ports.1 < 2 then
    let lanes := dramTurn 8 (fun n => rs2.any fun r => wantLane r.want == n) l.dramShare ((l.channel c).rounds.get (1 + ports.1))
    match oldestReady (rs2.filter fun r => wantLane r.want == lanes.1) with
    | some r => (some r, (l.dramTurnTo c 0 ports (dramAccess r.cmd)).dramTurnTo c (1 + ports.1) lanes (dramAccess r.cmd))
    | none => (none, l)
  else
    match oldestReady rs2 with
    | some r => (some r, l.dramTurnTo c 0 ports (dramAccess r.cmd))
    | none => (none, l)

/-- The command that a slot issues: the first class that holds one ready; in class 3 and above the oldest (R509). -/
def Live.dramPick (l : Live) (c : Nat) (s : DramSlot) : Option DramReady × Live :=
  let ranked := s.ready.filterMap fun r => (l.dramClass c s.time r.want).map fun k => (k, r)
  match (sortBy (fun (e : Nat × DramReady) => e.1) ranked).head? with
  | none => (none, l)
  | some (best, _) =>
    let rs := (ranked.filter fun e => e.1 == best).map Prod.snd
    if 50 ≤ best then l.dramShares c rs else (oldestReady rs, l)

/-- A slot of a channel: the command chosen is issued, and the retry buffer holds the last 64 (R509, R521). -/
def Live.dramSlot (l : Live) (c : Nat) (s : DramSlot) : Live :=
  match l.dramPick c s with
  | (none, l1) => l1
  | (some r, l1) =>
    l1.setChannel c fun x => { x with retry := lastN 64 (x.retry ++ [{ r.cmd with time := s.time }]),
                                      spent := if dramAccess r.cmd then x.spent + 64 else x.spent }

/-- The slots of a channel, in order. -/
def Live.dramSlots (l : Live) (c : Nat) (ss : List DramSlot) : Live := l.forL ss fun l s => l.dramSlot c s

/-! ### Policies, freeze and replay (R520 to R525) -/

/-- Outside BRINGUP a committed policy comes into force, unless a replay runs (R520, R536). -/
def Live.dramPolicy (l : Live) (c : Nat) : Live :=
  if l.chState c = chReplaying then l else l.setChannel c fun x => { x with diagnose := l.rd .ERROR_POLICY c == 1 }

/-- Whether the devices of a channel check write CRC (R529, R536). -/
def Live.checksCrc (l : Live) (c : Nat) : Bool := l.rdB .WRITE_CRC c && l.mode != .bringup && l.mode != .wipe

/-- A channel freezes: nothing more is issued but refresh (R524, R525). -/
def Live.freezeChannel (l : Live) (c : Nat) : Live :=
  let l1 := (l.chTo c chFrozen).wr .FROZEN_CHANNELS (setBit (l.rd .FROZEN_CHANNELS) c true)
  let l2 := (l1.setDram fun d => { d with diagnosed := true }).recoveriesCut 1 fun s => s == c
  if l2.rdB .FREEZE_ON_DIAGNOSE c then l2 else l2.withdraw [6]

/-- A channel that is frozen with FREEZE_ON_DIAGNOSE set: the cause of FREEZE (R525, R128). -/
def Live.diagnoseCause (l : Live) : Bool :=
  (List.range 2).any fun c => l.chState c == chFrozen && l.rdB .FREEZE_ON_DIAGNOSE c

/-- ALERT_n falls (R521, R522, R524). -/
def Live.dramAlert (l0 : Live) (c : Nat) (crc : Bool) (time : Nat) (slots : List DramSlot) (place : DramPlace) : Live :=
  let st := l0.chState c
  if l0.mode = .freeze ∨ ¬ (st = chActive ∨ st = chReplaying) ∨ (crc ∧ ¬ l0.checksCrc c) then l0
  else
    let l := l0.dramSlots c slots
    let kind := if crc then 4 else 3
    let p := { place with channel := c }
    if (l.channel c).diagnose then (l.dramLog kind 3 p).freezeChannel c
    else
      let l1 := l.count (if crc then .WRITE_CRC_ERRORS else .CA_PARITY_ERRORS) 1 c
      let l2 := (l1.raise (if crc then 483 else 482) (u8 c)).dramLog kind 2 p
      if st = chReplaying then
        let n := (l2.channel c).failures + 1
        let l3 := l2.setChannel c fun x => { x with failures := n }
        if 3 ≤ n then ((l3.raise 485 (u8 c)).dramLog 5 3 p).freezeChannel c else l3
      else
        let failed := (l2.channel c).retry.find? fun x => time ≤ x.time + 40
        let l3 := (l2.setChannel c fun x => { x with failed := failed, failures := 1 }).chTo c chReplaying
        (((l3.count .REPLAYS 1 c).blk 19 .signalB 1 (place.port)).recoveryStart 1 c 0)

def execDramAlert (c : Fin 2) (crc : Bool) (time : Nat) (slots : List DramSlot) (place : DramPlace) (s : State) :
    Host.Outcome State Fault Refusal :=
  s.effect fun l => l.dramAlert c.val crc time slots place

/-- A replay ends: the commands have been issued again (R521). -/
def Live.replayDone (l : Live) (c : Nat) : Live :=
  if l.chState c ≠ chReplaying then l
  else
    let l1 := (l.chTo c chActive).setChannel c fun x => { x with failed := none, failures := 0 }
    (((if l1.mode = .bringup ∨ l1.mode = .wipe then l1 else l1.dramPolicy c).raise 484 (u8 c)).recoveryDone 1 c).journalRecoveries

def execDramReplayDone (c : Fin 2) (s : State) : Host.Outcome State Fault Refusal := s.effect fun l => l.replayDone c.val

/-- The buffer and the 64-byte unit of a DRAM burst (R502). -/
def dramUnit (address : Nat) : Option (Nat × Nat) :=
  if address < 0x80000000 ∨ 0x1000000000 ≤ address then none
  else if address < 0x100000000 then some (bufKey 4 ((address - 0x80000000) / 65536), (address - 0x80000000) % 65536 / 64)
  else some (bufKey 5 ((address - 0x100000000) / 1048576), (address - 0x100000000) % 1048576 / 64)

/-- A read meets an uncorrectable pattern (R523, R524). -/
def Live.dramUe (l : Live) (place : DramPlace) : Live :=
  let c := place.channel % 2
  let p := { place with channel := c }
  let st := l.chState c
  if l.mode = .freeze ∨ ¬ (st = chActive ∨ st = chReplaying) then l
  else if (l.channel c).diagnose then (l.dramLog 2 3 p).freezeChannel c
  else
    let l1 := (((l.count .UE_COUNT 1 c).raise 481 (u8 c)).withdraw [9]).dramLog 2 1 p
    match dramUnit place.address with
    | some (key, u) => l1.setBuf key fun b => if b.poison.contains u then b else { b with poison := insertBy id u b.poison }
    | none => l1

def execDramUe (place : DramPlace) (s : State) : Host.Outcome State Fault Refusal := s.effect fun l => l.dramUe place

/-! ### Panic and refresh (R511 to R514) -/

def Live.panicking (l : Live) : Bool := l.rdB .PANIC 0 || l.rdB .PANIC 4

/-- A port's panic changes; when none is left, every owed refresh is issued (R514). -/
def Live.setPanic (l : Live) (d : Nat) (on : Bool) : Live :=
  if l.rdB .PANIC d = on then l
  else
    let l1 := l.wrB .PANIC on d
    if on then (l1.setDram fun x => { x with panicked := setBit x.panicked d true }).mark 487
    else if l1.panicking then l1
    else (List.range 2).foldl (fun (l : Live) c => (l.setChannel c fun x => { x with owed0 := 0, owed1 := 0 }).wr .REFRESH_OWED 0 c) l1

/-- The fills of D0's and D4's buffers, per cent (R511). -/
def Live.panicFills (l : Live) (fill0 fill4 : Nat) : Live :=
  let on0 := l.rd .PANIC_ON 0
  let off0 := min (l.rd .PANIC_OFF 0) (on0 - 1)
  let on4 := l.rd .PANIC_ON_D4 4
  let off4 := max (l.rd .PANIC_OFF_D4 4) (on4 + 1)
  let p0 := if l.rdB .PANIC 0 then decide (off0 < fill0) else decide (on0 ≤ fill0)
  let p4 := if l.rdB .PANIC 4 then decide (fill4 < off4) else decide (fill4 ≤ on4)
  (l.setPanic 0 p0).setPanic 4 p4

/-- A rank's refresh falls due: issued, postponed or forced (R512 to R514). -/
def Live.refreshDue (l0 : Live) (c r fill0 fill4 : Nat) : Live :=
  let st := l0.chState c
  if st = chSelfRefresh ∨ st = chUntrained ∨ l0.mode = .freeze then l0
  else
    let l := l0.panicFills fill0 fill4
    let x := l.channel c
    if ¬ l.panicking then (l.setChannel c fun x => { x with owed0 := 0, owed1 := 0 }).wr .REFRESH_OWED 0 c
    else if 8 ≤ (if r = 0 then x.owed0 else x.owed1) then (l.count .REFRESH_FORCED 1 c).raise 488
    else
      let l1 := l.setChannel c fun x => if r = 0 then { x with owed0 := x.owed0 + 1 } else { x with owed1 := x.owed1 + 1 }
      let n := max (l1.channel c).owed0 (l1.channel c).owed1
      (l1.wr .REFRESH_OWED n c).wr .REFRESH_POSTPONED_MAX (max n (l1.rd .REFRESH_POSTPONED_MAX c)) c

def execRefreshDue (c : Fin 2) (rank : Fin 2) (fill0 fill4 : Nat) (s : State) : Host.Outcome State Fault Refusal :=
  s.effect fun l => l.refreshDue c.val rank.val fill0 fill4

/-! ### Self-refresh (R517 to R519) -/

/-- A channel begins to enter self-refresh. -/
def Live.selfRefresh (l : Live) (c : Nat) (issued : Bool) : Live :=
  if l.chState c = chActive then
    ((l.chTo c chSelfRefresh).count .SR_ENTRIES 1 c).setChannel c fun x => { x with sre := issued }
  else l

/-- A channel serves again. -/
def Live.selfRefreshExit (l : Live) (c : Nat) : Live :=
  if l.chState c = chSelfRefresh then (l.chTo c chActive).setChannel c fun x => { x with used := l.ticks, sre := false } else l

/-- An idle channel enters self-refresh (R517). -/
def execIdleSelfRefresh (c : Fin 2) (s : State) : Host.Outcome State Fault Refusal :=
  s.effect fun l =>
    if l.mode.engineOn ∧ l.rdB .IDLE_SR_ENABLE c.val ∧ (l.channel c.val).used + l.rd .IDLE_SR_BEATS c.val ≤ l.ticks then
      l.selfRefresh c.val false
    else l

/-- A request arrives for a channel in self-refresh, or, `early`, before SRE has been issued (R519). -/
def execSelfRefreshExit (c : Fin 2) (early : Bool) (s : State) : Host.Outcome State Fault Refusal :=
  s.effect fun l =>
    if l.mode = .dormant ∨ l.mode = .listen ∨ l.chState c.val ≠ chSelfRefresh then l
    else if early ∧ ¬ (l.channel c.val).sre then (l.count .SR_ABANDONED 1 c.val).selfRefreshExit c.val
    else l.selfRefreshExit c.val

/-! ### The scrub (R518, R527) -/

def dramSize : Nat := 0x1000000000

/-- The scrub reads bytes in ascending address. -/
def Live.scrubTo (l : Live) (n : Nat) : Live :=
  let p := l.rd .SCRUB_POSITION + n
  if dramSize ≤ p then (l.wr .SCRUB_POSITION (p - dramSize)).setDram fun d => { d with passes := d.passes + 1 }
  else l.wr .SCRUB_POSITION p

/-- Phase 8: 128 bytes a beat, the oldest first; they are carried while a channel does not serve, and 8 KiB carried end a
self-refresh (R45, R46, R518). -/
def Live.scrubBeat (l : Live) : Live :=
  if ¬ l.mode.engineOn ∨ ¬ l.rdB .SCRUB_ENABLE then l
  else if l.chIs chReplaying ∨ l.chIs chFrozen ∨ l.chIs chUntrained then l.wr .SCRUB_CARRIED (l.rd .SCRUB_CARRIED + 128)
  else if l.chIs chSelfRefresh ∧ l.rd .SCRUB_CARRIED + 128 < 8192 then l.wr .SCRUB_CARRIED (l.rd .SCRUB_CARRIED + 128)
  else
    ((l.selfRefreshExit 0).selfRefreshExit 1).scrubTo 128

/-- A pass of 64 GiB is complete (R527). -/
def execDramScrubPassDone (s : State) : Host.Outcome State Fault Refusal :=
  s.effect fun l =>
    if l.dram.passes = 0 ∨ ¬ l.mode.engineOn then l
    else
      let l1 := (l.setDram fun d => { d with passes := d.passes - 1 }).count .SCRUB_PASSES
      (l1.wr .LAST_PASS_BEAT l.now).raise 491

/-! ### Diagnostic read (R526) -/

/-- Whether DIAG_READ runs. -/
def Live.diagAllowed (l : Live) : Bool := l.mode == .freeze || l.chState (bits (l.rd .DIAG_ADDRESS) 12 1) == chFrozen

/-- The burst at DIAG_ADDRESS, uncorrected: the data of a pool buffer is the model's; the check bytes, and the data of the
fixed regions, are free values. -/
def Live.diagRead (l : Live) : Live :=
  let a := l.rd .DIAG_ADDRESS
  let l1 := l.tookFree
  let data := match dramUnit a with
    | some (key, u) => beVal (l.bufRead key (64 * u) 64)
    | none => if 0x55000000 ≤ a ∧ a < 0x80000000 then 0 else Config.freeValue l1.free
  l1.tookFree.wr .DIAG_DATA (data % 2 ^ 512 * 2 ^ 64 + l.freeVal % 2 ^ 64)

def execDiagRead (s : State) : Host.Outcome State Fault Refusal :=
  s.effect fun l => if l.diagAllowed then l.diagRead else l

/-- An entry of RETRY_BUFFER (R531). -/
def DramCmd.bytes (x : DramCmd) : List Byte := u64 x.time ++ u8 x.command ++ u8 x.rank ++ u8 x.port ++ u8 0 ++ u32 x.place
def Live.retryBuffer (l : Live) : List Byte := slice ((l.channel (l.rd .DIAG_CHANNEL)).retry.flatMap DramCmd.bytes) 0 1024
def Live.heldRequests (l : Live) : List Byte :=
  (List.range 6).flatMap fun d => u16 (min 65535 (l.dram.ch0.held.get d + l.dram.ch1.held.get d))

/-! ### The boundary -/

/-- What a channel did in the beat that ends. -/
def Live.channelReport (l : Live) (c : Nat) (r : ChannelReport) : Live :=
  let l1 := ((l.dramSlots c r.slots).count .BYTES_READ r.read c).count .BYTES_WRITTEN r.written c
  let l2 := if r.poison = 0 then l1 else (l1.count .POISON_READS r.poison c).mark 492
  let l3 := l2.forL r.corrected fun l p =>
    (((l.count .CE_COUNT 1 c).blk 19 .ecc 1 p.port).mark 480).dramLog 1 0 { p with channel := c }
  let busy := r.read + r.written != 0
  let l4 := l3.setChannel c fun x =>
    { x with spent := 0, served := r.read + r.written,
             used := if busy then l.ticks + 1 else x.used, sre := l3.chState c == chSelfRefresh,
             held := if l3.chState c = chFrozen then
                 (List.range 6).foldl (fun (t : Tbl Nat) d => t.put d (r.held.getD d 0)) x.held else x.held }
  if l4.power.waiting.get (2 + c) ≠ none then l4.count .THROTTLED_BEATS 1 c else l4

/-- What a port did. -/
def Live.portReport (l : Live) (d : Nat) (r : DramPortReport) : Live :=
  let n := sumOf id r.urgency
  let l1 := (List.range 4).foldl (fun (l : Live) k => l.count .URGENCY (r.urgency.getD k 0) d k) l
  let l2 := ((l1.wr .QUEUE_DEPTH_1310 r.depth d).wrSat .MAX_LATENCY_NS (max r.latency (l1.rd .MAX_LATENCY_NS d)) d)
  let l3 := ((l2.blk 19 .eventsIn r.arrived d).blk 19 .bytesIn (64 * r.arrived) d).blk 19 .eventsOut n d
  (l3.blk 19 .bytesOut (64 * n) d)

/-- REFRESH_INTERVAL_NS follows the case temperature (R512, R535). -/
def Live.refreshInterval (l : Live) (c : Nat) : Live :=
  let t := if l.rd .STATE_1990 (3 + c) = 3 then 850 else l.rdI .CASE_TEMP c
  if 850 ≤ t then l.wr .REFRESH_INTERVAL_NS 3900 c
  else if t ≤ 830 then l.wr .REFRESH_INTERVAL_NS 7800 c
  else l

/-- Panic beats of the beat just ended (R511). -/
def Live.panicBeats (l : Live) : Live :=
  let l1 := l.forL (members 6 l.dram.panicked) fun l d => (l.count .PANIC_BEATS 1 d).blk 19 .signalA 1 d
  l1.setDram fun x => { x with panicked := setBit (setBit 0 0 (l.rdB .PANIC 0)) 4 (l.rdB .PANIC 4) }

/-- What the channels and ports did in the beat that ends. -/
def Live.dramReports (l : Live) (chs : List ChannelReport) (ports : List DramPortReport) : Live :=
  if l.mode = .freeze then l
  else
    let l1 := l.forN 2 fun l c => l.channelReport c (chs.getD c {})
    let l2 := l1.forN 6 fun l d => l.portReport d (ports.getD d {})
    let l3 := match (List.range 6).find? fun d => (ports.getD d {}).late with
      | some d => l2.mark 493 (u8 d)
      | none => l2
    l3.panicBeats

/-- The DRAM controller in phase 2: refresh intervals and panic. -/
def Live.dramBeat (l : Live) (fill0 fill4 : Nat) : Live :=
  if l.mode = .freeze then l
  else
    let l1 := (l.forN 2 Live.refreshInterval).panicFills fill0 fill4
    if l1.panicking then l1.mark 487 else l1

/-- Level conditions of the DRAM controller: 486, 489, 490. -/
def Live.overTemp (l : Live) : Bool := (List.range 2).any fun c => 950 < l.rdI .CASE_TEMP c
def Live.dramLevels (l : Live) : List (Nat × Nat × List Byte) :=
  (match (List.range 2).find? fun c => l.chState c == chFrozen with
    | some c => [(486, 0, u8 c)]
    | none => [])
    ++ (if (List.range 2).any fun c => l.rd .REFRESH_INTERVAL_NS c == 3900 then [(489, 0, [])] else [])
    ++ (if l.overTemp then [(490, 0, [])] else [])

/-! ### Start-up (R536) -/

/-- A restart clears the retry buffers, and the log unless a diagnostic freeze ends. -/
def Live.dramRestart (l : Live) (state : Nat) : Live :=
  let log := if l.dram.diagnosed then l.dram.log else []
  let l1 := { l with dram := { log := log } }
  (((l1.chTo 0 state).chTo 1 state).wr .FROZEN_CHANNELS 0)

/-- The first beat of CONFIGURE: the committed policies come into force. -/
def Live.dramConfigure (l : Live) : Live :=
  (l.dramPolicy 0).dramPolicy 1 |>.setDram fun d =>
    { d with ch0 := { d.ch0 with used := l.ticks }, ch1 := { d.ch1 with used := l.ticks } }

end Sys2Proof.Machine
end

