-- ==== Sys2Proof/Machine/Muslin.lean ====
section
/-! DEFINITION. Muslin: receivers, converters, transmitters, the routing matrix, delay lines and source fades
(spec/17_muslin_audio.md). -/

namespace Sys2Proof.Machine

open Sys2Proof

/-! ### Arithmetic (R576, R579) -/

/-- Nearest integer to a / b, ties away from zero. -/
def rdivI (a : Int) (b : Nat) : Int := if a < 0 then -(rdiv a.natAbs b : Nat) else (rdiv a.natAbs b : Nat)

/-- A sample within 24 bits. -/
def sat24 (x : Int) : Int := clampI (-8388608) 8388607 x

/-- A sum within 48 bits. -/
def sat48 (x : Int) : Int := clampI (-140737488355328) 140737488355327 x

/-- A 24-bit word as a sample, and a sample as a 24-bit word. -/
def sample24 (v : Nat) : Int := if v % 2 ^ 24 < 2 ^ 23 then (v % 2 ^ 24 : Nat) else (v % 2 ^ 24 : Nat) - (2 ^ 24 : Int)
def word24 (x : Int) : Nat := (x % (2 ^ 24 : Int)).toNat

/-- The largest n below 2^k above `n` for which (2n - 1)^40 * a is at most b, found bit by bit. -/
def gainSearch (a b : Nat) : Nat → Nat → Nat
  | 0, n => n
  | k + 1, n => gainSearch a b k (if (2 * (n + 2 ^ k) - 1) ^ 40 * a ≤ b then n + 2 ^ k else n)

/-- The coefficient of a gain code: round(2^20 * 10^(dB / 20)), where dB / 20 = (c - 181) / 40 (R576). -/
def gainOf (c : Nat) : Nat :=
  if c = 0 then 0 else gainSearch (10 ^ (181 - c)) (2 ^ 840 * 10 ^ (c - 181)) 23 0

/-- The terms of the sine series of x at 2^80, each from the one before. -/
def sineSum (x2 : Nat) : Nat → Nat → Nat → Int → Int
  | 0, _, _, acc => acc
  | n + 1, k, term, acc =>
    let t := term * x2 / 2 ^ 80 / ((2 * k) * (2 * k + 1))
    sineSum x2 n (k + 1) t (if k % 2 = 1 then acc - t else acc + t)

/-- floor(π / 2 * 2^80). -/
def halfPi : Nat := 1898976236818169290393996

/-- sin(π / 2 * num / den) at 2^80, for num up to den. -/
def sineOf (num den : Nat) : Nat :=
  let x := halfPi * num / max 1 den
  (sineSum (x * x / 2 ^ 80) 20 1 x (x : Int)).toNat

/-- G(φ) = 0.5 * (1 - cos(π φ)) = sin²(π φ / 2), quantised to 2^-20 (R579). -/
def fadeGain (num den : Nat) : Nat :=
  let s := sineOf num den
  min (2 ^ 20) (rdiv (s * s) (2 ^ 140))

/-! ### Fades (R579, R580) -/

/-- A position raised or lowered by 1 / n, in lowest terms, within 0 and 1. -/
def Fade.moved (f : Fade) (up : Bool) (n : Nat) : Fade :=
  let a := f.num * n
  let d := f.den * n
  let v := if up then min d (a + f.den) else a - f.den
  let g := max 1 (Nat.gcd v d)
  { f with num := v / g, den := d / g }

/-- One slot of a fade: the position moves, and its state with it. -/
def Fade.step (f : Fade) (inMs outMs : Nat) : Fade :=
  if f.state = 1 then
    let g := f.moved true (48 * max 1 inMs)
    if g.num = g.den then { g with state := 2 } else g
  else if f.state = 3 then
    let g := f.moved false (48 * max 1 outMs)
    if g.num = 0 then { g with state := 0 } else g
  else f

/-- A sample after a fade, rounded. -/
def Fade.apply (f : Fade) (x : Int) : Int := if f.num = f.den then x else rdivI (x * fadeGain f.num f.den) (2 ^ 20)

def Live.setAudio (l : Live) (f : Audio → Audio) : Live := { l with audio := f l.audio }
def Live.source (l : Live) (s : Nat) : AudioSource := l.audio.sources.get s
def Live.setSource (l : Live) (s : Nat) (f : AudioSource → AudioSource) : Live :=
  l.setAudio fun a => { a with sources := a.sources.upd s f }
def Live.setSink (l : Live) (k : Nat) (f : AudioSink → AudioSink) : Live :=
  l.setAudio fun a => { a with sinks := a.sinks.upd k f }
def Live.setAesRx (l : Live) (r : Nat) (f : AesRx → AesRx) : Live := l.setAudio fun a => { a with rx := a.rx.upd r f }
def Live.setAesTx (l : Live) (t : Nat) (f : AesTx → AesTx) : Live := l.setAudio fun a => { a with tx := a.tx.upd t f }

/-- STATE and PHI of a source. -/
def Live.showFade (l : Live) (s : Nat) : Live :=
  let f := (l.source s).fade
  (l.wr .STATE_1540 f.state s).wr .PHI (rdiv (f.num * 2 ^ 20) f.den) s

/-- The stream of a packet source, 0 of the others: what block 22 filters on (R658). -/
def sourceStream (s : Nat) : Nat := if 8 ≤ s then s - 8 else s

/-- A fault of a source: it enters FADING_OUT, and its good beats start again (R580). -/
def Live.sourceFault (l : Live) (s : Nat) : Live :=
  let st := (l.source s).fade.state
  let l1 := l.setSource s fun x => { x with faulted := true, good := 0 }
  if st = 1 ∨ st = 2 then
    (((l1.setSource s fun x => { x with fade := { x.fade with state := 3 } }).count .FADES 1 s).blk 22 .signalA 1
      (sourceStream s)).raise 555 (u16 s) |>.showFade s
  else l1

/-- A source starts: it begins SILENT (R580). -/
def Live.sourceStart (l : Live) (s : Nat) : Live :=
  (l.setSource s fun x => { slots := x.slots, seq := x.seq }).showFade s

/-! ### What runs (R565) -/

/-- What runs of the island: 0 nothing, 1 the receivers that an enabled spotter instance watches, 2 all. -/
def Live.audioClass (l : Live) : Nat :=
  match l.mode with
  | .listen => 1
  | .bringup => l.audio.before
  | .configure | .service | .island | .backfill | .lean | .freeze => 2
  | _ => 0

/-- The matrix, the delay lines and the transmitters run. -/
def Live.matrixRuns (l : Live) : Bool := l.mode.engineOn

/-- An enabled spotter instance watches a channel of a receiver. -/
def Live.rxWatched (l : Live) (r : Nat) : Bool :=
  (List.range 2).any fun i => l.rdB .ENABLE_1560 i && l.rd .SOURCE i / 2 == r

def Live.rxRuns (l : Live) (r : Nat) : Bool :=
  l.rdB .ENABLE_1510 r && (l.audioClass == 2 || (l.audioClass == 1 && l.rxWatched r))

def Live.rxLocked (l : Live) (r : Nat) : Bool := l.rd .LOCK_STATE r == 2

/-- A packet-in stream takes frames; and whether it is the second channel of the even stream below. -/
def Live.inRuns (l : Live) (i : Nat) : Bool := l.mode.running && l.rdB .IN_ENABLE i
def Live.sourceRuns (l : Live) (s : Nat) : Bool :=
  if s < 8 then l.rxRuns (s / 2) && l.rxLocked (s / 2)
  else l.inRuns (s - 8) || (s % 2 == 1 && l.inRuns (s - 9) && l.rd .IN_CHANNELS (s - 9) == 2)

/-! ### Receivers (R566 to R569) -/

/-- A receiver leaves LOCKED (R567). -/
def Live.rxLost (l : Live) (r : Nat) : Live :=
  if l.rxLocked r then
    (((l.wr .LOCK_STATE 0 r).wr .RATE 0 r).count .LOCK_LOSSES 1 r).raise (548 + r)
  else l.wr .LOCK_STATE 0 r

/-- A receiver becomes LOCKED at a nominal rate: its converter is recentred and its sources begin SILENT (R567, R580). -/
def Live.rxLock (l : Live) (r rate hz : Nat) : Live :=
  if l.rxLocked r ∧ l.rd .RATE r = rate then l
  else
    let again := l.rxLocked r
    let l1 := if again then l.rxLost r else l
    let zeros : List Int := List.replicate 24 0
    let l2 := ((l1.wr .LOCK_STATE 2 r).wr .RATE rate r).setAesRx r fun x =>
      { fifoA := zeros, fifoB := zeros, hz := hz, blocks := x.blocks }
    let l3 := ((l2.sourceStart (2 * r)).sourceStart (2 * r + 1)).raise (544 + r)
    if again then l3.raise 552 else l3

/-- The state that the line of a receiver shows now. -/
def Live.rxSensed (l : Live) (r : Nat) : Nat := ((l.audio.rx.get r).sensed.map fun x => x.1).getD (l.rd .LOCK_STATE r)

/-- The line of a running receiver shows a state: phase 2 samples the last of a beat (R42, R567). -/
def Live.rxSense (l : Live) (r state rate hz : Nat) : Live := l.setAesRx r fun x => { x with sensed := some (state, rate, hz) }

/-- Phase 2 takes what the lines showed (R567). -/
def Live.sampleReceivers (l : Live) : Live :=
  l.forN 4 fun l r =>
    match (l.audio.rx.get r).sensed with
    | none => l
    | some (st, rate, hz) =>
      let l1 := l.setAesRx r fun x => { x with sensed := none }
      if ¬ l1.rxRuns r then l1
      else if st = 2 then l1.rxLock r rate hz
      else if st = 1 ∧ ¬ l1.rxLocked r then l1.wr .LOCK_STATE 1 r
      else (l1.rxLost r).wr .LOCK_STATE st r

/-- Frames per second of a rate code. -/
def rateHz (code : Nat) : Nat := [0, 32000, 44100, 48000, 88200, 96000].getD code 0

/-- A frame rate lies within 0.5 % of a nominal one (R566). -/
def rateWithin (code hz : Nat) : Bool := decide (995 * rateHz code ≤ 1000 * hz) && decide (1000 * hz ≤ 1005 * rateHz code)

def execAesRxLocking (r : Fin 4) (s : State) : Host.Outcome State Fault Refusal :=
  s.effect fun l => if l.rxRuns r.val ∧ l.rxSensed r.val = 0 then l.rxSense r.val 1 0 0 else l

def execAesRxLocked (r : Fin 4) (rate : Fin 5) (hz : Nat) (s : State) : Host.Outcome State Fault Refusal :=
  s.effect fun l => if l.rxRuns r.val ∧ rateWithin (rate.val + 1) hz then l.rxSense r.val 2 (rate.val + 1) hz else l

def execAesRxLost (r : Fin 4) (s : State) : Host.Outcome State Fault Refusal :=
  s.effect fun l => if l.rxRuns r.val ∧ l.rxSensed r.val ≠ 0 then l.rxSense r.val 0 0 0 else l

/-- Bit `n` of a 192-bit block: bit n mod 8 of byte n div 8 (R569). -/
def blockBit (v n : Nat) : Bool := bit v (8 * (23 - n / 8) + n % 8)
def blockByte (v n : Nat) : Nat := bits v (8 * (23 - n)) 8

/-- The sample is 24 bits wide (R566). -/
def Live.wideWord (l : Live) (r : Nat) (b : Bool) : Bool :=
  match l.rd .WORD_MODE r with
  | 1 => true
  | 2 => false
  | _ =>
    let cs := l.rd (if b then .CS_B else .CS_A) r
    match l.rd .CS_FORMAT_1510 r with
    | 0 => bits (blockByte cs 2) 0 3 == 4
    | 1 => bit (blockByte cs 4) 0
    | _ => false

/-- A subframe reaches a receiver (R566, R568). -/
def Live.subframe (l : Live) (r : Nat) (b : Bool) (raw : Nat) (validity parity biphase : Bool) : Live :=
  let l1 := if biphase then (l.count .BIPHASE_ERRORS 1 r).mark 554 else l
  if ¬ l.rxLocked r then l1
  else
    let bad := parity || biphase || (validity && l.rd .VALIDITY_POLICY == 1)
    let x := l.audio.rx.get r
    let prev := if b then x.prevB else x.prevA
    let v := if bad then prev else sample24 (if l.wideWord r b then raw else raw / 16 * 16)
    let l2 := if bad then (l1.count .INVALID_SAMPLES 1 r).mark 554 else l1
    l2.setAesRx r fun x =>
      if b then { x with prevB := v, fifoB := (v :: x.fifoB).take 64 } else { x with prevA := v, fifoA := (v :: x.fifoA).take 64 }

def execAes3SubframeReceived (r : Fin 4) (b : Bool) (raw : BitVec 24) (validity parity biphase : Bool) (s : State) :
    Host.Outcome State Fault Refusal :=
  s.effect fun l =>
    if l.rxRuns r.val ∧ l.rd .LOCK_STATE r.val ≠ 0 then l.subframe r.val b raw.toNat validity parity biphase else l

/-- One bit into the channel-status check (AES3): x^8 + x^4 + x^3 + x^2 + 1, least significant bit first. -/
def csBit (c : Nat) (b : Bool) : Nat := if (c % 2 == 1) != b then (c / 2) ^^^ 0xB8 else c / 2

/-- The CRCC of 23 channel-status bytes. -/
def csCrc (bs : List Byte) : Nat :=
  (bs.take 23).foldl (fun c b => (List.range 8).foldl (fun c k => csBit c (bit b.toNat k)) c) 0xFF

/-- The last block accepted of a channel. -/
def Live.csLast (l : Live) (r : Nat) (b : Bool) : Nat :=
  match (l.audio.rx.get r).blocks.findRev? fun x => x.chB == b with
  | some x => x.status
  | none => l.rd (if b then .CS_B else .CS_A) r

/-- A channel-status block ends: one that is accepted waits for the boundary (R569). -/
def Live.csBlock (l : Live) (r : Nat) (b : Bool) (cs user : List Byte) : Live :=
  let cs24 := slice cs 0 24
  let v := beVal cs24
  if bit (blockByte v 0) 0 ∧ csCrc cs24 ≠ blockByte v 23 then (l.count .CS_CRC_ERRORS 1 r).mark 554
  else
    let l1 := l.setAesRx r fun x =>
      { x with blocks := x.blocks ++ [{ chB := b, status := v, user := beVal (slice user 0 24), beat := l.now }] }
    if l.csLast r b = v then l1 else l1.raise 553

/-- The objects show the blocks accepted in the beat just ended (R569). -/
def Live.csShow (l : Live) (r : Nat) : Live :=
  (l.forL (l.audio.rx.get r).blocks fun l x =>
    (((l.wr (if x.chB then .CS_B else .CS_A) x.status r).wr (if x.chB then .USER_B else .USER_A) x.user r).wr .CS_FORMAT_1510
      (if bit (blockByte x.status 0) 0 then 0 else 1) r).wr .CS_BLOCK_BEAT x.beat r).setAesRx r fun x => { x with blocks := [] }

def execAesCsChange (r : Fin 4) (b : Bool) (cs user : List Byte) (s : State) : Host.Outcome State Fault Refusal :=
  s.effect fun l => if l.rxRuns r.val ∧ l.rxLocked r.val then l.csBlock r.val b cs user else l

/-! ### Converters (R570) -/

/-- A converter recentred to 24 samples. -/
def recentre (fifo : List Int) : List Int :=
  if fifo.length < 24 then List.replicate (24 - fifo.length) (fifo.headD 0) ++ fifo else fifo.take 24

/-- A converter slips: under 4 samples at a read, over 60 at a write. -/
def Live.asrcSlip (l : Live) (tx : Bool) (i : Nat) (high : Bool) : Live :=
  let fill := if tx then (l.audio.tx.get i).fifoA.length else (l.audio.rx.get i).fifoA.length
  let runs := if tx then l.matrixRuns && l.rdB .ENABLE_1520 i else l.rxRuns i && l.rxLocked i
  if runs ∧ (if high then 60 < fill else fill < 4) then
    let n := if high then fill - 24 else 24 - fill
    let o : Obj := match tx, high with
      | true, true => .OVERRUN_SAMPLES_1530
      | true, false => .UNDERRUN_SAMPLES_1530
      | false, true => .OVERRUN_SAMPLES_1540
      | false, false => .UNDERRUN_SAMPLES_1540
    let l1 := if tx then l.setAesTx i fun x => { x with fifoA := recentre x.fifoA, fifoB := recentre x.fifoB }
      else l.setAesRx i fun x => { x with fifoA := recentre x.fifoA, fifoB := recentre x.fifoB }
    let l2 := l1.forL [2 * i, 2 * i + 1] fun l k => (l.count o n k).when (!tx) fun l => l.sourceFault k
    l2.raise 557
  else l

def execAsrcSlip (tx : Bool) (i : Fin 4) (high : Bool) (s : State) : Host.Outcome State Fault Refusal :=
  s.effect fun l => l.asrcSlip tx i.val high

/-- A converter's output for the samples it holds: a free value within 24 bits. -/
def asrcOut (conv : Nat) (fifo : List Int) : Int := sat24 (Config.asrcSample conv fifo)

/-- The oldest samples of a converter, taken. -/
def dropOld (n : Nat) (fifo : List Int) : List Int := fifo.take (fifo.length - n)

/-! ### Transmitters (R572 to R575) -/

/-- The rate code of a transmitter under the audio clock (R573). -/
def audioRate (rate : Nat) : Nat := if rate = 2 ∨ rate = 4 then 3 else rate

/-- RATE_ACTIVE and CLOCK_ACTIVE. -/
def Live.txShow (l : Live) (t : Nat) : Live :=
  let clk := l.rd .CLOCK t
  if (l.audio.tx.get t).fallback then (l.wr .RATE_ACTIVE (l.rd .FALLBACK_RATE t) t).wr .CLOCK_ACTIVE 0 t
  else if clk = 0 then (l.wr .RATE_ACTIVE (audioRate (l.rd .TX_RATE t)) t).wr .CLOCK_ACTIVE 0 t
  else (if l.rxLocked (clk - 1) then l.wr .RATE_ACTIVE (l.rd .RATE (clk - 1)) t else l).wr .CLOCK_ACTIVE clk t

/-- A committed setting of a transmitter takes effect. -/
def Live.txSettings (l : Live) (t : Nat) : Live :=
  (l.setAesTx t fun x => { x with fallback := x.fallback && l.rd .CLOCK t != 0 }).txShow t

/-- A transmitter starts. -/
def Live.txStart (l : Live) (t : Nat) : Live :=
  (l.setAesTx t fun x => { x with frames := 0, fifoA := List.replicate 24 0, fifoB := List.replicate 24 0 }).txShow t

/-- The sinks of a transmitter fade. -/
def Live.txSinks (l : Live) (t st : Nat) : Live :=
  l.forL [2 * t, 2 * t + 1] fun l k => l.setSink k fun x => { x with fade := { x.fade with state := st } }

/-- A looped transmitter is to run from the audio clock: its receiver is not LOCKED (R573). -/
def Live.txFalls (l : Live) (t : Nat) : Bool := l.rd .CLOCK t != 0 && !l.rxLocked (l.rd .CLOCK t - 1)

/-- A transmitter switches its clock: 558 to the audio clock, 559 back (R573). -/
def Live.txSwitch (l : Live) (t : Nat) : Live :=
  let fb := l.txFalls t
  (((l.setAesTx t fun x => { x with fallback := fb, rampAt := some (l.ticks + 2) }).count .FALLBACKS 1 t).txShow t).raise
    (if fb then 558 else 559)

/-- The boundary's part in the clock of a looped transmitter: a switch that fell due is made, its sinks fade for one that will
fall due, and ramp in 2 beats after a switch (R573). -/
def Live.txBeat (l : Live) (t : Nat) : Live :=
  let x := l.audio.tx.get t
  let made := x.due && l.txFalls t != x.fallback
  let l1 := (if made then l.txSwitch t else l).setAesTx t fun x => { x with due := false }
  let differs := l1.txFalls t != (l1.audio.tx.get t).fallback
  let l2 := if differs then (l1.txSinks t 3).setAesTx t fun x => { x with due := true, rampAt := none }
    else if x.due ∧ ¬ made then l1.setAesTx t fun x => { x with rampAt := some (l1.ticks + 2) }
    else l1
  match (l2.audio.tx.get t).rampAt with
  | some a => if a ≤ l2.ticks then (l2.setAesTx t fun x => { x with rampAt := none }).txSinks t 1 else l2.txShow t
  | none => l2.txShow t

/-- The channel status that a transmitter builds, for a channel (R574). -/
def Live.csBuild (l : Live) (t : Nat) (chB : Bool) : List Byte :=
  let x := l.audio.tx.get t
  let rate := l.rd .RATE_ACTIVE t
  let own := l.rd .CLOCK_ACTIVE t == 0
  let non := (l.rdB .NON_AUDIO t).toNat * 2
  if l.rd .CS_FORMAT_1520 t = 0 then
    let unlocked := x.fallback || !l.beat.locked
    let f0 := if rate = 3 then 0x80 else if rate = 2 then 0x40 else if rate = 1 then 0xC0 else 0
    let f4 := if rate = 5 then 0x10 else if rate = 4 then 0x50 else 0
    let tod := if own ∧ l.beat.locked then l.ptpNs % 86400000000000 * rateHz rate / 1000000000 else 0
    let user := if l.rd .USER_SOURCE t < 8 then 0x80 else 0
    let body := u8 (1 + non + 4 + (if unlocked then 0x20 else 0) + f0) ++ u8 (0x08 + user) ++ u8 0x2C ++ u8 0 ++ u8 f4 ++ u8 0
      ++ beBytes 4 (l.rd .CHANNEL_ORIGIN t) ++ beBytes 4 (l.rd .CHANNEL_DEST t) ++ leBytes 4 (x.frames % 2 ^ 32) ++ leBytes 4 tod
      ++ u8 (if tod % 2 ^ 32 = 0 then 0x80 else 0)
    body ++ u8 (csCrc body)
  else
    let f3 := if rate = 2 then 0 else if rate = 3 then 2 else if rate = 1 then 3 else if rate = 4 then 8 else 10
    let acc := if own ∧ l.beat.locked then 0x10 else 0
    slice (u8 (non + (l.rdB .COPY_PERMITTED t).toNat * 4) ++ u8 (l.rd .CATEGORY t) ++ u8 (if chB then 0x20 else 0x10)
      ++ u8 (f3 + acc) ++ u8 0x0B) 0 24

/-- The user block that a transmitter sends (R575). -/
def Live.userBuild (l : Live) (t : Nat) : Nat :=
  let c := l.rd .USER_SOURCE t
  if c < 8 ∧ l.rxLocked (c / 2) then l.rd (if c % 2 = 0 then .USER_A else .USER_B) (c / 2) else 0

/-- Time slots 4 to 31 of a subframe, as bits 0 to 27: sample, validity 0, user bit, channel-status bit, even parity. -/
def subframeOf (x : Int) (user cs : Bool) : Nat :=
  let v := word24 x + user.toNat * 2 ^ 25 + cs.toNat * 2 ^ 26
  v + ((List.range 27).filter (bit v)).length % 2 * 2 ^ 27

/-- A transmitter sends a frame (R574). -/
def Live.frameSent (l : Live) (t take : Nat) : Live :=
  let n := (l.audio.tx.get t).frames % 192
  let l1 := if n = 0 then
      let a := l.csBuild t false
      (l.wr .CS_BUILT_A (beVal a) t).setAesTx t fun x => { x with csB := beVal (l.csBuild t true), user := l.userBuild t }
    else l
  let x := l1.audio.tx.get t
  let u := blockBit x.user n
  l1.setAesTx t fun x =>
    { x with subA := subframeOf (asrcOut (8 + 2 * t) x.fifoA) u (blockBit (l1.rd .CS_BUILT_A t) n)
             subB := subframeOf (asrcOut (9 + 2 * t) x.fifoB) u (blockBit x.csB n)
             fifoA := dropOld take x.fifoA, fifoB := dropOld take x.fifoB, frames := x.frames + 1 }

def execAes3FrameTransmit (t : Fin 4) (take : Nat) (s : State) : Host.Outcome State Fault Refusal :=
  s.effect fun l => if l.matrixRuns ∧ l.rdB .ENABLE_1520 t.val then l.frameSent t.val take else l

/-! ### The routing matrix and the delay lines (R576 to R578) -/

/-- A ramp's value at its next slot. -/
def Ramp.value (r : Ramp) : Int := if r.len = 0 then r.new else r.old + rdivI ((r.new - r.old) * r.pos) r.len

def Live.crossCode (l : Live) (k s : Nat) : Nat := l.rd .CROSSPOINTS ((16 * k + s) / 128) ((16 * k + s) % 128)

/-- The coefficient of a crosspoint at the next slot. -/
def Live.coeff (l : Live) (k s : Nat) : Int :=
  match (l.audio.sinks.get k).ramps.get s with
  | some r => r.value
  | none => (gainOf (l.crossCode k s) : Nat)

/-- A ramp after a slot. -/
def Ramp.next (r : Ramp) : Option Ramp := if r.len ≤ r.pos + 1 then none else some { r with pos := r.pos + 1 }

/-- Slots of a gain ramp (R577). -/
def Live.rampSlots (l : Live) : Nat := 6 * l.rd .GAIN_RAMP_BEATS

/-- A crosspoint write commits: `old` is the code before it (R577). -/
def Live.crosspointChanged (l : Live) (k s old : Nat) : Live :=
  let cur : Int := match (l.audio.sinks.get k).ramps.get s with
    | some r => r.value
    | none => (gainOf old : Nat)
  let r : Option Ramp := if l.rampSlots = 0 ∨ ¬ l.matrixRuns then none
    else some { old := cur, new := (gainOf (l.crossCode k s) : Nat), len := l.rampSlots }
  l.setSink k fun x => { x with ramps := x.ramps.put s r }

/-- A delay write commits: `old` is the delay before it (R578). -/
def Live.delayChanged (l : Live) (k old : Nat) : Live :=
  let r : Option Ramp := if l.rampSlots = 0 ∨ ¬ l.matrixRuns then none
    else some { old := (old : Nat), new := (l.rd .DELAY_SAMPLES k : Nat), len := l.rampSlots }
  l.setSink k fun x => { x with delay := r }

/-- What a sink's delay line gives at the next slot. -/
def Live.delayed (l : Live) (k : Nat) : Int :=
  let x := l.audio.sinks.get k
  let tap := fun (d : Int) => x.line.getD d.toNat 0
  match x.delay with
  | none => tap (l.rd .DELAY_SAMPLES k : Nat)
  | some r => let a := tap r.old; a + rdivI ((tap r.new - a) * r.pos) (max 1 r.len)

/-- One slot of a sink, from the faded samples of the 16 sources. -/
def Live.sinkSlot (l : Live) (k : Nat) (xs : List Int) (missed : Bool) : Live :=
  let sum := (List.range 16).foldl (fun (a : Int) s => a + l.coeff k s * xs.getD s 0) 0
  let y := rdivI (sat48 sum) (2 ^ 20)
  let clip := sat24 y != y
  let l1 := if clip then (((l.count .CLIPPED 1 k).count .CLIP_SAMPLES).mark 562).blk 22 .signalB 1 (k - 8) else l
  let out := if l.rdB .MUTE k then 0 else sat24 y
  let l2 := l1.setSink k fun x =>
    { x with line := (out :: x.line).take 2880001,
             ramps := x.ramps.foldl (fun t e => t.put e.1 (e.2.bind Ramp.next)) [] }
  let d := if missed then 0 else l2.delayed k
  let l3 := if missed then (l2.count .DELAY_MISSES 1 k).mark 565 else l2
  let l4 := l3.setSink k fun x =>
    { x with delay := x.delay.bind Ramp.next,
             fade := if k < 8 then x.fade.step (l.rd .FADE_IN_MS) (l.rd .FADE_OUT_MS) else x.fade }
  let z := if k < 8 then ((l4.audio.sinks.get k).fade.apply d) else d
  let l5 := l4.setSink k fun x => { x with recent := (z :: x.recent).take 54 }
  if k < 8 ∧ l.rdB .ENABLE_1520 (k / 2) then
    l5.setAesTx (k / 2) fun x =>
      if k % 2 = 0 then { x with fifoA := (z :: x.fifoA).take 64 } else { x with fifoB := (z :: x.fifoB).take 64 }
  else l5

/-! ### Sources slot by slot (R579, R580) -/

/-- The number of the next slot: 6 * b + k modulo 2^32 (R584). -/
def Live.slotNumber (l : Live) : Nat := (6 * l.now + l.audio.slot) % 2 ^ 32

/-- The sample that a running source has for the next slot. -/
def Live.sourceSample (l : Live) (s : Nat) : Option Int :=
  if s < 8 then
    let x := l.audio.rx.get (s / 2)
    some (asrcOut s (if s % 2 = 0 then x.fifoA else x.fifoB))
  else (l.source s).slots.get l.slotNumber

/-- One slot of a source: its sample after its fade (R579, R580). -/
def Live.sourceSlot (l : Live) (s : Nat) : Int × Live :=
  let runs := l.sourceRuns s
  let x := l.source s
  if ¬ runs ∧ x.fade.state = 0 then (0, l)
  else
    let v : Option Int := if runs then l.sourceSample s else none
    let l1 := match v with
      | some a => l.setSource s fun x => { x with last := a }
      | none => (l.count .UNDERRUN_SAMPLES_1540 1 s).sourceFault s
    let l2 := (l1.setSource s fun x =>
      { x with fade := x.fade.step (l.rd .FADE_IN_MS) (l.rd .FADE_OUT_MS), slots := x.slots.put l.slotNumber none }).showFade s
    let y := l2.source s
    (y.fade.apply y.last, l2)

/-- The sources of a slot, in ascending order. -/
def Live.sourceSlots (l : Live) : List Int × Live :=
  (List.range 16).foldl (fun (a : List Int × Live) s =>
    let r := a.2.sourceSlot s
    (a.1 ++ [r.1], r.2)) ([], l)

/-- A sample enters an instance's pre-roll ring (R589). -/
def Live.ringPush (l : Live) (i : Nat) (xs : List Int) : Live :=
  if l.rdB .ENABLE_1560 i then
    l.setAudio fun a => { a with spotters := a.spotters.upd i fun x =>
      { x with ring := (xs.getD (l.rd .SOURCE i) 0 :: x.ring).take 96000, ringBeat := l.now } }
  else l

/-- The converters of the receivers take the samples that a slot consumes. -/
def Live.rxTake (l : Live) (takes : List Nat) : Live :=
  l.forN 4 fun l r =>
    let n := takes.getD r 0
    l.setAesRx r fun x => { x with fifoA := dropOld n x.fifoA, fifoB := dropOld n x.fifoB }

/-- Buffers whose last sample has passed are freed (R585). -/
def Live.packetsFree (l : Live) : Live :=
  let passed := fun (e : AudioBuf) => decide (2 ^ 31 ≤ (e.last + 2 ^ 32 - l.slotNumber) % 2 ^ 32)
  let l1 := l.forL (l.audio.packets.filter passed) fun l e => (l.freeHandle 3 e.handle).2
  l1.setAudio fun a => { a with packets := a.packets.filter fun e => !passed e }

/-- A sample slot: sources, spotter rings, matrix, delay lines, transmit converters (R565, R576 to R580, R589). -/
def Live.sampleSlot (l : Live) (takes : List Nat) (misses : Nat) : Live :=
  if 6 ≤ l.audio.slot ∨ l.audioClass = 0 then l
  else
    let r := l.sourceSlots
    let l1 := (r.2.rxTake takes).forN 2 fun l i => l.ringPush i r.1
    let l2 := if l.matrixRuns then l1.forN 16 fun l k => l.sinkSlot k r.1 (bit misses k) else l1
    (l2.setAudio fun a => { a with slot := a.slot + 1 }).packetsFree

def execSampleSlot (takes : List Nat) (misses : Nat) (s : State) : Host.Outcome State Fault Refusal :=
  s.effect fun l => l.sampleSlot takes misses

/-- A source ramps in: two good beats have passed, and slot 0 is next (R580). -/
def Live.rampIn (l : Live) (s : Nat) : Live :=
  let x := l.source s
  if l.audioClass ≠ 0 ∧ l.audio.slot = 0 ∧ 2 ≤ x.good ∧ (x.fade.state = 0 ∨ x.fade.state = 3) then
    (((l.setSource s fun x => { x with fade := { x.fade with state := 1 } }).count .RAMPS 1 s).raise 556 (u16 s)).showFade s
  else l

def execAudioRampIn (source : Fin 16) (s : State) : Host.Outcome State Fault Refusal :=
  s.effect fun l => l.rampIn source.val

/-! ### Boundaries, modes and restarts (R565, R580, R594, R596) -/

/-- A new beat: good beats are counted, slot 0 is next, clocks switch. -/
def Live.audioBeat (l : Live) : Live :=
  if l.audioClass = 0 then l
  else
    let l1 := (l.forN 4 Live.csShow).forN 16 fun l s =>
      let runs := l.sourceRuns s
      l.setSource s fun x => { x with good := if runs ∧ ¬ x.faulted then x.good + 1 else 0, faulted := false }
    let l2 := l1.setAudio fun a => { a with slot := 0 }
    if l.matrixRuns then l2.forN 4 Live.txBeat else l2

/-- A beat step or an origin strobe toggles mr and marks the next RTP packets (R582, R583, R594). -/
def Live.audioStep (l : Live) : Live :=
  l.forN 8 fun l s => l.setAudio fun a => { a with outs := a.outs.upd s fun x => { x with mr := !x.mr, mark := true } }

/-- The receivers that no longer run stop; pre-roll rings and match state restart empty with the spotter. -/
def Live.rxStops (l : Live) : Live := l.forN 4 fun l r => if l.rxRuns r ∨ l.rd .LOCK_STATE r = 0 then l else l.rxLost r

/-- A spotter instance restarts with empty paths and ring (R565, R595). -/
def Live.spotterRestart (l : Live) (i : Nat) : Live :=
  (l.setAudio fun a => { a with spotters := a.spotters.upd i fun x =>
    { x with ring := [], ringBeat := 0, templates := [], framed := none } }).wr .PARTIAL_SCORE 0 i

/-- The matrix starts: delay lines read as silence, transmitters start (R578, R596). -/
def Live.matrixStart (l : Live) : Live :=
  let l1 := l.setAudio fun a => { a with sinks := [] }
  l1.forN 4 Live.txStart

/-- The unit has left the mode `old` (R565): `old` classes are what ran there. -/
def Live.audioMode (l0 : Live) (old : Nat) (matrix packets : Bool) : Live :=
  let l := if l0.mode = .bringup then l0.setAudio fun a => { a with before := old } else l0
  let l1 := l.rxStops
  let l2 := if l.audioClass = 0 ∧ old ≠ 0 then l1.forN 2 Live.spotterRestart else l1
  let l3 := if l2.matrixRuns ∧ ¬ matrix then l2.matrixStart else l2
  if packets ∧ ¬ l3.mode.running then
    (l3.forL l3.audio.packets fun l e => (l.freeHandle 3 e.handle).2).setAudio fun a =>
      { a with packets := [], outs := [], sources := a.sources.foldl (fun t e => t.put e.1 { e.2 with slots := [], seq := none }) [] }
  else l3

/-- A wake start keeps the island; the rest of Muslin restarts (R146, R596). -/
def Live.islandKeep (l : Live) : Live :=
  l.setAudio fun a => { rx := a.rx, sources := a.sources.filter fun e => e.1 < 8, spotters := a.spotters, before := a.before,
                        held := a.held, displaced := a.displaced, slot := a.slot }

/-- Samples of slots that a step of the beat number from `o` to `n` skips: they are late, and fault their sources (R594). -/
def Live.slotsSkipped (l : Live) (o n : Nat) : Live :=
  let gone := fun (k : Nat) => decide ((k + 2 ^ 32 - 6 * o % 2 ^ 32) % 2 ^ 32 < 6 * (n - o))
  let l1 := l.forL (l.audio.packets.filter fun p => gone p.first) fun l p =>
    ((l.count .PACKETS_LATE 1 p.stream).blk 22 .drops 1 p.stream).mark 560 [] (l.rd .IN_TENANCY p.stream)
  l1.forL [8, 9, 10, 11, 12, 13, 14, 15] fun l s =>
    if (l.source s).slots.any fun e => gone e.1 && e.2.isSome then
      (l.setSource s fun x => { x with slots := x.slots.filter fun e => !gone e.1 }).sourceFault s
    else l

end Sys2Proof.Machine
end

