-- ==== Sys2Proof/Machine/Streams.lean ====
section
/-! DEFINITION. Muslin's packet streams through port M (spec/17_muslin_audio.md, R581 to R585). -/

namespace Sys2Proof.Machine

open Sys2Proof

/-- Back-pressure of B256 or B1K holds packetisation (R585). -/
def Live.packetsHeld (l : Live) : Bool := l.rdB .BACK_PRESSURE 0 || l.rdB .BACK_PRESSURE 1

/-- The level conditions of this chapter that stand (R572, R585). -/
def Live.audioLevels (l : Live) : List (Nat × Nat × List Byte) :=
  levelIf (!l.beat.locked) 567 ++ levelIf (l.packetsHeld && l.mode.running) 561

/-! ### Packet out (R581 to R583) -/

/-- The channels that a packet-out stream carries, and whether it is the silent odd stream of a stereo pair. -/
def Live.outStereo (l : Live) (s : Nat) : Bool := s % 2 == 0 && l.rd .CHANNELS s == 2
def Live.outSilent (l : Live) (s : Nat) : Bool := s % 2 == 1 && l.outStereo (s - 1)

/-- Beats of a packet. -/
def Live.outBeats (l : Live) (s : Nat) : Nat := max 1 (l.rd .SAMPLES_PER_PACKET s / 6)

/-- The samples of a packet: the slots of the `m` beats before the current one, channels interleaved. -/
def Live.outSamples (l : Live) (s m : Nat) : List Byte :=
  let past := fun (k : Nat) =>
    let xs := ((l.audio.sinks.get k).recent.drop l.audio.slot).take (6 * m)
    (xs ++ List.replicate (6 * m - xs.length) 0).reverse
  let w := fun (x : Int) => beBytes 3 (word24 x)
  let a := past (8 + s)
  if l.outStereo s then ((a.zip (past (9 + s))).map fun e => w e.1 ++ w e.2).flatten else (a.map w).flatten

/-- The nominal instant of slot 0 of a beat, less whole multiples of 2^32 (R582). -/
def slotInstant (b : Nat) : Nat := 125000 * b % 2 ^ 32

/-- The body of an AAF packet (R582). -/
def Live.aafBody (l : Live) (s m seq : Nat) (mr : Bool) (pcm : List Byte) : List Byte :=
  let first := (l.now + 2 ^ 64 - m) % 2 ^ 64
  let ch := if l.outStereo s then 2 else 1
  u8 0x02 ++ u8 (0x81 + mr.toNat * 8) ++ u8 seq ++ u8 (!l.beat.locked).toNat ++ beBytes 8 (l.rd .STREAM_ID_1550 s)
    ++ u32 ((slotInstant first + l.rd .PRESENTATION_OFFSET_NS s) % 2 ^ 32) ++ u8 0x03 ++ u16 (5 * 2 ^ 12 + ch) ++ u8 24
    ++ u16 (3 * ch * 6 * m) ++ u8 0 ++ u8 0 ++ pcm

/-- The IPv4 packet of an RTP packet (R583). -/
def Live.rtpPacket (l : Live) (s m seq : Nat) (mark : Bool) (pcm : List Byte) : List Byte :=
  let first := (l.now + 2 ^ 64 - m) % 2 ^ 64
  let rtp := u8 0x80 ++ u8 (mark.toNat * 128 + l.rd .PAYLOAD_TYPE s) ++ u16 seq ++ u32 (6 * first) ++ u32 (l.rd .SSRC_1550 s) ++ pcm
  let src := l.rd .SRC_IP s
  let dst := l.rd .DST_IP s
  let seg := fun (c : Nat) => u16 (l.rd .UDP_SRC s) ++ u16 (l.rd .UDP_DST_1550 s) ++ u16 (8 + rtp.length) ++ u16 c ++ rtp
  let c := pseudoChecksum false src dst 17 (seg 0)
  let udp := seg (if c = 0 then 0xFFFF else c)
  let h := u8 0x45 ++ u8 (46 * 4) ++ u16 (20 + udp.length) ++ u16 0 ++ u16 0x4000 ++ u8 64 ++ u8 17
  let t := u32 src ++ u32 dst
  h ++ u16 (inetChecksum (h ++ u16 0 ++ t)) ++ t ++ udp

/-- A frame of Muslin enters from port M and is forwarded by its destination (R308, R581). -/
def Live.muslinSend (l : Live) (s : Nat) (p : Nat × List Byte) : Live :=
  let bytes := ethernet (l.rd .DEST_MAC s) (baseMac (32 + s)) p.1 p.2
  let f : Frame :=
    { bytes := bytes, word := wordOf (l.rd .TENANCY s) (l.rd .VID_1550 s) (l.rd .PCP s), port := 55, ingress := l.ticks,
      beat := l.now, stamp := l.nowNs }
  let o := l.forward { f := f, x := parse bytes }
  if o.1.input then o.2.admitEach o.1.item.f o.1.ports else o.2.enterFabric o.1.item.f o.1.ports

/-- A packet-out stream has a packet due at this boundary and has not made it. -/
def Live.outDue (l : Live) (s : Nat) : Bool :=
  l.mode.running && l.rdB .ENABLE_1550 s && !l.outSilent s && l.now % l.outBeats s == 0
    && (l.audio.outs.get s).last != some l.ticks

/-- The packet that falls due (R581, R585). -/
def Live.packetOut (l : Live) (s : Nat) : Live :=
  let m := l.outBeats s
  let x := l.audio.outs.get s
  let tn := l.rd .TENANCY s
  let set := fun (l : Live) (f : PacketOut → PacketOut) => l.setAudio fun a => { a with outs := a.outs.upd s f }
  let l1 := set l fun x => { x with seq := (x.seq + 1) % 2 ^ 16, last := some l.ticks }
  if l.packetsHeld then (l1.count .PACKETS_HELD 1 s).mark 561 [] tn
  else
    let pcm := l.outSamples s m
    let p := if l.rd .FORMAT s = 0 then (0x22F0, l.aafBody s m (x.seq % 256) x.mr pcm)
      else (0x0800, l.rtpPacket s m x.seq x.mark pcm)
    ((set l1 fun x => { x with mark := false }).count .PACKETS_SENT 1 s).blk 22 .eventsOut 1 s |>.muslinSend s p

/-- Streams are handed to port M in ascending order: those below that are due go first (R581). -/
def Live.packetsOut (l : Live) (s : Nat) : Live := l.forN (s + 1) fun l k => if l.outDue k then l.packetOut k else l

def execPacketOut (stream : Fin 8) (at_ : Nat) (s : State) : Host.Outcome State Fault Refusal :=
  s.effect fun l => if l.outDue stream.val then (l.at at_).packetsOut stream.val else l

/-- A packet-out stream starts: its next RTP packet carries M (R583). -/
def Live.outStart (l : Live) (s : Nat) : Live :=
  l.setAudio fun a => { a with outs := a.outs.upd s fun x => { x with mark := true } }

/-! ### Packet in (R584, R585) -/

/-- When a packet's samples are due, relative to slot 0 of the beat: the time of the first in ns (AAF), or its slot (RTP). -/
inductive AudioDue where
  | time (ns : Int)
  | slot (k : Int)
deriving DecidableEq, Repr, Inhabited

/-- A packet as a stream takes it: sequence number and its modulus, when it is due, PCM. -/
structure AudioPacket where
  seq : Nat
  wrap : Nat
  due : AudioDue
  pcm : List Byte
deriving DecidableEq, Repr, Inhabited

/-- A 32-bit difference nearest 0. -/
def near32 (a b : Nat) : Int := let d := (a + 2 ^ 32 - b % 2 ^ 32) % 2 ^ 32; if d < 2 ^ 31 then (d : Nat) else (d : Nat) - (2 ^ 32 : Int)

/-- The first slot, relative to slot 0 of the current beat, whose nominal instant is `d` ns after that of slot 0 or later. -/
def slotAfter (d : Int) : Int :=
  let b := d.ediv 125000
  let r := (d.emod 125000).toNat
  6 * b + (((List.range 7).find? fun k => r ≤ 125000 * k / 6).getD 6 : Nat)

/-- The slot of sample `j` of a packet, relative to slot 0 of the beat (R584). -/
def AudioPacket.slot (p : AudioPacket) (j : Nat) : Int :=
  match p.due with
  | .time d => slotAfter (d + 20833 * j)
  | .slot k => k + j

/-- A slot relative to slot 0 of the current beat, as its number modulo 2^32. -/
def Live.slotAt (l : Live) (k : Int) : Nat := (((6 * l.now : Nat) + k) % (2 ^ 32 : Int)).toNat

/-- The bytes behind the EtherType. -/
def etherBody (f : List Byte) (x : Parsed) : List Byte := f.drop (14 + 4 * x.tags)

/-- The AAF packet that matches stream `i` (R584). -/
def Live.aafMatch (l : Live) (i : Nat) (f : List Byte) (x : Parsed) : Option AudioPacket :=
  let b := etherBody f x
  let ch := l.rd .IN_CHANNELS i
  if x.etherType = 0x22F0 ∧ fieldAt b 0 1 = 0x02 ∧ fieldAt b 4 8 = l.rd .STREAM_ID_1558 i ∧ fieldAt b 16 1 = 0x03
      ∧ bits (fieldAt b 17 2) 12 4 = 5 ∧ bits (fieldAt b 17 2) 0 10 = ch then
    some { seq := fieldAt b 2 1, wrap := 256, due := .time (near32 (fieldAt b 12 4) (slotInstant l.now)),
           pcm := slice b 24 (fieldAt b 20 2 / (3 * max 1 ch) * (3 * ch)) }
  else none

/-- The RTP packet that matches stream `i` (R584). -/
def Live.rtpMatch (l : Live) (i : Nat) (f : List Byte) (x : Parsed) : Option AudioPacket :=
  let ch := l.rd .IN_CHANNELS i
  if x.ip ≠ 0 ∧ x.l4 ∧ x.proto = 17 ∧ x.l4Dst = l.rd .IN_UDP_DST i then
    let b := (f.drop (x.l4Off + 8)).take (fieldAt f (x.l4Off + 4) 2 - 8)
    let csrc := 12 + 4 * bits (fieldAt b 0 1) 0 4
    let head := if bit (fieldAt b 0 1) 4 then csrc + 4 + 4 * fieldAt b (csrc + 2) 2 else csrc
    let pad := if bit (fieldAt b 0 1) 5 then fieldAt b (b.length - 1) 1 else 0
    let pcm := (b.drop head).take (b.length - head - pad)
    if bits (fieldAt b 0 1) 6 2 = 2 ∧ bits (fieldAt b 1 1) 0 7 = l.rd .IN_PAYLOAD_TYPE i
        ∧ (l.rd .IN_SSRC i = 0 ∨ l.rd .IN_SSRC i = fieldAt b 8 4) ∧ pcm ≠ [] ∧ pcm.length % (3 * max 1 ch) = 0 then
      some { seq := fieldAt b 2 2, wrap := 65536,
             due := .slot (near32 ((fieldAt b 4 4 + l.rd .RTP_LATENCY_SAMPLES i) % 2 ^ 32) (6 * l.now)), pcm := pcm }
    else none
  else none

/-- The lowest enabled stream that a frame matches. -/
def Live.streamFor (l : Live) (f : Frame) (x : Parsed) : Option (Nat × AudioPacket) :=
  (List.range 8).findSome? fun i =>
    if l.inRuns i ∧ l.rd .IN_TENANCY i = f.tn then
      (if l.rd .IN_FORMAT i = 0 then l.aafMatch i f.bytes x else l.rtpMatch i f.bytes x).map fun p => (i, p)
    else none

/-- The sources of a stream, by channel. -/
def Live.inSources (l : Live) (i : Nat) : List Nat := if l.rd .IN_CHANNELS i = 2 then [8 + i, 9 + i] else [8 + i]

/-- The samples of a packet are placed in their slots; a filled slot keeps its sample (R584). -/
def Live.placeSamples (l : Live) (i : Nat) (p : AudioPacket) : Live :=
  let srcs := l.inSources i
  let n := p.pcm.length / (3 * srcs.length)
  l.forN n fun l j =>
    let slot := l.slotAt (p.slot j)
    l.forN srcs.length fun l c =>
      let v := sample24 (fieldAt p.pcm (3 * (srcs.length * j + c)) 3)
      l.setSource (8 + i + c) fun x =>
        { x with slots := if x.slots.get slot = none then x.slots.put slot (some v) else x.slots }

/-- A packet of stream `i`; it is late as a whole where its first slot has begun, early where its last is too far ahead (R584,
R585). -/
def Live.packetFor (l0 : Live) (i : Nat) (p : AudioPacket) : Live :=
  let tn := l0.rd .IN_TENANCY i
  let srcs := l0.inSources i
  let n := p.pcm.length / (3 * srcs.length)
  let gap : Bool := match (l0.source (8 + i)).seq with
    | some q => p.seq != (q + 1) % p.wrap
    | none => false
  let l1 := (l0.setSource (8 + i) fun x => { x with seq := some p.seq }).when gap fun l => l.count .SEQ_GAPS 1 i
  let l := l1.blk 22 .eventsIn 1 i
  let cur : Int := (l.audio.slot : Nat)
  if p.slot 0 < cur then ((l.count .PACKETS_LATE 1 i).blk 22 .drops 1 i).mark 560 [] tn
  else if cur + 1536 < p.slot (n - 1) then
    ((l.count .PACKETS_EARLY 1 i).blk 22 .drops 1 i).forL srcs fun l s => (l.count .OVERRUN_SAMPLES_1540 n s).sourceFault s
  else if l.packetsHeld then (l.count .PACKETS_DISCARDED 1 i).mark 561 [] tn
  else
    match l.alloc 3 p.pcm.length tn with
    | ((0, h), l2) =>
      let b : AudioBuf := { handle := h, stream := i, first := l.slotAt (p.slot 0), last := l.slotAt (p.slot (n - 1)) }
      let l3 := (l2.bufWrite (handleKey h) 0 p.pcm false).setAudio fun a => { a with packets := a.packets ++ [b] }
      (l3.placeSamples i p).count .PACKETS_ACCEPTED 1 i
    | (_, l2) => l2.count .PACKETS_DISCARDED 1 i

/-- Port M hands a frame to Muslin. -/
def Live.packetIn (l : Live) (f : Frame) : Live :=
  match l.streamFor f (parse f.bytes) with
  | none => l.count .FILTERED 1 f.port
  | some (i, p) => if f.poisoned then l.count .PACKETS_DISCARDED 1 i else l.packetFor i p

def execPacketIn (at_ : Nat) (linkError : Option (Fin 8)) (s : State) : Host.Outcome State Fault Refusal :=
  s.effect fun l =>
    if l.portServed 55 then
      let l1 := match (l.at at_).takeFrom 55 with
        | (some f, l1) => l1.packetIn f
        | (none, l1) => l1
      match linkError with
      | some q => l1.linkMemoryError 55 q.val
      | none => l1
    else l

/-- The settings of a packet-in stream commit: a stream that starts begins SILENT (R580). -/
def Live.inSettings (l : Live) (i : Nat) (was : Bool) : Live :=
  if ¬ was ∧ l.inRuns i then
    l.forL (l.inSources i) fun l s => (l.setSource s fun x => { x with slots := [], seq := none }).sourceStart s
  else l

end Sys2Proof.Machine
end

