-- ==== Sys2Proof/Machine/Spotter.lean ====
section
/-! DEFINITION. The phrase spotter: feature frames, template matching, detections, rings and clips
(spec/17_muslin_audio.md, R586 to R589; spec/04_modes_lifecycle.md, R136 to R140). -/

namespace Sys2Proof.Machine

open Sys2Proof

def Live.spotter (l : Live) (i : Nat) : Spotter := l.audio.spotters.get i
def Live.setSpotter (l : Live) (i : Nat) (f : Spotter → Spotter) : Live :=
  l.setAudio fun a => { a with spotters := a.spotters.upd i f }

/-! ### Feature bytes (R586) -/

/-- sin of `num / den` quarter turns at 2^80. -/
def turnSine (num den : Nat) : Int :=
  let r := num % den
  match num / den % 4 with
  | 0 => (sineOf r den : Nat)
  | 1 => (sineOf (den - r) den : Nat)
  | 2 => -(sineOf r den : Nat)
  | _ => -(sineOf (den - r) den : Nat)

/-- The Hann window at sample `n`, at 2^40: sin² of n half turns in 1,024 or 1,023 (R586). -/
def hannAt (n : Nat) : Int :=
  let s := turnSine (2 * n) (if Config.hannPeriodic then 1024 else 1023)
  s * s / 2 ^ 120

/-- sin of k / 1,024 turns at 2^40, for k up to 1,023. -/
def sineTable : List Int := (List.range 1024).map fun k => turnSine k 256 / 2 ^ 40

/-- The energy of bin `k` of the DFT of the windowed samples. -/
def binEnergy (windowed : List Int) (k : Nat) : Nat :=
  let at_ := fun (n : Nat) => sineTable.getD (n % 1024) 0
  let sum := windowed.foldl (fun (a : Nat × Int × Int) x =>
    (a.1 + 1, a.2.1 + x * at_ (k * a.1 + 256), a.2.2 + x * at_ (k * a.1))) (0, 0, 0)
  (sum.2.1 * sum.2.1 + sum.2.2 * sum.2.2).toNat

/-- The largest n below 2^k above `n` for which n^41 is at most b. -/
def edgeSearch (b : Nat) : Nat → Nat → Nat
  | 0, n => n
  | k + 1, n => edgeSearch b k (if (n + 2 ^ k) ^ 41 ≤ b then n + 2 ^ k else n)

/-- Band edge `i` of 42 in Hz at 2^40: f + 700 runs from 825 to 8,200 in 41 equal ratios, as the scale of R586 is logarithmic
in it. -/
def bandEdge (i : Nat) : Nat := edgeSearch (2 ^ 1640 * 825 ^ (41 - i) * 8200 ^ i) 54 0 - 700 * 2 ^ 40

/-- Bins of 46.875 Hz at 2^40. -/
def binHz (k : Nat) : Nat := k * 46875 * 2 ^ 40 / 1000

/-- The weight of a bin in band `m` at 2^40: a triangle from its lower edge over its centre to its upper edge. -/
def bandWeight (m k : Nat) : Nat :=
  let f := binHz k
  let lo := bandEdge m
  let mid := bandEdge (m + 1)
  let hi := bandEdge (m + 2)
  if f ≤ lo ∨ hi ≤ f then 0
  else if f ≤ mid then (f - lo) * 2 ^ 40 / (mid - lo)
  else (hi - f) * 2 ^ 40 / (hi - mid)

/-- The energies of a window's 40 bands. -/
def bandEnergies (xs : List Int) : List Nat :=
  let windowed := ((List.range 1024).zip xs).map fun e => e.2 * hannAt e.1
  let bins := (List.range 161).map (binEnergy windowed)
  (List.range 40).map fun m => sumOf (fun k => bins.getD k 0 * bandWeight m k) (List.range 161)

/-- A full-scale sine at the centre of a band: 1,024 samples. -/
def fullScale (m : Nat) : List Int :=
  (List.range 1024).map fun n => turnSine (4 * n * bandEdge (m + 1)) (48000 * 2 ^ 40) * (2 ^ 23 : Int) / 2 ^ 80

/-- F = min(255, max(0, floor(20 * log10(E / ref)) + 160)): how many of the 255 levels E reaches. -/
def featureByte (e ref : Nat) : Nat :=
  ((List.range 255).filter fun j => decide (0 < e) && decide (ref ^ 20 * 10 ^ (j + 1) ≤ e ^ 20 * 10 ^ 160)).length

/-- The feature frame of 1,024 samples, oldest first (R586). -/
def featureBytes (xs : List Int) : List Byte :=
  ((List.range 40).zip (bandEnergies xs)).map fun e => byte (featureByte e.2 ((bandEnergies (fullScale e.1)).getD e.1 0))

/-! ### Best paths (R587) -/

/-- Distance of a feature frame from template frame `j`, in fortieths: the sum of the absolute differences. -/
def frameDistance (input template : List Byte) (j : Nat) : Nat :=
  (List.range 40).foldl (fun a k => a + ((fieldAt input k 1 : Int) - (fieldAt template (40 * j + k) 1 : Int)).natAbs) 0

/-- Whether a candidate with frame number `ja` comes before another with `jb`: the lesser mean distance, then the longer
path, then the lower frame.  A path of no frames has mean distance 0. -/
def pathBefore (a b : SpotPath × Nat) : Bool :=
  let x := a.1.sum * max 1 b.1.len
  let y := b.1.sum * max 1 a.1.len
  decide (x < y) || (x == y && (decide (b.1.len < a.1.len) || (a.1.len == b.1.len && decide (a.2 < b.2))))

/-- The best path for template frame `j` at a feature frame with stamp `b` and distance `d`. -/
def bestPath (old : List (Option SpotPath)) (j d b : Nat) : Option SpotPath :=
  let at_ := fun (k : Nat) => (old.getD k none).map fun p => (p, k)
  let cands : List (SpotPath × Nat) :=
    ((match at_ j with | some c => if c.1.stay < 2 then [c] else [] | none => [])
    ++ (if 1 ≤ j then (at_ (j - 1)).toList else []) ++ (if 2 ≤ j then (at_ (j - 2)).toList else []))
    ++ (if j = 0 then [(({ start := b, len := 0, sum := 0, stay := 0 } : SpotPath), 0)] else [])
  match cands with
  | [] => none
  | c :: cs =>
    let w := cs.foldl (fun best x => if pathBefore x best then x else best) c
    some { start := w.1.start, len := w.1.len + 1, sum := w.1.sum + d,
           stay := if w.2 = j ∧ w.1.len ≠ 0 then w.1.stay + 1 else 1 }

/-- The score of a path, weighted by how far into the template it has come. -/
def weightedScore (p : Option SpotPath) (j length : Nat) : Nat :=
  match p with
  | none => 0
  | some p => (1000 - 1000 * p.sum / (2560 * max 1 p.len)) * (j + 1) / max 1 length

/-- The paths of a template after a feature frame. -/
def stepPaths (old : List (Option SpotPath)) (input template : List Byte) (length b : Nat) : List (Option SpotPath) :=
  (List.range length).map fun j => bestPath old j (frameDistance input template j) b

/-! ### Detections (R588, R589) -/

/-- LAST_DETECTION (R589). -/
def Detection.bytes (d : Detection) : List Byte :=
  u8 d.template ++ u8 d.clipped.toNat ++ u16 d.score ++ u64 d.startBeat ++ u64 d.endBeat ++ u64 d.decision ++ u32 0

/-- What event 563 carries (R588, R646). -/
def Detection.data (d : Detection) : List Byte :=
  u64 d.startBeat ++ u64 d.endBeat ++ u64 d.decision ++ u8 d.inst ++ u8 d.template ++ u32 d.score

/-- A detection is held by the island (R140, R588). -/
def Live.holdDetection (l : Live) (d : Detection) : Live :=
  let beyond := decide (16 ≤ l.audio.held.length)
  let l1 := l.setAudio fun a =>
    { a with held := lastN 16 (a.held ++ [d]), displaced := a.displaced + beyond.toNat }
  (l1.when beyond fun l => l.count .AUDIO_HELD_LOST).wr .HELD_DETECTIONS l1.audio.held.length

/-- The waiting DORMANT request is withdrawn (R138). -/
def Live.dormantWithdrawn (l : Live) : Live :=
  ({ l with modes := { l.modes with dormantAsked := none } }).wrB .DORMANT_DEFERRED false

/-- A detection is decided (R139, R588, R589). -/
def Live.detected (l : Live) (d0 : Detection) : Live :=
  let i := d0.inst
  let d := { d0 with clipped := !l.rdB .CLIP_LOCKED i }
  let l1 := if d.clipped then
      (l.setSpotter i fun x => { x with clip := x.ring, clipBeat := x.ringBeat, clipDecision := d.decision }).wrB .CLIP_LOCKED
        true i
    else l
  let l2 := (l1.count .DETECTIONS 1 i).wr .LAST_DETECTION (beVal d.bytes) i
  let l3 := if l2.mode.evaluates then l2.raiseAt d.decision 563 d.data else l2.holdDetection d
  if bit (l3.rd .WAKE_SOURCES) 3 then
    let l4 := if l3.modes.dormantAsked = none then l3 else l3.dormantWithdrawn
    l4.wakeBy 3
  else l3

/-- Held detections are reported at the first beat of CONFIGURE, each stamped with its decision (R140, R588). -/
def Live.reportHeld (l : Live) : Live :=
  let l1 := l.forL l.audio.held fun l d => l.raiseAt d.decision 563 d.data
  let l2 := if l.audio.displaced = 0 then l1 else l1.raise 564 (u32 l.audio.displaced)
  (l2.setAudio fun a => { a with held := [], displaced := 0 }).wr .HELD_DETECTIONS 0

/-! ### Feature frames (R586 to R588) -/

/-- One template of an instance at a feature frame: its paths move, and a detection may be decided. -/
def Live.templateFrame (l : Live) (i t : Nat) (input : List Byte) (prev : Nat) : Live :=
  let n := l.rd .LENGTH t
  if n = 0 ∨ ¬ bit (l.rd .TEMPLATES i) t then l
  else
    let x := (l.spotter i).templates.get t
    let paths := stepPaths x.paths input (beBytes 6400 (l.rd .FEATURES t)) n l.now
    let last := paths.getD (n - 1) none
    let c := weightedScore last (n - 1) n
    let since := x.since.map (· + 1)
    let hit := decide (l.rd .THRESHOLD i ≤ x.complete) && decide (c ≤ x.complete)
      && (match since with | some k => decide (l.rd .REFRACTORY i < k) | none => true) && x.path != none
    let next : SpotTemplate := { paths := paths, complete := c, path := last, since := if hit then some 0 else since }
    let l1 := l.setSpotter i fun y => { y with templates := y.templates.put t next }
    if hit then
      l1.detected { inst := i, template := t, score := x.complete,
                    startBeat := ((x.path.map (·.start)).getD 0 + 2 ^ 64 - 80) % 2 ^ 64, endBeat := prev, decision := l.now }
    else l1

/-- The highest weighted score of an instance's enabled templates (R587). -/
def Live.partialScore (l : Live) (i : Nat) : Nat :=
  ((List.range 8).filter fun t => bit (l.rd .TEMPLATES i) t && l.rd .LENGTH t != 0).foldl (fun m t =>
    let ps := ((l.spotter i).templates.get t).paths
    (List.range ps.length).foldl (fun m j => max m (weightedScore (ps.getD j none) j (l.rd .LENGTH t))) m) 0

/-- A feature frame of an enabled instance (R586). -/
def Live.featureFrame (l : Live) (i : Nat) : Live :=
  let x := l.spotter i
  if l.audioClass = 0 ∨ ¬ l.rdB .ENABLE_1560 i ∨ l.elapsed % 80 ≠ 0 ∨ x.framed = some l.ticks then l
  else
    let input := featureBytes (x.ring.take 1024 ++ List.replicate (1024 - x.ring.length) 0).reverse
    let l1 := l.setSpotter i fun x => { x with frame := l.now, framed := some l.ticks }
    let l2 := l1.forN 8 fun l t => l.templateFrame i t input x.frame
    l2.wr .PARTIAL_SCORE (l2.partialScore i) i

/-- Instances compute in ascending order (R588). -/
def Live.featureFrames (l : Live) (i : Nat) : Live := l.forN (i + 1) Live.featureFrame

def execFeatureFrame (i : Fin 2) (s : State) : Host.Outcome State Fault Refusal := s.effect fun l => l.featureFrames i.val

/-- A spotter instance holds a partial match whose score exceeds half its threshold (R138). -/
def Live.partialMatch (l : Live) : Bool :=
  (List.range 2).any fun i => l.rdB .ENABLE_1560 i && decide (l.rd .THRESHOLD i < 2 * l.rd .PARTIAL_SCORE i)

/-- A template write: its paths restart in every instance at the next feature frame (R590). -/
def Live.templateChanged (l : Live) (t : Nat) : Live :=
  l.forN 2 fun l i => l.setSpotter i fun x => { x with templates := x.templates.upd t fun y => { since := y.since } }

/-- CLIP_RELEASE (R589). -/
def Live.clipRelease (l : Live) (i : Nat) : Live := l.wrB .CLIP_LOCKED false i

def execClipRelease (i : Fin 2) (s : State) : Host.Outcome State Fault Refusal := s.effect fun l => l.clipRelease i.val

/-- RING and CLIP: LAST_BEAT, the decision beat, and 96,000 samples, oldest first (R589). -/
def spotBytes (beat decision : Nat) (xs : List Int) : List Byte :=
  u64 beat ++ u64 decision
    ++ ((xs.reverse ++ []).foldl (fun (a : List (List Byte)) x => beBytes 3 (word24 x) :: a)
      (List.replicate (96000 - xs.length) (beBytes 3 0))).reverse.flatten

/-- Island memory errors (R595): instances whose template, ring or match state holds an uncorrectable word restart; held
detections that hold one are discarded. -/
def Live.islandErrors (l : Live) (insts helds : List Nat) : Live :=
  if insts = [] ∧ helds = [] then l
  else
    let l1 := (l.forL insts Live.spotterRestart).mark 566
    let kept := (List.range l1.audio.held.length).filterMap fun k => if helds.contains k then none else l1.audio.held[k]?
    (l1.setAudio fun a => { a with held := kept }).wr .HELD_DETECTIONS kept.length

end Sys2Proof.Machine
end

