-- ==== Sys2Proof/Machine/Unit.lean ====
section
/-! DEFINITION. Sensors, fans, LEDs and thermal control (spec/21_unit_hardware.md). -/

namespace Sys2Proof.Machine

open Sys2Proof

def Live.setUnit (l : Live) (f : Enclosure → Enclosure) : Live := { l with enclosure := f l.enclosure }

/-! ### Sensors (R709, R710, R723) -/

/-- In DORMANT and LISTEN the supervisor keeps sensors 0 and 1 powered (R723). -/
def Live.sensorPowered (l : Live) (s : Nat) : Bool := !((l.mode == .dormant || l.mode == .listen) && 2 ≤ s)

/-- A sensor's effective alarm threshold (R710). -/
def Live.sensorThreshold (l : Live) (s : Nat) : Int := min (l.rdI .ALARM s) (l.rdI .CRITICAL s - 10)

/-- STATE from a reading, by the rules of R710 other than FAULT. -/
def Live.sensorJudge (l : Live) (s : Nat) (old : Nat) (v : Int) : Nat :=
  let crit := l.rdI .CRITICAL s
  let alarm := l.sensorThreshold s
  if crit ≤ v ∨ (old = 2 ∧ crit - 30 < v) then 2
  else if alarm ≤ v ∨ ((old = 1 ∨ old = 2) ∧ alarm - 30 < v) then 1
  else 0

/-- A sensor counts as reading its effective alarm threshold while in FAULT. -/
def Live.reading (l : Live) (s : Nat) : Int := if l.rd .STATE_1990 s = 3 then l.sensorThreshold s else l.rdI .VALUE s

/-- The CASE_TEMP of the two channels (R709, R710). -/
def Live.showCaseTemp (l : Live) : Live :=
  l.forN 2 fun l c => l.wrI .CASE_TEMP (if l.rd .STATE_1990 (3 + c) = 3 then 850 else l.rdI .VALUE (3 + c)) c

/-- A sensor reports; one in FAULT leaves it, judged afresh (R709, R710). -/
def Live.sensorReport (l : Live) (s : Nat) (v : Int) : Live :=
  let first := !bit l.enclosure.seen s
  let old := l.rd .STATE_1990 s
  let l1 := l.setUnit fun u => { u with silent := u.silent.put s 0, seen := setBit u.seen s true }
  let l2 := (l1.wrI .VALUE v s).when (first || decide (l.rdI .PEAK s < v)) fun l => l.wrI .PEAK v s
  l2.wr .STATE_1990 (l2.sensorJudge s (if first ∨ old = 3 then 0 else old) v) s

/-- Phase 2: the readings of a boundary are sampled; the others have not reported. -/
def Live.sampleSensors (l : Live) (rs : List (Nat × Int)) : Live :=
  if l.mode = .off then l
  else
    let l1 := l.forN 8 fun l s =>
      if ¬ l.sensorPowered s then (l.setUnit fun u => { u with silent := u.silent.put s 0 }).wr .STATE_1990 0 s
      else
        match rs.find? fun r => r.1 == s with
        | some r => l.sensorReport s r.2
        | none => l.setUnit fun u => { u with silent := u.silent.upd s (· + 1) }
    l1.showCaseTemp

/-- A sensor without a report for 8 beats enters FAULT (R710). -/
def Live.sensorSilent (l : Live) (sensor : Nat) : Live :=
  if l.mode ≠ .off ∧ l.sensorPowered sensor ∧ 8 ≤ l.enclosure.silent.get sensor then
    (l.wr .STATE_1990 3 sensor).showCaseTemp
  else l

def execSensorFault (sensor : Fin 8) (s : State) : Host.Outcome State Fault Refusal :=
  s.effect fun l => l.sensorSilent sensor.val

/-- A sensor in FAULT that reports again leaves FAULT (R710). -/
def execSensorReportRestored (sensor : Fin 8) (s : State) : Host.Outcome State Fault Refusal :=
  s.effect fun l =>
    if l.rd .STATE_1990 sensor.val = 3 then
      let l1 := l.setUnit fun u => { u with silent := u.silent.put sensor.val 0 }
      (l1.wr .STATE_1990 (l1.sensorJudge sensor.val 0 (l1.rdI .VALUE sensor.val)) sensor.val).showCaseTemp
    else l

def Live.anyCritical (l : Live) : Bool := (List.range 8).any fun s => l.rd .STATE_1990 s == 2

/-- The firmware asks for FREEZE in this beat (R714). -/
def Live.thermalFreeze (l : Live) : Bool :=
  l.rd .THERMAL_ACTION == 1 && l.anyCritical && l.mode != .freeze && (l.mode == .configure || l.mode.running)

/-! ### Fans (R711 to R713, R723) -/

/-- Any fan is FAILED or the tray is absent. -/
def Live.fanTrouble (l : Live) : Bool := l.rd .FAN_FAILED != 0 || !l.rdB .TRAY_PRESENT

/-- The margin m in whole degrees: the smallest over all sensors, no less than 0 (R711, R723). -/
def Live.thermalMargin (l : Live) : Nat :=
  let margin := fun (s : Nat) =>
    if l.sensorPowered s then ((l.sensorThreshold s - l.reading s).ediv 10).toNat else 30
  (List.range 8).foldl (fun m s => min m (margin s)) (margin 0)

/-- The target of the fan level. -/
def Live.fanTarget (l : Live) : Nat := min 15 (max (l.rd .FAN_MIN_LEVEL) (15 - l.thermalMargin / 2))

/-- The fan level follows a fan that failed or a tray that left (R711). -/
def Live.fanForce (l : Live) : Live := if l.fanTrouble then l.wr .FAN_LEVEL 15 else l

/-- One fan is judged: below 50 % for the third time it fails, at 75 % it clears (R713). -/
def Live.judgeFan (l : Live) (k percent : Nat) : Live :=
  let n := if percent < 50 then l.enclosure.misses.get k + 1 else 0
  let l1 := l.setUnit fun u => { u with misses := u.misses.put k n }
  let f := l.rd .FAN_FAILED
  if bit f k then (if 75 ≤ percent then l1.wr .FAN_FAILED (setBit f k false) else l1)
  else if 3 ≤ n then l1.wr .FAN_FAILED (setBit f k true)
  else l1

/-- Before CONFIGURE a power-on reset is followed by no evaluation (R723). -/
def Live.fansWait (l : Live) : Bool := (l.mode == .bringup || l.mode == .wipe) && l.modes.kind == .powerOn

/-- The time from a power-on reset until the first evaluation in CONFIGURE (R723). -/
def Live.fansStarting (l : Live) : Bool :=
  l.modes.kind == .powerOn && l.enclosure.evaluated.isNone && !(l.mode == .off || l.mode == .dormant || l.mode == .listen)

/-- In that time the fans run at level 3, or 15 while a sensor is CRITICAL or a fan fails (R711, R723). -/
def Live.fanStartLevel (l : Live) : Live :=
  if l.fansStarting then (l.wr .FAN_LEVEL (if l.anyCritical then 15 else 3)).fanForce else l

/-- The evaluation of every 8,000 beats: fans are judged from their speeds (rev/min, per cent of the commanded), and the
level moves (R711, R713). -/
def Live.fanEvaluation (l : Live) (tach : List (Nat × Nat)) : Live :=
  if l.mode = .off ∨ l.fansWait ∨ l.elapsed % 8000 ≠ 0 ∨ l.enclosure.evaluated = some l.ticks then l
  else
    let l1 := l.setUnit fun u => { u with evaluated := some l.ticks }
    let l2 := if l1.rdB .TRAY_PRESENT then
        l1.forN 3 fun l k =>
          let t := tach.getD k (0, 0)
          (l.wrSat .FAN_RPM t.1 0 k).judgeFan k t.2
      else l1
    let target := l2.fanTarget
    let cur := l2.rd .FAN_LEVEL
    (l2.wr .FAN_LEVEL (if cur < target then target else max target (cur - 1))).fanForce

/-- Phase 2 evaluates the fans where the boundary brings their speeds; else FAN_EVALUATION brings them (DESIGN CHOICE, log 141). -/
def Live.fansSampled (l : Live) (tach : Option (List (Nat × Nat))) : Live :=
  match tach with
  | some t => l.fanEvaluation t
  | none => l

def execFanEvaluation (tach : List (Nat × Nat)) (s : State) : Host.Outcome State Fault Refusal :=
  s.effect fun l => l.fanEvaluation tach

/-- The tray is removed or inserted, debounced (R713, R718). -/
def Live.trayChange (l : Live) (present : Bool) : Live :=
  if l.mode = .off ∨ l.rdB .TRAY_PRESENT = present then l
  else
    let l1 := (l.wrB .TRAY_PRESENT present).setUnit fun u => { u with misses := [] }
    if present then l1 else (l1.wr .FAN_FAILED 7).fanForce

def execTrayPresenceChange (present : Bool) (s : State) : Host.Outcome State Fault Refusal :=
  s.effect fun l => l.trayChange present

/-- Step 4 of the arbiter: the fan-boost requester's request (R712). -/
def Live.boostRequest (l : Live) : Live := l.wr .BOOST_REQUEST (50 * (l.rd .FAN_LEVEL - 3))

/-- The level conditions of this chapter that stand (R710, R713). -/
def Live.unitLevels (l : Live) : List (Nat × Nat × List Byte) :=
  let lowest := fun (p : Nat → Bool) => (List.range 8).find? fun s => p (l.rd .STATE_1990 s)
  (match lowest fun st => st == 1 || st == 2 with | some s => [(629, 0, u8 s)] | none => [])
  ++ (match lowest fun st => st == 3 with | some s => [(630, 0, u8 s)] | none => [])
  ++ (if l.fanTrouble then [(631, 0, u64 (l.rd .FAN_FAILED) ++ u8 (l.rd .TRAY_PRESENT))] else [])

/-! ### LEDs (R706 to R708) -/

/-- What an LED shows. -/
inductive Led where
  | dark | green | amber | red | greenFlash4s | green1Hz | red1Hz | red2Hz | amber1Hz | amber4Hz | blue1Hz | greenAmber1Hz
  | redFlashes (n : Nat) | test
deriving DecidableEq, Repr, Inhabited

/-- The LED test runs (R708). -/
def Live.ledTesting (l : Live) : Bool :=
  match l.enclosure.ledTest with
  | some t => decide (l.ticks < t + 8000)
  | none => false

/-- The fault indication that is due (R707). -/
def Live.faultDue (l : Live) : Nat :=
  if l.mode = .bringup ∧ l.modes.recovery then 1
  else if l.mode = .bringup ∧ 3 ≤ l.modes.trainingFails then 2
  else if l.mode = .wipe ∧ 3 ≤ l.modes.wipeAttempts then 3
  else if l.enclosure.tripped then 4
  else 0

/-- FAULT_CODE keeps the latest code shown (R707). -/
def Live.showFault (l : Live) : Live := if l.faultDue = 0 then l else l.wr .FAULT_CODE l.faultDue

/-- The SYS LED (R706, R707). -/
def Live.sysLed (l : Live) : Led :=
  if l.mode = .off then .dark
  else if l.faultDue ≠ 0 then .redFlashes l.faultDue
  else if l.ledTesting then .test
  else match l.mode with
    | .off => .dark
    | .dormant | .listen => .greenFlash4s
    | .bringup | .wipe => .amber
    | .configure => .green1Hz
    | .service => .green
    | .island | .backfill | .lean => .greenAmber1Hz
    | .freeze => .red
    | .decommissioned => .red1Hz

/-- Every LED but SYS is dark in DORMANT and LISTEN, and in OFF; the test lights it otherwise (R708). -/
def Live.led (l : Live) (shown : Led) : Led :=
  if l.mode = .off ∨ l.mode = .dormant ∨ l.mode = .listen then .dark else if l.ledTesting then .test else shown

def Live.accessGreen (l : Live) (p : Nat) : Led := l.led (if l.portUp p then .green else .dark)
def Live.accessAmber (l : Live) (p : Nat) : Led :=
  l.led (match l.rd .STATE_0340 p with
    | 2 => .amber1Hz | 3 => .amber | 4 => .amber1Hz | 5 => .amber4Hz | _ => .dark)
def Live.uplinkLed (l : Live) (u : Nat) : Led :=
  l.led (match l.rd .LINK_STATE_0401 (48 + u) with
    | 3 => .green | 6 => .amber | 7 => .amber | _ => .dark)
def Live.psuLed (l : Live) (b : Nat) : Led :=
  l.led (match l.rd .STATE_0200 b with
    | 1 => .green | 2 => .amber | 3 => .red2Hz | 4 => .red2Hz | 5 => .red2Hz | _ => .dark)
def Live.fanLed (l : Live) : Led := l.led (if l.fanTrouble then .red else .green)
def Live.hostLed (l : Live) : Led := l.led (if (l.host.fns.get 0).present then .green else .dark)
def Live.locateLed (l : Live) : Led := l.led (if l.rdB .LOCATE then .blue1Hz else .dark)

/-- LED_TEST commits (R708). -/
def Live.ledTestStart (l : Live) : Live := l.setUnit fun u => { u with ledTest := some l.ticks }

def execLedTest (s : State) : Host.Outcome State Fault Refusal :=
  s.effect fun l => if l.mode = .off ∨ l.mode = .dormant ∨ l.mode = .listen then l else l.ledTestStart

/-- The LED test ends after 8,000 beats (R708). -/
def Live.ledTestOver (l : Live) : Live :=
  match l.enclosure.ledTest with
  | some t => if t + 8000 ≤ l.ticks then l.setUnit fun u => { u with ledTest := none } else l
  | none => l

def execLedTestEnd (s : State) : Host.Outcome State Fault Refusal :=
  s.effect Live.ledTestOver

/-- Sensors, fans and LEDs start again (R719, R723). -/
def Live.unitRestart (l : Live) : Live :=
  let l1 := (l.toDefault .FAN_FAILED).wr .LOCATE 0
  let l2 := l1.setUnit fun u => { trip := u.trip, tripped := u.tripped, silent := [] }
  l2.forN 8 fun l s => l.toDefault .STATE_1990 s

end Sys2Proof.Machine
end

