-- ==== Sys2Proof/Machine/Tenancies.lean ====
section
/-! DEFINITION. Tenancies: to whom each object is bound, quotas, sessions, port ownership and usage
(spec/05_tenancies.md; R72, R89). -/

namespace Sys2Proof.Machine

open Sys2Proof

/-! ### The tenancy of a BOUND object (R72, R169) -/

/-- The port that an item of a per-port record serves. -/
def Obj.port? (o : Obj) (i : Nat) : Option Nat :=
  let b := o.base
  if (0x0300 ≤ b && b < 0x0380) || (0x0400 ≤ b && b ≤ 0x0407) || b == 0x0810 || b == 0x0A00 || b == 0x0C40
      || b == 0x0E00 || b == 0x0E40 || b == 0x0E80 || b == 0x0EC0 || (0x1000 ≤ b && b < 0x10C0) then some i
  else if b = 0x3100 ∨ b = 0x3180 ∨ b = 0x3200 then some (i / 2)
  else none

/-- The tenancy to which item `i`, offset `k` of a BOUND object belongs. -/
def Live.ownerOf (l : Live) (o : Obj) (i k : Nat) : Nat :=
  match o.port? i with
  | some p => l.portOwner p
  | none =>
    match elemTable o with
    | some t => l.elemOwner t (128 * i + k)
    | none =>
      match o.base with
      | 0x0850 => i
      | 0x0910 => requesterTn i
      | 0x1120 => i
      | 0x1130 => i
      | 0x1240 => l.streamTn i
      | 0x1550 => l.rd .TENANCY i
      | 0x1558 => l.rd .IN_TENANCY i
      | 0x1610 => i
      | 0x1620 => i
      | 0x1810 => l.blkOwner i k
      | 0x1830 => l.blkOwner i k
      | 0x2300 => l.elemOwner .ct3 (128 * i + k)
      | 0x2400 => let v := l.elem .MAC_TABLE (128 * i + k); if macUsed v then (MacEntry.unpack v).tn else 0
      | 0x3020 => polOwner (l.elem .POLICER_TABLE (128 * i + k))
      | 0x3400 => (l.seg (128 * i + k)).tn
      | _ => 0

/-- Always-running counters: RO values of 64 bits that count (R656), and the counters of table elements. -/
def Obj.counts (o : Obj) : Bool :=
  (o.acc == .ro && o.ty == .u 8 && !((o.base == 0x0100) || (o.base == Obj.SCRUB_BACKLOG.base && o.sub == Obj.SCRUB_BACKLOG.sub)
      || (o.base == Obj.SCRUB_POSITION.base && o.sub == Obj.SCRUB_POSITION.sub)))
    || o.base == 0x2300 || o.base == 0x3020

/-- The object, item, offset and instance of a key of the store. -/
def keyObject (key : Nat) : Option (Obj × Nat × Nat × Nat) :=
  (findObject (key / 256 % 65536) (key % 256)).map fun e => (e.1, e.2.1, e.2.2, key / 16777216)

/-! ### Quotas (R170 to R174) -/

/-- The configured quota `q` of a tenancy. -/
def Live.quotaSet (l : Live) (n q : Nat) : Nat :=
  let o : Obj := match q with
    | 0 => .CT0_ENTRIES | 1 => .CT1_ENTRIES | 2 => .CT2_ENTRIES | 3 => .CT3_ENTRIES | 4 => .MAC_LIMIT | 5 => .DAMASK_SLOTS
    | 6 => .NEXT_HOPS | 7 => .MCAST_GROUPS | 8 => .POLICERS | 9 => .CELLS | 10 => .RETAIN_SEGMENTS | _ => .BLOCK_COUNTERS
  l.rd o n

/-- Effective quotas of one kind, for TN1 to TN7 in ascending order, then TN0 (R172). -/
def Live.computeQuota (l : Live) (q : Nat) : Live :=
  let r := (List.range 7).foldl (fun (a : Live × Nat) k =>
    let n := k + 1
    let e := if a.1.tnServes n then min (a.1.quotaSet n q) (quotaTotal q - quotaFloor q - a.2) else 0
    (a.1.wrV .EFFECTIVE_QUOTA e n q, a.2 + e)) (l, 0)
  r.1.wrV .EFFECTIVE_QUOTA (quotaTotal q - r.2) 0 q

/-- The set of quotas of a tenancy that are short. -/
def Live.shortQuotas (l : Live) (n : Nat) : Nat :=
  if n ≠ 0 ∧ l.tnServes n then maskOf ((List.range 12).filter fun q => l.rd .EFFECTIVE_QUOTA n q < l.quotaSet n q) else 0

/-- The end of each commit phase computes the effective quotas (R172). -/
def Live.computeQuotas (l : Live) : Live :=
  let l1 := l.forN 12 Live.computeQuota
  l1.wr .QUOTA_SHORT (maskOf ((List.range 8).filter fun n => l1.shortQuotas n != 0))

/-- Block counters that a tenancy owns, whatever they count (R660). -/
def Live.blockUse (l : Live) (n : Nat) : Nat :=
  sumOf (fun b => ((List.range 16).filter fun c => l.blkOwner b c == n).length) (List.range 24)

/-- Usage of a quota (R170). -/
def Live.quotaUse (l : Live) (n q : Nat) : Nat :=
  match q with
  | 0 => l.elemUsage .ct0 n | 1 => l.elemUsage .ct1 n | 2 => l.elemUsage .ct2 n | 3 => l.elemUsage .ct3 n
  | 4 => l.rd .QUOTA_USAGE n 4
  | 5 => l.elemUsage .damask n | 6 => l.elemUsage .nextHop n | 7 => l.elemUsage .group n | 8 => l.elemUsage .policer n
  | 9 => l.cellUse n
  | 10 => (l.segsWhere fun g => g.tn == n).length
  | _ => l.blockUse n

/-- The set of quotas that a tenancy exceeds (R174). -/
def Live.overQuotas (l : Live) (n : Nat) : Nat :=
  maskOf ((List.range 12).filter fun q => l.rd .EFFECTIVE_QUOTA n q < l.rd .QUOTA_USAGE n q)

/-- Usage and OVER_QUOTA as a boundary shows them. -/
def Live.showUsage (l : Live) : Live :=
  let l1 := l.forN 8 fun l n => l.forN 12 fun l q => if q = 4 then l else l.wr .QUOTA_USAGE (l.quotaUse n q) n q
  l1.wr .OVER_QUOTA (maskOf ((List.range 8).filter fun n => l1.overQuotas n != 0))

/-- The level conditions of this chapter that stand, one instance per tenancy (R172, R174). -/
def Live.tenancyLevels (l : Live) : List (Nat × Nat × List Byte) :=
  ((List.range 8).filter fun n => l.shortQuotas n != 0).map (fun n => (22, n, u64 (l.shortQuotas n)))
  ++ ((List.range 8).filter fun n => l.overQuotas n != 0).map fun n => (23, n, u64 (l.overQuotas n))

/-! ### States and sessions (R166 to R168) -/

/-- A tenancy's state, with TN_ACTIVE. -/
def Live.setTn (l : Live) (n st : Nat) : Live :=
  let l1 := l.wrV .TN_STATE st n
  l1.wr .TN_ACTIVE (maskOf ((List.range 8).filter l1.tnActive))

/-- Tenancies whose record claims a session. -/
def Live.claims (l : Live) (s : Nat) : List Nat := (List.range 8).filter fun n => n != 0 && bit (l.rd .INBAND_SESSIONS n) s

/-- One session binds, and the claims that start to be ignored are told (R167, R168). -/
def Live.bindSession (l : Live) (s : Nat) : Live :=
  let cs := l.claims s
  let new := (cs.find? l.tnActive).getD 0
  let old := l.sessionTenancy s
  let l1 := if new = old then l
    else
      let l1 := if (l.sessions.get s).open_ then l.sessionClose s else l
      let l2 := (((l1.wr .SESSION_BINDING (setBits (l1.rd .SESSION_BINDING) (8 * (3 - s)) 8 new)).setSession s fun x =>
        { x with window := {}, oldWindow := {}, graceEnd := none, exhausted := false }).wr .TX_SEQ 0 s).wr .RX_SEQ_HIGH 0 s
      if l2.rdB .ENABLE_0790 s then l2.sessionOpen s else l2
  let lost := if new = 0 then [] else cs.filter fun n => n != new
  let fresh := lost.filter fun n => !l.tenancies.conflicts.contains (4 * n + s)
  let kept := (l.tenancies.conflicts.filter fun c => c % 4 != s) ++ lost.map fun n => 4 * n + s
  ({ l1 with tenancies := { l1.tenancies with conflicts := kept } }).forL fresh fun l n => l.raise 24 (u8 s ++ u8 n)

/-- The sessions bind at the end of a commit phase. -/
def Live.bindSessions (l : Live) : Live := l.forN 4 Live.bindSession

/-- What the end of a commit phase computes: quotas, sessions, guarantees (R167, R172, R388). -/
def Live.tenanciesSettle (l : Live) : Live := (l.computeQuotas.bindSessions).computeGuarantees

/-! ### Port ownership (R183) -/

/-- The cells that satisfy a test return to their defaults. -/
def Live.clearCells (l : Live) (p : Obj → Nat → Nat → Nat → Bool) : Live :=
  l.forL l.store.keys fun l key =>
    match keyObject key with
    | some (o, i, k, t) => if p o i k t then { l with store := l.store.del key } else l
    | none => l

/-- The counters that satisfy a test return to 0. -/
def Live.clearCounters (l : Live) (p : Obj → Nat → Nat → Nat → Bool) : Live :=
  l.clearCells fun o i k t => o.counts && p o i k t

/-- A table element goes with no version (R289): no frame reads it from now on. -/
def Live.elemGone (l : Live) (t : ElemTable) (e v : Nat) : Live :=
  let key := t.obj.key (e / 128) (e % 128) 0
  ((l.setElem t.obj e v).setPlane fun x => { x with versions := x.versions.filter fun w => w.key != key }).elemMeets t e (some v)

/-- The elements of a table, of both banks, as number and content. -/
def Live.allElems (l : Live) (t : ElemTable) : List (Nat × Nat) := l.elems t.obj 0 (t.obj.hi + 1)

/-- A port changes owner at a commit phase (R183). -/
def Live.portMoved (l : Live) (p old : Nat) : Live :=
  let l1 := l.flannelOwner p
  let l2 := l1.forL (l1.allElems .ct0) fun l e =>
    if bit e.2 0 ∧ bits e.2 93 3 = old ∧ bits e.2 122 6 = p then l.elemGone .ct0 e.1 (ElemTable.clearValid .ct0 e.2) else l
  let l3 := l2.macPurge fun e => !e.static && e.tn == old && l2.countPort e.dest == p
  let l4 := l3.clearCounters fun o i _ _ => o.port? i == some p
  let l5 := l4.forL [128 + p, 192 + p] fun l src => l.forN 8 fun l t => l.setEv src t fun e => { e with latched := false }
  l5.refreshStreams

/-- PORT_OWNER commits: every port whose byte changed moves. -/
def Live.portOwners (l : Live) (old : Nat) : Live :=
  l.forN 48 fun l p =>
    let o := bits old (8 * (47 - p)) 8
    if o = l.portOwner p then l else l.portMoved p o

end Sys2Proof.Machine
end

