-- ==== Sys2Proof/Machine/Effects.lean ====
section
/-! DEFINITION. What follows from committed values: the effects, by object, of a field that took a value at a commit or
returned to its default in a wipe. -/

namespace Sys2Proof.Machine

open Sys2Proof

/-- Objects that frames of earlier ingress beats still read as they were (R43, R257, R287, R334, R419; and the settings of
spec/08 to spec/10 that a frame meets as in its ingress beat). -/
def versioned (o : Obj) : Bool :=
  o.acc == .rw && ((0x07A0 ≤ o.base && o.base < 0x07B0) || (0x0800 ≤ o.base && o.base < 0x0890)
    || (0x0A00 ≤ o.base && o.base < 0x0A90) || (0x0C10 ≤ o.base && o.base < 0x0C80) || (0x1100 ≤ o.base && o.base < 0x1118)
    || o.base == 0x0102 || (o.base == 0x0400 && o.sub == 0x05) || o.base == 0x0402 || (0x1200 ≤ o.base && o.base < 0x1210)
    || (elemTable o).isSome)

/-- The value changed. -/
def Change.differs (c : Change) : Bool := c.old != c.new

/-- One block of an image is written to the slot that does not run (R152). -/
def Live.imageBlock (l : Live) (v : Nat) : Live :=
  let k := l.rd .IMAGE_WRITE_OFFSET
  let put := fun (x : ImageSlot) => { x with blocks := x.blocks.put k (beBytes 1048576 v) }
  let m := if l.rd .RUNNING_IMAGE = 0 then { l.modes with slotB := put l.modes.slotB }
           else { l.modes with slotA := put l.modes.slotA }
  (({ l with modes := m }).wr .IMAGE_STATUS 1).toDefault .IMAGE_BLOCK

/-- Effects of ports, sessions and forwarding settings. -/
def Live.portChange (l : Live) (c : Change) : Live :=
  let on := decide (c.new ≠ 0)
  match c.obj.base, c.obj.sub with
  | 0x0790, 0x01 => if c.differs then (if on then l.sessionOpen c.item else l.sessionClose c.item) else l
  | 0x0790, 0x02 => l.keyCommit c.item c.old
  | 0x0030, 0x07 => l.imageBlock c.new
  | 0x0300, 0x01 => if c.differs ∧ on then l.poeEnabled c.item else l
  | 0x0400, 0x01 => if ¬ c.differs then l else if on then l.portEnabled c.item else l.linkSettle c.item
  | 0x0400, 0x02 => if c.differs then l.renegotiate c.item else l
  | 0x0400, 0x03 => if c.differs then l.renegotiate c.item else l
  | 0x0400, 0x04 => if c.differs then l.renegotiate c.item else l
  | 0x0402, 0x02 => if c.differs then l.pfcApply c.item else l
  | 0x0402, 0x10 => if c.differs then l.pfcApply c.item else l
  | 0x0402, 0x18 => if c.differs then l.pfcApply c.item else l
  | 0x0404, 0x01 => if c.differs ∧ ¬ on then l.endSuppression c.item else l
  | 0x0405, 0x01 => if c.differs ∧ ¬ l.lldpRx c.item then l.neighboursGone c.item else l
  | 0x0A90, 0x01 => l.twillSwap c.new
  | 0x0C00, 0x01 => if c.differs then l.reseed else l
  | 0x0C10, 0x05 => l.setExhausted c.inst false
  | 0x0C10, 0x06 => l.setExhausted c.inst false
  | 0x0C10, 0x0A => (l.keepMembers fun _ _ => true).showGroups c.inst
  | 0x0E00, 0x01 => l.serviceReset c.item
  | 0x0E00, 0x02 => l.serviceReset c.item
  | 0x0E00, 0x20 => if c.differs ∧ on then l.markShaper c.item 8 2 else l
  | 0x0E00, 0x21 => if c.differs then l.markShaper c.item 8 1 else l
  | 0x0E00, 0x22 => if c.differs then l.markShaper c.item 8 1 else l
  | 0x0E00, 0x30 => if c.differs ∧ on then l.markShaper c.item c.off 2 else l
  | 0x0E00, 0x38 => if c.differs then l.markShaper c.item c.off 1 else l
  | 0x0E00, 0x40 => if c.differs then l.markShaper c.item c.off 1 else l
  | 0x1100, 0x02 => if c.differs then l.portOwners c.old else l
  | _, _ => l

/-- Effects of the settings of Flannel, DRAM, the engines, Muslin, events and counters.  A snapshot named for a beat that a
step skipped commits at T and captures the end of T (R41; DESIGN CHOICE, log 119). -/
def Live.serviceChange (l : Live) (c : Change) : Live :=
  let on := decide (c.new ≠ 0)
  match c.obj.base, c.obj.sub with
  | 0x1210, 0x02 => if c.differs then l.pathChanged c.inst else l
  | 0x1300, 0x01 => if c.differs ∧ l.mode.evaluates then l.dramPolicy c.item else l
  | 0x1400, 0x01 => if c.differs ∧ ¬ on then l.siliconRelease c.item else l
  | 0x1510, 0x01 => l.rxStops
  | 0x1520, 0x01 => if c.differs ∧ on then (l.txSettings c.item).txStart c.item else l.txSettings c.item
  | 0x1520, _ => if c.differs then l.txSettings c.item else l
  | 0x1530, 0x01 => l.delayChanged c.item c.old
  | 0x1550, 0x01 => if c.differs ∧ on then l.outStart c.item else l
  | 0x1558, 0x01 => l.inSettings c.item (c.old != 0)
  | 0x1560, 0x01 => if c.differs then (l.spotterRestart c.item).rxStops else l
  | 0x1560, 0x02 => if c.differs then (l.spotterRestart c.item).rxStops else l
  | 0x1568, _ => l.templateChanged c.item
  | 0x1800, 0x01 => if on then (l.wr .SNAPSHOT 0).armSnapshot l.now else l
  | 0x1810, 0x01 => l.reprogram c.item c.off (bits c.old 56 8)
  | 0x3100, 0x01 => l.heal (c.obj.key c.item c.off 0)
  | 0x3600, 0x01 => l.crosspointChanged ((128 * c.item + c.off) / 16) ((128 * c.item + c.off) % 16) c.old
  | _, _ => l

/-- The effects of one field. -/
def Live.changedOne (l : Live) (c : Change) : Live :=
  match elemTable c.obj with
  | some t => l.elemWritten t (128 * c.item + c.off) c.old c.new
  | none => (l.portChange c).serviceChange c

/-- A change to a CAN port's settings aborts its transmissions, once for the phase (R110). -/
def Live.canChanges (l : Live) (cs : List Change) : Live :=
  l.forN 2 fun l p =>
    let mine := cs.filter fun c => c.obj.base == 0x0780 && c.obj.sub ≤ 6 && c.item == p && c.differs
    if mine = [] then l
    else
      let now := l.rdB .ENABLE_0780 p
      let was : Bool := match mine.find? fun c => c.obj.sub == 1 with
        | some c => c.old != 0
        | none => now
      let node := match mine.find? fun c => c.obj.sub == 2 with
        | some c => c.old
        | none => l.rd .NODE p
      l.canSettings p node was now

/-- Objects whose committed values the stored set holds: RW and RWB objects, keys, the active banks, and what a gate
controller operates on.  LOCATE is not stored (R708), and SNAPSHOT is no setting. -/
def storedObject (o : Obj) : Bool :=
  ((o.acc == .rw || o.acc == .rwb) && !(o.base == 0x19A0 && o.sub == 0x01) && !(o.base == 0x1800 && o.sub == 0x01))
    || (o.base == 0x0790 && o.sub == 0x02) || (o.base == 0x0A80 && o.sub == 0x02)
    || o.base == Obj.GATE_OPER.base || (o.base == 0x1040 && o.sub ≤ 0x03)

/-- Whether a change counts for STORED_DIRTY: a stored value that changed, any KEY write, and a swap (R149, R154). -/
def Change.stored (c : Change) : Bool :=
  (storedObject c.obj && c.differs) || (c.obj.base == 0x0790 && c.obj.sub == 0x02) || (c.obj.base == 0x0A90 && c.new != 0)

/-- What follows from fields that took values: versions for earlier frames, the effects of each field, and those that fall
once however many fields of a record changed (R53, R110). -/
def Live.changed (cs : List Change) (l : Live) : Live :=
  if cs.isEmpty then l
  else
    let l1 := l.forL cs fun l c =>
      if versioned c.obj ∧ c.differs ∧ l.framesRead c.obj c.item then l.keepVersion (c.obj.key c.item c.off c.inst) c.old else l
    let l2 := (l1.forL cs Live.changedOne).canChanges cs
    let l3 := if cs.any fun c => c.obj.base == 0x0102 && c.differs then l2.ptpRestart else l2
    let l4 := if cs.any Change.stored then l3.markDirty else l3
    l4.refreshStreams

end Sys2Proof.Machine
end

