-- ==== Sys2Proof/Machine/Wipe.lean ====
section
/-! DEFINITION. Tenancy commands and wipes (R178 to R190). -/

namespace Sys2Proof.Machine

open Sys2Proof

def Live.tnWipe (l : Live) (n : Nat) : Option TnWipe := l.tenancies.wipes.get n

def Live.setWipe (l : Live) (n : Nat) (w : Option TnWipe) : Live :=
  { l with tenancies := { l.tenancies with wipes := l.tenancies.wipes.put n w } }

/-- The count of beats at which a wipe has finished: 6,144 beats of scrub beside two segments a beat (R181). -/
def TnWipe.endsAt (w : TnWipe) : Nat := w.start + max 6144 (cdiv w.segments 2)

/-- When a wipe that starts now is served: one at a time, behind those that run (R188, R189). -/
def Live.wipeTurn (l : Live) : Nat :=
  l.tenancies.wipes.foldl (fun t e =>
    match e.2 with
    | some w => max t w.endsAt
    | none => t) l.ticks

/-- Whether item `i`, offset `k`, instance `t` of an object is TNn's (R72, R180). -/
def Live.belongs (l : Live) (n : Nat) (o : Obj) (i k t : Nat) : Bool :=
  match o.own with
  | .bound => l.ownerOf o i k == n
  | .perTn => t == n
  | _ => false

/-- The access ports of a tenancy. -/
def Live.portsOf (l : Live) (n : Nat) : List Nat := (List.range 48).filter fun p => l.portOwner p == n

/-- Table elements bound to a tenancy, as table, number and content (R180). -/
def Live.tnElems (l : Live) (n : Nat) : List (ElemTable × Nat × Nat) :=
  [ElemTable.ct0, .ct1, .ct2, .ct3, .damask, .nextHop, .group, .vlan, .policer].flatMap fun t =>
    ((l.allElems t).filter fun e => l.elemOwner t e.1 == n).map fun e => (t, e.1, e.2)

/-- Settings of a tenancy that differ from their defaults, as changes to them. -/
def Live.tnSettings (l : Live) (n : Nat) : List Change :=
  l.store.filterMap fun e =>
    match keyObject e.1 with
    | some (o, i, k, t) =>
      if o.acc.writable ∧ o.acc ≠ .cmd ∧ (elemTable o).isNone ∧ l.belongs n o i k t then
        some { obj := o, item := i, off := k, inst := t, rank := 15, old := e.2, new := o.defaultAt i k t }
      else none
    | none => none

/-- A bank without a tenancy's fields (R180). -/
def Bank.without (b : Bank) (mine : Nat → Bool) (blocks : List Nat) : Bank :=
  { b with cells := b.cells.filter (fun e => !mine e.1), blocks := b.blocks.filter fun e => !blocks.contains e.1 }

/-- The counters of a tenancy's resources return to 0, block counters and captured fields among them. -/
def Live.tnCounters (l own : Live) (n : Nat) : Live :=
  let blocks := ((List.range 24).flatMap fun b => (List.range 16).map fun c => 16 * b + c).filter fun x =>
    own.blkSelect (x / 16) (x % 16) != 0 && own.blkOwner (x / 16) (x % 16) == n
  let mine := fun (key : Nat) => match keyObject key with
    | some (o, i, k, t) => own.belongs n o i k t
    | none => false
  let l1 := l.clearCounters fun o i k t => own.belongs n o i k t
  { l1 with events := { l1.events with
      blocks := l1.events.blocks.filter fun e => !blocks.contains e.1
      gathered := l1.events.gathered.map fun b => b.without mine blocks
      copying := l1.events.copying.map fun b => (b.1.without mine blocks, b.2)
      bank0 := l1.events.bank0.without mine blocks
      bank1 := l1.events.bank1.without mine blocks } }

/-- The event instances of a tenancy and the notifications on their way along its routes. -/
def Live.tnEvents (l : Live) (n : Nat) : Live :=
  { l with events := { l.events with inst := l.events.inst.filter (fun e => e.1 % 8 != n)
                                     queue := l.events.queue.filter fun x => x.tn != n } }

/-- What a port shows of its past: it returns to its default with the port's tenancy (R180).  What it shows of its present (its
link, its power, its gates) follows the port itself. -/
def pastReading (o : Obj) : Bool :=
  [Obj.POWER_ON_BEAT, .FAULTS_IN_WINDOW, .BACKOFF_LEVEL, .LAST_CHANGE_BEAT_0401, .STORM_BEATS, .PENALTY, .AVG_DEPTH,
    .LAST_FLUSH_BEAT, .TOKENS, .PORT_TOKENS, .DEFICIT, .NEXT_SEQ, .JOURNAL_SEQ].any fun x => x.base == o.base && x.sub == o.sub

/-- What the ports of a tenancy have gathered: queue samples and histograms, neighbours, fault windows (R180). -/
def Live.portsForget (l : Live) (ps : List Nat) : Live :=
  l.forL ps fun l p =>
    let l1 := (l.histClear p 0xFF).setPlane fun x => { x with samples := x.samples.keep fun k _ => k / 512 != p }
    (l1.setPort p fun x => { x with neighbours := [] }).setPse p fun x => { x with faults := [] }

/-- The gates of a tenancy's ports take the default list with the PTP time of the boundary as origin (R464). -/
def Live.tnGates (l : Live) (ps : List Nat) : Live := l.forL ps fun l p => (l.disarmGates p).defaultGates p l.ptpNs

/-- What the wipe of a tenancy removes at its commit beat (R179, R180, R400, R563, R686). What is bound to the tenancy is read
in `own`, the machine as the tenancy was still ACTIVE: a VID has its owner only while that is so. -/
def Live.wipeRemove (l own : Live) (n : Nat) : Live :=
  let ps := own.portsOf n
  let elems := own.tnElems n
  let settings := own.tnSettings n
  let l1 := (l.forL ps fun l p => if l.rd .STATE_0340 p = poeOff then l else l.poeTo p poeOff 5).forgetSnooping (· == n)
  let l2 := (l1.forL elems fun l e => l.elemGone e.1 e.2.1 0).macWipe n
  let l2a := (l2.portsForget ps).clearCells fun o i k t => pastReading o && own.belongs n o i k t
  let l3 := (settings.foldl (fun (l : Live) c => l.toDefault c.obj c.item c.off c.inst) l2a).tnGates ps
  let l4 := Live.changed settings l3
  let l5 := ((l4.tnCounters own n).tnEvents n).clampWipe n
  let l6 := l5.setFn n fun x => { x with journal := [], journalNew := false }
  (((l6.jobsStop (2 + n)).loadsCut n).forcedRelease (8 + n)).flannelWipeStart n

/-- A wipe of a tenancy starts: it reads WIPING, its masters' queued writes are answered, and the open transfer of its VF closes
(R90, R166, R179, R181). -/
def Live.wipeStart (l : Live) (n : Nat) (kind : WipeKind) : Live :=
  let w : TnWipe := { kind := kind, start := l.wipeTurn, segments := (l.segsWhere fun g => g.tn == n).length, beat := l.now }
  let l1 := ((l.setWipe n (some w)).wr .WIPE_START_BEAT l.now n).setTn n 2
  ((l1.supersedeQueued n).setDict fun d => { d with transfers := d.transfers.del (7 + n) }).wipeRemove l n

/-- Check 10 of a tenancy command (R179). -/
def Live.tnCommandAllowed (l : Live) (n v : Nat) : Bool :=
  match v with
  | 1 => l.rd .TN_STATE n != 1
  | 2 => l.rd .TN_STATE n == 1
  | 3 => l.rd .TN_STATE n == 1
  | _ => true

/-- CREATE. -/
def Live.tnCreate (l : Live) (n : Nat) : Live :=
  match l.rd .TN_STATE n, l.tnWipe n with
  | 0, _ => ((l.setTn n 1).raise 19 (u8 n) n).markDirty
  | 2, some w => (l.setWipe n (some { w with create := true })).markDirty
  | _, _ => l

/-- RESET and DELETE. -/
def Live.tnReset (l : Live) (n : Nat) : Live := if l.rd .TN_STATE n = 1 then (l.wipeStart n .reset).markDirty else l
def Live.tnDelete (l : Live) (n : Nat) : Live := if l.rd .TN_STATE n = 1 then (l.wipeStart n .delete).markDirty else l

/-- Tenancies 1 to 7. -/
def tnOf (n : Fin 7) : Nat := n.val + 1

/-- The record of a deleted tenancy returns to its defaults (R179). -/
def Live.tnRecordGone (l : Live) (n : Nat) : Live :=
  l.forL l.store.keys fun l key =>
    match keyObject key with
    | some (o, i, _, _) =>
      if o.acc = .rw ∧ (o.index i) = 0x1110 + n then
        { (l.keepVersion key ((l.store.find? key).getD 0)) with store := l.store.del key }
      else l
    | none => l

/-- A wipe ends: what was counted and kept during it goes too, and the tenancy takes its next state (R179, R181, R189). -/
def Live.wipeEnd (l : Live) (n : Nat) (w : TnWipe) : Live :=
  let l1 := (((l.flannelWipe n).forcedRelease (8 + n)).tnCounters l n).setWipe n none
  let done := fun (l : Live) (src : Nat) => l.raise src (u8 n ++ u64 w.beat) n
  match w.kind with
  | .reset => (done (l1.setTn n 1) 20).refreshStreams
  | k =>
    let l2 := done ((if k = .delete then l1.tnRecordGone n else l1).setTn n 0) 21
    (if w.create then ((l2.tnRecordGone n).setTn n 1).raise 19 (u8 n) n else l2).refreshStreams

/-- A segment that the wipe comes to: its record and its data are zero, and its buffer is free (R180, R181). -/
def Live.wipeSegment (l : Live) (i : Nat) : Live :=
  let l1 := l.freeSeg i
  if (l1.buf (bufKey 5 i)).zeroing then l1.zeroFilled (bufKey 5 i) else l1

/-- The segment wipe: two segments a beat while the engine runs, from the beat after the scrub's start (R181). -/
def Live.segmentWipe (l : Live) (n : Nat) : Live :=
  match l.tnWipe n with
  | some w =>
    if w.start < l.ticks ∧ l.mode.engineOn then l.forL ((l.segsWhere fun g => g.tn == n).take 2) Live.wipeSegment else l
  | none => l

/-- Wipes whose end has come; the scrub is the engine's. -/
def Live.wipesOver (l : Live) (n : Nat) : Live :=
  match l.tnWipe n with
  | some w => if w.endsAt ≤ l.ticks ∧ l.mode.engineOn then (l.wipeEnd n w).markDirty.tenanciesSettle else l
  | none => l

def execTenancyWipeEnd (n : Fin 7) (s : State) : Host.Outcome State Fault Refusal :=
  s.effect fun l => l.wipesOver (tnOf n)

/-- Retained segments kept by a restart whose tenancy is not ACTIVE are wiped (R189). -/
def Live.wipeKept (l : Live) (n : Nat) : Live :=
  if l.rd .TN_STATE n = 0 ∧ ¬ (l.segsWhere fun g => g.tn == n).isEmpty then l.wipeStart n .kept else l

/-- What the stored set holds of a tenancy's state. -/
def Live.tnStored (l : Live) (n : Nat) : Nat :=
  match l.rd .TN_STATE n, l.tnWipe n with
  | 1, _ => 1
  | 2, some w =>
    match w.kind with
    | .reset => 2
    | .delete => if w.create then 5 else 3
    | .kept => if w.create then 6 else 4
  | _, _ => 0

/-- A tenancy takes its stored state at the first CONFIGURE beat: a recorded wipe starts again (R189, R190). -/
def Live.tnRestore (l : Live) (n : Nat) : Live :=
  let again := fun (k : WipeKind) (create : Bool) =>
    let l1 := l.wipeStart n k
    match l1.tnWipe n with
    | some w => l1.setWipe n (some { w with create := create })
    | none => l1
  match l.modes.loadedTns.get n with
  | 1 => l.setTn n 1
  | 2 => again .reset false
  | 3 => again .delete false
  | 4 => again .kept false
  | 5 => again .delete true
  | 6 => again .kept true
  | _ => l.wipeKept n

end Sys2Proof.Machine
end

