-- ==== Sys2Proof/Machine/Stored.lean ====
section
/-! DEFINITION. The stored set: what it holds, STORE, and its load at start-up (R149, R154 to R156, R349, R464). -/

namespace Sys2Proof.Machine

open Sys2Proof

def Live.setModes (l : Live) (f : Modes → Modes) : Live := { l with modes := f l.modes }

/-- A static MAC entry that a host made, not one of a snooped group (R338, R349). -/
def Live.hostStatic (l : Live) (e : MacEntry) : Bool :=
  e.static && e.dest != destAbsent && !(l.plane.fwd.snooped.any fun g => g.vlan == e.fid && g.mac == e.mac)

/-- What the stored set keeps of one cell: `none` where it is no part of it; a next hop is stored UNRESOLVED, and a snooped
group is not stored. -/
def Live.storedCell (l : Live) (e : Nat × Nat) : Option (Nat × Nat) :=
  match keyObject e.1 with
  | none => none
  | some (o, _, _, _) =>
    if o.base = 0x2400 then (if l.hostStatic (MacEntry.unpack e.2) then some e else none)
    else if ¬ storedObject o then none
    else if o.base = 0x2E00 then some (e.1, if nhState e.2 = 1 then setBits e.2 253 2 0 else e.2)
    else if o.base = 0x2E40 ∧ groupSnooped e.2 then none
    else some e

/-- The contents of a copy made now. -/
def Live.capture (l : Live) : StoredCopy :=
  { blank := false
    cells := l.store.filterMap l.storedCell
    tenancies := (List.range 7).foldl (fun (t : Tbl Nat) k => t.put (k + 1) (l.tnStored (k + 1))) []
    keyed := maskOf ((List.range 4).filter fun s => (l.sessions.get s).keyed) }

def Modes.copy (m : Modes) (k : Nat) : StoredCopy := if k = 0 then m.copy0 else m.copy1
def Modes.setCopy (m : Modes) (k : Nat) (c : StoredCopy) : Modes := if k = 0 then { m with copy0 := c } else { m with copy1 := c }

/-- The copy that a STORE writes: the one with the lower generation. -/
def Modes.lower (m : Modes) : Nat :=
  if m.copy0.valid ∧ (¬ m.copy1.valid ∨ m.copy1.generation < m.copy0.generation) then 1 else 0

/-- STORE starts (R155): the copy being written is invalid until it verifies. -/
def Live.storeBegin (l : Live) : Live :=
  let k := l.modes.lower
  let gen := max l.modes.copy0.generation l.modes.copy1.generation + 1
  let c := { l.capture with generation := gen }
  (l.setModes fun m =>
    { m.setCopy k { c with valid := false, cells := [] } with storing := some (k, c, l.ticks), dirtySince := false }).wr
      .STORED_STATUS 1

/-- The contents of a STORE that started in this beat are those at the end of its commit phase (R154). -/
def Live.storeSettle (l : Live) : Live :=
  match l.modes.storing with
  | some (k, c, t) =>
    if t = l.ticks then
      l.setModes fun m => { m with storing := some (k, { l.capture with generation := c.generation }, t), dirtySince := false }
    else l
  | none => l

/-- A STORE ends: the copy verifies, or fails (R155). -/
def Live.storeEnd (l : Live) (ok : Bool) : Live :=
  match l.modes.storing with
  | none => l
  | some (k, c, _) =>
    let l1 := l.setModes fun m => { m with storing := none }
    if ok then
      let origin := (c.cells.find? (Obj.FREE_RUN_ORIGIN.key 0 0 0)).getD (Obj.FREE_RUN_ORIGIN.defaultAt 0 0 0)
      let l2 := l1.setModes fun m => { m.setCopy k { c with valid := true } with bootOrigin := origin }
      (((l2.wr .STORED_GENERATION c.generation).wr .STORED_STATUS 0).wrB .STORED_DIRTY l2.modes.dirtySince).raise 11
    else (l1.wr .STORED_STATUS 2).raise 12

/-- STORE as a command: status BUSY while one is in progress. -/
def Live.storeCommand (l : Live) : Nat × Live :=
  if l.modes.storing.isSome then (0xB, l) else (0, l.storeBegin)

def execStore (s : State) : Host.Outcome State Fault Refusal :=
  s.effect fun l => if l.mode.engineOn then l.storeCommand.2 else l

/-- The copy has been verified by read-back, or verification failed. -/
def execStoreDone (ok : Bool) (s : State) : Host.Outcome State Fault Refusal := s.effect fun l => l.storeEnd ok

/-! ### Loading (R156, R190, R349) -/

/-- The copy that is loaded: the valid one with the higher generation. -/
def Modes.best (m : Modes) : Option Nat :=
  if m.copy0.valid ∧ (¬ m.copy1.valid ∨ m.copy1.generation < m.copy0.generation) then some 0
  else if m.copy1.valid then some 1
  else none

/-- Apply a copy to the dictionary and tables, outside the commit limit (R94).  BOOT_PREFERENCE stays as the boot record has
it, by which the image was chosen (DEDUCED from R151 to R153; log 66). -/
def Live.loadCopy (l : Live) (c : StoredCopy) : Live :=
  let isMac := fun (e : Nat × Nat) => decide (0x2400 ≤ e.1 / 256 % 65536) && decide (e.1 / 256 % 65536 < 0x2C00)
  let set := c.cells.filter fun e => !isMac e && e.1 != Obj.BOOT_PREFERENCE.key 0 0 0
  let l1 := { l with store := set.foldl (fun (t : Tbl Nat) (e : Nat × Nat) => (t.del e.1).ins e.1 e.2) l.store }
  let l2 := (l1.placeStatics ((c.cells.filter isMac).map fun (e : Nat × Nat) => MacEntry.unpack e.2)).showMac
  (l2.setModes fun m => { m with loadedTns := c.tenancies, loadedKeys := c.keyed }).forN 56 Live.setLongest

/-- The stored set is chosen and applied (R156); the buckets of valid policers are full (R419). -/
def Live.storedLoad (l : Live) : Live :=
  let bad := fun (c : StoredCopy) (l : Live) => if c.blank ∨ c.valid then l else l.raise 10
  let l1 := bad l.modes.copy1 (bad l.modes.copy0 l)
  let l2 := match l1.modes.best with
    | some k => (l1.loadCopy (l1.modes.copy k)).wr .LOADED_FROM k
    | none => (l1.raise 9).wr .LOADED_FROM 2
  let l3 := l2.forL (l2.elems .POLICER_TABLE 0 32) fun l e => if polValid e.2 then l.fillBuckets e.1 e.2 else l
  (l3.setModes fun m => { m with storedLoaded := true, dirtySince := false }).wrB .STORED_DIRTY false

/-- Early PoE begins after a power-on reset and after a wake start (R158, R159). -/
def Live.earlyPoe (l : Live) : Live :=
  if l.modes.kind = .powerOn ∨ l.modes.kind = .wake then { l with power := { l.power with early := true } } else l

def execStoredSetLoad (s : State) : Host.Outcome State Fault Refusal :=
  s.effect fun l =>
    if l.mode = .bringup ∧ l.modes.imageOk ∧ ¬ l.modes.storedLoaded ∧ l.rd .LC_PENDING = 0xFF ∧ l.rd .LC_STATE ≠ 3 then
      l.storedLoad.earlyPoe
    else l

end Sys2Proof.Machine
end

