-- ==== Sys2Proof/Machine/Restart.lean ====
section
/-! DEFINITION. Changes of the unit mode, what each reset keeps, and the return of kept state at the first beat of
CONFIGURE (R26, R27, R59, R130 to R137, R146 to R149, R158, R164, R380, R408, R492, R536, R596, R634, R655, R676, R679). -/

namespace Sys2Proof.Machine

open Sys2Proof

/-! ### The mode changes (R133, R648) -/

/-- Occurrences that no evaluation has taken are held. -/
def Live.holdArisen (l : Live) : Live :=
  l.events.arisen.foldl Live.hold { l with events := { l.events with arisen := [] } }

/-- The unit mode becomes `m`: event 0 carries the old mode, the new mode and the dominant cause, 0xFF where there is none. -/
def Live.modeTo (l : Live) (m : Mode) (cause : Nat) : Live :=
  let old := l.mode
  if old = m then l
  else
  let l1 := if m.evaluates then l else l.holdArisen
  (l1.setModes fun x => { x with mode := m, since := l.now, goTo := none }).raise 0 (u8 old.code ++ u8 m.code ++ u8 cause)

/-- Every physical port follows the mode (R265), and the LAGs follow the ports. -/
def Live.portsFollow (l : Live) : Live := (l.forN 52 Live.linkSettle).lagSettle

/-- Entry to DORMANT or LISTEN (R27, R33, R135, R380, R599, R679). -/
def Live.enterSupervisor (l : Live) : Live :=
  let l1 := ((((l.discardAll.loseArmed.poeAllOff.flannelHalt).selfRefresh 0 true).selfRefresh 1 true).beatHolds).pcieDown
  l1.portsFollow.recoveriesDropped

/-- Entry to FREEZE: links are HELD, and what the queues hold stands still (R130, R239, R252, R256, R265, R380, R679, R682). -/
def Live.enterFreeze (l : Live) : Live :=
  let l1 := l.forN 52 fun l p =>
    if l.linkState p = linkHeld then l
    else if l.linkState p = linkUp then l.leaveLink p linkHeld
    else (l.linkTo p linkHeld).clearPauses p
  l1.lagSettle.recoveriesDropped.withdraw [5]

/-- Entry to WIPE (R143, R380, R679). -/
def Live.enterWipe (l : Live) : Live :=
  let l1 := (l.discardAll.loseArmed.poeAllOff.pcieDown.portsFollow).recoveriesDropped
  (l1.setModes fun x => { x with wipeAttempts := 0 }).raise 2

/-- Entry to CONFIGURE from a running mode: every queue but port C's discards its frames (R134, R380). -/
def Live.leaveRunning (l : Live) : Live :=
  (l.forN 56 fun l p => if p = 52 then l else l.discardPort p).refreshStreams

/-- Entry to the running family. -/
def Live.enterRunning (l : Live) : Live := l.probeRun.refreshStreams.kickAll

/-- What entering a mode from another does, the mode being already in force. -/
def Live.entered (l : Live) (old : Mode) : Live :=
  let l1 := if old = .configure ∧ l.mode ≠ .configure then l.disarmStrobe else l
  match l1.mode with
  | .dormant => if old = .listen then l1 else l1.enterSupervisor
  | .listen => if old = .dormant then l1.portsFollow else l1.enterSupervisor
  | .freeze => l1.enterFreeze
  | .wipe => l1.enterWipe
  | .configure => if old.running then l1.leaveRunning else l1
  | .decommissioned => (l1.forN 2 Live.canStart)
  | .service | .island | .backfill | .lean => if old.running then l1 else l1.enterRunning
  | _ => l1

/-- A transition: the mode, Muslin's part in it (R565), and the entry's effects. -/
def Live.enter (l : Live) (m : Mode) (cause : Nat) : Live :=
  if l.mode = m then l
  else
    let old := l.mode
    ((l.modeTo m cause).audioMode l.audioClass l.matrixRuns old.running).entered old

/-! ### What a reset keeps (R146) -/

/-- Values held in NOR. -/
def norObject (o : Obj) : Bool :=
  o.base == 0x0010 || (o.base == 0x0030 && (o.sub == 0x01 || o.sub == 0x02 || o.sub == 0x05 || o.sub == 0x09))
    || (o.base == 0x0038 && o.sub == 0x02) || (o.base == 0x1980 && o.sub == 0x0A) || (o.base == 0x19A0 && o.sub == 0x03)

/-- Values that last as long as the run: the run's own record, the withdrawn guarantees, and the ports shed since power-on
reset (R147, R220, R682, R688). -/
def runObject (o : Obj) : Bool :=
  o.base == 0x0020 || (o.base == 0x0111 && o.sub == 0x06) || (o.base == 0x0038 && o.sub == 0x03)
    || o.base == Obj.GUARANTEES.base || (o.base == 0x0119 && o.sub == 0x01) || (o.base == 0x0211 && o.sub == 0x08)

/-- What the supervisor and the power modules show: pins and modules, not the engine (R191, R653, R718). -/
def pinObject (o : Obj) : Bool :=
  (o.base == 0x1900 && (o.sub == 0x10 || o.sub == 0x11 || o.sub == 0x14)) || o.base == 0x0200
    || (o.base == 0x1980 && o.sub == Obj.TRAY_PRESENT.sub)

/-- Whether a cell of the dictionary survives a reset of a kind without being loaded again. -/
def Live.keptCell (l : Live) (kind : ResetKind) (e : Nat × Nat) : Bool :=
  match keyObject e.1 with
  | none => false
  | some (o, i, _, _) =>
    let same := kind == .warm || kind == .wake
    norObject o || pinObject o || (same && runObject o) || (kind == .warm && o.base == 0x0340)
      || (same && o.base == 0x1910 && o.sub == Obj.ENERGISED.sub && l.rdB .HOLD_ON_RESTART i)

/-- The always-running counters, as the DRAM archive holds them (R148). -/
def Live.counterCells (l : Live) : Tbl Nat :=
  l.store.filter fun e => match keyObject e.1 with
    | some (o, _, _, _) => o.counts
    | none => false

/-- The beat after a reset: a new run begins at the origin of the boot record, and its PTP time follows (R31), with
OVERRUN_SEEN and STEPPED kept until a power-on reset (R48, R54); within a run the beat goes on, and a slew ends (R59). -/
def Live.beatReset (l : Live) (kind : ResetKind) : Beat :=
  if kind = .powerOn ∨ kind = .lifeCycle then
    let same := kind == .lifeCycle
    { number := l.modes.bootOrigin, ticks := l.beat.ticks + 1, halfNs := l.modes.bootOrigin * 250000 % 2 ^ 65,
      overrunSeen := same && l.beat.overrunSeen, stepped := same && l.beat.stepped }
  else
    { l.beatHolds.beat with slewing := false, slewUnits := 0, strobeArmed := false, strobeTaken := false, badSyncs := 0 }

/-- Modes and start-up after a reset. -/
def Modes.reset (m : Modes) (kind : ResetKind) (ticks number : Nat) (keep : Bool) : Modes :=
  { mode := m.mode, since := number, kind := kind, began := ticks, trained := keep, filled := keep, keeps := keep
    oldChallenge := m.oldChallenge, challengeAt := m.challengeAt, previousImage := m.previousImage, revert := m.revert
    slotA := m.slotA, slotB := m.slotB, copy0 := m.copy0, copy1 := m.copy1, bootOrigin := m.bootOrigin
    shutdown := m.shutdown, storeCut := m.storing.isSome || m.storeCut, archive := m.archive }

/-- What is left of a CAN port at a warm restart or wake: the frame on its bus, which completes (R110). -/
def CanPort.cut (p : CanPort) : CanPort :=
  { sending := p.sending, progress := p.progress, tooLate := p.tooLate, drop := p.drop, node := p.node }

/-- The machine after a reset of a kind: on-chip memory is wiped, and what the table of R146 keeps is kept. -/
def Live.wiped (l : Live) (kind : ResetKind) (keep : Bool) : Live :=
  let same := kind == .warm || kind == .wake
  let beat := l.beatReset kind
  let base : Live :=
    { store := l.store.filter (l.keptCell kind)
      beat := beat
      can := if same then (l.can.filter fun e => e.2.sending.isSome).map fun (e : Nat × CanPort) => (e.1, e.2.cut) else []
      modes := l.modes.reset kind beat.ticks beat.number keep
      power := { modules := l.power.modules, ports := if kind == .warm then l.power.ports else [],
                 pseFault := l.power.pseFault }
      plane := { ports := (l.plane.ports.filter fun e => e.2.present).map fun (e : Nat × Port) => (e.1, { present := true }) }
      flannel := if same then l.flannel else {}
      bpm := if same then l.bpm else {}
      dram := if same then l.dram else {}
      audio := if kind == .wake then l.audio else {}
      host := if same then l.host else {}
      events := { held := if kind == .powerOn then [] else l.events.held,
                  gpio := if kind == .powerOn then [] else l.events.gpio }
      recoveries := if same then l.recoveries else {}
      enclosure := l.enclosure
      free := l.free }
  let l1 := (base.flannelRestart keep).dramRestart (if keep then chActive else chUntrained)
  let l2 := if kind = .wake then l1.islandKeep else l1
  l2.unitRestart

/-- The relays that do not hold across a restart are de-energised (R655). -/
def Live.relaysDrop (l : Live) : Live := l.forN 4 fun l j => if l.rdB .HOLD_ON_RESTART j then l else l.relayTo j false

/-- The start of a warm restart or wake start counts what is lost (R148, R380, R634, R655). -/
def Live.stopAll (l : Live) : Live := l.discardAll.hostRestart.canRestart.relaysDrop

/-- The counters go to the archive (R148). -/
def Live.archiveCounters (l : Live) : Live := l.setModes fun m => { m with archive := l.counterCells }

/-- A restart cuts a STORE off, and an unconfirmed trial is not to run again (R153, R155). -/
def Live.cutNor (l : Live) (trialStarts : Bool) : Live :=
  let l1 := if l.modes.storeCut then l.wr .STORED_STATUS 2 else l
  if l.rdB .TRIAL ∧ ¬ trialStarts then l1.setModes fun m => { m with revert := true } else l1

/-- A restart within the run: 1 commanded, 2 firmware watchdog, 3 trial expiry, 4 IMAGE_ACTIVATE, 5 wake, 6 an accepted
recovery image, which counts as commanded; a DRAM replay in progress ends first (R147, R149, R628, R679). -/
def Live.restart (l00 : Live) (why : Nat) : Live :=
  let l := l00.forN 2 Live.replayDone
  let kind : ResetKind := if why = 5 then .wake else .warm
  let keep := l.rdB .PRESERVE_KEEP && !l.dram.diagnosed
  let kept := keep && !l.rdB .STORED_DIRTY
  let l0 := if kind = .warm ∧ kept then l.recoveryStart 8 0 0xFF else l
  let l1 := ((l0.stopAll.modeTo .bringup 0xFF).portsFollow.archiveCounters).audioMode l.audioClass l.matrixRuns l.mode.running
  let l2 := if why = 1 then l1.raise 13 else if why = 2 then l1.raise 14 else l1
  let l3 := if why = 5 then (l2.wr .LAST_WAKE_SOURCE (l2.modes.wake.getD 0)).raise 16 (u8 (l2.modes.wake.getD 0)) else l2
  let l4 := (l3.wiped kind keep).cutNor (why == 4)
  let l5 := l4.wr .LAST_RESET (match why with | 1 => 1 | 2 => 2 | 5 => 4 | 6 => 1 | _ => 3)
  let l6 := if kind = .warm then l5.wr .RESTART_COUNT (l5.rd .RESTART_COUNT + 1) else l5
  if kind = .warm ∧ ¬ kept then l6.withdraw [3] else l6

/-- A new run begins: power-on reset, or the end of a wipe (R26, R31, R144, R648). -/
def Live.newRun (l : Live) (kind : ResetKind) : Live :=
  let l1 := (l.wiped kind false).cutNor false
  let n := l1.now
  let prior := l1.events.held.map fun o => { o with prior := true, stamp := n }
  let l2 := { l1 with events := { l1.events with held := prior } }
  let l3 := (l2.wr .RUN_START_BEAT n).wr .LAST_RESET (if kind = .lifeCycle then 5 else 0)
  (l3.setModes fun m => { m with archive := [], storeCut := false }).modeTo .bringup 0xFF

/-! ### The first beat of CONFIGURE (R134, R148, R157, R190, R408, R440, R536, R653) -/

/-- The archived counters come back, and each hold counter is added to its port's overflow drops. -/
def Live.countersBack (l : Live) : Live :=
  let l1 := l.modes.archive.foldl (fun (l : Live) (e : Nat × Nat) =>
    match keyObject e.1 with
    | some (o, i, k, t) => l.wr o (l.rd o i k t + e.2) i k t
    | none => l) l
  let l2 := l1.modes.holdCounts.foldl (fun (l : Live) (e : Nat × Nat) => l.count .RX_OVERFLOW_DROPS e.2 e.1) l1
  l2.setModes fun m => { m with archive := [], holdCounts := [] }

/-- Sessions whose keys the stored set holds start where they are enabled (R116). -/
def Live.sessionsBack (l : Live) : Live :=
  let l1 := l.forN 4 fun l s => l.setSession s fun x => { x with keyed := bit l.modes.loadedKeys s }
  l1.forN 4 fun l s => if l.rdB .ENABLE_0790 s then l.sessionOpen s else l

/-- Uplink modules that are present are identified anew (R231, R265). -/
def Live.modulesBack (l : Live) : Live :=
  l.forN 4 fun l u => if (l.portRt (48 + u)).present then l.moduleArrives (48 + u) else l

/-- Firmware writes MODE_REQUEST of SERVICE in its first CONFIGURE beat where AUTO_SERVICE is set (R136, R157). -/
def Live.autoService (l : Live) : Live :=
  if l.rdB .AUTO_SERVICE then
    l.enqueueWrite { rank := 15, op := 3, reqId := 0, index := 0x0110, sub := 0x01, fields := [(1, 6)], arrival := 0, order := 0 }
  else l

/-- CONFIGURE begins. -/
def Live.configureEntry (l : Live) : Live :=
  let cls := l.audioClass
  let l1 := (l.modeTo .configure 0xFF).countersBack
  let l2 := ((List.range 7).foldl (fun l k => l.tnRestore (k + 1)) l1).tenanciesSettle
  let l3 := (l2.sessionsBack.forN 2 Live.canStart).portsFollow.modulesBack
  let l4 := (if l3.modes.keeps then l3.sweepStart else l3).dramConfigure.gpioConfigure.reportHeld.ptpStart.queuesStart
  let l5 := (l4.audioMode cls false false).refreshStreams
  let l6 := (l5.recoveriesRestarted.recoveryDone 8 0).journalRecoveries
  let l7 := if l6.modes.storeCut then l6.raise 12 else l6
  let l8 := l7.setUnit fun u => { u with tripped := false }
  let l9 := l8.setModes fun m =>
    { m with storeCut := false, loadedTns := [], loadedKeys := 0,
             trialStart := if l8.rdB .TRIAL then some l8.ticks else none }
  let l10 := { l9 with power := { l9.power with early := false } }
  l10.poeAdopt.autoService

end Sys2Proof.Machine
end

