-- ==== Sys2Proof/Machine/Modes.lean ====
section
/-! DEFINITION. Mode requests, the life cycle, the evaluation of phase 4, firmware images and start-up (R128 to R132, R136,
R138, R141 to R144, R147, R150 to R153, R156 to R159, R163 to R165). -/

namespace Sys2Proof.Machine

open Sys2Proof

/-! ### Causes (R128, R129) -/

def Live.freezeCause (l : Live) : Bool := l.modes.freezeAsked || l.diagnoseCause

/-- The first mode whose cause is active, with the code of that cause: 0 FREEZE_CAUSE, 1 LEAN_CAUSE, 2 UPLINK_LOST,
3 BACKLOG, 0xFF none. -/
def Live.runningMode (l : Live) : Mode × Nat :=
  if l.freezeCause then (.freeze, 0)
  else if l.leanCause then (.lean, 1)
  else if l.flannel.lost then (.island, 2)
  else if l.flannel.backlog then (.backfill, 3)
  else (.service, 0xFF)

/-- MODE_CAUSES: evaluated from CONFIGURE through FREEZE, 0 elsewhere. -/
def Live.causeBits (l : Live) : Nat :=
  if l.mode.engineOn ∨ l.mode = .freeze then
    l.freezeCause.toNat + 2 * l.leanCause.toNat + 4 * l.flannel.lost.toNat + 8 * l.flannel.backlog.toNat
  else 0

def Live.showCauses (l : Live) : Live := l.wr .MODE_CAUSES l.causeBits

/-! ### Mode requests (R131, R132, R136, R138, R163) -/

/-- CONFIGURE and the running family but FREEZE. -/
def Mode.leaves (m : Mode) : Bool := m == .configure || m.running

/-- Whether a MODE_REQUEST of a mode is answered OK. -/
def Live.modeAllowed (l : Live) (v : Nat) : Bool :=
  let super := l.mode == .dormant || l.mode == .listen
  match v with
  | 1 => super || l.mode.leaves
  | 2 => super || l.mode.leaves
  | 5 => super || l.mode.leaves
  | 6 => (super || l.mode.leaves) && l.rd .LC_STATE == 2
  | 10 => l.mode.leaves || l.mode == .freeze
  | _ => true

/-- Every request but DORMANT's own withdraws a DORMANT request that waits. -/
def Live.asks (l : Live) (f : Modes → Modes) : Live :=
  (l.dormantWithdrawn).setModes fun m => { f m with acted := true }

/-- The effect of a MODE_REQUEST that is answered OK. -/
def Live.modeAsked (l : Live) (v : Nat) : Live :=
  let waits := l.modes.dormantAsked.isSome
  match v with
  | 1 => if l.mode = .dormant ∨ waits then l
         else l.setModes fun m => { m with dormantAsked := some l.ticks, acted := true }
  | 2 => if l.mode = .listen then (if waits then l.asks id else l) else l.asks fun m => { m with goTo := some .listen }
  | 5 => if l.mode = .configure then (if waits then l.asks id else l)
         else if l.mode.running then l.asks fun m => { m with goTo := some .configure }
         else (l.asks id).wakeBy 0
  | 6 => if l.mode.running then (if waits then l.asks id else l)
         else if l.mode = .configure then l.asks fun m => { m with goTo := some .service }
         else (l.asks id).wakeBy 0
  | 10 => if l.mode = .freeze then l else l.asks fun m => { m with freezeAsked := true }
  | _ => l

/-- MODE_REQUEST as a command: a status and the machine. -/
def Live.modeCommand (l : Live) (v : Nat) : Nat × Live :=
  if l.modes.acted then (0x3, l) else if l.modeAllowed v then (0, l.modeAsked v) else (0xA, l)

/-- WARM_RESTART as a command. -/
def Live.restartCommand (l : Live) : Nat × Live :=
  if l.modes.acted then (0x3, l)
  else if l.mode.leaves ∨ l.mode = .freeze then (0, l.asks fun m => { m with restart := some 1 })
  else (0xA, l)

/-! ### The life cycle (R141 to R143) -/

/-- The state that a command starts from and leads to. -/
def lcRow (v : Nat) : Nat × Nat := match v with | 1 => (1, 2) | 2 => (2, 3) | _ => (3, 1)

/-- Whether the mode allows a life-cycle command. -/
def lcMode (v : Nat) (m : Mode) : Bool :=
  match v with
  | 1 => m == .configure
  | 2 => m.leaves
  | _ => m == .decommissioned

/-- VENDOR_AUTH is a valid signature over SERIAL and the challenge. -/
def vendorAuth (challenge : Nat) (auth : List Byte) : Bool :=
  Config.signatureValid 1 (beBytes 12 Config.serial ++ u32 challenge ++ auth)

/-- A life-cycle command with what its write carried. -/
def Live.lifeCycle (l : Live) (v : Nat) (formed : Bool) (confirm : Option Nat) (auth : Option (List Byte))
    (challenge : Nat × Nat) : Nat × Live :=
  if l.modes.acted then (0x3, l)
  else
    let sure := confirm == some challenge.1 || confirm == some challenge.2
    let signed := v != 3 || (match auth with | some a => vendorAuth (confirm.getD 0) a | none => false)
    if formed ∧ sure ∧ signed ∧ l.rd .LC_STATE = (lcRow v).1 ∧ lcMode v l.mode then
      (0, (l.asks fun m => { m with goTo := some .wipe }).wr .LC_PENDING (lcRow v).2)
    else (0xA, l.raise 18)

/-- LC_COMMAND as it commits in a record write (R142). -/
def Live.lcCommand (l : Live) (v : Nat) (w : PendingWrite) : Nat × Live :=
  let carried := fun (sub : Nat) => (w.fields.find? fun f => f.1 == sub).map Prod.snd
  if v = 1 ∨ v = 2 ∨ v = 3 then
    l.lifeCycle v (w.sub == 0xFF) (carried 2) ((carried 4).map (beBytes 64)) w.challenge
  else (0, l)

/-! ### Images (R150 to R153) -/

/-- A byte of an image slot. -/
def Live.imageByte (l : Live) (slot off : Nat) : Byte :=
  let s := if slot = 0 then l.modes.slotA else l.modes.slotB
  match s.blocks.find? (off / 1048576) with
  | some b => b.getD (off % 1048576) (byte 0)
  | none => Config.imageByte slot off

/-- Bytes of an image slot. -/
def Live.imageBytes (l : Live) (slot off n : Nat) : List Byte := (List.range n).map fun k => l.imageByte slot (off + k)

/-- The verdict on an image: 2 VERIFIED, 3 BAD_SIGNATURE, 4 ROLLBACK (R150 to R152). -/
def imageVerdict (bytes : Nat → Nat → List Byte) (minimum : Nat) : Nat :=
  let head := bytes 0 128
  let n := fieldAt head 12 4
  if fieldAt head 0 4 ≠ 0x4B343849 ∨ n = 0 ∨ 33554304 < n then 3
  else if ¬ Config.signatureValid 0 (slice head 0 64 ++ bytes 128 n ++ slice head 64 64) then 3
  else if fieldAt head 8 4 < minimum then 4
  else 2

def Live.slotVerdict (l : Live) (slot : Nat) : Nat := imageVerdict (l.imageBytes slot) (l.rd .MIN_SECURITY_VERSION)
def Live.slotVersion (l : Live) (slot : Nat) : Nat := beVal (l.imageBytes slot 4 4)
def Live.slotSecurity (l : Live) (slot : Nat) : Nat := beVal (l.imageBytes slot 8 4)

/-- The slot that does not run. -/
def Live.otherSlot (l : Live) : Nat := 1 - l.rd .RUNNING_IMAGE

/-- IMAGE_ACTIVATE: 1 verifies, 2 verifies and starts the trial. -/
def Live.imageActivate (l : Live) (v : Nat) : Nat × Live :=
  let k := l.otherSlot
  if v = 1 then (0, l.wr .IMAGE_STATUS (l.slotVerdict k))
  else if v ≠ 2 then (0, l)
  else if l.modes.acted then (0x3, l)
  else
    let l1 := (l.wr .IMAGE_STATUS (l.slotVerdict k)).setModes fun m => { m with acted := true }
    if l.slotVerdict k = 2 then
      let l2 := ((l1.dormantWithdrawn.wr .BOOT_PREFERENCE k).wrB .TRIAL true).wr .IMAGE_STATUS 5
      (0, (l2.setModes fun m => { m with restart := some 4, previousImage := l.rd .RUNNING_IMAGE }).raise 6)
    else (0, l1)

/-- IMAGE_CONFIRM within the window of the trial. -/
def Live.imageConfirm (l : Live) : Live :=
  match l.modes.trialStart with
  | some t =>
    if l.rdB .TRIAL ∧ l.ticks ≤ t + l.rd .TRIAL_WINDOW then
      let l1 := ((l.wrB .TRIAL false).wr .MIN_SECURITY_VERSION (l.slotSecurity (l.rd .RUNNING_IMAGE))).wr .IMAGE_STATUS 2
      (l1.setModes fun m => { m with trialStart := none }).raise 8
    else l
  | none => l

/-- The trial's window has ended without confirmation. -/
def Live.trialExpired (l : Live) : Bool :=
  l.rdB .TRIAL && (match l.modes.trialStart with | some t => decide (t + l.rd .TRIAL_WINDOW ≤ l.ticks) | none => false)

/-! ### Phase 4 (R128, R131, R138, R163) -/

/-- A DORMANT request enters DORMANT where no strong partial match stands, or after 16,000 beats; otherwise it is deferred,
with event 15 once. -/
def Live.dormantEval (l : Live) : Live :=
  match l.modes.dormantAsked with
  | none => l
  | some d =>
    if ¬ l.partialMatch ∨ d + 16000 ≤ l.ticks then l.dormantWithdrawn.enter .dormant 0xFF
    else if l.rdB .DORMANT_DEFERRED then l
    else (l.wrB .DORMANT_DEFERRED true).raise 15

/-- BRINGUP ends at the boundary after its work completes. -/
def Live.bringupEval (l : Live) : Live :=
  if ¬ l.modes.imageOk then l
  else if l.rd .LC_PENDING ≠ 0xFF then l.enter .wipe 0xFF
  else if l.rd .LC_STATE = 3 then l.enter .decommissioned 0xFF
  else if l.modes.storedLoaded ∧ l.modes.trained ∧ l.modes.filled then l.configureEntry
  else l

/-- DORMANT and LISTEN: a wake wins over an entry to DORMANT. -/
def Live.supervisorEval (l : Live) : Live :=
  if l.modes.wake.isSome ∧ l.modes.wakeAt < l.ticks then l.restart 5
  else if l.modes.goTo = some .listen then l.enter .listen 0xFF
  else l.dormantEval

/-- CONFIGURE and the running family. -/
def Live.liveEval (l : Live) : Live :=
  if l.modes.goTo = some .wipe then l.enter .wipe 0xFF
  else match l.modes.restart with
    | some w => l.restart w
    | none =>
      if l.trialExpired then l.restart 3
      else if l.modes.goTo = some .configure then l.enter .configure 0xFF
      else if l.freezeCause then l.dormantWithdrawn.enter .freeze 0
      else if l.modes.goTo = some .listen then l.enter .listen 0xFF
      else
        let l1 := l.dormantEval
        if l1.mode.running ∨ (l1.mode = .configure ∧ l1.modes.goTo = some .service) then
          l1.enter l1.runningMode.1 l1.runningMode.2
        else l1

/-- FREEZE and DECOMMISSIONED are left by a restart; DECOMMISSIONED also by a life-cycle command. -/
def Live.stayEval (l : Live) : Live :=
  if l.modes.goTo = some .wipe then l.enter .wipe 0xFF
  else match l.modes.restart with
    | some w => l.restart w
    | none => if l.mode = .freeze ∧ l.trialExpired then l.restart 3 else l

/-- Phase 4: the running mode is computed and a transition takes effect. -/
def Live.modeEval (l : Live) : Live :=
  let l1 := match l.mode with
    | .bringup => l.bringupEval
    | .dormant => l.supervisorEval
    | .listen => l.supervisorEval
    | .freeze => l.stayEval
    | .decommissioned => l.stayEval
    | .configure => l.liveEval
    | .service => l.liveEval
    | .island => l.liveEval
    | .backfill => l.liveEval
    | .lean => l.liveEval
    | _ => l
  let l2 := l1.setModes fun m => { m with acted := false, goTo := none }
  (if l2.leanCause then l2 else l2.recoveryDone 5 0).showCauses

/-! ### Requests as commands of their own -/

/-- A mode request of the table takes effect, with the transition that follows from it. -/
def Live.requestNow (l : Live) (v : Nat) : Live := (l.modeCommand v).2.modeEval

def execModeRequestConfigure (s : State) : Host.Outcome State Fault Refusal := s.effect fun l => l.requestNow 5
def execModeRequestService (s : State) : Host.Outcome State Fault Refusal := s.effect fun l => l.requestNow 6
def execModeRequestListen (s : State) : Host.Outcome State Fault Refusal := s.effect fun l => l.requestNow 2
def execModeRequestDormant (s : State) : Host.Outcome State Fault Refusal := s.effect fun l => l.requestNow 1
def execModeRequestFreeze (s : State) : Host.Outcome State Fault Refusal := s.effect fun l => l.requestNow 10

/-- The deferral of DORMANT ends (R138). -/
def execDormantEntry (s : State) : Host.Outcome State Fault Refusal :=
  s.effect fun l =>
    if l.modes.dormantAsked.isSome ∧ (l.mode.leaves ∨ l.mode = .listen) then l.dormantEval.showCauses else l

/-- A wake source fires, `line` being the input of GPIO or the port of LINK: BRINGUP begins at the next boundary (R136). -/
def execWake (source : Fin 5) (line : Fin 52) (s : State) : Host.Outcome State Fault Refusal :=
  s.effect fun l =>
    let named := match source with
      | 1 => line.val < 16 && bit (l.rd .WAKE_GPIO_MASK) line.val
      | 2 => bit (l.rd .WAKE_LINK_PORTS) line.val
      | _ => true
    if named then l.wakeBy source.val else l

/-- A restart taken at once: where the table of R131 has a row for it. -/
def Live.restartNow (l : Live) (why : Nat) : Live :=
  if l.mode.leaves ∨ l.mode = .freeze ∨ l.mode = .decommissioned then (l.restart why).showCauses else l

/-- WARM_RESTART commits (R147). -/
def execWarmRestart (s : State) : Host.Outcome State Fault Refusal := s.effect fun l => l.restartCommand.2.modeEval

/-- The firmware has missed its check-in for 800 beats: the restart follows in phase 4 of the next boundary (R131, R147). -/
def execWatchdogRestart (s : State) : Host.Outcome State Fault Refusal :=
  s.effect fun l =>
    if l.mode.leaves ∨ l.mode = .freeze ∨ l.mode = .decommissioned then
      l.setModes fun m => { m with restart := some (m.restart.getD 2) }
    else l

/-- The trial window ends without confirmation (R153). -/
def execTrialRevert (s : State) : Host.Outcome State Fault Refusal :=
  s.effect fun l => if l.trialExpired then l.restartNow 3 else l

/-- A life-cycle command as a record write with LC_CONFIRM, and the entry to WIPE (R142, R143). -/
def Live.lifeCycleNow (l : Live) (v confirm : Nat) (auth : Option (List Byte)) : Live :=
  (l.lifeCycle v true (some confirm) auth (l.rd .LC_CHALLENGE, l.modes.oldChallenge)).2.modeEval

def execLcCommission (confirm : Nat) (s : State) : Host.Outcome State Fault Refusal :=
  s.effect fun l => l.lifeCycleNow 1 confirm none
def execLcDecommission (confirm : Nat) (s : State) : Host.Outcome State Fault Refusal :=
  s.effect fun l => l.lifeCycleNow 2 confirm none
def execLcVendorReset (confirm : Nat) (auth : List Byte) (s : State) : Host.Outcome State Fault Refusal :=
  s.effect fun l => l.lifeCycleNow 3 confirm (some auth)

/-- LC_CHALLENGE takes a new value every 8,000 beats from the generator (R10, R142), seeded as WRED's is from FABRIC_SEED
(DESIGN CHOICE: the spec names no value of the configuration for it; log 118). -/
def Live.challengeUpdate (l : Live) : Live :=
  if l.mode = .off ∨ l.elapsed % 8000 ≠ 0 ∨ (l.modes.challengeAt = l.ticks ∧ l.ticks ≠ 0) then l
  else
    let v := Config.generator 2 (l.rd .FABRIC_SEED) l.now 0 % 2 ^ 32
    (l.setModes fun m => { m with oldChallenge := l.rd .LC_CHALLENGE, challengeAt := l.ticks }).wr .LC_CHALLENGE v

def execLcChallengeUpdate (s : State) : Host.Outcome State Fault Refusal := s.effect Live.challengeUpdate

/-- The wipe is verified: the new state is recorded and a new run begins (R143, R144). -/
def Live.wipeDone (l : Live) : Live :=
  if l.mode ≠ .wipe ∨ 3 ≤ l.modes.wipeAttempts then l
  else
    let old := l.rd .LC_STATE
    let new := l.rd .LC_PENDING
    let l1 := (l.raise 3).raise 1 (u8 old ++ u8 new)
    let l2 := ((l1.wr .LC_STATE new).wr .LC_PENDING 0xFF).wr .LC_TRANSITION_COUNT (l1.rd .LC_TRANSITION_COUNT + 1)
    let l3 := l2.wr .STORED_GENERATION 0
    (l3.setModes fun m => { m with bootOrigin := 0, copy0 := {}, copy1 := {}, storing := none }).newRun .lifeCycle

def execWipeDone (s : State) : Host.Outcome State Fault Refusal := s.effect Live.wipeDone

/-- The read-back of the wipe fails: the wipe is repeated, at most three times in all (R144). -/
def execWipeVerifyFail (s : State) : Host.Outcome State Fault Refusal :=
  s.effect fun l =>
    if l.mode = .wipe ∧ l.modes.wipeAttempts < 3 then
      (l.setModes fun m => { m with wipeAttempts := m.wipeAttempts + 1 }).raise 4
    else l

/-- IMAGE_ACTIVATE as commands of their own: 2 restarts at once (R152). -/
def execImageActivateVerify (s : State) : Host.Outcome State Fault Refusal :=
  s.effect fun l => if l.mode.engineOn ∨ l.mode = .decommissioned then (l.imageActivate 1).2 else l

def execImageActivateTrial (s : State) : Host.Outcome State Fault Refusal :=
  s.effect fun l => if l.mode.engineOn ∨ l.mode = .decommissioned then (l.imageActivate 2).2.modeEval else l

def execImageConfirm (s : State) : Host.Outcome State Fault Refusal := s.effect Live.imageConfirm

/-! ### Start-up (R151, R157, R164, R536) -/

/-- The boot ROM has loaded and verified an image (R151), the previous one after a trial that was not confirmed (R153). -/
def Live.imageAccepted (l : Live) : Live :=
  if l.mode ≠ .bringup ∨ l.modes.imageOk ∨ l.modes.recovery then l
  else
    let l1 := if l.modes.revert ∧ l.rdB .TRIAL then
        (((l.wrB .TRIAL false).wr .BOOT_PREFERENCE l.modes.previousImage).wr .IMAGE_STATUS 0).raise 7
      else l
    let l2 := l1.setModes fun m => { m with revert := false }
    let first := l2.rd .BOOT_PREFERENCE
    let runs := fun (l : Live) (k : Nat) =>
      ((((l.wr .RUNNING_IMAGE k).wr .IMAGE_A_VERSION (l.slotVersion 0)).wr .IMAGE_B_VERSION (l.slotVersion 1)).wr
        .DICTIONARY_VERSION Config.dictionaryVersion).setModes fun m => { m with imageOk := true }
    if l2.slotVerdict first = 2 then runs l2 first
    else if l2.slotVerdict (1 - first) = 2 then runs ((l2.raise 5).wr .BOOT_PREFERENCE (1 - first)) (1 - first)
    else l2.setModes fun m => { m with recovery := true }

def execImageAccepted (s : State) : Host.Outcome State Fault Refusal := s.effect Live.imageAccepted

/-- DRAM training ends (R536): after three failures event 494 and the log's entry, and the unit stays in BRINGUP. -/
def Live.trainingDone (l : Live) (ok : Bool) : Live :=
  if l.mode ≠ .bringup ∨ l.modes.trained ∨ 3 ≤ l.modes.trainingFails then l
  else if ok then ((l.setModes fun m => { m with trained := true }).chTo 0 chActive).chTo 1 chActive
  else
    let n := l.modes.trainingFails + 1
    let l1 := l.setModes fun m => { m with trainingFails := n }
    if n < 3 then l1 else (l1.dramLog 6 0 {}).raise 494

def execDramTrainingDone (ok : Bool) (s : State) : Host.Outcome State Fault Refusal := s.effect fun l => l.trainingDone ok

/-- The zero-fill of DRAM ends (R157). -/
def execZeroFillComplete (s : State) : Host.Outcome State Fault Refusal :=
  s.effect fun l => if l.mode = .bringup ∧ l.modes.trained then l.setModes fun m => { m with filled := true } else l

/-- Held occurrences are evaluated at the first beat of CONFIGURE (R648). -/
def Live.heldRaised (l : Live) : Live :=
  l.events.held.foldl Live.evalOcc { l with events := { l.events with held := [] } }

/-- CONFIGURE begins: the last step of start-up is complete. -/
def execConfigureEntry (s : State) : Host.Outcome State Fault Refusal :=
  s.effect fun l =>
    if l.mode = .bringup then
      let l1 := l.bringupEval
      if l1.mode = .configure then l1.showCauses.heldRaised else l
    else l

def Live.anyCarries (l : Live) : Bool := (List.range bays).any fun b => (l.power.modules.get b).carries

def execPowerFailWarning (s : State) : Host.Outcome State Fault Refusal := s.effect Live.lastWarning

/-- The output of every module collapses: OFF (R23, R131, R164). -/
def Live.collapse (l : Live) : Live :=
  let l1 := l.setModes fun m => { m with mode := .off, storing := none }
  { l1.wiped .powerOn false with beat := l.beat }

def execMainsCollapse (s : State) : Host.Outcome State Fault Refusal :=
  s.effect fun l => if l.mode ≠ .off ∧ ¬ l.anyCarries then l.collapse else l

/-- A module's output is in regulation: the run begins in BRINGUP at the origin of the boot record (R31, R157, R164). -/
def Live.powerUp (l : Live) : Live :=
  let l1 := l.newRun .powerOn
  let l2 := match l1.modes.shutdown with
    | some r => l1.raise 17 (u64 r.beat ++ u8 r.mode ++ u64 r.causes ++ u8 r.reason)
    | none => l1
  (l2.setModes fun m => { m with shutdown := none }).sampleModules

def execPowerOnReset (s : State) : Host.Outcome State Fault Refusal :=
  s.effect fun l => if l.mode = .off ∧ l.anyCarries ∧ l.enclosure.trip = none then l.powerUp else l

/-- The supervisor trips at 125.0 °C on the engine die (R715). -/
def Live.thermalTrip (l : Live) : Live :=
  if l.mode = .off ∨ l.rdI .VALUE 2 < 1250 then l
  else
    let l1 := (l.shutdownRecord 1).modulesDark
    l1.collapse.setUnit fun u => { u with trip := some l.now }

def execThermalTrip (s : State) : Host.Outcome State Fault Refusal := s.effect Live.thermalTrip

/-- 600 s later the modules restore their outputs, and a power-on reset follows (R715). -/
def Live.tripRestored (l : Live) : Live :=
  match l.enclosure.trip with
  | none => l
  | some _ =>
    let l1 := l.forN bays fun l b =>
      let m := l.power.modules.get b
      if m.report = modAbsent then l
      else l.setModule b fun m => { m with report := firstLine (m.kind == 1) m.volts }
    let l2 := l1.powerUp
    (l2.wr .THERMAL_TRIPS (l2.rd .THERMAL_TRIPS + 1)).setUnit fun u => { u with trip := none, tripped := true }

def execThermalTripRestore (s : State) : Host.Outcome State Fault Refusal := s.effect Live.tripRestored

end Sys2Proof.Machine
end

