-- ==== Sys2Proof/Machine/EventRows.lean ====
section
/-! DEFINITION. The commands of events, GPIO inputs and snapshots (R639, R643, R644, R649 to R653, R664, R665). -/

namespace Sys2Proof.Machine

open Sys2Proof

/-- CLEAR is allowed in every mode that serves writes to the events' objects. -/
def execClear (g : Fin 20) (tn : Fin 8) (mask : Nat) (s : State) : Host.Outcome State Fault Refusal :=
  s.effect fun l => if l.mode.engineOn then l.clearLatches g.val tn.val (mask &&& groupMask g.val) else l

def execUnmask (g : Fin 20) (tn : Fin 8) (mask : Nat) (s : State) : Host.Outcome State Fault Refusal :=
  s.effect fun l => if l.mode.engineOn then l.unmask g.val tn.val (mask &&& groupMask g.val) else l

/-- The spacing of an instance ends: its deferred occurrences give one notification (R643). -/
def execSpacingExpiry (src : Fin 640) (tn : Fin 8) (s : State) : Host.Outcome State Fault Refusal :=
  s.effect fun l => if l.mode.evaluates then l.spacingExpiry src.val tn.val else l

def execGpioSample (raw : Nat) (s : State) : Host.Outcome State Fault Refusal := s.effect fun l => l.gpioSample raw

/-- A debounced change of an input; in DORMANT and LISTEN a rising edge of an input of WAKE_GPIO_MASK is a wake source
(R136). -/
def Live.gpioEdge (l : Live) (i : Nat) : Live :=
  if l.gpioDue i then
    let l1 := l.gpioLevelChange i
    if l1.rdB .LEVEL_1900 i ∧ bit (l1.rd .WAKE_GPIO_MASK) i then l1.wakeBy 1 else l1
  else l

def execGpioLevelChange (i : Fin 16) (s : State) : Host.Outcome State Fault Refusal := s.effect fun l => l.gpioEdge i.val

def execChatterWindowEnd (i : Fin 16) (s : State) : Host.Outcome State Fault Refusal :=
  s.effect fun l => l.chatterWindowEnd i.val

def execGpioStuck (i : Fin 16) (s : State) : Host.Outcome State Fault Refusal := s.effect fun l => l.gpioStuck i.val

/-- The capture that phase 7 prepared begins its copy (R664, R665). -/
def execSnapshotCapture (s : State) : Host.Outcome State Fault Refusal := s.effect Live.snapshotCapture

/-- The copy ends (R665). -/
def execSnapshotDone (s : State) : Host.Outcome State Fault Refusal := s.effect Live.snapshotDone

end Sys2Proof.Machine
end

