-- ==== Sys2Proof/Machine/HostRegs.lean ====
section
/-! DEFINITION. BAR0 as a host writes it: registers, mailbox page, buffer-pool page, rings, MSI-X, buffer aperture and the
recovery window (R118, R119, R599 to R601, R604, R605, R619 to R622, R624, R625, R628). -/

namespace Sys2Proof.Machine

open Sys2Proof

/-! ### The mailbox page (R118, R119) -/

/-- The mailbox page of a function takes writes. -/
def Live.mbxServes (l : Live) (f : Nat) : Bool :=
  l.host.up && (l.fn f).flr == none && (f == 0 || (l.fn f).vfEnable)
    && (l.mode.engineOn || l.mode == .freeze || (l.mode == .decommissioned && f == 0))

/-- The next response is shown where none is: RSP_READY sets, and the mailbox vector is signalled where RSP_IRQ_EN is set. -/
def Live.mbxNext (l : Live) (f : Nat) : Live :=
  let m := l.mailboxes.get f
  if m.rspReady ∨ m.waiting = [] then l
  else
    let l1 := l.setMbx f Mailbox.show
    if m.rspIrqEn then l1.signalVector f (l1.fn f).mbxVector else l1

/-- A doorbell: while REQ_BUSY is 1 it is a protocol error, and journalled. -/
def Live.doorbell (l : Live) (f : Nat) : Live :=
  if (l.mailboxes.get f).reqBusy then
    ((l.setMbx f fun m => { m with protocolError := true }).raise 79).hostFault f faultMailboxBusy 0 0x1000 (leBytes 4 1)
  else l.setMbx f fun m => { m with reqBusy := true }

def execMbxDoorbell (f : Fin 8) (s : State) : Host.Outcome State Fault Refusal :=
  s.effect fun l => if l.mbxServes f.val then l.doorbell f.val else l

/-- The shown response is released, and the next one is shown. -/
def Live.rspRelease (l : Live) (f : Nat) : Live := (l.setMbx f Mailbox.release).mbxNext f

def execMbxRspRelease (f : Fin 8) (s : State) : Host.Outcome State Fault Refusal :=
  s.effect fun l => if l.mbxServes f.val then l.rspRelease f.val else l

/-! ### The buffer aperture (R620, R624) -/

/-- The check of an aperture access; an access that is no whole number of 8-byte words fails as MISALIGNED. -/
def Live.apertureCheck (l : Live) (f offset len : Nat) : Nat :=
  let x := l.fn f
  l.checkHandle (8 + f) x.winHandle (some (x.winOffset + offset, if len % 8 = 0 then len else 0))

/-- Where the aperture and its end lie in a function's BAR0. -/
def apertureBase (f : Nat) : Nat := if f = 0 then 0x100000 else 0x20000
def apertureSize (f : Nat) : Nat := if f = 0 then 0x100000 else 0x20000

/-- A host read through the aperture: its data, zero before CONFIGURE and past the aperture, or Completer Abort, an advisory
non-fatal error. -/
def Live.apertureRead (l : Live) (f offset len : Nat) : Live :=
  let show_ := fun (l : Live) (d : Option (List Byte)) => l.setFn f fun x => { x with apertureRead := d }
  if ¬ l.host.up ∨ (f ≠ 0 ∧ ¬ (l.fn f).vfEnable) then l
  else if ¬ (l.mode.engineOn ∨ l.mode = .freeze) ∨ (l.fn f).flr ≠ none then show_ l (some (List.replicate len (byte 0)))
  else if l.mode = .freeze then show_ l none
  else if apertureSize f < offset + len then show_ l (some (List.replicate len (byte 0)))
  else
    let x := l.fn f
    let c := l.apertureCheck f offset len
    let key := handleKey x.winHandle
    if c ≠ bpmOk then show_ ((l.bpmFault (8 + f) x.winHandle c).mark 586) none
    else
      (show_ l (some (l.bufRead key (x.winOffset + offset) len))).poisonToHost f
        ((l.buf key).poisoned (x.winOffset + offset) len)

def execApertureRead (f : Fin 8) (offset len : Nat) (s : State) : Host.Outcome State Fault Refusal :=
  s.effect fun l => l.apertureRead f.val offset len

/-- A host write through the aperture, the function being served. -/
def Live.apertureStore (l : Live) (f offset : Nat) (data : List Byte) (poison : Bool) : Live :=
  let x := l.fn f
  if l.mode = .freeze then l.hostFault f faultFrozen 0 (apertureBase f + offset) data
  else
    let c := l.apertureCheck f offset data.length
    if c ≠ bpmOk then (l.bpmFault (8 + f) x.winHandle c).hostFault f faultBpmCheck c (apertureBase f + offset) data
    else
      let l1 := l.bufWrite (handleKey x.winHandle) (x.winOffset + offset) data poison
      l1.poisonFromHost f poison

/-! ### Registers (R600, R604, R619) -/

/-- Registers of a function, by offset and width; `none` where the offset is reserved. -/
def registerAt (f off : Nat) : Option (Nat × Nat) :=
  let page := off / 4096
  let a := off % 4096
  let at_ := fun (regs : List (Nat × Nat)) =>
    (regs.find? fun r => decide (r.1 ≤ a) && decide (a < r.1 + r.2)).map fun r => (4096 * page + r.1, r.2)
  match page with
  | 0 => at_ ([(0, 4), (4, 4), (8, 4), (0xC, 4), (0x10, 4), (0x18, 8), (0x20, 4)]
      ++ (if f = 0 then [(0x100, 4), (0x104, 4)] else []))
  | 1 => at_ [(0, 4), (4, 4), (8, 4), (0xC, 4), (0x100, 1032), (0x800, 1032)]
  | 2 => at_ [(0, 4), (4, 4), (8, 4), (0xC, 4), (0x10, 4), (0x14, 4)]
  | 3 => at_ [(0, 1024), (0x400, 4)]
  | 4 =>
    if a / 64 < 13 then
      ([(0, 8), (8, 8), (0x10, 4), (0x14, 4), (0x18, 4), (0x1C, 4), (0x20, 4), (0x24, 4), (0x28, 8), (0x30, 4)].find? fun r =>
        decide (r.1 ≤ a % 64) && decide (a % 64 < r.1 + r.2)).map fun r => (0x4000 + a / 64 * 64 + r.1, r.2)
    else none
  | 8 => if a < 16 * vectorCount f then some (off / 8 * 8, 8) else none
  | 9 => at_ [(0, 8)]
  | _ => none

/-- RING_CONTROL as it reads. -/
def Ring.control (r : Ring) : Nat :=
  r.enable.toNat * 2 ^ 31 + r.vector * 2 ^ 20 + r.irqEn.toNat * 2 ^ 19 + r.cqLog2 * 2 ^ 12 + r.sqLog2 * 2 ^ 8

/-- Data written over a register's little-endian bytes. -/
def mergeReg (old width at_ : Nat) (data : List Byte) : Nat := leVal (patch (leBytes width old) at_ data)

/-- A write of `data` to the register at `x` of ring `k`, from its byte `at_` on; `off` is the address in BAR0. -/
def Live.ringReg (l : Live) (f k x at_ off : Nat) (data : List Byte) : Live :=
  let r := l.ring f k
  let busy := l.hostFault f faultRingBusy 0 off data
  match x with
  | 0x00 => if r.enable then busy else l.setRing f k fun r => { r with sqBase := mergeReg r.sqBase 8 at_ data }
  | 0x08 => if r.enable then busy else l.setRing f k fun r => { r with cqBase := mergeReg r.cqBase 8 at_ data }
  | 0x10 => l.ringControlWrite f k (mergeReg r.control 4 at_ data) off data
  | 0x18 => l.sqTailWrite f k (mergeReg r.sqTail 4 at_ data)
  | 0x20 => l.cqHeadWrite f k (mergeReg r.cqHead 4 at_ data)
  | 0x28 => if r.enable then busy else l.setRing f k fun r => { r with cqWb := mergeReg r.cqWb 8 at_ data }
  | 0x30 => l.setRing f k fun r => { r with coalesce := mergeReg r.coalesce 4 at_ data }
  | _ => l.hostFault f faultReadOnly 0 off data

/-- A write of a ring register. -/
def Live.ringWrite (l : Live) (f off reg : Nat) (data : List Byte) : Live :=
  l.ringReg f ((reg - 0x4000) / 64) ((reg - 0x4000) % 64) (off - reg) off data

/-- BPM_CMD: an operation of requester 8 + f (R619). -/
def Live.bpmCommand (l : Live) (f v : Nat) : Live :=
  let r := 8 + f
  let arg := (l.fn f).bpmArg
  if ¬ l.bpmRuns r then l
  else
    match bits v 28 4 with
    | 1 => let a := l.alloc r arg f
           a.2.bpmResult r a.1.1 (some a.1.2)
    | 2 => let a := l.share r arg (bits v 20 4) (bit v 27)
           a.2.bpmResult r a.1 none
    | 3 => let a := l.release r arg
           a.2.bpmResult r a.1 none
    | 4 => let a := l.freeHandle r arg
           a.2.bpmResult r a.1 none
    | _ => l

/-- WATCHDOG_BEATS takes 0, or the nearer limit (R600). -/
def watchdogValue (v : Nat) : Nat := if v = 0 then 0 else max 8 (min 80000 v)

/-! ### The recovery window (R628) -/

/-- The verdict on the staged image; its header's body must have the length that RECOVERY_CONTROL gives. -/
def Live.stagedVerdict (l : Live) : Nat :=
  if fieldAt l.host.staged 12 4 = l.host.recoveryLength then
    imageVerdict (slice l.host.staged) (l.rd .MIN_SECURITY_VERSION)
  else 3

/-- The ROM's work ends at the boundary that follows COMMIT (DESIGN CHOICE, log 133). -/
def Live.romVerdict (l : Live) : Live :=
  if l.host.recoveryStatus = 1 then l.setHost fun h => { h with recoveryStatus := l.stagedVerdict } else l

/-- COMMIT: the ROM begins to check the staged image; RECOVERY_STATUS reads WRITING. -/
def Live.recoveryCommit (l : Live) (length : Nat) : Live :=
  if l.mode = .bringup ∧ l.modes.recovery ∧ l.host.up then
    l.setHost fun h => { h with recoveryLength := length % 2 ^ 26, recoveryStatus := 1 }
  else l

def execRecoveryCommit (length : Nat) (s : State) : Host.Outcome State Fault Refusal :=
  s.effect fun l => l.recoveryCommit length

/-- An accepted recovery image is written to slot A, which is to run, and a warm restart begins. -/
def Live.recoveryUse (l : Live) : Live :=
  if l.mode = .bringup ∧ l.modes.recovery ∧ l.host.recoveryStatus = 2 then
    let blocks := (List.range 32).foldl (fun (t : Tbl (List Byte)) k => t.put k (slice l.host.staged (1048576 * k) 1048576)) []
    let l1 := l.setModes fun m => { m with slotA := { blocks := blocks } }
    let l2 := l1.setHost fun h => { h with recoveryStatus := 0, staged := [], recoveryLength := 0 }
    ((l2.wr .BOOT_PREFERENCE 0).raise 592).restart 6
  else l

def execRecoveryUsed (s : State) : Host.Outcome State Fault Refusal := s.effect Live.recoveryUse

/-! ### Writes -/

/-- A write within one register of the control, mailbox, buffer-pool, ring and MSI-X pages. -/
def Live.registerSet (l : Live) (f off reg width : Nat) (data : List Byte) : Live :=
  let x := l.fn f
  let at_ := off - reg
  let readOnly := l.hostFault f faultReadOnly 0 off data
  let word := fun (old : Nat) => mergeReg old 4 at_ data
  match reg with
  | 0x0000 => readOnly
  | 0x0004 =>
    let v := word (x.mbxVector * 256 + x.driverReady.toNat)
    l.setFn f fun x => { x with mbxVector := bits v 8 (if f = 0 then 6 else 4), driverReady := bit v 0 }
  | 0x0008 =>
    let v := word 0
    l.setFn f fun x => { x with journalNew := x.journalNew && !bit v 4, resetDone := x.resetDone && !bit v 2 }
  | 0x000C => l.hostAlive f
  | 0x0010 => l.setFn f fun x => { x with watchdog := watchdogValue (word x.watchdog) }
  | 0x0018 => readOnly
  | 0x0020 => l.setFn f fun x => { x with rxMap := word x.rxMap % 65536 }
  | 0x0100 =>
    let v := word l.host.recoveryLength
    let l1 := l.setHost fun h => { h with recoveryLength := v % 2 ^ 26 }
    if bit v 31 then l1.recoveryCommit v else l1
  | 0x0104 => readOnly
  | 0x1000 => if bit (word 0) 0 then l.doorbell f else l
  | 0x1004 =>
    let v := word 0
    let l1 := if bit v 2 then l.setMbx f fun m => { m with protocolError := false } else l
    if bit v 1 then l1.rspRelease f else l1
  | 0x1008 => l.setMbx f fun m => { m with rspIrqEn := bit (word m.rspIrqEn.toNat) 0 }
  | 0x100C => readOnly
  | 0x1100 => l.setMbx f fun m => { m with request := patch (slice m.request 0 1032) at_ data }
  | 0x1800 => readOnly
  | 0x2000 => l.bpmCommand f (word 0)
  | 0x2004 => l.setFn f fun x => { x with bpmArg := word x.bpmArg }
  | 0x2008 => readOnly
  | 0x200C => readOnly
  | 0x2010 => l.setFn f fun x => { x with winHandle := word x.winHandle }
  | 0x2014 => l.setFn f fun x => { x with winOffset := word x.winOffset }
  | _ =>
    if reg / 4096 = 4 then l.ringWrite f off reg data
    else if reg / 4096 = 8 then
      let w := (reg - 0x8000) / 4
      let both := mergeReg (x.msixWord w + x.msixWord (w + 1) * 2 ^ 32) width at_ data
      let control := fun (i v : Nat) => if i % 4 = 3 then v % 2 else v
      (l.setFn f fun x =>
        { x with msix := (x.msix.ins w (control w (both % 2 ^ 32))).ins (w + 1) (control (w + 1) (both / 2 ^ 32 % 2 ^ 32)) })
          |>.unmaskVectors f
    else readOnly

/-- A write to a page of registers: within one register, or MISALIGNED; an offset of none is RESERVED. -/
def Live.pageWrite (l : Live) (f off : Nat) (data : List Byte) : Live :=
  match registerAt f off with
  | none => l.hostFault f faultReserved 0 off data
  | some (reg, width) =>
    if data = [] then l
    else if reg + width < off + data.length then l.hostFault f faultMisaligned 0 off data
    else l.registerSet f off reg width data

/-- A write while only the recovery window is open: the PF's control page and the staging window. -/
def Live.recoveryWrite (l : Live) (f off : Nat) (data : List Byte) (poison : Bool) : Live :=
  if f ≠ 0 ∨ poison then l
  else if 0x2000000 ≤ off ∧ off + data.length ≤ 0x4000000 then
    let at_ := off - 0x2000000
    l.setHost fun h =>
      { h with staged := patch (h.staged ++ List.replicate (at_ + data.length - h.staged.length) (byte 0)) at_ data }
  else
    match registerAt f off with
    | some (reg, width) =>
      if reg < 0x1000 ∧ off + data.length ≤ reg + width ∧ reg ≠ 0 ∧ reg ≠ 0x18 ∧ reg ≠ 0x104 then l.registerSet f off reg width data
      else l
    | none => l

/-- The size of a function's BAR0. -/
def barSize (f : Nat) : Nat := if f = 0 then 0x4000000 else 0x40000

/-- A posted write to BAR0 (R599, R600, R624, R625). -/
def Live.barWrite (l : Live) (f off : Nat) (data : List Byte) (poison : Bool) : Live :=
  if ¬ l.host.up ∨ (f ≠ 0 ∧ ¬ (l.fn f).vfEnable) ∨ barSize f < off + data.length then l
  else if l.mode = .bringup then (if l.modes.recovery then l.recoveryWrite f off data poison else l)
  else if (l.fn f).flr ≠ none then l.hostFault f faultResetting 0 off data
  else if l.mode = .decommissioned ∧ ¬ (f = 0 ∧ off < 0x2000) then l.hostFault f faultNotServed 0 off data
  else if apertureBase f ≤ off ∧ off < apertureBase f + apertureSize f then
    l.apertureStore f (off - apertureBase f) data poison
  else if poison then (l.hostFault f faultPoisoned 0 off data).mark 586
  else if off < 0xA000 then l.pageWrite f off data
  else if f = 0 ∧ 0x1000000 ≤ off ∧ off < 0x2000000 then l.hostFault f faultReadOnly 0 off data
  else if f = 0 ∧ 0x2000000 ≤ off then l.hostFault f faultNotServed 0 off data
  else l.hostFault f faultReserved 0 off data

def execRegisterWrite (f : Fin 8) (offset : Nat) (data : List Byte) (poison : Bool) (s : State) :
    Host.Outcome State Fault Refusal := s.effect fun l => l.barWrite f.val offset data poison

/-- A write at an aperture offset. -/
def execApertureWrite (f : Fin 8) (offset : Nat) (data : List Byte) (poison : Bool) (s : State) :
    Host.Outcome State Fault Refusal :=
  s.effect fun l =>
    if offset < apertureSize f.val then l.barWrite f.val (apertureBase f.val + offset) data poison else l

end Sys2Proof.Machine
end

