-- ==== Sys2Proof/Machine/Commit.lean ====
section
/-! DEFINITION. What the chapters say of single objects when a request arrives, when it commits and when a command starts:
reach, denial by content, clamp rules field by field, checks 9, 10 and 13, and the commanded actions. -/

namespace Sys2Proof.Machine

open Sys2Proof

/-! ### Reach (R71 to R73, R166, R185, R298, R341, R434, R495, R670) -/

/-- Elements that read as all zero to a master of another tenancy: tables bound by content, and what goes with them. -/
def byElement (o : Obj) : Bool :=
  (elemTable o).isSome || o.base == 0x1810 || o.base == 0x1830 || o.base == 0x2300 || o.base == 0x2400 || o.base == 0x3020
    || o.base == 0x3400

/-- Tables whose elements TN0 masters read whatever tenancy they carry (R298, R341). -/
def openToTn0 (o : Obj) : Bool :=
  (match elemTable o with | some .policer => false | some _ => true | none => false) || o.base == 0x2300 || o.base == 0x2400

/-- The instance that a master reaches. -/
def Live.instOf (l : Live) (rank : Nat) (o : Obj) : Nat :=
  match o.own with
  | .perMaster => rank
  | .perTn => if reachesAll rank then l.rd .TN_WINDOW 0 0 rank else l.masterTenancy rank
  | _ => 0

/-- Whether a master reaches instance `t` of an item at all; a K48-1 has no second bay (R219). -/
def Live.reaches (l : Live) (rank : Nat) (o : Obj) (i t : Nat) : Bool :=
  (masterClass rank != .vf || l.rd .TN_STATE (rank - 7) == 1 || o.index i ≤ 1 || o.index i == 0xD1)
    && (o.index i != 0x0201 || Config.twoBays)
    && (o.own != .perTn || !reachesAll rank || l.tnServes t)

/-! ### Check 7 at commit, by content (R298, R339, R341, R418, R660) -/

/-- A write of a block counter's CONFIG by a master that acts for TNn. -/
def Live.configDenied (l : Live) (n b c v : Nat) : Bool := n != 0 && (l.blkOwner b c != n || bits v 32 3 != n)

/-- What a field of a write holds, or the value now. -/
def PendingWrite.fieldOr (w : PendingWrite) (sub cur : Nat) : Nat :=
  match w.fields.find? fun f => f.1 == sub with
  | some f => f.2
  | none => cur

/-- A write that its content denies. -/
def Live.contentDenied (l : Live) (w : PendingWrite) : Bool :=
  let n := l.masterTenancy w.rank
  w.fields.any fun f =>
    match findObject w.index f.1 with
    | none => false
    | some (o, i, k) =>
      match elemTable o with
      | some t => l.elemDenied n w.rank t (128 * i + k) f.2 (w.fieldOr (f.1 - 1) (l.elemBefore t (128 * i + k)))
      | none => o.base == 0x1810 && l.configDenied n i k f.2

/-! ### Clamp rules given field by field (R67) -/

/-- A gate entry: reserved bytes cleared, and the interval first to the nearest step of 8, then to the range (R441). -/
def gateEntry (v : Nat) : Nat :=
  let iv := max 256 (min 4294967288 ((bits v 0 32 + 3) / 8 * 8))
  setBits (setBits v 32 24 0) 0 32 iv

/-- SOURCE_CONFIG: reserved bits cleared, the fixed byte kept, no MASK_AFTER for source 628 (R669). -/
def sourceConfigOf (src v : Nat) : Nat :=
  let v1 := setBits (setBits v 62 2 0) 0 32 (defaultSourceConfig src % 2 ^ 32)
  if src = 628 then setBits v1 48 8 0 else v1

/-- PORT values that a block's counters take (R658). -/
def blockPort (b v : Nat) : Bool :=
  v == 0xFF ||
    (if b = 0 ∨ b = 2 then v < 48 else if b = 1 ∨ b = 3 ∨ b = 15 then 48 ≤ v && v ≤ 51 else if b ≤ 18 then v < 56
     else if b = 19 then v < 6 else if b = 20 then v < 16 && v != 7 else v < 8)

/-- CONFIG: SELECT, PORT, ALL, and the reserved bits; OWNER stays where its change would take a tenancy's counters beyond its
quota (R660, R670). -/
def Live.configOf (l : Live) (b c v : Nat) : Nat :=
  let v1 := if 9 < bits v 56 8 then setBits v 56 8 0 else v
  let v2 := if blockPort b (bits v1 48 8) then v1 else setBits v1 48 8 0xFF
  let v3 := setBits (setBits v2 35 4 0) 0 32 0
  let n := bits v3 32 3
  let v4 := if n ≠ l.blkOwner b c ∧ l.rd .EFFECTIVE_QUOTA n 11 < l.blockUse n + 1 then setBits v3 32 3 (l.blkOwner b c) else v3
  if bits v4 32 3 = 0 then v4 else setBit v4 39 false

/-- Ports that MROUTER_PORTS of a tenancy may name: its own and the uplinks. -/
def Live.mrouterMask (l : Live) (t : Nat) : Nat := maskOf ((List.range 52).filter fun p => isUplink p || l.portOwner p == t)

/-- A value after a clamp rule that its chapter gives. -/
def Live.fieldwise (l : Live) (rank : Nat) (o : Obj) (i k t v : Nat) : Nat :=
  match elemTable o with
  | some tb => l.elemClamp rank tb (128 * i + k) v
  | none =>
    match o.rng with
    | .poolCount => min v (poolCount k)
    | .queueLimit => max 1 (min v (if isUplink i then 16128 else 196608))
    | .alarm => ofI32 (clampI (-400) (l.rdI .CRITICAL i) (toI32 v))
    | .evenStereo => if i % 2 = 0 then max 1 (min v 2) else 1
    | .step8 => min ((v + 3) / 8 * 8) (2 ^ 64 - 8)
    | .portOwner => beVal ((beBytes 48 v).map fun b => if 7 < b.toNat then 0 else b)
    | .vlanRanges => beVal ((List.range 8).flatMap fun j => u16 (min 4094 (bits v (16 * (7 - j)) 16)))
    | .sourceConfig => sourceConfigOf (32 * i + k) v
    | .blockConfig => l.configOf i k v
    | .eventBits => v &&& groupMask i
    | .elem => gateEntry v
    | .bits m =>
      if o.base = 0x0C10 then v &&& l.mrouterMask t
      else if o.base = 0x0110 then (v &&& m) ||| 1
      else if o.base = 0x0400 then (if v &&& m = 0 then 0xF else v &&& m)
      else v &&& m
    | _ => v

/-- What a clamp raises beside its answer. -/
def Live.clampEvent (l : Live) (rank : Nat) (o : Obj) (i k _t v : Nat) : Live :=
  match elemTable o with
  | some tb => l.elemClampEvent rank tb (128 * i + k) v
  | none => l

/-! ### Check 10 by a chapter's rule (R33, R132, R152, R179, R290, R297, R343, R526) -/

/-- Objects that such a rule of check 10 or 13 governs. -/
def governed (o : Obj) : Bool :=
  o.acc == .cmd || (o.base == 0x0030 && o.sub == 0x07) || (o.base == 0x0C00 && o.sub == 0x01) || o.base == 0x0A90
    || (match elemTable o with | some .ct0 | some .ct1 | some .ct2 | some .ct3 => true | _ => false)

/-- Whether a value may be written now. -/
def Live.ruleAllows (l : Live) (_rank : Nat) (o : Obj) (i _k _t v : Nat) : Bool :=
  match elemTable o with
  | some tb =>
    match ctNumber tb with
    | some n => l.rd .METHOD n != 0 || i / tb.items != l.rd .ACTIVE_BANK n
    | none => true
  | none =>
    match o.base, o.sub with
    | 0x0030, 0x07 => !l.rdB .TRIAL
    | 0x0A90, 0x01 => !(members 4 v).any fun n => l.rd .METHOD n == 1
    | 0x0A80, 0x05 => l.shadowCopyAllowed i
    | 0x0C00, 0x01 => l.mode == .configure
    | 0x0101, 0x03 => l.armOriginAllowed
    | 0x1340, 0x06 => l.diagAllowed
    | 0x1110, 0x02 => l.tnCommandAllowed i v
    | 0x0110, 0x01 => l.modeAllowed v
    | _, _ => true

/-! ### Check 9 by a chapter's rule (R445, R664) -/

def Live.arrivalCheck (l : Live) (index : Nat) (fields : List (Nat × Nat)) (target : Option Nat) : Nat :=
  let carried := fun (sub : Nat) => (fields.find? fun f => f.1 == sub).map Prod.snd
  if 0x1000 ≤ index ∧ index < 0x1034 then
    match carried 0x10 with
    | some t => if t < l.ptpNs + 250000 then stBeatPast else if l.ptpNs + 2097152000000 ≤ t then stResource else stOk
    | none => stOk
  else if index = 0x1800 then
    match carried 0x01, target with
    | some _, some t => if l.snapshotRoom t then stOk else stResource
    | _, _ => stOk
  else stOk

/-! ### Check 13, and the commanded actions -/

/-- The pending list of a port holds an uncorrectable word within its length (R465). -/
def Live.pendingBad (l : Live) (p : Nat) : Bool :=
  (List.range (l.rd .PENDING_LENGTH p)).any fun e => l.plane.bad.contains (Obj.GATE_PENDING.key (2 * p + e / 128) (e % 128) 0)

/-- A command starts: a status code and the machine. -/
def Live.commandStart (l : Live) (rank : Nat) (w : PendingWrite) (o : Obj) (i _k t v : Nat) : Nat × Live :=
  match o.base, o.sub with
  | 0x0101, 0x03 => (stOk, l.armOrigin)
  | 0x00D1, 0x04 => (stOk, l.cacheFlush rank)
  | 0x00E0, 0x03 => (stOk, l.clampClear)
  | 0x0011, 0x01 => l.lcCommand v w
  | 0x0030, 0x04 => (stOk, l.imageConfirm)
  | 0x0030, 0x08 => l.imageActivate v
  | 0x0038, 0x01 => l.storeCommand
  | 0x0110, 0x01 => l.modeCommand v
  | 0x0110, 0x04 => l.restartCommand
  | 0x0A80, 0x05 => (stOk, l.shadowCopy i)
  | 0x0C80, 0x05 => if 4 ≤ v ∧ v ≤ 6 ∧ ¬ l.flushRoom then (stResource, l) else (stOk, l.macOp rank v)
  | 0x0E00, 0x50 => (stOk, l.flushQueues i v)
  | 0x0EC0, 0x11 => (stOk, l.histClear i v)
  | 0x1000, 0x10 => if l.pendingBad i then (stResource, l) else (stOk, l.changeTime i v)
  | 0x1000, 0x11 => (stOk, l.gateCancel i)
  | 0x1210, 0x09 =>
    if l.rdB .EXPORT_BUSY 0 0 t then (stBusy, l)
    else (stOk, l.setFlannel fun x => { x with exportAsked := x.exportAsked ||| 2 ^ t })
  | 0x1240, 0x05 => (stOk, l.purge i)
  | 0x1330, 0x03 => (stOk, l.dramLogClear)
  | 0x1340, 0x06 => (stOk, l.diagRead)
  | 0x1560, 0x0C => (stOk, l.clipRelease i)
  | 0x1701, 0x04 => (stOk, l.clearLatches i t v)
  | 0x1701, 0x05 => (stOk, l.unmask i t v)
  | 0x0118, 0x04 => (stOk, l.withdrawnClear)
  | 0x19A0, 0x02 => (stOk, l.ledTestStart)
  | 0x1110, 0x02 =>
    (stOk, match v with
      | 1 => l.tnCreate i
      | 2 => l.drainAcks.tnReset i
      | 3 => l.drainAcks.tnDelete i
      | _ => l)
  | _, _ => (stOk, l)

/-- The order in which the commands of one phase start: life cycle, restart, image, mode request; others; takeovers before
cancellations; tenancy commands last, in ascending tenancy order (R90, R163, R188, R464). -/
def startOrder (o : Obj) (i : Nat) : Nat :=
  match o.base, o.sub with
  | 0x0011, 0x01 => 1
  | 0x0110, 0x04 => 2
  | 0x0030, 0x08 => 3
  | 0x0110, 0x01 => 4
  | 0x1000, 0x11 => 7
  | 0x1110, 0x02 => 10 + i
  | _, _ => 6

/-- CANCEL gives way to CHANGE_TIME of its port (R464). -/
def givesWay (o : Obj) (i : Nat) (o' : Obj) (i' : Nat) : Bool :=
  o.base == 0x1000 && o.sub == 0x11 && o'.base == 0x1000 && o'.sub == 0x10 && i == i'

/-- The tenancy that a command resets or deletes (R90). -/
def wipedBy (o : Obj) (i v : Nat) : Option Nat :=
  if o.base = 0x1110 ∧ o.sub = 0x02 ∧ (v = 2 ∨ v = 3) then some i else none

end Sys2Proof.Machine
end

