-- ==== Sys2Proof/Machine/Read.lean ====
section
/-! DEFINITION. What a read shows: values that are kept as data elsewhere than in the store, elements of other tenancies, and
the shown bank (R65, R87, R298, R306, R341, R434, R495, R667, R670). -/

namespace Sys2Proof.Machine

open Sys2Proof

/-- Values of 64 bits and less that the machine holds otherwise: the beat, the dictionary server and its masters, modes,
tables and events. -/
def Live.shown1 (l : Live) (rank : Nat) (o : Obj) (i k t : Nat) : Option Nat :=
  match o.base, o.sub with
  | 0x0100, 0x01 => some l.now
  | 0x0100, 0x02 => some l.beatState
  | 0x0100, 0x03 => some l.ptpNs
  | 0x0100, 0x04 => some l.beat.lastCycles
  | 0x0100, 0x05 => some l.slewRemaining
  | 0x0100, 0x06 => some l.elapsed
  | 0x00D0, 0x01 => some l.dict.queue.length
  | 0x00D1, 0x01 => some rank
  | 0x00D1, 0x02 => some (l.masterTenancy rank)
  | 0x00D1, 0x03 => some (l.queuedOf rank).length
  | 0x00E0, 0x01 => some (l.clampTotalOf (l.masterTenancy rank))
  | 0x0111, 0x01 => some l.mode.code
  | 0x0111, 0x02 => some l.modes.since
  | 0x0401, 0x01 => if 52 ≤ i then some (if l.mode.engineOn then linkUp else linkHeld) else none
  | 0x0A80, 0x03 => some (l.swapState i)
  | 0x0A90, 0x04 => some l.calicoVersions
  | 0x0C00, 0x07 => some l.forwardVersions
  | 0x1701, 0x01 => some (l.evBits (fun e => e.raw) i t)
  | 0x1701, 0x02 => some (l.evBits (fun e => e.latched) i t)
  | 0x1701, 0x03 => some (l.evBits (fun e => e.masked) i t)
  | 0x1740, 0x01 => some (l.evStatus (32 * i + k) t)
  | 0x1800, 0x01 => some (if l.armedBeats.isEmpty then 0 else 1)
  | 0x1830, 0x01 => some (blkValue (l.events.blocks.get (16 * i + k)))
  | _, _ => none

/-- Counts of the fabric, the pools, the queues, retention and the engines. -/
def Live.shown2 (l : Live) (o : Obj) (i k t : Nat) : Option Nat :=
  match o.base, o.sub with
  | 0x0810, 0x28 => some (l.headroomUsed i)
  | 0x0850, 0x01 => some (l.reservedHeadroom l.ticks i)
  | 0x0850, 0x02 => some (l.generalLimit l.ticks i)
  | 0x0850, 0x03 => some (l.generalUse i)
  | 0x0850, 0x04 => some (l.headroomOf i)
  | 0x0900, 0x03 => some (l.inUse i)
  | 0x0900, 0x05 => some (l.poolLevel i)
  | 0x0900, 0x07 => some (l.reservedUnused i)
  | 0x0910, 0x20 => some (l.held i k)
  | 0x0920, 0x01 => some l.scrubBacklog
  | 0x0EC0, 0x01 => some (l.ringOf i k)
  | 0x0EC0, 0x09 => some (l.histOf i k)
  | 0x1201, 0x08 => some (l.segsWhere l.awaitsReturn).length
  | 0x1210, 0x10 => some (l.segsWhere fun g => g.tn == t && g.state != segFree).length
  | 0x1240, 0x11 => some (match l.openSeg i with | some b => (l.seg b).handle | none => 0)
  | 0x1240, 0x12 => some (l.segsWhere fun g => g.stream == i && g.state == segPreroll).length
  | 0x1240, 0x13 => some (l.segsWhere fun g => g.stream == i && g.kept34).length
  | 0x1400, 0x02 => some (l.engine i).queue.length
  | 0x1400, 0x03 => some (if l.token i = 0 then 0 else 1)
  | 0x3020, 0x01 =>
    let e := 128 * i + k
    some (setBits (l.elem .POLICER_STATS e) 0 64 (l.plane.bucketC.get e % 2 ^ 32 * 2 ^ 32 + l.plane.bucketE.get e % 2 ^ 32))
  | _, _ => none

/-- The rules of the K48's objects, but for what a read shows. -/
def writeRules : DictRules :=
  { owner := Live.ownerOf, inst := Live.instOf, reaches := Live.reaches, byElement := byElement, governed := governed,
    allowed := Live.ruleAllows, denied := Live.contentDenied, clamped := Live.clampEvent, fieldwise := Live.fieldwise,
    committed := Live.changed, order := startOrder, yields := givesWay, arrival := Live.arrivalCheck,
    start := Live.commandStart, read := fun _ _ _ _ _ _ => [], wipes := fun _ => wipedBy }

/-- Whether a master sees index.subindex (R72, R73). -/
def Live.sees (l : Live) (rank index sub : Nat) : Bool :=
  match findObject index sub with
  | some (o, i, k) => writeRules.visible l rank (l.instOf rank o) o i k
  | none => false

/-- Longer values. -/
def Live.shownBytes (l : Live) (rank : Nat) (o : Obj) (i k : Nat) : Option (List Byte) :=
  let sp := l.audio.spotters.get i
  match o.base, o.sub with
  | 0x00E0, 0x02 => some (l.clampRing (l.masterTenancy rank) (l.sees rank))
  | 0x0119, 0x02 => some l.recoveryRing
  | 0x0405, 0x03 => some ((List.range 4).flatMap (l.neighbourEntry i))
  | 0x1330, 0x02 => some l.dramLogBytes
  | 0x1340, 0x03 => some l.retryBuffer
  | 0x1340, 0x04 => some l.heldRequests
  | 0x1560, 0x09 => some (spotBytes sp.ringBeat 0 sp.ring)
  | 0x1560, 0x0A => some (spotBytes sp.clipBeat sp.clipDecision sp.clip)
  | 0x1620, 0x02 => some (l.faultJournal i)
  | 0x3400, 0x01 => some (l.seg (128 * i + k)).record
  | _, _ => none

/-- The element belongs to another tenancy than the master's, and reads as all zero. -/
def Live.hidden (l : Live) (rank : Nat) (o : Obj) (i k : Nat) : Bool :=
  let n := l.masterTenancy rank
  byElement o && !reachesAll rank && l.ownerOf o i k != n && (n != 0 || !openToTn0 o)

/-- A counter or VALUE element in the shown bank (R667). -/
def Live.banked (l : Live) (o : Obj) (i k t : Nat) : Nat :=
  if o.base = 0x1830 then blkValue (l.shownBank.blocks.get (16 * i + k))
  else (l.shownBank.cells.find? (o.key i k t)).getD 0

/-- The value of an object as a master reads it; `l` is the machine at the start of the beat (R65). -/
def Live.show (l : Live) (rank : Nat) (o : Obj) (i k t : Nat) : List Byte :=
  if l.hidden rank o i k ∨ l.plane.bad.contains (o.key i k t) then List.replicate o.len 0
  else if (o.counts ∨ o.base = 0x1830) ∧ l.rdB .SNAP_READS 0 0 rank then beBytes o.len (l.banked o i k t)
  else
    match l.shownBytes rank o i k with
    | some bs => bs
    | none => beBytes o.len (((l.shown1 rank o i k t).orElse fun _ => l.shown2 o i k t).getD (l.rd o i k t))

/-- The rules of the K48's objects, with what a read shows. -/
def rules : DictRules := { writeRules with read := Live.show }

end Sys2Proof.Machine
end

