-- ==== Sys2Proof/Machine/Server.lean ====
section
/-! DEFINITION. Requests as they reach the dictionary over each path, and responses and notifications as they leave it
(R65, R66, R83 to R87, R101 to R104, R109, R113 to R119, R641, R647). -/

namespace Sys2Proof.Machine

open Sys2Proof

/-! ### What leaves -/

/-- A frame that firmware sends in Q6 out of a port (R117). -/
def Live.inbandOut (l : Live) (s : Nat) (out : Option (Nat × List Byte)) : Live :=
  match out with
  | none => l
  | some (p, b) =>
    if l.mode.engineOn then
      l.enterFabric { bytes := withFcs (b ++ List.replicate (60 - b.length) 0), word := wordOf (l.sessionTenancy s) 0 6, port := 52,
                      ingress := l.ticks, beat := l.now, plain := true } [p]
    else l

/-- The function of a rank, where it has one. -/
def rankFunction (rank : Nat) : Nat := if rank = 1 then 0 else rank - 7

/-- One response goes to its master's path. -/
def Live.respond (l : Live) (r : Response) : Live :=
  match masterClass r.rank with
  | .pf => (l.setMbx 0 fun m => { m with waiting := m.waiting ++ [r] }).mbxNext 0
  | .vf => (l.setMbx (rankFunction r.rank) fun m => { m with waiting := m.waiting ++ [r] }).mbxNext (rankFunction r.rank)
  | .can => l.canRespond (r.rank - 2) r
  | .inband =>
    let (out, l1) := l.inbandResponse (r.rank - 4) r
    l1.inbandOut (r.rank - 4) out
  | .firmware => l.setDict fun d => { d with firmware := some r }

/-- Every response made in this step leaves. -/
def Live.deliver (l : Live) : Live :=
  l.dict.outbox.foldl Live.respond (l.setDict fun d => { d with outbox := [] })

/-- One notification goes to its destination, with the next number of its master's sequence (R98, R641, R647). -/
def Live.notifyOut (l0 : Live) (n : Note) : Live :=
  let l := l0.count .NOTIFICATIONS_SENT
  if n.dest < 8 then
    let (k, l1) := l.takeSeq (functionRank n.dest)
    l1.ringNotify n.dest (dauOut 6 k (noteIndex n.src) (noteSub n.src) 0 n.payload)
  else if n.dest = 8 then (l.takeSeq 15).2
  else if n.dest < 11 then l.canNotify (n.dest - 9) n.src n.payload
  else
    let (out, l1) := l.inbandNotify (n.dest - 11) n.src n.payload
    l1.inbandOut (n.dest - 11) out

/-- The notifications of a beat are handed over, at most 64. -/
def Live.sendNotes (l : Live) : Live :=
  let (ns, l1) := l.takeNotes
  ns.foldl Live.notifyOut l1

/-! ### What arrives -/

/-- Whether a master's path takes requests now: a CAN port that is not off the bus, an open session, a function that
exists. -/
def Live.pathOpen (l : Live) (rank : Nat) : Bool :=
  match masterClass rank with
  | .pf => true
  | .can => l.canServes (rank - 2)
  | .inband => (l.sessions.get (rank - 4)).open_
  | .vf => (l.fn (rankFunction rank)).vfEnable
  | .firmware => true

/-- A request reaches the server: a CAN port with 320 responses waiting and owed drops it (R109). -/
def Live.serveRequest (st l : Live) (rank op : Nat) (r : Req) : Live :=
  if ¬ l.pathOpen rank ∨ ¬ l.mode.serves rank then l
  else if masterClass rank = .can ∧ 320 ≤ l.canOwed (rank - 2) then l.count .REQ_DROPPED 1 (rank - 2)
  else (rules.request st l rank op r).deliver

/-- Masters are numbered from rank 1. -/
def rankOf (m : Fin 15) : Nat := m.val + 1

/-- A request of a master with its operation, served against the start of the beat. -/
def State.serve (s : State) (m : Fin 15) (op : Nat) (r : Req) : Host.Outcome State Fault Refusal :=
  s.effect fun l => Live.serveRequest s.start l (rankOf m) op r

def execRead (m : Fin 15) (r : Req) (s : State) : Host.Outcome State Fault Refusal := s.serve m 0 r
def execWrite (m : Fin 15) (r : Req) (s : State) : Host.Outcome State Fault Refusal := s.serve m 1 r
def execWriteAtBeat (m : Fin 15) (r : Req) (s : State) : Host.Outcome State Fault Refusal := s.serve m 2 r
def execCommand (m : Fin 15) (r : Req) (s : State) : Host.Outcome State Fault Refusal := s.serve m 3 r
def execSegmentInit (m : Fin 15) (r : Req) (s : State) : Host.Outcome State Fault Refusal := s.serve m 4 r
def execSegment (m : Fin 15) (r : Req) (s : State) : Host.Outcome State Fault Refusal := s.serve m 5 r

/-- A notify operation from a master is answered TYPE_LENGTH (R83). -/
def execNotifyRequest (m : Fin 15) (r : Req) (s : State) : Host.Outcome State Fault Refusal := s.serve m 6 r

/-- A transfer without a segment for 8,000 beats closes (R104). -/
def execSegmentAbandoned (m : Fin 15) (s : State) : Host.Outcome State Fault Refusal :=
  s.effect fun l => l.segmentAbandon (rankOf m)

/-- Cached responses past 8,000 beats go (R84). -/
def execRequestCacheExpiry (m : Fin 15) (s : State) : Host.Outcome State Fault Refusal :=
  s.effect fun l => l.cacheExpire (rankOf m)

def execMyCacheFlush (m : Fin 15) (s : State) : Host.Outcome State Fault Refusal :=
  s.effect fun l => if l.mode.engineOn then l.cacheFlush (rankOf m) else l

def execClampClear (s : State) : Host.Outcome State Fault Refusal :=
  s.effect fun l => if l.mode.engineOn then l.clampClear else l

/-! ### The mailbox page (R119) -/

/-- The request area is taken once room exists. -/
def Live.mbxTake (st l : Live) (f : Nat) : Live :=
  let m := l.mailboxes.get f
  if ¬ l.mbxServes f ∨ ¬ m.reqBusy ∨ 320 ≤ l.mbxOwed f then l
  else
    let q := dauRequest (slice m.request 0 1032) 1024 true
    Live.serveRequest st (l.setMbx f fun m => { m with reqBusy := false }) (functionRank f) q.1 q.2

def execMbxRequestTake (f : Fin 8) (s : State) : Host.Outcome State Fault Refusal :=
  s.effect fun l => Live.mbxTake s.start l f.val

/-! ### In-band requests (R113 to R117) -/

/-- A failed authentication: counted, an event, and an answer at most once in 8 beats; the rest are discarded (R114). -/
def Live.inbandFailed (l : Live) (port s event : Nat) (x : InbandIn) : Live :=
  let l1 := (l.count .AUTH_FAIL_COUNT 1 s).raise event
  let quiet : Bool := match (l.sessions.get s).lastAuthFail with
    | some t => decide (l.ticks < t + 8)
    | none => false
  if quiet then l1.count .DISCARD_COUNT 1 s
  else
    let q := dauRequest (x.body.drop 8) 1024 false
    let peer := l.inbandPeer port s x
    let r : Response := { rank := 4 + s, op := q.1, reqId := q.2.id, index := q.2.index, sub := q.2.sub, status := stAuthFail }
    let (out, l2) := (l1.setSession s fun y => { y with lastAuthFail := some l.ticks }).inbandFrame s peer r.dau
    l2.inbandOut s out

/-- An accepted request: its sequence is taken, and the way back is kept. -/
def Live.inbandAccepted (st l : Live) (port s seq : Nat) (old : Bool) (x : InbandIn) : Live :=
  let q := dauRequest (x.body.drop 8) 1024 false
  let peer := l.inbandPeer port s x
  let route : InbandRoute := { op := q.1, reqId := q.2.id, index := q.2.index, sub := q.2.sub, peer := peer }
  let l1 := l.setSession s fun y =>
    { y with peer := some peer, routes := y.routes ++ [route],
             window := if old then y.window else y.window.take seq,
             oldWindow := if old then y.oldWindow.take seq else y.oldWindow }
  let l2 := if old then l1 else l1.wr .RX_SEQ_HIGH (l1.sessions.get s).window.high s
  let l3 := if seq = 4294967295 then l2.seqExhausted s else l2
  Live.serveRequest st l3 (4 + s) q.1 q.2

/-- An Ethernet frame of EtherType 0x88B5 to BASE_MAC arrives at a port. -/
def Live.inbandRequest (st l : Live) (port : Nat) (frame : List Byte) : Live :=
  if ¬ (if port < 52 then l.receives port else l.mode.engineOn) then l
  else
    match inbandParse frame with
    | none => l
    | some x =>
      match l.inbandVerdict port x with
      | .ignored => l
      | .discarded s => l.count .DISCARD_COUNT 1 s
      | .failed s event => l.inbandFailed port s event x
      | .accepted s seq old => Live.inbandAccepted st l port s seq old x

def execInbandRequest (port : Fin 56) (frame : List Byte) (s : State) : Host.Outcome State Fault Refusal :=
  s.effect fun l => Live.inbandRequest s.start l port.val frame

/-! ### Tenancy commands (R179): a reset and a deletion answer the queued writes of the tenancy's masters (R90) -/

def execTnCreate (n : Fin 7) (s : State) : Host.Outcome State Fault Refusal :=
  s.effect fun l => if l.mode.engineOn then (l.tnCreate (tnOf n)).tenanciesSettle else l

def execTnReset (n : Fin 7) (s : State) : Host.Outcome State Fault Refusal :=
  s.effect fun l => if l.mode.engineOn then (l.drainAcks.tnReset (tnOf n)).deliver.tenanciesSettle else l

def execTnDelete (n : Fin 7) (s : State) : Host.Outcome State Fault Refusal :=
  s.effect fun l => if l.mode.engineOn then (l.drainAcks.tnDelete (tnOf n)).deliver.tenanciesSettle else l

end Sys2Proof.Machine
end

