-- ==== Sys2Proof/Machine/Boundary.lean ====
section
/-! DEFINITION. The beat boundary: its eight phases, in order (R42), and the boundaries at which lock is declared, a slew
ends and the origin is set. -/

namespace Sys2Proof.Machine

open Sys2Proof

/-! ### Phase 1: number -/

/-- At an origin strobe everything named by beat number keeps the beats it has left (R34). -/
def Live.renameBeats (l : Live) (o n : Nat) : Live :=
  let moved := fun (t : Nat) => ((t : Int) - o + n).toNat
  let l1 := l.setDict fun d =>
    { d with queue := d.queue.map fun w => { w with target := w.target.map moved }
             transfers := d.transfers.map fun e => (e.1, e.2.map fun x => { x with target := x.target.map moved }) }
  { l1 with events := { l1.events with armed := l1.events.armed.map moved } }

/-- The boundary at the strobe instant (R32 to R35, R323, R582). -/
def Live.numberStruck (l : Live) : Live :=
  let o := (l.now + 1) % 2 ^ 64
  let l1 := l.numberStrobe
  (((l1.renameBeats o l1.now).shiftGates o l1.now).clearAges).audioStep

/-- The boundary that ends an alignment beat: PTP time steps to 125,000 T ns (R38, R41, R458). -/
def Live.numberAligned (l : Live) (t cycles : Nat) : Live :=
  let ran := max 150000 (min 300000 cycles) * 5 / 3
  let step := ((250000 * t : Nat) - (l.beat.halfNs + ran : Nat) : Int).tdiv 2
  let l1 := (l.numberLocked t cycles).gateJump step
  if l.now + 1 < t then (l1.audioStep).slotsSkipped (l.now + 1) t else l1

/-- How a boundary numbers the beat it begins. A lock decision wins over a strobe; a boundary that ends an alignment beat and
names no PTP instant falls on that of its own successor (R38, R57).  A strobe taken at that same boundary has no effect: the
beat that ends there has the length of an ordinary one (DESIGN CHOICE, log entry 112). -/
def Live.numberPlain (drift : Nat) (l : Live) : Live :=
  if l.beat.aligning then l.numberAligned (l.now + 1) 150000
  else if l.lockDue then (l.numberNext drift).declareLock
  else if l.beat.strobeTaken then l.numberStruck
  else l.numberNext drift

/-- A boundary's work was still unfinished when the next came (R48). -/
def Live.overran (l : Live) : Live :=
  ((l.setBeat fun b => { b with overrunSeen := true }).raise 37).withdraw [1]

/-- Phase 1 (R42, R48, R36, R37, R661). -/
def Live.phaseNumber (number : Live → Live) (overrun : Bool) (l : Live) : Live :=
  let l1 := number (l.handOver.setPlane fun x => { x with sub := 0 })
  let l2 := l1.when overrun Live.overran
  (l2.when l2.lossDue Live.loseLock).dueTakeovers.gateSample

/-! ### Phase 2: sample -/

/-- Configuration space as sampled (R601, R622). -/
def Live.hostConfig (l : Live) (inp : BoundaryInputs) : Live :=
  if ¬ l.host.up then l
  else
    let n := min 7 inp.numVfs
    (l.wr .NUM_VFS n).forN 8 fun l f =>
      let was := (l.fn f).fnMask
      let l1 := l.setFn f fun x =>
        { x with master := bit inp.masters f, vfEnable := decide (0 < f ∧ f ≤ n), fnMask := bit inp.fnMasks f }
      l1.when (was && !bit inp.fnMasks f) fun l => l.unmaskVectors f

/-- The event of a table whose element holds an uncorrectable word (R306, R348). -/
def badTableEvent (key : Nat) : Option Nat :=
  match keyObject key with
  | none => none
  | some (o, _, _, _) =>
    match elemTable o with
    | some .policer => none
    | some t => if (ctNumber t).isSome then some 360 else some 397
    | none => if o.base = 0x2400 then some 397 else none

/-- A key of the gate lists: 0x3100 holds pending entries. -/
def badPending (key : Nat) : Bool :=
  match keyObject key with
  | some (o, _, _, _) => o.base == 0x3100
  | none => false

/-- Corrected errors are counted (R379, R407, R439, R465, R659). -/
def Live.correctedErrors (l : Live) (e : Nat × Nat) : Live :=
  let l1 := l.blk e.1 .ecc e.2
  if e.1 = 14 ∨ e.1 = 15 then l1.count .ECC_CORRECTED e.2
  else if e.1 = 20 then l1.count .WORKSPACE_ECC_CORRECTED e.2
  else if e.1 = 16 ∨ e.1 = 17 then l1.count .SCHED_ECC_CORRECTED e.2
  else l1

/-- What the beat that ends did, as the hardware reports it: the DRAM, corrected errors, stalls.  It is counted in that beat
(R657, R661). -/
def Live.beatReports (l : Live) (i : BoundaryInputs) : Live :=
  let l1 := (l.dramReports i.channels i.dramPorts).forL i.corrected Live.correctedErrors
  l1.forL i.stalls fun l x => l.blk x.block.val .stall x.cycles x.port x.tc x.tn

/-- An uncorrectable word of a scheduler (R439). -/
def Live.schedError (l : Live) (e : Nat × Nat × Nat) : Live :=
  let p := e.1
  let q := e.2.1
  let l1 := match e.2.2 with
    | 0 => if q = 8 then l.wr .PORT_TOKENS (l.rd .PORT_BURST p * 8) p else l.wr .TOKENS (l.rd .Q_BURST p q * 8) p q
    | 1 => l.wr .DEFICIT 0 p q
    | _ => l.setPort p fun x => { x with tags := x.tags.put q x.vtime }
  l1.raise 421

/-- An uncorrectable word of a counter of the store: it is zeroed (R675). -/
def Live.counterError (l : Live) (key : Nat) : Live :=
  match keyObject key with
  | some (o, i, k, t) =>
    if o.counts then (l.wr o 0 i k t).mark 632 (u16 (o.index i) ++ u8 (o.sub + k) ++ u8 t) else l
  | none => l

/-- An uncorrectable word of a block counter (R675). -/
def Live.blockError (l : Live) (b : Nat) : Live :=
  ({ l with events := { l.events with blocks := l.events.blocks.upd b fun x =>
    { x with accum := 0, wrapped := false, resetByError := true } } }).mark 632
    (u16 (0x1830 + b / 16) ++ u8 (1 + b % 16) ++ u8 (l.blkOwner (b / 16) (b % 16)))

/-- An uncorrectable word of event state: latch, mask and counts clear (R675). -/
def Live.sourceError (l : Live) (e : Nat × Nat) : Live :=
  (l.setEv e.1 e.2 fun x =>
    { x with latched := false, masked := false, occurrences := 0, sent := 0, folded := 0 }).mark 632 (u16 e.1)

/-- The values of a snapshot's copy that meet an uncorrectable word are recorded as 0 (R675). -/
def Live.bankErrors (l : Live) (keys : List Nat) : Live :=
  match l.events.copying with
  | none => l
  | some (b, t) =>
    let b1 : Bank := { b with cells := b.cells.filter fun e => !keys.contains e.1 }
    { l with events := { l.events with copying := some (b1, t) } }

/-- Any uncorrectable word was found (R680). -/
def foundUncorrectable (i : BoundaryInputs) : Bool :=
  !(i.badCells.isEmpty && i.badGates.isEmpty && i.badSched.isEmpty && i.badPolicers.isEmpty && i.badFrames.isEmpty
    && i.badBufs.isEmpty && i.badIsland.isEmpty && i.badHeld.isEmpty && i.badCounters.isEmpty && i.badBlocks.isEmpty
    && i.badSources.isEmpty && i.badBank.isEmpty && i.badRings.isEmpty && !i.badJournal)

/-- What the memories found (R306, R348, R379, R407, R439, R465, R595, R675, R680). -/
def Live.memoryErrors (l : Live) (i : BoundaryInputs) : Live :=
  let keys := i.badCells.filter fun k => (badTableEvent k).isSome || badPending k
  let l2 := l.setPlane fun x => { x with bad := keys.foldl (fun b k => if b.contains k then b else insertBy id k b) x.bad }
  let l3 := l2.forL i.badGates fun l p => l.setPort p fun x => { x with gateError := true }
  let l4 := l3.forL i.badSched Live.schedError
  let l5 := l4.forL i.badPolicers fun l e => (l.fillBuckets e (l.elem .POLICER_TABLE e)).raise 421
  let l6 := l5.forL i.badFrames fun l h =>
    if (l.plane.frames.get h).isSome then l.setFrame h { l.frame h with poisoned := true } else l
  let l7 := l6.forL i.badBufs fun l e =>
    if e.1 / 2 ^ 25 < 4 ∧ (l.buf e.1).inUse then
      l.setBuf e.1 fun b => { b with bad := true, poison := if b.poison.contains e.2 then b.poison else insertBy id e.2 b.poison }
    else l
  let l8 := (((l7.islandErrors i.badIsland i.badHeld).forL i.badCounters Live.counterError).forL i.badBlocks
    Live.blockError).forL i.badSources Live.sourceError
  let l9 := ((l8.bankErrors i.badBank).endpointErrors (i.badRings.map fun e => (e.1.val, e.2.val))).when i.badJournal
    Live.journalCleared
  l9.when (foundUncorrectable i) fun l => l.withdraw [9]

/-- Some channel was asked for more than 80 % of its peak over the beat: 163.84 Gb/s (R515, R682). -/
def Live.overDemand (l : Live) (chs : List ChannelReport) : Bool := chs.any fun c => 256 * l.beat.lastCycles < 15 * c.asked

/-- Module inlets above 65.0 °C, as sampled (R193). -/
def Live.inletsOver (l : Live) : List Nat := (List.range bays).filter fun b => 650 < l.rdI .INLET_TEMP b

/-- Guarantees withdrawn by what phase 2 samples; `old` is the machine before it (R682). -/
def Live.sampledCauses (l old : Live) (inp : BoundaryInputs) : Live :=
  let c7 := if l.overTemp ∧ ¬ old.overTemp then [7] else []
  let c8 := if l.inletsOver.any fun b => !old.inletsOver.contains b then [8] else []
  let c10 := if l.overDemand inp.channels then [10] else []
  let c2 := if (inp.oversubscribed ∨ old.fabricOver) ∧ ¬ (l.ev 294 0).raw then [2] else []
  l.withdraw (c2 ++ c7 ++ c8 ++ c10)

/-- The inputs as phase 2 judges them: chatter, then the debounce test, then stuck. Event 624 belongs to the beat that ends
(R650 to R652). -/
def Live.judgeInputs (l0 : Live) : Live :=
  let l := match l0.lowestInput .CHATTERING with
    | some i => l0.mark 624 (u8 i)
    | none => l0
  l.forN 16 fun l i => ((l.chatterWindowEnd i).gpioEdge i).gpioStuck i

/-- What elapsed beats bring on by themselves, as phase 2 finds it: penalties, transmitters, neighbours, silent sensors, the
LED test, line states (R191, R229, R247, R253, R710, R721). -/
def Live.agedInputs (l : Live) : Live :=
  let l1 := (l.forN 2 Live.lineRise).penaltyDecay.forN 4 Live.txRelease
  let l2 := l1.forL l1.plane.ports fun l e => l.forL e.2.neighbours fun l n => l.neighbourAged e.1 n.1
  (l2.forN 8 Live.sensorSilent).ledTestOver

/-- Phase 2: the inputs of the previous beat are latched (R42). -/
def Live.phaseSample (inp : BoundaryInputs) (l0 : Live) : Live :=
  let l := l0.judgeInputs.sampleLinks.sampleFaults.sampleReceivers.agedInputs
  let l1 := (List.range 2).foldl (fun (l : Live) c => l.canSample c (inp.cans.getD c 0)) l
  let l2 := (l1.sampleSensors (inp.sensors.map fun r => (r.1.val, r.2))).sampleDraws inp.draws
  let l3 := (l2.forL inp.modules Live.moduleReading).sampleModules
  let l4 := ((l3.hostConfig inp).romVerdict.samplePresences.judgeLinks).drainAcks
  let l5 := ((l4.fansSampled inp.tach).dramBeat inp.fill0 inp.fill4).loadBeat inp.loadData
  let l6 := (l5.memoryErrors inp).when inp.correctable fun l => l.mark 586
  let l7 := (l6.when (inp.oversubscribed || l.fabricOver) fun l => l.mark 294).setPlane fun x =>
    { x with wroteBytes := 0, wroteFrames := 0 }
  l7.sampledCauses l inp

/-! ### Phase 3: commit -/

/-- Modes in which the dictionary commits: those in which some path serves it (R24, R135). -/
def Mode.commits : Mode → Bool
  | .off | .bringup | .wipe => false
  | _ => true

/-- What falls due as phase 3 begins, before writes commit: postponed changes of the tables, resets of functions, cached
responses, transfers without a segment, the grace of an old key (R84, R104, R116, R315, R626). -/
def Live.beforeCommit (l : Live) : Live :=
  let l1 := (l.settleStep.forN 8 Live.flrCleanup).forN 8 Live.flrDone
  let l2 := l1.forL (l1.dict.cache.map (·.1)) Live.cacheExpire
  (l2.forL (l2.dict.transfers.map (·.1)) Live.segmentAbandon).forN 4 Live.epochGrace

/-- What follows phase 3 at once: LAGs, learning, damping windows, versions, drained banks, ended copies and wipes (R183, R263,
R293, R297, R304, R319, R321). -/
def Live.afterCommit (l : Live) : Live :=
  let l1 := (((l.lagSettle.dampingStep.learnStep).versionStep.drainDone 63).forN 4 Live.copyStep).forN 4 Live.shadowCopyDone
  (l1.forL [1, 2, 3, 4, 5, 6, 7] Live.segmentWipe).forL [1, 2, 3, 4, 5, 6, 7] Live.wipesOver

/-- Phase 3: queued writes commit and are answered; quotas, bindings and guarantees follow (R78, R90, R168, R172, R388). -/
def Live.phaseCommit (l0 : Live) : Live :=
  let l := l0.beforeCommit
  let l1 := (l.when l.mode.commits fun l => rules.commitPhase l).deliver
  (((l1.when l1.mode.engineOn Live.tenanciesSettle).storeSettle).afterCommit).deliver

/-! ### Phases 5 and 6: power and refill -/

/-- Timers of the PoE ports: holds, startup faults, back-off levels (R213, R217). -/
def Live.poeTimers (l : Live) : Live := l.forN 48 fun l k => ((l.holdEnds k).startupFault k).backoffReset k

/-- Phase 5 (R199, R712, R723). -/
def Live.phasePower (l : Live) : Live := (l.poeTimers.fanStartLevel.boostRequest).arbiterBeat

/-- Phase 6 (R409, R485). -/
def Live.phaseRefill (l : Live) : Live := l.refill.backfillRefill

/-! ### Phase 8: background -/

/-- MAC entries with an uncorrectable word, among the 256 locations of the sweep, are removed without version (R348). -/
def Live.sweepBad (l : Live) : Live :=
  let pos := l.rd .SWEEP_POSITION
  let bad := ((List.range 256).map (pos + ·)).filter fun loc => l.plane.bad.contains (Obj.MAC_TABLE.key (loc / 128) (loc % 128) 0)
  (l.forL bad fun l loc => (l.macErase loc).heal (Obj.MAC_TABLE.key (loc / 128) (loc % 128) 0)).when (!bad.isEmpty) Live.showMac

/-- PFC storms trip and clear (R256). -/
def Live.judgeStorms (l : Live) : Live :=
  l.forN 52 fun l p =>
    if l.rd .STORM_BEATS p = 0 ∧ l.rd .STORM_ACTIVE p = 0 then l
    else l.forN 8 fun l q => (l.stormTrip p q).stormClear p q

/-- Each engine posts the completions that may be posted (R557, R602). -/
def Live.postCompletions (l : Live) : Live :=
  l.forN 2 fun l e => l.forN (l.engine e).ended.length fun l _ => l.jobPost e

/-- Flannel in phase 8: ACKs, the probe engine, closings and index records, then the pre-roll, so that what a loss decision
retains is neither aged out nor shed (R46, R471 to R476, R486, R498). -/
def Live.backgroundFlannel (l : Live) : Live :=
  ((l.backfillAcks.probeBeat.heartbeatCheck).commitIndex.segmentsAge).prerollAge.shedPreroll

/-- The work of phase 8 before evaluation, in modes in which the engine runs (R322, R325, R368, R394, R430, R472, R474). -/
def Live.backgroundWork (l : Live) : Live :=
  if l.mode.engineOn then
    let l1 := (l.sweepBad.agingSweep).flushStep.flushStepEnd
    let l2 := (l1.redAverage.sampleQueues).backgroundFlannel.updateBackPressure
    let l3 := ((l2.stormCount.judgeStorms.scrubBeat).probeOff.exportsAsked).engineBeat
    (l3.postCompletions).showUsage
  else l

/-- Timers that phase 8 serves in every mode that has them (R142, R340, R467, R474, R476, R487, R489, R586). -/
def Live.backgroundTimers (l : Live) : Live :=
  let l1 := (l.snoopExpiry).drainLate.backfillLate
  (l1.forN 2 Live.featureFrame).challengeUpdate

/-- Carried work with which a beat begins: what the boundary before it left (R46, R47). -/
def Live.carries (l : Live) : Bool :=
  l.dict.queue.any (fun w => w.carried) || !l.flannel.commits.isEmpty || !l.events.queue.isEmpty || l.rd .SCRUB_CARRIED != 0
    || !l.flannel.probeQueue.isEmpty

/-- Level conditions that stand, of the chapters that have no list of their own: CAN ports, uplink modules, tables, next hops,
snooping, gates, the PCIe link, inputs (R108, R233, R306, R336, R339, R348, R457, R465, R627, R652). -/
def Live.otherLevels (l : Live) : List (Nat × Nat × List Byte) :=
  levelIf (l.rd .STATE_0782 0 == 1) 68 ++ levelIf (l.rd .STATE_0782 1 == 1) 69
    ++ levelIf (l.rd .STATE_0782 0 == 2) 70 ++ levelIf (l.rd .STATE_0782 1 == 2) 71
    ++ levelIf ((List.range 4).any fun u => l.rd .MODULE_STATE (48 + u) == 4) 250
    ++ levelIf (l.plane.bad.any fun k => badTableEvent k == some 360) 360
    ++ levelIf l.hopUnresolved 394
    ++ ((members 8 l.plane.fwd.exhausted).map fun n => (395, n, []))
    ++ levelIf (l.plane.bad.any fun k => badTableEvent k == some 397) 397
    ++ levelIf ((List.range 52).any fun p => l.rdB .OPEN_ALL_ACTIVE p) 437
    ++ levelIf (l.plane.ports.any fun e => e.2.gateError) 440
    ++ levelIf l.linkDegraded 591
    ++ (match l.lowestInput .STUCK with
      | some i => levelIf true 625 (u8 i)
      | none => [])

/-- Every level condition that stands at evaluation. -/
def Live.standing (l : Live) : List (Nat × Nat × List Byte) :=
  l.tenancyLevels ++ l.powerLevels ++ l.unitLevels ++ l.fabricLevels ++ l.bpmLevels ++ l.dramLevels ++ l.flannelLevels
    ++ l.audioLevels ++ l.otherLevels

/-- Evaluation, notifications and relays, and what firmware does in every beat (R637, R647, R654, R714). -/
def Live.phaseEvents (b : Nat) (ended : List (Nat × Nat × List Byte)) (l : Live) : Live :=
  let l1 := (((l.audioBeat.forN 16 Live.rampIn).refreshStreams).showFault).showLink.journalRecoveries
  let l2 := ((l1.evaluate b ended l1.standing).sendNotes).setRelays
  (l2.when l2.thermalFreeze fun l =>
    l.enqueueWrite { rank := 15, op := 3, reqId := 0, index := 0x0110, sub := 0x01, fields := [(1, 10)], arrival := 0, order := 0 })

/-! ### The boundary -/

/-- Level conditions seen from here on belong to the beat that begins. -/
def Live.beginSeen (l : Live) : Live := { l with events := { l.events with seen := [] } }

/-- A boundary: `st` is the machine as the beat that ends began. -/
def Live.boundary (st : Live) (number : Live → Live) (inp : BoundaryInputs) (l : Live) : Live :=
  let b := l.now
  let l0 := l.beatReports inp
  let l1 := (l0.phaseNumber number inp.overrun).phaseSample inp
  let l2 := (l1.beginSeen.setFlannel fun x => { x with committed := 0 }).phaseCommit.modeEval
  let l3 := ((l2.phasePower.phaseRefill.snapshotShow).gather b l0.imageCells).snapshotCapture
  let l4 := (l3.backgroundWork.backgroundTimers.phaseEvents b l1.events.seen).kickAll.deliver
  l4.when st.carries fun l => l.mark 38

/-- A boundary as a command: it happens in every mode but OFF (R27), and starts a new snapshot for reads (R65). -/
def State.atBoundary (s : State) (number : Live → Live) (inp : BoundaryInputs) : Host.Outcome State Fault Refusal :=
  if s.live.mode = .off then .next s else s.boundaryEffect fun l => Live.boundary s.start number inp l

def execBeatBoundary (inp : BoundaryInputs) (s : State) : Host.Outcome State Fault Refusal :=
  s.atBoundary (Live.numberPlain inp.drift.val) inp

/-- The boundary that ends the alignment beat of a lock decision (R38). -/
def execBeatPtpLocked (t cycles : Nat) (inp : BoundaryInputs) (s : State) : Host.Outcome State Fault Refusal :=
  if s.live.beat.aligning then s.atBoundary (fun l => l.numberAligned (t % 2 ^ 64) cycles) inp else .next s

/-- The boundary at which the gap of a slew closes (R39). -/
def execBeatSlewDone (inp : BoundaryInputs) (s : State) : Host.Outcome State Fault Refusal :=
  if s.live.beat.slewing ∧ s.live.beat.slewUnits ≤ 1 ∧ ¬ s.live.beat.strobeTaken ∧ ¬ s.live.beat.aligning then
    s.atBoundary (Live.numberPlain inp.drift.val) inp
  else .next s

/-- The boundary at the strobe instant (R32). -/
def execBeatOriginSet (inp : BoundaryInputs) (s : State) : Host.Outcome State Fault Refusal :=
  if s.live.beat.strobeTaken then s.atBoundary (Live.numberPlain inp.drift.val) inp else .next s

end Sys2Proof.Machine
end

