-- ==== Sys2Proof/Machine/Dispatch.lean ====
section
/-! DEFINITION. One arm per command: what it does to everything but the queue. -/

namespace Sys2Proof.Machine

open Sys2Proof

def exec (i : Instr) (s : State) : Host.Outcome State Fault Refusal :=
  match i with
  | .beatBoundary inp => Sys2Proof.Machine.execBeatBoundary inp s
  | .ageOut loc => Sys2Proof.Machine.execAgeOut loc s
  | .ptpSyncReceived port domain transport offset => Sys2Proof.Machine.execPtpSyncReceived port domain transport offset s
  | .ptpAnnounceReceived uplink msg => Sys2Proof.Machine.execPtpAnnounceReceived uplink msg s
  | .ptpAnnounceTimeout uplink => Sys2Proof.Machine.execPtpAnnounceTimeout uplink s
  | .beatPtpLocked t cycles inp => Sys2Proof.Machine.execBeatPtpLocked t cycles inp s
  | .beatPtpUnlocked => Sys2Proof.Machine.execBeatPtpUnlocked s
  | .beatSlewDone inp => Sys2Proof.Machine.execBeatSlewDone inp s
  | .armOrigin => Sys2Proof.Machine.execArmOrigin s
  | .beatOriginSet inp => Sys2Proof.Machine.execBeatOriginSet inp s
  | .read m r => Sys2Proof.Machine.execRead m r s
  | .write m r => Sys2Proof.Machine.execWrite m r s
  | .writeAtBeat m r => Sys2Proof.Machine.execWriteAtBeat m r s
  | .command m r => Sys2Proof.Machine.execCommand m r s
  | .requestCacheExpiry m => Sys2Proof.Machine.execRequestCacheExpiry m s
  | .myCacheFlush m => Sys2Proof.Machine.execMyCacheFlush m s
  | .clampClear => Sys2Proof.Machine.execClampClear s
  | .segmentInit m r => Sys2Proof.Machine.execSegmentInit m r s
  | .segment m r => Sys2Proof.Machine.execSegment m r s
  | .segmentAbandoned m => Sys2Proof.Machine.execSegmentAbandoned m s
  | .canFrameIgnored c f => Sys2Proof.Machine.execCanFrameIgnored c f s
  | .canTxComplete c won => Sys2Proof.Machine.execCanTxComplete c won s
  | .canErrorStateChange c tec rec => Sys2Proof.Machine.execCanErrorStateChange c tec rec s
  | .canBusOffRecovery c => Sys2Proof.Machine.execCanBusOffRecovery c s
  | .rollcall c => Sys2Proof.Machine.execRollcall c s
  | .rollcallAnswer c node data => Sys2Proof.Machine.execRollcallAnswer c node data s
  | .inbandRequest port frame => Sys2Proof.Machine.execInbandRequest port frame s
  | .keyEpochGraceEnd q => Sys2Proof.Machine.execKeyEpochGraceEnd q s
  | .mbxDoorbell f => Sys2Proof.Machine.execMbxDoorbell f s
  | .mbxRequestTake f => Sys2Proof.Machine.execMbxRequestTake f s
  | .mbxRspRelease f => Sys2Proof.Machine.execMbxRspRelease f s
  | .modeRequestConfigure => Sys2Proof.Machine.execModeRequestConfigure s
  | .modeRequestService => Sys2Proof.Machine.execModeRequestService s
  | .modeRequestListen => Sys2Proof.Machine.execModeRequestListen s
  | .modeRequestDormant => Sys2Proof.Machine.execModeRequestDormant s
  | .modeRequestFreeze => Sys2Proof.Machine.execModeRequestFreeze s
  | .dormantEntry => Sys2Proof.Machine.execDormantEntry s
  | .wake source line => Sys2Proof.Machine.execWake source line s
  | .powerOnReset => Sys2Proof.Machine.execPowerOnReset s
  | .dramTrainingDone ok => Sys2Proof.Machine.execDramTrainingDone ok s
  | .imageAccepted => Sys2Proof.Machine.execImageAccepted s
  | .storedSetLoad => Sys2Proof.Machine.execStoredSetLoad s
  | .zeroFillComplete => Sys2Proof.Machine.execZeroFillComplete s
  | .configureEntry => Sys2Proof.Machine.execConfigureEntry s
  | .warmRestart => Sys2Proof.Machine.execWarmRestart s
  | .watchdogRestart => Sys2Proof.Machine.execWatchdogRestart s
  | .trialRevert => Sys2Proof.Machine.execTrialRevert s
  | .lcCommission confirm => Sys2Proof.Machine.execLcCommission confirm s
  | .lcDecommission confirm => Sys2Proof.Machine.execLcDecommission confirm s
  | .lcVendorReset confirm auth => Sys2Proof.Machine.execLcVendorReset confirm auth s
  | .lcChallengeUpdate => Sys2Proof.Machine.execLcChallengeUpdate s
  | .wipeDone => Sys2Proof.Machine.execWipeDone s
  | .wipeVerifyFail => Sys2Proof.Machine.execWipeVerifyFail s
  | .imageActivateVerify => Sys2Proof.Machine.execImageActivateVerify s
  | .imageActivateTrial => Sys2Proof.Machine.execImageActivateTrial s
  | .imageConfirm => Sys2Proof.Machine.execImageConfirm s
  | .store => Sys2Proof.Machine.execStore s
  | .storeDone ok => Sys2Proof.Machine.execStoreDone ok s
  | .powerFailWarning => Sys2Proof.Machine.execPowerFailWarning s
  | .mainsCollapse => Sys2Proof.Machine.execMainsCollapse s
  | .tnCreate n => Sys2Proof.Machine.execTnCreate n s
  | .tnReset n => Sys2Proof.Machine.execTnReset n s
  | .tnDelete n => Sys2Proof.Machine.execTnDelete n s
  | .tenancyWipeEnd n => Sys2Proof.Machine.execTenancyWipeEnd n s
  | .psuInserted bay dc volts hz inlet serial => Sys2Proof.Machine.execPsuInserted bay dc volts hz inlet serial s
  | .psuRemoved bay => Sys2Proof.Machine.execPsuRemoved bay s
  | .moduleLineFall bay volts => Sys2Proof.Machine.execModuleLineFall bay volts s
  | .moduleLineRise bay => Sys2Proof.Machine.execModuleLineRise bay s
  | .pdClassified k cls second type => Sys2Proof.Machine.execPdClassified k cls second type s
  | .faultStartup k => Sys2Proof.Machine.execFaultStartup k s
  | .pdRemoved k => Sys2Proof.Machine.execPdRemoved k s
  | .pdFault k short => Sys2Proof.Machine.execPdFault k short s
  | .holdEnd k => Sys2Proof.Machine.execHoldEnd k s
  | .backoffLevelReset k => Sys2Proof.Machine.execBackoffLevelReset k s
  | .siliconRequest r => Sys2Proof.Machine.execSiliconRequest r s
  | .siliconRelease r => Sys2Proof.Machine.execSiliconRelease r s
  | .lldpPowerRequest k watts => Sys2Proof.Machine.execLldpPowerRequest k watts s
  | .pseControllerFault ports => Sys2Proof.Machine.execPseControllerFault ports s
  | .linkUp p partner fec => Sys2Proof.Machine.execLinkUp p partner fec s
  | .linkDown p => Sys2Proof.Machine.execLinkDown p s
  | .penaltyDecay => Sys2Proof.Machine.execPenaltyDecay s
  | .sfpInserted u => Sys2Proof.Machine.execSfpInserted u s
  | .moduleIdentify u ok id => Sys2Proof.Machine.execModuleIdentify u ok id s
  | .sfpRemoved u => Sys2Proof.Machine.execSfpRemoved u s
  | .txFault u => Sys2Proof.Machine.execTxFault u s
  | .txDisableRelease u => Sys2Proof.Machine.execTxDisableRelease u s
  | .moduleDdmRead u ddm alarms => Sys2Proof.Machine.execModuleDdmRead u ddm alarms s
  | .phyMgmtTimeout p => Sys2Proof.Machine.execPhyMgmtTimeout p s
  | .frameReceived p bytes phyError noRoom age at_ ts => Sys2Proof.Machine.execFrameReceived p bytes phyError noRoom age at_ ts s
  | .pfcFrameReceived p vector times => Sys2Proof.Machine.execPfcFrameReceived p vector times s
  | .pauseTimerExpiry p q => Sys2Proof.Machine.execPauseTimerExpiry p q s
  | .pfcRefresh p q => Sys2Proof.Machine.execPfcRefresh p q s
  | .pfcStormTrip p q => Sys2Proof.Machine.execPfcStormTrip p q s
  | .pfcStormClear p q => Sys2Proof.Machine.execPfcStormClear p q s
  | .lldpduReceived p mac pdu => Sys2Proof.Machine.execLldpduReceived p mac pdu s
  | .lldpNeighbourLost p slot => Sys2Proof.Machine.execLldpNeighbourLost p slot s
  | .lldpTransmit p => Sys2Proof.Machine.execLldpTransmit p s
  | .frameTxDone p at_ linkError => Sys2Proof.Machine.execFrameTxDone p at_ linkError s
  | .reclaimPassDone => Sys2Proof.Machine.execReclaimPassDone s
  | .versionRetire => Sys2Proof.Machine.execVersionRetire s
  | .twillSwap mask => Sys2Proof.Machine.execTwillSwap mask s
  | .twillDrainDone => Sys2Proof.Machine.execTwillDrainDone s
  | .shadowCopy t => Sys2Proof.Machine.execShadowCopy t s
  | .shadowCopyDone t => Sys2Proof.Machine.execShadowCopyDone t s
  | .learnApply => Sys2Proof.Machine.execLearnApply s
  | .settle => Sys2Proof.Machine.execSettle s
  | .dampingWindowEnd => Sys2Proof.Machine.execDampingWindowEnd s
  | .addStatic m => Sys2Proof.Machine.execAddStatic m s
  | .delete m => Sys2Proof.Machine.execDelete m s
  | .find m => Sys2Proof.Machine.execFind m s
  | .flushPort m => Sys2Proof.Machine.execFlushPort m s
  | .flushFid m => Sys2Proof.Machine.execFlushFid m s
  | .flushTenancy m => Sys2Proof.Machine.execFlushTenancy m s
  | .macFlushDone => Sys2Proof.Machine.execMacFlushDone s
  | .arpNdReceived p vlan m => Sys2Proof.Machine.execArpNdReceived p vlan m s
  | .nhRefresh n => Sys2Proof.Machine.execNhRefresh n s
  | .nhUnresolved n => Sys2Proof.Machine.execNhUnresolved n s
  | .snoopReport p vlan ip6 groups frame => Sys2Proof.Machine.execSnoopReport p vlan ip6 groups frame s
  | .snoopLeave p vlan ip6 group => Sys2Proof.Machine.execSnoopLeave p vlan ip6 group s
  | .snoopQuery p vlan frame => Sys2Proof.Machine.execSnoopQuery p vlan frame s
  | .snoopMemberExpiry => Sys2Proof.Machine.execSnoopMemberExpiry s
  | .alloc r size tn => Sys2Proof.Machine.execAlloc r size tn s
  | .share r h new final => Sys2Proof.Machine.execShare r h new final s
  | .release r h => Sys2Proof.Machine.execRelease r h s
  | .free r h => Sys2Proof.Machine.execFree r h s
  | .zeroFillDone pool index => Sys2Proof.Machine.execZeroFillDone pool index s
  | .apertureRead f offset len => Sys2Proof.Machine.execApertureRead f offset len s
  | .apertureWrite f offset data poison => Sys2Proof.Machine.execApertureWrite f offset data poison s
  | .flush p mask => Sys2Proof.Machine.execFlush p mask s
  | .histClear p mask => Sys2Proof.Machine.execHistClear p mask s
  | .changeTime p t => Sys2Proof.Machine.execChangeTime p t s
  | .cancel p => Sys2Proof.Machine.execCancel p s
  | .gateTakeover p => Sys2Proof.Machine.execGateTakeover p s
  | .gateEntryStart p at_ => Sys2Proof.Machine.execGateEntryStart p at_ s
  | .keepCopy at_ linkError => Sys2Proof.Machine.execKeepCopy at_ linkError s
  | .segmentAgeClose => Sys2Proof.Machine.execSegmentAgeClose s
  | .prerollFree => Sys2Proof.Machine.execPrerollFree s
  | .heartbeatCheck => Sys2Proof.Machine.execHeartbeatCheck s
  | .heartbeatSend at_ => Sys2Proof.Machine.execHeartbeatSend at_ s
  | .probeReply port src payload => Sys2Proof.Machine.execProbeReply port src payload s
  | .drainOffer f => Sys2Proof.Machine.execDrainOffer f s
  | .drainAck f => Sys2Proof.Machine.execDrainAck f s
  | .flnDrainTimeout => Sys2Proof.Machine.execFlnDrainTimeout s
  | .backfillSend at_ => Sys2Proof.Machine.execBackfillSend at_ s
  | .backfillAck n payload => Sys2Proof.Machine.execBackfillAck n payload s
  | .flnBackfillTimeout => Sys2Proof.Machine.execFlnBackfillTimeout s
  | .indexExport n => Sys2Proof.Machine.execIndexExport n s
  | .purge q => Sys2Proof.Machine.execPurge q s
  | .dramAlert c crc time slots place => Sys2Proof.Machine.execDramAlert c crc time slots place s
  | .dramReplayDone c => Sys2Proof.Machine.execDramReplayDone c s
  | .dramUe place => Sys2Proof.Machine.execDramUe place s
  | .refreshDue c rank fill0 fill4 => Sys2Proof.Machine.execRefreshDue c rank fill0 fill4 s
  | .idleSelfRefresh c => Sys2Proof.Machine.execIdleSelfRefresh c s
  | .selfRefreshExit c early => Sys2Proof.Machine.execSelfRefreshExit c early s
  | .dramScrubPassDone => Sys2Proof.Machine.execDramScrubPassDone s
  | .diagRead => Sys2Proof.Machine.execDiagRead s
  | .logClear => Sys2Proof.Machine.execLogClear s
  | .jobAdmit e source desc => Sys2Proof.Machine.execJobAdmit e source desc s
  | .compress => Sys2Proof.Machine.execCompress s
  | .decompress => Sys2Proof.Machine.execDecompress s
  | .copy1d => Sys2Proof.Machine.execCopy1d s
  | .copy2d => Sys2Proof.Machine.execCopy2d s
  | .jobEnd e bad => Sys2Proof.Machine.execJobEnd e bad s
  | .jobCompletionPost e => Sys2Proof.Machine.execJobCompletionPost e s
  | .aesRxLocked r rate hz => Sys2Proof.Machine.execAesRxLocked r rate hz s
  | .aesRxLost r => Sys2Proof.Machine.execAesRxLost r s
  | .aesCsChange r b cs user => Sys2Proof.Machine.execAesCsChange r b cs user s
  | .asrcSlip tx j high => Sys2Proof.Machine.execAsrcSlip tx j high s
  | .audioRampIn source => Sys2Proof.Machine.execAudioRampIn source s
  | .packetOut stream at_ => Sys2Proof.Machine.execPacketOut stream at_ s
  | .packetIn at_ linkError => Sys2Proof.Machine.execPacketIn at_ linkError s
  | .featureFrame j => Sys2Proof.Machine.execFeatureFrame j s
  | .clipRelease j => Sys2Proof.Machine.execClipRelease j s
  | .pcieLinkUp gen width => Sys2Proof.Machine.execPcieLinkUp gen width s
  | .pcieLinkDown => Sys2Proof.Machine.execPcieLinkDown s
  | .hostWatchdogExpiry f => Sys2Proof.Machine.execHostWatchdogExpiry f s
  | .hostAlive f => Sys2Proof.Machine.execHostAlive f s
  | .flrStart f => Sys2Proof.Machine.execFlrStart f s
  | .flrCleanup f => Sys2Proof.Machine.execFlrCleanup f s
  | .flrDone f => Sys2Proof.Machine.execFlrDone f s
  | .ringEnable f k control => Sys2Proof.Machine.execRingEnable f k control s
  | .ringDisable f k control => Sys2Proof.Machine.execRingDisable f k control s
  | .ringQuiesced f k => Sys2Proof.Machine.execRingQuiesced f k s
  | .sqTailWrite f k v => Sys2Proof.Machine.execSqTailWrite f k v s
  | .cqHeadWrite f k v => Sys2Proof.Machine.execCqHeadWrite f k v s
  | .sqEntryTake f k entry => Sys2Proof.Machine.execSqEntryTake f k entry s
  | .rxFrameHandover entry at_ => Sys2Proof.Machine.execRxFrameHandover entry at_ s
  | .txFrame f k data poison at_ => Sys2Proof.Machine.execTxFrame f k data poison at_ s
  | .drainBufferPost f => Sys2Proof.Machine.execDrainBufferPost f s
  | .tableLoad f entry => Sys2Proof.Machine.execTableLoad f entry s
  | .tableLoadDone => Sys2Proof.Machine.execTableLoadDone s
  | .cqCoalesceTimeout f k => Sys2Proof.Machine.execCqCoalesceTimeout f k s
  | .dmaReadFailed f k data poisoned timeout => Sys2Proof.Machine.execDmaReadFailed f k data poisoned timeout s
  | .registerWrite f offset data poison => Sys2Proof.Machine.execRegisterWrite f offset data poison s
  | .recoveryCommit length => Sys2Proof.Machine.execRecoveryCommit length s
  | .recoveryUsed => Sys2Proof.Machine.execRecoveryUsed s
  | .clear g tn mask => Sys2Proof.Machine.execClear g tn mask s
  | .unmask g tn mask => Sys2Proof.Machine.execUnmask g tn mask s
  | .spacingExpiry src tn => Sys2Proof.Machine.execSpacingExpiry src tn s
  | .gpioLevelChange j => Sys2Proof.Machine.execGpioLevelChange j s
  | .chatterWindowEnd j => Sys2Proof.Machine.execChatterWindowEnd j s
  | .gpioStuck j => Sys2Proof.Machine.execGpioStuck j s
  | .snapshotCapture => Sys2Proof.Machine.execSnapshotCapture s
  | .snapshotDone => Sys2Proof.Machine.execSnapshotDone s
  | .withdrawnClear => Sys2Proof.Machine.execWithdrawnClear s
  | .fanEvaluation tach => Sys2Proof.Machine.execFanEvaluation tach s
  | .trayPresenceChange present => Sys2Proof.Machine.execTrayPresenceChange present s
  | .sensorFault sensor => Sys2Proof.Machine.execSensorFault sensor s
  | .thermalTrip => Sys2Proof.Machine.execThermalTrip s
  | .thermalTripRestore => Sys2Proof.Machine.execThermalTripRestore s
  | .ledTest => Sys2Proof.Machine.execLedTest s
  | .ledTestEnd => Sys2Proof.Machine.execLedTestEnd s
  | .psuPowerFailWarning bay => Sys2Proof.Machine.execPsuPowerFailWarning bay s
  | .psuFailed bay => Sys2Proof.Machine.execPsuFailed bay s
  | .psuInputOutOfRange bay volts hz => Sys2Proof.Machine.execPsuInputOutOfRange bay volts hz s
  | .mainsRestored bay dc volts hz => Sys2Proof.Machine.execMainsRestored bay dc volts hz s
  | .pseControllerFaultClear ports => Sys2Proof.Machine.execPseControllerFaultClear ports s
  | .sensorReportRestored sensor => Sys2Proof.Machine.execSensorReportRestored sensor s
  | .phyRetry p answers => Sys2Proof.Machine.execPhyRetry p answers s
  | .ptpSyncTransmit announce => Sys2Proof.Machine.execPtpSyncTransmit announce s
  | .ptpDelayMessage port delay => Sys2Proof.Machine.execPtpDelayMessage port delay s
  | .notifyRequest m r => Sys2Proof.Machine.execNotifyRequest m r s
  | .malformedTlp ecrc => Sys2Proof.Machine.execMalformedTlp ecrc s
  | .gpioSample raw => Sys2Proof.Machine.execGpioSample raw s
  | .aesRxLocking r => Sys2Proof.Machine.execAesRxLocking r s
  | .aes3SubframeReceived r b raw validity parity biphase => Sys2Proof.Machine.execAes3SubframeReceived r b raw validity parity biphase s
  | .aes3FrameTransmit t take => Sys2Proof.Machine.execAes3FrameTransmit t take s
  | .sampleSlot takes misses => Sys2Proof.Machine.execSampleSlot takes misses s

end Sys2Proof.Machine
end

