-- ==== Sys2Proof/Safety.lean ====
section
/-! DEFINITION. What a safe run keeps, in the terms that statements use: the parts of the machine, agreement of two machines
on a part, and the canonical form of the dictionary's cells. -/

namespace Sys2Proof.Machine

open Sys2Proof

/-- The parts of the machine.  `clock` is the beat number and the counts of beats, and lies within `beat`; `mode` is the unit
mode, and lies within `modes`. -/
inductive Part where
  | store | clock | beat | dict | can | sessions | mailboxes | mode | modes | tenancies | power | plane | bpm | flannel | dram
  | comp | mover | audio | host | events | recoveries | enclosure | free
deriving DecidableEq, Repr

/-- Two machines agree on a part. -/
def Live.agree (a b : Live) : Part → Prop
  | .store => a.store = b.store
  | .clock => a.beat.number = b.beat.number ∧ a.beat.ticks = b.beat.ticks ∧ a.beat.elapsed = b.beat.elapsed
  | .beat => a.beat = b.beat
  | .dict => a.dict = b.dict
  | .can => a.can = b.can
  | .sessions => a.sessions = b.sessions
  | .mailboxes => a.mailboxes = b.mailboxes
  | .mode => a.modes.mode = b.modes.mode
  | .modes => a.modes = b.modes
  | .tenancies => a.tenancies = b.tenancies
  | .power => a.power = b.power
  | .plane => a.plane = b.plane
  | .bpm => a.bpm = b.bpm
  | .flannel => a.flannel = b.flannel
  | .dram => a.dram = b.dram
  | .comp => a.comp = b.comp
  | .mover => a.mover = b.mover
  | .audio => a.audio = b.audio
  | .host => a.host = b.host
  | .events => a.events = b.events
  | .recoveries => a.recoveries = b.recoveries
  | .enclosure => a.enclosure = b.enclosure
  | .free => a.free = b.free

/-- Every part but the ones named is as before. -/
def Live.sameBut (m : List Part) (a b : Live) : Prop := ∀ p, p ∉ m → a.agree b p

/-- The dictionary's cells are in order, each listed once. -/
def Live.tidy (l : Live) : Prop := l.store.sorted = true

/-! ### What statements say of one command -/

/-- From `s` to `t` only the parts named change: the snapshot at the start of the beat and the queue are as before, and every
other part of the machine agrees. -/
def State.only (m : List Part) (s t : State) : Prop :=
  t.start = s.start ∧ t.pending = s.pending ∧ s.live.sameBut m t.live

/-- Every dictionary value but those under the keys named reads as before. -/
structure Live.cellsBut (ks : List Nat) (a b : Live) : Prop where
  same : ∀ (o : Obj) (i k t : Nat), o.key i k t ∉ ks → b.rd o i k t = a.rd o i k t

/-- An occurrence of a source that arises now (R637). -/
def Live.occ (l : Live) (src : Nat) (data : List Byte := []) (tn : Nat := 0) : Occ :=
  { src := src, tn := instanceOf src tn, stamp := l.now, data := data }

/-- Of the events, just these occurrences have arisen. -/
def Live.arose (a b : Live) (os : List Occ) : Prop := b.events = { a.events with arisen := a.events.arisen ++ os }

/-- The cells of a PoE port's state (R203, R217). -/
def poeCells (k : Nat) : List Nat :=
  [Obj.key .STATE_0340 k 0 0, Obj.key .REASON k 0 0, Obj.key .GRANT k 0 0, Obj.key .AGREED k 0 0, Obj.key .MEASURED k 0 0,
   Obj.key .CLAIM k 0 0, Obj.key .CLASS k 0 0, Obj.key .PD_TYPE k 0 0, Obj.key .HOLD_REMAINING k 0 0,
   Obj.key .FAULTS_IN_WINDOW k 0 0, Obj.key .BACKOFF_LEVEL k 0 0]

/-- No other command of this boundary, no restart and no trial stand in the way of a mode request (R131, R133). -/
structure Live.quiet (l : Live) : Prop where
  acted : l.modes.acted = false
  restart : l.modes.restart = none
  goTo : l.modes.goTo = none
  trial : l.rdB .TRIAL = false

/-- A master's request reaches the dictionary: its path is open, the mode serves it, and a CAN port has room for its answer
(R75, R109). -/
structure Live.heard (l : Live) (rank : Nat) : Prop where
  path : l.pathOpen rank = true
  mode : l.mode.serves rank = true
  room : ¬(masterClass rank = .can ∧ 320 ≤ l.canOwed (rank - 2))

/-- The commands that can lead to another unit mode (R128, R131): a boundary, a mode request, the start-up chain, a restart,
a life-cycle act, and the loss or return of power. -/
def Instr.movesMode : Instr → Bool
  | .beatBoundary _ | .beatPtpLocked _ _ _ | .beatSlewDone _ | .beatOriginSet _ | .modeRequestConfigure | .modeRequestService
  | .modeRequestListen | .modeRequestDormant | .modeRequestFreeze | .dormantEntry | .powerOnReset | .configureEntry
  | .warmRestart | .trialRevert | .lcCommission _ | .lcDecommission _ | .lcVendorReset _ _ | .wipeDone | .imageActivateTrial
  | .mainsCollapse | .recoveryUsed | .thermalTrip | .thermalTripRestore => true
  | _ => false

/-- The commands that can renumber the beat (R26, R29, R31): a boundary, and what starts a new count of beats. -/
def Instr.renumbers : Instr → Bool
  | .beatBoundary _ | .beatPtpLocked _ _ _ | .beatSlewDone _ | .beatOriginSet _ | .powerOnReset | .wipeDone
  | .thermalTripRestore => true
  | _ => false

/-- The parts of the machine that a command may change; a boundary may change every part. -/
def touches : Instr → List Part
  | .beatBoundary _ => [.store, .clock, .beat, .dict, .can, .sessions, .mailboxes, .mode, .modes, .tenancies, .power, .plane, .bpm, .flannel, .dram, .comp, .mover, .audio, .host, .events, .recoveries, .enclosure, .free]
  | .ageOut _ => [.store, .plane]
  | .ptpSyncReceived _ _ _ _ => [.store, .beat]
  | .ptpAnnounceReceived _ _ => [.store, .beat, .events]
  | .ptpAnnounceTimeout _ => [.store, .beat, .events]
  | .beatPtpLocked _ _ _ => [.store, .clock, .beat, .dict, .can, .sessions, .mailboxes, .mode, .modes, .tenancies, .power, .plane, .bpm, .flannel, .dram, .comp, .mover, .audio, .host, .events, .recoveries, .enclosure, .free]
  | .beatPtpUnlocked => [.store, .beat, .events]
  | .beatSlewDone _ => [.store, .clock, .beat, .dict, .can, .sessions, .mailboxes, .mode, .modes, .tenancies, .power, .plane, .bpm, .flannel, .dram, .comp, .mover, .audio, .host, .events, .recoveries, .enclosure, .free]
  | .armOrigin => [.beat]
  | .beatOriginSet _ => [.store, .clock, .beat, .dict, .can, .sessions, .mailboxes, .mode, .modes, .tenancies, .power, .plane, .bpm, .flannel, .dram, .comp, .mover, .audio, .host, .events, .recoveries, .enclosure, .free]
  | .read _ _ => [.store, .dict, .can, .sessions, .mailboxes, .plane, .host, .events]
  | .write _ _ => [.store, .dict, .can, .sessions, .mailboxes, .plane, .host, .events]
  | .writeAtBeat _ _ => [.store, .dict, .can, .sessions, .mailboxes, .plane, .host, .events]
  | .command _ _ => [.store, .dict, .can, .sessions, .mailboxes, .plane, .host, .events]
  | .requestCacheExpiry _ => [.dict]
  | .myCacheFlush _ => [.dict]
  | .clampClear => [.dict]
  | .segmentInit _ _ => [.store, .dict, .can, .sessions, .mailboxes, .plane, .host, .events]
  | .segment _ _ => [.store, .dict, .can, .sessions, .mailboxes, .plane, .host, .events]
  | .segmentAbandoned _ => [.store, .dict, .events]
  | .canFrameIgnored _ _ => [.store, .events]
  | .canTxComplete _ _ => [.store, .can, .events]
  | .canErrorStateChange _ _ _ => [.store]
  | .canBusOffRecovery _ => [.store]
  | .rollcall _ => [.store, .can, .events]
  | .rollcallAnswer _ _ _ => [.store, .can, .events]
  | .inbandRequest _ _ => [.store, .dict, .can, .sessions, .mailboxes, .plane, .host, .events]
  | .keyEpochGraceEnd _ => [.sessions]
  | .mbxDoorbell _ => [.store, .mailboxes, .host, .events]
  | .mbxRequestTake _ => [.store, .dict, .can, .sessions, .mailboxes, .plane, .host, .events]
  | .mbxRspRelease _ => [.mailboxes, .host]
  | .modeRequestConfigure => [.store, .beat, .dict, .can, .sessions, .mailboxes, .mode, .modes, .tenancies, .power, .plane, .bpm, .flannel, .dram, .comp, .mover, .audio, .host, .events, .recoveries, .enclosure]
  | .modeRequestService => [.store, .beat, .dict, .can, .sessions, .mailboxes, .mode, .modes, .tenancies, .power, .plane, .bpm, .flannel, .dram, .comp, .mover, .audio, .host, .events, .recoveries, .enclosure]
  | .modeRequestListen => [.store, .beat, .dict, .can, .sessions, .mailboxes, .mode, .modes, .tenancies, .power, .plane, .bpm, .flannel, .dram, .comp, .mover, .audio, .host, .events, .recoveries, .enclosure]
  | .modeRequestDormant => [.store, .beat, .dict, .can, .sessions, .mailboxes, .mode, .modes, .tenancies, .power, .plane, .bpm, .flannel, .dram, .comp, .mover, .audio, .host, .events, .recoveries, .enclosure]
  | .modeRequestFreeze => [.store, .beat, .dict, .can, .sessions, .mailboxes, .mode, .modes, .tenancies, .power, .plane, .bpm, .flannel, .dram, .comp, .mover, .audio, .host, .events, .recoveries, .enclosure]
  | .dormantEntry => [.store, .beat, .dict, .can, .mode, .modes, .power, .plane, .bpm, .flannel, .dram, .audio, .host, .events, .recoveries]
  | .wake _ _ => [.modes]
  | .powerOnReset => [.store, .clock, .beat, .dict, .can, .sessions, .mailboxes, .mode, .modes, .tenancies, .power, .plane, .bpm, .flannel, .dram, .comp, .mover, .audio, .host, .events, .recoveries, .enclosure]
  | .dramTrainingDone _ => [.store, .modes, .dram, .events]
  | .imageAccepted => [.store, .modes, .events]
  | .storedSetLoad => [.store, .modes, .power, .plane, .events]
  | .zeroFillComplete => [.modes]
  | .configureEntry => [.store, .beat, .dict, .can, .sessions, .mode, .modes, .tenancies, .power, .plane, .bpm, .flannel, .dram, .comp, .mover, .audio, .host, .events, .recoveries, .enclosure]
  | .warmRestart => [.store, .beat, .dict, .can, .sessions, .mailboxes, .mode, .modes, .tenancies, .power, .plane, .bpm, .flannel, .dram, .comp, .mover, .audio, .host, .events, .recoveries, .enclosure]
  | .watchdogRestart => [.modes]
  | .trialRevert => [.store, .beat, .dict, .can, .sessions, .mailboxes, .mode, .modes, .tenancies, .power, .plane, .bpm, .flannel, .dram, .comp, .mover, .audio, .host, .events, .recoveries, .enclosure]
  | .lcCommission _ => [.store, .beat, .dict, .can, .sessions, .mailboxes, .mode, .modes, .tenancies, .power, .plane, .bpm, .flannel, .dram, .comp, .mover, .audio, .host, .events, .recoveries, .enclosure]
  | .lcDecommission _ => [.store, .beat, .dict, .can, .sessions, .mailboxes, .mode, .modes, .tenancies, .power, .plane, .bpm, .flannel, .dram, .comp, .mover, .audio, .host, .events, .recoveries, .enclosure]
  | .lcVendorReset _ _ => [.store, .beat, .dict, .can, .sessions, .mailboxes, .mode, .modes, .tenancies, .power, .plane, .bpm, .flannel, .dram, .comp, .mover, .audio, .host, .events, .recoveries, .enclosure]
  | .lcChallengeUpdate => [.store, .modes]
  | .wipeDone => [.store, .clock, .beat, .dict, .can, .sessions, .mailboxes, .mode, .modes, .tenancies, .power, .plane, .bpm, .flannel, .dram, .comp, .mover, .audio, .host, .events, .recoveries, .enclosure]
  | .wipeVerifyFail => [.store, .modes, .events]
  | .imageActivateVerify => [.store, .modes, .events]
  | .imageActivateTrial => [.store, .beat, .dict, .can, .sessions, .mailboxes, .mode, .modes, .tenancies, .power, .plane, .bpm, .flannel, .dram, .comp, .mover, .audio, .host, .events, .recoveries, .enclosure]
  | .imageConfirm => [.store, .modes, .events]
  | .store => [.store, .modes]
  | .storeDone _ => [.store, .modes, .events]
  | .powerFailWarning => [.store, .modes, .power, .events]
  | .mainsCollapse => [.store, .dict, .can, .sessions, .mailboxes, .mode, .modes, .tenancies, .power, .plane, .bpm, .flannel, .dram, .comp, .mover, .audio, .host, .events, .recoveries, .enclosure]
  | .tnCreate _ => [.store, .dict, .sessions, .modes, .tenancies, .plane, .events]
  | .tnReset _ => [.store, .beat, .dict, .can, .sessions, .mailboxes, .modes, .tenancies, .power, .plane, .bpm, .flannel, .dram, .comp, .mover, .audio, .host, .events, .recoveries]
  | .tnDelete _ => [.store, .beat, .dict, .can, .sessions, .mailboxes, .modes, .tenancies, .power, .plane, .bpm, .flannel, .dram, .comp, .mover, .audio, .host, .events, .recoveries]
  | .tenancyWipeEnd _ => [.store, .dict, .sessions, .modes, .tenancies, .plane, .bpm, .flannel, .events, .recoveries]
  | .psuInserted _ _ _ _ _ _ => [.store, .power, .events]
  | .psuRemoved _ => [.store, .power, .events]
  | .moduleLineFall _ _ => [.power]
  | .moduleLineRise _ => [.power]
  | .pdClassified _ _ _ _ => [.store, .power]
  | .faultStartup _ => [.store, .power, .events]
  | .pdRemoved _ => [.store, .power, .events]
  | .pdFault _ _ => [.store, .power, .events]
  | .holdEnd _ => [.store, .power, .events]
  | .backoffLevelReset _ => [.store]
  | .siliconRequest _ => [.power]
  | .siliconRelease _ => [.store, .power]
  | .lldpPowerRequest _ _ => [.power]
  | .pseControllerFault _ => [.store, .power, .events]
  | .linkUp _ _ _ => [.plane]
  | .linkDown _ => [.plane]
  | .penaltyDecay => [.store, .plane, .events, .recoveries]
  | .sfpInserted _ => [.store, .plane, .events]
  | .moduleIdentify _ _ _ => [.store, .plane, .events, .recoveries]
  | .sfpRemoved _ => [.store, .plane, .events, .recoveries]
  | .txFault _ => [.plane]
  | .txDisableRelease _ => [.plane]
  | .moduleDdmRead _ _ _ => [.store]
  | .phyMgmtTimeout _ => [.store, .plane, .events, .recoveries]
  | .frameReceived _ _ _ _ _ _ _ => [.store, .beat, .modes, .plane, .events]
  | .pfcFrameReceived _ _ _ => [.store, .plane, .events]
  | .pauseTimerExpiry _ _ => [.store, .plane, .events]
  | .pfcRefresh _ _ => [.store, .plane, .events]
  | .pfcStormTrip _ _ => [.store, .plane, .events, .recoveries]
  | .pfcStormClear _ _ => [.store, .plane, .events, .recoveries]
  | .lldpduReceived _ _ _ => [.store, .plane, .events]
  | .lldpNeighbourLost _ _ => [.store, .plane, .events]
  | .lldpTransmit _ => [.store, .plane, .events]
  | .frameTxDone _ _ _ => [.store, .plane, .events]
  | .reclaimPassDone => [.store, .plane]
  | .versionRetire => [.plane]
  | .twillSwap _ => [.store, .plane, .events, .recoveries]
  | .twillDrainDone => [.store, .plane, .events]
  | .shadowCopy _ => [.store, .plane]
  | .shadowCopyDone _ => [.store, .plane, .host, .events]
  | .learnApply => [.store, .plane, .events]
  | .settle => [.store, .plane]
  | .dampingWindowEnd => [.store, .plane, .events]
  | .addStatic _ => [.store, .modes, .plane, .events]
  | .delete _ => [.store, .modes, .plane, .events]
  | .find _ => [.store, .events]
  | .flushPort _ => [.store, .plane, .events]
  | .flushFid _ => [.store, .plane, .events]
  | .flushTenancy _ => [.store, .plane, .events]
  | .macFlushDone => [.store, .plane, .events]
  | .arpNdReceived _ _ _ => [.store, .plane, .events]
  | .nhRefresh _ => [.store, .plane, .events]
  | .nhUnresolved _ => [.store, .plane]
  | .snoopReport _ _ _ _ _ => [.store, .plane, .events]
  | .snoopLeave _ _ _ _ => [.store, .plane]
  | .snoopQuery _ _ _ => [.store, .plane, .events]
  | .snoopMemberExpiry => [.store, .plane]
  | .alloc _ _ _ => [.store, .bpm, .events]
  | .share _ _ _ _ => [.store, .bpm, .events]
  | .release _ _ => [.store, .bpm, .events]
  | .free _ _ => [.store, .bpm, .events]
  | .zeroFillDone _ _ => [.store, .bpm, .flannel, .events, .recoveries]
  | .apertureRead _ _ _ => [.store, .host, .events]
  | .apertureWrite _ _ _ _ => [.store, .mailboxes, .bpm, .host, .events]
  | .flush _ _ => [.store, .plane, .events]
  | .histClear _ _ => [.plane]
  | .changeTime _ _ => [.store, .modes, .plane, .events]
  | .cancel _ => [.store, .plane, .events]
  | .gateTakeover _ => [.store, .modes, .plane, .events]
  | .gateEntryStart _ _ => [.store, .plane, .events]
  | .keepCopy _ _ => [.store, .plane, .bpm, .flannel, .events, .recoveries]
  | .segmentAgeClose => [.flannel, .events]
  | .prerollFree => [.store, .bpm, .flannel, .events]
  | .heartbeatCheck => [.store, .bpm, .flannel, .events, .recoveries]
  | .heartbeatSend _ => [.store, .plane, .flannel, .events]
  | .probeReply _ _ _ => [.store, .plane, .flannel, .events]
  | .drainOffer _ => [.store, .bpm, .flannel, .host, .events]
  | .drainAck _ => [.store, .bpm, .flannel, .host, .events, .recoveries]
  | .flnDrainTimeout => [.store, .bpm, .flannel, .events]
  | .backfillSend _ => [.store, .plane, .flannel, .events]
  | .backfillAck _ _ => [.flannel]
  | .flnBackfillTimeout => [.store, .flannel, .events]
  | .indexExport _ => [.store, .flannel, .events]
  | .purge _ => [.store, .bpm, .flannel, .host, .events, .recoveries]
  | .dramAlert _ _ _ _ _ => [.store, .dram, .events, .recoveries]
  | .dramReplayDone _ => [.store, .dram, .events, .recoveries]
  | .dramUe _ => [.store, .bpm, .dram, .events, .recoveries]
  | .refreshDue _ _ _ _ => [.store, .dram, .events]
  | .idleSelfRefresh _ => [.store, .dram, .events]
  | .selfRefreshExit _ _ => [.store, .dram, .events]
  | .dramScrubPassDone => [.store, .dram, .events]
  | .diagRead => [.store, .free]
  | .logClear => [.dram]
  | .jobAdmit _ _ _ => [.flannel, .comp, .mover, .host, .events]
  | .compress => [.store, .bpm, .comp, .mover, .events]
  | .decompress => [.store, .bpm, .comp, .mover, .events]
  | .copy1d => [.store, .bpm, .comp, .mover, .events]
  | .copy2d => [.store, .bpm, .comp, .mover, .events]
  | .jobEnd _ _ => [.store, .bpm, .comp, .mover, .events, .free]
  | .jobCompletionPost _ => [.flannel, .comp, .mover, .host]
  | .aesRxLocked _ _ _ => [.audio]
  | .aesRxLost _ => [.audio]
  | .aesCsChange _ _ _ _ => [.store, .audio, .events]
  | .asrcSlip _ _ _ => [.store, .audio, .events]
  | .audioRampIn _ => [.store, .audio, .events]
  | .packetOut _ _ => [.store, .plane, .audio, .events]
  | .packetIn _ _ => [.store, .plane, .bpm, .audio, .events]
  | .featureFrame _ => [.store, .modes, .audio, .events]
  | .clipRelease _ => [.store]
  | .pcieLinkUp _ _ => [.store, .host, .events]
  | .pcieLinkDown => [.store, .host, .events, .recoveries]
  | .hostWatchdogExpiry _ => [.store, .host, .events]
  | .hostAlive _ => [.host]
  | .flrStart _ => [.store, .host, .events, .recoveries]
  | .flrCleanup _ => [.store, .dict, .mailboxes, .bpm, .flannel, .comp, .mover, .host, .events, .recoveries]
  | .flrDone _ => [.store, .dict, .modes, .bpm, .host, .events, .recoveries]
  | .ringEnable _ _ _ => [.store, .host, .events]
  | .ringDisable _ _ _ => [.store, .host, .events]
  | .ringQuiesced _ _ => [.host]
  | .sqTailWrite _ _ _ => [.store, .host, .events]
  | .cqHeadWrite _ _ _ => [.store, .host, .events]
  | .sqEntryTake _ _ _ => [.store, .host, .events]
  | .rxFrameHandover _ _ => [.store, .plane, .host, .events]
  | .txFrame _ _ _ _ _ => [.store, .plane, .host, .events, .free]
  | .drainBufferPost _ => [.host]
  | .tableLoad _ _ => [.store, .host, .events]
  | .tableLoadDone => [.store, .host, .events]
  | .cqCoalesceTimeout _ _ => [.host]
  | .dmaReadFailed _ _ _ _ _ => [.store, .host, .events, .free]
  | .registerWrite _ _ _ _ => [.store, .mailboxes, .bpm, .host, .events]
  | .recoveryCommit _ => [.host]
  | .recoveryUsed => [.store, .beat, .dict, .can, .sessions, .mailboxes, .mode, .modes, .tenancies, .power, .plane, .bpm, .flannel, .dram, .comp, .mover, .audio, .host, .events, .recoveries, .enclosure]
  | .clear _ _ _ => [.events]
  | .unmask _ _ _ => [.events]
  | .spacingExpiry _ _ => [.store, .events]
  | .gpioLevelChange _ => [.store, .beat, .modes, .events]
  | .chatterWindowEnd _ => [.store, .events]
  | .gpioStuck _ => [.store, .events]
  | .snapshotCapture => [.store, .events]
  | .snapshotDone => [.events]
  | .withdrawnClear => [.store]
  | .fanEvaluation _ => [.store, .enclosure]
  | .trayPresenceChange _ => [.store, .enclosure]
  | .sensorFault _ => [.store]
  | .thermalTrip => [.store, .dict, .can, .sessions, .mailboxes, .mode, .modes, .tenancies, .power, .plane, .bpm, .flannel, .dram, .comp, .mover, .audio, .host, .events, .recoveries, .enclosure]
  | .thermalTripRestore => [.store, .clock, .beat, .dict, .can, .sessions, .mailboxes, .mode, .modes, .tenancies, .power, .plane, .bpm, .flannel, .dram, .comp, .mover, .audio, .host, .events, .recoveries, .enclosure]
  | .ledTest => [.enclosure]
  | .ledTestEnd => [.enclosure]
  | .psuPowerFailWarning _ => [.store, .modes, .power, .events]
  | .psuFailed _ => [.power]
  | .psuInputOutOfRange _ _ _ => [.power]
  | .mainsRestored _ _ _ _ => [.modes, .power]
  | .pseControllerFaultClear _ => [.power]
  | .sensorReportRestored _ => [.store, .enclosure]
  | .phyRetry _ _ => [.plane]
  | .ptpSyncTransmit _ => [.beat]
  | .ptpDelayMessage _ _ => [.store, .beat]
  | .notifyRequest _ _ => [.store, .dict, .can, .sessions, .mailboxes, .plane, .host, .events]
  | .malformedTlp _ => [.store, .events]
  | .gpioSample _ => [.store, .events]
  | .aesRxLocking _ => [.audio]
  | .aes3SubframeReceived _ _ _ _ _ _ => [.store, .audio, .events]
  | .aes3FrameTransmit _ _ => [.store, .audio]
  | .sampleSlot _ _ => [.store, .bpm, .audio, .events]

/-- The four commands that happen at a boundary between beats (R26, R38). -/
def Instr.boundary : Instr → Bool
  | .beatBoundary _ | .beatPtpLocked _ _ _ | .beatSlewDone _ | .beatOriginSet _ => true
  | _ => false

end Sys2Proof.Machine
end

