-- ==== Sys2Proof/Certificates/Slice0/Obligations.lean ====
section
/-! DEFINITION. The statements about the machine, for the provers. -/

open Sys2Proof Sys2Proof.Machine

/-- Each boundary command, where it happens, numbers the beat that begins, leaves the queue and starts a new snapshot
(R26, R29, R32, R38, R65). -/
def Obligations.BoundariesNumberTheBeat : Prop :=
  (∀ (s : State) (inp : BoundaryInputs), s.live.mode ≠ .off →
    ∃ t, exec (.beatBoundary inp) s = .next t ∧ t.pending = s.pending ∧ t.start = t.live ∧
      t.live.beat.ticks = s.live.beat.ticks + 1 ∧
      if s.live.beat.strobeTaken = true ∧ s.live.beat.aligning = false ∧ s.live.lockDue = false then
        t.live.beat.number = s.live.rd .FREE_RUN_ORIGIN ∧ t.live.beat.elapsed = 0
      else t.live.beat.number = (s.live.beat.number + 1) % 2 ^ 64 ∧ t.live.beat.elapsed = s.live.beat.elapsed + 1) ∧
  (∀ (s : State) (inp : BoundaryInputs), s.live.mode ≠ .off → s.live.beat.slewing = true → s.live.beat.slewUnits ≤ 1 →
    s.live.beat.strobeTaken = false → s.live.beat.aligning = false →
    ∃ t, exec (.beatSlewDone inp) s = .next t ∧ t.pending = s.pending ∧ t.start = t.live ∧
      t.live.beat.ticks = s.live.beat.ticks + 1 ∧ t.live.beat.number = (s.live.beat.number + 1) % 2 ^ 64 ∧
      t.live.beat.elapsed = s.live.beat.elapsed + 1) ∧
  (∀ (s : State) (inp : BoundaryInputs), s.live.mode ≠ .off → s.live.beat.strobeTaken = true → s.live.beat.aligning = false →
    s.live.lockDue = false →
    ∃ t, exec (.beatOriginSet inp) s = .next t ∧ t.pending = s.pending ∧ t.start = t.live ∧
      t.live.beat.ticks = s.live.beat.ticks + 1 ∧ t.live.beat.number = s.live.rd .FREE_RUN_ORIGIN ∧ t.live.beat.elapsed = 0) ∧
  (∀ (s : State) (t0 cycles : Nat) (inp : BoundaryInputs), s.live.mode ≠ .off → s.live.beat.aligning = true →
    ∃ t, exec (.beatPtpLocked t0 cycles inp) s = .next t ∧ t.pending = s.pending ∧ t.start = t.live ∧
      t.live.beat.ticks = s.live.beat.ticks + 1 ∧ t.live.beat.elapsed = s.live.beat.elapsed + 1 ∧
      t.live.beat.number = if s.live.beat.number + 1 < t0 % 2 ^ 64 then t0 % 2 ^ 64 else (s.live.beat.number + 1) % 2 ^ 64)

/-- What the messages of the PTP instance do, and what they leave alone (R36, R49, R51, R52, R53). -/
def Obligations.PtpMessagesMoveTheClockState : Prop :=
  (∀ (s : State) (port : Fin 56) (domain transport : Nat) (offset : Int), s.live.ptpMine domain transport = true →
    s.live.rd .PTP_SLAVE_PORT = port.val →
    ∃ t, exec (.ptpSyncReceived port domain transport offset) s = .next t ∧ s.only [.store, .beat] t ∧
      s.live.cellsBut [Obj.key .PTP_OFFSET_NS 0 0 0] t.live ∧
      t.live.rdI .PTP_OFFSET_NS = clampI (-2147483647) 2147483647 offset ∧ t.live.beat.lastSync = s.live.beat.ticks ∧
      t.live.beat.goodSyncs = (if offset.natAbs ≤ s.live.rd .PTP_LOCK_THRESHOLD_NS then s.live.beat.goodSyncs + 1 else 0) ∧
      t.live.beat.badSyncs = (if max (s.live.rd .PTP_UNLOCK_THRESHOLD_NS) (s.live.rd .PTP_LOCK_THRESHOLD_NS) < offset.natAbs
        then s.live.beat.badSyncs + 1 else 0)) ∧
  (∀ (s : State) (uplink : Fin 4) (msg : AnnounceMsg), s.live.ptpMine msg.domain msg.transport = true →
    bit (s.live.rd .PTP_SLAVE_CANDIDATES) uplink.val = true →
    ∃ t, exec (.ptpAnnounceReceived uplink msg) s = .next t ∧ s.only [.store, .beat, .events] t ∧
      (∃ a, t.live.beat.announces.get uplink.val = some a ∧ a.last = s.live.beat.ticks ∧ a.identity = msg.identity ∧
        a.sender = msg.sender ∧ a.stepsRemoved = msg.stepsRemoved ∧ a.priority1 = msg.priority1) ∧
      t.live.beat.goodSyncs = s.live.beat.goodSyncs ∧ t.live.beat.locked = s.live.beat.locked) ∧
  (∀ (s : State) (uplink : Fin 4) (a : Announce), s.live.beat.announces.get uplink.val = some a →
    a.last + announceTimeout ≤ s.live.beat.ticks →
    ∃ t, exec (.ptpAnnounceTimeout uplink) s = .next t ∧ s.only [.store, .beat, .events] t ∧
      t.live.beat.announces.get uplink.val = none ∧ t.live.beat.locked = s.live.beat.locked ∧
      (s.live.mode.evaluates = true → s.live.rd .PTP_SLAVE_PORT = 48 + uplink.val →
        s.live.occ 40 ∈ t.live.events.arisen) ∧
      (s.live.rd .PTP_SLAVE_PORT ≠ 48 + uplink.val → t.live.events = s.live.events ∧ t.live.store = s.live.store)) ∧
  (∀ (s : State), s.live.beat.ptpRunning = true → s.live.beat.lastAnnounceSent = none → s.live.beat.lastSyncSent = none →
    (∃ t, exec (.ptpSyncTransmit true) s = .next t ∧ s.only [.beat] t ∧
      t.live.beat.announcesSent = s.live.beat.announcesSent + 1 ∧ t.live.beat.syncsSent = s.live.beat.syncsSent ∧
      t.live.beat.announced = some s.live.announceData) ∧
    (∃ t, exec (.ptpSyncTransmit false) s = .next t ∧ s.only [.beat] t ∧
      t.live.beat.syncsSent = s.live.beat.syncsSent + 1 ∧ t.live.beat.announcesSent = s.live.beat.announcesSent)) ∧
  (∀ (s : State) (port : Fin 56) (delay : Nat), s.live.beat.ptpRunning = true → s.live.rd .PTP_SLAVE_PORT = port.val →
    ∃ t, exec (.ptpDelayMessage port delay) s = .next t ∧ s.only [.store] t ∧
      s.live.cellsBut [Obj.key .PTP_MEAN_PATH_DELAY_NS 0 0 0] t.live ∧
      t.live.rd .PTP_MEAN_PATH_DELAY_NS = min delay (256 ^ Obj.len .PTP_MEAN_PATH_DELAY_NS - 1)) ∧
  (∀ (s : State) (port : Fin 56) (delay : Nat), s.live.beat.ptpRunning = true → s.live.rd .PTP_SLAVE_PORT ≠ port.val →
    (if s.live.rd .PTP_DELAY_MECHANISM = 1 then (s.live.ptpRole port.val).isSome = true
      else s.live.ptpRole port.val = some .master) →
    ∃ t, exec (.ptpDelayMessage port delay) s = .next t ∧ s.only [.beat] t ∧
      t.live.beat.delaysAnswered = s.live.beat.delaysAnswered + 1)

/-- Loss of lock, lock decisions and the arming of the strobe (R33, R36 to R39, R57). -/
def Obligations.LockLossAndStrobeArming : Prop :=
  (∀ s : State, s.live.lossDue = true → s.live.mode.evaluates = true →
    ∃ t, exec .beatPtpUnlocked s = .next t ∧ s.only [.beat, .events] t ∧ t.live.beat.locked = false ∧
      t.live.beat.freeRun = true ∧ t.live.beat.holdover = true ∧ s.live.arose t.live [s.live.occ 33]) ∧
  (∀ s : State, s.live.lossDue = false → exec .beatPtpUnlocked s = .next s) ∧
  (∀ s : State, s.live.mode = .configure → s.live.beat.locked = false → s.live.rd .ORIGIN_STROBE_INPUT ≠ 0xFF →
    ∃ t, exec .armOrigin s = .next t ∧ s.only [.beat] t ∧ t.live.beat = { s.live.beat with strobeArmed := true }) ∧
  (∀ s : State, s.live.mode ≠ .configure ∨ s.live.beat.locked = true ∨ s.live.rd .ORIGIN_STROBE_INPUT = 0xFF →
    exec .armOrigin s = .next s) ∧
  (∀ (l : Live) (t cycles : Nat), l.mode.evaluates = true →
    let n := l.beat.number
    let m := l.numberLocked t cycles
    let old := l.occ 36
    (t = n + 1 → m.beat.slewing = false ∧ ∃ k, l.arose m ((if l.beat.slewing then [{ old with stamp := k }] else []) ++ [{ l.occ 32 with stamp := k }])) ∧
    (n + 1 < t → m.beat.slewing = false ∧ m.beat.stepped = true ∧ ∃ k, l.arose m ((if l.beat.slewing then [{ old with stamp := k }] else []) ++
      [{ l.occ 32 with stamp := k }, { l.occ 34 (u64 n ++ u64 t) with stamp := k }])) ∧
    (t < n + 1 → m.beat.slewing = true ∧ m.beat.slewUnits = 16 * (n + 1 - t) ∧ ∃ k, l.arose m ([{ l.occ 32 with stamp := k }] ++
      if l.beat.slewing then [] else [{ l.occ 35 with stamp := k }])))

/-- What the operations on buffers do and leave alone (R386, R391, R396, R397, R399). -/
def Obligations.BufferRequestsSettle : Prop :=
  (∀ (s : State) (r : Fin 16) (size k i : Nat) (tn : Fin 8), s.live.bpmRuns r.val = true → poolFor size = some k →
    s.live.freeBuf k = some i → s.live.allocCode r.val k = bpmOk →
    ∃ t, exec (.alloc r size tn) s = .next t ∧ s.only [.store, .bpm, .events] t ∧
      t.live.bpm.results.get r.val = (bpmOk, handleOf k (s.live.buf (bufKey k i)).gen i) ∧
      (t.live.buf (bufKey k i)).owners = [r.val] ∧ (t.live.buf (bufKey k i)).final = r.val ∧
      (t.live.buf (bufKey k i)).gen = (s.live.buf (bufKey k i)).gen ∧
      ∀ key, key ≠ bufKey k i → t.live.buf key = s.live.buf key) ∧
  (∀ (s : State) (r : Fin 16) (size k : Nat) (tn : Fin 8), s.live.bpmRuns r.val = true → poolFor size = some k →
    (s.live.freeBuf k = none ∨ s.live.allocCode r.val k ≠ bpmOk) →
    ∃ t, exec (.alloc r size tn) s = .next t ∧ s.only [.store, .bpm, .events] t ∧
      t.live.bpm.results.get r.val = (s.live.allocCode r.val k, 0) ∧ t.live.bpm.bufs = s.live.bpm.bufs ∧
      s.live.occ 323 (u8 r.val ++ u8 k ++ u8 (s.live.allocCode r.val k)) (requesterTn r.val) ∈ t.live.events.arisen) ∧
  (∀ (s : State) (r new : Fin 16) (h : Nat) (final : Bool), s.live.bpmRuns r.val = true →
    s.live.checkHandle r.val h none = bpmOk → (s.live.buf (handleKey h)).owners.length < 4 →
    (s.live.buf (handleKey h)).owners.contains new.val = false → s.live.requesterExists new.val = true →
    (new.val < 9 ∨ (s.live.buf (handleKey h)).tn = new.val - 8) → final = false →
    ∃ t, exec (.share r h new final) s = .next t ∧ s.only [.bpm] t ∧
      (t.live.buf (handleKey h)).owners = (s.live.buf (handleKey h)).owners ++ [new.val] ∧
      (t.live.buf (handleKey h)).final = (s.live.buf (handleKey h)).final ∧
      (t.live.bpm.results.get r.val).1 = bpmOk ∧ ∀ key, key ≠ handleKey h → t.live.buf key = s.live.buf key) ∧
  (∀ (s : State) (r new : Fin 16) (h : Nat) (final : Bool), s.live.bpmRuns r.val = true →
    s.live.checkHandle r.val h none ≠ bpmOk →
    (∃ t, exec (.share r h new final) s = .next t ∧ t.live.bpm.bufs = s.live.bpm.bufs ∧
      (t.live.bpm.results.get r.val).1 = s.live.checkHandle r.val h none) ∧
    (∃ t, exec (.release r h) s = .next t ∧ t.live.bpm.bufs = s.live.bpm.bufs ∧
      (t.live.bpm.results.get r.val).1 = s.live.checkHandle r.val h none) ∧
    (∃ t, exec (.free r h) s = .next t ∧ t.live.bpm.bufs = s.live.bpm.bufs ∧
      (t.live.bpm.results.get r.val).1 = s.live.checkHandle r.val h none)) ∧
  (∀ (s : State) (r : Fin 16) (h : Nat), s.live.bpmRuns r.val = true → s.live.checkHandle r.val h none = bpmOk →
    (s.live.buf (handleKey h)).final ≠ r.val →
    ∃ t, exec (.release r h) s = .next t ∧ s.only [.bpm] t ∧
      (t.live.buf (handleKey h)).owners = (s.live.buf (handleKey h)).owners.filter (fun o => o != r.val) ∧
      (t.live.bpm.results.get r.val).1 = bpmOk ∧ ∀ key, key ≠ handleKey h → t.live.buf key = s.live.buf key) ∧
  (∀ (s : State) (r : Fin 16) (h : Nat), s.live.bpmRuns r.val = true → s.live.checkHandle r.val h none = bpmOk →
    (s.live.buf (handleKey h)).final = r.val → (s.live.buf (handleKey h)).owners = [r.val] →
    ∃ t, exec (.free r h) s = .next t ∧ s.only [.store, .bpm, .events] t ∧
      (t.live.buf (handleKey h)).owners = [] ∧ (t.live.buf (handleKey h)).zeroing = true ∧
      (t.live.buf (handleKey h)).gen = nextGen (s.live.buf (handleKey h)).gen ∧
      (t.live.bpm.results.get r.val).1 = bpmOk ∧ ∀ key, key ≠ handleKey h → t.live.buf key = s.live.buf key) ∧
  (∀ (s : State) (pool : Fin 6) (index : Nat), index < poolCount pool.val → s.live.fillDue (bufKey pool.val index) = true →
    s.live.mode ≠ .freeze → (s.live.flannel.purgeKeys.any fun e => e.2 == bufKey pool.val index) = false →
    ∃ t, exec (.zeroFillDone pool index) s = .next t ∧ s.only [.bpm, .flannel] t ∧
      t.live.buf (bufKey pool.val index) = { gen := (s.live.buf (bufKey pool.val index)).gen } ∧
      ∀ key, key ≠ bufKey pool.val index → t.live.buf key = s.live.buf key)

/-- What the operations on the MAC table report and change (R313, R315, R324, R325, R343). -/
def Obligations.MacOperationsReport : Prop :=
  (∀ (s : State) (m : Fin 15) (loc : Nat) (e : MacEntry), s.live.mode.engineOn = true →
    let r := m.val + 1
    let tn := s.live.masterTenancy r
    let fid := s.live.rd .OP_FID 0 0 r
    (tn = 0 ∨ s.live.vidOwner fid = tn) → s.live.macFind fid (s.live.rd .OP_MAC 0 0 r) = some (loc, e) → e.dest ≠ destAbsent →
    ∃ t, exec (.find m) s = .next t ∧ s.only [.store, .events] t ∧
      s.live.cellsBut [Obj.key .OP_RESULT 0 0 r, Obj.key .OP_LOCATION 0 0 r, Obj.key .OP_EFFECTIVE 0 0 r] t.live ∧
      t.live.rd .OP_RESULT 0 0 r = opDone ∧ t.live.rd .OP_LOCATION 0 0 r = loc % 2 ^ 32 ∧
      s.live.arose t.live [s.live.occ 391 (u8 r ++ u8 3 ++ u8 opDone ++ u32 loc ++ u64 s.live.now) tn]) ∧
  (∀ (s : State) (m : Fin 15), s.live.mode.engineOn = true →
    let r := m.val + 1
    let tn := s.live.masterTenancy r
    let fid := s.live.rd .OP_FID 0 0 r
    let cells := [Obj.key .OP_RESULT 0 0 r, Obj.key .OP_LOCATION 0 0 r, Obj.key .OP_EFFECTIVE 0 0 r]
    (tn = 0 ∨ s.live.vidOwner fid = tn → s.live.macFind fid (s.live.rd .OP_MAC 0 0 r) = none →
      (∃ t, exec (.find m) s = .next t ∧ s.only [.store, .events] t ∧ s.live.cellsBut cells t.live ∧
        t.live.rd .OP_RESULT 0 0 r = opNotFound) ∧
      (∃ t, exec (.delete m) s = .next t ∧ s.only [.store, .events] t ∧ s.live.cellsBut cells t.live ∧
        t.live.rd .OP_RESULT 0 0 r = opNotFound)) ∧
    (tn ≠ 0 → s.live.vidOwner fid ≠ tn →
      (∃ t, exec (.find m) s = .next t ∧ s.only [.store, .events] t ∧ s.live.cellsBut cells t.live ∧
        t.live.rd .OP_RESULT 0 0 r = opDenied) ∧
      (∃ t, exec (.delete m) s = .next t ∧ s.only [.store, .events] t ∧ s.live.cellsBut cells t.live ∧
        t.live.rd .OP_RESULT 0 0 r = opDenied) ∧
      (∃ t, exec (.addStatic m) s = .next t ∧ s.only [.store, .events] t ∧ s.live.cellsBut cells t.live ∧
        t.live.rd .OP_RESULT 0 0 r = opDenied) ∧
      (∃ t, exec (.flushFid m) s = .next t ∧ s.only [.store, .events] t ∧ s.live.cellsBut cells t.live ∧
        t.live.rd .OP_RESULT 0 0 r = opDenied))) ∧
  (∀ (s : State) (m : Fin 15) (loc : Nat) (e : MacEntry), s.live.mode.engineOn = true →
    let r := m.val + 1
    let tn := s.live.masterTenancy r
    let fid := s.live.rd .OP_FID 0 0 r
    (tn = 0 ∨ s.live.vidOwner fid = tn) → s.live.macFind fid (s.live.rd .OP_MAC 0 0 r) = some (loc, e) → e.dest ≠ destAbsent →
    ∃ t, exec (.delete m) s = .next t ∧ s.only [.store, .modes, .plane, .events] t ∧ t.live.rd .OP_RESULT 0 0 r = opDone ∧
      t.live.rd .OP_LOCATION 0 0 r = loc % 2 ^ 32 ∧
      if s.live.macFree loc s.live.ticks e = true then
        t.live.plane.fwd.settle = s.live.plane.fwd.settle ++ [(s.live.ticks, loc)] ∧ t.live.plane.fwd.later = s.live.plane.fwd.later
      else t.live.plane.fwd.settle = s.live.plane.fwd.settle ∧ t.live.plane.fwd.later = s.live.plane.fwd.later ++
        [{ at_ := s.live.macNext loc s.live.ticks e, tn := e.tn, fid := e.fid, mac := e.mac, dest := destAbsent, static := e.static }]) ∧
  (∀ (s : State) (m : Fin 15) (loc : Nat), s.live.mode.engineOn = true →
    let r := m.val + 1
    let fid := s.live.rd .OP_FID 0 0 r
    s.live.masterTenancy r = 0 → s.live.macFind fid (s.live.rd .OP_MAC 0 0 r) = none →
    s.live.macUse (s.live.vidOwner fid) < s.live.rd .EFFECTIVE_QUOTA (s.live.vidOwner fid) 4 →
    s.live.freeLoc fid (s.live.rd .OP_MAC 0 0 r) = some loc →
    ∃ t, exec (.addStatic m) s = .next t ∧ s.only [.store, .modes, .plane, .events] t ∧ t.live.rd .OP_RESULT 0 0 r = opDone ∧
      t.live.rd .OP_LOCATION 0 0 r = loc % 2 ^ 32 ∧
      t.live.plane.fwd.settle = s.live.plane.fwd.settle ++ [(s.live.ticks, loc)]) ∧
  (∀ (s : State) (m : Fin 15), s.live.mode.engineOn = true → s.live.flushRoom = true →
    let r := m.val + 1
    let tn := s.live.masterTenancy r
    (tn = 0 → ∃ t, exec (.flushPort m) s = .next t ∧ s.only [.store, .plane, .events] t ∧
      t.live.rd .OP_RESULT 0 0 r = opQueued ∧ t.live.plane.fwd.flushes = s.live.plane.fwd.flushes ++
        [{ kind := .port (min 55 (s.live.rd .OP_DEST_NUMBER 0 0 r)), at_ := s.live.ticks }]) ∧
    (tn = 0 ∨ s.live.vidOwner (s.live.rd .OP_FID 0 0 r) = tn → ∃ t, exec (.flushFid m) s = .next t ∧
      s.only [.store, .plane, .events] t ∧ t.live.rd .OP_RESULT 0 0 r = opQueued ∧ t.live.plane.fwd.flushes =
        s.live.plane.fwd.flushes ++ [{ kind := .fid (s.live.rd .OP_FID 0 0 r), at_ := s.live.ticks }]) ∧
    (∃ t, exec (.flushTenancy m) s = .next t ∧ s.only [.store, .plane, .events] t ∧
      t.live.rd .OP_RESULT 0 0 r = opQueued ∧ t.live.plane.fwd.flushes = s.live.plane.fwd.flushes ++
        [{ kind := .tenancy (if r = 1 then s.live.rd .TN_WINDOW 0 0 r else tn), at_ := s.live.ticks }])) ∧
  (∀ (s : State) (m : Fin 15), s.live.mode.engineOn = true → s.live.flushRoom = false →
    exec (.flushTenancy m) s = .next s) ∧
  (∀ s : State, s.live.plane.fwd.pass.isEmpty = false → 262144 ≤ s.live.plane.fwd.passPos → s.live.mode.engineOn = true →
    ∃ t, exec .macFlushDone s = .next t ∧ s.only [.store, .plane, .events] t ∧
      s.live.cellsBut [Obj.key .FLUSH_BUSY 0 0 0] t.live ∧ t.live.rdB .FLUSH_BUSY = false ∧
      t.live.plane.fwd.pass = [] ∧ s.live.arose t.live [s.live.occ 393])

/-- What the MAC table's background commands take and leave (R288, R313 to R315, R317, R321, R322). -/
def Obligations.MacTableWorksInTheBackground : Prop :=
  (∀ s : State, s.live.mode.running = true → (s.live.plane.fwd.learns.any fun r => r.ingress + 63 ≤ s.live.ticks) = true →
    ∃ t, exec .learnApply s = .next t ∧ s.only [.store, .plane, .events] t ∧
      t.live.plane.fwd.learns = s.live.plane.fwd.learns.filter fun r => s.live.ticks < r.ingress + 63) ∧
  (∀ (l : Live) (r : Learn) (loc : Nat), l.macFind r.fid r.mac = none → l.macUse r.tn < l.rd .EFFECTIVE_QUOTA r.tn 4 →
    l.learnedNow (l.countPort r.dest) < l.rd .LEARN_LIMIT r.port → l.freeLoc r.fid r.mac = some loc →
    (l.learnOne r).plane.fwd.settle = l.plane.fwd.settle ++ [(max (r.ingress + 64) (l.ticks + 1), loc)]) ∧
  (∀ s : State, s.live.mode ≠ .freeze → (s.live.plane.fwd.settle.any fun x => x.1 + 64 ≤ s.live.ticks) = true →
    ∃ t, exec .settle s = .next t ∧ s.only [.store, .plane] t ∧
      (∀ x ∈ t.live.plane.fwd.settle, s.live.ticks < x.1 + 64) ∧
      t.live.plane.fwd.later = s.live.plane.fwd.later.filter fun c => s.live.ticks < c.at_) ∧
  (∀ (s : State) (loc : Fin 262144), s.live.mode.engineOn = true → macUsed (s.live.macAt loc.val) = true →
    s.live.aged (MacEntry.unpack (s.live.macAt loc.val)) = true → s.live.macFree loc.val (s.live.ticks + 1) (MacEntry.unpack (s.live.macAt loc.val)) = true →
    ∃ t, exec (.ageOut loc) s = .next t ∧ s.only [.store, .plane] t ∧
      t.live.plane.fwd.settle = s.live.plane.fwd.settle ++ [(s.live.ticks + 1, loc.val)]) ∧
  (∀ (s : State) (loc : Nat) (e : MacEntry), s.live.mode.engineOn = true → s.live.elapsed % 8000 = 0 →
    s.live.plane.fwd.dampedAt ≠ some s.live.ticks → s.live.macAll = [(loc, e)] → e.flag = true → e.moves < 9 →
    ∃ t, exec .dampingWindowEnd s = .next t ∧ s.only [.store, .plane, .events] t ∧
      s.live.cellsBut [Obj.key .MAC_TABLE (0 + loc / 128) (loc % 128) 0] t.live ∧
      t.live.macAt loc = { e with moves := 0, flag := false }.pack % 256 ^ Obj.len .MAC_TABLE ∧
      s.live.arose t.live [s.live.occ 389 [] e.tn]) ∧
  (∀ s : State, s.live.mode ≠ .freeze → s.live.retireDue = true →
    ∃ t, exec .versionRetire s = .next t ∧ s.only [.plane] t ∧
      t.live.plane.versions = s.live.plane.versions.filter fun v => s.live.ticks < v.at_ + 63)

/-- Links as sensed, silent PHYs and the decay of penalties (R42, R246, R247, R249, R264). -/
def Obligations.LinksAndDamping : Prop :=
  (∀ (s : State) (p : Fin 52) (partner : Nat) (fec : Fin 4),
    ∃ t, exec (.linkUp p partner fec) s = .next t ∧ s.only [.plane] t ∧
      t.live.portRt p.val = { s.live.portRt p.val with sensed := some (true, partner % 16, fec.val) } ∧
      ∀ q, q ≠ p.val → t.live.portRt q = s.live.portRt q) ∧
  (∀ (s : State) (p : Fin 52),
    ∃ t, exec (.linkDown p) s = .next t ∧ s.only [.plane] t ∧
      t.live.portRt p.val = { s.live.portRt p.val with sensed := some (false, 0, 0) } ∧
      ∀ q, q ≠ p.val → t.live.portRt q = s.live.portRt q) ∧
  (∀ (s : State) (p : Fin 52), s.live.mode.portsRun = true → (s.live.portRt p.val).phySilent = false →
    s.live.linkState p.val = linkDown →
    ∃ t, exec (.phyMgmtTimeout p) s = .next t ∧ s.only [.store, .plane, .events, .recoveries] t ∧
      t.live.portRt p.val = { s.live.portRt p.val with phySilent := true, phyAt := s.live.ticks } ∧
      (∀ q, q ≠ p.val → t.live.portRt q = s.live.portRt q) ∧
      s.live.arose t.live [s.live.occ (192 + p.val) (u8 linkDown ++ u8 linkDown) (s.live.portOwner p.val)]) ∧
  (∀ (s : State) (p : Fin 52) (answers : Bool), (s.live.portRt p.val).phySilent = true →
    (s.live.portRt p.val).phyAt + 8000 ≤ s.live.ticks → s.live.mode.portsRun = true →
    ∃ t, exec (.phyRetry p answers) s = .next t ∧ s.only [.plane] t ∧
      t.live.portRt p.val = { s.live.portRt p.val with phySilent := !answers, phyAt := s.live.ticks } ∧
      ∀ q, q ≠ p.val → t.live.portRt q = s.live.portRt q) ∧
  (∀ s : State, s.live.mode.modulesRun = true → s.live.elapsed % 8000 = 0 → s.live.plane.decayedAt ≠ some s.live.ticks →
    (∀ p, p < 52 → s.live.linkState p ≠ linkSuppressed) →
    ∃ t, exec .penaltyDecay s = .next t ∧ s.only [.store, .plane, .events, .recoveries] t ∧ t.live.plane.ports = s.live.plane.ports ∧
      ∀ p, p < 52 → t.live.rd .PENALTY p = s.live.rd .PENALTY p * decayFactor (s.live.rd .HALF_LIFE p) / 65536 % 256 ^ 4) ∧
  (∀ s : State, s.live.elapsed % 8000 ≠ 0 → exec .penaltyDecay s = .next s)

/-- What uplink modules do to their port, and only to it (R231 to R233). -/
def Obligations.UplinkModulesComeAndGo : Prop :=
  (∀ (s : State) (u : Fin 4), (s.live.portRt (48 + u.val)).present = false → s.live.mode.modulesRun = true →
    ∃ t, exec (.sfpInserted u) s = .next t ∧ s.only [.store, .plane, .events] t ∧
      s.live.cellsBut [Obj.key .MODULE_STATE (48 + u.val) 0 0] t.live ∧ t.live.rd .MODULE_STATE (48 + u.val) = 1 ∧
      (t.live.portRt (48 + u.val)).present = true ∧ (t.live.portRt (48 + u.val)).txDisabled = true ∧
      (∀ q, q ≠ 48 + u.val → t.live.portRt q = s.live.portRt q) ∧ s.live.arose t.live [s.live.occ 248 (u8 u.val)]) ∧
  (∀ (s : State) (u : Fin 4), (s.live.portRt (48 + u.val)).present = true → exec (.sfpInserted u) s = .next s) ∧
  (∀ (s : State) (u : Fin 4) (id : List Byte), s.live.rd .MODULE_STATE (48 + u.val) = 1 → s.live.mode.portsRun = true →
    moduleAccepted id = true → s.live.rdB .ENABLE_0400 (48 + u.val) = false → s.live.linkState (48 + u.val) = linkDisabled →
    ∃ t, exec (.moduleIdentify u true id) s = .next t ∧ s.only [.store, .plane] t ∧
      s.live.cellsBut [Obj.key .MODULE_ID (48 + u.val) 0 0, Obj.key .MODULE_STATE (48 + u.val) 0 0] t.live ∧
      t.live.rd .MODULE_STATE (48 + u.val) = 2 ∧ t.live.rd .MODULE_ID (48 + u.val) = beVal (slice id 0 96) % 256 ^ 96 ∧
      (t.live.portRt (48 + u.val)).txDisabled = false) ∧
  (∀ (s : State) (u : Fin 4) (id : List Byte), s.live.rd .MODULE_STATE (48 + u.val) = 1 → s.live.mode.modulesRun = true →
    (s.live.portRt (48 + u.val)).idFails + 1 < 3 →
    ∃ t, exec (.moduleIdentify u false id) s = .next t ∧ s.only [.plane] t ∧
      t.live.portRt (48 + u.val) = { s.live.portRt (48 + u.val) with idFails := (s.live.portRt (48 + u.val)).idFails + 1 } ∧
      ∀ q, q ≠ 48 + u.val → t.live.portRt q = s.live.portRt q) ∧
  (∀ (s : State) (u : Fin 4), (s.live.portRt (48 + u.val)).present = true → s.live.mode.portsRun = true →
    s.live.rdB .ENABLE_0400 (48 + u.val) = false → s.live.linkState (48 + u.val) = linkDisabled →
    ∃ t, exec (.sfpRemoved u) s = .next t ∧ s.only [.store, .plane, .events] t ∧
      s.live.cellsBut [Obj.key .MODULE_STATE (48 + u.val) 0 0, Obj.key .MODULE_ID (48 + u.val) 0 0,
        Obj.key .MODULE_DDM (48 + u.val) 0 0, Obj.key .MODULE_ALARMS (48 + u.val) 0 0] t.live ∧
      t.live.rd .MODULE_STATE (48 + u.val) = 0 ∧ t.live.rd .MODULE_ID (48 + u.val) = 0 ∧
      (t.live.portRt (48 + u.val)).present = false ∧ s.live.arose t.live [s.live.occ 249]) ∧
  (∀ (s : State) (u : Fin 4),
    ∃ t, exec (.txFault u) s = .next t ∧ s.only [.plane] t ∧
      t.live.portRt (48 + u.val) = { s.live.portRt (48 + u.val) with faulted := (s.live.portRt (48 + u.val)).present } ∧
      ∀ q, q ≠ 48 + u.val → t.live.portRt q = s.live.portRt q) ∧
  (∀ (l : Live) (u : Fin 4), l.rd .MODULE_STATE (48 + u.val) = 2 → l.mode.modulesRun = true →
    (l.portRt (48 + u.val)).txFaults = [] → l.linkState (48 + u.val) ≠ linkUp →
    l.txFault (48 + u.val) = l.setPort (48 + u.val) fun x =>
      { x with txFaults := [l.ticks], txDisabled := true, release := some (l.ticks + 8) }) ∧
  (∀ (s : State) (u : Fin 4) (b : Nat), (s.live.portRt (48 + u.val)).release = some b → b ≤ s.live.ticks →
    ∃ t, exec (.txDisableRelease u) s = .next t ∧ s.only [.plane] t ∧
      t.live.portRt (48 + u.val) = { s.live.portRt (48 + u.val) with release := none, txDisabled := s.live.linkState (48 + u.val) == linkSuppressed } ∧
      ∀ q, q ≠ 48 + u.val → t.live.portRt q = s.live.portRt q) ∧
  (∀ (s : State) (u : Fin 4) (ddm alarms : List Byte), s.live.rd .MODULE_STATE (48 + u.val) = 2 →
    bit (s.live.moduleByte (48 + u.val) 92) 6 = true → s.live.mode.modulesRun = true →
    ∃ t, exec (.moduleDdmRead u ddm alarms) s = .next t ∧ s.only [.store] t ∧
      s.live.cellsBut [Obj.key .MODULE_DDM (48 + u.val) 0 0, Obj.key .MODULE_ALARMS (48 + u.val) 0 0] t.live ∧
      t.live.rd .MODULE_DDM (48 + u.val) = beVal (slice ddm 0 10) % 256 ^ 10 ∧
      t.live.rd .MODULE_ALARMS (48 + u.val) = beVal (slice alarms 0 4) % 256 ^ 4)

/-- Flow control and queue upkeep of one port (R237 to R245, R379, R431, R433). What a command does to the port comes first; then
the port is offered its next frame (`Live.kick`). -/
def Obligations.FlowControlAndQueues : Prop :=
  (∀ (s : State) (p : Fin 52) (vector : Nat) (times : List Nat), s.live.receives p.val = true →
    let f := pfcBytes (vector % 256) fun q => times.getD q 0
    let on := s.live.rd .PFC_RX_ENABLE p.val
    let n := ((s.live.count .PFC_RX_FRAMES 1 p.val).blk (macBlock p.val) .signalA 1 p.val).count .PFC_RX_IGNORED
      ((members 8 (pfcVector f)).filter fun q => !bit on q).length p.val
    let m := n.forL ((members 8 (pfcVector f)).filter fun q => bit on q && !bit (s.live.rd .STORM_ACTIVE p.val) q) fun l q =>
      l.setPause p.val q (pfcTime f q)
    ∃ t, exec (.pfcFrameReceived p vector times) s = .next t ∧ s.only [.store, .plane, .events] t ∧ t.live = m.kick p.val ∧
      (∀ q, q < 8 → (m.portRt p.val).pause.get q =
        if bit (pfcVector f) q ∧ bit on q ∧ ¬ bit (s.live.rd .STORM_ACTIVE p.val) q then pfcTime f q
        else (s.live.portRt p.val).pause.get q) ∧
      ∀ r, r ≠ p.val → m.portRt r = s.live.portRt r) ∧
  (∀ (s : State) (p : Fin 52) (q : Fin 8), (s.live.portRt p.val).pause.get q.val ≠ 0 → s.live.mode ≠ .freeze →
    let m := s.live.setPause p.val q.val 0
    ∃ t, exec (.pauseTimerExpiry p q) s = .next t ∧ s.only [.store, .plane, .events] t ∧ t.live = m.kick p.val ∧
      s.live.cellsBut [Obj.key .PAUSED_RX p.val 0 0] m ∧
      m.rd .PAUSED_RX p.val = setBit (s.live.rd .PAUSED_RX p.val) q.val false % 256 ^ 4 ∧
      m.portRt p.val = { s.live.portRt p.val with pause := (s.live.portRt p.val).pause.put q.val 0, whole := setBit (s.live.portRt p.val).whole q.val false } ∧
      ∀ r, r ≠ p.val → m.portRt r = s.live.portRt r) ∧
  (∀ (s : State) (p : Fin 52) (q : Fin 8), bit (s.live.rd .XOFF_TX p.val) q.val = true → s.live.receives p.val = true →
    (s.live.portRt p.val).tx ≠ none →
    ∃ t, exec (.pfcRefresh p q) s = .next t ∧ s.only [.plane] t ∧
      t.live.portRt p.val = { s.live.portRt p.val with pfcDue := setBit (s.live.portRt p.val).pfcDue q.val true } ∧
      ∀ r, r ≠ p.val → t.live.portRt r = s.live.portRt r) ∧
  (∀ (s : State) (p : Fin 52) (q : Fin 8), s.live.rdB .STORM_ENABLE p.val = true →
    bit (s.live.rd .STORM_ACTIVE p.val) q.val = false → 1600 ≤ s.live.stormBeats p.val q.val → s.live.mode.engineOn = true →
    let m := (((((s.live.wr .STORM_ACTIVE (setBit (s.live.rd .STORM_ACTIVE p.val) q.val true) p.val).count .STORM_TRIPS 1 p.val).setStormBeats
      p.val q.val 8000).setPause p.val q.val 0).recoveryStart 4 (8 * p.val + q.val) (s.live.portOwner p.val)).raise 256
      (u8 p.val ++ u8 q.val) (s.live.portOwner p.val)
    ∃ t, exec (.pfcStormTrip p q) s = .next t ∧ s.only [.store, .plane, .events, .recoveries] t ∧ t.live = m.kick p.val ∧
      m.rd .STORM_ACTIVE p.val = setBit (s.live.rd .STORM_ACTIVE p.val) q.val true % 256 ^ 4 ∧
      (m.portRt p.val).pause.get q.val = 0 ∧
      s.live.occ 256 (u8 p.val ++ u8 q.val) (s.live.portOwner p.val) ∈ m.events.arisen ∧
      ∀ r, r ≠ p.val → m.portRt r = s.live.portRt r) ∧
  (∀ (s : State) (p : Fin 52) (q : Fin 8), bit (s.live.rd .STORM_ACTIVE p.val) q.val = true →
    s.live.stormBeats p.val q.val = 0 → s.live.mode.engineOn = true →
    s.live.recoveries.active = [] → s.live.recoveries.done = [] →
    let m := (s.live.wr .STORM_ACTIVE (setBit (s.live.rd .STORM_ACTIVE p.val) q.val false) p.val).raise 257 []
      (s.live.portOwner p.val)
    ∃ t, exec (.pfcStormClear p q) s = .next t ∧ s.only [.store, .plane, .events] t ∧ t.live = m.kick p.val ∧
      s.live.cellsBut [Obj.key .STORM_ACTIVE p.val 0 0] m ∧
      m.rd .STORM_ACTIVE p.val = setBit (s.live.rd .STORM_ACTIVE p.val) q.val false % 256 ^ 4 ∧
      s.live.arose m [s.live.occ 257 [] (s.live.portOwner p.val)]) ∧
  (∀ (s : State) (t0 : Nat), s.live.plane.reclaim = some t0 → t0 + 768 ≤ s.live.ticks → s.live.mode ≠ .freeze →
    ∃ t, exec .reclaimPassDone s = .next t ∧ s.only [.store, .plane] t ∧
      s.live.cellsBut [Obj.key .CELLS_FREE 0 0 0, Obj.key .CELLS_FREE_LOW 0 0 0, Obj.key .ENTRIES_FREE 0 0 0] t.live ∧
      t.live.plane = { s.live.plane with reclaim := none, reclaimCells := 0 } ∧
      t.live.rd .CELLS_FREE = t.live.cellsFree % 256 ^ 4) ∧
  (∀ (s : State) (p : Fin 56) (mask : Nat), s.live.mode.engineOn = true →
    ∃ t, exec (.flush p mask) s = .next t ∧ s.only [.store, .plane, .events] t ∧
      t.live.rd .LAST_FLUSH_BEAT p.val = s.live.now % 256 ^ 8 ∧
      ∃ n tn, s.live.occ 416 (u8 p.val ++ u64 (mask % 256) ++ u32 n) tn ∈ t.live.events.arisen) ∧
  (∀ (s : State) (p : Fin 56) (mask : Nat), s.live.mode.engineOn = true →
    ∃ t, exec (.histClear p mask) s = .next t ∧ s.only [.plane] t ∧
      ∀ k, (k / 16 ∈ (members 8 mask).map (8 * p.val + ·) → t.live.plane.hist.get k = 0) ∧
        (k / 16 ∉ (members 8 mask).map (8 * p.val + ·) → t.live.plane.hist.get k = s.live.plane.hist.get k))

/-- What the supervisor and firmware do about the unit itself (R682, R708, R710 to R715). -/
def Obligations.UnitSupervision : Prop :=
  (∀ s : State, s.live.mode.engineOn = true →
    ∃ t, exec .withdrawnClear s = .next t ∧ s.only [.store] t ∧
      s.live.cellsBut [Obj.key .GUARANTEES 0 0 0, Obj.key .WITHDRAWN_CAUSE 0 0 0, Obj.key .WITHDRAWN_BEAT 0 0 0] t.live ∧
      t.live.rd .GUARANTEES = 0 ∧ t.live.rd .WITHDRAWN_CAUSE = 0 ∧ t.live.rd .WITHDRAWN_BEAT = 0) ∧
  (∀ s : State, s.live.mode ≠ .off → s.live.mode ≠ .dormant → s.live.mode ≠ .listen →
    ∃ t, exec .ledTest s = .next t ∧ s.only [.enclosure] t ∧
      t.live.enclosure = { s.live.enclosure with ledTest := some s.live.ticks }) ∧
  (∀ (s : State) (t0 : Nat), s.live.enclosure.ledTest = some t0 → t0 + 8000 ≤ s.live.ticks →
    ∃ t, exec .ledTestEnd s = .next t ∧ s.only [.enclosure] t ∧ t.live.enclosure = { s.live.enclosure with ledTest := none }) ∧
  (∀ (s : State) (k : Fin 8), s.live.mode ≠ .off → s.live.sensorPowered k.val = true → 8 ≤ s.live.enclosure.silent.get k.val →
    ∃ t, exec (.sensorFault k) s = .next t ∧ s.only [.store] t ∧ t.live.rd .STATE_1990 k.val = 3 ∧
      s.live.cellsBut [Obj.key .STATE_1990 k.val 0 0, Obj.key .CASE_TEMP 0 0 0, Obj.key .CASE_TEMP 1 0 0] t.live) ∧
  (∀ (s : State) (k : Fin 8), s.live.rd .STATE_1990 k.val = 3 →
    ∃ t, exec (.sensorReportRestored k) s = .next t ∧ s.only [.store, .enclosure] t ∧
      t.live.enclosure = { s.live.enclosure with silent := s.live.enclosure.silent.put k.val 0 } ∧
      t.live.rd .STATE_1990 k.val = s.live.sensorJudge k.val 0 (s.live.rdI .VALUE k.val) ∧
      s.live.cellsBut [Obj.key .STATE_1990 k.val 0 0, Obj.key .CASE_TEMP 0 0 0, Obj.key .CASE_TEMP 1 0 0] t.live) ∧
  (∀ s : State, s.live.mode ≠ .off → s.live.rdB .TRAY_PRESENT = true →
    ∃ t, exec (.trayPresenceChange false) s = .next t ∧ s.only [.store, .enclosure] t ∧
      t.live.enclosure = { s.live.enclosure with misses := [] } ∧
      t.live.rd .TRAY_PRESENT = 0 ∧ t.live.rd .FAN_FAILED = 7 ∧ t.live.rd .FAN_LEVEL = 15 ∧
      s.live.cellsBut [Obj.key .TRAY_PRESENT 0 0 0, Obj.key .FAN_FAILED 0 0 0, Obj.key .FAN_LEVEL 0 0 0] t.live) ∧
  (∀ s : State, s.live.mode ≠ .off → s.live.rdB .TRAY_PRESENT = false →
    ∃ t, exec (.trayPresenceChange true) s = .next t ∧ s.only [.store, .enclosure] t ∧ t.live.rd .TRAY_PRESENT = 1 ∧
      t.live.enclosure = { s.live.enclosure with misses := [] } ∧ s.live.cellsBut [Obj.key .TRAY_PRESENT 0 0 0] t.live) ∧
  (∀ (s : State) (tach : List (Nat × Nat)), s.live.mode ≠ .off → s.live.fansWait = false → s.live.elapsed % 8000 = 0 →
    s.live.enclosure.evaluated ≠ some s.live.ticks → s.live.rdB .TRAY_PRESENT = false →
    ∃ t, exec (.fanEvaluation tach) s = .next t ∧ s.only [.store, .enclosure] t ∧
      t.live.enclosure = { s.live.enclosure with evaluated := some s.live.ticks } ∧ t.live.rd .FAN_LEVEL = 15 ∧
      s.live.cellsBut [Obj.key .FAN_LEVEL 0 0 0] t.live) ∧
  (∀ (s : State) (tach : List (Nat × Nat)), s.live.mode ≠ .off → s.live.fansWait = false → s.live.elapsed % 8000 = 0 →
    s.live.enclosure.evaluated ≠ some s.live.ticks → s.live.rd .FAN_LEVEL ≤ 15 →
    ∃ t, exec (.fanEvaluation tach) s = .next t ∧ s.only [.store, .enclosure] t ∧
      t.live.enclosure.evaluated = some s.live.ticks ∧
      s.live.rd .FAN_LEVEL ≤ t.live.rd .FAN_LEVEL + 1 ∧ t.live.rd .FAN_LEVEL ≤ 15) ∧
  (∀ s : State, s.live.mode ≠ .off → 1250 ≤ s.live.rdI .VALUE 2 →
    ∃ t, exec .thermalTrip s = .next t ∧ t.start = s.start ∧ t.pending = s.pending ∧ t.live.beat = s.live.beat ∧
      t.live.mode = .off ∧ t.live.enclosure.trip = some s.live.now) ∧
  (∀ (s : State) (t0 : Nat), s.live.enclosure.trip = some t0 →
    ∃ t, exec .thermalTripRestore s = .next t ∧ t.start = s.start ∧ t.pending = s.pending ∧
      t.live.mode = .bringup ∧ t.live.enclosure.trip = none ∧ t.live.enclosure.tripped = true)

/-- The commands of a tenancy, with what the end of the commit phase computes (R170, R179, R181, R189). -/
def Obligations.TenancyLifecycle : Prop :=
  (∀ (s : State) (n : Fin 7), s.live.mode.engineOn = true → s.live.rd .TN_STATE (tnOf n) = 0 →
    exec (.tnCreate n) s = .next (s.withLive
      ((s.live.setTn (tnOf n) 1).raise 19 (u8 (tnOf n)) (tnOf n)).markDirty.tenanciesSettle)) ∧
  (∀ (s : State) (n : Fin 7) (w : TnWipe), s.live.mode.engineOn = true → s.live.rd .TN_STATE (tnOf n) = 2 →
    s.live.tnWipe (tnOf n) = some w →
    exec (.tnCreate n) s = .next (s.withLive
      (s.live.setWipe (tnOf n) (some { w with create := true })).markDirty.tenanciesSettle)) ∧
  (∀ (s : State) (n : Fin 7), s.live.mode.engineOn = true → s.live.rd .TN_STATE (tnOf n) = 1 →
    exec (.tnCreate n) s = .next (s.withLive s.live.tenanciesSettle)) ∧
  (∀ (s : State) (n : Fin 7), s.live.mode.engineOn = true → (∀ f, f < 8 → (s.live.ring f 8).taken = []) →
    exec (.tnReset n) s = .next (s.withLive (if s.live.rd .TN_STATE (tnOf n) = 1
      then (s.live.wipeStart (tnOf n) .reset).markDirty.deliver.tenanciesSettle else s.live.deliver.tenanciesSettle))) ∧
  (∀ (s : State) (n : Fin 7), s.live.mode.engineOn = true → (∀ f, f < 8 → (s.live.ring f 8).taken = []) →
    exec (.tnDelete n) s = .next (s.withLive (if s.live.rd .TN_STATE (tnOf n) = 1
      then (s.live.wipeStart (tnOf n) .delete).markDirty.deliver.tenanciesSettle else s.live.deliver.tenanciesSettle))) ∧
  (∀ (s : State) (n : Fin 7) (w : TnWipe), s.live.tnWipe (tnOf n) = some w → w.endsAt ≤ s.live.ticks →
    s.live.mode.engineOn = true →
    ∃ t, exec (.tenancyWipeEnd n) s = .next t ∧ t.start = s.start ∧ t.pending = s.pending ∧ t.live.modes.dirtySince = true ∧
      t.live = (s.live.wipeEnd (tnOf n) w).markDirty.tenanciesSettle) ∧
  (∀ (l : Live) (n st : Nat), st < 256 → (l.setTn n st).rd .TN_STATE n = st) ∧
  (∀ l : Live, l.markDirty.modes = { l.modes with dirtySince := true } ∧ l.markDirty.rd .STORED_DIRTY = 1 ∧
    l.cellsBut [Obj.key .STORED_DIRTY 0 0 0] l.markDirty)

/-- Power modules and the tokens of the silicon budget (R136, R191 to R202). -/
def Obligations.PowerModulesAndTokens : Prop :=
  (∀ (s : State) (b : Fin 2) (dc : Bool) (volts hz : Nat) (inlet : Int) (serial : Nat),
    b.val < bays → (s.live.power.modules.get b.val).fitted = false → s.live.mode.evaluates = true →
    ∃ t, exec (.psuInserted b dc volts hz inlet serial) s = .next t ∧ s.only [.power, .events] t ∧
      t.live.power = { s.live.power with modules := s.live.power.modules.put b.val { report := if inputInRange dc volts hz then firstLine dc volts else modAbsent, fitted := true, kind := dc.toNat, volts := volts, hz := if dc then 0 else hz, inlet := inlet, serial := serial % 2 ^ 96 } } ∧
      s.live.arose t.live [s.live.occ 96 (u8 b.val)]) ∧
  (∀ (s : State) (b : Fin 2) (m : Module), s.live.power.modules.get b.val = m →
    b.val < bays → m.fitted = true → m.leaving = false → s.live.mode.evaluates = true →
    ∃ t, exec (.psuRemoved b) s = .next t ∧ s.only [.power, .events] t ∧
      t.live.power = { s.live.power with modules := s.live.power.modules.put b.val (if m.report = modAbsent then {} else { m with report := modFailed, leaving := true }) } ∧
      s.live.arose t.live [s.live.occ 97 (u8 b.val)]) ∧
  (∀ (s : State) (b : Fin 2) (volts : Nat) (m : Module), s.live.power.modules.get b.val = m →
    m.report = modHigh → m.kind = 0 → volts < 1760 → 850 ≤ volts →
    ∃ t, exec (.moduleLineFall b volts) s = .next t ∧ s.only [.power] t ∧
      t.live.power = { s.live.power with modules := s.live.power.modules.put b.val { m with report := modLow, volts := volts, aboveSince := none } }) ∧
  (∀ (s : State) (b : Fin 2) (t0 : Nat) (m : Module), s.live.power.modules.get b.val = m →
    m.report = modLow → m.aboveSince = some t0 → t0 + 8000 ≤ s.live.ticks →
    ∃ t, exec (.moduleLineRise b) s = .next t ∧ s.only [.power] t ∧
      t.live.power = { s.live.power with modules := s.live.power.modules.put b.val { m with report := modHigh, aboveSince := none } }) ∧
  (∀ (s : State) (b : Fin 2) (m : Module), s.live.power.modules.get b.val = m →
    m.carries = true → s.live.otherCarries b.val = true → s.live.mode.evaluates = true →
    ∃ t, exec (.psuPowerFailWarning b) s = .next t ∧ s.only [.power, .events] t ∧
      t.live.power = { s.live.power with modules := s.live.power.modules.put b.val { m with report := modWarning, aboveSince := none } } ∧
      s.live.arose t.live [s.live.occ 99 (u8 b.val)]) ∧
  (∀ (s : State) (b : Fin 2), (s.live.power.modules.get b.val).carries = true → s.live.otherCarries b.val = false →
    s.live.mode ≠ .off →
    ∃ t, exec (.psuPowerFailWarning b) s = .next t ∧ s.only [.store, .modes, .power, .events] t ∧
      t.live = ((s.live.setModule b.val fun m => { m with report := modWarning, aboveSince := none }).raise 99 (u8 b.val)).shutdownRecord 0) ∧
  (∀ (s : State) (b : Fin 2) (m : Module), s.live.power.modules.get b.val = m →
    m.report ≠ modAbsent →
    ∃ t, exec (.psuFailed b) s = .next t ∧ s.only [.power] t ∧
      t.live.power = { s.live.power with modules := s.live.power.modules.put b.val { m with report := modFailed, aboveSince := none } }) ∧
  (∀ (s : State) (b : Fin 2) (volts hz : Nat) (m : Module), s.live.power.modules.get b.val = m →
    m.report ≠ modAbsent → m.leaving = false → inputInRange (m.kind == 1) volts hz = false →
    ∃ t, exec (.psuInputOutOfRange b volts hz) s = .next t ∧ s.only [.power] t ∧
      t.live.power = { s.live.power with modules := s.live.power.modules.put b.val { m with report := modOutOfRange, volts := volts, hz := if m.kind = 1 then 0 else hz, aboveSince := none } }) ∧
  (∀ (s : State) (b : Fin 2) (dc : Bool) (volts hz : Nat) (m : Module), s.live.power.modules.get b.val = m →
    m.fitted = true → m.carries = false → m.leaving = false →
    inputInRange dc volts hz = true → s.live.otherCarries b.val = false →
    ∃ t, exec (.mainsRestored b dc volts hz) s = .next t ∧ s.only [.power] t ∧
      t.live.power = { s.live.power with modules := s.live.power.modules.put b.val { m with report := firstLine dc volts, kind := dc.toNat, volts := volts, hz := if dc then 0 else hz, aboveSince := none } }) ∧
  (∀ (s : State) (r : Fin 4), s.live.mode.engineOn = true → s.live.siliconWants r.val = true → s.live.token r.val = 0 →
    s.live.power.waiting.get r.val = none →
    ∃ t, exec (.siliconRequest r) s = .next t ∧ s.only [.power] t ∧
      t.live.power = { s.live.power with waiting := s.live.power.waiting.put r.val (some 0) }) ∧
  (∀ (s : State) (r : Fin 4), s.live.siliconEnds r.val = true →
    ∃ t, exec (.siliconRelease r) s = .next t ∧ s.only [.store, .power] t ∧
      t.live = (s.live.setToken r.val 0).setPower fun p => { p with waiting := p.waiting.del r.val })

/-- What PoE ports do at their events (R203 to R217). -/
def Obligations.PoePortsMoveByTheirEvents : Prop :=
  (∀ (s : State) (k : Fin 48) (cls : Fin 9) (second : Option (Fin 9)) (type : Fin 5), s.live.rd .STATE_0340 k.val = poeSearching →
    ∃ t, exec (.pdClassified k cls second type) s = .next t ∧ s.only [.store, .power] t ∧ s.live.cellsBut (poeCells k.val) t.live ∧
      t.live.rd .STATE_0340 k.val = poeWaiting ∧ t.live.rd .REASON k.val = 0 ∧ t.live.rd .CLASS k.val = cls.val ∧
      t.live.rd .PD_TYPE k.val = type.val + (if second.isSome then 0x80 else 0) ∧
      t.live.power = { s.live.power with ports := s.live.power.ports.put k.val { s.live.power.ports.get k.val with class2 := second.map Fin.val } }) ∧
  (∀ (s : State) (k : Fin 48), s.live.rd .STATE_0340 k.val = poePowered → s.live.mode.evaluates = true →
    ∃ t, exec (.pdRemoved k) s = .next t ∧ s.only [.store, .power, .events] t ∧ s.live.cellsBut (poeCells k.val) t.live ∧
      t.live.rd .STATE_0340 k.val = poeSearching ∧ t.live.rd .REASON k.val = 9 ∧ t.live.rd .CLASS k.val = 255 ∧
      s.live.arose t.live [s.live.occ (128 + k.val) (u8 poeSearching ++ u8 9) (s.live.portOwner k.val)]) ∧
  (∀ (s : State) (k : Fin 48) (short : Bool), s.live.rd .STATE_0340 k.val = poePowered → s.live.mode.evaluates = true →
    ((s.live.power.ports.get k.val).faults.filter fun t => s.live.ticks ≤ t + 480000).length < 3 →
    ∃ t, exec (.pdFault k short) s = .next t ∧ s.only [.store, .power, .events] t ∧ s.live.cellsBut (poeCells k.val) t.live ∧
      t.live.rd .STATE_0340 k.val = poeSearching ∧ t.live.rd .REASON k.val = (if short then 7 else 6) ∧
      t.live.rd .FAULTS_IN_WINDOW k.val =
        ((s.live.power.ports.get k.val).faults.filter fun t => s.live.ticks ≤ t + 480000).length + 1) ∧
  (∀ (s : State) (k : Fin 48) (short : Bool), s.live.rd .STATE_0340 k.val = poePowered → s.live.mode.evaluates = true →
    3 ≤ ((s.live.power.ports.get k.val).faults.filter fun t => s.live.ticks ≤ t + 480000).length → s.live.rd .BACKOFF_LEVEL k.val ≤ 4 →
    ∃ t, exec (.pdFault k short) s = .next t ∧ s.only [.store, .power, .events] t ∧ s.live.cellsBut (poeCells k.val) t.live ∧
      t.live.rd .STATE_0340 k.val = poeHold ∧ t.live.rd .REASON k.val = 10 ∧
      t.live.rd .HOLD_REMAINING k.val = 240000 * 2 ^ s.live.rd .BACKOFF_LEVEL k.val ∧
      (t.live.power.ports.get k.val).holdEnd = some (s.live.ticks + 240000 * 2 ^ s.live.rd .BACKOFF_LEVEL k.val)) ∧
  (∀ (s : State) (k : Fin 48), s.live.rd .STATE_0340 k.val = poePowered → s.live.mode.evaluates = true →
    (s.live.power.ports.get k.val).onTick + 800 ≤ s.live.ticks → (s.live.power.ports.get k.val).drawn = false →
    ((s.live.power.ports.get k.val).faults.filter fun t => s.live.ticks ≤ t + 480000).length < 3 →
    ∃ t, exec (.faultStartup k) s = .next t ∧ s.only [.store, .power, .events] t ∧ s.live.cellsBut (poeCells k.val) t.live ∧
      t.live.rd .STATE_0340 k.val = poeSearching ∧ t.live.rd .REASON k.val = 8) ∧
  (∀ (s : State) (k : Fin 48) (t0 : Nat), s.live.rd .STATE_0340 k.val = poeHold → s.live.mode.evaluates = true →
    (s.live.power.ports.get k.val).holdEnd = some t0 → t0 ≤ s.live.ticks →
    ∃ t, exec (.holdEnd k) s = .next t ∧ s.only [.store, .power, .events] t ∧ s.live.cellsBut (poeCells k.val) t.live ∧
      t.live.rd .STATE_0340 k.val = poeSearching ∧ t.live.rd .REASON k.val = 0 ∧ t.live.rd .FAULTS_IN_WINDOW k.val = 0 ∧
      t.live.rd .BACKOFF_LEVEL k.val = min 4 (s.live.rd .BACKOFF_LEVEL k.val + 1) ∧
      (t.live.power.ports.get k.val).faults = [] ∧ (t.live.power.ports.get k.val).holdEnd = none) ∧
  (∀ (s : State) (k : Fin 48), s.live.rd .STATE_0340 k.val = poePowered →
    (s.live.power.ports.get k.val).onTick + 4800000 ≤ s.live.ticks →
    ∃ t, exec (.backoffLevelReset k) s = .next t ∧ s.only [.store] t ∧ s.live.cellsBut [Obj.key .BACKOFF_LEVEL k.val 0 0] t.live ∧
      t.live.rd .BACKOFF_LEVEL k.val = 0) ∧
  (∀ (s : State) (k : Fin 48) (watts : Nat), s.live.rd .STATE_0340 k.val = poePowered → s.live.rdB .LLDP_POWER k.val = true → watts ≠ 0 →
    ∃ t, exec (.lldpPowerRequest k watts) s = .next t ∧ s.only [.power] t ∧
      t.live.power = { s.live.power with ports := s.live.power.ports.put k.val { s.live.power.ports.get k.val with request := some watts } }) ∧
  (∀ (s : State) (ports : Nat), s.live.power.pseFault ||| ports % 2 ^ 48 ≠ allPorts48 →
    ∃ t, exec (.pseControllerFault ports) s = .next t ∧ s.only [.power] t ∧
      t.live.power = { s.live.power with pseFault := s.live.power.pseFault ||| ports % 2 ^ 48 }) ∧
  (∀ (s : State) (ports : Nat),
    ∃ t, exec (.pseControllerFaultClear ports) s = .next t ∧ s.only [.power] t ∧
      t.live.power = { s.live.power with pseFault := s.live.power.pseFault - (s.live.power.pseFault &&& ports % 2 ^ 48) })

/-- Mode requests and restarts (R131 to R153), in states where nothing of higher precedence is in the way. -/
def Obligations.ModeRequestsAndRestarts : Prop :=
  (∀ s : State, s.live.quiet → s.live.mode.running = true →
    ∃ t, exec .modeRequestConfigure s = .next t ∧ t.start = s.start ∧ t.pending = s.pending ∧ t.live.mode = .configure) ∧
  (∀ s : State, s.live.quiet → s.live.mode = .configure → s.live.rd .LC_STATE = 2 → s.live.freezeCause = false →
    ∃ t, exec .modeRequestService s = .next t ∧ t.start = s.start ∧ t.pending = s.pending ∧ t.live.mode.running = true) ∧
  (∀ s : State, s.live.quiet → s.live.mode.leaves = true → s.live.freezeCause = false →
    ∃ t, exec .modeRequestListen s = .next t ∧ t.start = s.start ∧ t.pending = s.pending ∧ t.live.mode = .listen) ∧
  (∀ s : State, s.live.quiet → s.live.mode.leaves = true → s.live.freezeCause = false → s.live.partialMatch = false →
    s.live.modes.dormantAsked = none →
    ∃ t, exec .modeRequestDormant s = .next t ∧ t.start = s.start ∧ t.pending = s.pending ∧ t.live.mode = .dormant) ∧
  (∀ s : State, s.live.quiet → s.live.mode.leaves = true →
    ∃ t, exec .modeRequestFreeze s = .next t ∧ t.start = s.start ∧ t.pending = s.pending ∧ t.live.mode = .freeze) ∧
  (∀ s : State, s.live.modes.dormantAsked.isSome = true → (s.live.mode.leaves = true ∨ s.live.mode = .listen) →
    s.live.partialMatch = false →
    ∃ t, exec .dormantEntry s = .next t ∧ t.start = s.start ∧ t.pending = s.pending ∧ t.live.mode = .dormant) ∧
  (∀ (s : State) (line : Fin 52), s.live.mode = .dormant ∨ s.live.mode = .listen → s.live.modes.wake = none →
    ∃ t, exec (.wake 0 line) s = .next t ∧ s.only [.modes] t ∧
      t.live.modes = { s.live.modes with wake := some 0, wakeAt := s.live.ticks }) ∧
  (∀ (s : State) (line : Fin 16), s.live.mode = .dormant → bit (s.live.rd .WAKE_SOURCES) 1 = true →
    bit (s.live.rd .WAKE_GPIO_MASK) line.val = true → s.live.modes.wake = none →
    ∃ t, exec (.wake 1 ⟨line.val, by omega⟩) s = .next t ∧ s.only [.modes] t ∧
      t.live.modes = { s.live.modes with wake := some 1, wakeAt := s.live.ticks }) ∧
  (∀ s : State, s.live.modes.acted = false → s.live.modes.goTo ≠ some .wipe → (s.live.mode.leaves = true ∨ s.live.mode = .freeze) →
    ∃ t, exec .warmRestart s = .next t ∧ t.start = s.start ∧ t.pending = s.pending ∧ t.live.mode = .bringup) ∧
  (∀ s : State, (s.live.mode.leaves = true ∨ s.live.mode = .freeze ∨ s.live.mode = .decommissioned) →
    ∃ t, exec .watchdogRestart s = .next t ∧ s.only [.modes] t ∧
      t.live.modes = { s.live.modes with restart := some (s.live.modes.restart.getD 2) }) ∧
  (∀ s : State, s.live.trialExpired = true → (s.live.mode.leaves = true ∨ s.live.mode = .freeze ∨ s.live.mode = .decommissioned) →
    ∃ t, exec .trialRevert s = .next t ∧ t.start = s.start ∧ t.pending = s.pending ∧ t.live.mode = .bringup)

/-- Power, start-up, life cycle and images (R26 to R31, R131, R142 to R164). What is verified with a key that the manual does
not give enters by cases of the verdict. -/
def Obligations.StartUpAndLifeCycle : Prop :=
  (∀ s : State, s.live.mode = .off → s.live.anyCarries = true → s.live.enclosure.trip = none →
    ∃ t, exec .powerOnReset s = .next t ∧ t.start = s.start ∧ t.pending = s.pending ∧ t.live.mode = .bringup) ∧
  (∀ s : State, s.live.mode ≠ .off → s.live.anyCarries = false →
    ∃ t, exec .mainsCollapse s = .next t ∧ t.start = s.start ∧ t.pending = s.pending ∧ t.live.mode = .off ∧ t.live.beat = s.live.beat) ∧
  (∀ s : State, s.live.mode ≠ .off → ((List.range bays).filter fun b => (s.live.power.modules.get b).carries) = [] →
    ∃ t, exec .powerFailWarning s = .next t ∧ s.only [.modes] t ∧ t.live.modes = { s.live.modes with shutdown := some { beat := s.live.now, mode := s.live.mode.code, causes := s.live.rd .MODE_CAUSES, reason := 0 } }) ∧
  (∀ (s : State) (b : Nat), ((List.range bays).filter fun b => (s.live.power.modules.get b).carries) = [b] →
    ∃ t, exec .powerFailWarning s = .next t ∧ s.only [.store, .modes, .power, .events] t ∧ t.live = s.live.powerFailWarning b) ∧
  (∀ s : State, s.live.mode = .bringup → s.live.modes.imageOk = false → s.live.modes.recovery = false → s.live.modes.revert = false →
    s.live.rd .BOOT_PREFERENCE < 2 →
    ∃ t, exec .imageAccepted s = .next t ∧ s.only [.store, .modes, .events] t ∧
      if s.live.slotVerdict (s.live.rd .BOOT_PREFERENCE) = 2 then
        t.live.modes.imageOk = true ∧ t.live.rd .RUNNING_IMAGE = s.live.rd .BOOT_PREFERENCE
      else if s.live.slotVerdict (1 - s.live.rd .BOOT_PREFERENCE) = 2 then
        t.live.modes.imageOk = true ∧ t.live.rd .RUNNING_IMAGE = 1 - s.live.rd .BOOT_PREFERENCE
      else t.live.modes.recovery = true) ∧
  (∀ s : State, s.live.mode = .bringup → s.live.modes.trained = false → s.live.modes.trainingFails < 3 →
    ∃ t, exec (.dramTrainingDone true) s = .next t ∧ s.only [.store, .modes] t ∧
      t.live.modes = { s.live.modes with trained := true } ∧ t.live.rd .STATE_1302 0 = chActive ∧ t.live.rd .STATE_1302 1 = chActive ∧
      s.live.cellsBut [Obj.key .STATE_1302 0 0 0, Obj.key .STATE_1302 1 0 0] t.live) ∧
  (∀ s : State, s.live.mode = .bringup → s.live.modes.trained = false → s.live.modes.trainingFails < 2 →
    ∃ t, exec (.dramTrainingDone false) s = .next t ∧ s.only [.modes] t ∧
      t.live.modes = { s.live.modes with trainingFails := s.live.modes.trainingFails + 1 }) ∧
  (∀ s : State, s.live.mode = .bringup → s.live.modes.imageOk = true → s.live.modes.storedLoaded = false →
    s.live.rd .LC_PENDING = 0xFF → s.live.rd .LC_STATE ≠ 3 →
    ∃ t, exec .storedSetLoad s = .next t ∧ s.only [.store, .modes, .power, .plane, .events] t ∧
      t.live.modes.storedLoaded = true ∧ t.live.modes.dirtySince = false ∧ t.live.rd .STORED_DIRTY = 0) ∧
  (∀ s : State, s.live.mode = .bringup → s.live.modes.trained = true →
    ∃ t, exec .zeroFillComplete s = .next t ∧ s.only [.modes] t ∧ t.live.modes = { s.live.modes with filled := true }) ∧
  (∀ s : State, s.live.mode = .bringup → s.live.modes.imageOk = true → s.live.rd .LC_PENDING = 0xFF → s.live.rd .LC_STATE ≠ 3 →
    s.live.modes.storedLoaded = true → s.live.modes.trained = true → s.live.modes.filled = true →
    ∃ t, exec .configureEntry s = .next t ∧ t.start = s.start ∧ t.pending = s.pending ∧ t.live.mode = .configure ∧
      t.live.beat.number = s.live.beat.number) ∧
  (∀ s : State, s.live.modes.acted = false → s.live.rd .LC_STATE = 1 → s.live.mode = .configure →
    ∃ t, exec (.lcCommission (s.live.rd .LC_CHALLENGE)) s = .next t ∧ t.start = s.start ∧ t.pending = s.pending ∧ t.live.mode = .wipe) ∧
  (∀ s : State, s.live.modes.acted = false → s.live.rd .LC_STATE = 2 → s.live.mode.leaves = true →
    ∃ t, exec (.lcDecommission (s.live.rd .LC_CHALLENGE)) s = .next t ∧ t.start = s.start ∧ t.pending = s.pending ∧ t.live.mode = .wipe) ∧
  (∀ (s : State) (auth : List Byte), s.live.modes.acted = false → s.live.rd .LC_STATE = 3 → s.live.mode = .decommissioned →
    s.live.modes.restart = none → s.live.modes.goTo = none →
    ∃ t, exec (.lcVendorReset (s.live.rd .LC_CHALLENGE) auth) s = .next t ∧ t.start = s.start ∧ t.pending = s.pending ∧
      t.live.mode = if vendorAuth (s.live.rd .LC_CHALLENGE) auth then .wipe else .decommissioned) ∧
  (∀ s : State, s.live.mode ≠ .off → s.live.elapsed % 8000 = 0 → s.live.modes.challengeAt ≠ s.live.ticks →
    ∃ t, exec .lcChallengeUpdate s = .next t ∧ s.only [.store, .modes] t ∧ s.live.cellsBut [Obj.key .LC_CHALLENGE 0 0 0] t.live ∧
      t.live.rd .LC_CHALLENGE = Config.generator 2 (s.live.rd .FABRIC_SEED) s.live.now 0 % 2 ^ 32 ∧
      t.live.modes = { s.live.modes with oldChallenge := s.live.rd .LC_CHALLENGE, challengeAt := s.live.ticks }) ∧
  (∀ s : State, s.live.mode = .wipe → s.live.modes.wipeAttempts < 3 →
    ∃ t, exec .wipeDone s = .next t ∧ t.start = s.start ∧ t.pending = s.pending ∧ t.live.mode = .bringup) ∧
  (∀ s : State, s.live.mode = .wipe → s.live.modes.wipeAttempts < 3 →
    ∃ t, exec .wipeVerifyFail s = .next t ∧ s.only [.store, .modes, .events] t ∧
      t.live.modes = { s.live.modes with wipeAttempts := s.live.modes.wipeAttempts + 1 }) ∧
  (∀ s : State, s.live.mode.engineOn = true ∨ s.live.mode = .decommissioned →
    ∃ t, exec .imageActivateVerify s = .next t ∧ s.only [.store] t ∧ s.live.cellsBut [Obj.key .IMAGE_STATUS 0 0 0] t.live ∧
      t.live.rd .IMAGE_STATUS = s.live.slotVerdict s.live.otherSlot % 256) ∧
  (∀ s : State, s.live.quiet → s.live.mode.leaves = true →
    ∃ t, exec .imageActivateTrial s = .next t ∧ t.start = s.start ∧ t.pending = s.pending ∧
      (s.live.slotVerdict s.live.otherSlot = 2 → t.live.mode = .bringup)) ∧
  (∀ (s : State) (t0 : Nat), s.live.modes.trialStart = some t0 → s.live.rdB .TRIAL = true →
    s.live.ticks ≤ t0 + s.live.rd .TRIAL_WINDOW → s.live.mode.evaluates = true →
    ∃ t, exec .imageConfirm s = .next t ∧ s.only [.store, .modes, .events] t ∧
      s.live.cellsBut [Obj.key .TRIAL 0 0 0, Obj.key .MIN_SECURITY_VERSION 0 0 0, Obj.key .IMAGE_STATUS 0 0 0] t.live ∧
      t.live.rd .TRIAL = 0 ∧ t.live.rd .IMAGE_STATUS = 2 ∧ t.live.modes = { s.live.modes with trialStart := none } ∧
      s.live.arose t.live [s.live.occ 8])

/-- The commands of the event system (R639 to R665). -/
def Obligations.EventsInputsAndSnapshots : Prop :=
  (∀ (s : State) (g : Fin 20) (tn : Fin 8) (mask : Nat), s.live.mode.engineOn = true →
    ∃ t, exec (.clear g tn mask) s = .next t ∧ s.only [.events] t ∧ ∀ k tn', k < 32 → tn' < 8 →
      t.live.ev (32 * g.val + k) tn' = if bit (mask &&& groupMask g.val) k ∧ tn' = tn.val
        then { s.live.ev (32 * g.val + k) tn' with latched := false } else s.live.ev (32 * g.val + k) tn') ∧
  (∀ (s : State) (g : Fin 20) (tn : Fin 8) (mask : Nat), s.live.mode.engineOn = true →
    ∃ t, exec (.unmask g tn mask) s = .next t ∧ s.only [.events] t ∧ ∀ k tn', k < 32 → tn' < 8 →
      t.live.ev (32 * g.val + k) tn' = if bit (mask &&& groupMask g.val) k ∧ tn' = tn.val
        then { s.live.ev (32 * g.val + k) tn' with masked := false, sent := 0 } else s.live.ev (32 * g.val + k) tn') ∧
  (∀ (s : State) (src : Fin 640) (tn : Fin 8) (o : Occ), s.live.mode.evaluates = true → (s.live.ev src.val tn.val).deferred = some o →
    (s.live.ev src.val tn.val).nextAt ≤ s.live.ticks → s.live.noteDests src.val tn.val ≠ [] →
    exec (.spacingExpiry src tn) s = .next (s.withLive (if (s.live.ev src.val tn.val).masked
      then s.live.setEv src.val tn.val fun e => { e with deferred := none, folded := 0 }
      else s.live.sendNote o true (s.live.ev src.val tn.val).folded))) ∧
  (∀ (s : State) (raw : Nat), s.live.mode ≠ .off →
    ∃ t, exec (.gpioSample raw) s = .next t ∧ s.only [.store, .events] t ∧ ∀ i, i < 16 →
      t.live.rd .RAW_1900 i = (bit raw i ^^ s.live.rdB .INVERT_1900 i).toNat ∧
      (t.live.events.gpio.get i).sample = (bit raw i ^^ s.live.rdB .INVERT_1900 i) ∧
      (t.live.events.gpio.get i).run =
        if (s.live.events.gpio.get i).sample = (bit raw i ^^ s.live.rdB .INVERT_1900 i) then (s.live.events.gpio.get i).run + 1 else 1) ∧
  (∀ (s : State) (i : Fin 16), s.live.gpioDue i.val = true → s.live.beat.strobeArmed = false → s.live.mode.evaluates = true →
    ∃ t, exec (.gpioLevelChange i) s = .next t ∧ s.only [.store, .events] t ∧
      s.live.cellsBut [Obj.key .LEVEL_1900 i.val 0 0, Obj.key .LAST_CHANGE_BEAT_1900 i.val 0 0, Obj.key .CHANGES i.val 0 0,
        Obj.key .WRAPPED_ANY 0 0 0, Obj.key .STUCK i.val 0 0] t.live ∧
      t.live.rd .LEVEL_1900 i.val = (s.live.events.gpio.get i.val).sample.toNat ∧
      s.live.occ (608 + i.val) (u8 i.val ++ u8 (s.live.events.gpio.get i.val).sample.toNat) ∈ t.live.events.arisen) ∧
  (∀ (s : State) (i : Fin 16), s.live.mode.judges = true → s.live.beat.elapsed % s.live.rd .CHATTER_WINDOW i.val = 0 →
    (s.live.events.gpio.get i.val).judgedAt ≠ some s.live.ticks → s.live.mode ≠ .freeze →
    ∃ t, exec (.chatterWindowEnd i) s = .next t ∧ s.only [.store, .events] t ∧
      t.live.rd .CHATTERING i.val = if s.live.rd .CHATTER_TRANSITIONS i.val ≤ (s.live.events.gpio.get i.val).transitions then 1 else 0) ∧
  (∀ (s : State) (i : Fin 16), s.live.mode.judges = true → s.live.rd .STUCK_S i.val ≠ 0 → s.live.rdB .LEVEL_1900 i.val = true →
    s.live.rdB .STUCK i.val = false → (s.live.events.gpio.get i.val).levelSince + 8000 * s.live.rd .STUCK_S i.val ≤ s.live.ticks →
    ∃ t, exec (.gpioStuck i) s = .next t ∧ s.only [.store, .events] t ∧ t.live.rd .STUCK i.val = 1 ∧
      s.live.cellsBut [Obj.key .STUCK i.val 0 0, Obj.key .STUCK_EPISODES i.val 0 0, Obj.key .WRAPPED_ANY 0 0 0] t.live) ∧
  (∀ (s : State) (b : Bank), s.live.events.gathered = some b → s.live.events.copying = none → s.live.mode ≠ .freeze →
    ∃ t, exec .snapshotCapture s = .next t ∧ s.only [.store, .events] t ∧ s.live.cellsBut [Obj.key .SNAPSHOT_BUSY 0 0 0] t.live ∧
      t.live.rd .SNAPSHOT_BUSY = 1 ∧ t.live.events = { s.live.events with gathered := none, copying := some ({ b with postponed := s.live.events.armed.any fun a => a < b.beat, auto := !s.live.events.armed.any fun a => a ≤ b.beat }, s.live.ticks), armed := s.live.events.armed.filter fun a => b.beat < a }) ∧
  (∀ s : State, s.live.events.copying.isSome = true →
    ∃ t, exec .snapshotDone s = .next t ∧ s.only [.events] t ∧ t.live.events = { s.live.events with copied := true }) ∧
  (∀ (l : Live) (b : Bank) (t0 : Nat), l.events.copying = some (b, t0) → l.mode.evaluates = true → l.mode ≠ .freeze →
    l.events.copied = true ∨ t0 + 64 ≤ l.ticks → l.rd .SHOWN_BANK = 0 →
    let seq := (l.rd .SNAPSHOT_SEQ + 1) % 2 ^ 32
    l.cellsBut [Obj.key .SHOWN_BANK 0 0 0, Obj.key .SNAPSHOT_SEQ 0 0 0, Obj.key .SNAPSHOT_BEAT 0 0 0,
      Obj.key .SNAPSHOT_BUSY 0 0 0] l.snapshotShow ∧
    l.snapshotShow.rd .SHOWN_BANK = 1 ∧ l.snapshotShow.rd .SNAPSHOT_SEQ = seq ∧ l.snapshotShow.rd .SNAPSHOT_BUSY = 0 ∧
    l.snapshotShow.events = { l.events with bank1 := { b with seq := seq }, copying := none, copied := false, arisen := l.events.arisen ++ [l.occ 626 (u64 b.beat ++ u32 seq)] }) ∧
  (∀ s : State, s.live.mode.engineOn = true → s.live.modes.storing = none →
    ∃ t, exec .store s = .next t ∧ s.only [.store, .modes] t ∧ s.live.cellsBut [Obj.key .STORED_STATUS 0 0 0] t.live ∧
      t.live.rd .STORED_STATUS = 1 ∧ t.live.modes.dirtySince = false ∧
      ∃ c, t.live.modes.storing = some (s.live.modes.lower, c, s.live.ticks) ∧ c.cells = s.live.capture.cells) ∧
  (∀ (s : State) (k : Nat) (c : StoredCopy) (t0 : Nat) (ok : Bool), s.live.modes.storing = some (k, c, t0) → s.live.mode.evaluates = true →
    ∃ t, exec (.storeDone ok) s = .next t ∧ s.only [.store, .modes, .events] t ∧
      t.live.rd .STORED_STATUS = (if ok then 0 else 2) ∧ t.live.modes.storing = none ∧
      s.live.arose t.live [s.live.occ (if ok then 11 else 12)] ∧
      (ok = true → t.live.rd .STORED_GENERATION = c.generation % 256 ^ 4))

/-- The commands of the DRAM channels (R511 to R536). -/
def Obligations.DramMemoryServes : Prop :=
  (∀ (s : State) (c : Fin 2) (crc : Bool) (time : Nat) (slots : List DramSlot) (place : DramPlace), s.live.chState c.val = chActive →
    s.live.mode.evaluates = true → s.live.mode ≠ .freeze → (crc = true → s.live.checksCrc c.val = true) →
    ((s.live.dramSlots c.val slots).channel c.val).diagnose = false →
    ∃ t, exec (.dramAlert c crc time slots place) s = .next t ∧ s.only [.store, .dram, .events, .recoveries] t ∧
      t.live.chState c.val = chReplaying ∧
      s.live.occ (if crc then 483 else 482) (u8 c.val) ∈ t.live.events.arisen) ∧
  (∀ (s : State) (c : Fin 2), s.live.chState c.val = chReplaying → s.live.mode.evaluates = true →
    s.live.recoveries.active = [] → s.live.recoveries.done = [] →
    ∃ t, exec (.dramReplayDone c) s = .next t ∧ s.only [.store, .dram, .events] t ∧
      s.live.cellsBut [Obj.key .STATE_1302 c.val 0 0] t.live ∧ t.live.chState c.val = chActive ∧
      (t.live.channel c.val).failed = none ∧ (t.live.channel c.val).failures = 0 ∧
      s.live.arose t.live [s.live.occ 484 (u8 c.val)]) ∧
  (∀ (s : State) (place : DramPlace), s.live.chState (place.channel % 2) = chActive → s.live.mode.evaluates = true →
    s.live.mode ≠ .freeze → (s.live.channel (place.channel % 2)).diagnose = false →
    ∃ t, exec (.dramUe place) s = .next t ∧ s.only [.store, .bpm, .dram, .events, .recoveries] t ∧
      s.live.occ 481 (u8 (place.channel % 2)) ∈ t.live.events.arisen) ∧
  (∀ (s : State) (c rank : Fin 2) (fill0 fill4 : Nat), s.live.chState c.val = chActive → s.live.mode ≠ .freeze →
    (s.live.panicFills fill0 fill4).panicking = false →
    ∃ t, exec (.refreshDue c rank fill0 fill4) s = .next t ∧ s.only [.store, .dram, .events] t ∧ t.live.rd .REFRESH_OWED c.val = 0 ∧
      (t.live.channel c.val).owed0 = 0 ∧ (t.live.channel c.val).owed1 = 0) ∧
  (∀ (s : State) (c : Fin 2), s.live.mode.engineOn = true → s.live.rdB .IDLE_SR_ENABLE c.val = true →
    (s.live.channel c.val).used + s.live.rd .IDLE_SR_BEATS c.val ≤ s.live.ticks → s.live.chState c.val = chActive →
    ∃ t, exec (.idleSelfRefresh c) s = .next t ∧ s.only [.store, .dram, .events] t ∧ t.live.chState c.val = chSelfRefresh ∧
      s.live.cellsBut [Obj.key .STATE_1302 c.val 0 0, Obj.key .SR_ENTRIES c.val 0 0, Obj.key .WRAPPED_ANY 0 0 0] t.live) ∧
  (∀ (s : State) (c : Fin 2), s.live.mode.engineOn = true → s.live.chState c.val = chSelfRefresh →
    ∃ t, exec (.selfRefreshExit c false) s = .next t ∧ s.only [.store, .dram] t ∧ t.live.chState c.val = chActive ∧
      s.live.cellsBut [Obj.key .STATE_1302 c.val 0 0] t.live ∧ (t.live.channel c.val).used = s.live.ticks ∧
      (t.live.channel c.val).sre = false) ∧
  (∀ s : State, s.live.dram.passes ≠ 0 → s.live.mode.engineOn = true →
    ∃ t, exec .dramScrubPassDone s = .next t ∧ s.only [.store, .dram, .events] t ∧ t.live.dram = { s.live.dram with passes := s.live.dram.passes - 1 } ∧
      s.live.cellsBut [Obj.key .SCRUB_PASSES 0 0 0, Obj.key .WRAPPED_ANY 0 0 0, Obj.key .LAST_PASS_BEAT 0 0 0] t.live ∧
      t.live.rd .LAST_PASS_BEAT = s.live.now % 256 ^ 8 ∧ s.live.occ 491 ∈ t.live.events.arisen) ∧
  (∀ (s : State) (key u : Nat), s.live.diagAllowed = true → dramUnit (s.live.rd .DIAG_ADDRESS) = some (key, u) →
    ∃ t, exec .diagRead s = .next t ∧ s.only [.store, .free] t ∧ s.live.cellsBut [Obj.key .DIAG_DATA 0 0 0] t.live ∧
      t.live.rd .DIAG_DATA / 2 ^ 64 = beVal (s.live.bufRead key (64 * u) 64) % 2 ^ 512) ∧
  (∀ s : State, s.live.mode.engineOn = true ∨ s.live.mode = .freeze →
    ∃ t, exec .logClear s = .next t ∧ s.only [.dram] t ∧ t.live.dram = { s.live.dram with log := [] })

/-- A step is the command at the front of the queue; an idle step changes nothing (the queue and its idling are the model's
choice, log entry 2). -/
def Obligations.StepRunsTheFrontCommand : Prop :=
  (∀ (c : Instr) (rest : List Instr) (s : State), step { s with pending := c :: rest } = exec c { s with pending := rest }) ∧
  (∀ s : State, s.pending = [] → step s = .next s)

/-- What reset leaves (R24, R31, R131, R693); the life-cycle state is the model's choice (log entry 1). -/
def Obligations.ResetIsTheFirstBeatOfBringup : Prop :=
  State.reset.pending = [] ∧ State.reset.start = State.reset.live ∧ State.reset.live.mode = .bringup ∧
  State.reset.live.beat.number = 0 ∧ State.reset.live.beat.elapsed = 0 ∧ State.reset.live.rd .GUARANTEES = 0 ∧
  State.reset.live.recoveries.journal = [] ∧ State.reset.live.events.arisen = [] ∧ State.reset.live.plane.frames = [] ∧
  State.reset.live.tidy ∧
  ∀ (o : Obj) (i k t : Nat), o.key i k t ≠ Obj.key .LC_STATE 0 0 0 → State.reset.live.rd o i k t = o.defaultAt i k t

/-- The machine's data keep their form along every step, from every state (R5, R30, R60). -/
def Obligations.EveryStepKeepsTheDictionaryInOrder : Prop :=
  ∀ s : State, s.live.tidy → s.start.tidy →
    ∃ t, step s = .next t ∧ t.live.tidy ∧ t.start.tidy ∧ t.pending = s.pending.tail ∧
      s.live.beat.ticks ≤ t.live.beat.ticks ∧ s.live.free ≤ t.live.free

/-- The frame of every command (R42, R46, R133): `touches` names the parts that it may change. -/
def Obligations.CommandsKeepToTheirParts : Prop :=
  (∀ (c : Instr) (s : State), Instr.boundary c = false → ∃ t, exec c s = .next t ∧ s.only (touches c) t) ∧
  (∀ (c : Instr) (s : State), Instr.boundary c = true →
    ∃ t, exec c s = .next t ∧ t.pending = s.pending ∧ (t.start = t.live ∨ t = s))

/-- What can move the mode and the beat (R26, R29, R31, R128, R131). -/
def Obligations.OnlyTheseCommandsMoveModeAndBeat : Prop :=
  ∀ (c : Instr) (s t : State), exec c s = .next t →
    (t.live.mode ≠ s.live.mode → Instr.movesMode c = true) ∧
    (t.live.beat.number ≠ s.live.beat.number ∨ t.live.beat.elapsed ≠ s.live.beat.elapsed → Instr.renumbers c = true)

/-- The decay of penalties (R247). -/
def Obligations.PenaltiesDecayByTheHalfLife : Prop :=
  ∀ s : State, s.live.mode.modulesRun = true → s.live.elapsed % 8000 = 0 → s.live.plane.decayedAt ≠ some s.live.ticks →
    ∃ t, exec .penaltyDecay s = .next t ∧ s.only [.store, .plane, .events, .recoveries] t ∧
      ∀ p, p < 52 → t.live.rd .HALF_LIFE p = s.live.rd .HALF_LIFE p ∧
        ∀ M, s.live.rd .HALF_LIFE p ≠ 0 →
          2 * M ^ s.live.rd .HALF_LIFE p ≤ 65536 ^ s.live.rd .HALF_LIFE p →
          65536 ^ s.live.rd .HALF_LIFE p < 2 * (M + 1) ^ s.live.rd .HALF_LIFE p →
          t.live.rd .PENALTY p = ((s.live.rd .PENALTY p * M) >>> 16) % 2 ^ 32

/-- A frame that does not fit the buffer at the head (R609). -/
def Obligations.TooLongFramesLeaveTheBuffer : Prop :=
  ∀ (s : State) (entry : List Byte) (ns : Nat) (fr : Frame) (l : Live), s.live.mode.running = true →
    (s.live.at ns).takeFrom 54 = (some fr, l) → fr.tn < 8 →
    ((l.fn fr.tn).flr = none ∨ (l.fn fr.tn).cleaned = true) → (l.fn fr.tn).present = true →
    (l.ring fr.tn (bits (l.fn fr.tn).rxMap (2 * fr.tc) 2)).active = true →
    (l.ring fr.tn (bits (l.fn fr.tn).rxMap (2 * fr.tc) 2)).sqHeld ≠ 0 →
    (l.ring fr.tn (bits (l.fn fr.tn).rxMap (2 * fr.tc) 2)).cqFull = false →
    leAt entry 8 2 < (body fr.bytes).length →
    ∃ t, exec (.rxFrameHandover entry ns) s = .next t ∧ s.only [.store, .plane, .host, .events] t ∧
      t.live.rd .H_RX_TOO_LONG fr.tn = (l.rd .H_RX_TOO_LONG fr.tn + 1) % 2 ^ 64 ∧ t.live.plane = l.plane ∧
      t.live.host = s.live.host

/-- What the events of a CAN port do (R97, R105, R108 to R112, R126). -/
def Obligations.CanPortsFollowTheirBus : Prop :=
  (∀ (s : State) (c : Fin 2) (f : CanIn), s.live.mode.evaluates = true → s.live.mode ≠ .freeze → s.live.canServes c.val = true →
    s.live.canIgnores c.val f = true →
    ∃ t, exec (.canFrameIgnored c f) s = .next t ∧ s.only [.store, .events] t ∧
      s.live.cellsBut [Obj.key .RX_IGNORED c.val 0 0, Obj.key .WRAPPED_ANY 0 0 0] t.live ∧
      t.live.rd .RX_IGNORED c.val = (s.live.rd .RX_IGNORED c.val + 1) % 256 ^ Obj.len .RX_IGNORED) ∧
  (∀ (s : State) (c : Fin 2) (tec rec : Nat), s.live.rd .STATE_0782 c.val ≠ 2 → s.live.rd .STATE_0782 c.val ≠ 3 →
    ∃ t, exec (.canErrorStateChange c tec rec) s = .next t ∧ s.only [.store] t ∧
      s.live.cellsBut [Obj.key .TEC c.val 0 0, Obj.key .REC c.val 0 0, Obj.key .STATE_0782 c.val 0 0] t.live ∧
      t.live.rd .TEC c.val = min tec (256 ^ Obj.len .TEC - 1) ∧ t.live.rd .REC c.val = min rec (256 ^ Obj.len .REC - 1) ∧
      t.live.rd .STATE_0782 c.val = if 256 ≤ tec then 2 else if 128 ≤ tec ∨ 128 ≤ rec then 1 else 0) ∧
  (∀ (s : State) (c : Fin 2), s.live.rd .STATE_0782 c.val = 2 →
    ∃ t, exec (.canBusOffRecovery c) s = .next t ∧ s.only [.store] t ∧
      s.live.cellsBut [Obj.key .TEC c.val 0 0, Obj.key .REC c.val 0 0, Obj.key .STATE_0782 c.val 0 0] t.live ∧
      t.live.rd .STATE_0782 c.val = 0 ∧ t.live.rd .TEC c.val = 0 ∧ t.live.rd .REC c.val = 0) ∧
  (∀ (s : State) (c : Fin 2) (f : CanFrame), (s.live.can.get c.val).sending = some f → (s.live.can.get c.val).tooLate = false →
    s.live.rd .STATE_0782 c.val ≠ 2 →
    ∃ t, exec (.canTxComplete c true) s = .next t ∧ s.only [.can] t ∧
      t.live.can.get c.val = { s.live.can.get c.val with sending := none, progress := .idle, tooLate := false, drop := false, node := none, lastSent := some f } ∧
      ∀ d, d ≠ c.val → t.live.can.get d = s.live.can.get d) ∧
  (∀ (s : State) (c : Fin 2), s.live.mode.rollcalls = true → s.live.canServes c.val = true →
    s.live.rdB .ROLLCALL_ENABLE c.val = true → (s.live.can.get c.val).callOpen = false →
    (s.live.can.get c.val).lastCall + s.live.rd .ROLLCALL_INTERVAL c.val ≤ s.live.ticks →
    ∃ t, exec (.rollcall c) s = .next t ∧ s.only [.can] t ∧ (∀ d, d ≠ c.val → t.live.can.get d = s.live.can.get d) ∧
      ∀ n, n = ((s.live.can.get c.val).callSeq + 1) % 256 → t.live.can.get c.val = { s.live.can.get c.val with callSeq := n, lastCall := s.live.ticks, callOpen := true, answered := [], excuse := (s.live.can.get c.val).changedAt == some s.live.ticks, calls := (s.live.can.get c.val).calls ++ [s.live.canFrame c.val 0x380 (u8 n ++ u8 (s.live.rd .NODE c.val) ++ List.replicate 6 (byte 0))] }) ∧
  (∀ (s : State) (c : Fin 2) (n : Fin 32) (data : List Byte), n.val ≠ 0 → 8 ≤ data.length → s.live.mode.evaluates = true →
    (s.live.can.get c.val).callOpen = true → fieldAt data 0 1 = (s.live.can.get c.val).callSeq →
    s.live.canServes c.val = true →
    ∃ t, exec (.rollcallAnswer c n data) s = .next t ∧ s.only [.store, .can, .events] t ∧
      s.live.cellsBut [Obj.key .NODE_TABLE c.val 0 0, Obj.key .NODES_PRESENT c.val 0 0] t.live ∧
      t.live.can.get c.val = { s.live.can.get c.val with answered := n.val :: (s.live.can.get c.val).answered, missed := (s.live.can.get c.val).missed.del n.val } ∧
      if s.live.nodeEntry c.val n.val = 2 ^ 56 + fieldAt data 1 7 then
        t.live.store = s.live.store ∧ t.live.events = s.live.events
      else t.live.rd .NODE_TABLE c.val = setBits (s.live.rd .NODE_TABLE c.val) (64 * (31 - n.val)) 64
            (2 ^ 56 + fieldAt data 1 7) % 256 ^ Obj.len .NODE_TABLE ∧
        s.live.occ (64 + 2 * c.val) (u8 n.val) ∈ t.live.events.arisen ∧
        (bit (s.live.nodeEntry c.val n.val) 56 = true → s.live.occ (65 + 2 * c.val) (u8 n.val) ∈ t.live.events.arisen))

/-- What the dictionary does with a request (R64, R65, R75, R80, R83 to R85, R96, R97, R99, R103, R119). -/
def Obligations.DictionaryServesRequests : Prop :=
  (∀ (s : State) (m : Fin 15) (r : Req) (o : Obj) (i k : Nat), s.live.heard (rankOf m) → s.live.repeated (rankOf m) 0 r = none →
    rules.checkReach s.start (rankOf m) (rules.instAt s.start (rankOf m) r.index) r.index r.sub false [] = stOk → r.payload = [] → r.malformed = false →
    s.live.mode.allowsRead r.index = true → findObject r.index r.sub = some (o, i, k) →
    (Live.show s.start (rankOf m) o i k (Live.instOf s.start (rankOf m) o)).length ≤ payloadLimit (rankOf m) →
    ∃ t, exec (.read m r) s = .next t ∧ s.only (touches (.read m r)) t ∧ t.live = (s.live.answer { rank := rankOf m, op := 0, reqId := r.id, index := r.index, sub := r.sub, status := stOk, payload := Live.show s.start (rankOf m) o i k (Live.instOf s.start (rankOf m) o) }).deliver) ∧
  (∀ (s : State) (m : Fin 15) (r : Req) (c : Nat), s.live.heard (rankOf m) → s.live.repeated (rankOf m) 0 r = none →
    rules.checkReach s.start (rankOf m) (rules.instAt s.start (rankOf m) r.index) r.index r.sub false [] = c → c ≠ stOk →
    ∃ t, exec (.read m r) s = .next t ∧ t.live.dict.queue = s.live.dict.queue ∧
      t.live = (s.live.answer { rank := rankOf m, op := 0, reqId := r.id, index := r.index, sub := r.sub, status := c }).deliver) ∧
  (∀ (s : State) (m : Fin 15) (r : Req) (e : Instr × Nat) (value : List Byte) (fs : List (Nat × Nat)) (target : Option Nat),
    e ∈ [(Instr.write m r, 1), (.writeAtBeat m r, 2), (.command m r, 3)] →
    value = (if e.2 = 2 then r.payload.drop 8 else r.payload) → target = (if e.2 = 2 then some (fieldAt r.payload 0 8) else none) →
    s.live.heard (rankOf m) → s.live.repeated (rankOf m) e.2 r = none →
    rules.checkReach s.live (rankOf m) (rules.instAt s.live (rankOf m) r.index) r.index r.sub true value = stOk → r.malformed = false →
    (e.2 = 2 → 8 ≤ r.payload.length) →
    (e.2 = 3 → ∃ o i k, findObject r.index r.sub = some (o, i, k) ∧ o.acc = .cmd) →
    writeFields r.index r.sub value = some fs → s.live.checkTarget (rankOf m) r.index (fs.map Prod.fst) target = stOk →
    Live.arrivalCheck s.live r.index fs target = stOk →
    ∃ t w, exec e.1 s = .next t ∧ s.only (touches e.1) t ∧ t.live.dict.queue = s.live.dict.queue ++ [w] ∧
      t.live.dict.cache = s.live.dict.cache ∧ t.live.dict.arrivals = s.live.dict.arrivals + 1 ∧
      w.rank = rankOf m ∧ w.op = e.2 ∧ w.reqId = r.id ∧ w.index = r.index ∧ w.sub = r.sub ∧ w.fields = fs ∧ w.target = target ∧
      w.arrival = s.live.ticks ∧ w.order = s.live.dict.arrivals) ∧
  (∀ (s : State) (m : Fin 15) (r : Req) (e : Instr × Nat) (c : Nat),
    e ∈ [(Instr.write m r, 1), (.writeAtBeat m r, 2), (.command m r, 3)] →
    s.live.heard (rankOf m) → s.live.repeated (rankOf m) e.2 r = none →
    rules.checkReach s.live (rankOf m) (rules.instAt s.live (rankOf m) r.index) r.index r.sub true (if e.2 = 2 then r.payload.drop 8 else r.payload) = c → c ≠ stOk →
    ∃ t, exec e.1 s = .next t ∧ t.live.dict.queue = s.live.dict.queue ∧
      t.live = (s.live.answer { rank := rankOf m, op := e.2, reqId := r.id, index := r.index, sub := r.sub, status := c }).deliver) ∧
  (∀ (s : State) (m : Fin 15) (r : Req) (e : Instr × Nat) (x : CacheEntry),
    e ∈ [(Instr.read m r, 0), (.write m r, 1), (.writeAtBeat m r, 2), (.command m r, 3), (.segmentInit m r, 4)] →
    s.live.heard (rankOf m) → ((s.live.dict.cache.get (rankOf m)).find? fun y => y.op == e.2 && y.reqId == r.id &&
      y.index == r.index && y.sub == r.sub && y.fresh s.live.ticks) = some x →
    ∃ t, exec e.1 s = .next t ∧ t.live.dict.queue = s.live.dict.queue ∧ t.live.dict.cache = s.live.dict.cache ∧
      t.live = (s.live.send { rank := rankOf m, op := e.2, reqId := r.id, index := r.index, sub := r.sub, status := 16 * (x.code % 16) + stDuplicate, payload := x.payload }).deliver) ∧
  (∀ (s : State) (m : Fin 15) (r : Req) (total : Nat), s.live.heard (rankOf m) → s.live.repeated (rankOf m) 4 r = none →
    s.live.dict.transfers.get (rankOf m) = none → rules.checkReach s.live (rankOf m) (rules.instAt s.live (rankOf m) r.index) r.index r.sub true [] = stOk →
    r.malformed = false → r.payload = u32 total ++ [0, 0, 0, 0] → 0 < total → total ≤ 1048576 → r.sub = 0xFF →
    s.live.checkTarget (rankOf m) r.index [r.sub] none = stOk →
    ∃ t x, exec (.segmentInit m r) s = .next t ∧ t.live.dict.transfers.get (rankOf m) = some x ∧ x.reqId = r.id ∧
      x.index = r.index ∧ x.sub = r.sub ∧ x.read = false ∧ x.total = total ∧ x.size = segmentData (rankOf m) ∧
      x.target = none ∧ x.data = [] ∧ x.next = 0 ∧ x.last = s.live.ticks ∧ t.live.dict.queue = s.live.dict.queue) ∧
  (∀ (s : State) (m : Fin 15) (r : Req) (x : Transfer), s.live.heard (rankOf m) →
    s.live.dict.transfers.get (rankOf m) = some x → x.reqId = r.id → x.index = r.index → x.sub = r.sub → r.malformed = false →
    x.read = false → fieldAt r.payload 0 2 = x.next → r.payload.length = 2 + min x.size (x.total - x.next * x.size) →
    x.next + 1 < cdiv x.total x.size →
    ∃ t, exec (.segment m r) s = .next t ∧ t.live.dict.transfers.get (rankOf m) =
      some { x with next := x.next + 1, data := x.data ++ r.payload.drop 2, last := s.live.ticks } ∧
      t.live.dict.queue = s.live.dict.queue ∧ t.live.dict.cache = s.live.dict.cache) ∧
  (∀ (s : State) (m : Fin 15) (r : Req) (c : Nat), s.live.heard (rankOf m) → s.live.repeated (rankOf m) 6 r = none →
    rules.checkReach s.live (rankOf m) (rules.instAt s.live (rankOf m) r.index) r.index r.sub false [] = c →
    ∃ t, exec (.notifyRequest m r) s = .next t ∧ t.live = (s.live.answer { rank := rankOf m, op := 6, reqId := r.id, index := r.index, sub := r.sub, status := if c = stNoObject ∨ c = stNoSubindex then c else stTypeLength }).deliver) ∧
  (∀ (s : State) (f : Fin 8) (q : Nat × Req), s.live.mbxServes f.val = true → (s.live.mailboxes.get f.val).reqBusy = true →
    s.live.mbxOwed f.val < 320 → q = dauRequest (slice (s.live.mailboxes.get f.val).request 0 1032) 1024 true →
    ∃ t, exec (.mbxRequestTake f) s = .next t ∧ s.only (touches (.mbxRequestTake f)) t ∧ t.live = Live.serveRequest s.start
      (s.live.setMbx f.val fun m => { m with reqBusy := false }) (functionRank f.val) q.1 q.2) ∧
  (∀ (s : State) (port : Fin 56) (frame : List Byte) (x : InbandIn) (k seq : Nat) (old : Bool),
    (if port.val < 52 then s.live.receives port.val else s.live.mode.engineOn) = true → inbandParse frame = some x →
    s.live.inbandVerdict port.val x = .accepted k seq old →
    ∃ t, exec (.inbandRequest port frame) s = .next t ∧ s.only (touches (.inbandRequest port frame)) t ∧
      t.live = Live.inbandAccepted s.start s.live port.val k seq old x)

/-- How the paths' own state ends (R84, R87, R104, R116, R118, R119, R126). -/
def Obligations.CachesTransfersAndMailboxesEnd : Prop :=
  (∀ (s : State) (m : Fin 15), ∃ t, exec (.requestCacheExpiry m) s = .next t ∧ s.only [.dict] t ∧
    t.live.dict = { s.live.dict with cache := t.live.dict.cache } ∧
    (∀ e, e ∈ t.live.dict.cache.get (rankOf m) ↔ e ∈ s.live.dict.cache.get (rankOf m) ∧ s.live.ticks ≤ e.at_ + 8000) ∧
    ∀ k, k ≠ rankOf m → t.live.dict.cache.get k = s.live.dict.cache.get k) ∧
  (∀ (s : State) (m : Fin 15), s.live.mode.engineOn = true → ∃ t, exec (.myCacheFlush m) s = .next t ∧ s.only [.dict] t ∧
    t.live.dict = { s.live.dict with cache := t.live.dict.cache } ∧ t.live.dict.cache.get (rankOf m) = [] ∧
    ∀ k, k ≠ rankOf m → t.live.dict.cache.get k = s.live.dict.cache.get k) ∧
  (∀ s : State, s.live.mode.engineOn = true → ∃ t, exec .clampClear s = .next t ∧ s.only [.dict] t ∧
    t.live.dict = { s.live.dict with journal := [], clampTotal := [] }) ∧
  (∀ (s : State) (m : Fin 15) (x : Transfer), s.live.dict.transfers.get (rankOf m) = some x → x.last + 8000 ≤ s.live.ticks →
    s.live.mode.evaluates = true →
    ∃ t, exec (.segmentAbandoned m) s = .next t ∧ s.only [.store, .dict, .events] t ∧ t.live.store = s.live.store ∧
      t.live.dict = { s.live.dict with transfers := t.live.dict.transfers } ∧ t.live.dict.transfers.get (rankOf m) = none ∧
      (∀ k, k ≠ rankOf m → t.live.dict.transfers.get k = s.live.dict.transfers.get k) ∧
      (x.done = false → s.live.arose t.live [s.live.occ 78]) ∧ (x.done = true → t.live.events = s.live.events)) ∧
  (∀ (s : State) (m : Fin 15) (x : Transfer), s.live.dict.transfers.get (rankOf m) = some x → s.live.ticks < x.last + 8000 →
    exec (.segmentAbandoned m) s = .next s) ∧
  (∀ (s : State) (k : Fin 4) (e : Nat), (s.live.sessions.get k.val).graceEnd = some e → e ≤ s.live.ticks →
    ∃ t, exec (.keyEpochGraceEnd k) s = .next t ∧ s.only [.sessions] t ∧
      t.live.sessions.get k.val = { s.live.sessions.get k.val with graceEnd := none, oldKey := 0, oldWindow := {} } ∧
      ∀ j, j ≠ k.val → t.live.sessions.get j = s.live.sessions.get j) ∧
  (∀ (s : State) (f : Fin 8), s.live.mbxServes f.val = true → (s.live.mailboxes.get f.val).reqBusy = false →
    ∃ t, exec (.mbxDoorbell f) s = .next t ∧ s.only [.mailboxes] t ∧
      t.live.mailboxes.get f.val = { s.live.mailboxes.get f.val with reqBusy := true } ∧
      ∀ j, j ≠ f.val → t.live.mailboxes.get j = s.live.mailboxes.get j) ∧
  (∀ (s : State) (f : Fin 8), s.live.mbxServes f.val = true → (s.live.mailboxes.get f.val).reqBusy = true →
    s.live.mode.evaluates = true →
    ∃ t, exec (.mbxDoorbell f) s = .next t ∧ s.only [.store, .mailboxes, .host, .events] t ∧
      t.live.mailboxes.get f.val = { s.live.mailboxes.get f.val with protocolError := true } ∧
      (∀ j, j ≠ f.val → t.live.mailboxes.get j = s.live.mailboxes.get j) ∧ s.live.occ 79 ∈ t.live.events.arisen) ∧
  (∀ (s : State) (f : Fin 8), s.live.mbxServes f.val = true → (s.live.mailboxes.get f.val).rspReady = true →
    (s.live.mailboxes.get f.val).waiting = [] →
    ∃ t, exec (.mbxRspRelease f) s = .next t ∧ s.only [.mailboxes] t ∧
      t.live.mailboxes.get f.val = { s.live.mailboxes.get f.val with rspReady := false, response := [] } ∧
      ∀ j, j ≠ f.val → t.live.mailboxes.get j = s.live.mailboxes.get j)

/-- Frames at a port, and its LLDP neighbours (R234 to R236, R251, R252). -/
def Obligations.FramesArriveLeaveAndNeighboursAreKept : Prop :=
  (∀ (s : State) (p : Fin 52) (f : List Byte) (age at_ ts : Nat), s.live.receives p.val = true → fifoBytes p.val < f.length →
    ∃ t, exec (.frameReceived p f false false age at_ ts) s = .next t ∧ s.only [.store, .beat, .modes, .plane, .events] t ∧
      s.live.cellsBut [Obj.key .RX_OVERFLOW_DROPS p.val 0 0, Obj.key .WRAPPED_ANY 0 0 0] t.live ∧
      t.live.rd .RX_OVERFLOW_DROPS p.val = (s.live.rd .RX_OVERFLOW_DROPS p.val + 1) % 256 ^ 8) ∧
  (∀ (s : State) (p : Fin 52) (f : List Byte) (age at_ ts : Nat), s.live.receives p.val = true → f.length ≤ fifoBytes p.val → fcsGood f = false →
    ∃ t, exec (.frameReceived p f false false age at_ ts) s = .next t ∧ s.only [.store, .beat, .modes, .plane, .events] t ∧
      s.live.cellsBut [Obj.key .RX_ERRORS p.val 0 0, Obj.key .WRAPPED_ANY 0 0 0] t.live ∧
      t.live.rd .RX_ERRORS p.val = (s.live.rd .RX_ERRORS p.val + 1) % 256 ^ 8) ∧
  (∀ (s : State) (p : Fin 52) (f : List Byte) (age at_ ts : Nat), s.live.receives p.val = true → f.length ≤ fifoBytes p.val → fcsGood f = true → f.length < 64 →
    ∃ t, exec (.frameReceived p f false false age at_ ts) s = .next t ∧ s.only [.store, .beat, .modes, .plane, .events] t ∧
      s.live.cellsBut [Obj.key .RX_RUNTS p.val 0 0, Obj.key .WRAPPED_ANY 0 0 0] t.live ∧
      t.live.rd .RX_RUNTS p.val = (s.live.rd .RX_RUNTS p.val + 1) % 256 ^ 8) ∧
  (∀ (s : State) (p : Fin 52) (f : List Byte) (age at_ ts : Nat), s.live.receives p.val = true → f.length ≤ fifoBytes p.val → fcsGood f = true → 64 ≤ f.length →
    s.live.rdAt (s.live.ticks - min (min age 61) s.live.ticks) .MAX_FRAME p.val < f.length →
    ∃ t, exec (.frameReceived p f false false age at_ ts) s = .next t ∧ s.only [.store, .beat, .modes, .plane, .events] t ∧
      s.live.cellsBut [Obj.key .RX_OVERSIZE p.val 0 0, Obj.key .WRAPPED_ANY 0 0 0] t.live ∧
      t.live.rd .RX_OVERSIZE p.val = (s.live.rd .RX_OVERSIZE p.val + 1) % 256 ^ 8) ∧
  (∀ (s : State) (p : Fin 52) (f : List Byte) (age at_ ts : Nat), s.live.receives p.val = true → f.length ≤ fifoBytes p.val → fcsGood f = true → 64 ≤ f.length →
    f.length ≤ s.live.rdAt (s.live.ticks - min (min age 61) s.live.ticks) .MAX_FRAME p.val →
    fieldAt f 12 2 ≠ 0x8808 → fieldAt f 12 2 ≠ 0x8809 →
    ∃ (t : State) (u : Live), exec (.frameReceived p f false false age at_ ts) s = .next t ∧ s.only [.store, .beat, .modes, .plane, .events] t ∧
      t.live = u.classify p.val (s.live.ticks - min (min age 61) s.live.ticks) (s.live.beat.numberAgo (min (min age 61) s.live.ticks)) (ts % 2 ^ 64 / 8 * 8) f ∧
      s.live.cellsBut [Obj.key .RX_FRAMES p.val 0 0, Obj.key .RX_BYTES p.val 0 0, Obj.key .WRAPPED_ANY 0 0 0] u ∧
      u.rd .RX_FRAMES p.val = (s.live.rd .RX_FRAMES p.val + 1) % 256 ^ 8 ∧
      u.rd .RX_BYTES p.val = (s.live.rd .RX_BYTES p.val + f.length) % 256 ^ 8) ∧
  (∀ (s : State) (p : Fin 53) (at_ : Nat), (s.live.portRt p.val).tx ≠ none → s.live.mode ≠ .freeze →
    ∃ t, exec (.frameTxDone p at_ none) s = .next t ∧ s.only [.store, .plane, .events] t ∧
      t.live = ((s.live.at at_).txEnd p.val).kick p.val) ∧
  (∀ (s : State) (p : Fin 52), s.live.lldpTx p.val = true →
    (∀ b, (s.live.portRt p.val).lldpSent = some b → b + 8000 * s.live.rd .TX_INTERVAL p.val ≤ s.live.ticks) →
    ∃ (t : State) (u : Live), exec (.lldpTransmit p) s = .next t ∧ s.only [.store, .plane, .events] t ∧
      t.live = u.firmwareSend p.val 0 none (s.live.lldpFrame p.val) ∧ u.store = s.live.store ∧
      u.portRt p.val = { s.live.portRt p.val with lldpSent := some s.live.ticks }) ∧
  (∀ (s : State) (p : Fin 52) (mac : Nat) (pdu : List Byte) (n : Neighbour) (ttl k : Nat), s.live.lldpRx p.val = true →
    lldpParse s.live mac pdu = some (n, ttl) → ttl ≠ 0 → k < 4 →
    (∀ j m, j < 4 → (s.live.portRt p.val).neighbours.get j = some m → m.sameKey n = false) →
    (s.live.portRt p.val).neighbours.get k = none → (∀ j, j < k → (s.live.portRt p.val).neighbours.get j ≠ none) →
    ∃ t, exec (.lldpduReceived p mac pdu) s = .next t ∧ s.only [.store, .plane, .events] t ∧ t.live.store = s.live.store ∧
      t.live.portRt p.val = { s.live.portRt p.val with neighbours := (s.live.portRt p.val).neighbours.put k (some n) } ∧
      (∀ r, r ≠ p.val → t.live.portRt r = s.live.portRt r) ∧
      s.live.arose t.live [s.live.occ 253 (u8 p.val ++ u8 k) (s.live.portOwner p.val)]) ∧
  (∀ (s : State) (p : Fin 52) (mac : Nat) (pdu : List Byte) (n m : Neighbour) (ttl k : Nat), s.live.lldpRx p.val = true →
    lldpParse s.live mac pdu = some (n, ttl) → ttl ≠ 0 → k < 4 → (s.live.portRt p.val).neighbours.get k = some m → m.sameKey n = true →
    (∀ j m', j < k → (s.live.portRt p.val).neighbours.get j = some m' → m'.sameKey n = false) →
    ∃ t, exec (.lldpduReceived p mac pdu) s = .next t ∧ s.only [.store, .plane, .events] t ∧ t.live.store = s.live.store ∧
      (t.live.portRt p.val).neighbours.get k = some { n with arrival := m.arrival } ∧
      (∀ j, j ≠ k → (t.live.portRt p.val).neighbours.get j = (s.live.portRt p.val).neighbours.get j) ∧
      t.live.events = s.live.events) ∧
  (∀ (s : State) (p : Fin 52) (mac : Nat) (pdu : List Byte) (n m : Neighbour) (k : Nat), s.live.lldpRx p.val = true →
    lldpParse s.live mac pdu = some (n, 0) → k < 4 → (s.live.portRt p.val).neighbours.get k = some m → m.sameKey n = true →
    (∀ j m', j < k → (s.live.portRt p.val).neighbours.get j = some m' → m'.sameKey n = false) →
    ∃ t, exec (.lldpduReceived p mac pdu) s = .next t ∧ s.only [.store, .plane, .events] t ∧ t.live.store = s.live.store ∧
      t.live.portRt p.val = { s.live.portRt p.val with neighbours := (s.live.portRt p.val).neighbours.put k none } ∧
      s.live.arose t.live [s.live.occ 254 (u8 p.val ++ u8 k) (s.live.portOwner p.val)]) ∧
  (∀ (s : State) (p : Fin 52) (mac : Nat) (pdu : List Byte) (n : Neighbour) (ttl : Nat), s.live.lldpRx p.val = true →
    lldpParse s.live mac pdu = some (n, ttl) → ttl ≠ 0 →
    (∀ j, j < 4 → ∃ m, (s.live.portRt p.val).neighbours.get j = some m ∧ m.sameKey n = false) →
    ∃ t, exec (.lldpduReceived p mac pdu) s = .next t ∧ s.only [.store, .plane, .events] t ∧
      s.live.cellsBut [Obj.key .LLDP_TOO_MANY p.val 0 0, Obj.key .WRAPPED_ANY 0 0 0] t.live ∧
      t.live.rd .LLDP_TOO_MANY p.val = (s.live.rd .LLDP_TOO_MANY p.val + 1) % 256 ^ Obj.LLDP_TOO_MANY.len ∧
      (t.live.portRt p.val).neighbours = (s.live.portRt p.val).neighbours ∧
      s.live.occ 255 [] (s.live.portOwner p.val) ∈ t.live.events.arisen) ∧
  (∀ (s : State) (p : Fin 52) (k : Fin 4) (m : Neighbour), (s.live.portRt p.val).neighbours.get k.val = some m →
    m.expires ≤ s.live.ticks → s.live.mode.evaluates = true →
    ∃ t, exec (.lldpNeighbourLost p k) s = .next t ∧ s.only [.store, .plane, .events] t ∧ t.live.store = s.live.store ∧
      t.live.portRt p.val = { s.live.portRt p.val with neighbours := (s.live.portRt p.val).neighbours.put k.val none } ∧
      s.live.arose t.live [s.live.occ 254 (u8 p.val ++ u8 k.val) (s.live.portOwner p.val)]) ∧
  (∀ (s : State) (p : Fin 52) (k : Fin 4), (∀ m, (s.live.portRt p.val).neighbours.get k.val = some m → s.live.ticks < m.expires) →
    exec (.lldpNeighbourLost p k) s = .next s)

/-- The weave and its banks (R291 to R293, R297). -/
def Obligations.WeavesSwapDrainAndCopy : Prop :=
  (∀ (s : State) (mask : Nat), s.live.mode.engineOn = true → members 4 mask ≠ [] → (∀ k ∈ members 4 mask, s.live.rd .METHOD k = 0) →
    (∀ k ∈ members 4 mask, s.live.shadowIncomplete k = false ∧ s.live.copying k = false ∧ s.live.draining k = false) →
    s.live.recoveries.done = [] →
    ∃ t, exec (.twillSwap mask) s = .next t ∧ s.only [.store, .plane, .events, .recoveries] t ∧
      (∀ k, k < 4 → t.live.rd .ACTIVE_BANK k = if bit mask k then 1 - s.live.rd .ACTIVE_BANK k else s.live.rd .ACTIVE_BANK k) ∧
      (∀ k, k < 4 → t.live.rd .LAST_SWAP_BEAT k = if bit mask k then s.live.now % 256 ^ 8 else s.live.rd .LAST_SWAP_BEAT k) ∧
      (∀ k, k < 4 → t.live.plane.calico.drains.get k =
        if bit mask k then some s.live.ticks else s.live.plane.calico.drains.get k) ∧
      t.live.rd .TABLE_GENERATION = (s.live.rd .TABLE_GENERATION + 1) % 2 ^ 32 ∧ t.live.rd .SWAP_RESULT = 1 ∧
      s.live.arose t.live [s.live.occ 352
        (u64 (mask % 16) ++ u32 ((s.live.rd .TABLE_GENERATION + 1) % 2 ^ 32) ++ u64 s.live.now)]) ∧
  (∀ (s : State) (mask r : Nat), s.live.mode.engineOn = true → (∀ k ∈ members 4 mask, s.live.rd .METHOD k = 0) →
    (r = if (members 4 mask).any s.live.shadowIncomplete then 2 else if (members 4 mask).any s.live.copying then 4 else
      if (members 4 mask).any s.live.draining then 3 else 1) → r ≠ 1 →
    ∃ t, exec (.twillSwap mask) s = .next t ∧ s.only [.store, .plane, .events, .recoveries] t ∧ t.live.plane = s.live.plane ∧
      (∀ k, k < 4 → t.live.rd .ACTIVE_BANK k = s.live.rd .ACTIVE_BANK k) ∧ t.live.rd .TABLE_GENERATION = s.live.rd .TABLE_GENERATION ∧
      t.live.rd .SWAP_RESULT = r ∧ s.live.occ 353 (u64 (mask % 16) ++ u8 r ++ u64 s.live.now) ∈ t.live.events.arisen) ∧
  (∀ (s : State) (k b : Nat), k < 4 → s.live.plane.calico.drains.get k = some b → b < s.live.ticks → s.live.mode.engineOn = true →
    ∃ t, exec .twillDrainDone s = .next t ∧ s.only [.store, .plane, .events] t ∧ t.live.store = s.live.store ∧
      (∀ j, j < 4 → t.live.plane.calico.drains.get j = match s.live.plane.calico.drains.get j with
        | some c => if c < s.live.ticks then none else some c
        | none => none) ∧
      ∃ m, s.live.arose t.live [s.live.occ 354 (u64 m)]) ∧
  (∀ (s : State) (k : Fin 4), s.live.mode.engineOn = true → s.live.shadowCopyAllowed k.val = true →
    ∃ t, exec (.shadowCopy k) s = .next t ∧ s.only [.store, .plane] t ∧ t.live.rd .SHADOW_COPY_BUSY k.val = 1 ∧
      t.live.plane.calico.copies.get k.val = some { start := s.live.ticks, bank := 1 - s.live.rd .ACTIVE_BANK k.val, source := s.live.bankContent k.val (s.live.rd .ACTIVE_BANK k.val) } ∧
      s.live.cellsBut [Obj.key .SHADOW_COPY_BUSY k.val 0 0] t.live ∧
      ∀ j, j ≠ k.val → t.live.plane.calico.copies.get j = s.live.plane.calico.copies.get j) ∧
  (∀ (s : State) (k : Fin 4), s.live.shadowCopyAllowed k.val = false → exec (.shadowCopy k) s = .next s) ∧
  (∀ (s : State) (k : Fin 4) (c : ShadowCopy), s.live.plane.calico.copies.get k.val = some c → ctSize k.val * ctBytes k.val ≤ c.pos →
    s.live.mode.engineOn = true →
    ∃ t, exec (.shadowCopyDone k) s = .next t ∧ s.only [.store, .plane, .host, .events] t ∧
      s.live.cellsBut [Obj.key .SHADOW_COPY_BUSY k.val 0 0] t.live ∧ t.live.rd .SHADOW_COPY_BUSY k.val = 0 ∧
      t.live.plane.calico.copies.get k.val = none ∧
      t.live.host.marks = s.live.host.marks.filter (· != 2 * k.val + (1 - s.live.rd .ACTIVE_BANK k.val)) ∧
      s.live.arose t.live [s.live.occ 355 (u64 (2 ^ k.val))])

/-- Next hops and snooped groups (R336 to R339). -/
def Obligations.FirmwareResolvesHopsAndSnoops : Prop :=
  (∀ (s : State) (p : Fin 52) (vlan : Nat) (m : ArpNd), s.live.routes vlan = true → m.request = false →
    ∃ t, exec (.arpNdReceived p vlan m) s = .next t ∧ s.only [.store, .plane, .events] t ∧ t.live = s.live.resolveBy vlan m) ∧
  (∀ (s : State) (p : Fin 52) (vlan : Nat) (m : ArpNd), s.live.routes vlan = true → m.request = true →
    (s.live.resolveBy vlan m).ownAddress vlan m.ip6 m.target = true →
    ∃ (t : State) (u : Live), exec (.arpNdReceived p vlan m) s = .next t ∧ s.only [.store, .plane, .events] t ∧
      u = s.live.resolveBy vlan m ∧
      t.live = u.firmwareSend p.val (u.vidOwner vlan) (some vlan) (arpAnswer (u.routerMac vlan) m)) ∧
  (∀ (s : State) (p : Fin 52) (vlan : Nat) (m : ArpNd), s.live.routes vlan = false → exec (.arpNdReceived p vlan m) s = .next s) ∧
  (∀ (s : State) (n : Fin 8192), s.live.hopDue n.val = true →
    ∃ (t : State) (u : Live) (frame : List Byte), exec (.nhRefresh n) s = .next t ∧ s.only [.store, .plane, .events] t ∧
      t.live = u.firmwareFlood (nhVlan (s.live.elem .NEXT_HOP_TABLE n.val))
        (vlanMembers (s.live.vlanAt s.live.ticks (nhVlan (s.live.elem .NEXT_HOP_TABLE n.val)))) frame ∧
      u.store = s.live.store ∧ u.plane.fwd.nextHops.get n.val = { s.live.plane.fwd.nextHops.get n.val with asked := some s.live.ticks, missed := (s.live.plane.fwd.nextHops.get n.val).missed + 1 } ∧
      ∀ k, k ≠ n.val → u.plane.fwd.nextHops.get k = s.live.plane.fwd.nextHops.get k) ∧
  (∀ (s : State) (n : Fin 8192), s.live.hopDue n.val = false → exec (.nhRefresh n) s = .next s) ∧
  (∀ (s : State) (n : Fin 8192) (b : Nat), nhValid (s.live.elem .NEXT_HOP_TABLE n.val) = true →
    nhState (s.live.elem .NEXT_HOP_TABLE n.val) = 1 → 3 ≤ (s.live.plane.fwd.nextHops.get n.val).missed →
    (s.live.plane.fwd.nextHops.get n.val).asked = some b → b + 8000 ≤ s.live.ticks → s.live.mode.running = true →
    ∃ t, exec (.nhUnresolved n) s = .next t ∧ s.only [.store, .plane] t ∧
      s.live.cellsBut [Obj.key .NEXT_HOP_TABLE (n.val / 128) (n.val % 128) 0] t.live ∧
      t.live.elem .NEXT_HOP_TABLE n.val = setBits (s.live.elem .NEXT_HOP_TABLE n.val) 253 2 0 % 256 ^ 32 ∧
      t.live.plane.fwd.nextHops.get n.val = { s.live.plane.fwd.nextHops.get n.val with missed := 0, asked := none, done := none } ∧
      ∀ k, k ≠ n.val → t.live.plane.fwd.nextHops.get k = s.live.plane.fwd.nextHops.get k) ∧
  (∀ (s : State) (p : Fin 52) (vlan : Nat) (ip6 : Bool) (groups : List Nat) (frame : List Byte), s.live.snoops vlan = true →
    ∃ (t : State) (u : Live), exec (.snoopReport p vlan ip6 groups frame) s = .next t ∧ s.only [.store, .plane, .events] t ∧
      u = groups.foldl (fun l g =>
        l.joinGroup p.val (vlanFid (s.live.vlanAt s.live.ticks vlan)) (s.live.vidOwner vlan) (groupMac ip6 g)) s.live ∧
      t.live = u.firmwareFlood vlan (setBit (u.routerPorts u.ticks (s.live.vidOwner vlan)) p.val false) frame) ∧
  (∀ (s : State) (p : Fin 52) (vlan : Nat) (ip6 : Bool) (group : Nat), s.live.snoops vlan = true →
    s.live.rdB .FAST_LEAVE 0 0 (s.live.vidOwner vlan) = true →
    ∃ t, exec (.snoopLeave p vlan ip6 group) s = .next t ∧ s.only [.store, .plane] t ∧
      t.live = s.live.keepMembers fun g m =>
        !(g.vlan == vlanFid (s.live.vlanAt s.live.ticks vlan) && g.mac == groupMac ip6 group && m.1 == p.val)) ∧
  (∀ (s : State) (p : Fin 52) (vlan : Nat) (ip6 : Bool) (group : Nat), s.live.rdB .FAST_LEAVE 0 0 (s.live.vidOwner vlan) = false →
    exec (.snoopLeave p vlan ip6 group) s = .next s) ∧
  (∀ (s : State) (p : Fin 52) (vlan : Nat) (frame : List Byte), s.live.snoops vlan = true →
    ∃ (t : State) (u v : Live), exec (.snoopQuery p vlan frame) s = .next t ∧ s.only [.store, .plane, .events] t ∧
      u.plane.fwd = { s.live.plane.fwd with routers := (s.live.plane.fwd.routers.filter fun r => !(r.1 == s.live.vidOwner vlan && r.2.1 == p.val)) ++ [(s.live.vidOwner vlan, p.val, s.live.ticks + 8000 * s.live.rd .SNOOP_GMI 0 0 (s.live.vidOwner vlan))] } ∧
      v = (u.keepMembers fun _ _ => true).showGroups (s.live.vidOwner vlan) ∧
      t.live = v.firmwareFlood vlan (setBit (vlanMembers (v.vlanAt v.ticks vlan)) p.val false) frame) ∧
  (∀ s : State, s.live.mode.engineOn = true →
    ∃ (t : State) (u : Live), exec .snoopMemberExpiry s = .next t ∧ s.only [.store, .plane] t ∧
      u.plane.fwd = { s.live.plane.fwd with routers := s.live.plane.fwd.routers.filter fun r => s.live.ticks < r.2.2 } ∧
      t.live = ((s.live.plane.fwd.routers.filter fun r => r.2.2 ≤ s.live.ticks).map (·.1)).eraseDups.foldl
        (fun l tn => l.showGroups tn) (u.keepMembers fun _ m => s.live.ticks < m.2))

/-- Rings (R604 to R607, R617). -/
def Obligations.RingsEnableMoveAndStop : Prop :=
  (∀ (s : State) (f : Fin 8) (k : Fin 13) (control v : Nat), s.live.bar0Serves f.val = true → (s.live.ring f.val k.val).enable = false →
    v = setBit (control % 2 ^ 32) 31 true → (hasSq k.val = true → 6 ≤ bits v 8 4 ∧ bits v 8 4 ≤ 12) → 6 ≤ bits v 12 4 → bits v 12 4 ≤ 12 →
    ∃ t, exec (.ringEnable f k control) s = .next t ∧ s.only [.host] t ∧
      t.live.ring f.val k.val = { s.live.ring f.val k.val with vector := bits v 20 (if f.val = 0 then 6 else 4), irqEn := bit v 19, cqLog2 := bits v 12 4, sqLog2 := bits v 8 4, enable := true, active := true, quiesced := false, sqTail := 0, sqHead := 0, cqHead := 0, cqTail := 0, owed := s.live.jobsOwed f.val k.val, waits := [], signalled := false, taken := [], error := false, errorCode := 0 } ∧
      ∀ g j, (g, j) ≠ (f.val, k.val) → t.live.ring g j = s.live.ring g j) ∧
  (∀ (s : State) (f : Fin 8) (k : Fin 13) (control : Nat), s.live.bar0Serves f.val = true → (s.live.ring f.val k.val).enable = true →
    k.val ≠ 11 → k.val ≠ 8 → (s.live.ring f.val k.val).sizeBusy (setBit (control % 2 ^ 32) 31 false) = false →
    ∃ t, exec (.ringDisable f k control) s = .next t ∧ s.only [.host] t ∧
      (t.live.ring f.val k.val).enable = false ∧ (t.live.ring f.val k.val).active = false ∧ (t.live.ring f.val k.val).error = false ∧
      (t.live.ring f.val k.val).errorCode = 0 ∧ (t.live.ring f.val k.val).taken = [] ∧
      (t.live.ring f.val k.val).owed = (s.live.ring f.val k.val).owed ∧
      ∀ g j, (g, j) ≠ (f.val, k.val) → t.live.ring g j = s.live.ring g j) ∧
  (∀ (s : State) (f : Fin 8) (k : Fin 13) (v : Nat), s.live.bar0Serves f.val = true → hasSq k.val = true →
    (s.live.ring f.val k.val).active = true → v < 2 ^ (s.live.ring f.val k.val).sqLog2 →
    ∃ t, exec (.sqTailWrite f k v) s = .next t ∧ s.only [.host] t ∧
      t.live.ring f.val k.val = { s.live.ring f.val k.val with sqTail := v } ∧
      ∀ g j, (g, j) ≠ (f.val, k.val) → t.live.ring g j = s.live.ring g j) ∧
  (∀ (s : State) (f : Fin 8) (k : Fin 13) (v : Nat), s.live.bar0Serves f.val = true → hasSq k.val = true →
    (s.live.ring f.val k.val).active = true → 2 ^ (s.live.ring f.val k.val).sqLog2 ≤ v → s.live.mode ≠ .freeze →
    ∃ t, exec (.sqTailWrite f k v) s = .next t ∧ s.only [.store, .host, .events] t ∧
      t.live.ring f.val k.val = { s.live.ring f.val k.val with active := false, error := true, errorCode := 3 } ∧
      (∀ g j, (g, j) ≠ (f.val, k.val) → t.live.ring g j = s.live.ring g j) ∧
      s.live.cellsBut [Obj.key .RING_ERRORS f.val 0 0, Obj.key .WRAPPED_ANY 0 0 0] t.live ∧
      t.live.rd .RING_ERRORS f.val = (s.live.rd .RING_ERRORS f.val + 1) % 256 ^ Obj.RING_ERRORS.len ∧
      s.live.occ 583 (u8 f.val ++ u8 k.val) f.val ∈ t.live.events.arisen) ∧
  (∀ (s : State) (f : Fin 8) (k : Fin 13) (v n : Nat), s.live.bar0Serves f.val = true → (s.live.ring f.val k.val).active = true →
    v < (s.live.ring f.val k.val).cqSize → n = (v + (s.live.ring f.val k.val).cqSize - (s.live.ring f.val k.val).cqHead) % (s.live.ring f.val k.val).cqSize →
    n ≠ 0 → n ≤ (s.live.ring f.val k.val).cqHeld → (s.live.ring f.val k.val).waits.drop n = [] →
    ∃ t, exec (.cqHeadWrite f k v) s = .next t ∧ s.only [.host] t ∧
      t.live.ring f.val k.val = { s.live.ring f.val k.val with cqHead := v, waits := [], signalled := false } ∧
      ∀ g j, (g, j) ≠ (f.val, k.val) → t.live.ring g j = s.live.ring g j) ∧
  (∀ (s : State) (f : Fin 8) (k : Fin 13) (v : Nat), s.live.bar0Serves f.val = true → (s.live.ring f.val k.val).active = true →
    (s.live.ring f.val k.val).cqSize ≤ v → s.live.mode ≠ .freeze →
    ∃ t, exec (.cqHeadWrite f k v) s = .next t ∧ s.only [.store, .host, .events] t ∧
      t.live.ring f.val k.val = { s.live.ring f.val k.val with active := false, error := true, errorCode := 4 } ∧
      s.live.occ 583 (u8 f.val ++ u8 k.val) f.val ∈ t.live.events.arisen) ∧
  (∀ (s : State) (f : Fin 8) (k : Fin 13), (s.live.ring f.val k.val).active = false →
    ∃ t, exec (.ringQuiesced f k) s = .next t ∧ s.only [.host] t ∧
      t.live.ring f.val k.val = { s.live.ring f.val k.val with quiesced := true } ∧
      ∀ g j, (g, j) ≠ (f.val, k.val) → t.live.ring g j = s.live.ring g j) ∧
  (∀ (s : State) (f : Fin 8) (k : Fin 13) (e : List Byte), 4 ≤ k.val → k.val < 11 → k.val ≠ 8 → s.live.ringWorks f.val k.val = true →
    (s.live.ring f.val k.val).sqHeld ≠ 0 →
    (s.live.ring f.val k.val).cqHeld + (s.live.ring f.val k.val).owed + 1 < (s.live.ring f.val k.val).cqSize →
    ∃ t, exec (.sqEntryTake f k e) s = .next t ∧ s.only [.host] t ∧
      t.live.ring f.val k.val = { s.live.ring f.val k.val with sqHead := ((s.live.ring f.val k.val).sqHead + 1) % (s.live.ring f.val k.val).sqSize, owed := (s.live.ring f.val k.val).owed + 1, taken := (s.live.ring f.val k.val).taken ++ [(s.live.ticks, slice e 0 (sqEntryLen k.val))], quiesced := false } ∧
      ∀ g j, (g, j) ≠ (f.val, k.val) → t.live.ring g j = s.live.ring g j) ∧
  (∀ (s : State) (f : Fin 8) (k : Fin 13) (b : Nat) (bs : List Nat), s.live.ringWorks f.val k.val = true →
    (s.live.ring f.val k.val).irqEn = true → (s.live.ring f.val k.val).signalled = false →
    (s.live.ring f.val k.val).waits = b :: bs → bits (s.live.ring f.val k.val).coalesce 0 16 ≠ 0 →
    b + bits (s.live.ring f.val k.val).coalesce 0 16 ≤ s.live.ticks → (s.live.fn f.val).flr = none → s.live.modes.recovery = false →
    s.live.host.up = true → (s.live.fn f.val).fnMask = false →
    bit ((s.live.fn f.val).msixWord (4 * vectorOf f.val (s.live.ring f.val k.val).vector + 3)) 0 = false →
    ∃ t, exec (.cqCoalesceTimeout f k) s = .next t ∧ s.only [.host] t ∧
      t.live.ring f.val k.val = { s.live.ring f.val k.val with signalled := true } ∧
      (t.live.fn f.val).signals.get (vectorOf f.val (s.live.ring f.val k.val).vector) =
        (s.live.fn f.val).signals.get (vectorOf f.val (s.live.ring f.val k.val).vector) + 1)

/-- The link, presence and function-level reset (R597 to R602, R626, R627). -/
def Obligations.LinkAndFunctionsComeAndGo : Prop :=
  (∀ (s : State) (gen width : Fin 4), s.live.host.up = false → s.live.linkHeldDown = false → s.live.mode.evaluates = true →
    ∃ t, exec (.pcieLinkUp gen width) s = .next t ∧ s.only [.store, .host, .events] t ∧ t.live.host = { s.live.host with up := true } ∧
      s.live.cellsBut [Obj.key .LINK_STATE_1600 0 0 0, Obj.key .LINK_SPEED_1600 0 0 0, Obj.key .LINK_WIDTH 0 0 0, Obj.key .H_RATE 0 0 0] t.live ∧
      t.live.rd .LINK_STATE_1600 = 2 ∧ t.live.rd .LINK_SPEED_1600 = gen.val + 1 ∧ t.live.rd .LINK_WIDTH = 2 ^ width.val ∧
      t.live.rd .H_RATE = portHRate gen.val width.val ∧ s.live.arose t.live [s.live.occ 576]) ∧
  (∀ s : State, s.live.host.up = true → s.live.mode.evaluates = true →
    ∃ (t : State) (u : Live), exec .pcieLinkDown s = .next t ∧ s.only [.store, .host, .events, .recoveries] t ∧ t.live = u.flrOf 0 ∧
      u.host = { s.live.host with up := false } ∧
      s.live.cellsBut [Obj.key .LINK_STATE_1600 0 0 0, Obj.key .LINK_SPEED_1600 0 0 0, Obj.key .LINK_WIDTH 0 0 0, Obj.key .H_RATE 0 0 0] u ∧
      u.rd .LINK_STATE_1600 = 0 ∧ u.rd .LINK_SPEED_1600 = 0 ∧ u.rd .LINK_WIDTH = 0 ∧ u.rd .H_RATE = 0 ∧ s.live.arose u [s.live.occ 577]) ∧
  (∀ (s : State) (f : Fin 8), s.live.bar0Serves f.val = true →
    ∃ t, exec (.hostAlive f) s = .next t ∧ s.only [.host] t ∧ t.live.fn f.val = { s.live.fn f.val with alive := s.live.ticks } ∧
      ∀ g, g ≠ f.val → t.live.fn g = s.live.fn g) ∧
  (∀ (s : State) (f : Fin 8), (s.live.fn f.val).watchdog ≠ 0 → (s.live.fn f.val).alive + (s.live.fn f.val).watchdog < s.live.ticks →
    (s.live.fn f.val).present = true → s.live.mode.evaluates = true →
    ∃ t, exec (.hostWatchdogExpiry f) s = .next t ∧ s.only [.store, .host, .events] t ∧
      t.live.fn f.val = { s.live.fn f.val with present := false } ∧ (∀ g, g ≠ f.val → t.live.fn g = s.live.fn g) ∧
      s.live.cellsBut [Obj.key .PRESENT f.val 0 0] t.live ∧ t.live.rd .PRESENT f.val = 0 ∧
      s.live.arose t.live [s.live.occ 579 (u8 f.val) f.val]) ∧
  (∀ (s : State) (f : Fin 8), s.live.host.up = true → f.val ≠ 0 → (s.live.fn f.val).flr = none → s.live.mode.evaluates = true →
    ∃ t, exec (.flrStart f) s = .next t ∧ s.only [.store, .host, .events, .recoveries] t ∧
      (t.live.fn f.val).present = false ∧ (t.live.fn f.val).flr = some s.live.ticks ∧ (t.live.fn f.val).cleaned = false ∧
      (∀ k ∈ [4, 5, 6, 7, 9, 10], (t.live.ring f.val k).taken = []) ∧ (∀ g, g ≠ f.val → t.live.fn g = s.live.fn g) ∧
      s.live.occ 581 (u8 f.val) f.val ∈ t.live.events.arisen) ∧
  (∀ (s : State) (f : Fin 8) (w : Nat), (s.live.fn f.val).flr = some w → (s.live.fn f.val).cleaned = false → w < s.live.ticks →
    ∃ (t : State) (u : Live), exec (.flrCleanup f) s = .next t ∧
      s.only [.store, .dict, .mailboxes, .bpm, .flannel, .comp, .mover, .host, .events, .recoveries] t ∧
      u = ((((((s.live.drainAcks).withdrawMaster (functionRank f.val)).setMbx f.val fun _ => {}).forcedRelease (8 + f.val)).jobsStop
        (2 + f.val)).loadsCut f.val).offersCut f.val ∧
      t.live = u.setFn f.val (fun x => { x with cleaned := true }) ∧ (t.live.fn f.val).cleaned = true) ∧
  (∀ (s : State) (f : Fin 8) (w : Nat), (s.live.fn f.val).flr = some w → (s.live.fn f.val).cleaned = true → w + 9 ≤ s.live.ticks →
    s.live.mode.evaluates = true →
    ∃ t, exec (.flrDone f) s = .next t ∧ s.only [.store, .dict, .modes, .bpm, .host, .events, .recoveries] t ∧
      t.live.fn f.val =
        { resetDone := true, journalSeq := (s.live.fn f.val).journalSeq, vfEnable := (s.live.fn f.val).vfEnable } ∧
      (∀ g, g ≠ f.val → t.live.fn g = s.live.fn g) ∧ s.live.occ 582 (u8 f.val) f.val ∈ t.live.events.arisen) ∧
  (∀ (s : State) (ecrc : Bool), s.live.host.up = true → s.live.mode.evaluates = true →
    ∃ t, exec (.malformedTlp ecrc) s = .next t ∧ s.only [.store, .events] t ∧ t.live.store = s.live.store ∧
      s.live.arose t.live [s.live.occ 587 (u8 (if ecrc then 19 else 18))])

/-- Entries of the rings (R607 to R617). -/
def Obligations.EntriesCompleteAndLoadsRun : Prop :=
  (∀ (s : State) (f : Fin 8) (k : Fin 4) (data e : List Byte) (b at_ : Nat) (es : List (Nat × List Byte)),
    (s.live.ring f.val (4 + k.val)).taken = (b, e) :: es → s.live.ringWorks f.val (4 + k.val) = true →
    60 ≤ leAt e 8 2 → leAt e 8 2 ≤ 9212 → leAt e 12 2 ≠ 0 → leAt e 12 2 ≤ 4094 → (f.val = 0 → fieldAt e 15 1 ≤ 7) →
    bit (fieldAt e 10 1) 0 = false → s.live.tnActive (if f.val = 0 then fieldAt e 15 1 else f.val) = true →
    s.live.vidOwner (leAt e 12 2) = (if f.val = 0 then fieldAt e 15 1 else f.val) →
    ∃ (t : State) (u : Live), exec (.txFrame f k data false at_) s = .next t ∧ s.only [.store, .plane, .host, .events, .free] t ∧
      t.live = (u.txEnter f.val (if f.val = 0 then fieldAt e 15 1 else f.val) (leAt e 12 2) (fieldAt e 11 1 % 8) (fieldAt e 14 1) false
        (slice data 0 (leAt e 8 2)) false).txComplete f.val (4 + k.val) e 0 s.live.now ∧
      s.live.cellsBut [Obj.key .H_TX_ACCEPTED f.val 0 0, Obj.key .WRAPPED_ANY 0 0 0] u ∧
      u.rd .H_TX_ACCEPTED f.val = (s.live.rd .H_TX_ACCEPTED f.val + 1) % 256 ^ Obj.H_TX_ACCEPTED.len ∧
      (t.live.ring f.val (4 + k.val)).lastEntry = slice e 16 4 ++ u8 0 ++ List.replicate 3 0 ++ leBytes 8 s.live.now) ∧
  (∀ (s : State) (f : Fin 8) (k : Fin 4) (data e : List Byte) (b at_ : Nat) (es : List (Nat × List Byte)),
    (s.live.ring f.val (4 + k.val)).taken = (b, e) :: es → s.live.ringWorks f.val (4 + k.val) = true →
    60 ≤ leAt e 8 2 → leAt e 8 2 ≤ 9212 → leAt e 12 2 ≠ 0 → leAt e 12 2 ≤ 4094 → (f.val = 0 → fieldAt e 15 1 ≤ 7) →
    bit (fieldAt e 10 1) 0 = false → s.live.vidOwner (leAt e 12 2) ≠ (if f.val = 0 then fieldAt e 15 1 else f.val) →
    ∃ t, exec (.txFrame f k data false at_) s = .next t ∧ s.only [.store, .plane, .host, .events, .free] t ∧
      s.live.cellsBut [Obj.key .H_TX_DENIED f.val 0 0, Obj.key .WRAPPED_ANY 0 0 0] t.live ∧
      t.live.rd .H_TX_DENIED f.val = (s.live.rd .H_TX_DENIED f.val + 1) % 256 ^ Obj.H_TX_DENIED.len ∧
      (t.live.ring f.val (4 + k.val)).taken = es ∧
      (t.live.ring f.val (4 + k.val)).lastEntry = slice e 16 4 ++ u8 1 ++ List.replicate 3 0 ++ leBytes 8 s.live.now) ∧
  (∀ (s : State) (f : Fin 8) (k : Fin 4) (data e : List Byte) (b at_ : Nat) (poison : Bool) (es : List (Nat × List Byte)),
    (s.live.ring f.val (4 + k.val)).taken = (b, e) :: es → s.live.ringWorks f.val (4 + k.val) = true → leAt e 8 2 < 60 →
    ∃ (t : State) (n : Nat), exec (.txFrame f k data poison at_) s = .next t ∧ s.only [.store, .plane, .host, .events, .free] t ∧
      t.live.store = s.live.store ∧ (t.live.ring f.val (4 + k.val)).taken = es ∧
      (t.live.ring f.val (4 + k.val)).owed = (s.live.ring f.val (4 + k.val)).owed - 1 ∧
      (t.live.ring f.val (4 + k.val)).lastEntry = slice e 16 4 ++ u8 2 ++ List.replicate 3 0 ++ leBytes 8 n) ∧
  (∀ (s : State) (f : Fin 8) (e : List Byte) (b : Nat) (es : List (Nat × List Byte)), (s.live.ring f.val 8).taken = (b, e) :: es →
    s.live.ringWorks f.val 8 = true → drainOp e = 1 →
    ∃ t, exec (.drainBufferPost f) s = .next t ∧ s.only [.host] t ∧
      (t.live.fn f.val).buffers = (s.live.fn f.val).buffers ++ [leAt e 8 8] ∧
      t.live.ring f.val 8 = { s.live.ring f.val 8 with taken := es } ∧ ∀ g, g ≠ f.val → t.live.fn g = s.live.fn g) ∧
  (∀ (s : State) (f : Fin 8) (entry : List Byte) (x : Load), s.live.mayTake f.val 11 = true → s.live.loadTurn f.val = false →
    s.live.tnActive f.val = true →
    x = { fn := f.val, table := fieldAt (slice entry 0 32) 8 1, bank := fieldAt (slice entry 0 32) 9 1, first := leAt (slice entry 0 32) 12 4, count := leAt (slice entry 0 32) 16 4, cookie := leAt (slice entry 0 32) 20 4 } →
    x.table < 4 → x.bank < 2 → x.count ≠ 0 → x.first + x.count ≤ ctSize x.table → x.bank ≠ s.live.rd .ACTIVE_BANK x.table →
    s.live.draining x.table = false →
    ∃ t, exec (.tableLoad f entry) s = .next t ∧ s.only [.host] t ∧ t.live.host.loads = s.live.host.loads ++ [x] ∧
      t.live.host.loadAt.get f.val = some s.live.ticks ∧ (t.live.ring f.val 11).owed = (s.live.ring f.val 11).owed + 1) ∧
  (∀ (s : State) (x : Load) (xs : List Load), s.live.host.loads = x :: xs → x.count ≤ x.pos → s.live.ringWorks x.fn 11 = true →
    ∃ t, exec .tableLoadDone s = .next t ∧ s.only [.store, .host, .events] t ∧ t.live.store = s.live.store ∧ t.live.host.loads = xs ∧
      t.live.host.marks = s.live.host.marks.filter (· != 2 * x.table + x.bank) ∧ s.live.arose t.live [s.live.occ 593] ∧
      (t.live.ring x.fn 11).lastEntry = leBytes 4 x.cookie ++ u8 0 ++ u8 x.poison.toNat ++ leBytes 2 0 ++ leBytes 4 x.written ++
        leBytes 4 x.clamped ++ leBytes 4 x.denied ++ leBytes 4 0 ++ leBytes 8 s.live.now) ∧
  (∀ (s : State) (f : Fin 8) (k : Fin 13) (poisoned timeout : Bool), s.live.ringWorks f.val k.val = true → hasSq k.val = true →
    ∃ t, exec (.dmaReadFailed f k false poisoned timeout) s = .next t ∧ s.only [.store, .host, .events, .free] t ∧
      t.live.ring f.val k.val = { s.live.ring f.val k.val with active := false, error := true, errorCode := if poisoned ∧ ¬ timeout then 2 else 1 } ∧
      (∀ g j, (g, j) ≠ (f.val, k.val) → t.live.ring g j = s.live.ring g j) ∧
      t.live.rd .RING_ERRORS f.val = (s.live.rd .RING_ERRORS f.val + 1) % 256 ^ Obj.RING_ERRORS.len ∧
      s.live.occ 583 (u8 f.val ++ u8 k.val) f.val ∈ t.live.events.arisen ∧
      (timeout = true → s.live.occ 590 (u8 f.val) f.val ∈ t.live.events.arisen)) ∧
  (∀ (s : State) (f : Fin 8) (k : Fin 4) (e : List Byte) (b : Nat) (es : List (Nat × List Byte)),
    (s.live.ring f.val (4 + k.val)).taken = (b, e) :: es → s.live.ringWorks f.val (4 + k.val) = true →
    ∃ (t : State) (n : Nat), exec (.dmaReadFailed f ⟨4 + k.val, by omega⟩ true false false) s = .next t ∧
      s.only [.store, .host, .events, .free] t ∧
      s.live.cellsBut [Obj.key .H_TX_DMA_ERRORS f.val 0 0, Obj.key .WRAPPED_ANY 0 0 0] t.live ∧
      t.live.rd .H_TX_DMA_ERRORS f.val = (s.live.rd .H_TX_DMA_ERRORS f.val + 1) % 256 ^ Obj.H_TX_DMA_ERRORS.len ∧
      (t.live.ring f.val (4 + k.val)).taken = es ∧
      (t.live.ring f.val (4 + k.val)).lastEntry = slice e 16 4 ++ u8 3 ++ List.replicate 3 0 ++ leBytes 8 n)

/-- BAR0 (R599, R600, R604, R619, R620, R624, R625, R628). -/
def Obligations.RegistersApertureAndRecoveryWindow : Prop :=
  (∀ (s : State) (f : Fin 8) (off reg width : Nat) (data : List Byte), s.live.host.up = true → (f.val ≠ 0 → (s.live.fn f.val).vfEnable = true) →
    s.live.mode ≠ .bringup → (s.live.fn f.val).flr = none → s.live.mode ≠ .decommissioned → registerAt f.val off = some (reg, width) →
    off + data.length ≤ reg + width → data ≠ [] → off < 0xA000 → off + data.length ≤ barSize f.val →
    ∃ t, exec (.registerWrite f off data false) s = .next t ∧ s.only [.store, .mailboxes, .bpm, .host, .events] t ∧
      t.live = s.live.registerSet f.val off reg width data) ∧
  (∀ (s : State) (f : Fin 8) (data : List Byte) (v : Nat), s.live.host.up = true → (f.val ≠ 0 → (s.live.fn f.val).vfEnable = true) →
    s.live.mode ≠ .bringup → (s.live.fn f.val).flr = none → s.live.mode ≠ .decommissioned → data.length = 4 →
    v = mergeReg ((s.live.fn f.val).mbxVector * 256 + (s.live.fn f.val).driverReady.toNat) 4 0 data →
    ∃ t, exec (.registerWrite f 4 data false) s = .next t ∧ s.only [.store, .mailboxes, .bpm, .host, .events] t ∧
      t.live.fn f.val = { s.live.fn f.val with mbxVector := bits v 8 (if f.val = 0 then 6 else 4), driverReady := bit v 0 } ∧
      t.live.store = s.live.store ∧ ∀ g, g ≠ f.val → t.live.fn g = s.live.fn g) ∧
  (∀ (s : State) (f : Fin 8) (off r : Nat) (data : List Byte), s.live.host.up = true → (f.val ≠ 0 → (s.live.fn f.val).vfEnable = true) →
    s.live.mode ≠ .bringup → (s.live.fn f.val).flr = none → s.live.mode ≠ .decommissioned → s.live.mode.evaluates = true → off < 0xA000 →
    off + data.length ≤ barSize f.val → data ≠ [] →
    (registerAt f.val off = none ∧ r = 1 ∨ (∃ reg width, registerAt f.val off = some (reg, width) ∧ reg + width < off + data.length ∧ r = 9) ∨
      (∃ width, registerAt f.val off = some (0, width) ∧ off + data.length ≤ width ∧ r = 2)) →
    ∃ t, exec (.registerWrite f off data false) s = .next t ∧ s.only [.store, .mailboxes, .bpm, .host, .events] t ∧
      t.live.fn f.val = { s.live.fn f.val with journal := lastN 32 ((s.live.fn f.val).journal ++ [{ seq := ((s.live.fn f.val).journalSeq + 1) % 2 ^ 32, reason := r, detail := 0, length := data.length, address := off, data := beVal (slice data 0 8), beat := s.live.now }]), journalSeq := ((s.live.fn f.val).journalSeq + 1) % 2 ^ 32, journalNew := true } ∧
      (∀ g, g ≠ f.val → t.live.fn g = s.live.fn g) ∧ s.live.cellsBut [Obj.key .JOURNAL_SEQ f.val 0 0] t.live ∧
      t.live.rd .JOURNAL_SEQ f.val = ((s.live.fn f.val).journalSeq + 1) % 2 ^ 32 ∧
      s.live.occ 580 (u8 f.val ++ u8 r) f.val ∈ t.live.events.arisen) ∧
  (∀ (s : State) (f : Fin 8) (offset : Nat) (data : List Byte), s.live.host.up = true → (f.val ≠ 0 → (s.live.fn f.val).vfEnable = true) →
    s.live.mode.engineOn = true → (s.live.fn f.val).flr = none → offset + data.length ≤ apertureSize f.val → offset < apertureSize f.val →
    s.live.apertureCheck f.val offset data.length = bpmOk →
    ∃ t, exec (.apertureWrite f offset data false) s = .next t ∧ s.only [.store, .mailboxes, .bpm, .host, .events] t ∧
      t.live = s.live.bufWrite (handleKey (s.live.fn f.val).winHandle) ((s.live.fn f.val).winOffset + offset) data false) ∧
  (∀ (s : State) (f : Fin 8) (offset len : Nat), s.live.host.up = true → (f.val ≠ 0 → (s.live.fn f.val).vfEnable = true) →
    s.live.mode.engineOn = true → (s.live.fn f.val).flr = none → offset + len ≤ apertureSize f.val →
    s.live.apertureCheck f.val offset len = bpmOk →
    (s.live.buf (handleKey (s.live.fn f.val).winHandle)).poisoned ((s.live.fn f.val).winOffset + offset) len = false →
    ∃ t, exec (.apertureRead f offset len) s = .next t ∧ s.only [.store, .host, .events] t ∧ t.live.store = s.live.store ∧
      t.live.fn f.val = { s.live.fn f.val with apertureRead := some (s.live.bufRead (handleKey (s.live.fn f.val).winHandle) ((s.live.fn f.val).winOffset + offset) len) } ∧
      ∀ g, g ≠ f.val → t.live.fn g = s.live.fn g) ∧
  (∀ (s : State) (f : Fin 8) (offset len : Nat), s.live.host.up = true → (f.val ≠ 0 → (s.live.fn f.val).vfEnable = true) →
    s.live.mode = .freeze → (s.live.fn f.val).flr = none →
    ∃ t, exec (.apertureRead f offset len) s = .next t ∧ s.only [.store, .host, .events] t ∧ t.live.store = s.live.store ∧
      t.live.fn f.val = { s.live.fn f.val with apertureRead := none }) ∧
  (∀ (s : State) (length : Nat), s.live.mode = .bringup → s.live.modes.recovery = true → s.live.host.up = true →
    ∃ t, exec (.recoveryCommit length) s = .next t ∧ s.only [.host] t ∧
      t.live.host = { s.live.host with recoveryLength := length % 2 ^ 26, recoveryStatus := 1 }) ∧
  (∀ s : State, s.live.mode = .bringup → s.live.modes.recovery = true → s.live.host.recoveryStatus = 2 →
    ∃ (t : State) (u : Live), exec .recoveryUsed s = .next t ∧ t.start = s.start ∧ t.pending = s.pending ∧ t.live = u.restart 6 ∧
      u.host = { s.live.host with recoveryStatus := 0, staged := [], recoveryLength := 0 } ∧ u.rd .BOOT_PREFERENCE = 0 ∧
      ∀ k, k < 32 → u.modes.slotA.blocks.get k = slice s.live.host.staged (1048576 * k) 1048576)

/-- Keep copies, segments, pre-roll and heartbeats (R467 to R477). -/
def Obligations.KeepCopiesSegmentsAndHeartbeats : Prop :=
  (∀ (s : State) (at_ i : Nat) (fr : Frame) (m : Live), s.live.portServed 53 = true → (s.live.at at_).takeFrom 53 = (some fr, m) →
    streamWrites (m.rd .STATE_1240 (2 * fr.port + wKeepSlot fr.word)) = true → fr.tn = m.streamTn (2 * fr.port + wKeepSlot fr.word) →
    m.openSeg (2 * fr.port + wKeepSlot fr.word) = some i → (m.seg i).bytes + recordSize (fr.bytes.length - 4) ≤ segSize →
    ∃ t, exec (.keepCopy at_ none) s = .next t ∧ s.only [.store, .plane, .bpm, .flannel, .events, .recoveries] t ∧
      (t.live.seg i).frames = (m.seg i).frames + 1 ∧ (t.live.seg i).bytes = (m.seg i).bytes + (frameRecord fr (m.seg i).firstBeat).length ∧
      (t.live.seg i).lastBeat = fr.beat ∧ (∀ j, j ≠ i → t.live.seg j = m.seg j) ∧
      t.live.bpm = (m.bufWrite (bufKey 5 i) (m.seg i).bytes (frameRecord fr (m.seg i).firstBeat) fr.poisoned).bpm) ∧
  (∀ (s : State) (at_ : Nat) (fr : Frame) (m : Live), s.live.portServed 53 = true → (s.live.at at_).takeFrom 53 = (some fr, m) →
    streamWrites (m.rd .STATE_1240 (2 * fr.port + wKeepSlot fr.word)) = false → 2 * fr.port + wKeepSlot fr.word < 96 →
    ∃ t, exec (.keepCopy at_ none) s = .next t ∧ s.only [.store, .plane, .bpm, .flannel, .events, .recoveries] t ∧
      t.live.flannel = s.live.flannel ∧ t.live.bpm = s.live.bpm ∧
      m.cellsBut [Obj.key .KEEP_DISCARDS (2 * fr.port + wKeepSlot fr.word) 0 0, Obj.key .WRAPPED_ANY 0 0 0] t.live ∧
      t.live.rd .KEEP_DISCARDS (2 * fr.port + wKeepSlot fr.word) =
        (m.rd .KEEP_DISCARDS (2 * fr.port + wKeepSlot fr.word) + 1) % 256 ^ Obj.KEEP_DISCARDS.len) ∧
  (∀ (s : State) (i : Nat), s.live.mode.running = true → (s.live.seg i).state = segOpen → (s.live.seg i).opened + 480000 ≤ s.live.ticks →
    ∃ (t : State) (u : Live), exec .segmentAgeClose s = .next t ∧ s.only [.flannel, .events] t ∧ t.live = u.commitIndex ∧
      ((u.seg i).state = segPreroll ∨ (u.seg i).state = segRetained) ∧
      ∀ j, j ∉ s.live.segsWhere (fun g => g.state == segOpen && g.opened + 480000 ≤ s.live.ticks) → u.seg j = s.live.seg j) ∧
  (∀ s : State, s.live.mode.running = true →
    ∃ t, exec .prerollFree s = .next t ∧ s.only [.store, .bpm, .flannel, .events] t ∧
      t.live = ((List.range 96).filter s.live.rolls).foldl (fun l st =>
        ((l.prerollOf st).filter fun i => (l.seg i).committed && (l.seg i).lastAt + 8000 * l.rd .PREROLL_S st < l.ticks).foldl
          (fun l i => (l.count .PREROLL_FREED 1 st).freeSeg i) l) s.live) ∧
  (∀ s : State, s.live.mode.running = true → s.live.rdB .PROBE_ENABLE = true → s.live.elapsed % max 1 (s.live.rd .PROBE_INTERVAL) = 0 →
    s.live.flannel.ranFrom < s.live.ticks → s.live.flannel.lastCheck = none → s.live.probeBlind = false →
    ∃ (t : State) (u : Live) (j : Nat), exec .heartbeatCheck s = .next t ∧ s.only [.flannel] t ∧ t.live = u.commitIndex ∧
      1 ≤ j ∧ j ≤ s.live.rd .PROBE_JITTER + 1 ∧
      u.flannel = { s.live.flannel with lastCheck := some s.live.ticks, beaten := false, replied := false, sendAt := some (s.live.ticks + j) }) ∧
  (∀ (s : State) (b : Nat), s.live.mode.running = true → s.live.rdB .PROBE_ENABLE = true →
    s.live.elapsed % max 1 (s.live.rd .PROBE_INTERVAL) = 0 → s.live.flannel.ranFrom < s.live.ticks → s.live.flannel.lastCheck = some b →
    b ≠ s.live.ticks → s.live.flannel.beaten = false →
    ∃ (t : State) (u : Live), exec .heartbeatCheck s = .next t ∧ s.only [.store, .bpm, .flannel, .events, .recoveries] t ∧
      t.live = u.commitIndex ∧ u.store = (s.live.probeJudge false).store ∧ u.flannel.lastCheck = some s.live.ticks) ∧
  (∀ (s : State) (at_ b : Nat), s.live.flannel.sendAt = some b → b ≤ s.live.ticks → s.live.mode.running = true →
    s.live.flannel.probed ≠ some s.live.ticks → s.live.flannel.probeQueue = [] → s.live.rd .LINK_JUDGEMENT ≠ 1 → s.live.probeBlind = false →
    ∃ (t : State) (u : Live) (p : Nat × List Byte), exec (.heartbeatSend at_) s = .next t ∧ s.only [.store, .plane, .flannel, .events] t ∧
      t.live = u.flannelSend 0 (s.live.rd .PROBE_VLAN) 7 (s.live.rd .GATEWAY_MAC) p ∧ s.live.cellsBut [Obj.key .PROBE_SEQ 0 0 0] u ∧
      u.rd .PROBE_SEQ = (s.live.rd .PROBE_SEQ + 1) % 2 ^ 32 ∧
      u.flannel = { s.live.flannel with sendAt := none, probed := some s.live.ticks, beaten := true, replied := false }) ∧
  (∀ (s : State) (at_ b : Nat), s.live.flannel.sendAt = some b → b ≤ s.live.ticks → s.live.mode.running = true →
    s.live.flannel.probed = some s.live.ticks →
    ∃ t, exec (.heartbeatSend at_) s = .next t ∧ s.only [.plane, .flannel] t ∧
      t.live.flannel = { s.live.flannel with sendAt := none, probeQueue := s.live.flannel.probeQueue ++ [.send] }) ∧
  (∀ (s : State) (port : Fin 56) (src : Nat) (payload : List Byte), s.live.mode.engineOn = true →
    s.live.flannel.probed ≠ some s.live.ticks → s.live.flannel.probeQueue = [] → s.live.replyValid port.val src payload = true →
    ∃ t, exec (.probeReply port src payload) s = .next t ∧ s.only [.store, .flannel] t ∧
      s.live.cellsBut [Obj.key .LAST_REPLY_BEAT 0 0 0] t.live ∧ t.live.rd .LAST_REPLY_BEAT = s.live.now % 256 ^ Obj.LAST_REPLY_BEAT.len ∧
      t.live.flannel = { s.live.flannel with probed := some s.live.ticks, replied := true, holdBackfill := bit (fieldAt payload 1 1) 7 }) ∧
  (∀ (s : State) (port : Fin 56) (src : Nat) (payload : List Byte), s.live.mode.engineOn = true →
    s.live.flannel.probed ≠ some s.live.ticks → s.live.flannel.probeQueue = [] → s.live.replyValid port.val src payload = false →
    ∃ t, exec (.probeReply port src payload) s = .next t ∧ s.only [.store, .flannel, .events] t ∧
      s.live.cellsBut [Obj.key .REPLIES_IGNORED 0 0 0, Obj.key .WRAPPED_ANY 0 0 0] t.live ∧
      t.live.rd .REPLIES_IGNORED = (s.live.rd .REPLIES_IGNORED + 1) % 256 ^ Obj.REPLIES_IGNORED.len ∧
      t.live.flannel = { s.live.flannel with probed := some s.live.ticks })

/-- Returns (R483 to R490, R494). -/
def Obligations.SegmentsReturnAndAreSentAgain : Prop :=
  (∀ (s : State) (f : Fin 8) (b : ExportBlock), s.live.mode.running = true → s.live.ringWorks f.val 8 = true → (s.live.fn f.val).flr = none →
    (s.live.fn f.val).buffers ≠ [] → s.live.tnActive f.val = true → s.live.offersTo f.val < s.live.rd .DRAIN_WINDOW 0 0 f.val →
    (s.live.flannel.blocks.find? fun b => b.tn == f.val && b.handle != 0 && b.offer == none) = some b →
    ∃ t, exec (.drainOffer f) s = .next t ∧ s.only [.store, .bpm, .flannel, .host, .events] t ∧
      t.live = (s.live.offerOut f.val b.handle b.length 1 (List.replicate 64 0) b.reoffered).setFlannel fun x =>
        { x with blocks := x.blocks.map fun (c : ExportBlock) => if c = b then { c with offer := some (f.val, s.live.ticks) } else c }) ∧
  (∀ (s : State) (f : Fin 8) (i : Nat) (is : List Nat), s.live.mode.running = true → s.live.ringWorks f.val 8 = true →
    (s.live.fn f.val).flr = none → (s.live.fn f.val).buffers ≠ [] → s.live.tnActive f.val = true →
    s.live.offersTo f.val < s.live.rd .DRAIN_WINDOW 0 0 f.val →
    (s.live.flannel.blocks.find? fun b => b.tn == f.val && b.handle != 0 && b.offer == none) = none →
    s.live.returnPath f.val = 1 → s.live.returnOrder f.val = i :: is →
    ∃ (t : State) (u : Live), exec (.drainOffer f) s = .next t ∧ s.only [.store, .bpm, .flannel, .host, .events] t ∧
      u = s.live.checkCrc i ∧
      t.live = (u.offerOut f.val (u.seg i).handle (u.seg i).bytes 0 (u.seg i).record (u.seg i).reoffered).setSeg i
        (fun g => { g with state := segReturning, offer := some (f.val, s.live.ticks) }) ∧
      (t.live.seg i).state = segReturning ∧ (t.live.seg i).offer = some (f.val, s.live.ticks)) ∧
  (∀ (s : State) (f : Fin 8) (b i : Nat) (e : List Byte), s.live.mode.running = true →
    ((s.live.ring f.val 8).taken.find? fun e => drainOp e.2 == 2 && decide (e.1 < s.live.ticks)) = some (b, e) →
    (s.live.segsWhere (ackNames f.val e)).head? = some i →
    ∃ (t : State) (u : Live), exec (.drainAck f) s = .next t ∧ s.only [.store, .bpm, .flannel, .host, .events, .recoveries] t ∧
      t.live = u.returned i ∧ u.ring f.val 8 = { s.live.ring f.val 8 with taken := (s.live.ring f.val 8).taken.erase (b, e) } ∧
      u.flannel = s.live.flannel ∧ u.store = s.live.store) ∧
  (∀ (s : State) (i : Nat), s.live.mode.engineOn = true → (s.live.seg i).state = segReturning →
    s.live.offerLate (s.live.seg i).tn (s.live.seg i).handle (s.live.seg i).closeBeat (s.live.seg i).offer = true →
    ∃ t, exec .flnDrainTimeout s = .next t ∧ s.only [.store, .bpm, .flannel, .events] t ∧
      (t.live.seg i).state = segRetained ∧ (t.live.seg i).offer = none ∧ (t.live.seg i).reoffered = true) ∧
  (∀ (s : State) (at_ i : Nat) (d : Datagram), s.live.mode.running = true → s.live.flannel.lost = false →
    s.live.flannel.holdBackfill = false → 0 ≤ s.live.backfillCredit → s.live.flannel.sending = some i →
    s.live.backfillVlan (s.live.seg i).tn = true → (s.live.datagrams i)[(s.live.seg i).sent]? = some d →
    ∃ t, exec (.backfillSend at_) s = .next t ∧ s.only [.store, .plane, .flannel, .events] t ∧
      t.live.seg i = { s.live.seg i with sent := (s.live.seg i).sent + 1, sentAt := if (s.live.seg i).sent + 1 = (s.live.seg i).datagrams then some s.live.ticks else none } ∧
      (∀ j, j ≠ i → t.live.seg j = s.live.seg j) ∧
      t.live.flannel.sending = if (s.live.seg i).sent + 1 = (s.live.seg i).datagrams then none else some i) ∧
  (∀ (s : State) (at_ i : Nat), s.live.mode.running = true → s.live.flannel.lost = false →
    s.live.flannel.holdBackfill = false → 0 ≤ s.live.backfillCredit → s.live.flannel.sending = none → s.live.nextSend = some i →
    ∃ t, exec (.backfillSend at_) s = .next t ∧ s.only [.store, .plane, .flannel, .events] t ∧
      t.live = (((s.live.at at_).beginSend i).sendDatagram i)) ∧
  (∀ (s : State) (n : Fin 8) (payload : List Byte), s.live.mode.running = true →
    ∃ t, exec (.backfillAck n payload) s = .next t ∧ s.only [.flannel] t ∧
      t.live.flannel = { s.live.flannel with acks := s.live.flannel.acks ++ [(n.val, payload)] }) ∧
  (∀ (s : State) (i b : Nat), s.live.mode.running = true → (s.live.seg i).sends = true → (s.live.seg i).sentAt = some b →
    b + s.live.rd .BACKFILL_ACK_TIMEOUT ≤ s.live.ticks →
    ∃ t, exec .flnBackfillTimeout s = .next t ∧ s.only [.store, .flannel, .events] t ∧
      (t.live.seg i).sent = 0 ∧ (t.live.seg i).sentAt = none ∧ (t.live.seg i).resent = true) ∧
  (∀ (s : State) (n : Fin 8), s.live.mode.engineOn = true → s.live.rdB .EXPORT_BUSY 0 0 n.val = false →
    (∃ e ∈ s.start.flannel.segs, e.2.tn = n.val ∧ e.2.state ≠ segFree) →
    ∃ (t : State) (bs : List ExportBlock), exec (.indexExport n) s = .next t ∧ s.only [.store, .flannel] t ∧
      s.live.cellsBut [Obj.key .EXPORT_BUSY 0 0 n.val] t.live ∧ t.live.rd .EXPORT_BUSY 0 0 n.val = 1 ∧ bs ≠ [] ∧
      (∀ b ∈ bs, b.tn = n.val) ∧ t.live.flannel = { s.live.flannel with blocks := s.live.flannel.blocks ++ bs }) ∧
  (∀ (s : State) (n : Fin 8), s.live.mode.engineOn = true → s.live.rdB .EXPORT_BUSY 0 0 n.val = false →
    (∀ e ∈ s.start.flannel.segs, ¬ (e.2.tn = n.val ∧ e.2.state ≠ segFree)) →
    ∃ t, exec (.indexExport n) s = .next t ∧ s.only [.events] t ∧ s.live.arose t.live [s.live.occ 460 [] n.val]) ∧
  (∀ (s : State) (p : Fin 96), s.live.mode.engineOn = true →
    ∃ (t : State) (u : Live), exec (.purge p) s = .next t ∧ s.only [.store, .bpm, .flannel, .host, .events, .recoveries] t ∧
      u = (s.live.drainAcks.setFlannel fun x => { x with purging := setBit x.purging p.val true, purgeKeys := x.purgeKeys ++ (s.live.drainAcks.segsWhere fun g => g.stream == p.val).map fun i => (p.val, bufKey 5 i) }).refreshStreams ∧
      t.live = ((u.segsWhere fun g => g.stream == p.val).foldl (fun l i => (l.withdrawReturn i).freeSeg i) u).refreshStreams)

/-- Gate control changes (R442, R445 to R450, R454, R464). -/
def Obligations.ArmedChangesTakeOver : Prop :=
  (∀ (s : State) (p : Fin 52) (t0 : Nat), s.live.mode.gates = true → s.live.ptpNs < t0 % 2 ^ 64 / 8 * 8 →
    ∃ t, exec (.changeTime p t0) s = .next t ∧ s.only [.store, .modes, .plane, .events] t ∧ t.live.modes = s.live.modes ∧
      s.live.cellsBut (Obj.key .CHANGE_STATE p.val 0 0 :: Obj.key .ARMED_TIME p.val 0 0 ::
        (List.range 256).map fun e => Obj.key .GATE_ARMED (2 * p.val + e / 128) (e % 128) 0) t.live ∧
      t.live.rd .CHANGE_STATE p.val = 1 ∧ t.live.rd .ARMED_TIME p.val = t0 % 2 ^ 64 / 8 * 8 ∧
      (∀ e, e < 256 → t.live.elem .GATE_ARMED e (2 * p.val) =
        if e < s.live.rd .PENDING_LENGTH p.val then s.live.elem .GATE_PENDING e (2 * p.val) % 2 ^ 64 else 0) ∧
      (t.live.portRt p.val).armed = (s.live.rd .PENDING_LENGTH p.val, s.live.rd .PENDING_CYCLE_NS p.val) ∧
      s.live.arose t.live (if s.live.rd .CHANGE_STATE p.val = 1 then [s.live.occ 433 (u8 p.val) (s.live.portOwner p.val)] else [])) ∧
  (∀ (s : State) (p : Fin 52) (t0 : Nat), s.live.mode.gates = true → t0 % 2 ^ 64 / 8 * 8 ≤ s.live.ptpNs →
    ∃ t, exec (.changeTime p t0) s = .next t ∧ s.only [.store, .modes, .plane, .events] t ∧
      t.live.rd .OPER_ORIGIN p.val = t0 % 2 ^ 64 / 8 * 8 ∧ t.live.rd .LAST_TAKEOVER p.val = t0 % 2 ^ 64 / 8 * 8 ∧
      t.live.rd .OPER_LENGTH p.val = s.live.rd .PENDING_LENGTH p.val % 2 ^ 16 ∧
      t.live.rd .OPER_CYCLE_NS p.val = s.live.rd .PENDING_CYCLE_NS p.val % 2 ^ 32 ∧
      t.live.rd .CHANGE_STATE p.val = 0 ∧ t.live.rd .TAKEOVERS p.val = (s.live.rd .TAKEOVERS p.val + 1) % 2 ^ 64 ∧
      t.live.rd .LATE_TAKEOVERS p.val = (s.live.rd .LATE_TAKEOVERS p.val + 1) % 2 ^ 64 ∧
      (∀ e, e < 256 → t.live.elem .GATE_OPER e (2 * p.val) =
        if e < s.live.rd .PENDING_LENGTH p.val then s.live.elem .GATE_PENDING e (2 * p.val) % 2 ^ 64 else 0) ∧
      s.live.occ 432 (u8 p.val ++ u64 (t0 % 2 ^ 64 / 8 * 8)) (s.live.portOwner p.val) ∈ t.live.events.arisen ∧
      s.live.occ 435 (u8 p.val) (s.live.portOwner p.val) ∈ t.live.events.arisen) ∧
  (∀ (s : State) (p : Fin 52), s.live.mode.gates = true → s.live.rd .CHANGE_STATE p.val = 1 →
    ∃ t, exec (.cancel p) s = .next t ∧ s.only [.store, .plane, .events] t ∧
      s.live.cellsBut (Obj.key .CHANGE_STATE p.val 0 0 :: Obj.key .ARMED_TIME p.val 0 0 ::
        (List.range 256).map fun e => Obj.key .GATE_ARMED (2 * p.val + e / 128) (e % 128) 0) t.live ∧
      t.live.rd .CHANGE_STATE p.val = 0 ∧ t.live.rd .ARMED_TIME p.val = 0 ∧ (t.live.portRt p.val).armed = (0, 0) ∧
      (∀ e, e < 256 → t.live.elem .GATE_ARMED e (2 * p.val) = 0) ∧
      s.live.arose t.live [s.live.occ 434 (u8 p.val) (s.live.portOwner p.val)]) ∧
  (∀ (s : State) (p : Fin 52), s.live.rd .CHANGE_STATE p.val ≠ 1 → exec (.cancel p) s = .next s) ∧
  (∀ (s : State) (p : Fin 52), s.live.mode.gates = true → s.live.rd .CHANGE_STATE p.val = 1 →
    s.live.rd .ARMED_TIME p.val < s.live.ptpNs + 125000 →
    ∃ (t : State) (u : Live), exec (.gateTakeover p) s = .next t ∧ s.only [.store, .modes, .plane, .events] t ∧
      t.live = u.kick p.val ∧
      u.rd .OPER_ORIGIN p.val = s.live.rd .ARMED_TIME p.val % 2 ^ 64 ∧ u.rd .LAST_TAKEOVER p.val = s.live.rd .ARMED_TIME p.val % 2 ^ 64 ∧
      u.rd .OPER_LENGTH p.val = (s.live.portRt p.val).armed.1 % 2 ^ 16 ∧
      u.rd .OPER_CYCLE_NS p.val = (s.live.portRt p.val).armed.2 % 2 ^ 32 ∧
      u.rd .CHANGE_STATE p.val = 0 ∧ u.rd .TAKEOVERS p.val = (s.live.rd .TAKEOVERS p.val + 1) % 2 ^ 64 ∧
      u.rd .LATE_TAKEOVERS p.val = s.live.rd .LATE_TAKEOVERS p.val ∧
      (∀ e, e < 256 → u.elem .GATE_OPER e (2 * p.val) =
        if e < (s.live.portRt p.val).armed.1 then s.live.elem .GATE_ARMED e (2 * p.val) % 2 ^ 64 else 0) ∧
      s.live.occ 432 (u8 p.val ++ u64 (s.live.rd .ARMED_TIME p.val)) (s.live.portOwner p.val) ∈ u.events.arisen ∧
      u.plane.sub = max s.live.plane.sub (s.live.rd .ARMED_TIME p.val - s.live.ptpNs)) ∧
  (∀ (s : State) (p : Fin 52) (at_ : Nat), s.live.mode.gates = true →
    ∃ (t : State) (u : Live), exec (.gateEntryStart p at_) s = .next t ∧ s.only [.store, .plane, .events] t ∧
      u = (s.live.at at_).blk 17 .eventsOut ((List.range 8).filter fun q =>
        bit ((s.live.operList p.val).gatesAt (s.live.at at_).now100) q &&
        !bit ((s.live.operList p.val).gatesAt ((s.live.at at_).now100 - 100)) q).length p.val 0 (s.live.portOwner p.val) ∧
      u.store = s.live.store ∧ u.plane.sub = max s.live.plane.sub at_ ∧ t.live = u.kick p.val)

/-- The jobs of the two engines (R537, R540 to R543, R549, R553 to R557, R560, R563). -/
def Obligations.EngineJobsRunAndComplete : Prop :=
  (∀ (s : State) (e : Fin 2) (desc : List Byte), s.live.mode.engineOn = true → (s.live.engine e.val).queue.length < 16 →
    s.live.turnOver e.val 0 = false → (e.val = 0 → s.live.compHeld = false) →
    ∃ t, exec (.jobAdmit e 0 desc) s = .next t ∧ s.only [.flannel, .comp, .mover, .host, .events] t ∧
      t.live.engine e.val = { s.live.engine e.val with queue := (s.live.engine e.val).queue ++ [{ source := 0, desc := slice desc 0 (if e.val = 0 then 256 else 64), tn := 0, taken := s.live.ticks, first := (s.live.engine e.val).queue.isEmpty, notify := false }], admitted := (s.live.engine e.val).admitted.put 0 (some s.live.ticks) } ∧
      t.live.engine (1 - e.val) = s.live.engine (1 - e.val) ∧ t.live.host = s.live.host ∧ t.live.flannel = s.live.flannel) ∧
  (∀ (s : State) (e : Fin 2) (f : Fin 8) (desc d : List Byte) (b : Nat) (rest : List (Nat × List Byte)), s.live.mode.engineOn = true →
    (s.live.engine e.val).queue.length < 16 → s.live.turnOver e.val (f.val + 2) = false → (e.val = 0 → s.live.compHeld = false) →
    (s.live.ring f.val (9 + e.val)).taken = (b, d) :: rest →
    ∃ t, exec (.jobAdmit e ⟨f.val + 2, by omega⟩ desc) s = .next t ∧ s.only [.flannel, .comp, .mover, .host, .events] t ∧
      t.live.engine e.val = { s.live.engine e.val with queue := (s.live.engine e.val).queue ++ [{ source := f.val + 2, desc := slice d 0 (if e.val = 0 then 256 else 64), tn := f.val, taken := s.live.ticks, first := (s.live.engine e.val).queue.isEmpty, notify := false }], admitted := (s.live.engine e.val).admitted.put (f.val + 2) (some s.live.ticks) } ∧
      t.live.engine (1 - e.val) = s.live.engine (1 - e.val) ∧ t.live.flannel = s.live.flannel ∧
      t.live.ring f.val (9 + e.val) = { s.live.ring f.val (9 + e.val) with taken := rest }) ∧
  (∀ (s : State) (desc : List Byte) (b : ExportBlock), s.live.mode.engineOn = true → s.live.comp.queue.length < 16 →
    s.live.turnOver 0 1 = false → s.live.compHeld = false → (s.live.flannel.blocks.find? fun b => !b.admitted) = some b →
    ∃ t, exec (.jobAdmit 0 1 desc) s = .next t ∧ s.only [.flannel, .comp, .mover, .host, .events] t ∧
      t.live.comp = { s.live.comp with queue := s.live.comp.queue ++ [{ source := 1, desc := exportDesc b, tn := b.tn, taken := s.live.ticks, first := s.live.comp.queue.isEmpty, notify := false }], admitted := s.live.comp.admitted.put 1 (some s.live.ticks) } ∧
      t.live.mover = s.live.mover ∧ t.live.host = s.live.host ∧
      t.live.flannel = { s.live.flannel with blocks := s.live.flannel.blocks.map fun (c : ExportBlock) => if c.tn = b.tn ∧ c.number = b.number then { c with admitted := true } else c }) ∧
  (∀ (s : State) (j : Job) (js : List Job) (c : Instr), s.live.mode.engineOn = true → s.live.comp.queue = j :: js → j.start = none →
    compBad j.desc = true → c = (if fieldAt j.desc 4 1 = 1 then .decompress else .compress) →
    ∃ t, exec c s = .next t ∧ s.only [.store, .bpm, .comp, .mover, .events] t ∧ t.live.bpm = s.live.bpm ∧ t.live.mover = s.live.mover ∧
      t.live.comp = { s.live.comp with queue := { j with start := some s.live.now, result := some { status := jobBadDescriptor }, unboosted := decide (s.live.token 0 = 0 ∧ j.first = true ∧ j.taken = s.live.ticks) } :: js }) ∧
  (∀ (s : State) (j : Job) (js : List Job) (hs : List Nat) (u : Live) (c : Instr), s.live.mode.engineOn = true → s.live.comp.queue = j :: js →
    j.start = none → compBad j.desc = false → (j.source = 1 ∨ compBounds (compExtents j.desc) = true) →
    s.live.allocAll 1 j.tn (outSizes (outLimit j.desc)) [] = ((bpmOk, hs), u) →
    c = (if fieldAt j.desc 4 1 = 1 then .decompress else .compress) →
    ∃ (t : State) (input : List Byte) (stop : Option Barrier), exec c s = .next t ∧ s.only [.store, .bpm, .comp, .mover, .events] t ∧
      input = (if j.source = 1 then s.live.exportInput j.desc else (u.readExtents 1 (compExtents j.desc) []).1) ∧
      stop = (if j.source = 1 then none else (u.readExtents 1 (compExtents j.desc) []).2.1) ∧ t.live.mover = s.live.mover ∧
      t.live.comp = { s.live.comp with queue := { j with outs := hs, input := input, start := some s.live.now, result := some (if fieldAt j.desc 4 1 = 1 then decompressRun (fieldAt j.desc 5 1) (outLimit j.desc) (if j.source = 1 then input.length else sumOf (·.len) (compExtents j.desc)) input stop else compressRun (fieldAt j.desc 5 1) (fieldAt j.desc 6 1) (outLimit j.desc) input stop), unboosted := decide (s.live.token 0 = 0 ∧ j.first = true ∧ j.taken = s.live.ticks) } :: js }) ∧
  (∀ (s : State) (j : Job) (js : List Job) (m : MoveDesc) (c : Instr), s.live.mode.engineOn = true → s.live.mover.queue = j :: js → j.start = none →
    m = moveDesc j.desc → moveBad j.desc = false → (m.rows = 1 ∨ m.len ≤ m.srcStride ∧ m.len ≤ m.dstStride) →
    s.live.checkHandle 2 m.src none = bpmOk → s.live.checkHandle 2 m.dst none = bpmOk →
    m.srcOff + m.srcSpan ≤ poolSize (handlePool m.src) → m.dstOff + m.dstSpan ≤ poolSize (handlePool m.dst) → m.overlaps = false →
    c = (if fieldAt j.desc 4 1 = 1 then .copy2d else .copy1d) →
    ∃ t, exec c s = .next t ∧ s.only [.store, .bpm, .comp, .mover, .events] t ∧ t.live.comp = s.live.comp ∧ t.live.bpm = s.live.bpm ∧
      t.live.mover = { s.live.mover with queue := { j with outs := [], start := some s.live.now, result := some { status := jobOk, output := (List.range m.rows).flatMap fun r => (s.live.buf (handleKey m.src)).read (m.srcOff + r * m.srcStride) m.len, poisonCopied := !(m.marks (s.live.buf (handleKey m.src))).isEmpty, bytes := m.rows * m.len, marks := m.marks (s.live.buf (handleKey m.src)) }, unboosted := decide (s.live.token 1 = 0 ∧ j.first = true ∧ j.taken = s.live.ticks) } :: js }) ∧
  (∀ (s : State) (j : Job) (js : List Job) (r : JobResult), s.live.mode.engineOn = true → s.live.comp.queue = j :: js → j.result = some r →
    ∃ t, exec (.jobEnd 0 false) s = .next t ∧ s.only [.store, .bpm, .comp, .mover, .events, .free] t ∧ t.live.mover = s.live.mover ∧
      t.live.bpm = (s.live.compDeliver j r).2.2.bpm ∧ t.live.store = ((s.live.compDeliver j r).2.2.jobCount 0 false j (s.live.compDeliver j r).2.1).store ∧
      t.live.comp = { s.live.comp with queue := js, ended := s.live.comp.ended ++ [{ j with result := some (s.live.compDeliver j r).2.1, done := s.live.now, ended := s.live.ticks, entry := compEntry j (s.live.compDeliver j r).2.1 (s.live.compDeliver j r).1 s.live.now, outs := (s.live.compDeliver j r).1, notify := bit (fieldAt j.desc 12 1) 0 }] }) ∧
  (∀ (s : State) (j : Job) (js : List Job) (r : JobResult), s.live.mode.engineOn = true → s.live.mover.queue = j :: js → j.result = some r →
    ∃ t, exec (.jobEnd 1 false) s = .next t ∧ s.only [.store, .bpm, .comp, .mover, .events, .free] t ∧ t.live.comp = s.live.comp ∧
      t.live.bpm = (s.live.moveDeliver j r).bpm ∧ t.live.store = ((s.live.moveDeliver j r).jobCount 1 false j r).store ∧
      t.live.mover = { s.live.mover with queue := js, ended := s.live.mover.ended ++ [{ j with result := some r, done := s.live.now, ended := s.live.ticks, entry := moveEntry j r s.live.now, outs := [], notify := bit (fieldAt j.desc 5 1) 0 }] }) ∧
  (∀ (s : State) (e : Fin 2) (j : Job) (js : List Job) (r : JobResult), s.live.mode.engineOn = true → (s.live.engine e.val).queue = j :: js →
    j.result = some r →
    ∃ (t : State) (k : Job), exec (.jobEnd e true) s = .next t ∧ s.only [.store, .bpm, .comp, .mover, .events, .free] t ∧
      k.result = some { status := jobPoisoned, consumed := r.consumed } ∧ k.outs = [] ∧ k.desc = j.desc ∧ k.source = j.source ∧
      t.live.engine e.val = { s.live.engine e.val with queue := js, ended := (s.live.engine e.val).ended ++ [k] }) ∧
  (∀ (s : State) (e : Fin 2) (j : Job), s.live.mode.engineOn = true → (s.live.engine e.val).ended.find? (s.live.mayPost e.val) = some j →
    ∃ (t : State) (u : Live), exec (.jobCompletionPost e) s = .next t ∧ s.only [.flannel, .comp, .mover, .host] t ∧
      u = s.live.setEngine e.val (fun x => { x with ended := x.ended.erase j }) ∧
      t.live = (if j.source = 0 then u else if j.source = 1 then u.exportDone j else u.cqOwed (j.source - 2) (9 + e.val) j.entry [] j.notify) ∧
      t.live.engine e.val = { s.live.engine e.val with ended := (s.live.engine e.val).ended.erase j })

/-- Receivers, converters, transmitters and ramps (R566 to R570, R574, R575, R580). -/
def Obligations.ReceiversConvertersAndTransmitters : Prop :=
  (∀ (s : State) (r : Fin 4) (c : Instr) (x : Nat × Nat × Nat), s.live.rxRuns r.val = true →
    (c = .aesRxLocking r ∧ s.live.rxSensed r.val = 0 ∧ x = (1, 0, 0) ∨ c = .aesRxLost r ∧ s.live.rxSensed r.val ≠ 0 ∧ x = (0, 0, 0) ∨
      ∃ (rate : Fin 5) (hz : Nat), c = .aesRxLocked r rate hz ∧ rateWithin (rate.val + 1) hz = true ∧ x = (2, rate.val + 1, hz)) →
    ∃ t, exec c s = .next t ∧ s.only [.audio] t ∧
      t.live.audio = { s.live.audio with rx := s.live.audio.rx.upd r.val fun y => { y with sensed := some x } } ∧
      (t.live.audio.rx.get r.val).sensed = some x ∧ ∀ q, q ≠ r.val → t.live.audio.rx.get q = s.live.audio.rx.get q) ∧
  (∀ (s : State) (r : Fin 4) (b : Bool) (raw : BitVec 24) (v : Bool), s.live.rxRuns r.val = true → s.live.rxLocked r.val = true →
    (v = true → s.live.rd .VALIDITY_POLICY ≠ 1) →
    ∃ (t : State) (x : Int), exec (.aes3SubframeReceived r b raw v false false) s = .next t ∧ s.only [.store, .audio, .events] t ∧
      x = sample24 (if s.live.wideWord r.val b then raw.toNat else raw.toNat / 16 * 16) ∧ t.live.store = s.live.store ∧
      t.live.events = s.live.events ∧
      t.live.audio.rx.get r.val = (if b then { s.live.audio.rx.get r.val with prevB := x, fifoB := (x :: (s.live.audio.rx.get r.val).fifoB).take 64 } else { s.live.audio.rx.get r.val with prevA := x, fifoA := (x :: (s.live.audio.rx.get r.val).fifoA).take 64 }) ∧
      ∀ q, q ≠ r.val → t.live.audio.rx.get q = s.live.audio.rx.get q) ∧
  (∀ (s : State) (r : Fin 4) (b : Bool) (raw : BitVec 24) (v p e : Bool), s.live.rxRuns r.val = true → s.live.rxLocked r.val = true →
    s.live.mode.evaluates = true → s.live.mode ≠ .freeze → (p = true ∨ e = true ∨ v = true ∧ s.live.rd .VALIDITY_POLICY = 1) →
    ∃ (t : State) (x : Int), exec (.aes3SubframeReceived r b raw v p e) s = .next t ∧ s.only [.store, .audio, .events] t ∧
      x = (if b then (s.live.audio.rx.get r.val).prevB else (s.live.audio.rx.get r.val).prevA) ∧
      t.live.rd .INVALID_SAMPLES r.val = (s.live.rd .INVALID_SAMPLES r.val + 1) % 2 ^ 64 ∧
      t.live.rd .BIPHASE_ERRORS r.val = (if e then (s.live.rd .BIPHASE_ERRORS r.val + 1) % 2 ^ 64 else s.live.rd .BIPHASE_ERRORS r.val) ∧
      t.live.audio.rx.get r.val = (if b then { s.live.audio.rx.get r.val with prevB := x, fifoB := (x :: (s.live.audio.rx.get r.val).fifoB).take 64 } else { s.live.audio.rx.get r.val with prevA := x, fifoA := (x :: (s.live.audio.rx.get r.val).fifoA).take 64 }) ∧
      ∀ q, q ≠ r.val → t.live.audio.rx.get q = s.live.audio.rx.get q) ∧
  (∀ (s : State) (r : Fin 4) (b : Bool) (cs user : List Byte) (v : Nat), s.live.rxRuns r.val = true → s.live.rxLocked r.val = true →
    v = beVal (slice cs 0 24) → (bit (blockByte v 0) 0 = true → csCrc (slice cs 0 24) = blockByte v 23) → s.live.mode.evaluates = true →
    ∃ t, exec (.aesCsChange r b cs user) s = .next t ∧ s.only [.store, .audio, .events] t ∧ t.live.store = s.live.store ∧
      t.live.audio = { s.live.audio with rx := s.live.audio.rx.upd r.val fun y => { y with blocks := y.blocks ++ [{ chB := b, status := v, user := beVal (slice user 0 24), beat := s.live.now }] } } ∧
      s.live.arose t.live (if s.live.csLast r.val b = v then [] else [s.live.occ 553])) ∧
  (∀ (s : State) (r : Fin 4) (b : Bool) (cs user : List Byte) (v : Nat), s.live.rxRuns r.val = true → s.live.rxLocked r.val = true →
    v = beVal (slice cs 0 24) → bit (blockByte v 0) 0 = true → csCrc (slice cs 0 24) ≠ blockByte v 23 → s.live.mode.evaluates = true →
    s.live.mode ≠ .freeze →
    ∃ t, exec (.aesCsChange r b cs user) s = .next t ∧ s.only [.store, .audio, .events] t ∧ t.live.audio = s.live.audio ∧
      s.live.cellsBut [Obj.key .CS_CRC_ERRORS r.val 0 0, Obj.key .WRAPPED_ANY 0 0 0] t.live ∧
      t.live.rd .CS_CRC_ERRORS r.val = (s.live.rd .CS_CRC_ERRORS r.val + 1) % 2 ^ 64) ∧
  (∀ (s : State) (i : Fin 4) (high : Bool), s.live.mode.evaluates = true → s.live.rxRuns i.val = true → s.live.rxLocked i.val = true →
    (if high then 60 < (s.live.audio.rx.get i.val).fifoA.length else (s.live.audio.rx.get i.val).fifoA.length < 4) →
    ∃ t, exec (.asrcSlip false i high) s = .next t ∧ s.only [.store, .audio, .events] t ∧
      (t.live.audio.rx.get i.val).fifoA = recentre (s.live.audio.rx.get i.val).fifoA ∧
      (t.live.audio.rx.get i.val).fifoB = recentre (s.live.audio.rx.get i.val).fifoB ∧ (t.live.audio.rx.get i.val).fifoA.length = 24 ∧
      (t.live.source (2 * i.val)).faulted = true ∧ (t.live.source (2 * i.val + 1)).faulted = true ∧
      s.live.occ 557 ∈ t.live.events.arisen) ∧
  (∀ (s : State) (i : Fin 4) (high : Bool), s.live.matrixRuns = true → s.live.rdB .ENABLE_1520 i.val = true →
    (if high then 60 < (s.live.audio.tx.get i.val).fifoA.length else (s.live.audio.tx.get i.val).fifoA.length < 4) →
    ∃ t, exec (.asrcSlip true i high) s = .next t ∧ s.only [.store, .audio, .events] t ∧
      t.live.audio = { s.live.audio with tx := s.live.audio.tx.upd i.val fun x => { x with fifoA := recentre x.fifoA, fifoB := recentre x.fifoB } } ∧
      (t.live.audio.tx.get i.val).fifoA.length = 24 ∧ s.live.occ 557 ∈ t.live.events.arisen) ∧
  (∀ (s : State) (k : Fin 4) (take : Nat), s.live.matrixRuns = true → s.live.rdB .ENABLE_1520 k.val = true →
    ∃ (t : State) (x y : AesTx) (a n : Nat), exec (.aes3FrameTransmit k take) s = .next t ∧ s.only [.store, .audio] t ∧
      n = (s.live.audio.tx.get k.val).frames % 192 ∧
      a = (if n = 0 then beVal (s.live.csBuild k.val false) % 256 ^ 24 else s.live.rd .CS_BUILT_A k.val) ∧
      x = (if n = 0 then { s.live.audio.tx.get k.val with csB := beVal (s.live.csBuild k.val true), user := s.live.userBuild k.val } else s.live.audio.tx.get k.val) ∧
      y = { x with subA := subframeOf (asrcOut (8 + 2 * k.val) x.fifoA) (blockBit x.user n) (blockBit a n), subB := subframeOf (asrcOut (9 + 2 * k.val) x.fifoB) (blockBit x.user n) (blockBit x.csB n), fifoA := dropOld take x.fifoA, fifoB := dropOld take x.fifoB, frames := x.frames + 1 } ∧
      t.live.audio.tx.get k.val = y ∧ t.live.rd .CS_BUILT_A k.val = a ∧ s.live.cellsBut [Obj.key .CS_BUILT_A k.val 0 0] t.live ∧
      ∀ q, q ≠ k.val → t.live.audio.tx.get q = s.live.audio.tx.get q) ∧
  (∀ (s : State) (q : Fin 16), s.live.mode.evaluates = true → s.live.mode ≠ .freeze → s.live.audioClass ≠ 0 → s.live.audio.slot = 0 →
    2 ≤ (s.live.source q.val).good → ((s.live.source q.val).fade.state = 0 ∨ (s.live.source q.val).fade.state = 3) →
    ∃ t, exec (.audioRampIn q) s = .next t ∧ s.only [.store, .audio, .events] t ∧
      t.live.audio = { s.live.audio with sources := s.live.audio.sources.upd q.val fun x => { x with fade := { x.fade with state := 1 } } } ∧
      t.live.rd .STATE_1540 q.val = 1 ∧ t.live.rd .RAMPS q.val = (s.live.rd .RAMPS q.val + 1) % 2 ^ 64 ∧
      s.live.occ 556 (u16 q.val) ∈ t.live.events.arisen)

/-- Slots, packet streams and the spotter (R565, R576, R578, R581 to R589). -/
def Obligations.SlotsPacketsAndTheSpotterRun : Prop :=
  (∀ (s : State) (takes : List Nat) (misses : Nat), s.live.audio.slot < 6 → s.live.audioClass ≠ 0 →
    ∃ (t : State) (u v : Live), exec (.sampleSlot takes misses) s = .next t ∧ s.only [.store, .bpm, .audio, .events] t ∧
      u = (s.live.sourceSlots.2.rxTake takes).forN 2 (fun l i => l.ringPush i s.live.sourceSlots.1) ∧
      v = (if s.live.matrixRuns then u.forN 16 fun l k => l.sinkSlot k s.live.sourceSlots.1 (bit misses k) else u) ∧
      t.live = (v.setAudio fun a => { a with slot := a.slot + 1 }).packetsFree ∧ t.live.audio.slot = s.live.audio.slot + 1) ∧
  (∀ (s : State) (takes : List Nat) (misses : Nat), (6 ≤ s.live.audio.slot ∨ s.live.audioClass = 0) → exec (.sampleSlot takes misses) s = .next s) ∧
  (∀ (s : State) (k : Fin 8) (at_ : Nat), s.live.outDue k.val = true → (∀ j, j < k.val → s.live.outDue j = false) → s.live.packetsHeld = false →
    ∃ (t : State) (u : Live), exec (.packetOut k at_) s = .next t ∧ s.only [.store, .plane, .audio, .events] t ∧
      t.live = u.muslinSend k.val (if s.live.rd .FORMAT k.val = 0 then (0x22F0, s.live.aafBody k.val (s.live.outBeats k.val) ((s.live.audio.outs.get k.val).seq % 256) (s.live.audio.outs.get k.val).mr (s.live.outSamples k.val (s.live.outBeats k.val))) else (0x0800, s.live.rtpPacket k.val (s.live.outBeats k.val) (s.live.audio.outs.get k.val).seq (s.live.audio.outs.get k.val).mark (s.live.outSamples k.val (s.live.outBeats k.val)))) ∧
      u.audio.outs.get k.val = { s.live.audio.outs.get k.val with seq := ((s.live.audio.outs.get k.val).seq + 1) % 2 ^ 16, last := some s.live.ticks, mark := false } ∧
      t.live.audio = u.audio ∧ u.plane = (s.live.at at_).plane ∧ s.live.cellsBut [Obj.key .PACKETS_SENT k.val 0 0, Obj.key .WRAPPED_ANY 0 0 0] u ∧
      u.rd .PACKETS_SENT k.val = (s.live.rd .PACKETS_SENT k.val + 1) % 2 ^ 64) ∧
  (∀ (s : State) (k : Fin 8) (at_ : Nat), s.live.outDue k.val = true → (∀ j, j < k.val → s.live.outDue j = false) → s.live.packetsHeld = true →
    ∃ t, exec (.packetOut k at_) s = .next t ∧ s.only [.store, .plane, .audio, .events] t ∧ t.live.plane = (s.live.at at_).plane ∧
      t.live.audio.outs.get k.val = { s.live.audio.outs.get k.val with seq := ((s.live.audio.outs.get k.val).seq + 1) % 2 ^ 16, last := some s.live.ticks } ∧
      s.live.cellsBut [Obj.key .PACKETS_HELD k.val 0 0, Obj.key .WRAPPED_ANY 0 0 0] t.live ∧
      t.live.rd .PACKETS_HELD k.val = (s.live.rd .PACKETS_HELD k.val + 1) % 2 ^ 64) ∧
  (∀ (s : State) (at_ : Nat) (f : Frame) (u : Live), s.live.mode.running = true → (s.live.at at_).takeFrom 55 = (some f, u) →
    u.streamFor f (parse f.bytes) = none →
    ∃ t, exec (.packetIn at_ none) s = .next t ∧ s.only [.store, .plane, .bpm, .audio, .events] t ∧ t.live = u.count .FILTERED 1 f.port ∧
      (f.port ≤ 51 → t.live.rd .FILTERED f.port = (u.rd .FILTERED f.port + 1) % 2 ^ 64) ∧ t.live.audio = u.audio) ∧
  (∀ (s : State) (at_ i h : Nat) (f : Frame) (u w v : Live) (p : AudioPacket), s.live.mode.running = true →
    (s.live.at at_).takeFrom 55 = (some f, u) → u.streamFor f (parse f.bytes) = some (i, p) → f.poisoned = false →
    w = (((u.setSource (8 + i) fun x => { x with seq := some p.seq }).when (match (u.source (8 + i)).seq with | some q => p.seq != (q + 1) % p.wrap | none => false) fun l => l.count .SEQ_GAPS 1 i).blk 22 .eventsIn 1 i) →
    (w.audio.slot : Int) ≤ p.slot 0 → p.slot (p.pcm.length / (3 * (u.inSources i).length) - 1) ≤ (w.audio.slot : Int) + 1536 →
    w.packetsHeld = false → w.alloc 3 p.pcm.length (u.rd .IN_TENANCY i) = ((0, h), v) →
    ∃ (t : State) (b : AudioBuf), exec (.packetIn at_ none) s = .next t ∧ s.only [.store, .plane, .bpm, .audio, .events] t ∧
      b = { handle := h, stream := i, first := w.slotAt (p.slot 0), last := w.slotAt (p.slot (p.pcm.length / (3 * (u.inSources i).length) - 1)) } ∧
      t.live = ((((v.bufWrite (handleKey h) 0 p.pcm false).setAudio fun a => { a with packets := a.packets ++ [b] }).placeSamples i p).count .PACKETS_ACCEPTED 1 i) ∧
      t.live.audio.packets = v.audio.packets ++ [b]) ∧
  (∀ (s : State) (i : Fin 2), s.live.audioClass ≠ 0 → s.live.elapsed % 80 = 0 → s.live.rdB .ENABLE_1560 i.val = true →
    (s.live.spotter i.val).framed ≠ some s.live.ticks →
    (∀ j, j < i.val → s.live.rdB .ENABLE_1560 j = false ∨ (s.live.spotter j).framed = some s.live.ticks) →
    ∃ (t : State) (u : Live), exec (.featureFrame i) s = .next t ∧ s.only [.store, .modes, .audio, .events] t ∧
      u = (s.live.setSpotter i.val fun x => { x with frame := s.live.now, framed := some s.live.ticks }).forN 8 (fun l k => l.templateFrame i.val k (featureBytes ((s.live.spotter i.val).ring.take 1024 ++ List.replicate (1024 - (s.live.spotter i.val).ring.length) 0).reverse) (s.live.spotter i.val).frame) ∧
      t.live = u.wr .PARTIAL_SCORE (u.partialScore i.val) i.val ∧ t.live.rd .PARTIAL_SCORE i.val = u.partialScore i.val % 2 ^ 16) ∧
  (∀ (s : State) (i : Fin 2),
    ∃ t, exec (.clipRelease i) s = .next t ∧ s.only [.store] t ∧ t.live.rdB .CLIP_LOCKED i.val = false ∧
      s.live.cellsBut [Obj.key .CLIP_LOCKED i.val 0 0] t.live)

/-- A frame that fits the buffer at the head (R602, R608 to R610). -/
def Obligations.DeliveredFramesFillAReceiveBuffer : Prop :=
  ∀ (s : State) (entry : List Byte) (ns k : Nat) (fr : Frame) (l : Live), s.live.mode.running = true →
    (s.live.at ns).takeFrom 54 = (some fr, l) → fr.tn < 8 → k = bits (l.fn fr.tn).rxMap (2 * fr.tc) 2 →
    ((l.fn fr.tn).flr = none ∨ (l.fn fr.tn).cleaned = true) → (l.fn fr.tn).present = true →
    (l.ring fr.tn k).active = true → (l.ring fr.tn k).sqHeld ≠ 0 → (l.ring fr.tn k).cqFull = false →
    (body fr.bytes).length ≤ leAt entry 8 2 →
    ∃ t, exec (.rxFrameHandover entry ns) s = .next t ∧ s.only [.store, .plane, .host, .events] t ∧
      (t.live.ring fr.tn k).sqHead = ((l.ring fr.tn k).sqHead + 1) % (l.ring fr.tn k).sqSize ∧
      (t.live.ring fr.tn k).cqTail = ((l.ring fr.tn k).cqTail + 1) % (l.ring fr.tn k).cqSize ∧
      (t.live.ring fr.tn k).lastEntry = slice entry 12 4 ++ leBytes 2 (body fr.bytes).length ++ u8 fr.poisoned.toNat ++ u8 fr.port ++ leBytes 8 fr.word
        ++ leBytes 8 fr.stamp ++ leBytes 8 fr.beat ∧ (t.live.ring fr.tn k).lastData = body fr.bytes ∧
      (∀ i j, (i, j) ≠ (fr.tn, k) → t.live.ring i j = l.ring i j) ∧
      t.live.rd .H_RX_DELIVERED fr.tn = (l.rd .H_RX_DELIVERED fr.tn + 1) % 2 ^ 64 ∧ t.live.plane = l.plane
end

