-- ==== Sys2Proof/Laws/Keeps.lean ====
section
/-! SUPPORT. What an operation may change, once for every way of composing operations: `Keeps m a b` says that `b` agrees with
`a` on every part outside `m`, and that the order of the dictionary's cells is kept.  Beside the agreement, the laws of
sparse tables. -/

namespace Sys2Proof.Machine

open Sys2Proof

/-! ### Sparse tables -/

/-- Every key of a table exceeds a bound. -/
def Tbl.above {α : Type} (b : Nat) : Tbl α → Prop
  | [] => True
  | (k, _) :: t => b < k ∧ Tbl.above k t

theorem Tbl.above_weaken {α : Type} {a b : Nat} (h : a ≤ b) : {t : Tbl α} → t.above b → t.above a
  | [], _ => trivial
  | _ :: _, ⟨h1, h2⟩ => ⟨Nat.lt_of_le_of_lt h h1, h2⟩

theorem Tbl.sorted_cons {α : Type} (k : Nat) (v : α) (t : Tbl α) : Tbl.sorted ((k, v) :: t) = true ↔ t.above k := by
  induction t generalizing k v with
  | nil => simp [Tbl.sorted, Tbl.above]
  | cons e t ih => simp [Tbl.sorted, Tbl.above, ih]

theorem Tbl.sorted_of_above {α : Type} {b : Nat} {t : Tbl α} (h : t.above b) : t.sorted = true := by
  match t, h with
  | [], _ => rfl
  | (k, v) :: t, ⟨_, h2⟩ => exact (Tbl.sorted_cons k v t).2 h2

theorem Tbl.filter_above {α : Type} (p : Nat × α → Bool) {b : Nat} {t : Tbl α} (h : t.above b) :
    Tbl.above b (t.filter p) := by
  induction t generalizing b with
  | nil => exact h
  | cons e t ih =>
    rw [List.filter_cons]
    split
    · exact ⟨h.1, ih h.2⟩
    · exact Tbl.above_weaken (Nat.le_of_lt h.1) (ih h.2)

theorem Tbl.filter_sorted {α : Type} (p : Nat × α → Bool) {t : Tbl α} (h : t.sorted = true) :
    Tbl.sorted (t.filter p) = true := by
  cases t with
  | nil => rfl
  | cons e t =>
    have h1 := (Tbl.sorted_cons e.1 e.2 t).1 h
    rw [List.filter_cons]
    split
    · exact (Tbl.sorted_cons e.1 e.2 _).2 (Tbl.filter_above p h1)
    · exact Tbl.sorted_of_above (Tbl.filter_above p h1)

theorem Tbl.del_eq_filter {α : Type} (t : Tbl α) (i : Nat) : t.del i = t.filter fun e => decide (e.1 ≠ i) := by
  induction t with
  | nil => rfl
  | cons e t ih =>
    by_cases h : i = e.1
    · subst h; simp [Tbl.del, ih]
    · simp [Tbl.del, ih, h, Ne.symm h]

theorem Tbl.del_sorted {α : Type} (i : Nat) {t : Tbl α} (h : t.sorted = true) : (t.del i).sorted = true := by
  rw [Tbl.del_eq_filter]; exact Tbl.filter_sorted _ h

theorem Tbl.ins_above {α : Type} (i : Nat) (x : α) {b : Nat} (hb : b < i) {t : Tbl α} (h : t.above b)
    (hn : ∀ e ∈ t, e.1 ≠ i) : (t.ins i x).above b := by
  induction t generalizing b with
  | nil => exact ⟨hb, trivial⟩
  | cons e t ih =>
    simp only [Tbl.ins]
    split
    · rename_i hlt
      exact ⟨hb, hlt, h.2⟩
    · rename_i hge
      have hne := hn e (List.mem_cons_self ..)
      exact ⟨h.1, ih (by omega) h.2 fun x hx => hn x (List.mem_cons_of_mem _ hx)⟩

theorem Tbl.del_absent {α : Type} (t : Tbl α) (i : Nat) : ∀ e ∈ t.del i, e.1 ≠ i := by
  intro e he
  rw [Tbl.del_eq_filter] at he
  simpa using (List.mem_filter.1 he).2

theorem Tbl.ins_del_sorted {α : Type} (i : Nat) (x : α) {t : Tbl α} (h : t.sorted = true) :
    ((t.del i).ins i x).sorted = true := by
  have hd := Tbl.del_sorted i h
  have hn := Tbl.del_absent t i
  revert hd hn
  generalize t.del i = u
  intro hd hn
  cases u with
  | nil => rfl
  | cons e u =>
    have h1 := (Tbl.sorted_cons e.1 e.2 u).1 hd
    simp only [Tbl.ins]
    split
    · rename_i hlt
      exact (Tbl.sorted_cons i x _).2 ⟨hlt, h1⟩
    · rename_i hge
      have hne := hn e (List.mem_cons_self ..)
      exact (Tbl.sorted_cons e.1 e.2 _).2 (Tbl.ins_above i x (by omega) h1 fun y hy => hn y (List.mem_cons_of_mem _ hy))

theorem Tbl.putD_sorted {α : Type} [DecidableEq α] (d : α) (i : Nat) (x : α) {t : Tbl α} (h : t.sorted = true) :
    (t.putD d i x).sorted = true := by
  unfold Tbl.putD
  split
  · exact Tbl.del_sorted i h
  · exact Tbl.ins_del_sorted i x h

theorem Tbl.find?_del_same {α : Type} (t : Tbl α) (i : Nat) : (t.del i).find? i = none := by
  induction t with
  | nil => rfl
  | cons e t ih =>
    by_cases h : i = e.1
    · subst h; simp [Tbl.del, ih]
    · simp [Tbl.del, Tbl.find?, ih, h]

theorem Tbl.find?_del_other {α : Type} (t : Tbl α) {i j : Nat} (h : j ≠ i) : (t.del i).find? j = t.find? j := by
  induction t with
  | nil => rfl
  | cons e t ih =>
    by_cases h1 : i = e.1
    · subst h1; simp [Tbl.del, Tbl.find?, ih, h]
    · simp [Tbl.del, Tbl.find?, ih, h1]

theorem Tbl.find?_ins_same {α : Type} (t : Tbl α) (i : Nat) (x : α) (hn : ∀ e ∈ t, e.1 ≠ i) :
    (t.ins i x).find? i = some x := by
  induction t with
  | nil => simp [Tbl.ins, Tbl.find?]
  | cons e t ih =>
    have hne := hn e (List.mem_cons_self ..)
    simp only [Tbl.ins]
    split
    · simp [Tbl.find?]
    · simp [Tbl.find?, Ne.symm hne, ih fun y hy => hn y (List.mem_cons_of_mem _ hy)]

theorem Tbl.find?_ins_other {α : Type} (t : Tbl α) {i j : Nat} (x : α) (h : j ≠ i) : (t.ins i x).find? j = t.find? j := by
  induction t with
  | nil => simp [Tbl.ins, Tbl.find?, h]
  | cons e t ih =>
    simp only [Tbl.ins]
    split
    · simp [Tbl.find?, h]
    · simp [Tbl.find?, ih]

/-- What was put is what is read. -/
theorem Tbl.getD_putD_same {α : Type} [DecidableEq α] (d : α) (t : Tbl α) (i : Nat) (x : α) :
    ((t.putD d i x).find? i).getD d = x := by
  unfold Tbl.putD
  split
  · rename_i h; rw [Tbl.find?_del_same]; exact h.symm
  · rw [Tbl.find?_ins_same _ _ _ (Tbl.del_absent t i)]; rfl

/-- Every other key reads as before. -/
theorem Tbl.find?_putD_other {α : Type} [DecidableEq α] (d : α) (t : Tbl α) {i j : Nat} (x : α) (h : j ≠ i) :
    (t.putD d i x).find? j = t.find? j := by
  unfold Tbl.putD
  split
  · exact Tbl.find?_del_other t h
  · rw [Tbl.find?_ins_other _ _ h, Tbl.find?_del_other t h]

@[simp] theorem Tbl.get_put_same {α : Type} [DecidableEq α] [Inhabited α] (t : Tbl α) (i : Nat) (x : α) :
    (t.put i x).get i = x := Tbl.getD_putD_same default t i x

theorem Tbl.get_put_other {α : Type} [DecidableEq α] [Inhabited α] (t : Tbl α) {i j : Nat} (x : α) (h : j ≠ i) :
    (t.put i x).get j = t.get j := by
  unfold Tbl.get Tbl.put; rw [Tbl.find?_putD_other _ _ _ h]

@[simp] theorem Tbl.get_upd_same {α : Type} [DecidableEq α] [Inhabited α] (t : Tbl α) (i : Nat) (f : α → α) :
    (t.upd i f).get i = f (t.get i) := Tbl.get_put_same t i _

theorem Tbl.get_upd_other {α : Type} [DecidableEq α] [Inhabited α] (t : Tbl α) {i j : Nat} (f : α → α) (h : j ≠ i) :
    (t.upd i f).get j = t.get j := Tbl.get_put_other t _ h

/-! ### What an operation may change -/

/-- `b` agrees with `a` outside the parts `m`, cells in order stay in order, and neither the count of beats nor the count of
free values taken falls. -/
structure Keeps (m : List Part) (a b : Live) : Prop where
  same : a.sameBut m b
  tidy : a.tidy → b.tidy
  counts : a.beat.ticks ≤ b.beat.ticks ∧ a.free ≤ b.free

/-- Neither count falls along two operations. -/
theorem Live.counts_trans {a b c : Live} (h : a.beat.ticks ≤ b.beat.ticks ∧ a.free ≤ b.free)
    (h' : b.beat.ticks ≤ c.beat.ticks ∧ b.free ≤ c.free) : a.beat.ticks ≤ c.beat.ticks ∧ a.free ≤ c.free :=
  ⟨Nat.le_trans h.1 h'.1, Nat.le_trans h.2 h'.2⟩

theorem Live.agree_refl (a : Live) (p : Part) : a.agree a p := by cases p <;> simp [Live.agree]

theorem Live.agree_trans {a b c : Live} {p : Part} (h : a.agree b p) (h' : b.agree c p) : a.agree c p := by
  cases p <;> simp_all [Live.agree]

/-- Every part of the first list is in the second. -/
def Part.sub (m n : List Part) : Bool := m.all fun p => n.contains p

theorem Part.sub_mem {m n : List Part} (h : Part.sub m n = true) {p : Part} (hp : p ∉ n) : p ∉ m := by
  intro hm
  have := List.all_eq_true.1 h p hm
  exact hp (by simpa using this)

theorem Keeps.refl (m : List Part) (a : Live) : Keeps m a a := ⟨fun p _ => Live.agree_refl a p, id, Nat.le_refl _, Nat.le_refl _⟩

/-- One operation more. -/
theorem Keeps.via {k m : List Part} {a b c : Live} (h : Keeps k b c) (hs : Part.sub k m = true) (h0 : Keeps m a b) :
    Keeps m a c :=
  ⟨fun p hp => Live.agree_trans (h0.same p hp) (h.same p (Part.sub_mem hs hp)), fun ht => h.tidy (h0.tidy ht),
    Live.counts_trans h0.counts h.counts⟩

theorem Keeps.mono {k m : List Part} {a b : Live} (h : Keeps k a b) (hs : Part.sub k m = true) : Keeps m a b :=
  h.via hs (.refl m a)

theorem Keeps.ite {m : List Part} {a b c : Live} {p : Prop} [Decidable p] (h1 : Keeps m a b) (h2 : Keeps m a c) :
    Keeps m a (if p then b else c) := by split <;> assumption

theorem Keeps.ite1 {α : Type} {m : List Part} {a : Live} {x y : Live × α} {p : Prop} [Decidable p] (h1 : Keeps m a x.1)
    (h2 : Keeps m a y.1) : Keeps m a (if p then x else y).1 := by split <;> assumption

theorem Keeps.ite2 {α : Type} {m : List Part} {a : Live} {x y : α × Live} {p : Prop} [Decidable p] (h1 : Keeps m a x.2)
    (h2 : Keeps m a y.2) : Keeps m a (if p then x else y).2 := by split <;> assumption

theorem Keeps.ite22 {α β : Type} {m : List Part} {a : Live} {x y : α × β × Live} {p : Prop} [Decidable p]
    (h1 : Keeps m a x.2.2) (h2 : Keeps m a y.2.2) : Keeps m a (if p then x else y).2.2 := by split <;> assumption

theorem Keeps.of1 {α : Type} {m : List Part} {a b : Live} {x : α} {f : Live × α} (h : f = (b, x)) (hk : Keeps m a f.1) :
    Keeps m a b := by rw [h] at hk; exact hk

theorem Keeps.of2 {α : Type} {m : List Part} {a b : Live} {x : α} {f : α × Live} (h : f = (x, b)) (hk : Keeps m a f.2) :
    Keeps m a b := by rw [h] at hk; exact hk

theorem Keeps.of22 {α β : Type} {m : List Part} {a b : Live} {x : α} {y : β} {f : α × β × Live} (h : f = (x, y, b))
    (hk : Keeps m a f.2.2) : Keeps m a b := by rw [h] at hk; exact hk

/-- A fold of operations. -/
theorem Keeps.foldl {α : Type} {m : List Part} {a : Live} {f : Live → α → Live} (hf : ∀ l x, Keeps m l (f l x)) (xs : List α)
    (b : Live) (h : Keeps m a b) : Keeps m a (xs.foldl f b) := by
  induction xs generalizing b with
  | nil => exact h
  | cons x xs ih =>
    exact ih _ ⟨fun p hp => Live.agree_trans (h.same p hp) ((hf b x).same p hp), fun ht => (hf b x).tidy (h.tidy ht),
      Live.counts_trans h.counts (hf b x).counts⟩

/-- A fold of operations that carries something beside the machine. -/
theorem Keeps.foldl1 {α β : Type} {m : List Part} {a : Live} {f : Live × β → α → Live × β}
    (hf : ∀ l x, Keeps m l.1 (f l x).1) (xs : List α) (b : Live × β) (h : Keeps m a b.1) : Keeps m a (xs.foldl f b).1 := by
  induction xs generalizing b with
  | nil => exact h
  | cons x xs ih =>
    exact ih _ ⟨fun p hp => Live.agree_trans (h.same p hp) ((hf b x).same p hp), fun ht => (hf b x).tidy (h.tidy ht),
      Live.counts_trans h.counts (hf b x).counts⟩

theorem Keeps.foldl2 {α β : Type} {m : List Part} {a : Live} {f : β × Live → α → β × Live}
    (hf : ∀ l x, Keeps m l.2 (f l x).2) (xs : List α) (b : β × Live) (h : Keeps m a b.2) : Keeps m a (xs.foldl f b).2 := by
  induction xs generalizing b with
  | nil => exact h
  | cons x xs ih =>
    exact ih _ ⟨fun p hp => Live.agree_trans (h.same p hp) ((hf b x).same p hp), fun ht => (hf b x).tidy (h.tidy ht),
      Live.counts_trans h.counts (hf b x).counts⟩

theorem Keeps.forL {α : Type} {m : List Part} {a b : Live} {xs : List α} {f : Live → α → Live}
    (hf : ∀ l x, Keeps m l (f l x)) (h : Keeps m a b) : Keeps m a (b.forL xs f) := Keeps.foldl hf xs b h

theorem Keeps.forN {m : List Part} {a b : Live} {n : Nat} {f : Live → Nat → Live} (hf : ∀ l x, Keeps m l (f l x))
    (h : Keeps m a b) : Keeps m a (b.forN n f) := Keeps.foldl hf _ b h

theorem Keeps.when {m : List Part} {a b : Live} {c : Bool} {f : Live → Live} (hf : ∀ l, Keeps m l (f l)) (h : Keeps m a b) :
    Keeps m a (b.when c f) := by
  unfold Live.when
  split
  · exact ⟨fun p hp => Live.agree_trans (h.same p hp) ((hf b).same p hp), fun ht => (hf b).tidy (h.tidy ht),
      Live.counts_trans h.counts (hf b).counts⟩
  · exact h

/-! ### One part set -/

theorem Keeps.dict {m : List Part} {a b : Live} {x : Dict} (h : Keeps m a b) (hm : Part.sub [.dict] m = true) :
    Keeps m a { b with dict := x } :=
  Keeps.via (k := [.dict]) (b := b) ⟨fun p hp => by cases p <;> simp_all [Live.agree], id, Nat.le_refl _, Nat.le_refl _⟩ hm h

theorem Keeps.can {m : List Part} {a b : Live} {x : Tbl CanPort} (h : Keeps m a b) (hm : Part.sub [.can] m = true) :
    Keeps m a { b with can := x } :=
  Keeps.via (k := [.can]) (b := b) ⟨fun p hp => by cases p <;> simp_all [Live.agree], id, Nat.le_refl _, Nat.le_refl _⟩ hm h

theorem Keeps.sessions {m : List Part} {a b : Live} {x : Tbl Session} (h : Keeps m a b) (hm : Part.sub [.sessions] m = true) :
    Keeps m a { b with sessions := x } :=
  Keeps.via (k := [.sessions]) (b := b) ⟨fun p hp => by cases p <;> simp_all [Live.agree], id, Nat.le_refl _, Nat.le_refl _⟩ hm h

theorem Keeps.mailboxes {m : List Part} {a b : Live} {x : Tbl Mailbox} (h : Keeps m a b) (hm : Part.sub [.mailboxes] m = true) :
    Keeps m a { b with mailboxes := x } :=
  Keeps.via (k := [.mailboxes]) (b := b) ⟨fun p hp => by cases p <;> simp_all [Live.agree], id, Nat.le_refl _, Nat.le_refl _⟩ hm h

theorem Keeps.tenancies {m : List Part} {a b : Live} {x : Tenancies} (h : Keeps m a b) (hm : Part.sub [.tenancies] m = true) :
    Keeps m a { b with tenancies := x } :=
  Keeps.via (k := [.tenancies]) (b := b) ⟨fun p hp => by cases p <;> simp_all [Live.agree], id, Nat.le_refl _, Nat.le_refl _⟩ hm h

theorem Keeps.power {m : List Part} {a b : Live} {x : Power} (h : Keeps m a b) (hm : Part.sub [.power] m = true) :
    Keeps m a { b with power := x } :=
  Keeps.via (k := [.power]) (b := b) ⟨fun p hp => by cases p <;> simp_all [Live.agree], id, Nat.le_refl _, Nat.le_refl _⟩ hm h

theorem Keeps.plane {m : List Part} {a b : Live} {x : Plane} (h : Keeps m a b) (hm : Part.sub [.plane] m = true) :
    Keeps m a { b with plane := x } :=
  Keeps.via (k := [.plane]) (b := b) ⟨fun p hp => by cases p <;> simp_all [Live.agree], id, Nat.le_refl _, Nat.le_refl _⟩ hm h

theorem Keeps.bpm {m : List Part} {a b : Live} {x : Bpm} (h : Keeps m a b) (hm : Part.sub [.bpm] m = true) :
    Keeps m a { b with bpm := x } :=
  Keeps.via (k := [.bpm]) (b := b) ⟨fun p hp => by cases p <;> simp_all [Live.agree], id, Nat.le_refl _, Nat.le_refl _⟩ hm h

theorem Keeps.flannel {m : List Part} {a b : Live} {x : Flannel} (h : Keeps m a b) (hm : Part.sub [.flannel] m = true) :
    Keeps m a { b with flannel := x } :=
  Keeps.via (k := [.flannel]) (b := b) ⟨fun p hp => by cases p <;> simp_all [Live.agree], id, Nat.le_refl _, Nat.le_refl _⟩ hm h

theorem Keeps.dram {m : List Part} {a b : Live} {x : Dram} (h : Keeps m a b) (hm : Part.sub [.dram] m = true) :
    Keeps m a { b with dram := x } :=
  Keeps.via (k := [.dram]) (b := b) ⟨fun p hp => by cases p <;> simp_all [Live.agree], id, Nat.le_refl _, Nat.le_refl _⟩ hm h

theorem Keeps.comp {m : List Part} {a b : Live} {x : Engine} (h : Keeps m a b) (hm : Part.sub [.comp] m = true) :
    Keeps m a { b with comp := x } :=
  Keeps.via (k := [.comp]) (b := b) ⟨fun p hp => by cases p <;> simp_all [Live.agree], id, Nat.le_refl _, Nat.le_refl _⟩ hm h

theorem Keeps.mover {m : List Part} {a b : Live} {x : Engine} (h : Keeps m a b) (hm : Part.sub [.mover] m = true) :
    Keeps m a { b with mover := x } :=
  Keeps.via (k := [.mover]) (b := b) ⟨fun p hp => by cases p <;> simp_all [Live.agree], id, Nat.le_refl _, Nat.le_refl _⟩ hm h

theorem Keeps.audio {m : List Part} {a b : Live} {x : Audio} (h : Keeps m a b) (hm : Part.sub [.audio] m = true) :
    Keeps m a { b with audio := x } :=
  Keeps.via (k := [.audio]) (b := b) ⟨fun p hp => by cases p <;> simp_all [Live.agree], id, Nat.le_refl _, Nat.le_refl _⟩ hm h

theorem Keeps.host {m : List Part} {a b : Live} {x : Endpoint} (h : Keeps m a b) (hm : Part.sub [.host] m = true) :
    Keeps m a { b with host := x } :=
  Keeps.via (k := [.host]) (b := b) ⟨fun p hp => by cases p <;> simp_all [Live.agree], id, Nat.le_refl _, Nat.le_refl _⟩ hm h

theorem Keeps.events {m : List Part} {a b : Live} {x : Events} (h : Keeps m a b) (hm : Part.sub [.events] m = true) :
    Keeps m a { b with events := x } :=
  Keeps.via (k := [.events]) (b := b) ⟨fun p hp => by cases p <;> simp_all [Live.agree], id, Nat.le_refl _, Nat.le_refl _⟩ hm h

theorem Keeps.recoveries {m : List Part} {a b : Live} {x : Recoveries} (h : Keeps m a b) (hm : Part.sub [.recoveries] m = true) :
    Keeps m a { b with recoveries := x } :=
  Keeps.via (k := [.recoveries]) (b := b) ⟨fun p hp => by cases p <;> simp_all [Live.agree], id, Nat.le_refl _, Nat.le_refl _⟩ hm h

theorem Keeps.enclosure {m : List Part} {a b : Live} {x : Enclosure} (h : Keeps m a b) (hm : Part.sub [.enclosure] m = true) :
    Keeps m a { b with enclosure := x } :=
  Keeps.via (k := [.enclosure]) (b := b) ⟨fun p hp => by cases p <;> simp_all [Live.agree], id, Nat.le_refl _, Nat.le_refl _⟩ hm h

theorem Keeps.free {m : List Part} {a b : Live} {x : Nat} (h : Keeps m a b) (hx : b.free ≤ x) (hm : Part.sub [.free] m = true) :
    Keeps m a { b with free := x } :=
  Keeps.via (k := [.free]) (b := b) ⟨fun p hp => by cases p <;> simp_all [Live.agree], id, Nat.le_refl _, hx⟩ hm h

/-- Fields of the beat other than its counts. -/
theorem Keeps.beat {m : List Part} {a b : Live} {x : Beat} (h : Keeps m a b)
    (hx : x.number = b.beat.number ∧ x.ticks = b.beat.ticks ∧ x.elapsed = b.beat.elapsed)
    (hm : Part.sub [.beat] m = true) : Keeps m a { b with beat := x } :=
  Keeps.via (k := [.beat]) (b := b) ⟨fun p hp => by cases p <;> simp_all [Live.agree], id, Nat.le_of_eq hx.2.1.symm, Nat.le_refl _⟩ hm h

/-- The beat with its counts. -/
theorem Keeps.clock {m : List Part} {a b : Live} {x : Beat} (h : Keeps m a b) (hx : b.beat.ticks ≤ x.ticks)
    (hm : Part.sub [.clock, .beat] m = true) :
    Keeps m a { b with beat := x } :=
  Keeps.via (k := [.clock, .beat]) (b := b) ⟨fun p hp => by cases p <;> simp_all [Live.agree], id, hx, Nat.le_refl _⟩ hm h

/-- Fields of the modes other than the unit mode. -/
theorem Keeps.modes {m : List Part} {a b : Live} {x : Modes} (h : Keeps m a b) (hx : x.mode = b.modes.mode)
    (hm : Part.sub [.modes] m = true) : Keeps m a { b with modes := x } :=
  Keeps.via (k := [.modes]) (b := b) ⟨fun p hp => by cases p <;> simp_all [Live.agree], id, Nat.le_refl _, Nat.le_refl _⟩ hm h

/-- The modes with the unit mode. -/
theorem Keeps.mode {m : List Part} {a b : Live} {x : Modes} (h : Keeps m a b) (hm : Part.sub [.mode, .modes] m = true) :
    Keeps m a { b with modes := x } :=
  Keeps.via (k := [.mode, .modes]) (b := b) ⟨fun p hp => by cases p <;> simp_all [Live.agree], id, Nat.le_refl _, Nat.le_refl _⟩ hm h

/-- Cells that are in order where they were. -/
theorem Keeps.store {m : List Part} {a b : Live} {x : Tbl Nat} (h : Keeps m a b)
    (hx : b.store.sorted = true → x.sorted = true) (hm : Part.sub [.store] m = true) : Keeps m a { b with store := x } :=
  Keeps.via (k := [.store]) (b := b) ⟨fun p hp => by cases p <;> simp_all [Live.agree], hx, Nat.le_refl _, Nat.le_refl _⟩ hm h

/-! ### A command -/

/-- A command ends in a next state that keeps every part outside `m`, the order of cells, the queue and the snapshot. -/
structure Ends (m : List Part) (s : State) (o : Host.Outcome State Fault Refusal) : Prop where
  next : ∃ t, o = .next t ∧ Keeps m s.live t.live ∧ t.pending = s.pending ∧ t.start = s.start

theorem State.effect_ends {m : List Part} {s : State} {f : Live → Live} (h : Keeps m s.live (f s.live)) :
    Ends m s (s.effect f) := ⟨_, rfl, h, rfl, rfl⟩

end Sys2Proof.Machine
end

