-- ==== Sys2Proof/Laws/Ops.lean ====
section
/-! SUPPORT. What the operations of Machine/Ops.lean may change. -/

namespace Sys2Proof.Machine

open Sys2Proof

theorem Live.wr_keeps (l : Live) (o : Obj) (v i k t : Nat) : Keeps [.store] l (l.wr o v i k t) :=
  .store (.refl _ l) (fun h => Tbl.putD_sorted _ _ _ h) rfl

theorem Live.hold_keeps (l : Live) (o : Occ) : Keeps [.store, .events] l (Live.hold l o) := by
  unfold Live.hold
  repeat' first
    | exact (rfl : true = true)
    | with_reducible exact .refl _ _
    | refine .via (by with_reducible exact Live.wr_keeps ..) ?_ ?_
    | with_reducible refine .ite ?_ ?_
    | dsimp only
    | split
    | with_reducible refine .events ?_ ?_

theorem Live.raiseAt_keeps (l : Live) (stamp src : Nat) (data : List Byte) (tn : Nat) : Keeps [.store, .events] l (Live.raiseAt l stamp src data tn) := by
  unfold Live.raiseAt
  repeat' first
    | exact (rfl : true = true)
    | with_reducible exact .refl _ _
    | refine .via (by with_reducible exact Live.hold_keeps ..) ?_ ?_
    | with_reducible refine .ite ?_ ?_
    | dsimp only
    | refine .of2 (by assumption) ?_
    | refine .of22 (by assumption) ?_
    | refine .of1 (by assumption) ?_
    | split
    | with_reducible refine .events ?_ ?_

theorem Live.raise_keeps (l : Live) (src : Nat) (data : List Byte) (tn : Nat) : Keeps [.store, .events] l (Live.raise l src data tn) := by
  unfold Live.raise
  repeat' first
    | exact (rfl : true = true)
    | with_reducible exact .refl _ _
    | refine .via (by with_reducible exact Live.raiseAt_keeps ..) ?_ ?_
    | dsimp only

theorem Live.wrB_keeps (l : Live) (o : Obj) (b : Bool) (i k t : Nat) : Keeps [.store] l (Live.wrB l o b i k t) := by
  unfold Live.wrB
  repeat' first
    | exact (rfl : true = true)
    | with_reducible exact .refl _ _
    | refine .via (by with_reducible exact Live.wr_keeps ..) ?_ ?_
    | dsimp only

theorem Live.count_keeps (l : Live) (o : Obj) (n i k t : Nat) : Keeps [.store, .events] l (Live.count l o n i k t) := by
  unfold Live.count
  repeat' first
    | exact (rfl : true = true)
    | with_reducible exact .refl _ _
    | refine .via (by with_reducible exact Live.wr_keeps ..) ?_ ?_
    | refine .via (by with_reducible exact Live.raise_keeps ..) ?_ ?_
    | refine .via (by with_reducible exact Live.wrB_keeps ..) ?_ ?_
    | with_reducible refine .ite ?_ ?_
    | dsimp only
    | split

theorem Live.markDirty_keeps (l : Live) : Keeps [.store, .modes] l (Live.markDirty l) := by
  unfold Live.markDirty
  repeat' first
    | exact (rfl : true = true)
    | with_reducible exact .refl _ _
    | refine .via (by with_reducible exact Live.wrB_keeps ..) ?_ ?_
    | dsimp only
    | with_reducible refine .modes ?_ rfl ?_

theorem Live.blk_keeps (l : Live) (b : Nat) (s : Signal) (n port tc tn : Nat) : Keeps [.events] l (Live.blk l b s n port tc tn) := by
  unfold Live.blk
  repeat' first
    | exact (rfl : true = true)
    | with_reducible exact .refl _ _
    | with_reducible refine .ite ?_ ?_
    | dsimp only
    | with_reducible refine .foldl (fun l x => ?_) _ _ ?_
    | with_reducible refine .foldl2 (fun l x => ?_) _ _ ?_
    | with_reducible refine .foldl1 (fun l x => ?_) _ _ ?_
    | split
    | with_reducible refine .events ?_ ?_

theorem Live.toDefault_keeps (l : Live) (o : Obj) (i k t : Nat) : Keeps [.store] l (l.toDefault o i k t) :=
  .store (.refl _ l) (fun h => Tbl.del_sorted _ h) rfl

theorem Live.mark_keeps (l : Live) (src : Nat) (data : List Byte) (tn : Nat) : Keeps [.events] l (Live.mark l src data tn) := by
  unfold Live.mark
  repeat' first
    | exact (rfl : true = true)
    | with_reducible exact .refl _ _
    | with_reducible refine .ite ?_ ?_
    | dsimp only
    | split
    | with_reducible refine .events ?_ ?_

theorem Live.wakeFired_keeps (l : Live) (bit_ : Nat) : Keeps [.modes] l (Live.wakeFired l bit_) := by
  unfold Live.wakeFired
  repeat' first
    | exact (rfl : true = true)
    | with_reducible exact .refl _ _
    | with_reducible refine .ite ?_ ?_
    | dsimp only
    | refine .of2 (by assumption) ?_
    | refine .of22 (by assumption) ?_
    | refine .of1 (by assumption) ?_
    | split
    | with_reducible refine .modes ?_ rfl ?_

theorem Live.wakeBy_keeps (l : Live) (source : Nat) : Keeps [.modes] l (Live.wakeBy l source) := by
  unfold Live.wakeBy
  repeat' first
    | exact (rfl : true = true)
    | with_reducible exact .refl _ _
    | refine .via (by with_reducible exact Live.wakeFired_keeps ..) ?_ ?_
    | with_reducible refine .ite ?_ ?_
    | dsimp only
    | refine .of2 (by assumption) ?_
    | refine .of22 (by assumption) ?_
    | refine .of1 (by assumption) ?_
    | split

theorem Live.tookFree_keeps (l : Live) : Keeps [.free] l (Live.tookFree l) := by
  unfold Live.tookFree
  repeat' first
    | exact (rfl : true = true)
    | with_reducible exact .refl _ _
    | exact Nat.le_succ _
    | dsimp only
    | with_reducible refine .free ?_ ?_ ?_

theorem Live.wrI_keeps (l : Live) (o : Obj) (v : Int) (i k t : Nat) : Keeps [.store] l (Live.wrI l o v i k t) := by
  unfold Live.wrI
  repeat' first
    | exact (rfl : true = true)
    | with_reducible exact .refl _ _
    | refine .via (by with_reducible exact Live.wr_keeps ..) ?_ ?_
    | dsimp only

theorem Live.wrSat_keeps (l : Live) (o : Obj) (v i k t : Nat) : Keeps [.store] l (Live.wrSat l o v i k t) := by
  unfold Live.wrSat
  repeat' first
    | exact (rfl : true = true)
    | with_reducible exact .refl _ _
    | refine .via (by with_reducible exact Live.wr_keeps ..) ?_ ?_
    | dsimp only

theorem Live.markLeast_keeps (l : Live) (src : Nat) (data : List Byte) (tn : Nat) : Keeps [.events] l (Live.markLeast l src data tn) := by
  unfold Live.markLeast
  repeat' first
    | exact (rfl : true = true)
    | with_reducible exact .refl _ _
    | refine .via (by with_reducible exact Live.mark_keeps ..) ?_ ?_
    | with_reducible refine .ite ?_ ?_
    | dsimp only
    | split
    | with_reducible refine .events ?_ ?_

end Sys2Proof.Machine
end

