-- ==== Sys2Proof/Laws/View.lean ====
section
/-! SUPPORT. What the operations of Machine/View.lean may change. -/

namespace Sys2Proof.Machine

open Sys2Proof

theorem Live.setPlane_keeps (l : Live) (f : Plane → Plane) : Keeps [.plane] l (Live.setPlane l f) := by
  unfold Live.setPlane
  repeat' first
    | exact (rfl : true = true)
    | with_reducible exact .refl _ _
    | dsimp only
    | with_reducible refine .plane ?_ ?_

theorem Live.keepVersion_keeps (l : Live) (key old : Nat) : Keeps [.plane] l (Live.keepVersion l key old) := by
  unfold Live.keepVersion
  repeat' first
    | exact (rfl : true = true)
    | with_reducible exact .refl _ _
    | refine .via (by with_reducible exact Live.setPlane_keeps ..) ?_ ?_
    | with_reducible refine .ite ?_ ?_
    | dsimp only
    | split

theorem Live.heal_keeps (l : Live) (key : Nat) : Keeps [.plane] l (Live.heal l key) := by
  unfold Live.heal
  repeat' first
    | exact (rfl : true = true)
    | with_reducible exact .refl _ _
    | refine .via (by with_reducible exact Live.setPlane_keeps ..) ?_ ?_
    | with_reducible refine .ite ?_ ?_
    | dsimp only
    | split

theorem Live.setElem_keeps (l : Live) (o : Obj) (e v first : Nat) : Keeps [.store] l (Live.setElem l o e v first) := by
  unfold Live.setElem
  repeat' first
    | exact (rfl : true = true)
    | with_reducible exact .refl _ _
    | refine .via (by with_reducible exact Live.wr_keeps ..) ?_ ?_
    | dsimp only

theorem Live.setPort_keeps (l : Live) (p : Nat) (f : Port → Port) : Keeps [.plane] l (Live.setPort l p f) := by
  unfold Live.setPort
  repeat' first
    | exact (rfl : true = true)
    | with_reducible exact .refl _ _
    | refine .via (by with_reducible exact Live.setPlane_keeps ..) ?_ ?_
    | dsimp only

theorem Live.wrV_keeps (l : Live) (o : Obj) (v i k t : Nat) : Keeps [.store, .plane] l (Live.wrV l o v i k t) := by
  unfold Live.wrV
  repeat' first
    | exact (rfl : true = true)
    | with_reducible exact .refl _ _
    | refine .via (by with_reducible exact Live.wr_keeps ..) ?_ ?_
    | refine .via (by with_reducible exact Live.keepVersion_keeps ..) ?_ ?_
    | with_reducible refine .ite ?_ ?_
    | dsimp only
    | split

theorem Live.setElemV_keeps (l : Live) (o : Obj) (e v first : Nat) : Keeps [.store, .plane] l (Live.setElemV l o e v first) := by
  unfold Live.setElemV
  repeat' first
    | exact (rfl : true = true)
    | with_reducible exact .refl _ _
    | refine .via (by with_reducible exact Live.heal_keeps ..) ?_ ?_
    | refine .via (by with_reducible exact Live.wrV_keeps ..) ?_ ?_
    | dsimp only

theorem Live.retireVersions_keeps (l : Live) : Keeps [.plane] l (Live.retireVersions l) := by
  unfold Live.retireVersions
  repeat' first
    | exact (rfl : true = true)
    | with_reducible exact .refl _ _
    | refine .via (by with_reducible exact Live.setPlane_keeps ..) ?_ ?_
    | dsimp only

theorem Live.versionStep_keeps (l : Live) : Keeps [.plane] l (Live.versionStep l) := by
  unfold Live.versionStep
  repeat' first
    | exact (rfl : true = true)
    | with_reducible exact .refl _ _
    | refine .via (by with_reducible exact Live.retireVersions_keeps ..) ?_ ?_
    | with_reducible refine .ite ?_ ?_
    | dsimp only
    | split

end Sys2Proof.Machine
end

