-- ==== Sys2Proof/Laws/Fabric.lean ====
section
/-! SUPPORT. What the operations of Machine/Fabric.lean may change. -/

namespace Sys2Proof.Machine

open Sys2Proof

theorem Live.queueDrop_keeps (l : Live) (p q : Nat) : Keeps [.store, .events] l (Live.queueDrop l p q) := by
  unfold Live.queueDrop
  repeat' first
    | exact (rfl : true = true)
    | with_reducible exact .refl _ _
    | refine .via (by with_reducible exact Live.count_keeps ..) ?_ ?_
    | dsimp only

theorem Live.setQueue_keeps (l : Live) (p q : Nat) (es : List QEntry) : Keeps [.plane] l (Live.setQueue l p q es) := by
  unfold Live.setQueue
  repeat' first
    | exact (rfl : true = true)
    | with_reducible exact .refl _ _
    | refine .via (by with_reducible exact Live.setPlane_keeps ..) ?_ ?_
    | dsimp only

theorem Live.setFrame_keeps (l : Live) (h : Nat) (f : Frame) : Keeps [.plane] l (Live.setFrame l h f) := by
  unfold Live.setFrame
  repeat' first
    | exact (rfl : true = true)
    | with_reducible exact .refl _ _
    | refine .via (by with_reducible exact Live.setPlane_keeps ..) ?_ ?_
    | dsimp only

theorem Live.showCells_keeps (l : Live) : Keeps [.store] l (Live.showCells l) := by
  unfold Live.showCells
  repeat' first
    | exact (rfl : true = true)
    | with_reducible exact .refl _ _
    | refine .via (by with_reducible exact Live.wr_keeps ..) ?_ ?_
    | dsimp only

theorem Live.startPfc_keeps (l : Live) (p : Nat) : Keeps [.store, .plane, .events] l (Live.startPfc l p) := by
  unfold Live.startPfc
  repeat' first
    | exact (rfl : true = true)
    | with_reducible exact .refl _ _
    | refine .via (by with_reducible exact Live.setPort_keeps ..) ?_ ?_
    | refine .via (by with_reducible exact Live.blk_keeps ..) ?_ ?_
    | refine .via (by with_reducible exact Live.count_keeps ..) ?_ ?_
    | with_reducible refine .ite ?_ ?_
    | dsimp only
    | split

theorem Live.duePfc_keeps (l : Live) (p q : Nat) : Keeps [.store, .plane, .events] l (Live.duePfc l p q) := by
  unfold Live.duePfc
  repeat' first
    | exact (rfl : true = true)
    | with_reducible exact .refl _ _
    | refine .via (by with_reducible exact Live.startPfc_keeps ..) ?_ ?_
    | refine .via (by with_reducible exact Live.setPort_keeps ..) ?_ ?_
    | dsimp only

theorem Live.pfcEval_keeps (l : Live) (p q : Nat) : Keeps [.store, .plane, .events] l (Live.pfcEval l p q) := by
  unfold Live.pfcEval
  repeat' first
    | exact (rfl : true = true)
    | with_reducible exact .refl _ _
    | refine .via (by with_reducible exact Live.duePfc_keeps ..) ?_ ?_
    | refine .via (by with_reducible exact Live.wr_keeps ..) ?_ ?_
    | with_reducible refine .ite ?_ ?_
    | dsimp only
    | split

theorem Live.unref_keeps (l : Live) (h : Nat) : Keeps [.store, .plane, .events] l (Live.unref l h) := by
  unfold Live.unref
  repeat' first
    | exact (rfl : true = true)
    | with_reducible exact .refl _ _
    | refine .via (by with_reducible exact Live.setFrame_keeps ..) ?_ ?_
    | refine .via (by with_reducible exact Live.setPlane_keeps ..) ?_ ?_
    | refine .via (by with_reducible exact Live.wr_keeps ..) ?_ ?_
    | refine .via (by with_reducible exact Live.showCells_keeps ..) ?_ ?_
    | refine .via (by with_reducible exact Live.blk_keeps ..) ?_ ?_
    | refine .via (by with_reducible exact Live.pfcEval_keeps ..) ?_ ?_
    | with_reducible refine .ite ?_ ?_
    | dsimp only
    | refine .of2 (by assumption) ?_
    | refine .of22 (by assumption) ?_
    | refine .of1 (by assumption) ?_
    | split

theorem Live.removeEntries_keeps (l : Live) (p q : Nat) (drop : QEntry → Bool) : Keeps [.store, .plane, .events] l (Live.removeEntries l p q drop) := by
  unfold Live.removeEntries
  repeat' first
    | exact (rfl : true = true)
    | with_reducible exact .refl _ _
    | refine .via (by with_reducible exact Live.setQueue_keeps ..) ?_ ?_
    | refine .via (by with_reducible exact Live.unref_keeps ..) ?_ ?_
    | refine .via (by with_reducible exact Live.wr_keeps ..) ?_ ?_
    | with_reducible refine .ite ?_ ?_
    | dsimp only
    | with_reducible refine .forL (fun l x => ?_) ?_
    | split

theorem Live.discardQueue_keeps (l : Live) (p q : Nat) (cause : Option Obj) : Keeps [.store, .plane, .events] l (Live.discardQueue l p q cause) := by
  unfold Live.discardQueue
  repeat' first
    | exact (rfl : true = true)
    | with_reducible exact .refl _ _
    | refine .via (by with_reducible exact Live.blk_keeps ..) ?_ ?_
    | refine .via (by with_reducible exact Live.queueDrop_keeps ..) ?_ ?_
    | refine .via (by with_reducible exact Live.count_keeps ..) ?_ ?_
    | refine .via (by with_reducible exact Live.removeEntries_keeps ..) ?_ ?_
    | dsimp only
    | with_reducible refine .forL (fun l x => ?_) ?_
    | refine .of2 (by assumption) ?_
    | refine .of22 (by assumption) ?_
    | refine .of1 (by assumption) ?_
    | split

theorem Live.discardPort_keeps (l : Live) (p : Nat) : Keeps [.store, .plane, .events] l (Live.discardPort l p) := by
  unfold Live.discardPort
  repeat' first
    | exact (rfl : true = true)
    | with_reducible exact .refl _ _
    | refine .via (by with_reducible exact Live.setPort_keeps ..) ?_ ?_
    | refine .via (by with_reducible exact Live.discardQueue_keeps ..) ?_ ?_
    | dsimp only
    | with_reducible refine .forN (fun l x => ?_) ?_

theorem Live.discardAll_keeps (l : Live) : Keeps [.store, .plane, .events] l (Live.discardAll l) := by
  unfold Live.discardAll
  repeat' first
    | exact (rfl : true = true)
    | with_reducible exact .refl _ _
    | refine .via (by with_reducible exact Live.discardPort_keeps ..) ?_ ?_
    | dsimp only
    | with_reducible refine .forN (fun l x => ?_) ?_

end Sys2Proof.Machine
end

