-- ==== Sys2Proof/Laws/Recovery.lean ====
section
/-! SUPPORT. What the operations of Machine/Recovery.lean may change. -/

namespace Sys2Proof.Machine

open Sys2Proof

theorem Live.setRec_keeps (l : Live) (f : Recoveries → Recoveries) : Keeps [.recoveries] l (Live.setRec l f) := by
  unfold Live.setRec
  repeat' first
    | exact (rfl : true = true)
    | with_reducible exact .refl _ _
    | dsimp only
    | with_reducible refine .recoveries ?_ ?_

theorem Live.recoveryOver_keeps (l : Live) (r : Recovery) (byRestart : Bool) : Keeps [.recoveries] l (Live.recoveryOver l r byRestart) := by
  unfold Live.recoveryOver
  repeat' first
    | exact (rfl : true = true)
    | with_reducible exact .refl _ _
    | refine .via (by with_reducible exact Live.setRec_keeps ..) ?_ ?_
    | dsimp only

theorem Live.recoveryDone_keeps (l : Live) (kind subject : Nat) : Keeps [.recoveries] l (Live.recoveryDone l kind subject) := by
  unfold Live.recoveryDone
  repeat' first
    | exact (rfl : true = true)
    | with_reducible exact .refl _ _
    | refine .via (by with_reducible exact Live.recoveryOver_keeps ..) ?_ ?_
    | dsimp only
    | with_reducible refine .forL (fun l x => ?_) ?_

theorem Live.recoveryStart_keeps (l : Live) (kind subject tn : Nat) : Keeps [.recoveries] l (Live.recoveryStart l kind subject tn) := by
  unfold Live.recoveryStart
  repeat' first
    | exact (rfl : true = true)
    | with_reducible exact .refl _ _
    | refine .via (by with_reducible exact Live.setRec_keeps ..) ?_ ?_
    | with_reducible refine .ite ?_ ?_
    | dsimp only
    | with_reducible refine .foldl (fun l x => ?_) _ _ ?_
    | with_reducible refine .foldl2 (fun l x => ?_) _ _ ?_
    | with_reducible refine .foldl1 (fun l x => ?_) _ _ ?_
    | split

theorem Live.recoveryPeak_keeps (l : Live) (kind n ports : Nat) : Keeps [.recoveries] l (Live.recoveryPeak l kind n ports) := by
  unfold Live.recoveryPeak
  repeat' first
    | exact (rfl : true = true)
    | with_reducible exact .refl _ _
    | refine .via (by with_reducible exact Live.setRec_keeps ..) ?_ ?_
    | with_reducible refine .ite ?_ ?_
    | dsimp only
    | split

theorem Live.recoveriesCut_keeps (l : Live) (kind : Nat) (p : Nat → Bool) : Keeps [.recoveries] l (Live.recoveriesCut l kind p) := by
  unfold Live.recoveriesCut
  repeat' first
    | exact (rfl : true = true)
    | with_reducible exact .refl _ _
    | refine .via (by with_reducible exact Live.setRec_keeps ..) ?_ ?_
    | dsimp only

theorem Live.recoveryAt_keeps (l : Live) (kind subject tn : Nat) : Keeps [.recoveries] l (Live.recoveryAt l kind subject tn) := by
  unfold Live.recoveryAt
  repeat' first
    | exact (rfl : true = true)
    | with_reducible exact .refl _ _
    | refine .via (by with_reducible exact Live.recoveryDone_keeps ..) ?_ ?_
    | refine .via (by with_reducible exact Live.recoveryStart_keeps ..) ?_ ?_
    | dsimp only

theorem Live.withdraw_keeps (l : Live) (causes : List Nat) : Keeps [.store, .events] l (Live.withdraw l causes) := by
  unfold Live.withdraw
  repeat' first
    | exact (rfl : true = true)
    | with_reducible exact .refl _ _
    | refine .via (by with_reducible exact Live.wr_keeps ..) ?_ ?_
    | refine .via (by with_reducible exact Live.raise_keeps ..) ?_ ?_
    | dsimp only
    | with_reducible refine .foldl (fun l x => ?_) _ _ ?_
    | with_reducible refine .foldl2 (fun l x => ?_) _ _ ?_
    | with_reducible refine .foldl1 (fun l x => ?_) _ _ ?_
    | refine .of2 (by assumption) ?_
    | refine .of22 (by assumption) ?_
    | refine .of1 (by assumption) ?_
    | split

theorem Live.withdrawnClear_keeps (l : Live) : Keeps [.store] l (Live.withdrawnClear l) := by
  unfold Live.withdrawnClear
  repeat' first
    | exact (rfl : true = true)
    | with_reducible exact .refl _ _
    | refine .via (by with_reducible exact Live.wr_keeps ..) ?_ ?_
    | dsimp only

theorem Live.journalRecoveries_keeps (l : Live) : Keeps [.store, .recoveries] l (Live.journalRecoveries l) := by
  unfold Live.journalRecoveries
  repeat' first
    | exact (rfl : true = true)
    | with_reducible exact .refl _ _
    | refine .via (by with_reducible exact Live.setRec_keeps ..) ?_ ?_
    | refine .via (by with_reducible exact Live.wr_keeps ..) ?_ ?_
    | dsimp only
    | with_reducible refine .foldl (fun l x => ?_) _ _ ?_
    | with_reducible refine .foldl2 (fun l x => ?_) _ _ ?_
    | with_reducible refine .foldl1 (fun l x => ?_) _ _ ?_

theorem Live.journalCleared_keeps (l : Live) : Keeps [.recoveries] l (Live.journalCleared l) := by
  unfold Live.journalCleared
  repeat' first
    | exact (rfl : true = true)
    | with_reducible exact .refl _ _
    | refine .via (by with_reducible exact Live.setRec_keeps ..) ?_ ?_
    | dsimp only

theorem Live.recoveriesDropped_keeps (l : Live) : Keeps [.recoveries] l (Live.recoveriesDropped l) := by
  unfold Live.recoveriesDropped
  repeat' first
    | exact (rfl : true = true)
    | with_reducible exact .refl _ _
    | refine .via (by with_reducible exact Live.setRec_keeps ..) ?_ ?_
    | dsimp only

theorem Live.recoveriesRestarted_keeps (l : Live) : Keeps [.recoveries] l (Live.recoveriesRestarted l) := by
  unfold Live.recoveriesRestarted
  repeat' first
    | exact (rfl : true = true)
    | with_reducible exact .refl _ _
    | refine .via (by with_reducible exact Live.recoveryOver_keeps ..) ?_ ?_
    | dsimp only
    | with_reducible refine .forL (fun l x => ?_) ?_

end Sys2Proof.Machine
end

