-- ==== Sys2Proof/Laws/Sched.lean ====
section
/-! SUPPORT. What the operations of Machine/Sched.lean may change. -/

namespace Sys2Proof.Machine

open Sys2Proof

theorem Live.fillBuckets_keeps (l : Live) (e v : Nat) : Keeps [.plane] l (Live.fillBuckets l e v) := by
  unfold Live.fillBuckets
  repeat' first
    | exact (rfl : true = true)
    | with_reducible exact .refl _ _
    | refine .via (by with_reducible exact Live.setPlane_keeps ..) ?_ ?_
    | dsimp only

theorem Live.dropTooLong_keeps (l : Live) (p q : Nat) : Keeps [.store, .plane, .events] l (Live.dropTooLong l p q) := by
  unfold Live.dropTooLong
  repeat' first
    | exact (rfl : true = true)
    | with_reducible exact .refl _ _
    | refine .via (by with_reducible exact Live.blk_keeps ..) ?_ ?_
    | refine .via (by with_reducible exact Live.count_keeps ..) ?_ ?_
    | refine .via (by with_reducible exact Live.queueDrop_keeps ..) ?_ ?_
    | refine .via (by with_reducible exact Live.removeEntries_keeps ..) ?_ ?_
    | refine .via (by with_reducible exact Live.mark_keeps ..) ?_ ?_
    | with_reducible refine .ite ?_ ?_
    | dsimp only
    | refine .of2 (by assumption) ?_
    | refine .of22 (by assumption) ?_
    | refine .of1 (by assumption) ?_
    | split

theorem Live.headDiscards_keeps (l : Live) (p : Nat) : Keeps [.store, .plane, .events] l (Live.headDiscards l p) := by
  unfold Live.headDiscards
  repeat' first
    | exact (rfl : true = true)
    | with_reducible exact .refl _ _
    | refine .via (by with_reducible exact Live.discardQueue_keeps ..) ?_ ?_
    | refine .via (by with_reducible exact Live.dropTooLong_keeps ..) ?_ ?_
    | with_reducible refine .ite ?_ ?_
    | dsimp only
    | with_reducible refine .forN (fun l x => ?_) ?_
    | with_reducible refine .foldl (fun l x => ?_) _ _ ?_
    | with_reducible refine .foldl2 (fun l x => ?_) _ _ ?_
    | with_reducible refine .foldl1 (fun l x => ?_) _ _ ?_
    | split

theorem Live.serviceReset_keeps (l : Live) (p : Nat) : Keeps [.store, .plane] l (Live.serviceReset l p) := by
  unfold Live.serviceReset
  repeat' first
    | exact (rfl : true = true)
    | with_reducible exact .refl _ _
    | refine .via (by with_reducible exact Live.setPort_keeps ..) ?_ ?_
    | refine .via (by with_reducible exact Live.wr_keeps ..) ?_ ?_
    | dsimp only
    | with_reducible refine .forN (fun l x => ?_) ?_
    | with_reducible refine .foldl (fun l x => ?_) _ _ ?_
    | with_reducible refine .foldl2 (fun l x => ?_) _ _ ?_
    | with_reducible refine .foldl1 (fun l x => ?_) _ _ ?_

theorem Live.markShaper_keeps (l : Live) (p q mark : Nat) : Keeps [.plane] l (Live.markShaper l p q mark) := by
  unfold Live.markShaper
  repeat' first
    | exact (rfl : true = true)
    | with_reducible exact .refl _ _
    | refine .via (by with_reducible exact Live.setPlane_keeps ..) ?_ ?_
    | dsimp only

theorem Live.flushQueues_keeps (l : Live) (p mask : Nat) : Keeps [.store, .plane, .events] l (Live.flushQueues l p mask) := by
  unfold Live.flushQueues
  repeat' first
    | exact (rfl : true = true)
    | with_reducible exact .refl _ _
    | refine .via (by with_reducible exact Live.blk_keeps ..) ?_ ?_
    | refine .via (by with_reducible exact Live.count_keeps ..) ?_ ?_
    | refine .via (by with_reducible exact Live.queueDrop_keeps ..) ?_ ?_
    | refine .via (by with_reducible exact Live.removeEntries_keeps ..) ?_ ?_
    | refine .via (by with_reducible exact Live.raise_keeps ..) ?_ ?_
    | refine .via (by with_reducible exact Live.wr_keeps ..) ?_ ?_
    | dsimp only
    | with_reducible refine .forL (fun l x => ?_) ?_

theorem Live.histClear_keeps (l : Live) (p mask : Nat) : Keeps [.plane] l (Live.histClear l p mask) := by
  unfold Live.histClear
  repeat' first
    | exact (rfl : true = true)
    | with_reducible exact .refl _ _
    | refine .via (by with_reducible exact Live.setPlane_keeps ..) ?_ ?_
    | dsimp only
    | with_reducible refine .forL (fun l x => ?_) ?_

theorem Live.retag_keeps (l : Live) (p : Nat) : Keeps [.plane] l (Live.retag l p) := by
  unfold Live.retag
  repeat' first
    | exact (rfl : true = true)
    | with_reducible exact .refl _ _
    | refine .via (by with_reducible exact Live.setPort_keeps ..) ?_ ?_
    | with_reducible refine .ite ?_ ?_
    | dsimp only
    | with_reducible refine .forN (fun l x => ?_) ?_
    | refine .of2 (by assumption) ?_
    | refine .of22 (by assumption) ?_
    | refine .of1 (by assumption) ?_
    | split

theorem Live.selectWfq_keeps (l : Live) (p : Nat) : Keeps [.plane] l (Live.selectWfq l p).2 := by
  unfold Live.selectWfq
  repeat' first
    | exact (rfl : true = true)
    | with_reducible exact .refl _ _
    | refine .via (by with_reducible exact Live.setPort_keeps ..) ?_ ?_
    | with_reducible refine .ite ?_ ?_
    | with_reducible refine .ite2 ?_ ?_
    | dsimp only
    | with_reducible refine .foldl (fun l x => ?_) _ _ ?_
    | with_reducible refine .foldl2 (fun l x => ?_) _ _ ?_
    | with_reducible refine .foldl1 (fun l x => ?_) _ _ ?_
    | refine .of2 (by assumption) ?_
    | refine .of22 (by assumption) ?_
    | refine .of1 (by assumption) ?_
    | split

theorem Live.selectDrr_keeps (l : Live) (p strict : Nat) : Keeps [.store, .plane] l (Live.selectDrr l p strict).2 := by
  unfold Live.selectDrr
  repeat' first
    | exact (rfl : true = true)
    | with_reducible exact .refl _ _
    | refine .via (by with_reducible exact Live.wr_keeps ..) ?_ ?_
    | refine .via (by with_reducible exact Live.setPort_keeps ..) ?_ ?_
    | with_reducible refine .ite ?_ ?_
    | with_reducible refine .ite2 ?_ ?_
    | dsimp only
    | with_reducible refine .forL (fun l x => ?_) ?_
    | refine .of2 (by assumption) ?_
    | refine .of22 (by assumption) ?_
    | refine .of1 (by assumption) ?_
    | split

theorem Live.select_keeps (l : Live) (p : Nat) : Keeps [.store, .plane] l (Live.select l p).2 := by
  unfold Live.select
  repeat' first
    | exact (rfl : true = true)
    | with_reducible exact .refl _ _
    | refine .via (by with_reducible exact Live.selectWfq_keeps ..) ?_ ?_
    | refine .via (by with_reducible exact Live.selectDrr_keeps ..) ?_ ?_
    | with_reducible refine .ite ?_ ?_
    | with_reducible refine .ite2 ?_ ?_
    | dsimp only
    | refine .of2 (by assumption) ?_
    | refine .of22 (by assumption) ?_
    | refine .of1 (by assumption) ?_
    | split

theorem Live.chargeShapers_keeps (l : Live) (p q w : Nat) : Keeps [.store] l (Live.chargeShapers l p q w) := by
  unfold Live.chargeShapers
  repeat' first
    | exact (rfl : true = true)
    | with_reducible exact .refl _ _
    | refine .via (by with_reducible exact Live.wrI_keeps ..) ?_ ?_
    | with_reducible refine .ite ?_ ?_
    | dsimp only
    | split

theorem Live.selected_keeps (l : Live) (p q : Nat) (e : QEntry) : Keeps [.store, .events] l (Live.selected l p q e) := by
  unfold Live.selected
  repeat' first
    | exact (rfl : true = true)
    | with_reducible exact .refl _ _
    | refine .via (by with_reducible exact Live.blk_keeps ..) ?_ ?_
    | refine .via (by with_reducible exact Live.chargeShapers_keeps ..) ?_ ?_
    | dsimp only

theorem Live.blockedSignals_keeps (l : Live) (p : Nat) : Keeps [.events] l (Live.blockedSignals l p) := by
  unfold Live.blockedSignals
  repeat' first
    | exact (rfl : true = true)
    | with_reducible exact .refl _ _
    | refine .via (by with_reducible exact Live.blk_keeps ..) ?_ ?_
    | with_reducible refine .ite ?_ ?_
    | dsimp only
    | split

theorem Live.kick_keeps (l : Live) (p : Nat) : Keeps [.store, .plane, .events] l (l.kick p) := by
  unfold Live.kick
  refine .ite (.refl _ _) (.ite ((Live.retag_keeps ..).mono rfl) ?_)
  have h0 : Keeps [.store, .plane, .events] l ((l.headDiscards p).retag p) :=
    .via (Live.retag_keeps ..) rfl ((Live.headDiscards_keeps ..).mono rfl)
  dsimp only
  refine .ite h0 ?_
  have h1 : Keeps [.store, .plane, .events] l (((l.headDiscards p).retag p).startPfc p) := .via (Live.startPfc_keeps ..) rfl h0
  refine .ite h1 ?_
  have h2 : Keeps [.store, .plane, .events] l ((((l.headDiscards p).retag p).startPfc p).select p).2 := .via (Live.select_keeps ..) rfl h1
  revert h2
  generalize (((l.headDiscards p).retag p).startPfc p).select p = r
  intro h2
  obtain ⟨q, l2⟩ := r
  cases q with
  | none => exact h2
  | some q =>
    dsimp only
    cases l2.headOf p q with
    | none => exact h2
    | some e =>
      exact .via (Live.setPort_keeps ..) rfl (.via (Live.selected_keeps ..) rfl (.via (Live.blockedSignals_keeps ..) rfl h2))

theorem Live.sampleQueue_keeps (l : Live) (slot p q : Nat) : Keeps [.plane, .events] l (Live.sampleQueue l slot p q) := by
  unfold Live.sampleQueue
  repeat' first
    | exact (rfl : true = true)
    | with_reducible exact .refl _ _
    | refine .via (by with_reducible exact Live.setPlane_keeps ..) ?_ ?_
    | refine .via (by with_reducible exact Live.mark_keeps ..) ?_ ?_
    | with_reducible refine .ite ?_ ?_
    | dsimp only
    | split

theorem Live.sampleQueues_keeps (l : Live) : Keeps [.plane, .events] l (Live.sampleQueues l) := by
  unfold Live.sampleQueues
  repeat' first
    | exact (rfl : true = true)
    | with_reducible exact .refl _ _
    | refine .via (by with_reducible exact Live.setPlane_keeps ..) ?_ ?_
    | refine .via (by with_reducible exact Live.sampleQueue_keeps ..) ?_ ?_
    | with_reducible refine .ite ?_ ?_
    | dsimp only
    | with_reducible refine .forN (fun l x => ?_) ?_
    | split

theorem Live.redAverage_keeps (l : Live) : Keeps [.store] l (Live.redAverage l) := by
  unfold Live.redAverage
  repeat' first
    | exact (rfl : true = true)
    | with_reducible exact .refl _ _
    | refine .via (by with_reducible exact Live.wr_keeps ..) ?_ ?_
    | with_reducible refine .ite ?_ ?_
    | dsimp only
    | with_reducible refine .forN (fun l x => ?_) ?_
    | split

theorem Live.kickAll_keeps (l : Live) : Keeps [.store, .plane, .events] l (Live.kickAll l) := by
  unfold Live.kickAll
  repeat' first
    | exact (rfl : true = true)
    | with_reducible exact .refl _ _
    | refine .via (by with_reducible exact Live.kick_keeps ..) ?_ ?_
    | dsimp only
    | with_reducible refine .forN (fun l x => ?_) ?_

theorem Live.queuesStart_keeps (l : Live) : Keeps [.store, .plane] l (Live.queuesStart l) := by
  unfold Live.queuesStart
  repeat' first
    | exact (rfl : true = true)
    | with_reducible exact .refl _ _
    | refine .via (by with_reducible exact Live.wr_keeps ..) ?_ ?_
    | refine .via (by with_reducible exact Live.setPort_keeps ..) ?_ ?_
    | dsimp only
    | with_reducible refine .forN (fun l x => ?_) ?_

theorem Live.refillPolicer_keeps (l : Live) (e v : Nat) : Keeps [.plane] l (Live.refillPolicer l e v) := by
  unfold Live.refillPolicer
  repeat' first
    | exact (rfl : true = true)
    | with_reducible exact .refl _ _
    | refine .via (by with_reducible exact Live.setPlane_keeps ..) ?_ ?_
    | with_reducible refine .ite ?_ ?_
    | dsimp only
    | split

theorem Live.refillPort_keeps (l : Live) (p : Nat) : Keeps [.store] l (Live.refillPort l p) := by
  unfold Live.refillPort
  repeat' first
    | exact (rfl : true = true)
    | with_reducible exact .refl _ _
    | refine .via (by with_reducible exact Live.wrI_keeps ..) ?_ ?_
    | with_reducible refine .ite ?_ ?_
    | dsimp only
    | with_reducible refine .forN (fun l x => ?_) ?_
    | split

theorem Live.refill_keeps (l : Live) : Keeps [.store, .plane] l (Live.refill l) := by
  unfold Live.refill
  repeat' first
    | exact (rfl : true = true)
    | with_reducible exact .refl _ _
    | refine .via (by with_reducible exact Live.refillPolicer_keeps ..) ?_ ?_
    | refine .via (by with_reducible exact Live.setPlane_keeps ..) ?_ ?_
    | refine .via (by with_reducible exact Live.refillPort_keeps ..) ?_ ?_
    | with_reducible refine .ite ?_ ?_
    | dsimp only
    | with_reducible refine .forL (fun l x => ?_) ?_
    | with_reducible refine .forN (fun l x => ?_) ?_
    | split

theorem Live.countSent_keeps (l : Live) (p q len tn : Nat) : Keeps [.store, .events] l (Live.countSent l p q len tn) := by
  unfold Live.countSent
  repeat' first
    | exact (rfl : true = true)
    | with_reducible exact .refl _ _
    | refine .via (by with_reducible exact Live.count_keeps ..) ?_ ?_
    | refine .via (by with_reducible exact Live.blk_keeps ..) ?_ ?_
    | dsimp only

theorem Live.takeFrom_keeps (l : Live) (p : Nat) : Keeps [.store, .plane, .events] l (l.takeFrom p).2 := by
  unfold Live.takeFrom
  have h1 : Keeps [.store, .plane, .events] l ((l.retag p).select p).2 :=
    .via (Live.select_keeps ..) rfl ((Live.retag_keeps l p).mono rfl)
  revert h1
  generalize (l.retag p).select p = r
  intro h1
  obtain ⟨q, l1⟩ := r
  cases q with
  | none => exact h1
  | some q =>
    dsimp only
    cases l1.headOf p q with
    | none => exact h1
    | some e =>
      dsimp only
      exact .via (Live.retag_keeps ..) rfl <| .via (Live.removeEntries_keeps ..) rfl (.via (Live.countSent_keeps ..) rfl (.via (Live.selected_keeps ..) rfl h1))

theorem Live.linkMemoryError_keeps (l : Live) (p q : Nat) : Keeps [.store, .plane, .events] l (Live.linkMemoryError l p q) := by
  unfold Live.linkMemoryError
  repeat' first
    | exact (rfl : true = true)
    | with_reducible exact .refl _ _
    | refine .via (by with_reducible exact Live.discardQueue_keeps ..) ?_ ?_
    | refine .via (by with_reducible exact Live.withdraw_keeps ..) ?_ ?_
    | refine .via (by with_reducible exact Live.raise_keeps ..) ?_ ?_
    | refine .via (by with_reducible exact Live.showCells_keeps ..) ?_ ?_
    | refine .via (by with_reducible exact Live.setPlane_keeps ..) ?_ ?_
    | with_reducible refine .ite ?_ ?_
    | dsimp only
    | split

theorem Live.reclaimDone_keeps (l : Live) : Keeps [.store, .plane] l (Live.reclaimDone l) := by
  unfold Live.reclaimDone
  repeat' first
    | exact (rfl : true = true)
    | with_reducible exact .refl _ _
    | refine .via (by with_reducible exact Live.showCells_keeps ..) ?_ ?_
    | refine .via (by with_reducible exact Live.setPlane_keeps ..) ?_ ?_
    | with_reducible refine .ite ?_ ?_
    | dsimp only
    | refine .of2 (by assumption) ?_
    | refine .of22 (by assumption) ?_
    | refine .of1 (by assumption) ?_
    | split

theorem Live.txEnd_keeps (l : Live) (p : Nat) : Keeps [.store, .plane, .events] l (Live.txEnd l p) := by
  unfold Live.txEnd
  repeat' first
    | exact (rfl : true = true)
    | with_reducible exact .refl _ _
    | refine .via (by with_reducible exact Live.setPort_keeps ..) ?_ ?_
    | refine .via (by with_reducible exact Live.countSent_keeps ..) ?_ ?_
    | refine .via (by with_reducible exact Live.count_keeps ..) ?_ ?_
    | refine .via (by with_reducible exact Live.blk_keeps ..) ?_ ?_
    | refine .via (by with_reducible exact Live.mark_keeps ..) ?_ ?_
    | refine .via (by with_reducible exact Live.removeEntries_keeps ..) ?_ ?_
    | with_reducible refine .ite ?_ ?_
    | dsimp only
    | refine .of2 (by assumption) ?_
    | refine .of22 (by assumption) ?_
    | refine .of1 (by assumption) ?_
    | split

end Sys2Proof.Machine
end

