-- ==== Sys2Proof/Laws/Admit.lean ====
section
/-! SUPPORT. What the operations of Machine/Admit.lean may change. -/

namespace Sys2Proof.Machine

open Sys2Proof

theorem Live.stepOne_keeps (l : Live) (f : Frame) (dests : List Nat) (copy : Bool) : Keeps [.store, .events] l (Live.stepOne l f dests copy).2 := by
  unfold Live.stepOne
  repeat' first
    | exact (rfl : true = true)
    | with_reducible exact .refl _ _
    | refine .via (by with_reducible exact Live.raise_keeps ..) ?_ ?_
    | refine .via (by with_reducible exact Live.count_keeps ..) ?_ ?_
    | with_reducible refine .ite ?_ ?_
    | with_reducible refine .ite2 ?_ ?_
    | dsimp only
    | with_reducible refine .forL (fun l x => ?_) ?_
    | split

theorem Live.admitDrop_keeps (l : Live) (f : Frame) (d : Nat) (cause : Obj) : Keeps [.store, .events] l (Live.admitDrop l f d cause) := by
  unfold Live.admitDrop
  repeat' first
    | exact (rfl : true = true)
    | with_reducible exact .refl _ _
    | refine .via (by with_reducible exact Live.blk_keeps ..) ?_ ?_
    | refine .via (by with_reducible exact Live.count_keeps ..) ?_ ?_
    | refine .via (by with_reducible exact Live.queueDrop_keeps ..) ?_ ?_
    | dsimp only

theorem Live.countTest_keeps (l : Live) (d q ingress : Nat) : Keeps [.plane] l (Live.countTest l d q ingress) := by
  unfold Live.countTest
  repeat' first
    | exact (rfl : true = true)
    | with_reducible exact .refl _ _
    | refine .via (by with_reducible exact Live.setPort_keeps ..) ?_ ?_
    | dsimp only

theorem Live.wred_keeps (l : Live) (f : Frame) (d : Nat) : Keeps [.store, .plane, .events] l (Live.wred l f d).2 := by
  unfold Live.wred
  repeat' first
    | exact (rfl : true = true)
    | with_reducible exact .refl _ _
    | refine .via (by with_reducible exact Live.countTest_keeps ..) ?_ ?_
    | refine .via (by with_reducible exact Live.blk_keeps ..) ?_ ?_
    | refine .via (by with_reducible exact Live.count_keeps ..) ?_ ?_
    | with_reducible refine .ite ?_ ?_
    | with_reducible refine .ite2 ?_ ?_
    | dsimp only
    | split

theorem Live.wredTest_keeps (l : Live) (f : Frame) (d : Nat) : Keeps [.store, .plane, .events] l (Live.wredTest l f d).2 := by
  unfold Live.wredTest
  repeat' first
    | exact (rfl : true = true)
    | with_reducible exact .refl _ _
    | refine .via (by with_reducible exact Live.wred_keeps ..) ?_ ?_
    | refine .via (by with_reducible exact Live.blk_keeps ..) ?_ ?_
    | refine .via (by with_reducible exact Live.admitDrop_keeps ..) ?_ ?_
    | dsimp only
    | refine .of2 (by assumption) ?_
    | refine .of22 (by assumption) ?_
    | refine .of1 (by assumption) ?_
    | split

theorem Live.stepTwo_keeps (l : Live) (f : Frame) (headroom : Bool) (dests : List Nat) : Keeps [.store, .plane, .events] l (Live.stepTwo l f headroom dests).2 := by
  unfold Live.stepTwo
  repeat' first
    | exact (rfl : true = true)
    | with_reducible exact .refl _ _
    | refine .via (by with_reducible exact Live.blk_keeps ..) ?_ ?_
    | refine .via (by with_reducible exact Live.admitDrop_keeps ..) ?_ ?_
    | refine .via (by with_reducible exact Live.wredTest_keeps ..) ?_ ?_
    | with_reducible refine .ite ?_ ?_
    | with_reducible refine .ite2 ?_ ?_
    | dsimp only
    | with_reducible refine .foldl (fun l x => ?_) _ _ ?_
    | with_reducible refine .foldl2 (fun l x => ?_) _ _ ?_
    | with_reducible refine .foldl1 (fun l x => ?_) _ _ ?_
    | refine .of2 (by assumption) ?_
    | refine .of22 (by assumption) ?_
    | refine .of1 (by assumption) ?_
    | split

theorem Live.fabricWrite_keeps (l : Live) (bytes : Nat) : Keeps [.plane] l (Live.fabricWrite l bytes) := by
  unfold Live.fabricWrite
  repeat' first
    | exact (rfl : true = true)
    | with_reducible exact .refl _ _
    | refine .via (by with_reducible exact Live.setPlane_keeps ..) ?_ ?_
    | dsimp only

theorem Live.storeCell_keeps (l : Live) (f : Frame) (headroom copy : Bool) (es : List (Nat × Bool)) : Keeps [.store, .plane, .events] l (Live.storeCell l f headroom copy es) := by
  unfold Live.storeCell
  repeat' first
    | exact (rfl : true = true)
    | with_reducible exact .refl _ _
    | refine .via (by with_reducible exact Live.fabricWrite_keeps ..) ?_ ?_
    | refine .via (by with_reducible exact Live.setPlane_keeps ..) ?_ ?_
    | refine .via (by with_reducible exact Live.setFrame_keeps ..) ?_ ?_
    | refine .via (by with_reducible exact Live.blk_keeps ..) ?_ ?_
    | refine .via (by with_reducible exact Live.setQueue_keeps ..) ?_ ?_
    | refine .via (by with_reducible exact Live.showCells_keeps ..) ?_ ?_
    | refine .via (by with_reducible exact Live.pfcEval_keeps ..) ?_ ?_
    | refine .via (by with_reducible exact Live.kick_keeps ..) ?_ ?_
    | with_reducible refine .ite ?_ ?_
    | dsimp only
    | with_reducible refine .forL (fun l x => ?_) ?_
    | split

theorem Live.admitCell_keeps (l : Live) (f : Frame) (dests : List Nat) (copy : Bool) : Keeps [.store, .plane, .events] l (Live.admitCell l f dests copy) := by
  unfold Live.admitCell
  repeat' first
    | exact (rfl : true = true)
    | with_reducible exact .refl _ _
    | refine .via (by with_reducible exact Live.stepOne_keeps ..) ?_ ?_
    | refine .via (by with_reducible exact Live.mark_keeps ..) ?_ ?_
    | refine .via (by with_reducible exact Live.admitDrop_keeps ..) ?_ ?_
    | refine .via (by with_reducible exact Live.blk_keeps ..) ?_ ?_
    | refine .via (by with_reducible exact Live.raise_keeps ..) ?_ ?_
    | refine .via (by with_reducible exact Live.stepTwo_keeps ..) ?_ ?_
    | refine .via (by with_reducible exact Live.storeCell_keeps ..) ?_ ?_
    | with_reducible refine .ite ?_ ?_
    | dsimp only
    | with_reducible refine .forL (fun l x => ?_) ?_
    | refine .of2 (by assumption) ?_
    | refine .of22 (by assumption) ?_
    | refine .of1 (by assumption) ?_
    | split

theorem Live.admitUplink_keeps (l : Live) (f : Frame) (u : Nat) : Keeps [.store, .plane, .events] l (Live.admitUplink l f u) := by
  unfold Live.admitUplink
  repeat' first
    | exact (rfl : true = true)
    | with_reducible exact .refl _ _
    | refine .via (by with_reducible exact Live.blk_keeps ..) ?_ ?_
    | refine .via (by with_reducible exact Live.admitDrop_keeps ..) ?_ ?_
    | refine .via (by with_reducible exact Live.mark_keeps ..) ?_ ?_
    | refine .via (by with_reducible exact Live.count_keeps ..) ?_ ?_
    | refine .via (by with_reducible exact Live.wredTest_keeps ..) ?_ ?_
    | refine .via (by with_reducible exact Live.setFrame_keeps ..) ?_ ?_
    | refine .via (by with_reducible exact Live.setPort_keeps ..) ?_ ?_
    | refine .via (by with_reducible exact Live.setPlane_keeps ..) ?_ ?_
    | refine .via (by with_reducible exact Live.fabricWrite_keeps ..) ?_ ?_
    | refine .via (by with_reducible exact Live.setQueue_keeps ..) ?_ ?_
    | refine .via (by with_reducible exact Live.wr_keeps ..) ?_ ?_
    | refine .via (by with_reducible exact Live.kick_keeps ..) ?_ ?_
    | with_reducible refine .ite ?_ ?_
    | dsimp only
    | refine .of2 (by assumption) ?_
    | refine .of22 (by assumption) ?_
    | refine .of1 (by assumption) ?_
    | split

theorem Live.enterFabric_keeps (l : Live) (f : Frame) (dests : List Nat) (copy : Bool) : Keeps [.store, .plane, .events] l (Live.enterFabric l f dests copy) := by
  unfold Live.enterFabric
  repeat' first
    | exact (rfl : true = true)
    | with_reducible exact .refl _ _
    | refine .via (by with_reducible exact Live.admitCell_keeps ..) ?_ ?_
    | refine .via (by with_reducible exact Live.admitUplink_keeps ..) ?_ ?_
    | with_reducible refine .ite ?_ ?_
    | dsimp only
    | with_reducible refine .foldl (fun l x => ?_) _ _ ?_
    | with_reducible refine .foldl2 (fun l x => ?_) _ _ ?_
    | with_reducible refine .foldl1 (fun l x => ?_) _ _ ?_
    | split

theorem Live.admitEach_keeps (l : Live) (f : Frame) (dests : List Nat) : Keeps [.store, .plane, .events] l (Live.admitEach l f dests) := by
  unfold Live.admitEach
  repeat' first
    | exact (rfl : true = true)
    | with_reducible exact .refl _ _
    | refine .via (by with_reducible exact Live.enterFabric_keeps ..) ?_ ?_
    | dsimp only
    | with_reducible refine .forL (fun l x => ?_) ?_

end Sys2Proof.Machine
end

