-- ==== Sys2Proof/Laws/Beat.lean ====
section
/-! SUPPORT. What the operations of Machine/Beat.lean may change. -/

namespace Sys2Proof.Machine

open Sys2Proof

theorem Live.noParent_keeps (l : Live) : Keeps [.store] l (Live.noParent l) := by
  unfold Live.noParent
  repeat' first
    | exact (rfl : true = true)
    | with_reducible exact .refl _ _
    | refine .via (by with_reducible exact Live.toDefault_keeps ..) ?_ ?_
    | dsimp only

theorem Live.setBeat_keeps {f : Beat → Beat}
    (hf : ∀ b, (f b).number = b.number ∧ (f b).ticks = b.ticks ∧ (f b).elapsed = b.elapsed) (l : Live) :
    Keeps [.beat] l (l.setBeat f) := .beat (.refl _ l) (hf _) rfl

theorem Live.setBeat_keeps_all {f : Beat → Beat} (hf : ∀ b, b.ticks ≤ (f b).ticks) (l : Live) :
    Keeps [.clock, .beat] l (l.setBeat f) := .clock (.refl _ l) (hf _) rfl

theorem Live.ptpRestart_keeps (l : Live) : Keeps [.store, .beat] l (Live.ptpRestart l) := by
  unfold Live.ptpRestart
  repeat' first
    | exact (rfl : true = true)
    | with_reducible exact .refl _ _
    | refine .via (by with_reducible exact Live.noParent_keeps ..) ?_ ?_
    | refine .via (by with_reducible exact Live.toDefault_keeps ..) ?_ ?_
    | refine .via (by with_reducible exact Live.setBeat_keeps (fun _ => by exact ⟨rfl, rfl, rfl⟩) ..) ?_ ?_
    | with_reducible refine .ite ?_ ?_
    | dsimp only
    | split

theorem Live.armOrigin_keeps (l : Live) : Keeps [.beat] l (Live.armOrigin l) := by
  unfold Live.armOrigin
  repeat' first
    | exact (rfl : true = true)
    | with_reducible exact .refl _ _
    | refine .via (by with_reducible exact Live.setBeat_keeps (fun _ => by exact ⟨rfl, rfl, rfl⟩) ..) ?_ ?_
    | with_reducible refine .ite ?_ ?_
    | dsimp only
    | split

theorem Live.beatHolds_keeps (l : Live) : Keeps [.beat] l (Live.beatHolds l) := by
  unfold Live.beatHolds
  repeat' first
    | exact (rfl : true = true)
    | with_reducible exact .refl _ _
    | refine .via (by with_reducible exact Live.setBeat_keeps (fun _ => by exact ⟨rfl, rfl, rfl⟩) ..) ?_ ?_
    | dsimp only

theorem Live.declareLock_keeps (l : Live) : Keeps [.beat] l (Live.declareLock l) := by
  unfold Live.declareLock
  repeat' first
    | exact (rfl : true = true)
    | with_reducible exact .refl _ _
    | refine .via (by with_reducible exact Live.setBeat_keeps (fun _ => by exact ⟨rfl, rfl, rfl⟩) ..) ?_ ?_
    | dsimp only

theorem Live.delayMessage_keeps (l : Live) (port delay : Nat) : Keeps [.store, .beat] l (Live.delayMessage l port delay) := by
  unfold Live.delayMessage
  repeat' first
    | exact (rfl : true = true)
    | with_reducible exact .refl _ _
    | refine .via (by with_reducible exact Live.wrSat_keeps ..) ?_ ?_
    | refine .via (by with_reducible exact Live.setBeat_keeps (fun _ => by exact ⟨rfl, rfl, rfl⟩) ..) ?_ ?_
    | with_reducible refine .ite ?_ ?_
    | dsimp only
    | split

theorem Live.disarmStrobe_keeps (l : Live) : Keeps [.beat] l (Live.disarmStrobe l) := by
  unfold Live.disarmStrobe
  repeat' first
    | exact (rfl : true = true)
    | with_reducible exact .refl _ _
    | refine .via (by with_reducible exact Live.setBeat_keeps (fun _ => by exact ⟨rfl, rfl, rfl⟩) ..) ?_ ?_
    | dsimp only

theorem Live.loseLock_keeps (l : Live) : Keeps [.store, .beat, .events] l (Live.loseLock l) := by
  unfold Live.loseLock
  repeat' first
    | exact (rfl : true = true)
    | with_reducible exact .refl _ _
    | refine .via (by with_reducible exact Live.raise_keeps ..) ?_ ?_
    | refine .via (by with_reducible exact Live.setBeat_keeps (fun _ => by exact ⟨rfl, rfl, rfl⟩) ..) ?_ ?_
    | dsimp only

theorem Live.slewEnds_keeps (l : Live) : Keeps [.store, .beat, .events] l (Live.slewEnds l) := by
  unfold Live.slewEnds
  repeat' first
    | exact (rfl : true = true)
    | with_reducible exact .refl _ _
    | refine .via (by with_reducible exact Live.raise_keeps ..) ?_ ?_
    | refine .via (by with_reducible exact Live.setBeat_keeps (fun _ => by exact ⟨rfl, rfl, rfl⟩) ..) ?_ ?_
    | with_reducible refine .ite ?_ ?_
    | dsimp only
    | split

theorem Live.numberLocked_keeps (l : Live) (t cycles : Nat) : Keeps [.store, .clock, .beat, .events] l (Live.numberLocked l t cycles) := by
  unfold Live.numberLocked
  repeat' first
    | exact (rfl : true = true)
    | with_reducible exact .refl _ _
    | exact Nat.le_succ _
    | refine .via (by with_reducible exact Live.setBeat_keeps (fun _ => by exact ⟨rfl, rfl, rfl⟩) ..) ?_ ?_
    | refine .via (by with_reducible exact Live.setBeat_keeps_all (fun _ => by exact Nat.le_succ _) ..) ?_ ?_
    | refine .via (by with_reducible exact Live.raise_keeps ..) ?_ ?_
    | refine .via (by with_reducible exact Live.slewEnds_keeps ..) ?_ ?_
    | with_reducible refine .ite ?_ ?_
    | dsimp only
    | split
    | with_reducible refine .clock ?_ ?_ ?_

theorem Live.numberNext_keeps (l : Live) (drift : Nat) : Keeps [.store, .clock, .beat, .events] l (Live.numberNext l drift) := by
  unfold Live.numberNext
  repeat' first
    | exact (rfl : true = true)
    | with_reducible exact .refl _ _
    | exact Nat.le_succ _
    | refine .via (by with_reducible exact Live.setBeat_keeps (fun _ => by exact ⟨rfl, rfl, rfl⟩) ..) ?_ ?_
    | refine .via (by with_reducible exact Live.setBeat_keeps_all (fun _ => by exact Nat.le_succ _) ..) ?_ ?_
    | refine .via (by with_reducible exact Live.slewEnds_keeps ..) ?_ ?_
    | with_reducible refine .ite ?_ ?_
    | dsimp only
    | split
    | with_reducible refine .clock ?_ ?_ ?_

theorem Live.numberStrobe_keeps (l : Live) : Keeps [.store, .clock, .beat, .events] l (Live.numberStrobe l) := by
  unfold Live.numberStrobe
  repeat' first
    | exact (rfl : true = true)
    | with_reducible exact .refl _ _
    | exact Nat.le_succ _
    | refine .via (by with_reducible exact Live.setBeat_keeps (fun _ => by exact ⟨rfl, rfl, rfl⟩) ..) ?_ ?_
    | refine .via (by with_reducible exact Live.setBeat_keeps_all (fun _ => by exact Nat.le_succ _) ..) ?_ ?_
    | refine .via (by with_reducible exact Live.raise_keeps ..) ?_ ?_
    | refine .via (by with_reducible exact Live.slewEnds_keeps ..) ?_ ?_
    | dsimp only
    | with_reducible refine .clock ?_ ?_ ?_

theorem Live.ptpStart_keeps (l : Live) : Keeps [.store, .beat] l (Live.ptpStart l) := by
  unfold Live.ptpStart
  repeat' first
    | exact (rfl : true = true)
    | with_reducible exact .refl _ _
    | refine .via (by with_reducible exact Live.ptpRestart_keeps ..) ?_ ?_
    | refine .via (by with_reducible exact Live.setBeat_keeps (fun _ => by exact ⟨rfl, rfl, rfl⟩) ..) ?_ ?_
    | with_reducible refine .ite ?_ ?_
    | dsimp only
    | split

theorem Live.ptpTransmit_keeps (l : Live) (announce : Bool) : Keeps [.beat] l (Live.ptpTransmit l announce) := by
  unfold Live.ptpTransmit
  repeat' first
    | exact (rfl : true = true)
    | with_reducible exact .refl _ _
    | refine .via (by with_reducible exact Live.setBeat_keeps (fun _ => by exact ⟨rfl, rfl, rfl⟩) ..) ?_ ?_
    | with_reducible refine .ite ?_ ?_
    | dsimp only
    | refine .of2 (by assumption) ?_
    | refine .of22 (by assumption) ?_
    | refine .of1 (by assumption) ?_
    | split

theorem Live.runBmca_keeps (l : Live) : Keeps [.store, .events] l (Live.runBmca l) := by
  unfold Live.runBmca
  repeat' first
    | exact (rfl : true = true)
    | with_reducible exact .refl _ _
    | refine .via (by with_reducible exact Live.noParent_keeps ..) ?_ ?_
    | refine .via (by with_reducible exact Live.raise_keeps ..) ?_ ?_
    | refine .via (by with_reducible exact Live.wr_keeps ..) ?_ ?_
    | with_reducible refine .ite ?_ ?_
    | dsimp only
    | refine .of2 (by assumption) ?_
    | refine .of22 (by assumption) ?_
    | refine .of1 (by assumption) ?_
    | split

theorem Live.syncReceived_keeps (l : Live) (offset : Int) : Keeps [.store, .beat] l (Live.syncReceived l offset) := by
  unfold Live.syncReceived
  repeat' first
    | exact (rfl : true = true)
    | with_reducible exact .refl _ _
    | refine .via (by with_reducible exact Live.wrI_keeps ..) ?_ ?_
    | refine .via (by with_reducible exact Live.setBeat_keeps (fun _ => by exact ⟨rfl, rfl, rfl⟩) ..) ?_ ?_
    | with_reducible refine .ite ?_ ?_
    | dsimp only
    | split

end Sys2Proof.Machine
end

