-- ==== Sys2Proof/Laws/Bpm.lean ====
section
/-! SUPPORT. What the operations of Machine/Bpm.lean may change. -/

namespace Sys2Proof.Machine

open Sys2Proof

theorem Live.setBpm_keeps (l : Live) (f : Bpm → Bpm) : Keeps [.bpm] l (Live.setBpm l f) := by
  unfold Live.setBpm
  repeat' first
    | exact (rfl : true = true)
    | with_reducible exact .refl _ _
    | dsimp only
    | with_reducible refine .bpm ?_ ?_

theorem Live.setBuf_keeps (l : Live) (key : Nat) (f : Buf → Buf) : Keeps [.bpm] l (Live.setBuf l key f) := by
  unfold Live.setBuf
  repeat' first
    | exact (rfl : true = true)
    | with_reducible exact .refl _ _
    | refine .via (by with_reducible exact Live.setBpm_keeps ..) ?_ ?_
    | dsimp only

theorem Live.freeBuffer_keeps (l : Live) (key r : Nat) : Keeps [.bpm, .events] l (Live.freeBuffer l key r) := by
  unfold Live.freeBuffer
  repeat' first
    | exact (rfl : true = true)
    | with_reducible exact .refl _ _
    | refine .via (by with_reducible exact Live.setBuf_keeps ..) ?_ ?_
    | refine .via (by with_reducible exact Live.setBpm_keeps ..) ?_ ?_
    | refine .via (by with_reducible exact Live.blk_keeps ..) ?_ ?_
    | with_reducible refine .ite ?_ ?_
    | dsimp only
    | split

theorem Live.dropOwner_keeps (l : Live) (key r : Nat) : Keeps [.bpm, .events] l (Live.dropOwner l key r) := by
  unfold Live.dropOwner
  repeat' first
    | exact (rfl : true = true)
    | with_reducible exact .refl _ _
    | refine .via (by with_reducible exact Live.freeBuffer_keeps ..) ?_ ?_
    | refine .via (by with_reducible exact Live.setBuf_keeps ..) ?_ ?_
    | with_reducible refine .ite ?_ ?_
    | dsimp only
    | refine .of2 (by assumption) ?_
    | refine .of22 (by assumption) ?_
    | refine .of1 (by assumption) ?_
    | split

theorem Live.forcedRelease_keeps (l : Live) (r : Nat) : Keeps [.store, .bpm, .events] l (Live.forcedRelease l r) := by
  unfold Live.forcedRelease
  repeat' first
    | exact (rfl : true = true)
    | with_reducible exact .refl _ _
    | refine .via (by with_reducible exact Live.raise_keeps ..) ?_ ?_
    | refine .via (by with_reducible exact Live.count_keeps ..) ?_ ?_
    | refine .via (by with_reducible exact Live.dropOwner_keeps ..) ?_ ?_
    | with_reducible refine .ite ?_ ?_
    | dsimp only
    | with_reducible refine .forL (fun l x => ?_) ?_
    | split

theorem Live.zeroFilled_keeps (l : Live) (key : Nat) : Keeps [.bpm] l (Live.zeroFilled l key) := by
  unfold Live.zeroFilled
  repeat' first
    | exact (rfl : true = true)
    | with_reducible exact .refl _ _
    | refine .via (by with_reducible exact Live.setBpm_keeps ..) ?_ ?_
    | refine .via (by with_reducible exact Live.setBuf_keeps ..) ?_ ?_
    | with_reducible refine .ite ?_ ?_
    | dsimp only
    | split

theorem Live.computeGuarantees_keeps (l : Live) : Keeps [.store] l (Live.computeGuarantees l) := by
  unfold Live.computeGuarantees
  repeat' first
    | exact (rfl : true = true)
    | with_reducible exact .refl _ _
    | refine .via (by with_reducible exact Live.wr_keeps ..) ?_ ?_
    | with_reducible refine .ite ?_ ?_
    | dsimp only
    | with_reducible refine .forN (fun l x => ?_) ?_
    | with_reducible refine .foldl (fun l x => ?_) _ _ ?_
    | with_reducible refine .foldl2 (fun l x => ?_) _ _ ?_
    | with_reducible refine .foldl1 (fun l x => ?_) _ _ ?_
    | split

theorem Live.updateBackPressure_keeps (l : Live) : Keeps [.store] l (Live.updateBackPressure l) := by
  unfold Live.updateBackPressure
  repeat' first
    | exact (rfl : true = true)
    | with_reducible exact .refl _ _
    | refine .via (by with_reducible exact Live.wrB_keeps ..) ?_ ?_
    | with_reducible refine .ite ?_ ?_
    | dsimp only
    | with_reducible refine .forN (fun l x => ?_) ?_
    | split

theorem Live.bpmFault_keeps (l : Live) (r handle code : Nat) : Keeps [.store, .events] l (Live.bpmFault l r handle code) := by
  unfold Live.bpmFault
  repeat' first
    | exact (rfl : true = true)
    | with_reducible exact .refl _ _
    | refine .via (by with_reducible exact Live.raise_keeps ..) ?_ ?_
    | refine .via (by with_reducible exact Live.blk_keeps ..) ?_ ?_
    | refine .via (by with_reducible exact Live.count_keeps ..) ?_ ?_
    | with_reducible refine .ite ?_ ?_
    | dsimp only
    | split

theorem Live.freeHandle_keeps (l : Live) (r h : Nat) : Keeps [.store, .bpm, .events] l (Live.freeHandle l r h).2 := by
  unfold Live.freeHandle
  repeat' first
    | exact (rfl : true = true)
    | with_reducible exact .refl _ _
    | refine .via (by with_reducible exact Live.bpmFault_keeps ..) ?_ ?_
    | refine .via (by with_reducible exact Live.freeBuffer_keeps ..) ?_ ?_
    | with_reducible refine .ite ?_ ?_
    | with_reducible refine .ite2 ?_ ?_
    | dsimp only
    | split

theorem Live.sweepStart_keeps (l : Live) : Keeps [.store, .bpm] l (Live.sweepStart l) := by
  unfold Live.sweepStart
  repeat' first
    | exact (rfl : true = true)
    | with_reducible exact .refl _ _
    | refine .via (by with_reducible exact Live.setBpm_keeps ..) ?_ ?_
    | refine .via (by with_reducible exact Live.wr_keeps ..) ?_ ?_
    | dsimp only
    | with_reducible refine .forL (fun l x => ?_) ?_

theorem Live.allocRefused_keeps (l : Live) (r : Nat) (pool : Option Nat) (code : Nat) : Keeps [.store, .events] l (Live.allocRefused l r pool code) := by
  unfold Live.allocRefused
  repeat' first
    | exact (rfl : true = true)
    | with_reducible exact .refl _ _
    | refine .via (by with_reducible exact Live.count_keeps ..) ?_ ?_
    | refine .via (by with_reducible exact Live.raise_keeps ..) ?_ ?_
    | refine .via (by with_reducible exact Live.blk_keeps ..) ?_ ?_
    | dsimp only
    | refine .of2 (by assumption) ?_
    | refine .of22 (by assumption) ?_
    | refine .of1 (by assumption) ?_
    | split

theorem Live.alloc_keeps (l : Live) (r size tn : Nat) : Keeps [.store, .bpm, .events] l (Live.alloc l r size tn).2 := by
  unfold Live.alloc
  repeat' first
    | exact (rfl : true = true)
    | with_reducible exact .refl _ _
    | refine .via (by with_reducible exact Live.allocRefused_keeps ..) ?_ ?_
    | refine .via (by with_reducible exact Live.setBuf_keeps ..) ?_ ?_
    | refine .via (by with_reducible exact Live.wr_keeps ..) ?_ ?_
    | refine .via (by with_reducible exact Live.blk_keeps ..) ?_ ?_
    | with_reducible refine .ite ?_ ?_
    | with_reducible refine .ite2 ?_ ?_
    | dsimp only
    | refine .of2 (by assumption) ?_
    | refine .of22 (by assumption) ?_
    | refine .of1 (by assumption) ?_
    | split

theorem Live.bpmResult_keeps (l : Live) (r code : Nat) (handle : Option Nat) : Keeps [.bpm] l (Live.bpmResult l r code handle) := by
  unfold Live.bpmResult
  repeat' first
    | exact (rfl : true = true)
    | with_reducible exact .refl _ _
    | refine .via (by with_reducible exact Live.setBpm_keeps ..) ?_ ?_
    | dsimp only

theorem Live.bufWrite_keeps (l : Live) (key off : Nat) (bs : List Byte) (poisoned : Bool) : Keeps [.bpm] l (Live.bufWrite l key off bs poisoned) := by
  unfold Live.bufWrite
  repeat' first
    | exact (rfl : true = true)
    | with_reducible exact .refl _ _
    | refine .via (by with_reducible exact Live.setBuf_keeps ..) ?_ ?_
    | dsimp only

theorem Live.release_keeps (l : Live) (r h : Nat) : Keeps [.store, .bpm, .events] l (Live.release l r h).2 := by
  unfold Live.release
  repeat' first
    | exact (rfl : true = true)
    | with_reducible exact .refl _ _
    | refine .via (by with_reducible exact Live.bpmFault_keeps ..) ?_ ?_
    | refine .via (by with_reducible exact Live.setBuf_keeps ..) ?_ ?_
    | with_reducible refine .ite ?_ ?_
    | with_reducible refine .ite2 ?_ ?_
    | dsimp only
    | split

theorem Live.share_keeps (l : Live) (r h new : Nat) (final : Bool) : Keeps [.store, .bpm, .events] l (Live.share l r h new final).2 := by
  unfold Live.share
  repeat' first
    | exact (rfl : true = true)
    | with_reducible exact .refl _ _
    | refine .via (by with_reducible exact Live.bpmFault_keeps ..) ?_ ?_
    | refine .via (by with_reducible exact Live.allocRefused_keeps ..) ?_ ?_
    | refine .via (by with_reducible exact Live.setBuf_keeps ..) ?_ ?_
    | with_reducible refine .ite ?_ ?_
    | with_reducible refine .ite2 ?_ ?_
    | dsimp only
    | split

end Sys2Proof.Machine
end

