-- ==== Sys2Proof/Laws/Mac.lean ====
section
/-! SUPPORT. What the operations of Machine/Mac.lean may change. -/

namespace Sys2Proof.Machine

open Sys2Proof

theorem Live.setFwd_keeps (l : Live) (f : Fwd → Fwd) : Keeps [.plane] l (Live.setFwd l f) := by
  unfold Live.setFwd
  repeat' first
    | exact (rfl : true = true)
    | with_reducible exact .refl _ _
    | refine .via (by with_reducible exact Live.setPlane_keeps ..) ?_ ?_
    | dsimp only

theorem Live.queueFlush_keeps (l : Live) (k : FlushKind) : Keeps [.plane] l (Live.queueFlush l k) := by
  unfold Live.queueFlush
  repeat' first
    | exact (rfl : true = true)
    | with_reducible exact .refl _ _
    | refine .via (by with_reducible exact Live.setFwd_keeps ..) ?_ ?_
    | with_reducible refine .ite ?_ ?_
    | dsimp only
    | split

theorem Live.macErase_keeps (l : Live) (loc : Nat) : Keeps [.store, .plane] l (Live.macErase l loc) := by
  unfold Live.macErase
  repeat' first
    | exact (rfl : true = true)
    | with_reducible exact .refl _ _
    | refine .via (by with_reducible exact Live.setFwd_keeps ..) ?_ ?_
    | refine .via (by with_reducible exact Live.setElem_keeps ..) ?_ ?_
    | dsimp only

theorem Live.showMac_keeps (l : Live) : Keeps [.store, .plane] l (Live.showMac l) := by
  unfold Live.showMac
  repeat' first
    | exact (rfl : true = true)
    | with_reducible exact .refl _ _
    | refine .via (by with_reducible exact Live.wr_keeps ..) ?_ ?_
    | refine .via (by with_reducible exact Live.wrV_keeps ..) ?_ ?_
    | with_reducible refine .ite ?_ ?_
    | dsimp only
    | with_reducible refine .forN (fun l x => ?_) ?_
    | with_reducible refine .foldl (fun l x => ?_) _ _ ?_
    | with_reducible refine .foldl2 (fun l x => ?_) _ _ ?_
    | with_reducible refine .foldl1 (fun l x => ?_) _ _ ?_
    | split

theorem Live.setMac_keeps (l : Live) (loc : Nat) (e : MacEntry) : Keeps [.store] l (Live.setMac l loc e) := by
  unfold Live.setMac
  repeat' first
    | exact (rfl : true = true)
    | with_reducible exact .refl _ _
    | refine .via (by with_reducible exact Live.setElem_keeps ..) ?_ ?_
    | dsimp only

theorem Live.placeStatics_keeps (l : Live) (es : List MacEntry) : Keeps [.store, .events] l (Live.placeStatics l es) := by
  unfold Live.placeStatics
  repeat' first
    | exact (rfl : true = true)
    | with_reducible exact .refl _ _
    | refine .via (by with_reducible exact Live.setMac_keeps ..) ?_ ?_
    | refine .via (by with_reducible exact Live.raise_keeps ..) ?_ ?_
    | dsimp only
    | with_reducible refine .forL (fun l x => ?_) ?_
    | refine .of2 (by assumption) ?_
    | refine .of22 (by assumption) ?_
    | refine .of1 (by assumption) ?_
    | split

theorem Live.reseed_keeps (l : Live) : Keeps [.store, .plane, .events] l (Live.reseed l) := by
  unfold Live.reseed
  repeat' first
    | exact (rfl : true = true)
    | with_reducible exact .refl _ _
    | refine .via (by with_reducible exact Live.macErase_keeps ..) ?_ ?_
    | refine .via (by with_reducible exact Live.showMac_keeps ..) ?_ ?_
    | refine .via (by with_reducible exact Live.placeStatics_keeps ..) ?_ ?_
    | refine .via (by with_reducible exact Live.setFwd_keeps ..) ?_ ?_
    | dsimp only
    | with_reducible refine .foldl (fun l x => ?_) _ _ ?_
    | with_reducible refine .foldl2 (fun l x => ?_) _ _ ?_
    | with_reducible refine .foldl1 (fun l x => ?_) _ _ ?_

theorem Live.macChange_keeps (l : Live) (loc v : Nat) (e : MacEntry) (dest : Nat) : Keeps [.store, .plane] l (Live.macChange l loc v e dest) := by
  unfold Live.macChange
  repeat' first
    | exact (rfl : true = true)
    | with_reducible exact .refl _ _
    | refine .via (by with_reducible exact Live.setFwd_keeps ..) ?_ ?_
    | refine .via (by with_reducible exact Live.setMac_keeps ..) ?_ ?_
    | dsimp only

theorem Live.macSet_keeps (l : Live) (loc v : Nat) (e : MacEntry) (dest : Nat) : Keeps [.store, .plane] l (Live.macSet l loc v e dest) := by
  unfold Live.macSet
  repeat' first
    | exact (rfl : true = true)
    | with_reducible exact .refl _ _
    | refine .via (by with_reducible exact Live.macChange_keeps ..) ?_ ?_
    | refine .via (by with_reducible exact Live.setFwd_keeps ..) ?_ ?_
    | with_reducible refine .ite ?_ ?_
    | dsimp only
    | split

theorem Live.macRemove_keeps (l : Live) (loc v : Nat) (e : MacEntry) : Keeps [.store, .plane] l (Live.macRemove l loc v e) := by
  unfold Live.macRemove
  repeat' first
    | exact (rfl : true = true)
    | with_reducible exact .refl _ _
    | refine .via (by with_reducible exact Live.macSet_keeps ..) ?_ ?_
    | dsimp only

theorem Live.macPurge_keeps (l : Live) (p : MacEntry → Bool) : Keeps [.store, .plane] l (Live.macPurge l p) := by
  unfold Live.macPurge
  repeat' first
    | exact (rfl : true = true)
    | with_reducible exact .refl _ _
    | refine .via (by with_reducible exact Live.showMac_keeps ..) ?_ ?_
    | refine .via (by with_reducible exact Live.macErase_keeps ..) ?_ ?_
    | with_reducible refine .ite ?_ ?_
    | dsimp only
    | with_reducible refine .foldl (fun l x => ?_) _ _ ?_
    | with_reducible refine .foldl2 (fun l x => ?_) _ _ ?_
    | with_reducible refine .foldl1 (fun l x => ?_) _ _ ?_
    | split

theorem Live.opReport_keeps (l : Live) (rank op result loc eff : Nat) : Keeps [.store, .events] l (Live.opReport l rank op result loc eff) := by
  unfold Live.opReport
  repeat' first
    | exact (rfl : true = true)
    | with_reducible exact .refl _ _
    | refine .via (by with_reducible exact Live.raise_keeps ..) ?_ ?_
    | refine .via (by with_reducible exact Live.wr_keeps ..) ?_ ?_
    | dsimp only

theorem Live.macCreate_keeps (l : Live) (loc v : Nat) (e : MacEntry) : Keeps [.store, .plane] l (Live.macCreate l loc v e) := by
  unfold Live.macCreate
  repeat' first
    | exact (rfl : true = true)
    | with_reducible exact .refl _ _
    | refine .via (by with_reducible exact Live.macChange_keeps ..) ?_ ?_
    | dsimp only

theorem Live.addStatic_keeps (l : Live) (rank tn : Nat) : Keeps [.store, .modes, .plane, .events] l (Live.addStatic l rank tn) := by
  unfold Live.addStatic
  repeat' first
    | exact (rfl : true = true)
    | with_reducible exact .refl _ _
    | refine .via (by with_reducible exact Live.opReport_keeps ..) ?_ ?_
    | refine .via (by with_reducible exact Live.markDirty_keeps ..) ?_ ?_
    | refine .via (by with_reducible exact Live.showMac_keeps ..) ?_ ?_
    | refine .via (by with_reducible exact Live.macSet_keeps ..) ?_ ?_
    | refine .via (by with_reducible exact Live.macCreate_keeps ..) ?_ ?_
    | with_reducible refine .ite ?_ ?_
    | dsimp only
    | refine .of2 (by assumption) ?_
    | refine .of22 (by assumption) ?_
    | refine .of1 (by assumption) ?_
    | split

theorem Live.macDelete_keeps (l : Live) (rank tn : Nat) : Keeps [.store, .modes, .plane, .events] l (Live.macDelete l rank tn) := by
  unfold Live.macDelete
  repeat' first
    | exact (rfl : true = true)
    | with_reducible exact .refl _ _
    | refine .via (by with_reducible exact Live.opReport_keeps ..) ?_ ?_
    | refine .via (by with_reducible exact Live.showMac_keeps ..) ?_ ?_
    | refine .via (by with_reducible exact Live.macRemove_keeps ..) ?_ ?_
    | refine .via (by with_reducible exact Live.markDirty_keeps ..) ?_ ?_
    | with_reducible refine .ite ?_ ?_
    | dsimp only
    | with_reducible refine .when (fun l => ?_) ?_
    | refine .of2 (by assumption) ?_
    | refine .of22 (by assumption) ?_
    | refine .of1 (by assumption) ?_
    | split

theorem Live.macFindOp_keeps (l : Live) (rank tn : Nat) : Keeps [.store, .events] l (Live.macFindOp l rank tn) := by
  unfold Live.macFindOp
  repeat' first
    | exact (rfl : true = true)
    | with_reducible exact .refl _ _
    | refine .via (by with_reducible exact Live.opReport_keeps ..) ?_ ?_
    | with_reducible refine .ite ?_ ?_
    | dsimp only
    | refine .of2 (by assumption) ?_
    | refine .of22 (by assumption) ?_
    | refine .of1 (by assumption) ?_
    | split

theorem Live.macFlush_keeps (l : Live) (rank tn op : Nat) (k : FlushKind) (allowed : Bool) : Keeps [.store, .plane, .events] l (Live.macFlush l rank tn op k allowed) := by
  unfold Live.macFlush
  repeat' first
    | exact (rfl : true = true)
    | with_reducible exact .refl _ _
    | refine .via (by with_reducible exact Live.opReport_keeps ..) ?_ ?_
    | refine .via (by with_reducible exact Live.queueFlush_keeps ..) ?_ ?_
    | with_reducible refine .ite ?_ ?_
    | dsimp only
    | split

theorem Live.flushPortOp_keeps (l : Live) (rank tn : Nat) : Keeps [.store, .plane, .events] l (Live.flushPortOp l rank tn) := by
  unfold Live.flushPortOp
  repeat' first
    | exact (rfl : true = true)
    | with_reducible exact .refl _ _
    | refine .via (by with_reducible exact Live.macFlush_keeps ..) ?_ ?_
    | dsimp only

theorem Live.flushFidOp_keeps (l : Live) (rank tn : Nat) : Keeps [.store, .plane, .events] l (Live.flushFidOp l rank tn) := by
  unfold Live.flushFidOp
  repeat' first
    | exact (rfl : true = true)
    | with_reducible exact .refl _ _
    | refine .via (by with_reducible exact Live.macFlush_keeps ..) ?_ ?_
    | dsimp only

theorem Live.flushTenancyOp_keeps (l : Live) (rank tn : Nat) : Keeps [.store, .plane, .events] l (Live.flushTenancyOp l rank tn) := by
  unfold Live.flushTenancyOp
  repeat' first
    | exact (rfl : true = true)
    | with_reducible exact .refl _ _
    | refine .via (by with_reducible exact Live.macFlush_keeps ..) ?_ ?_
    | with_reducible refine .ite ?_ ?_
    | dsimp only
    | split

theorem Live.macOp_keeps (l : Live) (rank op : Nat) : Keeps [.store, .modes, .plane, .events] l (Live.macOp l rank op) := by
  unfold Live.macOp
  repeat' first
    | exact (rfl : true = true)
    | with_reducible exact .refl _ _
    | refine .via (by with_reducible exact Live.addStatic_keeps ..) ?_ ?_
    | refine .via (by with_reducible exact Live.macDelete_keeps ..) ?_ ?_
    | refine .via (by with_reducible exact Live.macFindOp_keeps ..) ?_ ?_
    | refine .via (by with_reducible exact Live.flushPortOp_keeps ..) ?_ ?_
    | refine .via (by with_reducible exact Live.flushFidOp_keeps ..) ?_ ?_
    | refine .via (by with_reducible exact Live.flushTenancyOp_keeps ..) ?_ ?_
    | dsimp only
    | refine .of2 (by assumption) ?_
    | refine .of22 (by assumption) ?_
    | refine .of1 (by assumption) ?_
    | split

theorem Live.macWipe_keeps (l : Live) (n : Nat) : Keeps [.store, .plane] l (Live.macWipe l n) := by
  unfold Live.macWipe
  repeat' first
    | exact (rfl : true = true)
    | with_reducible exact .refl _ _
    | refine .via (by with_reducible exact Live.macPurge_keeps ..) ?_ ?_
    | refine .via (by with_reducible exact Live.setFwd_keeps ..) ?_ ?_
    | dsimp only

theorem Live.learnRefused_keeps (l : Live) (r : Learn) : Keeps [.store, .events] l (Live.learnRefused l r) := by
  unfold Live.learnRefused
  repeat' first
    | exact (rfl : true = true)
    | with_reducible exact .refl _ _
    | refine .via (by with_reducible exact Live.blk_keeps ..) ?_ ?_
    | refine .via (by with_reducible exact Live.count_keeps ..) ?_ ?_
    | dsimp only

theorem Live.learnNew_keeps (l : Live) (r : Learn) (v : Nat) (held : Option Nat) : Keeps [.store, .plane, .events] l (Live.learnNew l r v held) := by
  unfold Live.learnNew
  repeat' first
    | exact (rfl : true = true)
    | with_reducible exact .refl _ _
    | refine .via (by with_reducible exact Live.raise_keeps ..) ?_ ?_
    | refine .via (by with_reducible exact Live.learnRefused_keeps ..) ?_ ?_
    | refine .via (by with_reducible exact Live.mark_keeps ..) ?_ ?_
    | refine .via (by with_reducible exact Live.count_keeps ..) ?_ ?_
    | refine .via (by with_reducible exact Live.blk_keeps ..) ?_ ?_
    | refine .via (by with_reducible exact Live.macCreate_keeps ..) ?_ ?_
    | with_reducible refine .ite ?_ ?_
    | dsimp only
    | refine .of2 (by assumption) ?_
    | refine .of22 (by assumption) ?_
    | refine .of1 (by assumption) ?_
    | split

theorem Live.learnMove_keeps (l : Live) (r : Learn) (v loc : Nat) (e : MacEntry) : Keeps [.store, .plane, .events] l (Live.learnMove l r v loc e) := by
  unfold Live.learnMove
  repeat' first
    | exact (rfl : true = true)
    | with_reducible exact .refl _ _
    | refine .via (by with_reducible exact Live.learnRefused_keeps ..) ?_ ?_
    | refine .via (by with_reducible exact Live.setMac_keeps ..) ?_ ?_
    | refine .via (by with_reducible exact Live.blk_keeps ..) ?_ ?_
    | refine .via (by with_reducible exact Live.count_keeps ..) ?_ ?_
    | refine .via (by with_reducible exact Live.macChange_keeps ..) ?_ ?_
    | refine .via (by with_reducible exact Live.raise_keeps ..) ?_ ?_
    | with_reducible refine .ite ?_ ?_
    | dsimp only
    | split

theorem Live.learnOne_keeps (l : Live) (r : Learn) : Keeps [.store, .plane, .events] l (Live.learnOne l r) := by
  unfold Live.learnOne
  repeat' first
    | exact (rfl : true = true)
    | with_reducible exact .refl _ _
    | refine .via (by with_reducible exact Live.learnNew_keeps ..) ?_ ?_
    | refine .via (by with_reducible exact Live.learnRefused_keeps ..) ?_ ?_
    | refine .via (by with_reducible exact Live.blk_keeps ..) ?_ ?_
    | refine .via (by with_reducible exact Live.setMac_keeps ..) ?_ ?_
    | refine .via (by with_reducible exact Live.learnMove_keeps ..) ?_ ?_
    | with_reducible refine .ite ?_ ?_
    | dsimp only
    | refine .of2 (by assumption) ?_
    | refine .of22 (by assumption) ?_
    | refine .of1 (by assumption) ?_
    | split

theorem Live.learnApply_keeps (l : Live) : Keeps [.store, .plane, .events] l (Live.learnApply l) := by
  unfold Live.learnApply
  repeat' first
    | exact (rfl : true = true)
    | with_reducible exact .refl _ _
    | refine .via (by with_reducible exact Live.setFwd_keeps ..) ?_ ?_
    | refine .via (by with_reducible exact Live.showMac_keeps ..) ?_ ?_
    | refine .via (by with_reducible exact Live.learnOne_keeps ..) ?_ ?_
    | dsimp only
    | with_reducible refine .forL (fun l x => ?_) ?_

theorem Live.learnStep_keeps (l : Live) : Keeps [.store, .plane, .events] l (Live.learnStep l) := by
  unfold Live.learnStep
  repeat' first
    | exact (rfl : true = true)
    | with_reducible exact .refl _ _
    | refine .via (by with_reducible exact Live.learnApply_keeps ..) ?_ ?_
    | with_reducible refine .ite ?_ ?_
    | dsimp only
    | split

theorem Live.dampingEnd_keeps (l : Live) : Keeps [.store, .events] l (Live.dampingEnd l) := by
  unfold Live.dampingEnd
  repeat' first
    | exact (rfl : true = true)
    | with_reducible exact .refl _ _
    | refine .via (by with_reducible exact Live.setMac_keeps ..) ?_ ?_
    | refine .via (by with_reducible exact Live.raise_keeps ..) ?_ ?_
    | with_reducible refine .ite ?_ ?_
    | dsimp only
    | with_reducible refine .forL (fun l x => ?_) ?_
    | split

theorem Live.dampingStep_keeps (l : Live) : Keeps [.store, .plane, .events] l (Live.dampingStep l) := by
  unfold Live.dampingStep
  repeat' first
    | exact (rfl : true = true)
    | with_reducible exact .refl _ _
    | refine .via (by with_reducible exact Live.setFwd_keeps ..) ?_ ?_
    | refine .via (by with_reducible exact Live.dampingEnd_keeps ..) ?_ ?_
    | with_reducible refine .ite ?_ ?_
    | dsimp only
    | split

theorem Live.flushDone_keeps (l : Live) : Keeps [.store, .plane, .events] l (Live.flushDone l) := by
  unfold Live.flushDone
  repeat' first
    | exact (rfl : true = true)
    | with_reducible exact .refl _ _
    | refine .via (by with_reducible exact Live.raise_keeps ..) ?_ ?_
    | refine .via (by with_reducible exact Live.wrB_keeps ..) ?_ ?_
    | refine .via (by with_reducible exact Live.setFwd_keeps ..) ?_ ?_
    | dsimp only

theorem Live.flushStepEnd_keeps (l : Live) : Keeps [.store, .plane, .events] l (Live.flushStepEnd l) := by
  unfold Live.flushStepEnd
  repeat' first
    | exact (rfl : true = true)
    | with_reducible exact .refl _ _
    | refine .via (by with_reducible exact Live.flushDone_keeps ..) ?_ ?_
    | with_reducible refine .ite ?_ ?_
    | dsimp only
    | split

theorem Live.flushStep_keeps (l : Live) : Keeps [.store, .plane] l (Live.flushStep l) := by
  unfold Live.flushStep
  repeat' first
    | exact (rfl : true = true)
    | with_reducible exact .refl _ _
    | refine .via (by with_reducible exact Live.wrB_keeps ..) ?_ ?_
    | refine .via (by with_reducible exact Live.setFwd_keeps ..) ?_ ?_
    | refine .via (by with_reducible exact Live.macRemove_keeps ..) ?_ ?_
    | refine .via (by with_reducible exact Live.showMac_keeps ..) ?_ ?_
    | with_reducible refine .ite ?_ ?_
    | dsimp only
    | with_reducible refine .forL (fun l x => ?_) ?_
    | split

theorem Live.ageVisit_keeps (l : Live) (loc : Nat) : Keeps [.store, .plane] l (Live.ageVisit l loc) := by
  unfold Live.ageVisit
  repeat' first
    | exact (rfl : true = true)
    | with_reducible exact .refl _ _
    | refine .via (by with_reducible exact Live.macChange_keeps ..) ?_ ?_
    | with_reducible refine .ite ?_ ?_
    | dsimp only
    | split

theorem Live.agingSweep_keeps (l : Live) : Keeps [.store, .plane] l (Live.agingSweep l) := by
  unfold Live.agingSweep
  repeat' first
    | exact (rfl : true = true)
    | with_reducible exact .refl _ _
    | refine .via (by with_reducible exact Live.ageVisit_keeps ..) ?_ ?_
    | refine .via (by with_reducible exact Live.wr_keeps ..) ?_ ?_
    | refine .via (by with_reducible exact Live.showMac_keeps ..) ?_ ?_
    | with_reducible refine .ite ?_ ?_
    | dsimp only
    | with_reducible refine .forL (fun l x => ?_) ?_
    | split

theorem Live.macSettle_keeps (l : Live) (v loc : Nat) : Keeps [.store, .plane] l (Live.macSettle l v loc) := by
  unfold Live.macSettle
  repeat' first
    | exact (rfl : true = true)
    | with_reducible exact .refl _ _
    | refine .via (by with_reducible exact Live.macErase_keeps ..) ?_ ?_
    | refine .via (by with_reducible exact Live.setMac_keeps ..) ?_ ?_
    | with_reducible refine .ite ?_ ?_
    | dsimp only
    | split

theorem Live.macLater_keeps (l : Live) (c : MacLater) : Keeps [.store, .plane] l (Live.macLater l c) := by
  unfold Live.macLater
  repeat' first
    | exact (rfl : true = true)
    | with_reducible exact .refl _ _
    | refine .via (by with_reducible exact Live.macChange_keeps ..) ?_ ?_
    | refine .via (by with_reducible exact Live.macCreate_keeps ..) ?_ ?_
    | with_reducible refine .ite ?_ ?_
    | dsimp only
    | refine .of2 (by assumption) ?_
    | refine .of22 (by assumption) ?_
    | refine .of1 (by assumption) ?_
    | split

theorem Live.settle_keeps (l : Live) : Keeps [.store, .plane] l (Live.settle l) := by
  unfold Live.settle
  repeat' first
    | exact (rfl : true = true)
    | with_reducible exact .refl _ _
    | refine .via (by with_reducible exact Live.setFwd_keeps ..) ?_ ?_
    | refine .via (by with_reducible exact Live.macSettle_keeps ..) ?_ ?_
    | refine .via (by with_reducible exact Live.showMac_keeps ..) ?_ ?_
    | refine .via (by with_reducible exact Live.macLater_keeps ..) ?_ ?_
    | dsimp only
    | with_reducible refine .forL (fun l x => ?_) ?_

theorem Live.settleStep_keeps (l : Live) : Keeps [.store, .plane] l (Live.settleStep l) := by
  unfold Live.settleStep
  repeat' first
    | exact (rfl : true = true)
    | with_reducible exact .refl _ _
    | refine .via (by with_reducible exact Live.settle_keeps ..) ?_ ?_
    | with_reducible refine .ite ?_ ?_
    | dsimp only
    | split

theorem Live.clearAges_keeps (l : Live) : Keeps [.store] l (Live.clearAges l) := by
  unfold Live.clearAges
  repeat' first
    | exact (rfl : true = true)
    | with_reducible exact .refl _ _
    | refine .via (by with_reducible exact Live.setMac_keeps ..) ?_ ?_
    | with_reducible refine .ite ?_ ?_
    | dsimp only
    | with_reducible refine .forL (fun l x => ?_) ?_
    | split

end Sys2Proof.Machine
end

