-- ==== Sys2Proof/Laws/Forward.lean ====
section
/-! SUPPORT. What the operations of Machine/Forward.lean may change. -/

namespace Sys2Proof.Machine

open Sys2Proof

theorem Live.lagUpdate_keeps (l : Live) (n : Nat) : Keeps [.store, .plane, .events] l (Live.lagUpdate l n) := by
  unfold Live.lagUpdate
  repeat' first
    | exact (rfl : true = true)
    | with_reducible exact .refl _ _
    | refine .via (by with_reducible exact Live.raise_keeps ..) ?_ ?_
    | refine .via (by with_reducible exact Live.wrV_keeps ..) ?_ ?_
    | with_reducible refine .ite ?_ ?_
    | dsimp only
    | split

theorem Live.lagSettle_keeps (l : Live) : Keeps [.store, .plane, .events] l (Live.lagSettle l) := by
  unfold Live.lagSettle
  repeat' first
    | exact (rfl : true = true)
    | with_reducible exact .refl _ _
    | refine .via (by with_reducible exact Live.queueFlush_keeps ..) ?_ ?_
    | refine .via (by with_reducible exact Live.lagUpdate_keeps ..) ?_ ?_
    | refine .via (by with_reducible exact Live.setFwd_keeps ..) ?_ ?_
    | with_reducible refine .ite ?_ ?_
    | dsimp only
    | with_reducible refine .forL (fun l x => ?_) ?_
    | with_reducible refine .forN (fun l x => ?_) ?_
    | split

theorem Live.filtered_keeps (l : Live) (it : Item) (n : Nat) : Keeps [.store, .events] l (Live.filtered l it n) := by
  unfold Live.filtered
  repeat' first
    | exact (rfl : true = true)
    | with_reducible exact .refl _ _
    | refine .via (by with_reducible exact Live.blk_keeps ..) ?_ ?_
    | refine .via (by with_reducible exact Live.count_keeps ..) ?_ ?_
    | with_reducible refine .ite ?_ ?_
    | dsimp only
    | split

theorem Live.sourceCheck_keeps (l : Live) (it : Item) (v : Nat) : Keeps [.store, .events] l (Live.sourceCheck l it v).2 := by
  unfold Live.sourceCheck
  repeat' first
    | exact (rfl : true = true)
    | with_reducible exact .refl _ _
    | refine .via (by with_reducible exact Live.raise_keeps ..) ?_ ?_
    | refine .via (by with_reducible exact Live.count_keeps ..) ?_ ?_
    | with_reducible refine .ite ?_ ?_
    | with_reducible refine .ite2 ?_ ?_
    | dsimp only
    | refine .of2 (by assumption) ?_
    | refine .of22 (by assumption) ?_
    | refine .of1 (by assumption) ?_
    | split

theorem Live.requestLearn_keeps (l : Live) (r : Option Learn) : Keeps [.plane, .events] l (Live.requestLearn l r) := by
  unfold Live.requestLearn
  repeat' first
    | exact (rfl : true = true)
    | with_reducible exact .refl _ _
    | refine .via (by with_reducible exact Live.blk_keeps ..) ?_ ?_
    | refine .via (by with_reducible exact Live.setFwd_keeps ..) ?_ ?_
    | dsimp only
    | refine .of2 (by assumption) ?_
    | refine .of22 (by assumption) ?_
    | refine .of1 (by assumption) ?_
    | split

theorem Live.routeDrop_keeps (l : Live) (it : Item) : Keeps [.store, .events] l (Live.routeDrop l it) := by
  unfold Live.routeDrop
  repeat' first
    | exact (rfl : true = true)
    | with_reducible exact .refl _ _
    | refine .via (by with_reducible exact Live.blk_keeps ..) ?_ ?_
    | refine .via (by with_reducible exact Live.count_keeps ..) ?_ ?_
    | dsimp only

theorem Live.unresolvedHop_keeps (l : Live) (it : Item) (n : Nat) : Keeps [.store, .plane, .events] l (Live.unresolvedHop l it n).2 := by
  unfold Live.unresolvedHop
  repeat' first
    | exact (rfl : true = true)
    | with_reducible exact .refl _ _
    | refine .via (by with_reducible exact Live.blk_keeps ..) ?_ ?_
    | refine .via (by with_reducible exact Live.routeDrop_keeps ..) ?_ ?_
    | refine .via (by with_reducible exact Live.setFwd_keeps ..) ?_ ?_
    | with_reducible refine .ite ?_ ?_
    | with_reducible refine .ite2 ?_ ?_
    | dsimp only
    | refine .of2 (by assumption) ?_
    | refine .of22 (by assumption) ?_
    | refine .of1 (by assumption) ?_
    | split

theorem Live.groupResult_keeps (l : Live) (it : Item) (g vlan : Nat) : Keeps [.store, .events] l (Live.groupResult l it g vlan).2 := by
  unfold Live.groupResult
  repeat' first
    | exact (rfl : true = true)
    | with_reducible exact .refl _ _
    | refine .via (by with_reducible exact Live.filtered_keeps ..) ?_ ?_
    | with_reducible refine .ite ?_ ?_
    | with_reducible refine .ite2 ?_ ?_
    | dsimp only
    | split

theorem Live.destResult_keeps (l : Live) (it : Item) (d vlan : Nat) : Keeps [.store, .events] l (Live.destResult l it d vlan).2 := by
  unfold Live.destResult
  repeat' first
    | exact (rfl : true = true)
    | with_reducible exact .refl _ _
    | refine .via (by with_reducible exact Live.filtered_keeps ..) ?_ ?_
    | refine .via (by with_reducible exact Live.groupResult_keeps ..) ?_ ?_
    | with_reducible refine .ite ?_ ?_
    | with_reducible refine .ite2 ?_ ?_
    | dsimp only
    | refine .of2 (by assumption) ?_
    | refine .of22 (by assumption) ?_
    | refine .of1 (by assumption) ?_
    | split

theorem Live.unicastRow_keeps (l : Live) (it : Item) (mac vlan v : Nat) : Keeps [.store, .events] l (Live.unicastRow l it mac vlan v).2 := by
  unfold Live.unicastRow
  repeat' first
    | exact (rfl : true = true)
    | with_reducible exact .refl _ _
    | refine .via (by with_reducible exact Live.destResult_keeps ..) ?_ ?_
    | refine .via (by with_reducible exact Live.blk_keeps ..) ?_ ?_
    | refine .via (by with_reducible exact Live.count_keeps ..) ?_ ?_
    | with_reducible refine .ite ?_ ?_
    | with_reducible refine .ite2 ?_ ?_
    | dsimp only
    | refine .of2 (by assumption) ?_
    | refine .of22 (by assumption) ?_
    | refine .of1 (by assumption) ?_
    | split

theorem Live.routeRow_keeps (l : Live) (it : Item) : Keeps [.store, .plane, .events] l (Live.routeRow l it).2 := by
  unfold Live.routeRow
  repeat' first
    | exact (rfl : true = true)
    | with_reducible exact .refl _ _
    | refine .via (by with_reducible exact Live.blk_keeps ..) ?_ ?_
    | refine .via (by with_reducible exact Live.routeDrop_keeps ..) ?_ ?_
    | refine .via (by with_reducible exact Live.unresolvedHop_keeps ..) ?_ ?_
    | refine .via (by with_reducible exact Live.count_keeps ..) ?_ ?_
    | refine .via (by with_reducible exact Live.unicastRow_keeps ..) ?_ ?_
    | refine .via (by with_reducible exact Live.filtered_keeps ..) ?_ ?_
    | with_reducible refine .ite ?_ ?_
    | with_reducible refine .ite2 ?_ ?_
    | dsimp only
    | refine .of2 (by assumption) ?_
    | refine .of22 (by assumption) ?_
    | refine .of1 (by assumption) ?_
    | split

theorem Live.multicastRow_keeps (l : Live) (it : Item) (vlan v : Nat) : Keeps [.store, .events] l (Live.multicastRow l it vlan v).2 := by
  unfold Live.multicastRow
  repeat' first
    | exact (rfl : true = true)
    | with_reducible exact .refl _ _
    | refine .via (by with_reducible exact Live.destResult_keeps ..) ?_ ?_
    | refine .via (by with_reducible exact Live.filtered_keeps ..) ?_ ?_
    | with_reducible refine .ite ?_ ?_
    | with_reducible refine .ite2 ?_ ?_
    | dsimp only
    | refine .of2 (by assumption) ?_
    | refine .of22 (by assumption) ?_
    | refine .of1 (by assumption) ?_
    | split

theorem Live.decideRows_keeps (l : Live) (it : Item) (v : Nat) : Keeps [.store, .plane, .events] l (Live.decideRows l it v).2 := by
  unfold Live.decideRows
  repeat' first
    | exact (rfl : true = true)
    | with_reducible exact .refl _ _
    | refine .via (by with_reducible exact Live.routeRow_keeps ..) ?_ ?_
    | refine .via (by with_reducible exact Live.groupResult_keeps ..) ?_ ?_
    | refine .via (by with_reducible exact Live.multicastRow_keeps ..) ?_ ?_
    | refine .via (by with_reducible exact Live.unicastRow_keeps ..) ?_ ?_
    | with_reducible refine .ite ?_ ?_
    | with_reducible refine .ite2 ?_ ?_
    | dsimp only
    | split

theorem Live.filters_keeps (l : Live) (it : Item) (d : Decision) : Keeps [.store, .events] l (Live.filters l it d).2 := by
  unfold Live.filters
  repeat' first
    | exact (rfl : true = true)
    | with_reducible exact .refl _ _
    | refine .via (by with_reducible exact Live.filtered_keeps ..) ?_ ?_
    | refine .via (by with_reducible exact Live.count_keeps ..) ?_ ?_
    | with_reducible refine .ite ?_ ?_
    | with_reducible refine .ite2 ?_ ?_
    | dsimp only
    | with_reducible refine .foldl (fun l x => ?_) _ _ ?_
    | with_reducible refine .foldl2 (fun l x => ?_) _ _ ?_
    | with_reducible refine .foldl1 (fun l x => ?_) _ _ ?_
    | refine .of2 (by assumption) ?_
    | refine .of22 (by assumption) ?_
    | refine .of1 (by assumption) ?_
    | split

theorem Live.forward_keeps (l : Live) (it : Item) : Keeps [.store, .plane, .events] l (Live.forward l it).2 := by
  unfold Live.forward
  repeat' first
    | exact (rfl : true = true)
    | with_reducible exact .refl _ _
    | refine .via (by with_reducible exact Live.filtered_keeps ..) ?_ ?_
    | refine .via (by with_reducible exact Live.sourceCheck_keeps ..) ?_ ?_
    | refine .via (by with_reducible exact Live.blk_keeps ..) ?_ ?_
    | refine .via (by with_reducible exact Live.requestLearn_keeps ..) ?_ ?_
    | refine .via (by with_reducible exact Live.decideRows_keeps ..) ?_ ?_
    | refine .via (by with_reducible exact Live.filters_keeps ..) ?_ ?_
    | with_reducible refine .ite ?_ ?_
    | with_reducible refine .ite2 ?_ ?_
    | dsimp only
    | refine .of2 (by assumption) ?_
    | refine .of22 (by assumption) ?_
    | refine .of1 (by assumption) ?_
    | split

end Sys2Proof.Machine
end

