-- ==== Sys2Proof/Laws/Calico.lean ====
section
/-! SUPPORT. What the operations of Machine/Calico.lean may change. -/

namespace Sys2Proof.Machine

open Sys2Proof

theorem Live.setCalico_keeps (l : Live) (f : Calico → Calico) : Keeps [.plane] l (Live.setCalico l f) := by
  unfold Live.setCalico
  repeat' first
    | exact (rfl : true = true)
    | with_reducible exact .refl _ _
    | refine .via (by with_reducible exact Live.setPlane_keeps ..) ?_ ?_
    | dsimp only

theorem Live.copyMeets_keeps (l : Live) (t e : Nat) (gone : Option Nat) : Keeps [.plane] l (Live.copyMeets l t e gone) := by
  unfold Live.copyMeets
  repeat' first
    | exact (rfl : true = true)
    | with_reducible exact .refl _ _
    | refine .via (by with_reducible exact Live.setCalico_keeps ..) ?_ ?_
    | with_reducible refine .ite ?_ ?_
    | dsimp only
    | refine .of2 (by assumption) ?_
    | refine .of22 (by assumption) ?_
    | refine .of1 (by assumption) ?_
    | split

theorem Live.twillSwap_keeps (l : Live) (mask : Nat) : Keeps [.store, .plane, .events, .recoveries] l (Live.twillSwap l mask) := by
  unfold Live.twillSwap
  repeat' first
    | exact (rfl : true = true)
    | with_reducible exact .refl _ _
    | refine .via (by with_reducible exact Live.setCalico_keeps ..) ?_ ?_
    | refine .via (by with_reducible exact Live.wr_keeps ..) ?_ ?_
    | refine .via (by with_reducible exact Live.wrV_keeps ..) ?_ ?_
    | refine .via (by with_reducible exact Live.raise_keeps ..) ?_ ?_
    | refine .via (by with_reducible exact Live.recoveryAt_keeps ..) ?_ ?_
    | refine .via (by with_reducible exact Live.withdraw_keeps ..) ?_ ?_
    | with_reducible refine .ite ?_ ?_
    | dsimp only
    | with_reducible refine .forL (fun l x => ?_) ?_
    | split

theorem Live.shadowCopy_keeps (l : Live) (t : Nat) : Keeps [.store, .plane] l (Live.shadowCopy l t) := by
  unfold Live.shadowCopy
  repeat' first
    | exact (rfl : true = true)
    | with_reducible exact .refl _ _
    | refine .via (by with_reducible exact Live.wrB_keeps ..) ?_ ?_
    | refine .via (by with_reducible exact Live.setCalico_keeps ..) ?_ ?_
    | dsimp only

theorem Live.drainDone_keeps (l : Live) (age : Nat) : Keeps [.store, .plane, .events] l (Live.drainDone l age) := by
  unfold Live.drainDone
  repeat' first
    | exact (rfl : true = true)
    | with_reducible exact .refl _ _
    | refine .via (by with_reducible exact Live.raise_keeps ..) ?_ ?_
    | refine .via (by with_reducible exact Live.setCalico_keeps ..) ?_ ?_
    | with_reducible refine .ite ?_ ?_
    | dsimp only
    | with_reducible refine .foldl (fun l x => ?_) _ _ ?_
    | with_reducible refine .foldl2 (fun l x => ?_) _ _ ?_
    | with_reducible refine .foldl1 (fun l x => ?_) _ _ ?_
    | refine .of2 (by assumption) ?_
    | refine .of22 (by assumption) ?_
    | refine .of1 (by assumption) ?_
    | split

theorem Live.copyElem_keeps (l : Live) (t bank e v : Nat) : Keeps [.store, .modes] l (Live.copyElem l t bank e v) := by
  unfold Live.copyElem
  repeat' first
    | exact (rfl : true = true)
    | with_reducible exact .refl _ _
    | refine .via (by with_reducible exact Live.markDirty_keeps ..) ?_ ?_
    | refine .via (by with_reducible exact Live.setElem_keeps ..) ?_ ?_
    | with_reducible refine .ite ?_ ?_
    | dsimp only
    | split

theorem Live.copyStep_keeps (l : Live) (t : Nat) : Keeps [.store, .modes, .plane] l (Live.copyStep l t) := by
  unfold Live.copyStep
  repeat' first
    | exact (rfl : true = true)
    | with_reducible exact .refl _ _
    | refine .via (by with_reducible exact Live.copyElem_keeps ..) ?_ ?_
    | refine .via (by with_reducible exact Live.setPlane_keeps ..) ?_ ?_
    | refine .via (by with_reducible exact Live.setCalico_keeps ..) ?_ ?_
    | with_reducible refine .ite ?_ ?_
    | dsimp only
    | with_reducible refine .forL (fun l x => ?_) ?_
    | refine .of2 (by assumption) ?_
    | refine .of22 (by assumption) ?_
    | refine .of1 (by assumption) ?_
    | split

theorem Live.shadowCopyDone_keeps (l : Live) (t : Nat) : Keeps [.store, .plane, .host, .events] l (Live.shadowCopyDone l t) := by
  unfold Live.shadowCopyDone
  repeat' first
    | exact (rfl : true = true)
    | with_reducible exact .refl _ _
    | refine .via (by with_reducible exact Live.wrB_keeps ..) ?_ ?_
    | refine .via (by with_reducible exact Live.setCalico_keeps ..) ?_ ?_
    | refine .via (by with_reducible exact Live.raise_keeps ..) ?_ ?_
    | with_reducible refine .ite ?_ ?_
    | dsimp only
    | refine .of2 (by assumption) ?_
    | refine .of22 (by assumption) ?_
    | refine .of1 (by assumption) ?_
    | split
    | with_reducible refine .host ?_ ?_

theorem Live.bindingCleared_keeps (l : Live) (p w field number : Nat) : Keeps [.store, .events] l (Live.bindingCleared l p w field number) := by
  unfold Live.bindingCleared
  repeat' first
    | exact (rfl : true = true)
    | with_reducible exact .refl _ _
    | refine .via (by with_reducible exact Live.raise_keeps ..) ?_ ?_
    | refine .via (by with_reducible exact Live.count_keeps ..) ?_ ?_
    | dsimp only

theorem Live.checkMirror_keeps (l : Live) (b p w : Nat) : Keeps [.store, .events] l (Live.checkMirror l b p w).2 := by
  unfold Live.checkMirror
  repeat' first
    | exact (rfl : true = true)
    | with_reducible exact .refl _ _
    | refine .via (by with_reducible exact Live.bindingCleared_keeps ..) ?_ ?_
    | with_reducible refine .ite ?_ ?_
    | with_reducible refine .ite2 ?_ ?_
    | dsimp only
    | split

theorem Live.checkRefs_keeps (l : Live) (b p w : Nat) : Keeps [.store, .events] l (Live.checkRefs l b p w).2 := by
  unfold Live.checkRefs
  repeat' first
    | exact (rfl : true = true)
    | with_reducible exact .refl _ _
    | refine .via (by with_reducible exact Live.bindingCleared_keeps ..) ?_ ?_
    | refine .via (by with_reducible exact Live.checkMirror_keeps ..) ?_ ?_
    | with_reducible refine .ite ?_ ?_
    | with_reducible refine .ite2 ?_ ?_
    | dsimp only
    | split

theorem Live.ctBlk_keeps (l : Live) (b : Nat) (s : Signal) (p w : Nat) : Keeps [.events] l (Live.ctBlk l b s p w) := by
  unfold Live.ctBlk
  repeat' first
    | exact (rfl : true = true)
    | with_reducible exact .refl _ _
    | refine .via (by with_reducible exact Live.blk_keeps ..) ?_ ?_
    | dsimp only

theorem Live.ct0_keeps (l : Live) (b p w : Nat) (x : Parsed) : Keeps [.store, .events] l (Live.ct0 l b p w x).2 := by
  unfold Live.ct0
  repeat' first
    | exact (rfl : true = true)
    | with_reducible exact .refl _ _
    | refine .via (by with_reducible exact Live.ctBlk_keeps ..) ?_ ?_
    | refine .via (by with_reducible exact Live.count_keeps ..) ?_ ?_
    | with_reducible refine .ite ?_ ?_
    | with_reducible refine .ite2 ?_ ?_
    | dsimp only
    | refine .of2 (by assumption) ?_
    | refine .of22 (by assumption) ?_
    | refine .of1 (by assumption) ?_
    | split

theorem Live.ct1_keeps (l : Live) (b p w : Nat) (x : Parsed) : Keeps [.events] l (Live.ct1 l b p w x).2 := by
  unfold Live.ct1
  repeat' first
    | exact (rfl : true = true)
    | with_reducible exact .refl _ _
    | refine .via (by with_reducible exact Live.ctBlk_keeps ..) ?_ ?_
    | with_reducible refine .ite ?_ ?_
    | with_reducible refine .ite2 ?_ ?_
    | dsimp only
    | refine .of2 (by assumption) ?_
    | refine .of22 (by assumption) ?_
    | refine .of1 (by assumption) ?_
    | split

theorem Live.copies_keeps (l : Live) (f : Frame) (x : Parsed) (toC : Bool) : Keeps [.store, .plane, .events] l (Live.copies l f x toC) := by
  unfold Live.copies
  repeat' first
    | exact (rfl : true = true)
    | with_reducible exact .refl _ _
    | refine .via (by with_reducible exact Live.enterFabric_keeps ..) ?_ ?_
    | refine .via (by with_reducible exact Live.count_keeps ..) ?_ ?_
    | with_reducible refine .ite ?_ ?_
    | dsimp only
    | refine .of2 (by assumption) ?_
    | refine .of22 (by assumption) ?_
    | refine .of1 (by assumption) ?_
    | split

theorem Live.ct2_keeps (l : Live) (b p w : Nat) (x : Parsed) : Keeps [.events] l (Live.ct2 l b p w x).2 := by
  unfold Live.ct2
  repeat' first
    | exact (rfl : true = true)
    | with_reducible exact .refl _ _
    | refine .via (by with_reducible exact Live.ctBlk_keeps ..) ?_ ?_
    | with_reducible refine .ite ?_ ?_
    | with_reducible refine .ite2 ?_ ?_
    | dsimp only
    | refine .of2 (by assumption) ?_
    | refine .of22 (by assumption) ?_
    | refine .of1 (by assumption) ?_
    | split

theorem Live.ct3Count_keeps (l : Live) (bank e len : Nat) : Keeps [.store] l (Live.ct3Count l bank e len) := by
  unfold Live.ct3Count
  repeat' first
    | exact (rfl : true = true)
    | with_reducible exact .refl _ _
    | refine .via (by with_reducible exact Live.setElem_keeps ..) ?_ ?_
    | with_reducible refine .ite ?_ ?_
    | dsimp only
    | split

theorem Live.ct3_keeps (l : Live) (b p w len : Nat) (x : Parsed) : Keeps [.store, .events] l (Live.ct3 l b p w len x).2 := by
  unfold Live.ct3
  repeat' first
    | exact (rfl : true = true)
    | with_reducible exact .refl _ _
    | refine .via (by with_reducible exact Live.ctBlk_keeps ..) ?_ ?_
    | refine .via (by with_reducible exact Live.ct3Count_keeps ..) ?_ ?_
    | with_reducible refine .ite ?_ ?_
    | with_reducible refine .ite2 ?_ ?_
    | dsimp only
    | refine .of2 (by assumption) ?_
    | refine .of22 (by assumption) ?_
    | refine .of1 (by assumption) ?_
    | split

theorem Live.configureFrame_keeps (l : Live) (f : Frame) (x : Parsed) : Keeps [.store, .plane, .events] l (Live.configureFrame l f x) := by
  unfold Live.configureFrame
  repeat' first
    | exact (rfl : true = true)
    | with_reducible exact .refl _ _
    | refine .via (by with_reducible exact Live.enterFabric_keeps ..) ?_ ?_
    | refine .via (by with_reducible exact Live.count_keeps ..) ?_ ?_
    | with_reducible refine .ite ?_ ?_
    | dsimp only
    | split

theorem Live.polCount_keeps (l : Live) (e k n : Nat) : Keeps [.store] l (Live.polCount l e k n) := by
  unfold Live.polCount
  repeat' first
    | exact (rfl : true = true)
    | with_reducible exact .refl _ _
    | refine .via (by with_reducible exact Live.setElem_keeps ..) ?_ ?_
    | with_reducible refine .ite ?_ ?_
    | dsimp only
    | split

theorem Live.police_keeps (l : Live) (f : Frame) : Keeps [.store, .plane, .events] l (Live.police l f).2.2 := by
  unfold Live.police
  repeat' first
    | exact (rfl : true = true)
    | with_reducible exact .refl _ _
    | refine .via (by with_reducible exact Live.setPlane_keeps ..) ?_ ?_
    | refine .via (by with_reducible exact Live.blk_keeps ..) ?_ ?_
    | refine .via (by with_reducible exact Live.polCount_keeps ..) ?_ ?_
    | refine .via (by with_reducible exact Live.markLeast_keeps ..) ?_ ?_
    | with_reducible refine .ite ?_ ?_
    | with_reducible refine .ite22 ?_ ?_
    | dsimp only
    | split

theorem Live.dispatchFrame_keeps (l : Live) (f : Frame) (x : Parsed) : Keeps [.store, .plane, .events] l (Live.dispatchFrame l f x) := by
  unfold Live.dispatchFrame
  repeat' first
    | exact (rfl : true = true)
    | with_reducible exact .refl _ _
    | refine .via (by with_reducible exact Live.police_keeps ..) ?_ ?_
    | refine .via (by with_reducible exact Live.forward_keeps ..) ?_ ?_
    | refine .via (by with_reducible exact Live.admitEach_keeps ..) ?_ ?_
    | refine .via (by with_reducible exact Live.enterFabric_keeps ..) ?_ ?_
    | refine .via (by with_reducible exact Live.copies_keeps ..) ?_ ?_
    | with_reducible refine .ite ?_ ?_
    | dsimp only
    | split

theorem Live.classifyOn_keeps (l : Live) (f : Frame) (x : Parsed) : Keeps [.store, .plane, .events] l (Live.classifyOn l f x) := by
  unfold Live.classifyOn
  repeat' first
    | exact (rfl : true = true)
    | with_reducible exact .refl _ _
    | refine .via (by with_reducible exact Live.ct1_keeps ..) ?_ ?_
    | refine .via (by with_reducible exact Live.checkMirror_keeps ..) ?_ ?_
    | refine .via (by with_reducible exact Live.ctBlk_keeps ..) ?_ ?_
    | refine .via (by with_reducible exact Live.count_keeps ..) ?_ ?_
    | refine .via (by with_reducible exact Live.copies_keeps ..) ?_ ?_
    | refine .via (by with_reducible exact Live.ct2_keeps ..) ?_ ?_
    | refine .via (by with_reducible exact Live.ct3_keeps ..) ?_ ?_
    | refine .via (by with_reducible exact Live.checkRefs_keeps ..) ?_ ?_
    | refine .via (by with_reducible exact Live.configureFrame_keeps ..) ?_ ?_
    | refine .via (by with_reducible exact Live.dispatchFrame_keeps ..) ?_ ?_
    | with_reducible refine .ite ?_ ?_
    | dsimp only
    | split

theorem Live.classify_keeps (l : Live) (p b beat ts : Nat) (bytes : List Byte) : Keeps [.store, .beat, .plane, .events] l (Live.classify l p b beat ts bytes) := by
  unfold Live.classify
  repeat' first
    | exact (rfl : true = true)
    | with_reducible exact .refl _ _
    | refine .via (by with_reducible exact Live.blk_keeps ..) ?_ ?_
    | refine .via (by with_reducible exact Live.ctBlk_keeps ..) ?_ ?_
    | refine .via (by with_reducible exact Live.mark_keeps ..) ?_ ?_
    | refine .via (by with_reducible exact Live.count_keeps ..) ?_ ?_
    | refine .via (by with_reducible exact Live.ct0_keeps ..) ?_ ?_
    | refine .via (by with_reducible exact Live.enterFabric_keeps ..) ?_ ?_
    | refine .via (by with_reducible exact Live.classifyOn_keeps ..) ?_ ?_
    | with_reducible refine .ite ?_ ?_
    | dsimp only
    | refine .of2 (by assumption) ?_
    | refine .of22 (by assumption) ?_
    | refine .of1 (by assumption) ?_
    | split
    | with_reducible refine .beat ?_ ⟨rfl, rfl, rfl⟩ ?_

end Sys2Proof.Machine
end

