-- ==== Sys2Proof/Laws/Dict.lean ====
section
/-! SUPPORT. What the operations of Machine/Dict.lean may change. -/

namespace Sys2Proof.Machine

open Sys2Proof

theorem Live.setDict_keeps (l : Live) (f : Dict → Dict) : Keeps [.dict] l (Live.setDict l f) := by
  unfold Live.setDict
  repeat' first
    | exact (rfl : true = true)
    | with_reducible exact .refl _ _
    | dsimp only
    | with_reducible refine .dict ?_ ?_

theorem Live.withdrawMaster_keeps (l : Live) (rank : Nat) : Keeps [.dict] l (Live.withdrawMaster l rank) := by
  unfold Live.withdrawMaster
  repeat' first
    | exact (rfl : true = true)
    | with_reducible exact .refl _ _
    | refine .via (by with_reducible exact Live.setDict_keeps ..) ?_ ?_
    | dsimp only

theorem Live.cacheFlush_keeps (l : Live) (rank : Nat) : Keeps [.dict] l (Live.cacheFlush l rank) := by
  unfold Live.cacheFlush
  repeat' first
    | exact (rfl : true = true)
    | with_reducible exact .refl _ _
    | refine .via (by with_reducible exact Live.setDict_keeps ..) ?_ ?_
    | dsimp only

theorem Live.clampClear_keeps (l : Live) : Keeps [.dict] l (Live.clampClear l) := by
  unfold Live.clampClear
  repeat' first
    | exact (rfl : true = true)
    | with_reducible exact .refl _ _
    | refine .via (by with_reducible exact Live.setDict_keeps ..) ?_ ?_
    | dsimp only

theorem Live.clampWipe_keeps (l : Live) (tn : Nat) : Keeps [.dict] l (Live.clampWipe l tn) := by
  unfold Live.clampWipe
  repeat' first
    | exact (rfl : true = true)
    | with_reducible exact .refl _ _
    | refine .via (by with_reducible exact Live.setDict_keeps ..) ?_ ?_
    | with_reducible refine .ite ?_ ?_
    | dsimp only
    | refine .of2 (by assumption) ?_
    | refine .of22 (by assumption) ?_
    | refine .of1 (by assumption) ?_
    | split

theorem Live.send_keeps (l : Live) (r : Response) : Keeps [.store, .dict, .events] l (Live.send l r) := by
  unfold Live.send
  repeat' first
    | exact (rfl : true = true)
    | with_reducible exact .refl _ _
    | refine .via (by with_reducible exact Live.setDict_keeps ..) ?_ ?_
    | refine .via (by with_reducible exact Live.count_keeps ..) ?_ ?_
    | with_reducible refine .ite ?_ ?_
    | dsimp only
    | split

theorem Live.cacheAll_keeps (l : Live) (rank seen : Nat) (es : List CacheEntry) : Keeps [.dict] l (Live.cacheAll l rank seen es) := by
  unfold Live.cacheAll
  repeat' first
    | exact (rfl : true = true)
    | with_reducible exact .refl _ _
    | refine .via (by with_reducible exact Live.setDict_keeps ..) ?_ ?_
    | dsimp only

theorem Live.answerAs_keeps (l : Live) (seen : Nat) (ops : List Nat) (r : Response) : Keeps [.store, .dict, .events] l (Live.answerAs l seen ops r) := by
  unfold Live.answerAs
  repeat' first
    | exact (rfl : true = true)
    | with_reducible exact .refl _ _
    | refine .via (by with_reducible exact Live.send_keeps ..) ?_ ?_
    | refine .via (by with_reducible exact Live.cacheAll_keeps ..) ?_ ?_
    | dsimp only

theorem Live.clampJournal_keeps (l : Live) (w : PendingWrite) (status mask : Nat) : Keeps [.dict] l (Live.clampJournal l w status mask) := by
  unfold Live.clampJournal
  repeat' first
    | exact (rfl : true = true)
    | with_reducible exact .refl _ _
    | refine .via (by with_reducible exact Live.setDict_keeps ..) ?_ ?_
    | with_reducible refine .ite ?_ ?_
    | dsimp only
    | split

theorem Live.answerTaken_keeps (l : Live) (t : Taken) : Keeps [.store, .dict, .events] l (Live.answerTaken l t) := by
  unfold Live.answerTaken
  repeat' first
    | exact (rfl : true = true)
    | with_reducible exact .refl _ _
    | refine .via (by with_reducible exact Live.answerAs_keeps ..) ?_ ?_
    | refine .via (by with_reducible exact Live.clampJournal_keeps ..) ?_ ?_
    | refine .via (by with_reducible exact Live.count_keeps ..) ?_ ?_
    | refine .via (by with_reducible exact Live.raise_keeps ..) ?_ ?_
    | with_reducible refine .ite ?_ ?_
    | dsimp only
    | split

theorem Live.supersedeQueued_keeps (l : Live) (tn : Nat) : Keeps [.store, .dict, .events] l (Live.supersedeQueued l tn) := by
  unfold Live.supersedeQueued
  repeat' first
    | exact (rfl : true = true)
    | with_reducible exact .refl _ _
    | refine .via (by with_reducible exact Live.setDict_keeps ..) ?_ ?_
    | refine .via (by with_reducible exact Live.answerTaken_keeps ..) ?_ ?_
    | dsimp only
    | with_reducible refine .foldl (fun l x => ?_) _ _ ?_
    | with_reducible refine .foldl2 (fun l x => ?_) _ _ ?_
    | with_reducible refine .foldl1 (fun l x => ?_) _ _ ?_

theorem Live.cacheExpire_keeps (l : Live) (rank : Nat) : Keeps [.dict] l (Live.cacheExpire l rank) := by
  unfold Live.cacheExpire
  repeat' first
    | exact (rfl : true = true)
    | with_reducible exact .refl _ _
    | refine .via (by with_reducible exact Live.setDict_keeps ..) ?_ ?_
    | dsimp only

theorem Live.segmentAbandon_keeps (l : Live) (rank : Nat) : Keeps [.store, .dict, .events] l (Live.segmentAbandon l rank) := by
  unfold Live.segmentAbandon
  repeat' first
    | exact (rfl : true = true)
    | with_reducible exact .refl _ _
    | refine .via (by with_reducible exact Live.setDict_keeps ..) ?_ ?_
    | refine .via (by with_reducible exact Live.raise_keeps ..) ?_ ?_
    | with_reducible refine .ite ?_ ?_
    | dsimp only
    | refine .of2 (by assumption) ?_
    | refine .of22 (by assumption) ?_
    | refine .of1 (by assumption) ?_
    | split

theorem Live.enqueueWrite_keeps (l : Live) (w : PendingWrite) : Keeps [.dict] l (Live.enqueueWrite l w) := by
  unfold Live.enqueueWrite
  repeat' first
    | exact (rfl : true = true)
    | with_reducible exact .refl _ _
    | refine .via (by with_reducible exact Live.setDict_keeps ..) ?_ ?_
    | dsimp only

/-- What an object's own rules may change. -/
structure DictRules.Keep (R : DictRules) : Prop where
  clamped : ∀ l a o i k t v, Keeps [.store, .events] l (R.clamped l a o i k t v)
  committed : ∀ cs l, Keeps [.store, .beat, .dict, .can, .sessions, .modes, .tenancies, .power, .plane, .bpm, .flannel, .dram, .comp, .mover, .audio, .host, .events, .recoveries, .enclosure, .free] l (R.committed cs l)
  start : ∀ l a w o i k t v, Keeps [.store, .beat, .dict, .can, .sessions, .modes, .tenancies, .power, .plane, .bpm, .flannel, .dram, .comp, .mover, .audio, .host, .events, .recoveries, .enclosure, .free] l (R.start l a w o i k t v).2

theorem DictRules.applyField_keeps {R : DictRules} (hR : R.Keep) (acc : Live × List Taken × List Change) (f : FieldRef) :
    Keeps [.store, .events] acc.1 (R.applyField acc f).1 := by
  unfold DictRules.applyField
  dsimp only
  split
  · exact .refl _ _
  · refine .ite1 (.refl _ _) (.via (Live.wr_keeps ..) rfl (.ite (.refl _ _) (hR.clamped ..)))

theorem DictRules.startCommand_keeps {R : DictRules} (hR : R.Keep) (won : List FieldRef) (skip : List (Nat × Nat))
    (acc : Live × List Taken) (f : FieldRef) : Keeps [.store, .beat, .dict, .can, .sessions, .modes, .tenancies, .power, .plane, .bpm, .flannel, .dram, .comp, .mover, .audio, .host, .events, .recoveries, .enclosure, .free] acc.1 (R.startCommand won skip acc f).1 := by
  unfold DictRules.startCommand
  dsimp only
  split
  · exact .refl _ _
  · refine .ite1 (.refl _ _) ?_
    split
    · exact .refl _ _
    · exact .ite1 (.refl _ _) (hR.start ..)

theorem DictRules.commitWith_keeps {R : DictRules} (hR : R.Keep) (l : Live) (taken : List PendingWrite)
    (skip : List (Nat × Nat)) : Keeps [.store, .beat, .dict, .can, .sessions, .modes, .tenancies, .power, .plane, .bpm, .flannel, .dram, .comp, .mover, .audio, .host, .events, .recoveries, .enclosure, .free] l (R.commitWith l taken skip).1 := by
  unfold DictRules.commitWith
  dsimp only
  refine .foldl1 (fun x f => DictRules.startCommand_keeps hR _ _ x f) _ _ ?_
  refine .via (hR.committed ..) rfl (.foldl1 (fun x f => (DictRules.applyField_keeps hR x f).mono rfl) _ _ ?_)
  exact .via (hR.committed ..) rfl (.foldl1 (fun x f => (DictRules.applyField_keeps hR x f).mono rfl) _ _ (.refl _ _))

theorem DictRules.commitRounds_keeps {R : DictRules} (hR : R.Keep) (l : Live) (taken : List PendingWrite) (n : Nat)
    (skip : List (Nat × Nat)) : Keeps [.store, .beat, .dict, .can, .sessions, .modes, .tenancies, .power, .plane, .bpm, .flannel, .dram, .comp, .mover, .audio, .host, .events, .recoveries, .enclosure, .free] l (R.commitRounds l taken n skip).1 := by
  induction n generalizing skip with
  | zero => exact DictRules.commitWith_keeps hR ..
  | succ n ih =>
    unfold DictRules.commitRounds
    dsimp only
    split
    · exact DictRules.commitWith_keeps hR ..
    · exact ih _

theorem DictRules.commitTaken_keeps {R : DictRules} (hR : R.Keep) (l : Live) (taken : List PendingWrite) :
    Keeps [.store, .beat, .dict, .can, .sessions, .modes, .tenancies, .power, .plane, .bpm, .flannel, .dram, .comp, .mover, .audio, .host, .events, .recoveries, .enclosure, .free] l (R.commitTaken l taken).1 := DictRules.commitRounds_keeps hR ..

theorem DictRules.commitPhase_keeps {R : DictRules} (hR : R.Keep) (l : Live) : Keeps [.store, .beat, .dict, .can, .sessions, .modes, .tenancies, .power, .plane, .bpm, .flannel, .dram, .comp, .mover, .audio, .host, .events, .recoveries, .enclosure, .free] l (DictRules.commitPhase R l) := by
  unfold DictRules.commitPhase
  repeat' first
    | exact (rfl : true = true)
    | with_reducible exact .refl _ _
    | refine .via (by with_reducible exact Live.count_keeps ..) ?_ ?_
    | refine .via (by with_reducible exact Live.setDict_keeps ..) ?_ ?_
    | refine .via (by with_reducible exact Live.wr_keeps ..) ?_ ?_
    | refine .via (by with_reducible exact DictRules.commitTaken_keeps hR ..) ?_ ?_
    | refine .via (by with_reducible exact Live.answerTaken_keeps ..) ?_ ?_
    | with_reducible refine .ite ?_ ?_
    | dsimp only
    | with_reducible refine .foldl (fun l x => ?_) _ _ ?_
    | with_reducible refine .foldl2 (fun l x => ?_) _ _ ?_
    | with_reducible refine .foldl1 (fun l x => ?_) _ _ ?_
    | refine .of2 (by assumption) ?_
    | refine .of22 (by assumption) ?_
    | refine .of1 (by assumption) ?_
    | split

theorem Live.answer_keeps (l : Live) (r : Response) : Keeps [.store, .dict, .events] l (Live.answer l r) := by
  unfold Live.answer
  repeat' first
    | exact (rfl : true = true)
    | with_reducible exact .refl _ _
    | refine .via (by with_reducible exact Live.answerAs_keeps ..) ?_ ?_
    | dsimp only

theorem DictRules.serveRead_keeps (R : DictRules) (st l : Live) (rank : Nat) (r : Req) : Keeps [.store, .dict, .events] l (DictRules.serveRead R st l rank r) := by
  unfold DictRules.serveRead
  repeat' first
    | exact (rfl : true = true)
    | with_reducible exact .refl _ _
    | refine .via (by with_reducible exact Live.answer_keeps ..) ?_ ?_
    | with_reducible refine .ite ?_ ?_
    | dsimp only
    | split

theorem DictRules.serveSegInit_keeps (R : DictRules) (st l : Live) (rank : Nat) (r : Req) : Keeps [.store, .dict, .events] l (DictRules.serveSegInit R st l rank r) := by
  unfold DictRules.serveSegInit
  repeat' first
    | exact (rfl : true = true)
    | with_reducible exact .refl _ _
    | refine .via (by with_reducible exact Live.answer_keeps ..) ?_ ?_
    | refine .via (by with_reducible exact Live.send_keeps ..) ?_ ?_
    | refine .via (by with_reducible exact Live.setDict_keeps ..) ?_ ?_
    | with_reducible refine .ite ?_ ?_
    | dsimp only
    | refine .of2 (by assumption) ?_
    | refine .of22 (by assumption) ?_
    | refine .of1 (by assumption) ?_
    | split

theorem DictRules.serveSegment_keeps (R : DictRules) (l : Live) (rank : Nat) (r : Req) : Keeps [.store, .dict, .events] l (DictRules.serveSegment R l rank r) := by
  unfold DictRules.serveSegment
  repeat' first
    | exact (rfl : true = true)
    | with_reducible exact .refl _ _
    | refine .via (by with_reducible exact Live.send_keeps ..) ?_ ?_
    | refine .via (by with_reducible exact Live.setDict_keeps ..) ?_ ?_
    | refine .via (by with_reducible exact Live.answerAs_keeps ..) ?_ ?_
    | refine .via (by with_reducible exact Live.enqueueWrite_keeps ..) ?_ ?_
    | with_reducible refine .ite ?_ ?_
    | dsimp only
    | refine .of2 (by assumption) ?_
    | refine .of22 (by assumption) ?_
    | refine .of1 (by assumption) ?_
    | split

theorem DictRules.serveWrite_keeps (R : DictRules) (l : Live) (rank op : Nat) (r : Req) : Keeps [.store, .dict, .events] l (DictRules.serveWrite R l rank op r) := by
  unfold DictRules.serveWrite
  repeat' first
    | exact (rfl : true = true)
    | with_reducible exact .refl _ _
    | refine .via (by with_reducible exact Live.answer_keeps ..) ?_ ?_
    | refine .via (by with_reducible exact Live.enqueueWrite_keeps ..) ?_ ?_
    | with_reducible refine .ite ?_ ?_
    | dsimp only
    | refine .of2 (by assumption) ?_
    | refine .of22 (by assumption) ?_
    | refine .of1 (by assumption) ?_
    | split

theorem Live.repeated_keeps {l l' : Live} {rank op : Nat} {r : Req} (h : l.repeated rank op r = some l') :
    Keeps [.store, .dict, .events] l l' := by
  unfold Live.repeated at h
  dsimp only at h
  split at h
  · cases h; exact (Live.send_keeps ..).mono rfl
  · split at h
    · cases h; exact (Live.send_keeps ..).mono rfl
    · exact absurd h (by simp)

theorem DictRules.request_keeps (R : DictRules) (st l : Live) (rank op : Nat) (r : Req) :
    Keeps [.store, .dict, .events] l (R.request st l rank op r) := by
  unfold DictRules.request
  refine .ite (.refl _ _) ?_
  dsimp only
  split
  · rename_i e
    have e' := (Option.ite_none_left_eq_some.1 e).2
    exact (Live.repeated_keeps e').mono rfl
  · split
    · exact (DictRules.serveRead_keeps ..).mono rfl
    · exact (DictRules.serveSegInit_keeps ..).mono rfl
    · exact (DictRules.serveSegment_keeps ..).mono rfl
    · exact (DictRules.serveWrite_keeps ..).mono rfl
    · exact (DictRules.serveWrite_keeps ..).mono rfl
    · exact (DictRules.serveWrite_keeps ..).mono rfl
    · exact (Live.answer_keeps ..).mono rfl

end Sys2Proof.Machine
end

