-- ==== Sys2Proof/Laws/Dram.lean ====
section
/-! SUPPORT. What the operations of Machine/Dram.lean may change. -/

namespace Sys2Proof.Machine

open Sys2Proof

theorem Live.setDram_keeps (l : Live) (f : Dram → Dram) : Keeps [.dram] l (Live.setDram l f) := by
  unfold Live.setDram
  repeat' first
    | exact (rfl : true = true)
    | with_reducible exact .refl _ _
    | dsimp only
    | with_reducible refine .dram ?_ ?_

theorem Live.setChannel_keeps (l : Live) (c : Nat) (f : Channel → Channel) : Keeps [.dram] l (Live.setChannel l c f) := by
  unfold Live.setChannel
  repeat' first
    | exact (rfl : true = true)
    | with_reducible exact .refl _ _
    | refine .via (by with_reducible exact Live.setDram_keeps ..) ?_ ?_
    | with_reducible refine .ite ?_ ?_
    | dsimp only
    | split

theorem Live.dramPolicy_keeps (l : Live) (c : Nat) : Keeps [.dram] l (Live.dramPolicy l c) := by
  unfold Live.dramPolicy
  repeat' first
    | exact (rfl : true = true)
    | with_reducible exact .refl _ _
    | refine .via (by with_reducible exact Live.setChannel_keeps ..) ?_ ?_
    | with_reducible refine .ite ?_ ?_
    | dsimp only
    | split

theorem Live.dramLogClear_keeps (l : Live) : Keeps [.dram] l (Live.dramLogClear l) := by
  unfold Live.dramLogClear
  repeat' first
    | exact (rfl : true = true)
    | with_reducible exact .refl _ _
    | refine .via (by with_reducible exact Live.setDram_keeps ..) ?_ ?_
    | dsimp only

theorem Live.diagRead_keeps (l : Live) : Keeps [.store, .free] l (Live.diagRead l) := by
  unfold Live.diagRead
  repeat' first
    | exact (rfl : true = true)
    | with_reducible exact .refl _ _
    | refine .via (by with_reducible exact Live.tookFree_keeps ..) ?_ ?_
    | refine .via (by with_reducible exact Live.wr_keeps ..) ?_ ?_
    | with_reducible refine .ite ?_ ?_
    | dsimp only
    | refine .of2 (by assumption) ?_
    | refine .of22 (by assumption) ?_
    | refine .of1 (by assumption) ?_
    | split

theorem Live.scrubTo_keeps (l : Live) (n : Nat) : Keeps [.store, .dram] l (Live.scrubTo l n) := by
  unfold Live.scrubTo
  repeat' first
    | exact (rfl : true = true)
    | with_reducible exact .refl _ _
    | refine .via (by with_reducible exact Live.setDram_keeps ..) ?_ ?_
    | refine .via (by with_reducible exact Live.wr_keeps ..) ?_ ?_
    | with_reducible refine .ite ?_ ?_
    | dsimp only
    | split

theorem Live.chTo_keeps (l : Live) (c st : Nat) : Keeps [.store] l (Live.chTo l c st) := by
  unfold Live.chTo
  repeat' first
    | exact (rfl : true = true)
    | with_reducible exact .refl _ _
    | refine .via (by with_reducible exact Live.wr_keeps ..) ?_ ?_
    | dsimp only

theorem Live.selfRefreshExit_keeps (l : Live) (c : Nat) : Keeps [.store, .dram] l (Live.selfRefreshExit l c) := by
  unfold Live.selfRefreshExit
  repeat' first
    | exact (rfl : true = true)
    | with_reducible exact .refl _ _
    | refine .via (by with_reducible exact Live.setChannel_keeps ..) ?_ ?_
    | refine .via (by with_reducible exact Live.chTo_keeps ..) ?_ ?_
    | with_reducible refine .ite ?_ ?_
    | dsimp only
    | split

theorem Live.scrubBeat_keeps (l : Live) : Keeps [.store, .dram] l (Live.scrubBeat l) := by
  unfold Live.scrubBeat
  repeat' first
    | exact (rfl : true = true)
    | with_reducible exact .refl _ _
    | refine .via (by with_reducible exact Live.wr_keeps ..) ?_ ?_
    | refine .via (by with_reducible exact Live.scrubTo_keeps ..) ?_ ?_
    | refine .via (by with_reducible exact Live.selfRefreshExit_keeps ..) ?_ ?_
    | with_reducible refine .ite ?_ ?_
    | dsimp only
    | split

theorem Live.dramTurnTo_keeps (l : Live) (c k : Nat) (turn : Nat × Nat) (access : Bool) : Keeps [.dram] l (Live.dramTurnTo l c k turn access) := by
  unfold Live.dramTurnTo
  repeat' first
    | exact (rfl : true = true)
    | with_reducible exact .refl _ _
    | refine .via (by with_reducible exact Live.setChannel_keeps ..) ?_ ?_
    | with_reducible refine .ite ?_ ?_
    | dsimp only
    | split

theorem Live.dramShares_keeps (l : Live) (c : Nat) (rs : List DramReady) : Keeps [.dram] l (Live.dramShares l c rs).2 := by
  unfold Live.dramShares
  repeat' first
    | exact (rfl : true = true)
    | with_reducible exact .refl _ _
    | refine .via (by with_reducible exact Live.dramTurnTo_keeps ..) ?_ ?_
    | with_reducible refine .ite ?_ ?_
    | with_reducible refine .ite2 ?_ ?_
    | dsimp only
    | refine .of2 (by assumption) ?_
    | refine .of22 (by assumption) ?_
    | refine .of1 (by assumption) ?_
    | split

theorem Live.dramPick_keeps (l : Live) (c : Nat) (s : DramSlot) : Keeps [.dram] l (Live.dramPick l c s).2 := by
  unfold Live.dramPick
  repeat' first
    | exact (rfl : true = true)
    | with_reducible exact .refl _ _
    | refine .via (by with_reducible exact Live.dramShares_keeps ..) ?_ ?_
    | with_reducible refine .ite ?_ ?_
    | with_reducible refine .ite2 ?_ ?_
    | dsimp only
    | refine .of2 (by assumption) ?_
    | refine .of22 (by assumption) ?_
    | refine .of1 (by assumption) ?_
    | split

theorem Live.dramSlot_keeps (l : Live) (c : Nat) (s : DramSlot) : Keeps [.dram] l (Live.dramSlot l c s) := by
  unfold Live.dramSlot
  repeat' first
    | exact (rfl : true = true)
    | with_reducible exact .refl _ _
    | refine .via (by with_reducible exact Live.dramPick_keeps ..) ?_ ?_
    | refine .via (by with_reducible exact Live.setChannel_keeps ..) ?_ ?_
    | with_reducible refine .ite ?_ ?_
    | dsimp only
    | refine .of2 (by assumption) ?_
    | refine .of22 (by assumption) ?_
    | refine .of1 (by assumption) ?_
    | split

theorem Live.dramSlots_keeps (l : Live) (c : Nat) (ss : List DramSlot) : Keeps [.dram] l (Live.dramSlots l c ss) := by
  unfold Live.dramSlots
  repeat' first
    | exact (rfl : true = true)
    | with_reducible exact .refl _ _
    | refine .via (by with_reducible exact Live.dramSlot_keeps ..) ?_ ?_
    | dsimp only
    | with_reducible refine .forL (fun l x => ?_) ?_

theorem Live.dramLog_keeps (l : Live) (kind outcome : Nat) (place : DramPlace) : Keeps [.store, .dram] l (Live.dramLog l kind outcome place) := by
  unfold Live.dramLog
  repeat' first
    | exact (rfl : true = true)
    | with_reducible exact .refl _ _
    | refine .via (by with_reducible exact Live.setDram_keeps ..) ?_ ?_
    | refine .via (by with_reducible exact Live.wr_keeps ..) ?_ ?_
    | with_reducible refine .ite ?_ ?_
    | dsimp only
    | split

theorem Live.channelReport_keeps (l : Live) (c : Nat) (r : ChannelReport) : Keeps [.store, .dram, .events] l (Live.channelReport l c r) := by
  unfold Live.channelReport
  repeat' first
    | exact (rfl : true = true)
    | with_reducible exact .refl _ _
    | refine .via (by with_reducible exact Live.count_keeps ..) ?_ ?_
    | refine .via (by with_reducible exact Live.dramSlots_keeps ..) ?_ ?_
    | refine .via (by with_reducible exact Live.mark_keeps ..) ?_ ?_
    | refine .via (by with_reducible exact Live.dramLog_keeps ..) ?_ ?_
    | refine .via (by with_reducible exact Live.blk_keeps ..) ?_ ?_
    | refine .via (by with_reducible exact Live.setChannel_keeps ..) ?_ ?_
    | with_reducible refine .ite ?_ ?_
    | dsimp only
    | with_reducible refine .forL (fun l x => ?_) ?_
    | with_reducible refine .foldl (fun l x => ?_) _ _ ?_
    | with_reducible refine .foldl2 (fun l x => ?_) _ _ ?_
    | with_reducible refine .foldl1 (fun l x => ?_) _ _ ?_
    | split

theorem Live.portReport_keeps (l : Live) (d : Nat) (r : DramPortReport) : Keeps [.store, .events] l (Live.portReport l d r) := by
  unfold Live.portReport
  repeat' first
    | exact (rfl : true = true)
    | with_reducible exact .refl _ _
    | refine .via (by with_reducible exact Live.count_keeps ..) ?_ ?_
    | refine .via (by with_reducible exact Live.wrSat_keeps ..) ?_ ?_
    | refine .via (by with_reducible exact Live.wr_keeps ..) ?_ ?_
    | refine .via (by with_reducible exact Live.blk_keeps ..) ?_ ?_
    | dsimp only
    | with_reducible refine .foldl (fun l x => ?_) _ _ ?_
    | with_reducible refine .foldl2 (fun l x => ?_) _ _ ?_
    | with_reducible refine .foldl1 (fun l x => ?_) _ _ ?_

theorem Live.panicBeats_keeps (l : Live) : Keeps [.store, .dram, .events] l (Live.panicBeats l) := by
  unfold Live.panicBeats
  repeat' first
    | exact (rfl : true = true)
    | with_reducible exact .refl _ _
    | refine .via (by with_reducible exact Live.blk_keeps ..) ?_ ?_
    | refine .via (by with_reducible exact Live.count_keeps ..) ?_ ?_
    | refine .via (by with_reducible exact Live.setDram_keeps ..) ?_ ?_
    | dsimp only
    | with_reducible refine .forL (fun l x => ?_) ?_

theorem Live.dramReports_keeps (l : Live) (chs : List ChannelReport) (ports : List DramPortReport) : Keeps [.store, .dram, .events] l (Live.dramReports l chs ports) := by
  unfold Live.dramReports
  repeat' first
    | exact (rfl : true = true)
    | with_reducible exact .refl _ _
    | refine .via (by with_reducible exact Live.channelReport_keeps ..) ?_ ?_
    | refine .via (by with_reducible exact Live.portReport_keeps ..) ?_ ?_
    | refine .via (by with_reducible exact Live.mark_keeps ..) ?_ ?_
    | refine .via (by with_reducible exact Live.panicBeats_keeps ..) ?_ ?_
    | with_reducible refine .ite ?_ ?_
    | dsimp only
    | with_reducible refine .forN (fun l x => ?_) ?_
    | refine .of2 (by assumption) ?_
    | refine .of22 (by assumption) ?_
    | refine .of1 (by assumption) ?_
    | split

theorem Live.setPanic_keeps (l : Live) (d : Nat) (on : Bool) : Keeps [.store, .dram, .events] l (Live.setPanic l d on) := by
  unfold Live.setPanic
  repeat' first
    | exact (rfl : true = true)
    | with_reducible exact .refl _ _
    | refine .via (by with_reducible exact Live.wrB_keeps ..) ?_ ?_
    | refine .via (by with_reducible exact Live.mark_keeps ..) ?_ ?_
    | refine .via (by with_reducible exact Live.setDram_keeps ..) ?_ ?_
    | refine .via (by with_reducible exact Live.wr_keeps ..) ?_ ?_
    | refine .via (by with_reducible exact Live.setChannel_keeps ..) ?_ ?_
    | with_reducible refine .ite ?_ ?_
    | dsimp only
    | with_reducible refine .foldl (fun l x => ?_) _ _ ?_
    | with_reducible refine .foldl2 (fun l x => ?_) _ _ ?_
    | with_reducible refine .foldl1 (fun l x => ?_) _ _ ?_
    | split

theorem Live.panicFills_keeps (l : Live) (fill0 fill4 : Nat) : Keeps [.store, .dram, .events] l (Live.panicFills l fill0 fill4) := by
  unfold Live.panicFills
  repeat' first
    | exact (rfl : true = true)
    | with_reducible exact .refl _ _
    | refine .via (by with_reducible exact Live.setPanic_keeps ..) ?_ ?_
    | with_reducible refine .ite ?_ ?_
    | dsimp only
    | split

theorem Live.refreshInterval_keeps (l : Live) (c : Nat) : Keeps [.store] l (Live.refreshInterval l c) := by
  unfold Live.refreshInterval
  repeat' first
    | exact (rfl : true = true)
    | with_reducible exact .refl _ _
    | refine .via (by with_reducible exact Live.wr_keeps ..) ?_ ?_
    | with_reducible refine .ite ?_ ?_
    | dsimp only
    | split

theorem Live.dramBeat_keeps (l : Live) (fill0 fill4 : Nat) : Keeps [.store, .dram, .events] l (Live.dramBeat l fill0 fill4) := by
  unfold Live.dramBeat
  repeat' first
    | exact (rfl : true = true)
    | with_reducible exact .refl _ _
    | refine .via (by with_reducible exact Live.panicFills_keeps ..) ?_ ?_
    | refine .via (by with_reducible exact Live.refreshInterval_keeps ..) ?_ ?_
    | refine .via (by with_reducible exact Live.mark_keeps ..) ?_ ?_
    | with_reducible refine .ite ?_ ?_
    | dsimp only
    | with_reducible refine .forN (fun l x => ?_) ?_
    | split

theorem Live.selfRefresh_keeps (l : Live) (c : Nat) (issued : Bool) : Keeps [.store, .dram, .events] l (Live.selfRefresh l c issued) := by
  unfold Live.selfRefresh
  repeat' first
    | exact (rfl : true = true)
    | with_reducible exact .refl _ _
    | refine .via (by with_reducible exact Live.setChannel_keeps ..) ?_ ?_
    | refine .via (by with_reducible exact Live.count_keeps ..) ?_ ?_
    | refine .via (by with_reducible exact Live.chTo_keeps ..) ?_ ?_
    | with_reducible refine .ite ?_ ?_
    | dsimp only
    | split

theorem Live.dramConfigure_keeps (l : Live) : Keeps [.dram] l (Live.dramConfigure l) := by
  unfold Live.dramConfigure
  repeat' first
    | exact (rfl : true = true)
    | with_reducible exact .refl _ _
    | refine .via (by with_reducible exact Live.setDram_keeps ..) ?_ ?_
    | refine .via (by with_reducible exact Live.dramPolicy_keeps ..) ?_ ?_
    | dsimp only

theorem Live.replayDone_keeps (l : Live) (c : Nat) : Keeps [.store, .dram, .events, .recoveries] l (Live.replayDone l c) := by
  unfold Live.replayDone
  repeat' first
    | exact (rfl : true = true)
    | with_reducible exact .refl _ _
    | refine .via (by with_reducible exact Live.setChannel_keeps ..) ?_ ?_
    | refine .via (by with_reducible exact Live.chTo_keeps ..) ?_ ?_
    | refine .via (by with_reducible exact Live.journalRecoveries_keeps ..) ?_ ?_
    | refine .via (by with_reducible exact Live.recoveryDone_keeps ..) ?_ ?_
    | refine .via (by with_reducible exact Live.raise_keeps ..) ?_ ?_
    | refine .via (by with_reducible exact Live.dramPolicy_keeps ..) ?_ ?_
    | with_reducible refine .ite ?_ ?_
    | dsimp only
    | split

theorem Live.dramRestart_keeps (l : Live) (state : Nat) : Keeps [.store, .dram] l (Live.dramRestart l state) := by
  unfold Live.dramRestart
  repeat' first
    | exact (rfl : true = true)
    | with_reducible exact .refl _ _
    | refine .via (by with_reducible exact Live.wr_keeps ..) ?_ ?_
    | refine .via (by with_reducible exact Live.chTo_keeps ..) ?_ ?_
    | with_reducible refine .ite ?_ ?_
    | dsimp only
    | split
    | with_reducible refine .dram ?_ ?_

theorem Live.freezeChannel_keeps (l : Live) (c : Nat) : Keeps [.store, .dram, .events, .recoveries] l (Live.freezeChannel l c) := by
  unfold Live.freezeChannel
  repeat' first
    | exact (rfl : true = true)
    | with_reducible exact .refl _ _
    | refine .via (by with_reducible exact Live.wr_keeps ..) ?_ ?_
    | refine .via (by with_reducible exact Live.chTo_keeps ..) ?_ ?_
    | refine .via (by with_reducible exact Live.recoveriesCut_keeps ..) ?_ ?_
    | refine .via (by with_reducible exact Live.setDram_keeps ..) ?_ ?_
    | refine .via (by with_reducible exact Live.withdraw_keeps ..) ?_ ?_
    | with_reducible refine .ite ?_ ?_
    | dsimp only
    | split

theorem Live.dramAlert_keeps (l0 : Live) (c : Nat) (crc : Bool) (time : Nat) (slots : List DramSlot) (place : DramPlace) : Keeps [.store, .dram, .events, .recoveries] l0 (Live.dramAlert l0 c crc time slots place) := by
  unfold Live.dramAlert
  repeat' first
    | exact (rfl : true = true)
    | with_reducible exact .refl _ _
    | refine .via (by with_reducible exact Live.dramSlots_keeps ..) ?_ ?_
    | refine .via (by with_reducible exact Live.freezeChannel_keeps ..) ?_ ?_
    | refine .via (by with_reducible exact Live.dramLog_keeps ..) ?_ ?_
    | refine .via (by with_reducible exact Live.count_keeps ..) ?_ ?_
    | refine .via (by with_reducible exact Live.raise_keeps ..) ?_ ?_
    | refine .via (by with_reducible exact Live.setChannel_keeps ..) ?_ ?_
    | refine .via (by with_reducible exact Live.chTo_keeps ..) ?_ ?_
    | refine .via (by with_reducible exact Live.recoveryStart_keeps ..) ?_ ?_
    | refine .via (by with_reducible exact Live.blk_keeps ..) ?_ ?_
    | with_reducible refine .ite ?_ ?_
    | dsimp only
    | split

theorem Live.dramUe_keeps (l : Live) (place : DramPlace) : Keeps [.store, .bpm, .dram, .events, .recoveries] l (Live.dramUe l place) := by
  unfold Live.dramUe
  repeat' first
    | exact (rfl : true = true)
    | with_reducible exact .refl _ _
    | refine .via (by with_reducible exact Live.freezeChannel_keeps ..) ?_ ?_
    | refine .via (by with_reducible exact Live.dramLog_keeps ..) ?_ ?_
    | refine .via (by with_reducible exact Live.withdraw_keeps ..) ?_ ?_
    | refine .via (by with_reducible exact Live.raise_keeps ..) ?_ ?_
    | refine .via (by with_reducible exact Live.count_keeps ..) ?_ ?_
    | refine .via (by with_reducible exact Live.setBuf_keeps ..) ?_ ?_
    | with_reducible refine .ite ?_ ?_
    | dsimp only
    | refine .of2 (by assumption) ?_
    | refine .of22 (by assumption) ?_
    | refine .of1 (by assumption) ?_
    | split

theorem Live.refreshDue_keeps (l0 : Live) (c r fill0 fill4 : Nat) : Keeps [.store, .dram, .events] l0 (Live.refreshDue l0 c r fill0 fill4) := by
  unfold Live.refreshDue
  repeat' first
    | exact (rfl : true = true)
    | with_reducible exact .refl _ _
    | refine .via (by with_reducible exact Live.panicFills_keeps ..) ?_ ?_
    | refine .via (by with_reducible exact Live.wr_keeps ..) ?_ ?_
    | refine .via (by with_reducible exact Live.setChannel_keeps ..) ?_ ?_
    | refine .via (by with_reducible exact Live.raise_keeps ..) ?_ ?_
    | refine .via (by with_reducible exact Live.count_keeps ..) ?_ ?_
    | with_reducible refine .ite ?_ ?_
    | dsimp only
    | split

end Sys2Proof.Machine
end

