-- ==== Sys2Proof/Laws/Elements.lean ====
section
/-! SUPPORT. What the operations of Machine/Elements.lean may change. -/

namespace Sys2Proof.Machine

open Sys2Proof

theorem Live.elemClampEvent_keeps (l : Live) (rank : Nat) (t : ElemTable) (e asked : Nat) : Keeps [.store, .events] l (Live.elemClampEvent l rank t e asked) := by
  unfold Live.elemClampEvent
  repeat' first
    | exact (rfl : true = true)
    | with_reducible exact .refl _ _
    | refine .via (by with_reducible exact Live.raise_keeps ..) ?_ ?_
    | with_reducible refine .ite ?_ ?_
    | dsimp only
    | refine .of2 (by assumption) ?_
    | refine .of22 (by assumption) ?_
    | refine .of1 (by assumption) ?_
    | split

theorem Live.elemMeets_keeps (l : Live) (t : ElemTable) (e : Nat) (gone : Option Nat) : Keeps [.plane] l (Live.elemMeets l t e gone) := by
  unfold Live.elemMeets
  repeat' first
    | exact (rfl : true = true)
    | with_reducible exact .refl _ _
    | refine .via (by with_reducible exact Live.copyMeets_keeps ..) ?_ ?_
    | dsimp only
    | refine .of2 (by assumption) ?_
    | refine .of22 (by assumption) ?_
    | refine .of1 (by assumption) ?_
    | split

theorem Live.elemWritten_keeps (l0 : Live) (t : ElemTable) (e old new : Nat) : Keeps [.store, .modes, .plane] l0 (Live.elemWritten l0 t e old new) := by
  unfold Live.elemWritten
  repeat' first
    | exact (rfl : true = true)
    | with_reducible exact .refl _ _
    | refine .via (by with_reducible exact Live.elemMeets_keeps ..) ?_ ?_
    | refine .via (by with_reducible exact Live.heal_keeps ..) ?_ ?_
    | refine .via (by with_reducible exact Live.markDirty_keeps ..) ?_ ?_
    | refine .via (by with_reducible exact Live.setElem_keeps ..) ?_ ?_
    | refine .via (by with_reducible exact Live.fillBuckets_keeps ..) ?_ ?_
    | with_reducible refine .ite ?_ ?_
    | dsimp only
    | with_reducible refine .when (fun l => ?_) ?_
    | refine .of2 (by assumption) ?_
    | refine .of22 (by assumption) ?_
    | refine .of1 (by assumption) ?_
    | split

end Sys2Proof.Machine
end

