-- ==== Sys2Proof/Laws/Host.lean ====
section
/-! SUPPORT. What the operations of Machine/Host.lean may change. -/

namespace Sys2Proof.Machine

open Sys2Proof

theorem Live.setHost_keeps (l : Live) (f : Endpoint → Endpoint) : Keeps [.host] l (Live.setHost l f) := by
  unfold Live.setHost
  repeat' first
    | exact (rfl : true = true)
    | with_reducible exact .refl _ _
    | dsimp only
    | with_reducible refine .host ?_ ?_

theorem Live.setFn_keeps (l : Live) (f : Nat) (g : Fn → Fn) : Keeps [.host] l (Live.setFn l f g) := by
  unfold Live.setFn
  repeat' first
    | exact (rfl : true = true)
    | with_reducible exact .refl _ _
    | refine .via (by with_reducible exact Live.setHost_keeps ..) ?_ ?_
    | dsimp only

theorem Live.setRing_keeps (l : Live) (f k : Nat) (g : Ring → Ring) : Keeps [.host] l (Live.setRing l f k g) := by
  unfold Live.setRing
  repeat' first
    | exact (rfl : true = true)
    | with_reducible exact .refl _ _
    | refine .via (by with_reducible exact Live.setFn_keeps ..) ?_ ?_
    | dsimp only

theorem Live.markBank_keeps (l : Live) (t b : Nat) (on : Bool) : Keeps [.host] l (Live.markBank l t b on) := by
  unfold Live.markBank
  repeat' first
    | exact (rfl : true = true)
    | with_reducible exact .refl _ _
    | refine .via (by with_reducible exact Live.setHost_keeps ..) ?_ ?_
    | with_reducible refine .ite ?_ ?_
    | dsimp only
    | split

theorem Live.loadsCut_keeps (l : Live) (f : Nat) : Keeps [.host] l (Live.loadsCut l f) := by
  unfold Live.loadsCut
  repeat' first
    | exact (rfl : true = true)
    | with_reducible exact .refl _ _
    | refine .via (by with_reducible exact Live.setHost_keeps ..) ?_ ?_
    | refine .via (by with_reducible exact Live.markBank_keeps ..) ?_ ?_
    | dsimp only
    | with_reducible refine .forL (fun l x => ?_) ?_

theorem Live.signalVector_keeps (l : Live) (f v : Nat) : Keeps [.host] l (Live.signalVector l f v) := by
  unfold Live.signalVector
  repeat' first
    | exact (rfl : true = true)
    | with_reducible exact .refl _ _
    | refine .via (by with_reducible exact Live.setFn_keeps ..) ?_ ?_
    | with_reducible refine .ite ?_ ?_
    | dsimp only
    | split

theorem Live.ringSignal_keeps (l : Live) (f k : Nat) (now : Bool) : Keeps [.host] l (Live.ringSignal l f k now) := by
  unfold Live.ringSignal
  repeat' first
    | exact (rfl : true = true)
    | with_reducible exact .refl _ _
    | refine .via (by with_reducible exact Live.signalVector_keeps ..) ?_ ?_
    | refine .via (by with_reducible exact Live.setRing_keeps ..) ?_ ?_
    | with_reducible refine .ite ?_ ?_
    | dsimp only
    | refine .of2 (by assumption) ?_
    | refine .of22 (by assumption) ?_
    | refine .of1 (by assumption) ?_
    | split

theorem Live.cqWrite_keeps (l : Live) (f k : Nat) (entry data : List Byte) (now : Bool) : Keeps [.host] l (Live.cqWrite l f k entry data now) := by
  unfold Live.cqWrite
  repeat' first
    | exact (rfl : true = true)
    | with_reducible exact .refl _ _
    | refine .via (by with_reducible exact Live.ringSignal_keeps ..) ?_ ?_
    | refine .via (by with_reducible exact Live.setRing_keeps ..) ?_ ?_
    | dsimp only

theorem Live.cqOwed_keeps (l : Live) (f k : Nat) (entry data : List Byte) (now : Bool) : Keeps [.host] l (Live.cqOwed l f k entry data now) := by
  unfold Live.cqOwed
  repeat' first
    | exact (rfl : true = true)
    | with_reducible exact .refl _ _
    | refine .via (by with_reducible exact Live.cqWrite_keeps ..) ?_ ?_
    | refine .via (by with_reducible exact Live.setRing_keeps ..) ?_ ?_
    | dsimp only

theorem Live.samplePresence_keeps (l : Live) (f : Nat) : Keeps [.store, .host, .events] l (Live.samplePresence l f) := by
  unfold Live.samplePresence
  repeat' first
    | exact (rfl : true = true)
    | with_reducible exact .refl _ _
    | refine .via (by with_reducible exact Live.wrB_keeps ..) ?_ ?_
    | refine .via (by with_reducible exact Live.setFn_keeps ..) ?_ ?_
    | refine .via (by with_reducible exact Live.raise_keeps ..) ?_ ?_
    | with_reducible refine .ite ?_ ?_
    | dsimp only
    | split

theorem Live.samplePresences_keeps (l : Live) : Keeps [.store, .host, .events] l (Live.samplePresences l) := by
  unfold Live.samplePresences
  repeat' first
    | exact (rfl : true = true)
    | with_reducible exact .refl _ _
    | refine .via (by with_reducible exact Live.samplePresence_keeps ..) ?_ ?_
    | dsimp only
    | with_reducible refine .forN (fun l x => ?_) ?_

theorem Live.unmaskVectors_keeps (l : Live) (f : Nat) : Keeps [.host] l (Live.unmaskVectors l f) := by
  unfold Live.unmaskVectors
  repeat' first
    | exact (rfl : true = true)
    | with_reducible exact .refl _ _
    | refine .via (by with_reducible exact Live.signalVector_keeps ..) ?_ ?_
    | refine .via (by with_reducible exact Live.setFn_keeps ..) ?_ ?_
    | with_reducible refine .ite ?_ ?_
    | dsimp only
    | with_reducible refine .forL (fun l x => ?_) ?_
    | split

theorem Live.loadElement_keeps (l : Live) (x : Load) (bs : List Byte) (poisoned : Bool) : Keeps [.store, .modes, .plane, .events] l (Live.loadElement l x bs poisoned).1 := by
  unfold Live.loadElement
  repeat' first
    | exact (rfl : true = true)
    | with_reducible exact .refl _ _
    | refine .via (by with_reducible exact Live.elemClampEvent_keeps ..) ?_ ?_
    | refine .via (by with_reducible exact Live.elemWritten_keeps ..) ?_ ?_
    | refine .via (by with_reducible exact Live.setElem_keeps ..) ?_ ?_
    | with_reducible refine .ite ?_ ?_
    | with_reducible refine .ite1 ?_ ?_
    | dsimp only
    | split

theorem Live.loadBeat_keeps (l : Live) (data : List (List Byte × Bool)) : Keeps [.store, .modes, .plane, .host, .events] l (Live.loadBeat l data) := by
  unfold Live.loadBeat
  repeat' first
    | exact (rfl : true = true)
    | with_reducible exact .refl _ _
    | refine .via (by with_reducible exact Live.loadElement_keeps ..) ?_ ?_
    | refine .via (by with_reducible exact Live.setHost_keeps ..) ?_ ?_
    | with_reducible refine .ite ?_ ?_
    | dsimp only
    | with_reducible refine .foldl (fun l x => ?_) _ _ ?_
    | with_reducible refine .foldl2 (fun l x => ?_) _ _ ?_
    | with_reducible refine .foldl1 (fun l x => ?_) _ _ ?_
    | refine .of2 (by assumption) ?_
    | refine .of22 (by assumption) ?_
    | refine .of1 (by assumption) ?_
    | split

theorem Live.stopRing_keeps (l : Live) (f k code : Nat) : Keeps [.store, .host, .events] l (Live.stopRing l f k code) := by
  unfold Live.stopRing
  repeat' first
    | exact (rfl : true = true)
    | with_reducible exact .refl _ _
    | refine .via (by with_reducible exact Live.setRing_keeps ..) ?_ ?_
    | refine .via (by with_reducible exact Live.raise_keeps ..) ?_ ?_
    | refine .via (by with_reducible exact Live.blk_keeps ..) ?_ ?_
    | refine .via (by with_reducible exact Live.count_keeps ..) ?_ ?_
    | dsimp only

theorem Live.endpointErrors_keeps (l : Live) (rings : List (Nat × Nat)) : Keeps [.store, .host, .events] l (Live.endpointErrors l rings) := by
  unfold Live.endpointErrors
  repeat' first
    | exact (rfl : true = true)
    | with_reducible exact .refl _ _
    | refine .via (by with_reducible exact Live.stopRing_keeps ..) ?_ ?_
    | with_reducible refine .ite ?_ ?_
    | dsimp only
    | with_reducible refine .forL (fun l x => ?_) ?_
    | split

theorem Live.showLink_keeps (l : Live) : Keeps [.store] l (Live.showLink l) := by
  unfold Live.showLink
  repeat' first
    | exact (rfl : true = true)
    | with_reducible exact .refl _ _
    | refine .via (by with_reducible exact Live.wr_keeps ..) ?_ ?_
    | with_reducible refine .ite ?_ ?_
    | dsimp only
    | split

theorem Live.ringNotify_keeps (l : Live) (f : Nat) (dau : List Byte) : Keeps [.store, .host, .events] l (Live.ringNotify l f dau) := by
  unfold Live.ringNotify
  repeat' first
    | exact (rfl : true = true)
    | with_reducible exact .refl _ _
    | refine .via (by with_reducible exact Live.count_keeps ..) ?_ ?_
    | refine .via (by with_reducible exact Live.mark_keeps ..) ?_ ?_
    | refine .via (by with_reducible exact Live.cqWrite_keeps ..) ?_ ?_
    | with_reducible refine .ite ?_ ?_
    | dsimp only
    | split

theorem Live.dropTaken_keeps (l : Live) (f k : Nat) : Keeps [.host] l (Live.dropTaken l f k) := by
  unfold Live.dropTaken
  repeat' first
    | exact (rfl : true = true)
    | with_reducible exact .refl _ _
    | refine .via (by with_reducible exact Live.setRing_keeps ..) ?_ ?_
    | dsimp only

theorem Live.poisonToHost_keeps (l : Live) (f : Nat) (p : Bool) : Keeps [.events] l (Live.poisonToHost l f p) := by
  unfold Live.poisonToHost
  repeat' first
    | exact (rfl : true = true)
    | with_reducible exact .refl _ _
    | refine .via (by with_reducible exact Live.mark_keeps ..) ?_ ?_
    | with_reducible refine .ite ?_ ?_
    | dsimp only
    | split

theorem Live.cqHeadWrite_keeps (l : Live) (f k v : Nat) : Keeps [.store, .host, .events] l (Live.cqHeadWrite l f k v) := by
  unfold Live.cqHeadWrite
  repeat' first
    | exact (rfl : true = true)
    | with_reducible exact .refl _ _
    | refine .via (by with_reducible exact Live.stopRing_keeps ..) ?_ ?_
    | refine .via (by with_reducible exact Live.ringSignal_keeps ..) ?_ ?_
    | refine .via (by with_reducible exact Live.setRing_keeps ..) ?_ ?_
    | with_reducible refine .ite ?_ ?_
    | dsimp only
    | split

theorem Live.hostAlive_keeps (l : Live) (f : Nat) : Keeps [.host] l (Live.hostAlive l f) := by
  unfold Live.hostAlive
  repeat' first
    | exact (rfl : true = true)
    | with_reducible exact .refl _ _
    | refine .via (by with_reducible exact Live.setFn_keeps ..) ?_ ?_
    | dsimp only

theorem Live.hostFault_keeps (l : Live) (f reason detail offset : Nat) (data : List Byte) : Keeps [.store, .host, .events] l (Live.hostFault l f reason detail offset data) := by
  unfold Live.hostFault
  repeat' first
    | exact (rfl : true = true)
    | with_reducible exact .refl _ _
    | refine .via (by with_reducible exact Live.setFn_keeps ..) ?_ ?_
    | refine .via (by with_reducible exact Live.raise_keeps ..) ?_ ?_
    | refine .via (by with_reducible exact Live.blk_keeps ..) ?_ ?_
    | refine .via (by with_reducible exact Live.wr_keeps ..) ?_ ?_
    | dsimp only

theorem Live.loadComplete_keeps (l : Live) (x : Load) (status : Nat) : Keeps [.store, .host, .events] l (Live.loadComplete l x status) := by
  unfold Live.loadComplete
  repeat' first
    | exact (rfl : true = true)
    | with_reducible exact .refl _ _
    | refine .via (by with_reducible exact Live.raise_keeps ..) ?_ ?_
    | refine .via (by with_reducible exact Live.cqOwed_keeps ..) ?_ ?_
    | dsimp only

theorem Live.poisonFromHost_keeps (l : Live) (f : Nat) (p : Bool) : Keeps [.store, .events] l (Live.poisonFromHost l f p) := by
  unfold Live.poisonFromHost
  repeat' first
    | exact (rfl : true = true)
    | with_reducible exact .refl _ _
    | refine .via (by with_reducible exact Live.mark_keeps ..) ?_ ?_
    | refine .via (by with_reducible exact Live.raise_keeps ..) ?_ ?_
    | with_reducible refine .ite ?_ ?_
    | dsimp only
    | split

theorem Live.ringStart_keeps (l : Live) (f k : Nat) : Keeps [.store, .host, .events] l (Live.ringStart l f k) := by
  unfold Live.ringStart
  repeat' first
    | exact (rfl : true = true)
    | with_reducible exact .refl _ _
    | refine .via (by with_reducible exact Live.setRing_keeps ..) ?_ ?_
    | refine .via (by with_reducible exact Live.stopRing_keeps ..) ?_ ?_
    | with_reducible refine .ite ?_ ?_
    | dsimp only
    | split

theorem Live.ringStop_keeps (l : Live) (f k : Nat) : Keeps [.host] l (Live.ringStop l f k) := by
  unfold Live.ringStop
  repeat' first
    | exact (rfl : true = true)
    | with_reducible exact .refl _ _
    | refine .via (by with_reducible exact Live.setRing_keeps ..) ?_ ?_
    | refine .via (by with_reducible exact Live.setHost_keeps ..) ?_ ?_
    | refine .via (by with_reducible exact Live.setFn_keeps ..) ?_ ?_
    | with_reducible refine .ite ?_ ?_
    | dsimp only
    | with_reducible refine .foldl (fun l x => ?_) _ _ ?_
    | with_reducible refine .foldl2 (fun l x => ?_) _ _ ?_
    | with_reducible refine .foldl1 (fun l x => ?_) _ _ ?_
    | split

theorem Live.ringControl_keeps (l : Live) (f k v : Nat) : Keeps [.store, .host, .events] l (Live.ringControl l f k v) := by
  unfold Live.ringControl
  repeat' first
    | exact (rfl : true = true)
    | with_reducible exact .refl _ _
    | refine .via (by with_reducible exact Live.setRing_keeps ..) ?_ ?_
    | refine .via (by with_reducible exact Live.ringStart_keeps ..) ?_ ?_
    | refine .via (by with_reducible exact Live.ringStop_keeps ..) ?_ ?_
    | with_reducible refine .ite ?_ ?_
    | dsimp only
    | split

theorem Live.ringControlWrite_keeps (l : Live) (f k v off : Nat) (data : List Byte) : Keeps [.store, .host, .events] l (Live.ringControlWrite l f k v off data) := by
  unfold Live.ringControlWrite
  repeat' first
    | exact (rfl : true = true)
    | with_reducible exact .refl _ _
    | refine .via (by with_reducible exact Live.ringControl_keeps ..) ?_ ?_
    | refine .via (by with_reducible exact Live.hostFault_keeps ..) ?_ ?_
    | dsimp only
    | with_reducible refine .when (fun l => ?_) ?_

theorem Live.ringSwitch_keeps (l : Live) (f k control : Nat) (on : Bool) : Keeps [.store, .host, .events] l (Live.ringSwitch l f k control on) := by
  unfold Live.ringSwitch
  repeat' first
    | exact (rfl : true = true)
    | with_reducible exact .refl _ _
    | refine .via (by with_reducible exact Live.ringControlWrite_keeps ..) ?_ ?_
    | dsimp only

theorem Live.rxHandover_keeps (l : Live) (entry : List Byte) : Keeps [.store, .plane, .host, .events] l (Live.rxHandover l entry) := by
  unfold Live.rxHandover
  repeat' first
    | exact (rfl : true = true)
    | with_reducible exact .refl _ _
    | refine .via (by with_reducible exact Live.takeFrom_keeps ..) ?_ ?_
    | refine .via (by with_reducible exact Live.blk_keeps ..) ?_ ?_
    | refine .via (by with_reducible exact Live.count_keeps ..) ?_ ?_
    | refine .via (by with_reducible exact Live.mark_keeps ..) ?_ ?_
    | refine .via (by with_reducible exact Live.cqWrite_keeps ..) ?_ ?_
    | refine .via (by with_reducible exact Live.setRing_keeps ..) ?_ ?_
    | refine .via (by with_reducible exact Live.poisonToHost_keeps ..) ?_ ?_
    | with_reducible refine .ite ?_ ?_
    | dsimp only
    | refine .of2 (by assumption) ?_
    | refine .of22 (by assumption) ?_
    | refine .of1 (by assumption) ?_
    | split

theorem Live.sqTailWrite_keeps (l : Live) (f k v : Nat) : Keeps [.store, .host, .events] l (Live.sqTailWrite l f k v) := by
  unfold Live.sqTailWrite
  repeat' first
    | exact (rfl : true = true)
    | with_reducible exact .refl _ _
    | refine .via (by with_reducible exact Live.stopRing_keeps ..) ?_ ?_
    | refine .via (by with_reducible exact Live.setRing_keeps ..) ?_ ?_
    | with_reducible refine .ite ?_ ?_
    | dsimp only
    | split

theorem Live.takeEntry_keeps (l : Live) (f k : Nat) (entry : List Byte) (owes : Bool) : Keeps [.host] l (Live.takeEntry l f k entry owes) := by
  unfold Live.takeEntry
  repeat' first
    | exact (rfl : true = true)
    | with_reducible exact .refl _ _
    | refine .via (by with_reducible exact Live.setRing_keeps ..) ?_ ?_
    | dsimp only

theorem Live.tableLoad_keeps (l : Live) (f : Nat) (entry : List Byte) : Keeps [.store, .host, .events] l (Live.tableLoad l f entry) := by
  unfold Live.tableLoad
  repeat' first
    | exact (rfl : true = true)
    | with_reducible exact .refl _ _
    | refine .via (by with_reducible exact Live.dropTaken_keeps ..) ?_ ?_
    | refine .via (by with_reducible exact Live.takeEntry_keeps ..) ?_ ?_
    | refine .via (by with_reducible exact Live.setHost_keeps ..) ?_ ?_
    | refine .via (by with_reducible exact Live.loadComplete_keeps ..) ?_ ?_
    | refine .via (by with_reducible exact Live.raise_keeps ..) ?_ ?_
    | with_reducible refine .ite ?_ ?_
    | dsimp only
    | split

theorem Live.txComplete_keeps (l : Live) (f k : Nat) (e : List Byte) (status beat : Nat) : Keeps [.host] l (Live.txComplete l f k e status beat) := by
  unfold Live.txComplete
  repeat' first
    | exact (rfl : true = true)
    | with_reducible exact .refl _ _
    | refine .via (by with_reducible exact Live.cqOwed_keeps ..) ?_ ?_
    | refine .via (by with_reducible exact Live.dropTaken_keeps ..) ?_ ?_
    | dsimp only

theorem Live.txEnter_keeps (l : Live) (f tn vlan tc dest : Nat) (direct : Bool) (data : List Byte) (poison : Bool) : Keeps [.store, .plane, .events] l (Live.txEnter l f tn vlan tc dest direct data poison) := by
  unfold Live.txEnter
  repeat' first
    | exact (rfl : true = true)
    | with_reducible exact .refl _ _
    | refine .via (by with_reducible exact Live.enterFabric_keeps ..) ?_ ?_
    | refine .via (by with_reducible exact Live.classifyOn_keeps ..) ?_ ?_
    | with_reducible refine .ite ?_ ?_
    | dsimp only
    | refine .of2 (by assumption) ?_
    | refine .of22 (by assumption) ?_
    | refine .of1 (by assumption) ?_
    | split

end Sys2Proof.Machine
end

