-- ==== Sys2Proof/Laws/Engines.lean ====
section
/-! SUPPORT. What the operations of Machine/Engines.lean may change. -/

namespace Sys2Proof.Machine

open Sys2Proof

theorem Live.setEngine_keeps (l : Live) (e : Nat) (f : Engine → Engine) : Keeps [.comp, .mover] l (Live.setEngine l e f) := by
  unfold Live.setEngine
  repeat' first
    | exact (rfl : true = true)
    | with_reducible exact .refl _ _
    | with_reducible refine .ite ?_ ?_
    | dsimp only
    | split
    | with_reducible refine .comp ?_ ?_
    | with_reducible refine .mover ?_ ?_

theorem Live.dropShares_keeps (l : Live) (e : Nat) (j : Job) : Keeps [.bpm, .events] l (Live.dropShares l e j) := by
  unfold Live.dropShares
  repeat' first
    | exact (rfl : true = true)
    | with_reducible exact .refl _ _
    | refine .via (by with_reducible exact Live.dropOwner_keeps ..) ?_ ?_
    | with_reducible refine .ite ?_ ?_
    | dsimp only
    | with_reducible refine .forL (fun l x => ?_) ?_
    | split

theorem Live.freeAll_keeps (l : Live) (r : Nat) (hs : List Nat) : Keeps [.bpm, .events] l (Live.freeAll l r hs) := by
  unfold Live.freeAll
  repeat' first
    | exact (rfl : true = true)
    | with_reducible exact .refl _ _
    | refine .via (by with_reducible exact Live.dropOwner_keeps ..) ?_ ?_
    | with_reducible refine .ite ?_ ?_
    | dsimp only
    | with_reducible refine .forL (fun l x => ?_) ?_
    | split

theorem Live.jobsStop_keeps (l : Live) (source : Nat) : Keeps [.store, .bpm, .comp, .mover, .events] l (Live.jobsStop l source) := by
  unfold Live.jobsStop
  repeat' first
    | exact (rfl : true = true)
    | with_reducible exact .refl _ _
    | refine .via (by with_reducible exact Live.setEngine_keeps ..) ?_ ?_
    | refine .via (by with_reducible exact Live.dropShares_keeps ..) ?_ ?_
    | refine .via (by with_reducible exact Live.freeAll_keeps ..) ?_ ?_
    | refine .via (by with_reducible exact Live.count_keeps ..) ?_ ?_
    | refine .via (by with_reducible exact Live.raise_keeps ..) ?_ ?_
    | with_reducible refine .ite ?_ ?_
    | dsimp only
    | with_reducible refine .forL (fun l x => ?_) ?_
    | with_reducible refine .foldl (fun l x => ?_) _ _ ?_
    | with_reducible refine .foldl2 (fun l x => ?_) _ _ ?_
    | with_reducible refine .foldl1 (fun l x => ?_) _ _ ?_
    | split

theorem Live.engineBeat_keeps (l : Live) : Keeps [.store, .comp, .mover, .events] l (Live.engineBeat l) := by
  unfold Live.engineBeat
  repeat' first
    | exact (rfl : true = true)
    | with_reducible exact .refl _ _
    | refine .via (by with_reducible exact Live.blk_keeps ..) ?_ ?_
    | refine .via (by with_reducible exact Live.count_keeps ..) ?_ ?_
    | refine .via (by with_reducible exact Live.setEngine_keeps ..) ?_ ?_
    | refine .via (by with_reducible exact Live.mark_keeps ..) ?_ ?_
    | with_reducible refine .ite ?_ ?_
    | dsimp only
    | with_reducible refine .forN (fun l x => ?_) ?_
    | refine .of2 (by assumption) ?_
    | refine .of22 (by assumption) ?_
    | refine .of1 (by assumption) ?_
    | split

theorem Live.exportDone_keeps (l : Live) (j : Job) : Keeps [.flannel] l (Live.exportDone l j) := by
  unfold Live.exportDone
  repeat' first
    | exact (rfl : true = true)
    | with_reducible exact .refl _ _
    | with_reducible refine .ite ?_ ?_
    | dsimp only
    | refine .of2 (by assumption) ?_
    | refine .of22 (by assumption) ?_
    | refine .of1 (by assumption) ?_
    | split
    | with_reducible refine .flannel ?_ ?_

theorem Live.jobPost_keeps (l : Live) (e : Nat) : Keeps [.flannel, .comp, .mover, .host] l (Live.jobPost l e) := by
  unfold Live.jobPost
  repeat' first
    | exact (rfl : true = true)
    | with_reducible exact .refl _ _
    | refine .via (by with_reducible exact Live.setEngine_keeps ..) ?_ ?_
    | refine .via (by with_reducible exact Live.exportDone_keeps ..) ?_ ?_
    | refine .via (by with_reducible exact Live.cqOwed_keeps ..) ?_ ?_
    | with_reducible refine .ite ?_ ?_
    | dsimp only
    | refine .of2 (by assumption) ?_
    | refine .of22 (by assumption) ?_
    | refine .of1 (by assumption) ?_
    | split

theorem Live.allocAll_keeps (l : Live) (r tn : Nat) (ns hs : List Nat) :
    Keeps [.store, .bpm, .events] l (l.allocAll r tn ns hs).2 := by
  induction ns generalizing l hs with
  | nil => exact .refl _ _
  | cons n ns ih =>
    unfold Live.allocAll
    dsimp only
    have h := (Live.alloc_keeps l r n tn).mono (m := [.store, .bpm, .events]) rfl
    exact .ite2 (.via (ih _ _) rfl h) (.via (Live.freeAll_keeps ..) rfl h)

theorem Live.readExtents_keeps (l : Live) (r : Nat) (xs : List Extent) (acc : List Byte) :
    Keeps [.store, .events] l (l.readExtents r xs acc).2.2 := by
  induction xs generalizing acc with
  | nil => exact .refl _ _
  | cons x xs ih =>
    unfold Live.readExtents
    dsimp only
    refine .ite22 ((Live.bpmFault_keeps ..).mono rfl) ?_
    split
    · exact .refl _ _
    · exact ih _

theorem Live.jobOutput_keeps (l : Live) (j : Job) (r : JobResult) : Keeps [.free] l (l.jobOutput j r).2 := by
  unfold Live.jobOutput
  exact .ite2 (.refl _ _) (.free (.refl _ l) (Nat.le_add_right ..) rfl)

theorem Live.fillOutputs_keeps (l : Live) (hs : List Nat) (bs : List Byte) : Keeps [.bpm] l (l.fillOutputs hs bs) := by
  induction hs generalizing l bs with
  | nil => exact .refl _ _
  | cons h hs ih => exact .via (ih _ _) rfl ((Live.bufWrite_keeps ..).mono rfl)

theorem Live.handOutputs_keeps (l : Live) (new : Nat) (hs : List Nat) :
    Keeps [.store, .bpm, .events] l (l.handOutputs new hs).2 := by
  induction hs generalizing l with
  | nil => exact .refl _ _
  | cons h hs ih =>
    unfold Live.handOutputs
    dsimp only
    have h1 := (Live.share_keeps l 1 h new true).mono (m := [.store, .bpm, .events]) rfl
    exact .ite2 h1 (.via (ih _) rfl (.via (Live.release_keeps ..) rfl h1))

theorem Live.compDeliver_keeps (l : Live) (j : Job) (r : JobResult) : Keeps [.store, .bpm, .events, .free] l (Live.compDeliver l j r).2.2 := by
  unfold Live.compDeliver
  repeat' first
    | exact (rfl : true = true)
    | with_reducible exact .refl _ _
    | refine .via (by with_reducible exact Live.dropShares_keeps ..) ?_ ?_
    | refine .via (by with_reducible exact Live.freeAll_keeps ..) ?_ ?_
    | refine .via (by with_reducible exact Live.jobOutput_keeps ..) ?_ ?_
    | refine .via (by with_reducible exact Live.fillOutputs_keeps ..) ?_ ?_
    | refine .via (by with_reducible exact Live.handOutputs_keeps ..) ?_ ?_
    | with_reducible refine .ite ?_ ?_
    | with_reducible refine .ite22 ?_ ?_
    | dsimp only
    | split

theorem Live.compWith_keeps (l : Live) (j : Job) {a : (Nat × List Nat) × Live} (h : Keeps [.store, .bpm, .events] l a.2) :
    Keeps [.store, .bpm, .events] l (l.compWith j a).2.2 := by
  unfold Live.compWith
  dsimp only
  exact .ite22 h (.ite22 h (.via (Live.readExtents_keeps ..) rfl h))

theorem Live.compRun_keeps (l : Live) (j : Job) : Keeps [.store, .bpm, .events] l (l.compRun j).2.2 := by
  unfold Live.compRun
  refine .ite22 (.refl _ _) (.ite22 (.refl _ _) ?_)
  exact (Live.compWith_keeps l j ((Live.allocAll_keeps ..).mono rfl))

theorem Live.jobEnter_keeps (l : Live) (e source tn : Nat) (desc : List Byte) : Keeps [.comp, .mover, .events] l (Live.jobEnter l e source tn desc) := by
  unfold Live.jobEnter
  repeat' first
    | exact (rfl : true = true)
    | with_reducible exact .refl _ _
    | refine .via (by with_reducible exact Live.blk_keeps ..) ?_ ?_
    | refine .via (by with_reducible exact Live.setEngine_keeps ..) ?_ ?_
    | dsimp only

theorem Live.jobAdmit_keeps (l : Live) (e source : Nat) (desc : List Byte) : Keeps [.flannel, .comp, .mover, .host, .events] l (Live.jobAdmit l e source desc) := by
  unfold Live.jobAdmit
  repeat' first
    | exact (rfl : true = true)
    | with_reducible exact .refl _ _
    | refine .via (by with_reducible exact Live.jobEnter_keeps ..) ?_ ?_
    | refine .via (by with_reducible exact Live.dropTaken_keeps ..) ?_ ?_
    | with_reducible refine .ite ?_ ?_
    | dsimp only
    | refine .of2 (by assumption) ?_
    | refine .of22 (by assumption) ?_
    | refine .of1 (by assumption) ?_
    | split
    | with_reducible refine .flannel ?_ ?_

theorem Live.jobCount_keeps (l : Live) (e : Nat) (bad : Bool) (j : Job) (r : JobResult) : Keeps [.store, .events] l (Live.jobCount l e bad j r) := by
  unfold Live.jobCount
  repeat' first
    | exact (rfl : true = true)
    | with_reducible exact .refl _ _
    | refine .via (by with_reducible exact Live.count_keeps ..) ?_ ?_
    | refine .via (by with_reducible exact Live.blk_keeps ..) ?_ ?_
    | refine .via (by with_reducible exact Live.raise_keeps ..) ?_ ?_
    | with_reducible refine .ite ?_ ?_
    | dsimp only
    | refine .of2 (by assumption) ?_
    | refine .of22 (by assumption) ?_
    | refine .of1 (by assumption) ?_
    | split

theorem Live.moveDeliver_keeps (l : Live) (j : Job) (r : JobResult) : Keeps [.bpm, .events] l (Live.moveDeliver l j r) := by
  unfold Live.moveDeliver
  repeat' first
    | exact (rfl : true = true)
    | with_reducible exact .refl _ _
    | refine .via (by with_reducible exact Live.bufWrite_keeps ..) ?_ ?_
    | refine .via (by with_reducible exact Live.setBuf_keeps ..) ?_ ?_
    | refine .via (by with_reducible exact Live.dropShares_keeps ..) ?_ ?_
    | refine .via (by with_reducible exact Live.freeAll_keeps ..) ?_ ?_
    | with_reducible refine .ite ?_ ?_
    | dsimp only
    | with_reducible refine .foldl (fun l x => ?_) _ _ ?_
    | with_reducible refine .foldl2 (fun l x => ?_) _ _ ?_
    | with_reducible refine .foldl1 (fun l x => ?_) _ _ ?_
    | split

theorem Live.jobEnd_keeps (l : Live) (e : Nat) (bad : Bool) : Keeps [.store, .bpm, .comp, .mover, .events, .free] l (Live.jobEnd l e bad) := by
  unfold Live.jobEnd
  repeat' first
    | exact (rfl : true = true)
    | with_reducible exact .refl _ _
    | refine .via (by with_reducible exact Live.withdraw_keeps ..) ?_ ?_
    | refine .via (by with_reducible exact Live.mark_keeps ..) ?_ ?_
    | refine .via (by with_reducible exact Live.compDeliver_keeps ..) ?_ ?_
    | refine .via (by with_reducible exact Live.moveDeliver_keeps ..) ?_ ?_
    | refine .via (by with_reducible exact Live.setEngine_keeps ..) ?_ ?_
    | refine .via (by with_reducible exact Live.jobCount_keeps ..) ?_ ?_
    | with_reducible refine .ite ?_ ?_
    | dsimp only
    | refine .of2 (by assumption) ?_
    | refine .of22 (by assumption) ?_
    | refine .of1 (by assumption) ?_
    | split

theorem Live.moveRun_keeps (l : Live) (j : Job) : Keeps [.store, .bpm, .events] l (Live.moveRun l j).2.2 := by
  unfold Live.moveRun
  repeat' first
    | exact (rfl : true = true)
    | with_reducible exact .refl _ _
    | refine .via (by with_reducible exact Live.bpmFault_keeps ..) ?_ ?_
    | refine .via (by with_reducible exact Live.allocAll_keeps ..) ?_ ?_
    | with_reducible refine .ite ?_ ?_
    | with_reducible refine .ite22 ?_ ?_
    | dsimp only
    | split

theorem Live.jobStart_keeps (l : Live) (e : Nat) (op : Nat → Bool) : Keeps [.store, .bpm, .comp, .mover, .events] l (Live.jobStart l e op) := by
  unfold Live.jobStart
  repeat' first
    | exact (rfl : true = true)
    | with_reducible exact .refl _ _
    | refine .via (by with_reducible exact Live.compRun_keeps ..) ?_ ?_
    | refine .via (by with_reducible exact Live.moveRun_keeps ..) ?_ ?_
    | refine .via (by with_reducible exact Live.blk_keeps ..) ?_ ?_
    | refine .via (by with_reducible exact Live.count_keeps ..) ?_ ?_
    | refine .via (by with_reducible exact Live.setEngine_keeps ..) ?_ ?_
    | with_reducible refine .ite ?_ ?_
    | dsimp only
    | refine .of2 (by assumption) ?_
    | refine .of22 (by assumption) ?_
    | refine .of1 (by assumption) ?_
    | split

end Sys2Proof.Machine
end

