-- ==== Sys2Proof/Laws/Events.lean ====
section
/-! SUPPORT. What the operations of Machine/Events.lean may change. -/

namespace Sys2Proof.Machine

open Sys2Proof

theorem Live.armSnapshot_keeps (l : Live) (t : Nat) : Keeps [.events] l (Live.armSnapshot l t) := by
  unfold Live.armSnapshot
  repeat' first
    | exact (rfl : true = true)
    | with_reducible exact .refl _ _
    | dsimp only
    | with_reducible refine .events ?_ ?_

theorem Live.reprogram_keeps (l : Live) (b c oldSelect : Nat) : Keeps [.events] l (Live.reprogram l b c oldSelect) := by
  unfold Live.reprogram
  repeat' first
    | exact (rfl : true = true)
    | with_reducible exact .refl _ _
    | with_reducible refine .ite ?_ ?_
    | dsimp only
    | split
    | with_reducible refine .events ?_ ?_

theorem Live.setEv_keeps (l : Live) (src tn : Nat) (f : EvInst → EvInst) : Keeps [.events] l (Live.setEv l src tn f) := by
  unfold Live.setEv
  repeat' first
    | exact (rfl : true = true)
    | with_reducible exact .refl _ _
    | dsimp only
    | with_reducible refine .events ?_ ?_

theorem Live.clearLatches_keeps (l : Live) (g tn mask : Nat) : Keeps [.events] l (Live.clearLatches l g tn mask) := by
  unfold Live.clearLatches
  repeat' first
    | exact (rfl : true = true)
    | with_reducible exact .refl _ _
    | refine .via (by with_reducible exact Live.setEv_keeps ..) ?_ ?_
    | dsimp only
    | with_reducible refine .forL (fun l x => ?_) ?_

theorem Live.unmask_keeps (l : Live) (g tn mask : Nat) : Keeps [.events] l (Live.unmask l g tn mask) := by
  unfold Live.unmask
  repeat' first
    | exact (rfl : true = true)
    | with_reducible exact .refl _ _
    | refine .via (by with_reducible exact Live.setEv_keeps ..) ?_ ?_
    | dsimp only
    | with_reducible refine .forL (fun l x => ?_) ?_

theorem Live.gpioStuck_keeps (l : Live) (i : Nat) : Keeps [.store, .events] l (Live.gpioStuck l i) := by
  unfold Live.gpioStuck
  repeat' first
    | exact (rfl : true = true)
    | with_reducible exact .refl _ _
    | refine .via (by with_reducible exact Live.count_keeps ..) ?_ ?_
    | refine .via (by with_reducible exact Live.wrB_keeps ..) ?_ ?_
    | with_reducible refine .ite ?_ ?_
    | dsimp only
    | split

theorem Live.setGpio_keeps (l : Live) (i : Nat) (f : Gpio → Gpio) : Keeps [.events] l (Live.setGpio l i f) := by
  unfold Live.setGpio
  repeat' first
    | exact (rfl : true = true)
    | with_reducible exact .refl _ _
    | dsimp only
    | with_reducible refine .events ?_ ?_

theorem Live.gpioLevelChange_keeps (l : Live) (i : Nat) : Keeps [.store, .beat, .events] l (Live.gpioLevelChange l i) := by
  unfold Live.gpioLevelChange
  repeat' first
    | exact (rfl : true = true)
    | with_reducible exact .refl _ _
    | refine .via (by with_reducible exact Live.count_keeps ..) ?_ ?_
    | refine .via (by with_reducible exact Live.wr_keeps ..) ?_ ?_
    | refine .via (by with_reducible exact Live.wrB_keeps ..) ?_ ?_
    | refine .via (by with_reducible exact Live.setGpio_keeps ..) ?_ ?_
    | refine .via (by with_reducible exact Live.raise_keeps ..) ?_ ?_
    | with_reducible refine .ite ?_ ?_
    | dsimp only
    | split
    | with_reducible refine .beat ?_ ⟨rfl, rfl, rfl⟩ ?_

theorem Live.chatterWindowEnd_keeps (l : Live) (i : Nat) : Keeps [.store, .events] l (Live.chatterWindowEnd l i) := by
  unfold Live.chatterWindowEnd
  repeat' first
    | exact (rfl : true = true)
    | with_reducible exact .refl _ _
    | refine .via (by with_reducible exact Live.setGpio_keeps ..) ?_ ?_
    | refine .via (by with_reducible exact Live.wrB_keeps ..) ?_ ?_
    | refine .via (by with_reducible exact Live.count_keeps ..) ?_ ?_
    | with_reducible refine .ite ?_ ?_
    | dsimp only
    | split

theorem Live.handOver_keeps (l : Live) : Keeps [.events] l (Live.handOver l) := by
  unfold Live.handOver
  repeat' first
    | exact (rfl : true = true)
    | with_reducible exact .refl _ _
    | dsimp only
    | with_reducible refine .foldl (fun l x => ?_) _ _ ?_
    | with_reducible refine .foldl2 (fun l x => ?_) _ _ ?_
    | with_reducible refine .foldl1 (fun l x => ?_) _ _ ?_
    | with_reducible refine .events ?_ ?_

theorem Live.gpioConfigure_keeps (l : Live) : Keeps [.store, .events] l (Live.gpioConfigure l) := by
  unfold Live.gpioConfigure
  repeat' first
    | exact (rfl : true = true)
    | with_reducible exact .refl _ _
    | refine .via (by with_reducible exact Live.setGpio_keeps ..) ?_ ?_
    | refine .via (by with_reducible exact Live.wrB_keeps ..) ?_ ?_
    | dsimp only
    | with_reducible refine .forN (fun l x => ?_) ?_

theorem Live.relayTo_keeps (l : Live) (j : Nat) (b : Bool) : Keeps [.store, .events] l (Live.relayTo l j b) := by
  unfold Live.relayTo
  repeat' first
    | exact (rfl : true = true)
    | with_reducible exact .refl _ _
    | refine .via (by with_reducible exact Live.count_keeps ..) ?_ ?_
    | refine .via (by with_reducible exact Live.wrB_keeps ..) ?_ ?_
    | with_reducible refine .ite ?_ ?_
    | dsimp only
    | split

theorem Live.snapshotCapture_keeps (l : Live) : Keeps [.store, .events] l (Live.snapshotCapture l) := by
  unfold Live.snapshotCapture
  repeat' first
    | exact (rfl : true = true)
    | with_reducible exact .refl _ _
    | refine .via (by with_reducible exact Live.wrB_keeps ..) ?_ ?_
    | with_reducible refine .ite ?_ ?_
    | dsimp only
    | refine .of2 (by assumption) ?_
    | refine .of22 (by assumption) ?_
    | refine .of1 (by assumption) ?_
    | split
    | with_reducible refine .events ?_ ?_

theorem Live.gather_keeps (l : Live) (b : Nat) (cells : Tbl Nat) : Keeps [.store, .events] l (Live.gather l b cells) := by
  unfold Live.gather
  repeat' first
    | exact (rfl : true = true)
    | with_reducible exact .refl _ _
    | refine .via (by with_reducible exact Live.raise_keeps ..) ?_ ?_
    | refine .via (by with_reducible exact Live.wrB_keeps ..) ?_ ?_
    | with_reducible refine .ite ?_ ?_
    | dsimp only
    | with_reducible refine .forL (fun l x => ?_) ?_
    | with_reducible refine .foldl (fun l x => ?_) _ _ ?_
    | with_reducible refine .foldl2 (fun l x => ?_) _ _ ?_
    | with_reducible refine .foldl1 (fun l x => ?_) _ _ ?_
    | split
    | with_reducible refine .events ?_ ?_

theorem Live.snapshotShow_keeps (l : Live) : Keeps [.store, .events] l (Live.snapshotShow l) := by
  unfold Live.snapshotShow
  repeat' first
    | exact (rfl : true = true)
    | with_reducible exact .refl _ _
    | refine .via (by with_reducible exact Live.wrB_keeps ..) ?_ ?_
    | refine .via (by with_reducible exact Live.wr_keeps ..) ?_ ?_
    | refine .via (by with_reducible exact Live.raise_keeps ..) ?_ ?_
    | with_reducible refine .ite ?_ ?_
    | dsimp only
    | refine .of2 (by assumption) ?_
    | refine .of22 (by assumption) ?_
    | refine .of1 (by assumption) ?_
    | split
    | with_reducible refine .events ?_ ?_

theorem Live.setRelays_keeps (l : Live) : Keeps [.store, .events] l (Live.setRelays l) := by
  unfold Live.setRelays
  repeat' first
    | exact (rfl : true = true)
    | with_reducible exact .refl _ _
    | refine .via (by with_reducible exact Live.relayTo_keeps ..) ?_ ?_
    | with_reducible refine .ite ?_ ?_
    | dsimp only
    | with_reducible refine .forN (fun l x => ?_) ?_
    | refine .of2 (by assumption) ?_
    | refine .of22 (by assumption) ?_
    | refine .of1 (by assumption) ?_
    | split

theorem Live.takeNotes_keeps (l : Live) : Keeps [.store, .events] l (Live.takeNotes l).2 := by
  unfold Live.takeNotes
  repeat' first
    | exact (rfl : true = true)
    | with_reducible exact .refl _ _
    | refine .via (by with_reducible exact Live.wrSat_keeps ..) ?_ ?_
    | dsimp only
    | with_reducible refine .events ?_ ?_

theorem Live.rearm_keeps (l : Live) (active : List Occ) : Keeps [.events] l (Live.rearm l active) := by
  unfold Live.rearm
  repeat' first
    | exact (rfl : true = true)
    | with_reducible exact .refl _ _
    | refine .via (by with_reducible exact Live.setEv_keeps ..) ?_ ?_
    | with_reducible refine .ite ?_ ?_
    | dsimp only
    | with_reducible refine .foldl (fun l x => ?_) _ _ ?_
    | with_reducible refine .foldl2 (fun l x => ?_) _ _ ?_
    | with_reducible refine .foldl1 (fun l x => ?_) _ _ ?_
    | split

theorem Live.disarm_keeps (l : Live) (os : List Occ) : Keeps [.events] l (Live.disarm l os) := by
  unfold Live.disarm
  repeat' first
    | exact (rfl : true = true)
    | with_reducible exact .refl _ _
    | refine .via (by with_reducible exact Live.setEv_keeps ..) ?_ ?_
    | dsimp only
    | with_reducible refine .foldl (fun l x => ?_) _ _ ?_
    | with_reducible refine .foldl2 (fun l x => ?_) _ _ ?_
    | with_reducible refine .foldl1 (fun l x => ?_) _ _ ?_

theorem Live.sendNote_keeps (l : Live) (o : Occ) (deferred : Bool) (suppressed : Nat) : Keeps [.store, .events] l (Live.sendNote l o deferred suppressed) := by
  unfold Live.sendNote
  repeat' first
    | exact (rfl : true = true)
    | with_reducible exact .refl _ _
    | refine .via (by with_reducible exact Live.setEv_keeps ..) ?_ ?_
    | refine .via (by with_reducible exact Live.raise_keeps ..) ?_ ?_
    | with_reducible refine .ite ?_ ?_
    | dsimp only
    | split
    | with_reducible refine .events ?_ ?_

theorem Live.spacingExpiry_keeps (l : Live) (src tn : Nat) : Keeps [.store, .events] l (Live.spacingExpiry l src tn) := by
  unfold Live.spacingExpiry
  repeat' first
    | exact (rfl : true = true)
    | with_reducible exact .refl _ _
    | refine .via (by with_reducible exact Live.setEv_keeps ..) ?_ ?_
    | refine .via (by with_reducible exact Live.sendNote_keeps ..) ?_ ?_
    | with_reducible refine .ite ?_ ?_
    | dsimp only
    | refine .of2 (by assumption) ?_
    | refine .of22 (by assumption) ?_
    | refine .of1 (by assumption) ?_
    | split

theorem Live.notifyOcc_keeps (l : Live) (o : Occ) : Keeps [.store, .events] l (Live.notifyOcc l o) := by
  unfold Live.notifyOcc
  repeat' first
    | exact (rfl : true = true)
    | with_reducible exact .refl _ _
    | refine .via (by with_reducible exact Live.sendNote_keeps ..) ?_ ?_
    | refine .via (by with_reducible exact Live.setEv_keeps ..) ?_ ?_
    | with_reducible refine .ite ?_ ?_
    | dsimp only
    | split

theorem Live.evalOcc_keeps (l : Live) (o : Occ) : Keeps [.store, .events] l (Live.evalOcc l o) := by
  unfold Live.evalOcc
  repeat' first
    | exact (rfl : true = true)
    | with_reducible exact .refl _ _
    | refine .via (by with_reducible exact Live.spacingExpiry_keeps ..) ?_ ?_
    | refine .via (by with_reducible exact Live.setEv_keeps ..) ?_ ?_
    | refine .via (by with_reducible exact Live.notifyOcc_keeps ..) ?_ ?_
    | dsimp only

theorem Live.evalInst_keeps (l : Live) (os : List Occ) (key : Nat) : Keeps [.store, .events] l (Live.evalInst l os key) := by
  unfold Live.evalInst
  repeat' first
    | exact (rfl : true = true)
    | with_reducible exact .refl _ _
    | refine .via (by with_reducible exact Live.evalOcc_keeps ..) ?_ ?_
    | refine .via (by with_reducible exact Live.spacingExpiry_keeps ..) ?_ ?_
    | dsimp only
    | with_reducible refine .foldl (fun l x => ?_) _ _ ?_
    | with_reducible refine .foldl2 (fun l x => ?_) _ _ ?_
    | with_reducible refine .foldl1 (fun l x => ?_) _ _ ?_

theorem Live.evalTurns_keeps (l : Live) (deferred : List Nat) (os : List Occ) : Keeps [.store, .events] l (Live.evalTurns l deferred os) := by
  unfold Live.evalTurns
  repeat' first
    | exact (rfl : true = true)
    | with_reducible exact .refl _ _
    | refine .via (by with_reducible exact Live.evalInst_keeps ..) ?_ ?_
    | dsimp only
    | with_reducible refine .forL (fun l x => ?_) ?_

theorem Live.evaluate_keeps (l : Live) (b : Nat) (ended standing : List (Nat × Nat × List Byte)) : Keeps [.store, .events] l (Live.evaluate l b ended standing) := by
  unfold Live.evaluate
  repeat' first
    | exact (rfl : true = true)
    | with_reducible exact .refl _ _
    | refine .via (by with_reducible exact Live.rearm_keeps ..) ?_ ?_
    | refine .via (by with_reducible exact Live.disarm_keeps ..) ?_ ?_
    | refine .via (by with_reducible exact Live.evalOcc_keeps ..) ?_ ?_
    | refine .via (by with_reducible exact Live.evalTurns_keeps ..) ?_ ?_
    | refine .via (by with_reducible exact Live.hold_keeps ..) ?_ ?_
    | with_reducible refine .ite ?_ ?_
    | dsimp only
    | with_reducible refine .foldl (fun l x => ?_) _ _ ?_
    | with_reducible refine .foldl2 (fun l x => ?_) _ _ ?_
    | with_reducible refine .foldl1 (fun l x => ?_) _ _ ?_
    | split
    | with_reducible refine .events ?_ ?_

theorem Live.gpioSample_keeps (l : Live) (raw : Nat) : Keeps [.store, .events] l (Live.gpioSample l raw) := by
  unfold Live.gpioSample
  repeat' first
    | exact (rfl : true = true)
    | with_reducible exact .refl _ _
    | refine .via (by with_reducible exact Live.wrB_keeps ..) ?_ ?_
    | refine .via (by with_reducible exact Live.setGpio_keeps ..) ?_ ?_
    | with_reducible refine .ite ?_ ?_
    | dsimp only
    | with_reducible refine .forN (fun l x => ?_) ?_
    | split

theorem Live.snapshotDone_keeps (l : Live) : Keeps [.events] l (Live.snapshotDone l) := by
  unfold Live.snapshotDone
  repeat' first
    | exact (rfl : true = true)
    | with_reducible exact .refl _ _
    | with_reducible refine .ite ?_ ?_
    | dsimp only
    | split
    | with_reducible refine .events ?_ ?_

end Sys2Proof.Machine
end

