-- ==== Sys2Proof/Laws/EventRows.lean ====
section
/-! SUPPORT. What the operations of Machine/EventRows.lean may change. -/

namespace Sys2Proof.Machine

open Sys2Proof

theorem Live.gpioEdge_keeps (l : Live) (i : Nat) : Keeps [.store, .beat, .modes, .events] l (Live.gpioEdge l i) := by
  unfold Live.gpioEdge
  repeat' first
    | exact (rfl : true = true)
    | with_reducible exact .refl _ _
    | refine .via (by with_reducible exact Live.gpioLevelChange_keeps ..) ?_ ?_
    | refine .via (by with_reducible exact Live.wakeBy_keeps ..) ?_ ?_
    | with_reducible refine .ite ?_ ?_
    | dsimp only
    | split

end Sys2Proof.Machine
end

