-- ==== Sys2Proof/Laws/Flannel.lean ====
section
/-! SUPPORT. What the operations of Machine/Flannel.lean may change. -/

namespace Sys2Proof.Machine

open Sys2Proof

theorem Live.setFlannel_keeps (l : Live) (f : Flannel → Flannel) : Keeps [.flannel] l (Live.setFlannel l f) := by
  unfold Live.setFlannel
  repeat' first
    | exact (rfl : true = true)
    | with_reducible exact .refl _ _
    | dsimp only
    | with_reducible refine .flannel ?_ ?_

theorem Live.setSeg_keeps (l : Live) (i : Nat) (f : Segment → Segment) : Keeps [.flannel] l (Live.setSeg l i f) := by
  unfold Live.setSeg
  repeat' first
    | exact (rfl : true = true)
    | with_reducible exact .refl _ _
    | refine .via (by with_reducible exact Live.setFlannel_keeps ..) ?_ ?_
    | dsimp only

theorem Live.closeSeg_keeps (l : Live) (i : Nat) : Keeps [.flannel, .events] l (Live.closeSeg l i) := by
  unfold Live.closeSeg
  repeat' first
    | exact (rfl : true = true)
    | with_reducible exact .refl _ _
    | refine .via (by with_reducible exact Live.setSeg_keeps ..) ?_ ?_
    | refine .via (by with_reducible exact Live.blk_keeps ..) ?_ ?_
    | refine .via (by with_reducible exact Live.setFlannel_keeps ..) ?_ ?_
    | with_reducible refine .ite ?_ ?_
    | dsimp only
    | split

theorem Live.closeOpen_keeps (l : Live) (s : Nat) : Keeps [.flannel, .events] l (Live.closeOpen l s) := by
  unfold Live.closeOpen
  repeat' first
    | exact (rfl : true = true)
    | with_reducible exact .refl _ _
    | refine .via (by with_reducible exact Live.closeSeg_keeps ..) ?_ ?_
    | dsimp only
    | refine .of2 (by assumption) ?_
    | refine .of22 (by assumption) ?_
    | refine .of1 (by assumption) ?_
    | split

theorem Live.refreshBacklog_keeps (l : Live) : Keeps [.store, .flannel, .events, .recoveries] l (Live.refreshBacklog l) := by
  unfold Live.refreshBacklog
  repeat' first
    | exact (rfl : true = true)
    | with_reducible exact .refl _ _
    | refine .via (by with_reducible exact Live.recoveryDone_keeps ..) ?_ ?_
    | refine .via (by with_reducible exact Live.raise_keeps ..) ?_ ?_
    | refine .via (by with_reducible exact Live.setFlannel_keeps ..) ?_ ?_
    | refine .via (by with_reducible exact Live.recoveryStart_keeps ..) ?_ ?_
    | with_reducible refine .ite ?_ ?_
    | dsimp only
    | split

theorem Live.refreshStreams_keeps (l : Live) : Keeps [.store, .flannel, .events, .recoveries] l (Live.refreshStreams l) := by
  unfold Live.refreshStreams
  repeat' first
    | exact (rfl : true = true)
    | with_reducible exact .refl _ _
    | refine .via (by with_reducible exact Live.closeOpen_keeps ..) ?_ ?_
    | refine .via (by with_reducible exact Live.wr_keeps ..) ?_ ?_
    | refine .via (by with_reducible exact Live.refreshBacklog_keeps ..) ?_ ?_
    | refine .via (by with_reducible exact Live.recoveryPeak_keeps ..) ?_ ?_
    | with_reducible refine .ite ?_ ?_
    | dsimp only
    | with_reducible refine .forN (fun l x => ?_) ?_
    | split

theorem Live.withdrawReturn_keeps (l : Live) (i : Nat) : Keeps [.bpm, .flannel, .events] l (Live.withdrawReturn l i) := by
  unfold Live.withdrawReturn
  repeat' first
    | exact (rfl : true = true)
    | with_reducible exact .refl _ _
    | refine .via (by with_reducible exact Live.dropOwner_keeps ..) ?_ ?_
    | refine .via (by with_reducible exact Live.setFlannel_keeps ..) ?_ ?_
    | refine .via (by with_reducible exact Live.setSeg_keeps ..) ?_ ?_
    | with_reducible refine .ite ?_ ?_
    | dsimp only
    | refine .of2 (by assumption) ?_
    | refine .of22 (by assumption) ?_
    | refine .of1 (by assumption) ?_
    | split

theorem Live.withdrawReturns_keeps (l : Live) (p : Segment → Bool) : Keeps [.bpm, .flannel, .events] l (Live.withdrawReturns l p) := by
  unfold Live.withdrawReturns
  repeat' first
    | exact (rfl : true = true)
    | with_reducible exact .refl _ _
    | refine .via (by with_reducible exact Live.withdrawReturn_keeps ..) ?_ ?_
    | dsimp only
    | with_reducible refine .forL (fun l x => ?_) ?_

theorem Live.freeSeg_keeps (l : Live) (i : Nat) : Keeps [.bpm, .flannel, .events] l (Live.freeSeg l i) := by
  unfold Live.freeSeg
  repeat' first
    | exact (rfl : true = true)
    | with_reducible exact .refl _ _
    | refine .via (by with_reducible exact Live.dropOwner_keeps ..) ?_ ?_
    | refine .via (by with_reducible exact Live.setFlannel_keeps ..) ?_ ?_
    | with_reducible refine .ite ?_ ?_
    | dsimp only
    | refine .of2 (by assumption) ?_
    | refine .of22 (by assumption) ?_
    | refine .of1 (by assumption) ?_
    | split

theorem Live.returned_keeps (l : Live) (i : Nat) : Keeps [.store, .bpm, .flannel, .events, .recoveries] l (Live.returned l i) := by
  unfold Live.returned
  repeat' first
    | exact (rfl : true = true)
    | with_reducible exact .refl _ _
    | refine .via (by with_reducible exact Live.refreshStreams_keeps ..) ?_ ?_
    | refine .via (by with_reducible exact Live.freeSeg_keeps ..) ?_ ?_
    | refine .via (by with_reducible exact Live.count_keeps ..) ?_ ?_
    | dsimp only

theorem Live.blockReturned_keeps (l : Live) (b : ExportBlock) : Keeps [.store, .bpm, .flannel, .events] l (Live.blockReturned l b) := by
  unfold Live.blockReturned
  repeat' first
    | exact (rfl : true = true)
    | with_reducible exact .refl _ _
    | refine .via (by with_reducible exact Live.dropOwner_keeps ..) ?_ ?_
    | refine .via (by with_reducible exact Live.setFlannel_keeps ..) ?_ ?_
    | refine .via (by with_reducible exact Live.raise_keeps ..) ?_ ?_
    | refine .via (by with_reducible exact Live.wrB_keeps ..) ?_ ?_
    | with_reducible refine .ite ?_ ?_
    | dsimp only
    | refine .of2 (by assumption) ?_
    | refine .of22 (by assumption) ?_
    | refine .of1 (by assumption) ?_
    | split

theorem Live.drainAck_keeps (l : Live) (f : Nat) : Keeps [.store, .bpm, .flannel, .host, .events, .recoveries] l (Live.drainAck l f) := by
  unfold Live.drainAck
  repeat' first
    | exact (rfl : true = true)
    | with_reducible exact .refl _ _
    | refine .via (by with_reducible exact Live.setRing_keeps ..) ?_ ?_
    | refine .via (by with_reducible exact Live.returned_keeps ..) ?_ ?_
    | refine .via (by with_reducible exact Live.blockReturned_keeps ..) ?_ ?_
    | with_reducible refine .ite ?_ ?_
    | dsimp only
    | refine .of2 (by assumption) ?_
    | refine .of22 (by assumption) ?_
    | refine .of1 (by assumption) ?_
    | split

theorem Live.drainAcks_keeps (l : Live) : Keeps [.store, .bpm, .flannel, .host, .events, .recoveries] l (Live.drainAcks l) := by
  unfold Live.drainAcks
  repeat' first
    | exact (rfl : true = true)
    | with_reducible exact .refl _ _
    | refine .via (by with_reducible exact Live.drainAck_keeps ..) ?_ ?_
    | dsimp only
    | with_reducible refine .forL (fun l x => ?_) ?_
    | with_reducible refine .forN (fun l x => ?_) ?_

theorem Live.pathChanged_keeps (l : Live) (n : Nat) : Keeps [.store, .bpm, .flannel, .host, .events, .recoveries] l (Live.pathChanged l n) := by
  unfold Live.pathChanged
  repeat' first
    | exact (rfl : true = true)
    | with_reducible exact .refl _ _
    | refine .via (by with_reducible exact Live.refreshStreams_keeps ..) ?_ ?_
    | refine .via (by with_reducible exact Live.withdrawReturns_keeps ..) ?_ ?_
    | refine .via (by with_reducible exact Live.drainAcks_keeps ..) ?_ ?_
    | dsimp only

theorem Live.flannelOwner_keeps (l : Live) (p : Nat) : Keeps [.store, .flannel, .events] l (Live.flannelOwner l p) := by
  unfold Live.flannelOwner
  repeat' first
    | exact (rfl : true = true)
    | with_reducible exact .refl _ _
    | refine .via (by with_reducible exact Live.closeOpen_keeps ..) ?_ ?_
    | refine .via (by with_reducible exact Live.toDefault_keeps ..) ?_ ?_
    | dsimp only
    | with_reducible refine .forL (fun l x => ?_) ?_

theorem Live.purge_keeps (l0 : Live) (s : Nat) : Keeps [.store, .bpm, .flannel, .host, .events, .recoveries] l0 (Live.purge l0 s) := by
  unfold Live.purge
  repeat' first
    | exact (rfl : true = true)
    | with_reducible exact .refl _ _
    | refine .via (by with_reducible exact Live.drainAcks_keeps ..) ?_ ?_
    | refine .via (by with_reducible exact Live.refreshStreams_keeps ..) ?_ ?_
    | refine .via (by with_reducible exact Live.setFlannel_keeps ..) ?_ ?_
    | refine .via (by with_reducible exact Live.freeSeg_keeps ..) ?_ ?_
    | refine .via (by with_reducible exact Live.withdrawReturn_keeps ..) ?_ ?_
    | dsimp only
    | with_reducible refine .forL (fun l x => ?_) ?_

theorem Live.flannelWipeStart_keeps (l : Live) (n : Nat) : Keeps [.store, .bpm, .flannel, .events, .recoveries] l (Live.flannelWipeStart l n) := by
  unfold Live.flannelWipeStart
  repeat' first
    | exact (rfl : true = true)
    | with_reducible exact .refl _ _
    | refine .via (by with_reducible exact Live.refreshStreams_keeps ..) ?_ ?_
    | refine .via (by with_reducible exact Live.withdrawReturns_keeps ..) ?_ ?_
    | dsimp only

theorem Live.withdrawBlock_keeps (l : Live) (b : ExportBlock) : Keeps [.bpm, .flannel, .events] l (Live.withdrawBlock l b) := by
  unfold Live.withdrawBlock
  repeat' first
    | exact (rfl : true = true)
    | with_reducible exact .refl _ _
    | refine .via (by with_reducible exact Live.dropOwner_keeps ..) ?_ ?_
    | refine .via (by with_reducible exact Live.setFlannel_keeps ..) ?_ ?_
    | with_reducible refine .ite ?_ ?_
    | dsimp only
    | refine .of2 (by assumption) ?_
    | refine .of22 (by assumption) ?_
    | refine .of1 (by assumption) ?_
    | split

theorem Live.flannelWipe_keeps (l : Live) (n : Nat) : Keeps [.store, .bpm, .flannel, .events, .recoveries] l (Live.flannelWipe l n) := by
  unfold Live.flannelWipe
  repeat' first
    | exact (rfl : true = true)
    | with_reducible exact .refl _ _
    | refine .via (by with_reducible exact Live.freeSeg_keeps ..) ?_ ?_
    | refine .via (by with_reducible exact Live.withdrawBlock_keeps ..) ?_ ?_
    | refine .via (by with_reducible exact Live.dropOwner_keeps ..) ?_ ?_
    | refine .via (by with_reducible exact Live.refreshStreams_keeps ..) ?_ ?_
    | refine .via (by with_reducible exact Live.wrB_keeps ..) ?_ ?_
    | refine .via (by with_reducible exact Live.setFlannel_keeps ..) ?_ ?_
    | with_reducible refine .ite ?_ ?_
    | dsimp only
    | with_reducible refine .forL (fun l x => ?_) ?_
    | split

theorem Live.shedPreroll_keeps (l : Live) : Keeps [.store, .bpm, .flannel, .events] l (Live.shedPreroll l) := by
  unfold Live.shedPreroll
  repeat' first
    | exact (rfl : true = true)
    | with_reducible exact .refl _ _
    | refine .via (by with_reducible exact Live.freeSeg_keeps ..) ?_ ?_
    | refine .via (by with_reducible exact Live.mark_keeps ..) ?_ ?_
    | refine .via (by with_reducible exact Live.blk_keeps ..) ?_ ?_
    | refine .via (by with_reducible exact Live.count_keeps ..) ?_ ?_
    | with_reducible refine .ite ?_ ?_
    | dsimp only
    | with_reducible refine .forL (fun l x => ?_) ?_
    | refine .of2 (by assumption) ?_
    | refine .of22 (by assumption) ?_
    | refine .of1 (by assumption) ?_
    | split

theorem Live.prerollAge_keeps (l : Live) : Keeps [.store, .bpm, .flannel, .events] l (Live.prerollAge l) := by
  unfold Live.prerollAge
  repeat' first
    | exact (rfl : true = true)
    | with_reducible exact .refl _ _
    | refine .via (by with_reducible exact Live.freeSeg_keeps ..) ?_ ?_
    | refine .via (by with_reducible exact Live.count_keeps ..) ?_ ?_
    | with_reducible refine .ite ?_ ?_
    | dsimp only
    | with_reducible refine .forL (fun l x => ?_) ?_
    | split

theorem Live.commitRecord_keeps (l : Live) (i : Nat) : Keeps [.flannel] l (Live.commitRecord l i) := by
  unfold Live.commitRecord
  repeat' first
    | exact (rfl : true = true)
    | with_reducible exact .refl _ _
    | refine .via (by with_reducible exact Live.setSeg_keeps ..) ?_ ?_
    | dsimp only

theorem Live.commitIndex_keeps (l : Live) : Keeps [.flannel] l (Live.commitIndex l) := by
  unfold Live.commitIndex
  repeat' first
    | exact (rfl : true = true)
    | with_reducible exact .refl _ _
    | refine .via (by with_reducible exact Live.setFlannel_keeps ..) ?_ ?_
    | refine .via (by with_reducible exact Live.commitRecord_keeps ..) ?_ ?_
    | dsimp only
    | with_reducible refine .forL (fun l x => ?_) ?_

theorem Live.segmentsAge_keeps (l : Live) : Keeps [.flannel, .events] l (Live.segmentsAge l) := by
  unfold Live.segmentsAge
  repeat' first
    | exact (rfl : true = true)
    | with_reducible exact .refl _ _
    | refine .via (by with_reducible exact Live.commitIndex_keeps ..) ?_ ?_
    | refine .via (by with_reducible exact Live.closeSeg_keeps ..) ?_ ?_
    | with_reducible refine .ite ?_ ?_
    | dsimp only
    | with_reducible refine .forL (fun l x => ?_) ?_
    | split

theorem Live.retainStart_keeps (l : Live) : Keeps [.store, .flannel, .events, .recoveries] l (Live.retainStart l) := by
  unfold Live.retainStart
  repeat' first
    | exact (rfl : true = true)
    | with_reducible exact .refl _ _
    | refine .via (by with_reducible exact Live.closeOpen_keeps ..) ?_ ?_
    | refine .via (by with_reducible exact Live.setSeg_keeps ..) ?_ ?_
    | refine .via (by with_reducible exact Live.wr_keeps ..) ?_ ?_
    | refine .via (by with_reducible exact Live.setFlannel_keeps ..) ?_ ?_
    | refine .via (by with_reducible exact Live.refreshStreams_keeps ..) ?_ ?_
    | refine .via (by with_reducible exact Live.recoveryStart_keeps ..) ?_ ?_
    | refine .via (by with_reducible exact Live.raise_keeps ..) ?_ ?_
    | with_reducible refine .ite ?_ ?_
    | dsimp only
    | with_reducible refine .forL (fun l x => ?_) ?_
    | split

theorem Live.retainEnd_keeps (l : Live) : Keeps [.store, .bpm, .flannel, .events, .recoveries] l (Live.retainEnd l) := by
  unfold Live.retainEnd
  repeat' first
    | exact (rfl : true = true)
    | with_reducible exact .refl _ _
    | refine .via (by with_reducible exact Live.closeOpen_keeps ..) ?_ ?_
    | refine .via (by with_reducible exact Live.withdrawReturns_keeps ..) ?_ ?_
    | refine .via (by with_reducible exact Live.recoveryDone_keeps ..) ?_ ?_
    | refine .via (by with_reducible exact Live.refreshStreams_keeps ..) ?_ ?_
    | refine .via (by with_reducible exact Live.setFlannel_keeps ..) ?_ ?_
    | dsimp only
    | with_reducible refine .forL (fun l x => ?_) ?_

theorem Live.uplinkEval_keeps (l : Live) : Keeps [.store, .bpm, .flannel, .events, .recoveries] l (Live.uplinkEval l) := by
  unfold Live.uplinkEval
  repeat' first
    | exact (rfl : true = true)
    | with_reducible exact .refl _ _
    | refine .via (by with_reducible exact Live.retainStart_keeps ..) ?_ ?_
    | refine .via (by with_reducible exact Live.retainEnd_keeps ..) ?_ ?_
    | with_reducible refine .ite ?_ ?_
    | dsimp only
    | split

theorem Live.probeJudge_keeps (l : Live) (replied : Bool) : Keeps [.store, .bpm, .flannel, .events, .recoveries] l (Live.probeJudge l replied) := by
  unfold Live.probeJudge
  repeat' first
    | exact (rfl : true = true)
    | with_reducible exact .refl _ _
    | refine .via (by with_reducible exact Live.wr_keeps ..) ?_ ?_
    | refine .via (by with_reducible exact Live.raise_keeps ..) ?_ ?_
    | refine .via (by with_reducible exact Live.uplinkEval_keeps ..) ?_ ?_
    | with_reducible refine .ite ?_ ?_
    | dsimp only
    | split

theorem Live.heartbeatCheck_keeps (l : Live) : Keeps [.store, .bpm, .flannel, .events, .recoveries] l (Live.heartbeatCheck l) := by
  unfold Live.heartbeatCheck
  repeat' first
    | exact (rfl : true = true)
    | with_reducible exact .refl _ _
    | refine .via (by with_reducible exact Live.probeJudge_keeps ..) ?_ ?_
    | refine .via (by with_reducible exact Live.commitIndex_keeps ..) ?_ ?_
    | refine .via (by with_reducible exact Live.setFlannel_keeps ..) ?_ ?_
    | with_reducible refine .ite ?_ ?_
    | dsimp only
    | split

theorem Live.flannelSend_keeps (l : Live) (tn vlan tc mac : Nat) (p : Nat × List Byte) : Keeps [.store, .plane, .events] l (Live.flannelSend l tn vlan tc mac p) := by
  unfold Live.flannelSend
  repeat' first
    | exact (rfl : true = true)
    | with_reducible exact .refl _ _
    | refine .via (by with_reducible exact Live.forward_keeps ..) ?_ ?_
    | refine .via (by with_reducible exact Live.admitEach_keeps ..) ?_ ?_
    | refine .via (by with_reducible exact Live.enterFabric_keeps ..) ?_ ?_
    | with_reducible refine .ite ?_ ?_
    | dsimp only
    | split

theorem Live.heartbeatOut_keeps (l : Live) : Keeps [.store, .plane, .flannel, .events] l (Live.heartbeatOut l) := by
  unfold Live.heartbeatOut
  repeat' first
    | exact (rfl : true = true)
    | with_reducible exact .refl _ _
    | refine .via (by with_reducible exact Live.setFlannel_keeps ..) ?_ ?_
    | refine .via (by with_reducible exact Live.wr_keeps ..) ?_ ?_
    | refine .via (by with_reducible exact Live.flannelSend_keeps ..) ?_ ?_
    | with_reducible refine .ite ?_ ?_
    | dsimp only
    | split

theorem Live.replyCheck_keeps (l : Live) (port src : Nat) (payload : List Byte) (beat : Nat) : Keeps [.store, .flannel, .events] l (Live.replyCheck l port src payload beat) := by
  unfold Live.replyCheck
  repeat' first
    | exact (rfl : true = true)
    | with_reducible exact .refl _ _
    | refine .via (by with_reducible exact Live.setFlannel_keeps ..) ?_ ?_
    | refine .via (by with_reducible exact Live.wr_keeps ..) ?_ ?_
    | refine .via (by with_reducible exact Live.count_keeps ..) ?_ ?_
    | with_reducible refine .ite ?_ ?_
    | dsimp only
    | split

theorem Live.probeDo_keeps (l : Live) (w : ProbeWork) : Keeps [.store, .plane, .flannel, .events] l (Live.probeDo l w) := by
  unfold Live.probeDo
  repeat' first
    | exact (rfl : true = true)
    | with_reducible exact .refl _ _
    | refine .via (by with_reducible exact Live.setFlannel_keeps ..) ?_ ?_
    | refine .via (by with_reducible exact Live.heartbeatOut_keeps ..) ?_ ?_
    | refine .via (by with_reducible exact Live.replyCheck_keeps ..) ?_ ?_
    | dsimp only
    | refine .of2 (by assumption) ?_
    | refine .of22 (by assumption) ?_
    | refine .of1 (by assumption) ?_
    | split

theorem Live.probeBeat_keeps (l : Live) : Keeps [.store, .plane, .flannel, .events] l (Live.probeBeat l) := by
  unfold Live.probeBeat
  repeat' first
    | exact (rfl : true = true)
    | with_reducible exact .refl _ _
    | refine .via (by with_reducible exact Live.probeDo_keeps ..) ?_ ?_
    | refine .via (by with_reducible exact Live.setFlannel_keeps ..) ?_ ?_
    | with_reducible refine .ite ?_ ?_
    | dsimp only
    | refine .of2 (by assumption) ?_
    | refine .of22 (by assumption) ?_
    | refine .of1 (by assumption) ?_
    | split

theorem Live.backfillAck_keeps (l : Live) (n : Nat) (payload : List Byte) : Keeps [.store, .bpm, .flannel, .events, .recoveries] l (Live.backfillAck l n payload) := by
  unfold Live.backfillAck
  repeat' first
    | exact (rfl : true = true)
    | with_reducible exact .refl _ _
    | refine .via (by with_reducible exact Live.returned_keeps ..) ?_ ?_
    | refine .via (by with_reducible exact Live.count_keeps ..) ?_ ?_
    | with_reducible refine .ite ?_ ?_
    | dsimp only
    | refine .of2 (by assumption) ?_
    | refine .of22 (by assumption) ?_
    | refine .of1 (by assumption) ?_
    | split

theorem Live.backfillAcks_keeps (l : Live) : Keeps [.store, .bpm, .flannel, .events, .recoveries] l (Live.backfillAcks l) := by
  unfold Live.backfillAcks
  repeat' first
    | exact (rfl : true = true)
    | with_reducible exact .refl _ _
    | refine .via (by with_reducible exact Live.setFlannel_keeps ..) ?_ ?_
    | refine .via (by with_reducible exact Live.backfillAck_keeps ..) ?_ ?_
    | with_reducible refine .ite ?_ ?_
    | dsimp only
    | with_reducible refine .forL (fun l x => ?_) ?_
    | split

theorem Live.backfillLate_keeps (l : Live) : Keeps [.store, .flannel, .events] l (Live.backfillLate l) := by
  unfold Live.backfillLate
  repeat' first
    | exact (rfl : true = true)
    | with_reducible exact .refl _ _
    | refine .via (by with_reducible exact Live.raise_keeps ..) ?_ ?_
    | refine .via (by with_reducible exact Live.setSeg_keeps ..) ?_ ?_
    | with_reducible refine .ite ?_ ?_
    | dsimp only
    | with_reducible refine .forL (fun l x => ?_) ?_
    | refine .of2 (by assumption) ?_
    | refine .of22 (by assumption) ?_
    | refine .of1 (by assumption) ?_
    | split

theorem Live.drainLate_keeps (l : Live) : Keeps [.store, .bpm, .flannel, .events] l (Live.drainLate l) := by
  unfold Live.drainLate
  repeat' first
    | exact (rfl : true = true)
    | with_reducible exact .refl _ _
    | refine .via (by with_reducible exact Live.raise_keeps ..) ?_ ?_
    | refine .via (by with_reducible exact Live.withdrawReturn_keeps ..) ?_ ?_
    | refine .via (by with_reducible exact Live.withdrawBlock_keeps ..) ?_ ?_
    | with_reducible refine .ite ?_ ?_
    | dsimp only
    | with_reducible refine .forL (fun l x => ?_) ?_
    | split

theorem Live.indexExport_keeps (l m : Live) (n : Nat) : Keeps [.store, .flannel, .events] l (Live.indexExport l m n) := by
  unfold Live.indexExport
  repeat' first
    | exact (rfl : true = true)
    | with_reducible exact .refl _ _
    | refine .via (by with_reducible exact Live.raise_keeps ..) ?_ ?_
    | refine .via (by with_reducible exact Live.wrB_keeps ..) ?_ ?_
    | refine .via (by with_reducible exact Live.setFlannel_keeps ..) ?_ ?_
    | with_reducible refine .ite ?_ ?_
    | dsimp only
    | split

theorem Live.exportsAsked_keeps (l : Live) : Keeps [.store, .flannel, .events] l (Live.exportsAsked l) := by
  unfold Live.exportsAsked
  repeat' first
    | exact (rfl : true = true)
    | with_reducible exact .refl _ _
    | refine .via (by with_reducible exact Live.setFlannel_keeps ..) ?_ ?_
    | refine .via (by with_reducible exact Live.indexExport_keeps ..) ?_ ?_
    | dsimp only
    | with_reducible refine .forL (fun l x => ?_) ?_

theorem Live.probeOff_keeps (l : Live) : Keeps [.store, .bpm, .flannel, .events, .recoveries] l (Live.probeOff l) := by
  unfold Live.probeOff
  repeat' first
    | exact (rfl : true = true)
    | with_reducible exact .refl _ _
    | refine .via (by with_reducible exact Live.uplinkEval_keeps ..) ?_ ?_
    | refine .via (by with_reducible exact Live.setFlannel_keeps ..) ?_ ?_
    | refine .via (by with_reducible exact Live.wr_keeps ..) ?_ ?_
    | with_reducible refine .ite ?_ ?_
    | dsimp only
    | split

theorem Live.offersCut_keeps (l : Live) (f : Nat) : Keeps [.store, .bpm, .flannel, .events, .recoveries] l (Live.offersCut l f) := by
  unfold Live.offersCut
  repeat' first
    | exact (rfl : true = true)
    | with_reducible exact .refl _ _
    | refine .via (by with_reducible exact Live.withdrawReturns_keeps ..) ?_ ?_
    | refine .via (by with_reducible exact Live.refreshStreams_keeps ..) ?_ ?_
    | refine .via (by with_reducible exact Live.withdrawBlock_keeps ..) ?_ ?_
    | dsimp only
    | with_reducible refine .forL (fun l x => ?_) ?_

theorem Live.judgeLinks_keeps (l : Live) : Keeps [.store, .bpm, .flannel, .events, .recoveries] l (Live.judgeLinks l) := by
  unfold Live.judgeLinks
  repeat' first
    | exact (rfl : true = true)
    | with_reducible exact .refl _ _
    | refine .via (by with_reducible exact Live.uplinkEval_keeps ..) ?_ ?_
    | refine .via (by with_reducible exact Live.raise_keeps ..) ?_ ?_
    | refine .via (by with_reducible exact Live.wr_keeps ..) ?_ ?_
    | with_reducible refine .ite ?_ ?_
    | dsimp only
    | split

theorem Live.commitAll_keeps (l : Live) : Keeps [.flannel] l (Live.commitAll l) := by
  unfold Live.commitAll
  repeat' first
    | exact (rfl : true = true)
    | with_reducible exact .refl _ _
    | refine .via (by with_reducible exact Live.setFlannel_keeps ..) ?_ ?_
    | refine .via (by with_reducible exact Live.commitRecord_keeps ..) ?_ ?_
    | dsimp only
    | with_reducible refine .forL (fun l x => ?_) ?_

theorem Live.flannelHalt_keeps (l : Live) : Keeps [.flannel, .events] l (Live.flannelHalt l) := by
  unfold Live.flannelHalt
  repeat' first
    | exact (rfl : true = true)
    | with_reducible exact .refl _ _
    | refine .via (by with_reducible exact Live.commitAll_keeps ..) ?_ ?_
    | refine .via (by with_reducible exact Live.closeOpen_keeps ..) ?_ ?_
    | dsimp only
    | with_reducible refine .forN (fun l x => ?_) ?_

theorem Live.probeRun_keeps (l : Live) : Keeps [.flannel] l (Live.probeRun l) := by
  unfold Live.probeRun
  repeat' first
    | exact (rfl : true = true)
    | with_reducible exact .refl _ _
    | refine .via (by with_reducible exact Live.setFlannel_keeps ..) ?_ ?_
    | dsimp only

theorem Live.flannelRestart_keeps (l : Live) (keep : Bool) :
    Keeps [.bpm, .flannel, .events] l (l.flannelRestart keep) := by
  have h : Keeps [.bpm, .flannel, .events] l (l.flannelHalt.withdrawReturns fun _ => true) :=
    .via (by with_reducible exact Live.withdrawReturns_keeps ..) rfl ((Live.flannelHalt_keeps l).mono rfl)
  have set (a : Live) (f : Flannel) (b : Bpm) : Keeps [.bpm, .flannel] a { a with flannel := f, bpm := b } :=
    ⟨fun p hp => by cases p <;> simp_all [Live.agree], fun h => h, Nat.le_refl _, Nat.le_refl _⟩
  unfold Live.flannelRestart
  exact .ite (.via (set _ _ _) rfl h) (.via (set _ _ _) rfl h)

theorem Live.backfillRefill_keeps (l : Live) : Keeps [.flannel] l (Live.backfillRefill l) := by
  unfold Live.backfillRefill
  repeat' first
    | exact (rfl : true = true)
    | with_reducible exact .refl _ _
    | refine .via (by with_reducible exact Live.setFlannel_keeps ..) ?_ ?_
    | with_reducible refine .ite ?_ ?_
    | dsimp only
    | refine .of2 (by assumption) ?_
    | refine .of22 (by assumption) ?_
    | refine .of1 (by assumption) ?_
    | split

theorem Live.append_keeps (l : Live) (i : Nat) (f : Frame) : Keeps [.store, .bpm, .flannel, .events] l (Live.append l i f) := by
  unfold Live.append
  repeat' first
    | exact (rfl : true = true)
    | with_reducible exact .refl _ _
    | refine .via (by with_reducible exact Live.bufWrite_keeps ..) ?_ ?_
    | refine .via (by with_reducible exact Live.setSeg_keeps ..) ?_ ?_
    | refine .via (by with_reducible exact Live.blk_keeps ..) ?_ ?_
    | refine .via (by with_reducible exact Live.count_keeps ..) ?_ ?_
    | with_reducible refine .ite ?_ ?_
    | dsimp only
    | split

theorem Live.sendDatagram_keeps (l : Live) (i : Nat) : Keeps [.store, .plane, .flannel, .events] l (Live.sendDatagram l i) := by
  unfold Live.sendDatagram
  repeat' first
    | exact (rfl : true = true)
    | with_reducible exact .refl _ _
    | refine .via (by with_reducible exact Live.setFlannel_keeps ..) ?_ ?_
    | refine .via (by with_reducible exact Live.setSeg_keeps ..) ?_ ?_
    | refine .via (by with_reducible exact Live.flannelSend_keeps ..) ?_ ?_
    | with_reducible refine .ite ?_ ?_
    | dsimp only
    | refine .of2 (by assumption) ?_
    | refine .of22 (by assumption) ?_
    | refine .of1 (by assumption) ?_
    | split

theorem Live.checkCrc_keeps (l : Live) (i : Nat) : Keeps [.store, .flannel, .events] l (Live.checkCrc l i) := by
  unfold Live.checkCrc
  repeat' first
    | exact (rfl : true = true)
    | with_reducible exact .refl _ _
    | refine .via (by with_reducible exact Live.raise_keeps ..) ?_ ?_
    | refine .via (by with_reducible exact Live.setSeg_keeps ..) ?_ ?_
    | with_reducible refine .ite ?_ ?_
    | dsimp only
    | split

theorem Live.beginSend_keeps (l0 : Live) (i : Nat) : Keeps [.store, .flannel, .events] l0 (Live.beginSend l0 i) := by
  unfold Live.beginSend
  repeat' first
    | exact (rfl : true = true)
    | with_reducible exact .refl _ _
    | refine .via (by with_reducible exact Live.checkCrc_keeps ..) ?_ ?_
    | refine .via (by with_reducible exact Live.setSeg_keeps ..) ?_ ?_
    | refine .via (by with_reducible exact Live.wr_keeps ..) ?_ ?_
    | refine .via (by with_reducible exact Live.setFlannel_keeps ..) ?_ ?_
    | with_reducible refine .ite ?_ ?_
    | dsimp only
    | split

theorem Live.backfillSend_keeps (l : Live) : Keeps [.store, .plane, .flannel, .events] l (Live.backfillSend l) := by
  unfold Live.backfillSend
  repeat' first
    | exact (rfl : true = true)
    | with_reducible exact .refl _ _
    | refine .via (by with_reducible exact Live.sendDatagram_keeps ..) ?_ ?_
    | refine .via (by with_reducible exact Live.beginSend_keeps ..) ?_ ?_
    | with_reducible refine .ite ?_ ?_
    | dsimp only
    | refine .of2 (by assumption) ?_
    | refine .of22 (by assumption) ?_
    | refine .of1 (by assumption) ?_
    | split

theorem Live.offerOut_keeps (l : Live) (f handle len kind : Nat) (record : List Byte) (reoffered : Bool) : Keeps [.store, .bpm, .host, .events] l (Live.offerOut l f handle len kind record reoffered) := by
  unfold Live.offerOut
  repeat' first
    | exact (rfl : true = true)
    | with_reducible exact .refl _ _
    | refine .via (by with_reducible exact Live.share_keeps ..) ?_ ?_
    | refine .via (by with_reducible exact Live.setFn_keeps ..) ?_ ?_
    | refine .via (by with_reducible exact Live.poisonToHost_keeps ..) ?_ ?_
    | refine .via (by with_reducible exact Live.cqOwed_keeps ..) ?_ ?_
    | dsimp only

theorem Live.drainOffer_keeps (l : Live) (f : Nat) : Keeps [.store, .bpm, .flannel, .host, .events] l (Live.drainOffer l f) := by
  unfold Live.drainOffer
  repeat' first
    | exact (rfl : true = true)
    | with_reducible exact .refl _ _
    | refine .via (by with_reducible exact Live.setFlannel_keeps ..) ?_ ?_
    | refine .via (by with_reducible exact Live.offerOut_keeps ..) ?_ ?_
    | refine .via (by with_reducible exact Live.checkCrc_keeps ..) ?_ ?_
    | refine .via (by with_reducible exact Live.setSeg_keeps ..) ?_ ?_
    | with_reducible refine .ite ?_ ?_
    | dsimp only
    | refine .of2 (by assumption) ?_
    | refine .of22 (by assumption) ?_
    | refine .of1 (by assumption) ?_
    | split

theorem Live.purgesDone_keeps (l : Live) : Keeps [.store, .flannel, .events, .recoveries] l (Live.purgesDone l) := by
  unfold Live.purgesDone
  repeat' first
    | exact (rfl : true = true)
    | with_reducible exact .refl _ _
    | refine .via (by with_reducible exact Live.raise_keeps ..) ?_ ?_
    | refine .via (by with_reducible exact Live.refreshStreams_keeps ..) ?_ ?_
    | refine .via (by with_reducible exact Live.setFlannel_keeps ..) ?_ ?_
    | dsimp only
    | with_reducible refine .forL (fun l x => ?_) ?_

theorem Live.fillDone_keeps (l : Live) (key : Nat) : Keeps [.store, .bpm, .flannel, .events, .recoveries] l (Live.fillDone l key) := by
  unfold Live.fillDone
  repeat' first
    | exact (rfl : true = true)
    | with_reducible exact .refl _ _
    | refine .via (by with_reducible exact Live.setFlannel_keeps ..) ?_ ?_
    | refine .via (by with_reducible exact Live.zeroFilled_keeps ..) ?_ ?_
    | refine .via (by with_reducible exact Live.purgesDone_keeps ..) ?_ ?_
    | with_reducible refine .ite ?_ ?_
    | dsimp only
    | split

theorem Live.keepDiscard_keeps (l : Live) (f : Frame) (s : Nat) : Keeps [.store, .events] l (Live.keepDiscard l f s) := by
  unfold Live.keepDiscard
  repeat' first
    | exact (rfl : true = true)
    | with_reducible exact .refl _ _
    | refine .via (by with_reducible exact Live.mark_keeps ..) ?_ ?_
    | refine .via (by with_reducible exact Live.blk_keeps ..) ?_ ?_
    | refine .via (by with_reducible exact Live.count_keeps ..) ?_ ?_
    | dsimp only

theorem Live.makeRoom_keeps {l l' : Live} {n : Nat} (h : l.makeRoom n = some l') :
    Keeps [.store, .bpm, .flannel, .events, .recoveries] l l' := by
  unfold Live.makeRoom at h
  dsimp only at h
  split at h
  · cases h; exact (Live.freeSeg_keeps ..).mono rfl
  · split at h
    · split at h
      · cases h
        refine .via (Live.refreshStreams_keeps ..) rfl (.via (Live.raise_keeps ..) rfl (.via (Live.freeSeg_keeps ..) rfl ?_))
        exact .via (Live.count_keeps ..) rfl ((Live.count_keeps ..).mono rfl)
      · exact absurd h (by simp)
    · exact absurd h (by simp)

theorem Live.segBuffer_keeps (l : Live) (n : Nat) : Keeps [.store, .bpm, .flannel, .events, .recoveries] l (l.segBuffer n).2 := by
  have take (a : Live) : Keeps [.store, .bpm, .flannel, .events, .recoveries] a
      (match a.alloc 0 segSize n with
        | ((0, h), l1) => ((some h, l1) : Option Nat × Live)
        | (_, l1) => (none, l1)).2 := by
    have h := (Live.alloc_keeps a 0 segSize n).mono (m := [.store, .bpm, .flannel, .events, .recoveries]) rfl
    split <;> (rename_i e; rw [e] at h; exact h)
  unfold Live.segBuffer
  dsimp only
  refine .ite2 (take l) ?_
  have h1 := (Live.mark_keeps l 455 (u8 n) n).mono (m := [.store, .bpm, .flannel, .events, .recoveries]) rfl
  split
  · rename_i e
    exact .via (take _) rfl (.via (Live.makeRoom_keeps e) rfl h1)
  · exact h1

theorem Live.keepCopy_keeps (l0 : Live) (f : Frame) : Keeps [.store, .bpm, .flannel, .events, .recoveries] l0 (Live.keepCopy l0 f) := by
  unfold Live.keepCopy
  repeat' first
    | exact (rfl : true = true)
    | with_reducible exact .refl _ _
    | refine .via (by with_reducible exact Live.blk_keeps ..) ?_ ?_
    | refine .via (by with_reducible exact Live.keepDiscard_keeps ..) ?_ ?_
    | refine .via (by with_reducible exact Live.closeSeg_keeps ..) ?_ ?_
    | refine .via (by with_reducible exact Live.append_keeps ..) ?_ ?_
    | refine .via (by with_reducible exact Live.segBuffer_keeps ..) ?_ ?_
    | refine .via (by with_reducible exact Live.setSeg_keeps ..) ?_ ?_
    | with_reducible refine .ite ?_ ?_
    | dsimp only
    | refine .of2 (by assumption) ?_
    | refine .of22 (by assumption) ?_
    | refine .of1 (by assumption) ?_
    | split

theorem Live.probeWork_keeps (l : Live) (w : ProbeWork) : Keeps [.store, .plane, .flannel, .events] l (Live.probeWork l w) := by
  unfold Live.probeWork
  repeat' first
    | exact (rfl : true = true)
    | with_reducible exact .refl _ _
    | refine .via (by with_reducible exact Live.setFlannel_keeps ..) ?_ ?_
    | refine .via (by with_reducible exact Live.probeDo_keeps ..) ?_ ?_
    | with_reducible refine .ite ?_ ?_
    | dsimp only
    | split

end Sys2Proof.Machine
end

