-- ==== Sys2Proof/Laws/Gates.lean ====
section
/-! SUPPORT. What the operations of Machine/Gates.lean may change. -/

namespace Sys2Proof.Machine

open Sys2Proof

theorem Live.copyGates_keeps (l : Live) (src dst : Obj) (p n : Nat) : Keeps [.store] l (Live.copyGates l src dst p n) := by
  unfold Live.copyGates
  repeat' first
    | exact (rfl : true = true)
    | with_reducible exact .refl _ _
    | refine .via (by with_reducible exact Live.setElem_keeps ..) ?_ ?_
    | with_reducible refine .ite ?_ ?_
    | dsimp only
    | with_reducible refine .forN (fun l x => ?_) ?_
    | split

theorem Live.disarmGates_keeps (l : Live) (p : Nat) : Keeps [.store, .plane] l (Live.disarmGates l p) := by
  unfold Live.disarmGates
  repeat' first
    | exact (rfl : true = true)
    | with_reducible exact .refl _ _
    | refine .via (by with_reducible exact Live.setPort_keeps ..) ?_ ?_
    | refine .via (by with_reducible exact Live.wr_keeps ..) ?_ ?_
    | refine .via (by with_reducible exact Live.copyGates_keeps ..) ?_ ?_
    | with_reducible refine .ite ?_ ?_
    | dsimp only
    | split

theorem Live.setLongest_keeps (l : Live) (p : Nat) : Keeps [.store] l (Live.setLongest l p) := by
  unfold Live.setLongest
  repeat' first
    | exact (rfl : true = true)
    | with_reducible exact .refl _ _
    | refine .via (by with_reducible exact Live.wr_keeps ..) ?_ ?_
    | dsimp only
    | with_reducible refine .foldl (fun l x => ?_) _ _ ?_
    | with_reducible refine .foldl2 (fun l x => ?_) _ _ ?_
    | with_reducible refine .foldl1 (fun l x => ?_) _ _ ?_

theorem Live.takeover_keeps (l : Live) (p : Nat) (late : Bool) : Keeps [.store, .modes, .plane, .events] l (Live.takeover l p late) := by
  unfold Live.takeover
  repeat' first
    | exact (rfl : true = true)
    | with_reducible exact .refl _ _
    | refine .via (by with_reducible exact Live.wr_keeps ..) ?_ ?_
    | refine .via (by with_reducible exact Live.copyGates_keeps ..) ?_ ?_
    | refine .via (by with_reducible exact Live.count_keeps ..) ?_ ?_
    | refine .via (by with_reducible exact Live.disarmGates_keeps ..) ?_ ?_
    | refine .via (by with_reducible exact Live.markDirty_keeps ..) ?_ ?_
    | refine .via (by with_reducible exact Live.setLongest_keeps ..) ?_ ?_
    | refine .via (by with_reducible exact Live.setPort_keeps ..) ?_ ?_
    | refine .via (by with_reducible exact Live.raise_keeps ..) ?_ ?_
    | refine .via (by with_reducible exact Live.blk_keeps ..) ?_ ?_
    | with_reducible refine .ite ?_ ?_
    | dsimp only
    | split

theorem Live.recloseTx_keeps (l : Live) (p : Nat) : Keeps [.plane] l (Live.recloseTx l p) := by
  unfold Live.recloseTx
  repeat' first
    | exact (rfl : true = true)
    | with_reducible exact .refl _ _
    | refine .via (by with_reducible exact Live.setPort_keeps ..) ?_ ?_
    | with_reducible refine .ite ?_ ?_
    | dsimp only
    | refine .of2 (by assumption) ?_
    | refine .of22 (by assumption) ?_
    | refine .of1 (by assumption) ?_
    | split

theorem Live.changeTime_keeps (l : Live) (p t : Nat) : Keeps [.store, .modes, .plane, .events] l (Live.changeTime l p t) := by
  unfold Live.changeTime
  repeat' first
    | exact (rfl : true = true)
    | with_reducible exact .refl _ _
    | refine .via (by with_reducible exact Live.setPort_keeps ..) ?_ ?_
    | refine .via (by with_reducible exact Live.wr_keeps ..) ?_ ?_
    | refine .via (by with_reducible exact Live.copyGates_keeps ..) ?_ ?_
    | refine .via (by with_reducible exact Live.raise_keeps ..) ?_ ?_
    | refine .via (by with_reducible exact Live.takeover_keeps ..) ?_ ?_
    | refine .via (by with_reducible exact Live.recloseTx_keeps ..) ?_ ?_
    | with_reducible refine .ite ?_ ?_
    | dsimp only
    | split

theorem Live.gateCancel_keeps (l : Live) (p : Nat) : Keeps [.store, .plane, .events] l (Live.gateCancel l p) := by
  unfold Live.gateCancel
  repeat' first
    | exact (rfl : true = true)
    | with_reducible exact .refl _ _
    | refine .via (by with_reducible exact Live.raise_keeps ..) ?_ ?_
    | refine .via (by with_reducible exact Live.recloseTx_keeps ..) ?_ ?_
    | refine .via (by with_reducible exact Live.disarmGates_keeps ..) ?_ ?_
    | with_reducible refine .ite ?_ ?_
    | dsimp only
    | split

theorem Live.defaultGates_keeps (l : Live) (p origin : Nat) : Keeps [.store] l (Live.defaultGates l p origin) := by
  unfold Live.defaultGates
  repeat' first
    | exact (rfl : true = true)
    | with_reducible exact .refl _ _
    | refine .via (by with_reducible exact Live.toDefault_keeps ..) ?_ ?_
    | refine .via (by with_reducible exact Live.setLongest_keeps ..) ?_ ?_
    | refine .via (by with_reducible exact Live.wr_keeps ..) ?_ ?_
    | dsimp only
    | with_reducible refine .forN (fun l x => ?_) ?_

theorem Live.gateSample_keeps (l : Live) : Keeps [.store] l (Live.gateSample l) := by
  unfold Live.gateSample
  repeat' first
    | exact (rfl : true = true)
    | with_reducible exact .refl _ _
    | refine .via (by with_reducible exact Live.wrB_keeps ..) ?_ ?_
    | refine .via (by with_reducible exact Live.wr_keeps ..) ?_ ?_
    | with_reducible refine .ite ?_ ?_
    | dsimp only
    | with_reducible refine .forN (fun l x => ?_) ?_
    | split

theorem Live.passedTakeovers_keeps (l : Live) : Keeps [.store, .modes, .plane, .events] l (Live.passedTakeovers l) := by
  unfold Live.passedTakeovers
  repeat' first
    | exact (rfl : true = true)
    | with_reducible exact .refl _ _
    | refine .via (by with_reducible exact Live.takeover_keeps ..) ?_ ?_
    | with_reducible refine .ite ?_ ?_
    | dsimp only
    | with_reducible refine .forN (fun l x => ?_) ?_
    | split

theorem Live.dueTakeovers_keeps (l : Live) : Keeps [.store, .modes, .plane, .events] l (Live.dueTakeovers l) := by
  unfold Live.dueTakeovers
  repeat' first
    | exact (rfl : true = true)
    | with_reducible exact .refl _ _
    | refine .via (by with_reducible exact Live.passedTakeovers_keeps ..) ?_ ?_
    | with_reducible refine .ite ?_ ?_
    | dsimp only
    | split

theorem Live.jumpTx_keeps (l : Live) (step : Int) : Keeps [.plane] l (Live.jumpTx l step) := by
  unfold Live.jumpTx
  repeat' first
    | exact (rfl : true = true)
    | with_reducible exact .refl _ _
    | refine .via (by with_reducible exact Live.setPort_keeps ..) ?_ ?_
    | dsimp only
    | with_reducible refine .forN (fun l x => ?_) ?_

theorem Live.gateJump_keeps (l : Live) (step : Int) : Keeps [.store, .modes, .plane, .events] l (Live.gateJump l step) := by
  unfold Live.gateJump
  repeat' first
    | exact (rfl : true = true)
    | with_reducible exact .refl _ _
    | refine .via (by with_reducible exact Live.raise_keeps ..) ?_ ?_
    | refine .via (by with_reducible exact Live.passedTakeovers_keeps ..) ?_ ?_
    | refine .via (by with_reducible exact Live.jumpTx_keeps ..) ?_ ?_
    | with_reducible refine .ite ?_ ?_
    | dsimp only
    | split

theorem Live.shiftGates_keeps (l : Live) (o n : Nat) : Keeps [.store] l (Live.shiftGates l o n) := by
  unfold Live.shiftGates
  repeat' first
    | exact (rfl : true = true)
    | with_reducible exact .refl _ _
    | refine .via (by with_reducible exact Live.wr_keeps ..) ?_ ?_
    | with_reducible refine .ite ?_ ?_
    | dsimp only
    | with_reducible refine .forN (fun l x => ?_) ?_
    | split

theorem Live.loseArmed_keeps (l : Live) : Keeps [.store, .plane] l (Live.loseArmed l) := by
  unfold Live.loseArmed
  repeat' first
    | exact (rfl : true = true)
    | with_reducible exact .refl _ _
    | refine .via (by with_reducible exact Live.disarmGates_keeps ..) ?_ ?_
    | dsimp only
    | with_reducible refine .forN (fun l x => ?_) ?_

theorem Live.at_keeps (l : Live) (ns : Nat) : Keeps [.plane] l (Live.at l ns) := by
  unfold Live.at
  repeat' first
    | exact (rfl : true = true)
    | with_reducible exact .refl _ _
    | refine .via (by with_reducible exact Live.setPlane_keeps ..) ?_ ?_
    | dsimp only

end Sys2Proof.Machine
end

