-- ==== Sys2Proof/Laws/Wire.lean ====
section
/-! SUPPORT. What the operations of Machine/Wire.lean may change. -/

namespace Sys2Proof.Machine

open Sys2Proof

theorem Live.setCan_keeps (l : Live) (c : Nat) (f : CanPort → CanPort) : Keeps [.can] l (Live.setCan l c f) := by
  unfold Live.setCan
  repeat' first
    | exact (rfl : true = true)
    | with_reducible exact .refl _ _
    | dsimp only
    | with_reducible refine .can ?_ ?_

theorem Live.canAbort_keeps (l : Live) (c node : Nat) (drop : Bool) : Keeps [.store, .can, .events] l (Live.canAbort l c node drop) := by
  unfold Live.canAbort
  repeat' first
    | exact (rfl : true = true)
    | with_reducible exact .refl _ _
    | refine .via (by with_reducible exact Live.count_keeps ..) ?_ ?_
    | refine .via (by with_reducible exact Live.setCan_keeps ..) ?_ ?_
    | with_reducible refine .ite ?_ ?_
    | dsimp only
    | split

theorem Live.restartSeq_keeps (l : Live) (rank : Nat) : Keeps [.dict] l (Live.restartSeq l rank) := by
  unfold Live.restartSeq
  repeat' first
    | exact (rfl : true = true)
    | with_reducible exact .refl _ _
    | refine .via (by with_reducible exact Live.setDict_keeps ..) ?_ ?_
    | dsimp only

theorem Live.canStart_keeps (l : Live) (c : Nat) : Keeps [.store, .dict, .can] l (Live.canStart l c) := by
  unfold Live.canStart
  repeat' first
    | exact (rfl : true = true)
    | with_reducible exact .refl _ _
    | refine .via (by with_reducible exact Live.setCan_keeps ..) ?_ ?_
    | refine .via (by with_reducible exact Live.restartSeq_keeps ..) ?_ ?_
    | refine .via (by with_reducible exact Live.wr_keeps ..) ?_ ?_
    | with_reducible refine .ite ?_ ?_
    | dsimp only
    | split

theorem Live.canStop_keeps (l : Live) (c : Nat) : Keeps [.store] l (Live.canStop l c) := by
  unfold Live.canStop
  repeat' first
    | exact (rfl : true = true)
    | with_reducible exact .refl _ _
    | refine .via (by with_reducible exact Live.wr_keeps ..) ?_ ?_
    | dsimp only

theorem Live.canSettings_keeps (l : Live) (c node : Nat) (was now : Bool) : Keeps [.store, .dict, .can, .events] l (Live.canSettings l c node was now) := by
  unfold Live.canSettings
  repeat' first
    | exact (rfl : true = true)
    | with_reducible exact .refl _ _
    | refine .via (by with_reducible exact Live.setCan_keeps ..) ?_ ?_
    | refine .via (by with_reducible exact Live.canAbort_keeps ..) ?_ ?_
    | refine .via (by with_reducible exact Live.canStart_keeps ..) ?_ ?_
    | refine .via (by with_reducible exact Live.canStop_keeps ..) ?_ ?_
    | with_reducible refine .ite ?_ ?_
    | dsimp only
    | split

theorem Live.setSession_keeps (l : Live) (s : Nat) (f : Session → Session) : Keeps [.sessions] l (Live.setSession l s f) := by
  unfold Live.setSession
  repeat' first
    | exact (rfl : true = true)
    | with_reducible exact .refl _ _
    | dsimp only
    | with_reducible refine .sessions ?_ ?_

theorem Live.sessionOpen_keeps (l : Live) (s : Nat) : Keeps [.store, .dict, .sessions, .events] l (Live.sessionOpen l s) := by
  unfold Live.sessionOpen
  repeat' first
    | exact (rfl : true = true)
    | with_reducible exact .refl _ _
    | refine .via (by with_reducible exact Live.raise_keeps ..) ?_ ?_
    | refine .via (by with_reducible exact Live.restartSeq_keeps ..) ?_ ?_
    | refine .via (by with_reducible exact Live.setSession_keeps ..) ?_ ?_
    | dsimp only

theorem Live.sessionClose_keeps (l : Live) (s : Nat) : Keeps [.store, .dict, .sessions, .events] l (Live.sessionClose l s) := by
  unfold Live.sessionClose
  repeat' first
    | exact (rfl : true = true)
    | with_reducible exact .refl _ _
    | refine .via (by with_reducible exact Live.raise_keeps ..) ?_ ?_
    | refine .via (by with_reducible exact Live.withdrawMaster_keeps ..) ?_ ?_
    | refine .via (by with_reducible exact Live.setSession_keeps ..) ?_ ?_
    | with_reducible refine .ite ?_ ?_
    | dsimp only
    | split

theorem Live.keyCommit_keeps (l : Live) (s oldKey : Nat) : Keeps [.store, .sessions] l (Live.keyCommit l s oldKey) := by
  unfold Live.keyCommit
  repeat' first
    | exact (rfl : true = true)
    | with_reducible exact .refl _ _
    | refine .via (by with_reducible exact Live.setSession_keeps ..) ?_ ?_
    | refine .via (by with_reducible exact Live.wr_keeps ..) ?_ ?_
    | with_reducible refine .ite ?_ ?_
    | dsimp only
    | split

theorem Live.setMbx_keeps (l : Live) (f : Nat) (g : Mailbox → Mailbox) : Keeps [.mailboxes] l (Live.setMbx l f g) := by
  unfold Live.setMbx
  repeat' first
    | exact (rfl : true = true)
    | with_reducible exact .refl _ _
    | dsimp only
    | with_reducible refine .mailboxes ?_ ?_

theorem Live.epochGrace_keeps (l : Live) (s : Nat) : Keeps [.sessions] l (Live.epochGrace l s) := by
  unfold Live.epochGrace
  repeat' first
    | exact (rfl : true = true)
    | with_reducible exact .refl _ _
    | refine .via (by with_reducible exact Live.setSession_keeps ..) ?_ ?_
    | with_reducible refine .ite ?_ ?_
    | dsimp only
    | refine .of2 (by assumption) ?_
    | refine .of22 (by assumption) ?_
    | refine .of1 (by assumption) ?_
    | split

theorem Live.canSample_keeps (l : Live) (c code : Nat) : Keeps [.can] l (Live.canSample l c code) := by
  unfold Live.canSample
  repeat' first
    | exact (rfl : true = true)
    | with_reducible exact .refl _ _
    | refine .via (by with_reducible exact Live.setCan_keeps ..) ?_ ?_
    | dsimp only
    | refine .of2 (by assumption) ?_
    | refine .of22 (by assumption) ?_
    | refine .of1 (by assumption) ?_
    | split

theorem Live.canRestart_keeps (l : Live) : Keeps [.store, .can, .events] l (Live.canRestart l) := by
  unfold Live.canRestart
  repeat' first
    | exact (rfl : true = true)
    | with_reducible exact .refl _ _
    | refine .via (by with_reducible exact Live.canAbort_keeps ..) ?_ ?_
    | refine .via (by with_reducible exact Live.canStop_keeps ..) ?_ ?_
    | refine .via (by with_reducible exact Live.toDefault_keeps ..) ?_ ?_
    | refine .via (by with_reducible exact Live.setCan_keeps ..) ?_ ?_
    | dsimp only
    | with_reducible refine .forN (fun l x => ?_) ?_

theorem Live.canRespond_keeps (l : Live) (c : Nat) (r : Response) : Keeps [.store, .can, .events] l (Live.canRespond l c r) := by
  unfold Live.canRespond
  repeat' first
    | exact (rfl : true = true)
    | with_reducible exact .refl _ _
    | refine .via (by with_reducible exact Live.setCan_keeps ..) ?_ ?_
    | refine .via (by with_reducible exact Live.count_keeps ..) ?_ ?_
    | with_reducible refine .ite ?_ ?_
    | dsimp only
    | split

theorem Live.seqExhausted_keeps (l : Live) (s : Nat) : Keeps [.store, .sessions, .events] l (Live.seqExhausted l s) := by
  unfold Live.seqExhausted
  repeat' first
    | exact (rfl : true = true)
    | with_reducible exact .refl _ _
    | refine .via (by with_reducible exact Live.raise_keeps ..) ?_ ?_
    | refine .via (by with_reducible exact Live.setSession_keeps ..) ?_ ?_
    | dsimp only

theorem Live.inbandFrame_keeps (l : Live) (s : Nat) (peer : InbandPeer) (dau : List Byte) : Keeps [.store, .sessions, .events] l (Live.inbandFrame l s peer dau).2 := by
  unfold Live.inbandFrame
  repeat' first
    | exact (rfl : true = true)
    | with_reducible exact .refl _ _
    | refine .via (by with_reducible exact Live.wr_keeps ..) ?_ ?_
    | refine .via (by with_reducible exact Live.setSession_keeps ..) ?_ ?_
    | refine .via (by with_reducible exact Live.seqExhausted_keeps ..) ?_ ?_
    | with_reducible refine .ite ?_ ?_
    | with_reducible refine .ite2 ?_ ?_
    | dsimp only
    | refine .of2 (by assumption) ?_
    | refine .of22 (by assumption) ?_
    | refine .of1 (by assumption) ?_
    | split

theorem Live.inbandResponse_keeps (l : Live) (s : Nat) (r : Response) : Keeps [.store, .sessions, .events] l (Live.inbandResponse l s r).2 := by
  unfold Live.inbandResponse
  repeat' first
    | exact (rfl : true = true)
    | with_reducible exact .refl _ _
    | refine .via (by with_reducible exact Live.inbandFrame_keeps ..) ?_ ?_
    | refine .via (by with_reducible exact Live.setSession_keeps ..) ?_ ?_
    | with_reducible refine .ite ?_ ?_
    | with_reducible refine .ite2 ?_ ?_
    | dsimp only
    | refine .of2 (by assumption) ?_
    | refine .of22 (by assumption) ?_
    | refine .of1 (by assumption) ?_
    | split

theorem Live.takeSeq_keeps (l : Live) (rank : Nat) : Keeps [.dict] l (Live.takeSeq l rank).2 := by
  unfold Live.takeSeq
  repeat' first
    | exact (rfl : true = true)
    | with_reducible exact .refl _ _
    | refine .via (by with_reducible exact Live.setDict_keeps ..) ?_ ?_
    | dsimp only

theorem Live.canNotify_keeps (l : Live) (c src : Nat) (payload : List Byte) : Keeps [.store, .dict, .can, .events] l (Live.canNotify l c src payload) := by
  unfold Live.canNotify
  repeat' first
    | exact (rfl : true = true)
    | with_reducible exact .refl _ _
    | refine .via (by with_reducible exact Live.takeSeq_keeps ..) ?_ ?_
    | refine .via (by with_reducible exact Live.count_keeps ..) ?_ ?_
    | refine .via (by with_reducible exact Live.setCan_keeps ..) ?_ ?_
    | with_reducible refine .ite ?_ ?_
    | dsimp only
    | refine .of2 (by assumption) ?_
    | refine .of22 (by assumption) ?_
    | refine .of1 (by assumption) ?_
    | split

theorem Live.inbandNotify_keeps (l : Live) (s src : Nat) (payload : List Byte) : Keeps [.store, .dict, .sessions, .events] l (Live.inbandNotify l s src payload).2 := by
  unfold Live.inbandNotify
  repeat' first
    | exact (rfl : true = true)
    | with_reducible exact .refl _ _
    | refine .via (by with_reducible exact Live.takeSeq_keeps ..) ?_ ?_
    | refine .via (by with_reducible exact Live.inbandFrame_keeps ..) ?_ ?_
    | refine .via (by with_reducible exact Live.count_keeps ..) ?_ ?_
    | dsimp only
    | refine .of2 (by assumption) ?_
    | refine .of22 (by assumption) ?_
    | refine .of1 (by assumption) ?_
    | split

theorem Live.canErrors_keeps (l : Live) (c tec rec : Nat) : Keeps [.store] l (Live.canErrors l c tec rec) := by
  unfold Live.canErrors
  repeat' first
    | exact (rfl : true = true)
    | with_reducible exact .refl _ _
    | refine .via (by with_reducible exact Live.wr_keeps ..) ?_ ?_
    | refine .via (by with_reducible exact Live.wrSat_keeps ..) ?_ ?_
    | with_reducible refine .ite ?_ ?_
    | dsimp only
    | split

theorem Live.canTxEnd_keeps (l : Live) (c : Nat) (won : Bool) : Keeps [.store, .can, .events] l (Live.canTxEnd l c won) := by
  unfold Live.canTxEnd
  repeat' first
    | exact (rfl : true = true)
    | with_reducible exact .refl _ _
    | refine .via (by with_reducible exact Live.setCan_keeps ..) ?_ ?_
    | refine .via (by with_reducible exact Live.raise_keeps ..) ?_ ?_
    | refine .via (by with_reducible exact Live.count_keeps ..) ?_ ?_
    | with_reducible refine .ite ?_ ?_
    | dsimp only
    | refine .of2 (by assumption) ?_
    | refine .of22 (by assumption) ?_
    | refine .of1 (by assumption) ?_
    | split

theorem Live.setNode_keeps (l : Live) (c n entry : Nat) : Keeps [.store] l (Live.setNode l c n entry) := by
  unfold Live.setNode
  repeat' first
    | exact (rfl : true = true)
    | with_reducible exact .refl _ _
    | refine .via (by with_reducible exact Live.wr_keeps ..) ?_ ?_
    | dsimp only

theorem Live.nodeLost_keeps (l : Live) (c n : Nat) : Keeps [.store, .can, .events] l (Live.nodeLost l c n) := by
  unfold Live.nodeLost
  repeat' first
    | exact (rfl : true = true)
    | with_reducible exact .refl _ _
    | refine .via (by with_reducible exact Live.raise_keeps ..) ?_ ?_
    | refine .via (by with_reducible exact Live.setCan_keeps ..) ?_ ?_
    | refine .via (by with_reducible exact Live.setNode_keeps ..) ?_ ?_
    | dsimp only

theorem Live.judgeCall_keeps (l : Live) (c : Nat) : Keeps [.store, .can, .events] l (Live.judgeCall l c) := by
  unfold Live.judgeCall
  repeat' first
    | exact (rfl : true = true)
    | with_reducible exact .refl _ _
    | refine .via (by with_reducible exact Live.setCan_keeps ..) ?_ ?_
    | refine .via (by with_reducible exact Live.nodeLost_keeps ..) ?_ ?_
    | with_reducible refine .ite ?_ ?_
    | dsimp only
    | with_reducible refine .foldl (fun l x => ?_) _ _ ?_
    | with_reducible refine .foldl2 (fun l x => ?_) _ _ ?_
    | with_reducible refine .foldl1 (fun l x => ?_) _ _ ?_
    | split

theorem Live.rollcall_keeps (l : Live) (c : Nat) : Keeps [.store, .can, .events] l (Live.rollcall l c) := by
  unfold Live.rollcall
  repeat' first
    | exact (rfl : true = true)
    | with_reducible exact .refl _ _
    | refine .via (by with_reducible exact Live.setCan_keeps ..) ?_ ?_
    | refine .via (by with_reducible exact Live.judgeCall_keeps ..) ?_ ?_
    | with_reducible refine .ite ?_ ?_
    | dsimp only
    | split

theorem Live.rollcallAnswer_keeps (l : Live) (c n : Nat) (data : List Byte) : Keeps [.store, .can, .events] l (Live.rollcallAnswer l c n data) := by
  unfold Live.rollcallAnswer
  repeat' first
    | exact (rfl : true = true)
    | with_reducible exact .refl _ _
    | refine .via (by with_reducible exact Live.setCan_keeps ..) ?_ ?_
    | refine .via (by with_reducible exact Live.raise_keeps ..) ?_ ?_
    | refine .via (by with_reducible exact Live.setNode_keeps ..) ?_ ?_
    | with_reducible refine .ite ?_ ?_
    | dsimp only
    | split

end Sys2Proof.Machine
end

