-- ==== Sys2Proof/Laws/HostReset.lean ====
section
/-! SUPPORT. What the operations of Machine/HostReset.lean may change. -/

namespace Sys2Proof.Machine

open Sys2Proof

theorem Live.flrCleanup_keeps (l : Live) (f : Nat) : Keeps [.store, .dict, .mailboxes, .bpm, .flannel, .comp, .mover, .host, .events, .recoveries] l (Live.flrCleanup l f) := by
  unfold Live.flrCleanup
  repeat' first
    | exact (rfl : true = true)
    | with_reducible exact .refl _ _
    | refine .via (by with_reducible exact Live.setMbx_keeps ..) ?_ ?_
    | refine .via (by with_reducible exact Live.withdrawMaster_keeps ..) ?_ ?_
    | refine .via (by with_reducible exact Live.drainAcks_keeps ..) ?_ ?_
    | refine .via (by with_reducible exact Live.jobsStop_keeps ..) ?_ ?_
    | refine .via (by with_reducible exact Live.forcedRelease_keeps ..) ?_ ?_
    | refine .via (by with_reducible exact Live.setFn_keeps ..) ?_ ?_
    | refine .via (by with_reducible exact Live.offersCut_keeps ..) ?_ ?_
    | refine .via (by with_reducible exact Live.loadsCut_keeps ..) ?_ ?_
    | with_reducible refine .ite ?_ ?_
    | dsimp only
    | refine .of2 (by assumption) ?_
    | refine .of22 (by assumption) ?_
    | refine .of1 (by assumption) ?_
    | split

theorem Live.routesReset_keeps (l : Live) (f : Nat) : Keeps [.store, .modes] l (Live.routesReset l f) := by
  unfold Live.routesReset
  repeat' first
    | exact (rfl : true = true)
    | with_reducible exact .refl _ _
    | refine .via (by with_reducible exact Live.markDirty_keeps ..) ?_ ?_
    | refine .via (by with_reducible exact Live.wr_keeps ..) ?_ ?_
    | with_reducible refine .ite ?_ ?_
    | dsimp only
    | with_reducible refine .forN (fun l x => ?_) ?_
    | split

theorem Live.flrDone_keeps (l : Live) (f : Nat) : Keeps [.store, .dict, .modes, .bpm, .host, .events, .recoveries] l (Live.flrDone l f) := by
  unfold Live.flrDone
  repeat' first
    | exact (rfl : true = true)
    | with_reducible exact .refl _ _
    | refine .via (by with_reducible exact Live.setFn_keeps ..) ?_ ?_
    | refine .via (by with_reducible exact Live.restartSeq_keeps ..) ?_ ?_
    | refine .via (by with_reducible exact Live.setBpm_keeps ..) ?_ ?_
    | refine .via (by with_reducible exact Live.routesReset_keeps ..) ?_ ?_
    | refine .via (by with_reducible exact Live.journalRecoveries_keeps ..) ?_ ?_
    | refine .via (by with_reducible exact Live.recoveryDone_keeps ..) ?_ ?_
    | refine .via (by with_reducible exact Live.raise_keeps ..) ?_ ?_
    | refine .via (by with_reducible exact Live.count_keeps ..) ?_ ?_
    | with_reducible refine .ite ?_ ?_
    | dsimp only
    | refine .of2 (by assumption) ?_
    | refine .of22 (by assumption) ?_
    | refine .of1 (by assumption) ?_
    | split

theorem Live.flrStart_keeps (l : Live) (f : Nat) : Keeps [.store, .host, .events, .recoveries] l (Live.flrStart l f) := by
  unfold Live.flrStart
  repeat' first
    | exact (rfl : true = true)
    | with_reducible exact .refl _ _
    | refine .via (by with_reducible exact Live.raise_keeps ..) ?_ ?_
    | refine .via (by with_reducible exact Live.wrB_keeps ..) ?_ ?_
    | refine .via (by with_reducible exact Live.count_keeps ..) ?_ ?_
    | refine .via (by with_reducible exact Live.recoveryStart_keeps ..) ?_ ?_
    | refine .via (by with_reducible exact Live.setRing_keeps ..) ?_ ?_
    | refine .via (by with_reducible exact Live.setFn_keeps ..) ?_ ?_
    | with_reducible refine .ite ?_ ?_
    | dsimp only
    | with_reducible refine .forL (fun l x => ?_) ?_
    | split

theorem Live.flrOf_keeps (l : Live) (f : Nat) : Keeps [.store, .host, .events, .recoveries] l (Live.flrOf l f) := by
  unfold Live.flrOf
  repeat' first
    | exact (rfl : true = true)
    | with_reducible exact .refl _ _
    | refine .via (by with_reducible exact Live.wr_keeps ..) ?_ ?_
    | refine .via (by with_reducible exact Live.setFn_keeps ..) ?_ ?_
    | refine .via (by with_reducible exact Live.flrStart_keeps ..) ?_ ?_
    | with_reducible refine .ite ?_ ?_
    | dsimp only
    | with_reducible refine .forN (fun l x => ?_) ?_
    | with_reducible refine .foldl (fun l x => ?_) _ _ ?_
    | with_reducible refine .foldl2 (fun l x => ?_) _ _ ?_
    | with_reducible refine .foldl1 (fun l x => ?_) _ _ ?_
    | split

theorem Live.pcieDown_keeps (l : Live) : Keeps [.store, .host, .events, .recoveries] l (Live.pcieDown l) := by
  unfold Live.pcieDown
  repeat' first
    | exact (rfl : true = true)
    | with_reducible exact .refl _ _
    | refine .via (by with_reducible exact Live.wr_keeps ..) ?_ ?_
    | refine .via (by with_reducible exact Live.setHost_keeps ..) ?_ ?_
    | refine .via (by with_reducible exact Live.flrOf_keeps ..) ?_ ?_
    | refine .via (by with_reducible exact Live.raise_keeps ..) ?_ ?_
    | with_reducible refine .ite ?_ ?_
    | dsimp only
    | split

theorem Live.hostRestart_keeps (l : Live) : Keeps [.store, .mailboxes, .host, .events, .recoveries] l (Live.hostRestart l) := by
  unfold Live.hostRestart
  repeat' first
    | exact (rfl : true = true)
    | with_reducible exact .refl _ _
    | refine .via (by with_reducible exact Live.pcieDown_keeps ..) ?_ ?_
    | refine .via (by with_reducible exact Live.wrB_keeps ..) ?_ ?_
    | refine .via (by with_reducible exact Live.setFn_keeps ..) ?_ ?_
    | refine .via (by with_reducible exact Live.setHost_keeps ..) ?_ ?_
    | refine .via (by with_reducible exact Live.setMbx_keeps ..) ?_ ?_
    | dsimp only
    | with_reducible refine .forN (fun l x => ?_) ?_

end Sys2Proof.Machine
end

