-- ==== Sys2Proof/Laws/Muslin.lean ====
section
/-! SUPPORT. What the operations of Machine/Muslin.lean may change. -/

namespace Sys2Proof.Machine

open Sys2Proof

theorem Live.rxLost_keeps (l : Live) (r : Nat) : Keeps [.store, .events] l (Live.rxLost l r) := by
  unfold Live.rxLost
  repeat' first
    | exact (rfl : true = true)
    | with_reducible exact .refl _ _
    | refine .via (by with_reducible exact Live.raise_keeps ..) ?_ ?_
    | refine .via (by with_reducible exact Live.count_keeps ..) ?_ ?_
    | refine .via (by with_reducible exact Live.wr_keeps ..) ?_ ?_
    | with_reducible refine .ite ?_ ?_
    | dsimp only
    | split

theorem Live.rxStops_keeps (l : Live) : Keeps [.store, .events] l (Live.rxStops l) := by
  unfold Live.rxStops
  repeat' first
    | exact (rfl : true = true)
    | with_reducible exact .refl _ _
    | refine .via (by with_reducible exact Live.rxLost_keeps ..) ?_ ?_
    | with_reducible refine .ite ?_ ?_
    | dsimp only
    | with_reducible refine .forN (fun l x => ?_) ?_
    | split

theorem Live.txShow_keeps (l : Live) (t : Nat) : Keeps [.store] l (Live.txShow l t) := by
  unfold Live.txShow
  repeat' first
    | exact (rfl : true = true)
    | with_reducible exact .refl _ _
    | refine .via (by with_reducible exact Live.wr_keeps ..) ?_ ?_
    | with_reducible refine .ite ?_ ?_
    | dsimp only
    | split

theorem Live.setAudio_keeps (l : Live) (f : Audio → Audio) : Keeps [.audio] l (Live.setAudio l f) := by
  unfold Live.setAudio
  repeat' first
    | exact (rfl : true = true)
    | with_reducible exact .refl _ _
    | dsimp only
    | with_reducible refine .audio ?_ ?_

theorem Live.setAesTx_keeps (l : Live) (t : Nat) (f : AesTx → AesTx) : Keeps [.audio] l (Live.setAesTx l t f) := by
  unfold Live.setAesTx
  repeat' first
    | exact (rfl : true = true)
    | with_reducible exact .refl _ _
    | refine .via (by with_reducible exact Live.setAudio_keeps ..) ?_ ?_
    | dsimp only

theorem Live.txStart_keeps (l : Live) (t : Nat) : Keeps [.store, .audio] l (Live.txStart l t) := by
  unfold Live.txStart
  repeat' first
    | exact (rfl : true = true)
    | with_reducible exact .refl _ _
    | refine .via (by with_reducible exact Live.txShow_keeps ..) ?_ ?_
    | refine .via (by with_reducible exact Live.setAesTx_keeps ..) ?_ ?_
    | dsimp only

theorem Live.txSettings_keeps (l : Live) (t : Nat) : Keeps [.store, .audio] l (Live.txSettings l t) := by
  unfold Live.txSettings
  repeat' first
    | exact (rfl : true = true)
    | with_reducible exact .refl _ _
    | refine .via (by with_reducible exact Live.txShow_keeps ..) ?_ ?_
    | refine .via (by with_reducible exact Live.setAesTx_keeps ..) ?_ ?_
    | dsimp only

theorem Live.setSink_keeps (l : Live) (k : Nat) (f : AudioSink → AudioSink) : Keeps [.audio] l (Live.setSink l k f) := by
  unfold Live.setSink
  repeat' first
    | exact (rfl : true = true)
    | with_reducible exact .refl _ _
    | refine .via (by with_reducible exact Live.setAudio_keeps ..) ?_ ?_
    | dsimp only

theorem Live.delayChanged_keeps (l : Live) (k old : Nat) : Keeps [.audio] l (Live.delayChanged l k old) := by
  unfold Live.delayChanged
  repeat' first
    | exact (rfl : true = true)
    | with_reducible exact .refl _ _
    | refine .via (by with_reducible exact Live.setSink_keeps ..) ?_ ?_
    | with_reducible refine .ite ?_ ?_
    | dsimp only
    | split

theorem Live.showFade_keeps (l : Live) (s : Nat) : Keeps [.store] l (Live.showFade l s) := by
  unfold Live.showFade
  repeat' first
    | exact (rfl : true = true)
    | with_reducible exact .refl _ _
    | refine .via (by with_reducible exact Live.wr_keeps ..) ?_ ?_
    | dsimp only

theorem Live.setSource_keeps (l : Live) (s : Nat) (f : AudioSource → AudioSource) : Keeps [.audio] l (Live.setSource l s f) := by
  unfold Live.setSource
  repeat' first
    | exact (rfl : true = true)
    | with_reducible exact .refl _ _
    | refine .via (by with_reducible exact Live.setAudio_keeps ..) ?_ ?_
    | dsimp only

theorem Live.sourceStart_keeps (l : Live) (s : Nat) : Keeps [.store, .audio] l (Live.sourceStart l s) := by
  unfold Live.sourceStart
  repeat' first
    | exact (rfl : true = true)
    | with_reducible exact .refl _ _
    | refine .via (by with_reducible exact Live.showFade_keeps ..) ?_ ?_
    | refine .via (by with_reducible exact Live.setSource_keeps ..) ?_ ?_
    | dsimp only

theorem Live.spotterRestart_keeps (l : Live) (i : Nat) : Keeps [.store, .audio] l (Live.spotterRestart l i) := by
  unfold Live.spotterRestart
  repeat' first
    | exact (rfl : true = true)
    | with_reducible exact .refl _ _
    | refine .via (by with_reducible exact Live.wr_keeps ..) ?_ ?_
    | refine .via (by with_reducible exact Live.setAudio_keeps ..) ?_ ?_
    | dsimp only

theorem Live.crosspointChanged_keeps (l : Live) (k s old : Nat) : Keeps [.audio] l (Live.crosspointChanged l k s old) := by
  unfold Live.crosspointChanged
  repeat' first
    | exact (rfl : true = true)
    | with_reducible exact .refl _ _
    | refine .via (by with_reducible exact Live.setSink_keeps ..) ?_ ?_
    | with_reducible refine .ite ?_ ?_
    | dsimp only
    | refine .of2 (by assumption) ?_
    | refine .of22 (by assumption) ?_
    | refine .of1 (by assumption) ?_
    | split

theorem Live.setAesRx_keeps (l : Live) (r : Nat) (f : AesRx → AesRx) : Keeps [.audio] l (Live.setAesRx l r f) := by
  unfold Live.setAesRx
  repeat' first
    | exact (rfl : true = true)
    | with_reducible exact .refl _ _
    | refine .via (by with_reducible exact Live.setAudio_keeps ..) ?_ ?_
    | dsimp only

theorem Live.rxLock_keeps (l : Live) (r rate hz : Nat) : Keeps [.store, .audio, .events] l (Live.rxLock l r rate hz) := by
  unfold Live.rxLock
  repeat' first
    | exact (rfl : true = true)
    | with_reducible exact .refl _ _
    | refine .via (by with_reducible exact Live.rxLost_keeps ..) ?_ ?_
    | refine .via (by with_reducible exact Live.setAesRx_keeps ..) ?_ ?_
    | refine .via (by with_reducible exact Live.wr_keeps ..) ?_ ?_
    | refine .via (by with_reducible exact Live.raise_keeps ..) ?_ ?_
    | refine .via (by with_reducible exact Live.sourceStart_keeps ..) ?_ ?_
    | with_reducible refine .ite ?_ ?_
    | dsimp only
    | split

theorem Live.sampleReceivers_keeps (l : Live) : Keeps [.store, .audio, .events] l (Live.sampleReceivers l) := by
  unfold Live.sampleReceivers
  repeat' first
    | exact (rfl : true = true)
    | with_reducible exact .refl _ _
    | refine .via (by with_reducible exact Live.setAesRx_keeps ..) ?_ ?_
    | refine .via (by with_reducible exact Live.rxLock_keeps ..) ?_ ?_
    | refine .via (by with_reducible exact Live.wr_keeps ..) ?_ ?_
    | refine .via (by with_reducible exact Live.rxLost_keeps ..) ?_ ?_
    | with_reducible refine .ite ?_ ?_
    | dsimp only
    | with_reducible refine .forN (fun l x => ?_) ?_
    | refine .of2 (by assumption) ?_
    | refine .of22 (by assumption) ?_
    | refine .of1 (by assumption) ?_
    | split

theorem Live.sourceFault_keeps (l : Live) (s : Nat) : Keeps [.store, .audio, .events] l (Live.sourceFault l s) := by
  unfold Live.sourceFault
  repeat' first
    | exact (rfl : true = true)
    | with_reducible exact .refl _ _
    | refine .via (by with_reducible exact Live.setSource_keeps ..) ?_ ?_
    | refine .via (by with_reducible exact Live.showFade_keeps ..) ?_ ?_
    | refine .via (by with_reducible exact Live.raise_keeps ..) ?_ ?_
    | refine .via (by with_reducible exact Live.blk_keeps ..) ?_ ?_
    | refine .via (by with_reducible exact Live.count_keeps ..) ?_ ?_
    | with_reducible refine .ite ?_ ?_
    | dsimp only
    | split

theorem Live.slotsSkipped_keeps (l : Live) (o n : Nat) : Keeps [.store, .audio, .events] l (Live.slotsSkipped l o n) := by
  unfold Live.slotsSkipped
  repeat' first
    | exact (rfl : true = true)
    | with_reducible exact .refl _ _
    | refine .via (by with_reducible exact Live.mark_keeps ..) ?_ ?_
    | refine .via (by with_reducible exact Live.blk_keeps ..) ?_ ?_
    | refine .via (by with_reducible exact Live.count_keeps ..) ?_ ?_
    | refine .via (by with_reducible exact Live.sourceFault_keeps ..) ?_ ?_
    | refine .via (by with_reducible exact Live.setSource_keeps ..) ?_ ?_
    | with_reducible refine .ite ?_ ?_
    | dsimp only
    | with_reducible refine .forL (fun l x => ?_) ?_
    | split

theorem Live.audioStep_keeps (l : Live) : Keeps [.audio] l (Live.audioStep l) := by
  unfold Live.audioStep
  repeat' first
    | exact (rfl : true = true)
    | with_reducible exact .refl _ _
    | refine .via (by with_reducible exact Live.setAudio_keeps ..) ?_ ?_
    | dsimp only
    | with_reducible refine .forN (fun l x => ?_) ?_

theorem Live.matrixStart_keeps (l : Live) : Keeps [.store, .audio] l (Live.matrixStart l) := by
  unfold Live.matrixStart
  repeat' first
    | exact (rfl : true = true)
    | with_reducible exact .refl _ _
    | refine .via (by with_reducible exact Live.setAudio_keeps ..) ?_ ?_
    | refine .via (by with_reducible exact Live.txStart_keeps ..) ?_ ?_
    | dsimp only
    | with_reducible refine .forN (fun l x => ?_) ?_

theorem Live.audioMode_keeps (l0 : Live) (old : Nat) (matrix packets : Bool) : Keeps [.store, .bpm, .audio, .events] l0 (Live.audioMode l0 old matrix packets) := by
  unfold Live.audioMode
  repeat' first
    | exact (rfl : true = true)
    | with_reducible exact .refl _ _
    | refine .via (by with_reducible exact Live.setAudio_keeps ..) ?_ ?_
    | refine .via (by with_reducible exact Live.rxStops_keeps ..) ?_ ?_
    | refine .via (by with_reducible exact Live.spotterRestart_keeps ..) ?_ ?_
    | refine .via (by with_reducible exact Live.matrixStart_keeps ..) ?_ ?_
    | refine .via (by with_reducible exact Live.freeHandle_keeps ..) ?_ ?_
    | with_reducible refine .ite ?_ ?_
    | dsimp only
    | with_reducible refine .forL (fun l x => ?_) ?_
    | with_reducible refine .forN (fun l x => ?_) ?_
    | with_reducible refine .foldl (fun l x => ?_) _ _ ?_
    | with_reducible refine .foldl2 (fun l x => ?_) _ _ ?_
    | with_reducible refine .foldl1 (fun l x => ?_) _ _ ?_
    | split

theorem Live.islandKeep_keeps (l : Live) : Keeps [.audio] l (Live.islandKeep l) := by
  unfold Live.islandKeep
  repeat' first
    | exact (rfl : true = true)
    | with_reducible exact .refl _ _
    | refine .via (by with_reducible exact Live.setAudio_keeps ..) ?_ ?_
    | dsimp only

theorem Live.csShow_keeps (l : Live) (r : Nat) : Keeps [.store, .audio] l (Live.csShow l r) := by
  unfold Live.csShow
  repeat' first
    | exact (rfl : true = true)
    | with_reducible exact .refl _ _
    | refine .via (by with_reducible exact Live.setAesRx_keeps ..) ?_ ?_
    | refine .via (by with_reducible exact Live.wr_keeps ..) ?_ ?_
    | with_reducible refine .ite ?_ ?_
    | dsimp only
    | with_reducible refine .forL (fun l x => ?_) ?_
    | split

theorem Live.txSwitch_keeps (l : Live) (t : Nat) : Keeps [.store, .audio, .events] l (Live.txSwitch l t) := by
  unfold Live.txSwitch
  repeat' first
    | exact (rfl : true = true)
    | with_reducible exact .refl _ _
    | refine .via (by with_reducible exact Live.raise_keeps ..) ?_ ?_
    | refine .via (by with_reducible exact Live.txShow_keeps ..) ?_ ?_
    | refine .via (by with_reducible exact Live.count_keeps ..) ?_ ?_
    | refine .via (by with_reducible exact Live.setAesTx_keeps ..) ?_ ?_
    | with_reducible refine .ite ?_ ?_
    | dsimp only
    | split

theorem Live.txSinks_keeps (l : Live) (t st : Nat) : Keeps [.audio] l (Live.txSinks l t st) := by
  unfold Live.txSinks
  repeat' first
    | exact (rfl : true = true)
    | with_reducible exact .refl _ _
    | refine .via (by with_reducible exact Live.setSink_keeps ..) ?_ ?_
    | dsimp only
    | with_reducible refine .forL (fun l x => ?_) ?_

theorem Live.txBeat_keeps (l : Live) (t : Nat) : Keeps [.store, .audio, .events] l (Live.txBeat l t) := by
  unfold Live.txBeat
  repeat' first
    | exact (rfl : true = true)
    | with_reducible exact .refl _ _
    | refine .via (by with_reducible exact Live.setAesTx_keeps ..) ?_ ?_
    | refine .via (by with_reducible exact Live.txSwitch_keeps ..) ?_ ?_
    | refine .via (by with_reducible exact Live.txSinks_keeps ..) ?_ ?_
    | refine .via (by with_reducible exact Live.txShow_keeps ..) ?_ ?_
    | with_reducible refine .ite ?_ ?_
    | dsimp only
    | refine .of2 (by assumption) ?_
    | refine .of22 (by assumption) ?_
    | refine .of1 (by assumption) ?_
    | split

theorem Live.audioBeat_keeps (l : Live) : Keeps [.store, .audio, .events] l (Live.audioBeat l) := by
  unfold Live.audioBeat
  repeat' first
    | exact (rfl : true = true)
    | with_reducible exact .refl _ _
    | refine .via (by with_reducible exact Live.csShow_keeps ..) ?_ ?_
    | refine .via (by with_reducible exact Live.setSource_keeps ..) ?_ ?_
    | refine .via (by with_reducible exact Live.setAudio_keeps ..) ?_ ?_
    | refine .via (by with_reducible exact Live.txBeat_keeps ..) ?_ ?_
    | with_reducible refine .ite ?_ ?_
    | dsimp only
    | with_reducible refine .forN (fun l x => ?_) ?_
    | split

theorem Live.rampIn_keeps (l : Live) (s : Nat) : Keeps [.store, .audio, .events] l (Live.rampIn l s) := by
  unfold Live.rampIn
  repeat' first
    | exact (rfl : true = true)
    | with_reducible exact .refl _ _
    | refine .via (by with_reducible exact Live.showFade_keeps ..) ?_ ?_
    | refine .via (by with_reducible exact Live.raise_keeps ..) ?_ ?_
    | refine .via (by with_reducible exact Live.count_keeps ..) ?_ ?_
    | refine .via (by with_reducible exact Live.setSource_keeps ..) ?_ ?_
    | with_reducible refine .ite ?_ ?_
    | dsimp only
    | split

theorem Live.asrcSlip_keeps (l : Live) (tx : Bool) (i : Nat) (high : Bool) : Keeps [.store, .audio, .events] l (Live.asrcSlip l tx i high) := by
  unfold Live.asrcSlip
  repeat' first
    | exact (rfl : true = true)
    | with_reducible exact .refl _ _
    | refine .via (by with_reducible exact Live.setAesTx_keeps ..) ?_ ?_
    | refine .via (by with_reducible exact Live.setAesRx_keeps ..) ?_ ?_
    | refine .via (by with_reducible exact Live.count_keeps ..) ?_ ?_
    | refine .via (by with_reducible exact Live.sourceFault_keeps ..) ?_ ?_
    | refine .via (by with_reducible exact Live.raise_keeps ..) ?_ ?_
    | with_reducible refine .ite ?_ ?_
    | dsimp only
    | with_reducible refine .forL (fun l x => ?_) ?_
    | with_reducible refine .when (fun l => ?_) ?_
    | refine .of2 (by assumption) ?_
    | refine .of22 (by assumption) ?_
    | refine .of1 (by assumption) ?_
    | split

theorem Live.csBlock_keeps (l : Live) (r : Nat) (b : Bool) (cs user : List Byte) : Keeps [.store, .audio, .events] l (Live.csBlock l r b cs user) := by
  unfold Live.csBlock
  repeat' first
    | exact (rfl : true = true)
    | with_reducible exact .refl _ _
    | refine .via (by with_reducible exact Live.mark_keeps ..) ?_ ?_
    | refine .via (by with_reducible exact Live.count_keeps ..) ?_ ?_
    | refine .via (by with_reducible exact Live.setAesRx_keeps ..) ?_ ?_
    | refine .via (by with_reducible exact Live.raise_keeps ..) ?_ ?_
    | with_reducible refine .ite ?_ ?_
    | dsimp only
    | split

theorem Live.frameSent_keeps (l : Live) (t take : Nat) : Keeps [.store, .audio] l (Live.frameSent l t take) := by
  unfold Live.frameSent
  repeat' first
    | exact (rfl : true = true)
    | with_reducible exact .refl _ _
    | refine .via (by with_reducible exact Live.setAesTx_keeps ..) ?_ ?_
    | refine .via (by with_reducible exact Live.wr_keeps ..) ?_ ?_
    | with_reducible refine .ite ?_ ?_
    | dsimp only
    | split

theorem Live.packetsFree_keeps (l : Live) : Keeps [.store, .bpm, .audio, .events] l (Live.packetsFree l) := by
  unfold Live.packetsFree
  repeat' first
    | exact (rfl : true = true)
    | with_reducible exact .refl _ _
    | refine .via (by with_reducible exact Live.freeHandle_keeps ..) ?_ ?_
    | refine .via (by with_reducible exact Live.setAudio_keeps ..) ?_ ?_
    | dsimp only
    | with_reducible refine .forL (fun l x => ?_) ?_

theorem Live.ringPush_keeps (l : Live) (i : Nat) (xs : List Int) : Keeps [.audio] l (Live.ringPush l i xs) := by
  unfold Live.ringPush
  repeat' first
    | exact (rfl : true = true)
    | with_reducible exact .refl _ _
    | refine .via (by with_reducible exact Live.setAudio_keeps ..) ?_ ?_
    | with_reducible refine .ite ?_ ?_
    | dsimp only
    | split

theorem Live.rxSense_keeps (l : Live) (r state rate hz : Nat) : Keeps [.audio] l (Live.rxSense l r state rate hz) := by
  unfold Live.rxSense
  repeat' first
    | exact (rfl : true = true)
    | with_reducible exact .refl _ _
    | refine .via (by with_reducible exact Live.setAesRx_keeps ..) ?_ ?_
    | dsimp only

theorem Live.rxTake_keeps (l : Live) (takes : List Nat) : Keeps [.audio] l (Live.rxTake l takes) := by
  unfold Live.rxTake
  repeat' first
    | exact (rfl : true = true)
    | with_reducible exact .refl _ _
    | refine .via (by with_reducible exact Live.setAesRx_keeps ..) ?_ ?_
    | dsimp only
    | with_reducible refine .forN (fun l x => ?_) ?_

theorem Live.sourceSlot_keeps (l : Live) (s : Nat) : Keeps [.store, .audio, .events] l (Live.sourceSlot l s).2 := by
  unfold Live.sourceSlot
  repeat' first
    | exact (rfl : true = true)
    | with_reducible exact .refl _ _
    | refine .via (by with_reducible exact Live.setSource_keeps ..) ?_ ?_
    | refine .via (by with_reducible exact Live.sourceFault_keeps ..) ?_ ?_
    | refine .via (by with_reducible exact Live.count_keeps ..) ?_ ?_
    | refine .via (by with_reducible exact Live.showFade_keeps ..) ?_ ?_
    | with_reducible refine .ite ?_ ?_
    | with_reducible refine .ite2 ?_ ?_
    | dsimp only
    | refine .of2 (by assumption) ?_
    | refine .of22 (by assumption) ?_
    | refine .of1 (by assumption) ?_
    | split

theorem Live.sourceSlots_keeps (l : Live) : Keeps [.store, .audio, .events] l (Live.sourceSlots l).2 := by
  unfold Live.sourceSlots
  repeat' first
    | exact (rfl : true = true)
    | with_reducible exact .refl _ _
    | refine .via (by with_reducible exact Live.sourceSlot_keeps ..) ?_ ?_
    | dsimp only
    | with_reducible refine .foldl (fun l x => ?_) _ _ ?_
    | with_reducible refine .foldl2 (fun l x => ?_) _ _ ?_
    | with_reducible refine .foldl1 (fun l x => ?_) _ _ ?_

theorem Live.sinkSlot_keeps (l : Live) (k : Nat) (xs : List Int) (missed : Bool) : Keeps [.store, .audio, .events] l (Live.sinkSlot l k xs missed) := by
  unfold Live.sinkSlot
  repeat' first
    | exact (rfl : true = true)
    | with_reducible exact .refl _ _
    | refine .via (by with_reducible exact Live.blk_keeps ..) ?_ ?_
    | refine .via (by with_reducible exact Live.mark_keeps ..) ?_ ?_
    | refine .via (by with_reducible exact Live.count_keeps ..) ?_ ?_
    | refine .via (by with_reducible exact Live.setSink_keeps ..) ?_ ?_
    | refine .via (by with_reducible exact Live.setAesTx_keeps ..) ?_ ?_
    | with_reducible refine .ite ?_ ?_
    | dsimp only
    | with_reducible refine .foldl (fun l x => ?_) _ _ ?_
    | with_reducible refine .foldl2 (fun l x => ?_) _ _ ?_
    | with_reducible refine .foldl1 (fun l x => ?_) _ _ ?_
    | split

theorem Live.sampleSlot_keeps (l : Live) (takes : List Nat) (misses : Nat) : Keeps [.store, .bpm, .audio, .events] l (Live.sampleSlot l takes misses) := by
  unfold Live.sampleSlot
  repeat' first
    | exact (rfl : true = true)
    | with_reducible exact .refl _ _
    | refine .via (by with_reducible exact Live.sourceSlots_keeps ..) ?_ ?_
    | refine .via (by with_reducible exact Live.rxTake_keeps ..) ?_ ?_
    | refine .via (by with_reducible exact Live.ringPush_keeps ..) ?_ ?_
    | refine .via (by with_reducible exact Live.sinkSlot_keeps ..) ?_ ?_
    | refine .via (by with_reducible exact Live.packetsFree_keeps ..) ?_ ?_
    | refine .via (by with_reducible exact Live.setAudio_keeps ..) ?_ ?_
    | with_reducible refine .ite ?_ ?_
    | dsimp only
    | with_reducible refine .forN (fun l x => ?_) ?_
    | split

theorem Live.subframe_keeps (l : Live) (r : Nat) (b : Bool) (raw : Nat) (validity parity biphase : Bool) : Keeps [.store, .audio, .events] l (Live.subframe l r b raw validity parity biphase) := by
  unfold Live.subframe
  repeat' first
    | exact (rfl : true = true)
    | with_reducible exact .refl _ _
    | refine .via (by with_reducible exact Live.mark_keeps ..) ?_ ?_
    | refine .via (by with_reducible exact Live.count_keeps ..) ?_ ?_
    | refine .via (by with_reducible exact Live.setAesRx_keeps ..) ?_ ?_
    | with_reducible refine .ite ?_ ?_
    | dsimp only
    | split

end Sys2Proof.Machine
end

