-- ==== Sys2Proof/Laws/Ports.lean ====
section
/-! SUPPORT. What the operations of Machine/Ports.lean may change. -/

namespace Sys2Proof.Machine

open Sys2Proof

theorem Live.cutTx_keeps (l : Live) (p : Nat) : Keeps [.plane] l (Live.cutTx l p) := by
  unfold Live.cutTx
  repeat' first
    | exact (rfl : true = true)
    | with_reducible exact .refl _ _
    | refine .via (by with_reducible exact Live.setPort_keeps ..) ?_ ?_
    | dsimp only

theorem Live.linkTo_keeps (l : Live) (p new : Nat) : Keeps [.store, .plane, .events] l (Live.linkTo l p new) := by
  unfold Live.linkTo
  repeat' first
    | exact (rfl : true = true)
    | with_reducible exact .refl _ _
    | refine .via (by with_reducible exact Live.raise_keeps ..) ?_ ?_
    | refine .via (by with_reducible exact Live.count_keeps ..) ?_ ?_
    | refine .via (by with_reducible exact Live.wr_keeps ..) ?_ ?_
    | refine .via (by with_reducible exact Live.wrV_keeps ..) ?_ ?_
    | with_reducible refine .ite ?_ ?_
    | dsimp only
    | split

theorem Live.neighbourLost_keeps (l : Live) (p slot : Nat) : Keeps [.store, .plane, .events] l (Live.neighbourLost l p slot) := by
  unfold Live.neighbourLost
  repeat' first
    | exact (rfl : true = true)
    | with_reducible exact .refl _ _
    | refine .via (by with_reducible exact Live.raise_keeps ..) ?_ ?_
    | refine .via (by with_reducible exact Live.setPort_keeps ..) ?_ ?_
    | dsimp only
    | refine .of2 (by assumption) ?_
    | refine .of22 (by assumption) ?_
    | refine .of1 (by assumption) ?_
    | split

theorem Live.neighboursGone_keeps (l : Live) (p : Nat) : Keeps [.store, .plane, .events] l (Live.neighboursGone l p) := by
  unfold Live.neighboursGone
  repeat' first
    | exact (rfl : true = true)
    | with_reducible exact .refl _ _
    | refine .via (by with_reducible exact Live.neighbourLost_keeps ..) ?_ ?_
    | dsimp only
    | with_reducible refine .forN (fun l x => ?_) ?_

theorem Live.setPause_keeps (l : Live) (p q t : Nat) : Keeps [.store, .plane] l (Live.setPause l p q t) := by
  unfold Live.setPause
  repeat' first
    | exact (rfl : true = true)
    | with_reducible exact .refl _ _
    | refine .via (by with_reducible exact Live.setPort_keeps ..) ?_ ?_
    | refine .via (by with_reducible exact Live.wr_keeps ..) ?_ ?_
    | with_reducible refine .ite ?_ ?_
    | dsimp only
    | split

theorem Live.clearPauses_keeps (l : Live) (p : Nat) : Keeps [.store, .plane] l (Live.clearPauses l p) := by
  unfold Live.clearPauses
  repeat' first
    | exact (rfl : true = true)
    | with_reducible exact .refl _ _
    | refine .via (by with_reducible exact Live.setPause_keeps ..) ?_ ?_
    | refine .via (by with_reducible exact Live.wr_keeps ..) ?_ ?_
    | with_reducible refine .ite ?_ ?_
    | dsimp only
    | with_reducible refine .forN (fun l x => ?_) ?_
    | split

theorem Live.flushOnDown_keeps (l : Live) (p : Nat) : Keeps [.plane] l (Live.flushOnDown l p) := by
  unfold Live.flushOnDown
  repeat' first
    | exact (rfl : true = true)
    | with_reducible exact .refl _ _
    | refine .via (by with_reducible exact Live.setFwd_keeps ..) ?_ ?_
    | refine .via (by with_reducible exact Live.queueFlush_keeps ..) ?_ ?_
    | with_reducible refine .ite ?_ ?_
    | dsimp only
    | split

theorem Live.leaveLink_keeps (l : Live) (p new : Nat) : Keeps [.store, .plane, .events, .recoveries] l (Live.leaveLink l p new) := by
  unfold Live.leaveLink
  repeat' first
    | exact (rfl : true = true)
    | with_reducible exact .refl _ _
    | refine .via (by with_reducible exact Live.setPort_keeps ..) ?_ ?_
    | refine .via (by with_reducible exact Live.linkTo_keeps ..) ?_ ?_
    | refine .via (by with_reducible exact Live.neighboursGone_keeps ..) ?_ ?_
    | refine .via (by with_reducible exact Live.clearPauses_keeps ..) ?_ ?_
    | refine .via (by with_reducible exact Live.wr_keeps ..) ?_ ?_
    | refine .via (by with_reducible exact Live.flushOnDown_keeps ..) ?_ ?_
    | refine .via (by with_reducible exact Live.recoveriesCut_keeps ..) ?_ ?_
    | dsimp only

theorem Live.leaveUp_keeps (l : Live) (p new : Nat) : Keeps [.store, .plane, .events, .recoveries] l (Live.leaveUp l p new) := by
  unfold Live.leaveUp
  repeat' first
    | exact (rfl : true = true)
    | with_reducible exact .refl _ _
    | refine .via (by with_reducible exact Live.headDiscards_keeps ..) ?_ ?_
    | refine .via (by with_reducible exact Live.cutTx_keeps ..) ?_ ?_
    | refine .via (by with_reducible exact Live.leaveLink_keeps ..) ?_ ?_
    | dsimp only

theorem Live.linkRest_keeps (l : Live) (p new : Nat) : Keeps [.store, .plane, .events, .recoveries] l (Live.linkRest l p new) := by
  unfold Live.linkRest
  repeat' first
    | exact (rfl : true = true)
    | with_reducible exact .refl _ _
    | refine .via (by with_reducible exact Live.leaveUp_keeps ..) ?_ ?_
    | refine .via (by with_reducible exact Live.clearPauses_keeps ..) ?_ ?_
    | refine .via (by with_reducible exact Live.linkTo_keeps ..) ?_ ?_
    | with_reducible refine .ite ?_ ?_
    | dsimp only
    | split

theorem Live.linkSettle_keeps (l : Live) (p : Nat) : Keeps [.store, .plane, .events, .recoveries] l (Live.linkSettle l p) := by
  unfold Live.linkSettle
  repeat' first
    | exact (rfl : true = true)
    | with_reducible exact .refl _ _
    | refine .via (by with_reducible exact Live.linkRest_keeps ..) ?_ ?_
    | with_reducible refine .ite ?_ ?_
    | dsimp only
    | split

theorem Live.endSuppression_keeps (l : Live) (p : Nat) : Keeps [.store, .plane, .events, .recoveries] l (Live.endSuppression l p) := by
  unfold Live.endSuppression
  repeat' first
    | exact (rfl : true = true)
    | with_reducible exact .refl _ _
    | refine .via (by with_reducible exact Live.setPort_keeps ..) ?_ ?_
    | refine .via (by with_reducible exact Live.wr_keeps ..) ?_ ?_
    | refine .via (by with_reducible exact Live.linkRest_keeps ..) ?_ ?_
    | with_reducible refine .ite ?_ ?_
    | dsimp only
    | split

theorem Live.portEnabled_keeps (l : Live) (p : Nat) : Keeps [.store, .plane, .events, .recoveries] l (Live.portEnabled l p) := by
  unfold Live.portEnabled
  repeat' first
    | exact (rfl : true = true)
    | with_reducible exact .refl _ _
    | refine .via (by with_reducible exact Live.setPort_keeps ..) ?_ ?_
    | refine .via (by with_reducible exact Live.wr_keeps ..) ?_ ?_
    | refine .via (by with_reducible exact Live.linkSettle_keeps ..) ?_ ?_
    | refine .via (by with_reducible exact Live.endSuppression_keeps ..) ?_ ?_
    | with_reducible refine .ite ?_ ?_
    | dsimp only
    | split

theorem Live.renegotiate_keeps (l : Live) (p : Nat) : Keeps [.store, .plane, .events, .recoveries] l (Live.renegotiate l p) := by
  unfold Live.renegotiate
  repeat' first
    | exact (rfl : true = true)
    | with_reducible exact .refl _ _
    | refine .via (by with_reducible exact Live.leaveUp_keeps ..) ?_ ?_
    | with_reducible refine .ite ?_ ?_
    | dsimp only
    | split

theorem Live.pfcApply_keeps (l : Live) (p : Nat) : Keeps [.store, .plane, .events] l (Live.pfcApply l p) := by
  unfold Live.pfcApply
  repeat' first
    | exact (rfl : true = true)
    | with_reducible exact .refl _ _
    | refine .via (by with_reducible exact Live.pfcEval_keeps ..) ?_ ?_
    | dsimp only
    | with_reducible refine .forN (fun l x => ?_) ?_

theorem Live.decayPort_keeps (l : Live) (p : Nat) : Keeps [.store, .plane, .events, .recoveries] l (Live.decayPort l p) := by
  unfold Live.decayPort
  repeat' first
    | exact (rfl : true = true)
    | with_reducible exact .refl _ _
    | refine .via (by with_reducible exact Live.wr_keeps ..) ?_ ?_
    | refine .via (by with_reducible exact Live.linkRest_keeps ..) ?_ ?_
    | refine .via (by with_reducible exact Live.setPort_keeps ..) ?_ ?_
    | with_reducible refine .ite ?_ ?_
    | dsimp only
    | split

theorem Live.penaltyDecay_keeps (l : Live) : Keeps [.store, .plane, .events, .recoveries] l (Live.penaltyDecay l) := by
  unfold Live.penaltyDecay
  repeat' first
    | exact (rfl : true = true)
    | with_reducible exact .refl _ _
    | refine .via (by with_reducible exact Live.setPlane_keeps ..) ?_ ?_
    | refine .via (by with_reducible exact Live.decayPort_keeps ..) ?_ ?_
    | with_reducible refine .ite ?_ ?_
    | dsimp only
    | with_reducible refine .forN (fun l x => ?_) ?_
    | split

theorem Live.txRelease_keeps (l : Live) (u : Nat) : Keeps [.plane] l (Live.txRelease l u) := by
  unfold Live.txRelease
  repeat' first
    | exact (rfl : true = true)
    | with_reducible exact .refl _ _
    | refine .via (by with_reducible exact Live.setPort_keeps ..) ?_ ?_
    | with_reducible refine .ite ?_ ?_
    | dsimp only
    | refine .of2 (by assumption) ?_
    | refine .of22 (by assumption) ?_
    | refine .of1 (by assumption) ?_
    | split

theorem Live.neighbourAged_keeps (l : Live) (p slot : Nat) : Keeps [.store, .plane, .events] l (Live.neighbourAged l p slot) := by
  unfold Live.neighbourAged
  repeat' first
    | exact (rfl : true = true)
    | with_reducible exact .refl _ _
    | refine .via (by with_reducible exact Live.neighbourLost_keeps ..) ?_ ?_
    | with_reducible refine .ite ?_ ?_
    | dsimp only
    | refine .of2 (by assumption) ?_
    | refine .of22 (by assumption) ?_
    | refine .of1 (by assumption) ?_
    | split

theorem Live.stormClear_keeps (l : Live) (p q : Nat) : Keeps [.store, .plane, .events, .recoveries] l (Live.stormClear l p q) := by
  unfold Live.stormClear
  repeat' first
    | exact (rfl : true = true)
    | with_reducible exact .refl _ _
    | refine .via (by with_reducible exact Live.journalRecoveries_keeps ..) ?_ ?_
    | refine .via (by with_reducible exact Live.recoveryDone_keeps ..) ?_ ?_
    | refine .via (by with_reducible exact Live.kick_keeps ..) ?_ ?_
    | refine .via (by with_reducible exact Live.raise_keeps ..) ?_ ?_
    | refine .via (by with_reducible exact Live.wr_keeps ..) ?_ ?_
    | with_reducible refine .ite ?_ ?_
    | dsimp only
    | split

theorem Live.setStormBeats_keeps (l : Live) (p q n : Nat) : Keeps [.store] l (Live.setStormBeats l p q n) := by
  unfold Live.setStormBeats
  repeat' first
    | exact (rfl : true = true)
    | with_reducible exact .refl _ _
    | refine .via (by with_reducible exact Live.wr_keeps ..) ?_ ?_
    | dsimp only

theorem Live.stormTrip_keeps (l : Live) (p q : Nat) : Keeps [.store, .plane, .events, .recoveries] l (Live.stormTrip l p q) := by
  unfold Live.stormTrip
  repeat' first
    | exact (rfl : true = true)
    | with_reducible exact .refl _ _
    | refine .via (by with_reducible exact Live.count_keeps ..) ?_ ?_
    | refine .via (by with_reducible exact Live.wr_keeps ..) ?_ ?_
    | refine .via (by with_reducible exact Live.recoveryStart_keeps ..) ?_ ?_
    | refine .via (by with_reducible exact Live.setPause_keeps ..) ?_ ?_
    | refine .via (by with_reducible exact Live.setStormBeats_keeps ..) ?_ ?_
    | refine .via (by with_reducible exact Live.kick_keeps ..) ?_ ?_
    | refine .via (by with_reducible exact Live.raise_keeps ..) ?_ ?_
    | with_reducible refine .ite ?_ ?_
    | dsimp only
    | split

theorem Live.stormCount_keeps (l : Live) : Keeps [.store, .plane] l (Live.stormCount l) := by
  unfold Live.stormCount
  repeat' first
    | exact (rfl : true = true)
    | with_reducible exact .refl _ _
    | refine .via (by with_reducible exact Live.setStormBeats_keeps ..) ?_ ?_
    | refine .via (by with_reducible exact Live.setPort_keeps ..) ?_ ?_
    | with_reducible refine .ite ?_ ?_
    | dsimp only
    | with_reducible refine .forN (fun l x => ?_) ?_
    | split

theorem Live.flap_keeps (l : Live) (p : Nat) : Keeps [.store] l (Live.flap l p).2 := by
  unfold Live.flap
  repeat' first
    | exact (rfl : true = true)
    | with_reducible exact .refl _ _
    | refine .via (by with_reducible exact Live.wr_keeps ..) ?_ ?_
    | with_reducible refine .ite ?_ ?_
    | with_reducible refine .ite2 ?_ ?_
    | dsimp only
    | split

theorem Live.linkLost_keeps (l : Live) (p : Nat) : Keeps [.store, .plane, .events, .recoveries] l (Live.linkLost l p) := by
  unfold Live.linkLost
  repeat' first
    | exact (rfl : true = true)
    | with_reducible exact .refl _ _
    | refine .via (by with_reducible exact Live.flap_keeps ..) ?_ ?_
    | refine .via (by with_reducible exact Live.setPort_keeps ..) ?_ ?_
    | refine .via (by with_reducible exact Live.leaveUp_keeps ..) ?_ ?_
    | with_reducible refine .ite ?_ ?_
    | dsimp only
    | split

theorem Live.txFault_keeps (l : Live) (p : Nat) : Keeps [.store, .plane, .events, .recoveries] l (Live.txFault l p) := by
  unfold Live.txFault
  repeat' first
    | exact (rfl : true = true)
    | with_reducible exact .refl _ _
    | refine .via (by with_reducible exact Live.setPort_keeps ..) ?_ ?_
    | refine .via (by with_reducible exact Live.wr_keeps ..) ?_ ?_
    | refine .via (by with_reducible exact Live.linkRest_keeps ..) ?_ ?_
    | refine .via (by with_reducible exact Live.linkLost_keeps ..) ?_ ?_
    | with_reducible refine .ite ?_ ?_
    | dsimp only
    | split

theorem Live.sampleFaults_keeps (l : Live) : Keeps [.store, .plane, .events, .recoveries] l (Live.sampleFaults l) := by
  unfold Live.sampleFaults
  repeat' first
    | exact (rfl : true = true)
    | with_reducible exact .refl _ _
    | refine .via (by with_reducible exact Live.txFault_keeps ..) ?_ ?_
    | refine .via (by with_reducible exact Live.setPort_keeps ..) ?_ ?_
    | with_reducible refine .ite ?_ ?_
    | dsimp only
    | with_reducible refine .forN (fun l x => ?_) ?_
    | split

theorem Live.linkComes_keeps (l : Live) (p partner fec : Nat) : Keeps [.store, .plane, .events] l (Live.linkComes l p partner fec) := by
  unfold Live.linkComes
  repeat' first
    | exact (rfl : true = true)
    | with_reducible exact .refl _ _
    | refine .via (by with_reducible exact Live.wr_keeps ..) ?_ ?_
    | refine .via (by with_reducible exact Live.kick_keeps ..) ?_ ?_
    | refine .via (by with_reducible exact Live.linkTo_keeps ..) ?_ ?_
    | refine .via (by with_reducible exact Live.setPort_keeps ..) ?_ ?_
    | with_reducible refine .ite ?_ ?_
    | dsimp only
    | split

theorem Live.sampleLinks_keeps (l : Live) : Keeps [.store, .plane, .events, .recoveries] l (Live.sampleLinks l) := by
  unfold Live.sampleLinks
  repeat' first
    | exact (rfl : true = true)
    | with_reducible exact .refl _ _
    | refine .via (by with_reducible exact Live.setPort_keeps ..) ?_ ?_
    | refine .via (by with_reducible exact Live.linkComes_keeps ..) ?_ ?_
    | refine .via (by with_reducible exact Live.linkLost_keeps ..) ?_ ?_
    | with_reducible refine .ite ?_ ?_
    | dsimp only
    | with_reducible refine .forN (fun l x => ?_) ?_
    | refine .of2 (by assumption) ?_
    | refine .of22 (by assumption) ?_
    | refine .of1 (by assumption) ?_
    | split

theorem Live.moduleArrives_keeps (l : Live) (u : Nat) : Keeps [.store, .plane, .events] l (Live.moduleArrives l u) := by
  unfold Live.moduleArrives
  repeat' first
    | exact (rfl : true = true)
    | with_reducible exact .refl _ _
    | refine .via (by with_reducible exact Live.raise_keeps ..) ?_ ?_
    | refine .via (by with_reducible exact Live.wr_keeps ..) ?_ ?_
    | refine .via (by with_reducible exact Live.setPort_keeps ..) ?_ ?_
    | dsimp only

theorem Live.firmwareSend_keeps (l : Live) (p tn : Nat) (vlan : Option Nat) (bytes : List Byte) : Keeps [.store, .plane, .events] l (Live.firmwareSend l p tn vlan bytes) := by
  unfold Live.firmwareSend
  repeat' first
    | exact (rfl : true = true)
    | with_reducible exact .refl _ _
    | refine .via (by with_reducible exact Live.enterFabric_keeps ..) ?_ ?_
    | dsimp only
    | refine .of2 (by assumption) ?_
    | refine .of22 (by assumption) ?_
    | refine .of1 (by assumption) ?_
    | split

theorem Live.holdFrame_keeps (l : Live) (p : Nat) : Keeps [.modes] l (Live.holdFrame l p) := by
  unfold Live.holdFrame
  repeat' first
    | exact (rfl : true = true)
    | with_reducible exact .refl _ _
    | dsimp only
    | refine .of2 (by assumption) ?_
    | refine .of22 (by assumption) ?_
    | refine .of1 (by assumption) ?_
    | split
    | with_reducible refine .modes ?_ rfl ?_

theorem Live.moduleRejected_keeps (l : Live) (p : Nat) : Keeps [.store, .plane, .events, .recoveries] l (Live.moduleRejected l p) := by
  unfold Live.moduleRejected
  repeat' first
    | exact (rfl : true = true)
    | with_reducible exact .refl _ _
    | refine .via (by with_reducible exact Live.linkSettle_keeps ..) ?_ ?_
    | refine .via (by with_reducible exact Live.raise_keeps ..) ?_ ?_
    | refine .via (by with_reducible exact Live.wr_keeps ..) ?_ ?_
    | dsimp only

theorem Live.identify_keeps (l : Live) (p : Nat) (ok : Bool) (id : List Byte) : Keeps [.store, .plane, .events, .recoveries] l (Live.identify l p ok id) := by
  unfold Live.identify
  repeat' first
    | exact (rfl : true = true)
    | with_reducible exact .refl _ _
    | refine .via (by with_reducible exact Live.wr_keeps ..) ?_ ?_
    | refine .via (by with_reducible exact Live.linkSettle_keeps ..) ?_ ?_
    | refine .via (by with_reducible exact Live.setPort_keeps ..) ?_ ?_
    | refine .via (by with_reducible exact Live.moduleRejected_keeps ..) ?_ ?_
    | with_reducible refine .ite ?_ ?_
    | dsimp only
    | split

theorem Live.lldpReceived_keeps (l : Live) (p mac : Nat) (pdu : List Byte) : Keeps [.store, .plane, .events] l (Live.lldpReceived l p mac pdu) := by
  unfold Live.lldpReceived
  repeat' first
    | exact (rfl : true = true)
    | with_reducible exact .refl _ _
    | refine .via (by with_reducible exact Live.neighbourLost_keeps ..) ?_ ?_
    | refine .via (by with_reducible exact Live.setPort_keeps ..) ?_ ?_
    | refine .via (by with_reducible exact Live.raise_keeps ..) ?_ ?_
    | refine .via (by with_reducible exact Live.count_keeps ..) ?_ ?_
    | with_reducible refine .ite ?_ ?_
    | dsimp only
    | refine .of2 (by assumption) ?_
    | refine .of22 (by assumption) ?_
    | refine .of1 (by assumption) ?_
    | split

theorem Live.macDiscard_keeps (l : Live) (p : Nat) (o : Obj) : Keeps [.store, .events] l (Live.macDiscard l p o) := by
  unfold Live.macDiscard
  repeat' first
    | exact (rfl : true = true)
    | with_reducible exact .refl _ _
    | refine .via (by with_reducible exact Live.blk_keeps ..) ?_ ?_
    | refine .via (by with_reducible exact Live.count_keeps ..) ?_ ?_
    | dsimp only

theorem Live.moduleRemoved_keeps (l : Live) (p : Nat) : Keeps [.store, .plane, .events, .recoveries] l (Live.moduleRemoved l p) := by
  unfold Live.moduleRemoved
  repeat' first
    | exact (rfl : true = true)
    | with_reducible exact .refl _ _
    | refine .via (by with_reducible exact Live.setPort_keeps ..) ?_ ?_
    | refine .via (by with_reducible exact Live.wr_keeps ..) ?_ ?_
    | refine .via (by with_reducible exact Live.raise_keeps ..) ?_ ?_
    | refine .via (by with_reducible exact Live.linkRest_keeps ..) ?_ ?_
    | with_reducible refine .ite ?_ ?_
    | dsimp only
    | split

theorem Live.pfcReceived_keeps (l : Live) (p : Nat) (f : List Byte) : Keeps [.store, .plane, .events] l (Live.pfcReceived l p f) := by
  unfold Live.pfcReceived
  repeat' first
    | exact (rfl : true = true)
    | with_reducible exact .refl _ _
    | refine .via (by with_reducible exact Live.blk_keeps ..) ?_ ?_
    | refine .via (by with_reducible exact Live.count_keeps ..) ?_ ?_
    | refine .via (by with_reducible exact Live.setPause_keeps ..) ?_ ?_
    | refine .via (by with_reducible exact Live.kick_keeps ..) ?_ ?_
    | dsimp only
    | with_reducible refine .forL (fun l x => ?_) ?_

theorem Live.receiveFrame_keeps (l : Live) (p : Nat) (f : List Byte) (phyError noRoom : Bool) (age ts : Nat) : Keeps [.store, .beat, .plane, .events] l (Live.receiveFrame l p f phyError noRoom age ts) := by
  unfold Live.receiveFrame
  repeat' first
    | exact (rfl : true = true)
    | with_reducible exact .refl _ _
    | refine .via (by with_reducible exact Live.blk_keeps ..) ?_ ?_
    | refine .via (by with_reducible exact Live.mark_keeps ..) ?_ ?_
    | refine .via (by with_reducible exact Live.macDiscard_keeps ..) ?_ ?_
    | refine .via (by with_reducible exact Live.pfcReceived_keeps ..) ?_ ?_
    | refine .via (by with_reducible exact Live.count_keeps ..) ?_ ?_
    | refine .via (by with_reducible exact Live.classify_keeps ..) ?_ ?_
    | with_reducible refine .ite ?_ ?_
    | dsimp only
    | split

end Sys2Proof.Machine
end

