-- ==== Sys2Proof/Laws/Power.lean ====
section
/-! SUPPORT. What the operations of Machine/Power.lean may change. -/

namespace Sys2Proof.Machine

open Sys2Proof

theorem Live.setPower_keeps (l : Live) (f : Power → Power) : Keeps [.power] l (Live.setPower l f) := by
  unfold Live.setPower
  repeat' first
    | exact (rfl : true = true)
    | with_reducible exact .refl _ _
    | dsimp only
    | with_reducible refine .power ?_ ?_

theorem Live.setToken_keeps (l : Live) (r v : Nat) : Keeps [.store] l (Live.setToken l r v) := by
  unfold Live.setToken
  repeat' first
    | exact (rfl : true = true)
    | with_reducible exact .refl _ _
    | refine .via (by with_reducible exact Live.wr_keeps ..) ?_ ?_
    | dsimp only

theorem Live.siliconRelease_keeps (l : Live) (r : Nat) : Keeps [.store, .power] l (Live.siliconRelease l r) := by
  unfold Live.siliconRelease
  repeat' first
    | exact (rfl : true = true)
    | with_reducible exact .refl _ _
    | refine .via (by with_reducible exact Live.setPower_keeps ..) ?_ ?_
    | refine .via (by with_reducible exact Live.setToken_keeps ..) ?_ ?_
    | with_reducible refine .ite ?_ ?_
    | dsimp only
    | split

theorem Live.poeEnabled_keeps (l : Live) (k : Nat) : Keeps [.store] l (Live.poeEnabled l k) := by
  unfold Live.poeEnabled
  repeat' first
    | exact (rfl : true = true)
    | with_reducible exact .refl _ _
    | refine .via (by with_reducible exact Live.wr_keeps ..) ?_ ?_
    | dsimp only

theorem Live.setPse_keeps (l : Live) (k : Nat) (f : Pse → Pse) : Keeps [.power] l (Live.setPse l k f) := by
  unfold Live.setPse
  repeat' first
    | exact (rfl : true = true)
    | with_reducible exact .refl _ _
    | refine .via (by with_reducible exact Live.setPower_keeps ..) ?_ ?_
    | dsimp only

theorem Live.poeTo_keeps (l : Live) (k state reason : Nat) : Keeps [.store, .power, .events] l (Live.poeTo l k state reason) := by
  unfold Live.poeTo
  repeat' first
    | exact (rfl : true = true)
    | with_reducible exact .refl _ _
    | refine .via (by with_reducible exact Live.wr_keeps ..) ?_ ?_
    | refine .via (by with_reducible exact Live.setPse_keeps ..) ?_ ?_
    | refine .via (by with_reducible exact Live.raise_keeps ..) ?_ ?_
    | with_reducible refine .ite ?_ ?_
    | dsimp only
    | split

theorem Live.setModule_keeps (l : Live) (b : Nat) (f : Module → Module) : Keeps [.power] l (Live.setModule l b f) := by
  unfold Live.setModule
  repeat' first
    | exact (rfl : true = true)
    | with_reducible exact .refl _ _
    | refine .via (by with_reducible exact Live.setPower_keeps ..) ?_ ?_
    | dsimp only

theorem Live.lineRise_keeps (l : Live) (bay : Nat) : Keeps [.power] l (Live.lineRise l bay) := by
  unfold Live.lineRise
  repeat' first
    | exact (rfl : true = true)
    | with_reducible exact .refl _ _
    | refine .via (by with_reducible exact Live.setModule_keeps ..) ?_ ?_
    | with_reducible refine .ite ?_ ?_
    | dsimp only
    | refine .of2 (by assumption) ?_
    | refine .of22 (by assumption) ?_
    | refine .of1 (by assumption) ?_
    | split

theorem Live.drawSample_keeps (l : Live) (k v : Nat) : Keeps [.power] l (Live.drawSample l k v) := by
  unfold Live.drawSample
  repeat' first
    | exact (rfl : true = true)
    | with_reducible exact .refl _ _
    | refine .via (by with_reducible exact Live.setPse_keeps ..) ?_ ?_
    | with_reducible refine .ite ?_ ?_
    | dsimp only
    | split

theorem Live.sampleDraws_keeps (l : Live) (draws : List (Fin 48 × Nat)) : Keeps [.power] l (Live.sampleDraws l draws) := by
  unfold Live.sampleDraws
  repeat' first
    | exact (rfl : true = true)
    | with_reducible exact .refl _ _
    | refine .via (by with_reducible exact Live.drawSample_keeps ..) ?_ ?_
    | dsimp only
    | with_reducible refine .forN (fun l x => ?_) ?_
    | refine .of2 (by assumption) ?_
    | refine .of22 (by assumption) ?_
    | refine .of1 (by assumption) ?_
    | split

theorem Live.sampleModules_keeps (l : Live) : Keeps [.store, .power] l (Live.sampleModules l) := by
  unfold Live.sampleModules
  repeat' first
    | exact (rfl : true = true)
    | with_reducible exact .refl _ _
    | refine .via (by with_reducible exact Live.wr_keeps ..) ?_ ?_
    | refine .via (by with_reducible exact Live.wrI_keeps ..) ?_ ?_
    | refine .via (by with_reducible exact Live.wrSat_keeps ..) ?_ ?_
    | refine .via (by with_reducible exact Live.setModule_keeps ..) ?_ ?_
    | with_reducible refine .ite ?_ ?_
    | dsimp only
    | with_reducible refine .forN (fun l x => ?_) ?_
    | refine .of2 (by assumption) ?_
    | refine .of22 (by assumption) ?_
    | refine .of1 (by assumption) ?_
    | split

theorem Live.moduleReading_keeps (l : Live) (r : ModuleReport) : Keeps [.power] l (Live.moduleReading l r) := by
  unfold Live.moduleReading
  repeat' first
    | exact (rfl : true = true)
    | with_reducible exact .refl _ _
    | refine .via (by with_reducible exact Live.setModule_keeps ..) ?_ ?_
    | with_reducible refine .ite ?_ ?_
    | dsimp only
    | split

theorem Live.arbiterTotals_keeps (l : Live) : Keeps [.store] l (Live.arbiterTotals l) := by
  unfold Live.arbiterTotals
  repeat' first
    | exact (rfl : true = true)
    | with_reducible exact .refl _ _
    | refine .via (by with_reducible exact Live.wr_keeps ..) ?_ ?_
    | dsimp only

theorem Live.poeAllOff_keeps (l : Live) : Keeps [.store, .power, .events] l (Live.poeAllOff l) := by
  unfold Live.poeAllOff
  repeat' first
    | exact (rfl : true = true)
    | with_reducible exact .refl _ _
    | refine .via (by with_reducible exact Live.arbiterTotals_keeps ..) ?_ ?_
    | refine .via (by with_reducible exact Live.poeTo_keeps ..) ?_ ?_
    | with_reducible refine .ite ?_ ?_
    | dsimp only
    | with_reducible refine .forN (fun l x => ?_) ?_
    | split

theorem Live.poeAdopt_keeps (l : Live) : Keeps [.store, .power, .events] l (Live.poeAdopt l) := by
  unfold Live.poeAdopt
  repeat' first
    | exact (rfl : true = true)
    | with_reducible exact .refl _ _
    | refine .via (by with_reducible exact Live.poeTo_keeps ..) ?_ ?_
    | with_reducible refine .ite ?_ ?_
    | dsimp only
    | with_reducible refine .forN (fun l x => ?_) ?_
    | split

theorem Live.computePool_keeps (l : Live) : Keeps [.store, .events] l (Live.computePool l) := by
  unfold Live.computePool
  repeat' first
    | exact (rfl : true = true)
    | with_reducible exact .refl _ _
    | refine .via (by with_reducible exact Live.wr_keeps ..) ?_ ?_
    | refine .via (by with_reducible exact Live.raise_keeps ..) ?_ ?_
    | with_reducible refine .ite ?_ ?_
    | dsimp only
    | split

theorem Live.powerOn_keeps (l : Live) (k grant : Nat) : Keeps [.store, .power, .events] l (Live.powerOn l k grant) := by
  unfold Live.powerOn
  repeat' first
    | exact (rfl : true = true)
    | with_reducible exact .refl _ _
    | refine .via (by with_reducible exact Live.setPse_keeps ..) ?_ ?_
    | refine .via (by with_reducible exact Live.wr_keeps ..) ?_ ?_
    | refine .via (by with_reducible exact Live.poeTo_keeps ..) ?_ ?_
    | dsimp only

theorem Live.earlyAdmit_keeps (l : Live) (k : Nat) : Keeps [.store, .power, .events] l (Live.earlyAdmit l k) := by
  unfold Live.earlyAdmit
  repeat' first
    | exact (rfl : true = true)
    | with_reducible exact .refl _ _
    | refine .via (by with_reducible exact Live.wr_keeps ..) ?_ ?_
    | refine .via (by with_reducible exact Live.powerOn_keeps ..) ?_ ?_
    | with_reducible refine .ite ?_ ?_
    | dsimp only
    | split

theorem Live.arbiterEarlyBeat_keeps (l : Live) : Keeps [.store, .power, .events] l (Live.arbiterEarlyBeat l) := by
  unfold Live.arbiterEarlyBeat
  repeat' first
    | exact (rfl : true = true)
    | with_reducible exact .refl _ _
    | refine .via (by with_reducible exact Live.computePool_keeps ..) ?_ ?_
    | refine .via (by with_reducible exact Live.arbiterTotals_keeps ..) ?_ ?_
    | refine .via (by with_reducible exact Live.poeTo_keeps ..) ?_ ?_
    | refine .via (by with_reducible exact Live.earlyAdmit_keeps ..) ?_ ?_
    | with_reducible refine .ite ?_ ?_
    | dsimp only
    | with_reducible refine .forL (fun l x => ?_) ?_
    | split

theorem Live.backoffShown_keeps (l : Live) : Keeps [.store, .power] l (Live.backoffShown l) := by
  unfold Live.backoffShown
  repeat' first
    | exact (rfl : true = true)
    | with_reducible exact .refl _ _
    | refine .via (by with_reducible exact Live.wr_keeps ..) ?_ ?_
    | refine .via (by with_reducible exact Live.setPse_keeps ..) ?_ ?_
    | dsimp only
    | with_reducible refine .foldl (fun l x => ?_) _ _ ?_
    | with_reducible refine .foldl2 (fun l x => ?_) _ _ ?_
    | with_reducible refine .foldl1 (fun l x => ?_) _ _ ?_
    | refine .of2 (by assumption) ?_
    | refine .of22 (by assumption) ?_
    | refine .of1 (by assumption) ?_
    | split

theorem Live.shedBudget_keeps (l : Live) (k : Nat) : Keeps [.store, .power, .events] l (Live.shedBudget l k) := by
  unfold Live.shedBudget
  repeat' first
    | exact (rfl : true = true)
    | with_reducible exact .refl _ _
    | refine .via (by with_reducible exact Live.setPower_keeps ..) ?_ ?_
    | refine .via (by with_reducible exact Live.count_keeps ..) ?_ ?_
    | refine .via (by with_reducible exact Live.wr_keeps ..) ?_ ?_
    | refine .via (by with_reducible exact Live.poeTo_keeps ..) ?_ ?_
    | dsimp only

theorem Live.shedForBudget_keeps (l : Live) : Keeps [.store, .power, .events, .recoveries] l (Live.shedForBudget l) := by
  unfold Live.shedForBudget
  repeat' first
    | exact (rfl : true = true)
    | with_reducible exact .refl _ _
    | refine .via (by with_reducible exact Live.setToken_keeps ..) ?_ ?_
    | refine .via (by with_reducible exact Live.raise_keeps ..) ?_ ?_
    | refine .via (by with_reducible exact Live.shedBudget_keeps ..) ?_ ?_
    | refine .via (by with_reducible exact Live.recoveryPeak_keeps ..) ?_ ?_
    | refine .via (by with_reducible exact Live.recoveryStart_keeps ..) ?_ ?_
    | with_reducible refine .ite ?_ ?_
    | dsimp only
    | with_reducible refine .foldl (fun l x => ?_) _ _ ?_
    | with_reducible refine .foldl2 (fun l x => ?_) _ _ ?_
    | with_reducible refine .foldl1 (fun l x => ?_) _ _ ?_
    | split

theorem Live.measuredShown_keeps (l : Live) (k : Nat) : Keeps [.store] l (Live.measuredShown l k) := by
  unfold Live.measuredShown
  repeat' first
    | exact (rfl : true = true)
    | with_reducible exact .refl _ _
    | refine .via (by with_reducible exact Live.wr_keeps ..) ?_ ?_
    | with_reducible refine .ite ?_ ?_
    | dsimp only
    | split

theorem Live.arbiterFreezeBeat_keeps (l : Live) : Keeps [.store, .power, .events, .recoveries] l (Live.arbiterFreezeBeat l) := by
  unfold Live.arbiterFreezeBeat
  repeat' first
    | exact (rfl : true = true)
    | with_reducible exact .refl _ _
    | refine .via (by with_reducible exact Live.computePool_keeps ..) ?_ ?_
    | refine .via (by with_reducible exact Live.arbiterTotals_keeps ..) ?_ ?_
    | refine .via (by with_reducible exact Live.backoffShown_keeps ..) ?_ ?_
    | refine .via (by with_reducible exact Live.shedForBudget_keeps ..) ?_ ?_
    | refine .via (by with_reducible exact Live.setToken_keeps ..) ?_ ?_
    | refine .via (by with_reducible exact Live.measuredShown_keeps ..) ?_ ?_
    | dsimp only
    | with_reducible refine .forN (fun l x => ?_) ?_

theorem Live.portSettings_keeps (l : Live) (k : Nat) : Keeps [.store, .power, .events] l (Live.portSettings l k) := by
  unfold Live.portSettings
  repeat' first
    | exact (rfl : true = true)
    | with_reducible exact .refl _ _
    | refine .via (by with_reducible exact Live.poeTo_keeps ..) ?_ ?_
    | with_reducible refine .ite ?_ ?_
    | dsimp only
    | split

theorem Live.portGrant_keeps (l : Live) (k : Nat) : Keeps [.store, .power] l (Live.portGrant l k) := by
  unfold Live.portGrant
  repeat' first
    | exact (rfl : true = true)
    | with_reducible exact .refl _ _
    | refine .via (by with_reducible exact Live.setPse_keeps ..) ?_ ?_
    | refine .via (by with_reducible exact Live.wr_keeps ..) ?_ ?_
    | refine .via (by with_reducible exact Live.measuredShown_keeps ..) ?_ ?_
    | with_reducible refine .ite ?_ ?_
    | dsimp only
    | split

theorem Live.portRequest_keeps (l : Live) (k : Nat) : Keeps [.store, .power] l (Live.portRequest l k) := by
  unfold Live.portRequest
  repeat' first
    | exact (rfl : true = true)
    | with_reducible exact .refl _ _
    | refine .via (by with_reducible exact Live.setPse_keeps ..) ?_ ?_
    | refine .via (by with_reducible exact Live.wr_keeps ..) ?_ ?_
    | with_reducible refine .ite ?_ ?_
    | dsimp only
    | refine .of2 (by assumption) ?_
    | refine .of22 (by assumption) ?_
    | refine .of1 (by assumption) ?_
    | split

theorem Live.shedCap_keeps (l : Live) (k : Nat) : Keeps [.store, .power, .events] l (Live.shedCap l k) := by
  unfold Live.shedCap
  repeat' first
    | exact (rfl : true = true)
    | with_reducible exact .refl _ _
    | refine .via (by with_reducible exact Live.setPower_keeps ..) ?_ ?_
    | refine .via (by with_reducible exact Live.count_keeps ..) ?_ ?_
    | refine .via (by with_reducible exact Live.setPse_keeps ..) ?_ ?_
    | refine .via (by with_reducible exact Live.poeTo_keeps ..) ?_ ?_
    | dsimp only

theorem Live.tenancyCaps_keeps (l : Live) : Keeps [.store, .power, .events] l (Live.tenancyCaps l) := by
  unfold Live.tenancyCaps
  repeat' first
    | exact (rfl : true = true)
    | with_reducible exact .refl _ _
    | refine .via (by with_reducible exact Live.shedCap_keeps ..) ?_ ?_
    | refine .via (by with_reducible exact Live.raise_keeps ..) ?_ ?_
    | with_reducible refine .ite ?_ ?_
    | dsimp only
    | with_reducible refine .foldl (fun l x => ?_) _ _ ?_
    | with_reducible refine .foldl2 (fun l x => ?_) _ _ ?_
    | with_reducible refine .foldl1 (fun l x => ?_) _ _ ?_
    | split

theorem Live.grantTokens_keeps (l : Live) : Keeps [.store, .power] l (Live.grantTokens l) := by
  unfold Live.grantTokens
  repeat' first
    | exact (rfl : true = true)
    | with_reducible exact .refl _ _
    | refine .via (by with_reducible exact Live.setPower_keeps ..) ?_ ?_
    | refine .via (by with_reducible exact Live.setToken_keeps ..) ?_ ?_
    | with_reducible refine .ite ?_ ?_
    | dsimp only
    | with_reducible refine .foldl (fun l x => ?_) _ _ ?_
    | with_reducible refine .foldl2 (fun l x => ?_) _ _ ?_
    | with_reducible refine .foldl1 (fun l x => ?_) _ _ ?_
    | refine .of2 (by assumption) ?_
    | refine .of22 (by assumption) ?_
    | refine .of1 (by assumption) ?_
    | split

theorem Live.admitPort_keeps (l : Live) (k : Nat) : Keeps [.store, .power, .events] l (Live.admitPort l k) := by
  unfold Live.admitPort
  repeat' first
    | exact (rfl : true = true)
    | with_reducible exact .refl _ _
    | refine .via (by with_reducible exact Live.wr_keeps ..) ?_ ?_
    | refine .via (by with_reducible exact Live.powerOn_keeps ..) ?_ ?_
    | with_reducible refine .ite ?_ ?_
    | dsimp only
    | split

theorem Live.admitPorts_keeps (l : Live) : Keeps [.store, .power, .events] l (Live.admitPorts l) := by
  unfold Live.admitPorts
  repeat' first
    | exact (rfl : true = true)
    | with_reducible exact .refl _ _
    | refine .via (by with_reducible exact Live.admitPort_keeps ..) ?_ ?_
    | with_reducible refine .ite ?_ ?_
    | dsimp only
    | with_reducible refine .foldl (fun l x => ?_) _ _ ?_
    | with_reducible refine .foldl2 (fun l x => ?_) _ _ ?_
    | with_reducible refine .foldl1 (fun l x => ?_) _ _ ?_
    | split

theorem Live.releaseOne_keeps (l : Live) : Keeps [.store, .power, .events] l (Live.releaseOne l) := by
  unfold Live.releaseOne
  repeat' first
    | exact (rfl : true = true)
    | with_reducible exact .refl _ _
    | refine .via (by with_reducible exact Live.raise_keeps ..) ?_ ?_
    | refine .via (by with_reducible exact Live.poeTo_keeps ..) ?_ ?_
    | dsimp only
    | refine .of2 (by assumption) ?_
    | refine .of22 (by assumption) ?_
    | refine .of1 (by assumption) ?_
    | split

theorem Live.arbiterFullBeat_keeps (l : Live) : Keeps [.store, .power, .events, .recoveries] l (Live.arbiterFullBeat l) := by
  unfold Live.arbiterFullBeat
  repeat' first
    | exact (rfl : true = true)
    | with_reducible exact .refl _ _
    | refine .via (by with_reducible exact Live.computePool_keeps ..) ?_ ?_
    | refine .via (by with_reducible exact Live.portSettings_keeps ..) ?_ ?_
    | refine .via (by with_reducible exact Live.portGrant_keeps ..) ?_ ?_
    | refine .via (by with_reducible exact Live.portRequest_keeps ..) ?_ ?_
    | refine .via (by with_reducible exact Live.tenancyCaps_keeps ..) ?_ ?_
    | refine .via (by with_reducible exact Live.shedForBudget_keeps ..) ?_ ?_
    | refine .via (by with_reducible exact Live.setToken_keeps ..) ?_ ?_
    | refine .via (by with_reducible exact Live.grantTokens_keeps ..) ?_ ?_
    | refine .via (by with_reducible exact Live.admitPorts_keeps ..) ?_ ?_
    | refine .via (by with_reducible exact Live.releaseOne_keeps ..) ?_ ?_
    | refine .via (by with_reducible exact Live.arbiterTotals_keeps ..) ?_ ?_
    | refine .via (by with_reducible exact Live.backoffShown_keeps ..) ?_ ?_
    | with_reducible refine .ite ?_ ?_
    | dsimp only
    | with_reducible refine .forN (fun l x => ?_) ?_
    | split

theorem Live.arbiterBeat_keeps (l : Live) : Keeps [.store, .power, .events, .recoveries] l (Live.arbiterBeat l) := by
  unfold Live.arbiterBeat
  repeat' first
    | exact (rfl : true = true)
    | with_reducible exact .refl _ _
    | refine .via (by with_reducible exact Live.arbiterEarlyBeat_keeps ..) ?_ ?_
    | refine .via (by with_reducible exact Live.arbiterFreezeBeat_keeps ..) ?_ ?_
    | refine .via (by with_reducible exact Live.arbiterFullBeat_keeps ..) ?_ ?_
    | dsimp only
    | refine .of2 (by assumption) ?_
    | refine .of22 (by assumption) ?_
    | refine .of1 (by assumption) ?_
    | split

theorem Live.backoffReset_keeps (l : Live) (k : Nat) : Keeps [.store] l (Live.backoffReset l k) := by
  unfold Live.backoffReset
  repeat' first
    | exact (rfl : true = true)
    | with_reducible exact .refl _ _
    | refine .via (by with_reducible exact Live.wr_keeps ..) ?_ ?_
    | with_reducible refine .ite ?_ ?_
    | dsimp only
    | split

theorem Live.poeFault_keeps (l : Live) (k reason : Nat) : Keeps [.store, .power, .events] l (Live.poeFault l k reason) := by
  unfold Live.poeFault
  repeat' first
    | exact (rfl : true = true)
    | with_reducible exact .refl _ _
    | refine .via (by with_reducible exact Live.wr_keeps ..) ?_ ?_
    | refine .via (by with_reducible exact Live.setPse_keeps ..) ?_ ?_
    | refine .via (by with_reducible exact Live.poeTo_keeps ..) ?_ ?_
    | with_reducible refine .ite ?_ ?_
    | dsimp only
    | split

theorem Live.startupFault_keeps (l : Live) (k : Nat) : Keeps [.store, .power, .events] l (Live.startupFault l k) := by
  unfold Live.startupFault
  repeat' first
    | exact (rfl : true = true)
    | with_reducible exact .refl _ _
    | refine .via (by with_reducible exact Live.poeFault_keeps ..) ?_ ?_
    | with_reducible refine .ite ?_ ?_
    | dsimp only
    | split

theorem Live.holdEnds_keeps (l : Live) (k : Nat) : Keeps [.store, .power, .events] l (Live.holdEnds l k) := by
  unfold Live.holdEnds
  repeat' first
    | exact (rfl : true = true)
    | with_reducible exact .refl _ _
    | refine .via (by with_reducible exact Live.wr_keeps ..) ?_ ?_
    | refine .via (by with_reducible exact Live.poeTo_keeps ..) ?_ ?_
    | with_reducible refine .ite ?_ ?_
    | dsimp only
    | refine .of2 (by assumption) ?_
    | refine .of22 (by assumption) ?_
    | refine .of1 (by assumption) ?_
    | split

theorem Live.modulesDark_keeps (l : Live) : Keeps [.power] l (Live.modulesDark l) := by
  unfold Live.modulesDark
  repeat' first
    | exact (rfl : true = true)
    | with_reducible exact .refl _ _
    | refine .via (by with_reducible exact Live.setModule_keeps ..) ?_ ?_
    | with_reducible refine .ite ?_ ?_
    | dsimp only
    | with_reducible refine .forN (fun l x => ?_) ?_
    | split

theorem Live.shutdownRecord_keeps (l : Live) (reason : Nat) : Keeps [.modes] l (Live.shutdownRecord l reason) := by
  unfold Live.shutdownRecord
  repeat' first
    | exact (rfl : true = true)
    | with_reducible exact .refl _ _
    | dsimp only
    | with_reducible refine .modes ?_ rfl ?_

theorem Live.powerFailWarning_keeps (l : Live) (b : Nat) : Keeps [.store, .modes, .power, .events] l (Live.powerFailWarning l b) := by
  unfold Live.powerFailWarning
  repeat' first
    | exact (rfl : true = true)
    | with_reducible exact .refl _ _
    | refine .via (by with_reducible exact Live.raise_keeps ..) ?_ ?_
    | refine .via (by with_reducible exact Live.setModule_keeps ..) ?_ ?_
    | refine .via (by with_reducible exact Live.shutdownRecord_keeps ..) ?_ ?_
    | with_reducible refine .ite ?_ ?_
    | dsimp only
    | split

theorem Live.lastWarning_keeps (l : Live) : Keeps [.store, .modes, .power, .events] l (Live.lastWarning l) := by
  unfold Live.lastWarning
  repeat' first
    | exact (rfl : true = true)
    | with_reducible exact .refl _ _
    | refine .via (by with_reducible exact Live.shutdownRecord_keeps ..) ?_ ?_
    | refine .via (by with_reducible exact Live.powerFailWarning_keeps ..) ?_ ?_
    | with_reducible refine .ite ?_ ?_
    | dsimp only
    | refine .of2 (by assumption) ?_
    | refine .of22 (by assumption) ?_
    | refine .of1 (by assumption) ?_
    | split

theorem Live.mainsRestored_keeps (l : Live) (b : Nat) (dc : Bool) (volts hz : Nat) : Keeps [.modes, .power] l (Live.mainsRestored l b dc volts hz) := by
  unfold Live.mainsRestored
  repeat' first
    | exact (rfl : true = true)
    | with_reducible exact .refl _ _
    | refine .via (by with_reducible exact Live.wakeBy_keeps ..) ?_ ?_
    | refine .via (by with_reducible exact Live.setModule_keeps ..) ?_ ?_
    | with_reducible refine .ite ?_ ?_
    | dsimp only
    | split

theorem Live.psuInserted_keeps (l : Live) (b : Nat) (dc : Bool) (volts hz : Nat) (inlet : Int) (serial : Nat) : Keeps [.store, .power, .events] l (Live.psuInserted l b dc volts hz inlet serial) := by
  unfold Live.psuInserted
  repeat' first
    | exact (rfl : true = true)
    | with_reducible exact .refl _ _
    | refine .via (by with_reducible exact Live.raise_keeps ..) ?_ ?_
    | refine .via (by with_reducible exact Live.setModule_keeps ..) ?_ ?_
    | with_reducible refine .ite ?_ ?_
    | dsimp only
    | split

theorem Live.psuRemoved_keeps (l : Live) (b : Nat) : Keeps [.store, .power, .events] l (Live.psuRemoved l b) := by
  unfold Live.psuRemoved
  repeat' first
    | exact (rfl : true = true)
    | with_reducible exact .refl _ _
    | refine .via (by with_reducible exact Live.raise_keeps ..) ?_ ?_
    | refine .via (by with_reducible exact Live.setModule_keeps ..) ?_ ?_
    | with_reducible refine .ite ?_ ?_
    | dsimp only
    | split

theorem Live.siliconRequest_keeps (l : Live) (r : Nat) : Keeps [.power] l (Live.siliconRequest l r) := by
  unfold Live.siliconRequest
  repeat' first
    | exact (rfl : true = true)
    | with_reducible exact .refl _ _
    | refine .via (by with_reducible exact Live.setPower_keeps ..) ?_ ?_
    | with_reducible refine .ite ?_ ?_
    | dsimp only
    | refine .of2 (by assumption) ?_
    | refine .of22 (by assumption) ?_
    | refine .of1 (by assumption) ?_
    | split

end Sys2Proof.Machine
end

