-- ==== Sys2Proof/Laws/Spotter.lean ====
section
/-! SUPPORT. What the operations of Machine/Spotter.lean may change. -/

namespace Sys2Proof.Machine

open Sys2Proof

theorem Live.setSpotter_keeps (l : Live) (i : Nat) (f : Spotter → Spotter) : Keeps [.audio] l (Live.setSpotter l i f) := by
  unfold Live.setSpotter
  repeat' first
    | exact (rfl : true = true)
    | with_reducible exact .refl _ _
    | refine .via (by with_reducible exact Live.setAudio_keeps ..) ?_ ?_
    | dsimp only

theorem Live.templateChanged_keeps (l : Live) (t : Nat) : Keeps [.audio] l (Live.templateChanged l t) := by
  unfold Live.templateChanged
  repeat' first
    | exact (rfl : true = true)
    | with_reducible exact .refl _ _
    | refine .via (by with_reducible exact Live.setSpotter_keeps ..) ?_ ?_
    | dsimp only
    | with_reducible refine .forN (fun l x => ?_) ?_

theorem Live.dormantWithdrawn_keeps (l : Live) : Keeps [.store, .modes] l (Live.dormantWithdrawn l) := by
  unfold Live.dormantWithdrawn
  repeat' first
    | exact (rfl : true = true)
    | with_reducible exact .refl _ _
    | refine .via (by with_reducible exact Live.wrB_keeps ..) ?_ ?_
    | dsimp only
    | with_reducible refine .modes ?_ rfl ?_

theorem Live.clipRelease_keeps (l : Live) (i : Nat) : Keeps [.store] l (Live.clipRelease l i) := by
  unfold Live.clipRelease
  repeat' first
    | exact (rfl : true = true)
    | with_reducible exact .refl _ _
    | refine .via (by with_reducible exact Live.wrB_keeps ..) ?_ ?_
    | dsimp only

theorem Live.holdDetection_keeps (l : Live) (d : Detection) : Keeps [.store, .audio, .events] l (Live.holdDetection l d) := by
  unfold Live.holdDetection
  repeat' first
    | exact (rfl : true = true)
    | with_reducible exact .refl _ _
    | refine .via (by with_reducible exact Live.setAudio_keeps ..) ?_ ?_
    | refine .via (by with_reducible exact Live.wr_keeps ..) ?_ ?_
    | refine .via (by with_reducible exact Live.count_keeps ..) ?_ ?_
    | dsimp only
    | with_reducible refine .when (fun l => ?_) ?_

theorem Live.detected_keeps (l : Live) (d0 : Detection) : Keeps [.store, .modes, .audio, .events] l (Live.detected l d0) := by
  unfold Live.detected
  repeat' first
    | exact (rfl : true = true)
    | with_reducible exact .refl _ _
    | refine .via (by with_reducible exact Live.wrB_keeps ..) ?_ ?_
    | refine .via (by with_reducible exact Live.setSpotter_keeps ..) ?_ ?_
    | refine .via (by with_reducible exact Live.wr_keeps ..) ?_ ?_
    | refine .via (by with_reducible exact Live.count_keeps ..) ?_ ?_
    | refine .via (by with_reducible exact Live.raiseAt_keeps ..) ?_ ?_
    | refine .via (by with_reducible exact Live.holdDetection_keeps ..) ?_ ?_
    | refine .via (by with_reducible exact Live.dormantWithdrawn_keeps ..) ?_ ?_
    | refine .via (by with_reducible exact Live.wakeBy_keeps ..) ?_ ?_
    | with_reducible refine .ite ?_ ?_
    | dsimp only
    | split

theorem Live.templateFrame_keeps (l : Live) (i t : Nat) (input : List Byte) (prev : Nat) : Keeps [.store, .modes, .audio, .events] l (Live.templateFrame l i t input prev) := by
  unfold Live.templateFrame
  repeat' first
    | exact (rfl : true = true)
    | with_reducible exact .refl _ _
    | refine .via (by with_reducible exact Live.setSpotter_keeps ..) ?_ ?_
    | refine .via (by with_reducible exact Live.detected_keeps ..) ?_ ?_
    | with_reducible refine .ite ?_ ?_
    | dsimp only
    | refine .of2 (by assumption) ?_
    | refine .of22 (by assumption) ?_
    | refine .of1 (by assumption) ?_
    | split

theorem Live.featureFrame_keeps (l : Live) (i : Nat) : Keeps [.store, .modes, .audio, .events] l (Live.featureFrame l i) := by
  unfold Live.featureFrame
  repeat' first
    | exact (rfl : true = true)
    | with_reducible exact .refl _ _
    | refine .via (by with_reducible exact Live.setSpotter_keeps ..) ?_ ?_
    | refine .via (by with_reducible exact Live.templateFrame_keeps ..) ?_ ?_
    | refine .via (by with_reducible exact Live.wr_keeps ..) ?_ ?_
    | with_reducible refine .ite ?_ ?_
    | dsimp only
    | with_reducible refine .forN (fun l x => ?_) ?_
    | split

theorem Live.islandErrors_keeps (l : Live) (insts helds : List Nat) : Keeps [.store, .audio, .events] l (Live.islandErrors l insts helds) := by
  unfold Live.islandErrors
  repeat' first
    | exact (rfl : true = true)
    | with_reducible exact .refl _ _
    | refine .via (by with_reducible exact Live.mark_keeps ..) ?_ ?_
    | refine .via (by with_reducible exact Live.spotterRestart_keeps ..) ?_ ?_
    | refine .via (by with_reducible exact Live.wr_keeps ..) ?_ ?_
    | refine .via (by with_reducible exact Live.setAudio_keeps ..) ?_ ?_
    | with_reducible refine .ite ?_ ?_
    | dsimp only
    | with_reducible refine .forL (fun l x => ?_) ?_
    | split

theorem Live.reportHeld_keeps (l : Live) : Keeps [.store, .audio, .events] l (Live.reportHeld l) := by
  unfold Live.reportHeld
  repeat' first
    | exact (rfl : true = true)
    | with_reducible exact .refl _ _
    | refine .via (by with_reducible exact Live.raiseAt_keeps ..) ?_ ?_
    | refine .via (by with_reducible exact Live.raise_keeps ..) ?_ ?_
    | refine .via (by with_reducible exact Live.wr_keeps ..) ?_ ?_
    | refine .via (by with_reducible exact Live.setAudio_keeps ..) ?_ ?_
    | with_reducible refine .ite ?_ ?_
    | dsimp only
    | with_reducible refine .forL (fun l x => ?_) ?_
    | split

theorem Live.featureFrames_keeps (l : Live) (i : Nat) : Keeps [.store, .modes, .audio, .events] l (Live.featureFrames l i) := by
  unfold Live.featureFrames
  repeat' first
    | exact (rfl : true = true)
    | with_reducible exact .refl _ _
    | refine .via (by with_reducible exact Live.featureFrame_keeps ..) ?_ ?_
    | dsimp only
    | with_reducible refine .forN (fun l x => ?_) ?_

end Sys2Proof.Machine
end

