-- ==== Sys2Proof/Laws/Stored.lean ====
section
/-! SUPPORT. What the operations of Machine/Stored.lean may change. -/

namespace Sys2Proof.Machine

open Sys2Proof

theorem Live.setModes_keeps {f : Modes → Modes} (hf : ∀ m, (f m).mode = m.mode) (l : Live) :
    Keeps [.modes] l (l.setModes f) := .modes (.refl _ l) (hf _) rfl

theorem Live.setModes_keeps_all (l : Live) (f : Modes → Modes) : Keeps [.mode, .modes] l (l.setModes f) :=
  .mode (.refl _ l) rfl

theorem Modes.setCopy_mode (m : Modes) (k : Nat) (c : StoredCopy) : (m.setCopy k c).mode = m.mode := by
  unfold Modes.setCopy; split <;> rfl

theorem Live.storeBegin_keeps (l : Live) : Keeps [.store, .modes] l l.storeBegin := by
  unfold Live.storeBegin
  refine .via (by with_reducible exact Live.wr_keeps ..) rfl (.via (k := [.modes]) ?_ rfl (.refl _ l))
  exact Live.setModes_keeps (fun m => by exact Modes.setCopy_mode ..) _

theorem Live.storeCommand_keeps (l : Live) : Keeps [.store, .modes] l (Live.storeCommand l).2 := by
  unfold Live.storeCommand
  repeat' first
    | exact (rfl : true = true)
    | with_reducible exact .refl _ _
    | refine .via (by with_reducible exact Live.storeBegin_keeps ..) ?_ ?_
    | with_reducible refine .ite ?_ ?_
    | with_reducible refine .ite2 ?_ ?_
    | dsimp only
    | split

theorem Live.storeSettle_keeps (l : Live) : Keeps [.modes] l (Live.storeSettle l) := by
  unfold Live.storeSettle
  repeat' first
    | exact (rfl : true = true)
    | with_reducible exact .refl _ _
    | refine .via (by with_reducible exact Live.setModes_keeps (fun _ => by exact rfl) ..) ?_ ?_
    | with_reducible refine .ite ?_ ?_
    | dsimp only
    | refine .of2 (by assumption) ?_
    | refine .of22 (by assumption) ?_
    | refine .of1 (by assumption) ?_
    | split

theorem Live.earlyPoe_keeps (l : Live) : Keeps [.power] l (Live.earlyPoe l) := by
  unfold Live.earlyPoe
  repeat' first
    | exact (rfl : true = true)
    | with_reducible exact .refl _ _
    | with_reducible refine .ite ?_ ?_
    | dsimp only
    | split
    | with_reducible refine .power ?_ ?_

theorem Tbl.refill_sorted {α : Type} (es : List (Nat × α)) (t : Tbl α) (h : t.sorted = true) :
    Tbl.sorted (es.foldl (fun (t : Tbl α) (e : Nat × α) => (t.del e.1).ins e.1 e.2) t) = true := by
  induction es generalizing t with
  | nil => exact h
  | cons e es ih => exact ih _ (Tbl.ins_del_sorted _ _ h)

theorem Live.loadCopy_keeps (l : Live) (c : StoredCopy) : Keeps [.store, .modes, .plane, .events] l (l.loadCopy c) := by
  unfold Live.loadCopy
  refine .forN (fun l p => (Live.setLongest_keeps l p).mono rfl) ?_
  refine .via (Live.setModes_keeps (f := fun m => { m with loadedTns := c.tenancies, loadedKeys := c.keyed }) (fun _ => rfl) _)
    rfl ?_
  refine .via (Live.showMac_keeps _) rfl (.via (Live.placeStatics_keeps ..) rfl ?_)
  exact .store (.refl _ l) (fun h => Tbl.refill_sorted _ _ h) rfl

theorem Live.storeEnd_keeps (l : Live) (ok : Bool) : Keeps [.store, .modes, .events] l (l.storeEnd ok) := by
  unfold Live.storeEnd
  split
  · exact .refl _ _
  · have h1 := (Live.setModes_keeps (f := fun m => { m with storing := none }) (fun _ => rfl) l).mono
      (m := [.store, .modes, .events]) rfl
    refine .ite ?_ (.via (Live.raise_keeps ..) rfl (.via (Live.wr_keeps ..) rfl h1))
    refine .via (Live.raise_keeps ..) rfl (.via (Live.wrB_keeps ..) rfl (.via (Live.wr_keeps ..) rfl
      (.via (Live.wr_keeps ..) rfl (.via (k := [.modes]) ?_ rfl h1))))
    exact Live.setModes_keeps (fun m => by exact Modes.setCopy_mode ..) _

theorem Live.storedLoad_keeps (l : Live) : Keeps [.store, .modes, .plane, .events] l (Live.storedLoad l) := by
  unfold Live.storedLoad
  repeat' first
    | exact (rfl : true = true)
    | with_reducible exact .refl _ _
    | refine .via (by with_reducible exact Live.raise_keeps ..) ?_ ?_
    | refine .via (by with_reducible exact Live.wr_keeps ..) ?_ ?_
    | refine .via (by with_reducible exact Live.loadCopy_keeps ..) ?_ ?_
    | refine .via (by with_reducible exact Live.fillBuckets_keeps ..) ?_ ?_
    | refine .via (by with_reducible exact Live.wrB_keeps ..) ?_ ?_
    | refine .via (by with_reducible exact Live.setModes_keeps (fun _ => by exact rfl) ..) ?_ ?_
    | with_reducible refine .ite ?_ ?_
    | dsimp only
    | with_reducible refine .forL (fun l x => ?_) ?_
    | refine .of2 (by assumption) ?_
    | refine .of22 (by assumption) ?_
    | refine .of1 (by assumption) ?_
    | split

end Sys2Proof.Machine
end

