-- ==== Sys2Proof/Laws/Tenancies.lean ====
section
/-! SUPPORT. What the operations of Machine/Tenancies.lean may change. -/

namespace Sys2Proof.Machine

open Sys2Proof

theorem Live.elemGone_keeps (l : Live) (t : ElemTable) (e v : Nat) : Keeps [.store, .plane] l (Live.elemGone l t e v) := by
  unfold Live.elemGone
  repeat' first
    | exact (rfl : true = true)
    | with_reducible exact .refl _ _
    | refine .via (by with_reducible exact Live.elemMeets_keeps ..) ?_ ?_
    | refine .via (by with_reducible exact Live.setPlane_keeps ..) ?_ ?_
    | refine .via (by with_reducible exact Live.setElem_keeps ..) ?_ ?_
    | dsimp only

theorem Live.clearCells_keeps (l : Live) (p : Obj → Nat → Nat → Nat → Bool) : Keeps [.store] l (l.clearCells p) := by
  unfold Live.clearCells
  refine .forL (fun l key => ?_) (.refl _ _)
  split
  · refine .ite ?_ (.refl _ _)
    exact .store (.refl _ l) (fun h => Tbl.del_sorted _ h) rfl
  · exact .refl _ _

theorem Live.clearCounters_keeps (l : Live) (p : Obj → Nat → Nat → Nat → Bool) : Keeps [.store] l (Live.clearCounters l p) := by
  unfold Live.clearCounters
  repeat' first
    | exact (rfl : true = true)
    | with_reducible exact .refl _ _
    | refine .via (by with_reducible exact Live.clearCells_keeps ..) ?_ ?_
    | dsimp only

theorem Live.portMoved_keeps (l : Live) (p old : Nat) : Keeps [.store, .plane, .flannel, .events, .recoveries] l (Live.portMoved l p old) := by
  unfold Live.portMoved
  repeat' first
    | exact (rfl : true = true)
    | with_reducible exact .refl _ _
    | refine .via (by with_reducible exact Live.flannelOwner_keeps ..) ?_ ?_
    | refine .via (by with_reducible exact Live.elemGone_keeps ..) ?_ ?_
    | refine .via (by with_reducible exact Live.macPurge_keeps ..) ?_ ?_
    | refine .via (by with_reducible exact Live.clearCounters_keeps ..) ?_ ?_
    | refine .via (by with_reducible exact Live.setEv_keeps ..) ?_ ?_
    | refine .via (by with_reducible exact Live.refreshStreams_keeps ..) ?_ ?_
    | with_reducible refine .ite ?_ ?_
    | dsimp only
    | with_reducible refine .forL (fun l x => ?_) ?_
    | with_reducible refine .forN (fun l x => ?_) ?_
    | split

theorem Live.portOwners_keeps (l : Live) (old : Nat) : Keeps [.store, .plane, .flannel, .events, .recoveries] l (Live.portOwners l old) := by
  unfold Live.portOwners
  repeat' first
    | exact (rfl : true = true)
    | with_reducible exact .refl _ _
    | refine .via (by with_reducible exact Live.portMoved_keeps ..) ?_ ?_
    | with_reducible refine .ite ?_ ?_
    | dsimp only
    | with_reducible refine .forN (fun l x => ?_) ?_
    | split

theorem Live.setTn_keeps (l : Live) (n st : Nat) : Keeps [.store, .plane] l (Live.setTn l n st) := by
  unfold Live.setTn
  repeat' first
    | exact (rfl : true = true)
    | with_reducible exact .refl _ _
    | refine .via (by with_reducible exact Live.wrV_keeps ..) ?_ ?_
    | refine .via (by with_reducible exact Live.wr_keeps ..) ?_ ?_
    | dsimp only

theorem Live.bindSession_keeps (l : Live) (s : Nat) : Keeps [.store, .dict, .sessions, .tenancies, .events] l (Live.bindSession l s) := by
  unfold Live.bindSession
  repeat' first
    | exact (rfl : true = true)
    | with_reducible exact .refl _ _
    | refine .via (by with_reducible exact Live.sessionClose_keeps ..) ?_ ?_
    | refine .via (by with_reducible exact Live.wr_keeps ..) ?_ ?_
    | refine .via (by with_reducible exact Live.setSession_keeps ..) ?_ ?_
    | refine .via (by with_reducible exact Live.sessionOpen_keeps ..) ?_ ?_
    | refine .via (by with_reducible exact Live.raise_keeps ..) ?_ ?_
    | with_reducible refine .ite ?_ ?_
    | dsimp only
    | with_reducible refine .forL (fun l x => ?_) ?_
    | split
    | with_reducible refine .tenancies ?_ ?_

theorem Live.bindSessions_keeps (l : Live) : Keeps [.store, .dict, .sessions, .tenancies, .events] l (Live.bindSessions l) := by
  unfold Live.bindSessions
  repeat' first
    | exact (rfl : true = true)
    | with_reducible exact .refl _ _
    | refine .via (by with_reducible exact Live.bindSession_keeps ..) ?_ ?_
    | dsimp only
    | with_reducible refine .forN (fun l x => ?_) ?_

theorem Live.computeQuota_keeps (l : Live) (q : Nat) : Keeps [.store, .plane] l (Live.computeQuota l q) := by
  unfold Live.computeQuota
  repeat' first
    | exact (rfl : true = true)
    | with_reducible exact .refl _ _
    | refine .via (by with_reducible exact Live.wrV_keeps ..) ?_ ?_
    | with_reducible refine .ite ?_ ?_
    | dsimp only
    | with_reducible refine .foldl (fun l x => ?_) _ _ ?_
    | with_reducible refine .foldl2 (fun l x => ?_) _ _ ?_
    | with_reducible refine .foldl1 (fun l x => ?_) _ _ ?_
    | split

theorem Live.computeQuotas_keeps (l : Live) : Keeps [.store, .plane] l (Live.computeQuotas l) := by
  unfold Live.computeQuotas
  repeat' first
    | exact (rfl : true = true)
    | with_reducible exact .refl _ _
    | refine .via (by with_reducible exact Live.computeQuota_keeps ..) ?_ ?_
    | refine .via (by with_reducible exact Live.wr_keeps ..) ?_ ?_
    | dsimp only
    | with_reducible refine .forN (fun l x => ?_) ?_

theorem Live.tenanciesSettle_keeps (l : Live) : Keeps [.store, .dict, .sessions, .tenancies, .plane, .events] l (Live.tenanciesSettle l) := by
  unfold Live.tenanciesSettle
  repeat' first
    | exact (rfl : true = true)
    | with_reducible exact .refl _ _
    | refine .via (by with_reducible exact Live.computeGuarantees_keeps ..) ?_ ?_
    | refine .via (by with_reducible exact Live.bindSessions_keeps ..) ?_ ?_
    | refine .via (by with_reducible exact Live.computeQuotas_keeps ..) ?_ ?_
    | dsimp only

theorem Live.showUsage_keeps (l : Live) : Keeps [.store] l (Live.showUsage l) := by
  unfold Live.showUsage
  repeat' first
    | exact (rfl : true = true)
    | with_reducible exact .refl _ _
    | refine .via (by with_reducible exact Live.wr_keeps ..) ?_ ?_
    | with_reducible refine .ite ?_ ?_
    | dsimp only
    | with_reducible refine .forN (fun l x => ?_) ?_
    | split

end Sys2Proof.Machine
end

