-- ==== Sys2Proof/Laws/Unit.lean ====
section
/-! SUPPORT. What the operations of Machine/Unit.lean may change. -/

namespace Sys2Proof.Machine

open Sys2Proof

theorem Live.setUnit_keeps (l : Live) (f : Enclosure → Enclosure) : Keeps [.enclosure] l (Live.setUnit l f) := by
  unfold Live.setUnit
  repeat' first
    | exact (rfl : true = true)
    | with_reducible exact .refl _ _
    | dsimp only
    | with_reducible refine .enclosure ?_ ?_

theorem Live.ledTestStart_keeps (l : Live) : Keeps [.enclosure] l (Live.ledTestStart l) := by
  unfold Live.ledTestStart
  repeat' first
    | exact (rfl : true = true)
    | with_reducible exact .refl _ _
    | refine .via (by with_reducible exact Live.setUnit_keeps ..) ?_ ?_
    | dsimp only

theorem Live.ledTestOver_keeps (l : Live) : Keeps [.enclosure] l (Live.ledTestOver l) := by
  unfold Live.ledTestOver
  repeat' first
    | exact (rfl : true = true)
    | with_reducible exact .refl _ _
    | refine .via (by with_reducible exact Live.setUnit_keeps ..) ?_ ?_
    | with_reducible refine .ite ?_ ?_
    | dsimp only
    | refine .of2 (by assumption) ?_
    | refine .of22 (by assumption) ?_
    | refine .of1 (by assumption) ?_
    | split

theorem Live.showCaseTemp_keeps (l : Live) : Keeps [.store] l (Live.showCaseTemp l) := by
  unfold Live.showCaseTemp
  repeat' first
    | exact (rfl : true = true)
    | with_reducible exact .refl _ _
    | refine .via (by with_reducible exact Live.wrI_keeps ..) ?_ ?_
    | with_reducible refine .ite ?_ ?_
    | dsimp only
    | with_reducible refine .forN (fun l x => ?_) ?_
    | split

theorem Live.sensorSilent_keeps (l : Live) (sensor : Nat) : Keeps [.store] l (Live.sensorSilent l sensor) := by
  unfold Live.sensorSilent
  repeat' first
    | exact (rfl : true = true)
    | with_reducible exact .refl _ _
    | refine .via (by with_reducible exact Live.showCaseTemp_keeps ..) ?_ ?_
    | refine .via (by with_reducible exact Live.wr_keeps ..) ?_ ?_
    | with_reducible refine .ite ?_ ?_
    | dsimp only
    | split

theorem Live.sensorReport_keeps (l : Live) (s : Nat) (v : Int) : Keeps [.store, .enclosure] l (Live.sensorReport l s v) := by
  unfold Live.sensorReport
  repeat' first
    | exact (rfl : true = true)
    | with_reducible exact .refl _ _
    | refine .via (by with_reducible exact Live.setUnit_keeps ..) ?_ ?_
    | refine .via (by with_reducible exact Live.wrI_keeps ..) ?_ ?_
    | refine .via (by with_reducible exact Live.wr_keeps ..) ?_ ?_
    | with_reducible refine .ite ?_ ?_
    | dsimp only
    | with_reducible refine .when (fun l => ?_) ?_
    | split

theorem Live.sampleSensors_keeps (l : Live) (rs : List (Nat × Int)) : Keeps [.store, .enclosure] l (Live.sampleSensors l rs) := by
  unfold Live.sampleSensors
  repeat' first
    | exact (rfl : true = true)
    | with_reducible exact .refl _ _
    | refine .via (by with_reducible exact Live.wr_keeps ..) ?_ ?_
    | refine .via (by with_reducible exact Live.setUnit_keeps ..) ?_ ?_
    | refine .via (by with_reducible exact Live.sensorReport_keeps ..) ?_ ?_
    | refine .via (by with_reducible exact Live.showCaseTemp_keeps ..) ?_ ?_
    | with_reducible refine .ite ?_ ?_
    | dsimp only
    | with_reducible refine .forN (fun l x => ?_) ?_
    | refine .of2 (by assumption) ?_
    | refine .of22 (by assumption) ?_
    | refine .of1 (by assumption) ?_
    | split

theorem Live.judgeFan_keeps (l : Live) (k percent : Nat) : Keeps [.store, .enclosure] l (Live.judgeFan l k percent) := by
  unfold Live.judgeFan
  repeat' first
    | exact (rfl : true = true)
    | with_reducible exact .refl _ _
    | refine .via (by with_reducible exact Live.setUnit_keeps ..) ?_ ?_
    | refine .via (by with_reducible exact Live.wr_keeps ..) ?_ ?_
    | with_reducible refine .ite ?_ ?_
    | dsimp only
    | split

theorem Live.fanForce_keeps (l : Live) : Keeps [.store] l (Live.fanForce l) := by
  unfold Live.fanForce
  repeat' first
    | exact (rfl : true = true)
    | with_reducible exact .refl _ _
    | refine .via (by with_reducible exact Live.wr_keeps ..) ?_ ?_
    | with_reducible refine .ite ?_ ?_
    | dsimp only
    | split

theorem Live.fanEvaluation_keeps (l : Live) (tach : List (Nat × Nat)) : Keeps [.store, .enclosure] l (Live.fanEvaluation l tach) := by
  unfold Live.fanEvaluation
  repeat' first
    | exact (rfl : true = true)
    | with_reducible exact .refl _ _
    | refine .via (by with_reducible exact Live.setUnit_keeps ..) ?_ ?_
    | refine .via (by with_reducible exact Live.judgeFan_keeps ..) ?_ ?_
    | refine .via (by with_reducible exact Live.wrSat_keeps ..) ?_ ?_
    | refine .via (by with_reducible exact Live.fanForce_keeps ..) ?_ ?_
    | refine .via (by with_reducible exact Live.wr_keeps ..) ?_ ?_
    | with_reducible refine .ite ?_ ?_
    | dsimp only
    | with_reducible refine .forN (fun l x => ?_) ?_
    | split

theorem Live.fansSampled_keeps (l : Live) (tach : Option (List (Nat × Nat))) : Keeps [.store, .enclosure] l (Live.fansSampled l tach) := by
  unfold Live.fansSampled
  repeat' first
    | exact (rfl : true = true)
    | with_reducible exact .refl _ _
    | refine .via (by with_reducible exact Live.fanEvaluation_keeps ..) ?_ ?_
    | dsimp only
    | refine .of2 (by assumption) ?_
    | refine .of22 (by assumption) ?_
    | refine .of1 (by assumption) ?_
    | split

theorem Live.unitRestart_keeps (l : Live) : Keeps [.store, .enclosure] l (Live.unitRestart l) := by
  unfold Live.unitRestart
  repeat' first
    | exact (rfl : true = true)
    | with_reducible exact .refl _ _
    | refine .via (by with_reducible exact Live.wr_keeps ..) ?_ ?_
    | refine .via (by with_reducible exact Live.toDefault_keeps ..) ?_ ?_
    | refine .via (by with_reducible exact Live.setUnit_keeps ..) ?_ ?_
    | dsimp only
    | with_reducible refine .forN (fun l x => ?_) ?_

theorem Live.boostRequest_keeps (l : Live) : Keeps [.store] l (Live.boostRequest l) := by
  unfold Live.boostRequest
  repeat' first
    | exact (rfl : true = true)
    | with_reducible exact .refl _ _
    | refine .via (by with_reducible exact Live.wr_keeps ..) ?_ ?_
    | dsimp only

theorem Live.fanStartLevel_keeps (l : Live) : Keeps [.store] l (Live.fanStartLevel l) := by
  unfold Live.fanStartLevel
  repeat' first
    | exact (rfl : true = true)
    | with_reducible exact .refl _ _
    | refine .via (by with_reducible exact Live.fanForce_keeps ..) ?_ ?_
    | refine .via (by with_reducible exact Live.wr_keeps ..) ?_ ?_
    | with_reducible refine .ite ?_ ?_
    | dsimp only
    | split

theorem Live.showFault_keeps (l : Live) : Keeps [.store] l (Live.showFault l) := by
  unfold Live.showFault
  repeat' first
    | exact (rfl : true = true)
    | with_reducible exact .refl _ _
    | refine .via (by with_reducible exact Live.wr_keeps ..) ?_ ?_
    | with_reducible refine .ite ?_ ?_
    | dsimp only
    | split

theorem Live.trayChange_keeps (l : Live) (present : Bool) : Keeps [.store, .enclosure] l (Live.trayChange l present) := by
  unfold Live.trayChange
  repeat' first
    | exact (rfl : true = true)
    | with_reducible exact .refl _ _
    | refine .via (by with_reducible exact Live.setUnit_keeps ..) ?_ ?_
    | refine .via (by with_reducible exact Live.wrB_keeps ..) ?_ ?_
    | refine .via (by with_reducible exact Live.fanForce_keeps ..) ?_ ?_
    | refine .via (by with_reducible exact Live.wr_keeps ..) ?_ ?_
    | with_reducible refine .ite ?_ ?_
    | dsimp only
    | split

end Sys2Proof.Machine
end

