-- ==== Sys2Proof/Laws/Neighbour.lean ====
section
/-! SUPPORT. What the operations of Machine/Neighbour.lean may change. -/

namespace Sys2Proof.Machine

open Sys2Proof

theorem Live.setExhausted_keeps (l : Live) (tn : Nat) (b : Bool) : Keeps [.plane] l (Live.setExhausted l tn b) := by
  unfold Live.setExhausted
  repeat' first
    | exact (rfl : true = true)
    | with_reducible exact .refl _ _
    | refine .via (by with_reducible exact Live.setFwd_keeps ..) ?_ ?_
    | dsimp only

theorem Live.showGroup_keeps (l : Live) (g : Snooped) : Keeps [.store, .plane] l (Live.showGroup l g) := by
  unfold Live.showGroup
  repeat' first
    | exact (rfl : true = true)
    | with_reducible exact .refl _ _
    | refine .via (by with_reducible exact Live.setElemV_keeps ..) ?_ ?_
    | dsimp only
    | with_reducible refine .foldl (fun l x => ?_) _ _ ?_
    | with_reducible refine .foldl2 (fun l x => ?_) _ _ ?_
    | with_reducible refine .foldl1 (fun l x => ?_) _ _ ?_

theorem Live.showGroups_keeps (l : Live) (tn : Nat) : Keeps [.store, .plane] l (Live.showGroups l tn) := by
  unfold Live.showGroups
  repeat' first
    | exact (rfl : true = true)
    | with_reducible exact .refl _ _
    | refine .via (by with_reducible exact Live.showGroup_keeps ..) ?_ ?_
    | dsimp only
    | with_reducible refine .forL (fun l x => ?_) ?_

theorem Live.dropGroup_keeps (l : Live) (g : Snooped) : Keeps [.store, .plane] l (Live.dropGroup l g) := by
  unfold Live.dropGroup
  repeat' first
    | exact (rfl : true = true)
    | with_reducible exact .refl _ _
    | refine .via (by with_reducible exact Live.setElemV_keeps ..) ?_ ?_
    | refine .via (by with_reducible exact Live.setFwd_keeps ..) ?_ ?_
    | refine .via (by with_reducible exact Live.showMac_keeps ..) ?_ ?_
    | refine .via (by with_reducible exact Live.macRemove_keeps ..) ?_ ?_
    | refine .via (by with_reducible exact Live.setExhausted_keeps ..) ?_ ?_
    | dsimp only
    | refine .of2 (by assumption) ?_
    | refine .of22 (by assumption) ?_
    | refine .of1 (by assumption) ?_
    | split

theorem Live.keepMembers_keeps (l : Live) (keep : Snooped → Nat × Nat → Bool) : Keeps [.store, .plane] l (Live.keepMembers l keep) := by
  unfold Live.keepMembers
  repeat' first
    | exact (rfl : true = true)
    | with_reducible exact .refl _ _
    | refine .via (by with_reducible exact Live.dropGroup_keeps ..) ?_ ?_
    | refine .via (by with_reducible exact Live.showGroup_keeps ..) ?_ ?_
    | refine .via (by with_reducible exact Live.setFwd_keeps ..) ?_ ?_
    | with_reducible refine .ite ?_ ?_
    | dsimp only
    | with_reducible refine .forL (fun l x => ?_) ?_
    | split

theorem Live.forgetSnooping_keeps (l : Live) (p : Nat → Bool) : Keeps [.store, .plane] l (Live.forgetSnooping l p) := by
  unfold Live.forgetSnooping
  repeat' first
    | exact (rfl : true = true)
    | with_reducible exact .refl _ _
    | refine .via (by with_reducible exact Live.dropGroup_keeps ..) ?_ ?_
    | refine .via (by with_reducible exact Live.setFwd_keeps ..) ?_ ?_
    | dsimp only
    | with_reducible refine .forL (fun l x => ?_) ?_

theorem Live.snoopExpiry_keeps (l : Live) : Keeps [.store, .plane] l (Live.snoopExpiry l) := by
  unfold Live.snoopExpiry
  repeat' first
    | exact (rfl : true = true)
    | with_reducible exact .refl _ _
    | refine .via (by with_reducible exact Live.keepMembers_keeps ..) ?_ ?_
    | refine .via (by with_reducible exact Live.setFwd_keeps ..) ?_ ?_
    | refine .via (by with_reducible exact Live.showGroups_keeps ..) ?_ ?_
    | with_reducible refine .ite ?_ ?_
    | dsimp only
    | with_reducible refine .forL (fun l x => ?_) ?_
    | split

theorem Live.firmwareFlood_keeps (l : Live) (vlan mask : Nat) (bytes : List Byte) : Keeps [.store, .plane, .events] l (Live.firmwareFlood l vlan mask bytes) := by
  unfold Live.firmwareFlood
  repeat' first
    | exact (rfl : true = true)
    | with_reducible exact .refl _ _
    | refine .via (by with_reducible exact Live.enterFabric_keeps ..) ?_ ?_
    | dsimp only

theorem Live.installGroup_keeps {l l' : Live} {m : MacEntry} (h : l.installGroup m = some l') :
    Keeps [.store, .plane] l l' := by
  unfold Live.installGroup at h
  split at h
  · rw [← Option.some.inj h]
    exact .via (Live.showMac_keeps ..) rfl ((Live.macSet_keeps ..).mono rfl)
  · obtain ⟨loc, -, e⟩ := Option.map_eq_some_iff.1 h
    rw [← e]
    exact .via (Live.showMac_keeps ..) rfl ((Live.macCreate_keeps ..).mono rfl)

theorem Live.joinGroup_keeps (l : Live) (p fid tn mac : Nat) : Keeps [.store, .plane] l (l.joinGroup p fid tn mac) := by
  unfold Live.joinGroup
  dsimp only
  split
  · exact .via (Live.showGroup_keeps ..) rfl ((Live.setFwd_keeps ..).mono rfl)
  · refine .ite (.refl _ _) ?_
    split
    · exact (Live.setExhausted_keeps ..).mono rfl
    · refine .ite (.refl _ _) ?_
      split
      · rename_i h
        exact .via (Live.showGroup_keeps ..) rfl (.via (Live.setFwd_keeps ..) rfl ((Live.installGroup_keeps h).mono rfl))
      · exact .refl _ _

theorem Live.setHop_keeps (l : Live) (n : Nat) (f : Resolution → Resolution) : Keeps [.plane] l (Live.setHop l n f) := by
  unfold Live.setHop
  repeat' first
    | exact (rfl : true = true)
    | with_reducible exact .refl _ _
    | refine .via (by with_reducible exact Live.setFwd_keeps ..) ?_ ?_
    | dsimp only

theorem Live.resolveHop_keeps (l : Live) (n mac : Nat) : Keeps [.store, .plane, .events] l (Live.resolveHop l n mac) := by
  unfold Live.resolveHop
  repeat' first
    | exact (rfl : true = true)
    | with_reducible exact .refl _ _
    | refine .via (by with_reducible exact Live.setHop_keeps ..) ?_ ?_
    | refine .via (by with_reducible exact Live.setElemV_keeps ..) ?_ ?_
    | refine .via (by with_reducible exact Live.raise_keeps ..) ?_ ?_
    | with_reducible refine .ite ?_ ?_
    | dsimp only
    | split

theorem Live.resolveBy_keeps (l : Live) (vlan : Nat) (m : ArpNd) : Keeps [.store, .plane, .events] l (Live.resolveBy l vlan m) := by
  unfold Live.resolveBy
  repeat' first
    | exact (rfl : true = true)
    | with_reducible exact .refl _ _
    | refine .via (by with_reducible exact Live.resolveHop_keeps ..) ?_ ?_
    | dsimp only
    | with_reducible refine .forL (fun l x => ?_) ?_

end Sys2Proof.Machine
end

