-- ==== Sys2Proof/Laws/Streams.lean ====
section
/-! SUPPORT. What the operations of Machine/Streams.lean may change. -/

namespace Sys2Proof.Machine

open Sys2Proof

theorem Live.outStart_keeps (l : Live) (s : Nat) : Keeps [.audio] l (Live.outStart l s) := by
  unfold Live.outStart
  repeat' first
    | exact (rfl : true = true)
    | with_reducible exact .refl _ _
    | refine .via (by with_reducible exact Live.setAudio_keeps ..) ?_ ?_
    | dsimp only

theorem Live.inSettings_keeps (l : Live) (i : Nat) (was : Bool) : Keeps [.store, .audio] l (Live.inSettings l i was) := by
  unfold Live.inSettings
  repeat' first
    | exact (rfl : true = true)
    | with_reducible exact .refl _ _
    | refine .via (by with_reducible exact Live.sourceStart_keeps ..) ?_ ?_
    | refine .via (by with_reducible exact Live.setSource_keeps ..) ?_ ?_
    | with_reducible refine .ite ?_ ?_
    | dsimp only
    | with_reducible refine .forL (fun l x => ?_) ?_
    | split

theorem Live.muslinSend_keeps (l : Live) (s : Nat) (p : Nat × List Byte) : Keeps [.store, .plane, .events] l (Live.muslinSend l s p) := by
  unfold Live.muslinSend
  repeat' first
    | exact (rfl : true = true)
    | with_reducible exact .refl _ _
    | refine .via (by with_reducible exact Live.forward_keeps ..) ?_ ?_
    | refine .via (by with_reducible exact Live.admitEach_keeps ..) ?_ ?_
    | refine .via (by with_reducible exact Live.enterFabric_keeps ..) ?_ ?_
    | with_reducible refine .ite ?_ ?_
    | dsimp only
    | split

theorem Live.placeSamples_keeps (l : Live) (i : Nat) (p : AudioPacket) : Keeps [.audio] l (Live.placeSamples l i p) := by
  unfold Live.placeSamples
  repeat' first
    | exact (rfl : true = true)
    | with_reducible exact .refl _ _
    | refine .via (by with_reducible exact Live.setSource_keeps ..) ?_ ?_
    | with_reducible refine .ite ?_ ?_
    | dsimp only
    | with_reducible refine .forN (fun l x => ?_) ?_
    | split

theorem Live.packetFor_keeps (l0 : Live) (i : Nat) (p : AudioPacket) : Keeps [.store, .bpm, .audio, .events] l0 (Live.packetFor l0 i p) := by
  unfold Live.packetFor
  repeat' first
    | exact (rfl : true = true)
    | with_reducible exact .refl _ _
    | refine .via (by with_reducible exact Live.setSource_keeps ..) ?_ ?_
    | refine .via (by with_reducible exact Live.count_keeps ..) ?_ ?_
    | refine .via (by with_reducible exact Live.blk_keeps ..) ?_ ?_
    | refine .via (by with_reducible exact Live.mark_keeps ..) ?_ ?_
    | refine .via (by with_reducible exact Live.sourceFault_keeps ..) ?_ ?_
    | refine .via (by with_reducible exact Live.alloc_keeps ..) ?_ ?_
    | refine .via (by with_reducible exact Live.setAudio_keeps ..) ?_ ?_
    | refine .via (by with_reducible exact Live.bufWrite_keeps ..) ?_ ?_
    | refine .via (by with_reducible exact Live.placeSamples_keeps ..) ?_ ?_
    | with_reducible refine .ite ?_ ?_
    | dsimp only
    | with_reducible refine .forL (fun l x => ?_) ?_
    | with_reducible refine .when (fun l => ?_) ?_
    | refine .of2 (by assumption) ?_
    | refine .of22 (by assumption) ?_
    | refine .of1 (by assumption) ?_
    | split

theorem Live.packetIn_keeps (l : Live) (f : Frame) : Keeps [.store, .bpm, .audio, .events] l (Live.packetIn l f) := by
  unfold Live.packetIn
  repeat' first
    | exact (rfl : true = true)
    | with_reducible exact .refl _ _
    | refine .via (by with_reducible exact Live.count_keeps ..) ?_ ?_
    | refine .via (by with_reducible exact Live.packetFor_keeps ..) ?_ ?_
    | with_reducible refine .ite ?_ ?_
    | dsimp only
    | refine .of2 (by assumption) ?_
    | refine .of22 (by assumption) ?_
    | refine .of1 (by assumption) ?_
    | split

theorem Live.packetOut_keeps (l : Live) (s : Nat) : Keeps [.store, .plane, .audio, .events] l (Live.packetOut l s) := by
  unfold Live.packetOut
  repeat' first
    | exact (rfl : true = true)
    | with_reducible exact .refl _ _
    | refine .via (by with_reducible exact Live.setAudio_keeps ..) ?_ ?_
    | refine .via (by with_reducible exact Live.mark_keeps ..) ?_ ?_
    | refine .via (by with_reducible exact Live.count_keeps ..) ?_ ?_
    | refine .via (by with_reducible exact Live.muslinSend_keeps ..) ?_ ?_
    | refine .via (by with_reducible exact Live.blk_keeps ..) ?_ ?_
    | with_reducible refine .ite ?_ ?_
    | dsimp only
    | split

theorem Live.packetsOut_keeps (l : Live) (s : Nat) : Keeps [.store, .plane, .audio, .events] l (Live.packetsOut l s) := by
  unfold Live.packetsOut
  repeat' first
    | exact (rfl : true = true)
    | with_reducible exact .refl _ _
    | refine .via (by with_reducible exact Live.packetOut_keeps ..) ?_ ?_
    | with_reducible refine .ite ?_ ?_
    | dsimp only
    | with_reducible refine .forN (fun l x => ?_) ?_
    | split

end Sys2Proof.Machine
end

