-- ==== Sys2Proof/Laws/Effects.lean ====
section
/-! SUPPORT. What the operations of Machine/Effects.lean may change. -/

namespace Sys2Proof.Machine

open Sys2Proof

theorem Live.canChanges_keeps (l : Live) (cs : List Change) : Keeps [.store, .dict, .can, .events] l (Live.canChanges l cs) := by
  unfold Live.canChanges
  repeat' first
    | exact (rfl : true = true)
    | with_reducible exact .refl _ _
    | refine .via (by with_reducible exact Live.canSettings_keeps ..) ?_ ?_
    | with_reducible refine .ite ?_ ?_
    | dsimp only
    | with_reducible refine .forN (fun l x => ?_) ?_
    | refine .of2 (by assumption) ?_
    | refine .of22 (by assumption) ?_
    | refine .of1 (by assumption) ?_
    | split

theorem Live.serviceChange_keeps (l : Live) (c : Change) : Keeps [.store, .power, .plane, .bpm, .flannel, .dram, .audio, .host, .events, .recoveries] l (Live.serviceChange l c) := by
  unfold Live.serviceChange
  repeat' first
    | exact (rfl : true = true)
    | with_reducible exact .refl _ _
    | refine .via (by with_reducible exact Live.pathChanged_keeps ..) ?_ ?_
    | refine .via (by with_reducible exact Live.dramPolicy_keeps ..) ?_ ?_
    | refine .via (by with_reducible exact Live.siliconRelease_keeps ..) ?_ ?_
    | refine .via (by with_reducible exact Live.rxStops_keeps ..) ?_ ?_
    | refine .via (by with_reducible exact Live.txStart_keeps ..) ?_ ?_
    | refine .via (by with_reducible exact Live.txSettings_keeps ..) ?_ ?_
    | refine .via (by with_reducible exact Live.delayChanged_keeps ..) ?_ ?_
    | refine .via (by with_reducible exact Live.outStart_keeps ..) ?_ ?_
    | refine .via (by with_reducible exact Live.inSettings_keeps ..) ?_ ?_
    | refine .via (by with_reducible exact Live.spotterRestart_keeps ..) ?_ ?_
    | refine .via (by with_reducible exact Live.templateChanged_keeps ..) ?_ ?_
    | refine .via (by with_reducible exact Live.armSnapshot_keeps ..) ?_ ?_
    | refine .via (by with_reducible exact Live.wr_keeps ..) ?_ ?_
    | refine .via (by with_reducible exact Live.reprogram_keeps ..) ?_ ?_
    | refine .via (by with_reducible exact Live.heal_keeps ..) ?_ ?_
    | refine .via (by with_reducible exact Live.crosspointChanged_keeps ..) ?_ ?_
    | with_reducible refine .ite ?_ ?_
    | dsimp only
    | refine .of2 (by assumption) ?_
    | refine .of22 (by assumption) ?_
    | refine .of1 (by assumption) ?_
    | split

theorem Live.imageBlock_keeps (l : Live) (v : Nat) : Keeps [.store, .modes] l (Live.imageBlock l v) := by
  unfold Live.imageBlock
  repeat' first
    | exact (rfl : true = true)
    | with_reducible exact .refl _ _
    | refine .via (by with_reducible exact Live.toDefault_keeps ..) ?_ ?_
    | refine .via (by with_reducible exact Live.wr_keeps ..) ?_ ?_
    | with_reducible refine .ite ?_ ?_
    | dsimp only
    | split
    | with_reducible refine .modes ?_ rfl ?_

theorem Live.portChange_keeps (l : Live) (c : Change) : Keeps [.store, .dict, .sessions, .modes, .plane, .flannel, .events, .recoveries] l (Live.portChange l c) := by
  unfold Live.portChange
  repeat' first
    | exact (rfl : true = true)
    | with_reducible exact .refl _ _
    | refine .via (by with_reducible exact Live.sessionOpen_keeps ..) ?_ ?_
    | refine .via (by with_reducible exact Live.sessionClose_keeps ..) ?_ ?_
    | refine .via (by with_reducible exact Live.keyCommit_keeps ..) ?_ ?_
    | refine .via (by with_reducible exact Live.imageBlock_keeps ..) ?_ ?_
    | refine .via (by with_reducible exact Live.poeEnabled_keeps ..) ?_ ?_
    | refine .via (by with_reducible exact Live.portEnabled_keeps ..) ?_ ?_
    | refine .via (by with_reducible exact Live.linkSettle_keeps ..) ?_ ?_
    | refine .via (by with_reducible exact Live.renegotiate_keeps ..) ?_ ?_
    | refine .via (by with_reducible exact Live.pfcApply_keeps ..) ?_ ?_
    | refine .via (by with_reducible exact Live.endSuppression_keeps ..) ?_ ?_
    | refine .via (by with_reducible exact Live.neighboursGone_keeps ..) ?_ ?_
    | refine .via (by with_reducible exact Live.twillSwap_keeps ..) ?_ ?_
    | refine .via (by with_reducible exact Live.reseed_keeps ..) ?_ ?_
    | refine .via (by with_reducible exact Live.setExhausted_keeps ..) ?_ ?_
    | refine .via (by with_reducible exact Live.showGroups_keeps ..) ?_ ?_
    | refine .via (by with_reducible exact Live.keepMembers_keeps ..) ?_ ?_
    | refine .via (by with_reducible exact Live.serviceReset_keeps ..) ?_ ?_
    | refine .via (by with_reducible exact Live.markShaper_keeps ..) ?_ ?_
    | refine .via (by with_reducible exact Live.portOwners_keeps ..) ?_ ?_
    | with_reducible refine .ite ?_ ?_
    | dsimp only
    | refine .of2 (by assumption) ?_
    | refine .of22 (by assumption) ?_
    | refine .of1 (by assumption) ?_
    | split

theorem Live.changedOne_keeps (l : Live) (c : Change) : Keeps [.store, .dict, .sessions, .modes, .power, .plane, .bpm, .flannel, .dram, .audio, .host, .events, .recoveries] l (Live.changedOne l c) := by
  unfold Live.changedOne
  repeat' first
    | exact (rfl : true = true)
    | with_reducible exact .refl _ _
    | refine .via (by with_reducible exact Live.elemWritten_keeps ..) ?_ ?_
    | refine .via (by with_reducible exact Live.serviceChange_keeps ..) ?_ ?_
    | refine .via (by with_reducible exact Live.portChange_keeps ..) ?_ ?_
    | dsimp only
    | refine .of2 (by assumption) ?_
    | refine .of22 (by assumption) ?_
    | refine .of1 (by assumption) ?_
    | split

theorem Live.changed_keeps (cs : List Change) (l : Live) : Keeps [.store, .beat, .dict, .can, .sessions, .modes, .power, .plane, .bpm, .flannel, .dram, .audio, .host, .events, .recoveries] l (Live.changed cs l) := by
  unfold Live.changed
  repeat' first
    | exact (rfl : true = true)
    | with_reducible exact .refl _ _
    | refine .via (by with_reducible exact Live.keepVersion_keeps ..) ?_ ?_
    | refine .via (by with_reducible exact Live.canChanges_keeps ..) ?_ ?_
    | refine .via (by with_reducible exact Live.changedOne_keeps ..) ?_ ?_
    | refine .via (by with_reducible exact Live.ptpRestart_keeps ..) ?_ ?_
    | refine .via (by with_reducible exact Live.markDirty_keeps ..) ?_ ?_
    | refine .via (by with_reducible exact Live.refreshStreams_keeps ..) ?_ ?_
    | with_reducible refine .ite ?_ ?_
    | dsimp only
    | with_reducible refine .forL (fun l x => ?_) ?_
    | split

end Sys2Proof.Machine
end

