-- ==== Sys2Proof/Laws/Wipe.lean ====
section
/-! SUPPORT. What the operations of Machine/Wipe.lean may change. -/

namespace Sys2Proof.Machine

open Sys2Proof

theorem Live.setWipe_keeps (l : Live) (n : Nat) (w : Option TnWipe) : Keeps [.tenancies] l (Live.setWipe l n w) := by
  unfold Live.setWipe
  repeat' first
    | exact (rfl : true = true)
    | with_reducible exact .refl _ _
    | dsimp only
    | with_reducible refine .tenancies ?_ ?_

theorem Live.tnCreate_keeps (l : Live) (n : Nat) : Keeps [.store, .modes, .tenancies, .plane, .events] l (Live.tnCreate l n) := by
  unfold Live.tnCreate
  repeat' first
    | exact (rfl : true = true)
    | with_reducible exact .refl _ _
    | refine .via (by with_reducible exact Live.markDirty_keeps ..) ?_ ?_
    | refine .via (by with_reducible exact Live.raise_keeps ..) ?_ ?_
    | refine .via (by with_reducible exact Live.setTn_keeps ..) ?_ ?_
    | refine .via (by with_reducible exact Live.setWipe_keeps ..) ?_ ?_
    | dsimp only
    | refine .of2 (by assumption) ?_
    | refine .of22 (by assumption) ?_
    | refine .of1 (by assumption) ?_
    | split

theorem Live.portsForget_keeps (l : Live) (ps : List Nat) : Keeps [.power, .plane] l (Live.portsForget l ps) := by
  unfold Live.portsForget
  repeat' first
    | exact (rfl : true = true)
    | with_reducible exact .refl _ _
    | refine .via (by with_reducible exact Live.setPlane_keeps ..) ?_ ?_
    | refine .via (by with_reducible exact Live.histClear_keeps ..) ?_ ?_
    | refine .via (by with_reducible exact Live.setPse_keeps ..) ?_ ?_
    | refine .via (by with_reducible exact Live.setPort_keeps ..) ?_ ?_
    | dsimp only
    | with_reducible refine .forL (fun l x => ?_) ?_

theorem Live.tnGates_keeps (l : Live) (ps : List Nat) : Keeps [.store, .plane] l (Live.tnGates l ps) := by
  unfold Live.tnGates
  repeat' first
    | exact (rfl : true = true)
    | with_reducible exact .refl _ _
    | refine .via (by with_reducible exact Live.defaultGates_keeps ..) ?_ ?_
    | refine .via (by with_reducible exact Live.disarmGates_keeps ..) ?_ ?_
    | dsimp only
    | with_reducible refine .forL (fun l x => ?_) ?_

theorem Live.tnEvents_keeps (l : Live) (n : Nat) : Keeps [.events] l (Live.tnEvents l n) := by
  unfold Live.tnEvents
  repeat' first
    | exact (rfl : true = true)
    | with_reducible exact .refl _ _
    | dsimp only
    | with_reducible refine .events ?_ ?_

theorem Live.tnCounters_keeps (l own : Live) (n : Nat) : Keeps [.store, .events] l (Live.tnCounters l own n) := by
  unfold Live.tnCounters
  repeat' first
    | exact (rfl : true = true)
    | with_reducible exact .refl _ _
    | refine .via (by with_reducible exact Live.clearCounters_keeps ..) ?_ ?_
    | dsimp only
    | refine .of2 (by assumption) ?_
    | refine .of22 (by assumption) ?_
    | refine .of1 (by assumption) ?_
    | split
    | with_reducible refine .events ?_ ?_

theorem Live.wipeRemove_keeps (l own : Live) (n : Nat) : Keeps [.store, .beat, .dict, .can, .sessions, .modes, .power, .plane, .bpm, .flannel, .dram, .comp, .mover, .audio, .host, .events, .recoveries] l (Live.wipeRemove l own n) := by
  unfold Live.wipeRemove
  repeat' first
    | exact (rfl : true = true)
    | with_reducible exact .refl _ _
    | refine .via (by with_reducible exact Live.forgetSnooping_keeps ..) ?_ ?_
    | refine .via (by with_reducible exact Live.poeTo_keeps ..) ?_ ?_
    | refine .via (by with_reducible exact Live.macWipe_keeps ..) ?_ ?_
    | refine .via (by with_reducible exact Live.elemGone_keeps ..) ?_ ?_
    | refine .via (by with_reducible exact Live.clearCells_keeps ..) ?_ ?_
    | refine .via (by with_reducible exact Live.portsForget_keeps ..) ?_ ?_
    | refine .via (by with_reducible exact Live.tnGates_keeps ..) ?_ ?_
    | refine .via (by with_reducible exact Live.toDefault_keeps ..) ?_ ?_
    | refine .via (by with_reducible exact Live.changed_keeps ..) ?_ ?_
    | refine .via (by with_reducible exact Live.clampWipe_keeps ..) ?_ ?_
    | refine .via (by with_reducible exact Live.tnEvents_keeps ..) ?_ ?_
    | refine .via (by with_reducible exact Live.tnCounters_keeps ..) ?_ ?_
    | refine .via (by with_reducible exact Live.setFn_keeps ..) ?_ ?_
    | refine .via (by with_reducible exact Live.flannelWipeStart_keeps ..) ?_ ?_
    | refine .via (by with_reducible exact Live.forcedRelease_keeps ..) ?_ ?_
    | refine .via (by with_reducible exact Live.loadsCut_keeps ..) ?_ ?_
    | refine .via (by with_reducible exact Live.jobsStop_keeps ..) ?_ ?_
    | with_reducible refine .ite ?_ ?_
    | dsimp only
    | with_reducible refine .forL (fun l x => ?_) ?_
    | with_reducible refine .foldl (fun l x => ?_) _ _ ?_
    | with_reducible refine .foldl2 (fun l x => ?_) _ _ ?_
    | with_reducible refine .foldl1 (fun l x => ?_) _ _ ?_
    | split

theorem Live.wipeStart_keeps (l : Live) (n : Nat) (kind : WipeKind) : Keeps [.store, .beat, .dict, .can, .sessions, .modes, .tenancies, .power, .plane, .bpm, .flannel, .dram, .comp, .mover, .audio, .host, .events, .recoveries] l (Live.wipeStart l n kind) := by
  unfold Live.wipeStart
  repeat' first
    | exact (rfl : true = true)
    | with_reducible exact .refl _ _
    | refine .via (by with_reducible exact Live.setTn_keeps ..) ?_ ?_
    | refine .via (by with_reducible exact Live.wr_keeps ..) ?_ ?_
    | refine .via (by with_reducible exact Live.setWipe_keeps ..) ?_ ?_
    | refine .via (by with_reducible exact Live.wipeRemove_keeps ..) ?_ ?_
    | refine .via (by with_reducible exact Live.setDict_keeps ..) ?_ ?_
    | refine .via (by with_reducible exact Live.supersedeQueued_keeps ..) ?_ ?_
    | dsimp only

theorem Live.tnReset_keeps (l : Live) (n : Nat) : Keeps [.store, .beat, .dict, .can, .sessions, .modes, .tenancies, .power, .plane, .bpm, .flannel, .dram, .comp, .mover, .audio, .host, .events, .recoveries] l (Live.tnReset l n) := by
  unfold Live.tnReset
  repeat' first
    | exact (rfl : true = true)
    | with_reducible exact .refl _ _
    | refine .via (by with_reducible exact Live.markDirty_keeps ..) ?_ ?_
    | refine .via (by with_reducible exact Live.wipeStart_keeps ..) ?_ ?_
    | with_reducible refine .ite ?_ ?_
    | dsimp only
    | split

theorem Live.tnDelete_keeps (l : Live) (n : Nat) : Keeps [.store, .beat, .dict, .can, .sessions, .modes, .tenancies, .power, .plane, .bpm, .flannel, .dram, .comp, .mover, .audio, .host, .events, .recoveries] l (Live.tnDelete l n) := by
  unfold Live.tnDelete
  repeat' first
    | exact (rfl : true = true)
    | with_reducible exact .refl _ _
    | refine .via (by with_reducible exact Live.markDirty_keeps ..) ?_ ?_
    | refine .via (by with_reducible exact Live.wipeStart_keeps ..) ?_ ?_
    | with_reducible refine .ite ?_ ?_
    | dsimp only
    | split

theorem Live.wipeSegment_keeps (l : Live) (i : Nat) : Keeps [.bpm, .flannel, .events] l (Live.wipeSegment l i) := by
  unfold Live.wipeSegment
  repeat' first
    | exact (rfl : true = true)
    | with_reducible exact .refl _ _
    | refine .via (by with_reducible exact Live.freeSeg_keeps ..) ?_ ?_
    | refine .via (by with_reducible exact Live.zeroFilled_keeps ..) ?_ ?_
    | with_reducible refine .ite ?_ ?_
    | dsimp only
    | split

theorem Live.segmentWipe_keeps (l : Live) (n : Nat) : Keeps [.bpm, .flannel, .events] l (Live.segmentWipe l n) := by
  unfold Live.segmentWipe
  repeat' first
    | exact (rfl : true = true)
    | with_reducible exact .refl _ _
    | refine .via (by with_reducible exact Live.wipeSegment_keeps ..) ?_ ?_
    | with_reducible refine .ite ?_ ?_
    | dsimp only
    | with_reducible refine .forL (fun l x => ?_) ?_
    | refine .of2 (by assumption) ?_
    | refine .of22 (by assumption) ?_
    | refine .of1 (by assumption) ?_
    | split

theorem Live.tnRecordGone_keeps (l : Live) (n : Nat) : Keeps [.store, .plane] l (l.tnRecordGone n) := by
  unfold Live.tnRecordGone
  refine .forL (fun l key => ?_) (.refl _ _)
  split
  · refine .ite ?_ (.refl _ _)
    have h := (Live.keepVersion_keeps l key ((l.store.find? key).getD 0)).mono (m := [.store, .plane]) rfl
    exact ⟨fun p hp => Live.agree_trans (h.same p hp) (by cases p <;> simp_all [Live.agree]), fun ht => Tbl.del_sorted key ht, h.counts⟩
  · exact .refl _ _

theorem Live.wipeEnd_keeps (l : Live) (n : Nat) (w : TnWipe) : Keeps [.store, .tenancies, .plane, .bpm, .flannel, .events, .recoveries] l (Live.wipeEnd l n w) := by
  unfold Live.wipeEnd
  repeat' first
    | exact (rfl : true = true)
    | with_reducible exact .refl _ _
    | refine .via (by with_reducible exact Live.setWipe_keeps ..) ?_ ?_
    | refine .via (by with_reducible exact Live.tnCounters_keeps ..) ?_ ?_
    | refine .via (by with_reducible exact Live.forcedRelease_keeps ..) ?_ ?_
    | refine .via (by with_reducible exact Live.flannelWipe_keeps ..) ?_ ?_
    | refine .via (by with_reducible exact Live.raise_keeps ..) ?_ ?_
    | refine .via (by with_reducible exact Live.refreshStreams_keeps ..) ?_ ?_
    | refine .via (by with_reducible exact Live.setTn_keeps ..) ?_ ?_
    | refine .via (by with_reducible exact Live.tnRecordGone_keeps ..) ?_ ?_
    | with_reducible refine .ite ?_ ?_
    | dsimp only
    | refine .of2 (by assumption) ?_
    | refine .of22 (by assumption) ?_
    | refine .of1 (by assumption) ?_
    | split

theorem Live.wipesOver_keeps (l : Live) (n : Nat) : Keeps [.store, .dict, .sessions, .modes, .tenancies, .plane, .bpm, .flannel, .events, .recoveries] l (Live.wipesOver l n) := by
  unfold Live.wipesOver
  repeat' first
    | exact (rfl : true = true)
    | with_reducible exact .refl _ _
    | refine .via (by with_reducible exact Live.tenanciesSettle_keeps ..) ?_ ?_
    | refine .via (by with_reducible exact Live.markDirty_keeps ..) ?_ ?_
    | refine .via (by with_reducible exact Live.wipeEnd_keeps ..) ?_ ?_
    | with_reducible refine .ite ?_ ?_
    | dsimp only
    | refine .of2 (by assumption) ?_
    | refine .of22 (by assumption) ?_
    | refine .of1 (by assumption) ?_
    | split

theorem Live.wipeKept_keeps (l : Live) (n : Nat) : Keeps [.store, .beat, .dict, .can, .sessions, .modes, .tenancies, .power, .plane, .bpm, .flannel, .dram, .comp, .mover, .audio, .host, .events, .recoveries] l (Live.wipeKept l n) := by
  unfold Live.wipeKept
  repeat' first
    | exact (rfl : true = true)
    | with_reducible exact .refl _ _
    | refine .via (by with_reducible exact Live.wipeStart_keeps ..) ?_ ?_
    | with_reducible refine .ite ?_ ?_
    | dsimp only
    | split

theorem Live.tnRestore_keeps (l : Live) (n : Nat) : Keeps [.store, .beat, .dict, .can, .sessions, .modes, .tenancies, .power, .plane, .bpm, .flannel, .dram, .comp, .mover, .audio, .host, .events, .recoveries] l (Live.tnRestore l n) := by
  unfold Live.tnRestore
  repeat' first
    | exact (rfl : true = true)
    | with_reducible exact .refl _ _
    | refine .via (by with_reducible exact Live.wipeStart_keeps ..) ?_ ?_
    | refine .via (by with_reducible exact Live.setWipe_keeps ..) ?_ ?_
    | refine .via (by with_reducible exact Live.setTn_keeps ..) ?_ ?_
    | refine .via (by with_reducible exact Live.wipeKept_keeps ..) ?_ ?_
    | dsimp only
    | refine .of2 (by assumption) ?_
    | refine .of22 (by assumption) ?_
    | refine .of1 (by assumption) ?_
    | split

end Sys2Proof.Machine
end

