-- ==== Sys2Proof/Laws/Restart.lean ====
section
/-! SUPPORT. What the operations of Machine/Restart.lean may change. -/

namespace Sys2Proof.Machine

open Sys2Proof

theorem Live.portsFollow_keeps (l : Live) : Keeps [.store, .plane, .events, .recoveries] l (Live.portsFollow l) := by
  unfold Live.portsFollow
  repeat' first
    | exact (rfl : true = true)
    | with_reducible exact .refl _ _
    | refine .via (by with_reducible exact Live.lagSettle_keeps ..) ?_ ?_
    | refine .via (by with_reducible exact Live.linkSettle_keeps ..) ?_ ?_
    | dsimp only
    | with_reducible refine .forN (fun l x => ?_) ?_

theorem Live.enterSupervisor_keeps (l : Live) : Keeps [.store, .beat, .power, .plane, .flannel, .dram, .host, .events, .recoveries] l (Live.enterSupervisor l) := by
  unfold Live.enterSupervisor
  repeat' first
    | exact (rfl : true = true)
    | with_reducible exact .refl _ _
    | refine .via (by with_reducible exact Live.pcieDown_keeps ..) ?_ ?_
    | refine .via (by with_reducible exact Live.beatHolds_keeps ..) ?_ ?_
    | refine .via (by with_reducible exact Live.selfRefresh_keeps ..) ?_ ?_
    | refine .via (by with_reducible exact Live.flannelHalt_keeps ..) ?_ ?_
    | refine .via (by with_reducible exact Live.poeAllOff_keeps ..) ?_ ?_
    | refine .via (by with_reducible exact Live.loseArmed_keeps ..) ?_ ?_
    | refine .via (by with_reducible exact Live.discardAll_keeps ..) ?_ ?_
    | refine .via (by with_reducible exact Live.recoveriesDropped_keeps ..) ?_ ?_
    | refine .via (by with_reducible exact Live.portsFollow_keeps ..) ?_ ?_
    | dsimp only

theorem Live.enterFreeze_keeps (l : Live) : Keeps [.store, .plane, .events, .recoveries] l (Live.enterFreeze l) := by
  unfold Live.enterFreeze
  repeat' first
    | exact (rfl : true = true)
    | with_reducible exact .refl _ _
    | refine .via (by with_reducible exact Live.leaveLink_keeps ..) ?_ ?_
    | refine .via (by with_reducible exact Live.clearPauses_keeps ..) ?_ ?_
    | refine .via (by with_reducible exact Live.linkTo_keeps ..) ?_ ?_
    | refine .via (by with_reducible exact Live.withdraw_keeps ..) ?_ ?_
    | refine .via (by with_reducible exact Live.recoveriesDropped_keeps ..) ?_ ?_
    | refine .via (by with_reducible exact Live.lagSettle_keeps ..) ?_ ?_
    | with_reducible refine .ite ?_ ?_
    | dsimp only
    | with_reducible refine .forN (fun l x => ?_) ?_
    | split

theorem Live.enterWipe_keeps (l : Live) : Keeps [.store, .modes, .power, .plane, .host, .events, .recoveries] l (Live.enterWipe l) := by
  unfold Live.enterWipe
  repeat' first
    | exact (rfl : true = true)
    | with_reducible exact .refl _ _
    | refine .via (by with_reducible exact Live.recoveriesDropped_keeps ..) ?_ ?_
    | refine .via (by with_reducible exact Live.portsFollow_keeps ..) ?_ ?_
    | refine .via (by with_reducible exact Live.pcieDown_keeps ..) ?_ ?_
    | refine .via (by with_reducible exact Live.poeAllOff_keeps ..) ?_ ?_
    | refine .via (by with_reducible exact Live.loseArmed_keeps ..) ?_ ?_
    | refine .via (by with_reducible exact Live.discardAll_keeps ..) ?_ ?_
    | refine .via (by with_reducible exact Live.raise_keeps ..) ?_ ?_
    | refine .via (by with_reducible exact Live.setModes_keeps (fun _ => by exact rfl) ..) ?_ ?_
    | dsimp only

theorem Live.leaveRunning_keeps (l : Live) : Keeps [.store, .plane, .flannel, .events, .recoveries] l (Live.leaveRunning l) := by
  unfold Live.leaveRunning
  repeat' first
    | exact (rfl : true = true)
    | with_reducible exact .refl _ _
    | refine .via (by with_reducible exact Live.refreshStreams_keeps ..) ?_ ?_
    | refine .via (by with_reducible exact Live.discardPort_keeps ..) ?_ ?_
    | with_reducible refine .ite ?_ ?_
    | dsimp only
    | with_reducible refine .forN (fun l x => ?_) ?_
    | split

theorem Live.enterRunning_keeps (l : Live) : Keeps [.store, .plane, .flannel, .events, .recoveries] l (Live.enterRunning l) := by
  unfold Live.enterRunning
  repeat' first
    | exact (rfl : true = true)
    | with_reducible exact .refl _ _
    | refine .via (by with_reducible exact Live.kickAll_keeps ..) ?_ ?_
    | refine .via (by with_reducible exact Live.refreshStreams_keeps ..) ?_ ?_
    | refine .via (by with_reducible exact Live.probeRun_keeps ..) ?_ ?_
    | dsimp only

theorem Live.entered_keeps (l : Live) (old : Mode) : Keeps [.store, .beat, .dict, .can, .modes, .power, .plane, .flannel, .dram, .host, .events, .recoveries] l (Live.entered l old) := by
  unfold Live.entered
  repeat' first
    | exact (rfl : true = true)
    | with_reducible exact .refl _ _
    | refine .via (by with_reducible exact Live.disarmStrobe_keeps ..) ?_ ?_
    | refine .via (by with_reducible exact Live.enterSupervisor_keeps ..) ?_ ?_
    | refine .via (by with_reducible exact Live.portsFollow_keeps ..) ?_ ?_
    | refine .via (by with_reducible exact Live.enterFreeze_keeps ..) ?_ ?_
    | refine .via (by with_reducible exact Live.enterWipe_keeps ..) ?_ ?_
    | refine .via (by with_reducible exact Live.leaveRunning_keeps ..) ?_ ?_
    | refine .via (by with_reducible exact Live.canStart_keeps ..) ?_ ?_
    | refine .via (by with_reducible exact Live.enterRunning_keeps ..) ?_ ?_
    | with_reducible refine .ite ?_ ?_
    | dsimp only
    | with_reducible refine .forN (fun l x => ?_) ?_
    | refine .of2 (by assumption) ?_
    | refine .of22 (by assumption) ?_
    | refine .of1 (by assumption) ?_
    | split

theorem Live.holdArisen_keeps (l : Live) : Keeps [.store, .events] l (Live.holdArisen l) := by
  unfold Live.holdArisen
  repeat' first
    | exact (rfl : true = true)
    | with_reducible exact .refl _ _
    | refine .via (by with_reducible exact Live.hold_keeps ..) ?_ ?_
    | dsimp only
    | with_reducible refine .foldl (fun l x => ?_) _ _ ?_
    | with_reducible refine .foldl2 (fun l x => ?_) _ _ ?_
    | with_reducible refine .foldl1 (fun l x => ?_) _ _ ?_
    | with_reducible refine .events ?_ ?_

theorem Live.modeTo_keeps (l : Live) (m : Mode) (cause : Nat) : Keeps [.store, .mode, .modes, .events] l (Live.modeTo l m cause) := by
  unfold Live.modeTo
  repeat' first
    | exact (rfl : true = true)
    | with_reducible exact .refl _ _
    | refine .via (by with_reducible exact Live.holdArisen_keeps ..) ?_ ?_
    | refine .via (by with_reducible exact Live.raise_keeps ..) ?_ ?_
    | refine .via (by with_reducible exact Live.setModes_keeps (fun _ => by exact rfl) ..) ?_ ?_
    | refine .via (by with_reducible exact Live.setModes_keeps_all ..) ?_ ?_
    | with_reducible refine .ite ?_ ?_
    | dsimp only
    | split
    | with_reducible refine .mode ?_ ?_

theorem Live.enter_keeps (l : Live) (m : Mode) (cause : Nat) : Keeps [.store, .beat, .dict, .can, .mode, .modes, .power, .plane, .bpm, .flannel, .dram, .audio, .host, .events, .recoveries] l (Live.enter l m cause) := by
  unfold Live.enter
  repeat' first
    | exact (rfl : true = true)
    | with_reducible exact .refl _ _
    | refine .via (by with_reducible exact Live.entered_keeps ..) ?_ ?_
    | refine .via (by with_reducible exact Live.audioMode_keeps ..) ?_ ?_
    | refine .via (by with_reducible exact Live.modeTo_keeps ..) ?_ ?_
    | with_reducible refine .ite ?_ ?_
    | dsimp only
    | split

theorem Live.countersBack_keeps (l : Live) : Keeps [.store, .modes, .events] l (Live.countersBack l) := by
  unfold Live.countersBack
  repeat' first
    | exact (rfl : true = true)
    | with_reducible exact .refl _ _
    | refine .via (by with_reducible exact Live.wr_keeps ..) ?_ ?_
    | refine .via (by with_reducible exact Live.count_keeps ..) ?_ ?_
    | refine .via (by with_reducible exact Live.setModes_keeps (fun _ => by exact rfl) ..) ?_ ?_
    | dsimp only
    | with_reducible refine .foldl (fun l x => ?_) _ _ ?_
    | with_reducible refine .foldl2 (fun l x => ?_) _ _ ?_
    | with_reducible refine .foldl1 (fun l x => ?_) _ _ ?_
    | refine .of2 (by assumption) ?_
    | refine .of22 (by assumption) ?_
    | refine .of1 (by assumption) ?_
    | split

theorem Live.modulesBack_keeps (l : Live) : Keeps [.store, .plane, .events] l (Live.modulesBack l) := by
  unfold Live.modulesBack
  repeat' first
    | exact (rfl : true = true)
    | with_reducible exact .refl _ _
    | refine .via (by with_reducible exact Live.moduleArrives_keeps ..) ?_ ?_
    | with_reducible refine .ite ?_ ?_
    | dsimp only
    | with_reducible refine .forN (fun l x => ?_) ?_
    | split

theorem Live.sessionsBack_keeps (l : Live) : Keeps [.store, .dict, .sessions, .events] l (Live.sessionsBack l) := by
  unfold Live.sessionsBack
  repeat' first
    | exact (rfl : true = true)
    | with_reducible exact .refl _ _
    | refine .via (by with_reducible exact Live.setSession_keeps ..) ?_ ?_
    | refine .via (by with_reducible exact Live.sessionOpen_keeps ..) ?_ ?_
    | with_reducible refine .ite ?_ ?_
    | dsimp only
    | with_reducible refine .forN (fun l x => ?_) ?_
    | split

theorem Live.autoService_keeps (l : Live) : Keeps [.dict] l (Live.autoService l) := by
  unfold Live.autoService
  repeat' first
    | exact (rfl : true = true)
    | with_reducible exact .refl _ _
    | refine .via (by with_reducible exact Live.enqueueWrite_keeps ..) ?_ ?_
    | with_reducible refine .ite ?_ ?_
    | dsimp only
    | split

theorem Live.configureEntry_keeps (l : Live) : Keeps [.store, .beat, .dict, .can, .sessions, .mode, .modes, .tenancies, .power, .plane, .bpm, .flannel, .dram, .comp, .mover, .audio, .host, .events, .recoveries, .enclosure] l l.configureEntry := by
  unfold Live.configureEntry
  extract_lets cls l1 l2 l3 l4 l5 l6 l7 l8 l9 pw l10
  have h1 : Keeps [.store, .beat, .dict, .can, .sessions, .mode, .modes, .tenancies, .power, .plane, .bpm, .flannel, .dram, .comp, .mover, .audio, .host, .events, .recoveries, .enclosure] l l1 := .via (Live.countersBack_keeps ..) rfl ((Live.modeTo_keeps ..).mono rfl)
  have h2 : Keeps [.store, .beat, .dict, .can, .sessions, .mode, .modes, .tenancies, .power, .plane, .bpm, .flannel, .dram, .comp, .mover, .audio, .host, .events, .recoveries, .enclosure] l l2 :=
    .via (Live.tenanciesSettle_keeps ..) rfl (.foldl (fun l k => (Live.tnRestore_keeps l (k + 1)).mono rfl) _ _ h1)
  have h3 : Keeps [.store, .beat, .dict, .can, .sessions, .mode, .modes, .tenancies, .power, .plane, .bpm, .flannel, .dram, .comp, .mover, .audio, .host, .events, .recoveries, .enclosure] l l3 :=
    .via (Live.modulesBack_keeps ..) rfl (.via (Live.portsFollow_keeps ..) rfl
      (.forN (fun l k => (Live.canStart_keeps l k).mono rfl) (.via (Live.sessionsBack_keeps ..) rfl h2)))
  have h4 : Keeps [.store, .beat, .dict, .can, .sessions, .mode, .modes, .tenancies, .power, .plane, .bpm, .flannel, .dram, .comp, .mover, .audio, .host, .events, .recoveries, .enclosure] l l4 :=
    .via (Live.queuesStart_keeps ..) rfl (.via (Live.ptpStart_keeps ..) rfl (.via (Live.reportHeld_keeps ..) rfl
      (.via (Live.gpioConfigure_keeps ..) rfl (.via (Live.dramConfigure_keeps ..) rfl
        (.ite (.via (Live.sweepStart_keeps ..) rfl h3) h3)))))
  have h5 : Keeps [.store, .beat, .dict, .can, .sessions, .mode, .modes, .tenancies, .power, .plane, .bpm, .flannel, .dram, .comp, .mover, .audio, .host, .events, .recoveries, .enclosure] l l5 := .via (Live.refreshStreams_keeps ..) rfl (.via (Live.audioMode_keeps ..) rfl h4)
  have h6 : Keeps [.store, .beat, .dict, .can, .sessions, .mode, .modes, .tenancies, .power, .plane, .bpm, .flannel, .dram, .comp, .mover, .audio, .host, .events, .recoveries, .enclosure] l l6 :=
    .via (Live.journalRecoveries_keeps ..) rfl (.via (Live.recoveryDone_keeps ..) rfl
      (.via (Live.recoveriesRestarted_keeps ..) rfl h5))
  have h7 : Keeps [.store, .beat, .dict, .can, .sessions, .mode, .modes, .tenancies, .power, .plane, .bpm, .flannel, .dram, .comp, .mover, .audio, .host, .events, .recoveries, .enclosure] l l7 := .ite (.via (Live.raise_keeps ..) rfl h6) h6
  have h8 : Keeps [.store, .beat, .dict, .can, .sessions, .mode, .modes, .tenancies, .power, .plane, .bpm, .flannel, .dram, .comp, .mover, .audio, .host, .events, .recoveries, .enclosure] l l8 := .via (Live.setUnit_keeps ..) rfl h7
  have h9 : Keeps [.store, .beat, .dict, .can, .sessions, .mode, .modes, .tenancies, .power, .plane, .bpm, .flannel, .dram, .comp, .mover, .audio, .host, .events, .recoveries, .enclosure] l l9 := .via (Live.setModes_keeps (fun _ => by exact rfl) _) rfl h8
  have h10 : Keeps [.store, .beat, .dict, .can, .sessions, .mode, .modes, .tenancies, .power, .plane, .bpm, .flannel, .dram, .comp, .mover, .audio, .host, .events, .recoveries, .enclosure] l l10 := .power h9 rfl
  exact .via (Live.autoService_keeps ..) rfl (.via (Live.poeAdopt_keeps ..) rfl h10)

theorem Live.archiveCounters_keeps (l : Live) : Keeps [.modes] l (Live.archiveCounters l) := by
  unfold Live.archiveCounters
  repeat' first
    | exact (rfl : true = true)
    | with_reducible exact .refl _ _
    | refine .via (by with_reducible exact Live.setModes_keeps (fun _ => by exact rfl) ..) ?_ ?_
    | dsimp only

theorem Live.relaysDrop_keeps (l : Live) : Keeps [.store, .events] l (Live.relaysDrop l) := by
  unfold Live.relaysDrop
  repeat' first
    | exact (rfl : true = true)
    | with_reducible exact .refl _ _
    | refine .via (by with_reducible exact Live.relayTo_keeps ..) ?_ ?_
    | with_reducible refine .ite ?_ ?_
    | dsimp only
    | with_reducible refine .forN (fun l x => ?_) ?_
    | split

theorem Live.stopAll_keeps (l : Live) : Keeps [.store, .can, .mailboxes, .plane, .host, .events, .recoveries] l (Live.stopAll l) := by
  unfold Live.stopAll
  repeat' first
    | exact (rfl : true = true)
    | with_reducible exact .refl _ _
    | refine .via (by with_reducible exact Live.relaysDrop_keeps ..) ?_ ?_
    | refine .via (by with_reducible exact Live.canRestart_keeps ..) ?_ ?_
    | refine .via (by with_reducible exact Live.hostRestart_keeps ..) ?_ ?_
    | refine .via (by with_reducible exact Live.discardAll_keeps ..) ?_ ?_
    | dsimp only

theorem Live.cutNor_keeps (l : Live) (trialStarts : Bool) : Keeps [.store, .modes] l (Live.cutNor l trialStarts) := by
  unfold Live.cutNor
  repeat' first
    | exact (rfl : true = true)
    | with_reducible exact .refl _ _
    | refine .via (by with_reducible exact Live.wr_keeps ..) ?_ ?_
    | refine .via (by with_reducible exact Live.setModes_keeps (fun _ => by exact rfl) ..) ?_ ?_
    | with_reducible refine .ite ?_ ?_
    | dsimp only
    | split

theorem Live.wiped_keeps (l : Live) (kind : ResetKind) (keep : Bool) :
    Keeps [.store, .clock, .beat, .dict, .can, .sessions, .mailboxes, .modes, .tenancies, .power, .plane, .bpm, .flannel, .dram, .comp, .mover, .audio, .host, .events, .recoveries, .enclosure] l (l.wiped kind keep) := by
  unfold Live.wiped
  extract_lets same beat base l1 l2
  have hb : l.beat.ticks ≤ beat.ticks := by
    show _ ≤ (l.beatReset _).ticks
    unfold Live.beatReset
    split
    · exact Nat.le_succ _
    · exact Nat.le_refl _
  have h : Keeps [.store, .clock, .beat, .dict, .can, .sessions, .mailboxes, .modes, .tenancies, .power, .plane, .bpm, .flannel, .dram, .comp, .mover, .audio, .host, .events, .recoveries, .enclosure] l base :=
    ⟨fun p hp => by cases p <;> first | exact absurd hp (by decide) | exact rfl, fun h => Tbl.filter_sorted _ h,
      hb, Nat.le_refl _⟩
  have h1 : Keeps [.store, .clock, .beat, .dict, .can, .sessions, .mailboxes, .modes, .tenancies, .power, .plane, .bpm, .flannel, .dram, .comp, .mover, .audio, .host, .events, .recoveries, .enclosure] l l1 := .via (Live.dramRestart_keeps ..) rfl (.via (Live.flannelRestart_keeps ..) rfl h)
  have h2 : Keeps [.store, .clock, .beat, .dict, .can, .sessions, .mailboxes, .modes, .tenancies, .power, .plane, .bpm, .flannel, .dram, .comp, .mover, .audio, .host, .events, .recoveries, .enclosure] l l2 := .ite (.via (Live.islandKeep_keeps ..) rfl h1) h1
  exact .via (Live.unitRestart_keeps ..) rfl h2

theorem Live.wiped_same_keeps {kind : ResetKind} (hk : (kind == .warm || kind == .wake) = true) (l : Live) (keep : Bool) :
    Keeps [.store, .beat, .dict, .can, .sessions, .mailboxes, .modes, .tenancies, .power, .plane, .bpm, .flannel, .dram, .comp, .mover, .audio, .host, .events, .recoveries, .enclosure] l (l.wiped kind keep) := by
  unfold Live.wiped
  extract_lets same beat base l1 l2
  have hb : beat.number = l.beat.number ∧ beat.ticks = l.beat.ticks ∧ beat.elapsed = l.beat.elapsed := by
    show (l.beatReset kind).number = _ ∧ (l.beatReset kind).ticks = _ ∧ (l.beatReset kind).elapsed = _
    have e : ¬(kind = .powerOn ∨ kind = .lifeCycle) := by
      intro h
      cases h <;> (subst kind; exact Bool.noConfusion hk)
    unfold Live.beatReset
    rw [if_neg e]
    exact ⟨rfl, rfl, rfl⟩
  have h : Keeps [.store, .beat, .dict, .can, .sessions, .mailboxes, .modes, .tenancies, .power, .plane, .bpm, .flannel, .dram, .comp, .mover, .audio, .host, .events, .recoveries, .enclosure] l base :=
    ⟨fun p hp => by cases p <;> first | exact absurd hp (by decide) | exact rfl | exact ⟨hb.1.symm, hb.2.1.symm, hb.2.2.symm⟩, fun h => Tbl.filter_sorted _ h,
      Nat.le_of_eq hb.2.1.symm, Nat.le_refl _⟩
  have h1 : Keeps [.store, .beat, .dict, .can, .sessions, .mailboxes, .modes, .tenancies, .power, .plane, .bpm, .flannel, .dram, .comp, .mover, .audio, .host, .events, .recoveries, .enclosure] l l1 := .via (Live.dramRestart_keeps ..) rfl (.via (Live.flannelRestart_keeps ..) rfl h)
  have h2 : Keeps [.store, .beat, .dict, .can, .sessions, .mailboxes, .modes, .tenancies, .power, .plane, .bpm, .flannel, .dram, .comp, .mover, .audio, .host, .events, .recoveries, .enclosure] l l2 := .ite (.via (Live.islandKeep_keeps ..) rfl h1) h1
  exact .via (Live.unitRestart_keeps ..) rfl h2

theorem Live.restart_keeps (l00 : Live) (why : Nat) : Keeps [.store, .beat, .dict, .can, .sessions, .mailboxes, .mode, .modes, .tenancies, .power, .plane, .bpm, .flannel, .dram, .comp, .mover, .audio, .host, .events, .recoveries, .enclosure] l00 (Live.restart l00 why) := by
  unfold Live.restart
  repeat' first
    | exact (rfl : true = true)
    | with_reducible exact .refl _ _
    | refine .via (by with_reducible exact Live.replayDone_keeps ..) ?_ ?_
    | refine .via (by with_reducible exact Live.recoveryStart_keeps ..) ?_ ?_
    | refine .via (by with_reducible exact Live.audioMode_keeps ..) ?_ ?_
    | refine .via (by with_reducible exact Live.archiveCounters_keeps ..) ?_ ?_
    | refine .via (by with_reducible exact Live.portsFollow_keeps ..) ?_ ?_
    | refine .via (by with_reducible exact Live.modeTo_keeps ..) ?_ ?_
    | refine .via (by with_reducible exact Live.stopAll_keeps ..) ?_ ?_
    | refine .via (by with_reducible exact Live.raise_keeps ..) ?_ ?_
    | refine .via (by with_reducible exact Live.wr_keeps ..) ?_ ?_
    | refine .via (by with_reducible exact Live.cutNor_keeps ..) ?_ ?_
    | refine .via (by with_reducible exact Live.wiped_same_keeps (by split <;> decide) ..) ?_ ?_
    | refine .via (by with_reducible exact Live.withdraw_keeps ..) ?_ ?_
    | with_reducible refine .ite ?_ ?_
    | dsimp only
    | with_reducible refine .forN (fun l x => ?_) ?_
    | refine .of2 (by assumption) ?_
    | refine .of22 (by assumption) ?_
    | refine .of1 (by assumption) ?_
    | split

theorem Live.newRun_keeps (l : Live) (kind : ResetKind) : Keeps [.store, .clock, .beat, .dict, .can, .sessions, .mailboxes, .mode, .modes, .tenancies, .power, .plane, .bpm, .flannel, .dram, .comp, .mover, .audio, .host, .events, .recoveries, .enclosure] l (Live.newRun l kind) := by
  unfold Live.newRun
  repeat' first
    | exact (rfl : true = true)
    | with_reducible exact .refl _ _
    | refine .via (by with_reducible exact Live.cutNor_keeps ..) ?_ ?_
    | refine .via (by with_reducible exact Live.wiped_keeps ..) ?_ ?_
    | refine .via (by with_reducible exact Live.wr_keeps ..) ?_ ?_
    | refine .via (by with_reducible exact Live.modeTo_keeps ..) ?_ ?_
    | refine .via (by with_reducible exact Live.setModes_keeps (fun _ => by exact rfl) ..) ?_ ?_
    | refine .via (by with_reducible exact Live.setModes_keeps_all ..) ?_ ?_
    | with_reducible refine .ite ?_ ?_
    | dsimp only
    | split
    | with_reducible refine .events ?_ ?_

end Sys2Proof.Machine
end

