-- ==== Sys2Proof/Laws/HostRegs.lean ====
section
/-! SUPPORT. What the operations of Machine/HostRegs.lean may change. -/

namespace Sys2Proof.Machine

open Sys2Proof

theorem Live.romVerdict_keeps (l : Live) : Keeps [.host] l (Live.romVerdict l) := by
  unfold Live.romVerdict
  repeat' first
    | exact (rfl : true = true)
    | with_reducible exact .refl _ _
    | refine .via (by with_reducible exact Live.setHost_keeps ..) ?_ ?_
    | with_reducible refine .ite ?_ ?_
    | dsimp only
    | split

theorem Live.mbxNext_keeps (l : Live) (f : Nat) : Keeps [.mailboxes, .host] l (Live.mbxNext l f) := by
  unfold Live.mbxNext
  repeat' first
    | exact (rfl : true = true)
    | with_reducible exact .refl _ _
    | refine .via (by with_reducible exact Live.setMbx_keeps ..) ?_ ?_
    | refine .via (by with_reducible exact Live.signalVector_keeps ..) ?_ ?_
    | with_reducible refine .ite ?_ ?_
    | dsimp only
    | split

theorem Live.apertureRead_keeps (l : Live) (f offset len : Nat) : Keeps [.store, .host, .events] l (Live.apertureRead l f offset len) := by
  unfold Live.apertureRead
  repeat' first
    | exact (rfl : true = true)
    | with_reducible exact .refl _ _
    | refine .via (by with_reducible exact Live.setFn_keeps ..) ?_ ?_
    | refine .via (by with_reducible exact Live.mark_keeps ..) ?_ ?_
    | refine .via (by with_reducible exact Live.bpmFault_keeps ..) ?_ ?_
    | refine .via (by with_reducible exact Live.poisonToHost_keeps ..) ?_ ?_
    | with_reducible refine .ite ?_ ?_
    | dsimp only
    | split

theorem Live.apertureStore_keeps (l : Live) (f offset : Nat) (data : List Byte) (poison : Bool) : Keeps [.store, .bpm, .host, .events] l (Live.apertureStore l f offset data poison) := by
  unfold Live.apertureStore
  repeat' first
    | exact (rfl : true = true)
    | with_reducible exact .refl _ _
    | refine .via (by with_reducible exact Live.hostFault_keeps ..) ?_ ?_
    | refine .via (by with_reducible exact Live.bpmFault_keeps ..) ?_ ?_
    | refine .via (by with_reducible exact Live.bufWrite_keeps ..) ?_ ?_
    | refine .via (by with_reducible exact Live.poisonFromHost_keeps ..) ?_ ?_
    | with_reducible refine .ite ?_ ?_
    | dsimp only
    | split

theorem Live.recoveryCommit_keeps (l : Live) (length : Nat) : Keeps [.host] l (Live.recoveryCommit l length) := by
  unfold Live.recoveryCommit
  repeat' first
    | exact (rfl : true = true)
    | with_reducible exact .refl _ _
    | refine .via (by with_reducible exact Live.setHost_keeps ..) ?_ ?_
    | with_reducible refine .ite ?_ ?_
    | dsimp only
    | split

theorem Live.doorbell_keeps (l : Live) (f : Nat) : Keeps [.store, .mailboxes, .host, .events] l (Live.doorbell l f) := by
  unfold Live.doorbell
  repeat' first
    | exact (rfl : true = true)
    | with_reducible exact .refl _ _
    | refine .via (by with_reducible exact Live.hostFault_keeps ..) ?_ ?_
    | refine .via (by with_reducible exact Live.raise_keeps ..) ?_ ?_
    | refine .via (by with_reducible exact Live.setMbx_keeps ..) ?_ ?_
    | with_reducible refine .ite ?_ ?_
    | dsimp only
    | split

theorem Live.rspRelease_keeps (l : Live) (f : Nat) : Keeps [.mailboxes, .host] l (Live.rspRelease l f) := by
  unfold Live.rspRelease
  repeat' first
    | exact (rfl : true = true)
    | with_reducible exact .refl _ _
    | refine .via (by with_reducible exact Live.mbxNext_keeps ..) ?_ ?_
    | refine .via (by with_reducible exact Live.setMbx_keeps ..) ?_ ?_
    | dsimp only

theorem Live.bpmCommand_keeps (l : Live) (f v : Nat) : Keeps [.store, .bpm, .events] l (Live.bpmCommand l f v) := by
  unfold Live.bpmCommand
  repeat' first
    | exact (rfl : true = true)
    | with_reducible exact .refl _ _
    | refine .via (by with_reducible exact Live.alloc_keeps ..) ?_ ?_
    | refine .via (by with_reducible exact Live.bpmResult_keeps ..) ?_ ?_
    | refine .via (by with_reducible exact Live.share_keeps ..) ?_ ?_
    | refine .via (by with_reducible exact Live.release_keeps ..) ?_ ?_
    | refine .via (by with_reducible exact Live.freeHandle_keeps ..) ?_ ?_
    | with_reducible refine .ite ?_ ?_
    | dsimp only
    | refine .of2 (by assumption) ?_
    | refine .of22 (by assumption) ?_
    | refine .of1 (by assumption) ?_
    | split

theorem Live.ringReg_keeps (l : Live) (f k x at_ off : Nat) (data : List Byte) :
    Keeps [.store, .host, .events] l (l.ringReg f k x at_ off data) := by
  have hb (a b c : Nat) : Keeps [.store, .host, .events] l (l.hostFault f a b c data) := (Live.hostFault_keeps ..).mono rfl
  have hs (k : Nat) (g : Ring → Ring) : Keeps [.store, .host, .events] l (l.setRing f k g) := (Live.setRing_keeps ..).mono rfl
  unfold Live.ringReg
  dsimp only
  split
  · exact .ite (hb ..) (hs ..)
  · exact .ite (hb ..) (hs ..)
  · exact (Live.ringControlWrite_keeps ..).mono rfl
  · exact (Live.sqTailWrite_keeps ..).mono rfl
  · exact (Live.cqHeadWrite_keeps ..).mono rfl
  · exact .ite (hb ..) (hs ..)
  · exact hs ..
  · exact hb ..

theorem Live.ringWrite_keeps (l : Live) (f off reg : Nat) (data : List Byte) : Keeps [.store, .host, .events] l (Live.ringWrite l f off reg data) := by
  unfold Live.ringWrite
  repeat' first
    | exact (rfl : true = true)
    | with_reducible exact .refl _ _
    | refine .via (by with_reducible exact Live.ringReg_keeps ..) ?_ ?_
    | dsimp only

theorem Live.registerSet_keeps (l : Live) (f off reg width : Nat) (data : List Byte) : Keeps [.store, .mailboxes, .bpm, .host, .events] l (Live.registerSet l f off reg width data) := by
  unfold Live.registerSet
  repeat' first
    | exact (rfl : true = true)
    | with_reducible exact .refl _ _
    | refine .via (by with_reducible exact Live.hostFault_keeps ..) ?_ ?_
    | refine .via (by with_reducible exact Live.setFn_keeps ..) ?_ ?_
    | refine .via (by with_reducible exact Live.hostAlive_keeps ..) ?_ ?_
    | refine .via (by with_reducible exact Live.setHost_keeps ..) ?_ ?_
    | refine .via (by with_reducible exact Live.recoveryCommit_keeps ..) ?_ ?_
    | refine .via (by with_reducible exact Live.doorbell_keeps ..) ?_ ?_
    | refine .via (by with_reducible exact Live.setMbx_keeps ..) ?_ ?_
    | refine .via (by with_reducible exact Live.rspRelease_keeps ..) ?_ ?_
    | refine .via (by with_reducible exact Live.bpmCommand_keeps ..) ?_ ?_
    | refine .via (by with_reducible exact Live.ringWrite_keeps ..) ?_ ?_
    | refine .via (by with_reducible exact Live.unmaskVectors_keeps ..) ?_ ?_
    | with_reducible refine .ite ?_ ?_
    | dsimp only
    | refine .of2 (by assumption) ?_
    | refine .of22 (by assumption) ?_
    | refine .of1 (by assumption) ?_
    | split

theorem Live.recoveryWrite_keeps (l : Live) (f off : Nat) (data : List Byte) (poison : Bool) : Keeps [.store, .mailboxes, .bpm, .host, .events] l (Live.recoveryWrite l f off data poison) := by
  unfold Live.recoveryWrite
  repeat' first
    | exact (rfl : true = true)
    | with_reducible exact .refl _ _
    | refine .via (by with_reducible exact Live.setHost_keeps ..) ?_ ?_
    | refine .via (by with_reducible exact Live.registerSet_keeps ..) ?_ ?_
    | with_reducible refine .ite ?_ ?_
    | dsimp only
    | refine .of2 (by assumption) ?_
    | refine .of22 (by assumption) ?_
    | refine .of1 (by assumption) ?_
    | split

theorem Live.pageWrite_keeps (l : Live) (f off : Nat) (data : List Byte) : Keeps [.store, .mailboxes, .bpm, .host, .events] l (Live.pageWrite l f off data) := by
  unfold Live.pageWrite
  repeat' first
    | exact (rfl : true = true)
    | with_reducible exact .refl _ _
    | refine .via (by with_reducible exact Live.hostFault_keeps ..) ?_ ?_
    | refine .via (by with_reducible exact Live.registerSet_keeps ..) ?_ ?_
    | with_reducible refine .ite ?_ ?_
    | dsimp only
    | refine .of2 (by assumption) ?_
    | refine .of22 (by assumption) ?_
    | refine .of1 (by assumption) ?_
    | split

theorem Live.barWrite_keeps (l : Live) (f off : Nat) (data : List Byte) (poison : Bool) : Keeps [.store, .mailboxes, .bpm, .host, .events] l (Live.barWrite l f off data poison) := by
  unfold Live.barWrite
  repeat' first
    | exact (rfl : true = true)
    | with_reducible exact .refl _ _
    | refine .via (by with_reducible exact Live.recoveryWrite_keeps ..) ?_ ?_
    | refine .via (by with_reducible exact Live.hostFault_keeps ..) ?_ ?_
    | refine .via (by with_reducible exact Live.apertureStore_keeps ..) ?_ ?_
    | refine .via (by with_reducible exact Live.mark_keeps ..) ?_ ?_
    | refine .via (by with_reducible exact Live.pageWrite_keeps ..) ?_ ?_
    | with_reducible refine .ite ?_ ?_
    | dsimp only
    | split

theorem Live.recoveryUse_keeps (l : Live) : Keeps [.store, .beat, .dict, .can, .sessions, .mailboxes, .mode, .modes, .tenancies, .power, .plane, .bpm, .flannel, .dram, .comp, .mover, .audio, .host, .events, .recoveries, .enclosure] l (Live.recoveryUse l) := by
  unfold Live.recoveryUse
  repeat' first
    | exact (rfl : true = true)
    | with_reducible exact .refl _ _
    | refine .via (by with_reducible exact Live.setModes_keeps (fun _ => by exact rfl) ..) ?_ ?_
    | refine .via (by with_reducible exact Live.setModes_keeps_all ..) ?_ ?_
    | refine .via (by with_reducible exact Live.setHost_keeps ..) ?_ ?_
    | refine .via (by with_reducible exact Live.restart_keeps ..) ?_ ?_
    | refine .via (by with_reducible exact Live.raise_keeps ..) ?_ ?_
    | refine .via (by with_reducible exact Live.wr_keeps ..) ?_ ?_
    | with_reducible refine .ite ?_ ?_
    | dsimp only
    | with_reducible refine .foldl (fun l x => ?_) _ _ ?_
    | with_reducible refine .foldl2 (fun l x => ?_) _ _ ?_
    | with_reducible refine .foldl1 (fun l x => ?_) _ _ ?_
    | split

end Sys2Proof.Machine
end

