-- ==== Sys2Proof/Laws/Modes.lean ====
section
/-! SUPPORT. What the operations of Machine/Modes.lean may change. -/

namespace Sys2Proof.Machine

open Sys2Proof

theorem Live.asks_keeps {f : Modes → Modes} (hf : ∀ m, (f m).mode = m.mode) (l : Live) :
    Keeps [.store, .modes] l (l.asks f) := by
  unfold Live.asks
  refine .via (Live.setModes_keeps (fun m => by exact hf m) _) ?_ (Live.dormantWithdrawn_keeps l)
  rfl

theorem Live.lifeCycle_keeps (l : Live) (v : Nat) (formed : Bool) (confirm : Option Nat) (auth : Option (List Byte)) (challenge : Nat × Nat) : Keeps [.store, .modes, .events] l (Live.lifeCycle l v formed confirm auth challenge).2 := by
  unfold Live.lifeCycle
  repeat' first
    | exact (rfl : true = true)
    | with_reducible exact .refl _ _
    | refine .via (by with_reducible exact Live.wr_keeps ..) ?_ ?_
    | refine .via (by with_reducible exact Live.asks_keeps (fun _ => by exact rfl) ..) ?_ ?_
    | refine .via (by with_reducible exact Live.raise_keeps ..) ?_ ?_
    | with_reducible refine .ite ?_ ?_
    | with_reducible refine .ite2 ?_ ?_
    | dsimp only
    | refine .of2 (by assumption) ?_
    | refine .of22 (by assumption) ?_
    | refine .of1 (by assumption) ?_
    | split

theorem Live.lcCommand_keeps (l : Live) (v : Nat) (w : PendingWrite) : Keeps [.store, .modes, .events] l (Live.lcCommand l v w).2 := by
  unfold Live.lcCommand
  repeat' first
    | exact (rfl : true = true)
    | with_reducible exact .refl _ _
    | refine .via (by with_reducible exact Live.lifeCycle_keeps ..) ?_ ?_
    | with_reducible refine .ite ?_ ?_
    | with_reducible refine .ite2 ?_ ?_
    | dsimp only
    | split

theorem Live.imageConfirm_keeps (l : Live) : Keeps [.store, .modes, .events] l (Live.imageConfirm l) := by
  unfold Live.imageConfirm
  repeat' first
    | exact (rfl : true = true)
    | with_reducible exact .refl _ _
    | refine .via (by with_reducible exact Live.wr_keeps ..) ?_ ?_
    | refine .via (by with_reducible exact Live.wrB_keeps ..) ?_ ?_
    | refine .via (by with_reducible exact Live.raise_keeps ..) ?_ ?_
    | refine .via (by with_reducible exact Live.setModes_keeps (fun _ => by exact rfl) ..) ?_ ?_
    | with_reducible refine .ite ?_ ?_
    | dsimp only
    | refine .of2 (by assumption) ?_
    | refine .of22 (by assumption) ?_
    | refine .of1 (by assumption) ?_
    | split

theorem Live.imageActivate_keeps (l : Live) (v : Nat) : Keeps [.store, .modes, .events] l (Live.imageActivate l v).2 := by
  unfold Live.imageActivate
  repeat' first
    | exact (rfl : true = true)
    | with_reducible exact .refl _ _
    | refine .via (by with_reducible exact Live.wr_keeps ..) ?_ ?_
    | refine .via (by with_reducible exact Live.setModes_keeps (fun _ => by exact rfl) ..) ?_ ?_
    | refine .via (by with_reducible exact Live.wrB_keeps ..) ?_ ?_
    | refine .via (by with_reducible exact Live.dormantWithdrawn_keeps ..) ?_ ?_
    | refine .via (by with_reducible exact Live.raise_keeps ..) ?_ ?_
    | with_reducible refine .ite ?_ ?_
    | with_reducible refine .ite2 ?_ ?_
    | dsimp only
    | split

theorem Live.modeAsked_keeps (l : Live) (v : Nat) : Keeps [.store, .modes] l (l.modeAsked v) := by
  have ha (f : Modes → Modes) (hf : ∀ m, (f m).mode = m.mode) : Keeps [.store, .modes] l (l.asks f) :=
    (Live.asks_keeps hf l).mono rfl
  have h0 := ha id fun _ => rfl
  unfold Live.modeAsked
  dsimp only
  split
  · exact .ite (.refl _ _) ((Live.setModes_keeps (fun _ => by exact rfl) l).mono rfl)
  · exact .ite (.ite h0 (.refl _ _)) (ha _ fun _ => rfl)
  · exact .ite (.ite h0 (.refl _ _)) (.ite (ha _ fun _ => rfl) (.via (Live.wakeBy_keeps ..) rfl h0))
  · exact .ite (.ite h0 (.refl _ _)) (.ite (ha _ fun _ => rfl) (.via (Live.wakeBy_keeps ..) rfl h0))
  · exact .ite (.refl _ _) (ha _ fun _ => rfl)
  · exact .refl _ _

theorem Live.modeCommand_keeps (l : Live) (v : Nat) : Keeps [.store, .modes] l (Live.modeCommand l v).2 := by
  unfold Live.modeCommand
  repeat' first
    | exact (rfl : true = true)
    | with_reducible exact .refl _ _
    | refine .via (by with_reducible exact Live.modeAsked_keeps ..) ?_ ?_
    | with_reducible refine .ite ?_ ?_
    | with_reducible refine .ite2 ?_ ?_
    | dsimp only
    | split

theorem Live.restartCommand_keeps (l : Live) : Keeps [.store, .modes] l (Live.restartCommand l).2 := by
  unfold Live.restartCommand
  repeat' first
    | exact (rfl : true = true)
    | with_reducible exact .refl _ _
    | refine .via (by with_reducible exact Live.asks_keeps (fun _ => by exact rfl) ..) ?_ ?_
    | with_reducible refine .ite ?_ ?_
    | with_reducible refine .ite2 ?_ ?_
    | dsimp only
    | split

theorem Live.challengeUpdate_keeps (l : Live) : Keeps [.store, .modes] l (Live.challengeUpdate l) := by
  unfold Live.challengeUpdate
  repeat' first
    | exact (rfl : true = true)
    | with_reducible exact .refl _ _
    | refine .via (by with_reducible exact Live.wr_keeps ..) ?_ ?_
    | refine .via (by with_reducible exact Live.setModes_keeps (fun _ => by exact rfl) ..) ?_ ?_
    | with_reducible refine .ite ?_ ?_
    | dsimp only
    | split

theorem Live.bringupEval_keeps (l : Live) : Keeps [.store, .beat, .dict, .can, .sessions, .mode, .modes, .tenancies, .power, .plane, .bpm, .flannel, .dram, .comp, .mover, .audio, .host, .events, .recoveries, .enclosure] l (Live.bringupEval l) := by
  unfold Live.bringupEval
  repeat' first
    | exact (rfl : true = true)
    | with_reducible exact .refl _ _
    | refine .via (by with_reducible exact Live.enter_keeps ..) ?_ ?_
    | refine .via (by with_reducible exact Live.configureEntry_keeps ..) ?_ ?_
    | with_reducible refine .ite ?_ ?_
    | dsimp only
    | split

theorem Live.dormantEval_keeps (l : Live) : Keeps [.store, .beat, .dict, .can, .mode, .modes, .power, .plane, .bpm, .flannel, .dram, .audio, .host, .events, .recoveries] l (Live.dormantEval l) := by
  unfold Live.dormantEval
  repeat' first
    | exact (rfl : true = true)
    | with_reducible exact .refl _ _
    | refine .via (by with_reducible exact Live.enter_keeps ..) ?_ ?_
    | refine .via (by with_reducible exact Live.dormantWithdrawn_keeps ..) ?_ ?_
    | refine .via (by with_reducible exact Live.raise_keeps ..) ?_ ?_
    | refine .via (by with_reducible exact Live.wrB_keeps ..) ?_ ?_
    | with_reducible refine .ite ?_ ?_
    | dsimp only
    | refine .of2 (by assumption) ?_
    | refine .of22 (by assumption) ?_
    | refine .of1 (by assumption) ?_
    | split

theorem Live.supervisorEval_keeps (l : Live) : Keeps [.store, .beat, .dict, .can, .sessions, .mailboxes, .mode, .modes, .tenancies, .power, .plane, .bpm, .flannel, .dram, .comp, .mover, .audio, .host, .events, .recoveries, .enclosure] l (Live.supervisorEval l) := by
  unfold Live.supervisorEval
  repeat' first
    | exact (rfl : true = true)
    | with_reducible exact .refl _ _
    | refine .via (by with_reducible exact Live.restart_keeps ..) ?_ ?_
    | refine .via (by with_reducible exact Live.enter_keeps ..) ?_ ?_
    | refine .via (by with_reducible exact Live.dormantEval_keeps ..) ?_ ?_
    | with_reducible refine .ite ?_ ?_
    | dsimp only
    | split

theorem Live.stayEval_keeps (l : Live) : Keeps [.store, .beat, .dict, .can, .sessions, .mailboxes, .mode, .modes, .tenancies, .power, .plane, .bpm, .flannel, .dram, .comp, .mover, .audio, .host, .events, .recoveries, .enclosure] l (Live.stayEval l) := by
  unfold Live.stayEval
  repeat' first
    | exact (rfl : true = true)
    | with_reducible exact .refl _ _
    | refine .via (by with_reducible exact Live.enter_keeps ..) ?_ ?_
    | refine .via (by with_reducible exact Live.restart_keeps ..) ?_ ?_
    | with_reducible refine .ite ?_ ?_
    | dsimp only
    | refine .of2 (by assumption) ?_
    | refine .of22 (by assumption) ?_
    | refine .of1 (by assumption) ?_
    | split

theorem Live.liveEval_keeps (l : Live) : Keeps [.store, .beat, .dict, .can, .sessions, .mailboxes, .mode, .modes, .tenancies, .power, .plane, .bpm, .flannel, .dram, .comp, .mover, .audio, .host, .events, .recoveries, .enclosure] l (Live.liveEval l) := by
  unfold Live.liveEval
  repeat' first
    | exact (rfl : true = true)
    | with_reducible exact .refl _ _
    | refine .via (by with_reducible exact Live.enter_keeps ..) ?_ ?_
    | refine .via (by with_reducible exact Live.restart_keeps ..) ?_ ?_
    | refine .via (by with_reducible exact Live.dormantWithdrawn_keeps ..) ?_ ?_
    | refine .via (by with_reducible exact Live.dormantEval_keeps ..) ?_ ?_
    | with_reducible refine .ite ?_ ?_
    | dsimp only
    | refine .of2 (by assumption) ?_
    | refine .of22 (by assumption) ?_
    | refine .of1 (by assumption) ?_
    | split

theorem Live.showCauses_keeps (l : Live) : Keeps [.store] l (Live.showCauses l) := by
  unfold Live.showCauses
  repeat' first
    | exact (rfl : true = true)
    | with_reducible exact .refl _ _
    | refine .via (by with_reducible exact Live.wr_keeps ..) ?_ ?_
    | dsimp only

theorem Live.modeEval_keeps (l : Live) : Keeps [.store, .beat, .dict, .can, .sessions, .mailboxes, .mode, .modes, .tenancies, .power, .plane, .bpm, .flannel, .dram, .comp, .mover, .audio, .host, .events, .recoveries, .enclosure] l (Live.modeEval l) := by
  unfold Live.modeEval
  repeat' first
    | exact (rfl : true = true)
    | with_reducible exact .refl _ _
    | refine .via (by with_reducible exact Live.bringupEval_keeps ..) ?_ ?_
    | refine .via (by with_reducible exact Live.supervisorEval_keeps ..) ?_ ?_
    | refine .via (by with_reducible exact Live.stayEval_keeps ..) ?_ ?_
    | refine .via (by with_reducible exact Live.liveEval_keeps ..) ?_ ?_
    | refine .via (by with_reducible exact Live.setModes_keeps (fun _ => by exact rfl) ..) ?_ ?_
    | refine .via (by with_reducible exact Live.setModes_keeps_all ..) ?_ ?_
    | refine .via (by with_reducible exact Live.showCauses_keeps ..) ?_ ?_
    | refine .via (by with_reducible exact Live.recoveryDone_keeps ..) ?_ ?_
    | with_reducible refine .ite ?_ ?_
    | dsimp only
    | refine .of2 (by assumption) ?_
    | refine .of22 (by assumption) ?_
    | refine .of1 (by assumption) ?_
    | split

theorem Live.collapse_keeps (l : Live) : Keeps [.store, .dict, .can, .sessions, .mailboxes, .mode, .modes, .tenancies, .power, .plane, .bpm, .flannel, .dram, .comp, .mover, .audio, .host, .events, .recoveries, .enclosure] l l.collapse := by
  have h : Keeps [.mode, .store, .clock, .beat, .dict, .can, .sessions, .mailboxes, .modes, .tenancies, .power, .plane, .bpm, .flannel, .dram, .comp, .mover, .audio, .host, .events, .recoveries, .enclosure] l ((l.setModes fun m => { m with mode := .off, storing := none }).wiped .powerOn false) :=
    .via (Live.wiped_keeps ..) rfl ((Live.setModes_keeps_all ..).mono rfl)
  unfold Live.collapse
  dsimp only
  revert h
  generalize (l.setModes fun m => { m with mode := .off, storing := none }).wiped .powerOn false = w
  intro h
  have hf : l.free = w.free := h.same .free (by decide)
  refine ⟨fun p hp => ?_, h.tidy, Nat.le_refl _, h.counts.2⟩
  cases p <;> first | exact absurd hp (by decide) | exact hf | exact ⟨rfl, rfl, rfl⟩ | exact Eq.refl l.beat

theorem Live.heldRaised_keeps (l : Live) : Keeps [.store, .events] l (Live.heldRaised l) := by
  unfold Live.heldRaised
  repeat' first
    | exact (rfl : true = true)
    | with_reducible exact .refl _ _
    | refine .via (by with_reducible exact Live.evalOcc_keeps ..) ?_ ?_
    | dsimp only
    | with_reducible refine .foldl (fun l x => ?_) _ _ ?_
    | with_reducible refine .foldl2 (fun l x => ?_) _ _ ?_
    | with_reducible refine .foldl1 (fun l x => ?_) _ _ ?_
    | with_reducible refine .events ?_ ?_

theorem Live.imageAccepted_keeps (l : Live) : Keeps [.store, .modes, .events] l (Live.imageAccepted l) := by
  unfold Live.imageAccepted
  repeat' first
    | exact (rfl : true = true)
    | with_reducible exact .refl _ _
    | refine .via (by with_reducible exact Live.raise_keeps ..) ?_ ?_
    | refine .via (by with_reducible exact Live.wr_keeps ..) ?_ ?_
    | refine .via (by with_reducible exact Live.wrB_keeps ..) ?_ ?_
    | refine .via (by with_reducible exact Live.setModes_keeps (fun _ => by exact rfl) ..) ?_ ?_
    | with_reducible refine .ite ?_ ?_
    | dsimp only
    | split

theorem Live.lifeCycleNow_keeps (l : Live) (v confirm : Nat) (auth : Option (List Byte)) : Keeps [.store, .beat, .dict, .can, .sessions, .mailboxes, .mode, .modes, .tenancies, .power, .plane, .bpm, .flannel, .dram, .comp, .mover, .audio, .host, .events, .recoveries, .enclosure] l (Live.lifeCycleNow l v confirm auth) := by
  unfold Live.lifeCycleNow
  repeat' first
    | exact (rfl : true = true)
    | with_reducible exact .refl _ _
    | refine .via (by with_reducible exact Live.modeEval_keeps ..) ?_ ?_
    | refine .via (by with_reducible exact Live.lifeCycle_keeps ..) ?_ ?_
    | dsimp only

theorem Live.powerUp_keeps (l : Live) : Keeps [.store, .clock, .beat, .dict, .can, .sessions, .mailboxes, .mode, .modes, .tenancies, .power, .plane, .bpm, .flannel, .dram, .comp, .mover, .audio, .host, .events, .recoveries, .enclosure] l (Live.powerUp l) := by
  unfold Live.powerUp
  repeat' first
    | exact (rfl : true = true)
    | with_reducible exact .refl _ _
    | refine .via (by with_reducible exact Live.newRun_keeps ..) ?_ ?_
    | refine .via (by with_reducible exact Live.raise_keeps ..) ?_ ?_
    | refine .via (by with_reducible exact Live.sampleModules_keeps ..) ?_ ?_
    | refine .via (by with_reducible exact Live.setModes_keeps (fun _ => by exact rfl) ..) ?_ ?_
    | refine .via (by with_reducible exact Live.setModes_keeps_all ..) ?_ ?_
    | dsimp only
    | refine .of2 (by assumption) ?_
    | refine .of22 (by assumption) ?_
    | refine .of1 (by assumption) ?_
    | split

theorem Live.requestNow_keeps (l : Live) (v : Nat) : Keeps [.store, .beat, .dict, .can, .sessions, .mailboxes, .mode, .modes, .tenancies, .power, .plane, .bpm, .flannel, .dram, .comp, .mover, .audio, .host, .events, .recoveries, .enclosure] l (Live.requestNow l v) := by
  unfold Live.requestNow
  repeat' first
    | exact (rfl : true = true)
    | with_reducible exact .refl _ _
    | refine .via (by with_reducible exact Live.modeEval_keeps ..) ?_ ?_
    | refine .via (by with_reducible exact Live.modeCommand_keeps ..) ?_ ?_
    | dsimp only

theorem Live.restartNow_keeps (l : Live) (why : Nat) : Keeps [.store, .beat, .dict, .can, .sessions, .mailboxes, .mode, .modes, .tenancies, .power, .plane, .bpm, .flannel, .dram, .comp, .mover, .audio, .host, .events, .recoveries, .enclosure] l (Live.restartNow l why) := by
  unfold Live.restartNow
  repeat' first
    | exact (rfl : true = true)
    | with_reducible exact .refl _ _
    | refine .via (by with_reducible exact Live.showCauses_keeps ..) ?_ ?_
    | refine .via (by with_reducible exact Live.restart_keeps ..) ?_ ?_
    | with_reducible refine .ite ?_ ?_
    | dsimp only
    | split

theorem Live.thermalTrip_keeps (l : Live) : Keeps [.store, .dict, .can, .sessions, .mailboxes, .mode, .modes, .tenancies, .power, .plane, .bpm, .flannel, .dram, .comp, .mover, .audio, .host, .events, .recoveries, .enclosure] l (Live.thermalTrip l) := by
  unfold Live.thermalTrip
  repeat' first
    | exact (rfl : true = true)
    | with_reducible exact .refl _ _
    | refine .via (by with_reducible exact Live.modulesDark_keeps ..) ?_ ?_
    | refine .via (by with_reducible exact Live.shutdownRecord_keeps ..) ?_ ?_
    | refine .via (by with_reducible exact Live.setUnit_keeps ..) ?_ ?_
    | refine .via (by with_reducible exact Live.collapse_keeps ..) ?_ ?_
    | with_reducible refine .ite ?_ ?_
    | dsimp only
    | split

theorem Live.trainingDone_keeps (l : Live) (ok : Bool) : Keeps [.store, .modes, .dram, .events] l (Live.trainingDone l ok) := by
  unfold Live.trainingDone
  repeat' first
    | exact (rfl : true = true)
    | with_reducible exact .refl _ _
    | refine .via (by with_reducible exact Live.chTo_keeps ..) ?_ ?_
    | refine .via (by with_reducible exact Live.setModes_keeps (fun _ => by exact rfl) ..) ?_ ?_
    | refine .via (by with_reducible exact Live.raise_keeps ..) ?_ ?_
    | refine .via (by with_reducible exact Live.dramLog_keeps ..) ?_ ?_
    | with_reducible refine .ite ?_ ?_
    | dsimp only
    | split

theorem Live.tripRestored_keeps (l : Live) : Keeps [.store, .clock, .beat, .dict, .can, .sessions, .mailboxes, .mode, .modes, .tenancies, .power, .plane, .bpm, .flannel, .dram, .comp, .mover, .audio, .host, .events, .recoveries, .enclosure] l (Live.tripRestored l) := by
  unfold Live.tripRestored
  repeat' first
    | exact (rfl : true = true)
    | with_reducible exact .refl _ _
    | refine .via (by with_reducible exact Live.setModule_keeps ..) ?_ ?_
    | refine .via (by with_reducible exact Live.powerUp_keeps ..) ?_ ?_
    | refine .via (by with_reducible exact Live.setUnit_keeps ..) ?_ ?_
    | refine .via (by with_reducible exact Live.wr_keeps ..) ?_ ?_
    | with_reducible refine .ite ?_ ?_
    | dsimp only
    | with_reducible refine .forN (fun l x => ?_) ?_
    | refine .of2 (by assumption) ?_
    | refine .of22 (by assumption) ?_
    | refine .of1 (by assumption) ?_
    | split

theorem Live.wipeDone_keeps (l : Live) : Keeps [.store, .clock, .beat, .dict, .can, .sessions, .mailboxes, .mode, .modes, .tenancies, .power, .plane, .bpm, .flannel, .dram, .comp, .mover, .audio, .host, .events, .recoveries, .enclosure] l (Live.wipeDone l) := by
  unfold Live.wipeDone
  repeat' first
    | exact (rfl : true = true)
    | with_reducible exact .refl _ _
    | refine .via (by with_reducible exact Live.raise_keeps ..) ?_ ?_
    | refine .via (by with_reducible exact Live.wr_keeps ..) ?_ ?_
    | refine .via (by with_reducible exact Live.newRun_keeps ..) ?_ ?_
    | refine .via (by with_reducible exact Live.setModes_keeps (fun _ => by exact rfl) ..) ?_ ?_
    | refine .via (by with_reducible exact Live.setModes_keeps_all ..) ?_ ?_
    | with_reducible refine .ite ?_ ?_
    | dsimp only
    | split

end Sys2Proof.Machine
end

