-- ==== Sys2Proof/Laws/Commit.lean ====
section
/-! SUPPORT. What the operations of Machine/Commit.lean may change. -/

namespace Sys2Proof.Machine

open Sys2Proof

theorem Live.clampEvent_keeps (l : Live) (rank : Nat) (o : Obj) (i k z5 v : Nat) : Keeps [.store, .events] l (Live.clampEvent l rank o i k z5 v) := by
  unfold Live.clampEvent
  repeat' first
    | exact (rfl : true = true)
    | with_reducible exact .refl _ _
    | refine .via (by with_reducible exact Live.elemClampEvent_keeps ..) ?_ ?_
    | dsimp only
    | refine .of2 (by assumption) ?_
    | refine .of22 (by assumption) ?_
    | refine .of1 (by assumption) ?_
    | split

theorem Live.commandStart_keeps (l : Live) (rank : Nat) (w : PendingWrite) (o : Obj) (i z5 t v : Nat) : Keeps [.store, .beat, .dict, .can, .sessions, .modes, .tenancies, .power, .plane, .bpm, .flannel, .dram, .comp, .mover, .audio, .host, .events, .recoveries, .enclosure, .free] l (Live.commandStart l rank w o i z5 t v).2 := by
  unfold Live.commandStart
  repeat' first
    | exact (rfl : true = true)
    | with_reducible exact .refl _ _
    | refine .via (by with_reducible exact Live.armOrigin_keeps ..) ?_ ?_
    | refine .via (by with_reducible exact Live.cacheFlush_keeps ..) ?_ ?_
    | refine .via (by with_reducible exact Live.clampClear_keeps ..) ?_ ?_
    | refine .via (by with_reducible exact Live.lcCommand_keeps ..) ?_ ?_
    | refine .via (by with_reducible exact Live.imageConfirm_keeps ..) ?_ ?_
    | refine .via (by with_reducible exact Live.imageActivate_keeps ..) ?_ ?_
    | refine .via (by with_reducible exact Live.storeCommand_keeps ..) ?_ ?_
    | refine .via (by with_reducible exact Live.modeCommand_keeps ..) ?_ ?_
    | refine .via (by with_reducible exact Live.restartCommand_keeps ..) ?_ ?_
    | refine .via (by with_reducible exact Live.shadowCopy_keeps ..) ?_ ?_
    | refine .via (by with_reducible exact Live.macOp_keeps ..) ?_ ?_
    | refine .via (by with_reducible exact Live.flushQueues_keeps ..) ?_ ?_
    | refine .via (by with_reducible exact Live.histClear_keeps ..) ?_ ?_
    | refine .via (by with_reducible exact Live.changeTime_keeps ..) ?_ ?_
    | refine .via (by with_reducible exact Live.gateCancel_keeps ..) ?_ ?_
    | refine .via (by with_reducible exact Live.setFlannel_keeps ..) ?_ ?_
    | refine .via (by with_reducible exact Live.purge_keeps ..) ?_ ?_
    | refine .via (by with_reducible exact Live.dramLogClear_keeps ..) ?_ ?_
    | refine .via (by with_reducible exact Live.diagRead_keeps ..) ?_ ?_
    | refine .via (by with_reducible exact Live.clipRelease_keeps ..) ?_ ?_
    | refine .via (by with_reducible exact Live.clearLatches_keeps ..) ?_ ?_
    | refine .via (by with_reducible exact Live.unmask_keeps ..) ?_ ?_
    | refine .via (by with_reducible exact Live.withdrawnClear_keeps ..) ?_ ?_
    | refine .via (by with_reducible exact Live.ledTestStart_keeps ..) ?_ ?_
    | refine .via (by with_reducible exact Live.tnCreate_keeps ..) ?_ ?_
    | refine .via (by with_reducible exact Live.tnReset_keeps ..) ?_ ?_
    | refine .via (by with_reducible exact Live.drainAcks_keeps ..) ?_ ?_
    | refine .via (by with_reducible exact Live.tnDelete_keeps ..) ?_ ?_
    | with_reducible refine .ite ?_ ?_
    | with_reducible refine .ite2 ?_ ?_
    | dsimp only
    | refine .of2 (by assumption) ?_
    | refine .of22 (by assumption) ?_
    | refine .of1 (by assumption) ?_
    | split

end Sys2Proof.Machine
end

