-- ==== Sys2Proof/Laws/Rules.lean ====
section
/-! SUPPORT. What the rules of the K48's objects may change. -/

namespace Sys2Proof.Machine

open Sys2Proof

theorem rules_keep : rules.Keep where
  clamped := fun l a o i k t v => (Live.clampEvent_keeps l a o i k t v).mono rfl
  committed := fun cs l => (Live.changed_keeps cs l).mono rfl
  start := fun l a w o i k t v => (Live.commandStart_keeps l a w o i k t v).mono rfl

end Sys2Proof.Machine
end

