-- ==== Sys2Proof/Laws/Server.lean ====
section
/-! SUPPORT. What the operations of Machine/Server.lean may change. -/

namespace Sys2Proof.Machine

open Sys2Proof

theorem Live.inbandOut_keeps (l : Live) (s : Nat) (out : Option (Nat × List Byte)) : Keeps [.store, .plane, .events] l (Live.inbandOut l s out) := by
  unfold Live.inbandOut
  repeat' first
    | exact (rfl : true = true)
    | with_reducible exact .refl _ _
    | refine .via (by with_reducible exact Live.enterFabric_keeps ..) ?_ ?_
    | with_reducible refine .ite ?_ ?_
    | dsimp only
    | refine .of2 (by assumption) ?_
    | refine .of22 (by assumption) ?_
    | refine .of1 (by assumption) ?_
    | split

theorem Live.respond_keeps (l : Live) (r : Response) : Keeps [.store, .dict, .can, .sessions, .mailboxes, .plane, .host, .events] l (Live.respond l r) := by
  unfold Live.respond
  repeat' first
    | exact (rfl : true = true)
    | with_reducible exact .refl _ _
    | refine .via (by with_reducible exact Live.mbxNext_keeps ..) ?_ ?_
    | refine .via (by with_reducible exact Live.setMbx_keeps ..) ?_ ?_
    | refine .via (by with_reducible exact Live.canRespond_keeps ..) ?_ ?_
    | refine .via (by with_reducible exact Live.inbandResponse_keeps ..) ?_ ?_
    | refine .via (by with_reducible exact Live.inbandOut_keeps ..) ?_ ?_
    | refine .via (by with_reducible exact Live.setDict_keeps ..) ?_ ?_
    | dsimp only
    | refine .of2 (by assumption) ?_
    | refine .of22 (by assumption) ?_
    | refine .of1 (by assumption) ?_
    | split

theorem Live.deliver_keeps (l : Live) : Keeps [.store, .dict, .can, .sessions, .mailboxes, .plane, .host, .events] l (Live.deliver l) := by
  unfold Live.deliver
  repeat' first
    | exact (rfl : true = true)
    | with_reducible exact .refl _ _
    | refine .via (by with_reducible exact Live.respond_keeps ..) ?_ ?_
    | refine .via (by with_reducible exact Live.setDict_keeps ..) ?_ ?_
    | dsimp only
    | with_reducible refine .foldl (fun l x => ?_) _ _ ?_
    | with_reducible refine .foldl2 (fun l x => ?_) _ _ ?_
    | with_reducible refine .foldl1 (fun l x => ?_) _ _ ?_

theorem Live.notifyOut_keeps (l0 : Live) (n : Note) : Keeps [.store, .dict, .can, .sessions, .plane, .host, .events] l0 (Live.notifyOut l0 n) := by
  unfold Live.notifyOut
  repeat' first
    | exact (rfl : true = true)
    | with_reducible exact .refl _ _
    | refine .via (by with_reducible exact Live.count_keeps ..) ?_ ?_
    | refine .via (by with_reducible exact Live.takeSeq_keeps ..) ?_ ?_
    | refine .via (by with_reducible exact Live.ringNotify_keeps ..) ?_ ?_
    | refine .via (by with_reducible exact Live.canNotify_keeps ..) ?_ ?_
    | refine .via (by with_reducible exact Live.inbandNotify_keeps ..) ?_ ?_
    | refine .via (by with_reducible exact Live.inbandOut_keeps ..) ?_ ?_
    | with_reducible refine .ite ?_ ?_
    | dsimp only
    | refine .of2 (by assumption) ?_
    | refine .of22 (by assumption) ?_
    | refine .of1 (by assumption) ?_
    | split

theorem Live.sendNotes_keeps (l : Live) : Keeps [.store, .dict, .can, .sessions, .plane, .host, .events] l (Live.sendNotes l) := by
  unfold Live.sendNotes
  repeat' first
    | exact (rfl : true = true)
    | with_reducible exact .refl _ _
    | refine .via (by with_reducible exact Live.takeNotes_keeps ..) ?_ ?_
    | refine .via (by with_reducible exact Live.notifyOut_keeps ..) ?_ ?_
    | dsimp only
    | with_reducible refine .foldl (fun l x => ?_) _ _ ?_
    | with_reducible refine .foldl2 (fun l x => ?_) _ _ ?_
    | with_reducible refine .foldl1 (fun l x => ?_) _ _ ?_
    | refine .of2 (by assumption) ?_
    | refine .of22 (by assumption) ?_
    | refine .of1 (by assumption) ?_
    | split

theorem Live.serveRequest_keeps (st l : Live) (rank op : Nat) (r : Req) : Keeps [.store, .dict, .can, .sessions, .mailboxes, .plane, .host, .events] l (Live.serveRequest st l rank op r) := by
  unfold Live.serveRequest
  repeat' first
    | exact (rfl : true = true)
    | with_reducible exact .refl _ _
    | refine .via (by with_reducible exact Live.count_keeps ..) ?_ ?_
    | refine .via (by with_reducible exact Live.deliver_keeps ..) ?_ ?_
    | refine .via (by with_reducible exact DictRules.request_keeps ..) ?_ ?_
    | with_reducible refine .ite ?_ ?_
    | dsimp only
    | split

theorem Live.inbandAccepted_keeps (st l : Live) (port s seq : Nat) (old : Bool) (x : InbandIn) : Keeps [.store, .dict, .can, .sessions, .mailboxes, .plane, .host, .events] l (Live.inbandAccepted st l port s seq old x) := by
  unfold Live.inbandAccepted
  repeat' first
    | exact (rfl : true = true)
    | with_reducible exact .refl _ _
    | refine .via (by with_reducible exact Live.setSession_keeps ..) ?_ ?_
    | refine .via (by with_reducible exact Live.wr_keeps ..) ?_ ?_
    | refine .via (by with_reducible exact Live.seqExhausted_keeps ..) ?_ ?_
    | refine .via (by with_reducible exact Live.serveRequest_keeps ..) ?_ ?_
    | with_reducible refine .ite ?_ ?_
    | dsimp only
    | split

theorem Live.inbandFailed_keeps (l : Live) (port s event : Nat) (x : InbandIn) : Keeps [.store, .sessions, .plane, .events] l (Live.inbandFailed l port s event x) := by
  unfold Live.inbandFailed
  repeat' first
    | exact (rfl : true = true)
    | with_reducible exact .refl _ _
    | refine .via (by with_reducible exact Live.raise_keeps ..) ?_ ?_
    | refine .via (by with_reducible exact Live.count_keeps ..) ?_ ?_
    | refine .via (by with_reducible exact Live.inbandFrame_keeps ..) ?_ ?_
    | refine .via (by with_reducible exact Live.setSession_keeps ..) ?_ ?_
    | refine .via (by with_reducible exact Live.inbandOut_keeps ..) ?_ ?_
    | with_reducible refine .ite ?_ ?_
    | dsimp only
    | refine .of2 (by assumption) ?_
    | refine .of22 (by assumption) ?_
    | refine .of1 (by assumption) ?_
    | split

theorem Live.inbandRequest_keeps (st l : Live) (port : Nat) (frame : List Byte) : Keeps [.store, .dict, .can, .sessions, .mailboxes, .plane, .host, .events] l (Live.inbandRequest st l port frame) := by
  unfold Live.inbandRequest
  repeat' first
    | exact (rfl : true = true)
    | with_reducible exact .refl _ _
    | refine .via (by with_reducible exact Live.count_keeps ..) ?_ ?_
    | refine .via (by with_reducible exact Live.inbandFailed_keeps ..) ?_ ?_
    | refine .via (by with_reducible exact Live.inbandAccepted_keeps ..) ?_ ?_
    | with_reducible refine .ite ?_ ?_
    | dsimp only
    | refine .of2 (by assumption) ?_
    | refine .of22 (by assumption) ?_
    | refine .of1 (by assumption) ?_
    | split

theorem Live.mbxTake_keeps (st l : Live) (f : Nat) : Keeps [.store, .dict, .can, .sessions, .mailboxes, .plane, .host, .events] l (Live.mbxTake st l f) := by
  unfold Live.mbxTake
  repeat' first
    | exact (rfl : true = true)
    | with_reducible exact .refl _ _
    | refine .via (by with_reducible exact Live.serveRequest_keeps ..) ?_ ?_
    | refine .via (by with_reducible exact Live.setMbx_keeps ..) ?_ ?_
    | with_reducible refine .ite ?_ ?_
    | dsimp only
    | split

end Sys2Proof.Machine
end

