-- ==== Sys2Proof/Laws/Boundary.lean ====
section
/-! SUPPORT. What the operations of Machine/Boundary.lean may change. -/

namespace Sys2Proof.Machine

open Sys2Proof

theorem Live.afterCommit_keeps (l : Live) : Keeps [.store, .dict, .sessions, .modes, .tenancies, .plane, .bpm, .flannel, .host, .events, .recoveries] l (Live.afterCommit l) := by
  unfold Live.afterCommit
  repeat' first
    | exact (rfl : true = true)
    | with_reducible exact .refl _ _
    | refine .via (by with_reducible exact Live.drainDone_keeps ..) ?_ ?_
    | refine .via (by with_reducible exact Live.versionStep_keeps ..) ?_ ?_
    | refine .via (by with_reducible exact Live.learnStep_keeps ..) ?_ ?_
    | refine .via (by with_reducible exact Live.dampingStep_keeps ..) ?_ ?_
    | refine .via (by with_reducible exact Live.lagSettle_keeps ..) ?_ ?_
    | refine .via (by with_reducible exact Live.copyStep_keeps ..) ?_ ?_
    | refine .via (by with_reducible exact Live.shadowCopyDone_keeps ..) ?_ ?_
    | refine .via (by with_reducible exact Live.segmentWipe_keeps ..) ?_ ?_
    | refine .via (by with_reducible exact Live.wipesOver_keeps ..) ?_ ?_
    | dsimp only
    | with_reducible refine .forL (fun l x => ?_) ?_
    | with_reducible refine .forN (fun l x => ?_) ?_

theorem Live.agedInputs_keeps (l : Live) : Keeps [.store, .power, .plane, .events, .recoveries, .enclosure] l (Live.agedInputs l) := by
  unfold Live.agedInputs
  repeat' first
    | exact (rfl : true = true)
    | with_reducible exact .refl _ _
    | refine .via (by with_reducible exact Live.penaltyDecay_keeps ..) ?_ ?_
    | refine .via (by with_reducible exact Live.lineRise_keeps ..) ?_ ?_
    | refine .via (by with_reducible exact Live.txRelease_keeps ..) ?_ ?_
    | refine .via (by with_reducible exact Live.neighbourAged_keeps ..) ?_ ?_
    | refine .via (by with_reducible exact Live.ledTestOver_keeps ..) ?_ ?_
    | refine .via (by with_reducible exact Live.sensorSilent_keeps ..) ?_ ?_
    | dsimp only
    | with_reducible refine .forL (fun l x => ?_) ?_
    | with_reducible refine .forN (fun l x => ?_) ?_

theorem Live.backgroundFlannel_keeps (l : Live) : Keeps [.store, .plane, .bpm, .flannel, .events, .recoveries] l (Live.backgroundFlannel l) := by
  unfold Live.backgroundFlannel
  repeat' first
    | exact (rfl : true = true)
    | with_reducible exact .refl _ _
    | refine .via (by with_reducible exact Live.shedPreroll_keeps ..) ?_ ?_
    | refine .via (by with_reducible exact Live.prerollAge_keeps ..) ?_ ?_
    | refine .via (by with_reducible exact Live.segmentsAge_keeps ..) ?_ ?_
    | refine .via (by with_reducible exact Live.commitIndex_keeps ..) ?_ ?_
    | refine .via (by with_reducible exact Live.heartbeatCheck_keeps ..) ?_ ?_
    | refine .via (by with_reducible exact Live.probeBeat_keeps ..) ?_ ?_
    | refine .via (by with_reducible exact Live.backfillAcks_keeps ..) ?_ ?_
    | dsimp only

theorem Live.backgroundTimers_keeps (l : Live) : Keeps [.store, .modes, .plane, .bpm, .flannel, .audio, .events] l (Live.backgroundTimers l) := by
  unfold Live.backgroundTimers
  repeat' first
    | exact (rfl : true = true)
    | with_reducible exact .refl _ _
    | refine .via (by with_reducible exact Live.backfillLate_keeps ..) ?_ ?_
    | refine .via (by with_reducible exact Live.drainLate_keeps ..) ?_ ?_
    | refine .via (by with_reducible exact Live.snoopExpiry_keeps ..) ?_ ?_
    | refine .via (by with_reducible exact Live.challengeUpdate_keeps ..) ?_ ?_
    | refine .via (by with_reducible exact Live.featureFrame_keeps ..) ?_ ?_
    | dsimp only
    | with_reducible refine .forN (fun l x => ?_) ?_

theorem Live.sweepBad_keeps (l : Live) : Keeps [.store, .plane] l (Live.sweepBad l) := by
  unfold Live.sweepBad
  repeat' first
    | exact (rfl : true = true)
    | with_reducible exact .refl _ _
    | refine .via (by with_reducible exact Live.heal_keeps ..) ?_ ?_
    | refine .via (by with_reducible exact Live.macErase_keeps ..) ?_ ?_
    | refine .via (by with_reducible exact Live.showMac_keeps ..) ?_ ?_
    | dsimp only
    | with_reducible refine .forL (fun l x => ?_) ?_
    | with_reducible refine .when (fun l => ?_) ?_

theorem Live.judgeStorms_keeps (l : Live) : Keeps [.store, .plane, .events, .recoveries] l (Live.judgeStorms l) := by
  unfold Live.judgeStorms
  repeat' first
    | exact (rfl : true = true)
    | with_reducible exact .refl _ _
    | refine .via (by with_reducible exact Live.stormClear_keeps ..) ?_ ?_
    | refine .via (by with_reducible exact Live.stormTrip_keeps ..) ?_ ?_
    | with_reducible refine .ite ?_ ?_
    | dsimp only
    | with_reducible refine .forN (fun l x => ?_) ?_
    | split

theorem Live.postCompletions_keeps (l : Live) : Keeps [.flannel, .comp, .mover, .host] l (Live.postCompletions l) := by
  unfold Live.postCompletions
  repeat' first
    | exact (rfl : true = true)
    | with_reducible exact .refl _ _
    | refine .via (by with_reducible exact Live.jobPost_keeps ..) ?_ ?_
    | dsimp only
    | with_reducible refine .forN (fun l x => ?_) ?_

theorem Live.backgroundWork_keeps (l : Live) : Keeps [.store, .plane, .bpm, .flannel, .dram, .comp, .mover, .host, .events, .recoveries] l (Live.backgroundWork l) := by
  unfold Live.backgroundWork
  repeat' first
    | exact (rfl : true = true)
    | with_reducible exact .refl _ _
    | refine .via (by with_reducible exact Live.flushStepEnd_keeps ..) ?_ ?_
    | refine .via (by with_reducible exact Live.flushStep_keeps ..) ?_ ?_
    | refine .via (by with_reducible exact Live.agingSweep_keeps ..) ?_ ?_
    | refine .via (by with_reducible exact Live.sweepBad_keeps ..) ?_ ?_
    | refine .via (by with_reducible exact Live.updateBackPressure_keeps ..) ?_ ?_
    | refine .via (by with_reducible exact Live.backgroundFlannel_keeps ..) ?_ ?_
    | refine .via (by with_reducible exact Live.sampleQueues_keeps ..) ?_ ?_
    | refine .via (by with_reducible exact Live.redAverage_keeps ..) ?_ ?_
    | refine .via (by with_reducible exact Live.engineBeat_keeps ..) ?_ ?_
    | refine .via (by with_reducible exact Live.exportsAsked_keeps ..) ?_ ?_
    | refine .via (by with_reducible exact Live.probeOff_keeps ..) ?_ ?_
    | refine .via (by with_reducible exact Live.scrubBeat_keeps ..) ?_ ?_
    | refine .via (by with_reducible exact Live.judgeStorms_keeps ..) ?_ ?_
    | refine .via (by with_reducible exact Live.stormCount_keeps ..) ?_ ?_
    | refine .via (by with_reducible exact Live.showUsage_keeps ..) ?_ ?_
    | refine .via (by with_reducible exact Live.postCompletions_keeps ..) ?_ ?_
    | with_reducible refine .ite ?_ ?_
    | dsimp only
    | split

theorem Live.bankErrors_keeps (l : Live) (keys : List Nat) : Keeps [.events] l (Live.bankErrors l keys) := by
  unfold Live.bankErrors
  repeat' first
    | exact (rfl : true = true)
    | with_reducible exact .refl _ _
    | dsimp only
    | refine .of2 (by assumption) ?_
    | refine .of22 (by assumption) ?_
    | refine .of1 (by assumption) ?_
    | split
    | with_reducible refine .events ?_ ?_

theorem Live.correctedErrors_keeps (l : Live) (e : Nat × Nat) : Keeps [.store, .events] l (Live.correctedErrors l e) := by
  unfold Live.correctedErrors
  repeat' first
    | exact (rfl : true = true)
    | with_reducible exact .refl _ _
    | refine .via (by with_reducible exact Live.blk_keeps ..) ?_ ?_
    | refine .via (by with_reducible exact Live.count_keeps ..) ?_ ?_
    | with_reducible refine .ite ?_ ?_
    | dsimp only
    | split

theorem Live.beatReports_keeps (l : Live) (i : BoundaryInputs) : Keeps [.store, .dram, .events] l (Live.beatReports l i) := by
  unfold Live.beatReports
  repeat' first
    | exact (rfl : true = true)
    | with_reducible exact .refl _ _
    | refine .via (by with_reducible exact Live.dramReports_keeps ..) ?_ ?_
    | refine .via (by with_reducible exact Live.correctedErrors_keeps ..) ?_ ?_
    | refine .via (by with_reducible exact Live.blk_keeps ..) ?_ ?_
    | dsimp only
    | with_reducible refine .forL (fun l x => ?_) ?_

theorem Live.beforeCommit_keeps (l : Live) : Keeps [.store, .dict, .sessions, .mailboxes, .modes, .plane, .bpm, .flannel, .comp, .mover, .host, .events, .recoveries] l (Live.beforeCommit l) := by
  unfold Live.beforeCommit
  repeat' first
    | exact (rfl : true = true)
    | with_reducible exact .refl _ _
    | refine .via (by with_reducible exact Live.settleStep_keeps ..) ?_ ?_
    | refine .via (by with_reducible exact Live.flrCleanup_keeps ..) ?_ ?_
    | refine .via (by with_reducible exact Live.flrDone_keeps ..) ?_ ?_
    | refine .via (by with_reducible exact Live.cacheExpire_keeps ..) ?_ ?_
    | refine .via (by with_reducible exact Live.segmentAbandon_keeps ..) ?_ ?_
    | refine .via (by with_reducible exact Live.epochGrace_keeps ..) ?_ ?_
    | dsimp only
    | with_reducible refine .forL (fun l x => ?_) ?_
    | with_reducible refine .forN (fun l x => ?_) ?_

theorem Live.beginSeen_keeps (l : Live) : Keeps [.events] l (Live.beginSeen l) := by
  unfold Live.beginSeen
  repeat' first
    | exact (rfl : true = true)
    | with_reducible exact .refl _ _
    | dsimp only
    | with_reducible refine .events ?_ ?_

theorem Live.blockError_keeps (l : Live) (b : Nat) : Keeps [.events] l (Live.blockError l b) := by
  unfold Live.blockError
  repeat' first
    | exact (rfl : true = true)
    | with_reducible exact .refl _ _
    | refine .via (by with_reducible exact Live.mark_keeps ..) ?_ ?_
    | dsimp only
    | with_reducible refine .events ?_ ?_

theorem Live.judgeInputs_keeps (l0 : Live) : Keeps [.store, .beat, .modes, .events] l0 (Live.judgeInputs l0) := by
  unfold Live.judgeInputs
  repeat' first
    | exact (rfl : true = true)
    | with_reducible exact .refl _ _
    | refine .via (by with_reducible exact Live.mark_keeps ..) ?_ ?_
    | refine .via (by with_reducible exact Live.gpioStuck_keeps ..) ?_ ?_
    | refine .via (by with_reducible exact Live.gpioEdge_keeps ..) ?_ ?_
    | refine .via (by with_reducible exact Live.chatterWindowEnd_keeps ..) ?_ ?_
    | dsimp only
    | with_reducible refine .forN (fun l x => ?_) ?_
    | refine .of2 (by assumption) ?_
    | refine .of22 (by assumption) ?_
    | refine .of1 (by assumption) ?_
    | split

theorem Live.hostConfig_keeps (l : Live) (inp : BoundaryInputs) : Keeps [.store, .host] l (Live.hostConfig l inp) := by
  unfold Live.hostConfig
  repeat' first
    | exact (rfl : true = true)
    | with_reducible exact .refl _ _
    | refine .via (by with_reducible exact Live.wr_keeps ..) ?_ ?_
    | refine .via (by with_reducible exact Live.setFn_keeps ..) ?_ ?_
    | refine .via (by with_reducible exact Live.unmaskVectors_keeps ..) ?_ ?_
    | with_reducible refine .ite ?_ ?_
    | dsimp only
    | with_reducible refine .forN (fun l x => ?_) ?_
    | with_reducible refine .when (fun l => ?_) ?_
    | split

theorem Live.schedError_keeps (l : Live) (e : Nat × Nat × Nat) : Keeps [.store, .plane, .events] l (Live.schedError l e) := by
  unfold Live.schedError
  repeat' first
    | exact (rfl : true = true)
    | with_reducible exact .refl _ _
    | refine .via (by with_reducible exact Live.wr_keeps ..) ?_ ?_
    | refine .via (by with_reducible exact Live.setPort_keeps ..) ?_ ?_
    | refine .via (by with_reducible exact Live.raise_keeps ..) ?_ ?_
    | with_reducible refine .ite ?_ ?_
    | dsimp only
    | refine .of2 (by assumption) ?_
    | refine .of22 (by assumption) ?_
    | refine .of1 (by assumption) ?_
    | split

theorem Live.counterError_keeps (l : Live) (key : Nat) : Keeps [.store, .events] l (Live.counterError l key) := by
  unfold Live.counterError
  repeat' first
    | exact (rfl : true = true)
    | with_reducible exact .refl _ _
    | refine .via (by with_reducible exact Live.mark_keeps ..) ?_ ?_
    | refine .via (by with_reducible exact Live.wr_keeps ..) ?_ ?_
    | with_reducible refine .ite ?_ ?_
    | dsimp only
    | refine .of2 (by assumption) ?_
    | refine .of22 (by assumption) ?_
    | refine .of1 (by assumption) ?_
    | split

theorem Live.sourceError_keeps (l : Live) (e : Nat × Nat) : Keeps [.events] l (Live.sourceError l e) := by
  unfold Live.sourceError
  repeat' first
    | exact (rfl : true = true)
    | with_reducible exact .refl _ _
    | refine .via (by with_reducible exact Live.mark_keeps ..) ?_ ?_
    | refine .via (by with_reducible exact Live.setEv_keeps ..) ?_ ?_
    | dsimp only

theorem Live.memoryErrors_keeps (l : Live) (i : BoundaryInputs) : Keeps [.store, .plane, .bpm, .audio, .host, .events, .recoveries] l (Live.memoryErrors l i) := by
  unfold Live.memoryErrors
  repeat' first
    | exact (rfl : true = true)
    | with_reducible exact .refl _ _
    | refine .via (by with_reducible exact Live.setPlane_keeps ..) ?_ ?_
    | refine .via (by with_reducible exact Live.setPort_keeps ..) ?_ ?_
    | refine .via (by with_reducible exact Live.schedError_keeps ..) ?_ ?_
    | refine .via (by with_reducible exact Live.raise_keeps ..) ?_ ?_
    | refine .via (by with_reducible exact Live.fillBuckets_keeps ..) ?_ ?_
    | refine .via (by with_reducible exact Live.setFrame_keeps ..) ?_ ?_
    | refine .via (by with_reducible exact Live.setBuf_keeps ..) ?_ ?_
    | refine .via (by with_reducible exact Live.islandErrors_keeps ..) ?_ ?_
    | refine .via (by with_reducible exact Live.counterError_keeps ..) ?_ ?_
    | refine .via (by with_reducible exact Live.blockError_keeps ..) ?_ ?_
    | refine .via (by with_reducible exact Live.sourceError_keeps ..) ?_ ?_
    | refine .via (by with_reducible exact Live.endpointErrors_keeps ..) ?_ ?_
    | refine .via (by with_reducible exact Live.bankErrors_keeps ..) ?_ ?_
    | refine .via (by with_reducible exact Live.journalCleared_keeps ..) ?_ ?_
    | refine .via (by with_reducible exact Live.withdraw_keeps ..) ?_ ?_
    | with_reducible refine .ite ?_ ?_
    | dsimp only
    | with_reducible refine .forL (fun l x => ?_) ?_
    | with_reducible refine .when (fun l => ?_) ?_
    | with_reducible refine .foldl (fun l x => ?_) _ _ ?_
    | with_reducible refine .foldl2 (fun l x => ?_) _ _ ?_
    | with_reducible refine .foldl1 (fun l x => ?_) _ _ ?_
    | split

theorem Live.sampledCauses_keeps (l old : Live) (inp : BoundaryInputs) : Keeps [.store, .events] l (Live.sampledCauses l old inp) := by
  unfold Live.sampledCauses
  repeat' first
    | exact (rfl : true = true)
    | with_reducible exact .refl _ _
    | refine .via (by with_reducible exact Live.withdraw_keeps ..) ?_ ?_
    | with_reducible refine .ite ?_ ?_
    | dsimp only
    | split

theorem Live.phaseSample_keeps (inp : BoundaryInputs) (l0 : Live) : Keeps [.store, .beat, .can, .modes, .power, .plane, .bpm, .flannel, .dram, .audio, .host, .events, .recoveries, .enclosure] l0 (Live.phaseSample inp l0) := by
  unfold Live.phaseSample
  repeat' first
    | exact (rfl : true = true)
    | with_reducible exact .refl _ _
    | refine .via (by with_reducible exact Live.agedInputs_keeps ..) ?_ ?_
    | refine .via (by with_reducible exact Live.sampleReceivers_keeps ..) ?_ ?_
    | refine .via (by with_reducible exact Live.sampleFaults_keeps ..) ?_ ?_
    | refine .via (by with_reducible exact Live.sampleLinks_keeps ..) ?_ ?_
    | refine .via (by with_reducible exact Live.judgeInputs_keeps ..) ?_ ?_
    | refine .via (by with_reducible exact Live.canSample_keeps ..) ?_ ?_
    | refine .via (by with_reducible exact Live.sampleDraws_keeps ..) ?_ ?_
    | refine .via (by with_reducible exact Live.sampleSensors_keeps ..) ?_ ?_
    | refine .via (by with_reducible exact Live.sampleModules_keeps ..) ?_ ?_
    | refine .via (by with_reducible exact Live.moduleReading_keeps ..) ?_ ?_
    | refine .via (by with_reducible exact Live.drainAcks_keeps ..) ?_ ?_
    | refine .via (by with_reducible exact Live.judgeLinks_keeps ..) ?_ ?_
    | refine .via (by with_reducible exact Live.samplePresences_keeps ..) ?_ ?_
    | refine .via (by with_reducible exact Live.romVerdict_keeps ..) ?_ ?_
    | refine .via (by with_reducible exact Live.hostConfig_keeps ..) ?_ ?_
    | refine .via (by with_reducible exact Live.loadBeat_keeps ..) ?_ ?_
    | refine .via (by with_reducible exact Live.dramBeat_keeps ..) ?_ ?_
    | refine .via (by with_reducible exact Live.fansSampled_keeps ..) ?_ ?_
    | refine .via (by with_reducible exact Live.memoryErrors_keeps ..) ?_ ?_
    | refine .via (by with_reducible exact Live.mark_keeps ..) ?_ ?_
    | refine .via (by with_reducible exact Live.setPlane_keeps ..) ?_ ?_
    | refine .via (by with_reducible exact Live.sampledCauses_keeps ..) ?_ ?_
    | dsimp only
    | with_reducible refine .forL (fun l x => ?_) ?_
    | with_reducible refine .when (fun l => ?_) ?_
    | with_reducible refine .foldl (fun l x => ?_) _ _ ?_
    | with_reducible refine .foldl2 (fun l x => ?_) _ _ ?_
    | with_reducible refine .foldl1 (fun l x => ?_) _ _ ?_

theorem Live.overran_keeps (l : Live) : Keeps [.store, .beat, .events] l (Live.overran l) := by
  unfold Live.overran
  repeat' first
    | exact (rfl : true = true)
    | with_reducible exact .refl _ _
    | refine .via (by with_reducible exact Live.withdraw_keeps ..) ?_ ?_
    | refine .via (by with_reducible exact Live.raise_keeps ..) ?_ ?_
    | refine .via (by with_reducible exact Live.setBeat_keeps (fun _ => by exact ⟨rfl, rfl, rfl⟩) ..) ?_ ?_
    | dsimp only

theorem Live.numberAligned_keeps (l : Live) (t cycles : Nat) : Keeps [.store, .clock, .beat, .modes, .plane, .audio, .events] l (Live.numberAligned l t cycles) := by
  unfold Live.numberAligned
  repeat' first
    | exact (rfl : true = true)
    | with_reducible exact .refl _ _
    | refine .via (by with_reducible exact Live.gateJump_keeps ..) ?_ ?_
    | refine .via (by with_reducible exact Live.numberLocked_keeps ..) ?_ ?_
    | refine .via (by with_reducible exact Live.slotsSkipped_keeps ..) ?_ ?_
    | refine .via (by with_reducible exact Live.audioStep_keeps ..) ?_ ?_
    | with_reducible refine .ite ?_ ?_
    | dsimp only
    | split

theorem Live.renameBeats_keeps (l : Live) (o n : Nat) : Keeps [.dict, .events] l (Live.renameBeats l o n) := by
  unfold Live.renameBeats
  repeat' first
    | exact (rfl : true = true)
    | with_reducible exact .refl _ _
    | refine .via (by with_reducible exact Live.setDict_keeps ..) ?_ ?_
    | dsimp only
    | with_reducible refine .events ?_ ?_

theorem Live.numberStruck_keeps (l : Live) : Keeps [.store, .clock, .beat, .dict, .audio, .events] l (Live.numberStruck l) := by
  unfold Live.numberStruck
  repeat' first
    | exact (rfl : true = true)
    | with_reducible exact .refl _ _
    | refine .via (by with_reducible exact Live.numberStrobe_keeps ..) ?_ ?_
    | refine .via (by with_reducible exact Live.audioStep_keeps ..) ?_ ?_
    | refine .via (by with_reducible exact Live.clearAges_keeps ..) ?_ ?_
    | refine .via (by with_reducible exact Live.shiftGates_keeps ..) ?_ ?_
    | refine .via (by with_reducible exact Live.renameBeats_keeps ..) ?_ ?_
    | dsimp only

theorem Live.numberPlain_keeps (drift : Nat) (l : Live) : Keeps [.store, .clock, .beat, .dict, .modes, .plane, .audio, .events] l (Live.numberPlain drift l) := by
  unfold Live.numberPlain
  repeat' first
    | exact (rfl : true = true)
    | with_reducible exact .refl _ _
    | refine .via (by with_reducible exact Live.numberAligned_keeps ..) ?_ ?_
    | refine .via (by with_reducible exact Live.declareLock_keeps ..) ?_ ?_
    | refine .via (by with_reducible exact Live.numberNext_keeps ..) ?_ ?_
    | refine .via (by with_reducible exact Live.numberStruck_keeps ..) ?_ ?_
    | with_reducible refine .ite ?_ ?_
    | dsimp only
    | split

theorem Live.phaseNumber_keeps {number : Live → Live}
    (hn : ∀ l, Keeps [.store, .clock, .beat, .dict, .modes, .plane, .audio, .events] l (number l)) (overrun : Bool) (l : Live) :
    Keeps [.store, .clock, .beat, .dict, .modes, .plane, .audio, .events] l (l.phaseNumber number overrun) := by
  unfold Live.phaseNumber
  dsimp only
  refine .via (Live.gateSample_keeps ..) rfl <| .via (Live.dueTakeovers_keeps ..) rfl (.when (fun l => (Live.loseLock_keeps l).mono rfl)
    (.when (fun l => (Live.overran_keeps l).mono rfl) (.via (hn _) rfl ?_)))
  refine .via (Live.setPlane_keeps ..) ?_ ((Live.handOver_keeps l).mono ?_) <;> rfl

theorem Live.phaseCommit_keeps (l0 : Live) : Keeps [.store, .beat, .dict, .can, .sessions, .mailboxes, .modes, .tenancies, .power, .plane, .bpm, .flannel, .dram, .comp, .mover, .audio, .host, .events, .recoveries, .enclosure, .free] l0 (Live.phaseCommit l0) := by
  unfold Live.phaseCommit
  repeat' first
    | exact (rfl : true = true)
    | with_reducible exact .refl _ _
    | refine .via (by with_reducible exact Live.beforeCommit_keeps ..) ?_ ?_
    | refine .via (by with_reducible exact Live.deliver_keeps ..) ?_ ?_
    | refine .via (by with_reducible exact DictRules.commitPhase_keeps rules_keep ..) ?_ ?_
    | refine .via (by with_reducible exact Live.afterCommit_keeps ..) ?_ ?_
    | refine .via (by with_reducible exact Live.storeSettle_keeps ..) ?_ ?_
    | refine .via (by with_reducible exact Live.tenanciesSettle_keeps ..) ?_ ?_
    | dsimp only
    | with_reducible refine .when (fun l => ?_) ?_

theorem Live.phaseRefill_keeps (l : Live) : Keeps [.store, .plane, .flannel] l (Live.phaseRefill l) := by
  unfold Live.phaseRefill
  repeat' first
    | exact (rfl : true = true)
    | with_reducible exact .refl _ _
    | refine .via (by with_reducible exact Live.backfillRefill_keeps ..) ?_ ?_
    | refine .via (by with_reducible exact Live.refill_keeps ..) ?_ ?_
    | dsimp only

theorem Live.poeTimers_keeps (l : Live) : Keeps [.store, .power, .events] l (Live.poeTimers l) := by
  unfold Live.poeTimers
  repeat' first
    | exact (rfl : true = true)
    | with_reducible exact .refl _ _
    | refine .via (by with_reducible exact Live.backoffReset_keeps ..) ?_ ?_
    | refine .via (by with_reducible exact Live.startupFault_keeps ..) ?_ ?_
    | refine .via (by with_reducible exact Live.holdEnds_keeps ..) ?_ ?_
    | dsimp only
    | with_reducible refine .forN (fun l x => ?_) ?_

theorem Live.phasePower_keeps (l : Live) : Keeps [.store, .power, .events, .recoveries] l (Live.phasePower l) := by
  unfold Live.phasePower
  repeat' first
    | exact (rfl : true = true)
    | with_reducible exact .refl _ _
    | refine .via (by with_reducible exact Live.arbiterBeat_keeps ..) ?_ ?_
    | refine .via (by with_reducible exact Live.boostRequest_keeps ..) ?_ ?_
    | refine .via (by with_reducible exact Live.fanStartLevel_keeps ..) ?_ ?_
    | refine .via (by with_reducible exact Live.poeTimers_keeps ..) ?_ ?_
    | dsimp only

theorem Live.phaseEvents_keeps (b : Nat) (ended : List (Nat × Nat × List Byte)) (l : Live) : Keeps [.store, .dict, .can, .sessions, .plane, .flannel, .audio, .host, .events, .recoveries] l (Live.phaseEvents b ended l) := by
  unfold Live.phaseEvents
  repeat' first
    | exact (rfl : true = true)
    | with_reducible exact .refl _ _
    | refine .via (by with_reducible exact Live.journalRecoveries_keeps ..) ?_ ?_
    | refine .via (by with_reducible exact Live.showLink_keeps ..) ?_ ?_
    | refine .via (by with_reducible exact Live.showFault_keeps ..) ?_ ?_
    | refine .via (by with_reducible exact Live.refreshStreams_keeps ..) ?_ ?_
    | refine .via (by with_reducible exact Live.audioBeat_keeps ..) ?_ ?_
    | refine .via (by with_reducible exact Live.rampIn_keeps ..) ?_ ?_
    | refine .via (by with_reducible exact Live.setRelays_keeps ..) ?_ ?_
    | refine .via (by with_reducible exact Live.sendNotes_keeps ..) ?_ ?_
    | refine .via (by with_reducible exact Live.evaluate_keeps ..) ?_ ?_
    | refine .via (by with_reducible exact Live.enqueueWrite_keeps ..) ?_ ?_
    | dsimp only
    | with_reducible refine .forN (fun l x => ?_) ?_
    | with_reducible refine .when (fun l => ?_) ?_

theorem Live.boundary_keeps (st : Live) {number : Live → Live} (hn : ∀ l, Keeps [.store, .clock, .beat, .dict, .modes, .plane, .audio, .events] l (number l))
    (inp : BoundaryInputs) (l : Live) : Keeps [.store, .clock, .beat, .dict, .can, .sessions, .mailboxes, .mode, .modes, .tenancies, .power, .plane, .bpm, .flannel, .dram, .comp, .mover, .audio, .host, .events, .recoveries, .enclosure, .free] l (Live.boundary st number inp l) := by
  unfold Live.boundary
  refine .when (fun l => (Live.mark_keeps ..).mono rfl) ?_
  refine .via (Live.deliver_keeps ..) rfl (.via (Live.kickAll_keeps ..) rfl (.via (Live.phaseEvents_keeps ..) rfl ?_))
  refine .via (Live.backgroundTimers_keeps ..) rfl (.via (Live.backgroundWork_keeps ..) rfl ?_)
  refine .via (Live.snapshotCapture_keeps ..) rfl (.via (Live.gather_keeps ..) rfl (.via (Live.snapshotShow_keeps ..) rfl ?_))
  refine .via (Live.phaseRefill_keeps ..) rfl (.via (Live.phasePower_keeps ..) rfl (.via (Live.modeEval_keeps ..) rfl ?_))
  refine .via (Live.phaseCommit_keeps ..) rfl (.via (Live.setFlannel_keeps ..) rfl (.via (Live.beginSeen_keeps ..) rfl ?_))
  exact .via (Live.phaseSample_keeps ..) rfl (.via (Live.phaseNumber_keeps hn ..) rfl ((Live.beatReports_keeps ..).mono rfl))

end Sys2Proof.Machine
end

