-- ==== Sys2Proof/Laws/ExecBoundary.lean ====
section
/-! SUPPORT. What the boundary commands may change: everything, and a boundary starts a new snapshot. -/

namespace Sys2Proof.Machine

open Sys2Proof

/-- A boundary ends in a next state that keeps the order of cells and the queue; it starts a new snapshot, or nothing happens. -/
structure EndsBeat (s : State) (o : Host.Outcome State Fault Refusal) : Prop where
  next : ∃ t, o = .next t ∧ Keeps [.store, .clock, .beat, .dict, .can, .sessions, .mailboxes, .mode, .modes, .tenancies, .power, .plane, .bpm, .flannel, .dram, .comp, .mover, .audio, .host, .events, .recoveries, .enclosure, .free] s.live t.live ∧
    t.pending = s.pending ∧ (t.start = t.live ∨ t = s)

theorem EndsBeat.idle (s : State) : EndsBeat s (.next s) := ⟨s, rfl, .refl _ _, rfl, .inr rfl⟩

theorem State.atBoundary_ends (s : State) {number : Live → Live} (hn : ∀ l, Keeps [.store, .clock, .beat, .dict, .modes, .plane, .audio, .events] l (number l))
    (inp : BoundaryInputs) : EndsBeat s (s.atBoundary number inp) := by
  unfold State.atBoundary
  split
  · exact .idle s
  · exact ⟨_, rfl, Live.boundary_keeps s.start hn inp s.live, rfl, .inl rfl⟩

theorem execBeatBoundary_ends (inp : BoundaryInputs) (s : State) : EndsBeat s (execBeatBoundary inp s) :=
  State.atBoundary_ends s (fun l => (Live.numberPlain_keeps _ l).mono rfl) inp

theorem execBeatPtpLocked_ends (t cycles : Nat) (inp : BoundaryInputs) (s : State) :
    EndsBeat s (execBeatPtpLocked t cycles inp s) := by
  unfold execBeatPtpLocked
  split
  · exact State.atBoundary_ends s (fun l => (Live.numberAligned_keeps l ..).mono rfl) inp
  · exact .idle s

theorem execBeatSlewDone_ends (inp : BoundaryInputs) (s : State) : EndsBeat s (execBeatSlewDone inp s) := by
  unfold execBeatSlewDone
  split
  · exact State.atBoundary_ends s (fun l => (Live.numberPlain_keeps _ l).mono rfl) inp
  · exact .idle s

theorem execBeatOriginSet_ends (inp : BoundaryInputs) (s : State) : EndsBeat s (execBeatOriginSet inp s) := by
  unfold execBeatOriginSet
  split
  · exact State.atBoundary_ends s (fun l => (Live.numberPlain_keeps _ l).mono rfl) inp
  · exact .idle s

end Sys2Proof.Machine
end

