-- ==== Sys2Proof/Laws/State.lean ====
section
/-! SUPPORT. What each update of the state leaves alone: one law per field and update, so that no proof unfolds an update. -/

namespace Sys2Proof.Machine

open Sys2Proof

/-! ### The state -/

@[simp] theorem State.withLive_live (s : State) (l : Live) : (s.withLive l).live = l := (rfl)
@[simp] theorem State.withLive_start (s : State) (l : Live) : (s.withLive l).start = s.start := (rfl)
@[simp] theorem State.withLive_pending (s : State) (l : Live) : (s.withLive l).pending = s.pending := (rfl)

/-! ### Updates of one part -/

@[simp] theorem Live.wr_beat (l : Live) (o : Obj) (v i k t : Nat) : (l.wr o v i k t).beat = l.beat := (rfl)
@[simp] theorem Live.wr_dict (l : Live) (o : Obj) (v i k t : Nat) : (l.wr o v i k t).dict = l.dict := (rfl)
@[simp] theorem Live.wr_can (l : Live) (o : Obj) (v i k t : Nat) : (l.wr o v i k t).can = l.can := (rfl)
@[simp] theorem Live.wr_sessions (l : Live) (o : Obj) (v i k t : Nat) : (l.wr o v i k t).sessions = l.sessions := (rfl)
@[simp] theorem Live.wr_mailboxes (l : Live) (o : Obj) (v i k t : Nat) : (l.wr o v i k t).mailboxes = l.mailboxes := (rfl)
@[simp] theorem Live.wr_modes (l : Live) (o : Obj) (v i k t : Nat) : (l.wr o v i k t).modes = l.modes := (rfl)
@[simp] theorem Live.wr_tenancies (l : Live) (o : Obj) (v i k t : Nat) : (l.wr o v i k t).tenancies = l.tenancies := (rfl)
@[simp] theorem Live.wr_power (l : Live) (o : Obj) (v i k t : Nat) : (l.wr o v i k t).power = l.power := (rfl)
@[simp] theorem Live.wr_plane (l : Live) (o : Obj) (v i k t : Nat) : (l.wr o v i k t).plane = l.plane := (rfl)
@[simp] theorem Live.wr_bpm (l : Live) (o : Obj) (v i k t : Nat) : (l.wr o v i k t).bpm = l.bpm := (rfl)
@[simp] theorem Live.wr_flannel (l : Live) (o : Obj) (v i k t : Nat) : (l.wr o v i k t).flannel = l.flannel := (rfl)
@[simp] theorem Live.wr_dram (l : Live) (o : Obj) (v i k t : Nat) : (l.wr o v i k t).dram = l.dram := (rfl)
@[simp] theorem Live.wr_comp (l : Live) (o : Obj) (v i k t : Nat) : (l.wr o v i k t).comp = l.comp := (rfl)
@[simp] theorem Live.wr_mover (l : Live) (o : Obj) (v i k t : Nat) : (l.wr o v i k t).mover = l.mover := (rfl)
@[simp] theorem Live.wr_audio (l : Live) (o : Obj) (v i k t : Nat) : (l.wr o v i k t).audio = l.audio := (rfl)
@[simp] theorem Live.wr_host (l : Live) (o : Obj) (v i k t : Nat) : (l.wr o v i k t).host = l.host := (rfl)
@[simp] theorem Live.wr_events (l : Live) (o : Obj) (v i k t : Nat) : (l.wr o v i k t).events = l.events := (rfl)
@[simp] theorem Live.wr_recoveries (l : Live) (o : Obj) (v i k t : Nat) : (l.wr o v i k t).recoveries = l.recoveries := (rfl)
@[simp] theorem Live.wr_enclosure (l : Live) (o : Obj) (v i k t : Nat) : (l.wr o v i k t).enclosure = l.enclosure := (rfl)
@[simp] theorem Live.wr_free (l : Live) (o : Obj) (v i k t : Nat) : (l.wr o v i k t).free = l.free := (rfl)

@[simp] theorem Live.wrB_beat (l : Live) (o : Obj) (b : Bool) (i k t : Nat) : (l.wrB o b i k t).beat = l.beat := (rfl)
@[simp] theorem Live.wrB_dict (l : Live) (o : Obj) (b : Bool) (i k t : Nat) : (l.wrB o b i k t).dict = l.dict := (rfl)
@[simp] theorem Live.wrB_can (l : Live) (o : Obj) (b : Bool) (i k t : Nat) : (l.wrB o b i k t).can = l.can := (rfl)
@[simp] theorem Live.wrB_sessions (l : Live) (o : Obj) (b : Bool) (i k t : Nat) : (l.wrB o b i k t).sessions = l.sessions := (rfl)
@[simp] theorem Live.wrB_mailboxes (l : Live) (o : Obj) (b : Bool) (i k t : Nat) : (l.wrB o b i k t).mailboxes = l.mailboxes := (rfl)
@[simp] theorem Live.wrB_modes (l : Live) (o : Obj) (b : Bool) (i k t : Nat) : (l.wrB o b i k t).modes = l.modes := (rfl)
@[simp] theorem Live.wrB_tenancies (l : Live) (o : Obj) (b : Bool) (i k t : Nat) : (l.wrB o b i k t).tenancies = l.tenancies := (rfl)
@[simp] theorem Live.wrB_power (l : Live) (o : Obj) (b : Bool) (i k t : Nat) : (l.wrB o b i k t).power = l.power := (rfl)
@[simp] theorem Live.wrB_plane (l : Live) (o : Obj) (b : Bool) (i k t : Nat) : (l.wrB o b i k t).plane = l.plane := (rfl)
@[simp] theorem Live.wrB_bpm (l : Live) (o : Obj) (b : Bool) (i k t : Nat) : (l.wrB o b i k t).bpm = l.bpm := (rfl)
@[simp] theorem Live.wrB_flannel (l : Live) (o : Obj) (b : Bool) (i k t : Nat) : (l.wrB o b i k t).flannel = l.flannel := (rfl)
@[simp] theorem Live.wrB_dram (l : Live) (o : Obj) (b : Bool) (i k t : Nat) : (l.wrB o b i k t).dram = l.dram := (rfl)
@[simp] theorem Live.wrB_comp (l : Live) (o : Obj) (b : Bool) (i k t : Nat) : (l.wrB o b i k t).comp = l.comp := (rfl)
@[simp] theorem Live.wrB_mover (l : Live) (o : Obj) (b : Bool) (i k t : Nat) : (l.wrB o b i k t).mover = l.mover := (rfl)
@[simp] theorem Live.wrB_audio (l : Live) (o : Obj) (b : Bool) (i k t : Nat) : (l.wrB o b i k t).audio = l.audio := (rfl)
@[simp] theorem Live.wrB_host (l : Live) (o : Obj) (b : Bool) (i k t : Nat) : (l.wrB o b i k t).host = l.host := (rfl)
@[simp] theorem Live.wrB_events (l : Live) (o : Obj) (b : Bool) (i k t : Nat) : (l.wrB o b i k t).events = l.events := (rfl)
@[simp] theorem Live.wrB_recoveries (l : Live) (o : Obj) (b : Bool) (i k t : Nat) : (l.wrB o b i k t).recoveries = l.recoveries := (rfl)
@[simp] theorem Live.wrB_enclosure (l : Live) (o : Obj) (b : Bool) (i k t : Nat) : (l.wrB o b i k t).enclosure = l.enclosure := (rfl)
@[simp] theorem Live.wrB_free (l : Live) (o : Obj) (b : Bool) (i k t : Nat) : (l.wrB o b i k t).free = l.free := (rfl)

@[simp] theorem Live.wrSat_beat (l : Live) (o : Obj) (v i k t : Nat) : (l.wrSat o v i k t).beat = l.beat := (rfl)
@[simp] theorem Live.wrSat_dict (l : Live) (o : Obj) (v i k t : Nat) : (l.wrSat o v i k t).dict = l.dict := (rfl)
@[simp] theorem Live.wrSat_can (l : Live) (o : Obj) (v i k t : Nat) : (l.wrSat o v i k t).can = l.can := (rfl)
@[simp] theorem Live.wrSat_sessions (l : Live) (o : Obj) (v i k t : Nat) : (l.wrSat o v i k t).sessions = l.sessions := (rfl)
@[simp] theorem Live.wrSat_mailboxes (l : Live) (o : Obj) (v i k t : Nat) : (l.wrSat o v i k t).mailboxes = l.mailboxes := (rfl)
@[simp] theorem Live.wrSat_modes (l : Live) (o : Obj) (v i k t : Nat) : (l.wrSat o v i k t).modes = l.modes := (rfl)
@[simp] theorem Live.wrSat_tenancies (l : Live) (o : Obj) (v i k t : Nat) : (l.wrSat o v i k t).tenancies = l.tenancies := (rfl)
@[simp] theorem Live.wrSat_power (l : Live) (o : Obj) (v i k t : Nat) : (l.wrSat o v i k t).power = l.power := (rfl)
@[simp] theorem Live.wrSat_plane (l : Live) (o : Obj) (v i k t : Nat) : (l.wrSat o v i k t).plane = l.plane := (rfl)
@[simp] theorem Live.wrSat_bpm (l : Live) (o : Obj) (v i k t : Nat) : (l.wrSat o v i k t).bpm = l.bpm := (rfl)
@[simp] theorem Live.wrSat_flannel (l : Live) (o : Obj) (v i k t : Nat) : (l.wrSat o v i k t).flannel = l.flannel := (rfl)
@[simp] theorem Live.wrSat_dram (l : Live) (o : Obj) (v i k t : Nat) : (l.wrSat o v i k t).dram = l.dram := (rfl)
@[simp] theorem Live.wrSat_comp (l : Live) (o : Obj) (v i k t : Nat) : (l.wrSat o v i k t).comp = l.comp := (rfl)
@[simp] theorem Live.wrSat_mover (l : Live) (o : Obj) (v i k t : Nat) : (l.wrSat o v i k t).mover = l.mover := (rfl)
@[simp] theorem Live.wrSat_audio (l : Live) (o : Obj) (v i k t : Nat) : (l.wrSat o v i k t).audio = l.audio := (rfl)
@[simp] theorem Live.wrSat_host (l : Live) (o : Obj) (v i k t : Nat) : (l.wrSat o v i k t).host = l.host := (rfl)
@[simp] theorem Live.wrSat_events (l : Live) (o : Obj) (v i k t : Nat) : (l.wrSat o v i k t).events = l.events := (rfl)
@[simp] theorem Live.wrSat_recoveries (l : Live) (o : Obj) (v i k t : Nat) : (l.wrSat o v i k t).recoveries = l.recoveries := (rfl)
@[simp] theorem Live.wrSat_enclosure (l : Live) (o : Obj) (v i k t : Nat) : (l.wrSat o v i k t).enclosure = l.enclosure := (rfl)
@[simp] theorem Live.wrSat_free (l : Live) (o : Obj) (v i k t : Nat) : (l.wrSat o v i k t).free = l.free := (rfl)

@[simp] theorem Live.toDefault_beat (l : Live) (o : Obj) (i k t : Nat) : (l.toDefault o i k t).beat = l.beat := (rfl)
@[simp] theorem Live.toDefault_dict (l : Live) (o : Obj) (i k t : Nat) : (l.toDefault o i k t).dict = l.dict := (rfl)
@[simp] theorem Live.toDefault_can (l : Live) (o : Obj) (i k t : Nat) : (l.toDefault o i k t).can = l.can := (rfl)
@[simp] theorem Live.toDefault_sessions (l : Live) (o : Obj) (i k t : Nat) : (l.toDefault o i k t).sessions = l.sessions := (rfl)
@[simp] theorem Live.toDefault_mailboxes (l : Live) (o : Obj) (i k t : Nat) : (l.toDefault o i k t).mailboxes = l.mailboxes := (rfl)
@[simp] theorem Live.toDefault_modes (l : Live) (o : Obj) (i k t : Nat) : (l.toDefault o i k t).modes = l.modes := (rfl)
@[simp] theorem Live.toDefault_tenancies (l : Live) (o : Obj) (i k t : Nat) : (l.toDefault o i k t).tenancies = l.tenancies := (rfl)
@[simp] theorem Live.toDefault_power (l : Live) (o : Obj) (i k t : Nat) : (l.toDefault o i k t).power = l.power := (rfl)
@[simp] theorem Live.toDefault_plane (l : Live) (o : Obj) (i k t : Nat) : (l.toDefault o i k t).plane = l.plane := (rfl)
@[simp] theorem Live.toDefault_bpm (l : Live) (o : Obj) (i k t : Nat) : (l.toDefault o i k t).bpm = l.bpm := (rfl)
@[simp] theorem Live.toDefault_flannel (l : Live) (o : Obj) (i k t : Nat) : (l.toDefault o i k t).flannel = l.flannel := (rfl)
@[simp] theorem Live.toDefault_dram (l : Live) (o : Obj) (i k t : Nat) : (l.toDefault o i k t).dram = l.dram := (rfl)
@[simp] theorem Live.toDefault_comp (l : Live) (o : Obj) (i k t : Nat) : (l.toDefault o i k t).comp = l.comp := (rfl)
@[simp] theorem Live.toDefault_mover (l : Live) (o : Obj) (i k t : Nat) : (l.toDefault o i k t).mover = l.mover := (rfl)
@[simp] theorem Live.toDefault_audio (l : Live) (o : Obj) (i k t : Nat) : (l.toDefault o i k t).audio = l.audio := (rfl)
@[simp] theorem Live.toDefault_host (l : Live) (o : Obj) (i k t : Nat) : (l.toDefault o i k t).host = l.host := (rfl)
@[simp] theorem Live.toDefault_events (l : Live) (o : Obj) (i k t : Nat) : (l.toDefault o i k t).events = l.events := (rfl)
@[simp] theorem Live.toDefault_recoveries (l : Live) (o : Obj) (i k t : Nat) : (l.toDefault o i k t).recoveries = l.recoveries := (rfl)
@[simp] theorem Live.toDefault_enclosure (l : Live) (o : Obj) (i k t : Nat) : (l.toDefault o i k t).enclosure = l.enclosure := (rfl)
@[simp] theorem Live.toDefault_free (l : Live) (o : Obj) (i k t : Nat) : (l.toDefault o i k t).free = l.free := (rfl)

@[simp] theorem Live.tookFree_store (l : Live) : (l.tookFree).store = l.store := (rfl)
@[simp] theorem Live.tookFree_beat (l : Live) : (l.tookFree).beat = l.beat := (rfl)
@[simp] theorem Live.tookFree_dict (l : Live) : (l.tookFree).dict = l.dict := (rfl)
@[simp] theorem Live.tookFree_can (l : Live) : (l.tookFree).can = l.can := (rfl)
@[simp] theorem Live.tookFree_sessions (l : Live) : (l.tookFree).sessions = l.sessions := (rfl)
@[simp] theorem Live.tookFree_mailboxes (l : Live) : (l.tookFree).mailboxes = l.mailboxes := (rfl)
@[simp] theorem Live.tookFree_modes (l : Live) : (l.tookFree).modes = l.modes := (rfl)
@[simp] theorem Live.tookFree_tenancies (l : Live) : (l.tookFree).tenancies = l.tenancies := (rfl)
@[simp] theorem Live.tookFree_power (l : Live) : (l.tookFree).power = l.power := (rfl)
@[simp] theorem Live.tookFree_plane (l : Live) : (l.tookFree).plane = l.plane := (rfl)
@[simp] theorem Live.tookFree_bpm (l : Live) : (l.tookFree).bpm = l.bpm := (rfl)
@[simp] theorem Live.tookFree_flannel (l : Live) : (l.tookFree).flannel = l.flannel := (rfl)
@[simp] theorem Live.tookFree_dram (l : Live) : (l.tookFree).dram = l.dram := (rfl)
@[simp] theorem Live.tookFree_comp (l : Live) : (l.tookFree).comp = l.comp := (rfl)
@[simp] theorem Live.tookFree_mover (l : Live) : (l.tookFree).mover = l.mover := (rfl)
@[simp] theorem Live.tookFree_audio (l : Live) : (l.tookFree).audio = l.audio := (rfl)
@[simp] theorem Live.tookFree_host (l : Live) : (l.tookFree).host = l.host := (rfl)
@[simp] theorem Live.tookFree_events (l : Live) : (l.tookFree).events = l.events := (rfl)
@[simp] theorem Live.tookFree_recoveries (l : Live) : (l.tookFree).recoveries = l.recoveries := (rfl)
@[simp] theorem Live.tookFree_enclosure (l : Live) : (l.tookFree).enclosure = l.enclosure := (rfl)
@[simp] theorem Live.tookFree_rd (l : Live)  (q : Obj) (x y z : Nat) : (l.tookFree).rd q x y z = l.rd q x y z := (rfl)

@[simp] theorem Live.setBeat_store (l : Live) (f : Beat → Beat) : (l.setBeat f).store = l.store := (rfl)
@[simp] theorem Live.setBeat_dict (l : Live) (f : Beat → Beat) : (l.setBeat f).dict = l.dict := (rfl)
@[simp] theorem Live.setBeat_can (l : Live) (f : Beat → Beat) : (l.setBeat f).can = l.can := (rfl)
@[simp] theorem Live.setBeat_sessions (l : Live) (f : Beat → Beat) : (l.setBeat f).sessions = l.sessions := (rfl)
@[simp] theorem Live.setBeat_mailboxes (l : Live) (f : Beat → Beat) : (l.setBeat f).mailboxes = l.mailboxes := (rfl)
@[simp] theorem Live.setBeat_modes (l : Live) (f : Beat → Beat) : (l.setBeat f).modes = l.modes := (rfl)
@[simp] theorem Live.setBeat_tenancies (l : Live) (f : Beat → Beat) : (l.setBeat f).tenancies = l.tenancies := (rfl)
@[simp] theorem Live.setBeat_power (l : Live) (f : Beat → Beat) : (l.setBeat f).power = l.power := (rfl)
@[simp] theorem Live.setBeat_plane (l : Live) (f : Beat → Beat) : (l.setBeat f).plane = l.plane := (rfl)
@[simp] theorem Live.setBeat_bpm (l : Live) (f : Beat → Beat) : (l.setBeat f).bpm = l.bpm := (rfl)
@[simp] theorem Live.setBeat_flannel (l : Live) (f : Beat → Beat) : (l.setBeat f).flannel = l.flannel := (rfl)
@[simp] theorem Live.setBeat_dram (l : Live) (f : Beat → Beat) : (l.setBeat f).dram = l.dram := (rfl)
@[simp] theorem Live.setBeat_comp (l : Live) (f : Beat → Beat) : (l.setBeat f).comp = l.comp := (rfl)
@[simp] theorem Live.setBeat_mover (l : Live) (f : Beat → Beat) : (l.setBeat f).mover = l.mover := (rfl)
@[simp] theorem Live.setBeat_audio (l : Live) (f : Beat → Beat) : (l.setBeat f).audio = l.audio := (rfl)
@[simp] theorem Live.setBeat_host (l : Live) (f : Beat → Beat) : (l.setBeat f).host = l.host := (rfl)
@[simp] theorem Live.setBeat_events (l : Live) (f : Beat → Beat) : (l.setBeat f).events = l.events := (rfl)
@[simp] theorem Live.setBeat_recoveries (l : Live) (f : Beat → Beat) : (l.setBeat f).recoveries = l.recoveries := (rfl)
@[simp] theorem Live.setBeat_enclosure (l : Live) (f : Beat → Beat) : (l.setBeat f).enclosure = l.enclosure := (rfl)
@[simp] theorem Live.setBeat_free (l : Live) (f : Beat → Beat) : (l.setBeat f).free = l.free := (rfl)
@[simp] theorem Live.setBeat_rd (l : Live) (f : Beat → Beat) (q : Obj) (x y z : Nat) : (l.setBeat f).rd q x y z = l.rd q x y z := (rfl)

@[simp] theorem Live.setDict_store (l : Live) (f : Dict → Dict) : (l.setDict f).store = l.store := (rfl)
@[simp] theorem Live.setDict_beat (l : Live) (f : Dict → Dict) : (l.setDict f).beat = l.beat := (rfl)
@[simp] theorem Live.setDict_can (l : Live) (f : Dict → Dict) : (l.setDict f).can = l.can := (rfl)
@[simp] theorem Live.setDict_sessions (l : Live) (f : Dict → Dict) : (l.setDict f).sessions = l.sessions := (rfl)
@[simp] theorem Live.setDict_mailboxes (l : Live) (f : Dict → Dict) : (l.setDict f).mailboxes = l.mailboxes := (rfl)
@[simp] theorem Live.setDict_modes (l : Live) (f : Dict → Dict) : (l.setDict f).modes = l.modes := (rfl)
@[simp] theorem Live.setDict_tenancies (l : Live) (f : Dict → Dict) : (l.setDict f).tenancies = l.tenancies := (rfl)
@[simp] theorem Live.setDict_power (l : Live) (f : Dict → Dict) : (l.setDict f).power = l.power := (rfl)
@[simp] theorem Live.setDict_plane (l : Live) (f : Dict → Dict) : (l.setDict f).plane = l.plane := (rfl)
@[simp] theorem Live.setDict_bpm (l : Live) (f : Dict → Dict) : (l.setDict f).bpm = l.bpm := (rfl)
@[simp] theorem Live.setDict_flannel (l : Live) (f : Dict → Dict) : (l.setDict f).flannel = l.flannel := (rfl)
@[simp] theorem Live.setDict_dram (l : Live) (f : Dict → Dict) : (l.setDict f).dram = l.dram := (rfl)
@[simp] theorem Live.setDict_comp (l : Live) (f : Dict → Dict) : (l.setDict f).comp = l.comp := (rfl)
@[simp] theorem Live.setDict_mover (l : Live) (f : Dict → Dict) : (l.setDict f).mover = l.mover := (rfl)
@[simp] theorem Live.setDict_audio (l : Live) (f : Dict → Dict) : (l.setDict f).audio = l.audio := (rfl)
@[simp] theorem Live.setDict_host (l : Live) (f : Dict → Dict) : (l.setDict f).host = l.host := (rfl)
@[simp] theorem Live.setDict_events (l : Live) (f : Dict → Dict) : (l.setDict f).events = l.events := (rfl)
@[simp] theorem Live.setDict_recoveries (l : Live) (f : Dict → Dict) : (l.setDict f).recoveries = l.recoveries := (rfl)
@[simp] theorem Live.setDict_enclosure (l : Live) (f : Dict → Dict) : (l.setDict f).enclosure = l.enclosure := (rfl)
@[simp] theorem Live.setDict_free (l : Live) (f : Dict → Dict) : (l.setDict f).free = l.free := (rfl)
@[simp] theorem Live.setDict_rd (l : Live) (f : Dict → Dict) (q : Obj) (x y z : Nat) : (l.setDict f).rd q x y z = l.rd q x y z := (rfl)

@[simp] theorem Live.setModes_store (l : Live) (f : Modes → Modes) : (l.setModes f).store = l.store := (rfl)
@[simp] theorem Live.setModes_beat (l : Live) (f : Modes → Modes) : (l.setModes f).beat = l.beat := (rfl)
@[simp] theorem Live.setModes_dict (l : Live) (f : Modes → Modes) : (l.setModes f).dict = l.dict := (rfl)
@[simp] theorem Live.setModes_can (l : Live) (f : Modes → Modes) : (l.setModes f).can = l.can := (rfl)
@[simp] theorem Live.setModes_sessions (l : Live) (f : Modes → Modes) : (l.setModes f).sessions = l.sessions := (rfl)
@[simp] theorem Live.setModes_mailboxes (l : Live) (f : Modes → Modes) : (l.setModes f).mailboxes = l.mailboxes := (rfl)
@[simp] theorem Live.setModes_tenancies (l : Live) (f : Modes → Modes) : (l.setModes f).tenancies = l.tenancies := (rfl)
@[simp] theorem Live.setModes_power (l : Live) (f : Modes → Modes) : (l.setModes f).power = l.power := (rfl)
@[simp] theorem Live.setModes_plane (l : Live) (f : Modes → Modes) : (l.setModes f).plane = l.plane := (rfl)
@[simp] theorem Live.setModes_bpm (l : Live) (f : Modes → Modes) : (l.setModes f).bpm = l.bpm := (rfl)
@[simp] theorem Live.setModes_flannel (l : Live) (f : Modes → Modes) : (l.setModes f).flannel = l.flannel := (rfl)
@[simp] theorem Live.setModes_dram (l : Live) (f : Modes → Modes) : (l.setModes f).dram = l.dram := (rfl)
@[simp] theorem Live.setModes_comp (l : Live) (f : Modes → Modes) : (l.setModes f).comp = l.comp := (rfl)
@[simp] theorem Live.setModes_mover (l : Live) (f : Modes → Modes) : (l.setModes f).mover = l.mover := (rfl)
@[simp] theorem Live.setModes_audio (l : Live) (f : Modes → Modes) : (l.setModes f).audio = l.audio := (rfl)
@[simp] theorem Live.setModes_host (l : Live) (f : Modes → Modes) : (l.setModes f).host = l.host := (rfl)
@[simp] theorem Live.setModes_events (l : Live) (f : Modes → Modes) : (l.setModes f).events = l.events := (rfl)
@[simp] theorem Live.setModes_recoveries (l : Live) (f : Modes → Modes) : (l.setModes f).recoveries = l.recoveries := (rfl)
@[simp] theorem Live.setModes_enclosure (l : Live) (f : Modes → Modes) : (l.setModes f).enclosure = l.enclosure := (rfl)
@[simp] theorem Live.setModes_free (l : Live) (f : Modes → Modes) : (l.setModes f).free = l.free := (rfl)
@[simp] theorem Live.setModes_rd (l : Live) (f : Modes → Modes) (q : Obj) (x y z : Nat) : (l.setModes f).rd q x y z = l.rd q x y z := (rfl)

@[simp] theorem Live.setCan_store (l : Live) (c : Nat) (f : CanPort → CanPort) : (l.setCan c f).store = l.store := (rfl)
@[simp] theorem Live.setCan_beat (l : Live) (c : Nat) (f : CanPort → CanPort) : (l.setCan c f).beat = l.beat := (rfl)
@[simp] theorem Live.setCan_dict (l : Live) (c : Nat) (f : CanPort → CanPort) : (l.setCan c f).dict = l.dict := (rfl)
@[simp] theorem Live.setCan_sessions (l : Live) (c : Nat) (f : CanPort → CanPort) : (l.setCan c f).sessions = l.sessions := (rfl)
@[simp] theorem Live.setCan_mailboxes (l : Live) (c : Nat) (f : CanPort → CanPort) : (l.setCan c f).mailboxes = l.mailboxes := (rfl)
@[simp] theorem Live.setCan_modes (l : Live) (c : Nat) (f : CanPort → CanPort) : (l.setCan c f).modes = l.modes := (rfl)
@[simp] theorem Live.setCan_tenancies (l : Live) (c : Nat) (f : CanPort → CanPort) : (l.setCan c f).tenancies = l.tenancies := (rfl)
@[simp] theorem Live.setCan_power (l : Live) (c : Nat) (f : CanPort → CanPort) : (l.setCan c f).power = l.power := (rfl)
@[simp] theorem Live.setCan_plane (l : Live) (c : Nat) (f : CanPort → CanPort) : (l.setCan c f).plane = l.plane := (rfl)
@[simp] theorem Live.setCan_bpm (l : Live) (c : Nat) (f : CanPort → CanPort) : (l.setCan c f).bpm = l.bpm := (rfl)
@[simp] theorem Live.setCan_flannel (l : Live) (c : Nat) (f : CanPort → CanPort) : (l.setCan c f).flannel = l.flannel := (rfl)
@[simp] theorem Live.setCan_dram (l : Live) (c : Nat) (f : CanPort → CanPort) : (l.setCan c f).dram = l.dram := (rfl)
@[simp] theorem Live.setCan_comp (l : Live) (c : Nat) (f : CanPort → CanPort) : (l.setCan c f).comp = l.comp := (rfl)
@[simp] theorem Live.setCan_mover (l : Live) (c : Nat) (f : CanPort → CanPort) : (l.setCan c f).mover = l.mover := (rfl)
@[simp] theorem Live.setCan_audio (l : Live) (c : Nat) (f : CanPort → CanPort) : (l.setCan c f).audio = l.audio := (rfl)
@[simp] theorem Live.setCan_host (l : Live) (c : Nat) (f : CanPort → CanPort) : (l.setCan c f).host = l.host := (rfl)
@[simp] theorem Live.setCan_events (l : Live) (c : Nat) (f : CanPort → CanPort) : (l.setCan c f).events = l.events := (rfl)
@[simp] theorem Live.setCan_recoveries (l : Live) (c : Nat) (f : CanPort → CanPort) : (l.setCan c f).recoveries = l.recoveries := (rfl)
@[simp] theorem Live.setCan_enclosure (l : Live) (c : Nat) (f : CanPort → CanPort) : (l.setCan c f).enclosure = l.enclosure := (rfl)
@[simp] theorem Live.setCan_free (l : Live) (c : Nat) (f : CanPort → CanPort) : (l.setCan c f).free = l.free := (rfl)
@[simp] theorem Live.setCan_rd (l : Live) (c : Nat) (f : CanPort → CanPort) (q : Obj) (x y z : Nat) : (l.setCan c f).rd q x y z = l.rd q x y z := (rfl)

@[simp] theorem Live.setSession_store (l : Live) (s : Nat) (f : Session → Session) : (l.setSession s f).store = l.store := (rfl)
@[simp] theorem Live.setSession_beat (l : Live) (s : Nat) (f : Session → Session) : (l.setSession s f).beat = l.beat := (rfl)
@[simp] theorem Live.setSession_dict (l : Live) (s : Nat) (f : Session → Session) : (l.setSession s f).dict = l.dict := (rfl)
@[simp] theorem Live.setSession_can (l : Live) (s : Nat) (f : Session → Session) : (l.setSession s f).can = l.can := (rfl)
@[simp] theorem Live.setSession_mailboxes (l : Live) (s : Nat) (f : Session → Session) : (l.setSession s f).mailboxes = l.mailboxes := (rfl)
@[simp] theorem Live.setSession_modes (l : Live) (s : Nat) (f : Session → Session) : (l.setSession s f).modes = l.modes := (rfl)
@[simp] theorem Live.setSession_tenancies (l : Live) (s : Nat) (f : Session → Session) : (l.setSession s f).tenancies = l.tenancies := (rfl)
@[simp] theorem Live.setSession_power (l : Live) (s : Nat) (f : Session → Session) : (l.setSession s f).power = l.power := (rfl)
@[simp] theorem Live.setSession_plane (l : Live) (s : Nat) (f : Session → Session) : (l.setSession s f).plane = l.plane := (rfl)
@[simp] theorem Live.setSession_bpm (l : Live) (s : Nat) (f : Session → Session) : (l.setSession s f).bpm = l.bpm := (rfl)
@[simp] theorem Live.setSession_flannel (l : Live) (s : Nat) (f : Session → Session) : (l.setSession s f).flannel = l.flannel := (rfl)
@[simp] theorem Live.setSession_dram (l : Live) (s : Nat) (f : Session → Session) : (l.setSession s f).dram = l.dram := (rfl)
@[simp] theorem Live.setSession_comp (l : Live) (s : Nat) (f : Session → Session) : (l.setSession s f).comp = l.comp := (rfl)
@[simp] theorem Live.setSession_mover (l : Live) (s : Nat) (f : Session → Session) : (l.setSession s f).mover = l.mover := (rfl)
@[simp] theorem Live.setSession_audio (l : Live) (s : Nat) (f : Session → Session) : (l.setSession s f).audio = l.audio := (rfl)
@[simp] theorem Live.setSession_host (l : Live) (s : Nat) (f : Session → Session) : (l.setSession s f).host = l.host := (rfl)
@[simp] theorem Live.setSession_events (l : Live) (s : Nat) (f : Session → Session) : (l.setSession s f).events = l.events := (rfl)
@[simp] theorem Live.setSession_recoveries (l : Live) (s : Nat) (f : Session → Session) : (l.setSession s f).recoveries = l.recoveries := (rfl)
@[simp] theorem Live.setSession_enclosure (l : Live) (s : Nat) (f : Session → Session) : (l.setSession s f).enclosure = l.enclosure := (rfl)
@[simp] theorem Live.setSession_free (l : Live) (s : Nat) (f : Session → Session) : (l.setSession s f).free = l.free := (rfl)
@[simp] theorem Live.setSession_rd (l : Live) (s : Nat) (f : Session → Session) (q : Obj) (x y z : Nat) : (l.setSession s f).rd q x y z = l.rd q x y z := (rfl)

@[simp] theorem Live.setMbx_store (l : Live) (i : Nat) (f : Mailbox → Mailbox) : (l.setMbx i f).store = l.store := (rfl)
@[simp] theorem Live.setMbx_beat (l : Live) (i : Nat) (f : Mailbox → Mailbox) : (l.setMbx i f).beat = l.beat := (rfl)
@[simp] theorem Live.setMbx_dict (l : Live) (i : Nat) (f : Mailbox → Mailbox) : (l.setMbx i f).dict = l.dict := (rfl)
@[simp] theorem Live.setMbx_can (l : Live) (i : Nat) (f : Mailbox → Mailbox) : (l.setMbx i f).can = l.can := (rfl)
@[simp] theorem Live.setMbx_sessions (l : Live) (i : Nat) (f : Mailbox → Mailbox) : (l.setMbx i f).sessions = l.sessions := (rfl)
@[simp] theorem Live.setMbx_modes (l : Live) (i : Nat) (f : Mailbox → Mailbox) : (l.setMbx i f).modes = l.modes := (rfl)
@[simp] theorem Live.setMbx_tenancies (l : Live) (i : Nat) (f : Mailbox → Mailbox) : (l.setMbx i f).tenancies = l.tenancies := (rfl)
@[simp] theorem Live.setMbx_power (l : Live) (i : Nat) (f : Mailbox → Mailbox) : (l.setMbx i f).power = l.power := (rfl)
@[simp] theorem Live.setMbx_plane (l : Live) (i : Nat) (f : Mailbox → Mailbox) : (l.setMbx i f).plane = l.plane := (rfl)
@[simp] theorem Live.setMbx_bpm (l : Live) (i : Nat) (f : Mailbox → Mailbox) : (l.setMbx i f).bpm = l.bpm := (rfl)
@[simp] theorem Live.setMbx_flannel (l : Live) (i : Nat) (f : Mailbox → Mailbox) : (l.setMbx i f).flannel = l.flannel := (rfl)
@[simp] theorem Live.setMbx_dram (l : Live) (i : Nat) (f : Mailbox → Mailbox) : (l.setMbx i f).dram = l.dram := (rfl)
@[simp] theorem Live.setMbx_comp (l : Live) (i : Nat) (f : Mailbox → Mailbox) : (l.setMbx i f).comp = l.comp := (rfl)
@[simp] theorem Live.setMbx_mover (l : Live) (i : Nat) (f : Mailbox → Mailbox) : (l.setMbx i f).mover = l.mover := (rfl)
@[simp] theorem Live.setMbx_audio (l : Live) (i : Nat) (f : Mailbox → Mailbox) : (l.setMbx i f).audio = l.audio := (rfl)
@[simp] theorem Live.setMbx_host (l : Live) (i : Nat) (f : Mailbox → Mailbox) : (l.setMbx i f).host = l.host := (rfl)
@[simp] theorem Live.setMbx_events (l : Live) (i : Nat) (f : Mailbox → Mailbox) : (l.setMbx i f).events = l.events := (rfl)
@[simp] theorem Live.setMbx_recoveries (l : Live) (i : Nat) (f : Mailbox → Mailbox) : (l.setMbx i f).recoveries = l.recoveries := (rfl)
@[simp] theorem Live.setMbx_enclosure (l : Live) (i : Nat) (f : Mailbox → Mailbox) : (l.setMbx i f).enclosure = l.enclosure := (rfl)
@[simp] theorem Live.setMbx_free (l : Live) (i : Nat) (f : Mailbox → Mailbox) : (l.setMbx i f).free = l.free := (rfl)
@[simp] theorem Live.setMbx_rd (l : Live) (i : Nat) (f : Mailbox → Mailbox) (q : Obj) (x y z : Nat) : (l.setMbx i f).rd q x y z = l.rd q x y z := (rfl)

@[simp] theorem Live.setWipe_store (l : Live) (n : Nat) (w : Option TnWipe) : (l.setWipe n w).store = l.store := (rfl)
@[simp] theorem Live.setWipe_beat (l : Live) (n : Nat) (w : Option TnWipe) : (l.setWipe n w).beat = l.beat := (rfl)
@[simp] theorem Live.setWipe_dict (l : Live) (n : Nat) (w : Option TnWipe) : (l.setWipe n w).dict = l.dict := (rfl)
@[simp] theorem Live.setWipe_can (l : Live) (n : Nat) (w : Option TnWipe) : (l.setWipe n w).can = l.can := (rfl)
@[simp] theorem Live.setWipe_sessions (l : Live) (n : Nat) (w : Option TnWipe) : (l.setWipe n w).sessions = l.sessions := (rfl)
@[simp] theorem Live.setWipe_mailboxes (l : Live) (n : Nat) (w : Option TnWipe) : (l.setWipe n w).mailboxes = l.mailboxes := (rfl)
@[simp] theorem Live.setWipe_modes (l : Live) (n : Nat) (w : Option TnWipe) : (l.setWipe n w).modes = l.modes := (rfl)
@[simp] theorem Live.setWipe_power (l : Live) (n : Nat) (w : Option TnWipe) : (l.setWipe n w).power = l.power := (rfl)
@[simp] theorem Live.setWipe_plane (l : Live) (n : Nat) (w : Option TnWipe) : (l.setWipe n w).plane = l.plane := (rfl)
@[simp] theorem Live.setWipe_bpm (l : Live) (n : Nat) (w : Option TnWipe) : (l.setWipe n w).bpm = l.bpm := (rfl)
@[simp] theorem Live.setWipe_flannel (l : Live) (n : Nat) (w : Option TnWipe) : (l.setWipe n w).flannel = l.flannel := (rfl)
@[simp] theorem Live.setWipe_dram (l : Live) (n : Nat) (w : Option TnWipe) : (l.setWipe n w).dram = l.dram := (rfl)
@[simp] theorem Live.setWipe_comp (l : Live) (n : Nat) (w : Option TnWipe) : (l.setWipe n w).comp = l.comp := (rfl)
@[simp] theorem Live.setWipe_mover (l : Live) (n : Nat) (w : Option TnWipe) : (l.setWipe n w).mover = l.mover := (rfl)
@[simp] theorem Live.setWipe_audio (l : Live) (n : Nat) (w : Option TnWipe) : (l.setWipe n w).audio = l.audio := (rfl)
@[simp] theorem Live.setWipe_host (l : Live) (n : Nat) (w : Option TnWipe) : (l.setWipe n w).host = l.host := (rfl)
@[simp] theorem Live.setWipe_events (l : Live) (n : Nat) (w : Option TnWipe) : (l.setWipe n w).events = l.events := (rfl)
@[simp] theorem Live.setWipe_recoveries (l : Live) (n : Nat) (w : Option TnWipe) : (l.setWipe n w).recoveries = l.recoveries := (rfl)
@[simp] theorem Live.setWipe_enclosure (l : Live) (n : Nat) (w : Option TnWipe) : (l.setWipe n w).enclosure = l.enclosure := (rfl)
@[simp] theorem Live.setWipe_free (l : Live) (n : Nat) (w : Option TnWipe) : (l.setWipe n w).free = l.free := (rfl)
@[simp] theorem Live.setWipe_rd (l : Live) (n : Nat) (w : Option TnWipe) (q : Obj) (x y z : Nat) : (l.setWipe n w).rd q x y z = l.rd q x y z := (rfl)

@[simp] theorem Live.setPower_store (l : Live) (f : Power → Power) : (l.setPower f).store = l.store := (rfl)
@[simp] theorem Live.setPower_beat (l : Live) (f : Power → Power) : (l.setPower f).beat = l.beat := (rfl)
@[simp] theorem Live.setPower_dict (l : Live) (f : Power → Power) : (l.setPower f).dict = l.dict := (rfl)
@[simp] theorem Live.setPower_can (l : Live) (f : Power → Power) : (l.setPower f).can = l.can := (rfl)
@[simp] theorem Live.setPower_sessions (l : Live) (f : Power → Power) : (l.setPower f).sessions = l.sessions := (rfl)
@[simp] theorem Live.setPower_mailboxes (l : Live) (f : Power → Power) : (l.setPower f).mailboxes = l.mailboxes := (rfl)
@[simp] theorem Live.setPower_modes (l : Live) (f : Power → Power) : (l.setPower f).modes = l.modes := (rfl)
@[simp] theorem Live.setPower_tenancies (l : Live) (f : Power → Power) : (l.setPower f).tenancies = l.tenancies := (rfl)
@[simp] theorem Live.setPower_plane (l : Live) (f : Power → Power) : (l.setPower f).plane = l.plane := (rfl)
@[simp] theorem Live.setPower_bpm (l : Live) (f : Power → Power) : (l.setPower f).bpm = l.bpm := (rfl)
@[simp] theorem Live.setPower_flannel (l : Live) (f : Power → Power) : (l.setPower f).flannel = l.flannel := (rfl)
@[simp] theorem Live.setPower_dram (l : Live) (f : Power → Power) : (l.setPower f).dram = l.dram := (rfl)
@[simp] theorem Live.setPower_comp (l : Live) (f : Power → Power) : (l.setPower f).comp = l.comp := (rfl)
@[simp] theorem Live.setPower_mover (l : Live) (f : Power → Power) : (l.setPower f).mover = l.mover := (rfl)
@[simp] theorem Live.setPower_audio (l : Live) (f : Power → Power) : (l.setPower f).audio = l.audio := (rfl)
@[simp] theorem Live.setPower_host (l : Live) (f : Power → Power) : (l.setPower f).host = l.host := (rfl)
@[simp] theorem Live.setPower_events (l : Live) (f : Power → Power) : (l.setPower f).events = l.events := (rfl)
@[simp] theorem Live.setPower_recoveries (l : Live) (f : Power → Power) : (l.setPower f).recoveries = l.recoveries := (rfl)
@[simp] theorem Live.setPower_enclosure (l : Live) (f : Power → Power) : (l.setPower f).enclosure = l.enclosure := (rfl)
@[simp] theorem Live.setPower_free (l : Live) (f : Power → Power) : (l.setPower f).free = l.free := (rfl)
@[simp] theorem Live.setPower_rd (l : Live) (f : Power → Power) (q : Obj) (x y z : Nat) : (l.setPower f).rd q x y z = l.rd q x y z := (rfl)

@[simp] theorem Live.setModule_store (l : Live) (b : Nat) (f : Module → Module) : (l.setModule b f).store = l.store := (rfl)
@[simp] theorem Live.setModule_beat (l : Live) (b : Nat) (f : Module → Module) : (l.setModule b f).beat = l.beat := (rfl)
@[simp] theorem Live.setModule_dict (l : Live) (b : Nat) (f : Module → Module) : (l.setModule b f).dict = l.dict := (rfl)
@[simp] theorem Live.setModule_can (l : Live) (b : Nat) (f : Module → Module) : (l.setModule b f).can = l.can := (rfl)
@[simp] theorem Live.setModule_sessions (l : Live) (b : Nat) (f : Module → Module) : (l.setModule b f).sessions = l.sessions := (rfl)
@[simp] theorem Live.setModule_mailboxes (l : Live) (b : Nat) (f : Module → Module) : (l.setModule b f).mailboxes = l.mailboxes := (rfl)
@[simp] theorem Live.setModule_modes (l : Live) (b : Nat) (f : Module → Module) : (l.setModule b f).modes = l.modes := (rfl)
@[simp] theorem Live.setModule_tenancies (l : Live) (b : Nat) (f : Module → Module) : (l.setModule b f).tenancies = l.tenancies := (rfl)
@[simp] theorem Live.setModule_plane (l : Live) (b : Nat) (f : Module → Module) : (l.setModule b f).plane = l.plane := (rfl)
@[simp] theorem Live.setModule_bpm (l : Live) (b : Nat) (f : Module → Module) : (l.setModule b f).bpm = l.bpm := (rfl)
@[simp] theorem Live.setModule_flannel (l : Live) (b : Nat) (f : Module → Module) : (l.setModule b f).flannel = l.flannel := (rfl)
@[simp] theorem Live.setModule_dram (l : Live) (b : Nat) (f : Module → Module) : (l.setModule b f).dram = l.dram := (rfl)
@[simp] theorem Live.setModule_comp (l : Live) (b : Nat) (f : Module → Module) : (l.setModule b f).comp = l.comp := (rfl)
@[simp] theorem Live.setModule_mover (l : Live) (b : Nat) (f : Module → Module) : (l.setModule b f).mover = l.mover := (rfl)
@[simp] theorem Live.setModule_audio (l : Live) (b : Nat) (f : Module → Module) : (l.setModule b f).audio = l.audio := (rfl)
@[simp] theorem Live.setModule_host (l : Live) (b : Nat) (f : Module → Module) : (l.setModule b f).host = l.host := (rfl)
@[simp] theorem Live.setModule_events (l : Live) (b : Nat) (f : Module → Module) : (l.setModule b f).events = l.events := (rfl)
@[simp] theorem Live.setModule_recoveries (l : Live) (b : Nat) (f : Module → Module) : (l.setModule b f).recoveries = l.recoveries := (rfl)
@[simp] theorem Live.setModule_enclosure (l : Live) (b : Nat) (f : Module → Module) : (l.setModule b f).enclosure = l.enclosure := (rfl)
@[simp] theorem Live.setModule_free (l : Live) (b : Nat) (f : Module → Module) : (l.setModule b f).free = l.free := (rfl)
@[simp] theorem Live.setModule_rd (l : Live) (b : Nat) (f : Module → Module) (q : Obj) (x y z : Nat) : (l.setModule b f).rd q x y z = l.rd q x y z := (rfl)

@[simp] theorem Live.setPse_store (l : Live) (k : Nat) (f : Pse → Pse) : (l.setPse k f).store = l.store := (rfl)
@[simp] theorem Live.setPse_beat (l : Live) (k : Nat) (f : Pse → Pse) : (l.setPse k f).beat = l.beat := (rfl)
@[simp] theorem Live.setPse_dict (l : Live) (k : Nat) (f : Pse → Pse) : (l.setPse k f).dict = l.dict := (rfl)
@[simp] theorem Live.setPse_can (l : Live) (k : Nat) (f : Pse → Pse) : (l.setPse k f).can = l.can := (rfl)
@[simp] theorem Live.setPse_sessions (l : Live) (k : Nat) (f : Pse → Pse) : (l.setPse k f).sessions = l.sessions := (rfl)
@[simp] theorem Live.setPse_mailboxes (l : Live) (k : Nat) (f : Pse → Pse) : (l.setPse k f).mailboxes = l.mailboxes := (rfl)
@[simp] theorem Live.setPse_modes (l : Live) (k : Nat) (f : Pse → Pse) : (l.setPse k f).modes = l.modes := (rfl)
@[simp] theorem Live.setPse_tenancies (l : Live) (k : Nat) (f : Pse → Pse) : (l.setPse k f).tenancies = l.tenancies := (rfl)
@[simp] theorem Live.setPse_plane (l : Live) (k : Nat) (f : Pse → Pse) : (l.setPse k f).plane = l.plane := (rfl)
@[simp] theorem Live.setPse_bpm (l : Live) (k : Nat) (f : Pse → Pse) : (l.setPse k f).bpm = l.bpm := (rfl)
@[simp] theorem Live.setPse_flannel (l : Live) (k : Nat) (f : Pse → Pse) : (l.setPse k f).flannel = l.flannel := (rfl)
@[simp] theorem Live.setPse_dram (l : Live) (k : Nat) (f : Pse → Pse) : (l.setPse k f).dram = l.dram := (rfl)
@[simp] theorem Live.setPse_comp (l : Live) (k : Nat) (f : Pse → Pse) : (l.setPse k f).comp = l.comp := (rfl)
@[simp] theorem Live.setPse_mover (l : Live) (k : Nat) (f : Pse → Pse) : (l.setPse k f).mover = l.mover := (rfl)
@[simp] theorem Live.setPse_audio (l : Live) (k : Nat) (f : Pse → Pse) : (l.setPse k f).audio = l.audio := (rfl)
@[simp] theorem Live.setPse_host (l : Live) (k : Nat) (f : Pse → Pse) : (l.setPse k f).host = l.host := (rfl)
@[simp] theorem Live.setPse_events (l : Live) (k : Nat) (f : Pse → Pse) : (l.setPse k f).events = l.events := (rfl)
@[simp] theorem Live.setPse_recoveries (l : Live) (k : Nat) (f : Pse → Pse) : (l.setPse k f).recoveries = l.recoveries := (rfl)
@[simp] theorem Live.setPse_enclosure (l : Live) (k : Nat) (f : Pse → Pse) : (l.setPse k f).enclosure = l.enclosure := (rfl)
@[simp] theorem Live.setPse_free (l : Live) (k : Nat) (f : Pse → Pse) : (l.setPse k f).free = l.free := (rfl)
@[simp] theorem Live.setPse_rd (l : Live) (k : Nat) (f : Pse → Pse) (q : Obj) (x y z : Nat) : (l.setPse k f).rd q x y z = l.rd q x y z := (rfl)

@[simp] theorem Live.setPlane_store (l : Live) (f : Plane → Plane) : (l.setPlane f).store = l.store := (rfl)
@[simp] theorem Live.setPlane_beat (l : Live) (f : Plane → Plane) : (l.setPlane f).beat = l.beat := (rfl)
@[simp] theorem Live.setPlane_dict (l : Live) (f : Plane → Plane) : (l.setPlane f).dict = l.dict := (rfl)
@[simp] theorem Live.setPlane_can (l : Live) (f : Plane → Plane) : (l.setPlane f).can = l.can := (rfl)
@[simp] theorem Live.setPlane_sessions (l : Live) (f : Plane → Plane) : (l.setPlane f).sessions = l.sessions := (rfl)
@[simp] theorem Live.setPlane_mailboxes (l : Live) (f : Plane → Plane) : (l.setPlane f).mailboxes = l.mailboxes := (rfl)
@[simp] theorem Live.setPlane_modes (l : Live) (f : Plane → Plane) : (l.setPlane f).modes = l.modes := (rfl)
@[simp] theorem Live.setPlane_tenancies (l : Live) (f : Plane → Plane) : (l.setPlane f).tenancies = l.tenancies := (rfl)
@[simp] theorem Live.setPlane_power (l : Live) (f : Plane → Plane) : (l.setPlane f).power = l.power := (rfl)
@[simp] theorem Live.setPlane_bpm (l : Live) (f : Plane → Plane) : (l.setPlane f).bpm = l.bpm := (rfl)
@[simp] theorem Live.setPlane_flannel (l : Live) (f : Plane → Plane) : (l.setPlane f).flannel = l.flannel := (rfl)
@[simp] theorem Live.setPlane_dram (l : Live) (f : Plane → Plane) : (l.setPlane f).dram = l.dram := (rfl)
@[simp] theorem Live.setPlane_comp (l : Live) (f : Plane → Plane) : (l.setPlane f).comp = l.comp := (rfl)
@[simp] theorem Live.setPlane_mover (l : Live) (f : Plane → Plane) : (l.setPlane f).mover = l.mover := (rfl)
@[simp] theorem Live.setPlane_audio (l : Live) (f : Plane → Plane) : (l.setPlane f).audio = l.audio := (rfl)
@[simp] theorem Live.setPlane_host (l : Live) (f : Plane → Plane) : (l.setPlane f).host = l.host := (rfl)
@[simp] theorem Live.setPlane_events (l : Live) (f : Plane → Plane) : (l.setPlane f).events = l.events := (rfl)
@[simp] theorem Live.setPlane_recoveries (l : Live) (f : Plane → Plane) : (l.setPlane f).recoveries = l.recoveries := (rfl)
@[simp] theorem Live.setPlane_enclosure (l : Live) (f : Plane → Plane) : (l.setPlane f).enclosure = l.enclosure := (rfl)
@[simp] theorem Live.setPlane_free (l : Live) (f : Plane → Plane) : (l.setPlane f).free = l.free := (rfl)
@[simp] theorem Live.setPlane_rd (l : Live) (f : Plane → Plane) (q : Obj) (x y z : Nat) : (l.setPlane f).rd q x y z = l.rd q x y z := (rfl)

@[simp] theorem Live.setPort_store (l : Live) (p : Nat) (f : Port → Port) : (l.setPort p f).store = l.store := (rfl)
@[simp] theorem Live.setPort_beat (l : Live) (p : Nat) (f : Port → Port) : (l.setPort p f).beat = l.beat := (rfl)
@[simp] theorem Live.setPort_dict (l : Live) (p : Nat) (f : Port → Port) : (l.setPort p f).dict = l.dict := (rfl)
@[simp] theorem Live.setPort_can (l : Live) (p : Nat) (f : Port → Port) : (l.setPort p f).can = l.can := (rfl)
@[simp] theorem Live.setPort_sessions (l : Live) (p : Nat) (f : Port → Port) : (l.setPort p f).sessions = l.sessions := (rfl)
@[simp] theorem Live.setPort_mailboxes (l : Live) (p : Nat) (f : Port → Port) : (l.setPort p f).mailboxes = l.mailboxes := (rfl)
@[simp] theorem Live.setPort_modes (l : Live) (p : Nat) (f : Port → Port) : (l.setPort p f).modes = l.modes := (rfl)
@[simp] theorem Live.setPort_tenancies (l : Live) (p : Nat) (f : Port → Port) : (l.setPort p f).tenancies = l.tenancies := (rfl)
@[simp] theorem Live.setPort_power (l : Live) (p : Nat) (f : Port → Port) : (l.setPort p f).power = l.power := (rfl)
@[simp] theorem Live.setPort_bpm (l : Live) (p : Nat) (f : Port → Port) : (l.setPort p f).bpm = l.bpm := (rfl)
@[simp] theorem Live.setPort_flannel (l : Live) (p : Nat) (f : Port → Port) : (l.setPort p f).flannel = l.flannel := (rfl)
@[simp] theorem Live.setPort_dram (l : Live) (p : Nat) (f : Port → Port) : (l.setPort p f).dram = l.dram := (rfl)
@[simp] theorem Live.setPort_comp (l : Live) (p : Nat) (f : Port → Port) : (l.setPort p f).comp = l.comp := (rfl)
@[simp] theorem Live.setPort_mover (l : Live) (p : Nat) (f : Port → Port) : (l.setPort p f).mover = l.mover := (rfl)
@[simp] theorem Live.setPort_audio (l : Live) (p : Nat) (f : Port → Port) : (l.setPort p f).audio = l.audio := (rfl)
@[simp] theorem Live.setPort_host (l : Live) (p : Nat) (f : Port → Port) : (l.setPort p f).host = l.host := (rfl)
@[simp] theorem Live.setPort_events (l : Live) (p : Nat) (f : Port → Port) : (l.setPort p f).events = l.events := (rfl)
@[simp] theorem Live.setPort_recoveries (l : Live) (p : Nat) (f : Port → Port) : (l.setPort p f).recoveries = l.recoveries := (rfl)
@[simp] theorem Live.setPort_enclosure (l : Live) (p : Nat) (f : Port → Port) : (l.setPort p f).enclosure = l.enclosure := (rfl)
@[simp] theorem Live.setPort_free (l : Live) (p : Nat) (f : Port → Port) : (l.setPort p f).free = l.free := (rfl)
@[simp] theorem Live.setPort_rd (l : Live) (p : Nat) (f : Port → Port) (q : Obj) (x y z : Nat) : (l.setPort p f).rd q x y z = l.rd q x y z := (rfl)

@[simp] theorem Live.setFwd_store (l : Live) (f : Fwd → Fwd) : (l.setFwd f).store = l.store := (rfl)
@[simp] theorem Live.setFwd_beat (l : Live) (f : Fwd → Fwd) : (l.setFwd f).beat = l.beat := (rfl)
@[simp] theorem Live.setFwd_dict (l : Live) (f : Fwd → Fwd) : (l.setFwd f).dict = l.dict := (rfl)
@[simp] theorem Live.setFwd_can (l : Live) (f : Fwd → Fwd) : (l.setFwd f).can = l.can := (rfl)
@[simp] theorem Live.setFwd_sessions (l : Live) (f : Fwd → Fwd) : (l.setFwd f).sessions = l.sessions := (rfl)
@[simp] theorem Live.setFwd_mailboxes (l : Live) (f : Fwd → Fwd) : (l.setFwd f).mailboxes = l.mailboxes := (rfl)
@[simp] theorem Live.setFwd_modes (l : Live) (f : Fwd → Fwd) : (l.setFwd f).modes = l.modes := (rfl)
@[simp] theorem Live.setFwd_tenancies (l : Live) (f : Fwd → Fwd) : (l.setFwd f).tenancies = l.tenancies := (rfl)
@[simp] theorem Live.setFwd_power (l : Live) (f : Fwd → Fwd) : (l.setFwd f).power = l.power := (rfl)
@[simp] theorem Live.setFwd_bpm (l : Live) (f : Fwd → Fwd) : (l.setFwd f).bpm = l.bpm := (rfl)
@[simp] theorem Live.setFwd_flannel (l : Live) (f : Fwd → Fwd) : (l.setFwd f).flannel = l.flannel := (rfl)
@[simp] theorem Live.setFwd_dram (l : Live) (f : Fwd → Fwd) : (l.setFwd f).dram = l.dram := (rfl)
@[simp] theorem Live.setFwd_comp (l : Live) (f : Fwd → Fwd) : (l.setFwd f).comp = l.comp := (rfl)
@[simp] theorem Live.setFwd_mover (l : Live) (f : Fwd → Fwd) : (l.setFwd f).mover = l.mover := (rfl)
@[simp] theorem Live.setFwd_audio (l : Live) (f : Fwd → Fwd) : (l.setFwd f).audio = l.audio := (rfl)
@[simp] theorem Live.setFwd_host (l : Live) (f : Fwd → Fwd) : (l.setFwd f).host = l.host := (rfl)
@[simp] theorem Live.setFwd_events (l : Live) (f : Fwd → Fwd) : (l.setFwd f).events = l.events := (rfl)
@[simp] theorem Live.setFwd_recoveries (l : Live) (f : Fwd → Fwd) : (l.setFwd f).recoveries = l.recoveries := (rfl)
@[simp] theorem Live.setFwd_enclosure (l : Live) (f : Fwd → Fwd) : (l.setFwd f).enclosure = l.enclosure := (rfl)
@[simp] theorem Live.setFwd_free (l : Live) (f : Fwd → Fwd) : (l.setFwd f).free = l.free := (rfl)
@[simp] theorem Live.setFwd_rd (l : Live) (f : Fwd → Fwd) (q : Obj) (x y z : Nat) : (l.setFwd f).rd q x y z = l.rd q x y z := (rfl)

@[simp] theorem Live.setHop_store (l : Live) (n : Nat) (f : Resolution → Resolution) : (l.setHop n f).store = l.store := (rfl)
@[simp] theorem Live.setHop_beat (l : Live) (n : Nat) (f : Resolution → Resolution) : (l.setHop n f).beat = l.beat := (rfl)
@[simp] theorem Live.setHop_dict (l : Live) (n : Nat) (f : Resolution → Resolution) : (l.setHop n f).dict = l.dict := (rfl)
@[simp] theorem Live.setHop_can (l : Live) (n : Nat) (f : Resolution → Resolution) : (l.setHop n f).can = l.can := (rfl)
@[simp] theorem Live.setHop_sessions (l : Live) (n : Nat) (f : Resolution → Resolution) : (l.setHop n f).sessions = l.sessions := (rfl)
@[simp] theorem Live.setHop_mailboxes (l : Live) (n : Nat) (f : Resolution → Resolution) : (l.setHop n f).mailboxes = l.mailboxes := (rfl)
@[simp] theorem Live.setHop_modes (l : Live) (n : Nat) (f : Resolution → Resolution) : (l.setHop n f).modes = l.modes := (rfl)
@[simp] theorem Live.setHop_tenancies (l : Live) (n : Nat) (f : Resolution → Resolution) : (l.setHop n f).tenancies = l.tenancies := (rfl)
@[simp] theorem Live.setHop_power (l : Live) (n : Nat) (f : Resolution → Resolution) : (l.setHop n f).power = l.power := (rfl)
@[simp] theorem Live.setHop_bpm (l : Live) (n : Nat) (f : Resolution → Resolution) : (l.setHop n f).bpm = l.bpm := (rfl)
@[simp] theorem Live.setHop_flannel (l : Live) (n : Nat) (f : Resolution → Resolution) : (l.setHop n f).flannel = l.flannel := (rfl)
@[simp] theorem Live.setHop_dram (l : Live) (n : Nat) (f : Resolution → Resolution) : (l.setHop n f).dram = l.dram := (rfl)
@[simp] theorem Live.setHop_comp (l : Live) (n : Nat) (f : Resolution → Resolution) : (l.setHop n f).comp = l.comp := (rfl)
@[simp] theorem Live.setHop_mover (l : Live) (n : Nat) (f : Resolution → Resolution) : (l.setHop n f).mover = l.mover := (rfl)
@[simp] theorem Live.setHop_audio (l : Live) (n : Nat) (f : Resolution → Resolution) : (l.setHop n f).audio = l.audio := (rfl)
@[simp] theorem Live.setHop_host (l : Live) (n : Nat) (f : Resolution → Resolution) : (l.setHop n f).host = l.host := (rfl)
@[simp] theorem Live.setHop_events (l : Live) (n : Nat) (f : Resolution → Resolution) : (l.setHop n f).events = l.events := (rfl)
@[simp] theorem Live.setHop_recoveries (l : Live) (n : Nat) (f : Resolution → Resolution) : (l.setHop n f).recoveries = l.recoveries := (rfl)
@[simp] theorem Live.setHop_enclosure (l : Live) (n : Nat) (f : Resolution → Resolution) : (l.setHop n f).enclosure = l.enclosure := (rfl)
@[simp] theorem Live.setHop_free (l : Live) (n : Nat) (f : Resolution → Resolution) : (l.setHop n f).free = l.free := (rfl)
@[simp] theorem Live.setHop_rd (l : Live) (n : Nat) (f : Resolution → Resolution) (q : Obj) (x y z : Nat) : (l.setHop n f).rd q x y z = l.rd q x y z := (rfl)

@[simp] theorem Live.setCalico_store (l : Live) (f : Calico → Calico) : (l.setCalico f).store = l.store := (rfl)
@[simp] theorem Live.setCalico_beat (l : Live) (f : Calico → Calico) : (l.setCalico f).beat = l.beat := (rfl)
@[simp] theorem Live.setCalico_dict (l : Live) (f : Calico → Calico) : (l.setCalico f).dict = l.dict := (rfl)
@[simp] theorem Live.setCalico_can (l : Live) (f : Calico → Calico) : (l.setCalico f).can = l.can := (rfl)
@[simp] theorem Live.setCalico_sessions (l : Live) (f : Calico → Calico) : (l.setCalico f).sessions = l.sessions := (rfl)
@[simp] theorem Live.setCalico_mailboxes (l : Live) (f : Calico → Calico) : (l.setCalico f).mailboxes = l.mailboxes := (rfl)
@[simp] theorem Live.setCalico_modes (l : Live) (f : Calico → Calico) : (l.setCalico f).modes = l.modes := (rfl)
@[simp] theorem Live.setCalico_tenancies (l : Live) (f : Calico → Calico) : (l.setCalico f).tenancies = l.tenancies := (rfl)
@[simp] theorem Live.setCalico_power (l : Live) (f : Calico → Calico) : (l.setCalico f).power = l.power := (rfl)
@[simp] theorem Live.setCalico_bpm (l : Live) (f : Calico → Calico) : (l.setCalico f).bpm = l.bpm := (rfl)
@[simp] theorem Live.setCalico_flannel (l : Live) (f : Calico → Calico) : (l.setCalico f).flannel = l.flannel := (rfl)
@[simp] theorem Live.setCalico_dram (l : Live) (f : Calico → Calico) : (l.setCalico f).dram = l.dram := (rfl)
@[simp] theorem Live.setCalico_comp (l : Live) (f : Calico → Calico) : (l.setCalico f).comp = l.comp := (rfl)
@[simp] theorem Live.setCalico_mover (l : Live) (f : Calico → Calico) : (l.setCalico f).mover = l.mover := (rfl)
@[simp] theorem Live.setCalico_audio (l : Live) (f : Calico → Calico) : (l.setCalico f).audio = l.audio := (rfl)
@[simp] theorem Live.setCalico_host (l : Live) (f : Calico → Calico) : (l.setCalico f).host = l.host := (rfl)
@[simp] theorem Live.setCalico_events (l : Live) (f : Calico → Calico) : (l.setCalico f).events = l.events := (rfl)
@[simp] theorem Live.setCalico_recoveries (l : Live) (f : Calico → Calico) : (l.setCalico f).recoveries = l.recoveries := (rfl)
@[simp] theorem Live.setCalico_enclosure (l : Live) (f : Calico → Calico) : (l.setCalico f).enclosure = l.enclosure := (rfl)
@[simp] theorem Live.setCalico_free (l : Live) (f : Calico → Calico) : (l.setCalico f).free = l.free := (rfl)
@[simp] theorem Live.setCalico_rd (l : Live) (f : Calico → Calico) (q : Obj) (x y z : Nat) : (l.setCalico f).rd q x y z = l.rd q x y z := (rfl)

@[simp] theorem Live.at_store (l : Live) (ns : Nat) : (l.at ns).store = l.store := (rfl)
@[simp] theorem Live.at_beat (l : Live) (ns : Nat) : (l.at ns).beat = l.beat := (rfl)
@[simp] theorem Live.at_dict (l : Live) (ns : Nat) : (l.at ns).dict = l.dict := (rfl)
@[simp] theorem Live.at_can (l : Live) (ns : Nat) : (l.at ns).can = l.can := (rfl)
@[simp] theorem Live.at_sessions (l : Live) (ns : Nat) : (l.at ns).sessions = l.sessions := (rfl)
@[simp] theorem Live.at_mailboxes (l : Live) (ns : Nat) : (l.at ns).mailboxes = l.mailboxes := (rfl)
@[simp] theorem Live.at_modes (l : Live) (ns : Nat) : (l.at ns).modes = l.modes := (rfl)
@[simp] theorem Live.at_tenancies (l : Live) (ns : Nat) : (l.at ns).tenancies = l.tenancies := (rfl)
@[simp] theorem Live.at_power (l : Live) (ns : Nat) : (l.at ns).power = l.power := (rfl)
@[simp] theorem Live.at_bpm (l : Live) (ns : Nat) : (l.at ns).bpm = l.bpm := (rfl)
@[simp] theorem Live.at_flannel (l : Live) (ns : Nat) : (l.at ns).flannel = l.flannel := (rfl)
@[simp] theorem Live.at_dram (l : Live) (ns : Nat) : (l.at ns).dram = l.dram := (rfl)
@[simp] theorem Live.at_comp (l : Live) (ns : Nat) : (l.at ns).comp = l.comp := (rfl)
@[simp] theorem Live.at_mover (l : Live) (ns : Nat) : (l.at ns).mover = l.mover := (rfl)
@[simp] theorem Live.at_audio (l : Live) (ns : Nat) : (l.at ns).audio = l.audio := (rfl)
@[simp] theorem Live.at_host (l : Live) (ns : Nat) : (l.at ns).host = l.host := (rfl)
@[simp] theorem Live.at_events (l : Live) (ns : Nat) : (l.at ns).events = l.events := (rfl)
@[simp] theorem Live.at_recoveries (l : Live) (ns : Nat) : (l.at ns).recoveries = l.recoveries := (rfl)
@[simp] theorem Live.at_enclosure (l : Live) (ns : Nat) : (l.at ns).enclosure = l.enclosure := (rfl)
@[simp] theorem Live.at_free (l : Live) (ns : Nat) : (l.at ns).free = l.free := (rfl)
@[simp] theorem Live.at_rd (l : Live) (ns : Nat) (q : Obj) (x y z : Nat) : (l.at ns).rd q x y z = l.rd q x y z := (rfl)

@[simp] theorem Live.setBpm_store (l : Live) (f : Bpm → Bpm) : (l.setBpm f).store = l.store := (rfl)
@[simp] theorem Live.setBpm_beat (l : Live) (f : Bpm → Bpm) : (l.setBpm f).beat = l.beat := (rfl)
@[simp] theorem Live.setBpm_dict (l : Live) (f : Bpm → Bpm) : (l.setBpm f).dict = l.dict := (rfl)
@[simp] theorem Live.setBpm_can (l : Live) (f : Bpm → Bpm) : (l.setBpm f).can = l.can := (rfl)
@[simp] theorem Live.setBpm_sessions (l : Live) (f : Bpm → Bpm) : (l.setBpm f).sessions = l.sessions := (rfl)
@[simp] theorem Live.setBpm_mailboxes (l : Live) (f : Bpm → Bpm) : (l.setBpm f).mailboxes = l.mailboxes := (rfl)
@[simp] theorem Live.setBpm_modes (l : Live) (f : Bpm → Bpm) : (l.setBpm f).modes = l.modes := (rfl)
@[simp] theorem Live.setBpm_tenancies (l : Live) (f : Bpm → Bpm) : (l.setBpm f).tenancies = l.tenancies := (rfl)
@[simp] theorem Live.setBpm_power (l : Live) (f : Bpm → Bpm) : (l.setBpm f).power = l.power := (rfl)
@[simp] theorem Live.setBpm_plane (l : Live) (f : Bpm → Bpm) : (l.setBpm f).plane = l.plane := (rfl)
@[simp] theorem Live.setBpm_flannel (l : Live) (f : Bpm → Bpm) : (l.setBpm f).flannel = l.flannel := (rfl)
@[simp] theorem Live.setBpm_dram (l : Live) (f : Bpm → Bpm) : (l.setBpm f).dram = l.dram := (rfl)
@[simp] theorem Live.setBpm_comp (l : Live) (f : Bpm → Bpm) : (l.setBpm f).comp = l.comp := (rfl)
@[simp] theorem Live.setBpm_mover (l : Live) (f : Bpm → Bpm) : (l.setBpm f).mover = l.mover := (rfl)
@[simp] theorem Live.setBpm_audio (l : Live) (f : Bpm → Bpm) : (l.setBpm f).audio = l.audio := (rfl)
@[simp] theorem Live.setBpm_host (l : Live) (f : Bpm → Bpm) : (l.setBpm f).host = l.host := (rfl)
@[simp] theorem Live.setBpm_events (l : Live) (f : Bpm → Bpm) : (l.setBpm f).events = l.events := (rfl)
@[simp] theorem Live.setBpm_recoveries (l : Live) (f : Bpm → Bpm) : (l.setBpm f).recoveries = l.recoveries := (rfl)
@[simp] theorem Live.setBpm_enclosure (l : Live) (f : Bpm → Bpm) : (l.setBpm f).enclosure = l.enclosure := (rfl)
@[simp] theorem Live.setBpm_free (l : Live) (f : Bpm → Bpm) : (l.setBpm f).free = l.free := (rfl)
@[simp] theorem Live.setBpm_rd (l : Live) (f : Bpm → Bpm) (q : Obj) (x y z : Nat) : (l.setBpm f).rd q x y z = l.rd q x y z := (rfl)

@[simp] theorem Live.setBuf_store (l : Live) (k : Nat) (f : Buf → Buf) : (l.setBuf k f).store = l.store := (rfl)
@[simp] theorem Live.setBuf_beat (l : Live) (k : Nat) (f : Buf → Buf) : (l.setBuf k f).beat = l.beat := (rfl)
@[simp] theorem Live.setBuf_dict (l : Live) (k : Nat) (f : Buf → Buf) : (l.setBuf k f).dict = l.dict := (rfl)
@[simp] theorem Live.setBuf_can (l : Live) (k : Nat) (f : Buf → Buf) : (l.setBuf k f).can = l.can := (rfl)
@[simp] theorem Live.setBuf_sessions (l : Live) (k : Nat) (f : Buf → Buf) : (l.setBuf k f).sessions = l.sessions := (rfl)
@[simp] theorem Live.setBuf_mailboxes (l : Live) (k : Nat) (f : Buf → Buf) : (l.setBuf k f).mailboxes = l.mailboxes := (rfl)
@[simp] theorem Live.setBuf_modes (l : Live) (k : Nat) (f : Buf → Buf) : (l.setBuf k f).modes = l.modes := (rfl)
@[simp] theorem Live.setBuf_tenancies (l : Live) (k : Nat) (f : Buf → Buf) : (l.setBuf k f).tenancies = l.tenancies := (rfl)
@[simp] theorem Live.setBuf_power (l : Live) (k : Nat) (f : Buf → Buf) : (l.setBuf k f).power = l.power := (rfl)
@[simp] theorem Live.setBuf_plane (l : Live) (k : Nat) (f : Buf → Buf) : (l.setBuf k f).plane = l.plane := (rfl)
@[simp] theorem Live.setBuf_flannel (l : Live) (k : Nat) (f : Buf → Buf) : (l.setBuf k f).flannel = l.flannel := (rfl)
@[simp] theorem Live.setBuf_dram (l : Live) (k : Nat) (f : Buf → Buf) : (l.setBuf k f).dram = l.dram := (rfl)
@[simp] theorem Live.setBuf_comp (l : Live) (k : Nat) (f : Buf → Buf) : (l.setBuf k f).comp = l.comp := (rfl)
@[simp] theorem Live.setBuf_mover (l : Live) (k : Nat) (f : Buf → Buf) : (l.setBuf k f).mover = l.mover := (rfl)
@[simp] theorem Live.setBuf_audio (l : Live) (k : Nat) (f : Buf → Buf) : (l.setBuf k f).audio = l.audio := (rfl)
@[simp] theorem Live.setBuf_host (l : Live) (k : Nat) (f : Buf → Buf) : (l.setBuf k f).host = l.host := (rfl)
@[simp] theorem Live.setBuf_events (l : Live) (k : Nat) (f : Buf → Buf) : (l.setBuf k f).events = l.events := (rfl)
@[simp] theorem Live.setBuf_recoveries (l : Live) (k : Nat) (f : Buf → Buf) : (l.setBuf k f).recoveries = l.recoveries := (rfl)
@[simp] theorem Live.setBuf_enclosure (l : Live) (k : Nat) (f : Buf → Buf) : (l.setBuf k f).enclosure = l.enclosure := (rfl)
@[simp] theorem Live.setBuf_free (l : Live) (k : Nat) (f : Buf → Buf) : (l.setBuf k f).free = l.free := (rfl)
@[simp] theorem Live.setBuf_rd (l : Live) (k : Nat) (f : Buf → Buf) (q : Obj) (x y z : Nat) : (l.setBuf k f).rd q x y z = l.rd q x y z := (rfl)

@[simp] theorem Live.bpmResult_store (l : Live) (r c : Nat) (h : Option Nat) : (l.bpmResult r c h).store = l.store := (rfl)
@[simp] theorem Live.bpmResult_beat (l : Live) (r c : Nat) (h : Option Nat) : (l.bpmResult r c h).beat = l.beat := (rfl)
@[simp] theorem Live.bpmResult_dict (l : Live) (r c : Nat) (h : Option Nat) : (l.bpmResult r c h).dict = l.dict := (rfl)
@[simp] theorem Live.bpmResult_can (l : Live) (r c : Nat) (h : Option Nat) : (l.bpmResult r c h).can = l.can := (rfl)
@[simp] theorem Live.bpmResult_sessions (l : Live) (r c : Nat) (h : Option Nat) : (l.bpmResult r c h).sessions = l.sessions := (rfl)
@[simp] theorem Live.bpmResult_mailboxes (l : Live) (r c : Nat) (h : Option Nat) : (l.bpmResult r c h).mailboxes = l.mailboxes := (rfl)
@[simp] theorem Live.bpmResult_modes (l : Live) (r c : Nat) (h : Option Nat) : (l.bpmResult r c h).modes = l.modes := (rfl)
@[simp] theorem Live.bpmResult_tenancies (l : Live) (r c : Nat) (h : Option Nat) : (l.bpmResult r c h).tenancies = l.tenancies := (rfl)
@[simp] theorem Live.bpmResult_power (l : Live) (r c : Nat) (h : Option Nat) : (l.bpmResult r c h).power = l.power := (rfl)
@[simp] theorem Live.bpmResult_plane (l : Live) (r c : Nat) (h : Option Nat) : (l.bpmResult r c h).plane = l.plane := (rfl)
@[simp] theorem Live.bpmResult_flannel (l : Live) (r c : Nat) (h : Option Nat) : (l.bpmResult r c h).flannel = l.flannel := (rfl)
@[simp] theorem Live.bpmResult_dram (l : Live) (r c : Nat) (h : Option Nat) : (l.bpmResult r c h).dram = l.dram := (rfl)
@[simp] theorem Live.bpmResult_comp (l : Live) (r c : Nat) (h : Option Nat) : (l.bpmResult r c h).comp = l.comp := (rfl)
@[simp] theorem Live.bpmResult_mover (l : Live) (r c : Nat) (h : Option Nat) : (l.bpmResult r c h).mover = l.mover := (rfl)
@[simp] theorem Live.bpmResult_audio (l : Live) (r c : Nat) (h : Option Nat) : (l.bpmResult r c h).audio = l.audio := (rfl)
@[simp] theorem Live.bpmResult_host (l : Live) (r c : Nat) (h : Option Nat) : (l.bpmResult r c h).host = l.host := (rfl)
@[simp] theorem Live.bpmResult_events (l : Live) (r c : Nat) (h : Option Nat) : (l.bpmResult r c h).events = l.events := (rfl)
@[simp] theorem Live.bpmResult_recoveries (l : Live) (r c : Nat) (h : Option Nat) : (l.bpmResult r c h).recoveries = l.recoveries := (rfl)
@[simp] theorem Live.bpmResult_enclosure (l : Live) (r c : Nat) (h : Option Nat) : (l.bpmResult r c h).enclosure = l.enclosure := (rfl)
@[simp] theorem Live.bpmResult_free (l : Live) (r c : Nat) (h : Option Nat) : (l.bpmResult r c h).free = l.free := (rfl)
@[simp] theorem Live.bpmResult_rd (l : Live) (r c : Nat) (h : Option Nat) (q : Obj) (x y z : Nat) : (l.bpmResult r c h).rd q x y z = l.rd q x y z := (rfl)

@[simp] theorem Live.setFlannel_store (l : Live) (f : Flannel → Flannel) : (l.setFlannel f).store = l.store := (rfl)
@[simp] theorem Live.setFlannel_beat (l : Live) (f : Flannel → Flannel) : (l.setFlannel f).beat = l.beat := (rfl)
@[simp] theorem Live.setFlannel_dict (l : Live) (f : Flannel → Flannel) : (l.setFlannel f).dict = l.dict := (rfl)
@[simp] theorem Live.setFlannel_can (l : Live) (f : Flannel → Flannel) : (l.setFlannel f).can = l.can := (rfl)
@[simp] theorem Live.setFlannel_sessions (l : Live) (f : Flannel → Flannel) : (l.setFlannel f).sessions = l.sessions := (rfl)
@[simp] theorem Live.setFlannel_mailboxes (l : Live) (f : Flannel → Flannel) : (l.setFlannel f).mailboxes = l.mailboxes := (rfl)
@[simp] theorem Live.setFlannel_modes (l : Live) (f : Flannel → Flannel) : (l.setFlannel f).modes = l.modes := (rfl)
@[simp] theorem Live.setFlannel_tenancies (l : Live) (f : Flannel → Flannel) : (l.setFlannel f).tenancies = l.tenancies := (rfl)
@[simp] theorem Live.setFlannel_power (l : Live) (f : Flannel → Flannel) : (l.setFlannel f).power = l.power := (rfl)
@[simp] theorem Live.setFlannel_plane (l : Live) (f : Flannel → Flannel) : (l.setFlannel f).plane = l.plane := (rfl)
@[simp] theorem Live.setFlannel_bpm (l : Live) (f : Flannel → Flannel) : (l.setFlannel f).bpm = l.bpm := (rfl)
@[simp] theorem Live.setFlannel_dram (l : Live) (f : Flannel → Flannel) : (l.setFlannel f).dram = l.dram := (rfl)
@[simp] theorem Live.setFlannel_comp (l : Live) (f : Flannel → Flannel) : (l.setFlannel f).comp = l.comp := (rfl)
@[simp] theorem Live.setFlannel_mover (l : Live) (f : Flannel → Flannel) : (l.setFlannel f).mover = l.mover := (rfl)
@[simp] theorem Live.setFlannel_audio (l : Live) (f : Flannel → Flannel) : (l.setFlannel f).audio = l.audio := (rfl)
@[simp] theorem Live.setFlannel_host (l : Live) (f : Flannel → Flannel) : (l.setFlannel f).host = l.host := (rfl)
@[simp] theorem Live.setFlannel_events (l : Live) (f : Flannel → Flannel) : (l.setFlannel f).events = l.events := (rfl)
@[simp] theorem Live.setFlannel_recoveries (l : Live) (f : Flannel → Flannel) : (l.setFlannel f).recoveries = l.recoveries := (rfl)
@[simp] theorem Live.setFlannel_enclosure (l : Live) (f : Flannel → Flannel) : (l.setFlannel f).enclosure = l.enclosure := (rfl)
@[simp] theorem Live.setFlannel_free (l : Live) (f : Flannel → Flannel) : (l.setFlannel f).free = l.free := (rfl)
@[simp] theorem Live.setFlannel_rd (l : Live) (f : Flannel → Flannel) (q : Obj) (x y z : Nat) : (l.setFlannel f).rd q x y z = l.rd q x y z := (rfl)

@[simp] theorem Live.setSeg_store (l : Live) (i : Nat) (f : Segment → Segment) : (l.setSeg i f).store = l.store := (rfl)
@[simp] theorem Live.setSeg_beat (l : Live) (i : Nat) (f : Segment → Segment) : (l.setSeg i f).beat = l.beat := (rfl)
@[simp] theorem Live.setSeg_dict (l : Live) (i : Nat) (f : Segment → Segment) : (l.setSeg i f).dict = l.dict := (rfl)
@[simp] theorem Live.setSeg_can (l : Live) (i : Nat) (f : Segment → Segment) : (l.setSeg i f).can = l.can := (rfl)
@[simp] theorem Live.setSeg_sessions (l : Live) (i : Nat) (f : Segment → Segment) : (l.setSeg i f).sessions = l.sessions := (rfl)
@[simp] theorem Live.setSeg_mailboxes (l : Live) (i : Nat) (f : Segment → Segment) : (l.setSeg i f).mailboxes = l.mailboxes := (rfl)
@[simp] theorem Live.setSeg_modes (l : Live) (i : Nat) (f : Segment → Segment) : (l.setSeg i f).modes = l.modes := (rfl)
@[simp] theorem Live.setSeg_tenancies (l : Live) (i : Nat) (f : Segment → Segment) : (l.setSeg i f).tenancies = l.tenancies := (rfl)
@[simp] theorem Live.setSeg_power (l : Live) (i : Nat) (f : Segment → Segment) : (l.setSeg i f).power = l.power := (rfl)
@[simp] theorem Live.setSeg_plane (l : Live) (i : Nat) (f : Segment → Segment) : (l.setSeg i f).plane = l.plane := (rfl)
@[simp] theorem Live.setSeg_bpm (l : Live) (i : Nat) (f : Segment → Segment) : (l.setSeg i f).bpm = l.bpm := (rfl)
@[simp] theorem Live.setSeg_dram (l : Live) (i : Nat) (f : Segment → Segment) : (l.setSeg i f).dram = l.dram := (rfl)
@[simp] theorem Live.setSeg_comp (l : Live) (i : Nat) (f : Segment → Segment) : (l.setSeg i f).comp = l.comp := (rfl)
@[simp] theorem Live.setSeg_mover (l : Live) (i : Nat) (f : Segment → Segment) : (l.setSeg i f).mover = l.mover := (rfl)
@[simp] theorem Live.setSeg_audio (l : Live) (i : Nat) (f : Segment → Segment) : (l.setSeg i f).audio = l.audio := (rfl)
@[simp] theorem Live.setSeg_host (l : Live) (i : Nat) (f : Segment → Segment) : (l.setSeg i f).host = l.host := (rfl)
@[simp] theorem Live.setSeg_events (l : Live) (i : Nat) (f : Segment → Segment) : (l.setSeg i f).events = l.events := (rfl)
@[simp] theorem Live.setSeg_recoveries (l : Live) (i : Nat) (f : Segment → Segment) : (l.setSeg i f).recoveries = l.recoveries := (rfl)
@[simp] theorem Live.setSeg_enclosure (l : Live) (i : Nat) (f : Segment → Segment) : (l.setSeg i f).enclosure = l.enclosure := (rfl)
@[simp] theorem Live.setSeg_free (l : Live) (i : Nat) (f : Segment → Segment) : (l.setSeg i f).free = l.free := (rfl)
@[simp] theorem Live.setSeg_rd (l : Live) (i : Nat) (f : Segment → Segment) (q : Obj) (x y z : Nat) : (l.setSeg i f).rd q x y z = l.rd q x y z := (rfl)

@[simp] theorem Live.setDram_store (l : Live) (f : Dram → Dram) : (l.setDram f).store = l.store := (rfl)
@[simp] theorem Live.setDram_beat (l : Live) (f : Dram → Dram) : (l.setDram f).beat = l.beat := (rfl)
@[simp] theorem Live.setDram_dict (l : Live) (f : Dram → Dram) : (l.setDram f).dict = l.dict := (rfl)
@[simp] theorem Live.setDram_can (l : Live) (f : Dram → Dram) : (l.setDram f).can = l.can := (rfl)
@[simp] theorem Live.setDram_sessions (l : Live) (f : Dram → Dram) : (l.setDram f).sessions = l.sessions := (rfl)
@[simp] theorem Live.setDram_mailboxes (l : Live) (f : Dram → Dram) : (l.setDram f).mailboxes = l.mailboxes := (rfl)
@[simp] theorem Live.setDram_modes (l : Live) (f : Dram → Dram) : (l.setDram f).modes = l.modes := (rfl)
@[simp] theorem Live.setDram_tenancies (l : Live) (f : Dram → Dram) : (l.setDram f).tenancies = l.tenancies := (rfl)
@[simp] theorem Live.setDram_power (l : Live) (f : Dram → Dram) : (l.setDram f).power = l.power := (rfl)
@[simp] theorem Live.setDram_plane (l : Live) (f : Dram → Dram) : (l.setDram f).plane = l.plane := (rfl)
@[simp] theorem Live.setDram_bpm (l : Live) (f : Dram → Dram) : (l.setDram f).bpm = l.bpm := (rfl)
@[simp] theorem Live.setDram_flannel (l : Live) (f : Dram → Dram) : (l.setDram f).flannel = l.flannel := (rfl)
@[simp] theorem Live.setDram_comp (l : Live) (f : Dram → Dram) : (l.setDram f).comp = l.comp := (rfl)
@[simp] theorem Live.setDram_mover (l : Live) (f : Dram → Dram) : (l.setDram f).mover = l.mover := (rfl)
@[simp] theorem Live.setDram_audio (l : Live) (f : Dram → Dram) : (l.setDram f).audio = l.audio := (rfl)
@[simp] theorem Live.setDram_host (l : Live) (f : Dram → Dram) : (l.setDram f).host = l.host := (rfl)
@[simp] theorem Live.setDram_events (l : Live) (f : Dram → Dram) : (l.setDram f).events = l.events := (rfl)
@[simp] theorem Live.setDram_recoveries (l : Live) (f : Dram → Dram) : (l.setDram f).recoveries = l.recoveries := (rfl)
@[simp] theorem Live.setDram_enclosure (l : Live) (f : Dram → Dram) : (l.setDram f).enclosure = l.enclosure := (rfl)
@[simp] theorem Live.setDram_free (l : Live) (f : Dram → Dram) : (l.setDram f).free = l.free := (rfl)
@[simp] theorem Live.setDram_rd (l : Live) (f : Dram → Dram) (q : Obj) (x y z : Nat) : (l.setDram f).rd q x y z = l.rd q x y z := (rfl)

@[simp] theorem Live.setChannel_store (l : Live) (c : Nat) (f : Channel → Channel) : (l.setChannel c f).store = l.store := (rfl)
@[simp] theorem Live.setChannel_beat (l : Live) (c : Nat) (f : Channel → Channel) : (l.setChannel c f).beat = l.beat := (rfl)
@[simp] theorem Live.setChannel_dict (l : Live) (c : Nat) (f : Channel → Channel) : (l.setChannel c f).dict = l.dict := (rfl)
@[simp] theorem Live.setChannel_can (l : Live) (c : Nat) (f : Channel → Channel) : (l.setChannel c f).can = l.can := (rfl)
@[simp] theorem Live.setChannel_sessions (l : Live) (c : Nat) (f : Channel → Channel) : (l.setChannel c f).sessions = l.sessions := (rfl)
@[simp] theorem Live.setChannel_mailboxes (l : Live) (c : Nat) (f : Channel → Channel) : (l.setChannel c f).mailboxes = l.mailboxes := (rfl)
@[simp] theorem Live.setChannel_modes (l : Live) (c : Nat) (f : Channel → Channel) : (l.setChannel c f).modes = l.modes := (rfl)
@[simp] theorem Live.setChannel_tenancies (l : Live) (c : Nat) (f : Channel → Channel) : (l.setChannel c f).tenancies = l.tenancies := (rfl)
@[simp] theorem Live.setChannel_power (l : Live) (c : Nat) (f : Channel → Channel) : (l.setChannel c f).power = l.power := (rfl)
@[simp] theorem Live.setChannel_plane (l : Live) (c : Nat) (f : Channel → Channel) : (l.setChannel c f).plane = l.plane := (rfl)
@[simp] theorem Live.setChannel_bpm (l : Live) (c : Nat) (f : Channel → Channel) : (l.setChannel c f).bpm = l.bpm := (rfl)
@[simp] theorem Live.setChannel_flannel (l : Live) (c : Nat) (f : Channel → Channel) : (l.setChannel c f).flannel = l.flannel := (rfl)
@[simp] theorem Live.setChannel_comp (l : Live) (c : Nat) (f : Channel → Channel) : (l.setChannel c f).comp = l.comp := (rfl)
@[simp] theorem Live.setChannel_mover (l : Live) (c : Nat) (f : Channel → Channel) : (l.setChannel c f).mover = l.mover := (rfl)
@[simp] theorem Live.setChannel_audio (l : Live) (c : Nat) (f : Channel → Channel) : (l.setChannel c f).audio = l.audio := (rfl)
@[simp] theorem Live.setChannel_host (l : Live) (c : Nat) (f : Channel → Channel) : (l.setChannel c f).host = l.host := (rfl)
@[simp] theorem Live.setChannel_events (l : Live) (c : Nat) (f : Channel → Channel) : (l.setChannel c f).events = l.events := (rfl)
@[simp] theorem Live.setChannel_recoveries (l : Live) (c : Nat) (f : Channel → Channel) : (l.setChannel c f).recoveries = l.recoveries := (rfl)
@[simp] theorem Live.setChannel_enclosure (l : Live) (c : Nat) (f : Channel → Channel) : (l.setChannel c f).enclosure = l.enclosure := (rfl)
@[simp] theorem Live.setChannel_free (l : Live) (c : Nat) (f : Channel → Channel) : (l.setChannel c f).free = l.free := (rfl)
@[simp] theorem Live.setChannel_rd (l : Live) (c : Nat) (f : Channel → Channel) (q : Obj) (x y z : Nat) : (l.setChannel c f).rd q x y z = l.rd q x y z := (rfl)

@[simp] theorem Live.setAudio_store (l : Live) (f : Audio → Audio) : (l.setAudio f).store = l.store := (rfl)
@[simp] theorem Live.setAudio_beat (l : Live) (f : Audio → Audio) : (l.setAudio f).beat = l.beat := (rfl)
@[simp] theorem Live.setAudio_dict (l : Live) (f : Audio → Audio) : (l.setAudio f).dict = l.dict := (rfl)
@[simp] theorem Live.setAudio_can (l : Live) (f : Audio → Audio) : (l.setAudio f).can = l.can := (rfl)
@[simp] theorem Live.setAudio_sessions (l : Live) (f : Audio → Audio) : (l.setAudio f).sessions = l.sessions := (rfl)
@[simp] theorem Live.setAudio_mailboxes (l : Live) (f : Audio → Audio) : (l.setAudio f).mailboxes = l.mailboxes := (rfl)
@[simp] theorem Live.setAudio_modes (l : Live) (f : Audio → Audio) : (l.setAudio f).modes = l.modes := (rfl)
@[simp] theorem Live.setAudio_tenancies (l : Live) (f : Audio → Audio) : (l.setAudio f).tenancies = l.tenancies := (rfl)
@[simp] theorem Live.setAudio_power (l : Live) (f : Audio → Audio) : (l.setAudio f).power = l.power := (rfl)
@[simp] theorem Live.setAudio_plane (l : Live) (f : Audio → Audio) : (l.setAudio f).plane = l.plane := (rfl)
@[simp] theorem Live.setAudio_bpm (l : Live) (f : Audio → Audio) : (l.setAudio f).bpm = l.bpm := (rfl)
@[simp] theorem Live.setAudio_flannel (l : Live) (f : Audio → Audio) : (l.setAudio f).flannel = l.flannel := (rfl)
@[simp] theorem Live.setAudio_dram (l : Live) (f : Audio → Audio) : (l.setAudio f).dram = l.dram := (rfl)
@[simp] theorem Live.setAudio_comp (l : Live) (f : Audio → Audio) : (l.setAudio f).comp = l.comp := (rfl)
@[simp] theorem Live.setAudio_mover (l : Live) (f : Audio → Audio) : (l.setAudio f).mover = l.mover := (rfl)
@[simp] theorem Live.setAudio_host (l : Live) (f : Audio → Audio) : (l.setAudio f).host = l.host := (rfl)
@[simp] theorem Live.setAudio_events (l : Live) (f : Audio → Audio) : (l.setAudio f).events = l.events := (rfl)
@[simp] theorem Live.setAudio_recoveries (l : Live) (f : Audio → Audio) : (l.setAudio f).recoveries = l.recoveries := (rfl)
@[simp] theorem Live.setAudio_enclosure (l : Live) (f : Audio → Audio) : (l.setAudio f).enclosure = l.enclosure := (rfl)
@[simp] theorem Live.setAudio_free (l : Live) (f : Audio → Audio) : (l.setAudio f).free = l.free := (rfl)
@[simp] theorem Live.setAudio_rd (l : Live) (f : Audio → Audio) (q : Obj) (x y z : Nat) : (l.setAudio f).rd q x y z = l.rd q x y z := (rfl)

@[simp] theorem Live.setSource_store (l : Live) (s : Nat) (f : AudioSource → AudioSource) : (l.setSource s f).store = l.store := (rfl)
@[simp] theorem Live.setSource_beat (l : Live) (s : Nat) (f : AudioSource → AudioSource) : (l.setSource s f).beat = l.beat := (rfl)
@[simp] theorem Live.setSource_dict (l : Live) (s : Nat) (f : AudioSource → AudioSource) : (l.setSource s f).dict = l.dict := (rfl)
@[simp] theorem Live.setSource_can (l : Live) (s : Nat) (f : AudioSource → AudioSource) : (l.setSource s f).can = l.can := (rfl)
@[simp] theorem Live.setSource_sessions (l : Live) (s : Nat) (f : AudioSource → AudioSource) : (l.setSource s f).sessions = l.sessions := (rfl)
@[simp] theorem Live.setSource_mailboxes (l : Live) (s : Nat) (f : AudioSource → AudioSource) : (l.setSource s f).mailboxes = l.mailboxes := (rfl)
@[simp] theorem Live.setSource_modes (l : Live) (s : Nat) (f : AudioSource → AudioSource) : (l.setSource s f).modes = l.modes := (rfl)
@[simp] theorem Live.setSource_tenancies (l : Live) (s : Nat) (f : AudioSource → AudioSource) : (l.setSource s f).tenancies = l.tenancies := (rfl)
@[simp] theorem Live.setSource_power (l : Live) (s : Nat) (f : AudioSource → AudioSource) : (l.setSource s f).power = l.power := (rfl)
@[simp] theorem Live.setSource_plane (l : Live) (s : Nat) (f : AudioSource → AudioSource) : (l.setSource s f).plane = l.plane := (rfl)
@[simp] theorem Live.setSource_bpm (l : Live) (s : Nat) (f : AudioSource → AudioSource) : (l.setSource s f).bpm = l.bpm := (rfl)
@[simp] theorem Live.setSource_flannel (l : Live) (s : Nat) (f : AudioSource → AudioSource) : (l.setSource s f).flannel = l.flannel := (rfl)
@[simp] theorem Live.setSource_dram (l : Live) (s : Nat) (f : AudioSource → AudioSource) : (l.setSource s f).dram = l.dram := (rfl)
@[simp] theorem Live.setSource_comp (l : Live) (s : Nat) (f : AudioSource → AudioSource) : (l.setSource s f).comp = l.comp := (rfl)
@[simp] theorem Live.setSource_mover (l : Live) (s : Nat) (f : AudioSource → AudioSource) : (l.setSource s f).mover = l.mover := (rfl)
@[simp] theorem Live.setSource_host (l : Live) (s : Nat) (f : AudioSource → AudioSource) : (l.setSource s f).host = l.host := (rfl)
@[simp] theorem Live.setSource_events (l : Live) (s : Nat) (f : AudioSource → AudioSource) : (l.setSource s f).events = l.events := (rfl)
@[simp] theorem Live.setSource_recoveries (l : Live) (s : Nat) (f : AudioSource → AudioSource) : (l.setSource s f).recoveries = l.recoveries := (rfl)
@[simp] theorem Live.setSource_enclosure (l : Live) (s : Nat) (f : AudioSource → AudioSource) : (l.setSource s f).enclosure = l.enclosure := (rfl)
@[simp] theorem Live.setSource_free (l : Live) (s : Nat) (f : AudioSource → AudioSource) : (l.setSource s f).free = l.free := (rfl)
@[simp] theorem Live.setSource_rd (l : Live) (s : Nat) (f : AudioSource → AudioSource) (q : Obj) (x y z : Nat) : (l.setSource s f).rd q x y z = l.rd q x y z := (rfl)

@[simp] theorem Live.setSink_store (l : Live) (s : Nat) (f : AudioSink → AudioSink) : (l.setSink s f).store = l.store := (rfl)
@[simp] theorem Live.setSink_beat (l : Live) (s : Nat) (f : AudioSink → AudioSink) : (l.setSink s f).beat = l.beat := (rfl)
@[simp] theorem Live.setSink_dict (l : Live) (s : Nat) (f : AudioSink → AudioSink) : (l.setSink s f).dict = l.dict := (rfl)
@[simp] theorem Live.setSink_can (l : Live) (s : Nat) (f : AudioSink → AudioSink) : (l.setSink s f).can = l.can := (rfl)
@[simp] theorem Live.setSink_sessions (l : Live) (s : Nat) (f : AudioSink → AudioSink) : (l.setSink s f).sessions = l.sessions := (rfl)
@[simp] theorem Live.setSink_mailboxes (l : Live) (s : Nat) (f : AudioSink → AudioSink) : (l.setSink s f).mailboxes = l.mailboxes := (rfl)
@[simp] theorem Live.setSink_modes (l : Live) (s : Nat) (f : AudioSink → AudioSink) : (l.setSink s f).modes = l.modes := (rfl)
@[simp] theorem Live.setSink_tenancies (l : Live) (s : Nat) (f : AudioSink → AudioSink) : (l.setSink s f).tenancies = l.tenancies := (rfl)
@[simp] theorem Live.setSink_power (l : Live) (s : Nat) (f : AudioSink → AudioSink) : (l.setSink s f).power = l.power := (rfl)
@[simp] theorem Live.setSink_plane (l : Live) (s : Nat) (f : AudioSink → AudioSink) : (l.setSink s f).plane = l.plane := (rfl)
@[simp] theorem Live.setSink_bpm (l : Live) (s : Nat) (f : AudioSink → AudioSink) : (l.setSink s f).bpm = l.bpm := (rfl)
@[simp] theorem Live.setSink_flannel (l : Live) (s : Nat) (f : AudioSink → AudioSink) : (l.setSink s f).flannel = l.flannel := (rfl)
@[simp] theorem Live.setSink_dram (l : Live) (s : Nat) (f : AudioSink → AudioSink) : (l.setSink s f).dram = l.dram := (rfl)
@[simp] theorem Live.setSink_comp (l : Live) (s : Nat) (f : AudioSink → AudioSink) : (l.setSink s f).comp = l.comp := (rfl)
@[simp] theorem Live.setSink_mover (l : Live) (s : Nat) (f : AudioSink → AudioSink) : (l.setSink s f).mover = l.mover := (rfl)
@[simp] theorem Live.setSink_host (l : Live) (s : Nat) (f : AudioSink → AudioSink) : (l.setSink s f).host = l.host := (rfl)
@[simp] theorem Live.setSink_events (l : Live) (s : Nat) (f : AudioSink → AudioSink) : (l.setSink s f).events = l.events := (rfl)
@[simp] theorem Live.setSink_recoveries (l : Live) (s : Nat) (f : AudioSink → AudioSink) : (l.setSink s f).recoveries = l.recoveries := (rfl)
@[simp] theorem Live.setSink_enclosure (l : Live) (s : Nat) (f : AudioSink → AudioSink) : (l.setSink s f).enclosure = l.enclosure := (rfl)
@[simp] theorem Live.setSink_free (l : Live) (s : Nat) (f : AudioSink → AudioSink) : (l.setSink s f).free = l.free := (rfl)
@[simp] theorem Live.setSink_rd (l : Live) (s : Nat) (f : AudioSink → AudioSink) (q : Obj) (x y z : Nat) : (l.setSink s f).rd q x y z = l.rd q x y z := (rfl)

@[simp] theorem Live.setAesRx_store (l : Live) (r : Nat) (f : AesRx → AesRx) : (l.setAesRx r f).store = l.store := (rfl)
@[simp] theorem Live.setAesRx_beat (l : Live) (r : Nat) (f : AesRx → AesRx) : (l.setAesRx r f).beat = l.beat := (rfl)
@[simp] theorem Live.setAesRx_dict (l : Live) (r : Nat) (f : AesRx → AesRx) : (l.setAesRx r f).dict = l.dict := (rfl)
@[simp] theorem Live.setAesRx_can (l : Live) (r : Nat) (f : AesRx → AesRx) : (l.setAesRx r f).can = l.can := (rfl)
@[simp] theorem Live.setAesRx_sessions (l : Live) (r : Nat) (f : AesRx → AesRx) : (l.setAesRx r f).sessions = l.sessions := (rfl)
@[simp] theorem Live.setAesRx_mailboxes (l : Live) (r : Nat) (f : AesRx → AesRx) : (l.setAesRx r f).mailboxes = l.mailboxes := (rfl)
@[simp] theorem Live.setAesRx_modes (l : Live) (r : Nat) (f : AesRx → AesRx) : (l.setAesRx r f).modes = l.modes := (rfl)
@[simp] theorem Live.setAesRx_tenancies (l : Live) (r : Nat) (f : AesRx → AesRx) : (l.setAesRx r f).tenancies = l.tenancies := (rfl)
@[simp] theorem Live.setAesRx_power (l : Live) (r : Nat) (f : AesRx → AesRx) : (l.setAesRx r f).power = l.power := (rfl)
@[simp] theorem Live.setAesRx_plane (l : Live) (r : Nat) (f : AesRx → AesRx) : (l.setAesRx r f).plane = l.plane := (rfl)
@[simp] theorem Live.setAesRx_bpm (l : Live) (r : Nat) (f : AesRx → AesRx) : (l.setAesRx r f).bpm = l.bpm := (rfl)
@[simp] theorem Live.setAesRx_flannel (l : Live) (r : Nat) (f : AesRx → AesRx) : (l.setAesRx r f).flannel = l.flannel := (rfl)
@[simp] theorem Live.setAesRx_dram (l : Live) (r : Nat) (f : AesRx → AesRx) : (l.setAesRx r f).dram = l.dram := (rfl)
@[simp] theorem Live.setAesRx_comp (l : Live) (r : Nat) (f : AesRx → AesRx) : (l.setAesRx r f).comp = l.comp := (rfl)
@[simp] theorem Live.setAesRx_mover (l : Live) (r : Nat) (f : AesRx → AesRx) : (l.setAesRx r f).mover = l.mover := (rfl)
@[simp] theorem Live.setAesRx_host (l : Live) (r : Nat) (f : AesRx → AesRx) : (l.setAesRx r f).host = l.host := (rfl)
@[simp] theorem Live.setAesRx_events (l : Live) (r : Nat) (f : AesRx → AesRx) : (l.setAesRx r f).events = l.events := (rfl)
@[simp] theorem Live.setAesRx_recoveries (l : Live) (r : Nat) (f : AesRx → AesRx) : (l.setAesRx r f).recoveries = l.recoveries := (rfl)
@[simp] theorem Live.setAesRx_enclosure (l : Live) (r : Nat) (f : AesRx → AesRx) : (l.setAesRx r f).enclosure = l.enclosure := (rfl)
@[simp] theorem Live.setAesRx_free (l : Live) (r : Nat) (f : AesRx → AesRx) : (l.setAesRx r f).free = l.free := (rfl)
@[simp] theorem Live.setAesRx_rd (l : Live) (r : Nat) (f : AesRx → AesRx) (q : Obj) (x y z : Nat) : (l.setAesRx r f).rd q x y z = l.rd q x y z := (rfl)

@[simp] theorem Live.setAesTx_store (l : Live) (r : Nat) (f : AesTx → AesTx) : (l.setAesTx r f).store = l.store := (rfl)
@[simp] theorem Live.setAesTx_beat (l : Live) (r : Nat) (f : AesTx → AesTx) : (l.setAesTx r f).beat = l.beat := (rfl)
@[simp] theorem Live.setAesTx_dict (l : Live) (r : Nat) (f : AesTx → AesTx) : (l.setAesTx r f).dict = l.dict := (rfl)
@[simp] theorem Live.setAesTx_can (l : Live) (r : Nat) (f : AesTx → AesTx) : (l.setAesTx r f).can = l.can := (rfl)
@[simp] theorem Live.setAesTx_sessions (l : Live) (r : Nat) (f : AesTx → AesTx) : (l.setAesTx r f).sessions = l.sessions := (rfl)
@[simp] theorem Live.setAesTx_mailboxes (l : Live) (r : Nat) (f : AesTx → AesTx) : (l.setAesTx r f).mailboxes = l.mailboxes := (rfl)
@[simp] theorem Live.setAesTx_modes (l : Live) (r : Nat) (f : AesTx → AesTx) : (l.setAesTx r f).modes = l.modes := (rfl)
@[simp] theorem Live.setAesTx_tenancies (l : Live) (r : Nat) (f : AesTx → AesTx) : (l.setAesTx r f).tenancies = l.tenancies := (rfl)
@[simp] theorem Live.setAesTx_power (l : Live) (r : Nat) (f : AesTx → AesTx) : (l.setAesTx r f).power = l.power := (rfl)
@[simp] theorem Live.setAesTx_plane (l : Live) (r : Nat) (f : AesTx → AesTx) : (l.setAesTx r f).plane = l.plane := (rfl)
@[simp] theorem Live.setAesTx_bpm (l : Live) (r : Nat) (f : AesTx → AesTx) : (l.setAesTx r f).bpm = l.bpm := (rfl)
@[simp] theorem Live.setAesTx_flannel (l : Live) (r : Nat) (f : AesTx → AesTx) : (l.setAesTx r f).flannel = l.flannel := (rfl)
@[simp] theorem Live.setAesTx_dram (l : Live) (r : Nat) (f : AesTx → AesTx) : (l.setAesTx r f).dram = l.dram := (rfl)
@[simp] theorem Live.setAesTx_comp (l : Live) (r : Nat) (f : AesTx → AesTx) : (l.setAesTx r f).comp = l.comp := (rfl)
@[simp] theorem Live.setAesTx_mover (l : Live) (r : Nat) (f : AesTx → AesTx) : (l.setAesTx r f).mover = l.mover := (rfl)
@[simp] theorem Live.setAesTx_host (l : Live) (r : Nat) (f : AesTx → AesTx) : (l.setAesTx r f).host = l.host := (rfl)
@[simp] theorem Live.setAesTx_events (l : Live) (r : Nat) (f : AesTx → AesTx) : (l.setAesTx r f).events = l.events := (rfl)
@[simp] theorem Live.setAesTx_recoveries (l : Live) (r : Nat) (f : AesTx → AesTx) : (l.setAesTx r f).recoveries = l.recoveries := (rfl)
@[simp] theorem Live.setAesTx_enclosure (l : Live) (r : Nat) (f : AesTx → AesTx) : (l.setAesTx r f).enclosure = l.enclosure := (rfl)
@[simp] theorem Live.setAesTx_free (l : Live) (r : Nat) (f : AesTx → AesTx) : (l.setAesTx r f).free = l.free := (rfl)
@[simp] theorem Live.setAesTx_rd (l : Live) (r : Nat) (f : AesTx → AesTx) (q : Obj) (x y z : Nat) : (l.setAesTx r f).rd q x y z = l.rd q x y z := (rfl)

@[simp] theorem Live.setSpotter_store (l : Live) (i : Nat) (f : Spotter → Spotter) : (l.setSpotter i f).store = l.store := (rfl)
@[simp] theorem Live.setSpotter_beat (l : Live) (i : Nat) (f : Spotter → Spotter) : (l.setSpotter i f).beat = l.beat := (rfl)
@[simp] theorem Live.setSpotter_dict (l : Live) (i : Nat) (f : Spotter → Spotter) : (l.setSpotter i f).dict = l.dict := (rfl)
@[simp] theorem Live.setSpotter_can (l : Live) (i : Nat) (f : Spotter → Spotter) : (l.setSpotter i f).can = l.can := (rfl)
@[simp] theorem Live.setSpotter_sessions (l : Live) (i : Nat) (f : Spotter → Spotter) : (l.setSpotter i f).sessions = l.sessions := (rfl)
@[simp] theorem Live.setSpotter_mailboxes (l : Live) (i : Nat) (f : Spotter → Spotter) : (l.setSpotter i f).mailboxes = l.mailboxes := (rfl)
@[simp] theorem Live.setSpotter_modes (l : Live) (i : Nat) (f : Spotter → Spotter) : (l.setSpotter i f).modes = l.modes := (rfl)
@[simp] theorem Live.setSpotter_tenancies (l : Live) (i : Nat) (f : Spotter → Spotter) : (l.setSpotter i f).tenancies = l.tenancies := (rfl)
@[simp] theorem Live.setSpotter_power (l : Live) (i : Nat) (f : Spotter → Spotter) : (l.setSpotter i f).power = l.power := (rfl)
@[simp] theorem Live.setSpotter_plane (l : Live) (i : Nat) (f : Spotter → Spotter) : (l.setSpotter i f).plane = l.plane := (rfl)
@[simp] theorem Live.setSpotter_bpm (l : Live) (i : Nat) (f : Spotter → Spotter) : (l.setSpotter i f).bpm = l.bpm := (rfl)
@[simp] theorem Live.setSpotter_flannel (l : Live) (i : Nat) (f : Spotter → Spotter) : (l.setSpotter i f).flannel = l.flannel := (rfl)
@[simp] theorem Live.setSpotter_dram (l : Live) (i : Nat) (f : Spotter → Spotter) : (l.setSpotter i f).dram = l.dram := (rfl)
@[simp] theorem Live.setSpotter_comp (l : Live) (i : Nat) (f : Spotter → Spotter) : (l.setSpotter i f).comp = l.comp := (rfl)
@[simp] theorem Live.setSpotter_mover (l : Live) (i : Nat) (f : Spotter → Spotter) : (l.setSpotter i f).mover = l.mover := (rfl)
@[simp] theorem Live.setSpotter_host (l : Live) (i : Nat) (f : Spotter → Spotter) : (l.setSpotter i f).host = l.host := (rfl)
@[simp] theorem Live.setSpotter_events (l : Live) (i : Nat) (f : Spotter → Spotter) : (l.setSpotter i f).events = l.events := (rfl)
@[simp] theorem Live.setSpotter_recoveries (l : Live) (i : Nat) (f : Spotter → Spotter) : (l.setSpotter i f).recoveries = l.recoveries := (rfl)
@[simp] theorem Live.setSpotter_enclosure (l : Live) (i : Nat) (f : Spotter → Spotter) : (l.setSpotter i f).enclosure = l.enclosure := (rfl)
@[simp] theorem Live.setSpotter_free (l : Live) (i : Nat) (f : Spotter → Spotter) : (l.setSpotter i f).free = l.free := (rfl)
@[simp] theorem Live.setSpotter_rd (l : Live) (i : Nat) (f : Spotter → Spotter) (q : Obj) (x y z : Nat) : (l.setSpotter i f).rd q x y z = l.rd q x y z := (rfl)

@[simp] theorem Live.setHost_store (l : Live) (f : Endpoint → Endpoint) : (l.setHost f).store = l.store := (rfl)
@[simp] theorem Live.setHost_beat (l : Live) (f : Endpoint → Endpoint) : (l.setHost f).beat = l.beat := (rfl)
@[simp] theorem Live.setHost_dict (l : Live) (f : Endpoint → Endpoint) : (l.setHost f).dict = l.dict := (rfl)
@[simp] theorem Live.setHost_can (l : Live) (f : Endpoint → Endpoint) : (l.setHost f).can = l.can := (rfl)
@[simp] theorem Live.setHost_sessions (l : Live) (f : Endpoint → Endpoint) : (l.setHost f).sessions = l.sessions := (rfl)
@[simp] theorem Live.setHost_mailboxes (l : Live) (f : Endpoint → Endpoint) : (l.setHost f).mailboxes = l.mailboxes := (rfl)
@[simp] theorem Live.setHost_modes (l : Live) (f : Endpoint → Endpoint) : (l.setHost f).modes = l.modes := (rfl)
@[simp] theorem Live.setHost_tenancies (l : Live) (f : Endpoint → Endpoint) : (l.setHost f).tenancies = l.tenancies := (rfl)
@[simp] theorem Live.setHost_power (l : Live) (f : Endpoint → Endpoint) : (l.setHost f).power = l.power := (rfl)
@[simp] theorem Live.setHost_plane (l : Live) (f : Endpoint → Endpoint) : (l.setHost f).plane = l.plane := (rfl)
@[simp] theorem Live.setHost_bpm (l : Live) (f : Endpoint → Endpoint) : (l.setHost f).bpm = l.bpm := (rfl)
@[simp] theorem Live.setHost_flannel (l : Live) (f : Endpoint → Endpoint) : (l.setHost f).flannel = l.flannel := (rfl)
@[simp] theorem Live.setHost_dram (l : Live) (f : Endpoint → Endpoint) : (l.setHost f).dram = l.dram := (rfl)
@[simp] theorem Live.setHost_comp (l : Live) (f : Endpoint → Endpoint) : (l.setHost f).comp = l.comp := (rfl)
@[simp] theorem Live.setHost_mover (l : Live) (f : Endpoint → Endpoint) : (l.setHost f).mover = l.mover := (rfl)
@[simp] theorem Live.setHost_audio (l : Live) (f : Endpoint → Endpoint) : (l.setHost f).audio = l.audio := (rfl)
@[simp] theorem Live.setHost_events (l : Live) (f : Endpoint → Endpoint) : (l.setHost f).events = l.events := (rfl)
@[simp] theorem Live.setHost_recoveries (l : Live) (f : Endpoint → Endpoint) : (l.setHost f).recoveries = l.recoveries := (rfl)
@[simp] theorem Live.setHost_enclosure (l : Live) (f : Endpoint → Endpoint) : (l.setHost f).enclosure = l.enclosure := (rfl)
@[simp] theorem Live.setHost_free (l : Live) (f : Endpoint → Endpoint) : (l.setHost f).free = l.free := (rfl)
@[simp] theorem Live.setHost_rd (l : Live) (f : Endpoint → Endpoint) (q : Obj) (x y z : Nat) : (l.setHost f).rd q x y z = l.rd q x y z := (rfl)

@[simp] theorem Live.setFn_store (l : Live) (i : Nat) (f : Fn → Fn) : (l.setFn i f).store = l.store := (rfl)
@[simp] theorem Live.setFn_beat (l : Live) (i : Nat) (f : Fn → Fn) : (l.setFn i f).beat = l.beat := (rfl)
@[simp] theorem Live.setFn_dict (l : Live) (i : Nat) (f : Fn → Fn) : (l.setFn i f).dict = l.dict := (rfl)
@[simp] theorem Live.setFn_can (l : Live) (i : Nat) (f : Fn → Fn) : (l.setFn i f).can = l.can := (rfl)
@[simp] theorem Live.setFn_sessions (l : Live) (i : Nat) (f : Fn → Fn) : (l.setFn i f).sessions = l.sessions := (rfl)
@[simp] theorem Live.setFn_mailboxes (l : Live) (i : Nat) (f : Fn → Fn) : (l.setFn i f).mailboxes = l.mailboxes := (rfl)
@[simp] theorem Live.setFn_modes (l : Live) (i : Nat) (f : Fn → Fn) : (l.setFn i f).modes = l.modes := (rfl)
@[simp] theorem Live.setFn_tenancies (l : Live) (i : Nat) (f : Fn → Fn) : (l.setFn i f).tenancies = l.tenancies := (rfl)
@[simp] theorem Live.setFn_power (l : Live) (i : Nat) (f : Fn → Fn) : (l.setFn i f).power = l.power := (rfl)
@[simp] theorem Live.setFn_plane (l : Live) (i : Nat) (f : Fn → Fn) : (l.setFn i f).plane = l.plane := (rfl)
@[simp] theorem Live.setFn_bpm (l : Live) (i : Nat) (f : Fn → Fn) : (l.setFn i f).bpm = l.bpm := (rfl)
@[simp] theorem Live.setFn_flannel (l : Live) (i : Nat) (f : Fn → Fn) : (l.setFn i f).flannel = l.flannel := (rfl)
@[simp] theorem Live.setFn_dram (l : Live) (i : Nat) (f : Fn → Fn) : (l.setFn i f).dram = l.dram := (rfl)
@[simp] theorem Live.setFn_comp (l : Live) (i : Nat) (f : Fn → Fn) : (l.setFn i f).comp = l.comp := (rfl)
@[simp] theorem Live.setFn_mover (l : Live) (i : Nat) (f : Fn → Fn) : (l.setFn i f).mover = l.mover := (rfl)
@[simp] theorem Live.setFn_audio (l : Live) (i : Nat) (f : Fn → Fn) : (l.setFn i f).audio = l.audio := (rfl)
@[simp] theorem Live.setFn_events (l : Live) (i : Nat) (f : Fn → Fn) : (l.setFn i f).events = l.events := (rfl)
@[simp] theorem Live.setFn_recoveries (l : Live) (i : Nat) (f : Fn → Fn) : (l.setFn i f).recoveries = l.recoveries := (rfl)
@[simp] theorem Live.setFn_enclosure (l : Live) (i : Nat) (f : Fn → Fn) : (l.setFn i f).enclosure = l.enclosure := (rfl)
@[simp] theorem Live.setFn_free (l : Live) (i : Nat) (f : Fn → Fn) : (l.setFn i f).free = l.free := (rfl)
@[simp] theorem Live.setFn_rd (l : Live) (i : Nat) (f : Fn → Fn) (q : Obj) (x y z : Nat) : (l.setFn i f).rd q x y z = l.rd q x y z := (rfl)

@[simp] theorem Live.setRing_store (l : Live) (i k : Nat) (f : Ring → Ring) : (l.setRing i k f).store = l.store := (rfl)
@[simp] theorem Live.setRing_beat (l : Live) (i k : Nat) (f : Ring → Ring) : (l.setRing i k f).beat = l.beat := (rfl)
@[simp] theorem Live.setRing_dict (l : Live) (i k : Nat) (f : Ring → Ring) : (l.setRing i k f).dict = l.dict := (rfl)
@[simp] theorem Live.setRing_can (l : Live) (i k : Nat) (f : Ring → Ring) : (l.setRing i k f).can = l.can := (rfl)
@[simp] theorem Live.setRing_sessions (l : Live) (i k : Nat) (f : Ring → Ring) : (l.setRing i k f).sessions = l.sessions := (rfl)
@[simp] theorem Live.setRing_mailboxes (l : Live) (i k : Nat) (f : Ring → Ring) : (l.setRing i k f).mailboxes = l.mailboxes := (rfl)
@[simp] theorem Live.setRing_modes (l : Live) (i k : Nat) (f : Ring → Ring) : (l.setRing i k f).modes = l.modes := (rfl)
@[simp] theorem Live.setRing_tenancies (l : Live) (i k : Nat) (f : Ring → Ring) : (l.setRing i k f).tenancies = l.tenancies := (rfl)
@[simp] theorem Live.setRing_power (l : Live) (i k : Nat) (f : Ring → Ring) : (l.setRing i k f).power = l.power := (rfl)
@[simp] theorem Live.setRing_plane (l : Live) (i k : Nat) (f : Ring → Ring) : (l.setRing i k f).plane = l.plane := (rfl)
@[simp] theorem Live.setRing_bpm (l : Live) (i k : Nat) (f : Ring → Ring) : (l.setRing i k f).bpm = l.bpm := (rfl)
@[simp] theorem Live.setRing_flannel (l : Live) (i k : Nat) (f : Ring → Ring) : (l.setRing i k f).flannel = l.flannel := (rfl)
@[simp] theorem Live.setRing_dram (l : Live) (i k : Nat) (f : Ring → Ring) : (l.setRing i k f).dram = l.dram := (rfl)
@[simp] theorem Live.setRing_comp (l : Live) (i k : Nat) (f : Ring → Ring) : (l.setRing i k f).comp = l.comp := (rfl)
@[simp] theorem Live.setRing_mover (l : Live) (i k : Nat) (f : Ring → Ring) : (l.setRing i k f).mover = l.mover := (rfl)
@[simp] theorem Live.setRing_audio (l : Live) (i k : Nat) (f : Ring → Ring) : (l.setRing i k f).audio = l.audio := (rfl)
@[simp] theorem Live.setRing_events (l : Live) (i k : Nat) (f : Ring → Ring) : (l.setRing i k f).events = l.events := (rfl)
@[simp] theorem Live.setRing_recoveries (l : Live) (i k : Nat) (f : Ring → Ring) : (l.setRing i k f).recoveries = l.recoveries := (rfl)
@[simp] theorem Live.setRing_enclosure (l : Live) (i k : Nat) (f : Ring → Ring) : (l.setRing i k f).enclosure = l.enclosure := (rfl)
@[simp] theorem Live.setRing_free (l : Live) (i k : Nat) (f : Ring → Ring) : (l.setRing i k f).free = l.free := (rfl)
@[simp] theorem Live.setRing_rd (l : Live) (i k : Nat) (f : Ring → Ring) (q : Obj) (x y z : Nat) : (l.setRing i k f).rd q x y z = l.rd q x y z := (rfl)

@[simp] theorem Live.setEv_store (l : Live) (s n : Nat) (f : EvInst → EvInst) : (l.setEv s n f).store = l.store := (rfl)
@[simp] theorem Live.setEv_beat (l : Live) (s n : Nat) (f : EvInst → EvInst) : (l.setEv s n f).beat = l.beat := (rfl)
@[simp] theorem Live.setEv_dict (l : Live) (s n : Nat) (f : EvInst → EvInst) : (l.setEv s n f).dict = l.dict := (rfl)
@[simp] theorem Live.setEv_can (l : Live) (s n : Nat) (f : EvInst → EvInst) : (l.setEv s n f).can = l.can := (rfl)
@[simp] theorem Live.setEv_sessions (l : Live) (s n : Nat) (f : EvInst → EvInst) : (l.setEv s n f).sessions = l.sessions := (rfl)
@[simp] theorem Live.setEv_mailboxes (l : Live) (s n : Nat) (f : EvInst → EvInst) : (l.setEv s n f).mailboxes = l.mailboxes := (rfl)
@[simp] theorem Live.setEv_modes (l : Live) (s n : Nat) (f : EvInst → EvInst) : (l.setEv s n f).modes = l.modes := (rfl)
@[simp] theorem Live.setEv_tenancies (l : Live) (s n : Nat) (f : EvInst → EvInst) : (l.setEv s n f).tenancies = l.tenancies := (rfl)
@[simp] theorem Live.setEv_power (l : Live) (s n : Nat) (f : EvInst → EvInst) : (l.setEv s n f).power = l.power := (rfl)
@[simp] theorem Live.setEv_plane (l : Live) (s n : Nat) (f : EvInst → EvInst) : (l.setEv s n f).plane = l.plane := (rfl)
@[simp] theorem Live.setEv_bpm (l : Live) (s n : Nat) (f : EvInst → EvInst) : (l.setEv s n f).bpm = l.bpm := (rfl)
@[simp] theorem Live.setEv_flannel (l : Live) (s n : Nat) (f : EvInst → EvInst) : (l.setEv s n f).flannel = l.flannel := (rfl)
@[simp] theorem Live.setEv_dram (l : Live) (s n : Nat) (f : EvInst → EvInst) : (l.setEv s n f).dram = l.dram := (rfl)
@[simp] theorem Live.setEv_comp (l : Live) (s n : Nat) (f : EvInst → EvInst) : (l.setEv s n f).comp = l.comp := (rfl)
@[simp] theorem Live.setEv_mover (l : Live) (s n : Nat) (f : EvInst → EvInst) : (l.setEv s n f).mover = l.mover := (rfl)
@[simp] theorem Live.setEv_audio (l : Live) (s n : Nat) (f : EvInst → EvInst) : (l.setEv s n f).audio = l.audio := (rfl)
@[simp] theorem Live.setEv_host (l : Live) (s n : Nat) (f : EvInst → EvInst) : (l.setEv s n f).host = l.host := (rfl)
@[simp] theorem Live.setEv_recoveries (l : Live) (s n : Nat) (f : EvInst → EvInst) : (l.setEv s n f).recoveries = l.recoveries := (rfl)
@[simp] theorem Live.setEv_enclosure (l : Live) (s n : Nat) (f : EvInst → EvInst) : (l.setEv s n f).enclosure = l.enclosure := (rfl)
@[simp] theorem Live.setEv_free (l : Live) (s n : Nat) (f : EvInst → EvInst) : (l.setEv s n f).free = l.free := (rfl)
@[simp] theorem Live.setEv_rd (l : Live) (s n : Nat) (f : EvInst → EvInst) (q : Obj) (x y z : Nat) : (l.setEv s n f).rd q x y z = l.rd q x y z := (rfl)

@[simp] theorem Live.setGpio_store (l : Live) (i : Nat) (f : Gpio → Gpio) : (l.setGpio i f).store = l.store := (rfl)
@[simp] theorem Live.setGpio_beat (l : Live) (i : Nat) (f : Gpio → Gpio) : (l.setGpio i f).beat = l.beat := (rfl)
@[simp] theorem Live.setGpio_dict (l : Live) (i : Nat) (f : Gpio → Gpio) : (l.setGpio i f).dict = l.dict := (rfl)
@[simp] theorem Live.setGpio_can (l : Live) (i : Nat) (f : Gpio → Gpio) : (l.setGpio i f).can = l.can := (rfl)
@[simp] theorem Live.setGpio_sessions (l : Live) (i : Nat) (f : Gpio → Gpio) : (l.setGpio i f).sessions = l.sessions := (rfl)
@[simp] theorem Live.setGpio_mailboxes (l : Live) (i : Nat) (f : Gpio → Gpio) : (l.setGpio i f).mailboxes = l.mailboxes := (rfl)
@[simp] theorem Live.setGpio_modes (l : Live) (i : Nat) (f : Gpio → Gpio) : (l.setGpio i f).modes = l.modes := (rfl)
@[simp] theorem Live.setGpio_tenancies (l : Live) (i : Nat) (f : Gpio → Gpio) : (l.setGpio i f).tenancies = l.tenancies := (rfl)
@[simp] theorem Live.setGpio_power (l : Live) (i : Nat) (f : Gpio → Gpio) : (l.setGpio i f).power = l.power := (rfl)
@[simp] theorem Live.setGpio_plane (l : Live) (i : Nat) (f : Gpio → Gpio) : (l.setGpio i f).plane = l.plane := (rfl)
@[simp] theorem Live.setGpio_bpm (l : Live) (i : Nat) (f : Gpio → Gpio) : (l.setGpio i f).bpm = l.bpm := (rfl)
@[simp] theorem Live.setGpio_flannel (l : Live) (i : Nat) (f : Gpio → Gpio) : (l.setGpio i f).flannel = l.flannel := (rfl)
@[simp] theorem Live.setGpio_dram (l : Live) (i : Nat) (f : Gpio → Gpio) : (l.setGpio i f).dram = l.dram := (rfl)
@[simp] theorem Live.setGpio_comp (l : Live) (i : Nat) (f : Gpio → Gpio) : (l.setGpio i f).comp = l.comp := (rfl)
@[simp] theorem Live.setGpio_mover (l : Live) (i : Nat) (f : Gpio → Gpio) : (l.setGpio i f).mover = l.mover := (rfl)
@[simp] theorem Live.setGpio_audio (l : Live) (i : Nat) (f : Gpio → Gpio) : (l.setGpio i f).audio = l.audio := (rfl)
@[simp] theorem Live.setGpio_host (l : Live) (i : Nat) (f : Gpio → Gpio) : (l.setGpio i f).host = l.host := (rfl)
@[simp] theorem Live.setGpio_recoveries (l : Live) (i : Nat) (f : Gpio → Gpio) : (l.setGpio i f).recoveries = l.recoveries := (rfl)
@[simp] theorem Live.setGpio_enclosure (l : Live) (i : Nat) (f : Gpio → Gpio) : (l.setGpio i f).enclosure = l.enclosure := (rfl)
@[simp] theorem Live.setGpio_free (l : Live) (i : Nat) (f : Gpio → Gpio) : (l.setGpio i f).free = l.free := (rfl)
@[simp] theorem Live.setGpio_rd (l : Live) (i : Nat) (f : Gpio → Gpio) (q : Obj) (x y z : Nat) : (l.setGpio i f).rd q x y z = l.rd q x y z := (rfl)

@[simp] theorem Live.setRec_store (l : Live) (f : Recoveries → Recoveries) : (l.setRec f).store = l.store := (rfl)
@[simp] theorem Live.setRec_beat (l : Live) (f : Recoveries → Recoveries) : (l.setRec f).beat = l.beat := (rfl)
@[simp] theorem Live.setRec_dict (l : Live) (f : Recoveries → Recoveries) : (l.setRec f).dict = l.dict := (rfl)
@[simp] theorem Live.setRec_can (l : Live) (f : Recoveries → Recoveries) : (l.setRec f).can = l.can := (rfl)
@[simp] theorem Live.setRec_sessions (l : Live) (f : Recoveries → Recoveries) : (l.setRec f).sessions = l.sessions := (rfl)
@[simp] theorem Live.setRec_mailboxes (l : Live) (f : Recoveries → Recoveries) : (l.setRec f).mailboxes = l.mailboxes := (rfl)
@[simp] theorem Live.setRec_modes (l : Live) (f : Recoveries → Recoveries) : (l.setRec f).modes = l.modes := (rfl)
@[simp] theorem Live.setRec_tenancies (l : Live) (f : Recoveries → Recoveries) : (l.setRec f).tenancies = l.tenancies := (rfl)
@[simp] theorem Live.setRec_power (l : Live) (f : Recoveries → Recoveries) : (l.setRec f).power = l.power := (rfl)
@[simp] theorem Live.setRec_plane (l : Live) (f : Recoveries → Recoveries) : (l.setRec f).plane = l.plane := (rfl)
@[simp] theorem Live.setRec_bpm (l : Live) (f : Recoveries → Recoveries) : (l.setRec f).bpm = l.bpm := (rfl)
@[simp] theorem Live.setRec_flannel (l : Live) (f : Recoveries → Recoveries) : (l.setRec f).flannel = l.flannel := (rfl)
@[simp] theorem Live.setRec_dram (l : Live) (f : Recoveries → Recoveries) : (l.setRec f).dram = l.dram := (rfl)
@[simp] theorem Live.setRec_comp (l : Live) (f : Recoveries → Recoveries) : (l.setRec f).comp = l.comp := (rfl)
@[simp] theorem Live.setRec_mover (l : Live) (f : Recoveries → Recoveries) : (l.setRec f).mover = l.mover := (rfl)
@[simp] theorem Live.setRec_audio (l : Live) (f : Recoveries → Recoveries) : (l.setRec f).audio = l.audio := (rfl)
@[simp] theorem Live.setRec_host (l : Live) (f : Recoveries → Recoveries) : (l.setRec f).host = l.host := (rfl)
@[simp] theorem Live.setRec_events (l : Live) (f : Recoveries → Recoveries) : (l.setRec f).events = l.events := (rfl)
@[simp] theorem Live.setRec_enclosure (l : Live) (f : Recoveries → Recoveries) : (l.setRec f).enclosure = l.enclosure := (rfl)
@[simp] theorem Live.setRec_free (l : Live) (f : Recoveries → Recoveries) : (l.setRec f).free = l.free := (rfl)
@[simp] theorem Live.setRec_rd (l : Live) (f : Recoveries → Recoveries) (q : Obj) (x y z : Nat) : (l.setRec f).rd q x y z = l.rd q x y z := (rfl)

@[simp] theorem Live.setUnit_store (l : Live) (f : Enclosure → Enclosure) : (l.setUnit f).store = l.store := (rfl)
@[simp] theorem Live.setUnit_beat (l : Live) (f : Enclosure → Enclosure) : (l.setUnit f).beat = l.beat := (rfl)
@[simp] theorem Live.setUnit_dict (l : Live) (f : Enclosure → Enclosure) : (l.setUnit f).dict = l.dict := (rfl)
@[simp] theorem Live.setUnit_can (l : Live) (f : Enclosure → Enclosure) : (l.setUnit f).can = l.can := (rfl)
@[simp] theorem Live.setUnit_sessions (l : Live) (f : Enclosure → Enclosure) : (l.setUnit f).sessions = l.sessions := (rfl)
@[simp] theorem Live.setUnit_mailboxes (l : Live) (f : Enclosure → Enclosure) : (l.setUnit f).mailboxes = l.mailboxes := (rfl)
@[simp] theorem Live.setUnit_modes (l : Live) (f : Enclosure → Enclosure) : (l.setUnit f).modes = l.modes := (rfl)
@[simp] theorem Live.setUnit_tenancies (l : Live) (f : Enclosure → Enclosure) : (l.setUnit f).tenancies = l.tenancies := (rfl)
@[simp] theorem Live.setUnit_power (l : Live) (f : Enclosure → Enclosure) : (l.setUnit f).power = l.power := (rfl)
@[simp] theorem Live.setUnit_plane (l : Live) (f : Enclosure → Enclosure) : (l.setUnit f).plane = l.plane := (rfl)
@[simp] theorem Live.setUnit_bpm (l : Live) (f : Enclosure → Enclosure) : (l.setUnit f).bpm = l.bpm := (rfl)
@[simp] theorem Live.setUnit_flannel (l : Live) (f : Enclosure → Enclosure) : (l.setUnit f).flannel = l.flannel := (rfl)
@[simp] theorem Live.setUnit_dram (l : Live) (f : Enclosure → Enclosure) : (l.setUnit f).dram = l.dram := (rfl)
@[simp] theorem Live.setUnit_comp (l : Live) (f : Enclosure → Enclosure) : (l.setUnit f).comp = l.comp := (rfl)
@[simp] theorem Live.setUnit_mover (l : Live) (f : Enclosure → Enclosure) : (l.setUnit f).mover = l.mover := (rfl)
@[simp] theorem Live.setUnit_audio (l : Live) (f : Enclosure → Enclosure) : (l.setUnit f).audio = l.audio := (rfl)
@[simp] theorem Live.setUnit_host (l : Live) (f : Enclosure → Enclosure) : (l.setUnit f).host = l.host := (rfl)
@[simp] theorem Live.setUnit_events (l : Live) (f : Enclosure → Enclosure) : (l.setUnit f).events = l.events := (rfl)
@[simp] theorem Live.setUnit_recoveries (l : Live) (f : Enclosure → Enclosure) : (l.setUnit f).recoveries = l.recoveries := (rfl)
@[simp] theorem Live.setUnit_free (l : Live) (f : Enclosure → Enclosure) : (l.setUnit f).free = l.free := (rfl)
@[simp] theorem Live.setUnit_rd (l : Live) (f : Enclosure → Enclosure) (q : Obj) (x y z : Nat) : (l.setUnit f).rd q x y z = l.rd q x y z := (rfl)

/-! ### Updates read back -/

@[simp] theorem Live.setBeat_beat (l : Live) (f : Beat → Beat) : (l.setBeat f).beat = f l.beat := (rfl)
@[simp] theorem Live.setDict_dict (l : Live) (f : Dict → Dict) : (l.setDict f).dict = f l.dict := (rfl)
@[simp] theorem Live.setModes_modes (l : Live) (f : Modes → Modes) : (l.setModes f).modes = f l.modes := (rfl)
@[simp] theorem Live.setPower_power (l : Live) (f : Power → Power) : (l.setPower f).power = f l.power := (rfl)
@[simp] theorem Live.setPlane_plane (l : Live) (f : Plane → Plane) : (l.setPlane f).plane = f l.plane := (rfl)
@[simp] theorem Live.setBpm_bpm (l : Live) (f : Bpm → Bpm) : (l.setBpm f).bpm = f l.bpm := (rfl)
@[simp] theorem Live.setFlannel_flannel (l : Live) (f : Flannel → Flannel) : (l.setFlannel f).flannel = f l.flannel := (rfl)
@[simp] theorem Live.setDram_dram (l : Live) (f : Dram → Dram) : (l.setDram f).dram = f l.dram := (rfl)
@[simp] theorem Live.setAudio_audio (l : Live) (f : Audio → Audio) : (l.setAudio f).audio = f l.audio := (rfl)
@[simp] theorem Live.setHost_host (l : Live) (f : Endpoint → Endpoint) : (l.setHost f).host = f l.host := (rfl)
@[simp] theorem Live.setRec_recoveries (l : Live) (f : Recoveries → Recoveries) :
    (l.setRec f).recoveries = f l.recoveries := (rfl)
@[simp] theorem Live.setUnit_enclosure (l : Live) (f : Enclosure → Enclosure) : (l.setUnit f).enclosure = f l.enclosure := (rfl)
@[simp] theorem Live.tookFree_free (l : Live) : l.tookFree.free = l.free + 1 := (rfl)

@[simp] theorem Live.setFwd_plane (l : Live) (f : Fwd → Fwd) :
    (l.setFwd f).plane = { l.plane with fwd := f l.plane.fwd } := (rfl)
@[simp] theorem Live.setCalico_plane (l : Live) (f : Calico → Calico) :
    (l.setCalico f).plane = { l.plane with calico := f l.plane.calico } := (rfl)
@[simp] theorem Live.setPort_plane (l : Live) (p : Nat) (f : Port → Port) :
    (l.setPort p f).plane = { l.plane with ports := l.plane.ports.upd p f } := (rfl)
@[simp] theorem Live.setBuf_bpm (l : Live) (k : Nat) (f : Buf → Buf) :
    (l.setBuf k f).bpm = { l.bpm with bufs := l.bpm.bufs.upd k f } := (rfl)
@[simp] theorem Live.setSeg_flannel (l : Live) (i : Nat) (f : Segment → Segment) :
    (l.setSeg i f).flannel = { l.flannel with segs := l.flannel.segs.upd i f } := (rfl)
@[simp] theorem Live.setSource_audio (l : Live) (s : Nat) (f : AudioSource → AudioSource) :
    (l.setSource s f).audio = { l.audio with sources := l.audio.sources.upd s f } := (rfl)
@[simp] theorem Live.setSink_audio (l : Live) (k : Nat) (f : AudioSink → AudioSink) :
    (l.setSink k f).audio = { l.audio with sinks := l.audio.sinks.upd k f } := (rfl)
@[simp] theorem Live.setAesRx_audio (l : Live) (r : Nat) (f : AesRx → AesRx) :
    (l.setAesRx r f).audio = { l.audio with rx := l.audio.rx.upd r f } := (rfl)
@[simp] theorem Live.setAesTx_audio (l : Live) (r : Nat) (f : AesTx → AesTx) :
    (l.setAesTx r f).audio = { l.audio with tx := l.audio.tx.upd r f } := (rfl)
@[simp] theorem Live.setSpotter_audio (l : Live) (i : Nat) (f : Spotter → Spotter) :
    (l.setSpotter i f).audio = { l.audio with spotters := l.audio.spotters.upd i f } := (rfl)
@[simp] theorem Live.setFn_host (l : Live) (i : Nat) (g : Fn → Fn) :
    (l.setFn i g).host = { l.host with fns := l.host.fns.upd i g } := (rfl)
@[simp] theorem Live.setGpio_events (l : Live) (i : Nat) (f : Gpio → Gpio) :
    (l.setGpio i f).events = { l.events with gpio := l.events.gpio.upd i f } := (rfl)
@[simp] theorem Live.setModule_power (l : Live) (b : Nat) (f : Module → Module) :
    (l.setModule b f).power = { l.power with modules := l.power.modules.upd b f } := (rfl)
@[simp] theorem Live.setPse_power (l : Live) (k : Nat) (f : Pse → Pse) :
    (l.setPse k f).power = { l.power with ports := l.power.ports.upd k f } := (rfl)
@[simp] theorem Live.setWipe_tenancies (l : Live) (n : Nat) (w : Option TnWipe) :
    (l.setWipe n w).tenancies = { l.tenancies with wipes := l.tenancies.wipes.put n w } := (rfl)
@[simp] theorem Live.setCan_can (l : Live) (c : Nat) (f : CanPort → CanPort) :
    (l.setCan c f).can = l.can.upd c f := (rfl)
@[simp] theorem Live.setSession_sessions (l : Live) (s : Nat) (f : Session → Session) :
    (l.setSession s f).sessions = l.sessions.upd s f := (rfl)
@[simp] theorem Live.setMbx_mailboxes (l : Live) (i : Nat) (f : Mailbox → Mailbox) :
    (l.setMbx i f).mailboxes = l.mailboxes.upd i f := (rfl)

/-- The value set is the value read, within the length of the object's type. -/
@[simp] theorem Live.rd_wr_same (l : Live) (o : Obj) (v i k t : Nat) :
    (l.wr o v i k t).rd o i k t = v % 256 ^ o.len := Tbl.getD_putD_same ..

/-- Every other cell reads as before. -/
theorem Live.rd_wr_other (l : Live) {o o' : Obj} (v : Nat) {i k t i' k' t' : Nat} (h : o'.key i' k' t' ≠ o.key i k t) :
    (l.wr o v i k t).rd o' i' k' t' = l.rd o' i' k' t' := by
  unfold Live.rd Live.wr; rw [Tbl.find?_putD_other _ _ _ h]

/-- An object returned to its default reads as it. -/
@[simp] theorem Live.rd_toDefault_same (l : Live) (o : Obj) (i k t : Nat) :
    (l.toDefault o i k t).rd o i k t = o.defaultAt i k t := by
  unfold Live.rd Live.toDefault; rw [Tbl.find?_del_same]; rfl

theorem Live.rd_toDefault_other (l : Live) {o o' : Obj} {i k t i' k' t' : Nat} (h : o'.key i' k' t' ≠ o.key i k t) :
    (l.toDefault o i k t).rd o' i' k' t' = l.rd o' i' k' t' := by
  unfold Live.rd Live.toDefault; rw [Tbl.find?_del_other _ h]

/-- Records in tables: the one set, and every other. -/
@[simp] theorem Live.setPort_same (l : Live) (p : Nat) (f : Port → Port) : (l.setPort p f).portRt p = f (l.portRt p) :=
  Tbl.get_upd_same ..
theorem Live.setPort_other (l : Live) {p q : Nat} (f : Port → Port) (h : q ≠ p) : (l.setPort p f).portRt q = l.portRt q :=
  Tbl.get_upd_other _ _ h
@[simp] theorem Live.setBuf_same (l : Live) (k : Nat) (f : Buf → Buf) : (l.setBuf k f).buf k = f (l.buf k) :=
  Tbl.get_upd_same ..
theorem Live.setBuf_other (l : Live) {k j : Nat} (f : Buf → Buf) (h : j ≠ k) : (l.setBuf k f).buf j = l.buf j :=
  Tbl.get_upd_other _ _ h
@[simp] theorem Live.setFn_same (l : Live) (i : Nat) (f : Fn → Fn) : (l.setFn i f).fn i = f (l.fn i) := Tbl.get_upd_same ..
theorem Live.setFn_other (l : Live) {i j : Nat} (f : Fn → Fn) (h : j ≠ i) : (l.setFn i f).fn j = l.fn j :=
  Tbl.get_upd_other _ _ h

/-! ### Counts and occurrences: every part but the cells and the events stays -/

@[simp] theorem Live.raise_beat (l : Live) (src : Nat) (data : List Byte) (tn : Nat) : (l.raise src data tn).beat = l.beat :=
  ((Live.raise_keeps l src data tn).same .beat (by decide)).symm
@[simp] theorem Live.raise_dict (l : Live) (src : Nat) (data : List Byte) (tn : Nat) : (l.raise src data tn).dict = l.dict :=
  ((Live.raise_keeps l src data tn).same .dict (by decide)).symm
@[simp] theorem Live.raise_can (l : Live) (src : Nat) (data : List Byte) (tn : Nat) : (l.raise src data tn).can = l.can :=
  ((Live.raise_keeps l src data tn).same .can (by decide)).symm
@[simp] theorem Live.raise_sessions (l : Live) (src : Nat) (data : List Byte) (tn : Nat) : (l.raise src data tn).sessions = l.sessions :=
  ((Live.raise_keeps l src data tn).same .sessions (by decide)).symm
@[simp] theorem Live.raise_mailboxes (l : Live) (src : Nat) (data : List Byte) (tn : Nat) : (l.raise src data tn).mailboxes = l.mailboxes :=
  ((Live.raise_keeps l src data tn).same .mailboxes (by decide)).symm
@[simp] theorem Live.raise_modes (l : Live) (src : Nat) (data : List Byte) (tn : Nat) : (l.raise src data tn).modes = l.modes :=
  ((Live.raise_keeps l src data tn).same .modes (by decide)).symm
@[simp] theorem Live.raise_tenancies (l : Live) (src : Nat) (data : List Byte) (tn : Nat) : (l.raise src data tn).tenancies = l.tenancies :=
  ((Live.raise_keeps l src data tn).same .tenancies (by decide)).symm
@[simp] theorem Live.raise_power (l : Live) (src : Nat) (data : List Byte) (tn : Nat) : (l.raise src data tn).power = l.power :=
  ((Live.raise_keeps l src data tn).same .power (by decide)).symm
@[simp] theorem Live.raise_plane (l : Live) (src : Nat) (data : List Byte) (tn : Nat) : (l.raise src data tn).plane = l.plane :=
  ((Live.raise_keeps l src data tn).same .plane (by decide)).symm
@[simp] theorem Live.raise_bpm (l : Live) (src : Nat) (data : List Byte) (tn : Nat) : (l.raise src data tn).bpm = l.bpm :=
  ((Live.raise_keeps l src data tn).same .bpm (by decide)).symm
@[simp] theorem Live.raise_flannel (l : Live) (src : Nat) (data : List Byte) (tn : Nat) : (l.raise src data tn).flannel = l.flannel :=
  ((Live.raise_keeps l src data tn).same .flannel (by decide)).symm
@[simp] theorem Live.raise_dram (l : Live) (src : Nat) (data : List Byte) (tn : Nat) : (l.raise src data tn).dram = l.dram :=
  ((Live.raise_keeps l src data tn).same .dram (by decide)).symm
@[simp] theorem Live.raise_comp (l : Live) (src : Nat) (data : List Byte) (tn : Nat) : (l.raise src data tn).comp = l.comp :=
  ((Live.raise_keeps l src data tn).same .comp (by decide)).symm
@[simp] theorem Live.raise_mover (l : Live) (src : Nat) (data : List Byte) (tn : Nat) : (l.raise src data tn).mover = l.mover :=
  ((Live.raise_keeps l src data tn).same .mover (by decide)).symm
@[simp] theorem Live.raise_audio (l : Live) (src : Nat) (data : List Byte) (tn : Nat) : (l.raise src data tn).audio = l.audio :=
  ((Live.raise_keeps l src data tn).same .audio (by decide)).symm
@[simp] theorem Live.raise_host (l : Live) (src : Nat) (data : List Byte) (tn : Nat) : (l.raise src data tn).host = l.host :=
  ((Live.raise_keeps l src data tn).same .host (by decide)).symm
@[simp] theorem Live.raise_recoveries (l : Live) (src : Nat) (data : List Byte) (tn : Nat) : (l.raise src data tn).recoveries = l.recoveries :=
  ((Live.raise_keeps l src data tn).same .recoveries (by decide)).symm
@[simp] theorem Live.raise_enclosure (l : Live) (src : Nat) (data : List Byte) (tn : Nat) : (l.raise src data tn).enclosure = l.enclosure :=
  ((Live.raise_keeps l src data tn).same .enclosure (by decide)).symm
@[simp] theorem Live.raise_free (l : Live) (src : Nat) (data : List Byte) (tn : Nat) : (l.raise src data tn).free = l.free :=
  ((Live.raise_keeps l src data tn).same .free (by decide)).symm

@[simp] theorem Live.mark_beat (l : Live) (src : Nat) (data : List Byte) (tn : Nat) : (l.mark src data tn).beat = l.beat :=
  ((Live.mark_keeps l src data tn).same .beat (by decide)).symm
@[simp] theorem Live.mark_dict (l : Live) (src : Nat) (data : List Byte) (tn : Nat) : (l.mark src data tn).dict = l.dict :=
  ((Live.mark_keeps l src data tn).same .dict (by decide)).symm
@[simp] theorem Live.mark_can (l : Live) (src : Nat) (data : List Byte) (tn : Nat) : (l.mark src data tn).can = l.can :=
  ((Live.mark_keeps l src data tn).same .can (by decide)).symm
@[simp] theorem Live.mark_sessions (l : Live) (src : Nat) (data : List Byte) (tn : Nat) : (l.mark src data tn).sessions = l.sessions :=
  ((Live.mark_keeps l src data tn).same .sessions (by decide)).symm
@[simp] theorem Live.mark_mailboxes (l : Live) (src : Nat) (data : List Byte) (tn : Nat) : (l.mark src data tn).mailboxes = l.mailboxes :=
  ((Live.mark_keeps l src data tn).same .mailboxes (by decide)).symm
@[simp] theorem Live.mark_modes (l : Live) (src : Nat) (data : List Byte) (tn : Nat) : (l.mark src data tn).modes = l.modes :=
  ((Live.mark_keeps l src data tn).same .modes (by decide)).symm
@[simp] theorem Live.mark_tenancies (l : Live) (src : Nat) (data : List Byte) (tn : Nat) : (l.mark src data tn).tenancies = l.tenancies :=
  ((Live.mark_keeps l src data tn).same .tenancies (by decide)).symm
@[simp] theorem Live.mark_power (l : Live) (src : Nat) (data : List Byte) (tn : Nat) : (l.mark src data tn).power = l.power :=
  ((Live.mark_keeps l src data tn).same .power (by decide)).symm
@[simp] theorem Live.mark_plane (l : Live) (src : Nat) (data : List Byte) (tn : Nat) : (l.mark src data tn).plane = l.plane :=
  ((Live.mark_keeps l src data tn).same .plane (by decide)).symm
@[simp] theorem Live.mark_bpm (l : Live) (src : Nat) (data : List Byte) (tn : Nat) : (l.mark src data tn).bpm = l.bpm :=
  ((Live.mark_keeps l src data tn).same .bpm (by decide)).symm
@[simp] theorem Live.mark_flannel (l : Live) (src : Nat) (data : List Byte) (tn : Nat) : (l.mark src data tn).flannel = l.flannel :=
  ((Live.mark_keeps l src data tn).same .flannel (by decide)).symm
@[simp] theorem Live.mark_dram (l : Live) (src : Nat) (data : List Byte) (tn : Nat) : (l.mark src data tn).dram = l.dram :=
  ((Live.mark_keeps l src data tn).same .dram (by decide)).symm
@[simp] theorem Live.mark_comp (l : Live) (src : Nat) (data : List Byte) (tn : Nat) : (l.mark src data tn).comp = l.comp :=
  ((Live.mark_keeps l src data tn).same .comp (by decide)).symm
@[simp] theorem Live.mark_mover (l : Live) (src : Nat) (data : List Byte) (tn : Nat) : (l.mark src data tn).mover = l.mover :=
  ((Live.mark_keeps l src data tn).same .mover (by decide)).symm
@[simp] theorem Live.mark_audio (l : Live) (src : Nat) (data : List Byte) (tn : Nat) : (l.mark src data tn).audio = l.audio :=
  ((Live.mark_keeps l src data tn).same .audio (by decide)).symm
@[simp] theorem Live.mark_host (l : Live) (src : Nat) (data : List Byte) (tn : Nat) : (l.mark src data tn).host = l.host :=
  ((Live.mark_keeps l src data tn).same .host (by decide)).symm
@[simp] theorem Live.mark_recoveries (l : Live) (src : Nat) (data : List Byte) (tn : Nat) : (l.mark src data tn).recoveries = l.recoveries :=
  ((Live.mark_keeps l src data tn).same .recoveries (by decide)).symm
@[simp] theorem Live.mark_enclosure (l : Live) (src : Nat) (data : List Byte) (tn : Nat) : (l.mark src data tn).enclosure = l.enclosure :=
  ((Live.mark_keeps l src data tn).same .enclosure (by decide)).symm
@[simp] theorem Live.mark_free (l : Live) (src : Nat) (data : List Byte) (tn : Nat) : (l.mark src data tn).free = l.free :=
  ((Live.mark_keeps l src data tn).same .free (by decide)).symm

@[simp] theorem Live.count_beat (l : Live) (o : Obj) (n i k t : Nat) : (l.count o n i k t).beat = l.beat :=
  ((Live.count_keeps l o n i k t).same .beat (by decide)).symm
@[simp] theorem Live.count_dict (l : Live) (o : Obj) (n i k t : Nat) : (l.count o n i k t).dict = l.dict :=
  ((Live.count_keeps l o n i k t).same .dict (by decide)).symm
@[simp] theorem Live.count_can (l : Live) (o : Obj) (n i k t : Nat) : (l.count o n i k t).can = l.can :=
  ((Live.count_keeps l o n i k t).same .can (by decide)).symm
@[simp] theorem Live.count_sessions (l : Live) (o : Obj) (n i k t : Nat) : (l.count o n i k t).sessions = l.sessions :=
  ((Live.count_keeps l o n i k t).same .sessions (by decide)).symm
@[simp] theorem Live.count_mailboxes (l : Live) (o : Obj) (n i k t : Nat) : (l.count o n i k t).mailboxes = l.mailboxes :=
  ((Live.count_keeps l o n i k t).same .mailboxes (by decide)).symm
@[simp] theorem Live.count_modes (l : Live) (o : Obj) (n i k t : Nat) : (l.count o n i k t).modes = l.modes :=
  ((Live.count_keeps l o n i k t).same .modes (by decide)).symm
@[simp] theorem Live.count_tenancies (l : Live) (o : Obj) (n i k t : Nat) : (l.count o n i k t).tenancies = l.tenancies :=
  ((Live.count_keeps l o n i k t).same .tenancies (by decide)).symm
@[simp] theorem Live.count_power (l : Live) (o : Obj) (n i k t : Nat) : (l.count o n i k t).power = l.power :=
  ((Live.count_keeps l o n i k t).same .power (by decide)).symm
@[simp] theorem Live.count_plane (l : Live) (o : Obj) (n i k t : Nat) : (l.count o n i k t).plane = l.plane :=
  ((Live.count_keeps l o n i k t).same .plane (by decide)).symm
@[simp] theorem Live.count_bpm (l : Live) (o : Obj) (n i k t : Nat) : (l.count o n i k t).bpm = l.bpm :=
  ((Live.count_keeps l o n i k t).same .bpm (by decide)).symm
@[simp] theorem Live.count_flannel (l : Live) (o : Obj) (n i k t : Nat) : (l.count o n i k t).flannel = l.flannel :=
  ((Live.count_keeps l o n i k t).same .flannel (by decide)).symm
@[simp] theorem Live.count_dram (l : Live) (o : Obj) (n i k t : Nat) : (l.count o n i k t).dram = l.dram :=
  ((Live.count_keeps l o n i k t).same .dram (by decide)).symm
@[simp] theorem Live.count_comp (l : Live) (o : Obj) (n i k t : Nat) : (l.count o n i k t).comp = l.comp :=
  ((Live.count_keeps l o n i k t).same .comp (by decide)).symm
@[simp] theorem Live.count_mover (l : Live) (o : Obj) (n i k t : Nat) : (l.count o n i k t).mover = l.mover :=
  ((Live.count_keeps l o n i k t).same .mover (by decide)).symm
@[simp] theorem Live.count_audio (l : Live) (o : Obj) (n i k t : Nat) : (l.count o n i k t).audio = l.audio :=
  ((Live.count_keeps l o n i k t).same .audio (by decide)).symm
@[simp] theorem Live.count_host (l : Live) (o : Obj) (n i k t : Nat) : (l.count o n i k t).host = l.host :=
  ((Live.count_keeps l o n i k t).same .host (by decide)).symm
@[simp] theorem Live.count_recoveries (l : Live) (o : Obj) (n i k t : Nat) : (l.count o n i k t).recoveries = l.recoveries :=
  ((Live.count_keeps l o n i k t).same .recoveries (by decide)).symm
@[simp] theorem Live.count_enclosure (l : Live) (o : Obj) (n i k t : Nat) : (l.count o n i k t).enclosure = l.enclosure :=
  ((Live.count_keeps l o n i k t).same .enclosure (by decide)).symm
@[simp] theorem Live.count_free (l : Live) (o : Obj) (n i k t : Nat) : (l.count o n i k t).free = l.free :=
  ((Live.count_keeps l o n i k t).same .free (by decide)).symm

@[simp] theorem Live.blk_beat (l : Live) (b : Nat) (g : Signal) (n port tc tn : Nat) : (l.blk b g n port tc tn).beat = l.beat :=
  ((Live.blk_keeps l b g n port tc tn).same .beat (by decide)).symm
@[simp] theorem Live.blk_dict (l : Live) (b : Nat) (g : Signal) (n port tc tn : Nat) : (l.blk b g n port tc tn).dict = l.dict :=
  ((Live.blk_keeps l b g n port tc tn).same .dict (by decide)).symm
@[simp] theorem Live.blk_can (l : Live) (b : Nat) (g : Signal) (n port tc tn : Nat) : (l.blk b g n port tc tn).can = l.can :=
  ((Live.blk_keeps l b g n port tc tn).same .can (by decide)).symm
@[simp] theorem Live.blk_sessions (l : Live) (b : Nat) (g : Signal) (n port tc tn : Nat) : (l.blk b g n port tc tn).sessions = l.sessions :=
  ((Live.blk_keeps l b g n port tc tn).same .sessions (by decide)).symm
@[simp] theorem Live.blk_mailboxes (l : Live) (b : Nat) (g : Signal) (n port tc tn : Nat) : (l.blk b g n port tc tn).mailboxes = l.mailboxes :=
  ((Live.blk_keeps l b g n port tc tn).same .mailboxes (by decide)).symm
@[simp] theorem Live.blk_modes (l : Live) (b : Nat) (g : Signal) (n port tc tn : Nat) : (l.blk b g n port tc tn).modes = l.modes :=
  ((Live.blk_keeps l b g n port tc tn).same .modes (by decide)).symm
@[simp] theorem Live.blk_tenancies (l : Live) (b : Nat) (g : Signal) (n port tc tn : Nat) : (l.blk b g n port tc tn).tenancies = l.tenancies :=
  ((Live.blk_keeps l b g n port tc tn).same .tenancies (by decide)).symm
@[simp] theorem Live.blk_power (l : Live) (b : Nat) (g : Signal) (n port tc tn : Nat) : (l.blk b g n port tc tn).power = l.power :=
  ((Live.blk_keeps l b g n port tc tn).same .power (by decide)).symm
@[simp] theorem Live.blk_plane (l : Live) (b : Nat) (g : Signal) (n port tc tn : Nat) : (l.blk b g n port tc tn).plane = l.plane :=
  ((Live.blk_keeps l b g n port tc tn).same .plane (by decide)).symm
@[simp] theorem Live.blk_bpm (l : Live) (b : Nat) (g : Signal) (n port tc tn : Nat) : (l.blk b g n port tc tn).bpm = l.bpm :=
  ((Live.blk_keeps l b g n port tc tn).same .bpm (by decide)).symm
@[simp] theorem Live.blk_flannel (l : Live) (b : Nat) (g : Signal) (n port tc tn : Nat) : (l.blk b g n port tc tn).flannel = l.flannel :=
  ((Live.blk_keeps l b g n port tc tn).same .flannel (by decide)).symm
@[simp] theorem Live.blk_dram (l : Live) (b : Nat) (g : Signal) (n port tc tn : Nat) : (l.blk b g n port tc tn).dram = l.dram :=
  ((Live.blk_keeps l b g n port tc tn).same .dram (by decide)).symm
@[simp] theorem Live.blk_comp (l : Live) (b : Nat) (g : Signal) (n port tc tn : Nat) : (l.blk b g n port tc tn).comp = l.comp :=
  ((Live.blk_keeps l b g n port tc tn).same .comp (by decide)).symm
@[simp] theorem Live.blk_mover (l : Live) (b : Nat) (g : Signal) (n port tc tn : Nat) : (l.blk b g n port tc tn).mover = l.mover :=
  ((Live.blk_keeps l b g n port tc tn).same .mover (by decide)).symm
@[simp] theorem Live.blk_audio (l : Live) (b : Nat) (g : Signal) (n port tc tn : Nat) : (l.blk b g n port tc tn).audio = l.audio :=
  ((Live.blk_keeps l b g n port tc tn).same .audio (by decide)).symm
@[simp] theorem Live.blk_host (l : Live) (b : Nat) (g : Signal) (n port tc tn : Nat) : (l.blk b g n port tc tn).host = l.host :=
  ((Live.blk_keeps l b g n port tc tn).same .host (by decide)).symm
@[simp] theorem Live.blk_recoveries (l : Live) (b : Nat) (g : Signal) (n port tc tn : Nat) : (l.blk b g n port tc tn).recoveries = l.recoveries :=
  ((Live.blk_keeps l b g n port tc tn).same .recoveries (by decide)).symm
@[simp] theorem Live.blk_enclosure (l : Live) (b : Nat) (g : Signal) (n port tc tn : Nat) : (l.blk b g n port tc tn).enclosure = l.enclosure :=
  ((Live.blk_keeps l b g n port tc tn).same .enclosure (by decide)).symm
@[simp] theorem Live.blk_free (l : Live) (b : Nat) (g : Signal) (n port tc tn : Nat) : (l.blk b g n port tc tn).free = l.free :=
  ((Live.blk_keeps l b g n port tc tn).same .free (by decide)).symm

end Sys2Proof.Machine
end

