-- ==== Sys2Proof/Laws/Statements.lean ====
section
/-! SUPPORT. The terms that statements use, law by law: only the parts named change, the cells that change, what arises. -/

namespace Sys2Proof.Machine

open Sys2Proof

/-- A command that is an effect on the live half answers it as a next state, and only the parts named change. -/
theorem Ends.ran {m : List Part} {s : State} {f : Live → Live} (h : Ends m s (s.effect f)) :
    ∃ t, s.effect f = .next t ∧ s.only m t ∧ t.live = f s.live := by
  obtain ⟨t, h1, h2, h3, h4⟩ := h
  cases h1
  exact ⟨_, rfl, ⟨h4, h3, fun p hn => h2.1 p hn⟩, rfl⟩

/-- The same of an effect whose outcome is known: what it may change is what that outcome changes. -/
theorem State.ran_eq {m : List Part} {s : State} {f : Live → Live} {x : Live} (hf : f s.live = x) (h : Keeps m s.live x) :
    ∃ t, s.effect f = .next t ∧ s.only m t ∧ t.live = x := by
  subst hf; exact (State.effect_ends h).ran

/-- An effect that changes nothing. -/
theorem State.effect_id {s : State} {f : Live → Live} (h : f s.live = s.live) : s.effect f = .next s := by
  unfold State.effect State.withLive; rw [h]

theorem Live.cellsBut.refl (ks : List Nat) (a : Live) : a.cellsBut ks a := ⟨fun _ _ _ _ _ => rfl⟩

theorem Live.cellsBut.of_store {ks : List Nat} {a b c : Live} (h : a.cellsBut ks b) (hs : c.store = b.store) :
    a.cellsBut ks c := ⟨fun o i k t hn => by rw [← h.same o i k t hn]; unfold Live.rd; rw [hs]⟩

theorem Live.cellsBut.wr {ks : List Nat} {a b : Live} {o : Obj} {v i k t : Nat} (h : a.cellsBut ks b)
    (hk : o.key i k t ∈ ks) : a.cellsBut ks (b.wr o v i k t) := ⟨fun o' i' k' t' hn =>
  (Live.rd_wr_other b v fun e => hn (by rw [e]; exact hk)).trans (h.same o' i' k' t' hn)⟩

theorem Live.cellsBut.toDefault {ks : List Nat} {a b : Live} {o : Obj} {i k t : Nat} (h : a.cellsBut ks b)
    (hk : o.key i k t ∈ ks) : a.cellsBut ks (b.toDefault o i k t) := ⟨fun o' i' k' t' hn =>
  (Live.rd_toDefault_other b fun e => hn (by rw [e]; exact hk)).trans (h.same o' i' k' t' hn)⟩

/-- Where events are evaluated an occurrence that arises is added to those of the beat, and nothing else changes (R648). -/
theorem Live.raise_eq {l : Live} (h : l.mode.evaluates = true) (src : Nat) (data : List Byte) (tn : Nat) :
    l.raise src data tn = { l with events := { l.events with arisen := l.events.arisen ++ [l.occ src data tn] } } := by
  unfold Live.raise Live.raiseAt Live.occ
  cases hm : l.mode <;> simp_all [Mode.evaluates]

theorem Live.raise_store {l : Live} (h : l.mode.evaluates = true) (src : Nat) (data : List Byte) (tn : Nat) :
    (l.raise src data tn).store = l.store := by rw [Live.raise_eq h]

theorem Live.raise_rd {l : Live} (h : l.mode.evaluates = true) (src : Nat) (data : List Byte) (tn : Nat) (o : Obj)
    (i k t : Nat) : (l.raise src data tn).rd o i k t = l.rd o i k t := by rw [Live.raise_eq h]; rfl

/-- An occurrence raised along the way is among those of the beat. -/
theorem Live.raise_mem {l a : Live} (hm : a.mode.evaluates = true) (h1 : l.modes = a.modes) (h2 : l.beat = a.beat) (src : Nat)
    (data : List Byte) (tn : Nat) : a.occ src data tn ∈ (l.raise src data tn).events.arisen := by
  rw [Live.raise_eq (by unfold Live.mode; rw [h1]; exact hm)]
  simp [Live.occ, Live.now, h2]

/-- An occurrence raised along the way, where none was before it, is the one of the command. -/
theorem Live.raise_arose {l a : Live} (hm : a.mode.evaluates = true) (h1 : l.modes = a.modes) (h2 : l.beat = a.beat)
    (h3 : l.events = a.events) (src : Nat) (data : List Byte) (tn : Nat) :
    a.arose (l.raise src data tn) [a.occ src data tn] := by
  rw [Live.raise_eq (by unfold Live.mode; rw [h1]; exact hm)]
  simp [Live.arose, Live.occ, Live.now, h2, h3]

/-- Cells that change, through an occurrence that arises where events are evaluated. -/
theorem Live.cellsBut.raise {ks : List Nat} {a b : Live} {src : Nat} {data : List Byte} {tn : Nat} (h : a.cellsBut ks b)
    (hm : b.mode.evaluates = true) : a.cellsBut ks (b.raise src data tn) := .of_store h (Live.raise_store hm ..)

/-- What an operation keeps, read part by part. -/
theorem Keeps.mode_eq {m : List Part} {a b : Live} (h : Keeps m a b) (hm : Part.mode ∉ m) : b.mode = a.mode :=
  (h.same .mode hm).symm
theorem Keeps.store_eq {m : List Part} {a b : Live} (h : Keeps m a b) (hm : Part.store ∉ m) : b.store = a.store :=
  (h.same .store hm).symm
theorem Keeps.beat_eq {m : List Part} {a b : Live} (h : Keeps m a b) (hm : Part.beat ∉ m) : b.beat = a.beat :=
  (h.same .beat hm).symm
theorem Keeps.modes_eq {m : List Part} {a b : Live} (h : Keeps m a b) (hm : Part.modes ∉ m) : b.modes = a.modes :=
  (h.same .modes hm).symm
theorem Keeps.plane_eq {m : List Part} {a b : Live} (h : Keeps m a b) (hm : Part.plane ∉ m) : b.plane = a.plane :=
  (h.same .plane hm).symm
theorem Keeps.events_eq {m : List Part} {a b : Live} (h : Keeps m a b) (hm : Part.events ∉ m) : b.events = a.events :=
  (h.same .events hm).symm

theorem Keeps.dict_eq {m : List Part} {a b : Live} (h : Keeps m a b) (hm : Part.dict ∉ m) : b.dict = a.dict :=
  (h.same .dict hm).symm
theorem Keeps.can_eq {m : List Part} {a b : Live} (h : Keeps m a b) (hm : Part.can ∉ m) : b.can = a.can :=
  (h.same .can hm).symm
theorem Keeps.sessions_eq {m : List Part} {a b : Live} (h : Keeps m a b) (hm : Part.sessions ∉ m) : b.sessions = a.sessions :=
  (h.same .sessions hm).symm
theorem Keeps.mailboxes_eq {m : List Part} {a b : Live} (h : Keeps m a b) (hm : Part.mailboxes ∉ m) : b.mailboxes = a.mailboxes :=
  (h.same .mailboxes hm).symm
theorem Keeps.tenancies_eq {m : List Part} {a b : Live} (h : Keeps m a b) (hm : Part.tenancies ∉ m) : b.tenancies = a.tenancies :=
  (h.same .tenancies hm).symm
theorem Keeps.power_eq {m : List Part} {a b : Live} (h : Keeps m a b) (hm : Part.power ∉ m) : b.power = a.power :=
  (h.same .power hm).symm
theorem Keeps.bpm_eq {m : List Part} {a b : Live} (h : Keeps m a b) (hm : Part.bpm ∉ m) : b.bpm = a.bpm :=
  (h.same .bpm hm).symm
theorem Keeps.flannel_eq {m : List Part} {a b : Live} (h : Keeps m a b) (hm : Part.flannel ∉ m) : b.flannel = a.flannel :=
  (h.same .flannel hm).symm
theorem Keeps.dram_eq {m : List Part} {a b : Live} (h : Keeps m a b) (hm : Part.dram ∉ m) : b.dram = a.dram :=
  (h.same .dram hm).symm
theorem Keeps.comp_eq {m : List Part} {a b : Live} (h : Keeps m a b) (hm : Part.comp ∉ m) : b.comp = a.comp :=
  (h.same .comp hm).symm
theorem Keeps.mover_eq {m : List Part} {a b : Live} (h : Keeps m a b) (hm : Part.mover ∉ m) : b.mover = a.mover :=
  (h.same .mover hm).symm
theorem Keeps.audio_eq {m : List Part} {a b : Live} (h : Keeps m a b) (hm : Part.audio ∉ m) : b.audio = a.audio :=
  (h.same .audio hm).symm
theorem Keeps.host_eq {m : List Part} {a b : Live} (h : Keeps m a b) (hm : Part.host ∉ m) : b.host = a.host :=
  (h.same .host hm).symm
theorem Keeps.recoveries_eq {m : List Part} {a b : Live} (h : Keeps m a b) (hm : Part.recoveries ∉ m) : b.recoveries = a.recoveries :=
  (h.same .recoveries hm).symm
theorem Keeps.enclosure_eq {m : List Part} {a b : Live} (h : Keeps m a b) (hm : Part.enclosure ∉ m) : b.enclosure = a.enclosure :=
  (h.same .enclosure hm).symm
theorem Keeps.free_eq {m : List Part} {a b : Live} (h : Keeps m a b) (hm : Part.free ∉ m) : b.free = a.free :=
  (h.same .free hm).symm

/-- Agreement on one part, from what an operation keeps. -/
theorem Keeps.part {m : List Part} {a b : Live} (h : Keeps m a b) (p : Part) (hp : p ∉ m) : a.agree b p := h.same p hp

theorem Mode.evaluates_of_engineOn {m : Mode} (h : m.engineOn = true) : m.evaluates = true := by
  cases m <;> first | rfl | exact absurd h (by decide)

theorem Mode.evaluates_of_running {m : Mode} (h : m.running = true) : m.evaluates = true := by
  cases m <;> first | rfl | exact absurd h (by decide)

/-- An operation that does not write the dictionary leaves what it reads as. -/
theorem Keeps.rd {m : List Part} {a b : Live} (h : Keeps m a b) (o : Obj) (i k t : Nat) (hm : Part.store ∉ m := by decide) :
    b.rd o i k t = a.rd o i k t := by
  have e : a.store = b.store := h.same .store hm
  unfold Live.rd; rw [e]

/-- Cells that change, through an operation that does not write the dictionary. -/
theorem Live.cellsBut.keep {ks : List Nat} {m : List Part} {a b c : Live} (hk : Keeps m b c) (h : a.cellsBut ks b)
    (hm : Part.store ∉ m := by decide) : a.cellsBut ks c := .of_store h (hk.same .store hm).symm

/-- A command's effect on the live half, where its outcome is known. -/
theorem State.effect_to {s : State} {f : Live → Live} {x : Live} (h : f s.live = x) : s.effect f = .next (s.withLive x) := by
  unfold State.effect; rw [h]

@[simp] theorem Live.wr_portRt (l : Live) (o : Obj) (v i k t p : Nat) : (l.wr o v i k t).portRt p = l.portRt p := by
  unfold Live.portRt; rw [Live.wr_plane]
@[simp] theorem Live.raise_portRt (l : Live) (c : Nat) (b : List Byte) (d : Nat) (p : Nat) : (l.raise c b d).portRt p = l.portRt p := by
  unfold Live.portRt; rw [Live.raise_plane]
@[simp] theorem Live.count_portRt (l : Live) (o : Obj) (n i k t p : Nat) : (l.count o n i k t).portRt p = l.portRt p := by
  unfold Live.portRt; rw [Live.count_plane]
@[simp] theorem Live.blk_portRt (l : Live) (b : Nat) (g : Signal) (n i k t p : Nat) : (l.blk b g n i k t).portRt p = l.portRt p := by
  unfold Live.portRt; rw [Live.blk_plane]
@[simp] theorem Live.setRec_portRt (l : Live) (f : Recoveries → Recoveries) (p : Nat) : (l.setRec f).portRt p = l.portRt p := by
  unfold Live.portRt; simp

/-- A counter counts in its own cell, and a wrap shows in WRAPPED_ANY and as an occurrence (R656). -/
theorem Live.count_cells {l : Live} (h : l.mode.evaluates = true) (o : Obj) (n i k t : Nat) :
    l.cellsBut [o.key i k t, Obj.key .WRAPPED_ANY 0 0 0] (l.count o n i k t) := by
  unfold Live.count
  split
  · exact .refl _ _
  · dsimp only; split
    · exact .wr (.refl _ _) (by simp)
    · refine .raise ?_ (by simpa [Live.mode, Live.wrB] using h)
      unfold Live.wrB; exact .wr (.wr (.refl _ _) (by simp)) (by simp)

/-- A counter that does not wrap adds to its cell and does nothing else. -/
theorem Live.count_eq {l : Live} {o : Obj} {n i k t : Nat} (h : l.mode ≠ .freeze) (h1 : o.lo ≤ i) (h2 : i ≤ o.hi)
    (h3 : l.rd o i k t + n < 256 ^ o.len) : l.count o n i k t = l.wr o (l.rd o i k t + n) i k t := by
  unfold Live.count; rw [if_neg (fun hh => by rcases hh with hh | hh | hh <;> first | exact h hh | omega)]; dsimp only; rw [if_pos h3]

/-- What has arisen stays among what has arisen. -/
theorem Live.raise_mono {l : Live} {x : Occ} (h : l.mode.evaluates = true) (src : Nat) (data : List Byte) (tn : Nat)
    (hx : x ∈ l.events.arisen) : x ∈ (l.raise src data tn).events.arisen := by
  rw [Live.raise_eq h]; exact List.mem_append_left _ hx

theorem Live.count_mono {l : Live} {x : Occ} (h : l.mode.evaluates = true) (o : Obj) (n i k t : Nat)
    (hx : x ∈ l.events.arisen) : x ∈ (l.count o n i k t).events.arisen := by
  unfold Live.count
  split
  · exact hx
  · dsimp only; split
    · rw [Live.wr_events]; exact hx
    · refine Live.raise_mono (by unfold Live.mode Live.wrB; rw [Live.wr_modes, Live.wr_modes]; exact h) _ _ _ ?_
      unfold Live.wrB; rw [Live.wr_events, Live.wr_events]; exact hx

theorem Live.blk_arisen (l : Live) (b : Nat) (g : Signal) (n port tc tn : Nat) :
    (l.blk b g n port tc tn).events.arisen = l.events.arisen := by
  unfold Live.blk
  split
  · rfl
  · generalize List.range 16 = xs
    suffices h : ∀ a : Live, (xs.foldl (fun l' c => if l'.blkCounts b c g port tc tn then
        { l' with events := { l'.events with blocks := l'.events.blocks.upd (16 * b + c) fun x => { x with hw := (x.hw + n) % 2 ^ 48 } } }
        else l') a).events.arisen = a.events.arisen from h l
    induction xs with
    | nil => intro a; rfl
    | cons c cs ih =>
      intro a
      rw [List.foldl_cons, ih]
      split <;> rfl

/-- Cells other than the one set read as before, and versions of frames do not show in them. -/
theorem Live.rd_wrV_other {l : Live} {o o' : Obj} {v i k t i' k' t' : Nat} (h : o'.key i' k' t' ≠ o.key i k t) :
    (l.wrV o v i k t).rd o' i' k' t' = l.rd o' i' k' t' := by
  unfold Live.wrV
  split
  · rfl
  · rw [Live.rd_wr_other _ _ h]
    exact (Live.keepVersion_keeps ..).rd ..

/-- Cells other than the counter and WRAPPED_ANY read as before. -/
theorem Live.rd_count_other {l : Live} (ev : l.mode.evaluates = true) {o o' : Obj} {n i k t i' k' t' : Nat} (h : o'.key i' k' t' ≠ o.key i k t)
    (h2 : o'.key i' k' t' ≠ Obj.key .WRAPPED_ANY 0 0 0) : (l.count o n i k t).rd o' i' k' t' = l.rd o' i' k' t' := by
  unfold Live.count
  split
  · rfl
  · dsimp only; split
    · exact Live.rd_wr_other _ _ h
    · refine (Live.raise_rd (by simpa [Live.wrB, Live.mode] using ev) ..).trans ?_
      unfold Live.wrB
      rw [Live.rd_wr_other _ _ h2, Live.rd_wr_other _ _ h]

theorem Live.wrV_modes (l : Live) (o : Obj) (v i k t : Nat) : (l.wrV o v i k t).modes = l.modes := (Live.wrV_keeps ..).modes_eq (by decide)

/-- A counter counts modulo its width where events are evaluated. -/
theorem Live.count_rd {l : Live} (ev : l.mode.evaluates = true) {o : Obj} {n i k t : Nat} (h : l.mode ≠ .freeze) (h1 : o.lo ≤ i) (h2 : i ≤ o.hi)
    (hw : o.key i k t ≠ Obj.key .WRAPPED_ANY 0 0 0) : (l.count o n i k t).rd o i k t = (l.rd o i k t + n) % 256 ^ o.len := by
  unfold Live.count
  rw [if_neg (fun hh => by rcases hh with hh | hh | hh <;> first | exact h hh | omega)]
  dsimp only
  split
  · rw [Live.rd_wr_same]
  · refine (Live.raise_rd (by simpa [Live.wrB, Live.mode] using ev) ..).trans ?_
    unfold Live.wrB
    rw [Live.rd_wr_other _ _ hw, Live.rd_wr_same]

end Sys2Proof.Machine
end

