-- ==== Sys2Proof/Laws/Reports.lean ====
section
/-! SUPPORT. The reports of the beat that ends change counters and status only: every cell below index 0x0300 reads as before,
among them the settings by which phase 1 numbers the next beat. -/

namespace Sys2Proof.Machine

open Sys2Proof

/-- Cells of indexes below 0x0300, of no tenancy's instance, are as before. -/
structure Live.lowSame (a b : Live) : Prop where
  same : ∀ key, key < 0x30000 → b.store.find? key = a.store.find? key

theorem Live.lowSame.refl (a : Live) : a.lowSame a := ⟨fun _ _ => rfl⟩

theorem Live.lowSame.trans {a b c : Live} (h : a.lowSame b) (h' : b.lowSame c) : a.lowSame c :=
  ⟨fun k hk => (h'.same k hk).trans (h.same k hk)⟩

theorem Keeps.low {m : List Part} {a b : Live} (h : Keeps m a b) (hm : Part.store ∉ m) : a.lowSame b :=
  ⟨fun _ _ => by rw [h.store_eq hm]⟩

theorem Live.lowSame.rd {a b : Live} (h : a.lowSame b) {o : Obj} {i k t : Nat} (hk : o.key i k t < 0x30000) :
    b.rd o i k t = a.rd o i k t := by
  unfold Live.rd; rw [h.same _ hk]

theorem Live.wr_low (l : Live) {o : Obj} (v i k t : Nat) (ho : 0x300 ≤ o.base) : l.lowSame (l.wr o v i k t) := by
  refine ⟨fun key hk => ?_⟩
  refine Tbl.find?_putD_other _ _ _ ?_
  unfold Obj.key Obj.index
  have := Nat.zero_le (o.stride * i)
  omega

theorem Live.forL_low {α : Type} {f : Live → α → Live} (hf : ∀ (l : Live) x, l.lowSame (f l x)) (l : Live) (xs : List α) :
    l.lowSame (l.forL xs f) := by
  induction xs generalizing l with
  | nil => exact .refl l
  | cons x xs ih => exact (hf l x).trans (ih _)

theorem Live.forN_low {f : Live → Nat → Live} (hf : ∀ (l : Live) x, l.lowSame (f l x)) (l : Live) (n : Nat) : l.lowSame (l.forN n f) :=
  Live.forL_low hf l (List.range n)

theorem Live.raise_low (l : Live) (src : Nat) (data : List Byte) (tn : Nat) : l.lowSame (l.raise src data tn) := by
  have hh (l : Live) (o : Occ) : l.lowSame (l.hold o) := by
    unfold Live.hold; split
    · exact ⟨fun _ _ => rfl⟩
    · exact Live.wr_low l _ _ _ _ (by decide)
  unfold Live.raise Live.raiseAt
  dsimp only
  split
  · exact .refl l
  · split
    · exact hh ..
    · exact .refl l
  · split
    · exact hh ..
    · exact .refl l
  · exact hh ..
  · exact hh ..
  · exact ⟨fun _ _ => rfl⟩

theorem Live.count_low (l : Live) {o : Obj} (n i k t : Nat) (ho : 0x300 ≤ o.base) : l.lowSame (l.count o n i k t) := by
  unfold Live.count
  split
  · exact .refl l
  · dsimp only
    split
    · exact Live.wr_low l _ _ _ _ ho
    · exact (Live.wr_low l _ _ _ _ ho).trans ((Live.wr_low _ (o := .WRAPPED_ANY) _ 0 0 0 (by decide)).trans (Live.raise_low ..))

theorem Live.channelReport_low (l : Live) (c : Nat) (r : ChannelReport) : l.lowSame (l.channelReport c r) := by
  have hl (l : Live) (a b : Nat) (p : DramPlace) : l.lowSame (l.dramLog a b p) := by
    unfold Live.dramLog
    dsimp only
    split
    · exact (Live.setDram_keeps ..).low (by decide)
    · exact .trans ((Live.setDram_keeps ..).low (by decide)) (Live.wr_low _ _ _ _ _ (by decide))
  unfold Live.channelReport
  extract_lets l1 l2 l3 busy l4
  have h1 : l.lowSame l1 := ((Live.dramSlots_keeps ..).low (by decide)).trans
    ((Live.count_low _ _ _ _ _ (by decide)).trans (Live.count_low _ _ _ _ _ (by decide)))
  have h2 : l1.lowSame l2 := by
    show l1.lowSame (if r.poison = 0 then l1 else (l1.count .POISON_READS r.poison c).mark 492)
    split
    · exact .refl _
    · exact (Live.count_low _ _ _ _ _ (by decide)).trans ((Live.mark_keeps ..).low (by decide))
  have h3 : l2.lowSame l3 := Live.forL_low (fun l x => (Live.count_low _ _ _ _ _ (by decide)).trans
    (((Live.blk_keeps ..).low (by decide)).trans (((Live.mark_keeps ..).low (by decide)).trans (hl ..)))) ..
  have h4 : l3.lowSame l4 := (Live.setChannel_keeps ..).low (by decide)
  have h := h1.trans (h2.trans (h3.trans h4))
  split
  · exact h.trans (Live.count_low _ _ _ _ _ (by decide))
  · exact h

theorem Live.portReport_low (l : Live) (d : Nat) (r : DramPortReport) : l.lowSame (l.portReport d r) := by
  unfold Live.portReport
  extract_lets n l1 l2 l3
  have h1 : l.lowSame l1 := Live.forL_low (fun l k => Live.count_low l _ _ _ _ (by decide)) l (List.range 4)
  have h2 : l1.lowSame l2 := (Live.wr_low _ _ _ _ _ (by decide)).trans (Live.wr_low _ _ _ _ _ (by decide))
  have hb (l : Live) (b : Nat) (s : Signal) (n p t u : Nat) : l.lowSame (l.blk b s n p t u) :=
    (Live.blk_keeps ..).low (by decide)
  exact h1.trans (h2.trans ((hb ..).trans ((hb ..).trans ((hb ..).trans (hb ..)))))

theorem Live.dramReports_low (l : Live) (chs : List ChannelReport) (ports : List DramPortReport) :
    l.lowSame (l.dramReports chs ports) := by
  unfold Live.dramReports
  split
  · exact .refl l
  · extract_lets l1 l2 l3
    have h2 : l.lowSame l2 := (Live.forN_low (fun l c => Live.channelReport_low l c _) l 2).trans
      (Live.forN_low (fun l d => Live.portReport_low l d _) _ 6)
    have h3 : l.lowSame l3 := by
      refine h2.trans ?_
      show l2.lowSame (match (List.range 6).find? fun d => (ports.getD d {}).late with
        | some d => l2.mark 493 (u8 d)
        | none => l2)
      split
      · exact (Live.mark_keeps ..).low (by decide)
      · exact .refl _
    refine h3.trans ?_
    unfold Live.panicBeats
    exact (Live.forL_low (fun l d => (Live.count_low l _ _ _ _ (by decide)).trans ((Live.blk_keeps ..).low (by decide))) ..).trans
      ((Live.setDram_keeps ..).low (by decide))

/-- Settings below index 0x0300 are not touched by the reports. -/
theorem Live.beatReports_low (l : Live) (i : BoundaryInputs) : l.lowSame (l.beatReports i) := by
  have hc (l : Live) (e : Nat × Nat) : l.lowSame (l.correctedErrors e) := by
    unfold Live.correctedErrors
    refine ((Live.blk_keeps l e.1 .ecc e.2 0 0 0).low (by decide)).trans ?_
    dsimp only
    split
    · exact Live.count_low _ _ _ _ _ (by decide)
    · split
      · exact Live.count_low _ _ _ _ _ (by decide)
      · split
        · exact Live.count_low _ _ _ _ _ (by decide)
        · exact .refl _
  unfold Live.beatReports
  exact ((Live.dramReports_low ..).trans (Live.forL_low hc ..)).trans
    (Live.forL_low (fun l x => (Live.blk_keeps ..).low (by decide)) ..)

theorem Live.beatReports_beat (l : Live) (i : BoundaryInputs) : (l.beatReports i).beat = l.beat :=
  ((Live.beatReports_keeps l i).same .beat (by decide)).symm

end Sys2Proof.Machine
end

