-- ==== Sys2Proof/Laws/Clock.lean ====
section
/-! SUPPORT. The counts of a beat: what phase 1 of each boundary makes of them, and that nothing later in the boundary touches
them. -/

namespace Sys2Proof.Machine

open Sys2Proof

/-- The beat number, the count of beats and the elapsed-beat count. -/
def Live.clock (l : Live) : Nat × Nat × Nat := (l.beat.number, l.beat.ticks, l.beat.elapsed)

theorem Keeps.clock_eq {m : List Part} {a b : Live} (h : Keeps m a b) (hm : Part.clock ∉ m) : b.clock = a.clock := by
  have := h.same .clock hm
  unfold Live.clock
  rw [this.1, this.2.1, this.2.2]

theorem Live.slewEnds_clock (l : Live) : l.slewEnds.clock = l.clock := by
  unfold Live.slewEnds
  split
  · exact (Live.raise_keeps ..).clock_eq (by decide)
  · rfl

/-- An ordinary boundary: each count advances by one (R26, R29). -/
theorem Live.numberNext_clock (l : Live) (drift : Nat) :
    (l.numberNext drift).clock = ((l.beat.number + 1) % 2 ^ 64, l.beat.ticks + 1, l.beat.elapsed + 1) := by
  unfold Live.numberNext
  dsimp only
  split
  · rw [Live.slewEnds_clock]; rfl
  · rfl

/-- The strobe instant: FREE_RUN_ORIGIN, and no beat elapsed (R32). -/
theorem Live.numberStruck_clock (l : Live) :
    l.numberStruck.clock = (l.rd .FREE_RUN_ORIGIN, l.beat.ticks + 1, 0) := by
  unfold Live.numberStruck Live.numberStrobe
  dsimp only
  rw [(Live.audioStep_keeps _).clock_eq (by decide), (Live.clearAges_keeps _).clock_eq (by decide),
    (Live.shiftGates_keeps ..).clock_eq (by decide), (Live.renameBeats_keeps ..).clock_eq (by decide),
    (Live.raise_keeps ..).clock_eq (by decide), Live.slewEnds_clock]
  rfl

/-- The end of an alignment beat: the number is that of the PTP instant where it lies ahead, else the next (R38). -/
theorem Live.numberAligned_clock (l : Live) (t cycles : Nat) :
    (l.numberAligned t cycles).clock = (if l.beat.number + 1 < t then t % 2 ^ 64 else (l.beat.number + 1) % 2 ^ 64,
      l.beat.ticks + 1, l.beat.elapsed + 1) := by
  have h : (l.numberLocked t cycles).clock = (if l.beat.number + 1 < t then t % 2 ^ 64 else (l.beat.number + 1) % 2 ^ 64,
      l.beat.ticks + 1, l.beat.elapsed + 1) := by
    unfold Live.numberLocked
    dsimp only
    split
    · rename_i h
      rw [(Live.raise_keeps ..).clock_eq (by decide), Live.slewEnds_clock, if_neg (by omega)]
      rfl
    · split
      · rw [(Live.raise_keeps ..).clock_eq (by decide), (Live.raise_keeps ..).clock_eq (by decide), Live.slewEnds_clock]
        rfl
      · split
        · rw [(Live.raise_keeps ..).clock_eq (by decide)]; rfl
        · rw [(Live.raise_keeps ..).clock_eq (by decide), (Live.raise_keeps ..).clock_eq (by decide)]; rfl
  unfold Live.numberAligned
  dsimp only
  split
  · rw [(Live.slotsSkipped_keeps ..).clock_eq (by decide), (Live.audioStep_keeps _).clock_eq (by decide), (Live.gateJump_keeps ..).clock_eq (by decide), h]
  · rw [(Live.gateJump_keeps ..).clock_eq (by decide), h]

/-- How a plain boundary numbers the next beat: an alignment beat and an ordinary one go on by one; the strobe's instant takes
the origin. -/
theorem Live.numberPlain_clock (l : Live) (drift : Nat) :
    (l.numberPlain drift).clock =
      if l.beat.strobeTaken = true ∧ l.beat.aligning = false ∧ l.lockDue = false then (l.rd .FREE_RUN_ORIGIN, l.beat.ticks + 1, 0)
      else ((l.beat.number + 1) % 2 ^ 64, l.beat.ticks + 1, l.beat.elapsed + 1) := by
  unfold Live.numberPlain
  split
  · rename_i h
    rw [Live.numberAligned_clock, if_neg (by simp [Live.now]), if_neg (by simp [h])]
  · rename_i h
    split
    · rename_i h1
      rw [if_neg (by simp [h1])]
      exact Live.numberNext_clock l drift
    · rename_i h1
      split
      · rename_i h2
        rw [if_pos (by simp_all), Live.numberStruck_clock]
      · rename_i h2
        rw [if_neg (by simp_all), Live.numberNext_clock]

/-- What phase 1 numbers: the machine after the reports of the beat that ends. -/
def Live.toNumber (l : Live) (inp : BoundaryInputs) : Live := (l.beatReports inp).handOver.setPlane fun x => { x with sub := 0 }

/-- After phase 1 nothing in a boundary touches the counts. -/
theorem Live.boundary_clock (st : Live) (number : Live → Live) (inp : BoundaryInputs) (l : Live) :
    (Live.boundary st number inp l).clock = (number (l.toNumber inp)).clock := by
  have h1 : ((l.beatReports inp).phaseNumber number inp.overrun).clock = (number (l.toNumber inp)).clock := by
    unfold Live.phaseNumber Live.toNumber
    dsimp only
    exact Keeps.clock_eq (m := [.store, .beat, .modes, .plane, .events]) (.via (Live.gateSample_keeps ..) rfl (.via (Live.dueTakeovers_keeps ..) rfl
      (.when (fun l => (Live.loseLock_keeps l).mono rfl) (.when (fun l => (Live.overran_keeps l).mono rfl) (.refl _ _)))))
      (by decide)
  rw [← h1]
  refine Keeps.clock_eq (m := [.store, .beat, .dict, .can, .sessions, .mailboxes, .mode, .modes, .tenancies, .power, .plane, .bpm,
    .flannel, .dram, .comp, .mover, .audio, .host, .events, .recoveries, .enclosure, .free]) ?_ (by decide)
  unfold Live.boundary
  refine .when (fun l => (Live.mark_keeps ..).mono rfl) ?_
  refine .via (Live.deliver_keeps ..) rfl (.via (Live.kickAll_keeps ..) rfl (.via (Live.phaseEvents_keeps ..) rfl ?_))
  refine .via (Live.backgroundTimers_keeps ..) rfl (.via (Live.backgroundWork_keeps ..) rfl ?_)
  refine .via (Live.snapshotCapture_keeps ..) rfl (.via (Live.gather_keeps ..) rfl (.via (Live.snapshotShow_keeps ..) rfl ?_))
  refine .via (Live.phaseRefill_keeps ..) rfl (.via (Live.phasePower_keeps ..) rfl (.via (Live.modeEval_keeps ..) rfl ?_))
  refine .via (Live.phaseCommit_keeps ..) rfl (.via (Live.setFlannel_keeps ..) rfl (.via (Live.beginSeen_keeps ..) rfl ?_))
  exact (Live.phaseSample_keeps ..).mono rfl

theorem Live.toNumber_beat (l : Live) (inp : BoundaryInputs) : (l.toNumber inp).beat = l.beat :=
  ((Live.handOver_keeps _).same .beat (by decide)).symm.trans (Live.beatReports_beat l inp)

/-- The settings below index 0x0300 as phase 1 finds them. -/
theorem Live.toNumber_low (l : Live) (inp : BoundaryInputs) : l.lowSame (l.toNumber inp) :=
  (Live.beatReports_low l inp).trans (((Live.handOver_keeps _).low (by decide)).trans ((Live.setPlane_keeps ..).low (by decide)))

theorem Live.lockDue_congr {a b : Live} (hb : b.beat = a.beat) (hs : a.lowSame b) : b.lockDue = a.lockDue := by
  unfold Live.lockDue Live.syncMissing Live.rdI; rw [hb, hs.rd (by decide)]

end Sys2Proof.Machine
end

