-- ==== Sys2Proof/Laws/ExecBeat.lean ====
section
/-! SUPPORT. What the commands of Machine/Beat.lean may change. -/

namespace Sys2Proof.Machine

open Sys2Proof

theorem execArmOrigin_ends (s : State) : Ends [.beat] s (execArmOrigin s) := by
  unfold execArmOrigin
  refine State.effect_ends ?_
  repeat' first
    | exact (rfl : true = true)
    | with_reducible exact .refl _ _
    | refine .via (by with_reducible exact Live.armOrigin_keeps ..) ?_ ?_
    | with_reducible refine .ite ?_ ?_
    | dsimp only
    | split

theorem execBeatPtpUnlocked_ends (s : State) : Ends [.store, .beat, .events] s (execBeatPtpUnlocked s) := by
  unfold execBeatPtpUnlocked
  refine State.effect_ends ?_
  repeat' first
    | exact (rfl : true = true)
    | with_reducible exact .refl _ _
    | refine .via (by with_reducible exact Live.loseLock_keeps ..) ?_ ?_
    | with_reducible refine .ite ?_ ?_
    | dsimp only
    | split

theorem execPtpAnnounceReceived_ends (uplink : Fin 4) (msg : AnnounceMsg) (s : State) : Ends [.store, .beat, .events] s (execPtpAnnounceReceived uplink msg s) := by
  unfold execPtpAnnounceReceived
  refine State.effect_ends ?_
  repeat' first
    | exact (rfl : true = true)
    | with_reducible exact .refl _ _
    | refine .via (by with_reducible exact Live.runBmca_keeps ..) ?_ ?_
    | refine .via (by with_reducible exact Live.setBeat_keeps (fun _ => by exact ⟨rfl, rfl, rfl⟩) ..) ?_ ?_
    | with_reducible refine .ite ?_ ?_
    | dsimp only
    | split

theorem execPtpAnnounceTimeout_ends (uplink : Fin 4) (s : State) : Ends [.store, .beat, .events] s (execPtpAnnounceTimeout uplink s) := by
  unfold execPtpAnnounceTimeout
  refine State.effect_ends ?_
  repeat' first
    | exact (rfl : true = true)
    | with_reducible exact .refl _ _
    | refine .via (by with_reducible exact Live.setBeat_keeps (fun _ => by exact ⟨rfl, rfl, rfl⟩) ..) ?_ ?_
    | refine .via (by with_reducible exact Live.runBmca_keeps ..) ?_ ?_
    | refine .via (by with_reducible exact Live.raise_keeps ..) ?_ ?_
    | with_reducible refine .ite ?_ ?_
    | dsimp only
    | refine .of2 (by assumption) ?_
    | refine .of1 (by assumption) ?_
    | split

theorem execPtpDelayMessage_ends (port : Fin 56) (delay : Nat) (s : State) : Ends [.store, .beat] s (execPtpDelayMessage port delay s) := by
  unfold execPtpDelayMessage
  refine State.effect_ends ?_
  repeat' first
    | exact (rfl : true = true)
    | with_reducible exact .refl _ _
    | refine .via (by with_reducible exact Live.delayMessage_keeps ..) ?_ ?_
    | with_reducible refine .ite ?_ ?_
    | dsimp only
    | split

theorem execPtpSyncReceived_ends (port : Fin 56) (domain transport : Nat) (offset : Int) (s : State) : Ends [.store, .beat] s (execPtpSyncReceived port domain transport offset s) := by
  unfold execPtpSyncReceived
  refine State.effect_ends ?_
  repeat' first
    | exact (rfl : true = true)
    | with_reducible exact .refl _ _
    | refine .via (by with_reducible exact Live.syncReceived_keeps ..) ?_ ?_
    | with_reducible refine .ite ?_ ?_
    | dsimp only
    | split

theorem execPtpSyncTransmit_ends (announce : Bool) (s : State) : Ends [.beat] s (execPtpSyncTransmit announce s) := by
  unfold execPtpSyncTransmit
  refine State.effect_ends ?_
  repeat' first
    | exact (rfl : true = true)
    | with_reducible exact .refl _ _
    | refine .via (by with_reducible exact Live.ptpTransmit_keeps ..) ?_ ?_
    | with_reducible refine .ite ?_ ?_
    | dsimp only
    | split

end Sys2Proof.Machine
end

