-- ==== Sys2Proof/Laws/ExecBpm.lean ====
section
/-! SUPPORT. What the commands of Machine/Bpm.lean may change. -/

namespace Sys2Proof.Machine

open Sys2Proof

theorem execAlloc_ends (r : Fin 16) (size : Nat) (tn : Fin 8) (s : State) : Ends [.store, .bpm, .events] s (execAlloc r size tn s) := by
  unfold execAlloc
  refine State.effect_ends ?_
  repeat' first
    | exact (rfl : true = true)
    | with_reducible exact .refl _ _
    | refine .via (by with_reducible exact Live.alloc_keeps ..) ?_ ?_
    | refine .via (by with_reducible exact Live.bpmResult_keeps ..) ?_ ?_
    | with_reducible refine .ite ?_ ?_
    | dsimp only
    | split

theorem execFree_ends (r : Fin 16) (h : Nat) (s : State) : Ends [.store, .bpm, .events] s (execFree r h s) := by
  unfold execFree
  refine State.effect_ends ?_
  repeat' first
    | exact (rfl : true = true)
    | with_reducible exact .refl _ _
    | refine .via (by with_reducible exact Live.freeHandle_keeps ..) ?_ ?_
    | refine .via (by with_reducible exact Live.bpmResult_keeps ..) ?_ ?_
    | with_reducible refine .ite ?_ ?_
    | dsimp only
    | split

theorem execRelease_ends (r : Fin 16) (h : Nat) (s : State) : Ends [.store, .bpm, .events] s (execRelease r h s) := by
  unfold execRelease
  refine State.effect_ends ?_
  repeat' first
    | exact (rfl : true = true)
    | with_reducible exact .refl _ _
    | refine .via (by with_reducible exact Live.release_keeps ..) ?_ ?_
    | refine .via (by with_reducible exact Live.bpmResult_keeps ..) ?_ ?_
    | with_reducible refine .ite ?_ ?_
    | dsimp only
    | split

theorem execShare_ends (r : Fin 16) (h : Nat) (new : Fin 16) (final : Bool) (s : State) : Ends [.store, .bpm, .events] s (execShare r h new final s) := by
  unfold execShare
  refine State.effect_ends ?_
  repeat' first
    | exact (rfl : true = true)
    | with_reducible exact .refl _ _
    | refine .via (by with_reducible exact Live.share_keeps ..) ?_ ?_
    | refine .via (by with_reducible exact Live.bpmResult_keeps ..) ?_ ?_
    | with_reducible refine .ite ?_ ?_
    | dsimp only
    | split

end Sys2Proof.Machine
end

