-- ==== Sys2Proof/Laws/ExecDram.lean ====
section
/-! SUPPORT. What the commands of Machine/Dram.lean may change. -/

namespace Sys2Proof.Machine

open Sys2Proof

theorem execDiagRead_ends (s : State) : Ends [.store, .free] s (execDiagRead s) := by
  unfold execDiagRead
  refine State.effect_ends ?_
  repeat' first
    | exact (rfl : true = true)
    | with_reducible exact .refl _ _
    | refine .via (by with_reducible exact Live.diagRead_keeps ..) ?_ ?_
    | with_reducible refine .ite ?_ ?_
    | dsimp only
    | split

theorem execDramAlert_ends (c : Fin 2) (crc : Bool) (time : Nat) (slots : List DramSlot) (place : DramPlace) (s : State) : Ends [.store, .dram, .events, .recoveries] s (execDramAlert c crc time slots place s) := by
  unfold execDramAlert
  refine State.effect_ends ?_
  repeat' first
    | exact (rfl : true = true)
    | with_reducible exact .refl _ _
    | refine .via (by with_reducible exact Live.dramAlert_keeps ..) ?_ ?_
    | with_reducible refine .ite ?_ ?_
    | dsimp only
    | split

theorem execDramReplayDone_ends (c : Fin 2) (s : State) : Ends [.store, .dram, .events, .recoveries] s (execDramReplayDone c s) := by
  unfold execDramReplayDone
  refine State.effect_ends ?_
  repeat' first
    | exact (rfl : true = true)
    | with_reducible exact .refl _ _
    | refine .via (by with_reducible exact Live.replayDone_keeps ..) ?_ ?_
    | with_reducible refine .ite ?_ ?_
    | dsimp only
    | split

theorem execDramScrubPassDone_ends (s : State) : Ends [.store, .dram, .events] s (execDramScrubPassDone s) := by
  unfold execDramScrubPassDone
  refine State.effect_ends ?_
  repeat' first
    | exact (rfl : true = true)
    | with_reducible exact .refl _ _
    | refine .via (by with_reducible exact Live.count_keeps ..) ?_ ?_
    | refine .via (by with_reducible exact Live.setDram_keeps ..) ?_ ?_
    | refine .via (by with_reducible exact Live.raise_keeps ..) ?_ ?_
    | refine .via (by with_reducible exact Live.wr_keeps ..) ?_ ?_
    | with_reducible refine .ite ?_ ?_
    | dsimp only
    | split

theorem execDramUe_ends (place : DramPlace) (s : State) : Ends [.store, .bpm, .dram, .events, .recoveries] s (execDramUe place s) := by
  unfold execDramUe
  refine State.effect_ends ?_
  repeat' first
    | exact (rfl : true = true)
    | with_reducible exact .refl _ _
    | refine .via (by with_reducible exact Live.dramUe_keeps ..) ?_ ?_
    | with_reducible refine .ite ?_ ?_
    | dsimp only
    | split

theorem execIdleSelfRefresh_ends (c : Fin 2) (s : State) : Ends [.store, .dram, .events] s (execIdleSelfRefresh c s) := by
  unfold execIdleSelfRefresh
  refine State.effect_ends ?_
  repeat' first
    | exact (rfl : true = true)
    | with_reducible exact .refl _ _
    | refine .via (by with_reducible exact Live.selfRefresh_keeps ..) ?_ ?_
    | with_reducible refine .ite ?_ ?_
    | dsimp only
    | split

theorem execLogClear_ends (s : State) : Ends [.dram] s (execLogClear s) := by
  unfold execLogClear
  refine State.effect_ends ?_
  repeat' first
    | exact (rfl : true = true)
    | with_reducible exact .refl _ _
    | refine .via (by with_reducible exact Live.dramLogClear_keeps ..) ?_ ?_
    | with_reducible refine .ite ?_ ?_
    | dsimp only
    | split

theorem execRefreshDue_ends (c rank : Fin 2) (fill0 fill4 : Nat) (s : State) : Ends [.store, .dram, .events] s (execRefreshDue c rank fill0 fill4 s) := by
  unfold execRefreshDue
  refine State.effect_ends ?_
  repeat' first
    | exact (rfl : true = true)
    | with_reducible exact .refl _ _
    | refine .via (by with_reducible exact Live.refreshDue_keeps ..) ?_ ?_
    | with_reducible refine .ite ?_ ?_
    | dsimp only
    | split

theorem execSelfRefreshExit_ends (c : Fin 2) (early : Bool) (s : State) : Ends [.store, .dram, .events] s (execSelfRefreshExit c early s) := by
  unfold execSelfRefreshExit
  refine State.effect_ends ?_
  repeat' first
    | exact (rfl : true = true)
    | with_reducible exact .refl _ _
    | refine .via (by with_reducible exact Live.selfRefreshExit_keeps ..) ?_ ?_
    | refine .via (by with_reducible exact Live.count_keeps ..) ?_ ?_
    | with_reducible refine .ite ?_ ?_
    | dsimp only
    | split

end Sys2Proof.Machine
end

