-- ==== Sys2Proof/Laws/ExecEngines.lean ====
section
/-! SUPPORT. What the commands of Machine/Engines.lean may change. -/

namespace Sys2Proof.Machine

open Sys2Proof

theorem execCompress_ends (s : State) : Ends [.store, .bpm, .comp, .mover, .events] s (execCompress s) := by
  unfold execCompress
  refine State.effect_ends ?_
  repeat' first
    | exact (rfl : true = true)
    | with_reducible exact .refl _ _
    | refine .via (by with_reducible exact Live.jobStart_keeps ..) ?_ ?_
    | with_reducible refine .ite ?_ ?_
    | dsimp only
    | split

theorem execCopy1d_ends (s : State) : Ends [.store, .bpm, .comp, .mover, .events] s (execCopy1d s) := by
  unfold execCopy1d
  refine State.effect_ends ?_
  repeat' first
    | exact (rfl : true = true)
    | with_reducible exact .refl _ _
    | refine .via (by with_reducible exact Live.jobStart_keeps ..) ?_ ?_
    | with_reducible refine .ite ?_ ?_
    | dsimp only
    | split

theorem execCopy2d_ends (s : State) : Ends [.store, .bpm, .comp, .mover, .events] s (execCopy2d s) := by
  unfold execCopy2d
  refine State.effect_ends ?_
  repeat' first
    | exact (rfl : true = true)
    | with_reducible exact .refl _ _
    | refine .via (by with_reducible exact Live.jobStart_keeps ..) ?_ ?_
    | with_reducible refine .ite ?_ ?_
    | dsimp only
    | split

theorem execDecompress_ends (s : State) : Ends [.store, .bpm, .comp, .mover, .events] s (execDecompress s) := by
  unfold execDecompress
  refine State.effect_ends ?_
  repeat' first
    | exact (rfl : true = true)
    | with_reducible exact .refl _ _
    | refine .via (by with_reducible exact Live.jobStart_keeps ..) ?_ ?_
    | with_reducible refine .ite ?_ ?_
    | dsimp only
    | split

theorem execJobAdmit_ends (e : Fin 2) (source : Fin 10) (desc : List Byte) (s : State) : Ends [.flannel, .comp, .mover, .host, .events] s (execJobAdmit e source desc s) := by
  unfold execJobAdmit
  refine State.effect_ends ?_
  repeat' first
    | exact (rfl : true = true)
    | with_reducible exact .refl _ _
    | refine .via (by with_reducible exact Live.jobAdmit_keeps ..) ?_ ?_
    | with_reducible refine .ite ?_ ?_
    | dsimp only
    | split

theorem execJobCompletionPost_ends (e : Fin 2) (s : State) : Ends [.flannel, .comp, .mover, .host] s (execJobCompletionPost e s) := by
  unfold execJobCompletionPost
  refine State.effect_ends ?_
  repeat' first
    | exact (rfl : true = true)
    | with_reducible exact .refl _ _
    | refine .via (by with_reducible exact Live.jobPost_keeps ..) ?_ ?_
    | with_reducible refine .ite ?_ ?_
    | dsimp only
    | split

theorem execJobEnd_ends (e : Fin 2) (bad : Bool) (s : State) : Ends [.store, .bpm, .comp, .mover, .events, .free] s (execJobEnd e bad s) := by
  unfold execJobEnd
  refine State.effect_ends ?_
  repeat' first
    | exact (rfl : true = true)
    | with_reducible exact .refl _ _
    | refine .via (by with_reducible exact Live.jobEnd_keeps ..) ?_ ?_
    | with_reducible refine .ite ?_ ?_
    | dsimp only
    | split

end Sys2Proof.Machine
end

