-- ==== Sys2Proof/Laws/ExecEventRows.lean ====
section
/-! SUPPORT. What the commands of Machine/EventRows.lean may change. -/

namespace Sys2Proof.Machine

open Sys2Proof

theorem execChatterWindowEnd_ends (i : Fin 16) (s : State) : Ends [.store, .events] s (execChatterWindowEnd i s) := by
  unfold execChatterWindowEnd
  refine State.effect_ends ?_
  repeat' first
    | exact (rfl : true = true)
    | with_reducible exact .refl _ _
    | refine .via (by with_reducible exact Live.chatterWindowEnd_keeps ..) ?_ ?_
    | with_reducible refine .ite ?_ ?_
    | dsimp only
    | split

theorem execClear_ends (g : Fin 20) (tn : Fin 8) (mask : Nat) (s : State) : Ends [.events] s (execClear g tn mask s) := by
  unfold execClear
  refine State.effect_ends ?_
  repeat' first
    | exact (rfl : true = true)
    | with_reducible exact .refl _ _
    | refine .via (by with_reducible exact Live.clearLatches_keeps ..) ?_ ?_
    | with_reducible refine .ite ?_ ?_
    | dsimp only
    | split

theorem execGpioLevelChange_ends (i : Fin 16) (s : State) : Ends [.store, .beat, .modes, .events] s (execGpioLevelChange i s) := by
  unfold execGpioLevelChange
  refine State.effect_ends ?_
  repeat' first
    | exact (rfl : true = true)
    | with_reducible exact .refl _ _
    | refine .via (by with_reducible exact Live.gpioEdge_keeps ..) ?_ ?_
    | with_reducible refine .ite ?_ ?_
    | dsimp only
    | split

theorem execGpioSample_ends (raw : Nat) (s : State) : Ends [.store, .events] s (execGpioSample raw s) := by
  unfold execGpioSample
  refine State.effect_ends ?_
  repeat' first
    | exact (rfl : true = true)
    | with_reducible exact .refl _ _
    | refine .via (by with_reducible exact Live.gpioSample_keeps ..) ?_ ?_
    | with_reducible refine .ite ?_ ?_
    | dsimp only
    | split

theorem execGpioStuck_ends (i : Fin 16) (s : State) : Ends [.store, .events] s (execGpioStuck i s) := by
  unfold execGpioStuck
  refine State.effect_ends ?_
  repeat' first
    | exact (rfl : true = true)
    | with_reducible exact .refl _ _
    | refine .via (by with_reducible exact Live.gpioStuck_keeps ..) ?_ ?_
    | with_reducible refine .ite ?_ ?_
    | dsimp only
    | split

theorem execSnapshotCapture_ends (s : State) : Ends [.store, .events] s (execSnapshotCapture s) := by
  unfold execSnapshotCapture
  refine State.effect_ends ?_
  repeat' first
    | exact (rfl : true = true)
    | with_reducible exact .refl _ _
    | refine .via (by with_reducible exact Live.snapshotCapture_keeps ..) ?_ ?_
    | with_reducible refine .ite ?_ ?_
    | dsimp only
    | split

theorem execSnapshotDone_ends (s : State) : Ends [.events] s (execSnapshotDone s) := by
  unfold execSnapshotDone
  refine State.effect_ends ?_
  repeat' first
    | exact (rfl : true = true)
    | with_reducible exact .refl _ _
    | refine .via (by with_reducible exact Live.snapshotDone_keeps ..) ?_ ?_
    | with_reducible refine .ite ?_ ?_
    | dsimp only
    | split

theorem execSpacingExpiry_ends (src : Fin 640) (tn : Fin 8) (s : State) : Ends [.store, .events] s (execSpacingExpiry src tn s) := by
  unfold execSpacingExpiry
  refine State.effect_ends ?_
  repeat' first
    | exact (rfl : true = true)
    | with_reducible exact .refl _ _
    | refine .via (by with_reducible exact Live.spacingExpiry_keeps ..) ?_ ?_
    | with_reducible refine .ite ?_ ?_
    | dsimp only
    | split

theorem execUnmask_ends (g : Fin 20) (tn : Fin 8) (mask : Nat) (s : State) : Ends [.events] s (execUnmask g tn mask s) := by
  unfold execUnmask
  refine State.effect_ends ?_
  repeat' first
    | exact (rfl : true = true)
    | with_reducible exact .refl _ _
    | refine .via (by with_reducible exact Live.unmask_keeps ..) ?_ ?_
    | with_reducible refine .ite ?_ ?_
    | dsimp only
    | split

end Sys2Proof.Machine
end

