-- ==== Sys2Proof/Laws/ExecFlannel.lean ====
section
/-! SUPPORT. What the commands of Machine/Flannel.lean may change. -/

namespace Sys2Proof.Machine

open Sys2Proof

theorem execBackfillAck_ends (n : Fin 8) (payload : List Byte) (s : State) : Ends [.flannel] s (execBackfillAck n payload s) := by
  unfold execBackfillAck
  refine State.effect_ends ?_
  repeat' first
    | exact (rfl : true = true)
    | with_reducible exact .refl _ _
    | refine .via (by with_reducible exact Live.setFlannel_keeps ..) ?_ ?_
    | with_reducible refine .ite ?_ ?_
    | dsimp only
    | split

theorem execBackfillSend_ends (at_ : Nat) (s : State) : Ends [.store, .plane, .flannel, .events] s (execBackfillSend at_ s) := by
  unfold execBackfillSend
  refine State.effect_ends ?_
  repeat' first
    | exact (rfl : true = true)
    | with_reducible exact .refl _ _
    | refine .via (by with_reducible exact Live.backfillSend_keeps ..) ?_ ?_
    | refine .via (by with_reducible exact Live.at_keeps ..) ?_ ?_
    | with_reducible refine .ite ?_ ?_
    | dsimp only
    | split

theorem execDrainAck_ends (f : Fin 8) (s : State) : Ends [.store, .bpm, .flannel, .host, .events, .recoveries] s (execDrainAck f s) := by
  unfold execDrainAck
  refine State.effect_ends ?_
  repeat' first
    | exact (rfl : true = true)
    | with_reducible exact .refl _ _
    | refine .via (by with_reducible exact Live.drainAck_keeps ..) ?_ ?_
    | with_reducible refine .ite ?_ ?_
    | dsimp only
    | split

theorem execDrainOffer_ends (f : Fin 8) (s : State) : Ends [.store, .bpm, .flannel, .host, .events] s (execDrainOffer f s) := by
  unfold execDrainOffer
  refine State.effect_ends ?_
  repeat' first
    | exact (rfl : true = true)
    | with_reducible exact .refl _ _
    | refine .via (by with_reducible exact Live.drainOffer_keeps ..) ?_ ?_
    | with_reducible refine .ite ?_ ?_
    | dsimp only
    | split

theorem execFlnBackfillTimeout_ends (s : State) : Ends [.store, .flannel, .events] s (execFlnBackfillTimeout s) := by
  unfold execFlnBackfillTimeout
  refine State.effect_ends ?_
  repeat' first
    | exact (rfl : true = true)
    | with_reducible exact .refl _ _
    | refine .via (by with_reducible exact Live.backfillLate_keeps ..) ?_ ?_
    | with_reducible refine .ite ?_ ?_
    | dsimp only
    | split

theorem execFlnDrainTimeout_ends (s : State) : Ends [.store, .bpm, .flannel, .events] s (execFlnDrainTimeout s) := by
  unfold execFlnDrainTimeout
  refine State.effect_ends ?_
  repeat' first
    | exact (rfl : true = true)
    | with_reducible exact .refl _ _
    | refine .via (by with_reducible exact Live.drainLate_keeps ..) ?_ ?_
    | with_reducible refine .ite ?_ ?_
    | dsimp only
    | split

theorem execHeartbeatCheck_ends (s : State) : Ends [.store, .bpm, .flannel, .events, .recoveries] s (execHeartbeatCheck s) := by
  unfold execHeartbeatCheck
  refine State.effect_ends ?_
  repeat' first
    | exact (rfl : true = true)
    | with_reducible exact .refl _ _
    | refine .via (by with_reducible exact Live.heartbeatCheck_keeps ..) ?_ ?_
    | with_reducible refine .ite ?_ ?_
    | dsimp only
    | split

theorem execHeartbeatSend_ends (at_ : Nat) (s : State) : Ends [.store, .plane, .flannel, .events] s (execHeartbeatSend at_ s) := by
  unfold execHeartbeatSend
  refine State.effect_ends ?_
  repeat' first
    | exact (rfl : true = true)
    | with_reducible exact .refl _ _
    | refine .via (by with_reducible exact Live.probeWork_keeps ..) ?_ ?_
    | refine .via (by with_reducible exact Live.setFlannel_keeps ..) ?_ ?_
    | refine .via (by with_reducible exact Live.at_keeps ..) ?_ ?_
    | with_reducible refine .ite ?_ ?_
    | dsimp only
    | refine .of2 (by assumption) ?_
    | refine .of1 (by assumption) ?_
    | split

theorem execIndexExport_ends (n : Fin 8) (s : State) : Ends [.store, .flannel, .events] s (execIndexExport n s) := by
  unfold execIndexExport
  refine State.effect_ends ?_
  repeat' first
    | exact (rfl : true = true)
    | with_reducible exact .refl _ _
    | refine .via (by with_reducible exact Live.indexExport_keeps ..) ?_ ?_
    | with_reducible refine .ite ?_ ?_
    | dsimp only
    | split

theorem execKeepCopy_ends (at_ : Nat) (linkError : Option (Fin 8)) (s : State) : Ends [.store, .plane, .bpm, .flannel, .events, .recoveries] s (execKeepCopy at_ linkError s) := by
  unfold execKeepCopy
  refine State.effect_ends ?_
  repeat' first
    | exact (rfl : true = true)
    | with_reducible exact .refl _ _
    | refine .via (by with_reducible exact Live.takeFrom_keeps ..) ?_ ?_
    | refine .via (by with_reducible exact Live.at_keeps ..) ?_ ?_
    | refine .via (by with_reducible exact Live.keepCopy_keeps ..) ?_ ?_
    | refine .via (by with_reducible exact Live.linkMemoryError_keeps ..) ?_ ?_
    | with_reducible refine .ite ?_ ?_
    | dsimp only
    | refine .of2 (by assumption) ?_
    | refine .of1 (by assumption) ?_
    | split

theorem execPrerollFree_ends (s : State) : Ends [.store, .bpm, .flannel, .events] s (execPrerollFree s) := by
  unfold execPrerollFree
  refine State.effect_ends ?_
  repeat' first
    | exact (rfl : true = true)
    | with_reducible exact .refl _ _
    | refine .via (by with_reducible exact Live.prerollAge_keeps ..) ?_ ?_
    | with_reducible refine .ite ?_ ?_
    | dsimp only
    | split

theorem execProbeReply_ends (port : Fin 56) (src : Nat) (payload : List Byte) (s : State) : Ends [.store, .plane, .flannel, .events] s (execProbeReply port src payload s) := by
  unfold execProbeReply
  refine State.effect_ends ?_
  repeat' first
    | exact (rfl : true = true)
    | with_reducible exact .refl _ _
    | refine .via (by with_reducible exact Live.probeWork_keeps ..) ?_ ?_
    | with_reducible refine .ite ?_ ?_
    | dsimp only
    | split

theorem execPurge_ends (s : Fin 96) (st : State) : Ends [.store, .bpm, .flannel, .host, .events, .recoveries] st (execPurge s st) := by
  unfold execPurge
  refine State.effect_ends ?_
  repeat' first
    | exact (rfl : true = true)
    | with_reducible exact .refl _ _
    | refine .via (by with_reducible exact Live.purge_keeps ..) ?_ ?_
    | with_reducible refine .ite ?_ ?_
    | dsimp only
    | split

theorem execSegmentAgeClose_ends (s : State) : Ends [.flannel, .events] s (execSegmentAgeClose s) := by
  unfold execSegmentAgeClose
  refine State.effect_ends ?_
  repeat' first
    | exact (rfl : true = true)
    | with_reducible exact .refl _ _
    | refine .via (by with_reducible exact Live.segmentsAge_keeps ..) ?_ ?_
    | with_reducible refine .ite ?_ ?_
    | dsimp only
    | split

theorem execZeroFillDone_ends (pool : Fin 6) (index : Nat) (s : State) : Ends [.store, .bpm, .flannel, .events, .recoveries] s (execZeroFillDone pool index s) := by
  unfold execZeroFillDone
  refine State.effect_ends ?_
  repeat' first
    | exact (rfl : true = true)
    | with_reducible exact .refl _ _
    | refine .via (by with_reducible exact Live.fillDone_keeps ..) ?_ ?_
    | with_reducible refine .ite ?_ ?_
    | dsimp only
    | split

end Sys2Proof.Machine
end

