-- ==== Sys2Proof/Laws/ExecHost.lean ====
section
/-! SUPPORT. What the commands of Machine/Host.lean may change. -/

namespace Sys2Proof.Machine

open Sys2Proof

theorem execCqCoalesceTimeout_ends (f : Fin 8) (k : Fin 13) (s : State) : Ends [.host] s (execCqCoalesceTimeout f k s) := by
  unfold execCqCoalesceTimeout
  refine State.effect_ends ?_
  repeat' first
    | exact (rfl : true = true)
    | with_reducible exact .refl _ _
    | refine .via (by with_reducible exact Live.ringSignal_keeps ..) ?_ ?_
    | with_reducible refine .ite ?_ ?_
    | dsimp only
    | split

theorem execCqHeadWrite_ends (f : Fin 8) (k : Fin 13) (v : Nat) (s : State) : Ends [.store, .host, .events] s (execCqHeadWrite f k v s) := by
  unfold execCqHeadWrite
  refine State.effect_ends ?_
  repeat' first
    | exact (rfl : true = true)
    | with_reducible exact .refl _ _
    | refine .via (by with_reducible exact Live.cqHeadWrite_keeps ..) ?_ ?_
    | with_reducible refine .ite ?_ ?_
    | dsimp only
    | split

theorem execDmaReadFailed_ends (f : Fin 8) (k : Fin 13) (data poisoned timeout : Bool) (s : State) : Ends [.store, .host, .events, .free] s (execDmaReadFailed f k data poisoned timeout s) := by
  unfold execDmaReadFailed
  refine State.effect_ends ?_
  repeat' first
    | exact (rfl : true = true)
    | with_reducible exact .refl _ _
    | refine .via (by with_reducible exact Live.raise_keeps ..) ?_ ?_
    | refine .via (by with_reducible exact Live.stopRing_keeps ..) ?_ ?_
    | refine .via (by with_reducible exact Live.txComplete_keeps ..) ?_ ?_
    | refine .via (by with_reducible exact Live.tookFree_keeps ..) ?_ ?_
    | refine .via (by with_reducible exact Live.count_keeps ..) ?_ ?_
    | refine .via (by with_reducible exact Live.loadComplete_keeps ..) ?_ ?_
    | refine .via (by with_reducible exact Live.markBank_keeps ..) ?_ ?_
    | refine .via (by with_reducible exact Live.setHost_keeps ..) ?_ ?_
    | with_reducible refine .ite ?_ ?_
    | dsimp only
    | refine .of2 (by assumption) ?_
    | refine .of1 (by assumption) ?_
    | split

theorem execDrainBufferPost_ends (f : Fin 8) (s : State) : Ends [.host] s (execDrainBufferPost f s) := by
  unfold execDrainBufferPost
  refine State.effect_ends ?_
  repeat' first
    | exact (rfl : true = true)
    | with_reducible exact .refl _ _
    | refine .via (by with_reducible exact Live.setFn_keeps ..) ?_ ?_
    | refine .via (by with_reducible exact Live.dropTaken_keeps ..) ?_ ?_
    | with_reducible refine .ite ?_ ?_
    | dsimp only
    | refine .of2 (by assumption) ?_
    | refine .of1 (by assumption) ?_
    | split

theorem execHostAlive_ends (f : Fin 8) (s : State) : Ends [.host] s (execHostAlive f s) := by
  unfold execHostAlive
  refine State.effect_ends ?_
  repeat' first
    | exact (rfl : true = true)
    | with_reducible exact .refl _ _
    | refine .via (by with_reducible exact Live.hostAlive_keeps ..) ?_ ?_
    | with_reducible refine .ite ?_ ?_
    | dsimp only
    | split

theorem execHostWatchdogExpiry_ends (f : Fin 8) (s : State) : Ends [.store, .host, .events] s (execHostWatchdogExpiry f s) := by
  unfold execHostWatchdogExpiry
  refine State.effect_ends ?_
  repeat' first
    | exact (rfl : true = true)
    | with_reducible exact .refl _ _
    | refine .via (by with_reducible exact Live.samplePresence_keeps ..) ?_ ?_
    | with_reducible refine .ite ?_ ?_
    | dsimp only
    | split

theorem execMalformedTlp_ends (ecrc : Bool) (s : State) : Ends [.store, .events] s (execMalformedTlp ecrc s) := by
  unfold execMalformedTlp
  refine State.effect_ends ?_
  repeat' first
    | exact (rfl : true = true)
    | with_reducible exact .refl _ _
    | refine .via (by with_reducible exact Live.raise_keeps ..) ?_ ?_
    | with_reducible refine .ite ?_ ?_
    | dsimp only
    | split

theorem execPcieLinkUp_ends (gen width : Fin 4) (s : State) : Ends [.store, .host, .events] s (execPcieLinkUp gen width s) := by
  unfold execPcieLinkUp
  refine State.effect_ends ?_
  repeat' first
    | exact (rfl : true = true)
    | with_reducible exact .refl _ _
    | refine .via (by with_reducible exact Live.wr_keeps ..) ?_ ?_
    | refine .via (by with_reducible exact Live.setHost_keeps ..) ?_ ?_
    | refine .via (by with_reducible exact Live.raise_keeps ..) ?_ ?_
    | with_reducible refine .ite ?_ ?_
    | dsimp only
    | split

theorem execRingDisable_ends (f : Fin 8) (k : Fin 13) (control : Nat) (s : State) : Ends [.store, .host, .events] s (execRingDisable f k control s) := by
  unfold execRingDisable
  refine State.effect_ends ?_
  repeat' first
    | exact (rfl : true = true)
    | with_reducible exact .refl _ _
    | refine .via (by with_reducible exact Live.ringSwitch_keeps ..) ?_ ?_
    | with_reducible refine .ite ?_ ?_
    | dsimp only
    | split

theorem execRingEnable_ends (f : Fin 8) (k : Fin 13) (control : Nat) (s : State) : Ends [.store, .host, .events] s (execRingEnable f k control s) := by
  unfold execRingEnable
  refine State.effect_ends ?_
  repeat' first
    | exact (rfl : true = true)
    | with_reducible exact .refl _ _
    | refine .via (by with_reducible exact Live.ringSwitch_keeps ..) ?_ ?_
    | with_reducible refine .ite ?_ ?_
    | dsimp only
    | split

theorem execRingQuiesced_ends (f : Fin 8) (k : Fin 13) (s : State) : Ends [.host] s (execRingQuiesced f k s) := by
  unfold execRingQuiesced
  refine State.effect_ends ?_
  repeat' first
    | exact (rfl : true = true)
    | with_reducible exact .refl _ _
    | refine .via (by with_reducible exact Live.setRing_keeps ..) ?_ ?_
    | with_reducible refine .ite ?_ ?_
    | dsimp only
    | split

theorem execRxFrameHandover_ends (entry : List Byte) (at_ : Nat) (s : State) : Ends [.store, .plane, .host, .events] s (execRxFrameHandover entry at_ s) := by
  unfold execRxFrameHandover
  refine State.effect_ends ?_
  repeat' first
    | exact (rfl : true = true)
    | with_reducible exact .refl _ _
    | refine .via (by with_reducible exact Live.rxHandover_keeps ..) ?_ ?_
    | refine .via (by with_reducible exact Live.at_keeps ..) ?_ ?_
    | with_reducible refine .ite ?_ ?_
    | dsimp only
    | split

theorem execSqEntryTake_ends (f : Fin 8) (k : Fin 13) (entry : List Byte) (s : State) : Ends [.store, .host, .events] s (execSqEntryTake f k entry s) := by
  unfold execSqEntryTake
  refine State.effect_ends ?_
  repeat' first
    | exact (rfl : true = true)
    | with_reducible exact .refl _ _
    | refine .via (by with_reducible exact Live.stopRing_keeps ..) ?_ ?_
    | refine .via (by with_reducible exact Live.takeEntry_keeps ..) ?_ ?_
    | with_reducible refine .ite ?_ ?_
    | dsimp only
    | split

theorem execSqTailWrite_ends (f : Fin 8) (k : Fin 13) (v : Nat) (s : State) : Ends [.store, .host, .events] s (execSqTailWrite f k v s) := by
  unfold execSqTailWrite
  refine State.effect_ends ?_
  repeat' first
    | exact (rfl : true = true)
    | with_reducible exact .refl _ _
    | refine .via (by with_reducible exact Live.sqTailWrite_keeps ..) ?_ ?_
    | with_reducible refine .ite ?_ ?_
    | dsimp only
    | split

theorem execTableLoad_ends (f : Fin 8) (entry : List Byte) (s : State) : Ends [.store, .host, .events] s (execTableLoad f entry s) := by
  unfold execTableLoad
  refine State.effect_ends ?_
  repeat' first
    | exact (rfl : true = true)
    | with_reducible exact .refl _ _
    | refine .via (by with_reducible exact Live.tableLoad_keeps ..) ?_ ?_
    | with_reducible refine .ite ?_ ?_
    | dsimp only
    | split

theorem execTableLoadDone_ends (s : State) : Ends [.store, .host, .events] s (execTableLoadDone s) := by
  unfold execTableLoadDone
  refine State.effect_ends ?_
  repeat' first
    | exact (rfl : true = true)
    | with_reducible exact .refl _ _
    | refine .via (by with_reducible exact Live.loadComplete_keeps ..) ?_ ?_
    | refine .via (by with_reducible exact Live.markBank_keeps ..) ?_ ?_
    | refine .via (by with_reducible exact Live.setHost_keeps ..) ?_ ?_
    | with_reducible refine .ite ?_ ?_
    | dsimp only
    | refine .of2 (by assumption) ?_
    | refine .of1 (by assumption) ?_
    | split

theorem execTxFrame_ends (f : Fin 8) (k : Fin 4) (data : List Byte) (poison : Bool) (at_ : Nat) (s : State) : Ends [.store, .plane, .host, .events, .free] s (execTxFrame f k data poison at_ s) := by
  unfold execTxFrame
  refine State.effect_ends ?_
  repeat' first
    | exact (rfl : true = true)
    | with_reducible exact .refl _ _
    | refine .via (by with_reducible exact Live.at_keeps ..) ?_ ?_
    | refine .via (by with_reducible exact Live.txComplete_keeps ..) ?_ ?_
    | refine .via (by with_reducible exact Live.tookFree_keeps ..) ?_ ?_
    | refine .via (by with_reducible exact Live.poisonFromHost_keeps ..) ?_ ?_
    | refine .via (by with_reducible exact Live.count_keeps ..) ?_ ?_
    | refine .via (by with_reducible exact Live.blk_keeps ..) ?_ ?_
    | refine .via (by with_reducible exact Live.txEnter_keeps ..) ?_ ?_
    | with_reducible refine .ite ?_ ?_
    | dsimp only
    | refine .of2 (by assumption) ?_
    | refine .of1 (by assumption) ?_
    | split

end Sys2Proof.Machine
end

