-- ==== Sys2Proof/Laws/ExecHostRegs.lean ====
section
/-! SUPPORT. What the commands of Machine/HostRegs.lean may change. -/

namespace Sys2Proof.Machine

open Sys2Proof

theorem execApertureRead_ends (f : Fin 8) (offset len : Nat) (s : State) : Ends [.store, .host, .events] s (execApertureRead f offset len s) := by
  unfold execApertureRead
  refine State.effect_ends ?_
  repeat' first
    | exact (rfl : true = true)
    | with_reducible exact .refl _ _
    | refine .via (by with_reducible exact Live.apertureRead_keeps ..) ?_ ?_
    | with_reducible refine .ite ?_ ?_
    | dsimp only
    | split

theorem execApertureWrite_ends (f : Fin 8) (offset : Nat) (data : List Byte) (poison : Bool) (s : State) : Ends [.store, .mailboxes, .bpm, .host, .events] s (execApertureWrite f offset data poison s) := by
  unfold execApertureWrite
  refine State.effect_ends ?_
  repeat' first
    | exact (rfl : true = true)
    | with_reducible exact .refl _ _
    | refine .via (by with_reducible exact Live.barWrite_keeps ..) ?_ ?_
    | with_reducible refine .ite ?_ ?_
    | dsimp only
    | split

theorem execMbxDoorbell_ends (f : Fin 8) (s : State) : Ends [.store, .mailboxes, .host, .events] s (execMbxDoorbell f s) := by
  unfold execMbxDoorbell
  refine State.effect_ends ?_
  repeat' first
    | exact (rfl : true = true)
    | with_reducible exact .refl _ _
    | refine .via (by with_reducible exact Live.doorbell_keeps ..) ?_ ?_
    | with_reducible refine .ite ?_ ?_
    | dsimp only
    | split

theorem execMbxRspRelease_ends (f : Fin 8) (s : State) : Ends [.mailboxes, .host] s (execMbxRspRelease f s) := by
  unfold execMbxRspRelease
  refine State.effect_ends ?_
  repeat' first
    | exact (rfl : true = true)
    | with_reducible exact .refl _ _
    | refine .via (by with_reducible exact Live.rspRelease_keeps ..) ?_ ?_
    | with_reducible refine .ite ?_ ?_
    | dsimp only
    | split

theorem execRecoveryCommit_ends (length : Nat) (s : State) : Ends [.host] s (execRecoveryCommit length s) := by
  unfold execRecoveryCommit
  refine State.effect_ends ?_
  repeat' first
    | exact (rfl : true = true)
    | with_reducible exact .refl _ _
    | refine .via (by with_reducible exact Live.recoveryCommit_keeps ..) ?_ ?_
    | with_reducible refine .ite ?_ ?_
    | dsimp only
    | split

theorem execRecoveryUsed_ends (s : State) : Ends [.store, .beat, .dict, .can, .sessions, .mailboxes, .mode, .modes, .tenancies, .power, .plane, .bpm, .flannel, .dram, .comp, .mover, .audio, .host, .events, .recoveries, .enclosure] s (execRecoveryUsed s) := by
  unfold execRecoveryUsed
  refine State.effect_ends ?_
  repeat' first
    | exact (rfl : true = true)
    | with_reducible exact .refl _ _
    | refine .via (by with_reducible exact Live.recoveryUse_keeps ..) ?_ ?_
    | with_reducible refine .ite ?_ ?_
    | dsimp only
    | split

theorem execRegisterWrite_ends (f : Fin 8) (offset : Nat) (data : List Byte) (poison : Bool) (s : State) : Ends [.store, .mailboxes, .bpm, .host, .events] s (execRegisterWrite f offset data poison s) := by
  unfold execRegisterWrite
  refine State.effect_ends ?_
  repeat' first
    | exact (rfl : true = true)
    | with_reducible exact .refl _ _
    | refine .via (by with_reducible exact Live.barWrite_keeps ..) ?_ ?_
    | with_reducible refine .ite ?_ ?_
    | dsimp only
    | split

end Sys2Proof.Machine
end

