-- ==== Sys2Proof/Laws/ExecHostReset.lean ====
section
/-! SUPPORT. What the commands of Machine/HostReset.lean may change. -/

namespace Sys2Proof.Machine

open Sys2Proof

theorem execFlrCleanup_ends (f : Fin 8) (s : State) : Ends [.store, .dict, .mailboxes, .bpm, .flannel, .comp, .mover, .host, .events, .recoveries] s (execFlrCleanup f s) := by
  unfold execFlrCleanup
  refine State.effect_ends ?_
  repeat' first
    | exact (rfl : true = true)
    | with_reducible exact .refl _ _
    | refine .via (by with_reducible exact Live.flrCleanup_keeps ..) ?_ ?_
    | with_reducible refine .ite ?_ ?_
    | dsimp only
    | split

theorem execFlrDone_ends (f : Fin 8) (s : State) : Ends [.store, .dict, .modes, .bpm, .host, .events, .recoveries] s (execFlrDone f s) := by
  unfold execFlrDone
  refine State.effect_ends ?_
  repeat' first
    | exact (rfl : true = true)
    | with_reducible exact .refl _ _
    | refine .via (by with_reducible exact Live.flrDone_keeps ..) ?_ ?_
    | with_reducible refine .ite ?_ ?_
    | dsimp only
    | split

theorem execFlrStart_ends (f : Fin 8) (s : State) : Ends [.store, .host, .events, .recoveries] s (execFlrStart f s) := by
  unfold execFlrStart
  refine State.effect_ends ?_
  repeat' first
    | exact (rfl : true = true)
    | with_reducible exact .refl _ _
    | refine .via (by with_reducible exact Live.flrOf_keeps ..) ?_ ?_
    | with_reducible refine .ite ?_ ?_
    | dsimp only
    | split

theorem execPcieLinkDown_ends (s : State) : Ends [.store, .host, .events, .recoveries] s (execPcieLinkDown s) := by
  unfold execPcieLinkDown
  refine State.effect_ends ?_
  repeat' first
    | exact (rfl : true = true)
    | with_reducible exact .refl _ _
    | refine .via (by with_reducible exact Live.pcieDown_keeps ..) ?_ ?_
    | with_reducible refine .ite ?_ ?_
    | dsimp only
    | split

end Sys2Proof.Machine
end

