-- ==== Sys2Proof/Laws/ExecMac.lean ====
section
/-! SUPPORT. What the commands of Machine/Mac.lean may change. -/

namespace Sys2Proof.Machine

open Sys2Proof

theorem execAddStatic_ends (m : Fin 15) (s : State) : Ends [.store, .modes, .plane, .events] s (execAddStatic m s) := by
  unfold execAddStatic
  refine State.effect_ends ?_
  repeat' first
    | exact (rfl : true = true)
    | with_reducible exact .refl _ _
    | refine .via (by with_reducible exact Live.addStatic_keeps ..) ?_ ?_
    | with_reducible refine .ite ?_ ?_
    | dsimp only
    | split

theorem execAgeOut_ends (loc : Fin 262144) (s : State) : Ends [.store, .plane] s (execAgeOut loc s) := by
  unfold execAgeOut
  refine State.effect_ends ?_
  repeat' first
    | exact (rfl : true = true)
    | with_reducible exact .refl _ _
    | refine .via (by with_reducible exact Live.showMac_keeps ..) ?_ ?_
    | refine .via (by with_reducible exact Live.ageVisit_keeps ..) ?_ ?_
    | with_reducible refine .ite ?_ ?_
    | dsimp only
    | split

theorem execDampingWindowEnd_ends (s : State) : Ends [.store, .plane, .events] s (execDampingWindowEnd s) := by
  unfold execDampingWindowEnd
  refine State.effect_ends ?_
  repeat' first
    | exact (rfl : true = true)
    | with_reducible exact .refl _ _
    | refine .via (by with_reducible exact Live.dampingStep_keeps ..) ?_ ?_
    | with_reducible refine .ite ?_ ?_
    | dsimp only
    | split

theorem execDelete_ends (m : Fin 15) (s : State) : Ends [.store, .modes, .plane, .events] s (execDelete m s) := by
  unfold execDelete
  refine State.effect_ends ?_
  repeat' first
    | exact (rfl : true = true)
    | with_reducible exact .refl _ _
    | refine .via (by with_reducible exact Live.macDelete_keeps ..) ?_ ?_
    | with_reducible refine .ite ?_ ?_
    | dsimp only
    | split

theorem execFind_ends (m : Fin 15) (s : State) : Ends [.store, .events] s (execFind m s) := by
  unfold execFind
  refine State.effect_ends ?_
  repeat' first
    | exact (rfl : true = true)
    | with_reducible exact .refl _ _
    | refine .via (by with_reducible exact Live.macFindOp_keeps ..) ?_ ?_
    | with_reducible refine .ite ?_ ?_
    | dsimp only
    | split

theorem execFlushFid_ends (m : Fin 15) (s : State) : Ends [.store, .plane, .events] s (execFlushFid m s) := by
  unfold execFlushFid
  refine State.effect_ends ?_
  repeat' first
    | exact (rfl : true = true)
    | with_reducible exact .refl _ _
    | refine .via (by with_reducible exact Live.flushFidOp_keeps ..) ?_ ?_
    | with_reducible refine .ite ?_ ?_
    | dsimp only
    | split

theorem execFlushPort_ends (m : Fin 15) (s : State) : Ends [.store, .plane, .events] s (execFlushPort m s) := by
  unfold execFlushPort
  refine State.effect_ends ?_
  repeat' first
    | exact (rfl : true = true)
    | with_reducible exact .refl _ _
    | refine .via (by with_reducible exact Live.flushPortOp_keeps ..) ?_ ?_
    | with_reducible refine .ite ?_ ?_
    | dsimp only
    | split

theorem execFlushTenancy_ends (m : Fin 15) (s : State) : Ends [.store, .plane, .events] s (execFlushTenancy m s) := by
  unfold execFlushTenancy
  refine State.effect_ends ?_
  repeat' first
    | exact (rfl : true = true)
    | with_reducible exact .refl _ _
    | refine .via (by with_reducible exact Live.flushTenancyOp_keeps ..) ?_ ?_
    | with_reducible refine .ite ?_ ?_
    | dsimp only
    | split

theorem execLearnApply_ends (s : State) : Ends [.store, .plane, .events] s (execLearnApply s) := by
  unfold execLearnApply
  refine State.effect_ends ?_
  repeat' first
    | exact (rfl : true = true)
    | with_reducible exact .refl _ _
    | refine .via (by with_reducible exact Live.learnStep_keeps ..) ?_ ?_
    | with_reducible refine .ite ?_ ?_
    | dsimp only
    | split

theorem execMacFlushDone_ends (s : State) : Ends [.store, .plane, .events] s (execMacFlushDone s) := by
  unfold execMacFlushDone
  refine State.effect_ends ?_
  repeat' first
    | exact (rfl : true = true)
    | with_reducible exact .refl _ _
    | refine .via (by with_reducible exact Live.flushStepEnd_keeps ..) ?_ ?_
    | with_reducible refine .ite ?_ ?_
    | dsimp only
    | split

theorem execSettle_ends (s : State) : Ends [.store, .plane] s (execSettle s) := by
  unfold execSettle
  refine State.effect_ends ?_
  repeat' first
    | exact (rfl : true = true)
    | with_reducible exact .refl _ _
    | refine .via (by with_reducible exact Live.settleStep_keeps ..) ?_ ?_
    | with_reducible refine .ite ?_ ?_
    | dsimp only
    | split

end Sys2Proof.Machine
end

