-- ==== Sys2Proof/Laws/ExecMuslin.lean ====
section
/-! SUPPORT. What the commands of Machine/Muslin.lean may change. -/

namespace Sys2Proof.Machine

open Sys2Proof

theorem execAes3FrameTransmit_ends (t : Fin 4) (take : Nat) (s : State) : Ends [.store, .audio] s (execAes3FrameTransmit t take s) := by
  unfold execAes3FrameTransmit
  refine State.effect_ends ?_
  repeat' first
    | exact (rfl : true = true)
    | with_reducible exact .refl _ _
    | refine .via (by with_reducible exact Live.frameSent_keeps ..) ?_ ?_
    | with_reducible refine .ite ?_ ?_
    | dsimp only
    | split

theorem execAes3SubframeReceived_ends (r : Fin 4) (b : Bool) (raw : BitVec 24) (validity parity biphase : Bool) (s : State) : Ends [.store, .audio, .events] s (execAes3SubframeReceived r b raw validity parity biphase s) := by
  unfold execAes3SubframeReceived
  refine State.effect_ends ?_
  repeat' first
    | exact (rfl : true = true)
    | with_reducible exact .refl _ _
    | refine .via (by with_reducible exact Live.subframe_keeps ..) ?_ ?_
    | with_reducible refine .ite ?_ ?_
    | dsimp only
    | split

theorem execAesCsChange_ends (r : Fin 4) (b : Bool) (cs user : List Byte) (s : State) : Ends [.store, .audio, .events] s (execAesCsChange r b cs user s) := by
  unfold execAesCsChange
  refine State.effect_ends ?_
  repeat' first
    | exact (rfl : true = true)
    | with_reducible exact .refl _ _
    | refine .via (by with_reducible exact Live.csBlock_keeps ..) ?_ ?_
    | with_reducible refine .ite ?_ ?_
    | dsimp only
    | split

theorem execAesRxLocked_ends (r : Fin 4) (rate : Fin 5) (hz : Nat) (s : State) : Ends [.audio] s (execAesRxLocked r rate hz s) := by
  unfold execAesRxLocked
  refine State.effect_ends ?_
  repeat' first
    | exact (rfl : true = true)
    | with_reducible exact .refl _ _
    | refine .via (by with_reducible exact Live.rxSense_keeps ..) ?_ ?_
    | with_reducible refine .ite ?_ ?_
    | dsimp only
    | split

theorem execAesRxLocking_ends (r : Fin 4) (s : State) : Ends [.audio] s (execAesRxLocking r s) := by
  unfold execAesRxLocking
  refine State.effect_ends ?_
  repeat' first
    | exact (rfl : true = true)
    | with_reducible exact .refl _ _
    | refine .via (by with_reducible exact Live.rxSense_keeps ..) ?_ ?_
    | with_reducible refine .ite ?_ ?_
    | dsimp only
    | split

theorem execAesRxLost_ends (r : Fin 4) (s : State) : Ends [.audio] s (execAesRxLost r s) := by
  unfold execAesRxLost
  refine State.effect_ends ?_
  repeat' first
    | exact (rfl : true = true)
    | with_reducible exact .refl _ _
    | refine .via (by with_reducible exact Live.rxSense_keeps ..) ?_ ?_
    | with_reducible refine .ite ?_ ?_
    | dsimp only
    | split

theorem execAsrcSlip_ends (tx : Bool) (i : Fin 4) (high : Bool) (s : State) : Ends [.store, .audio, .events] s (execAsrcSlip tx i high s) := by
  unfold execAsrcSlip
  refine State.effect_ends ?_
  repeat' first
    | exact (rfl : true = true)
    | with_reducible exact .refl _ _
    | refine .via (by with_reducible exact Live.asrcSlip_keeps ..) ?_ ?_
    | with_reducible refine .ite ?_ ?_
    | dsimp only
    | split

theorem execAudioRampIn_ends (source : Fin 16) (s : State) : Ends [.store, .audio, .events] s (execAudioRampIn source s) := by
  unfold execAudioRampIn
  refine State.effect_ends ?_
  repeat' first
    | exact (rfl : true = true)
    | with_reducible exact .refl _ _
    | refine .via (by with_reducible exact Live.rampIn_keeps ..) ?_ ?_
    | with_reducible refine .ite ?_ ?_
    | dsimp only
    | split

theorem execSampleSlot_ends (takes : List Nat) (misses : Nat) (s : State) : Ends [.store, .bpm, .audio, .events] s (execSampleSlot takes misses s) := by
  unfold execSampleSlot
  refine State.effect_ends ?_
  repeat' first
    | exact (rfl : true = true)
    | with_reducible exact .refl _ _
    | refine .via (by with_reducible exact Live.sampleSlot_keeps ..) ?_ ?_
    | with_reducible refine .ite ?_ ?_
    | dsimp only
    | split

end Sys2Proof.Machine
end

