-- ==== Sys2Proof/Laws/ExecNeighbour.lean ====
section
/-! SUPPORT. What the commands of Machine/Neighbour.lean may change. -/

namespace Sys2Proof.Machine

open Sys2Proof

theorem execArpNdReceived_ends (p : Fin 52) (vlan : Nat) (m : ArpNd) (s : State) : Ends [.store, .plane, .events] s (execArpNdReceived p vlan m s) := by
  unfold execArpNdReceived
  refine State.effect_ends ?_
  repeat' first
    | exact (rfl : true = true)
    | with_reducible exact .refl _ _
    | refine .via (by with_reducible exact Live.resolveBy_keeps ..) ?_ ?_
    | refine .via (by with_reducible exact Live.firmwareSend_keeps ..) ?_ ?_
    | with_reducible refine .ite ?_ ?_
    | dsimp only
    | split

theorem execNhRefresh_ends (n : Fin 8192) (s : State) : Ends [.store, .plane, .events] s (execNhRefresh n s) := by
  unfold execNhRefresh
  refine State.effect_ends ?_
  repeat' first
    | exact (rfl : true = true)
    | with_reducible exact .refl _ _
    | refine .via (by with_reducible exact Live.firmwareFlood_keeps ..) ?_ ?_
    | refine .via (by with_reducible exact Live.setHop_keeps ..) ?_ ?_
    | with_reducible refine .ite ?_ ?_
    | dsimp only
    | split

theorem execNhUnresolved_ends (n : Fin 8192) (s : State) : Ends [.store, .plane] s (execNhUnresolved n s) := by
  unfold execNhUnresolved
  refine State.effect_ends ?_
  repeat' first
    | exact (rfl : true = true)
    | with_reducible exact .refl _ _
    | refine .via (by with_reducible exact Live.setHop_keeps ..) ?_ ?_
    | refine .via (by with_reducible exact Live.setElemV_keeps ..) ?_ ?_
    | with_reducible refine .ite ?_ ?_
    | dsimp only
    | refine .of2 (by assumption) ?_
    | refine .of1 (by assumption) ?_
    | split

theorem execSnoopLeave_ends (p : Fin 52) (vlan : Nat) (ip6 : Bool) (group : Nat) (s : State) : Ends [.store, .plane] s (execSnoopLeave p vlan ip6 group s) := by
  unfold execSnoopLeave
  refine State.effect_ends ?_
  repeat' first
    | exact (rfl : true = true)
    | with_reducible exact .refl _ _
    | refine .via (by with_reducible exact Live.keepMembers_keeps ..) ?_ ?_
    | with_reducible refine .ite ?_ ?_
    | dsimp only
    | split

theorem execSnoopMemberExpiry_ends (s : State) : Ends [.store, .plane] s (execSnoopMemberExpiry s) := by
  unfold execSnoopMemberExpiry
  refine State.effect_ends ?_
  repeat' first
    | exact (rfl : true = true)
    | with_reducible exact .refl _ _
    | refine .via (by with_reducible exact Live.snoopExpiry_keeps ..) ?_ ?_
    | with_reducible refine .ite ?_ ?_
    | dsimp only
    | split

theorem execSnoopQuery_ends (p : Fin 52) (vlan : Nat) (frame : List Byte) (s : State) : Ends [.store, .plane, .events] s (execSnoopQuery p vlan frame s) := by
  unfold execSnoopQuery
  refine State.effect_ends ?_
  repeat' first
    | exact (rfl : true = true)
    | with_reducible exact .refl _ _
    | refine .via (by with_reducible exact Live.showGroups_keeps ..) ?_ ?_
    | refine .via (by with_reducible exact Live.keepMembers_keeps ..) ?_ ?_
    | refine .via (by with_reducible exact Live.setFwd_keeps ..) ?_ ?_
    | refine .via (by with_reducible exact Live.firmwareFlood_keeps ..) ?_ ?_
    | with_reducible refine .ite ?_ ?_
    | dsimp only
    | split

theorem execSnoopReport_ends (p : Fin 52) (vlan : Nat) (ip6 : Bool) (groups : List Nat) (frame : List Byte) (s : State) : Ends [.store, .plane, .events] s (execSnoopReport p vlan ip6 groups frame s) := by
  unfold execSnoopReport
  refine State.effect_ends ?_
  repeat' first
    | exact (rfl : true = true)
    | with_reducible exact .refl _ _
    | refine .via (by with_reducible exact Live.joinGroup_keeps ..) ?_ ?_
    | refine .via (by with_reducible exact Live.firmwareFlood_keeps ..) ?_ ?_
    | with_reducible refine .ite ?_ ?_
    | dsimp only
    | with_reducible refine .forL (fun l x => ?_) ?_
    | split

end Sys2Proof.Machine
end

