-- ==== Sys2Proof/Laws/ExecPorts.lean ====
section
/-! SUPPORT. What the commands of Machine/Ports.lean may change. -/

namespace Sys2Proof.Machine

open Sys2Proof

theorem execCancel_ends (p : Fin 52) (s : State) : Ends [.store, .plane, .events] s (execCancel p s) := by
  unfold execCancel
  refine State.effect_ends ?_
  repeat' first
    | exact (rfl : true = true)
    | with_reducible exact .refl _ _
    | refine .via (by with_reducible exact Live.gateCancel_keeps ..) ?_ ?_
    | with_reducible refine .ite ?_ ?_
    | dsimp only
    | split

theorem execChangeTime_ends (p : Fin 52) (t : Nat) (s : State) : Ends [.store, .modes, .plane, .events] s (execChangeTime p t s) := by
  unfold execChangeTime
  refine State.effect_ends ?_
  repeat' first
    | exact (rfl : true = true)
    | with_reducible exact .refl _ _
    | refine .via (by with_reducible exact Live.changeTime_keeps ..) ?_ ?_
    | with_reducible refine .ite ?_ ?_
    | dsimp only
    | split

theorem execFlush_ends (p : Fin 56) (mask : Nat) (s : State) : Ends [.store, .plane, .events] s (execFlush p mask s) := by
  unfold execFlush
  refine State.effect_ends ?_
  repeat' first
    | exact (rfl : true = true)
    | with_reducible exact .refl _ _
    | refine .via (by with_reducible exact Live.flushQueues_keeps ..) ?_ ?_
    | with_reducible refine .ite ?_ ?_
    | dsimp only
    | split

theorem execFrameReceived_ends (p : Fin 52) (bytes : List Byte) (phyError noRoom : Bool) (age at_ ts : Nat) (s : State) : Ends [.store, .beat, .modes, .plane, .events] s (execFrameReceived p bytes phyError noRoom age at_ ts s) := by
  unfold execFrameReceived
  refine State.effect_ends ?_
  repeat' first
    | exact (rfl : true = true)
    | with_reducible exact .refl _ _
    | refine .via (by with_reducible exact Live.receiveFrame_keeps ..) ?_ ?_
    | refine .via (by with_reducible exact Live.at_keeps ..) ?_ ?_
    | refine .via (by with_reducible exact Live.holdFrame_keeps ..) ?_ ?_
    | with_reducible refine .ite ?_ ?_
    | dsimp only
    | split

theorem execFrameTxDone_ends (p : Fin 53) (at_ : Nat) (linkError : Option (Fin 8)) (s : State) : Ends [.store, .plane, .events] s (execFrameTxDone p at_ linkError s) := by
  unfold execFrameTxDone
  refine State.effect_ends ?_
  repeat' first
    | exact (rfl : true = true)
    | with_reducible exact .refl _ _
    | refine .via (by with_reducible exact Live.txEnd_keeps ..) ?_ ?_
    | refine .via (by with_reducible exact Live.at_keeps ..) ?_ ?_
    | refine .via (by with_reducible exact Live.linkMemoryError_keeps ..) ?_ ?_
    | refine .via (by with_reducible exact Live.kick_keeps ..) ?_ ?_
    | with_reducible refine .ite ?_ ?_
    | dsimp only
    | refine .of2 (by assumption) ?_
    | refine .of1 (by assumption) ?_
    | split

theorem execGateEntryStart_ends (p : Fin 52) (at_ : Nat) (s : State) : Ends [.store, .plane, .events] s (execGateEntryStart p at_ s) := by
  unfold execGateEntryStart
  refine State.effect_ends ?_
  repeat' first
    | exact (rfl : true = true)
    | with_reducible exact .refl _ _
    | refine .via (by with_reducible exact Live.at_keeps ..) ?_ ?_
    | refine .via (by with_reducible exact Live.kick_keeps ..) ?_ ?_
    | refine .via (by with_reducible exact Live.blk_keeps ..) ?_ ?_
    | with_reducible refine .ite ?_ ?_
    | dsimp only
    | split

theorem execGateTakeover_ends (p : Fin 52) (s : State) : Ends [.store, .modes, .plane, .events] s (execGateTakeover p s) := by
  unfold execGateTakeover
  refine State.effect_ends ?_
  repeat' first
    | exact (rfl : true = true)
    | with_reducible exact .refl _ _
    | refine .via (by with_reducible exact Live.kick_keeps ..) ?_ ?_
    | refine .via (by with_reducible exact Live.takeover_keeps ..) ?_ ?_
    | refine .via (by with_reducible exact Live.at_keeps ..) ?_ ?_
    | with_reducible refine .ite ?_ ?_
    | dsimp only
    | split

theorem execHistClear_ends (p : Fin 56) (mask : Nat) (s : State) : Ends [.plane] s (execHistClear p mask s) := by
  unfold execHistClear
  refine State.effect_ends ?_
  repeat' first
    | exact (rfl : true = true)
    | with_reducible exact .refl _ _
    | refine .via (by with_reducible exact Live.histClear_keeps ..) ?_ ?_
    | with_reducible refine .ite ?_ ?_
    | dsimp only
    | split

theorem execLinkDown_ends (p : Fin 52) (s : State) : Ends [.plane] s (execLinkDown p s) := by
  unfold execLinkDown
  refine State.effect_ends ?_
  repeat' first
    | exact (rfl : true = true)
    | with_reducible exact .refl _ _
    | refine .via (by with_reducible exact Live.setPort_keeps ..) ?_ ?_
    | with_reducible refine .ite ?_ ?_
    | dsimp only
    | split

theorem execLinkUp_ends (p : Fin 52) (partner : Nat) (fec : Fin 4) (s : State) : Ends [.plane] s (execLinkUp p partner fec s) := by
  unfold execLinkUp
  refine State.effect_ends ?_
  repeat' first
    | exact (rfl : true = true)
    | with_reducible exact .refl _ _
    | refine .via (by with_reducible exact Live.setPort_keeps ..) ?_ ?_
    | with_reducible refine .ite ?_ ?_
    | dsimp only
    | split

theorem execLldpNeighbourLost_ends (p : Fin 52) (slot : Fin 4) (s : State) : Ends [.store, .plane, .events] s (execLldpNeighbourLost p slot s) := by
  unfold execLldpNeighbourLost
  refine State.effect_ends ?_
  repeat' first
    | exact (rfl : true = true)
    | with_reducible exact .refl _ _
    | refine .via (by with_reducible exact Live.neighbourAged_keeps ..) ?_ ?_
    | with_reducible refine .ite ?_ ?_
    | dsimp only
    | split

theorem execLldpTransmit_ends (p : Fin 52) (s : State) : Ends [.store, .plane, .events] s (execLldpTransmit p s) := by
  unfold execLldpTransmit
  refine State.effect_ends ?_
  repeat' first
    | exact (rfl : true = true)
    | with_reducible exact .refl _ _
    | refine .via (by with_reducible exact Live.firmwareSend_keeps ..) ?_ ?_
    | refine .via (by with_reducible exact Live.setPort_keeps ..) ?_ ?_
    | with_reducible refine .ite ?_ ?_
    | dsimp only
    | refine .of2 (by assumption) ?_
    | refine .of1 (by assumption) ?_
    | split

theorem execLldpduReceived_ends (p : Fin 52) (mac : Nat) (pdu : List Byte) (s : State) : Ends [.store, .plane, .events] s (execLldpduReceived p mac pdu s) := by
  unfold execLldpduReceived
  refine State.effect_ends ?_
  repeat' first
    | exact (rfl : true = true)
    | with_reducible exact .refl _ _
    | refine .via (by with_reducible exact Live.lldpReceived_keeps ..) ?_ ?_
    | with_reducible refine .ite ?_ ?_
    | dsimp only
    | split

theorem execModuleDdmRead_ends (u : Fin 4) (ddm alarms : List Byte) (s : State) : Ends [.store] s (execModuleDdmRead u ddm alarms s) := by
  unfold execModuleDdmRead
  refine State.effect_ends ?_
  repeat' first
    | exact (rfl : true = true)
    | with_reducible exact .refl _ _
    | refine .via (by with_reducible exact Live.wr_keeps ..) ?_ ?_
    | with_reducible refine .ite ?_ ?_
    | dsimp only
    | split

theorem execModuleIdentify_ends (u : Fin 4) (ok : Bool) (id : List Byte) (s : State) : Ends [.store, .plane, .events, .recoveries] s (execModuleIdentify u ok id s) := by
  unfold execModuleIdentify
  refine State.effect_ends ?_
  repeat' first
    | exact (rfl : true = true)
    | with_reducible exact .refl _ _
    | refine .via (by with_reducible exact Live.identify_keeps ..) ?_ ?_
    | with_reducible refine .ite ?_ ?_
    | dsimp only
    | split

theorem execPauseTimerExpiry_ends (p : Fin 52) (q : Fin 8) (s : State) : Ends [.store, .plane, .events] s (execPauseTimerExpiry p q s) := by
  unfold execPauseTimerExpiry
  refine State.effect_ends ?_
  repeat' first
    | exact (rfl : true = true)
    | with_reducible exact .refl _ _
    | refine .via (by with_reducible exact Live.kick_keeps ..) ?_ ?_
    | refine .via (by with_reducible exact Live.setPause_keeps ..) ?_ ?_
    | with_reducible refine .ite ?_ ?_
    | dsimp only
    | split

theorem execPenaltyDecay_ends (s : State) : Ends [.store, .plane, .events, .recoveries] s (execPenaltyDecay s) := by
  unfold execPenaltyDecay
  refine State.effect_ends ?_
  repeat' first
    | exact (rfl : true = true)
    | with_reducible exact .refl _ _
    | refine .via (by with_reducible exact Live.penaltyDecay_keeps ..) ?_ ?_
    | with_reducible refine .ite ?_ ?_
    | dsimp only
    | split

theorem execPfcFrameReceived_ends (p : Fin 52) (vector : Nat) (times : List Nat) (s : State) : Ends [.store, .plane, .events] s (execPfcFrameReceived p vector times s) := by
  unfold execPfcFrameReceived
  refine State.effect_ends ?_
  repeat' first
    | exact (rfl : true = true)
    | with_reducible exact .refl _ _
    | refine .via (by with_reducible exact Live.pfcReceived_keeps ..) ?_ ?_
    | with_reducible refine .ite ?_ ?_
    | dsimp only
    | split

theorem execPfcRefresh_ends (p : Fin 52) (q : Fin 8) (s : State) : Ends [.store, .plane, .events] s (execPfcRefresh p q s) := by
  unfold execPfcRefresh
  refine State.effect_ends ?_
  repeat' first
    | exact (rfl : true = true)
    | with_reducible exact .refl _ _
    | refine .via (by with_reducible exact Live.duePfc_keeps ..) ?_ ?_
    | with_reducible refine .ite ?_ ?_
    | dsimp only
    | split

theorem execPfcStormClear_ends (p : Fin 52) (q : Fin 8) (s : State) : Ends [.store, .plane, .events, .recoveries] s (execPfcStormClear p q s) := by
  unfold execPfcStormClear
  refine State.effect_ends ?_
  repeat' first
    | exact (rfl : true = true)
    | with_reducible exact .refl _ _
    | refine .via (by with_reducible exact Live.stormClear_keeps ..) ?_ ?_
    | with_reducible refine .ite ?_ ?_
    | dsimp only
    | split

theorem execPfcStormTrip_ends (p : Fin 52) (q : Fin 8) (s : State) : Ends [.store, .plane, .events, .recoveries] s (execPfcStormTrip p q s) := by
  unfold execPfcStormTrip
  refine State.effect_ends ?_
  repeat' first
    | exact (rfl : true = true)
    | with_reducible exact .refl _ _
    | refine .via (by with_reducible exact Live.stormTrip_keeps ..) ?_ ?_
    | with_reducible refine .ite ?_ ?_
    | dsimp only
    | split

theorem execPhyMgmtTimeout_ends (p : Fin 52) (s : State) : Ends [.store, .plane, .events, .recoveries] s (execPhyMgmtTimeout p s) := by
  unfold execPhyMgmtTimeout
  refine State.effect_ends ?_
  repeat' first
    | exact (rfl : true = true)
    | with_reducible exact .refl _ _
    | refine .via (by with_reducible exact Live.setPort_keeps ..) ?_ ?_
    | refine .via (by with_reducible exact Live.linkLost_keeps ..) ?_ ?_
    | refine .via (by with_reducible exact Live.raise_keeps ..) ?_ ?_
    | with_reducible refine .ite ?_ ?_
    | dsimp only
    | split

theorem execPhyRetry_ends (p : Fin 52) (answers : Bool) (s : State) : Ends [.plane] s (execPhyRetry p answers s) := by
  unfold execPhyRetry
  refine State.effect_ends ?_
  repeat' first
    | exact (rfl : true = true)
    | with_reducible exact .refl _ _
    | refine .via (by with_reducible exact Live.setPort_keeps ..) ?_ ?_
    | with_reducible refine .ite ?_ ?_
    | dsimp only
    | split

theorem execReclaimPassDone_ends (s : State) : Ends [.store, .plane] s (execReclaimPassDone s) := by
  unfold execReclaimPassDone
  refine State.effect_ends ?_
  repeat' first
    | exact (rfl : true = true)
    | with_reducible exact .refl _ _
    | refine .via (by with_reducible exact Live.reclaimDone_keeps ..) ?_ ?_
    | with_reducible refine .ite ?_ ?_
    | dsimp only
    | split

theorem execSfpInserted_ends (u : Fin 4) (s : State) : Ends [.store, .plane, .events] s (execSfpInserted u s) := by
  unfold execSfpInserted
  refine State.effect_ends ?_
  repeat' first
    | exact (rfl : true = true)
    | with_reducible exact .refl _ _
    | refine .via (by with_reducible exact Live.moduleArrives_keeps ..) ?_ ?_
    | refine .via (by with_reducible exact Live.setPort_keeps ..) ?_ ?_
    | with_reducible refine .ite ?_ ?_
    | dsimp only
    | split

theorem execSfpRemoved_ends (u : Fin 4) (s : State) : Ends [.store, .plane, .events, .recoveries] s (execSfpRemoved u s) := by
  unfold execSfpRemoved
  refine State.effect_ends ?_
  repeat' first
    | exact (rfl : true = true)
    | with_reducible exact .refl _ _
    | refine .via (by with_reducible exact Live.moduleRemoved_keeps ..) ?_ ?_
    | with_reducible refine .ite ?_ ?_
    | dsimp only
    | split

theorem execShadowCopy_ends (t : Fin 4) (s : State) : Ends [.store, .plane] s (execShadowCopy t s) := by
  unfold execShadowCopy
  refine State.effect_ends ?_
  repeat' first
    | exact (rfl : true = true)
    | with_reducible exact .refl _ _
    | refine .via (by with_reducible exact Live.shadowCopy_keeps ..) ?_ ?_
    | with_reducible refine .ite ?_ ?_
    | dsimp only
    | split

theorem execShadowCopyDone_ends (t : Fin 4) (s : State) : Ends [.store, .plane, .host, .events] s (execShadowCopyDone t s) := by
  unfold execShadowCopyDone
  refine State.effect_ends ?_
  repeat' first
    | exact (rfl : true = true)
    | with_reducible exact .refl _ _
    | refine .via (by with_reducible exact Live.shadowCopyDone_keeps ..) ?_ ?_
    | with_reducible refine .ite ?_ ?_
    | dsimp only
    | split

theorem execTwillDrainDone_ends (s : State) : Ends [.store, .plane, .events] s (execTwillDrainDone s) := by
  unfold execTwillDrainDone
  refine State.effect_ends ?_
  repeat' first
    | exact (rfl : true = true)
    | with_reducible exact .refl _ _
    | refine .via (by with_reducible exact Live.drainDone_keeps ..) ?_ ?_
    | with_reducible refine .ite ?_ ?_
    | dsimp only
    | split

theorem execTwillSwap_ends (mask : Nat) (s : State) : Ends [.store, .plane, .events, .recoveries] s (execTwillSwap mask s) := by
  unfold execTwillSwap
  refine State.effect_ends ?_
  repeat' first
    | exact (rfl : true = true)
    | with_reducible exact .refl _ _
    | refine .via (by with_reducible exact Live.journalRecoveries_keeps ..) ?_ ?_
    | refine .via (by with_reducible exact Live.twillSwap_keeps ..) ?_ ?_
    | with_reducible refine .ite ?_ ?_
    | dsimp only
    | split

theorem execTxDisableRelease_ends (u : Fin 4) (s : State) : Ends [.plane] s (execTxDisableRelease u s) := by
  unfold execTxDisableRelease
  refine State.effect_ends ?_
  repeat' first
    | exact (rfl : true = true)
    | with_reducible exact .refl _ _
    | refine .via (by with_reducible exact Live.txRelease_keeps ..) ?_ ?_
    | with_reducible refine .ite ?_ ?_
    | dsimp only
    | split

theorem execTxFault_ends (u : Fin 4) (s : State) : Ends [.plane] s (execTxFault u s) := by
  unfold execTxFault
  refine State.effect_ends ?_
  repeat' first
    | exact (rfl : true = true)
    | with_reducible exact .refl _ _
    | refine .via (by with_reducible exact Live.setPort_keeps ..) ?_ ?_
    | with_reducible refine .ite ?_ ?_
    | dsimp only
    | split

end Sys2Proof.Machine
end

