-- ==== Sys2Proof/Laws/ExecPower.lean ====
section
/-! SUPPORT. What the commands of Machine/Power.lean may change. -/

namespace Sys2Proof.Machine

open Sys2Proof

theorem execBackoffLevelReset_ends (k : Fin 48) (s : State) : Ends [.store] s (execBackoffLevelReset k s) := by
  unfold execBackoffLevelReset
  refine State.effect_ends ?_
  repeat' first
    | exact (rfl : true = true)
    | with_reducible exact .refl _ _
    | refine .via (by with_reducible exact Live.backoffReset_keeps ..) ?_ ?_
    | with_reducible refine .ite ?_ ?_
    | dsimp only
    | split

theorem execFaultStartup_ends (k : Fin 48) (s : State) : Ends [.store, .power, .events] s (execFaultStartup k s) := by
  unfold execFaultStartup
  refine State.effect_ends ?_
  repeat' first
    | exact (rfl : true = true)
    | with_reducible exact .refl _ _
    | refine .via (by with_reducible exact Live.startupFault_keeps ..) ?_ ?_
    | with_reducible refine .ite ?_ ?_
    | dsimp only
    | split

theorem execHoldEnd_ends (k : Fin 48) (s : State) : Ends [.store, .power, .events] s (execHoldEnd k s) := by
  unfold execHoldEnd
  refine State.effect_ends ?_
  repeat' first
    | exact (rfl : true = true)
    | with_reducible exact .refl _ _
    | refine .via (by with_reducible exact Live.holdEnds_keeps ..) ?_ ?_
    | with_reducible refine .ite ?_ ?_
    | dsimp only
    | split

theorem execLldpPowerRequest_ends (k : Fin 48) (watts : Nat) (s : State) : Ends [.power] s (execLldpPowerRequest k watts s) := by
  unfold execLldpPowerRequest
  refine State.effect_ends ?_
  repeat' first
    | exact (rfl : true = true)
    | with_reducible exact .refl _ _
    | refine .via (by with_reducible exact Live.setPse_keeps ..) ?_ ?_
    | with_reducible refine .ite ?_ ?_
    | dsimp only
    | split

theorem execMainsRestored_ends (bay : Fin 2) (dc : Bool) (volts hz : Nat) (s : State) : Ends [.modes, .power] s (execMainsRestored bay dc volts hz s) := by
  unfold execMainsRestored
  refine State.effect_ends ?_
  repeat' first
    | exact (rfl : true = true)
    | with_reducible exact .refl _ _
    | refine .via (by with_reducible exact Live.mainsRestored_keeps ..) ?_ ?_
    | with_reducible refine .ite ?_ ?_
    | dsimp only
    | split

theorem execModuleLineFall_ends (bay : Fin 2) (volts : Nat) (s : State) : Ends [.power] s (execModuleLineFall bay volts s) := by
  unfold execModuleLineFall
  refine State.effect_ends ?_
  repeat' first
    | exact (rfl : true = true)
    | with_reducible exact .refl _ _
    | refine .via (by with_reducible exact Live.setModule_keeps ..) ?_ ?_
    | with_reducible refine .ite ?_ ?_
    | dsimp only
    | split

theorem execModuleLineRise_ends (bay : Fin 2) (s : State) : Ends [.power] s (execModuleLineRise bay s) := by
  unfold execModuleLineRise
  refine State.effect_ends ?_
  repeat' first
    | exact (rfl : true = true)
    | with_reducible exact .refl _ _
    | refine .via (by with_reducible exact Live.lineRise_keeps ..) ?_ ?_
    | with_reducible refine .ite ?_ ?_
    | dsimp only
    | split

theorem execPdClassified_ends (k : Fin 48) (cls : Fin 9) (second : Option (Fin 9)) (type : Fin 5) (s : State) : Ends [.store, .power] s (execPdClassified k cls second type s) := by
  unfold execPdClassified
  refine State.effect_ends ?_
  repeat' first
    | exact (rfl : true = true)
    | with_reducible exact .refl _ _
    | refine .via (by with_reducible exact Live.setPse_keeps ..) ?_ ?_
    | refine .via (by with_reducible exact Live.wr_keeps ..) ?_ ?_
    | with_reducible refine .ite ?_ ?_
    | dsimp only
    | split

theorem execPdFault_ends (k : Fin 48) (short : Bool) (s : State) : Ends [.store, .power, .events] s (execPdFault k short s) := by
  unfold execPdFault
  refine State.effect_ends ?_
  repeat' first
    | exact (rfl : true = true)
    | with_reducible exact .refl _ _
    | refine .via (by with_reducible exact Live.poeFault_keeps ..) ?_ ?_
    | with_reducible refine .ite ?_ ?_
    | dsimp only
    | split

theorem execPdRemoved_ends (k : Fin 48) (s : State) : Ends [.store, .power, .events] s (execPdRemoved k s) := by
  unfold execPdRemoved
  refine State.effect_ends ?_
  repeat' first
    | exact (rfl : true = true)
    | with_reducible exact .refl _ _
    | refine .via (by with_reducible exact Live.poeTo_keeps ..) ?_ ?_
    | with_reducible refine .ite ?_ ?_
    | dsimp only
    | split

theorem execPseControllerFault_ends (ports : Nat) (s : State) : Ends [.store, .power, .events] s (execPseControllerFault ports s) := by
  unfold execPseControllerFault
  refine State.effect_ends ?_
  repeat' first
    | exact (rfl : true = true)
    | with_reducible exact .refl _ _
    | refine .via (by with_reducible exact Live.setPower_keeps ..) ?_ ?_
    | refine .via (by with_reducible exact Live.poeTo_keeps ..) ?_ ?_
    | with_reducible refine .ite ?_ ?_
    | dsimp only
    | with_reducible refine .forN (fun l x => ?_) ?_
    | split

theorem execPseControllerFaultClear_ends (ports : Nat) (s : State) : Ends [.power] s (execPseControllerFaultClear ports s) := by
  unfold execPseControllerFaultClear
  refine State.effect_ends ?_
  repeat' first
    | exact (rfl : true = true)
    | with_reducible exact .refl _ _
    | refine .via (by with_reducible exact Live.setPower_keeps ..) ?_ ?_
    | with_reducible refine .ite ?_ ?_
    | dsimp only
    | split

theorem execPsuFailed_ends (bay : Fin 2) (s : State) : Ends [.power] s (execPsuFailed bay s) := by
  unfold execPsuFailed
  refine State.effect_ends ?_
  repeat' first
    | exact (rfl : true = true)
    | with_reducible exact .refl _ _
    | refine .via (by with_reducible exact Live.setModule_keeps ..) ?_ ?_
    | with_reducible refine .ite ?_ ?_
    | dsimp only
    | split

theorem execPsuInputOutOfRange_ends (bay : Fin 2) (volts hz : Nat) (s : State) : Ends [.power] s (execPsuInputOutOfRange bay volts hz s) := by
  unfold execPsuInputOutOfRange
  refine State.effect_ends ?_
  repeat' first
    | exact (rfl : true = true)
    | with_reducible exact .refl _ _
    | refine .via (by with_reducible exact Live.setModule_keeps ..) ?_ ?_
    | with_reducible refine .ite ?_ ?_
    | dsimp only
    | split

theorem execPsuInserted_ends (bay : Fin 2) (dc : Bool) (volts hz : Nat) (inlet : Int) (serial : Nat) (s : State) : Ends [.store, .power, .events] s (execPsuInserted bay dc volts hz inlet serial s) := by
  unfold execPsuInserted
  refine State.effect_ends ?_
  repeat' first
    | exact (rfl : true = true)
    | with_reducible exact .refl _ _
    | refine .via (by with_reducible exact Live.psuInserted_keeps ..) ?_ ?_
    | with_reducible refine .ite ?_ ?_
    | dsimp only
    | split

theorem execPsuPowerFailWarning_ends (bay : Fin 2) (s : State) : Ends [.store, .modes, .power, .events] s (execPsuPowerFailWarning bay s) := by
  unfold execPsuPowerFailWarning
  refine State.effect_ends ?_
  repeat' first
    | exact (rfl : true = true)
    | with_reducible exact .refl _ _
    | refine .via (by with_reducible exact Live.powerFailWarning_keeps ..) ?_ ?_
    | with_reducible refine .ite ?_ ?_
    | dsimp only
    | split

theorem execPsuRemoved_ends (bay : Fin 2) (s : State) : Ends [.store, .power, .events] s (execPsuRemoved bay s) := by
  unfold execPsuRemoved
  refine State.effect_ends ?_
  repeat' first
    | exact (rfl : true = true)
    | with_reducible exact .refl _ _
    | refine .via (by with_reducible exact Live.psuRemoved_keeps ..) ?_ ?_
    | with_reducible refine .ite ?_ ?_
    | dsimp only
    | split

theorem execSiliconRelease_ends (r : Fin 4) (s : State) : Ends [.store, .power] s (execSiliconRelease r s) := by
  unfold execSiliconRelease
  refine State.effect_ends ?_
  repeat' first
    | exact (rfl : true = true)
    | with_reducible exact .refl _ _
    | refine .via (by with_reducible exact Live.siliconRelease_keeps ..) ?_ ?_
    | with_reducible refine .ite ?_ ?_
    | dsimp only
    | split

theorem execSiliconRequest_ends (r : Fin 4) (s : State) : Ends [.power] s (execSiliconRequest r s) := by
  unfold execSiliconRequest
  refine State.effect_ends ?_
  repeat' first
    | exact (rfl : true = true)
    | with_reducible exact .refl _ _
    | refine .via (by with_reducible exact Live.siliconRequest_keeps ..) ?_ ?_
    | with_reducible refine .ite ?_ ?_
    | dsimp only
    | split

end Sys2Proof.Machine
end

