-- ==== Sys2Proof/Laws/ExecRecovery.lean ====
section
/-! SUPPORT. What the commands of Machine/Recovery.lean may change. -/

namespace Sys2Proof.Machine

open Sys2Proof

theorem execWithdrawnClear_ends (s : State) : Ends [.store] s (execWithdrawnClear s) := by
  unfold execWithdrawnClear
  refine State.effect_ends ?_
  repeat' first
    | exact (rfl : true = true)
    | with_reducible exact .refl _ _
    | refine .via (by with_reducible exact Live.withdrawnClear_keeps ..) ?_ ?_
    | with_reducible refine .ite ?_ ?_
    | dsimp only
    | split

end Sys2Proof.Machine
end

