-- ==== Sys2Proof/Laws/ExecServer.lean ====
section
/-! SUPPORT. What the commands of Machine/Server.lean may change. -/

namespace Sys2Proof.Machine

open Sys2Proof

theorem State.serve_ends (m : Fin 15) (op : Nat) (r : Req) (s : State) : Ends [.store, .dict, .can, .sessions, .mailboxes, .plane, .host, .events] s (s.serve m op r) :=
  State.effect_ends (Live.serveRequest_keeps ..)

theorem execRead_ends (m : Fin 15) (r : Req) (s : State) : Ends [.store, .dict, .can, .sessions, .mailboxes, .plane, .host, .events] s (execRead m r s) := State.serve_ends ..

theorem execClampClear_ends (s : State) : Ends [.dict] s (execClampClear s) := by
  unfold execClampClear
  refine State.effect_ends ?_
  repeat' first
    | exact (rfl : true = true)
    | with_reducible exact .refl _ _
    | refine .via (by with_reducible exact Live.clampClear_keeps ..) ?_ ?_
    | with_reducible refine .ite ?_ ?_
    | dsimp only
    | split

theorem execCommand_ends (m : Fin 15) (r : Req) (s : State) : Ends [.store, .dict, .can, .sessions, .mailboxes, .plane, .host, .events] s (execCommand m r s) :=
  State.serve_ends ..

theorem execInbandRequest_ends (port : Fin 56) (frame : List Byte) (s : State) : Ends [.store, .dict, .can, .sessions, .mailboxes, .plane, .host, .events] s (execInbandRequest port frame s) := by
  unfold execInbandRequest
  refine State.effect_ends ?_
  repeat' first
    | exact (rfl : true = true)
    | with_reducible exact .refl _ _
    | refine .via (by with_reducible exact Live.inbandRequest_keeps ..) ?_ ?_
    | with_reducible refine .ite ?_ ?_
    | dsimp only
    | split

theorem execMbxRequestTake_ends (f : Fin 8) (s : State) : Ends [.store, .dict, .can, .sessions, .mailboxes, .plane, .host, .events] s (execMbxRequestTake f s) := by
  unfold execMbxRequestTake
  refine State.effect_ends ?_
  repeat' first
    | exact (rfl : true = true)
    | with_reducible exact .refl _ _
    | refine .via (by with_reducible exact Live.mbxTake_keeps ..) ?_ ?_
    | with_reducible refine .ite ?_ ?_
    | dsimp only
    | split

theorem execMyCacheFlush_ends (m : Fin 15) (s : State) : Ends [.dict] s (execMyCacheFlush m s) := by
  unfold execMyCacheFlush
  refine State.effect_ends ?_
  repeat' first
    | exact (rfl : true = true)
    | with_reducible exact .refl _ _
    | refine .via (by with_reducible exact Live.cacheFlush_keeps ..) ?_ ?_
    | with_reducible refine .ite ?_ ?_
    | dsimp only
    | split

theorem execNotifyRequest_ends (m : Fin 15) (r : Req) (s : State) : Ends [.store, .dict, .can, .sessions, .mailboxes, .plane, .host, .events] s (execNotifyRequest m r s) :=
  State.serve_ends ..

theorem execRequestCacheExpiry_ends (m : Fin 15) (s : State) : Ends [.dict] s (execRequestCacheExpiry m s) := by
  unfold execRequestCacheExpiry
  refine State.effect_ends ?_
  repeat' first
    | exact (rfl : true = true)
    | with_reducible exact .refl _ _
    | refine .via (by with_reducible exact Live.cacheExpire_keeps ..) ?_ ?_
    | with_reducible refine .ite ?_ ?_
    | dsimp only
    | split

theorem execSegment_ends (m : Fin 15) (r : Req) (s : State) : Ends [.store, .dict, .can, .sessions, .mailboxes, .plane, .host, .events] s (execSegment m r s) :=
  State.serve_ends ..

theorem execSegmentAbandoned_ends (m : Fin 15) (s : State) : Ends [.store, .dict, .events] s (execSegmentAbandoned m s) := by
  unfold execSegmentAbandoned
  refine State.effect_ends ?_
  repeat' first
    | exact (rfl : true = true)
    | with_reducible exact .refl _ _
    | refine .via (by with_reducible exact Live.segmentAbandon_keeps ..) ?_ ?_
    | with_reducible refine .ite ?_ ?_
    | dsimp only
    | split

theorem execSegmentInit_ends (m : Fin 15) (r : Req) (s : State) : Ends [.store, .dict, .can, .sessions, .mailboxes, .plane, .host, .events] s (execSegmentInit m r s) :=
  State.serve_ends ..

theorem execTnCreate_ends (n : Fin 7) (s : State) : Ends [.store, .dict, .sessions, .modes, .tenancies, .plane, .events] s (execTnCreate n s) := by
  unfold execTnCreate
  refine State.effect_ends ?_
  repeat' first
    | exact (rfl : true = true)
    | with_reducible exact .refl _ _
    | refine .via (by with_reducible exact Live.tenanciesSettle_keeps ..) ?_ ?_
    | refine .via (by with_reducible exact Live.tnCreate_keeps ..) ?_ ?_
    | with_reducible refine .ite ?_ ?_
    | dsimp only
    | split

theorem execTnDelete_ends (n : Fin 7) (s : State) : Ends [.store, .beat, .dict, .can, .sessions, .mailboxes, .modes, .tenancies, .power, .plane, .bpm, .flannel, .dram, .comp, .mover, .audio, .host, .events, .recoveries] s (execTnDelete n s) := by
  unfold execTnDelete
  refine State.effect_ends ?_
  repeat' first
    | exact (rfl : true = true)
    | with_reducible exact .refl _ _
    | refine .via (by with_reducible exact Live.tenanciesSettle_keeps ..) ?_ ?_
    | refine .via (by with_reducible exact Live.deliver_keeps ..) ?_ ?_
    | refine .via (by with_reducible exact Live.tnDelete_keeps ..) ?_ ?_
    | refine .via (by with_reducible exact Live.drainAcks_keeps ..) ?_ ?_
    | with_reducible refine .ite ?_ ?_
    | dsimp only
    | split

theorem execTnReset_ends (n : Fin 7) (s : State) : Ends [.store, .beat, .dict, .can, .sessions, .mailboxes, .modes, .tenancies, .power, .plane, .bpm, .flannel, .dram, .comp, .mover, .audio, .host, .events, .recoveries] s (execTnReset n s) := by
  unfold execTnReset
  refine State.effect_ends ?_
  repeat' first
    | exact (rfl : true = true)
    | with_reducible exact .refl _ _
    | refine .via (by with_reducible exact Live.tenanciesSettle_keeps ..) ?_ ?_
    | refine .via (by with_reducible exact Live.deliver_keeps ..) ?_ ?_
    | refine .via (by with_reducible exact Live.tnReset_keeps ..) ?_ ?_
    | refine .via (by with_reducible exact Live.drainAcks_keeps ..) ?_ ?_
    | with_reducible refine .ite ?_ ?_
    | dsimp only
    | split

theorem execWrite_ends (m : Fin 15) (r : Req) (s : State) : Ends [.store, .dict, .can, .sessions, .mailboxes, .plane, .host, .events] s (execWrite m r s) := State.serve_ends ..

theorem execWriteAtBeat_ends (m : Fin 15) (r : Req) (s : State) : Ends [.store, .dict, .can, .sessions, .mailboxes, .plane, .host, .events] s (execWriteAtBeat m r s) :=
  State.serve_ends ..

end Sys2Proof.Machine
end

