-- ==== Sys2Proof/Laws/ExecSpotter.lean ====
section
/-! SUPPORT. What the commands of Machine/Spotter.lean may change. -/

namespace Sys2Proof.Machine

open Sys2Proof

theorem execClipRelease_ends (i : Fin 2) (s : State) : Ends [.store] s (execClipRelease i s) := by
  unfold execClipRelease
  refine State.effect_ends ?_
  repeat' first
    | exact (rfl : true = true)
    | with_reducible exact .refl _ _
    | refine .via (by with_reducible exact Live.clipRelease_keeps ..) ?_ ?_
    | with_reducible refine .ite ?_ ?_
    | dsimp only
    | split

theorem execFeatureFrame_ends (i : Fin 2) (s : State) : Ends [.store, .modes, .audio, .events] s (execFeatureFrame i s) := by
  unfold execFeatureFrame
  refine State.effect_ends ?_
  repeat' first
    | exact (rfl : true = true)
    | with_reducible exact .refl _ _
    | refine .via (by with_reducible exact Live.featureFrames_keeps ..) ?_ ?_
    | with_reducible refine .ite ?_ ?_
    | dsimp only
    | split

end Sys2Proof.Machine
end

