-- ==== Sys2Proof/Laws/ExecStored.lean ====
section
/-! SUPPORT. What the commands of Machine/Stored.lean may change. -/

namespace Sys2Proof.Machine

open Sys2Proof

theorem execStore_ends (s : State) : Ends [.store, .modes] s (execStore s) := by
  unfold execStore
  refine State.effect_ends ?_
  repeat' first
    | exact (rfl : true = true)
    | with_reducible exact .refl _ _
    | refine .via (by with_reducible exact Live.storeCommand_keeps ..) ?_ ?_
    | with_reducible refine .ite ?_ ?_
    | dsimp only
    | split

theorem execStoreDone_ends (ok : Bool) (s : State) : Ends [.store, .modes, .events] s (execStoreDone ok s) := by
  unfold execStoreDone
  refine State.effect_ends ?_
  repeat' first
    | exact (rfl : true = true)
    | with_reducible exact .refl _ _
    | refine .via (by with_reducible exact Live.storeEnd_keeps ..) ?_ ?_
    | with_reducible refine .ite ?_ ?_
    | dsimp only
    | split

theorem execStoredSetLoad_ends (s : State) : Ends [.store, .modes, .power, .plane, .events] s (execStoredSetLoad s) := by
  unfold execStoredSetLoad
  refine State.effect_ends ?_
  repeat' first
    | exact (rfl : true = true)
    | with_reducible exact .refl _ _
    | refine .via (by with_reducible exact Live.earlyPoe_keeps ..) ?_ ?_
    | refine .via (by with_reducible exact Live.storedLoad_keeps ..) ?_ ?_
    | with_reducible refine .ite ?_ ?_
    | dsimp only
    | split

end Sys2Proof.Machine
end

