-- ==== Sys2Proof/Laws/ExecStreams.lean ====
section
/-! SUPPORT. What the commands of Machine/Streams.lean may change. -/

namespace Sys2Proof.Machine

open Sys2Proof

theorem execPacketIn_ends (at_ : Nat) (linkError : Option (Fin 8)) (s : State) : Ends [.store, .plane, .bpm, .audio, .events] s (execPacketIn at_ linkError s) := by
  unfold execPacketIn
  refine State.effect_ends ?_
  repeat' first
    | exact (rfl : true = true)
    | with_reducible exact .refl _ _
    | refine .via (by with_reducible exact Live.takeFrom_keeps ..) ?_ ?_
    | refine .via (by with_reducible exact Live.at_keeps ..) ?_ ?_
    | refine .via (by with_reducible exact Live.packetIn_keeps ..) ?_ ?_
    | refine .via (by with_reducible exact Live.linkMemoryError_keeps ..) ?_ ?_
    | with_reducible refine .ite ?_ ?_
    | dsimp only
    | refine .of2 (by assumption) ?_
    | refine .of1 (by assumption) ?_
    | split

theorem execPacketOut_ends (stream : Fin 8) (at_ : Nat) (s : State) : Ends [.store, .plane, .audio, .events] s (execPacketOut stream at_ s) := by
  unfold execPacketOut
  refine State.effect_ends ?_
  repeat' first
    | exact (rfl : true = true)
    | with_reducible exact .refl _ _
    | refine .via (by with_reducible exact Live.packetsOut_keeps ..) ?_ ?_
    | refine .via (by with_reducible exact Live.at_keeps ..) ?_ ?_
    | with_reducible refine .ite ?_ ?_
    | dsimp only
    | split

end Sys2Proof.Machine
end

