-- ==== Sys2Proof/Laws/ExecUnit.lean ====
section
/-! SUPPORT. What the commands of Machine/Unit.lean may change. -/

namespace Sys2Proof.Machine

open Sys2Proof

theorem execFanEvaluation_ends (tach : List (Nat × Nat)) (s : State) : Ends [.store, .enclosure] s (execFanEvaluation tach s) := by
  unfold execFanEvaluation
  refine State.effect_ends ?_
  repeat' first
    | exact (rfl : true = true)
    | with_reducible exact .refl _ _
    | refine .via (by with_reducible exact Live.fanEvaluation_keeps ..) ?_ ?_
    | with_reducible refine .ite ?_ ?_
    | dsimp only
    | split

theorem execLedTest_ends (s : State) : Ends [.enclosure] s (execLedTest s) := by
  unfold execLedTest
  refine State.effect_ends ?_
  repeat' first
    | exact (rfl : true = true)
    | with_reducible exact .refl _ _
    | refine .via (by with_reducible exact Live.ledTestStart_keeps ..) ?_ ?_
    | with_reducible refine .ite ?_ ?_
    | dsimp only
    | split

theorem execLedTestEnd_ends (s : State) : Ends [.enclosure] s (execLedTestEnd s) := by
  unfold execLedTestEnd
  refine State.effect_ends ?_
  repeat' first
    | exact (rfl : true = true)
    | with_reducible exact .refl _ _
    | refine .via (by with_reducible exact Live.ledTestOver_keeps ..) ?_ ?_
    | with_reducible refine .ite ?_ ?_
    | dsimp only
    | split

theorem execSensorFault_ends (sensor : Fin 8) (s : State) : Ends [.store] s (execSensorFault sensor s) := by
  unfold execSensorFault
  refine State.effect_ends ?_
  repeat' first
    | exact (rfl : true = true)
    | with_reducible exact .refl _ _
    | refine .via (by with_reducible exact Live.sensorSilent_keeps ..) ?_ ?_
    | with_reducible refine .ite ?_ ?_
    | dsimp only
    | split

theorem execSensorReportRestored_ends (sensor : Fin 8) (s : State) : Ends [.store, .enclosure] s (execSensorReportRestored sensor s) := by
  unfold execSensorReportRestored
  refine State.effect_ends ?_
  repeat' first
    | exact (rfl : true = true)
    | with_reducible exact .refl _ _
    | refine .via (by with_reducible exact Live.setUnit_keeps ..) ?_ ?_
    | refine .via (by with_reducible exact Live.showCaseTemp_keeps ..) ?_ ?_
    | refine .via (by with_reducible exact Live.wr_keeps ..) ?_ ?_
    | with_reducible refine .ite ?_ ?_
    | dsimp only
    | split

theorem execTrayPresenceChange_ends (present : Bool) (s : State) : Ends [.store, .enclosure] s (execTrayPresenceChange present s) := by
  unfold execTrayPresenceChange
  refine State.effect_ends ?_
  repeat' first
    | exact (rfl : true = true)
    | with_reducible exact .refl _ _
    | refine .via (by with_reducible exact Live.trayChange_keeps ..) ?_ ?_
    | with_reducible refine .ite ?_ ?_
    | dsimp only
    | split

end Sys2Proof.Machine
end

