-- ==== Sys2Proof/Laws/ExecView.lean ====
section
/-! SUPPORT. What the commands of Machine/View.lean may change. -/

namespace Sys2Proof.Machine

open Sys2Proof

theorem execVersionRetire_ends (s : State) : Ends [.plane] s (execVersionRetire s) := by
  unfold execVersionRetire
  refine State.effect_ends ?_
  repeat' first
    | exact (rfl : true = true)
    | with_reducible exact .refl _ _
    | refine .via (by with_reducible exact Live.versionStep_keeps ..) ?_ ?_
    | with_reducible refine .ite ?_ ?_
    | dsimp only
    | split

end Sys2Proof.Machine
end

