-- ==== Sys2Proof/Laws/ExecWipe.lean ====
section
/-! SUPPORT. What the commands of Machine/Wipe.lean may change. -/

namespace Sys2Proof.Machine

open Sys2Proof

theorem execTenancyWipeEnd_ends (n : Fin 7) (s : State) : Ends [.store, .dict, .sessions, .modes, .tenancies, .plane, .bpm, .flannel, .events, .recoveries] s (execTenancyWipeEnd n s) := by
  unfold execTenancyWipeEnd
  refine State.effect_ends ?_
  repeat' first
    | exact (rfl : true = true)
    | with_reducible exact .refl _ _
    | refine .via (by with_reducible exact Live.wipesOver_keeps ..) ?_ ?_
    | with_reducible refine .ite ?_ ?_
    | dsimp only
    | split

end Sys2Proof.Machine
end

