-- ==== Sys2Proof/Laws/ExecWire.lean ====
section
/-! SUPPORT. What the commands of Machine/Wire.lean may change. -/

namespace Sys2Proof.Machine

open Sys2Proof

theorem execCanBusOffRecovery_ends (c : Fin 2) (s : State) : Ends [.store] s (execCanBusOffRecovery c s) := by
  unfold execCanBusOffRecovery
  refine State.effect_ends ?_
  repeat' first
    | exact (rfl : true = true)
    | with_reducible exact .refl _ _
    | refine .via (by with_reducible exact Live.wr_keeps ..) ?_ ?_
    | with_reducible refine .ite ?_ ?_
    | dsimp only
    | split

theorem execCanErrorStateChange_ends (c : Fin 2) (tec rec : Nat) (s : State) : Ends [.store] s (execCanErrorStateChange c tec rec s) := by
  unfold execCanErrorStateChange
  refine State.effect_ends ?_
  repeat' first
    | exact (rfl : true = true)
    | with_reducible exact .refl _ _
    | refine .via (by with_reducible exact Live.canErrors_keeps ..) ?_ ?_
    | with_reducible refine .ite ?_ ?_
    | dsimp only
    | split

theorem execCanFrameIgnored_ends (c : Fin 2) (f : CanIn) (s : State) : Ends [.store, .events] s (execCanFrameIgnored c f s) := by
  unfold execCanFrameIgnored
  refine State.effect_ends ?_
  repeat' first
    | exact (rfl : true = true)
    | with_reducible exact .refl _ _
    | refine .via (by with_reducible exact Live.count_keeps ..) ?_ ?_
    | with_reducible refine .ite ?_ ?_
    | dsimp only
    | split

theorem execCanTxComplete_ends (c : Fin 2) (won : Bool) (s : State) : Ends [.store, .can, .events] s (execCanTxComplete c won s) := by
  unfold execCanTxComplete
  refine State.effect_ends ?_
  repeat' first
    | exact (rfl : true = true)
    | with_reducible exact .refl _ _
    | refine .via (by with_reducible exact Live.canTxEnd_keeps ..) ?_ ?_
    | with_reducible refine .ite ?_ ?_
    | dsimp only
    | split

theorem execKeyEpochGraceEnd_ends (s : Fin 4) (st : State) : Ends [.sessions] st (execKeyEpochGraceEnd s st) := by
  unfold execKeyEpochGraceEnd
  refine State.effect_ends ?_
  repeat' first
    | exact (rfl : true = true)
    | with_reducible exact .refl _ _
    | refine .via (by with_reducible exact Live.epochGrace_keeps ..) ?_ ?_
    | with_reducible refine .ite ?_ ?_
    | dsimp only
    | split

theorem execRollcall_ends (c : Fin 2) (s : State) : Ends [.store, .can, .events] s (execRollcall c s) := by
  unfold execRollcall
  refine State.effect_ends ?_
  repeat' first
    | exact (rfl : true = true)
    | with_reducible exact .refl _ _
    | refine .via (by with_reducible exact Live.rollcall_keeps ..) ?_ ?_
    | with_reducible refine .ite ?_ ?_
    | dsimp only
    | split

theorem execRollcallAnswer_ends (c : Fin 2) (node : Fin 32) (data : List Byte) (s : State) : Ends [.store, .can, .events] s (execRollcallAnswer c node data s) := by
  unfold execRollcallAnswer
  refine State.effect_ends ?_
  repeat' first
    | exact (rfl : true = true)
    | with_reducible exact .refl _ _
    | refine .via (by with_reducible exact Live.rollcallAnswer_keeps ..) ?_ ?_
    | with_reducible refine .ite ?_ ?_
    | dsimp only
    | split

end Sys2Proof.Machine
end

