-- ==== Sys2Proof/Laws/ExecAll.lean ====
section
/-! SUPPORT. What every command may change, in one lemma over the commands. -/

namespace Sys2Proof.Machine

open Sys2Proof

/-- A command that is not a boundary answers a next state, changes only the parts it touches, and leaves the snapshot and the
queue. -/
theorem exec_ends (c : Instr) (s : State) (h : Instr.boundary c = false) : Ends (touches c) s (exec c s) :=
  match c, h with
  | .beatBoundary inp, h => Bool.noConfusion (show true = false from h)
  | .ageOut loc, _ => execAgeOut_ends loc s
  | .ptpSyncReceived port domain transport offset, _ => execPtpSyncReceived_ends port domain transport offset s
  | .ptpAnnounceReceived uplink msg, _ => execPtpAnnounceReceived_ends uplink msg s
  | .ptpAnnounceTimeout uplink, _ => execPtpAnnounceTimeout_ends uplink s
  | .beatPtpLocked t cycles inp, h => Bool.noConfusion (show true = false from h)
  | .beatPtpUnlocked, _ => execBeatPtpUnlocked_ends s
  | .beatSlewDone inp, h => Bool.noConfusion (show true = false from h)
  | .armOrigin, _ => execArmOrigin_ends s
  | .beatOriginSet inp, h => Bool.noConfusion (show true = false from h)
  | .read m r, _ => execRead_ends m r s
  | .write m r, _ => execWrite_ends m r s
  | .writeAtBeat m r, _ => execWriteAtBeat_ends m r s
  | .command m r, _ => execCommand_ends m r s
  | .requestCacheExpiry m, _ => execRequestCacheExpiry_ends m s
  | .myCacheFlush m, _ => execMyCacheFlush_ends m s
  | .clampClear, _ => execClampClear_ends s
  | .segmentInit m r, _ => execSegmentInit_ends m r s
  | .segment m r, _ => execSegment_ends m r s
  | .segmentAbandoned m, _ => execSegmentAbandoned_ends m s
  | .canFrameIgnored c f, _ => execCanFrameIgnored_ends c f s
  | .canTxComplete c won, _ => execCanTxComplete_ends c won s
  | .canErrorStateChange c tec rec, _ => execCanErrorStateChange_ends c tec rec s
  | .canBusOffRecovery c, _ => execCanBusOffRecovery_ends c s
  | .rollcall c, _ => execRollcall_ends c s
  | .rollcallAnswer c node data, _ => execRollcallAnswer_ends c node data s
  | .inbandRequest port frame, _ => execInbandRequest_ends port frame s
  | .keyEpochGraceEnd q, _ => execKeyEpochGraceEnd_ends q s
  | .mbxDoorbell f, _ => execMbxDoorbell_ends f s
  | .mbxRequestTake f, _ => execMbxRequestTake_ends f s
  | .mbxRspRelease f, _ => execMbxRspRelease_ends f s
  | .modeRequestConfigure, _ => execModeRequestConfigure_ends s
  | .modeRequestService, _ => execModeRequestService_ends s
  | .modeRequestListen, _ => execModeRequestListen_ends s
  | .modeRequestDormant, _ => execModeRequestDormant_ends s
  | .modeRequestFreeze, _ => execModeRequestFreeze_ends s
  | .dormantEntry, _ => execDormantEntry_ends s
  | .wake source line, _ => execWake_ends source line s
  | .powerOnReset, _ => execPowerOnReset_ends s
  | .dramTrainingDone ok, _ => execDramTrainingDone_ends ok s
  | .imageAccepted, _ => execImageAccepted_ends s
  | .storedSetLoad, _ => execStoredSetLoad_ends s
  | .zeroFillComplete, _ => execZeroFillComplete_ends s
  | .configureEntry, _ => execConfigureEntry_ends s
  | .warmRestart, _ => execWarmRestart_ends s
  | .watchdogRestart, _ => execWatchdogRestart_ends s
  | .trialRevert, _ => execTrialRevert_ends s
  | .lcCommission confirm, _ => execLcCommission_ends confirm s
  | .lcDecommission confirm, _ => execLcDecommission_ends confirm s
  | .lcVendorReset confirm auth, _ => execLcVendorReset_ends confirm auth s
  | .lcChallengeUpdate, _ => execLcChallengeUpdate_ends s
  | .wipeDone, _ => execWipeDone_ends s
  | .wipeVerifyFail, _ => execWipeVerifyFail_ends s
  | .imageActivateVerify, _ => execImageActivateVerify_ends s
  | .imageActivateTrial, _ => execImageActivateTrial_ends s
  | .imageConfirm, _ => execImageConfirm_ends s
  | .store, _ => execStore_ends s
  | .storeDone ok, _ => execStoreDone_ends ok s
  | .powerFailWarning, _ => execPowerFailWarning_ends s
  | .mainsCollapse, _ => execMainsCollapse_ends s
  | .tnCreate n, _ => execTnCreate_ends n s
  | .tnReset n, _ => execTnReset_ends n s
  | .tnDelete n, _ => execTnDelete_ends n s
  | .tenancyWipeEnd n, _ => execTenancyWipeEnd_ends n s
  | .psuInserted bay dc volts hz inlet serial, _ => execPsuInserted_ends bay dc volts hz inlet serial s
  | .psuRemoved bay, _ => execPsuRemoved_ends bay s
  | .moduleLineFall bay volts, _ => execModuleLineFall_ends bay volts s
  | .moduleLineRise bay, _ => execModuleLineRise_ends bay s
  | .pdClassified k cls second type, _ => execPdClassified_ends k cls second type s
  | .faultStartup k, _ => execFaultStartup_ends k s
  | .pdRemoved k, _ => execPdRemoved_ends k s
  | .pdFault k short, _ => execPdFault_ends k short s
  | .holdEnd k, _ => execHoldEnd_ends k s
  | .backoffLevelReset k, _ => execBackoffLevelReset_ends k s
  | .siliconRequest r, _ => execSiliconRequest_ends r s
  | .siliconRelease r, _ => execSiliconRelease_ends r s
  | .lldpPowerRequest k watts, _ => execLldpPowerRequest_ends k watts s
  | .pseControllerFault ports, _ => execPseControllerFault_ends ports s
  | .linkUp p partner fec, _ => execLinkUp_ends p partner fec s
  | .linkDown p, _ => execLinkDown_ends p s
  | .penaltyDecay, _ => execPenaltyDecay_ends s
  | .sfpInserted u, _ => execSfpInserted_ends u s
  | .moduleIdentify u ok id, _ => execModuleIdentify_ends u ok id s
  | .sfpRemoved u, _ => execSfpRemoved_ends u s
  | .txFault u, _ => execTxFault_ends u s
  | .txDisableRelease u, _ => execTxDisableRelease_ends u s
  | .moduleDdmRead u ddm alarms, _ => execModuleDdmRead_ends u ddm alarms s
  | .phyMgmtTimeout p, _ => execPhyMgmtTimeout_ends p s
  | .frameReceived p bytes phyError noRoom age at_ ts, _ => execFrameReceived_ends p bytes phyError noRoom age at_ ts s
  | .pfcFrameReceived p vector times, _ => execPfcFrameReceived_ends p vector times s
  | .pauseTimerExpiry p q, _ => execPauseTimerExpiry_ends p q s
  | .pfcRefresh p q, _ => execPfcRefresh_ends p q s
  | .pfcStormTrip p q, _ => execPfcStormTrip_ends p q s
  | .pfcStormClear p q, _ => execPfcStormClear_ends p q s
  | .lldpduReceived p mac pdu, _ => execLldpduReceived_ends p mac pdu s
  | .lldpNeighbourLost p slot, _ => execLldpNeighbourLost_ends p slot s
  | .lldpTransmit p, _ => execLldpTransmit_ends p s
  | .frameTxDone p at_ linkError, _ => execFrameTxDone_ends p at_ linkError s
  | .reclaimPassDone, _ => execReclaimPassDone_ends s
  | .versionRetire, _ => execVersionRetire_ends s
  | .twillSwap mask, _ => execTwillSwap_ends mask s
  | .twillDrainDone, _ => execTwillDrainDone_ends s
  | .shadowCopy t, _ => execShadowCopy_ends t s
  | .shadowCopyDone t, _ => execShadowCopyDone_ends t s
  | .learnApply, _ => execLearnApply_ends s
  | .settle, _ => execSettle_ends s
  | .dampingWindowEnd, _ => execDampingWindowEnd_ends s
  | .addStatic m, _ => execAddStatic_ends m s
  | .delete m, _ => execDelete_ends m s
  | .find m, _ => execFind_ends m s
  | .flushPort m, _ => execFlushPort_ends m s
  | .flushFid m, _ => execFlushFid_ends m s
  | .flushTenancy m, _ => execFlushTenancy_ends m s
  | .macFlushDone, _ => execMacFlushDone_ends s
  | .arpNdReceived p vlan m, _ => execArpNdReceived_ends p vlan m s
  | .nhRefresh n, _ => execNhRefresh_ends n s
  | .nhUnresolved n, _ => execNhUnresolved_ends n s
  | .snoopReport p vlan ip6 groups frame, _ => execSnoopReport_ends p vlan ip6 groups frame s
  | .snoopLeave p vlan ip6 group, _ => execSnoopLeave_ends p vlan ip6 group s
  | .snoopQuery p vlan frame, _ => execSnoopQuery_ends p vlan frame s
  | .snoopMemberExpiry, _ => execSnoopMemberExpiry_ends s
  | .alloc r size tn, _ => execAlloc_ends r size tn s
  | .share r h new final, _ => execShare_ends r h new final s
  | .release r h, _ => execRelease_ends r h s
  | .free r h, _ => execFree_ends r h s
  | .zeroFillDone pool index, _ => execZeroFillDone_ends pool index s
  | .apertureRead f offset len, _ => execApertureRead_ends f offset len s
  | .apertureWrite f offset data poison, _ => execApertureWrite_ends f offset data poison s
  | .flush p mask, _ => execFlush_ends p mask s
  | .histClear p mask, _ => execHistClear_ends p mask s
  | .changeTime p t, _ => execChangeTime_ends p t s
  | .cancel p, _ => execCancel_ends p s
  | .gateTakeover p, _ => execGateTakeover_ends p s
  | .gateEntryStart p at_, _ => execGateEntryStart_ends p at_ s
  | .keepCopy at_ linkError, _ => execKeepCopy_ends at_ linkError s
  | .segmentAgeClose, _ => execSegmentAgeClose_ends s
  | .prerollFree, _ => execPrerollFree_ends s
  | .heartbeatCheck, _ => execHeartbeatCheck_ends s
  | .heartbeatSend at_, _ => execHeartbeatSend_ends at_ s
  | .probeReply port src payload, _ => execProbeReply_ends port src payload s
  | .drainOffer f, _ => execDrainOffer_ends f s
  | .drainAck f, _ => execDrainAck_ends f s
  | .flnDrainTimeout, _ => execFlnDrainTimeout_ends s
  | .backfillSend at_, _ => execBackfillSend_ends at_ s
  | .backfillAck n payload, _ => execBackfillAck_ends n payload s
  | .flnBackfillTimeout, _ => execFlnBackfillTimeout_ends s
  | .indexExport n, _ => execIndexExport_ends n s
  | .purge q, _ => execPurge_ends q s
  | .dramAlert c crc time slots place, _ => execDramAlert_ends c crc time slots place s
  | .dramReplayDone c, _ => execDramReplayDone_ends c s
  | .dramUe place, _ => execDramUe_ends place s
  | .refreshDue c rank fill0 fill4, _ => execRefreshDue_ends c rank fill0 fill4 s
  | .idleSelfRefresh c, _ => execIdleSelfRefresh_ends c s
  | .selfRefreshExit c early, _ => execSelfRefreshExit_ends c early s
  | .dramScrubPassDone, _ => execDramScrubPassDone_ends s
  | .diagRead, _ => execDiagRead_ends s
  | .logClear, _ => execLogClear_ends s
  | .jobAdmit e source desc, _ => execJobAdmit_ends e source desc s
  | .compress, _ => execCompress_ends s
  | .decompress, _ => execDecompress_ends s
  | .copy1d, _ => execCopy1d_ends s
  | .copy2d, _ => execCopy2d_ends s
  | .jobEnd e bad, _ => execJobEnd_ends e bad s
  | .jobCompletionPost e, _ => execJobCompletionPost_ends e s
  | .aesRxLocked r rate hz, _ => execAesRxLocked_ends r rate hz s
  | .aesRxLost r, _ => execAesRxLost_ends r s
  | .aesCsChange r b cs user, _ => execAesCsChange_ends r b cs user s
  | .asrcSlip tx j high, _ => execAsrcSlip_ends tx j high s
  | .audioRampIn source, _ => execAudioRampIn_ends source s
  | .packetOut stream at_, _ => execPacketOut_ends stream at_ s
  | .packetIn at_ linkError, _ => execPacketIn_ends at_ linkError s
  | .featureFrame j, _ => execFeatureFrame_ends j s
  | .clipRelease j, _ => execClipRelease_ends j s
  | .pcieLinkUp gen width, _ => execPcieLinkUp_ends gen width s
  | .pcieLinkDown, _ => execPcieLinkDown_ends s
  | .hostWatchdogExpiry f, _ => execHostWatchdogExpiry_ends f s
  | .hostAlive f, _ => execHostAlive_ends f s
  | .flrStart f, _ => execFlrStart_ends f s
  | .flrCleanup f, _ => execFlrCleanup_ends f s
  | .flrDone f, _ => execFlrDone_ends f s
  | .ringEnable f k control, _ => execRingEnable_ends f k control s
  | .ringDisable f k control, _ => execRingDisable_ends f k control s
  | .ringQuiesced f k, _ => execRingQuiesced_ends f k s
  | .sqTailWrite f k v, _ => execSqTailWrite_ends f k v s
  | .cqHeadWrite f k v, _ => execCqHeadWrite_ends f k v s
  | .sqEntryTake f k entry, _ => execSqEntryTake_ends f k entry s
  | .rxFrameHandover entry at_, _ => execRxFrameHandover_ends entry at_ s
  | .txFrame f k data poison at_, _ => execTxFrame_ends f k data poison at_ s
  | .drainBufferPost f, _ => execDrainBufferPost_ends f s
  | .tableLoad f entry, _ => execTableLoad_ends f entry s
  | .tableLoadDone, _ => execTableLoadDone_ends s
  | .cqCoalesceTimeout f k, _ => execCqCoalesceTimeout_ends f k s
  | .dmaReadFailed f k data poisoned timeout, _ => execDmaReadFailed_ends f k data poisoned timeout s
  | .registerWrite f offset data poison, _ => execRegisterWrite_ends f offset data poison s
  | .recoveryCommit length, _ => execRecoveryCommit_ends length s
  | .recoveryUsed, _ => execRecoveryUsed_ends s
  | .clear g tn mask, _ => execClear_ends g tn mask s
  | .unmask g tn mask, _ => execUnmask_ends g tn mask s
  | .spacingExpiry src tn, _ => execSpacingExpiry_ends src tn s
  | .gpioLevelChange j, _ => execGpioLevelChange_ends j s
  | .chatterWindowEnd j, _ => execChatterWindowEnd_ends j s
  | .gpioStuck j, _ => execGpioStuck_ends j s
  | .snapshotCapture, _ => execSnapshotCapture_ends s
  | .snapshotDone, _ => execSnapshotDone_ends s
  | .withdrawnClear, _ => execWithdrawnClear_ends s
  | .fanEvaluation tach, _ => execFanEvaluation_ends tach s
  | .trayPresenceChange present, _ => execTrayPresenceChange_ends present s
  | .sensorFault sensor, _ => execSensorFault_ends sensor s
  | .thermalTrip, _ => execThermalTrip_ends s
  | .thermalTripRestore, _ => execThermalTripRestore_ends s
  | .ledTest, _ => execLedTest_ends s
  | .ledTestEnd, _ => execLedTestEnd_ends s
  | .psuPowerFailWarning bay, _ => execPsuPowerFailWarning_ends bay s
  | .psuFailed bay, _ => execPsuFailed_ends bay s
  | .psuInputOutOfRange bay volts hz, _ => execPsuInputOutOfRange_ends bay volts hz s
  | .mainsRestored bay dc volts hz, _ => execMainsRestored_ends bay dc volts hz s
  | .pseControllerFaultClear ports, _ => execPseControllerFaultClear_ends ports s
  | .sensorReportRestored sensor, _ => execSensorReportRestored_ends sensor s
  | .phyRetry p answers, _ => execPhyRetry_ends p answers s
  | .ptpSyncTransmit announce, _ => execPtpSyncTransmit_ends announce s
  | .ptpDelayMessage port delay, _ => execPtpDelayMessage_ends port delay s
  | .notifyRequest m r, _ => execNotifyRequest_ends m r s
  | .malformedTlp ecrc, _ => execMalformedTlp_ends ecrc s
  | .gpioSample raw, _ => execGpioSample_ends raw s
  | .aesRxLocking r, _ => execAesRxLocking_ends r s
  | .aes3SubframeReceived r b raw validity parity biphase, _ => execAes3SubframeReceived_ends r b raw validity parity biphase s
  | .aes3FrameTransmit t take, _ => execAes3FrameTransmit_ends t take s
  | .sampleSlot takes misses, _ => execSampleSlot_ends takes misses s

/-- A boundary answers a next state, and begins a new snapshot where it happens. -/
theorem exec_ends_beat (c : Instr) (s : State) (h : Instr.boundary c = true) : EndsBeat s (exec c s) := by
  unfold Instr.boundary at h
  split at h
  · exact execBeatBoundary_ends _ s
  · exact execBeatPtpLocked_ends _ _ _ s
  · exact execBeatSlewDone_ends _ s
  · exact execBeatOriginSet_ends _ s
  · exact Bool.noConfusion h

/-- A command that is an effect on the live half answers it as a next state, and only what it touches changes. -/
theorem exec_ran {c : Instr} {s : State} (f : Live → Live) (h : exec c s = s.effect f) (hb : Instr.boundary c = false) :
    ∃ t, exec c s = .next t ∧ s.only (touches c) t ∧ t.live = f s.live := by
  have e := exec_ends c s hb
  rw [h] at e
  obtain ⟨t, e1, e2, e3, e4⟩ := e
  cases e1
  exact ⟨_, h, ⟨e4, e3, fun p hn => e2.1 p hn⟩, rfl⟩

end Sys2Proof.Machine
end

