-- ==== Sys2Proof/Laws/Steps.lean ====
section
/-! SUPPORT. Lemmas about what commands do, which the statements lean on. -/

namespace Sys2Proof

open Machine

theorem q_boundary (s : State) (inp : BoundaryInputs) (number : Live → Live) (h : s.live.mode ≠ .off) {n k e : Nat}
    (hc : ∀ l, l.beat = s.live.beat → s.live.lowSame l → (number l).clock = (n, k, e)) :
    ∃ t, s.atBoundary number inp = .next t ∧ t.pending = s.pending ∧ t.start = t.live ∧
      t.live.beat.ticks = k ∧ t.live.beat.number = n ∧ t.live.beat.elapsed = e := by
  unfold State.atBoundary
  rw [if_neg h]
  have hb := Live.boundary_clock s.start number inp s.live
  rw [hc _ (Live.toNumber_beat ..) (Live.toNumber_low ..)] at hb
  have := (Prod.mk.injEq ..).mp hb
  exact ⟨_, rfl, rfl, rfl, ((Prod.mk.injEq ..).mp this.2).1, this.1, ((Prod.mk.injEq ..).mp this.2).2⟩
theorem q_plain (s : State) (drift : Nat) (l : Live) (hb : l.beat = s.live.beat) (hs : s.live.lowSame l) :
    (l.numberPlain drift).clock =
      ((if s.live.beat.strobeTaken = true ∧ s.live.beat.aligning = false ∧ s.live.lockDue = false then s.live.rd .FREE_RUN_ORIGIN
        else (s.live.beat.number + 1) % 2 ^ 64), s.live.beat.ticks + 1,
       (if s.live.beat.strobeTaken = true ∧ s.live.beat.aligning = false ∧ s.live.lockDue = false then 0
        else s.live.beat.elapsed + 1)) := by
  rw [Live.numberPlain_clock, Live.lockDue_congr hb hs, hb]
  rw [hs.rd (o := .FREE_RUN_ORIGIN) (by decide)]
  split <;> rfl
theorem toI32_ofI32 {v : Int} (h1 : -2147483648 ≤ v) (h2 : v ≤ 2147483647) : toI32 (ofI32 v) = v := by
  unfold toI32 ofI32; split <;> omega
theorem ofI32_lt (v : Int) : ofI32 v % 256 ^ 4 = ofI32 v := by
  unfold ofI32; omega
theorem runBmca_beat (l : Live) : l.runBmca.beat = l.beat := by
  unfold Live.runBmca Live.noParent
  split
  · dsimp only; split <;> simp
  · dsimp only; split <;> simp
theorem runBmca_arisen (l : Live) (o : Occ) (hm : l.mode.evaluates = true) (h : o ∈ l.events.arisen) : o ∈ l.runBmca.events.arisen := by
  unfold Live.runBmca Live.noParent
  split
  · dsimp only; split
    · simpa using h
    · rw [Live.raise_eq (by simpa [Live.mode] using hm)]; simp [h]
  · dsimp only; split
    · rw [Live.raise_eq (by simpa [Live.mode] using hm)]; simp [h]
    · simpa using h
theorem bpmRuns_ev {s : Live} {r : Nat} (h : s.bpmRuns r = true) : s.mode.evaluates = true := by
  unfold Live.bpmRuns at h; exact Mode.evaluates_of_engineOn (by simp_all)
theorem blk_bpm' (l : Live) (b : Nat) (g : Signal) (n port tc tn : Nat) : (l.blk b g n port tc tn).bpm = l.bpm := by simp
theorem allocRefused_bpm (l : Live) (r : Nat) (p : Option Nat) (c : Nat) : (l.allocRefused r p c).bpm = l.bpm := by
  unfold Live.allocRefused; cases p <;> simp
theorem bpmFault_bpm (l : Live) (r h c : Nat) : (l.bpmFault r h c).bpm = l.bpm := by
  unfold Live.bpmFault; dsimp only; split <;> simp
theorem freeBuffer_bufs (l : Live) (key r : Nat) : (l.freeBuffer key r).bpm.bufs =
    l.bpm.bufs.upd key fun b => { b with owners := [], final := 0, gen := nextGen b.gen, zeroing := true } := by
  unfold Live.freeBuffer
  dsimp only
  rw [blk_bpm']
  split <;> rfl
theorem bpmResult_get (l : Live) (r c : Nat) (h : Option Nat) : (l.bpmResult r c h).bpm.results.get r = (c, h.getD (l.bpm.results.get r).2) :=
  Tbl.get_put_same ..
theorem opReport_eq {l : Live} (hm : l.mode.evaluates = true) (rank op result loc eff : Nat) :
    l.opReport rank op result loc eff = { ((l.wr .OP_RESULT result 0 0 rank).wr .OP_LOCATION loc 0 0 rank).wr .OP_EFFECTIVE eff 0 0 rank with
      events := { l.events with arisen := l.events.arisen ++ [l.occ 391 (u8 rank ++ u8 op ++ u8 result ++ u32 loc ++ u64 eff) (l.masterTenancy rank)] } } := by
  unfold Live.opReport
  rw [Live.raise_eq (by simpa [Live.mode] using hm)]
  rfl
theorem opReport_plane (l : Live) (rank op result loc eff : Nat) : (l.opReport rank op result loc eff).plane = l.plane := by
  unfold Live.opReport; simp
theorem opReport_keeps' {l : Live} (hm : l.mode.evaluates = true) (rank op result loc eff : Nat) :
    l.cellsBut [Obj.key .OP_RESULT 0 0 rank, Obj.key .OP_LOCATION 0 0 rank, Obj.key .OP_EFFECTIVE 0 0 rank] (l.opReport rank op result loc eff) := by
  rw [opReport_eq hm]
  exact .of_store (.wr (.wr (.wr (.refl _ _) (by simp)) (by simp)) (by simp)) rfl
theorem op_keys (rank : Nat) : Obj.key .OP_RESULT 0 0 rank ≠ Obj.key .OP_LOCATION 0 0 rank ∧
    Obj.key .OP_RESULT 0 0 rank ≠ Obj.key .OP_EFFECTIVE 0 0 rank ∧ Obj.key .OP_LOCATION 0 0 rank ≠ Obj.key .OP_EFFECTIVE 0 0 rank := by
  have h1 : Obj.index .OP_RESULT 0 * 256 + Obj.sub .OP_RESULT ≠ Obj.index .OP_LOCATION 0 * 256 + Obj.sub .OP_LOCATION := by decide
  have h2 : Obj.index .OP_RESULT 0 * 256 + Obj.sub .OP_RESULT ≠ Obj.index .OP_EFFECTIVE 0 * 256 + Obj.sub .OP_EFFECTIVE := by decide
  have h3 : Obj.index .OP_LOCATION 0 * 256 + Obj.sub .OP_LOCATION ≠ Obj.index .OP_EFFECTIVE 0 * 256 + Obj.sub .OP_EFFECTIVE := by decide
  unfold Obj.key; omega
theorem opReport_result {l : Live} (hm : l.mode.evaluates = true) (rank op result loc eff : Nat) :
    (l.opReport rank op result loc eff).rd .OP_RESULT 0 0 rank = result % 256 := by
  rw [opReport_eq hm]
  show (((l.wr .OP_RESULT result 0 0 rank).wr .OP_LOCATION loc 0 0 rank).wr .OP_EFFECTIVE eff 0 0 rank).rd .OP_RESULT 0 0 rank = _
  rw [Live.rd_wr_other _ _ (op_keys rank).2.1, Live.rd_wr_other _ _ (op_keys rank).1, Live.rd_wr_same]; rfl
theorem opReport_location {l : Live} (hm : l.mode.evaluates = true) (rank op result loc eff : Nat) :
    (l.opReport rank op result loc eff).rd .OP_LOCATION 0 0 rank = loc % 2 ^ 32 := by
  rw [opReport_eq hm]
  show (((l.wr .OP_RESULT result 0 0 rank).wr .OP_LOCATION loc 0 0 rank).wr .OP_EFFECTIVE eff 0 0 rank).rd .OP_LOCATION 0 0 rank = _
  rw [Live.rd_wr_other _ _ (op_keys rank).2.2, Live.rd_wr_same]; rfl
theorem showMac_plane (l : Live) : l.showMac.plane.fwd = l.plane.fwd := by
  have hk : ∀ (l : Live) (key old : Nat), (l.keepVersion key old).plane.fwd = l.plane.fwd := by
    intro l key old; unfold Live.keepVersion; split <;> rfl
  have hw : ∀ (l : Live) (o : Obj) (v i k t : Nat), (l.wrV o v i k t).plane.fwd = l.plane.fwd := by
    intro l o v i k t; unfold Live.wrV; split
    · rfl
    · exact hk ..
  have hf : ∀ (n : Nat) (f : Live → Nat → Live) (l : Live), (∀ l x, (f l x).plane.fwd = l.plane.fwd) → (l.forN n f).plane.fwd = l.plane.fwd := by
    intro n f l h; unfold Live.forN
    have : ∀ (xs : List Nat) (l : Live), (xs.foldl f l).plane.fwd = l.plane.fwd := by
      intro xs; induction xs with
      | nil => intro l; rfl
      | cons x xs ih => intro l; rw [List.foldl_cons, ih, h]
    exact this _ _
  unfold Live.showMac
  dsimp only
  rw [hf _ _ _ (fun l x => hw ..), hf _ _ _ (fun l x => hw ..)]
  rfl
theorem macChange_fwd (l : Live) (loc v : Nat) (e : MacEntry) (d : Nat) : (l.macChange loc v e d).plane.fwd =
    { l.plane.fwd with settle := l.plane.fwd.settle ++ [(v, loc)], visible := Tbl.ins (l.plane.fwd.visible.del loc) loc v } := by
  unfold Live.macChange; dsimp only; simp [Live.setMac, Live.setElem]
theorem macChange_modes (l : Live) (loc v : Nat) (e : MacEntry) (d : Nat) : (l.macChange loc v e d).modes = l.modes := by
  unfold Live.macChange; dsimp only; simp [Live.setMac, Live.setElem]
theorem when_markDirty_keeps (l : Live) (c : Bool) : Keeps [.store, .modes] l (l.when c Live.markDirty) := by
  unfold Live.when; split
  · exact Live.markDirty_keeps l
  · exact .refl _ _
theorem forL_inv {α : Type} {P : Live → Prop} {f : Live → α → Live} (hf : ∀ l x, P l → P (f l x)) (xs : List α) (l : Live) (h : P l) :
    P (l.forL xs f) := by
  unfold Live.forL
  induction xs generalizing l with
  | nil => exact h
  | cons x xs ih => exact ih _ (hf l x h)
theorem learnRefused_fwd (l : Live) (r : Learn) : (l.learnRefused r).plane = l.plane := by unfold Live.learnRefused; simp
theorem setMac_plane (l : Live) (loc : Nat) (e : MacEntry) : (l.setMac loc e).plane = l.plane := by simp [Live.setMac, Live.setElem]
theorem learnNew_learns (l : Live) (r : Learn) (v : Nat) (held : Option Nat) : (l.learnNew r v held).plane.fwd.learns = l.plane.fwd.learns := by
  unfold Live.learnNew
  split
  · simp [learnRefused_fwd]
  · split
    · simp [learnRefused_fwd]
    · split
      · simp [learnRefused_fwd]
      · simp only [Live.blk_plane, Live.macCreate, macChange_fwd]
theorem learnMove_learns (l : Live) (r : Learn) (v loc : Nat) (e : MacEntry) : (l.learnMove r v loc e).plane.fwd.learns = l.plane.fwd.learns := by
  unfold Live.learnMove
  dsimp only
  split
  · rw [learnRefused_fwd]
  · split
    · rw [learnRefused_fwd, setMac_plane]
    · split
      · simp only [Live.raise_plane, Live.blk_plane, Live.count_plane, macChange_fwd]
      · simp only [Live.blk_plane, Live.count_plane, macChange_fwd]
theorem learnOne_learns (l : Live) (r : Learn) : (l.learnOne r).plane.fwd.learns = l.plane.fwd.learns := by
  unfold Live.learnOne
  dsimp only
  split
  · exact learnNew_learns ..
  · split
    · split
      · exact learnNew_learns ..
      · rw [learnRefused_fwd]
    · split
      · rfl
      · split
        · split
          · rw [setMac_plane]; simp
          · simp
        · exact learnMove_learns ..
theorem wrV_ports (l : Live) (o : Obj) (v i k t : Nat) : (l.wrV o v i k t).plane.ports = l.plane.ports := by
  unfold Live.wrV
  split
  · rfl
  · rw [Live.wr_plane]; unfold Live.keepVersion; split
    · rfl
    · rw [Live.setPlane_plane]
theorem linkTo_ports (l : Live) (p new : Nat) : (l.linkTo p new).plane.ports = l.plane.ports := by
  unfold Live.linkTo; dsimp only; simp [wrV_ports]
theorem portRt_of_ports {a b : Live} (h : a.plane.ports = b.plane.ports) (p : Nat) : a.portRt p = b.portRt p := by
  unfold Live.portRt; rw [h]
theorem linkTo_mem {l : Live} (ev : l.mode.evaluates = true) (p : Nat) : ∃ tn, l.occ (192 + p) (u8 (l.linkState p) ++ u8 linkDown) tn ∈ (l.linkTo p linkDown).events.arisen := by
  unfold Live.linkTo
  refine ⟨l.portOwner p, ?_⟩
  have h := Live.raise_mem (l := (((l.wrV .LINK_STATE_0401 linkDown p).wr .LAST_CHANGE_BEAT_0401 l.now p).count .LINK_CHANGES 1 p)) (a := l) ev
    (by rw [Live.count_modes, Live.wr_modes, (Live.wrV_keeps ..).modes_eq (by decide)]) (by rw [Live.count_beat, Live.wr_beat, (Live.wrV_keeps ..).beat_eq (by decide)])
  have e : (u8 (l.linkState p) ++ u8 linkDown ++ if linkDown = linkUp then u32 (l.rd .LINK_SPEED_0401 p) ++ u8 (l.rd .FEC_ACTIVE p) else []) = u8 (l.linkState p) ++ u8 linkDown := by
    rw [if_neg (by decide), List.append_nil]
  dsimp only
  rw [e]
  exact h _ _ _
theorem key_item {o : Obj} (h : o.stride ≠ 0) {p q k t : Nat} (hpq : p ≠ q) : o.key p k t ≠ o.key q k t := by
  unfold Obj.key Obj.index
  intro he
  have : o.stride * p = o.stride * q := by omega
  exact hpq (Nat.eq_of_mul_eq_mul_left (Nat.pos_of_ne_zero h) this)
theorem decayPort_rest {l : Live} {p : Nat} (h : l.linkState p ≠ linkSuppressed) :
    l.decayPort p = if l.rd .PENALTY p = 0 then l else l.wr .PENALTY (l.rd .PENALTY p * decayFactor (l.rd .HALF_LIFE p) / 65536) p := by
  unfold Live.decayPort; dsimp only; rw [if_neg (fun hh => h hh.1)]
theorem decayPort_other {l : Live} {p : Nat} (h : l.linkState p ≠ linkSuppressed) (o : Obj) (q k t : Nat) (hk : o.key q k t ≠ Obj.key .PENALTY p 0 0) :
    (l.decayPort p).rd o q k t = l.rd o q k t := by
  rw [decayPort_rest h]; split
  · rfl
  · exact Live.rd_wr_other _ _ hk
theorem decayPort_ports {l : Live} {p : Nat} (h : l.linkState p ≠ linkSuppressed) : (l.decayPort p).plane = l.plane := by
  rw [decayPort_rest h]; split <;> simp
theorem decay_all (l : Live) (n : Nat) (hs : ∀ p, p < n → l.linkState p ≠ linkSuppressed) :
    (l.forN n Live.decayPort).plane = l.plane ∧
    (∀ p, p < n → (l.forN n Live.decayPort).rd .PENALTY p = l.rd .PENALTY p * decayFactor (l.rd .HALF_LIFE p) / 65536 % 256 ^ 4) ∧
    (∀ p, n ≤ p → (l.forN n Live.decayPort).rd .PENALTY p = l.rd .PENALTY p) ∧
    (∀ p, (l.forN n Live.decayPort).rd .HALF_LIFE p = l.rd .HALF_LIFE p) ∧
    (∀ p, (l.forN n Live.decayPort).linkState p = l.linkState p) := by
  induction n with
  | zero => exact ⟨rfl, fun p h => absurd h (by omega), fun _ _ => rfl, fun _ => rfl, fun _ => rfl⟩
  | succ n ih =>
    have ⟨h0, h1, h2, h3, h4⟩ := ih (fun p hp => hs p (by omega))
    have e : l.forN (n + 1) Live.decayPort = (l.forN n Live.decayPort).decayPort n := by
      unfold Live.forN; rw [List.range_succ, List.foldl_append]; rfl
    rw [e]
    generalize l.forN n Live.decayPort = m at *
    have hm : m.linkState n ≠ linkSuppressed := by rw [h4]; exact hs n (by omega)
    have hh : ∀ q : Nat, Obj.key .HALF_LIFE q 0 0 ≠ Obj.key .PENALTY n 0 0 := by
      intro q; simp only [Obj.key, Obj.index, Obj.HALF_LIFE, Obj.PENALTY]; omega
    have hl : ∀ q : Nat, Obj.key .LINK_STATE_0401 q 0 0 ≠ Obj.key .PENALTY n 0 0 := by
      intro q; simp only [Obj.key, Obj.index, Obj.LINK_STATE_0401, Obj.PENALTY]; omega
    refine ⟨by rw [decayPort_ports hm, h0], fun p hp => ?_, fun p hp => ?_, fun p => by rw [decayPort_other hm _ _ _ _ (hh p), h3],
      fun p => by unfold Live.linkState; rw [decayPort_other hm _ _ _ _ (hl p)]; exact h4 p⟩
    · by_cases hpn : p = n
      · subst hpn
        rw [decayPort_rest hm, h2 p (Nat.le_refl _), h3]
        split
        · rename_i h; rw [h2 p (Nat.le_refl _), h]; simp
        · rw [Live.rd_wr_same]; rfl
      · rw [decayPort_other hm _ _ _ _ (key_item (by decide) hpn)]; exact h1 p (by omega)
    · rw [decayPort_other hm _ _ _ _ (key_item (by decide) (by omega))]; exact h2 p (by omega)
theorem portsRun_ev {m : Mode} (h : m.portsRun = true) : m.evaluates = true := by revert h; cases m <;> decide
theorem modulesRun_ev {m : Mode} (h : m.modulesRun = true) : m.evaluates = true := by revert h; cases m <;> decide
theorem modulesRun_of_ports {m : Mode} (h : m.portsRun = true) : m.modulesRun = true := by revert h; cases m <;> decide
theorem linkSettle_disabled {l : Live} {p : Nat} (h : l.mode.portsRun = true) (h1 : l.rdB .ENABLE_0400 p = false)
    (h2 : l.linkState p = linkDisabled) : l.linkSettle p = l := by
  unfold Live.linkSettle Live.restState; simp only [h, h1, h2]; unfold Live.linkRest; simp [linkDisabled, linkUp, linkSuppressed, linkDown, h2]
theorem startPfc_busy {l : Live} {p : Nat} (h : (l.portRt p).tx ≠ none) : l.startPfc p = l := by
  unfold Live.startPfc; simp [h]
theorem setPause_port (l : Live) (p q t : Nat) : (l.setPause p q t).portRt p =
    { l.portRt p with pause := (l.portRt p).pause.put q t, whole := if t = 0 then setBit (l.portRt p).whole q false else (l.portRt p).whole } := by
  unfold Live.setPause; simp only [Live.wr_portRt, Live.setPort_same]
theorem setPause_others (l : Live) {p r : Nat} (q t : Nat) (h : r ≠ p) : (l.setPause p q t).portRt r = l.portRt r := by
  unfold Live.setPause; simp only [Live.wr_portRt]; exact Live.setPort_other _ _ h
theorem setPause_all (p : Nat) (g : Nat → Nat) (xs : List Nat) : ∀ l : Live,
    ((l.forL xs fun l q => l.setPause p q (g q)).portRt p).tx = (l.portRt p).tx ∧
    (∀ q, ((l.forL xs fun l q => l.setPause p q (g q)).portRt p).pause.get q = if q ∈ xs then g q else (l.portRt p).pause.get q) ∧
    (∀ r, r ≠ p → (l.forL xs fun l q => l.setPause p q (g q)).portRt r = l.portRt r) := by
  induction xs with
  | nil => intro l; exact ⟨rfl, fun q => by simp [Live.forL], fun _ _ => rfl⟩
  | cons x xs ih =>
    intro l
    have ⟨h1, h2, h3⟩ := ih (l.setPause p x (g x))
    have e : l.forL (x :: xs) (fun l q => l.setPause p q (g q)) = (l.setPause p x (g x)).forL xs fun l q => l.setPause p q (g q) := rfl
    rw [e]
    refine ⟨by rw [h1, setPause_port], fun q => ?_, fun r hr => by rw [h3 r hr, setPause_others _ _ _ hr]⟩
    rw [h2, setPause_port]
    by_cases hx : q ∈ xs
    · simp [hx]
    · by_cases hq : q = x
      · subst hq; simp [Tbl.get_put_same]
      · simp [hx, hq, Tbl.get_put_other]
theorem recoveryStart_portRt (l : Live) (k n t p : Nat) : (l.recoveryStart k n t).portRt p = l.portRt p := by
  unfold Live.recoveryStart; dsimp only; split <;> simp
theorem journal_none {l : Live} (h : l.recoveries.done = []) : l.journalRecoveries = l := by
  unfold Live.journalRecoveries
  simp only [h, sortBy, List.foldl_nil, List.mergeSort_nil]
  rw [show l.setRec (fun x => { x with done := [] }) = { l with recoveries := { l.recoveries with done := [] } } from rfl, ← h]
theorem recoveryDone_none {l : Live} (h : l.recoveries.active = []) (k n : Nat) : l.recoveryDone k n = l := by
  unfold Live.recoveryDone; simp [h, Live.forL]
theorem keep_get {α : Type} [Inhabited α] (t : Tbl α) (f : Nat → Bool) (k : Nat) :
    Tbl.get (t.keep fun k _ => f k) k = if f k then t.get k else default := by
  unfold Tbl.get
  have : (t.keep fun k _ => f k).find? k = if f k then t.find? k else none := by
    unfold Tbl.keep
    induction t with
    | nil => cases f k <;> rfl
    | cons e t ih =>
      obtain ⟨a, b⟩ := e
      rw [List.filter_cons]
      by_cases ha : a = k
      · subst ha
        by_cases hf : f a = true
        · simp [hf, Tbl.find?]
        · have hf' : f a = false := by simpa using hf
          simp only [hf', Bool.false_eq_true, if_false] at ih ⊢; exact ih
      · have ha' : ¬ k = a := fun e => ha e.symm
        by_cases hf : f a = true
        · simp only [hf, if_true, Tbl.find?, ha', if_false]; exact ih
        · simp only [hf, if_false, Tbl.find?, ha', Bool.false_eq_true]; exact ih
  rw [this]; split <;> rfl
theorem hist_all (p : Nat) (xs : List Nat) (k : Nat) : ∀ l : Live,
    (l.forL xs fun l q => l.setPlane fun x => { x with histFrom := x.histFrom.put (8 * p + q) x.sampled, hist := x.hist.keep fun k _ => k / 16 != 8 * p + q }).plane.hist.get k
      = if k / 16 ∈ xs.map (8 * p + ·) then 0 else l.plane.hist.get k := by
  induction xs with
  | nil => intro l; simp [Live.forL]
  | cons x xs ih =>
    intro l
    refine (ih _).trans ?_
    rw [Live.setPlane_plane, keep_get l.plane.hist (fun k => k / 16 != 8 * p + x) k]
    by_cases h1 : k / 16 = 8 * p + x
    · simp [h1]
    · simp [h1]
theorem showCaseTemp_cells {ks : List Nat} {a b : Live} (h : a.cellsBut ks b) (h0 : Obj.key .CASE_TEMP 0 0 0 ∈ ks)
    (h1 : Obj.key .CASE_TEMP 1 0 0 ∈ ks) : a.cellsBut ks b.showCaseTemp := by
  unfold Live.showCaseTemp Live.forN Live.wrI
  simp only [List.range_succ, List.range_zero, List.nil_append, List.foldl_cons, List.foldl_nil, List.foldl_append, List.cons_append]
  exact .wr (.wr h h0) h1
theorem showCaseTemp_rd (l : Live) {o : Obj} {i k t : Nat} (h : o.key i k t ≠ Obj.key .CASE_TEMP 0 0 0) (h' : o.key i k t ≠ Obj.key .CASE_TEMP 1 0 0) :
    l.showCaseTemp.rd o i k t = l.rd o i k t :=
  (showCaseTemp_cells (.refl [Obj.key .CASE_TEMP 0 0 0, Obj.key .CASE_TEMP 1 0 0] l) (by simp) (by simp)).same _ _ _ _ (by simp [h, h'])
theorem fanForce_level {l : Live} (h : l.rdB .TRAY_PRESENT = false) : l.fanForce = l.wr .FAN_LEVEL 15 := by
  unfold Live.fanForce; rw [if_pos]; unfold Live.fanTrouble; simp [h]
theorem tray_gone (l : Live) : (((l.wrB .TRAY_PRESENT false).setUnit fun u => { u with misses := [] }).wr .FAN_FAILED 7).rdB .TRAY_PRESENT = false := by
  unfold Live.rdB
  have : (((l.wrB .TRAY_PRESENT false).setUnit fun u => { u with misses := [] }).wr .FAN_FAILED 7).rd .TRAY_PRESENT = 0 := by
    refine (Live.rd_wr_other _ _ (by first | decide | (simp only [Obj.key, Obj.index]; omega))).trans ?_
    refine (Keeps.rd (Live.setUnit_keeps ..) ..).trans ?_
    unfold Live.wrB
    refine (Live.rd_wr_same ..).trans ?_
    rfl
  rw [this]; rfl
theorem modeTo_mode (l : Live) (m : Mode) (c : Nat) : (l.modeTo m c).mode = m := by
  unfold Live.modeTo
  dsimp only
  split
  · assumption
  · unfold Live.mode; rw [Live.raise_modes]; rfl
theorem powerUp_mode (l : Live) : l.powerUp.mode = .bringup := by
  have h : (l.newRun .powerOn).mode = .bringup := by unfold Live.newRun; exact modeTo_mode ..
  unfold Live.powerUp
  generalize l.newRun .powerOn = x at h ⊢
  dsimp only
  rw [(Live.sampleModules_keeps _).mode_eq (by decide)]
  unfold Live.mode at h ⊢
  split
  · simp only [Live.setModes_modes, Live.raise_modes, h]
  · simp only [Live.setModes_modes, h]
theorem collapse_mode (l : Live) : l.collapse.mode = .off := by
  unfold Live.collapse
  dsimp only
  have h := (Live.wiped_keeps (l.setModes fun m => { m with mode := .off, storing := none }) .powerOn false).mode_eq (by decide)
  generalize Live.wiped _ .powerOn false = x at h ⊢
  unfold Live.mode at h ⊢
  rw [Live.setModes_modes] at h
  exact h
theorem fan_level (l : Live) (tach : List (Nat × Nat)) (n : Nat) :
    (l.forN n fun l k => (l.wrSat .FAN_RPM (tach.getD k (0, 0)).1 0 k).judgeFan k (tach.getD k (0, 0)).2).rd .FAN_LEVEL = l.rd .FAN_LEVEL := by
  induction n with
  | zero => rfl
  | succ n ih =>
    refine Eq.trans ?_ ih
    unfold Live.forN
    rw [List.range_succ, List.foldl_append]
    generalize List.foldl _ l (List.range n) = x
    show ((x.wrSat .FAN_RPM (tach.getD n (0, 0)).1 0 n).judgeFan n (tach.getD n (0, 0)).2).rd .FAN_LEVEL = _
    have h1 : (x.wrSat .FAN_RPM (tach.getD n (0, 0)).1 0 n).rd .FAN_LEVEL = x.rd .FAN_LEVEL := by
      unfold Live.wrSat
      refine (Live.rd_wr_other _ _ (by first | decide | (simp only [Obj.key, Obj.index, Obj.FAN_LEVEL, Obj.FAN_RPM]; omega))).trans ?_
      rfl
    rw [← h1]
    generalize x.wrSat .FAN_RPM (tach.getD n (0, 0)).1 0 n = y
    unfold Live.judgeFan
    dsimp only
    have h2 : ∀ (z : Live) v, (z.wr .FAN_FAILED v).rd .FAN_LEVEL = z.rd .FAN_LEVEL := fun z v => Live.rd_wr_other _ _ (by decide)
    generalize (if (tach.getD n (0, 0)).2 < 50 then y.enclosure.misses.get n + 1 else 0) = m
    split
    · split <;> simp [h2]
    · split <;> simp [h2]
theorem fan_eval (l : Live) (f : Live → Nat → Live) (n : Nat) (hf : ∀ l k, (f l k).enclosure.evaluated = l.enclosure.evaluated) :
    (l.forN n f).enclosure.evaluated = l.enclosure.evaluated := by
  unfold Live.forN
  generalize List.range n = xs
  induction xs generalizing l with
  | nil => rfl
  | cons x xs ih => exact (ih _).trans (hf ..)
theorem judge_eval (l : Live) (k v n : Nat) : ((l.wrSat .FAN_RPM v 0 k).judgeFan k n).enclosure.evaluated = l.enclosure.evaluated := by
  unfold Live.judgeFan Live.wrSat
  dsimp only
  generalize (if n < 50 then _ else 0) = m
  split
  · split <;> simp
  · split <;> simp
theorem drainAcks_none {l : Live} (h : ∀ f, f < 8 → (l.ring f 8).taken = []) : l.drainAcks = l := by
  unfold Live.drainAcks Live.forN
  have : ∀ xs : List Nat, (∀ x ∈ xs, x < 8) → xs.foldl (fun (l : Live) f => l.forL (l.ring f 8).taken fun l _ => l.drainAck f) l = l := by
    intro xs
    induction xs with
    | nil => intro _; rfl
    | cons x xs ih =>
      intro hx
      rw [List.foldl_cons, h x (hx x (by simp))]
      exact ih fun y hy => hx y (by simp [hy])
  exact this _ fun x hx => by simpa using hx
theorem setTn_rd (l : Live) (n st : Nat) (h : st < 256) : (l.setTn n st).rd .TN_STATE n = st := by
  unfold Live.setTn
  dsimp only
  refine (Live.rd_wr_other _ _ (by first | decide | (simp only [Obj.key, Obj.index, Obj.TN_STATE, Obj.TN_ACTIVE]; omega))).trans ?_
  unfold Live.wrV
  split
  · rename_i hh; rw [hh]; exact Nat.mod_eq_of_lt h
  · refine (Live.rd_wr_same ..).trans ?_
    exact Nat.mod_eq_of_lt h
/-- What a port's change of state writes. -/
theorem poeTo_cells {l : Live} (h : l.mode.evaluates = true) (k st r : Nat) : l.cellsBut (poeCells k) (l.poeTo k st r) := by
  unfold Live.poeTo
  extract_lets was l1 l2 l3 l4 l5 tells
  have w : ∀ {o : Obj} {v : Nat} {x : Live}, o.key k 0 0 ∈ poeCells k → l.cellsBut (poeCells k) x → l.cellsBut (poeCells k) (x.wr o v k) := fun hm hx => .wr hx hm
  have q : ∀ {x : Live} {f : Pse → Pse}, l.cellsBut (poeCells k) x → l.cellsBut (poeCells k) (x.setPse k f) := fun hx => .keep (Live.setPse_keeps ..) hx
  have h1 : l.cellsBut (poeCells k) l1 := w (by simp [poeCells]) (w (by simp [poeCells]) (.refl _ _))
  have h2 : l.cellsBut (poeCells k) l2 := by
    simp only [l2]; split
    · exact h1
    · exact q (w (by simp [poeCells]) (w (by simp [poeCells]) (w (by simp [poeCells]) h1)))
  have h3 : l.cellsBut (poeCells k) l3 := by
    simp only [l3]; split
    · exact h2
    · exact w (by simp [poeCells]) h2
  have h4 : l.cellsBut (poeCells k) l4 := by
    simp only [l4]; split
    · exact q (w (by simp [poeCells]) (w (by simp [poeCells]) h3))
    · exact h3
  have h5 : l.cellsBut (poeCells k) l5 := by
    simp only [l5]; split
    · exact h4
    · split
      · exact q (w (by simp [poeCells]) (w (by simp [poeCells]) h4))
      · exact h4
  split
  · refine .raise h5 ?_
    have m1 : l1.mode = l.mode := by simp [l1, Live.mode]
    have m2 : l2.mode = l1.mode := by simp only [l2]; split <;> simp [Live.mode]
    have m3 : l3.mode = l2.mode := by simp only [l3]; split <;> simp [Live.mode]
    have m4 : l4.mode = l3.mode := by simp only [l4]; split <;> simp [Live.mode]
    have m5 : l5.mode = l4.mode := by simp only [l5]; repeat' split
                                      all_goals simp [Live.mode]
    rw [m5, m4, m3, m2, m1]; exact h
  · exact h5
/-- The state and the reason that a port changes to read back; the faults and the backoff stay. -/
theorem poeTo_rd {l : Live} (h : l.mode.evaluates = true) (k st r : Nat) :
    (l.poeTo k st r).rd .STATE_0340 k = st % 256 ∧ (l.poeTo k st r).rd .REASON k = r % 256 ∧
    (l.poeTo k st r).rd .BACKOFF_LEVEL k = l.rd .BACKOFF_LEVEL k ∧
    (st = poeSearching → (l.poeTo k st r).rd .CLASS k = 255) := by
  unfold Live.poeTo
  extract_lets was l1 l2 l3 l4 l5 tells
  have m5 : l5.mode.evaluates = true := by
    have m1 : l1.mode = l.mode := by simp [l1, Live.mode]
    have m2 : l2.mode = l1.mode := by simp only [l2]; split <;> simp [Live.mode]
    have m3 : l3.mode = l2.mode := by simp only [l3]; split <;> simp [Live.mode]
    have m4 : l4.mode = l3.mode := by simp only [l4]; split <;> simp [Live.mode]
    have m5 : l5.mode = l4.mode := by simp only [l5]; repeat' split
                                      all_goals simp [Live.mode]
    rw [m5, m4, m3, m2, m1]; exact h
  have go : ∀ (o : Obj), (if tells then l5.raise (128 + k) (u8 st ++ u8 r) (l.portOwner k) else l5).rd o k = l5.rd o k := by
    intro o; split
    · exact Live.raise_rd m5 ..
    · rfl
  have main : ∀ o : Obj, (o.key k 0 0 ≠ Obj.key .GRANT k 0 0 ∧ o.key k 0 0 ≠ Obj.key .AGREED k 0 0 ∧ o.key k 0 0 ≠ Obj.key .MEASURED k 0 0 ∧
      o.key k 0 0 ≠ Obj.key .CLAIM k 0 0 ∧ o.key k 0 0 ≠ Obj.key .CLASS k 0 0 ∧ o.key k 0 0 ≠ Obj.key .PD_TYPE k 0 0 ∧
      o.key k 0 0 ≠ Obj.key .HOLD_REMAINING k 0 0 ∧ o.key k 0 0 ≠ Obj.key .FAULTS_IN_WINDOW k 0 0) → l5.rd o k = l1.rd o k := by
    intro o ⟨a, b, c, d, e, f, g, i⟩
    have h2 : l2.rd o k = l1.rd o k := by
      simp only [l2]; split
      · rfl
      · rw [Live.setPse_rd, Live.rd_wr_other _ _ c, Live.rd_wr_other _ _ b, Live.rd_wr_other _ _ a]
    have h3 : l3.rd o k = l2.rd o k := by
      simp only [l3]; split
      · rfl
      · exact Live.rd_wr_other _ _ d
    have h4 : l4.rd o k = l3.rd o k := by
      simp only [l4]; split
      · rw [Live.setPse_rd, Live.rd_wr_other _ _ f, Live.rd_wr_other _ _ e]
      · rfl
    have h5 : l5.rd o k = l4.rd o k := by
      simp only [l5]; split
      · rfl
      · split
        · rw [Live.setPse_rd, Live.rd_wr_other _ _ i, Live.rd_wr_other _ _ g]
        · rfl
    rw [h5, h4, h3, h2]
  refine ⟨?_, ?_, ?_, fun hs => ?_⟩
  · rw [go, main _ (by simp only [Obj.key, Obj.index, Obj.STATE_0340, Obj.REASON, Obj.GRANT, Obj.AGREED, Obj.MEASURED, Obj.CLAIM, Obj.CLASS, Obj.PD_TYPE, Obj.HOLD_REMAINING, Obj.FAULTS_IN_WINDOW, Obj.BACKOFF_LEVEL]; refine ⟨?_, ?_, ?_, ?_, ?_, ?_, ?_, ?_⟩ <;> omega)]
    refine (Live.rd_wr_other _ _ (by first | decide | (simp only [Obj.key, Obj.index, Obj.STATE_0340, Obj.REASON]; omega))).trans ?_
    refine (Live.rd_wr_same ..).trans ?_
    rfl
  · rw [go, main _ (by simp only [Obj.key, Obj.index, Obj.STATE_0340, Obj.REASON, Obj.GRANT, Obj.AGREED, Obj.MEASURED, Obj.CLAIM, Obj.CLASS, Obj.PD_TYPE, Obj.HOLD_REMAINING, Obj.FAULTS_IN_WINDOW, Obj.BACKOFF_LEVEL]; refine ⟨?_, ?_, ?_, ?_, ?_, ?_, ?_, ?_⟩ <;> omega)]
    refine (Live.rd_wr_same ..).trans ?_
    rfl
  · rw [go, main _ (by simp only [Obj.key, Obj.index, Obj.STATE_0340, Obj.REASON, Obj.GRANT, Obj.AGREED, Obj.MEASURED, Obj.CLAIM, Obj.CLASS, Obj.PD_TYPE, Obj.HOLD_REMAINING, Obj.FAULTS_IN_WINDOW, Obj.BACKOFF_LEVEL]; refine ⟨?_, ?_, ?_, ?_, ?_, ?_, ?_, ?_⟩ <;> omega)]
    refine (Live.rd_wr_other _ _ (by first | decide | (simp only [Obj.key, Obj.index, Obj.BACKOFF_LEVEL, Obj.REASON]; omega))).trans ?_
    refine (Live.rd_wr_other _ _ (by first | decide | (simp only [Obj.key, Obj.index, Obj.BACKOFF_LEVEL, Obj.STATE_0340]; omega))).trans ?_
    rfl
  · rw [go]
    have h5 : l5.rd .CLASS k = l4.rd .CLASS k := by
      simp only [l5]; split
      · rfl
      · split
        · refine (Keeps.rd (Live.setPse_keeps ..) ..).trans ?_
          refine (Live.rd_wr_other _ _ (by first | decide | (simp only [Obj.key, Obj.index, Obj.CLASS, Obj.FAULTS_IN_WINDOW]; omega))).trans ?_
          refine (Live.rd_wr_other _ _ (by first | decide | (simp only [Obj.key, Obj.index, Obj.CLASS, Obj.HOLD_REMAINING]; omega))).trans ?_
          rfl
        · rfl
    rw [h5]; simp only [l4]; rw [if_pos (.inr hs)]
    refine (Keeps.rd (Live.setPse_keeps ..) ..).trans ?_
    refine (Live.rd_wr_other _ _ (by first | decide | (simp only [Obj.key, Obj.index, Obj.CLASS, Obj.PD_TYPE]; omega))).trans ?_
    refine (Live.rd_wr_same ..).trans ?_
    rfl
theorem poeTo_mode (l : Live) (k st r : Nat) : (l.poeTo k st r).mode = l.mode := (Live.poeTo_keeps ..).mode_eq (by decide)
/-- The end of a hold, whatever ends it, leaves no hold and no fault behind. -/
theorem poeTo_hold {l : Live} (h : l.mode.evaluates = true) (k st r : Nat) (hs : st ≠ poeHold) (hw : l.rd .STATE_0340 k = poeHold) :
    ((l.poeTo k st r).power.ports.get k).holdEnd = none ∧ ((l.poeTo k st r).power.ports.get k).faults = [] ∧
    (l.poeTo k st r).rd .FAULTS_IN_WINDOW k = 0 := by
  have hm := poeTo_mode l k st r
  unfold Live.poeTo at hm ⊢
  extract_lets was l1 l2 l3 l4 l5 tells at hm ⊢
  have e5 : l5 = ((l4.wr .HOLD_REMAINING 0 k).wr .FAULTS_IN_WINDOW 0 k).setPse k fun p => { p with holdEnd := none, faults := [] } := by
    simp only [l5]; rw [if_neg hs, if_pos hw]
  have hp : (l5.power.ports.get k).holdEnd = none ∧ (l5.power.ports.get k).faults = [] := by rw [e5]; simp
  have hr : l5.rd .FAULTS_IN_WINDOW k = 0 := by rw [e5, Live.setPse_rd, Live.rd_wr_same]; rfl
  split
  · rename_i ht
    rw [if_pos ht] at hm
    have m5 : l5.mode.evaluates = true := by
      have : (l5.raise (128 + k) (u8 st ++ u8 r) (l.portOwner k)).mode = l5.mode := by unfold Live.mode; rw [Live.raise_modes]
      rw [← this, hm]; exact h
    rw [Live.raise_power, Live.raise_rd m5]; exact ⟨hp.1, hp.2, hr⟩
  · exact ⟨hp.1, hp.2, hr⟩
theorem poeTo_arose {l : Live} (h : l.mode.evaluates = true) {k : Nat} (hp : l.rd .STATE_0340 k = poePowered) :
    l.arose (l.poeTo k poeSearching 9) [l.occ (128 + k) (u8 poeSearching ++ u8 9) (l.portOwner k)] := by
  unfold Live.poeTo
  extract_lets was l1 l2 l3 l4 l5 tells
  have ht : tells = true := by simp only [tells, was, hp]; decide
  rw [if_pos ht]
  have hw : was ≠ poeHold := by simp only [was, hp]; decide
  refine Live.raise_arose h ?_ ?_ ?_ ..
  all_goals (simp only [l5, if_neg hw]; simp [l4, l3, l2, l1, poeSearching, poePowered, poeShed, poeHold, poeOff])
theorem enter_mode (l : Live) (m : Mode) (c : Nat) : (l.enter m c).mode = m := by
  unfold Live.enter
  split
  · assumption
  · rw [(Live.entered_keeps ..).mode_eq (by decide), (Live.audioMode_keeps ..).mode_eq (by decide)]; exact modeTo_mode ..
theorem restart_mode (l : Live) (w : Nat) : (l.restart w).mode = .bringup := by
  unfold Live.restart
  extract_lets l kind keep kept l0 l1 l2 l3 l4 l5 l6
  have h1 : l1.mode = .bringup := by
    simp only [l1]; rw [(Live.audioMode_keeps ..).mode_eq (by decide), (Live.archiveCounters_keeps ..).mode_eq (by decide), (Live.portsFollow_keeps ..).mode_eq (by decide)]; exact modeTo_mode ..
  have h2 : l2.mode = .bringup := by
    simp only [l2]; split
    · rw [(Live.raise_keeps ..).mode_eq (by decide)]; exact h1
    · split
      · rw [(Live.raise_keeps ..).mode_eq (by decide)]; exact h1
      · exact h1
  have h3 : l3.mode = .bringup := by
    simp only [l3]; split
    · rw [(Live.raise_keeps ..).mode_eq (by decide), (Live.wr_keeps ..).mode_eq (by decide)]; exact h2
    · exact h2
  have h4 : l4.mode = .bringup := by
    simp only [l4]; rw [(Live.cutNor_keeps ..).mode_eq (by decide), (Live.wiped_keeps ..).mode_eq (by decide)]; exact h3
  have h5 : l5.mode = .bringup := by simp only [l5]; rw [(Live.wr_keeps ..).mode_eq (by decide)]; exact h4
  have h6 : l6.mode = .bringup := by
    simp only [l6]; split
    · rw [(Live.wr_keeps ..).mode_eq (by decide)]; exact h5
    · exact h5
  split
  · rw [(Live.withdraw_keeps ..).mode_eq (by decide)]; exact h6
  · exact h6
/-- After the mode is evaluated nothing else of the boundary's end changes it. -/
theorem modeEval_tail (l1 : Live) : (let l2 := l1.setModes fun m => { m with acted := false, goTo := none }
    (if l2.leanCause then l2 else l2.recoveryDone 5 0).showCauses).mode = l1.mode := by
  dsimp only
  rw [(Live.showCauses_keeps _).mode_eq (by decide)]
  split
  · unfold Live.mode; rw [Live.setModes_modes]
  · rw [(Live.recoveryDone_keeps ..).mode_eq (by decide)]; unfold Live.mode; rw [Live.setModes_modes]
theorem modeEval_live {l : Live} (h : l.mode.leaves = true) : l.modeEval.mode = l.liveEval.mode := by
  cases hm : l.mode <;> rw [hm] at h <;> first | exact absurd h (by decide) | skip
  all_goals (unfold Live.modeEval; rw [hm]; exact modeEval_tail _)
theorem modeEval_stay {l : Live} (h : l.mode = .freeze) : l.modeEval.mode = l.stayEval.mode := by
  unfold Live.modeEval; rw [h]; exact modeEval_tail _
theorem asks_modes (l : Live) (f : Modes → Modes) : (l.asks f).modes = { f { l.modes with dormantAsked := none } with acted := true } := by
  unfold Live.asks Live.dormantWithdrawn Live.wrB; rw [Live.setModes_modes, Live.wr_modes]
theorem asks_store (l : Live) (f : Modes → Modes) : (l.asks f).store = (l.wr .DORMANT_DEFERRED 0).store := rfl
theorem asks_rd (l : Live) (f : Modes → Modes) (o : Obj) (i k t : Nat) (h : o.key i k t ≠ Obj.key .DORMANT_DEFERRED 0 0 0) :
    (l.asks f).rd o i k t = l.rd o i k t := by
  have : (l.asks f).rd o i k t = (l.wr .DORMANT_DEFERRED 0).rd o i k t := by unfold Live.rd; rw [asks_store]
  rw [this]; exact Live.rd_wr_other _ _ h
theorem diagnose_asks (l : Live) (f : Modes → Modes) : (l.asks f).diagnoseCause = l.diagnoseCause := by
  unfold Live.diagnoseCause Live.chState Live.rdB
  have h1 : ∀ c, (l.asks f).rd .STATE_1302 c = l.rd .STATE_1302 c := fun c =>
    asks_rd l f _ _ _ _ (by simp only [Obj.key, Obj.index, Obj.STATE_1302, Obj.DORMANT_DEFERRED]; omega)
  have h2 : ∀ c, (l.asks f).rd .FREEZE_ON_DIAGNOSE c = l.rd .FREEZE_ON_DIAGNOSE c := fun c =>
    asks_rd l f _ _ _ _ (by simp only [Obj.key, Obj.index, Obj.FREEZE_ON_DIAGNOSE, Obj.DORMANT_DEFERRED]; omega)
  simp only [h1, h2]
theorem asked_listen {l : Live} (h : l.mode ≠ .listen) : l.modeAsked 2 = l.asks fun m => { m with goTo := some .listen } := if_neg h
theorem asked_configure {l : Live} (h : l.mode ≠ .configure) (h1 : l.mode.running = true) :
    l.modeAsked 5 = l.asks fun m => { m with goTo := some .configure } := (if_neg h).trans (if_pos h1)
theorem asked_service {l : Live} (h : l.mode = .configure) : l.modeAsked 6 = l.asks fun m => { m with goTo := some .service } :=
  (if_neg (by rw [h]; decide)).trans (if_pos h)
theorem asked_freeze {l : Live} (h : l.mode ≠ .freeze) : l.modeAsked 10 = l.asks fun m => { m with freezeAsked := true } := if_neg h
theorem asked_dormant {l : Live} (h : l.mode ≠ .dormant) (h1 : l.modes.dormantAsked = none) :
    l.modeAsked 1 = l.setModes fun m => { m with dormantAsked := some l.ticks, acted := true } :=
  if_neg (fun e => by rcases e with e | e; exact h e; rw [h1] at e; exact absurd e (by decide))
theorem partialMatch_modes (l : Live) (f : Modes → Modes) : (l.setModes f).partialMatch = l.partialMatch := rfl
theorem leaves_ne {m : Mode} (h : m.leaves = true) : m ≠ .listen ∧ m ≠ .dormant ∧ m ≠ .freeze := by revert h; cases m <;> decide
theorem running_ne {m : Mode} (h : m.running = true) : m ≠ .configure := by revert h; cases m <;> decide
theorem trial_asks {l : Live} (h : l.rdB .TRIAL = false) (f : Modes → Modes) : (l.asks f).trialExpired = false := by
  unfold Live.trialExpired
  have : (l.asks f).rdB .TRIAL = false := by unfold Live.rdB at h ⊢; rw [asks_rd _ _ _ _ _ _ (by decide)]; exact h
  rw [this]; rfl
/-- A request of CONFIGURE or of the running family, with the state it leaves for the evaluation. -/
theorem request_mode {l : Live} {v : Nat} {f : Modes → Modes} (q : l.quiet) (ha : l.modeAllowed v = true) (hk : l.modeAsked v = l.asks f)
    (hf : (f { l.modes with dormantAsked := none }).mode = l.mode) (hl : l.mode.leaves = true) :
    (l.requestNow v).mode = (l.asks f).liveEval.mode := by
  unfold Live.requestNow Live.modeCommand
  rw [q.acted, if_neg (by decide), if_pos ha]
  dsimp only
  rw [hk]
  refine modeEval_live ?_
  unfold Live.mode at hl hf ⊢; rw [asks_modes]; show (f _).mode.leaves = true; rw [hf]; exact hl
theorem Machine.Live.setModes_only_modes (l : Live) (f : Modes → Modes) (h : (f l.modes).mode = l.modes.mode) : Keeps [.modes] l (l.setModes f) :=
  ⟨fun p hp => by cases p <;> first | exact absurd hp (by decide) | exact h.symm | exact rfl | exact ⟨rfl, rfl, rfl⟩, id, Nat.le_refl _, Nat.le_refl _⟩
/-- After the mode changes to CONFIGURE, what else its entry does leaves the mode. -/
theorem configureEntry_keeps' (l : Live) : Keeps [.store, .beat, .dict, .can, .sessions, .modes, .tenancies, .power, .plane, .bpm, .flannel, .dram, .comp, .mover, .audio, .host, .events, .recoveries, .enclosure] (l.modeTo .configure 0xFF) l.configureEntry := by
  unfold Live.configureEntry
  extract_lets cls l1 l2 l3 l4 l5 l6 l7 l8 l9 pw l10
  have h1 : Keeps [.store, .beat, .dict, .can, .sessions, .modes, .tenancies, .power, .plane, .bpm, .flannel, .dram, .comp, .mover, .audio, .host, .events, .recoveries, .enclosure] (l.modeTo .configure 0xFF) l1 := (Live.countersBack_keeps ..).mono rfl
  have h2 : Keeps [.store, .beat, .dict, .can, .sessions, .modes, .tenancies, .power, .plane, .bpm, .flannel, .dram, .comp, .mover, .audio, .host, .events, .recoveries, .enclosure] (l.modeTo .configure 0xFF) l2 :=
    .via (Live.tenanciesSettle_keeps ..) rfl (.foldl (fun l k => (Live.tnRestore_keeps l (k + 1)).mono rfl) _ _ h1)
  have h3 : Keeps [.store, .beat, .dict, .can, .sessions, .modes, .tenancies, .power, .plane, .bpm, .flannel, .dram, .comp, .mover, .audio, .host, .events, .recoveries, .enclosure] (l.modeTo .configure 0xFF) l3 :=
    .via (Live.modulesBack_keeps ..) rfl (.via (Live.portsFollow_keeps ..) rfl
      (.forN (fun l k => (Live.canStart_keeps l k).mono rfl) (.via (Live.sessionsBack_keeps ..) rfl h2)))
  have h4 : Keeps [.store, .beat, .dict, .can, .sessions, .modes, .tenancies, .power, .plane, .bpm, .flannel, .dram, .comp, .mover, .audio, .host, .events, .recoveries, .enclosure] (l.modeTo .configure 0xFF) l4 :=
    .via (Live.queuesStart_keeps ..) rfl (.via (Live.ptpStart_keeps ..) rfl (.via (Live.reportHeld_keeps ..) rfl
      (.via (Live.gpioConfigure_keeps ..) rfl (.via (Live.dramConfigure_keeps ..) rfl
        (.ite (.via (Live.sweepStart_keeps ..) rfl h3) h3)))))
  have h5 : Keeps [.store, .beat, .dict, .can, .sessions, .modes, .tenancies, .power, .plane, .bpm, .flannel, .dram, .comp, .mover, .audio, .host, .events, .recoveries, .enclosure] (l.modeTo .configure 0xFF) l5 := .via (Live.refreshStreams_keeps ..) rfl (.via (Live.audioMode_keeps ..) rfl h4)
  have h6 : Keeps [.store, .beat, .dict, .can, .sessions, .modes, .tenancies, .power, .plane, .bpm, .flannel, .dram, .comp, .mover, .audio, .host, .events, .recoveries, .enclosure] (l.modeTo .configure 0xFF) l6 :=
    .via (Live.journalRecoveries_keeps ..) rfl (.via (Live.recoveryDone_keeps ..) rfl
      (.via (Live.recoveriesRestarted_keeps ..) rfl h5))
  have h7 : Keeps [.store, .beat, .dict, .can, .sessions, .modes, .tenancies, .power, .plane, .bpm, .flannel, .dram, .comp, .mover, .audio, .host, .events, .recoveries, .enclosure] (l.modeTo .configure 0xFF) l7 := .ite (.via (Live.raise_keeps ..) rfl h6) h6
  have h8 : Keeps [.store, .beat, .dict, .can, .sessions, .modes, .tenancies, .power, .plane, .bpm, .flannel, .dram, .comp, .mover, .audio, .host, .events, .recoveries, .enclosure] (l.modeTo .configure 0xFF) l8 := .via (Live.setUnit_keeps ..) rfl h7
  have h9 : Keeps [.store, .beat, .dict, .can, .sessions, .modes, .tenancies, .power, .plane, .bpm, .flannel, .dram, .comp, .mover, .audio, .host, .events, .recoveries, .enclosure] (l.modeTo .configure 0xFF) l9 := .via (Live.setModes_keeps (fun _ => by exact rfl) _) rfl h8
  have h10 : Keeps [.store, .beat, .dict, .can, .sessions, .modes, .tenancies, .power, .plane, .bpm, .flannel, .dram, .comp, .mover, .audio, .host, .events, .recoveries, .enclosure] (l.modeTo .configure 0xFF) l10 := .power h9 rfl
  exact .via (Live.autoService_keeps ..) rfl (.via (Live.poeAdopt_keeps ..) rfl h10)
theorem configureEntry_mode (l : Live) : l.configureEntry.mode = .configure := by
  rw [(configureEntry_keeps' l).mode_eq (by decide)]; exact modeTo_mode ..
theorem newRun_mode (l : Live) (k : ResetKind) : (l.newRun k).mode = .bringup := by unfold Live.newRun; exact modeTo_mode ..
theorem lifeCycle_mode {l : Live} {v : Nat} {auth : Option (List Byte)} (ha : l.modes.acted = false) (hs : l.rd .LC_STATE = (lcRow v).1)
    (hm : lcMode v l.mode = true) (hv : v ≠ 3 ∨ ∃ a, auth = some a ∧ vendorAuth (l.rd .LC_CHALLENGE) a = true)
    (hx : l.mode.leaves = true ∨ l.mode = .decommissioned) :
    (l.lifeCycleNow v (l.rd .LC_CHALLENGE) auth).mode = .wipe := by
  have e : (l.lifeCycle v true (some (l.rd .LC_CHALLENGE)) auth (l.rd .LC_CHALLENGE, l.modes.oldChallenge)) =
      (0, (l.asks fun m => { m with goTo := some .wipe }).wr .LC_PENDING (lcRow v).2) := by
    unfold Live.lifeCycle
    rw [ha, if_neg (by decide)]
    dsimp only
    rw [if_pos]
    refine ⟨rfl, by simp, ?_, hs, hm⟩
    rcases hv with hv | ⟨a, hv, hw⟩
    · simp [hv]
    · subst hv; simp [hw]
  unfold Live.lifeCycleNow
  rw [e]
  dsimp only
  have hmo : ((l.asks fun m => { m with goTo := some .wipe }).wr .LC_PENDING (lcRow v).2).modes = { l.modes with dormantAsked := none, goTo := some .wipe, acted := true } := by
    rw [Live.wr_modes, asks_modes]
  have hmm : ((l.asks fun m => { m with goTo := some .wipe }).wr .LC_PENDING (lcRow v).2).mode = l.mode := by unfold Live.mode; rw [hmo]
  generalize (l.asks fun m => { m with goTo := some .wipe }).wr .LC_PENDING (lcRow v).2 = x at hmo hmm ⊢
  rcases hx with hx | hx
  · rw [modeEval_live (by rw [hmm]; exact hx)]
    unfold Live.liveEval; rw [hmo, if_pos rfl]; exact enter_mode ..
  · have : x.modeEval.mode = x.stayEval.mode := by
      unfold Live.modeEval; rw [hmm, hx]; exact modeEval_tail _
    rw [this]
    unfold Live.stayEval; rw [hmo, if_pos rfl]; exact enter_mode ..
theorem setEv_fold (g tn : Nat) (f : EvInst → EvInst) (hf : ∀ e, f (f e) = f e) (htn : tn < 8) (xs : List Nat) :
    ∀ (l : Live) (k tn' : Nat), tn' < 8 →
      ((l.forL xs fun l k => l.setEv (32 * g + k) tn f).ev (32 * g + k) tn') =
        if k ∈ xs ∧ tn' = tn then f (l.ev (32 * g + k) tn') else l.ev (32 * g + k) tn' := by
  induction xs with
  | nil => intro l k tn' _; simp [Live.forL]
  | cons x xs ih =>
    intro l k tn' h'
    have e : (l.forL (x :: xs) fun l k => l.setEv (32 * g + k) tn f) = (l.setEv (32 * g + x) tn f).forL xs fun l k => l.setEv (32 * g + k) tn f := rfl
    rw [e, ih _ _ _ h']
    have one : (l.setEv (32 * g + x) tn f).ev (32 * g + k) tn' = if k = x ∧ tn' = tn then f (l.ev (32 * g + k) tn') else l.ev (32 * g + k) tn' := by
      unfold Live.setEv Live.ev
      dsimp only
      split
      · rename_i h; rw [h.1, h.2, Tbl.get_upd_same]
      · rename_i h
        refine Tbl.get_upd_other _ _ ?_
        unfold evKey
        intro he
        exact h ⟨by omega, by omega⟩
    rw [one]
    by_cases h1 : tn' = tn
    · by_cases h2 : k = x
      · subst h2; by_cases h3 : k ∈ xs <;> simp [h1, h3, hf]
      · by_cases h3 : k ∈ xs <;> simp [h1, h2, h3]
    · simp [h1]
theorem mem_members (m k : Nat) (h : k < 32) : k ∈ members 32 m ↔ bit m k = true := by simp [members, h]
theorem gpio_get (x : Live) (n : Nat) (f : Gpio → Gpio) (o : Obj) (v : Bool) (i : Nat) :
    ((x.setGpio n f).wrB o v i).events.gpio = x.events.gpio.upd n f := by
  unfold Live.wrB; rw [Live.wr_events]; rfl
theorem gpio_all (raw : Nat) (n : Nat) (l : Live) :
    let x := l.forN n fun l i =>
      (l.setGpio i fun g =>
        if g.sample = (bit raw i ^^ l.rdB .INVERT_1900 i) then { g with run := g.run + 1 }
        else { g with sample := bit raw i ^^ l.rdB .INVERT_1900 i, run := 1, transitions := g.transitions + l.mode.judges.toNat }).wrB .RAW_1900 (bit raw i ^^ l.rdB .INVERT_1900 i) i
    (∀ j, x.rd .INVERT_1900 j = l.rd .INVERT_1900 j) ∧
    (∀ j, n ≤ j → x.events.gpio.get j = l.events.gpio.get j) ∧
    ∀ i, i < n → x.rd .RAW_1900 i = (bit raw i ^^ l.rdB .INVERT_1900 i).toNat ∧
      (x.events.gpio.get i).sample = (bit raw i ^^ l.rdB .INVERT_1900 i) ∧
      (x.events.gpio.get i).run = if (l.events.gpio.get i).sample = (bit raw i ^^ l.rdB .INVERT_1900 i) then (l.events.gpio.get i).run + 1 else 1 := by
  induction n with
  | zero => exact ⟨fun _ => rfl, fun _ _ => rfl, fun i h => absurd h (by omega)⟩
  | succ n ih =>
    have ⟨h1, h2, h3⟩ := ih
    dsimp only at h1 h2 h3 ⊢
    unfold Live.forN at h1 h2 h3 ⊢
    rw [List.range_succ, List.foldl_append]
    generalize List.foldl _ l (List.range n) = x at h1 h2 h3 ⊢
    simp only [List.foldl_cons, List.foldl_nil]
    have hi : x.rdB .INVERT_1900 n = l.rdB .INVERT_1900 n := by unfold Live.rdB; rw [h1]
    rw [hi]
    generalize hv : (bit raw n ^^ l.rdB .INVERT_1900 n) = v
    have raw_other : ∀ (y : Live) (o : Obj) (j : Nat), o.key j 0 0 ≠ Obj.key .RAW_1900 n 0 0 → (y.wrB .RAW_1900 v n).rd o j = y.rd o j := by
      intro y o j hk; unfold Live.wrB; exact Live.rd_wr_other _ _ hk
    refine ⟨fun j => ?_, fun j hj => ?_, fun j hj => ?_⟩
    · rw [raw_other _ _ _ (by simp only [Obj.key, Obj.index, Obj.INVERT_1900, Obj.RAW_1900]; omega)]; exact h1 j
    · rw [gpio_get]
      rw [Tbl.get_upd_other _ _ (by omega)]; exact h2 j (by omega)
    · by_cases hjn : j = n
      · subst hjn
        refine ⟨?_, ?_, ?_⟩
        · unfold Live.wrB
          refine (Live.rd_wr_same ..).trans ?_
          rw [hv]; cases v <;> rfl
        · rw [gpio_get]
          rw [Tbl.get_upd_same, h2 j (Nat.le_refl _), hv]; split
          · assumption
          · rfl
        · rw [gpio_get]
          rw [Tbl.get_upd_same, h2 j (Nat.le_refl _), hv]; split <;> rfl
      · have ⟨a, b, c⟩ := h3 j (by omega)
        refine ⟨?_, ?_, ?_⟩
        · rw [raw_other _ _ _ (key_item (by decide) hjn)]; exact a
        · rw [gpio_get]
          rw [Tbl.get_upd_other _ _ (by omega)]; exact b
        · rw [gpio_get]
          rw [Tbl.get_upd_other _ _ (by omega)]; exact c
theorem level_out {l : Live} {i : Nat} (h : l.gpioDue i = true) (h1 : l.beat.strobeArmed = false) (h2 : l.mode.evaluates = true) :
    (l.cellsBut [Obj.key .LEVEL_1900 i 0 0, Obj.key .LAST_CHANGE_BEAT_1900 i 0 0, Obj.key .CHANGES i 0 0,
      Obj.key .WRAPPED_ANY 0 0 0, Obj.key .STUCK i 0 0] (l.gpioLevelChange i)) ∧
    (l.gpioLevelChange i).rd .LEVEL_1900 i = (l.events.gpio.get i).sample.toNat ∧
    l.occ (608 + i) (u8 i ++ u8 (l.events.gpio.get i).sample.toNat) ∈ (l.gpioLevelChange i).events.arisen ∧
    True ∧ (l.gpioLevelChange i).modes = l.modes ∧ Keeps [.store, .events] l (l.gpioLevelChange i) := by
  unfold Live.gpioLevelChange
  rw [if_pos h, h1]
  dsimp only
  generalize (l.events.gpio.get i).sample = v
  simp only [Bool.false_eq_true, false_and, and_false, if_false]
  unfold Live.wrB
  have c0 : ((l.wr .LEVEL_1900 v.toNat i).wr .LAST_CHANGE_BEAT_1900 l.now i).mode.evaluates = true := by
    unfold Live.mode at h2 ⊢; rw [Live.wr_modes, Live.wr_modes]; exact h2
  have c1 := Live.count_cells c0 .CHANGES 1 i 0 0
  generalize hx : ((l.wr .LEVEL_1900 v.toNat i).wr .LAST_CHANGE_BEAT_1900 l.now i).count .CHANGES 1 i = x at c1 ⊢
  have k1 : Keeps [.store, .events] l x := by
    rw [← hx]; exact .via (Live.count_keeps ..) rfl (.via (Live.wr_keeps ..) rfl ((Live.wr_keeps ..).mono rfl))
  have hl : x.rd .LEVEL_1900 i = v.toNat := by
    rw [c1.same _ _ _ _ (by
      simp only [Obj.key, Obj.index, Obj.LEVEL_1900, Obj.CHANGES, Obj.WRAPPED_ANY, List.mem_cons, List.not_mem_nil, or_false, not_or]; omega)]
    refine (Live.rd_wr_other _ _ (by first | decide | (simp only [Obj.key, Obj.index, Obj.LEVEL_1900, Obj.LAST_CHANGE_BEAT_1900]; omega))).trans ?_
    refine (Live.rd_wr_same ..).trans ?_
    cases v <;> rfl
  have hc : l.cellsBut [Obj.key .LEVEL_1900 i 0 0, Obj.key .LAST_CHANGE_BEAT_1900 i 0 0, Obj.key .CHANGES i 0 0,
      Obj.key .WRAPPED_ANY 0 0 0, Obj.key .STUCK i 0 0] x := by
    refine ⟨fun o i' k t hn => ?_⟩
    simp only [List.mem_cons, List.not_mem_nil, or_false, not_or] at hn
    rw [c1.same _ _ _ _ (by simp [hn])]
    exact (Live.rd_wr_other _ _ hn.2.1).trans (Live.rd_wr_other _ _ hn.1)
  clear c1 hx c0
  generalize hy : (x.setGpio i fun g => { g with levelSince := l.ticks }) = y
  have ks : Keeps [.store, .events] l y := by
    rw [← hy]
    exact .via (b := x) (k := [.events]) ⟨fun p hp => by cases p <;> first | exact absurd hp (by decide) | exact rfl | exact ⟨rfl, rfl, rfl⟩, id, Nat.le_refl _, Nat.le_refl _⟩ rfl k1
  have yc := hc
  have hys : y.store = x.store := by rw [← hy]; rfl
  have yl : y.rd .LEVEL_1900 i = v.toNat := by rw [← hl]; unfold Live.rd; rw [hys]
  have yc : l.cellsBut [Obj.key .LEVEL_1900 i 0 0, Obj.key .LAST_CHANGE_BEAT_1900 i 0 0, Obj.key .CHANGES i 0 0,
      Obj.key .WRAPPED_ANY 0 0 0, Obj.key .STUCK i 0 0] y := .of_store hc hys
  clear hy hys hl hc k1
  generalize hz : (if v = true then y else y.wr .STUCK false.toNat i) = z
  have zk : Keeps [.store, .events] l z := by
    rw [← hz]; split
    · exact ks
    · exact .via (Live.wr_keeps ..) rfl ks
  have zl : z.rd .LEVEL_1900 i = v.toNat := by
    rw [← hz]; split
    · exact yl
    · refine (Live.rd_wr_other _ _ (by first | decide | (simp only [Obj.key, Obj.index, Obj.LEVEL_1900, Obj.STUCK]; omega))).trans ?_
      exact yl
  have zc : l.cellsBut [Obj.key .LEVEL_1900 i 0 0, Obj.key .LAST_CHANGE_BEAT_1900 i 0 0, Obj.key .CHANGES i 0 0,
      Obj.key .WRAPPED_ANY 0 0 0, Obj.key .STUCK i 0 0] z := by
    rw [← hz]; split
    · exact yc
    · exact .wr yc (by simp)
  have zm : z.mode.evaluates = true := by rw [zk.mode_eq (by decide)]; exact h2
  refine ⟨.raise zc zm, by rw [Live.raise_rd zm]; exact zl, Live.raise_mem h2 (zk.modes_eq (by decide)) (zk.beat_eq (by decide)) .., trivial, ?_, .via (Live.raise_keeps ..) rfl zk⟩
  rw [Live.raise_modes]; exact zk.modes_eq (by decide)
theorem wakeBy_awake {l : Live} (h : l.mode.evaluates = true) (n : Nat) : l.wakeBy n = l := by
  unfold Live.wakeBy
  cases hm : l.mode <;> rw [hm] at h <;> first | exact absurd h (by decide) | exact if_neg (by rintro ⟨a, _⟩; exact absurd (show false = true from a) (by decide))
theorem channel_set (l : Live) (c : Nat) (f : Channel → Channel) : (l.setChannel c f).channel c = f (l.channel c) := by
  unfold Live.setChannel Live.channel Live.setDram
  by_cases h : c = 0 <;> simp [h]
theorem channel_wr (l : Live) (o : Obj) (v i k t c : Nat) : (l.wr o v i k t).channel c = l.channel c := by
  unfold Live.channel; rw [Live.wr_dram]
theorem channel_count (l : Live) (o : Obj) (n i k t c : Nat) : (l.count o n i k t).channel c = l.channel c := by
  unfold Live.channel; rw [Live.count_dram]
theorem channel_raise (l : Live) (n : Nat) (d : List Byte) (t c : Nat) : (l.raise n d t).channel c = l.channel c := by
  unfold Live.channel; rw [Live.raise_dram]
theorem dramLog_arisen (l : Live) (kind outcome : Nat) (p : DramPlace) : (l.dramLog kind outcome p).events = l.events :=
  (Live.dramLog_keeps ..).events_eq (by decide)
theorem withdraw_mono {l : Live} {x : Occ} (h : l.mode.evaluates = true) (cs : List Nat) (hx : x ∈ l.events.arisen) :
    x ∈ (l.withdraw cs).events.arisen := by
  unfold Live.withdraw
  split
  · exact hx
  · rename_i c cs' _
    dsimp only
    have go : ∀ (xs : List Nat) (y : Live), y.mode.evaluates = true → x ∈ y.events.arisen →
        x ∈ (xs.foldl (fun l x => l.raise 25 (u8 x)) y).events.arisen := by
      intro xs
      induction xs with
      | nil => intro y _ hy; exact hy
      | cons a as ih => intro y hm hy; exact ih _ (by rw [(Live.raise_keeps ..).mode_eq (by decide)]; exact hm) (Live.raise_mono hm _ _ _ hy)
    refine go _ _ ?_ ?_
    · rw [(Live.wr_keeps ..).mode_eq (by decide), (Live.wr_keeps ..).mode_eq (by decide), (Live.wr_keeps ..).mode_eq (by decide)]; exact h
    · rw [Live.wr_events, Live.wr_events, Live.wr_events]; exact hx
/-- The upper part of a value of two parts. -/
theorem upper_part {d f A B n : Nat} (hd : d < A ∧ n = A * B) (hf : f < B) : (d * B + f) % n / B = d := by
  have h1 : d * B + f < n := by
    rw [hd.2]
    calc d * B + f < d * B + B := Nat.add_lt_add_left hf _
      _ = (d + 1) * B := by rw [Nat.add_mul, Nat.one_mul]
      _ ≤ A * B := Nat.mul_le_mul_right _ hd.1
  rw [Nat.mod_eq_of_lt h1, Nat.mul_comm d B, Nat.mul_add_div (by omega), Nat.div_eq_of_lt hf, Nat.add_zero]
theorem beVal_part (v : Nat) : v % 2 ^ 512 < 2 ^ 512 ∧ 256 ^ Obj.DIAG_DATA.len = 2 ^ 512 * 2 ^ 64 := by
  refine ⟨Nat.mod_lt _ (Nat.two_pow_pos _), ?_⟩
  rw [show (256 : Nat) = 2 ^ 8 from rfl, ← Nat.pow_mul, ← Nat.pow_add]
  rfl
theorem setCan_same (l : Live) (c : Nat) (f : CanPort → CanPort) : (l.setCan c f).can.get c = f (l.can.get c) := by
  unfold Live.setCan; exact Tbl.get_upd_same ..
theorem setCan_other (l : Live) {c d : Nat} (f : CanPort → CanPort) (h : d ≠ c) : (l.setCan c f).can.get d = l.can.get d := by
  unfold Live.setCan; exact Tbl.get_upd_other _ _ h
theorem canStart_sending {p : CanPort} {f : CanFrame} (h : p.sending = some f) (g : CanProgress) :
    p.start g = { p with progress := g } := by
  unfold CanPort.start; rw [h]
theorem fieldAt_u32 {n : Nat} (h : n < 2 ^ 32) (bs : List Byte) : fieldAt (u32 n ++ bs) 0 4 = n := by
  have : slice (u32 n ++ bs) 0 4 = u32 n := by
    unfold slice
    rw [List.drop_zero, List.take_left' (by rfl)]
    simp [show (u32 n).length = 4 from rfl]
  unfold fieldAt
  rw [this]
  simp only [u32, beBytes, leBytes, beVal, List.reverse_cons, List.reverse_nil, List.nil_append, List.cons_append, List.foldl_cons, List.foldl_nil, byte, BitVec.toNat_ofNat]
  omega
theorem respond_dict (l : Live) (r : Response) : (l.respond r).dict = l.dict ∨ (l.respond r).dict = { l.dict with firmware := some r } := by
  unfold Live.respond
  split
  · exact .inl ((Live.mbxNext_keeps ..).dict_eq (by decide))
  · exact .inl ((Live.mbxNext_keeps ..).dict_eq (by decide))
  · exact .inl ((Live.canRespond_keeps ..).dict_eq (by decide))
  · refine .inl ?_
    dsimp only
    rw [(Live.inbandOut_keeps ..).dict_eq (by decide), (Live.inbandResponse_keeps ..).dict_eq (by decide)]
  · exact .inr rfl
theorem respond_all (rs : List Response) (l : Live) : (rs.foldl Live.respond l).dict.queue = l.dict.queue ∧
    (rs.foldl Live.respond l).dict.cache = l.dict.cache ∧ (rs.foldl Live.respond l).dict.transfers = l.dict.transfers ∧
    (rs.foldl Live.respond l).dict.arrivals = l.dict.arrivals := by
  induction rs generalizing l with
  | nil => exact ⟨rfl, rfl, rfl, rfl⟩
  | cons r rs ih =>
    obtain ⟨a, b, c, d⟩ := ih (l.respond r)
    rw [List.foldl_cons, a, b, c, d]
    rcases respond_dict l r with h | h <;> rw [h] <;> exact ⟨rfl, rfl, rfl, rfl⟩
/-- Handing responses over leaves the queue, the caches and the transfers. -/
theorem deliver_dict (l : Live) : l.deliver.dict.queue = l.dict.queue ∧ l.deliver.dict.cache = l.dict.cache ∧
    l.deliver.dict.transfers = l.dict.transfers ∧ l.deliver.dict.arrivals = l.dict.arrivals := by
  unfold Live.deliver
  exact respond_all l.dict.outbox (l.setDict fun d => { d with outbox := [] })
theorem send_dict (l : Live) (r : Response) : (l.send r).dict = { l.dict with outbox := l.dict.outbox ++ [r] } := by
  unfold Live.send; dsimp only
  split <;> split <;> simp [Live.setDict]
theorem answer_queue (l : Live) (r : Response) : (l.answer r).dict.queue = l.dict.queue := by
  unfold Live.answer Live.answerAs; rw [send_dict]; rfl
theorem serve_heard {st l : Live} {rank op : Nat} {r : Req} (h : l.heard rank) :
    Live.serveRequest st l rank op r = (rules.request st l rank op r).deliver := by
  unfold Live.serveRequest
  rw [if_neg (by simp [h.path, h.mode]), if_neg h.room]
theorem request_new {st l : Live} {rank op : Nat} {r : Req} (h : l.heard rank) (hn : l.repeated rank op r = none) :
    (op = 0 → rules.request st l rank op r = rules.serveRead st l rank r) ∧
    (op = 4 → rules.request st l rank op r = rules.serveSegInit st l rank r) ∧
    (op = 1 ∨ op = 2 ∨ op = 3 → rules.request st l rank op r = rules.serveWrite l rank op r) ∧
    (op = 6 → ∀ c, rules.checkReach l rank (rules.instAt l rank r.index) r.index r.sub false [] = c → rules.request st l rank op r =
      l.answer { rank := rank, op := op, reqId := r.id, index := r.index, sub := r.sub, status := if c = stNoObject ∨ c = stNoSubindex then c else stTypeLength }) := by
  have hs : ¬ ¬ l.mode.serves rank = true := fun a => a h.mode
  refine ⟨fun e => ?_, fun e => ?_, fun e => ?_, fun e c hc => ?_⟩
  · subst e; unfold DictRules.request; rw [if_neg hs]
    simp only [show ((0 : Nat) == 5) = false from rfl, Bool.false_and, Bool.false_eq_true, if_false, hn]
  · subst e; unfold DictRules.request; rw [if_neg hs]
    simp only [show ((4 : Nat) == 5) = false from rfl, Bool.false_and, Bool.false_eq_true, if_false, hn]
  · rcases e with e | e | e <;> subst e <;> unfold DictRules.request <;> rw [if_neg hs]
    · simp only [show ((1 : Nat) == 5) = false from rfl, Bool.false_and, Bool.false_eq_true, if_false, hn]
    · simp only [show ((2 : Nat) == 5) = false from rfl, Bool.false_and, Bool.false_eq_true, if_false, hn]
    · simp only [show ((3 : Nat) == 5) = false from rfl, Bool.false_and, Bool.false_eq_true, if_false, hn]
  · subst e; unfold DictRules.request; rw [if_neg hs]
    simp only [show ((6 : Nat) == 5) = false from rfl, Bool.false_and, Bool.false_eq_true, if_false, hn]
    rw [hc]
theorem write_accepted {l : Live} {rank op : Nat} {r : Req} {fs : List (Nat × Nat)} {value : List Byte} {target : Option Nat}
    (hv : value = (if op = 2 then r.payload.drop 8 else r.payload)) (ht : target = (if op = 2 then some (fieldAt r.payload 0 8) else none))
    (h1 : rules.checkReach l rank (rules.instAt l rank r.index) r.index r.sub true value = stOk) (h2 : r.malformed = false) (h3 : op = 2 → 8 ≤ r.payload.length)
    (h4 : op = 3 → ∃ o i k, findObject r.index r.sub = some (o, i, k) ∧ o.acc = .cmd) (h5 : writeFields r.index r.sub value = some fs)
    (h6 : l.checkTarget rank r.index (fs.map Prod.fst) target = stOk) (h7 : Live.arrivalCheck l r.index fs target = stOk) :
    ∃ inst, rules.serveWrite l rank op r = l.enqueueWrite { rank := rank, op := op, reqId := r.id, index := r.index, sub := r.sub, inst := inst, fields := fs, arrival := l.ticks, order := 0, target := target } := by
  subst hv; subst ht
  unfold DictRules.serveWrite
  dsimp only
  rw [if_neg (by rw [h1]; simp), if_neg (by rintro (a | ⟨a, b⟩); simp [h2] at a; exact absurd (h3 a) (by omega)), if_neg, h5]
  · dsimp only
    have e : ∀ x : Nat, l.checkTarget rank r.index (fs.map Prod.fst) (if op = 2 then some (fieldAt r.payload 0 8) else none) = stOk → x = stOk →
        (if l.checkTarget rank r.index (fs.map Prod.fst) (if op = 2 then some (fieldAt r.payload 0 8) else none) ≠ stOk then
          l.checkTarget rank r.index (fs.map Prod.fst) (if op = 2 then some (fieldAt r.payload 0 8) else none) else x) = stOk := fun x a b => by
      rw [if_neg (fun hn => hn a)]; exact b
    rw [e (rules.arrival l r.index fs _) h6 h7, if_neg (show ¬ (stOk ≠ stOk) from fun hn => hn rfl)]
    exact ⟨_, rfl⟩
  · rintro ⟨a, b⟩
    obtain ⟨o, i, k, e, ea⟩ := h4 a
    rw [e] at b
    simp [ea] at b
theorem Tbl.get_del_same {α : Type} [Inhabited α] (t : Tbl α) (i : Nat) : (t.del i).get i = default := by
  unfold Tbl.get; rw [Tbl.find?_del_same]; rfl
theorem Tbl.get_del_other {α : Type} [Inhabited α] (t : Tbl α) {i j : Nat} (h : j ≠ i) : (t.del i).get j = t.get j := by
  unfold Tbl.get; rw [Tbl.find?_del_other _ h]
theorem setMbx_same (l : Live) (f : Nat) (g : Mailbox → Mailbox) : (l.setMbx f g).mailboxes.get f = g (l.mailboxes.get f) := by
  unfold Live.setMbx; exact Tbl.get_upd_same ..
theorem setMbx_other (l : Live) {f j : Nat} (g : Mailbox → Mailbox) (h : j ≠ f) : (l.setMbx f g).mailboxes.get j = l.mailboxes.get j := by
  unfold Live.setMbx; exact Tbl.get_upd_other _ _ h
theorem setSession_same (l : Live) (f : Nat) (g : Session → Session) : (l.setSession f g).sessions.get f = g (l.sessions.get f) := by
  unfold Live.setSession; exact Tbl.get_upd_same ..
theorem setSession_other (l : Live) {f j : Nat} (g : Session → Session) (h : j ≠ f) : (l.setSession f g).sessions.get j = l.sessions.get j := by
  unfold Live.setSession; exact Tbl.get_upd_other _ _ h
theorem engineOn_live {m : Mode} (h : m.engineOn = true) : m.evaluates = true ∧ m ≠ .freeze := by revert h; cases m <;> decide
theorem receives_engine {l : Live} {p : Nat} (h : l.receives p = true) : l.mode.engineOn = true := by
  unfold Live.receives at h; simp at h; exact h.2
theorem blk_store' (l : Live) (b : Nat) (g : Signal) (n i1 i2 i3 : Nat) : (l.blk b g n i1 i2 i3).store = l.store := (Live.blk_keeps ..).store_eq (by decide)
theorem blk_rd (l : Live) (b : Nat) (g : Signal) (n i1 i2 i3 : Nat) (o : Obj) (i k t : Nat) : (l.blk b g n i1 i2 i3).rd o i k t = l.rd o i k t := by
  unfold Live.rd; rw [blk_store']
theorem blk_mode (l : Live) (b : Nat) (g : Signal) (n i1 i2 i3 : Nat) : (l.blk b g n i1 i2 i3).mode = l.mode := by
  unfold Live.mode; rw [Live.blk_modes]
theorem blk_rdAt (l : Live) (b : Nat) (g : Signal) (n i1 i2 i3 : Nat) (c : Nat) (o : Obj) (i k t : Nat) : (l.blk b g n i1 i2 i3).rdAt c o i k t = l.rdAt c o i k t := by
  unfold Live.rdAt; rw [blk_rd, Live.blk_plane]
theorem blk_ticks (l : Live) (b : Nat) (g : Signal) (n i1 i2 i3 : Nat) : (l.blk b g n i1 i2 i3).ticks = l.ticks := by
  unfold Live.ticks; rw [Live.blk_beat]
theorem blk_now (l : Live) (b : Nat) (g : Signal) (n i1 i2 i3 : Nat) : (l.blk b g n i1 i2 i3).now = l.now := by
  unfold Live.now; rw [Live.blk_beat]
/-- A discard of the MAC counts in its own counter. -/
theorem macDiscard_does {l : Live} (h : l.mode.engineOn = true) (p : Nat) (o : Obj) (h1 : o.lo ≤ p) (h2 : p ≤ o.hi)
    (hw : o.key p 0 0 ≠ Obj.key .WRAPPED_ANY 0 0 0) :
    l.cellsBut [o.key p 0 0, Obj.key .WRAPPED_ANY 0 0 0] (l.macDiscard p o) ∧ (l.macDiscard p o).rd o p = (l.rd o p + 1) % 256 ^ o.len := by
  obtain ⟨e1, e2⟩ := engineOn_live h
  unfold Live.macDiscard
  exact ⟨.of_store (Live.count_cells e1 ..) (blk_store' ..), by rw [blk_rd]; exact Live.count_rd e1 e2 h1 h2 hw⟩
/-- The blocks' counters before a received frame is judged change no cell and no mode. -/
theorem received_blk (l : Live) (a p n : Nat) (h : l.mode.engineOn = true) :
    let m := ((l.at a).blk (macBlock p) .eventsIn 1 p).blk (macBlock p) .bytesIn n p
    m.store = l.store ∧ m.mode.engineOn = true := by
  refine ⟨by rw [blk_store', blk_store']; rfl, by rw [blk_mode, blk_mode]; exact h⟩
theorem mark_rd' (l : Live) (n : Nat) (o : Obj) (i k t : Nat) : (l.mark n).rd o i k t = l.rd o i k t := by
  unfold Live.rd; rw [(Live.mark_keeps ..).store_eq (by decide)]
theorem find_no {f : Nat → Bool} (hl : ∀ j, j < 4 → f j = false) : (List.range 4).find? f = none := by
  rw [List.find?_eq_none]; intro j hj; simp [hl j (List.mem_range.mp hj)]
theorem find_slot {f : Nat → Bool} {k : Nat} (hk : k < 4) (h : f k = true) (hl : ∀ j, j < k → f j = false) :
    (List.range 4).find? f = some k := by
  have : k = 0 ∨ k = 1 ∨ k = 2 ∨ k = 3 := by omega
  have er : List.range 4 = [0, 1, 2, 3] := rfl
  rw [er]
  rcases this with rfl | rfl | rfl | rfl
  · simp [List.find?, h]
  · simp [List.find?, h, hl 0]
  · simp [List.find?, h, hl 0, hl 1]
  · simp [List.find?, h, hl 0, hl 1, hl 2]
theorem lldpRx_ev {l : Live} {p : Nat} (h : l.lldpRx p = true) : l.mode.evaluates = true ∧ l.mode ≠ .freeze := by
  unfold Live.lldpRx at h; simp at h; exact engineOn_live h.1.2
theorem received_new {l : Live} {p mac : Nat} {pdu : List Byte} {n : Neighbour} {ttl k : Nat} (h1 : lldpParse l mac pdu = some (n, ttl))
    (h2 : ttl ≠ 0) (h3 : k < 4) (h4 : ∀ j m, j < 4 → (l.portRt p).neighbours.get j = some m → m.sameKey n = false)
    (h5 : (l.portRt p).neighbours.get k = none) (h6 : ∀ j, j < k → (l.portRt p).neighbours.get j ≠ none) :
    l.lldpReceived p mac pdu = (l.setPort p fun x => { x with neighbours := x.neighbours.put k (some n) }).raise 253 (u8 p ++ u8 k) (l.portOwner p) := by
  unfold Live.lldpReceived; rw [h1]; dsimp only
  rw [find_no, if_neg h2, find_slot h3 (by simp [h5]) (fun j hj => by have := h6 j hj; cases e : (l.portRt p).neighbours.get j <;> simp_all)]
  intro j hj
  cases e : (l.portRt p).neighbours.get j with
  | none => rfl
  | some m => exact h4 j m hj e
theorem received_known {l : Live} {p mac : Nat} {pdu : List Byte} {n m : Neighbour} {ttl k : Nat} (h1 : lldpParse l mac pdu = some (n, ttl))
    (h3 : k < 4) (h4 : (l.portRt p).neighbours.get k = some m) (h5 : m.sameKey n = true)
    (h6 : ∀ j m', j < k → (l.portRt p).neighbours.get j = some m' → m'.sameKey n = false) :
    l.lldpReceived p mac pdu = if ttl = 0 then l.neighbourLost p k else
      l.setPort p fun x => { x with neighbours := x.neighbours.upd k fun m => some { n with arrival := (m.getD n).arrival } } := by
  unfold Live.lldpReceived; rw [h1]; dsimp only
  rw [find_slot h3]
  · rw [h4]; exact h5
  · intro j hj
    cases e : (l.portRt p).neighbours.get j with
    | none => rfl
    | some m => exact h6 j m hj e
theorem received_fifth {l : Live} {p mac : Nat} {pdu : List Byte} {n : Neighbour} {ttl : Nat} (h1 : lldpParse l mac pdu = some (n, ttl))
    (h2 : ttl ≠ 0) (h3 : ∀ j, j < 4 → ∃ m, (l.portRt p).neighbours.get j = some m ∧ m.sameKey n = false) :
    l.lldpReceived p mac pdu = (l.count .LLDP_TOO_MANY 1 p).raise 255 [] (l.portOwner p) := by
  unfold Live.lldpReceived; rw [h1]; dsimp only
  rw [find_no, if_neg h2, find_no]
  · intro j hj; obtain ⟨m, e1, _⟩ := h3 j hj; rw [e1]; rfl
  · intro j hj; obtain ⟨m, e1, e2⟩ := h3 j hj; rw [e1]; exact e2
theorem rd_wrV_same (l : Live) (o : Obj) (v i k t : Nat) : (l.wrV o v i k t).rd o i k t = v % 256 ^ o.len := by
  unfold Live.wrV
  split
  · assumption
  · rw [Live.rd_wr_same]
theorem journal_other (l : Live) (o : Obj) (i k t : Nat) (h : o.key i k t ≠ Obj.key .RECOVERY_TOTAL 0 0 0) :
    l.journalRecoveries.rd o i k t = l.rd o i k t := by
  unfold Live.journalRecoveries; dsimp only
  show (Live.forL l (sortBy Prod.fst l.recoveries.done) _).rd o i k t = _
  refine forL_inv (P := fun m => m.rd o i k t = l.rd o i k t) ?_ _ l rfl
  intro m e hm
  show (m.wr _ _).rd o i k t = _
  exact (Live.rd_wr_other m _ h).trans hm
theorem withdraw_other (l : Live) (ev : l.mode.evaluates = true) (cs : List Nat) (o : Obj) (i k t : Nat) (h : o.key i k t ≠ Obj.key .GUARANTEES 0 0 0)
    (h1 : o.key i k t ≠ Obj.key .WITHDRAWN_CAUSE 0 0 0) (h2 : o.key i k t ≠ Obj.key .WITHDRAWN_BEAT 0 0 0) :
    (l.withdraw cs).rd o i k t = l.rd o i k t := by
  unfold Live.withdraw
  split
  · rfl
  · rename_i c cs' _
    dsimp only
    have go : ∀ (xs : List Nat) (y : Live), y.mode.evaluates = true → (xs.foldl (fun l x => l.raise 25 (u8 x)) y).rd o i k t = y.rd o i k t := by
      intro xs
      induction xs with
      | nil => intros; rfl
      | cons a as ih => intro y hm; rw [List.foldl_cons, ih _ (by rw [(Live.raise_keeps ..).mode_eq (by decide)]; exact hm), Live.raise_rd hm]
    rw [go _ _ (by rw [(Live.wr_keeps ..).mode_eq (by decide), (Live.wr_keeps ..).mode_eq (by decide), (Live.wr_keeps ..).mode_eq (by decide)]; exact ev),
      Live.rd_wr_other _ _ h2, Live.rd_wr_other _ _ h1, Live.rd_wr_other _ _ h]
theorem setCalico_calico (l : Live) (f : Calico → Calico) : (l.setCalico f).plane.calico = f l.plane.calico := rfl
theorem mem_members4 (m k : Nat) (h : k < 4) : k ∈ members 4 m ↔ bit m k = true := by simp [members, h]
/-- What the banks of the named tables become, table by table. -/
theorem swap_all (n : Nat) (xs : List Nat) : ∀ l : Live, xs.Nodup → (∀ k ∈ xs, k < 4) → l.now = n →
    let m := l.forL xs fun l t => ((l.wrV .ACTIVE_BANK (1 - l.rd .ACTIVE_BANK t) t).wr .LAST_SWAP_BEAT l.now t).setCalico fun x => { x with drains := x.drains.put t (some l.ticks) }
    m.modes = l.modes ∧ m.beat = l.beat ∧ m.events = l.events ∧ m.recoveries = l.recoveries ∧
    m.rd .TABLE_GENERATION = l.rd .TABLE_GENERATION ∧
    (∀ k, k < 4 → m.rd .ACTIVE_BANK k = if k ∈ xs then 1 - l.rd .ACTIVE_BANK k else l.rd .ACTIVE_BANK k) ∧
    (∀ k, k < 4 → m.rd .LAST_SWAP_BEAT k = if k ∈ xs then n % 256 ^ 8 else l.rd .LAST_SWAP_BEAT k) ∧
    (∀ k, k < 4 → m.plane.calico.drains.get k = if k ∈ xs then some l.ticks else l.plane.calico.drains.get k) := by
  induction xs with
  | nil => intro l _ _ _; simp [Live.forL]
  | cons x xs ih =>
    intro l hd hk hn
    dsimp only
    unfold Live.forL
    rw [List.foldl_cons]
    obtain ⟨hx, hd'⟩ := List.nodup_cons.mp hd
    have hx4 := hk x (by simp)
    have ep : (l.wrV .ACTIVE_BANK (1 - l.rd .ACTIVE_BANK x) x).plane.calico = l.plane.calico := by
      unfold Live.wrV; split
      · rfl
      · rw [Live.wr_plane]; unfold Live.keepVersion; split <;> rfl
    have e1 : (l.wrV .ACTIVE_BANK (1 - l.rd .ACTIVE_BANK x) x).modes = l.modes := Live.wrV_modes ..
    have e2 : (l.wrV .ACTIVE_BANK (1 - l.rd .ACTIVE_BANK x) x).beat = l.beat := (Live.wrV_keeps ..).beat_eq (by decide)
    have e3 : (l.wrV .ACTIVE_BANK (1 - l.rd .ACTIVE_BANK x) x).events = l.events := (Live.wrV_keeps ..).events_eq (by decide)
    have e4 : (l.wrV .ACTIVE_BANK (1 - l.rd .ACTIVE_BANK x) x).recoveries = l.recoveries := (Live.wrV_keeps ..).recoveries_eq (by decide)
    have r1 : ∀ k, k < 4 → (l.wrV .ACTIVE_BANK (1 - l.rd .ACTIVE_BANK x) x).rd .ACTIVE_BANK k = if k = x then 1 - l.rd .ACTIVE_BANK k else l.rd .ACTIVE_BANK k := by
      intro k hk4
      by_cases hkx : k = x
      · subst hkx; rw [rd_wrV_same, if_pos rfl]; exact Nat.mod_eq_of_lt (by have : Obj.ACTIVE_BANK.len = 1 := rfl; rw [this]; omega)
      · rw [if_neg hkx, Live.rd_wrV_other (key_item (by decide) hkx)]
    have r2 : ∀ k, (l.wrV .ACTIVE_BANK (1 - l.rd .ACTIVE_BANK x) x).rd .LAST_SWAP_BEAT k = l.rd .LAST_SWAP_BEAT k := fun k =>
      Live.rd_wrV_other (by simp only [Obj.key, Obj.index, Obj.LAST_SWAP_BEAT, Obj.ACTIVE_BANK]; omega)
    have r3 : (l.wrV .ACTIVE_BANK (1 - l.rd .ACTIVE_BANK x) x).rd .TABLE_GENERATION = l.rd .TABLE_GENERATION :=
      Live.rd_wrV_other (by simp only [Obj.key, Obj.index, Obj.TABLE_GENERATION, Obj.ACTIVE_BANK]; omega)
    generalize l.wrV .ACTIVE_BANK (1 - l.rd .ACTIVE_BANK x) x = y at *
    have hy : (((y.wr .LAST_SWAP_BEAT l.now x).setCalico fun c => { c with drains := c.drains.put x (some l.ticks) }).now) = n := by
      show y.now = n; unfold Live.now; rw [e2]; exact hn
    obtain ⟨g1, g2, g3, g4, g5, g6, g7, g8⟩ := ih ((y.wr .LAST_SWAP_BEAT l.now x).setCalico fun c => { c with drains := c.drains.put x (some l.ticks) }) hd' (fun k hk' => hk k (by simp [hk'])) hy
    have hl : ∀ o k, ((y.wr .LAST_SWAP_BEAT l.now x).setCalico fun c => { c with drains := c.drains.put x (some l.ticks) }).rd o k = (y.wr .LAST_SWAP_BEAT l.now x).rd o k := fun _ _ => rfl
    refine ⟨g1.trans e1, g2.trans e2, g3.trans e3, g4.trans e4, ?_, fun k hk4 => ?_, fun k hk4 => ?_, fun k hk4 => ?_⟩
    · refine g5.trans ?_
      rw [hl]; refine (Live.rd_wr_other _ _ (by first | decide | (simp only [Obj.key, Obj.index, Obj.TABLE_GENERATION, Obj.LAST_SWAP_BEAT]; omega))).trans ?_
      exact r3
    · refine (g6 k hk4).trans ?_
      have e5 : ∀ v, (y.wr .LAST_SWAP_BEAT v x).rd .ACTIVE_BANK k = y.rd .ACTIVE_BANK k := fun v => Live.rd_wr_other _ _ (by simp only [Obj.key, Obj.index, Obj.LAST_SWAP_BEAT, Obj.ACTIVE_BANK]; omega)
      rw [hl, e5, r1 k hk4]
      by_cases hkx : k = x
      · subst hkx; simp [hx]
      · simp [hkx]
    · refine (g7 k hk4).trans ?_
      rw [hl]
      by_cases hkx : k = x
      · subst hkx; rw [if_neg hx, Live.rd_wr_same, hn]; simp; rfl
      · rw [Live.rd_wr_other _ _ (key_item (by decide) hkx), r2]; simp [hkx]
    · refine (g8 k hk4).trans ?_
      have e6 : ((y.wr .LAST_SWAP_BEAT l.now x).setCalico fun c => { c with drains := c.drains.put x (some l.ticks) }).ticks = l.ticks := by show y.beat.ticks = _; rw [e2]; rfl
      have e7 : ((y.wr .LAST_SWAP_BEAT l.now x).setCalico fun c => { c with drains := c.drains.put x (some l.ticks) }).plane.calico.drains = l.plane.calico.drains.put x (some l.ticks) := by
        rw [setCalico_calico, Live.wr_plane, ep]
      rw [e6, e7]
      by_cases hkx : k = x
      · subst hkx; rw [if_neg hx, Tbl.get_put_same]; simp
      · rw [Tbl.get_put_other _ _ hkx]; simp [hkx]
theorem drains_all (xs : List Nat) : ∀ (d : Tbl (Option Nat)) (j : Nat), (xs.foldl (fun d t => d.put t none) d).get j = if j ∈ xs then none else d.get j := by
  induction xs with
  | nil => intros; simp
  | cons x xs ih =>
    intro d j
    rw [List.foldl_cons, ih]
    by_cases hj : j ∈ xs
    · simp [hj]
    · by_cases hx : j = x
      · subst hx; simp [hj, Tbl.get_put_same]
      · simp [hj, hx, Tbl.get_put_other _ _ hx]
theorem heal_rd (l : Live) (a : Nat) (o : Obj) (i k t : Nat) : (l.heal a).rd o i k t = l.rd o i k t := by
  unfold Live.rd; rw [(Live.heal_keeps ..).store_eq (by decide)]
theorem heal_fwd (l : Live) (a : Nat) : (l.heal a).plane.fwd = l.plane.fwd := by unfold Live.heal; split <;> rfl
theorem setFn_same (l : Live) (f : Nat) (g : Fn → Fn) : (l.setFn f g).fn f = g (l.fn f) := by
  unfold Live.setFn Live.fn Live.setHost; exact Tbl.get_upd_same ..
theorem setFn_other (l : Live) {f j : Nat} (g : Fn → Fn) (h : j ≠ f) : (l.setFn f g).fn j = l.fn j := by
  unfold Live.setFn Live.fn Live.setHost; exact Tbl.get_upd_other _ _ h
theorem setRing_same (l : Live) (f k : Nat) (g : Ring → Ring) : (l.setRing f k g).ring f k = g (l.ring f k) := by
  unfold Live.ring Live.setRing; rw [setFn_same]; exact Tbl.get_upd_same ..
theorem setRing_other (l : Live) {f k i j : Nat} (g : Ring → Ring) (h : (i, j) ≠ (f, k)) : (l.setRing f k g).ring i j = l.ring i j := by
  unfold Live.ring Live.setRing
  by_cases e : i = f
  · subst e; rw [setFn_same]; exact Tbl.get_upd_other _ _ (fun e => h (by rw [e]))
  · rw [setFn_other _ _ e]
theorem setRing_twice (l : Live) (f k : Nat) (g h : Ring → Ring) (i j : Nat) :
    ((l.setRing f k g).setRing f k h).ring i j = if (i, j) = (f, k) then h (g (l.ring f k)) else l.ring i j := by
  split
  · rename_i e; cases e; rw [setRing_same, setRing_same]
  · rename_i e; rw [setRing_other _ _ e, setRing_other _ _ e]
/-- A stopped ring: its bits and code, its counter and its event; no other ring. -/
theorem stopRing_does {l : Live} (ev : l.mode.evaluates = true) (fz : l.mode ≠ .freeze) {f k : Nat} (hf : f < 8) (c : Nat) :
    (l.stopRing f k c).ring f k = { l.ring f k with active := false, error := true, errorCode := c } ∧
    (∀ i j, (i, j) ≠ (f, k) → (l.stopRing f k c).ring i j = l.ring i j) ∧
    l.cellsBut [Obj.key .RING_ERRORS f 0 0, Obj.key .WRAPPED_ANY 0 0 0] (l.stopRing f k c) ∧
    (l.stopRing f k c).rd .RING_ERRORS f = (l.rd .RING_ERRORS f + 1) % 256 ^ Obj.RING_ERRORS.len ∧
    l.occ 583 (u8 f ++ u8 k) f ∈ (l.stopRing f k c).events.arisen := by
  have hr : ∀ i j, (l.stopRing f k c).ring i j = (l.setRing f k fun r => { r with active := false, error := true, errorCode := c }).ring i j := by
    intro i j
    have : (l.stopRing f k c).host = (l.setRing f k fun r => { r with active := false, error := true, errorCode := c }).host := by
      unfold Live.stopRing; dsimp only
      rw [(Live.raise_keeps ..).host_eq (by decide), (Live.blk_keeps ..).host_eq (by decide), (Live.count_keeps ..).host_eq (by decide)]
    unfold Live.ring Live.fn; rw [this]
  have e1 : (l.setRing f k fun r => { r with active := false, error := true, errorCode := c }).mode.evaluates = true := ev
  have e2 : (((l.setRing f k fun r => { r with active := false, error := true, errorCode := c }).count .RING_ERRORS 1 f).blk 23 .signalB 1 f 0 f).mode.evaluates = true := by
    rw [blk_mode]; unfold Live.mode; rw [Live.count_modes]; exact ev
  refine ⟨by rw [hr, setRing_same], fun i j h => by rw [hr, setRing_other _ _ h], ?_, ?_, ?_⟩
  · unfold Live.stopRing; dsimp only
    refine .raise ?_ e2
    refine .of_store (b := (l.setRing f k fun r => { r with active := false, error := true, errorCode := c }).count .RING_ERRORS 1 f) ?_ (blk_store' ..)
    exact ⟨fun o i k' t hn => (Live.count_cells e1 .RING_ERRORS 1 f 0 0).same o i k' t hn⟩
  · unfold Live.stopRing; dsimp only
    rw [Live.raise_rd e2, blk_rd]
    exact Live.count_rd e1 fz (Nat.zero_le _) (by have e : Obj.RING_ERRORS.hi = 7 := rfl; omega) (by simp only [Obj.key, Obj.index, Obj.RING_ERRORS, Obj.WRAPPED_ANY]; omega)
  · unfold Live.stopRing; dsimp only
    refine Live.raise_mem ev ?_ ?_ ..
    · rw [Live.blk_modes, Live.count_modes]; rfl
    · rw [Live.blk_beat, Live.count_beat]; rfl
theorem serves_up {l : Live} {f : Nat} (h : l.bar0Serves f = true) : l.mode.evaluates = true := by
  unfold Live.bar0Serves at h; simp at h
  rcases h.2 with h | h
  · exact (engineOn_live h).1
  · rw [h]; rfl
theorem bit_setBit (v k : Nat) (b : Bool) : bit (setBit v k b) k = b := by
  have h0 : bits v k 1 * 2 ^ k ≤ v := by
    unfold bits
    have := Nat.mod_le (v / 2 ^ k) (2 ^ 1)
    exact Nat.le_trans (Nat.mul_le_mul_right _ this) (Nat.div_mul_le_self ..)
  have h1 : (v - bits v k 1 * 2 ^ k) / 2 ^ k % 2 = 0 := by
    rw [Nat.mul_comm (bits v k 1), Nat.sub_mul_div]
    unfold bits; omega
  have hb : b.toNat % 2 ^ 1 = b.toNat := by cases b <;> rfl
  unfold bit setBit setBits
  rw [Nat.testBit_eq_decide_div_mod_eq, hb, Nat.add_mul_div_right _ _ (Nat.two_pow_pos k)]
  generalize (v - bits v k 1 * 2 ^ k) / 2 ^ k = m at h1
  cases b <;> simp <;> omega
theorem setFn_live (l : Live) (f : Nat) (g : Fn → Fn) : (l.setFn f g).mode = l.mode := rfl
theorem setFn_ring (l : Live) (f : Nat) {g : Fn → Fn} (hg : ∀ x, (g x).rings = x.rings) (i j : Nat) : (l.setFn f g).ring i j = l.ring i j := by
  unfold Live.ring
  by_cases e : i = f
  · subst e; rw [setFn_same, hg]
  · rw [setFn_other _ _ e]
/-- A vector that is not masked is signalled. -/
theorem signal_does {l : Live} {f v : Nat} (h : (l.fn f).flr = none) (h1 : l.modes.recovery = false) (h2 : l.host.up = true)
    (h3 : (l.fn f).fnMask = false) (h4 : bit ((l.fn f).msixWord (4 * vectorOf f v + 3)) 0 = false) :
    l.signalVector f v = l.setFn f fun x => { x with signals := x.signals.upd (vectorOf f v) (· + 1) } := by
  unfold Live.signalVector; dsimp only; rw [if_neg (by simp [h, h1, h2]), if_neg (by simp [h3, h4])]
theorem enable_eq {l : Live} {f : Fin 8} {k : Fin 13} {c v : Nat} (h : l.bar0Serves f.val = true) (h1 : (l.ring f.val k.val).enable = false)
    (h2 : v = setBit (c % 2 ^ 32) 31 true) (h3 : hasSq k.val = true → 6 ≤ bits v 8 4 ∧ bits v 8 4 ≤ 12) (h4 : 6 ≤ bits v 12 4) (h5 : bits v 12 4 ≤ 12) :
    (if l.bar0Serves f.val then l.ringSwitch f.val k.val c true else l) =
      (((l.setRing f.val k.val fun r => { r with vector := bits v 20 (if f.val = 0 then 6 else 4), irqEn := bit v 19, cqLog2 := if r.enable then r.cqLog2 else bits v 12 4, sqLog2 := if r.enable then r.sqLog2 else bits v 8 4 }).setRing f.val k.val fun r => { r with enable := true, sqTail := 0, sqHead := 0, cqHead := 0, cqTail := 0, owed := l.jobsOwed f.val k.val, waits := [], signalled := false, taken := [], error := false, errorCode := 0 }).setRing f.val k.val fun r => { r with active := true, quiesced := false }) := by
  rw [if_pos h]
  unfold Live.ringSwitch; dsimp only; rw [← h2]
  unfold Live.ringControlWrite Live.when Ring.sizeBusy
  rw [h1, Bool.false_and]
  unfold Live.ringControl; dsimp only
  rw [h2, bit_setBit, ← h2, h1]
  simp only [Bool.false_eq_true, if_false, not_false_eq_true, and_self, if_true]
  unfold Live.ringStart; dsimp only
  rw [setRing_same]; dsimp only
  simp only [h1, Bool.false_eq_true, if_false]
  rw [if_neg (by rintro (⟨a, b⟩ | b)
                 · have := h3 a; rcases b with b | b <;> omega
                 · rcases b with b | b <;> omega)]
  rfl
theorem disable_eq {l : Live} {f : Fin 8} {k : Fin 13} {c : Nat} (h : l.bar0Serves f.val = true) (h1 : (l.ring f.val k.val).enable = true)
    (h2 : k.val ≠ 11) (h3 : k.val ≠ 8) (h4 : (l.ring f.val k.val).sizeBusy (setBit (c % 2 ^ 32) 31 false) = false) :
    (if l.bar0Serves f.val then l.ringSwitch f.val k.val c false else l) =
      (l.setRing f.val k.val fun r => { r with vector := bits (setBit (c % 2 ^ 32) 31 false) 20 (if f.val = 0 then 6 else 4), irqEn := bit (setBit (c % 2 ^ 32) 31 false) 19, cqLog2 := if r.enable then r.cqLog2 else bits (setBit (c % 2 ^ 32) 31 false) 12 4, sqLog2 := if r.enable then r.sqLog2 else bits (setBit (c % 2 ^ 32) 31 false) 8 4 }).setRing f.val k.val fun r => { r with enable := false, active := false, error := false, errorCode := 0, taken := [] } := by
  rw [if_pos h]
  unfold Live.ringSwitch; dsimp only
  generalize hv : setBit (c % 2 ^ 32) 31 false = v at *
  unfold Live.ringControlWrite Live.when
  rw [h4]
  unfold Live.ringControl; dsimp only
  rw [← hv, bit_setBit, hv, h1]
  simp only [Bool.false_eq_true, if_false, false_and, not_false_eq_true, true_and, if_true, not_true, false_and, and_self]
  unfold Live.ringStop; dsimp only
  rw [if_neg h2, if_neg h3]
theorem head_eq {l : Live} {f : Fin 8} {k : Fin 13} {v n : Nat} (h : l.bar0Serves f.val = true) (h1 : (l.ring f.val k.val).active = true)
    (h2 : v < (l.ring f.val k.val).cqSize) (h3 : n = (v + (l.ring f.val k.val).cqSize - (l.ring f.val k.val).cqHead) % (l.ring f.val k.val).cqSize)
    (h4 : n ≠ 0) (h5 : n ≤ (l.ring f.val k.val).cqHeld) (h6 : (l.ring f.val k.val).waits.drop n = []) :
    (if l.bar0Serves f.val then l.cqHeadWrite f.val k.val v else l) =
      l.setRing f.val k.val fun r => { r with cqHead := v, waits := r.waits.drop n, signalled := false } := by
  rw [if_pos h]; unfold Live.cqHeadWrite; dsimp only; rw [if_neg (by simp [h1]), ← h3, if_neg (by rintro (a | a) <;> omega), if_neg h4]
  unfold Live.ringSignal; dsimp only; rw [setRing_same]; dsimp only
  rw [if_neg (by rintro ⟨_, _, a, _⟩; exact a h6)]
/-- What the taking of an entry does, as the command has it. -/
theorem take_eq {l : Live} {f : Fin 8} {k : Fin 13} {e : List Byte} (h : 4 ≤ k.val) (h1 : k.val < 11) (h2 : k.val ≠ 8) (h3 : l.ringWorks f.val k.val = true)
    (h4 : (l.ring f.val k.val).sqHeld ≠ 0) (h5 : (l.ring f.val k.val).cqHeld + (l.ring f.val k.val).owed + 1 < (l.ring f.val k.val).cqSize) :
    (if k.val < 4 ∨ 11 ≤ k.val ∨ ¬ l.mayTake f.val k.val then l
    else if k.val = 8 ∧ (¬ (drainOp (slice e 0 (sqEntryLen k.val)) = 1 ∨ drainOp (slice e 0 (sqEntryLen k.val)) = 2) ∨ (drainOp (slice e 0 (sqEntryLen k.val)) = 1 ∧ leAt (slice e 0 (sqEntryLen k.val)) 8 8 % 4096 ≠ 0)) then l.stopRing f.val k.val 1
    else l.takeEntry f.val k.val (slice e 0 (sqEntryLen k.val)) (k.val ≠ 8 ∨ drainOp (slice e 0 (sqEntryLen k.val)) = 1)) =
      l.takeEntry f.val k.val (slice e 0 (sqEntryLen k.val)) true := by
  rw [if_neg (by rintro (a | a | a) <;> first | omega | exact a (by unfold Live.mayTake; simp [h3, h4, h5, hasSq]; omega)), if_neg (by rintro ⟨a, _⟩; exact h2 a)]
  simp [h2]
/-- Every ring named drops what it took; nothing else of the machine changes but that. -/
theorem taken_none (f : Nat) (xs : List Nat) : ∀ l : Live,
    let r := l.forL xs fun l k => l.setRing f k fun r => { r with taken := [] }
    Keeps [.host] l r ∧ (∀ g, g ≠ f → r.fn g = l.fn g) ∧ ∀ k, (k ∈ xs ∨ (l.ring f k).taken = []) → (r.ring f k).taken = [] := by
  induction xs with
  | nil => intro l; exact ⟨.refl _ _, fun _ _ => rfl, fun k h => h.elim (fun h => nomatch h) id⟩
  | cons x xs ih =>
    intro l
    dsimp only
    unfold Live.forL
    rw [List.foldl_cons]
    obtain ⟨a, b, c⟩ := ih (l.setRing f x fun r => { r with taken := [] })
    refine ⟨.via a rfl (Live.setRing_keeps ..), fun g hg => (b g hg).trans (setFn_other _ _ hg), fun k hk => c k ?_⟩
    by_cases hx : k = x
    · subst hx; exact .inr (by rw [setRing_same])
    · rcases hk with hk | hk
      · exact .inl (by simpa [hx] using hk)
      · exact .inr (by rw [setRing_other _ _ (by simp [hx])]; exact hk)
theorem fn_host {a b : Live} (h : a.host = b.host) (f : Nat) : a.fn f = b.fn f := by unfold Live.fn; rw [h]
theorem ring_host {a b : Live} (h : a.host = b.host) (f k : Nat) : a.ring f k = b.ring f k := by unfold Live.ring; rw [fn_host h]
/-- What a vector's signal leaves of a function's rings. -/
theorem signalVector_ring (l : Live) (f v i j : Nat) : (l.signalVector f v).ring i j = l.ring i j := by
  unfold Live.signalVector; dsimp only
  split
  · rfl
  · split <;> exact setFn_ring _ _ (by intro x; rfl) _ _
/-- A ring that may signal keeps its entries. -/
theorem ringSignal_ring (l : Live) (f k : Nat) (now : Bool) (i j : Nat) :
    (l.ringSignal f k now).ring i j = l.ring i j ∨ (l.ringSignal f k now).ring i j = { l.ring i j with signalled := true } := by
  have hs : ∀ v, ((l.setRing f k fun r => { r with signalled := true }).signalVector f v).ring i j = l.ring i j ∨
      ((l.setRing f k fun r => { r with signalled := true }).signalVector f v).ring i j = { l.ring i j with signalled := true } := by
    intro v
    rw [signalVector_ring]
    by_cases h : (i, j) = (f, k)
    · cases h; rw [setRing_same]; exact .inr rfl
    · rw [setRing_other _ _ h]; exact .inl rfl
  have key : ∀ (c : Prop) [Decidable c] (v : Nat),
      (if c then (l.setRing f k fun r => { r with signalled := true }).signalVector f v else l).ring i j = l.ring i j ∨
      (if c then (l.setRing f k fun r => { r with signalled := true }).signalVector f v else l).ring i j = { l.ring i j with signalled := true } := by
    intro c _ v
    split
    · exact hs v
    · exact .inl rfl
  exact key _ _
/-- Of the endpoint a completion changes its functions alone. -/
theorem ringSignal_rest (l : Live) (f k : Nat) (now : Bool) : (l.ringSignal f k now).host = { l.host with fns := (l.ringSignal f k now).host.fns } := by
  have hv : ∀ (m : Live) (v : Nat), (m.signalVector f v).host = { m.host with fns := (m.signalVector f v).host.fns } := by
    intro m v
    unfold Live.signalVector; dsimp only
    split
    · rfl
    · split <;> rfl
  have key : ∀ (c : Prop) [Decidable c] (v : Nat), (if c then (l.setRing f k fun r => { r with signalled := true }).signalVector f v else l).host =
      { l.host with fns := (if c then (l.setRing f k fun r => { r with signalled := true }).signalVector f v else l).host.fns } := by
    intro c _ v
    split
    · exact hv _ v
    · rfl
  exact key _ _
theorem cqOwed_rest (l : Live) (f k : Nat) (e d : List Byte) (now : Bool) :
    (l.cqOwed f k e d now).host = { l.host with fns := (l.cqOwed f k e d now).host.fns } := by
  unfold Live.cqOwed Live.cqWrite; exact ringSignal_rest ..
theorem cqOwed_ring (l : Live) (f k : Nat) (e d : List Byte) (now : Bool) :
    ((l.cqOwed f k e d now).ring f k).lastEntry = e ∧ ((l.cqOwed f k e d now).ring f k).owed = (l.ring f k).owed - 1 ∧
    ((l.cqOwed f k e d now).ring f k).taken = (l.ring f k).taken := by
  unfold Live.cqOwed Live.cqWrite
  rcases ringSignal_ring ((l.setRing f k fun r => { r with owed := r.owed - 1 }).setRing f k fun r =>
    { r with cqTail := (r.cqTail + 1) % r.cqSize, waits := r.waits ++ [(l.setRing f k fun r => { r with owed := r.owed - 1 }).ticks],
             lastEntry := e, lastData := d, quiesced := false }) f k now f k with h | h <;>
  · rw [h, setRing_twice, if_pos rfl]; exact ⟨rfl, rfl, rfl⟩
/-- The completion of a send. -/
theorem txComplete_ring (l : Live) (f k : Nat) (e : List Byte) (st b : Nat) :
    ((l.txComplete f k e st b).ring f k).lastEntry = slice e 16 4 ++ u8 st ++ List.replicate 3 0 ++ leBytes 8 b ∧
    ((l.txComplete f k e st b).ring f k).owed = (l.ring f k).owed - 1 ∧ ((l.txComplete f k e st b).ring f k).taken = (l.ring f k).taken.drop 1 := by
  unfold Live.txComplete Live.dropTaken
  obtain ⟨a, b, c⟩ := cqOwed_ring (l.setRing f k fun r => { r with taken := r.taken.drop 1 }) f k (slice e 16 4 ++ u8 st ++ List.replicate 3 0 ++ leBytes 8 b) [] false
  rw [setRing_same] at b c
  exact ⟨a, b, c⟩
theorem ringsRun_ev {l : Live} {f k : Nat} (h : l.ringWorks f k = true) : l.mode.engineOn = true := by
  unfold Live.ringWorks Live.ringsRun at h; simp at h; exact h.1.1
theorem stop_mono {l : Live} {x : Occ} (ev : l.mode.evaluates = true) (f k c : Nat) (h : x ∈ l.events.arisen) : x ∈ (l.stopRing f k c).events.arisen := by
  unfold Live.stopRing; dsimp only
  refine Live.raise_mono ?_ _ _ _ ?_
  · rw [blk_mode]; unfold Live.mode; rw [Live.count_modes]; exact ev
  · rw [Live.blk_arisen]; exact Live.count_mono (l := l.setRing f k fun r => { r with active := false, error := true, errorCode := c }) ev _ _ _ _ _ h
/-- What the taking of a legal load entry does. -/
theorem load_eq {l : Live} {f : Fin 8} {en : List Byte} {x : Load} (h : l.mayTake f.val 11 = true) (h1 : l.loadTurn f.val = false) (h2 : l.tnActive f.val = true)
    (h3 : x = { fn := f, table := fieldAt (slice en 0 32) 8 1, bank := fieldAt (slice en 0 32) 9 1, first := leAt (slice en 0 32) 12 4, count := leAt (slice en 0 32) 16 4, cookie := leAt (slice en 0 32) 20 4 })
    (h4 : x.table < 4) (h5 : x.bank < 2) (h6 : x.count ≠ 0) (h7 : x.first + x.count ≤ ctSize x.table) (h8 : x.bank ≠ l.rd .ACTIVE_BANK x.table)
    (h9 : l.draining x.table = false) :
    (if l.mayTake f.val 11 ∧ ¬ l.loadTurn f.val ∧ l.tnActive f.val then l.tableLoad f.val en else l) =
      (((l.takeEntry f.val 11 (slice en 0 32) true).dropTaken f.val 11).setHost fun h => { h with loadAt := h.loadAt.put f.val (some l.ticks) }).setHost fun h => { h with loads := h.loads ++ [x] } := by
  rw [if_pos ⟨h, by simp [h1], h2⟩]
  have c : ¬ (4 ≤ x.table ∨ 2 ≤ x.bank ∨ x.count = 0 ∨ ctSize x.table < x.first + x.count) := by omega
  have c' : ¬ (x.bank = l.rd .ACTIVE_BANK x.table ∨ l.draining x.table = true) := by simp [h8, h9]
  subst h3
  unfold Live.tableLoad; dsimp only at *
  rw [if_neg c, if_neg c']
/-- In BRINGUP an occurrence is held: no cell but HELD_LOST can change. -/
theorem raise_rd_up {l : Live} (h : l.mode = .bringup) (src : Nat) (data : List Byte) (tn : Nat) {o : Obj} {i k t : Nat}
    (hn : o.key i k t ≠ Obj.key .HELD_LOST 0 0 0) : (l.raise src data tn).rd o i k t = l.rd o i k t := by
  unfold Live.raise Live.raiseAt Live.hold; dsimp only; rw [h]; dsimp only
  split
  · rfl
  · exact Live.rd_wr_other _ _ hn
theorem puts_all {α : Type} [DecidableEq α] [Inhabited α] (g : Nat → α) (xs : List Nat) : ∀ (d : Tbl α) (j : Nat),
    (xs.foldl (fun d k => d.put k (g k)) d).get j = if j ∈ xs then g j else d.get j := by
  induction xs with
  | nil => intros; simp
  | cons x xs ih =>
    intro d j
    rw [List.foldl_cons, ih]
    by_cases hj : j ∈ xs
    · simp [hj]
    · by_cases hx : j = x
      · subst hx; simp [hj, Tbl.get_put_same]
      · simp [hj, hx, Tbl.get_put_other _ _ hx]
/-- What the journal's entry does. -/
theorem hostFault_does {l : Live} (ev : l.mode.evaluates = true) (f r d off : Nat) (data : List Byte) :
    (l.hostFault f r d off data).fn f = { l.fn f with
      journal := lastN 32 ((l.fn f).journal ++ [{ seq := ((l.fn f).journalSeq + 1) % 2 ^ 32, reason := r, detail := d, length := data.length, address := off, data := beVal (slice data 0 8), beat := l.now }]),
      journalSeq := ((l.fn f).journalSeq + 1) % 2 ^ 32, journalNew := true } ∧
    (∀ g, g ≠ f → (l.hostFault f r d off data).fn g = l.fn g) ∧ l.cellsBut [Obj.key .JOURNAL_SEQ f 0 0] (l.hostFault f r d off data) ∧
    (l.hostFault f r d off data).rd .JOURNAL_SEQ f = ((l.fn f).journalSeq + 1) % 2 ^ 32 ∧
    l.occ 580 (u8 f ++ u8 r) f ∈ (l.hostFault f r d off data).events.arisen := by
  unfold Live.hostFault; dsimp only
  generalize hg : (fun x : Fn => ({ x with journal := _, journalSeq := _, journalNew := true } : Fn)) = g
  have hh : (((((l.setFn f g).wr .JOURNAL_SEQ (((l.fn f).journalSeq + 1) % 2 ^ 32) f).blk 23 .signalA 1 f 0 f).raise 580 (u8 f ++ u8 r) (fnTn f))).host = (l.setFn f g).host := by
    rw [Live.raise_host, (Live.blk_keeps ..).host_eq (by decide), Live.wr_host]
  have e1 : (((l.setFn f g).wr .JOURNAL_SEQ (((l.fn f).journalSeq + 1) % 2 ^ 32) f).blk 23 .signalA 1 f 0 f).mode.evaluates = true := by
    rw [blk_mode]; unfold Live.mode; rw [Live.wr_modes]; exact ev
  refine ⟨?_, fun j hj => ?_, ⟨fun o i k t hn => ?_⟩, ?_, ?_⟩
  · rw [fn_host hh, setFn_same, ← hg]
  · rw [fn_host hh, setFn_other _ _ hj]
  · rw [Live.raise_rd e1, blk_rd, Live.rd_wr_other _ _ (by simpa using hn)]; rfl
  · rw [Live.raise_rd e1, blk_rd, Live.rd_wr_same]
    exact Nat.mod_eq_of_lt (by have e : Obj.JOURNAL_SEQ.len = 4 := rfl; rw [e]; omega)
  · exact Live.raise_mem ev (by rw [Live.blk_modes, Live.wr_modes]; rfl) (by rw [Live.blk_beat, Live.wr_beat]; rfl) ..
/-- A write to the register pages of a function that is served. -/
theorem pages_eq {l : Live} {f : Fin 8} {off : Nat} {data : List Byte} (h : l.host.up = true) (h1 : f.val ≠ 0 → (l.fn f.val).vfEnable = true)
    (h2 : l.mode ≠ .bringup) (h3 : (l.fn f.val).flr = none) (h4 : l.mode ≠ .decommissioned) (h5 : off < 0xA000) (h6 : off + data.length ≤ barSize f.val) :
    l.barWrite f.val off data false = l.pageWrite f.val off data := by
  unfold Live.barWrite
  have ha : 0x20000 ≤ apertureBase f.val := by unfold apertureBase; split <;> decide
  rw [if_neg (by rintro (a | a | a)
                 · exact a h
                 · exact a.2 (h1 a.1)
                 · omega), if_neg h2, if_neg (by simp [h3]), if_neg (fun a => h4 a.1), if_neg (by omega), if_neg (by simp), if_pos h5]
theorem setSeg_same (l : Live) (i : Nat) (g : Segment → Segment) : (l.setSeg i g).seg i = g (l.seg i) := by
  unfold Live.seg Live.setSeg Live.setFlannel; exact Tbl.get_upd_same ..
theorem setSeg_other (l : Live) {i j : Nat} (g : Segment → Segment) (h : j ≠ i) : (l.setSeg i g).seg j = l.seg j := by
  unfold Live.seg Live.setSeg Live.setFlannel; exact Tbl.get_upd_other _ _ h
theorem seg_flannel {a b : Live} (h : a.flannel = b.flannel) (i : Nat) : a.seg i = b.seg i := by unfold Live.seg; rw [h]
theorem seg_commits (l : Live) (g : List Nat → List Nat) (i : Nat) : (l.setFlannel fun x => { x with commits := g x.commits }).seg i = l.seg i := rfl
theorem Tbl.mem_of_find? {α : Type} {t : Tbl α} {i : Nat} {x : α} (h : t.find? i = some x) : (i, x) ∈ t := by
  induction t with
  | nil => cases h
  | cons e t ih =>
    unfold Tbl.find? at h
    split at h
    · rename_i he; cases h; subst he; exact List.mem_cons_self ..
    · exact List.mem_cons_of_mem _ (ih h)
/-- A segment that is not as at reset is among those searched. -/
theorem mem_segsWhere {l : Live} {i : Nat} {p : Segment → Bool} (h : l.seg i ≠ default) (hp : p (l.seg i) = true) : i ∈ l.segsWhere p := by
  unfold Live.segsWhere
  have : l.flannel.segs.find? i = some (l.seg i) := by
    unfold Live.seg Tbl.get at h ⊢
    cases e : Tbl.find? l.flannel.segs i with
    | none => rw [e] at h; exact absurd rfl h
    | some x => rfl
  exact List.mem_map.mpr ⟨(i, l.seg i), List.mem_filter.mpr ⟨Tbl.mem_of_find? this, hp⟩, rfl⟩
/-- A segment that closes is PREROLL or RETAINED; no other changes. -/
theorem closeSeg_seg (l : Live) (i : Nat) :
    (((l.closeSeg i).seg i).state = segPreroll ∨ ((l.closeSeg i).seg i).state = segRetained) ∧ ∀ j, j ≠ i → (l.closeSeg i).seg j = l.seg j := by
  unfold Live.closeSeg; dsimp only
  refine ⟨?_, fun j hj => ?_⟩
  · rw [seg_flannel ((Live.blk_keeps ..).flannel_eq (by decide)), seg_commits, setSeg_same]; dsimp only
    split
    · exact .inr rfl
    · exact .inl rfl
  · rw [seg_flannel ((Live.blk_keeps ..).flannel_eq (by decide)), seg_commits, setSeg_other _ _ hj]
theorem closeSegs (xs : List Nat) : ∀ l : Live,
    (∀ i, i ∈ xs → ((l.forL xs Live.closeSeg).seg i).state = segPreroll ∨ ((l.forL xs Live.closeSeg).seg i).state = segRetained) ∧
    ∀ j, j ∉ xs → (l.forL xs Live.closeSeg).seg j = l.seg j := by
  induction xs with
  | nil => intro l; exact ⟨fun _ h => (List.not_mem_nil h).elim, fun _ _ => rfl⟩
  | cons x xs ih =>
    intro l
    obtain ⟨a, b⟩ := ih (l.closeSeg x)
    obtain ⟨c, d⟩ := closeSeg_seg l x
    have e : l.forL (x :: xs) Live.closeSeg = (l.closeSeg x).forL xs Live.closeSeg := rfl
    rw [e]
    refine ⟨fun i hi => ?_, fun j hj => ?_⟩
    · by_cases hx : i ∈ xs
      · exact a i hx
      · have : i = x := by simpa [hx] using hi
        subst this; rw [b i hx]; exact c
    · simp at hj; rw [b j hj.2, d j hj.1]
/-- What an appended record leaves of the segments. -/
theorem append_seg (l : Live) (i : Nat) (f : Frame) :
    ((l.append i f).seg i).frames = (l.seg i).frames + 1 ∧ ((l.append i f).seg i).bytes = (l.seg i).bytes + (frameRecord f (l.seg i).firstBeat).length ∧
    ((l.append i f).seg i).lastBeat = f.beat ∧ (∀ j, j ≠ i → (l.append i f).seg j = l.seg j) ∧
    (l.append i f).bpm = (l.bufWrite (bufKey 5 i) (l.seg i).bytes (frameRecord f (l.seg i).firstBeat) f.poisoned).bpm := by
  unfold Live.append; dsimp only
  generalize hy : (fun g : Segment => ({ g with bytes := _, frames := _, lastBeat := _, lastAt := _, firstTs := _, opened := _, poison := _, island := _ } : Segment)) = y
  have hf : ∀ (m : Live) (a b c d : Nat) (x : Signal) (s1 s2 : Nat) (a' b' c' d' : Nat) (x' : Signal) (o1 o2 : Obj) (n1 n2 : Nat),
      ((((m.count o1 n1 s1).count o2 n2 s2).blk 18 x a b c d).blk 18 x' a' b' c' d').flannel = m.flannel := by
    intros; rw [(Live.blk_keeps ..).flannel_eq (by decide), (Live.blk_keeps ..).flannel_eq (by decide), Live.count_flannel, Live.count_flannel]
  have hb : ∀ (m : Live) (a b c d : Nat) (x : Signal) (s1 s2 : Nat) (a' b' c' d' : Nat) (x' : Signal) (o1 o2 : Obj) (n1 n2 : Nat),
      ((((m.count o1 n1 s1).count o2 n2 s2).blk 18 x a b c d).blk 18 x' a' b' c' d').bpm = m.bpm := by
    intros; rw [(Live.blk_keeps ..).bpm_eq (by decide), (Live.blk_keeps ..).bpm_eq (by decide), Live.count_bpm, Live.count_bpm]
  refine ⟨?_, ?_, ?_, fun j hj => ?_, ?_⟩
  · rw [seg_flannel (hf ..), setSeg_same, ← hy]; rfl
  · rw [seg_flannel (hf ..), setSeg_same, ← hy]; rfl
  · rw [seg_flannel (hf ..), setSeg_same, ← hy]
  · rw [seg_flannel (hf ..), setSeg_other _ _ hj]; rfl
  · rw [hb]; rfl
/-- A first check schedules the heartbeat. -/
theorem first_check {l : Live} (h : l.mode.running = true) (h1 : l.rdB .PROBE_ENABLE = true) (h2 : l.elapsed % max 1 (l.rd .PROBE_INTERVAL) = 0)
    (h3 : l.flannel.ranFrom < l.ticks) (h4 : l.flannel.lastCheck = none) (h5 : l.probeBlind = false) :
    l.heartbeatCheck = (l.setFlannel fun x => { x with lastCheck := some l.ticks, beaten := false, replied := false, sendAt := some (l.ticks + (1 + Config.generator 0 (l.rd .PROBE_JITTER) l.now 0 % (l.rd .PROBE_JITTER + 1))) }).commitIndex := by
  unfold Live.heartbeatCheck; dsimp only
  have hd : (l.mode.running && l.rdB .PROBE_ENABLE && l.elapsed % max 1 (l.rd .PROBE_INTERVAL) == 0 && decide (l.flannel.ranFrom < l.ticks) && l.flannel.lastCheck != some l.ticks) = true := by
    simp [h, h1, h2, h3, h4]
  rw [hd, if_neg (by decide), if_pos ⟨h4, by simp [h5]⟩]
theorem reply_good {l : Live} {p src b : Nat} {pl : List Byte} (h : l.replyValid p src pl = true) :
    (l.setFlannel fun x => { x with probed := some l.ticks }).replyCheck p src pl b =
      ((l.setFlannel fun x => { x with probed := some l.ticks }).wr .LAST_REPLY_BEAT b).setFlannel fun x => { x with replied := true, holdBackfill := bit (fieldAt pl 1 1) 7 } := by
  unfold Live.replyCheck; exact if_pos h
theorem reply_bad {l : Live} {p src b : Nat} {pl : List Byte} (h : l.replyValid p src pl = false) :
    (l.setFlannel fun x => { x with probed := some l.ticks }).replyCheck p src pl b = (l.setFlannel fun x => { x with probed := some l.ticks }).count .REPLIES_IGNORED := by
  unfold Live.replyCheck; exact if_neg (by rw [show (l.setFlannel fun x => { x with probed := some l.ticks }).replyValid p src pl = l.replyValid p src pl from rfl, h]; decide)
theorem withdraw_eq {l : Live} {i : Nat} (h : (l.seg i).state = segReturning) :
    ∃ m : Live, m.flannel = l.flannel ∧ l.withdrawReturn i = (m.setSeg i fun g => { g with state := segRetained, offer := none, sent := 0, sentAt := none, reoffered := g.reoffered || g.offer != none }).setFlannel
      fun x => { x with sending := if x.sending = some i then none else x.sending } := by
  unfold Live.withdrawReturn; dsimp only; rw [if_neg (by simp [h])]
  refine ⟨_, ?_, rfl⟩
  split
  · split
    · exact (Live.dropOwner_keeps ..).flannel_eq (by decide)
    · rfl
  · rfl
/-- A return that is withdrawn leaves its segment RETAINED; no other segment changes. -/
theorem withdraw_seg (l : Live) (i : Nat) :
    ((l.seg i).state = segReturning → ((l.withdrawReturn i).seg i).state = segRetained ∧ ((l.withdrawReturn i).seg i).offer = none ∧
      ((l.withdrawReturn i).seg i).reoffered = ((l.seg i).reoffered || (l.seg i).offer != none)) ∧
    ((l.seg i).state ≠ segReturning → l.withdrawReturn i = l) ∧ ∀ j, j ≠ i → (l.withdrawReturn i).seg j = l.seg j := by
  have hm : ∀ m : Live, m.flannel = l.flannel → ∀ (y : Segment → Segment) (z : Flannel → Flannel), (∀ x, (z x).segs = x.segs) →
      (((m.setSeg i y).setFlannel z).seg i = y (l.seg i)) ∧ ∀ j, j ≠ i → ((m.setSeg i y).setFlannel z).seg j = l.seg j := by
    intro m hm y z hz
    have : ∀ j, ((m.setSeg i y).setFlannel z).seg j = (m.setSeg i y).seg j := fun j => by
      unfold Live.seg; rw [Live.setFlannel_flannel, hz]
    exact ⟨by rw [this, setSeg_same, seg_flannel hm], fun j hj => by rw [this, setSeg_other _ _ hj, seg_flannel hm]⟩
  refine ⟨fun h => ?_, fun h => ?_, fun j hj => ?_⟩
  · obtain ⟨m, m1, m2⟩ := withdraw_eq h
    obtain ⟨a, _⟩ := hm m m1 _ (fun x => { x with sending := if x.sending = some i then none else x.sending }) (fun _ => rfl)
    rw [m2, a]; exact ⟨rfl, rfl, rfl⟩
  · unfold Live.withdrawReturn; exact if_pos h
  · by_cases h : (l.seg i).state = segReturning
    · obtain ⟨m, m1, m2⟩ := withdraw_eq h
      rw [m2]; exact (hm m m1 _ (fun x => { x with sending := if x.sending = some i then none else x.sending }) (fun _ => rfl)).2 j hj
    · rw [show l.withdrawReturn i = l from by unfold Live.withdrawReturn; exact if_pos h]
/-- What late returns leave of a segment that was among them. -/
theorem withdraw_all (i : Nat) (xs : List Nat) : ∀ l : Live,
    ((l.seg i).state = segRetained ∧ (l.seg i).offer = none ∧ (l.seg i).reoffered = true ∨
      i ∈ xs ∧ (l.seg i).state = segReturning ∧ ((l.seg i).offer ≠ none ∨ (l.seg i).reoffered = true)) →
    let r := l.forL xs fun l i => (l.withdrawReturn i).raise 458 [] (l.seg i).tn
    (r.seg i).state = segRetained ∧ (r.seg i).offer = none ∧ (r.seg i).reoffered = true := by
  induction xs with
  | nil => intro l h; exact h.elim id fun h => (List.not_mem_nil h.1).elim
  | cons x xs ih =>
    intro l h
    refine ih ((l.withdrawReturn x).raise 458 [] (l.seg x).tn) ?_
    obtain ⟨a, b, c⟩ := withdraw_seg l x
    rw [seg_flannel (Live.raise_flannel ..)]
    by_cases hx : i = x
    · subst hx
      by_cases hs : (l.seg i).state = segReturning
      · left
        obtain ⟨a1, a2, a3⟩ := a hs
        refine ⟨a1, a2, ?_⟩
        rw [a3]
        rcases h with h | h
        · rw [h.1] at hs; cases hs
        · rcases h.2.2 with h | h <;> simp [h]
      · rw [b hs]
        rcases h with h | h
        · exact .inl h
        · exact absurd h.2.1 hs
    · rw [c i hx]
      rcases h with h | h
      · exact .inl h
      · exact .inr ⟨by simpa [hx] using h.1, h.2⟩
theorem block_seg (l : Live) (b : ExportBlock) (i : Nat) : (l.withdrawBlock b).seg i = l.seg i := by
  unfold Live.withdrawBlock
  split
  · dsimp only
    show Live.seg (if _ then _ else _) i = _
    split
    · exact seg_flannel ((Live.dropOwner_keeps ..).flannel_eq (by decide)) i
    · rfl
  · rfl
/-- What the lapse of acknowledgements leaves of a segment that was among those sent. -/
theorem resend_all (i : Nat) (xs : List Nat) : ∀ l : Live,
    (i ∈ xs ∨ (l.seg i).sent = 0 ∧ (l.seg i).sentAt = none ∧ (l.seg i).resent = true) →
    let r := l.forL xs fun l i => (l.setSeg i fun g => { g with sent := 0, sentAt := none, resent := true }).raise 459 [] (l.seg i).tn
    (r.seg i).sent = 0 ∧ (r.seg i).sentAt = none ∧ (r.seg i).resent = true := by
  induction xs with
  | nil => intro l h; exact h.elim (fun h => (List.not_mem_nil h).elim) id
  | cons x xs ih =>
    intro l h
    refine ih ((l.setSeg x fun g => { g with sent := 0, sentAt := none, resent := true }).raise 459 [] (l.seg x).tn) ?_
    rw [seg_flannel (Live.raise_flannel ..)]
    by_cases hx : i = x
    · subst hx; right; rw [setSeg_same]; exact ⟨rfl, rfl, rfl⟩
    · rw [setSeg_other _ _ hx]
      rcases h with h | h
      · exact .inl (by simpa [hx] using h)
      · exact .inr h
theorem export_none {l m : Live} {n : Nat} (h : l.mode.engineOn = true) (h1 : l.rdB .EXPORT_BUSY 0 0 n = false)
    (h2 : ∀ e ∈ m.flannel.segs, ¬ (e.2.tn = n ∧ e.2.state ≠ segFree)) : (if l.mode.engineOn then l.indexExport m n else l) = l.raise 460 [] n := by
  rw [if_pos h]; unfold Live.indexExport; rw [if_neg (by simp [h1])]; dsimp only
  have : (m.flannel.segs.filter fun e => e.2.tn == n && e.2.state != segFree) = [] := by
    rw [List.filter_eq_nil_iff]; intro e he c; exact h2 e he (by simpa using c)
  rw [this]; rfl
theorem export_some {l m : Live} {n : Nat} (h : l.mode.engineOn = true) (h1 : l.rdB .EXPORT_BUSY 0 0 n = false)
    (h2 : ∃ e ∈ m.flannel.segs, e.2.tn = n ∧ e.2.state ≠ segFree) : ∃ bs : List ExportBlock, bs ≠ [] ∧ (∀ b ∈ bs, b.tn = n) ∧
    (if l.mode.engineOn then l.indexExport m n else l) = (l.setFlannel fun x => { x with blocks := x.blocks ++ bs }).wrB .EXPORT_BUSY true 0 0 n := by
  rw [if_pos h]; unfold Live.indexExport; rw [if_neg (by simp [h1])]; dsimp only
  obtain ⟨e, he, h3, h4⟩ := h2
  have hr : ((m.flannel.segs.filter fun e => e.2.tn == n && e.2.state != segFree).map fun e => e.2.record) ≠ [] := by
    intro c
    rw [List.map_eq_nil_iff, List.filter_eq_nil_iff] at c
    exact c e he (by simp [h3, h4])
  generalize ((m.flannel.segs.filter fun e => e.2.tn == n && e.2.state != segFree).map fun e => e.2.record) = rs at *
  have hc : chunks 1023 (rs.length + 1) rs = rs.take 1023 :: chunks 1023 rs.length (rs.drop 1023) := by
    rw [chunks]; exact if_neg (by simpa using hr)
  rw [hc, if_neg (by simp)]
  refine ⟨_, ?_, ?_, rfl⟩
  · simp
  · intro b hb
    obtain ⟨k, _, rfl⟩ := List.mem_map.mp hb
    rfl
theorem gates_ev {m : Mode} (h : m.gates = true) : m.evaluates = true ∧ m ≠ .freeze := by
  cases m <;> simp_all [Mode.gates, Mode.evaluates]
/-- The key of an entry of a port's list. -/
theorem gate_key (o : Obj) (p e : Nat) : (o.key (2 * p + e / 128) (e % 128) 0) = o.key (2 * p + e / 128) (e % 128) 0 := rfl
/-- What copying a list leaves: the cells of the target array hold the source's, every other cell is as it was. -/
theorem copy_fold (src dst : Obj) (p n : Nat) (hs : ∀ e e', e < 256 → e' < 256 → src.key (2 * p + e / 128) (e % 128) 0 ≠ dst.key (2 * p + e' / 128) (e' % 128) 0)
    (hd : ∀ e e', e < 256 → e' < 256 → e ≠ e' → dst.key (2 * p + e / 128) (e % 128) 0 ≠ dst.key (2 * p + e' / 128) (e' % 128) 0) (l : Live) : ∀ m, m ≤ 256 →
    let r := (List.range m).foldl (fun l e => if e < n then l.setElem dst e (l.elem src e (2 * p)) (2 * p) else l.setElem dst e 0 (2 * p)) l
    (∀ (o : Obj) (i k t : Nat), (∀ e, e < 256 → o.key i k t ≠ dst.key (2 * p + e / 128) (e % 128) 0) → r.rd o i k t = l.rd o i k t) ∧
    (∀ e, e < m → r.elem dst e (2 * p) = if e < n then l.elem src e (2 * p) % 256 ^ dst.len else 0) := by
  intro m
  induction m with
  | zero => intro _; exact ⟨fun _ _ _ _ _ => rfl, fun e h => absurd h (by omega)⟩
  | succ m ih =>
    intro hm
    obtain ⟨i1, i2⟩ := ih (by omega)
    dsimp only
    rw [List.range_succ, List.foldl_append]
    generalize (List.range m).foldl _ l = r at *
    simp only [List.foldl_cons, List.foldl_nil]
    have hsame : r.elem src m (2 * p) = l.elem src m (2 * p) := i1 src _ _ _ fun e he => hs m e (by omega) he
    refine ⟨fun o i k t hk => ?_, fun e he => ?_⟩
    · split
      · exact (Live.rd_wr_other _ _ (hk m (by omega))).trans (i1 o i k t hk)
      · exact (Live.rd_wr_other _ _ (hk m (by omega))).trans (i1 o i k t hk)
    · by_cases h : e = m
      · subst h
        split
        · exact (Live.rd_wr_same ..).trans (by rw [hsame])
        · exact (Live.rd_wr_same ..).trans (Nat.zero_mod _)
      · have h2 : r.elem dst e (2 * p) = _ := i2 e (by omega)
        rw [← h2]
        split
        · exact Live.rd_wr_other _ _ (hd e m (by omega) (by omega) h)
        · exact Live.rd_wr_other _ _ (hd e m (by omega) (by omega) h)
theorem copyGates_other {l : Live} {src dst : Obj} {p n : Nat} (hs : ∀ e e', e < 256 → e' < 256 → src.key (2 * p + e / 128) (e % 128) 0 ≠ dst.key (2 * p + e' / 128) (e' % 128) 0)
    (hd : ∀ e e', e < 256 → e' < 256 → e ≠ e' → dst.key (2 * p + e / 128) (e % 128) 0 ≠ dst.key (2 * p + e' / 128) (e' % 128) 0)
    {o : Obj} {i k t : Nat} (h : ∀ e, e < 256 → o.key i k t ≠ dst.key (2 * p + e / 128) (e % 128) 0) : (l.copyGates src dst p n).rd o i k t = l.rd o i k t :=
  (copy_fold src dst p n hs hd l 256 (Nat.le_refl _)).1 o i k t h
theorem copyGates_elem {l : Live} {src dst : Obj} {p n : Nat} (hs : ∀ e e', e < 256 → e' < 256 → src.key (2 * p + e / 128) (e % 128) 0 ≠ dst.key (2 * p + e' / 128) (e' % 128) 0)
    (hd : ∀ e e', e < 256 → e' < 256 → e ≠ e' → dst.key (2 * p + e / 128) (e % 128) 0 ≠ dst.key (2 * p + e' / 128) (e' % 128) 0)
    (e : Nat) (he : e < 256) : (l.copyGates src dst p n).elem dst e (2 * p) = if e < n then l.elem src e (2 * p) % 256 ^ dst.len else 0 :=
  (copy_fold src dst p n hs hd l 256 (Nat.le_refl _)).2 e he
theorem pend_arm (p : Nat) : (∀ e e', e < 256 → e' < 256 → Obj.GATE_PENDING.key (2 * p + e / 128) (e % 128) 0 ≠ Obj.GATE_ARMED.key (2 * p + e' / 128) (e' % 128) 0 ∨ 52 ≤ p) ∧
    (∀ e e', e < 256 → e' < 256 → e ≠ e' → Obj.GATE_ARMED.key (2 * p + e / 128) (e % 128) 0 ≠ Obj.GATE_ARMED.key (2 * p + e' / 128) (e' % 128) 0) := by
  constructor
  · intro e e' h h'
    simp only [Obj.key, Obj.index, Obj.GATE_PENDING, Obj.GATE_ARMED]; omega
  · intro e e' h h' hn
    simp only [Obj.key, Obj.index, Obj.GATE_ARMED]; omega
theorem disarm_does {l : Live} {p : Nat} (hp : p < 52) (h : l.rd .CHANGE_STATE p = 1) :
    (∀ (o : Obj) (i k t : Nat), o.key i k t ≠ Obj.key .CHANGE_STATE p 0 0 → o.key i k t ≠ Obj.key .ARMED_TIME p 0 0 →
      (∀ e, e < 256 → o.key i k t ≠ Obj.key .GATE_ARMED (2 * p + e / 128) (e % 128) 0) → (l.disarmGates p).rd o i k t = l.rd o i k t) ∧
    (l.disarmGates p).rd .CHANGE_STATE p = 0 ∧ (l.disarmGates p).rd .ARMED_TIME p = 0 ∧ ((l.disarmGates p).portRt p).armed = (0, 0) ∧
    ∀ e, e < 256 → (l.disarmGates p).elem .GATE_ARMED e (2 * p) = 0 := by
  have hs := fun e e' h h' => ((pend_arm p).1 e e' h h').resolve_right (by omega)
  have hd := (pend_arm p).2
  have c1 := fun (o : Obj) (i k t : Nat) => copyGates_other (l := l) (n := 0) hs hd (o := o) (i := i) (k := k) (t := t)
  have c2 := copyGates_elem (l := l) (n := 0) hs hd
  unfold Live.disarmGates; rw [if_neg (by omega)]
  generalize l.copyGates .GATE_PENDING .GATE_ARMED p 0 = m at *
  refine ⟨fun o i k t h1 h2 h3 => ?_, ?_, ?_, ?_, fun e he => ?_⟩
  · exact (Live.setPort_rd ..).trans <| (Live.rd_wr_other _ _ h2).trans ((Live.rd_wr_other _ _ h1).trans (c1 o i k t h3))
  · refine (Live.setPort_rd ..).trans ?_
    refine (Live.rd_wr_other _ _ (by first | decide | (simp only [Obj.key, Obj.index, Obj.CHANGE_STATE, Obj.ARMED_TIME]; omega))).trans ?_
    refine (Live.rd_wr_same ..).trans ?_
    rfl
  · refine (Live.setPort_rd ..).trans ?_
    refine (Live.rd_wr_same ..).trans ?_
    rfl
  · rw [Live.setPort_same]
  · refine (Live.setPort_rd ..).trans ?_
    refine (Live.rd_wr_other _ _ (by first | decide | (simp only [Obj.key, Obj.index, Obj.GATE_ARMED, Obj.ARMED_TIME]; omega))).trans ?_
    refine (Live.rd_wr_other _ _ (by first | decide | (simp only [Obj.key, Obj.index, Obj.GATE_ARMED, Obj.CHANGE_STATE]; omega))).trans ?_
    refine (c2 e he).trans ?_
    rw [if_neg (by omega)]
theorem arm_oper (p : Nat) : (∀ e e', e < 256 → e' < 256 → Obj.GATE_ARMED.key (2 * p + e / 128) (e % 128) 0 ≠ Obj.GATE_OPER.key (2 * p + e' / 128) (e' % 128) 0 ∨ 52 ≤ p) ∧
    (∀ e e', e < 256 → e' < 256 → e ≠ e' → Obj.GATE_OPER.key (2 * p + e / 128) (e % 128) 0 ≠ Obj.GATE_OPER.key (2 * p + e' / 128) (e' % 128) 0) := by
  constructor
  · intro e e' h h'
    simp only [Obj.key, Obj.index, Obj.GATE_OPER, Obj.GATE_ARMED]; omega
  · intro e e' h h' hn
    simp only [Obj.key, Obj.index, Obj.GATE_OPER]; omega
/-- The reports of a takeover, after the lists have moved. -/
theorem takeover_tail {d : Live} (ev : d.mode.evaluates = true) (fz : d.mode ≠ .freeze) {p : Nat} (hp : p < 52) (t tn : Nat) (late : Bool) :
    let l2 := (d.wr .LAST_TAKEOVER t p).count .TAKEOVERS 1 p
    let l3 := ((l2.setPort p fun x => { x with gateError := false }).setLongest p).markDirty
    let l4 := (l3.blk 17 .eventsIn 1 p 0 tn).raise 432 (u8 p ++ u64 t) tn
    let r := if late then ((l4.count .LATE_TAKEOVERS 1 p).blk 17 .signalB 1 p 0 tn).raise 435 (u8 p) tn else l4
    (∀ (o : Obj) (i k u : Nat), o.key i k u ≠ Obj.key .LAST_TAKEOVER p 0 0 → o.key i k u ≠ Obj.key .LONGEST_OPEN_NS p 0 0 →
      o.key i k u ≠ Obj.key .STORED_DIRTY 0 0 0 → o.key i k u ≠ Obj.key .TAKEOVERS p 0 0 → o.key i k u ≠ Obj.key .LATE_TAKEOVERS p 0 0 →
      o.key i k u ≠ Obj.key .WRAPPED_ANY 0 0 0 → r.rd o i k u = d.rd o i k u) ∧
    r.rd .LAST_TAKEOVER p = t % 2 ^ 64 ∧ r.rd .TAKEOVERS p = (d.rd .TAKEOVERS p + 1) % 2 ^ 64 ∧
    r.rd .LATE_TAKEOVERS p = (if late then (d.rd .LATE_TAKEOVERS p + 1) % 2 ^ 64 else d.rd .LATE_TAKEOVERS p) ∧
    d.occ 432 (u8 p ++ u64 t) tn ∈ r.events.arisen ∧ (late = true → d.occ 435 (u8 p) tn ∈ r.events.arisen) := by
  dsimp only
  -- up to the count of the takeover
  have ea : (d.wr .LAST_TAKEOVER t p).mode.evaluates = true := ev
  have fa : (d.wr .LAST_TAKEOVER t p).mode ≠ .freeze := fz
  have b1 : ∀ (o : Obj) (i k u : Nat), o.key i k u ≠ Obj.key .LAST_TAKEOVER p 0 0 → o.key i k u ≠ Obj.key .TAKEOVERS p 0 0 →
      o.key i k u ≠ Obj.key .WRAPPED_ANY 0 0 0 → ((d.wr .LAST_TAKEOVER t p).count .TAKEOVERS 1 p).rd o i k u = d.rd o i k u := fun o i k u h1 h2 h3 =>
    (Live.rd_count_other ea h2 h3).trans (Live.rd_wr_other _ _ h1)
  have b2 : ((d.wr .LAST_TAKEOVER t p).count .TAKEOVERS 1 p).rd .LAST_TAKEOVER p = t % 2 ^ 64 := by
    refine (Live.rd_count_other ea ?_ ?_).trans (Live.rd_wr_same ..)
    all_goals simp only [Obj.key, Obj.index, Obj.LAST_TAKEOVER, Obj.TAKEOVERS, Obj.WRAPPED_ANY]; omega
  have b3 : ((d.wr .LAST_TAKEOVER t p).count .TAKEOVERS 1 p).rd .TAKEOVERS p = (d.rd .TAKEOVERS p + 1) % 2 ^ 64 := by
    refine (Live.count_rd ea fa (Nat.zero_le p) (show p ≤ 51 by omega) ?_).trans ?_
    · simp only [Obj.key, Obj.index, Obj.TAKEOVERS, Obj.WRAPPED_ANY]; omega
    · rw [Live.rd_wr_other]; · rfl
      simp only [Obj.key, Obj.index, Obj.LAST_TAKEOVER, Obj.TAKEOVERS]; omega
  have b4 : ((d.wr .LAST_TAKEOVER t p).count .TAKEOVERS 1 p).mode = d.mode := by unfold Live.mode; rw [Live.count_modes]; rfl
  have b5 : ((d.wr .LAST_TAKEOVER t p).count .TAKEOVERS 1 p).beat = d.beat := by rw [Live.count_beat]; rfl
  generalize (d.wr .LAST_TAKEOVER t p).count .TAKEOVERS 1 p = c at *
  -- up to the event of the takeover
  have k1 : ∀ (o : Obj) (i k u : Nat), o.key i k u ≠ Obj.key .LONGEST_OPEN_NS p 0 0 → o.key i k u ≠ Obj.key .STORED_DIRTY 0 0 0 →
      ((((c.setPort p fun x => { x with gateError := false }).setLongest p).markDirty).blk 17 .eventsIn 1 p 0 tn).rd o i k u = c.rd o i k u :=
    fun o i k u h1 h2 => (blk_rd ..).trans ((Live.rd_wr_other _ _ h2).trans ((Live.rd_wr_other _ _ h1).trans (Live.setPort_rd ..)))
  have k2 : ((((c.setPort p fun x => { x with gateError := false }).setLongest p).markDirty).blk 17 .eventsIn 1 p 0 tn).mode = d.mode := by
    rw [blk_mode]; exact b4
  have k3 : ((((c.setPort p fun x => { x with gateError := false }).setLongest p).markDirty).blk 17 .eventsIn 1 p 0 tn).beat = d.beat := by
    rw [Live.blk_beat]; exact b5
  generalize (((c.setPort p fun x => { x with gateError := false }).setLongest p).markDirty).blk 17 .eventsIn 1 p 0 tn = b at *
  have eb : b.mode.evaluates = true := by rw [k2]; exact ev
  have r1 := Live.raise_rd eb 432 (u8 p ++ u64 t) tn
  have r2 : (b.raise 432 (u8 p ++ u64 t) tn).mode = d.mode := by unfold Live.mode; rw [Live.raise_modes]; exact k2
  have r3 : (b.raise 432 (u8 p ++ u64 t) tn).beat = d.beat := by rw [Live.raise_beat]; exact k3
  have r4 : d.occ 432 (u8 p ++ u64 t) tn ∈ (b.raise 432 (u8 p ++ u64 t) tn).events.arisen := by
    rw [Live.raise_eq eb]; simp [Live.occ, Live.now, k3]
  generalize b.raise 432 (u8 p ++ u64 t) tn = r at *
  have er : r.mode.evaluates = true := by rw [r2]; exact ev
  have x1 : ∀ (o : Obj) (i k u : Nat), o.key i k u ≠ Obj.key .LAST_TAKEOVER p 0 0 → o.key i k u ≠ Obj.key .LONGEST_OPEN_NS p 0 0 →
      o.key i k u ≠ Obj.key .STORED_DIRTY 0 0 0 → o.key i k u ≠ Obj.key .TAKEOVERS p 0 0 → o.key i k u ≠ Obj.key .WRAPPED_ANY 0 0 0 →
      r.rd o i k u = d.rd o i k u := fun o i k u h1 h2 h3 h4 h5 => (r1 o i k u).trans ((k1 o i k u h2 h3).trans (b1 o i k u h1 h4 h5))
  have x2 : r.rd .LAST_TAKEOVER p = t % 2 ^ 64 := by
    refine (r1 ..).trans ((k1 _ _ _ _ ?_ ?_).trans b2)
    all_goals simp only [Obj.key, Obj.index, Obj.LAST_TAKEOVER, Obj.LONGEST_OPEN_NS, Obj.STORED_DIRTY]; omega
  have x3 : r.rd .TAKEOVERS p = (d.rd .TAKEOVERS p + 1) % 2 ^ 64 := by
    refine (r1 ..).trans ((k1 _ _ _ _ ?_ ?_).trans b3)
    all_goals simp only [Obj.key, Obj.index, Obj.TAKEOVERS, Obj.LONGEST_OPEN_NS, Obj.STORED_DIRTY]; omega
  have x4 : r.rd .LATE_TAKEOVERS p = d.rd .LATE_TAKEOVERS p := by
    apply x1
    all_goals simp only [Obj.key, Obj.index, Obj.TAKEOVERS, Obj.LATE_TAKEOVERS, Obj.LAST_TAKEOVER, Obj.WRAPPED_ANY, Obj.LONGEST_OPEN_NS, Obj.STORED_DIRTY]; omega
  cases late with
  | false =>
    rw [if_neg (by decide)]
    exact ⟨fun o i k u h1 h2 h3 h4 _ h6 => x1 o i k u h1 h2 h3 h4 h6, x2, x3, by rw [if_neg (by decide)]; exact x4, r4, fun h => absurd h (by decide)⟩
  | true =>
    rw [if_pos rfl, if_pos rfl]
    have em : ((r.count .LATE_TAKEOVERS 1 p).blk 17 .signalB 1 p 0 tn).mode = d.mode := by
      rw [blk_mode]; unfold Live.mode; rw [Live.count_modes]; exact r2
    have ee : ((r.count .LATE_TAKEOVERS 1 p).blk 17 .signalB 1 p 0 tn).mode.evaluates = true := by rw [em]; exact ev
    have y : ∀ (o : Obj) (i k u : Nat), o.key i k u ≠ Obj.key .LATE_TAKEOVERS p 0 0 → o.key i k u ≠ Obj.key .WRAPPED_ANY 0 0 0 →
        (((r.count .LATE_TAKEOVERS 1 p).blk 17 .signalB 1 p 0 tn).raise 435 (u8 p) tn).rd o i k u = r.rd o i k u := fun o i k u h1 h2 =>
      (Live.raise_rd ee ..).trans ((blk_rd ..).trans (Live.rd_count_other er h1 h2))
    refine ⟨fun o i k u h1 h2 h3 h4 h5 h6 => (y o i k u h5 h6).trans (x1 o i k u h1 h2 h3 h4 h6), (y _ _ _ _ ?_ ?_).trans x2, (y _ _ _ _ ?_ ?_).trans x3,
      ?_, ?_, fun _ => ?_⟩
    · simp only [Obj.key, Obj.index, Obj.LAST_TAKEOVER, Obj.LATE_TAKEOVERS]; omega
    · simp only [Obj.key, Obj.index, Obj.LAST_TAKEOVER, Obj.WRAPPED_ANY]; omega
    · simp only [Obj.key, Obj.index, Obj.TAKEOVERS, Obj.LATE_TAKEOVERS]; omega
    · simp only [Obj.key, Obj.index, Obj.TAKEOVERS, Obj.WRAPPED_ANY]; omega
    · refine (Live.raise_rd ee ..).trans ((blk_rd ..).trans ((Live.count_rd er (by rw [r2]; exact fz) (Nat.zero_le p) (show p ≤ 51 by omega) ?_).trans (by rw [x4]; rfl)))
      simp only [Obj.key, Obj.index, Obj.LATE_TAKEOVERS, Obj.WRAPPED_ANY]; omega
    · refine Live.raise_mono ee _ _ _ ?_
      rw [Live.blk_arisen]; exact Live.count_mono er _ _ _ _ _ r4
    · rw [Live.raise_eq ee]
      have : ((r.count .LATE_TAKEOVERS 1 p).blk 17 .signalB 1 p 0 tn).beat = d.beat := by rw [Live.blk_beat, Live.count_beat]; exact r3
      simp [Live.occ, Live.now, this, r3]
theorem takeover_does {l : Live} (g : l.mode.gates = true) {p : Nat} (hp : p < 52) (h : l.rd .CHANGE_STATE p = 1) (late : Bool) :
    (l.takeover p late).rd .OPER_ORIGIN p = l.rd .ARMED_TIME p % 2 ^ 64 ∧ (l.takeover p late).rd .LAST_TAKEOVER p = l.rd .ARMED_TIME p % 2 ^ 64 ∧
    (l.takeover p late).rd .OPER_LENGTH p = (l.portRt p).armed.1 % 2 ^ 16 ∧ (l.takeover p late).rd .OPER_CYCLE_NS p = (l.portRt p).armed.2 % 2 ^ 32 ∧
    (l.takeover p late).rd .CHANGE_STATE p = 0 ∧ (l.takeover p late).rd .TAKEOVERS p = (l.rd .TAKEOVERS p + 1) % 2 ^ 64 ∧
    (l.takeover p late).rd .LATE_TAKEOVERS p = (if late then (l.rd .LATE_TAKEOVERS p + 1) % 2 ^ 64 else l.rd .LATE_TAKEOVERS p) ∧
    (∀ e, e < 256 → (l.takeover p late).elem .GATE_OPER e (2 * p) = if e < (l.portRt p).armed.1 then l.elem .GATE_ARMED e (2 * p) % 2 ^ 64 else 0) ∧
    l.occ 432 (u8 p ++ u64 (l.rd .ARMED_TIME p)) (l.portOwner p) ∈ (l.takeover p late).events.arisen ∧
    (late = true → l.occ 435 (u8 p) (l.portOwner p) ∈ (l.takeover p late).events.arisen) := by
  obtain ⟨ev, fz⟩ := gates_ev g
  have hs := fun e e' h h' => ((arm_oper p).1 e e' h h').resolve_right (by omega)
  have hd := (arm_oper p).2
  have c1 := fun (o : Obj) (i k t : Nat) => copyGates_other (l := l) (n := (l.portRt p).armed.1) hs hd (o := o) (i := i) (k := k) (t := t)
  have c2 := copyGates_elem (l := l) (n := (l.portRt p).armed.1) hs hd
  have ck := Live.copyGates_keeps l .GATE_ARMED .GATE_OPER p (l.portRt p).armed.1
  unfold Live.takeover; dsimp only
  generalize l.copyGates .GATE_ARMED .GATE_OPER p (l.portRt p).armed.1 = m at *
  have kk : ∀ (o : Obj) (i k u : Nat), o.key i k u ≠ Obj.key .OPER_LENGTH p 0 0 → o.key i k u ≠ Obj.key .OPER_CYCLE_NS p 0 0 → o.key i k u ≠ Obj.key .OPER_ORIGIN p 0 0 →
      (((m.wr .OPER_LENGTH (l.portRt p).armed.1 p).wr .OPER_CYCLE_NS (l.portRt p).armed.2 p).wr .OPER_ORIGIN (l.rd .ARMED_TIME p) p).rd o i k u = m.rd o i k u :=
    fun o i k u h1 h2 h3 => (Live.rd_wr_other _ _ h3).trans ((Live.rd_wr_other _ _ h2).trans (Live.rd_wr_other _ _ h1))
  have k1 : (((m.wr .OPER_LENGTH (l.portRt p).armed.1 p).wr .OPER_CYCLE_NS (l.portRt p).armed.2 p).wr .OPER_ORIGIN (l.rd .ARMED_TIME p) p).rd .OPER_LENGTH p =
      (l.portRt p).armed.1 % 2 ^ 16 := by
    refine (Live.rd_wr_other _ _ (by first | decide | (simp only [Obj.key, Obj.index, Obj.OPER_LENGTH, Obj.OPER_ORIGIN]; omega))).trans ?_
    refine (Live.rd_wr_other _ _ (by first | decide | (simp only [Obj.key, Obj.index, Obj.OPER_LENGTH, Obj.OPER_CYCLE_NS]; omega))).trans ?_
    refine (Live.rd_wr_same ..).trans ?_
    rfl
  have k2 : (((m.wr .OPER_LENGTH (l.portRt p).armed.1 p).wr .OPER_CYCLE_NS (l.portRt p).armed.2 p).wr .OPER_ORIGIN (l.rd .ARMED_TIME p) p).rd .OPER_CYCLE_NS p =
      (l.portRt p).armed.2 % 2 ^ 32 := by
    refine (Live.rd_wr_other _ _ (by first | decide | (simp only [Obj.key, Obj.index, Obj.OPER_CYCLE_NS, Obj.OPER_ORIGIN]; omega))).trans ?_
    refine (Live.rd_wr_same ..).trans ?_
    rfl
  have k3 : (((m.wr .OPER_LENGTH (l.portRt p).armed.1 p).wr .OPER_CYCLE_NS (l.portRt p).armed.2 p).wr .OPER_ORIGIN (l.rd .ARMED_TIME p) p).rd .OPER_ORIGIN p =
      l.rd .ARMED_TIME p % 2 ^ 64 := by
    refine (Live.rd_wr_same ..).trans ?_
    rfl
  have k4 : Keeps [.store] l (((m.wr .OPER_LENGTH (l.portRt p).armed.1 p).wr .OPER_CYCLE_NS (l.portRt p).armed.2 p).wr .OPER_ORIGIN (l.rd .ARMED_TIME p) p) :=
    .via (Live.wr_keeps ..) rfl (.via (Live.wr_keeps ..) rfl (.via (Live.wr_keeps ..) rfl ck))
  generalize ((m.wr .OPER_LENGTH (l.portRt p).armed.1 p).wr .OPER_CYCLE_NS (l.portRt p).armed.2 p).wr .OPER_ORIGIN (l.rd .ARMED_TIME p) p = x at *
  have hx : x.rd .CHANGE_STATE p = 1 := by
    rw [kk, c1, h]
    all_goals first | (intro e he; simp only [Obj.key, Obj.index, Obj.CHANGE_STATE, Obj.GATE_OPER]; omega) | (simp only [Obj.key, Obj.index, Obj.CHANGE_STATE, Obj.OPER_LENGTH, Obj.OPER_CYCLE_NS, Obj.OPER_ORIGIN]; omega)
  obtain ⟨d1, d2, d3, d4, d5⟩ := disarm_does hp hx
  have d6 : Keeps [.store, .plane] l (x.disarmGates p) := .via (Live.disarmGates_keeps ..) rfl (k4.mono rfl)
  generalize x.disarmGates p = d at *
  have md : d.mode = l.mode := by unfold Live.mode; rw [d6.modes_eq (by decide)]
  have oc : ∀ src data tn, d.occ src data tn = l.occ src data tn := by intro a b c; unfold Live.occ Live.now; rw [d6.beat_eq (by decide)]
  obtain ⟨f1, f2, f3, f4, f5, f6⟩ := takeover_tail (d := d) (by rw [md]; exact ev) (by rw [md]; exact fz) hp (l.rd .ARMED_TIME p) (l.portOwner p) late
  refine ⟨?_, f2, ?_, ?_, ?_, ?_, ?_, fun e he => ?_, ?_, ?_⟩
  · rw [f1, d1, k3]
    all_goals first | (intro e he; simp only [Obj.key, Obj.index, Obj.OPER_ORIGIN, Obj.GATE_ARMED]; omega) | (simp only [Obj.key, Obj.index, Obj.OPER_ORIGIN, Obj.LAST_TAKEOVER, Obj.LONGEST_OPEN_NS, Obj.STORED_DIRTY, Obj.TAKEOVERS, Obj.LATE_TAKEOVERS, Obj.WRAPPED_ANY, Obj.CHANGE_STATE, Obj.ARMED_TIME]; omega)
  · rw [f1, d1, k1]
    all_goals first | (intro e he; simp only [Obj.key, Obj.index, Obj.OPER_LENGTH, Obj.GATE_ARMED]; omega) | (simp only [Obj.key, Obj.index, Obj.OPER_LENGTH, Obj.LAST_TAKEOVER, Obj.LONGEST_OPEN_NS, Obj.STORED_DIRTY, Obj.TAKEOVERS, Obj.LATE_TAKEOVERS, Obj.WRAPPED_ANY, Obj.CHANGE_STATE, Obj.ARMED_TIME]; omega)
  · rw [f1, d1, k2]
    all_goals first | (intro e he; simp only [Obj.key, Obj.index, Obj.OPER_CYCLE_NS, Obj.GATE_ARMED]; omega) | (simp only [Obj.key, Obj.index, Obj.OPER_CYCLE_NS, Obj.LAST_TAKEOVER, Obj.LONGEST_OPEN_NS, Obj.STORED_DIRTY, Obj.TAKEOVERS, Obj.LATE_TAKEOVERS, Obj.WRAPPED_ANY, Obj.CHANGE_STATE, Obj.ARMED_TIME]; omega)
  · rw [f1, d2]
    all_goals (simp only [Obj.key, Obj.index, Obj.LAST_TAKEOVER, Obj.LONGEST_OPEN_NS, Obj.STORED_DIRTY, Obj.TAKEOVERS, Obj.LATE_TAKEOVERS, Obj.WRAPPED_ANY, Obj.CHANGE_STATE]; omega)
  · rw [f3, d1, kk, c1]
    all_goals first | (intro e he; simp only [Obj.key, Obj.index, Obj.TAKEOVERS, Obj.GATE_ARMED, Obj.GATE_OPER]; omega) | (simp only [Obj.key, Obj.index, Obj.TAKEOVERS, Obj.CHANGE_STATE, Obj.ARMED_TIME, Obj.OPER_LENGTH, Obj.OPER_CYCLE_NS, Obj.OPER_ORIGIN]; omega)
  · rw [f4, d1, kk, c1]
    all_goals first | (intro e he; simp only [Obj.key, Obj.index, Obj.LATE_TAKEOVERS, Obj.GATE_ARMED, Obj.GATE_OPER]; omega) | (simp only [Obj.key, Obj.index, Obj.LATE_TAKEOVERS, Obj.CHANGE_STATE, Obj.ARMED_TIME, Obj.OPER_LENGTH, Obj.OPER_CYCLE_NS, Obj.OPER_ORIGIN]; omega)
  · refine .trans ?_ (c2 e he)
    unfold Live.elem
    rw [f1, d1, kk]
    all_goals first | (intro e' he'; simp only [Obj.key, Obj.index, Obj.GATE_OPER, Obj.GATE_ARMED]; omega) | (simp only [Obj.key, Obj.index, Obj.GATE_OPER, Obj.LAST_TAKEOVER, Obj.LONGEST_OPEN_NS, Obj.STORED_DIRTY, Obj.TAKEOVERS, Obj.LATE_TAKEOVERS, Obj.WRAPPED_ANY, Obj.CHANGE_STATE, Obj.ARMED_TIME, Obj.OPER_LENGTH, Obj.OPER_CYCLE_NS, Obj.OPER_ORIGIN]; omega)
  · rw [← oc]; exact f5
  · intro hl; rw [← oc]; exact f6 hl
theorem reclose_armed (l : Live) (p q : Nat) : ((l.recloseTx p).portRt q).armed = (l.portRt q).armed := by
  unfold Live.recloseTx
  repeat' (first | split | (dsimp only; split))
  all_goals first
    | rfl
    | (by_cases h : q = p
       · subst h; rw [Live.setPort_same]
       · rw [Live.setPort_other _ _ h])
/-- A change of time arms the pending list. -/
theorem armed_does {l : Live} (g : l.mode.gates = true) {p : Nat} (hp : p < 52) (t : Nat) : ∃ m : Live,
    (∀ (o : Obj) (i k u : Nat), o.key i k u ≠ Obj.key .CHANGE_STATE p 0 0 → o.key i k u ≠ Obj.key .ARMED_TIME p 0 0 →
      (∀ e, e < 256 → o.key i k u ≠ Obj.key .GATE_ARMED (2 * p + e / 128) (e % 128) 0) → m.rd o i k u = l.rd o i k u) ∧
    m.rd .CHANGE_STATE p = 1 ∧ m.rd .ARMED_TIME p = t % 2 ^ 64 ∧
    (∀ e, e < 256 → m.elem .GATE_ARMED e (2 * p) = if e < l.rd .PENDING_LENGTH p then l.elem .GATE_PENDING e (2 * p) % 2 ^ 64 else 0) ∧
    (m.portRt p).armed = (l.rd .PENDING_LENGTH p, l.rd .PENDING_CYCLE_NS p) ∧ Keeps [.store, .plane, .events] l m ∧
    l.arose m (if l.rd .CHANGE_STATE p = 1 then [l.occ 433 (u8 p) (l.portOwner p)] else []) ∧
    l.changeTime p t = if t ≤ l.ptpNs then m.takeover p true else m.recloseTx p := by
  obtain ⟨ev, fz⟩ := gates_ev g
  have hs := fun e e' h h' => ((pend_arm p).1 e e' h h').resolve_right (by omega)
  have hd := (pend_arm p).2
  have c1 := fun (o : Obj) (i k t : Nat) => copyGates_other (l := l) (n := l.rd .PENDING_LENGTH p) hs hd (o := o) (i := i) (k := k) (t := t)
  have c2 := copyGates_elem (l := l) (n := l.rd .PENDING_LENGTH p) hs hd
  have ck := Live.copyGates_keeps l .GATE_PENDING .GATE_ARMED p (l.rd .PENDING_LENGTH p)
  unfold Live.changeTime; dsimp only
  generalize l.copyGates .GATE_PENDING .GATE_ARMED p (l.rd .PENDING_LENGTH p) = c at *
  have k1 : ∀ (o : Obj) (i k u : Nat), o.key i k u ≠ Obj.key .CHANGE_STATE p 0 0 → o.key i k u ≠ Obj.key .ARMED_TIME p 0 0 →
      (((c.wr .CHANGE_STATE 1 p).wr .ARMED_TIME t p).setPort p fun x => { x with armed := (l.rd .PENDING_LENGTH p, l.rd .PENDING_CYCLE_NS p) }).rd o i k u = c.rd o i k u :=
    fun o i k u h1 h2 => (Live.setPort_rd ..).trans ((Live.rd_wr_other _ _ h2).trans (Live.rd_wr_other _ _ h1))
  have k2 : (((c.wr .CHANGE_STATE 1 p).wr .ARMED_TIME t p).setPort p fun x => { x with armed := (l.rd .PENDING_LENGTH p, l.rd .PENDING_CYCLE_NS p) }).rd .CHANGE_STATE p = 1 := by
    refine (Live.setPort_rd ..).trans ?_
    refine (Live.rd_wr_other _ _ (by first | decide | (simp only [Obj.key, Obj.index, Obj.CHANGE_STATE, Obj.ARMED_TIME]; omega))).trans ?_
    refine (Live.rd_wr_same ..).trans ?_
    rfl
  have k3 : (((c.wr .CHANGE_STATE 1 p).wr .ARMED_TIME t p).setPort p fun x => { x with armed := (l.rd .PENDING_LENGTH p, l.rd .PENDING_CYCLE_NS p) }).rd .ARMED_TIME p = t % 2 ^ 64 := by
    refine (Live.setPort_rd ..).trans ?_
    refine (Live.rd_wr_same ..).trans ?_
    rfl
  have k4 : Keeps [.store, .plane] l (((c.wr .CHANGE_STATE 1 p).wr .ARMED_TIME t p).setPort p fun x => { x with armed := (l.rd .PENDING_LENGTH p, l.rd .PENDING_CYCLE_NS p) }) :=
    .via (Live.setPort_keeps ..) rfl (.via (Live.wr_keeps ..) rfl (.via (Live.wr_keeps ..) rfl (ck.mono rfl)))
  have k5 : ((((c.wr .CHANGE_STATE 1 p).wr .ARMED_TIME t p).setPort p fun x => { x with armed := (l.rd .PENDING_LENGTH p, l.rd .PENDING_CYCLE_NS p) }).portRt p).armed =
      (l.rd .PENDING_LENGTH p, l.rd .PENDING_CYCLE_NS p) := by rw [Live.setPort_same]
  generalize ((c.wr .CHANGE_STATE 1 p).wr .ARMED_TIME t p).setPort p (fun x => { x with armed := (l.rd .PENDING_LENGTH p, l.rd .PENDING_CYCLE_NS p) }) = a at *
  have ma : a.mode.evaluates = true := by unfold Live.mode; rw [k4.modes_eq (by decide)]; exact ev
  have rr : ∀ (o : Obj) (i k u : Nat), (if l.rd .CHANGE_STATE p = 1 then a.raise 433 (u8 p) (l.portOwner p) else a).rd o i k u = a.rd o i k u := by
    intro o i k u; split
    · exact Live.raise_rd ma ..
    · rfl
  have rk : Keeps [.store, .plane, .events] l (if l.rd .CHANGE_STATE p = 1 then a.raise 433 (u8 p) (l.portOwner p) else a) := by
    split
    · exact .via (Live.raise_keeps ..) rfl (k4.mono rfl)
    · exact k4.mono rfl
  refine ⟨if l.rd .CHANGE_STATE p = 1 then a.raise 433 (u8 p) (l.portOwner p) else a, fun o i k u h1 h2 h3 => ?_, ?_, ?_, fun e he => ?_, ?_, rk, ?_, rfl⟩
  · rw [rr, k1 _ _ _ _ h1 h2, c1 _ _ _ _ h3]
  · rw [rr, k2]
  · rw [rr, k3]
  · refine .trans ?_ (c2 e he)
    unfold Live.elem
    rw [rr, k1]
    all_goals (simp only [Obj.key, Obj.index, Obj.GATE_ARMED, Obj.CHANGE_STATE, Obj.ARMED_TIME]; omega)
  · rw [← k5]; split
    · rw [Live.raise_portRt]
    · rfl
  · unfold Live.arose
    split
    · rw [Live.raise_eq ma]
      simp only [Live.occ, Live.now, k4.beat_eq (by decide), k4.events_eq (by decide)]
    · rw [k4.events_eq (by decide), List.append_nil]
theorem takeover_sub (l : Live) (p : Nat) (late : Bool) : (l.takeover p late).plane.sub = l.plane.sub := by
  have hc := (Live.copyGates_keeps l .GATE_ARMED .GATE_OPER p (l.portRt p).armed.1).plane_eq (by decide)
  have hd : ∀ m : Live, (m.disarmGates p).plane.sub = m.plane.sub := by
    intro m
    have := (Live.copyGates_keeps m .GATE_PENDING .GATE_ARMED p 0).plane_eq (by decide)
    unfold Live.disarmGates
    split
    · rfl
    · show (m.copyGates .GATE_PENDING .GATE_ARMED p 0).plane.sub = _; rw [this]
  have h3 : ∀ m : Live, (((m.setPort p fun x => { x with gateError := false }).setLongest p).markDirty).plane.sub = m.plane.sub := fun _ => rfl
  unfold Live.takeover; dsimp only
  generalize l.copyGates .GATE_ARMED .GATE_OPER p (l.portRt p).armed.1 = c at *
  split
  · rw [Live.raise_plane, Live.blk_plane, Live.count_plane, Live.raise_plane, Live.blk_plane, h3, Live.count_plane, Live.wr_plane, hd]
    exact congrArg Plane.sub hc
  · rw [Live.raise_plane, Live.blk_plane, h3, Live.count_plane, Live.wr_plane, hd]
    exact congrArg Plane.sub hc
theorem engine_same (l : Live) (e : Nat) (f : Engine → Engine) : (l.setEngine e f).engine e = f (l.engine e) := by
  unfold Live.setEngine Live.engine; split <;> rfl
theorem engine_other (l : Live) {e k : Nat} (f : Engine → Engine) (h : (e = 0 ∧ k ≠ 0) ∨ (e ≠ 0 ∧ k = 0)) : (l.setEngine e f).engine k = l.engine k := by
  unfold Live.setEngine Live.engine; rcases h with h | h <;> simp [h]
theorem engine_of {m : List Part} {a b : Live} (h : Keeps m a b) (e : Nat) (h1 : Part.comp ∉ m) (h2 : Part.mover ∉ m) : b.engine e = a.engine e := by
  unfold Live.engine; rw [h.comp_eq h1, h.mover_eq h2]
theorem enter_does (l : Live) {e : Nat} (he : e < 2) (src tn : Nat) (d : List Byte) :
    (l.jobEnter e src tn d).engine e = { l.engine e with queue := (l.engine e).queue ++ [{ source := src, desc := d, tn := tn, taken := l.ticks, first := (l.engine e).queue.isEmpty, notify := false }], admitted := (l.engine e).admitted.put src (some l.ticks) } ∧
    (l.jobEnter e src tn d).engine (1 - e) = l.engine (1 - e) ∧ (l.jobEnter e src tn d).host = l.host ∧ (l.jobEnter e src tn d).flannel = l.flannel := by
  unfold Live.jobEnter; dsimp only
  have k (m : Live) (a b c : Nat) := Live.blk_keeps m 21 .eventsIn 1 a b c
  refine ⟨?_, ?_, ?_, ?_⟩
  · rw [engine_of (k ..) _ (by decide) (by decide), engine_same]
  · rw [engine_of (k ..) _ (by decide) (by decide), engine_other _ _ (by omega)]
  · rw [(k ..).host_eq (by decide)]; exact (Live.setEngine_keeps ..).host_eq (by decide)
  · rw [(k ..).flannel_eq (by decide)]; exact (Live.setEngine_keeps ..).flannel_eq (by decide)
/-- A job that starts: what its engine holds, and that nothing else of the engines changes. -/
theorem start_does {l : Live} {e : Nat} {op : Nat → Bool} {j : Job} {js : List Job} (he : e < 2) (h : l.mode.engineOn = true)
    (h1 : (l.engine e).queue = j :: js) (h2 : j.start = none) (h3 : op (fieldAt j.desc 4 1) = true) {r : JobResult} {k : Job} {u : Live}
    (hr : (if e = 0 then l.compRun j else l.moveRun j) = (r, k, u)) (hu : Keeps [.store, .bpm, .events] l u) :
    (l.jobStart e op).engine e = { l.engine e with queue := { k with start := some l.now, result := some r, unboosted := decide (l.token e = 0 ∧ j.first = true ∧ j.taken = l.ticks) } :: js } ∧
    (l.jobStart e op).engine (1 - e) = l.engine (1 - e) ∧ (l.jobStart e op).bpm = u.bpm := by
  unfold Live.jobStart; rw [h1]; dsimp only
  rw [if_neg (by simp [h, h2, h3]), hr]; dsimp only
  have hk : Keeps [.store, .bpm, .events] l (if decide (l.token e = 0 ∧ j.first = true ∧ j.taken = l.ticks) = true then (u.count .BASE_BEATS 1 e).blk 21 .signalB 1 (sourceFn j.source) 0 j.tn else u) := by
    split
    · exact .via (Live.blk_keeps ..) rfl (.via (Live.count_keeps ..) rfl hu)
    · exact hu
  have hb : (if decide (l.token e = 0 ∧ j.first = true ∧ j.taken = l.ticks) = true then (u.count .BASE_BEATS 1 e).blk 21 .signalB 1 (sourceFn j.source) 0 j.tn else u).bpm = u.bpm := by
    split
    · rw [Live.blk_bpm, Live.count_bpm]
    · rfl
  generalize (if decide (l.token e = 0 ∧ j.first = true ∧ j.taken = l.ticks) = true then (u.count .BASE_BEATS 1 e).blk 21 .signalB 1 (sourceFn j.source) 0 j.tn else u) = v at *
  refine ⟨?_, ?_, ?_⟩
  · rw [engine_same, engine_of hk _ (by decide) (by decide)]
  · rw [engine_other _ _ (by omega), engine_of hk _ (by decide) (by decide)]
  · rw [← hb]; exact (Live.setEngine_keeps ..).bpm_eq (by decide)
theorem comp_ran (s : State) {j : Job} {c : Instr} (hc : c = (if fieldAt j.desc 4 1 = 1 then .decompress else .compress)) :
    ∃ (op : Nat → Bool) (t : State), op (fieldAt j.desc 4 1) = true ∧ exec c s = .next t ∧ s.only [.store, .bpm, .comp, .mover, .events] t ∧ t.live = s.live.jobStart 0 op := by
  split at hc
  · rename_i h
    obtain ⟨t, e1, e2, e3⟩ := (execDecompress_ends s).ran
    exact ⟨fun op => op == 1, t, by simp [h], by rw [hc]; exact e1, e2, e3⟩
  · rename_i h
    obtain ⟨t, e1, e2, e3⟩ := (execCompress_ends s).ran
    exact ⟨fun op => op != 1, t, by simp [h], by rw [hc]; exact e1, e2, e3⟩
theorem move_ran (s : State) {j : Job} {c : Instr} (hc : c = (if fieldAt j.desc 4 1 = 1 then .copy2d else .copy1d)) :
    ∃ (op : Nat → Bool) (t : State), op (fieldAt j.desc 4 1) = true ∧ exec c s = .next t ∧ s.only [.store, .bpm, .comp, .mover, .events] t ∧ t.live = s.live.jobStart 1 op := by
  split at hc
  · rename_i h
    obtain ⟨t, e1, e2, e3⟩ := (execCopy2d_ends s).ran
    exact ⟨fun op => op == 1, t, by simp [h], by rw [hc]; exact e1, e2, e3⟩
  · rename_i h
    obtain ⟨t, e1, e2, e3⟩ := (execCopy1d_ends s).ran
    exact ⟨fun op => op != 1, t, by simp [h], by rw [hc]; exact e1, e2, e3⟩
/-- A running job that ends. -/
theorem end_does {l : Live} {e : Nat} {bad : Bool} {j : Job} {js : List Job} {r0 r1 : JobResult} (he : e < 2) (h : l.mode.engineOn = true)
    (h1 : (l.engine e).queue = j :: js) (h2 : j.result = some r0) (hr : r1 = if bad then { status := jobPoisoned, consumed := r0.consumed } else r0)
    {l0 : Live} (hl : l0 = if bad then (l.mark 519).withdraw [9] else l) {hs : List Nat} {r : JobResult} {d : Live}
    (hd : (if e = 0 then l0.compDeliver j r1 else ([], r1, l0.moveDeliver j r1)) = (hs, r, d)) (hu : Keeps [.store, .bpm, .events, .free] l d) :
    (l.jobEnd e bad).engine e = { l.engine e with queue := js, ended := (l.engine e).ended ++ [{ j with result := some r, done := l.now, ended := l.ticks, entry := if e = 0 then compEntry j r hs l.now else moveEntry j r l.now, outs := hs, notify := bit (fieldAt j.desc (if e = 0 then 12 else 5) 1) 0 }] } ∧
    (l.jobEnd e bad).engine (1 - e) = l.engine (1 - e) ∧ (l.jobEnd e bad).bpm = d.bpm ∧ (l.jobEnd e bad).store = (d.jobCount e bad j r).store := by
  unfold Live.jobEnd; rw [h1]; dsimp only; rw [h2]; dsimp only
  rw [if_neg (by simp [h]), ← hr, ← hl, hd]; dsimp only
  have hk : Keeps [.store, .bpm, .events, .free] l (d.jobCount e bad j r) := .via (Live.jobCount_keeps ..) rfl hu
  refine ⟨?_, ?_, ?_, ?_⟩
  · rw [engine_same, engine_of hk _ (by decide) (by decide)]
  · rw [engine_other _ _ (by omega), engine_of hk _ (by decide) (by decide)]
  · rw [(Live.setEngine_keeps ..).bpm_eq (by decide)]; exact (Live.jobCount_keeps ..).bpm_eq (by decide)
  · exact (Live.setEngine_keeps ..).store_eq (by decide)
theorem op_zero {d : List Byte} (h : compBad d = false) (h1 : fieldAt d 4 1 ≠ 1) : fieldAt d 4 1 = 0 := by
  unfold compBad at h; dsimp only at h
  have : (1 < fieldAt d 4 1 : Bool) = false := by
    simp only [Bool.or_eq_false_iff] at h; exact h.1.1.1.1.1.1.1.1.1
  simp at this; omega
theorem rx_same (l : Live) (r : Nat) (f : AesRx → AesRx) : (l.setAesRx r f).audio.rx.get r = f (l.audio.rx.get r) := Tbl.get_upd_same ..
theorem rx_other (l : Live) {r q : Nat} (f : AesRx → AesRx) (h : q ≠ r) : (l.setAesRx r f).audio.rx.get q = l.audio.rx.get q := Tbl.get_upd_other _ _ h
theorem tx_same (l : Live) (r : Nat) (f : AesTx → AesTx) : (l.setAesTx r f).audio.tx.get r = f (l.audio.tx.get r) := Tbl.get_upd_same ..
theorem tx_other (l : Live) {r q : Nat} (f : AesTx → AesTx) (h : q ≠ r) : (l.setAesTx r f).audio.tx.get q = l.audio.tx.get q := Tbl.get_upd_other _ _ h
theorem source_same (l : Live) (s : Nat) (f : AudioSource → AudioSource) : (l.setSource s f).source s = f (l.source s) := Tbl.get_upd_same ..
theorem source_other (l : Live) {s q : Nat} (f : AudioSource → AudioSource) (h : q ≠ s) : (l.setSource s f).source q = l.source q := Tbl.get_upd_other _ _ h
theorem recentre_length (xs : List Int) : (recentre xs).length = 24 := by
  unfold recentre; split <;> simp <;> omega
theorem locked_state {l : Live} {r : Nat} (h : l.rxLocked r = true) : l.rd .LOCK_STATE r ≠ 0 := by
  unfold Live.rxLocked at h; simp at h; omega
theorem fault_does (l : Live) (s : Nat) : (l.sourceFault s).audio.rx = l.audio.rx ∧ ((l.sourceFault s).source s).faulted = true ∧
    (∀ q, q ≠ s → (l.sourceFault s).source q = l.source q) ∧ (l.sourceFault s).modes = l.modes ∧ (l.sourceFault s).beat = l.beat := by
  have kk := Live.sourceFault_keeps l s
  refine ⟨?_, ?_, fun q hq => ?_, kk.modes_eq (by decide), kk.beat_eq (by decide)⟩
  all_goals unfold Live.sourceFault; dsimp only; split
  · unfold Live.showFade; dsimp only
    rw [Live.wr_audio, Live.wr_audio, Live.raise_audio, Live.blk_audio, Live.count_audio]; rfl
  · rfl
  · unfold Live.showFade Live.source; dsimp only
    rw [Live.wr_audio, Live.wr_audio, Live.raise_audio, Live.blk_audio, Live.count_audio]
    refine (congrArg AudioSource.faulted (source_same _ _ _)).trans ?_
    exact congrArg AudioSource.faulted (source_same _ _ _)
  · exact congrArg AudioSource.faulted (source_same _ _ _)
  · unfold Live.showFade Live.source; dsimp only
    rw [Live.wr_audio, Live.wr_audio, Live.raise_audio, Live.blk_audio, Live.count_audio]
    exact (source_other _ _ hq).trans (source_other _ _ hq)
  · exact source_other _ _ hq
/-- What a slip of a receiver's converter does to its two sources. -/
theorem slip_does (l : Live) (a b : Nat) (hab : a ≠ b) (o : Obj) (n : Nat) :
    let r := l.forL [a, b] fun l k => (l.count o n k).when (!false) fun l => l.sourceFault k
    r.audio.rx = l.audio.rx ∧ (r.source a).faulted = true ∧ (r.source b).faulted = true ∧ r.modes = l.modes ∧ r.beat = l.beat := by
  simp only [Live.forL, List.foldl_cons, List.foldl_nil, Live.when, Bool.not_false, if_true]
  obtain ⟨a1, a2, a3, a4, a5⟩ := fault_does (l.count o n a) a
  generalize (l.count o n a).sourceFault a = m at *
  obtain ⟨b1, b2, b3, b4, b5⟩ := fault_does (m.count o n b) b
  have hs : (m.count o n b).source a = m.source a := by unfold Live.source; rw [Live.count_audio]
  refine ⟨by rw [b1, Live.count_audio, a1, Live.count_audio], by rw [b3 a hab, hs]; exact a2, b2, ?_, ?_⟩
  · rw [b4, Live.count_modes, a4, Live.count_modes]
  · rw [b5, Live.count_beat, a5, Live.count_beat]
theorem running_live {m : Mode} (h : m.running = true) : m.evaluates = true ∧ m ≠ .freeze := by revert h; cases m <;> decide
theorem outs_first {l : Live} {k : Nat} (h : ∀ j, j < k → l.outDue j = false) : ∀ n, n ≤ k →
    (List.range n).foldl (fun l k => if l.outDue k then l.packetOut k else l) l = l := by
  intro n
  induction n with
  | zero => intro _; rfl
  | succ n ih =>
    intro hn
    rw [List.range_succ, List.foldl_append, ih (by omega)]
    simp [h n (by omega)]
theorem outs_eq {l : Live} {k : Nat} (h : l.outDue k = true) (h1 : ∀ j, j < k → l.outDue j = false) : l.packetsOut k = l.packetOut k := by
  unfold Live.packetsOut Live.forN
  rw [List.range_succ, List.foldl_append, outs_first h1 k (Nat.le_refl _)]
  simp [h]
theorem frames_first {l : Live} {k : Nat} (h : ∀ j, j < k → l.rdB .ENABLE_1560 j = false ∨ (l.spotter j).framed = some l.ticks) : ∀ n, n ≤ k →
    (List.range n).foldl Live.featureFrame l = l := by
  intro n
  induction n with
  | zero => intro _; rfl
  | succ n ih =>
    intro hn
    rw [List.range_succ, List.foldl_append, ih (by omega)]
    simp only [List.foldl_cons, List.foldl_nil]
    unfold Live.featureFrame; dsimp only
    rw [if_pos]
    rcases h n (by omega) with h | h
    · right; left; simp [h]
    · right; right; right; exact h
theorem slotOf_fault (l : Live) (s : Nat) : (l.sourceFault s).audio.slot = l.audio.slot := by
  unfold Live.sourceFault; dsimp only
  split
  · unfold Live.showFade; dsimp only
    rw [Live.wr_audio, Live.wr_audio, Live.raise_audio, Live.blk_audio, Live.count_audio]; rfl
  · rfl
theorem slotOf_source (l : Live) (s : Nat) : (l.sourceSlot s).2.audio.slot = l.audio.slot := by
  unfold Live.sourceSlot; dsimp only
  split
  · rfl
  · unfold Live.showFade; dsimp only
    rw [Live.wr_audio, Live.wr_audio]
    split
    · rfl
    · show (Live.sourceFault _ _).audio.slot = _
      rw [slotOf_fault, Live.count_audio]
theorem slotOf_sources (l : Live) : l.sourceSlots.2.audio.slot = l.audio.slot := by
  have key : ∀ (xs : List Nat) (a : List Int × Live), (xs.foldl (fun (a : List Int × Live) s =>
      let r := a.2.sourceSlot s
      (a.1 ++ [r.1], r.2)) a).2.audio.slot = a.2.audio.slot := by
    intro xs
    induction xs with
    | nil => intro a; rfl
    | cons x xs ih => intro a; exact (ih _).trans (slotOf_source a.2 x)
  unfold Live.sourceSlots
  generalize List.range 16 = xs
  exact key xs ([], l)
theorem slotOf_tx (l : Live) (t : Nat) (f : AesTx → AesTx) : (l.setAesTx t f).audio.slot = l.audio.slot := rfl
theorem slotOf_sink (l : Live) (k : Nat) (xs : List Int) (m : Bool) : (l.sinkSlot k xs m).audio.slot = l.audio.slot := by
  unfold Live.sinkSlot; dsimp only
  have h1 : ∀ c : Bool, (if c = true then (((l.count .CLIPPED 1 k).count .CLIP_SAMPLES).mark 562).blk 22 .signalB 1 (k - 8) else l).audio.slot = l.audio.slot := by
    intro c; split
    · rw [Live.blk_audio, Live.mark_audio, Live.count_audio, Live.count_audio]
    · rfl
  have h3 : ∀ x : Live, (if m = true then (x.count .DELAY_MISSES 1 k).mark 565 else x).audio.slot = x.audio.slot := by
    intro x; split
    · rw [Live.mark_audio, Live.count_audio]
    · rfl
  split
  · rw [slotOf_tx]
    exact (h3 _).trans (h1 _)
  · exact (h3 _).trans (h1 _)
theorem slotOf_free (l : Live) (r h : Nat) : (l.freeHandle r h).2.audio = l.audio := (Live.freeHandle_keeps ..).audio_eq (by decide)
theorem slotOf_packets (l : Live) : l.packetsFree.audio.slot = l.audio.slot := by
  unfold Live.packetsFree; dsimp only
  show (Live.forL _ _ _).audio.slot = _
  refine forL_inv (P := fun m => m.audio.slot = l.audio.slot) ?_ _ l rfl
  intro m e hm
  rw [slotOf_free]; exact hm
theorem slotOf_rings (l : Live) (takes : List Nat) (xs : List Int) : ((l.rxTake takes).forN 2 (fun l i => l.ringPush i xs)).audio.slot = l.audio.slot := by
  have h1 : (l.rxTake takes).audio.slot = l.audio.slot := by
    unfold Live.rxTake Live.forN
    exact forL_inv (P := fun m : Live => m.audio.slot = l.audio.slot) (fun m i hm => hm) (List.range 4) l rfl
  rw [← h1]
  generalize l.rxTake takes = m
  unfold Live.forN
  refine forL_inv (P := fun x : Live => x.audio.slot = m.audio.slot) (fun x i hx => ?_) (List.range 2) m rfl
  unfold Live.ringPush; split
  · exact hx
  · exact hx
theorem packetsOf_place (l : Live) (i : Nat) (p : AudioPacket) : (l.placeSamples i p).audio.packets = l.audio.packets := by
  unfold Live.placeSamples Live.forN; dsimp only
  refine forL_inv (P := fun m : Live => m.audio.packets = l.audio.packets) (fun m j hm => ?_) _ l rfl
  refine forL_inv (P := fun x : Live => x.audio.packets = l.audio.packets) ?_ (List.range _) m hm
  intro x c hx; exact hx
theorem when_count_audio (l : Live) (c : Bool) (o : Obj) (n i : Nat) : (l.when c fun l => l.count o n i).audio = l.audio := by
  unfold Live.when; split
  · exact Live.count_audio ..
  · rfl
theorem outs_once (l : Live) (k : Nat) (f : PacketOut → PacketOut) :
    (l.setAudio fun a => { a with outs := a.outs.upd k f }).audio.outs.get k = f (l.audio.outs.get k) := Tbl.get_upd_same ..
theorem outs_twice (l : Live) (k : Nat) (f g : PacketOut → PacketOut) :
    ((l.setAudio fun a => { a with outs := a.outs.upd k f }).setAudio fun a => { a with outs := a.outs.upd k g }).audio.outs.get k = g (f (l.audio.outs.get k)) := by
  refine (Tbl.get_upd_same ..).trans ?_
  exact congrArg g (Tbl.get_upd_same ..)
theorem count_same {l m : Live} (h : m.store = l.store) (hm : m.mode = l.mode) (ev : l.mode.evaluates = true) (o : Obj) (n i k t : Nat) :
    l.cellsBut [o.key i k t, Obj.key .WRAPPED_ANY 0 0 0] (m.count o n i k t) :=
  ⟨fun o' i' k' t' hn => ((Live.count_cells (l := m) (by rw [hm]; exact ev) o n i k t).same o' i' k' t' hn).trans (by unfold Live.rd; rw [h])⟩
theorem ringSignal_other {l : Live} {f k i j : Nat} (now : Bool) (h : (i, j) ≠ (f, k)) : (l.ringSignal f k now).ring i j = l.ring i j := by
  have hs : ∀ v, ((l.setRing f k fun r => { r with signalled := true }).signalVector f v).ring i j = l.ring i j := by
    intro v; rw [signalVector_ring, setRing_other _ _ h]
  have key : ∀ (c : Prop) [Decidable c] (v : Nat), (if c then (l.setRing f k fun r => { r with signalled := true }).signalVector f v else l).ring i j = l.ring i j := by
    intro c _ v
    split
    · exact hs v
    · rfl
  exact key _ _
theorem poison_host (l : Live) (f : Nat) (p : Bool) : (l.poisonToHost f p).store = l.store ∧ (l.poisonToHost f p).plane = l.plane ∧ (l.poisonToHost f p).host = l.host := by
  unfold Live.poisonToHost; split
  · exact ⟨(Live.mark_keeps ..).store_eq (by decide), (Live.mark_keeps ..).plane_eq (by decide), (Live.mark_keeps ..).host_eq (by decide)⟩
  · exact ⟨rfl, rfl, rfl⟩
theorem q_exec (c : Instr) (s : State) (h : s.live.tidy) (h1 : s.start.tidy) :
    ∃ t, exec c s = .next t ∧ t.live.tidy ∧ t.start.tidy ∧ t.pending = s.pending ∧
      s.live.beat.ticks ≤ t.live.beat.ticks ∧ s.live.free ≤ t.live.free := by
  cases hb : Instr.boundary c
  · obtain ⟨t, e, k, p, q⟩ := exec_ends c s hb
    exact ⟨t, e, k.tidy h, by rw [q]; exact h1, p, k.counts⟩
  · obtain ⟨t, e, k, p, q⟩ := exec_ends_beat c s hb
    exact ⟨t, e, k.tidy h, by rcases q with q | q <;> rw [q] <;> first | exact k.tidy h | exact h1, p, k.counts⟩
theorem q_touches (c : Instr) : (Instr.movesMode c = false → Part.mode ∉ touches c) ∧
    (Instr.renumbers c = false → Part.clock ∉ touches c) := by
  cases c <;> exact ⟨fun h => by first | exact Bool.noConfusion h | simp [touches], fun h => by first | exact Bool.noConfusion h | simp [touches]⟩
theorem q_greatest (h : Nat) (hh : h ≠ 0) (a b : Nat) (h1 : 2 * a ^ h ≤ 65536 ^ h) (h2 : 65536 ^ h < 2 * (b + 1) ^ h) : a ≤ b := by
  apply Classical.byContradiction
  intro hn
  have := Nat.pow_le_pow_left (show b + 1 ≤ a by omega) h
  omega
theorem q_bits (P : Nat → Prop) [DecidablePred P] (hP : ∀ a b, a ≤ b → P b → P a) (n : Nat) (f : Nat → Nat)
    (hf : ∀ k, k < n → f k = 2 ^ (n - 1 - k)) (m0 : Nat) (h0 : P m0) (h1 : ¬ P (m0 + 2 ^ n)) :
    let m := (List.range n).foldl (fun m k => if P (m + f k) then m + f k else m) m0
    P m ∧ ¬ P (m + 1) := by
  suffices H : ∀ j, j ≤ n →
      P ((List.range j).foldl (fun m k => if P (m + f k) then m + f k else m) m0) ∧
      ¬ P ((List.range j).foldl (fun m k => if P (m + f k) then m + f k else m) m0 + 2 ^ (n - j)) by
    have := H n (Nat.le_refl n); rwa [Nat.sub_self, Nat.pow_zero] at this
  intro j
  induction j with
  | zero => intro _; exact ⟨h0, by simpa using h1⟩
  | succ j ih =>
    intro hj
    obtain ⟨a, b⟩ := ih (by omega)
    rw [List.range_succ, List.foldl_append]
    simp only [List.foldl_cons, List.foldl_nil]
    generalize (List.range j).foldl (fun m k => if P (m + f k) then m + f k else m) m0 = m at *
    have e : n - (j + 1) = n - 1 - j := by omega
    have e2 : (2 : Nat) ^ (n - j) = 2 ^ (n - 1 - j) + 2 ^ (n - 1 - j) := by
      rw [show n - j = (n - 1 - j) + 1 by omega, Nat.pow_succ]; omega
    rw [hf j (by omega), e]
    split
    · rename_i hp
      exact ⟨hp, by rw [Nat.add_assoc, ← e2]; exact b⟩
    · rename_i hp
      exact ⟨a, hp⟩
theorem decayFactor_floor (h : Nat) (hh : h ≠ 0) :
    2 * decayFactor h ^ h ≤ 65536 ^ h ∧ 65536 ^ h < 2 * (decayFactor h + 1) ^ h := by
  have := q_bits (fun t => t ≤ 65536 ∧ 2 * t ^ h ≤ 65536 ^ h)
    (fun a b hab hb => ⟨by omega, by have := Nat.pow_le_pow_left hab h; omega⟩) 17 (fun k => 2 ^ (16 - k))
    (fun k hk => rfl) 0 ⟨by omega, by rw [Nat.zero_pow (by omega)]; simp⟩ (fun hx => by omega)
  change (decayFactor h ≤ 65536 ∧ 2 * decayFactor h ^ h ≤ 65536 ^ h) ∧ ¬ (decayFactor h + 1 ≤ 65536 ∧ 2 * (decayFactor h + 1) ^ h ≤ 65536 ^ h) at this
  obtain ⟨⟨h1, h2⟩, h3⟩ := this
  refine ⟨h2, ?_⟩
  by_cases hle : decayFactor h + 1 ≤ 65536
  · have := fun hc => h3 ⟨hle, hc⟩; omega
  · have e := Nat.pow_le_pow_left (show 65536 ≤ decayFactor h + 1 by omega) h
    have : 0 < 65536 ^ h := Nat.pow_pos (by decide)
    omega
theorem setPause_other {l : Live} {o : Obj} {p q t i k u : Nat} (hk : o.key i k u ≠ Obj.key .PAUSED_RX p 0 0) :
    (l.setPause p q t).rd o i k u = l.rd o i k u := by
  unfold Live.setPause; dsimp only; rw [Live.rd_wr_other _ _ hk, Live.setPort_rd]
theorem clearPauses_other {l : Live} {o : Obj} {p i k u : Nat} (h1 : o.key i k u ≠ Obj.key .PAUSED_RX p 0 0)
    (h2 : o.key i k u ≠ Obj.key .STORM_ACTIVE p 0 0) (h3 : o.key i k u ≠ Obj.key .STORM_BEATS p 0 0) :
    (l.clearPauses p).rd o i k u = l.rd o i k u := by
  unfold Live.clearPauses; dsimp only
  rw [Live.rd_wr_other _ _ h3, Live.rd_wr_other _ _ h2]
  unfold Live.forN
  generalize List.range 8 = xs
  induction xs generalizing l with
  | nil => rfl
  | cons x xs ih =>
    rw [List.foldl_cons, ih]
    split
    · rfl
    · exact setPause_other h1
theorem linkTo_other {l : Live} (ev : l.mode.evaluates = true) {o : Obj} {p new i k t : Nat} (h1 : o.key i k t ≠ Obj.key .LINK_STATE_0401 p 0 0)
    (h2 : o.key i k t ≠ Obj.key .LAST_CHANGE_BEAT_0401 p 0 0) (h3 : o.key i k t ≠ Obj.key .LINK_CHANGES p 0 0)
    (h4 : o.key i k t ≠ Obj.key .WRAPPED_ANY 0 0 0) : (l.linkTo p new).rd o i k t = l.rd o i k t := by
  unfold Live.linkTo; dsimp only
  have e : ((l.wrV .LINK_STATE_0401 new p).wr .LAST_CHANGE_BEAT_0401 l.now p).mode.evaluates = true := by
    unfold Live.mode; rw [Live.wr_modes, Live.wrV_modes]; exact ev
  refine (Live.raise_rd (by unfold Live.mode; rw [Live.count_modes]; exact e) ..).trans ?_
  rw [Live.rd_count_other e h3 h4, Live.rd_wr_other _ _ h2, Live.rd_wrV_other h1]
theorem q_penal_mode {l : Live} (ev : l.mode.evaluates = true) {v p : Nat} {f : Port → Port} :
    ((if l.rd .PENALTY p = 0 then l else l.wr .PENALTY v p).setPort p f).mode.evaluates = true := by
  unfold Live.mode; split <;> simpa [Live.mode] using ev
/-- A decay step leaves every cell but those of the port's link, pauses and PENALTY. -/
theorem decayPort_cells {l : Live} (ev : l.mode.evaluates = true) {o : Obj} {p i k t : Nat} (h0 : o.key i k t ≠ Obj.key .PENALTY p 0 0)
    (h1 : o.key i k t ≠ Obj.key .LINK_STATE_0401 p 0 0) (h2 : o.key i k t ≠ Obj.key .LAST_CHANGE_BEAT_0401 p 0 0)
    (h3 : o.key i k t ≠ Obj.key .LINK_CHANGES p 0 0) (h4 : o.key i k t ≠ Obj.key .WRAPPED_ANY 0 0 0)
    (h5 : o.key i k t ≠ Obj.key .PAUSED_RX p 0 0) (h6 : o.key i k t ≠ Obj.key .STORM_ACTIVE p 0 0)
    (h7 : o.key i k t ≠ Obj.key .STORM_BEATS p 0 0) : (l.decayPort p).rd o i k t = l.rd o i k t := by
  unfold Live.decayPort; dsimp only
  have e : (if l.rd .PENALTY p = 0 then l else l.wr .PENALTY (l.rd .PENALTY p * decayFactor (l.rd .HALF_LIFE p) / 65536) p).rd o i k t = l.rd o i k t := by
    split
    · rfl
    · exact Live.rd_wr_other _ _ h0
  split
  · rename_i hs
    unfold Live.linkRest
    by_cases hn : (((if l.rd .PENALTY p = 0 then l else l.wr .PENALTY (l.rd .PENALTY p * decayFactor (l.rd .HALF_LIFE p) / 65536) p).setPort p fun x => { x with txDisabled := false }).linkState p = (if l.rd .PENALTY p = 0 then l else l.wr .PENALTY (l.rd .PENALTY p * decayFactor (l.rd .HALF_LIFE p) / 65536) p).restState p)
    · rw [if_pos hn, Live.setPort_rd]; exact e
    · rw [if_neg hn, if_neg]
      · rw [clearPauses_other h5 h6 h7, linkTo_other (q_penal_mode ev) h1 h2 h3 h4, Live.setPort_rd]; exact e
      · unfold Live.linkState; rw [Live.setPort_rd]
        have e' : (if l.rd .PENALTY p = 0 then l else l.wr .PENALTY (l.rd .PENALTY p * decayFactor (l.rd .HALF_LIFE p) / 65536) p).rd .LINK_STATE_0401 p 0 0 = l.rd .LINK_STATE_0401 p 0 0 := by
          split
          · rfl
          · exact Live.rd_wr_other _ _ (by simp only [Obj.key, Obj.index, Obj.LINK_STATE_0401, Obj.PENALTY]; omega)
        rw [e']
        have : l.rd .LINK_STATE_0401 p 0 0 = linkSuppressed := hs.1
        rw [this]; decide
  · exact e
theorem decayPort_own {l : Live} (ev : l.mode.evaluates = true) {p : Nat} :
    (l.decayPort p).rd .PENALTY p = (l.rd .PENALTY p * decayFactor (l.rd .HALF_LIFE p) / 65536) % 256 ^ 4 := by
  unfold Live.decayPort; dsimp only
  have e : (if l.rd .PENALTY p = 0 then l else l.wr .PENALTY (l.rd .PENALTY p * decayFactor (l.rd .HALF_LIFE p) / 65536) p).rd .PENALTY p
      = (l.rd .PENALTY p * decayFactor (l.rd .HALF_LIFE p) / 65536) % 256 ^ 4 := by
    split
    · rename_i h; rw [h]; simp
    · rw [Live.rd_wr_same]; rfl
  split
  · rename_i hs
    unfold Live.linkRest
    by_cases hn : (((if l.rd .PENALTY p = 0 then l else l.wr .PENALTY (l.rd .PENALTY p * decayFactor (l.rd .HALF_LIFE p) / 65536) p).setPort p fun x => { x with txDisabled := false }).linkState p = (if l.rd .PENALTY p = 0 then l else l.wr .PENALTY (l.rd .PENALTY p * decayFactor (l.rd .HALF_LIFE p) / 65536) p).restState p)
    · rw [if_pos hn, Live.setPort_rd]; exact e
    · rw [if_neg hn, if_neg]
      · rw [clearPauses_other, linkTo_other (q_penal_mode ev), Live.setPort_rd]
        · exact e
        all_goals (simp only [Obj.key, Obj.index, Obj.PENALTY, Obj.PAUSED_RX, Obj.STORM_ACTIVE, Obj.STORM_BEATS, Obj.LINK_STATE_0401, Obj.LAST_CHANGE_BEAT_0401, Obj.LINK_CHANGES, Obj.WRAPPED_ANY]; omega)
      · unfold Live.linkState; rw [Live.setPort_rd]
        have e' : (if l.rd .PENALTY p = 0 then l else l.wr .PENALTY (l.rd .PENALTY p * decayFactor (l.rd .HALF_LIFE p) / 65536) p).rd .LINK_STATE_0401 p 0 0 = l.rd .LINK_STATE_0401 p 0 0 := by
          split
          · rfl
          · exact Live.rd_wr_other _ _ (by simp only [Obj.key, Obj.index, Obj.LINK_STATE_0401, Obj.PENALTY]; omega)
        rw [e']
        have : l.rd .LINK_STATE_0401 p 0 0 = linkSuppressed := hs.1
        rw [this]; decide
  · exact e
theorem decay_each (l : Live) (ev : l.mode.evaluates = true) (n : Nat) :
    (∀ p, p < n → (l.forN n Live.decayPort).rd .PENALTY p = l.rd .PENALTY p * decayFactor (l.rd .HALF_LIFE p) / 65536 % 256 ^ 4) ∧
    (∀ p, n ≤ p → (l.forN n Live.decayPort).rd .PENALTY p = l.rd .PENALTY p) ∧
    (∀ p, (l.forN n Live.decayPort).rd .HALF_LIFE p = l.rd .HALF_LIFE p) := by
  induction n with
  | zero => exact ⟨fun p h => absurd h (by omega), fun _ _ => rfl, fun _ => rfl⟩
  | succ n ih =>
    obtain ⟨h1, h2, h3⟩ := ih
    have e : l.forN (n + 1) Live.decayPort = (l.forN n Live.decayPort).decayPort n := by
      unfold Live.forN; rw [List.range_succ, List.foldl_append]; rfl
    rw [e]
    have ev' : (l.forN n Live.decayPort).mode.evaluates = true := by
      rw [(Keeps.forN (m := [.store, .plane, .events, .recoveries]) (a := l) (fun l p => Live.decayPort_keeps l p) (.refl _ _)).mode_eq (by decide)]; exact ev
    generalize l.forN n Live.decayPort = m at *
    have ho : ∀ p, p ≠ n → (m.decayPort n).rd .PENALTY p = m.rd .PENALTY p := fun p hp => by
      apply decayPort_cells ev'
      all_goals (simp only [Obj.key, Obj.index, Obj.PENALTY, Obj.PAUSED_RX, Obj.STORM_ACTIVE, Obj.STORM_BEATS, Obj.LINK_STATE_0401, Obj.LAST_CHANGE_BEAT_0401, Obj.LINK_CHANGES, Obj.WRAPPED_ANY]; omega)
    refine ⟨fun p hp => ?_, fun p hp => by rw [ho p (by omega)]; exact h2 p (by omega), fun p => ?_⟩
    · by_cases hpn : p = n
      · subst hpn; rw [decayPort_own ev', h2 p (Nat.le_refl _), h3]
      · rw [ho p hpn]; exact h1 p (by omega)
    · rw [← h3 p]
      apply decayPort_cells ev'
      all_goals (simp only [Obj.key, Obj.index, Obj.HALF_LIFE, Obj.PENALTY, Obj.PAUSED_RX, Obj.STORM_ACTIVE, Obj.STORM_BEATS, Obj.LINK_STATE_0401, Obj.LAST_CHANGE_BEAT_0401, Obj.LINK_CHANGES, Obj.WRAPPED_ANY]; omega)

end Sys2Proof
end

