-- ==== Sys2Proof/Machine/Window.lean ====
section
/-! DEFINITION. What a host reads in BAR0: the registers of a function's pages, and the counter window with its header,
directory and values (R118, R599, R600, R604, R619 to R621, R625, R628, R666).  The table has no
read of them but that of the buffer aperture, so they are functions of the state, a 64-bit register shown whole (log 139). -/

namespace Sys2Proof.Machine

open Sys2Proof

/-! ### The directory of the counter window (R666) -/

/-- A directory entry: a range of counter objects, of one tenancy where they are PER_TN, and where their values lie. -/
structure Region where
  first : Nat
  last : Nat
  subFirst : Nat
  subLast : Nat
  /-- The tenancy, or 0xFF. -/
  tn : Nat := 0xFF
  size : Nat
  offset : Nat := 0
deriving DecidableEq, Repr, Inhabited

/-- Subindexes of a region's records. -/
def Region.subs (r : Region) : Nat := r.subLast - r.subFirst + 1

/-- Bytes of a region's values. -/
def Region.bytes (r : Region) : Nat := r.size * ((r.last - r.first + 1) * r.subs)

/-- The counter objects and counter arrays, in ascending index and subindex order, VALUE of the block counters among them. -/
def counterObjects : List Obj :=
  sortBy (fun o => o.index o.lo * 256 + o.sub) (catalogue.filter fun o => o.counts || o.base == 0x1830)

/-- The range of an object's run; until its tenancies are told apart, `tn` is 0 for a PER_TN object. -/
def Obj.region (o : Obj) : Region :=
  { first := o.index o.lo, last := o.index o.hi, subFirst := o.sub, subLast := o.sub + o.count - 1,
    tn := if o.own = .perTn then 0 else 0xFF, size := o.len }

/-- Ranges of the same records whose subindexes follow each other are one range. -/
def mergeRegions : List Region → List Region
  | [] => []
  | r :: rs =>
    match mergeRegions rs with
    | [] => [r]
    | x :: xs =>
      if r.first = x.first ∧ r.last = x.last ∧ r.tn = x.tn ∧ r.size = x.size ∧ r.subLast + 1 = x.subFirst then
        { r with subLast := x.subLast } :: xs
      else r :: x :: xs

/-- Each region's values follow those of the one before. -/
def placeRegions : Nat → List Region → List Region
  | _, [] => []
  | at_, r :: rs => { r with offset := at_ } :: placeRegions (at_ + r.bytes) rs

/-- The directory: values begin after the 4 KiB of header and directory, in its order (DESIGN CHOICE, log 140). -/
def directory : List Region :=
  placeRegions 4096 ((mergeRegions (counterObjects.map Obj.region)).flatMap fun r =>
    if r.tn = 0xFF then [r] else (List.range 8).map fun n => { r with tn := n })

/-- A directory entry as the window shows it. -/
def Region.entry (r : Region) : List Byte :=
  leBytes 2 r.first ++ leBytes 2 r.last ++ u8 r.subFirst ++ u8 r.subLast ++ u8 r.tn ++ u8 0 ++ leBytes 4 r.size
    ++ leBytes 4 r.offset ++ List.replicate 16 0

/-! ### The counter window (R621, R666) -/

/-- WRAPPED_ANY as the shown bank holds it. -/
def Live.bankWrapped (l : Live) : Bool := (l.shownBank.cells.find? (Obj.WRAPPED_ANY.key 0 0 0)).getD 0 != 0

/-- The header: MAGIC, SEQUENCE, SNAPSHOT_BEAT, BANK, FLAGS, REGION_COUNT, DICTIONARY_VERSION. -/
def Live.windowHeader (l : Live) : List Byte :=
  leBytes 4 0x434E5457 ++ leBytes 4 l.shownBank.seq ++ leBytes 8 l.shownBank.beat ++ u8 (l.rd .SHOWN_BANK)
    ++ u8 (l.bankWrapped.toNat + 2 * l.shownBank.postponed.toNat) ++ leBytes 2 directory.length
    ++ leBytes 4 (l.rd .DICTIONARY_VERSION) ++ List.replicate 8 0

/-- The value that a region shows for index.sub, as the dictionary would return it; zero where no counter has that place. -/
def Live.windowValue (l : Live) (r : Region) (index sub : Nat) : List Byte :=
  match findObject index sub with
  | some (o, i, k) =>
    if (o.counts ∨ o.base = 0x1830) ∧ o.len = r.size ∧ (o.own = .perTn ↔ r.tn ≠ 0xFF) then
      beBytes r.size (l.banked o i k (if r.tn = 0xFF then 0 else r.tn))
    else List.replicate r.size 0
  | none => List.replicate r.size 0

/-- A byte of the window. -/
def Live.windowByte (l : Live) (off : Nat) : Byte :=
  if off < 4096 then (l.windowHeader ++ directory.flatMap Region.entry).getD off 0
  else
    match directory.find? fun r => decide (r.offset ≤ off) && decide (off < r.offset + r.bytes) with
    | none => 0
    | some r =>
      let n := (off - r.offset) / r.size
      (l.windowValue r (r.first + n / r.subs) (r.subFirst + n % r.subs)).getD ((off - r.offset) % r.size) 0

/-! ### Registers (R118, R600, R604, R619, R622, R628) -/

/-- FN_STATUS; READY from CONFIGURE through FREEZE. -/
def Live.fnStatus (l : Live) (f : Nat) : Nat :=
  let x := l.fn f
  (l.mode.engineOn || l.mode == .freeze).toNat + 2 * x.present.toNat + 4 * x.resetDone.toNat
    + 8 * (f == 0 && l.mode == .bringup && l.modes.recovery).toNat + 16 * x.journalNew.toNat

/-- RING_STATUS. -/
def Ring.status (r : Ring) : Nat :=
  r.active.toNat + 2 * r.quiesced.toNat + 4 * r.error.toNat + 256 * (if r.error then r.errorCode else 0)

/-- A register of a ring's block. -/
def Ring.value (r : Ring) (x : Nat) : Nat :=
  match x with
  | 0x00 => r.sqBase
  | 0x08 => r.cqBase
  | 0x10 => r.control
  | 0x14 => r.status
  | 0x18 => r.sqTail
  | 0x1C => r.sqHead
  | 0x20 => r.cqHead
  | 0x24 => r.cqTail
  | 0x28 => r.cqWb
  | _ => r.coalesce

/-- The value of the register that begins at an offset of the control, mailbox, buffer-pool, ring and MSI-X pages; write-only
registers read 0 (R19). -/
def Live.registerValue (l : Live) (f reg width : Nat) : Nat :=
  let x := l.fn f
  let m := l.mailboxes.get f
  match reg with
  | 0x0000 => (l.tnActive (fnTn f)).toNat * 2048 + fnTn f * 256 + f
  | 0x0004 => x.mbxVector * 256 + x.driverReady.toNat
  | 0x0008 => l.fnStatus f
  | 0x000C => 0
  | 0x0010 => x.watchdog
  | 0x0018 => l.now
  | 0x0020 => x.rxMap
  | 0x0100 => l.host.recoveryLength
  | 0x0104 => l.host.recoveryStatus
  | 0x1000 => 0
  | 0x1004 => m.reqBusy.toNat + 2 * m.rspReady.toNat + 4 * m.protocolError.toNat
  | 0x1008 => m.rspIrqEn.toNat
  | 0x100C => m.waiting.length
  | 0x1100 => leVal (slice m.request 0 1032)
  | 0x1800 => leVal (slice m.response 0 1032)
  | 0x2000 => 0
  | 0x2004 => x.bpmArg
  | 0x2008 => (l.bpm.results.get (8 + f)).1
  | 0x200C => (l.bpm.results.get (8 + f)).2
  | 0x2010 => x.winHandle
  | 0x2014 => x.winOffset
  | 0x3000 => leVal (l.faultJournal f)
  | 0x3400 => x.journalSeq
  | 0x9000 => x.pending
  | _ =>
    if reg / 4096 = 4 then (l.ring f ((reg - 0x4000) / 64)).value ((reg - 0x4000) % 64)
    else
      let w := (reg - 0x8000) / 4
      if width = 8 then x.msixWord w + x.msixWord (w + 1) * 2 ^ 32 else 0

/-- A byte of the pages of registers: registers are little-endian, and a reserved offset reads 0 (R17, R600). -/
def Live.pageByte (l : Live) (f off : Nat) : Byte :=
  match registerAt f off with
  | none => 0
  | some (reg, width) => (leBytes width (l.registerValue f reg width)).getD (off - reg) 0

/-- Whether an offset below the aperture reads its register in the unit mode: before CONFIGURE only FN_STATUS and, while the
recovery window is open, the PF's control page; in DECOMMISSIONED the PF's control page and mailbox (R599, R628). -/
def Live.barServes (l : Live) (f off : Nat) : Bool :=
  if l.mode.engineOn ∨ l.mode = .freeze then true
  else if l.mode = .decommissioned then f == 0 && off < 0x2000
  else (8 ≤ off && off < 12) || (f == 0 && l.mode == .bringup && l.modes.recovery && (off < 0x1000 || 0x2000000 ≤ off))

/-- A byte of BAR0 outside the aperture. -/
def Live.barByte (l : Live) (f off : Nat) : Byte :=
  if ¬ l.barServes f off then 0
  else if off < 0xA000 then l.pageByte f off
  else if f ≠ 0 then 0
  else if 0x1000000 ≤ off ∧ off < 0x2000000 then l.windowByte (off - 0x1000000)
  else if 0x2000000 ≤ off ∧ l.mode = .bringup then l.host.staged.getD (off - 0x2000000) 0
  else 0

/-- What a host read of `len` bytes of BAR0 outside the aperture returns; none where the function does not answer. -/
def Live.barRead (l : Live) (f off len : Nat) : Option (List Byte) :=
  if ¬ l.host.up ∨ (f ≠ 0 ∧ ¬ (l.fn f).vfEnable) ∨ barSize f < off + len then none
  else some ((List.range len).map fun i => l.barByte f (off + i))

end Sys2Proof.Machine
end

