-- ==== Sys2Proof/WellFormed.lean ====
section
/-! DEFINITION. Well-formed commands: operands that the interface they come over can carry.  The meanings are total; a
command that is not well formed names something that no bus, pin or request of the unit can bring. -/

namespace Sys2Proof

/-- Request header fields within their widths, and no more than 1,024 bytes of payload (R95, R96). -/
def Req.wf (r : Req) : Bool := r.id < 2 ^ 16 && r.index < 2 ^ 16 && r.sub < 2 ^ 8 && r.payload.length ≤ 1024

/-- A CAN frame: an identifier of 29 bits, at most 64 bytes (R105). -/
def CanIn.wf (f : CanIn) : Bool := f.id < (if f.extended then 2 ^ 29 else 2 ^ 11) && f.data.length ≤ 64

/-- The fields of an Announce message within the widths of IEEE 1588 (R51). -/
def AnnounceMsg.wf (m : AnnounceMsg) : Bool :=
  m.domain < 256 && m.transport < 3 && m.priority1 < 256 && m.clockClass < 256 && m.accuracy < 256 && m.variance < 2 ^ 16
    && m.priority2 < 256 && m.identity < 2 ^ 64 && m.sender < 2 ^ 64 && m.stepsRemoved < 2 ^ 16 && m.timeSource < 256

/-- The addresses of an ARP frame or a Neighbor Discovery message within their widths (R336). -/
def ArpNd.wf (m : ArpNd) : Bool :=
  let w := if m.ip6 then 128 else 32
  m.sender < 2 ^ w && m.target < 2 ^ w && m.mac < 2 ^ 48

/-- Inputs of a boundary: fills are per cents, a CAN code is 0 to 2, at most seven VFs, a bit for each function. -/
def BoundaryInputs.wf (i : BoundaryInputs) : Bool :=
  i.fill0 ≤ 100 && i.fill4 ≤ 100 && i.cans.length ≤ 2 && i.cans.all (· < 3) && i.numVfs < 8 && i.masters < 256 && i.fnMasks < 256
    && i.channels.length ≤ 2 && i.dramPorts.length ≤ 6

/-- A frame that Ethernet can carry: from its header to the largest MAX_FRAME with two tags (R234). -/
def frameSize (f : List Byte) : Bool := 14 ≤ f.length && f.length ≤ 9224

/-- A host write within BAR0: a word or two, aligned to words (R604). -/
def wordWrite (offset : Nat) (data : List Byte) : Bool := offset % 4 == 0 && data.length % 4 == 0 && 0 < data.length

/-- Buffers of a pool (R382). -/
def poolSizeOf (k : Nat) : Nat := [8192, 2048, 512, 128, 32768, 61440].getD k 0

/-- Whether a command is well formed. -/
def Instr.wf (i : Instr) : Bool :=
  match i with
  | .beatBoundary inp => inp.wf
  | .ptpSyncReceived _ domain transport _ => domain < 256 && transport < 3
  | .ptpAnnounceReceived _ msg => msg.wf
  | .beatPtpLocked t _ inp => t < 2 ^ 64 && inp.wf
  | .beatSlewDone inp => inp.wf
  | .beatOriginSet inp => inp.wf
  | .read _ r => r.wf
  | .write _ r => r.wf
  | .writeAtBeat _ r => r.wf
  | .command _ r => r.wf
  | .segmentInit _ r => r.wf
  | .segment _ r => r.wf
  | .canFrameIgnored _ f => f.wf
  | .canErrorStateChange _ tec rec => tec < 512 && rec < 256
  | .rollcallAnswer _ _ data => data.length ≤ 64
  | .inbandRequest _ frame => frameSize frame
  | .lcCommission confirm => confirm < 2 ^ 32
  | .lcDecommission confirm => confirm < 2 ^ 32
  | .lcVendorReset confirm auth => confirm < 2 ^ 32 && auth.length == 64
  | .psuInserted _ _ _ _ _ serial => serial < 256 ^ 16
  | .pseControllerFault ports => ports < 2 ^ 48
  | .moduleIdentify _ _ id => id.length ≤ 96
  | .moduleDdmRead _ ddm alarms => ddm.length ≤ 10 && alarms.length ≤ 4
  | .frameReceived _ _ _ _ age at_ _ => age ≤ 61 && at_ < 250000
  | .pfcFrameReceived _ vector times => vector < 256 && times.length == 8 && times.all (· < 65536)
  | .lldpduReceived _ mac pdu => mac < 2 ^ 48 && pdu.length ≤ 1500
  | .frameTxDone _ at_ _ => at_ < 250000
  | .twillSwap mask => 0 < mask && mask < 16
  | .arpNdReceived _ vlan m => vlan < 4096 && m.wf
  | .snoopReport _ vlan _ _ _ => vlan < 4096
  | .snoopLeave _ vlan _ _ => vlan < 4096
  | .snoopQuery _ vlan _ => vlan < 4096
  | .share _ h _ _ => h < 2 ^ 32
  | .release _ h => h < 2 ^ 32
  | .free _ h => h < 2 ^ 32
  | .zeroFillDone pool index => index < poolSizeOf pool.val
  | .apertureRead _ offset len => offset % 4 == 0 && len % 4 == 0 && 0 < len
  | .apertureWrite _ offset data _ => wordWrite offset data
  | .flush _ mask => mask < 256
  | .histClear _ mask => mask < 256
  | .changeTime _ t => t < 2 ^ 64
  | .gateEntryStart _ at_ => at_ < 250000
  | .jobAdmit _ _ desc => desc.length == 256
  | .aesCsChange _ _ cs user => cs.length == 24 && user.length == 24
  | .ringEnable _ _ control => control < 2 ^ 32
  | .ringDisable _ _ control => control < 2 ^ 32
  | .sqTailWrite _ _ v => v < 2 ^ 32
  | .cqHeadWrite _ _ v => v < 2 ^ 32
  | .sqEntryTake _ _ entry => entry.length ≤ 256
  | .registerWrite _ offset data _ => wordWrite offset data
  | .clear _ _ mask => mask < 2 ^ 32
  | .unmask _ _ mask => mask < 2 ^ 32
  | .fanEvaluation tach => tach.length == 3
  | .pseControllerFaultClear ports => ports < 2 ^ 48
  | .notifyRequest _ r => r.wf
  | .gpioSample raw => raw < 2 ^ 16
  | .sampleSlot takes misses => takes.length ≤ 4 && misses < 2 ^ 16
  | .ageOut _ | .ptpAnnounceTimeout _ | .beatPtpUnlocked | .armOrigin | .requestCacheExpiry _ | .myCacheFlush _ |
    .clampClear | .segmentAbandoned _ | .canTxComplete _ _ | .canBusOffRecovery _ | .rollcall _ |
    .keyEpochGraceEnd _ | .mbxDoorbell _ | .mbxRequestTake _ | .mbxRspRelease _ | .modeRequestConfigure |
    .modeRequestService | .modeRequestListen | .modeRequestDormant | .modeRequestFreeze | .dormantEntry |
    .wake _ _ | .powerOnReset | .dramTrainingDone _ | .imageAccepted | .storedSetLoad | .zeroFillComplete |
    .configureEntry | .warmRestart | .watchdogRestart | .trialRevert | .lcChallengeUpdate | .wipeDone |
    .wipeVerifyFail | .imageActivateVerify | .imageActivateTrial | .imageConfirm | .store | .storeDone _ |
    .powerFailWarning | .mainsCollapse | .tnCreate _ | .tnReset _ | .tnDelete _ | .tenancyWipeEnd _ |
    .psuRemoved _ | .moduleLineFall _ _ | .moduleLineRise _ | .pdClassified _ _ _ _ | .faultStartup _ |
    .pdRemoved _ | .pdFault _ _ | .holdEnd _ | .backoffLevelReset _ | .siliconRequest _ | .siliconRelease _ |
    .lldpPowerRequest _ _ | .linkUp _ _ _ | .linkDown _ | .penaltyDecay | .sfpInserted _ | .sfpRemoved _ |
    .txFault _ | .txDisableRelease _ | .phyMgmtTimeout _ | .pauseTimerExpiry _ _ | .pfcRefresh _ _ |
    .pfcStormTrip _ _ | .pfcStormClear _ _ | .lldpNeighbourLost _ _ | .lldpTransmit _ | .reclaimPassDone |
    .versionRetire | .twillDrainDone | .shadowCopy _ | .shadowCopyDone _ | .learnApply | .settle |
    .dampingWindowEnd | .addStatic _ | .delete _ | .find _ | .flushPort _ | .flushFid _ | .flushTenancy _ |
    .macFlushDone | .nhRefresh _ | .nhUnresolved _ | .snoopMemberExpiry | .alloc _ _ _ | .cancel _ |
    .gateTakeover _ | .keepCopy _ _ | .segmentAgeClose | .prerollFree | .heartbeatCheck | .heartbeatSend _ |
    .probeReply _ _ _ | .drainOffer _ | .drainAck _ | .flnDrainTimeout | .backfillSend _ | .backfillAck _ _ |
    .flnBackfillTimeout | .indexExport _ | .purge _ | .dramAlert _ _ _ _ _ | .dramReplayDone _ | .dramUe _ |
    .refreshDue _ _ _ _ | .idleSelfRefresh _ | .selfRefreshExit _ _ | .dramScrubPassDone | .diagRead | .logClear |
    .compress | .decompress | .copy1d | .copy2d | .jobEnd _ _ | .jobCompletionPost _ | .aesRxLocked _ _ _ |
    .aesRxLost _ | .asrcSlip _ _ _ | .audioRampIn _ | .packetOut _ _ | .packetIn _ _ | .featureFrame _ |
    .clipRelease _ | .pcieLinkUp _ _ | .pcieLinkDown | .hostWatchdogExpiry _ | .hostAlive _ | .flrStart _ |
    .flrCleanup _ | .flrDone _ | .ringQuiesced _ _ | .rxFrameHandover _ _ | .txFrame _ _ _ _ _ |
    .drainBufferPost _ | .tableLoad _ _ | .tableLoadDone | .cqCoalesceTimeout _ _ | .dmaReadFailed _ _ _ _ _ |
    .recoveryCommit _ | .recoveryUsed | .spacingExpiry _ _ | .gpioLevelChange _ | .chatterWindowEnd _ |
    .gpioStuck _ | .snapshotCapture | .snapshotDone | .withdrawnClear | .trayPresenceChange _ | .sensorFault _ |
    .thermalTrip | .thermalTripRestore | .ledTest | .ledTestEnd | .psuPowerFailWarning _ | .psuFailed _ |
    .psuInputOutOfRange _ _ _ | .mainsRestored _ _ _ _ | .sensorReportRestored _ | .phyRetry _ _ |
    .ptpSyncTransmit _ | .ptpDelayMessage _ _ | .malformedTlp _ | .aesRxLocking _ |
    .aes3SubframeReceived _ _ _ _ _ _ | .aes3FrameTransmit _ _ => true

end Sys2Proof
end

