-- ==== Sys2Proof/Tests/Slice0.lean ====
section
/-! SUPPORT. Witnesses for the hypotheses of the statements, and small tests of the well-formedness checks and of commands. -/

namespace Sys2Proof

open Machine

set_option Elab.async false

/-- The machine after reset, in a mode and with a change made. -/
def inMode (m : Mode) (f : Live → Live := id) : State :=
  State.reset.withLive (f (State.reset.live.setModes fun x => { x with mode := m }))

/-! ### Witnesses -/

/-! BoundariesNumberTheBeat -/

theorem wit_boundaries : ∃ s t u : State, (s.live.mode ≠ .off ∧ s.live.beat.slewing = true ∧ s.live.beat.slewUnits ≤ 1 ∧
    s.live.beat.strobeTaken = false ∧ s.live.beat.aligning = false) ∧
    (t.live.mode ≠ .off ∧ t.live.beat.strobeTaken = true ∧ t.live.beat.aligning = false ∧ t.live.lockDue = false) ∧
    (u.live.mode ≠ .off ∧ u.live.beat.aligning = true) :=
  ⟨inMode .service fun l => { l with beat := { slewing := true, slewUnits := 1 } },
   inMode .configure fun l => { l with beat := { strobeTaken := true } },
   inMode .service fun l => { l with beat := { aligning := true } }, by decide, by decide, by decide⟩

/-! PtpMessagesMoveTheClockState -/

def ptpOn (x : Nat) : State := inMode .service fun l => (l.setBeat fun b => { b with ptpRunning := true, announces := [(1, some {})], ticks := 50000 }).wr .PTP_SLAVE_PORT x
theorem wit_ptp : ((ptpOn 49).live.ptpMine 0 0 = true ∧ (ptpOn 49).live.rd .PTP_SLAVE_PORT = 49) ∧
    bit ((ptpOn 49).live.rd .PTP_SLAVE_CANDIDATES) 1 = true := by decide

/-! LockLossAndStrobeArming -/

theorem wit_lock : ((inMode .service fun l => l.setBeat fun b => { b with locked := true, badSyncs := 3 }).live.lossDue = true) ∧
    (let s := inMode .configure fun l => l.wr .ORIGIN_STROBE_INPUT 3
     s.live.mode = .configure ∧ s.live.beat.locked = false ∧ s.live.rd .ORIGIN_STROBE_INPUT ≠ 0xFF) ∧
    ((inMode .service).live.mode.evaluates = true ∧ (inMode .service).live.lossDue = false) := by decide

/-! BufferRequestsSettle -/

/-- A buffer of pool 0 owned by requester 1, of which it is the final owner. -/
def bufOwned : State := inMode .service fun l => l.setBpm fun x => { x with bufs := [(0, { owners := [1], final := 1, gen := 0 })] }
theorem wit_alloc : let s := inMode .service fun l => l.wr .MAX 10 1 0
    s.live.bpmRuns 1 = true ∧ poolFor 100 = some 0 ∧ s.live.freeBuf 0 = some 0 ∧ s.live.allocCode 1 0 = bpmOk := by decide
theorem wit_alloc_refused : let s := inMode .service fun l => l.wr .MAX 0 1 0
    s.live.bpmRuns 1 = true ∧ poolFor 100 = some 0 ∧ s.live.allocCode 1 0 ≠ bpmOk := by decide
theorem wit_share : let s := bufOwned
    s.live.bpmRuns 1 = true ∧ s.live.checkHandle 1 0 none = bpmOk ∧ (s.live.buf (handleKey 0)).owners.length < 4 ∧
    (s.live.buf (handleKey 0)).owners.contains 2 = false ∧ s.live.requesterExists 2 = true := by decide
theorem wit_bad_handle : bufOwned.live.bpmRuns 2 = true ∧ bufOwned.live.checkHandle 2 0 none ≠ bpmOk := by decide
theorem wit_release : let s := inMode .service fun l => l.setBpm fun x => { x with bufs := [(0, { owners := [1, 2], final := 2, gen := 0 })] }
    s.live.bpmRuns 1 = true ∧ s.live.checkHandle 1 0 none = bpmOk ∧ (s.live.buf (handleKey 0)).final ≠ 1 := by decide
theorem wit_free : bufOwned.live.checkHandle 1 0 none = bpmOk ∧ (bufOwned.live.buf (handleKey 0)).final = 1 ∧
    (bufOwned.live.buf (handleKey 0)).owners = [1] := by decide
theorem wit_zero_fill : let s := inMode .service fun l => l.setBpm fun x => { x with bufs := [(0, { zeroing := true })] }
    0 < poolCount 0 ∧ s.live.fillDue (bufKey 0 0) = true ∧ s.live.mode ≠ .freeze ∧
    (s.live.flannel.purgeKeys.any fun e => e.2 == bufKey 0 0) = false := by decide

/-! MacOperationsReport -/

/-- CONFIGURE with master 0's MAC_OP naming FID 1 and MAC address 5, and room. -/
def macState : State := inMode .configure fun l => (l.wr .OP_FID 1 0 0 1).wr .OP_MAC 5 0 0 1
theorem wit_mac_none : macState.live.mode.engineOn = true ∧ macState.live.masterTenancy 1 = 0 ∧
    macState.live.macFind 1 5 = none ∧ macState.live.flushRoom = true := by decide +kernel
/-- Sixteen flush criteria wait. -/
def fullFlushes : List FlushCrit := List.replicate 16 { kind := .fid 1, at_ := 0 }
def macFull : State := inMode .configure fun l => l.setFwd fun x => { x with flushes := fullFlushes }
theorem wit_mac_full : macFull.live.mode.engineOn = true ∧ macFull.live.flushRoom = false := by
  have h : macFull.live.plane.fwd.flushes = fullFlushes := by simp [macFull, inMode]
  refine ⟨by decide, ?_⟩
  unfold Live.flushRoom; rw [h]; rfl
theorem wit_mac_done : let s := inMode .configure fun l => l.setFwd fun x => { x with pass := [{ kind := .fid 1, at_ := 0 }], passPos := 262144 }
    s.live.plane.fwd.pass.isEmpty = false ∧ 262144 ≤ s.live.plane.fwd.passPos ∧ s.live.mode.engineOn = true := by decide

/-! MacTableWorksInTheBackground -/

theorem wit_learn : let s := inMode .service fun l => (l.setBeat fun b => { b with ticks := 100 }).setFwd fun x => { x with learns := [{ ingress := 3, port := 0, fid := 1, mac := 5, tn := 0, dest := 0 }] }
    s.live.mode.running = true ∧ (s.live.plane.fwd.learns.any fun r => r.ingress + 63 ≤ s.live.ticks) = true := by decide
theorem wit_settle : let s := inMode .service fun l => (l.setBeat fun b => { b with ticks := 100 }).setFwd fun x => { x with settle := [(36, 4)] }
    s.live.mode ≠ .freeze ∧ (s.live.plane.fwd.settle.any fun x => x.1 + 64 ≤ s.live.ticks) = true := by decide
/-- One aged, flagged dynamic entry at location 0. -/
def oneMac : State := inMode .service fun l => (l.setBeat fun b => { b with elapsed := 40000000 }).setMac 0
  { static := false, tn := 0, fid := 1, mac := 5, dest := 3, prev := 0, age := 0, effective := 0, flag := true, moves := 2 }
theorem wit_age : oneMac.live.mode.engineOn = true ∧ macUsed (oneMac.live.macAt 0) = true ∧
    oneMac.live.aged (MacEntry.unpack (oneMac.live.macAt 0)) = true ∧ oneMac.live.macFree 0 (oneMac.live.ticks + 1) (MacEntry.unpack (oneMac.live.macAt 0)) = true := by decide +kernel
theorem wit_damping : oneMac.live.elapsed % 8000 = 0 ∧ oneMac.live.plane.fwd.dampedAt ≠ some oneMac.live.ticks ∧
    oneMac.live.macAll = [(0, { static := false, tn := 0, fid := 1, mac := 5, dest := 3, prev := 0, age := 0, effective := 0, flag := true, moves := 2 })] := by decide +kernel
theorem wit_version : let s := inMode .service fun l => (l.setBeat fun b => { b with ticks := 100 }).setPlane fun x => { x with versions := [{ key := 1, at_ := 3, old := 0 }] }
    s.live.mode ≠ .freeze ∧ s.live.retireDue = true := by decide

/-! LinksAndDamping -/

theorem wit_phy : let s := inMode .configure fun l => l.wr .LINK_STATE_0401 2 3
    s.live.mode.portsRun = true ∧ (s.live.portRt 3).phySilent = false ∧ s.live.linkState 3 = linkDown := by decide
theorem wit_phy_retry : let s := inMode .configure fun l => (l.setBeat fun b => { b with ticks := 9000 }).setPort 3 fun x => { x with phySilent := true, phyAt := 1000 }
    (s.live.portRt 3).phySilent = true ∧ (s.live.portRt 3).phyAt + 8000 ≤ s.live.ticks ∧ s.live.mode.portsRun = true := by decide
theorem wit_decay : let s := inMode .service
    s.live.mode.modulesRun = true ∧ s.live.elapsed % 8000 = 0 ∧ s.live.plane.decayedAt ≠ some s.live.ticks ∧
    (∀ p, p < 52 → s.live.linkState p ≠ linkSuppressed) ∧ (inMode .service fun l => l.setBeat fun b => { b with elapsed := 1 }).live.elapsed % 8000 ≠ 0 := by decide +kernel

/-! UplinkModulesComeAndGo -/

theorem wit_module_in : ((inMode .configure).live.portRt 48).present = false ∧ (inMode .configure).live.mode.modulesRun = true := by decide
/-- Identification of a 25GBASE-SR module: SFP, LC, extended code 02H. -/
def sfp25 : List Byte := (u8 3 ++ List.replicate 35 0) ++ u8 2 ++ List.replicate 59 0
def moduleOn (st : Nat) : State := inMode .configure fun l => (((l.wr .MODULE_STATE st 48).wr .ENABLE_0400 0 48).wr .LINK_STATE_0401 0 48).setPort 48 fun x => { x with present := true, release := some 0 }
theorem wit_module_id : (moduleOn 1).live.rd .MODULE_STATE 48 = 1 ∧ moduleAccepted sfp25 = true ∧
    (moduleOn 1).live.rdB .ENABLE_0400 48 = false ∧ (moduleOn 1).live.linkState 48 = linkDisabled ∧
    ((moduleOn 1).live.portRt 48).idFails + 1 < 3 ∧ ((moduleOn 1).live.portRt 48).present = true := by decide +kernel
theorem wit_module_fault : (moduleOn 2).live.rd .MODULE_STATE 48 = 2 ∧ ((moduleOn 2).live.portRt 48).txFaults = [] ∧
    (moduleOn 2).live.linkState 48 ≠ linkUp ∧ ((moduleOn 2).live.portRt 48).release = some 0 ∧ 0 ≤ (moduleOn 2).live.ticks := by decide +kernel
theorem wit_module_ddm : let s := inMode .configure fun l => (l.wr .MODULE_STATE 2 48).wr .MODULE_ID (64 * 256 ^ 3) 48
    s.live.rd .MODULE_STATE 48 = 2 ∧ bit (s.live.moduleByte 48 92) 6 = true := by decide +kernel

/-! FlowControlAndQueues -/

/-- Port 3 UP with a transmission in progress, priority 1 paused, in a storm, at XOFF. -/
def flowing (storm : Nat) : State := inMode .configure fun l =>
  ((((((l.wr .LINK_STATE_0401 linkUp 3).wr .STORM_ENABLE 1 3).wr .STORM_ACTIVE storm 3).wr .XOFF_TX 2 3).setStormBeats 3 1 (if storm = 0 then 1600 else 0)).setPort 3
    fun x => { x with tx := some {}, pause := x.pause.put 1 5 }).setPlane fun x => { x with reclaim := some 0 }
theorem wit_flow : (flowing 0).live.receives 3 = true ∧ ((flowing 0).live.portRt 3).tx ≠ none ∧
    ((flowing 0).live.portRt 3).pause.get 1 ≠ 0 ∧ bit ((flowing 0).live.rd .XOFF_TX 3) 1 = true ∧ (flowing 0).live.mode ≠ .freeze := by
  decide +kernel
theorem wit_flow_pfc : pfcVector (pfcBytes 6 fun q => 100 + q) = 6 ∧ pfcTime (pfcBytes 6 fun q => 100 + q) 2 = 102 := by decide +kernel
theorem wit_storm : (flowing 0).live.rdB .STORM_ENABLE 3 = true ∧ bit ((flowing 0).live.rd .STORM_ACTIVE 3) 1 = false ∧
    1600 ≤ (flowing 0).live.stormBeats 3 1 ∧ (flowing 0).live.mode.engineOn = true := by decide +kernel
theorem wit_storm_clear : bit ((flowing 2).live.rd .STORM_ACTIVE 3) 1 = true ∧ (flowing 2).live.stormBeats 3 1 = 0 ∧
    (flowing 2).live.recoveries.active = [] ∧ (flowing 2).live.recoveries.done = [] ∧ (flowing 2).live.mode.engineOn = true ∧
    ((flowing 2).live.portRt 3).tx ≠ none := by decide +kernel
theorem wit_reclaim : let s := inMode .configure fun l => (l.setBeat fun b => { b with ticks := 768 }).setPlane fun x => { x with reclaim := some 0 }
    s.live.plane.reclaim = some 0 ∧ 0 + 768 ≤ s.live.ticks ∧ s.live.mode ≠ .freeze ∧ s.live.mode.engineOn = true := by decide +kernel

/-! UnitSupervision -/

def warmDie : State := inMode .configure fun l => ((l.wrI .VALUE 1300 2).setUnit fun u => { u with silent := u.silent.put 4 8, ledTest := some 0, trip := some 7 }).setBeat fun b => { b with ticks := 8000 }
theorem wit_unit : warmDie.live.mode.engineOn = true ∧ warmDie.live.mode ≠ .dormant ∧ warmDie.live.mode ≠ .listen ∧ warmDie.live.mode ≠ .off ∧
    warmDie.live.enclosure.ledTest = some 0 ∧ 0 + 8000 ≤ warmDie.live.ticks ∧ warmDie.live.sensorPowered 4 = true ∧
    8 ≤ warmDie.live.enclosure.silent.get 4 ∧ 1250 ≤ warmDie.live.rdI .VALUE 2 ∧ warmDie.live.enclosure.trip = some 7 := by decide +kernel
theorem wit_sensor : let s := inMode .configure fun l => l.wr .STATE_1990 3 5
    s.live.rd .STATE_1990 5 = 3 := by decide +kernel
theorem wit_fans (b : Bool) : let s := inMode .configure fun l => l.wrB .TRAY_PRESENT b
    s.live.mode ≠ .off ∧ s.live.rdB .TRAY_PRESENT = b ∧ s.live.fansWait = false ∧ s.live.elapsed % 8000 = 0 ∧
    s.live.enclosure.evaluated ≠ some s.live.ticks ∧ s.live.rd .FAN_LEVEL ≤ 15 := by revert b; decide +kernel

/-! TenancyLifecycle -/

def tenant (st : Nat) : State := inMode .configure fun l => (l.wr .TN_STATE st 1).setWipe 1 (some { kind := .delete, start := 0, segments := 0, beat := 0 })
theorem wit_tenant (k : Fin 3) : (tenant k.val).live.rd .TN_STATE (tnOf 0) = k.val ∧ (tenant k.val).live.mode.engineOn = true ∧
    (∀ f, f < 8 → ((tenant k.val).live.ring f 8).taken = []) ∧ ((tenant k.val).live.tnWipe (tnOf 0)).isSome = true := by
  revert k; decide +kernel
theorem wit_wipe_over : let s := inMode .configure fun l => (l.setWipe 1 (some {})).setBeat fun b => { b with ticks := 6144 }
    s.live.tnWipe (tnOf 0) = some {} ∧ ({} : TnWipe).endsAt ≤ s.live.ticks ∧ s.live.mode.engineOn = true := by decide +kernel

/-! PowerModulesAndTokens -/

def bays2 (a b : Nat) : State := inMode .configure fun l => (l.setModule 0 fun m => { m with report := a, fitted := a != modAbsent, aboveSince := some 0, volts := 2000 }).setModule 1 (fun m => { m with report := b })
  |>.setBeat fun b => { b with ticks := 8000 }
theorem wit_bay : ((bays2 modAbsent modHigh).live.power.modules.get 0).fitted = false ∧ inputInRange false 2300 500 = true ∧
    inputInRange false 500 500 = false ∧ (bays2 modAbsent modHigh).live.mode.evaluates = true := by decide +kernel
theorem wit_bay_low : let m := (bays2 modLow modHigh).live.power.modules.get 0
    m.report = modLow ∧ m.aboveSince = some 0 ∧ 0 + 8000 ≤ (bays2 modLow modHigh).live.ticks ∧ m.carries = true ∧
    m.leaving = false ∧ m.report ≠ modAbsent ∧ m.fitted = true ∧ (bays2 modLow modFailed).live.otherCarries 0 = false := by
  unfold Live.otherCarries bays
  cases Config.twoBays <;> decide +kernel
theorem wit_bay_high : let m := (bays2 modHigh modFailed).live.power.modules.get 0
    m.report = modHigh ∧ m.kind = 0 ∧ inputInRange (m.kind == 1) 800 500 = false ∧ m.leaving = false := by decide +kernel
theorem wit_bay_back : let m := (bays2 modFailed modFailed).live.power.modules.get 0
    m.report = modFailed ∧ m.fitted = true ∧ m.carries = false ∧ m.leaving = false ∧ (bays2 modFailed modFailed).live.otherCarries 0 = false ∧ 0 < bays := by
  unfold Live.otherCarries bays
  cases Config.twoBays <;> decide +kernel
theorem wit_bay_other (h : bays = 2) : (bays2 modHigh modHigh).live.otherCarries 0 = true := by
  unfold Live.otherCarries; rw [h]; decide +kernel
theorem wit_silicon : let s := inMode .configure fun l => l.setDram fun d => { d with ch0 := { d.ch0 with served := 2000000 } }
    s.live.mode.engineOn = true ∧ s.live.siliconWants 2 = true ∧ s.live.token 2 = 0 ∧ s.live.power.waiting.get 2 = none ∧
    (inMode .configure).live.siliconEnds 2 = true := by decide +kernel

/-! PoePortsMoveByTheirEvents -/

def poe (st : Nat) : State := inMode .configure fun l => ((((l.wr .STATE_0340 st 5).wr .LLDP_POWER 1 5).setPse 5 fun p => { p with holdEnd := some 0, onTick := 0 })).setBeat fun b => { b with ticks := 4800000 }
theorem wit_poe : (poe poePowered).live.rd .STATE_0340 5 = poePowered ∧ (poe poePowered).live.mode.evaluates = true ∧
    ((poe poePowered).live.power.ports.get 5).onTick + 4800000 ≤ (poe poePowered).live.ticks ∧
    ((poe poePowered).live.power.ports.get 5).drawn = false ∧ (poe poePowered).live.rdB .LLDP_POWER 5 = true ∧
    ((poe poePowered).live.power.ports.get 5).faults = [] ∧ (poe poePowered).live.power.pseFault ||| 5 % 2 ^ 48 ≠ allPorts48 := by decide +kernel
theorem wit_poe_search : (poe poeSearching).live.rd .STATE_0340 5 = poeSearching := by decide +kernel
theorem wit_poe_hold : (poe poeHold).live.rd .STATE_0340 5 = poeHold ∧ ((poe poeHold).live.power.ports.get 5).holdEnd = some 0 ∧ 0 ≤ (poe poeHold).live.ticks := by decide +kernel
theorem wit_poe_fourth : let s := inMode .configure fun l => (l.wr .STATE_0340 poePowered 5).setPse 5 fun p => { p with faults := [0, 0, 0] }
    s.live.rd .STATE_0340 5 = poePowered ∧ s.live.rd .BACKOFF_LEVEL 5 ≤ 4 ∧
    3 ≤ ((s.live.power.ports.get 5).faults.filter fun t => s.live.ticks ≤ t + 480000).length := by decide +kernel

/-! ModeRequestsAndRestarts -/

theorem wit_quiet : (inMode .service).live.quiet := ⟨by decide, by decide, by decide, by decide⟩
theorem wit_quiet_more : (inMode .service).live.mode.running = true ∧ (inMode .service).live.mode.leaves = true ∧
    (inMode .service).live.freezeCause = false ∧ (inMode .service).live.partialMatch = false ∧
    (inMode .service).live.modes.dormantAsked = none ∧ (inMode .service).live.modes.acted = false ∧
    (inMode .service).live.modes.goTo ≠ some .wipe := by decide +kernel
theorem wit_to_service : let s := inMode .configure fun l => l.wr .LC_STATE 2
    s.live.rd .LC_STATE = 2 ∧ s.live.mode = .configure ∧ s.live.freezeCause = false ∧ s.live.modes.acted = false ∧
    s.live.modes.restart = none ∧ s.live.modes.goTo = none ∧ s.live.rdB .TRIAL = false := by decide +kernel
theorem wit_dormant : let s := inMode .configure fun l => l.setModes fun m => { m with dormantAsked := some 0 }
    s.live.modes.dormantAsked.isSome = true ∧ s.live.mode.leaves = true ∧ s.live.partialMatch = false := by decide +kernel
theorem wit_wake : let s := inMode .dormant fun l => (l.wr .WAKE_SOURCES 2).wr .WAKE_GPIO_MASK 1
    s.live.mode = .dormant ∧ bit (s.live.rd .WAKE_SOURCES) 1 = true ∧ bit (s.live.rd .WAKE_GPIO_MASK) 0 = true ∧
    s.live.modes.wake = none := by decide +kernel
theorem wit_trial : let s := inMode .configure fun l => (((l.wrB .TRIAL true).wr .TRIAL_WINDOW 5).setModes (fun m => { m with trialStart := some 0 })).setBeat fun b => { b with ticks := 9 }
    s.live.trialExpired = true ∧ s.live.mode.leaves = true := by decide +kernel

/-! StartUpAndLifeCycle -/

theorem wit_off : let s := inMode .off fun l => l.setModule 0 fun m => { m with report := modHigh }
    s.live.mode = .off ∧ s.live.anyCarries = true ∧ s.live.enclosure.trip = none := by
  unfold Live.anyCarries bays
  cases Config.twoBays <;> decide +kernel
theorem wit_dark : (inMode .configure).live.mode ≠ .off ∧ (inMode .configure fun l => (l.setModule 0 fun m => { m with report := modFailed }).setModule 1
      fun m => { m with report := modFailed }).live.anyCarries = false := by
  unfold Live.anyCarries bays
  cases Config.twoBays <;> decide +kernel
theorem wit_bringup : let s := inMode .bringup fun l => l.wr .LC_PENDING 0xFF
    s.live.mode = .bringup ∧ s.live.modes.imageOk = false ∧ s.live.modes.recovery = false ∧ s.live.modes.revert = false ∧
    s.live.rd .BOOT_PREFERENCE < 2 ∧ s.live.modes.trained = false ∧ s.live.modes.trainingFails < 2 := by decide +kernel
theorem wit_ready : let s := inMode .bringup fun l => ((l.wr .LC_PENDING 0xFF).wr .LC_STATE 2).setModes fun m => { m with imageOk := true, storedLoaded := true, trained := true, filled := true }
    s.live.modes.imageOk = true ∧ s.live.rd .LC_PENDING = 0xFF ∧ s.live.rd .LC_STATE ≠ 3 ∧ s.live.modes.storedLoaded = true ∧
    s.live.modes.trained = true ∧ s.live.modes.filled = true := by decide +kernel
theorem wit_stored_load : let s := inMode .bringup fun l => ((l.wr .LC_PENDING 0xFF).wr .LC_STATE 2).setModes fun m => { m with imageOk := true }
    s.live.modes.imageOk = true ∧ s.live.modes.storedLoaded = false ∧ s.live.rd .LC_PENDING = 0xFF ∧ s.live.rd .LC_STATE ≠ 3 := by decide +kernel
theorem wit_life (m : Fin 3) : let s := inMode (if m.val = 2 then .decommissioned else .configure) fun l => l.wr .LC_STATE (m.val + 1)
    s.live.rd .LC_STATE = m.val + 1 ∧ s.live.modes.acted = false ∧ s.live.modes.restart = none ∧ s.live.modes.goTo = none ∧
    s.live.mode = (if m.val = 2 then .decommissioned else .configure) := by revert m; decide +kernel
theorem wit_challenge : let s := inMode .configure fun l => l.setModes fun m => { m with challengeAt := 1 }
    s.live.mode ≠ .off ∧ s.live.elapsed % 8000 = 0 ∧ s.live.modes.challengeAt ≠ s.live.ticks := by decide +kernel
theorem wit_wipe : (inMode .wipe).live.mode = .wipe ∧ (inMode .wipe).live.modes.wipeAttempts < 3 := by decide
theorem wit_confirm : let s := inMode .configure fun l => (l.wrB .TRIAL true).setModes fun m => { m with trialStart := some 0 }
    s.live.modes.trialStart = some 0 ∧ s.live.rdB .TRIAL = true ∧ s.live.ticks ≤ 0 + s.live.rd .TRIAL_WINDOW ∧
    s.live.mode.evaluates = true := by decide +kernel
theorem wit_warning (a : Bool) : (List.range bays).filter (fun b => ((inMode .configure fun l => (l.setModule 0 fun m =>
      { m with report := if a then modHigh else modFailed }).setModule 1 fun m => { m with report := modFailed }).live.power.modules.get b).carries)
    = if a then [0] else [] := by
  unfold bays
  cases Config.twoBays <;> revert a <;> decide +kernel

/-! EventsInputsAndSnapshots -/

def quietEvent : State := inMode .configure fun l => (l.setEv 96 0 fun e => { e with deferred := some { src := 96, stamp := 0 } }).wr .SOURCE_CONFIG (2 ^ 56) 3
theorem wit_event : (quietEvent.live.ev 96 0).deferred.isSome = true ∧ (quietEvent.live.ev 96 0).nextAt ≤ quietEvent.live.ticks ∧
    quietEvent.live.mode.engineOn = true ∧ quietEvent.live.mode.evaluates = true ∧ quietEvent.live.noteDests 96 0 ≠ [] := by decide +kernel
def pins : State := inMode .configure fun l => ((((l.setGpio 2 fun g => { g with sample := true, run := 800 }).wr .LEVEL_1900 1 3).wr .STUCK_S 1 3).wr .DEBOUNCE_BEATS 1 2).setBeat fun b => { b with ticks := 8000 }
theorem wit_pins : pins.live.gpioDue 2 = true ∧ pins.live.beat.strobeArmed = false ∧ pins.live.mode.judges = true ∧
    pins.live.beat.elapsed % pins.live.rd .CHATTER_WINDOW 2 = 0 ∧ (pins.live.events.gpio.get 2).judgedAt ≠ some pins.live.ticks ∧
    pins.live.rd .STUCK_S 3 ≠ 0 ∧ pins.live.rdB .LEVEL_1900 3 = true ∧ pins.live.rdB .STUCK 3 = false ∧
    (pins.live.events.gpio.get 3).levelSince + 8000 * pins.live.rd .STUCK_S 3 ≤ pins.live.ticks ∧ pins.live.mode ≠ .off ∧
    pins.live.mode ≠ .freeze := by decide +kernel
def capturing (done : Bool) : State := inMode .configure fun l => { l with events := { l.events with
  gathered := if done then none else some {}, copying := if done then some ({}, 0) else none, copied := done } }
theorem wit_capture : (capturing false).live.events.gathered = some {} ∧ (capturing false).live.events.copying = none ∧
    (capturing true).live.events.copying = some ({}, 0) ∧ (capturing true).live.events.copied = true ∧ (capturing true).live.rd .SHOWN_BANK = 0 ∧
    (capturing true).live.mode.evaluates = true ∧ (capturing true).live.mode ≠ .freeze ∧ (capturing false).live.mode ≠ .freeze := by decide +kernel
theorem wit_store : (inMode .configure).live.mode.engineOn = true ∧ (inMode .configure).live.modes.storing = none ∧
    (inMode .configure fun l => l.setModes fun m => { m with storing := some (0, {}, 0) }).live.modes.storing = some (0, {}, 0) := by decide +kernel

/-! DramMemoryServes -/

def dram (st : Nat) : State := inMode .configure fun l => (((((l.wr .STATE_1302 st 0).wr .IDLE_SR_ENABLE 1 0).setDram fun d => { d with passes := 1 }).wr .DIAG_ADDRESS 0).wr .STATE_1302 chFrozen 1).setBeat fun b => { b with ticks := 80000 }
theorem wit_dram : (dram chActive).live.chState 0 = chActive ∧ ((dram chActive).live.channel 0).diagnose = false ∧
    (dram chActive).live.mode.evaluates = true ∧ (dram chActive).live.mode ≠ .freeze ∧ (dram chActive).live.mode.engineOn = true ∧
    ((dram chActive).live.panicFills 50 50).panicking = false ∧ (dram chActive).live.rdB .IDLE_SR_ENABLE 0 = true ∧
    ((dram chActive).live.channel 0).used + (dram chActive).live.rd .IDLE_SR_BEATS 0 ≤ (dram chActive).live.ticks ∧
    (dram chActive).live.dram.passes ≠ 0 ∧ (((dram chActive).live.dramSlots 0 []).channel 0).diagnose = false := by decide +kernel
theorem wit_dram_other : (dram chReplaying).live.chState 0 = chReplaying ∧ (dram chSelfRefresh).live.chState 0 = chSelfRefresh ∧
    (dram chReplaying).live.recoveries.active = [] ∧ (dram chReplaying).live.recoveries.done = [] := by decide +kernel
theorem wit_diag : let s := inMode .freeze fun l => l.wr .DIAG_ADDRESS 0x80000000
    s.live.diagAllowed = true ∧ (dramUnit (s.live.rd .DIAG_ADDRESS)).isSome = true := by decide +kernel

/-! StepRunsTheFrontCommand -/

theorem wit_idle : State.reset.pending = [] := rfl

/-! ResetIsTheFirstBeatOfBringup -/

theorem wit_reset_lc : State.reset.live.rd .LC_STATE = 2 := by decide

/-! EveryStepKeepsTheDictionaryInOrder -/

theorem wit_tidy : State.reset.live.tidy ∧ State.reset.start.tidy := by unfold Live.tidy; decide

/-! CommandsKeepToTheirParts -/

theorem wit_parts : Instr.boundary .armOrigin = false ∧ Instr.boundary (.beatBoundary {}) = true := ⟨rfl, rfl⟩

/-! OnlyTheseCommandsMoveModeAndBeat -/

theorem wit_moves : ∃ t, exec .wipeDone (inMode .wipe) = .next t ∧ t.live.mode ≠ .wipe := ⟨_, rfl, by decide +kernel⟩
theorem wit_renumbers : ∃ t, exec .wipeDone (inMode .wipe fun l => l.setBeat fun b => { b with number := 9 }) = .next t ∧ t.live.beat.number ≠ 9 := ⟨_, rfl, by decide +kernel⟩

/-! PenaltiesDecayByTheHalfLife -/

theorem wit_decay_m : let s := inMode .service
    s.live.mode.modulesRun = true ∧ s.live.elapsed % 8000 = 0 ∧ s.live.plane.decayedAt ≠ some s.live.ticks ∧
    s.live.rd .HALF_LIFE 3 = 15 ∧ 2 * 62576 ^ 15 ≤ 65536 ^ 15 ∧ 65536 ^ 15 < 2 * 62577 ^ 15 := by decide +kernel

/-! TooLongFramesLeaveTheBuffer -/

theorem wit_too_long : let s := inMode .service fun l =>
      (l.setHost fun h => { h with fns := h.fns.upd 2 fun f => { f with present := true, rings := f.rings.upd 0 fun r => { r with
        active := true, sqTail := 3, sqLog2 := 4, cqLog2 := 4 } } }).setPlane fun x => { x with
        frames := x.frames.put 1 (some { bytes := List.replicate 70 0, word := 2 * 2 ^ 61, refs := 1 }),
        queues := x.queues.put (8 * 54) [{ frame := 1 }] }
    s.live.mode.running = true ∧
    (let r := (s.live.at 0).takeFrom 54
     let fr := r.1.getD default
     r.1.isSome ∧ fr.tn = 2 ∧ (r.2.fn fr.tn).flr = none ∧ (r.2.fn fr.tn).present = true ∧
      (r.2.ring fr.tn (bits (r.2.fn fr.tn).rxMap (2 * fr.tc) 2)).active = true ∧
      (r.2.ring fr.tn (bits (r.2.fn fr.tn).rxMap (2 * fr.tc) 2)).sqHeld ≠ 0 ∧
      (r.2.ring fr.tn (bits (r.2.fn fr.tn).rxMap (2 * fr.tc) 2)).cqFull = false ∧
      leAt [0, 0, 0, 0, 0, 0, 0, 0, 65, 0] 8 2 < (body fr.bytes).length) := by decide +kernel

/-! CanPortsFollowTheirBus -/

/-- CAN port 1 enabled and active, with a frame on the bus. -/
def canOn (state : Nat) (f : CanPort → CanPort) : State := inMode .service fun l => (((l.wr .STATE_0782 state 1).wr .ROLLCALL_ENABLE 1 1).setCan 1 f).setBeat fun b => { b with ticks := 100000 }
theorem wit_can_ignored : let s := canOn 0 id
    s.live.mode.evaluates = true ∧ s.live.mode ≠ .freeze ∧ s.live.canServes 1 = true ∧ s.live.canIgnores 1 { id := s.live.canRequestId 1, fd := false } = true := by
  decide +kernel
theorem wit_can_state : (canOn 0 id).live.rd .STATE_0782 1 = 0 ∧ (canOn 2 id).live.rd .STATE_0782 1 = 2 := by decide +kernel
theorem wit_can_sent : let s := canOn 0 fun p => { p with sending := some { id := 1, data := [] } }
    (s.live.can.get 1).sending = some { id := 1, data := [] } ∧ (s.live.can.get 1).tooLate = false ∧ s.live.rd .STATE_0782 1 ≠ 2 := by
  decide +kernel
theorem wit_rollcall : let s := canOn 0 id
    s.live.mode.rollcalls = true ∧ s.live.canServes 1 = true ∧ s.live.rdB .ROLLCALL_ENABLE 1 = true ∧
    (s.live.can.get 1).callOpen = false ∧ (s.live.can.get 1).lastCall + s.live.rd .ROLLCALL_INTERVAL 1 ≤ s.live.ticks := by decide +kernel
theorem wit_rollcall_answer : let s := canOn 0 fun p => { p with callOpen := true, callSeq := 5 }
    (s.live.can.get 1).callOpen = true ∧ fieldAt [5, 1, 2, 3, 4, 5, 6, 7] 0 1 = (s.live.can.get 1).callSeq ∧ s.live.canServes 1 = true ∧
    s.live.nodeEntry 1 3 = 0 := by decide +kernel

/-! DictionaryServesRequests -/

/-- The firmware's path is always open. -/
theorem wit_heard : (inMode .configure).live.heard (rankOf 14) ∧ (inMode .configure).live.repeated (rankOf 14) 0 { id := 1, index := 0x0101, sub := 1 } = none :=
  ⟨⟨by decide +kernel, by decide +kernel, by decide +kernel⟩, by decide +kernel⟩
theorem wit_read : rules.checkReach (inMode .configure).start (rankOf 14) (rules.instAt (inMode .configure).start (rankOf 14) 0x0101) 0x0101 1 false [] = stOk ∧
    (inMode .configure).live.mode.allowsRead 0x0101 = true ∧ findObject 0x0101 1 = some (.FREE_RUN_ORIGIN, 0, 0) ∧
    (Live.show (inMode .configure).start (rankOf 14) .FREE_RUN_ORIGIN 0 0 (Live.instOf (inMode .configure).start (rankOf 14) .FREE_RUN_ORIGIN)).length ≤ payloadLimit (rankOf 14) := by
  decide +kernel
theorem wit_read_absent : rules.checkReach (inMode .configure).start (rankOf 14) (rules.instAt (inMode .configure).start (rankOf 14) 0xFFFF) 0xFFFF 1 false [] ≠ stOk ∧
    rules.checkReach (inMode .configure).live (rankOf 14) (rules.instAt (inMode .configure).live (rankOf 14) 0xFFFF) 0xFFFF 1 true [] ≠ stOk := by decide +kernel
theorem wit_write : let l := (inMode .configure).live
    rules.checkReach l (rankOf 14) (rules.instAt l (rankOf 14) 0x0101) 0x0101 1 true (u64 5) = stOk ∧ writeFields 0x0101 1 (u64 5) = some [(1, 5)] ∧
    l.checkTarget (rankOf 14) 0x0101 [1] none = stOk ∧ Live.arrivalCheck l 0x0101 [(1, 5)] none = stOk ∧
    l.checkTarget (rankOf 14) 0x0101 [1] (some 9) = stOk ∧ Live.arrivalCheck l 0x0101 [(1, 5)] (some 9) = stOk := by decide +kernel
theorem wit_repeat : let s := inMode .configure fun l => l.setDict fun d => { d with cache := d.cache.put 15 [{ op := 1, reqId := 7, index := 0x0101, sub := 1, code := 0, payload := [], at_ := 0 }] }
    ((s.live.dict.cache.get (rankOf 14)).find? fun y => y.op == 1 && y.reqId == 7 && y.index == 0x0101 && y.sub == 1 && y.fresh s.live.ticks)
      = some { op := 1, reqId := 7, index := 0x0101, sub := 1, code := 0, payload := [], at_ := 0 } := by decide +kernel
theorem wit_segment : let x : Transfer := { reqId := 7, index := 0x0101, sub := 0xFF, total := 4000, size := segmentData 15, last := 0 }
    let s := inMode .configure fun l => l.setDict fun d => { d with transfers := d.transfers.put 15 (some x) }
    s.live.dict.transfers.get (rankOf 14) = some x ∧ x.next + 1 < cdiv x.total x.size ∧
    rules.checkReach (inMode .configure).live (rankOf 14) (rules.instAt (inMode .configure).live (rankOf 14) 0x0101) 0x0101 0xFF true [] = stOk ∧
    (inMode .configure).live.checkTarget (rankOf 14) 0x0101 [0xFF] none = stOk ∧
    rules.checkReach (inMode .configure).live (rankOf 14) (rules.instAt (inMode .configure).live (rankOf 14) 0x0101) 0x0101 1 false [] = stOk := by decide +kernel
theorem wit_mailbox : let s := inMode .configure fun l => (l.setHost fun h => { h with up := true }).setMbx 0 fun m => { m with reqBusy := true }
    s.live.mbxServes 0 = true ∧ (s.live.mailboxes.get 0).reqBusy = true ∧ s.live.mbxOwed 0 < 320 := by decide +kernel
theorem shaBlocks_length (n : Nat) (m : List Byte) (v : List Nat) (h : v.length = 8) : (shaBlocks n m v).length = 8 := by
  induction n generalizing m v with
  | zero => exact h
  | succ n ih =>
    unfold shaBlocks
    refine ih _ _ ?_
    unfold shaBlock
    simp [h, ShaVars.toList]
theorem sha_length (m : List Byte) : (sha256 m).length = 32 := by
  unfold sha256
  dsimp only
  have h := shaBlocks_length ((shaPad m).length / 64) (shaPad m) shaInit rfl
  generalize shaBlocks ((shaPad m).length / 64) (shaPad m) shaInit = v at h
  match v, h with
  | [a, b, c, d, e, f, g, i], _ => rfl
theorem tag_length (k : Nat) (d s b : List Byte) : (inbandTag k d s b).length = 16 := by
  unfold inbandTag hmacSha256
  dsimp only
  rw [List.length_take, sha_length]; rfl
/-- Session 0 open, with the key 0, and a request that it accepts. -/
def sessionOn : State := inMode .configure fun l => (l.wr .ALLOWED_PORTS (2 ^ 53) 0).setSession 0 fun x => { x with keyed := true, open_ := true }
def aBody : List Byte := [1, 0, 0, 0, 0, 0, 0, 1, 0, 0, 1, 1, 1, 1, 0, 0]
theorem sessionOn_has : (sessionOn.live.sessions.get 0).open_ = true ∧ (sessionOn.live.sessions.get 0).keyed = true ∧
    (sessionOn.live.sessions.get 0).exhausted = false ∧ bit (sessionOn.live.rd .ALLOWED_PORTS 0) 53 = true ∧ sessionOn.live.rd .VID 0 = 0 ∧
    sessionOn.live.rd .PEER_MAC 0 = 0 ∧ sessionOn.live.rd .KEY_EPOCH 0 = 0 ∧ sessionOn.live.rd .KEY 0 = 0 ∧
    (sessionOn.live.sessions.get 0).window.accepts 1 = true ∧ sessionOn.live.oldEpoch 0 0 = false ∧ sessionOn.live.mode.engineOn = true := by decide +kernel
theorem inband_aux (tag : List Byte) (ht : tag.length = 16) (he : inbandTag 0 (u48 (baseMac 0)) (u48 5) aBody = tag) :
    inbandParse (u48 (baseMac 0) ++ (u48 5 ++ (u16 inbandType ++ (aBody ++ tag)))) = some { dst := u48 (baseMac 0), src := u48 5, vid := none, body := aBody ++ tag } ∧
    sessionOn.live.inbandVerdict 53 { dst := u48 (baseMac 0), src := u48 5, vid := none, body := aBody ++ tag } = .accepted 0 1 false := by
  obtain ⟨a1, a2, a3, a4, a5, a6, a7, a8, a9, a10, _⟩ := sessionOn_has
  generalize sessionOn.live = l at *
  have hs : slice (aBody ++ tag) 16 16 = tag := by
    have e : (aBody ++ tag).drop 16 = tag := rfl
    unfold slice
    rw [e, ← ht, List.take_length]
    simp
  have hb : (aBody ++ tag).take 16 = aBody := List.take_left' rfl
  have hl : (aBody ++ tag).length = 32 := by rw [List.length_append, ht]; rfl
  have hd : dauLen ((aBody ++ tag).drop 8) = 0 := by
    have e0 : fieldAt ((aBody ++ tag).drop 8) 0 1 = 0 := rfl
    have e1 : fieldAt ((aBody ++ tag).drop 8) 6 1 = 0 := rfl
    unfold dauLen
    rw [e0, e1]; rfl
  have b0 : fieldAt (aBody ++ tag) 0 1 = 1 := rfl
  have b1 : fieldAt (aBody ++ tag) 1 1 % 4 = 0 := rfl
  have b2 : fieldAt (aBody ++ tag) 2 2 = 0 := rfl
  have b3 : fieldAt (aBody ++ tag) 4 4 = 1 := rfl
  have b4 : fieldAt ((aBody ++ tag).drop 8) 0 1 = 0 := rfl
  refine ⟨?_, ?_⟩
  · unfold inbandParse
    dsimp only
    rw [if_pos (show fieldAt (u48 (baseMac 0) ++ (u48 5 ++ (u16 inbandType ++ (aBody ++ tag)))) 12 2 = inbandType from rfl),
      if_pos (show (u48 (baseMac 0) ++ (u48 5 ++ (u16 inbandType ++ (aBody ++ tag)))).take 6 = u48 (baseMac 0) from rfl)]
    rfl
  · unfold Live.inbandVerdict
    dsimp only
    simp only [hd, hs, hb, hl, b0, b1, b2, b3, b4, a1, a2, a3, a4, a5, a6, a7, a8, he, Nat.add_zero]
    simp [a9, a10, show bit 0 4 = false from rfl]
    exact he.symm
theorem wit_inband : ∃ (f : List Byte) (x : InbandIn), sessionOn.live.mode.engineOn = true ∧ inbandParse f = some x ∧
    sessionOn.live.inbandVerdict 53 x = .accepted 0 1 false :=
  ⟨_, _, sessionOn_has.2.2.2.2.2.2.2.2.2.2, inband_aux _ (tag_length ..) rfl⟩

/-! CachesTransfersAndMailboxesEnd -/

def mailOn (g : Mailbox → Mailbox) : State := inMode .configure fun l => (l.setHost fun h => { h with up := true }).setMbx 0 g
theorem wit_mail : (mailOn id).live.mbxServes 0 = true ∧ ((mailOn id).live.mailboxes.get 0).reqBusy = false ∧
    ((mailOn fun m => { m with reqBusy := true }).live.mailboxes.get 0).reqBusy = true ∧
    ((mailOn fun m => { m with rspReady := true }).live.mailboxes.get 0).rspReady = true ∧
    ((mailOn fun m => { m with rspReady := true }).live.mailboxes.get 0).waiting = [] := by decide +kernel
theorem wit_grace : let s := inMode .configure fun l => l.setSession 2 fun x => { x with graceEnd := some 0 }
    (s.live.sessions.get 2).graceEnd = some 0 ∧ 0 ≤ s.live.ticks := by decide +kernel
theorem wit_abandoned : let x : Transfer := { reqId := 1, index := 0x0101, sub := 0xFF, total := 4, size := 4 }
    let s := inMode .configure fun l => (l.setDict fun d => { d with transfers := d.transfers.put 15 (some x) }).setBeat fun b => { b with ticks := 8000 }
    s.live.dict.transfers.get (rankOf 14) = some x ∧ x.last + 8000 ≤ s.live.ticks ∧ s.live.mode.evaluates = true := by decide +kernel

/-! FramesArriveLeaveAndNeighboursAreKept -/

/-- Port 3 up and serving LLDP, with a change made. -/
def portUp3 (f : Live → Live := id) : State := inMode .service fun l => f ((l.wr .LINK_STATE_0401 linkUp 3).wr .LLDP_MODE 3 3)
def sampleLldpdu (id : Byte) : List Byte := [2, 2, 7, id, 4, 2, 5, 9, 6, 2, 0, 120, 0, 0]
def shortFrame (n et : Nat) : List Byte := withFcs (List.replicate 12 0 ++ u16 et ++ List.replicate (n - 18) 0)
theorem wit_frames : portUp3.live.receives 3 = true ∧ fcsGood [1, 2, 3, 4, 5] = false ∧ fcsGood (shortFrame 60 0x0800) = true ∧ (shortFrame 60 0x0800).length < 64 ∧
    fcsGood (shortFrame 64 0x0800) = true ∧ 64 ≤ (shortFrame 64 0x0800).length ∧ fieldAt (shortFrame 64 0x0800) 12 2 = 0x0800 := by decide +kernel
theorem wit_frame_fifo : (shortFrame 64 0x0800).length ≤ fifoBytes 3 ∧ fifoBytes 3 < (List.replicate 32769 (0 : Byte)).length := by
  rw [List.length_replicate]; decide +kernel
theorem wit_frame_sizes : 64 ≤ portUp3.live.rdAt (portUp3.live.ticks - min (min 0 61) portUp3.live.ticks) .MAX_FRAME 3 := by decide +kernel
theorem wit_frame_over : let s := portUp3 fun l => l.wr .MAX_FRAME 60 3
    s.live.receives 3 = true ∧ s.live.rdAt (s.live.ticks - min (min 0 61) s.live.ticks) .MAX_FRAME 3 < (shortFrame 64 0x0800).length := by decide +kernel
theorem wit_tx_done : let s := portUp3 fun l => l.setPort 3 fun x => { x with tx := some { entry := none, bytes := [], start := 0, close := none } }
    (s.live.portRt 3).tx ≠ none ∧ s.live.mode ≠ .freeze := by decide +kernel
theorem wit_lldp : portUp3.live.lldpRx 3 = true ∧ portUp3.live.lldpTx 3 = true ∧ (portUp3.live.portRt 3).lldpSent = none ∧
    (lldpParse portUp3.live 0 (sampleLldpdu 1)).map Prod.snd = some 120 ∧ (portUp3.live.portRt 3).neighbours.get 0 = none := by decide +kernel
theorem wit_lldp_known : let n : Neighbour := ((lldpParse portUp3.live 0 (sampleLldpdu 1)).map Prod.fst).getD default
    let s := portUp3 fun l => l.setPort 3 fun x => { x with neighbours := x.neighbours.put 0 (some n) }
    s.live.lldpRx 3 = true ∧ (s.live.portRt 3).neighbours.get 0 = some n ∧ n.sameKey n = true ∧
    ((lldpParse s.live 0 [2, 2, 7, 1, 4, 2, 5, 9, 6, 2, 0, 0, 0, 0]).map fun x => (n.sameKey x.1, x.2)) = some (true, 0) := by decide +kernel
theorem wit_lldp_full : let n : Neighbour := { chassis := [5] }
    let s := portUp3 fun l => l.setPort 3 fun x => { x with neighbours := (((x.neighbours.put 0 (some n)).put 1 (some n)).put 2 (some n)).put 3 (some n) }
    (∀ j < 4, (s.live.portRt 3).neighbours.get j = some n) ∧
    ((lldpParse s.live 0 (sampleLldpdu 1)).map fun x => n.sameKey x.1) = some false ∧ n.expires ≤ s.live.ticks ∧ s.live.mode.evaluates = true := by decide +kernel

/-! WeavesSwapDrainAndCopy -/

theorem wit_weave : let s := inMode .service fun l => l.wr .METHOD 0 3
    s.live.mode.engineOn = true ∧ members 4 0b1110 = [1, 2, 3] ∧ (∀ k ∈ members 4 0b1110, s.live.rd .METHOD k = 0) ∧
    (∀ k ∈ members 4 0b1110, s.live.shadowIncomplete k = false ∧ s.live.copying k = false ∧ s.live.draining k = false) ∧ s.live.recoveries.done = [] := by decide +kernel
theorem wit_weave_not : let s := inMode .service fun l => l.setCalico fun x => { x with drains := x.drains.put 1 (some 0) }
    s.live.mode.engineOn = true ∧ (∀ k ∈ members 4 2, s.live.rd .METHOD k = 0) ∧ (members 4 2).any s.live.shadowIncomplete = false ∧
    (members 4 2).any s.live.copying = false ∧ (members 4 2).any s.live.draining = true := by decide +kernel
theorem wit_drained : let s := inMode .service fun l => (l.setCalico fun x => { x with drains := x.drains.put 1 (some 0) }).setBeat fun b => { b with ticks := 1 }
    s.live.plane.calico.drains.get 1 = some 0 ∧ 0 < s.live.ticks ∧ s.live.mode.engineOn = true := by decide +kernel
theorem wit_copy : (inMode .service).live.shadowCopyAllowed 3 = true ∧
    (inMode .service fun l => l.setCalico fun x => { x with drains := x.drains.put 1 (some 0) }).live.shadowCopyAllowed 1 = false := by decide +kernel
theorem wit_copied : let c : ShadowCopy := { start := 0, bank := 1, pos := ctSize 2 * ctBytes 2 }
    let s := inMode .service fun l => l.setCalico fun x => { x with copies := x.copies.put 2 (some c) }
    s.live.plane.calico.copies.get 2 = some c ∧ ctSize 2 * ctBytes 2 ≤ c.pos ∧ s.live.mode.engineOn = true := by decide +kernel

/-! FirmwareResolvesHopsAndSnoops -/

theorem wit_hops : let v := setBits (setBits 0 255 1 1) 253 2 1
    let s := inMode .service fun l => ((l.setElem .NEXT_HOP_TABLE 130 v).setHop 130 fun r => { r with missed := 3, asked := some 0 }).setBeat fun b => { b with ticks := 8000 }
    nhValid (s.live.elem .NEXT_HOP_TABLE 130) = true ∧ nhState (s.live.elem .NEXT_HOP_TABLE 130) = 1 ∧ 3 ≤ (s.live.plane.fwd.nextHops.get 130).missed ∧
    (s.live.plane.fwd.nextHops.get 130).asked = some 0 ∧ s.live.mode.running = true ∧ (inMode .service).live.hopDue 130 = false := by decide +kernel

/-- VLAN 7 valid, snooped and routed, with address 9.9.9.9 and a valid next hop 3 in it. -/
def routedVlan : State := inMode .service fun l =>
  (l.setElem .VLAN_TABLE 7 (2 ^ 239 + 2 ^ 235 + 2 ^ 234 + 0x09090909 * 2 ^ 192)).setElem .NEXT_HOP_TABLE 3 (2 ^ 255 + 7 * 2 ^ 224)
theorem wit_routed : routedVlan.live.routes 7 = true ∧ routedVlan.live.routes 8 = false ∧ routedVlan.live.hopDue 3 = true ∧
    routedVlan.live.snoops 7 = true ∧ routedVlan.live.rdB .FAST_LEAVE 0 0 (routedVlan.live.vidOwner 7) = false ∧
    ({ ip6 := false, request := false, sender := 1, target := 0, mac := 2 } : ArpNd).request = false := by decide +kernel
theorem wit_own_address : let m : ArpNd := { ip6 := false, request := true, sender := 1, target := 0x09090909, mac := 2 }
    (routedVlan.live.resolveBy 7 m).ownAddress 7 m.ip6 m.target = true := by decide +kernel
theorem wit_fast_leave : let s := inMode .service fun l => (l.wr .FAST_LEAVE 1).setElem .VLAN_TABLE 7 (2 ^ 239 + 2 ^ 234)
    s.live.snoops 7 = true ∧ s.live.rdB .FAST_LEAVE 0 0 (s.live.vidOwner 7) = true := by decide +kernel

/-! RingsEnableMoveAndStop -/

/-- A state in which function 0's BAR0 is served and a ring of it is as given. -/
def ringState (k : Nat) (r : Ring) (ticks : Nat := 0) : State := inMode .service fun l =>
  (((l.setHost fun h => { h with up := true }).setFn 0 fun x => { x with present := true, msix := x.msix.ins 3 0 }).setRing 0 k fun _ => r).setBeat
    fun b => { b with ticks := ticks }
theorem wit_ring_enable : let v := setBit (0x6600 % 2 ^ 32) 31 true
    let s := ringState 4 {}
    s.live.bar0Serves 0 = true ∧ (s.live.ring 0 4).enable = false ∧ 6 ≤ bits v 8 4 ∧ bits v 8 4 ≤ 12 ∧ 6 ≤ bits v 12 4 ∧ bits v 12 4 ≤ 12 := by decide +kernel
theorem wit_ring_run : let r : Ring := { enable := true, active := true, cqLog2 := 6, sqLog2 := 6, sqTail := 1 }
    let s := ringState 4 r
    s.live.bar0Serves 0 = true ∧ s.live.ring 0 4 = r ∧ r.sizeBusy (setBit (0x6600 % 2 ^ 32) 31 false) = false ∧ hasSq 4 = true ∧ 63 < 2 ^ r.sqLog2 ∧
    2 ^ r.sqLog2 ≤ 64 ∧ r.cqSize ≤ 64 ∧ s.live.mode ≠ .freeze ∧ s.live.ringWorks 0 4 = true ∧ r.sqHeld ≠ 0 ∧ r.cqHeld + r.owed + 1 < r.cqSize ∧
    (s.live.ring 0 5).active = false := by decide +kernel
theorem wit_ring_head : let r : Ring := { enable := true, active := true, cqLog2 := 6, sqLog2 := 6, cqTail := 5, waits := [0, 0, 0, 0, 0] }
    5 < r.cqSize ∧ (5 + r.cqSize - r.cqHead) % r.cqSize = 5 ∧ 5 ≤ r.cqHeld ∧ r.waits.drop 5 = [] := by decide +kernel
theorem wit_ring_late : let r : Ring := { enable := true, active := true, cqLog2 := 6, sqLog2 := 6, cqTail := 1, waits := [1], irqEn := true, coalesce := 8 }
    let s := ringState 4 r 9
    s.live.ringWorks 0 4 = true ∧ s.live.ring 0 4 = r ∧ bits r.coalesce 0 16 = 8 ∧ 1 + 8 ≤ s.live.ticks ∧ (s.live.fn 0).flr = none ∧
    s.live.modes.recovery = false ∧ s.live.host.up = true ∧ (s.live.fn 0).fnMask = false ∧
    bit ((s.live.fn 0).msixWord (4 * vectorOf 0 r.vector + 3)) 0 = false := by decide +kernel

/-! LinkAndFunctionsComeAndGo -/

theorem wit_link_up : let s := inMode .configure
    s.live.host.up = false ∧ s.live.linkHeldDown = false ∧ s.live.mode.evaluates = true := by decide +kernel
/-- Function 3 present on a link that is up, with a change made to it. -/
def functionState (g : Fn → Fn) (ticks : Nat := 100) : State := inMode .service fun l =>
  ((l.setHost fun h => { h with up := true }).setFn 3 g).setBeat fun b => { b with ticks := ticks }
theorem wit_link_down : let s := functionState fun x => { x with present := true, watchdog := 50, alive := 49, vfEnable := true }
    s.live.host.up = true ∧ s.live.mode.evaluates = true ∧ s.live.bar0Serves 3 = true ∧ (s.live.fn 3).watchdog ≠ 0 ∧
    (s.live.fn 3).alive + (s.live.fn 3).watchdog < s.live.ticks ∧ (s.live.fn 3).present = true ∧ (s.live.fn 3).flr = none := by decide +kernel
theorem wit_flr : let s := functionState fun x => { x with flr := some 99 }
    let u := functionState fun x => { x with flr := some 91, cleaned := true }
    (s.live.fn 3).flr = some 99 ∧ (s.live.fn 3).cleaned = false ∧ 99 < s.live.ticks ∧ s.live.mode.evaluates = true ∧
    (u.live.fn 3).flr = some 91 ∧ (u.live.fn 3).cleaned = true ∧ 91 + 9 ≤ u.live.ticks := by decide +kernel

/-! EntriesCompleteAndLoadsRun -/

/-- A TX entry of 64 bytes on VLAN 7 for tenancy 0. -/
def txEntry : List Byte := List.replicate 8 0 ++ leBytes 2 64 ++ [0, 0] ++ leBytes 2 7 ++ [0, 0] ++ List.replicate 16 0
theorem wit_tx : let r : Ring := { enable := true, active := true, cqLog2 := 6, sqLog2 := 6, taken := [(0, txEntry)] }
    let s := ringState 5 r
    (s.live.ring 0 5).taken = [(0, txEntry)] ∧ s.live.ringWorks 0 5 = true ∧ leAt txEntry 8 2 = 64 ∧ leAt txEntry 12 2 = 7 ∧
    fieldAt txEntry 15 1 = 0 ∧ bit (fieldAt txEntry 10 1) 0 = false ∧ s.live.tnActive 0 = true ∧ s.live.vidOwner 7 = 0 := by decide +kernel
theorem wit_tx_denied : let e : List Byte := List.replicate 8 0 ++ leBytes 2 64 ++ [0, 0] ++ leBytes 2 7 ++ [0, 1] ++ List.replicate 16 0
    let s := ringState 5 { enable := true, active := true, cqLog2 := 6, sqLog2 := 6, taken := [(0, e)] }
    leAt e 8 2 = 64 ∧ leAt e 12 2 = 7 ∧ fieldAt e 15 1 = 1 ∧ bit (fieldAt e 10 1) 0 = false ∧ s.live.vidOwner 7 ≠ 1 ∧
    leAt ([] : List Byte) 8 2 < 60 := by decide +kernel
theorem wit_buffer : let r : Ring := { enable := true, active := true, cqLog2 := 6, sqLog2 := 6, taken := [(0, [1])] }
    let s := ringState 8 r
    (s.live.ring 0 8).taken = [(0, [1])] ∧ s.live.ringWorks 0 8 = true ∧ drainOp [1] = 1 := by decide +kernel
theorem wit_load : let s := ringState 11 { enable := true, active := true, cqLog2 := 6, sqLog2 := 6, sqTail := 1 }
    let e : List Byte := List.replicate 8 0 ++ [2, 1, 0, 0] ++ leBytes 4 5 ++ leBytes 4 3 ++ leBytes 4 9
    s.live.mayTake 0 11 = true ∧ s.live.loadTurn 0 = false ∧ s.live.tnActive 0 = true ∧ fieldAt (slice e 0 32) 8 1 = 2 ∧
    fieldAt (slice e 0 32) 9 1 = 1 ∧ leAt (slice e 0 32) 12 4 = 5 ∧ leAt (slice e 0 32) 16 4 = 3 ∧ 5 + 3 ≤ ctSize 2 ∧
    1 ≠ s.live.rd .ACTIVE_BANK 2 ∧ s.live.draining 2 = false := by decide +kernel
theorem wit_load_done : let x : Load := { fn := 0, table := 2, bank := 1, first := 5, count := 3, cookie := 9, pos := 3 }
    let s := ringState 11 { enable := true, active := true, cqLog2 := 6, sqLog2 := 6 }
    x.count ≤ x.pos ∧ s.live.ringWorks x.fn 11 = true ∧ (s.live.setHost fun h => { h with loads := [x] }).host.loads = [x] := by decide +kernel

/-! RegistersApertureAndRecoveryWindow -/

theorem wit_register : let s := ringState 4 {}
    s.live.host.up = true ∧ s.live.mode ≠ .bringup ∧ (s.live.fn 0).flr = none ∧ s.live.mode ≠ .decommissioned ∧ s.live.mode.evaluates = true ∧
    registerAt 0 0x2004 = some (0x2004, 4) ∧ 0x2004 + 4 ≤ barSize 0 ∧ registerAt 0 0x3C = none ∧ registerAt 0 0 = some (0, 4) := by decide +kernel
/-- Function 0 with its buffer window on a buffer it holds. -/
def apertureState : State := inMode .service fun l =>
  let a := (l.setHost fun h => { h with up := true }).alloc 8 64 0
  a.2.setFn 0 fun x => { x with winHandle := a.1.2 }
theorem wit_aperture : apertureState.live.host.up = true ∧ (apertureState.live.fn 0).flr = none ∧ apertureState.live.mode.engineOn = true ∧
    8 + 8 ≤ apertureSize 0 ∧ apertureState.live.apertureCheck 0 8 8 = bpmOk ∧
    (apertureState.live.buf (handleKey (apertureState.live.fn 0).winHandle)).poisoned 8 8 = false := by decide +kernel
theorem wit_recovery_image : let s := inMode .bringup fun l =>
      (l.setModes fun m => { m with recovery := true }).setHost fun h => { h with up := true, recoveryStatus := 2 }
    s.live.mode = .bringup ∧ s.live.modes.recovery = true ∧ s.live.host.up = true ∧ s.live.host.recoveryStatus = 2 := by decide +kernel

/-! KeepCopiesSegmentsAndHeartbeats -/

/-- Stream 6, of port 3, with an open segment at buffer 5. -/
def keepState (f : Live → Live := id) : State := inMode .service fun l =>
  f ((l.wr .STATE_1240 streamRolling 6).setSeg 5 fun _ => { stream := 6, state := segOpen, opened := 0, bytes := 64 })
theorem wit_keep : let s := keepState fun l => l.setPlane fun x => { x with
        frames := x.frames.put 1 (some { bytes := List.replicate 70 0, port := 3, refs := 1 })
        queues := x.queues.put (8 * 53) [{ frame := 1 }] }
    s.live.portServed 53 = true ∧
    (let r := (s.live.at 0).takeFrom 53
     let fr := r.1.getD default
     r.1.isSome ∧ 2 * fr.port + wKeepSlot fr.word = 6 ∧ streamWrites (r.2.rd .STATE_1240 6) = true ∧ fr.tn = r.2.streamTn 6 ∧
     r.2.openSeg 6 = some 5 ∧ (r.2.seg 5).bytes + recordSize (fr.bytes.length - 4) ≤ segSize) := by decide +kernel
theorem wit_keep_not : let s := keepState fun l => (l.wr .STATE_1240 streamPurged 6).setPlane fun x => { x with
        frames := x.frames.put 1 (some { bytes := List.replicate 70 0, port := 3, refs := 1 })
        queues := x.queues.put (8 * 53) [{ frame := 1 }] }
    (let r := (s.live.at 0).takeFrom 53
     let fr := r.1.getD default
     r.1.isSome ∧ 2 * fr.port + wKeepSlot fr.word = 6 ∧ streamWrites (r.2.rd .STATE_1240 6) = false) := by decide +kernel
theorem wit_old_segment : let s := keepState fun l => l.setBeat fun b => { b with ticks := 480000 }
    s.live.mode.running = true ∧ (s.live.seg 5).state = segOpen ∧ (s.live.seg 5).opened + 480000 ≤ s.live.ticks := by decide +kernel
/-- The probe engine on, with addresses, at a beat. -/
def probeState (f : Flannel → Flannel) : State := inMode .service fun l =>
  ((((l.wr .PROBE_ENABLE 1).wr .UNIT_IP 1).wr .COLLECTOR_IP 2).setFlannel f).setBeat fun b => { b with ticks := 9, elapsed := 0 }
theorem wit_check : let s := probeState id
    s.live.mode.running = true ∧ s.live.rdB .PROBE_ENABLE = true ∧ s.live.elapsed % max 1 (s.live.rd .PROBE_INTERVAL) = 0 ∧
    s.live.flannel.ranFrom < s.live.ticks ∧ s.live.flannel.lastCheck = none ∧ s.live.probeBlind = false := by decide +kernel
theorem wit_check_missed : let s := probeState fun x => { x with lastCheck := some 1 }
    s.live.flannel.lastCheck = some 1 ∧ 1 ≠ s.live.ticks ∧ s.live.flannel.beaten = false ∧ s.live.flannel.ranFrom < s.live.ticks := by decide +kernel
theorem wit_send : let s := probeState fun x => { x with sendAt := some 9 }
    let u := probeState fun x => { x with sendAt := some 9, probed := some 9 }
    s.live.flannel.sendAt = some 9 ∧ 9 ≤ s.live.ticks ∧ s.live.flannel.probed ≠ some s.live.ticks ∧ s.live.flannel.probeQueue = [] ∧
    s.live.rd .LINK_JUDGEMENT ≠ 1 ∧ s.live.probeBlind = false ∧ u.live.flannel.probed = some u.live.ticks := by decide +kernel
theorem wit_reply : let s := inMode .service fun l => let m := (l.wr .PROBE_SEQ 7).wr .COLLECTOR_IP 2; { m with store := m.store.ins (Obj.key .SERIAL 0 0 0) 0 }
    let p : List Byte := u8 0x13 ++ List.replicate 3 0 ++ u32 7 ++ List.replicate 8 0 ++ beBytes 12 0 ++ List.replicate 4 0
    s.live.mode.engineOn = true ∧ s.live.flannel.probed ≠ some s.live.ticks ∧ s.live.replyValid 48 2 p = true ∧
    s.live.replyValid 3 2 p = false := by decide +kernel

/-! SegmentsReturnAndAreSentAgain -/

/-- Function 2 with its drain ring working and a buffer posted; tenancy 2 active. -/
def drainState (f : Live → Live) : State := inMode .service fun l =>
  let l1 := (l.setHost fun h => { h with up := true }).wr .TN_STATE 1 2
  f ((l1.setFn 2 fun x => { x with present := true, buffers := [4096], rings := x.rings.put 8 ({ enable := true, active := true, cqLog2 := 6, sqLog2 := 6, taken := [(0, u8 2 ++ List.replicate 3 0 ++ leBytes 4 77 ++ leBytes 8 3)] }) }).setBeat
    fun b => { b with ticks := 90000000 })
theorem wit_offer_block : let b : ExportBlock := { tn := 2, number := 0, bytes := [1], handle := 9, length := 1 }
    let s := drainState fun l => l.setFlannel fun x => { x with blocks := [b] }
    s.live.mode.running = true ∧ s.live.ringWorks 2 8 = true ∧ (s.live.fn 2).flr = none ∧ (s.live.fn 2).buffers ≠ [] ∧ s.live.tnActive 2 = true ∧
    s.live.offersTo 2 < s.live.rd .DRAIN_WINDOW 0 0 2 ∧
    (s.live.flannel.blocks.find? fun b => b.tn == 2 && b.handle != 0 && b.offer == none) = some b := by decide +kernel
theorem wit_offer_segment : let s := drainState fun l => (l.wr .RETURN_PATH 1 0 0 2).setSeg 5 fun _ => { tn := 2, state := segRetained, committed := true }
    s.live.offersTo 2 < s.live.rd .DRAIN_WINDOW 0 0 2 ∧ (s.live.flannel.blocks.find? fun b => b.tn == 2 && b.handle != 0 && b.offer == none) = none ∧
    s.live.returnPath 2 = 1 ∧ s.live.returnOrder 2 = [5] := by decide +kernel
theorem wit_ack : let s := drainState fun l => l.setSeg 5 fun _ => { tn := 2, state := segReturning, offer := some (2, 0), handle := 77, closeBeat := 3 }
    let e : List Byte := u8 2 ++ List.replicate 3 0 ++ leBytes 4 77 ++ leBytes 8 3
    ((s.live.ring 2 8).taken.find? fun e => drainOp e.2 == 2 && decide (e.1 < s.live.ticks)) = some (0, e) ∧
    (s.live.segsWhere (ackNames 2 e)).head? = some 5 := by decide +kernel
theorem wit_offer_late : let s := drainState fun l => l.setSeg 5 fun _ => { tn := 2, state := segReturning, offer := some (2, 0), handle := 78, closeBeat := 3 }
    s.live.mode.engineOn = true ∧ (s.live.seg 5).state = segReturning ∧
    s.live.offerLate (s.live.seg 5).tn (s.live.seg 5).handle (s.live.seg 5).closeBeat (s.live.seg 5).offer = true := by decide +kernel
/-- Segment 5 of VLAN 0's owner, being sent, with one record of one byte. -/
def sendState (f : Flannel → Flannel) (g : Segment) : State := inMode .service fun l =>
  ((l.bufWrite (bufKey 5 5) 0 ([0, 1] ++ List.replicate 14 0 ++ [7]) false).setSeg 5 fun _ => g).setFlannel f
theorem wit_send_one : let s := sendState (fun x => { x with sending := some 5 }) { state := segReturning, frames := 1, bytes := 24, piece := 1400, datagrams := 1 }
    s.live.mode.running = true ∧ s.live.flannel.lost = false ∧ s.live.flannel.holdBackfill = false ∧ 0 ≤ s.live.backfillCredit ∧
    s.live.flannel.sending = some 5 ∧ s.live.backfillVlan (s.live.seg 5).tn = true ∧ ((s.live.datagrams 5)[(s.live.seg 5).sent]?).isSome := by decide +kernel
theorem wit_send_next : let s := sendState id { state := segReturning, frames := 1, bytes := 24 }
    s.live.flannel.sending = none ∧ s.live.nextSend = some 5 ∧ 0 ≤ s.live.backfillCredit := by decide +kernel
theorem wit_resend : let s := (sendState id { state := segReturning, sentAt := some 0 })
    let u := { s with live := s.live.setBeat fun b => { b with ticks := 10 ^ 9 } }
    u.live.mode.running = true ∧ (u.live.seg 5).sends = true ∧ (u.live.seg 5).sentAt = some 0 ∧ 0 + u.live.rd .BACKFILL_ACK_TIMEOUT ≤ u.live.ticks := by decide +kernel
theorem wit_export : let s := inMode .service
    let u := { s with start := s.start.setSeg 5 fun _ => { tn := 2, state := segRetained } }
    s.live.mode.engineOn = true ∧ s.live.rdB .EXPORT_BUSY 0 0 2 = false ∧ (∃ e ∈ u.start.flannel.segs, e.2.tn = 2 ∧ e.2.state ≠ segFree) ∧
    (∀ e ∈ s.start.flannel.segs, ¬ (e.2.tn = 2 ∧ e.2.state ≠ segFree)) := by decide +kernel

/-! ArmedChangesTakeOver -/

theorem wit_change : let s := inMode .service fun l => (l.wr .PENDING_LENGTH 2 3).setBeat fun b => { b with halfNs := 2000000000 }
    s.live.mode.gates = true ∧ s.live.ptpNs < (s.live.ptpNs + 50000) % 2 ^ 64 / 8 * 8 ∧ s.live.ptpNs % 2 ^ 64 / 8 * 8 ≤ s.live.ptpNs ∧
    s.live.rd .PENDING_LENGTH 3 = 2 ∧ s.live.rd .CHANGE_STATE 3 ≠ 1 := by decide +kernel
theorem wit_armed : let s := inMode .service fun l => (((l.wr .CHANGE_STATE 1 3).wr .ARMED_TIME 1000000000 3).setPort 3 fun x => { x with armed := (2, 4096) }).setBeat fun b => { b with halfNs := 2 * 999950000 }
    s.live.mode.gates = true ∧ s.live.rd .CHANGE_STATE 3 = 1 ∧ s.live.rd .ARMED_TIME 3 < s.live.ptpNs + 125000 := by decide +kernel

/-! EngineJobsRunAndComplete -/

/-- A compression descriptor: raw, level 1, one extent of 8 bytes of the buffer named, up to 64 bytes out. -/
def compDesc (op h : Nat) : List Byte :=
  leBytes 4 1 ++ u8 op ++ u8 0 ++ u8 (1 - op) ++ u8 1 ++ leBytes 4 64 ++ List.replicate 52 0 ++ leBytes 4 h ++ leBytes 4 0 ++ leBytes 4 8 ++ List.replicate 180 0
/-- A mover descriptor: rows of 8 bytes from the start of the buffer named to its offset 64. -/
def copyDesc (op h rows stride : Nat) : List Byte :=
  leBytes 4 1 ++ u8 op ++ u8 0 ++ List.replicate 2 0 ++ leBytes 4 h ++ leBytes 4 0 ++ leBytes 4 h ++ leBytes 4 64 ++ leBytes 4 8 ++ leBytes 4 rows ++
    leBytes 4 stride ++ leBytes 4 stride ++ List.replicate 24 0
theorem wit_job_in : let s := inMode .service fun l => (((l.setHost fun h => { h with up := true }).setRing 2 9 fun r => { r with taken := [(0, compDesc 0 0)] }).setRing 2 10 fun r => { r with taken := [(0, copyDesc 0 0 1 0)] }).setFlannel fun x => { x with blocks := [{ tn := 2, number := 0, bytes := [1], handle := 0, length := 1 }] }
    s.live.mode.engineOn = true ∧ s.live.comp.queue.length < 16 ∧ (s.live.engine 1).queue.length < 16 ∧ s.live.turnOver 0 0 = false ∧ s.live.turnOver 1 0 = false ∧
    s.live.turnOver 0 1 = false ∧ s.live.turnOver 0 4 = false ∧ s.live.turnOver 1 4 = false ∧ s.live.compHeld = false ∧
    (s.live.ring 2 9).taken = (0, compDesc 0 0) :: [] ∧ (s.live.ring 2 10).taken = (0, copyDesc 0 0 1 0) :: [] ∧
    (s.live.flannel.blocks.find? fun b => !b.admitted).isSome = true := by decide +kernel
/-- A machine whose engines hold a job each, and own buffer 0. -/
def engineState (c m : Job) : State := inMode .service fun l =>
  { ((l.wr .MAX 10 1 0).setBpm fun x => { x with bufs := [(0, { owners := [1, 2], final := 2, gen := 0, data := [1, 2, 3] })] }) with comp := { queue := [c] }, mover := { queue := [m] } }
theorem wit_bad_desc (op : Fin 2) : let j : Job := { source := 0, desc := compDesc (2 + op.val) 0 }
    let s := engineState j j
    s.live.comp.queue = j :: [] ∧ j.start = none ∧ compBad j.desc = true ∧ fieldAt j.desc 4 1 ≠ 1 := by revert op; decide +kernel
theorem wit_comp (op : Fin 2) : let j : Job := { source := 0, desc := compDesc op.val 0 }
    let s := engineState j j
    s.live.mode.engineOn = true ∧ s.live.comp.queue = j :: [] ∧ j.start = none ∧ compBad j.desc = false ∧ compBounds (compExtents j.desc) = true ∧
    fieldAt j.desc 4 1 = op.val ∧ (s.live.allocAll 1 j.tn (outSizes (outLimit j.desc)) []).1.1 = bpmOk := by revert op; decide +kernel
theorem wit_copies (op : Fin 2) : let j : Job := { source := 0, desc := copyDesc op.val 0 (1 + op.val) (op.val * 16) }
    let s := engineState j j
    let m := moveDesc j.desc
    s.live.mover.queue = j :: [] ∧ j.start = none ∧ moveBad j.desc = false ∧ (m.rows = 1 ∨ m.len ≤ m.srcStride ∧ m.len ≤ m.dstStride) ∧
    s.live.checkHandle 2 m.src none = bpmOk ∧ s.live.checkHandle 2 m.dst none = bpmOk ∧ m.srcOff + m.srcSpan ≤ poolSize (handlePool m.src) ∧
    m.dstOff + m.dstSpan ≤ poolSize (handlePool m.dst) ∧ m.overlaps = false ∧ fieldAt j.desc 4 1 = op.val := by revert op; decide +kernel
theorem wit_job_end : let j : Job := { source := 0, desc := compDesc 0 0, result := some {} }
    let s := engineState j j
    s.live.mode.engineOn = true ∧ s.live.comp.queue = j :: [] ∧ s.live.mover.queue = j :: [] ∧ j.result = some {} := by decide +kernel
theorem wit_job_post (e : Fin 2) (k : Fin 2) : let j : Job := { source := k.val, desc := compDesc 0 0, result := some {} }
    let s := inMode .service fun l => { l.setBeat (fun b => { b with ticks := 1 }) with comp := { ended := [j] }, mover := { ended := [j] } }
    s.live.mode.engineOn = true ∧ (s.live.engine e.val).ended.find? (s.live.mayPost e.val) = some j := by revert e k; decide +kernel
theorem wit_job_post_ring (e : Fin 2) : let j : Job := { source := 2, desc := compDesc 0 0, result := some {} }
    let s := ringState (9 + e.val) { enable := true, active := true, cqLog2 := 6, sqLog2 := 6 } 1
    let u := { s with live := { s.live with comp := { ended := [j] }, mover := { ended := [j] } } }
    u.live.mode.engineOn = true ∧ (u.live.engine e.val).ended.find? (u.live.mayPost e.val) = some j := by revert e; decide +kernel

/-! ReceiversConvertersAndTransmitters -/

/-- Receiver 1 enabled, in a state, in SERVICE. -/
def rxState (st : Nat) (f : Live → Live := id) : State := inMode .service fun l => f ((l.wr .ENABLE_1510 1 1).wr .LOCK_STATE st 1)
theorem wit_rx_line (st : Fin 3) : (rxState st.val).live.rxRuns 1 = true ∧ (rxState st.val).live.rxSensed 1 = st.val ∧ rateWithin 3 48100 = true := by
  revert st; decide +kernel
theorem wit_subframe : (rxState 2).live.rxRuns 1 = true ∧ (rxState 2).live.rxLocked 1 = true ∧ (rxState 2).live.mode.evaluates = true ∧
    (rxState 2).live.mode ≠ .freeze ∧ (rxState 2).live.rd .VALIDITY_POLICY ≠ 1 ∧
    (rxState 2 fun l => l.wr .VALIDITY_POLICY 1).live.rd .VALIDITY_POLICY = 1 := by decide +kernel
theorem wit_status_block : let good : List Byte := List.replicate 24 0
    let bad : List Byte := 1 :: List.replicate 23 0
    bit (blockByte (beVal (slice good 0 24)) 0) 0 = false ∧ bit (blockByte (beVal (slice bad 0 24)) 0) 0 = true ∧
    csCrc (slice bad 0 24) ≠ blockByte (beVal (slice bad 0 24)) 23 ∧
    (let own : List Byte := bad.take 23 ++ [byte (csCrc bad)]
     csCrc (slice own 0 24) = blockByte (beVal (slice own 0 24)) 23) := by decide +kernel
theorem wit_slip (high : Bool) : let xs : List Int := List.replicate (if high then 61 else 3) 0
    let s := rxState 2 fun l => (((l.setAesRx 1 fun x => { x with fifoA := xs }).setAesTx 1 fun x => { x with fifoA := xs }).wr .ENABLE_1520 1 1)
    s.live.rxRuns 1 = true ∧ s.live.rxLocked 1 = true ∧ s.live.matrixRuns = true ∧ s.live.rdB .ENABLE_1520 1 = true ∧
    (if high then 60 < (s.live.audio.rx.get 1).fifoA.length else (s.live.audio.rx.get 1).fifoA.length < 4) ∧
    (if high then 60 < (s.live.audio.tx.get 1).fifoA.length else (s.live.audio.tx.get 1).fifoA.length < 4) := by revert high; decide +kernel
theorem wit_ramp_in : let s := rxState 2 fun l => l.setSource 3 fun x => { x with good := 2 }
    s.live.audioClass ≠ 0 ∧ s.live.audio.slot = 0 ∧ 2 ≤ (s.live.source 3).good ∧ (s.live.source 3).fade.state = 0 := by decide +kernel

/-! SlotsPacketsAndTheSpotterRun -/

theorem wit_slots : (inMode .service).live.audio.slot < 6 ∧ (inMode .service).live.audioClass ≠ 0 ∧ (inMode .wipe).live.audioClass = 0 := by decide +kernel
theorem wit_packet_out : let s := inMode .service fun l => l.wr .ENABLE_1550 1 2
    s.live.outDue 2 = true ∧ (∀ j, j < 2 → s.live.outDue j = false) ∧ s.live.packetsHeld = false ∧
    (inMode .service fun l => (l.wr .ENABLE_1550 1 2).wr .BACK_PRESSURE 1 0).live.packetsHeld = true := by decide +kernel
/-- An AAF packet of one channel with six samples, due 250 us after the epoch. -/
def aafFrame : List Byte :=
  List.replicate 12 0 ++ u16 0x22F0 ++ u8 0x02 ++ u8 0x81 ++ u8 7 ++ u8 0 ++ leBytes 8 0 ++ u32 250000 ++ u8 0x03 ++ u16 (5 * 2 ^ 12 + 1) ++ u8 24 ++ u16 18 ++ u8 0 ++ u8 0 ++
    List.replicate 18 1
/-- Port M holds a frame; stream 2 is enabled or not. -/
def portM (on : Nat) : State := inMode .service fun l => (((l.wr .IN_ENABLE on 2).wr .IN_CHANNELS 1 2).wr .MAX 10 3 0).setPlane fun x => { x with frames := x.frames.put 1 (some { bytes := aafFrame, refs := 1, port := 3 }), queues := x.queues.put (8 * 55) [{ frame := 1 }] }
theorem wit_packet_not : let s := portM 0
    let r := (s.live.at 0).takeFrom 55
    s.live.mode.running = true ∧ r.1.isSome = true ∧ (r.1.getD default).port = 3 ∧ r.2.streamFor (r.1.getD default) (parse (r.1.getD default).bytes) = none := by decide +kernel
theorem wit_packet_in : let s := portM 1
    let r := (s.live.at 0).takeFrom 55
    let f := r.1.getD default
    let m := (r.2.streamFor f (parse f.bytes)).getD default
    let p := m.2
    let w := (((r.2.setSource 10 fun x => { x with seq := some p.seq }).when (match (r.2.source 10).seq with | some q => p.seq != (q + 1) % p.wrap | none => false) fun l => l.count .SEQ_GAPS 1 2).blk 22 .eventsIn 1 2)
    r.1.isSome = true ∧ (r.2.streamFor f (parse f.bytes)).isSome = true ∧ m.1 = 2 ∧ f.poisoned = false ∧ (w.audio.slot : Int) ≤ p.slot 0 ∧
    p.slot (p.pcm.length / (3 * (r.2.inSources 2).length) - 1) ≤ (w.audio.slot : Int) + 1536 ∧ w.packetsHeld = false ∧
    (w.alloc 3 p.pcm.length (r.2.rd .IN_TENANCY 2)).1.1 = 0 := by decide +kernel
theorem wit_feature : let s := inMode .service fun l => l.wr .ENABLE_1560 1 1
    s.live.audioClass ≠ 0 ∧ s.live.elapsed % 80 = 0 ∧ s.live.rdB .ENABLE_1560 1 = true ∧ (s.live.spotter 1).framed ≠ some s.live.ticks ∧
    (∀ j, j < 1 → s.live.rdB .ENABLE_1560 j = false ∨ (s.live.spotter j).framed = some s.live.ticks) := by decide +kernel

/-! DeliveredFramesFillAReceiveBuffer -/

theorem wit_delivered : let s := inMode .service fun l =>
      (l.setHost fun h => { h with fns := h.fns.upd 2 fun f => { f with present := true, rings := f.rings.upd 0 fun r => { r with active := true, sqTail := 3, sqLog2 := 4, cqLog2 := 4 } } }).setPlane fun x => { x with frames := x.frames.put 1 (some { bytes := List.replicate 70 0, word := 2 * 2 ^ 61, refs := 1 }), queues := x.queues.put (8 * 54) [{ frame := 1 }] }
    s.live.mode.running = true ∧
    (let r := (s.live.at 0).takeFrom 54
     let fr := r.1.getD default
     r.1.isSome ∧ fr.tn = 2 ∧ (r.2.fn fr.tn).flr = none ∧ (r.2.fn fr.tn).present = true ∧ bits (r.2.fn fr.tn).rxMap (2 * fr.tc) 2 = 0 ∧
      (r.2.ring fr.tn 0).active = true ∧ (r.2.ring fr.tn 0).sqHeld ≠ 0 ∧ (r.2.ring fr.tn 0).cqFull = false ∧
      (body fr.bytes).length ≤ leAt [0, 0, 0, 0, 0, 0, 0, 0, 66, 0] 8 2) := by decide +kernel

/-! ### Ill-formed commands are refused -/

def aReq : Req := { id := 1, index := 0x0101, sub := 1 }

theorem test_wf_boundary : ([{ fill0 := 101 }, { fill4 := 101 }, { cans := [3] }, { cans := [0, 0, 0] }, { numVfs := 8 },
    { masters := 256 }, { fnMasks := 256 }, { channels := List.replicate 3 default }, { dramPorts := List.replicate 7 default }] :
    List BoundaryInputs).all (fun i => !Instr.wf (.beatBoundary i) && !Instr.wf (.beatPtpLocked 0 0 i)
      && !Instr.wf (.beatSlewDone i) && !Instr.wf (.beatOriginSet i)) = true := by decide
theorem test_wf_request : ([{ aReq with id := 65536 }, { aReq with index := 65536 }, { aReq with sub := 256 }] : List Req).all
    (fun r => !Instr.wf (.read 0 r) && !Instr.wf (.write 0 r) && !Instr.wf (.writeAtBeat 0 r) && !Instr.wf (.command 0 r)
      && !Instr.wf (.segmentInit 0 r) && !Instr.wf (.segment 0 r) && !Instr.wf (.notifyRequest 0 r)) = true := by decide
theorem test_wf_payload : Req.wf { aReq with payload := List.replicate 1025 0 } = false := by decide +kernel
theorem test_wf_announce : let a : AnnounceMsg := default
    ([{ a with domain := 256 }, { a with transport := 3 }, { a with priority1 := 256 }, { a with clockClass := 256 },
      { a with accuracy := 256 }, { a with variance := 65536 }, { a with priority2 := 256 }, { a with identity := 2 ^ 64 },
      { a with sender := 2 ^ 64 }, { a with stepsRemoved := 65536 }, { a with timeSource := 256 }] : List AnnounceMsg).all
      (fun m => !Instr.wf (.ptpAnnounceReceived 0 m)) = true := by decide
theorem test_wf_clock : ([.ptpSyncReceived 48 256 0 0, .ptpSyncReceived 48 0 3 0, .beatPtpLocked (2 ^ 64) 0 {},
    .changeTime 0 (2 ^ 64), .gateEntryStart 0 250000] : List Instr).all (fun i => !i.wf) = true := by decide
theorem test_wf_can : ([.canFrameIgnored 0 { id := 2048 }, .canFrameIgnored 0 { id := 2 ^ 29, extended := true },
    .canFrameIgnored 0 { id := 1, data := List.replicate 65 0 }, .canErrorStateChange 0 512 0, .canErrorStateChange 0 0 256,
    .rollcallAnswer 0 0 (List.replicate 65 0)] : List Instr).all (fun i => !i.wf) = true := by decide +kernel
theorem test_wf_life : ([.lcCommission (2 ^ 32), .lcDecommission (2 ^ 32), .lcVendorReset (2 ^ 32) (List.replicate 64 0),
    .lcVendorReset 0 []] : List Instr).all (fun i => !i.wf) = true := by decide
theorem test_wf_unit : ([.psuInserted 0 false 0 0 0 (256 ^ 16), .pseControllerFault (2 ^ 48), .pseControllerFaultClear (2 ^ 48),
    .fanEvaluation [], .gpioSample 65536, .clear 0 0 (2 ^ 32), .unmask 0 0 (2 ^ 32)] : List Instr).all (fun i => !i.wf) = true := by
  decide
theorem test_wf_module : ([.moduleIdentify 0 true (List.replicate 97 0), .moduleDdmRead 0 (List.replicate 11 0) [],
    .moduleDdmRead 0 [] (List.replicate 5 0)] : List Instr).all (fun i => !i.wf) = true := by decide +kernel
theorem test_wf_ports : ([.frameReceived 0 [] false false 62 0 0, .frameReceived 0 [] false false 0 250000 0,
    .pfcFrameReceived 0 256 (List.replicate 8 0), .pfcFrameReceived 0 0 [], .pfcFrameReceived 0 0 (List.replicate 8 65536),
    .lldpduReceived 0 (2 ^ 48) [], .frameTxDone 0 250000 none, .inbandRequest 0 [], .flush 0 256, .histClear 0 256] :
    List Instr).all (fun i => !i.wf) = true := by decide
theorem test_wf_lldp : Instr.wf (.lldpduReceived 0 0 (List.replicate 1501 0)) = false := by decide +kernel
theorem test_wf_inband : frameSize (List.replicate 9225 0) = false := by unfold frameSize; rw [List.length_replicate]; decide
theorem test_wf_tables : ([.twillSwap 0, .twillSwap 16, .arpNdReceived 0 4096 default,
    .arpNdReceived 0 0 { (default : ArpNd) with ip6 := false, sender := 2 ^ 32 },
    .arpNdReceived 0 0 { (default : ArpNd) with ip6 := true, target := 2 ^ 128 },
    .arpNdReceived 0 0 { (default : ArpNd) with mac := 2 ^ 48 }, .snoopReport 0 4096 false [] [], .snoopLeave 0 4096 false 0,
    .snoopQuery 0 4096 []] : List Instr).all (fun i => !i.wf) = true := by decide
theorem test_wf_buffers : ([.share 0 (2 ^ 32) 0 false, .release 0 (2 ^ 32), .free 0 (2 ^ 32), .zeroFillDone 0 8192,
    .apertureRead 0 2 4, .apertureRead 0 0 2, .apertureRead 0 0 0, .apertureWrite 0 2 [0, 0, 0, 0] false,
    .apertureWrite 0 0 [0] false, .apertureWrite 0 0 [] false] : List Instr).all (fun i => !i.wf) = true := by decide
theorem test_wf_host : ([.jobAdmit 0 0 [], .ringEnable 0 0 (2 ^ 32), .ringDisable 0 0 (2 ^ 32), .sqTailWrite 0 0 (2 ^ 32),
    .cqHeadWrite 0 0 (2 ^ 32), .sqEntryTake 0 0 (List.replicate 257 0), .registerWrite 0 2 [0, 0, 0, 0] false,
    .registerWrite 0 0 [] false] : List Instr).all (fun i => !i.wf) = true := by decide +kernel
theorem test_wf_audio : ([.aesCsChange 0 false [] [], .sampleSlot [] 65536] : List Instr).all (fun i => !i.wf) = true := by decide

/-! ### Small tests -/

/-- No row of the table gives bits, so no word spells a command. -/
theorem test_no_words : decodeTableWord 8 0 = none ∧ State.reset.withFetchWord 8 0 = State.reset := ⟨rfl, rfl⟩
/-- A step takes the front command and leaves the rest. -/
theorem test_step_front : (match step { State.reset with pending := [.versionRetire, .settle] } with
    | .next t => t.pending | _ => []) = [.settle] := by decide +kernel
/-- M of R247 at the default half-life of 15 s is floor(65,536 × 2^(−1/15)). -/
theorem test_decay_factor : decayFactor 15 = 62576 := by decide +kernel


end Sys2Proof
end

/-! The scope of the machine: what reset leaves, and the form that every step keeps. -/

namespace Sys2Proof

open Machine

/-! ### Reset -/

/-- The one cell that reset lists is the life-cycle state. -/
theorem reset_store : State.reset.live.store = [(Obj.key .LC_STATE 0 0 0, 2)] := rfl

/-- A cell that reset does not list reads as the catalogue says. -/
theorem reset_rd {o : Obj} {i k t : Nat} (h : o.key i k t ≠ Obj.key .LC_STATE 0 0 0) :
    State.reset.live.rd o i k t = o.defaultAt i k t := by
  simp only [Live.rd, reset_store, Tbl.find?, if_neg h, Option.getD_none]

/-- Settles O19: the store lists one cell, and every other part of the machine is empty or at its first value. -/
theorem resetIsTheFirstBeatOfBringup : Obligations.ResetIsTheFirstBeatOfBringup := by
  have guarantees : State.reset.live.rd .GUARANTEES = 0 := reset_rd (by decide)
  have tidy : State.reset.live.tidy := Tbl.sorted_of_above (b := 0) ⟨by decide, trivial⟩
  exact ⟨rfl, rfl, rfl, rfl, rfl, guarantees, rfl, rfl, rfl, tidy, fun _ _ _ _ => reset_rd⟩

/-! ### The queue -/

/-- On an empty queue the block idles. -/
theorem step_idle {s : State} (h : s.pending = []) : step s = .next s := by
  simp only [step, h]

/-- The command at the front of the queue runs with the rest of the queue. -/
theorem step_front {s : State} {c : Instr} {rest : List Instr} (h : s.pending = c :: rest) :
    step s = exec c { s with pending := rest } := by
  simp only [step, h]

/-- Settles O20: an idle step changes nothing, and the command of any other step keeps the order of the cells, the rest of
the queue and both counts (`q_exec`). -/
theorem everyStepKeepsTheDictionaryInOrder : Obligations.EveryStepKeepsTheDictionaryInOrder := by
  intro s live_tidy start_tidy
  cases hq : s.pending with
  | nil => exact ⟨s, step_idle hq, live_tidy, start_tidy, hq, Nat.le_refl _, Nat.le_refl _⟩
  | cons c rest =>
    obtain ⟨t, ran, kept⟩ := q_exec c { s with pending := rest } live_tidy start_tidy
    exact ⟨t, (step_front hq).trans ran, kept⟩

end Sys2Proof

namespace Sys2Proof

open Machine

/-! ### Boundaries -/

/-- Settles O1: each boundary hands phase 1 a way of numbering (`q_boundary`), whose counts `q_plain` and
`numberAligned_clock` give; the reports before it change neither the beat nor the settings that it reads. -/
theorem boundariesNumberTheBeat : Obligations.BoundariesNumberTheBeat := by
  refine ⟨fun s inp on => ?_, fun s inp on slewing last untaken unaligned => ?_,
    fun s inp on taken unaligned undue => ?_, fun s t0 cycles inp on aligning => ?_⟩
  · obtain ⟨t, ran, queue, start, ticks, number, elapsed⟩ := q_boundary s inp (Live.numberPlain inp.drift.val) on (q_plain s _)
    refine ⟨t, ran, queue, start, ticks, ?_⟩
    rw [number, elapsed]
    split <;> exact ⟨rfl, rfl⟩
  · have plain := q_plain s inp.drift.val
    simp only [untaken, Bool.false_eq_true, false_and, if_false] at plain
    obtain ⟨t, ran, queue, start, ticks, number, elapsed⟩ := q_boundary s inp _ on plain
    exact ⟨t, (if_pos ⟨slewing, last, by simp [untaken], by simp [unaligned]⟩).trans ran, queue, start, ticks, number, elapsed⟩
  · have struck := q_plain s inp.drift.val
    simp only [taken, unaligned, undue, and_self, if_true] at struck
    obtain ⟨t, ran, queue, start, ticks, number, elapsed⟩ := q_boundary s inp _ on struck
    exact ⟨t, (if_pos taken).trans ran, queue, start, ticks, number, elapsed⟩
  · obtain ⟨t, ran, queue, start, ticks, number, elapsed⟩ :=
      q_boundary s inp (fun l => l.numberAligned (t0 % 2 ^ 64) cycles) on
        fun l beat _ => (Live.numberAligned_clock l _ _).trans (by rw [beat, Nat.mod_mod])
    exact ⟨t, (if_pos aligning).trans ran, queue, start, ticks, elapsed, number⟩

/-! ### Every command -/

/-- Settles O18: the two cases of `step`, by `step_front` and `step_idle`. -/
theorem stepRunsTheFrontCommand : Obligations.StepRunsTheFrontCommand :=
  ⟨fun _ _ _ => step_front rfl, fun _ => step_idle⟩

/-- Settles O21: `exec_ends` for a command between boundaries, `exec_ends_beat` for a boundary. -/
theorem commandsKeepToTheirParts : Obligations.CommandsKeepToTheirParts := by
  refine ⟨fun c s between => ?_, fun c s boundary => ?_⟩
  · obtain ⟨t, ran, kept, queue, start⟩ := exec_ends c s between
    exact ⟨t, ran, start, queue, kept.same⟩
  · obtain ⟨t, ran, _, queue, start⟩ := exec_ends_beat c s boundary
    exact ⟨t, ran, queue, start⟩

/-- A boundary command is among those that move the mode and among those that renumber. -/
theorem boundary_moves {c : Instr} (boundary : Instr.boundary c = true) : Instr.movesMode c = true ∧ Instr.renumbers c = true := by
  cases c with
  | beatBoundary | beatPtpLocked | beatSlewDone | beatOriginSet => exact ⟨rfl, rfl⟩
  | _ => exact Bool.noConfusion boundary

/-- Settles O22: a command that is neither a boundary nor named does not touch the part (`q_touches`), so the part agrees
before and after. -/
theorem onlyTheseCommandsMoveModeAndBeat : Obligations.OnlyTheseCommandsMoveModeAndBeat := by
  intro c s t ran
  cases between : Instr.boundary c with
  | true => exact ⟨fun _ => (boundary_moves between).1, fun _ => (boundary_moves between).2⟩
  | false =>
    obtain ⟨untouched_mode, untouched_clock⟩ := q_touches c
    obtain ⟨u, ran', kept, -, -⟩ := exec_ends c s between
    obtain rfl : t = u := Host.Outcome.next.inj (ran.symm.trans ran')
    refine ⟨fun moved => ?_, fun moved => ?_⟩
    · by_contra unnamed
      exact moved (kept.mode_eq (untouched_mode (Bool.eq_false_of_not_eq_true unnamed)))
    · by_contra unnamed
      obtain ⟨number, -, elapsed⟩ := kept.same .clock (untouched_clock (Bool.eq_false_of_not_eq_true unnamed))
      exact moved.elim (· number.symm) (· elapsed.symm)

end Sys2Proof

namespace Sys2Proof

open Machine

/-! ### Where events are evaluated -/

/-- Where events are evaluated an occurrence that arises changes the events alone. -/
theorem raise_keeps_events {l : Live} (ev : l.mode.evaluates = true) (src : Nat) (data : List Byte) (tn : Nat) :
    Keeps [.events] l (l.raise src data tn) := by
  rw [Live.raise_eq ev]; exact .events (.refl _ l) rfl

/-- An occurrence raised where events are evaluated and none arose before it, in the beat at hand, is the one of the command. -/
theorem arose_raise {a l : Live} (ev : l.mode.evaluates = true) (events : l.events = a.events) (now : l.now = a.now)
    (src : Nat) (data : List Byte) (tn : Nat) : a.arose (l.raise src data tn) [a.occ src data tn] := by
  rw [Live.raise_eq ev]
  simp only [Live.arose, Live.occ, events, now]

/-- A command whose outcome is known, with what that outcome keeps of the machine before it. -/
theorem exec_to (c : Instr) (s : State) {m : List Part} {y x : Live} (runs : exec c s = .next (s.withLive y)) (outcome : y = x)
    (kept : Keeps m s.live x) : ∃ t, exec c s = .next t ∧ s.only m t ∧ t.live = x := by
  subst outcome; exact ⟨_, runs, ⟨rfl, rfl, kept.same⟩, rfl⟩

/-- A command between boundaries whose outcome is known changes only what it touches. -/
theorem exec_touches (c : Instr) (s : State) {y x : Live} (runs : exec c s = .next (s.withLive y)) (outcome : y = x)
    (between : Instr.boundary c = false) : ∃ t, exec c s = .next t ∧ s.only (touches c) t ∧ t.live = x := by
  subst outcome
  obtain ⟨t, ran, kept, queue, start⟩ := exec_ends c s between
  obtain rfl : t = s.withLive y := Host.Outcome.next.inj (ran.symm.trans runs)
  exact ⟨_, ran, ⟨start, queue, kept.same⟩, rfl⟩

/-- A command whose outcome is the machine as it was answers the state as it was. -/
theorem exec_idle (c : Instr) (s : State) {y : Live} (runs : exec c s = .next (s.withLive y)) (idle : y = s.live) :
    exec c s = .next s := by
  subst idle; exact runs

/-! ### Messages of PTP -/

/-- What the committed offset reads as: the clamp of R54 lies within a signed word of 32 bits. -/
theorem rdI_wrI_clamp (l : Live) {lo hi : Int} (h1 : -2147483648 ≤ lo) (h2 : hi ≤ 2147483647) (cross : lo ≤ hi) (v : Int)
    {o : Obj} (word : o.len = 4) (i k t : Nat) : (l.wrI o (clampI lo hi v) i k t).rdI o i k t = clampI lo hi v := by
  have bounds : lo ≤ clampI lo hi v ∧ clampI lo hi v ≤ hi := by
    unfold clampI
    split
    · omega
    · split <;> omega
  unfold Live.rdI Live.wrI
  rw [Live.rd_wr_same, word, ofI32_lt, toI32_ofI32 (by omega) (by omega)]

/-- A write that saturates reads back as the smaller of the value and the type's largest. -/
theorem rd_wrSat_same (l : Live) (o : Obj) (v i k t : Nat) : (l.wrSat o v i k t).rd o i k t = min v (256 ^ o.len - 1) := by
  have pos : 0 < 256 ^ o.len := Nat.pow_pos (by decide)
  unfold Live.wrSat
  rw [Live.rd_wr_same, Nat.mod_eq_of_lt (by omega)]

/-- A Sync on the slave port: the counts that R36 judges, and the offset. -/
theorem syncReceived_does (l : Live) (offset : Int) :
    l.cellsBut [Obj.key .PTP_OFFSET_NS 0 0 0] (l.syncReceived offset) ∧
    (l.syncReceived offset).rdI .PTP_OFFSET_NS = clampI (-2147483647) 2147483647 offset ∧
    (l.syncReceived offset).beat = { l.beat with
      goodSyncs := if offset.natAbs ≤ l.rd .PTP_LOCK_THRESHOLD_NS then l.beat.goodSyncs + 1 else 0
      badSyncs := if max (l.rd .PTP_UNLOCK_THRESHOLD_NS) (l.rd .PTP_LOCK_THRESHOLD_NS) < offset.natAbs then l.beat.badSyncs + 1 else 0
      lastSync := l.beat.ticks, offsets := (offset :: l.beat.offsets).take 64 } := by
  unfold Live.syncReceived
  refine ⟨?_, rdI_wrI_clamp _ (by decide) (by decide) (by decide) _ rfl .., ?_⟩
  · exact .wr (.of_store (.refl _ l) rfl) (List.mem_singleton_self _)
  · simp [Live.wrI]

/-- The first message of its kind after PTP starts is due (R49, R51). -/
theorem ptpTransmit_first {l : Live} (running : l.beat.ptpRunning = true) :
    (l.beat.lastAnnounceSent = none → l.ptpTransmit true = l.setBeat fun b =>
      { b with announcesSent := b.announcesSent + 1, lastAnnounceSent := some b.ticks, announced := some l.announceData,
               sentOn := l.ptpMasters, followedUp := 0 }) ∧
    (l.beat.lastSyncSent = none → l.ptpTransmit false = l.setBeat fun b =>
      { b with syncsSent := b.syncsSent + 1, lastSyncSent := some b.ticks, sentOn := l.ptpMasters,
               followedUp := l.twoStepPorts l.ptpMasters, stampOut := some l.ptpStamp }) := by
  constructor <;> intro unsent <;> simp [Live.ptpTransmit, running, unsent]

/-- On the slave port a delay message measures; elsewhere it is answered where the mechanism lets it (R49, R53). -/
theorem delayMessage_slave {l : Live} {port : Nat} (running : l.beat.ptpRunning = true) (slave : l.rd .PTP_SLAVE_PORT = port)
    (delay : Nat) : l.delayMessage port delay = l.wrSat .PTP_MEAN_PATH_DELAY_NS delay := by
  simp [Live.delayMessage, running, slave]

theorem delayMessage_answered {l : Live} {port : Nat} (running : l.beat.ptpRunning = true)
    (other : l.rd .PTP_SLAVE_PORT ≠ port)
    (answers : if l.rd .PTP_DELAY_MECHANISM = 1 then (l.ptpRole port).isSome = true else l.ptpRole port = some .master)
    (delay : Nat) : l.delayMessage port delay = l.setBeat fun b => { b with delaysAnswered := b.delaysAnswered + 1 } := by
  unfold Live.delayMessage
  rw [if_neg (by simp [running]), if_neg other]
  dsimp only
  split at answers <;> simp [*]

/-- An uplink whose Announce messages are three intervals old is dropped; where it was the slave port event 40 arises and the
clock is chosen anew (R52). -/
theorem execPtpAnnounceTimeout_old {s : State} {uplink : Fin 4} {a : Announce}
    (held : s.live.beat.announces.get uplink.val = some a) (old : a.last + announceTimeout ≤ s.live.beat.ticks) :
    execPtpAnnounceTimeout uplink s = .next (s.withLive
      (let dropped := s.live.setBeat fun b => { b with announces := b.announces.del uplink.val }
       if s.live.rd .PTP_SLAVE_PORT = 48 + uplink.val then (dropped.raise 40).runBmca else dropped)) := by
  unfold execPtpAnnounceTimeout State.effect
  simp only [held, if_pos old]

/-- Settles O2: each message's own lemma gives what it sets, and its law what it leaves alone. -/
theorem ptpMessagesMoveTheClockState : Obligations.PtpMessagesMoveTheClockState := by
  refine ⟨fun s port domain transport offset mine slave => ?_, fun s uplink msg mine candidate => ?_,
    fun s uplink a held old => ?_, fun s running unannounced unsent => ⟨?_, ?_⟩, fun s port delay running slave => ?_,
    fun s port delay running other answers => ?_⟩
  · obtain ⟨t, ran, only, live⟩ := exec_touches (.ptpSyncReceived port domain transport offset) s rfl (if_pos ⟨mine, slave⟩) rfl
    obtain ⟨cells, reads, beat⟩ := syncReceived_does s.live offset
    rw [← live] at cells reads beat
    exact ⟨t, ran, only, cells, reads, by rw [beat], by rw [beat], by rw [beat]⟩
  · obtain ⟨t, ran, only, live⟩ := exec_touches (.ptpAnnounceReceived uplink msg) s rfl (if_pos ⟨mine, candidate⟩) rfl
    refine ⟨t, ran, only, ?_⟩
    rw [live, runBmca_beat, Live.setBeat_beat]
    exact ⟨⟨_, Tbl.get_put_same _ _ (some _), rfl, rfl, rfl, rfl, rfl⟩, rfl, rfl⟩
  · obtain ⟨t, ran, only, live⟩ := exec_touches (.ptpAnnounceTimeout uplink) s (execPtpAnnounceTimeout_old held old) rfl rfl
    have beat : t.live.beat = { s.live.beat with announces := s.live.beat.announces.del uplink.val } := by
      rw [live]; split <;> simp [runBmca_beat]
    refine ⟨t, ran, only, by rw [beat]; exact Tbl.get_del_same .., by rw [beat], fun ev slave => ?_, fun other => ?_⟩
    · rw [live, if_pos slave]
      refine runBmca_arisen _ _ ?_ (Live.raise_mem (a := s.live.setBeat _) ev rfl rfl ..)
      simpa [Live.mode] using ev
    · rw [live, if_neg other]; exact ⟨rfl, rfl⟩
  · obtain ⟨t, ran, only, live⟩ := exec_touches (.ptpSyncTransmit true) s rfl ((ptpTransmit_first running).1 unannounced) rfl
    exact ⟨t, ran, only, by rw [live]; rfl, by rw [live]; rfl, by rw [live]; rfl⟩
  · obtain ⟨t, ran, only, live⟩ := exec_touches (.ptpSyncTransmit false) s rfl ((ptpTransmit_first running).2 unsent) rfl
    exact ⟨t, ran, only, by rw [live]; rfl, by rw [live]; rfl⟩
  · obtain ⟨t, ran, only, live⟩ := exec_to (.ptpDelayMessage port delay) s rfl (delayMessage_slave running slave delay)
      (Live.wrSat_keeps s.live ..)
    refine ⟨t, ran, only, ?_⟩
    rw [live]
    exact ⟨.wr (.refl _ _) (List.mem_singleton_self _), rd_wrSat_same ..⟩
  · obtain ⟨t, ran, only, live⟩ := exec_to (.ptpDelayMessage port delay) s rfl (delayMessage_answered running other answers delay)
      (Live.setBeat_keeps (fun _ => by exact ⟨rfl, rfl, rfl⟩) s.live)
    exact ⟨t, ran, only, by rw [live]; rfl⟩

/-! ### Lock and the strobe -/

/-- Loss of lock where events are evaluated: the beat goes on in holdover, and event 33 arises (R37). -/
theorem loseLock_does {l : Live} (ev : l.mode.evaluates = true) :
    Keeps [.beat, .events] l l.loseLock ∧ l.loseLock.beat = { l.beat with
      locked := false, freeRun := true, holdover := true, aligning := false, goodSyncs := 0, badSyncs := 0 } ∧
    l.arose l.loseLock [l.occ 33] := by
  unfold Live.loseLock
  refine ⟨.via (raise_keeps_events (by exact ev) ..) rfl (.via (Live.setBeat_keeps (fun _ => by exact ⟨rfl, rfl, rfl⟩) l) rfl (.refl _ _)),
    ?_, arose_raise (by exact ev) (by rfl) (by rfl) ..⟩
  rw [Live.raise_beat]; rfl

/-- A slew that ends raises event 36, and one that is not under way does not end (R39). -/
theorem slewEnds_does {l : Live} (ev : l.mode.evaluates = true) :
    l.slewEnds.beat = { l.beat with slewing := false, slewUnits := if l.beat.slewing then 0 else l.beat.slewUnits } ∧
    Keeps [.beat, .events] l l.slewEnds ∧ l.arose l.slewEnds (if l.beat.slewing then [l.occ 36] else []) := by
  unfold Live.slewEnds
  cases slewing : l.beat.slewing with
  | true =>
    refine ⟨?_, .via (raise_keeps_events (by exact ev) ..) rfl (.via (Live.setBeat_keeps (fun _ => by exact ⟨rfl, rfl, rfl⟩) l) rfl (.refl _ _)),
      arose_raise (by exact ev) (by rfl) (by rfl) ..⟩
    rw [if_pos rfl, Live.raise_beat]; rfl
  | false =>
    refine ⟨?_, .refl _ _, by simp [Live.arose]⟩
    rw [if_neg Bool.false_ne_true, if_neg Bool.false_ne_true, ← slewing]

/-- Of two operations, the occurrences of the second follow those of the first. -/
theorem arose_trans {a b c : Live} {os ps : List Occ} (first : a.arose b os) (second : b.arose c ps) :
    a.arose c (os ++ ps) := by
  unfold Live.arose at *
  rw [second, first, List.append_assoc]

/-- Lock declared in a beat: a slew that goes on ends first (R36, R39).  `x` is the machine with the beat's new number. -/
theorem slewEnds_lock {l x : Live} (ev : x.mode.evaluates = true) (events : x.events = l.events)
    (slews : x.beat.slewing = l.beat.slewing) :
    Keeps [.beat, .events] x (x.slewEnds.raise 32) ∧ (x.slewEnds.raise 32).beat.slewing = false ∧
    (x.slewEnds.raise 32).beat.stepped = x.beat.stepped ∧ (x.slewEnds.raise 32).now = x.now ∧
    l.arose (x.slewEnds.raise 32)
      ((if l.beat.slewing then [{ l.occ 36 with stamp := x.now }] else []) ++ [{ l.occ 32 with stamp := x.now }]) := by
  obtain ⟨beat, kept, ended⟩ := slewEnds_does ev
  have now : x.slewEnds.now = x.now := by unfold Live.now; rw [beat]
  have ev' : x.slewEnds.mode.evaluates = true := by rw [kept.mode_eq (by decide)]; exact ev
  have lock := arose_trans ended (arose_raise ev' rfl rfl 32 [] 0)
  refine ⟨.via (raise_keeps_events ev' ..) rfl kept, ?_, ?_, ?_, ?_⟩
  · rw [Live.raise_beat, beat]
  · rw [Live.raise_beat, beat]
  · unfold Live.now at now ⊢; rw [Live.raise_beat, now]
  · unfold Live.arose Live.occ at lock ⊢
    rw [lock, events, slews, now]

/-- A beat that steps ahead: event 34 follows the lock (R38). -/
theorem slewEnds_step {l x : Live} (ev : x.mode.evaluates = true) (events : x.events = l.events)
    (slews : x.beat.slewing = l.beat.slewing) (stepped : x.beat.stepped = true) (data : List Byte) :
    ((x.slewEnds.raise 32).raise 34 data).beat.slewing = false ∧ ((x.slewEnds.raise 32).raise 34 data).beat.stepped = true ∧
    ∃ k, l.arose ((x.slewEnds.raise 32).raise 34 data) ((if l.beat.slewing then [{ l.occ 36 with stamp := k }] else []) ++
      [{ l.occ 32 with stamp := k }, { l.occ 34 data with stamp := k }]) := by
  obtain ⟨kept, slewing, step, now, lock⟩ := slewEnds_lock ev events slews
  have stepEv := arose_trans lock (arose_raise (by rw [kept.mode_eq (by decide)]; exact ev) rfl rfl 34 data 0)
  rw [List.append_assoc] at stepEv
  refine ⟨by rw [Live.raise_beat, slewing], by rw [Live.raise_beat, step, stepped], x.now, ?_⟩
  unfold Live.occ at stepEv ⊢
  rw [now] at stepEv
  exact stepEv

/-- A beat that lies behind: event 35 follows the lock, unless a slew goes on (R38, R39). -/
theorem lock_slews {l x : Live} (ev : x.mode.evaluates = true) (events : x.events = l.events) :
    ∃ k, l.arose (if l.beat.slewing then x.raise 32 else (x.raise 32).raise 35)
      ([{ l.occ 32 with stamp := k }] ++ if l.beat.slewing then [] else [{ l.occ 35 with stamp := k }]) := by
  have lock : l.arose (x.raise 32) [{ l.occ 32 with stamp := x.now }] := by
    have raised := arose_raise (a := x) ev rfl rfl 32 [] 0
    unfold Live.arose at raised ⊢
    rw [raised, events]; rfl
  refine ⟨x.now, ?_⟩
  split
  · simpa using lock
  · refine arose_trans lock ?_
    rw [show ({ l.occ 35 with stamp := x.now } : Occ) = (x.raise 32).occ 35 by unfold Live.occ Live.now; rw [Live.raise_beat]]
    exact arose_raise (by unfold Live.mode; rw [Live.raise_modes]; exact ev) rfl rfl ..

/-- The machine as its alignment beat ends and takes a number, before a slew ends or begins (R38). -/
def Machine.Live.aligned (l : Live) (t cycles number : Nat) : Live := l.setBeat fun b =>
  { b with number := number % 2 ^ 64, elapsed := b.elapsed + 1, ticks := b.ticks + 1, halfNs := 250000 * t,
           jumps := b.jumped (l.beat.number + 1) number, lastCycles := max 150000 (min 300000 cycles), aligning := false }

/-- The three ends of an alignment beat: the PTP instant is the next beat's, lies ahead of it, or behind it (R38). -/
theorem numberLocked_cases (l : Live) (t cycles : Nat) :
    (t = l.beat.number + 1 → l.numberLocked t cycles = (l.aligned t cycles (l.beat.number + 1)).slewEnds.raise 32) ∧
    (l.beat.number + 1 < t → l.numberLocked t cycles =
      (((l.aligned t cycles t).setBeat fun b => { b with stepped := true }).slewEnds.raise 32).raise 34 (u64 l.beat.number ++ u64 t)) ∧
    (t < l.beat.number + 1 → l.numberLocked t cycles =
      let slews := ((l.aligned t cycles (l.beat.number + 1)).setBeat fun b =>
        { b with slewing := true, slewUnits := 16 * (l.beat.number + 1 - t) }).raise 32
      if l.beat.slewing then slews else slews.raise 35) :=
  ⟨fun next => if_pos next, fun ahead => (if_neg (by omega)).trans (if_pos ahead),
    fun behind => (if_neg (by omega)).trans (if_neg (by omega))⟩

/-- Settles O3: `loseLock_does` for a loss, the guard of `armOrigin` for the strobe, and at the end of an alignment beat
`slewEnds_lock` where the number is next or ahead; behind it a slew starts. -/
theorem lockLossAndStrobeArming : Obligations.LockLossAndStrobeArming := by
  refine ⟨fun s due ev => ?_, fun s undue => ?_, fun s configure free named => ?_, fun s refused => ?_, fun l t cycles ev => ?_⟩
  · obtain ⟨kept, beat, arose⟩ := loseLock_does ev
    obtain ⟨t, ran, only, live⟩ := exec_to .beatPtpUnlocked s rfl (if_pos due) kept
    refine ⟨t, ran, only, ?_⟩
    rw [live, beat]
    exact ⟨rfl, rfl, rfl, arose⟩
  · exact exec_idle .beatPtpUnlocked s rfl (if_neg (by simp [undue]))
  · have armed : s.live.armOrigin = s.live.setBeat fun b => { b with strobeArmed := true } :=
      if_pos (by simp [Live.armOriginAllowed, configure, free, named])
    obtain ⟨t, ran, only, live⟩ := exec_touches .armOrigin s rfl armed rfl
    exact ⟨t, ran, only, by rw [live, Live.setBeat_beat]⟩
  · refine exec_idle .armOrigin s rfl (if_neg ?_)
    unfold Live.armOriginAllowed
    rcases refused with mode | locked | unnamed <;> simp [*]
  · obtain ⟨next_eq, ahead_eq, behind_eq⟩ := numberLocked_cases l t cycles
    refine ⟨fun next => ?_, fun ahead => ?_, fun behind => ?_⟩
    · obtain ⟨-, slewing, -, -, lock⟩ := slewEnds_lock (l := l) (x := l.aligned t cycles (l.beat.number + 1)) ev rfl rfl
      rw [← next_eq next] at slewing lock
      exact ⟨slewing, _, lock⟩
    · have steps := slewEnds_step (l := l) (x := (l.aligned t cycles t).setBeat fun b => { b with stepped := true }) ev rfl rfl rfl
        (u64 l.beat.number ++ u64 t)
      rw [← ahead_eq ahead] at steps
      exact steps
    · have slews := lock_slews (l := l) (x := (l.aligned t cycles (l.beat.number + 1)).setBeat fun b =>
        { b with slewing := true, slewUnits := 16 * (l.beat.number + 1 - t) }) ev rfl
      rw [← behind_eq behind] at slews
      have beat : (l.numberLocked t cycles).beat = ((l.aligned t cycles (l.beat.number + 1)).setBeat fun b =>
          { b with slewing := true, slewUnits := 16 * (l.beat.number + 1 - t) }).beat := by
        rw [behind_eq behind]
        split <;> simp only [Live.raise_beat]
      refine ⟨?_, ?_, slews⟩
      · rw [beat, Live.setBeat_beat]
      · rw [beat, Live.setBeat_beat]

end Sys2Proof

namespace Sys2Proof

open Machine

/-! ### Links and damping -/

/-- A DOWN port whose PHY stops answering stays DOWN and is silent, with an event of its link (R264). -/
theorem execPhyMgmtTimeout_down {s : State} {p : Fin 52} (on : s.live.mode.portsRun = true)
    (answered : (s.live.portRt p.val).phySilent = false) (down : s.live.linkState p.val = linkDown) :
    execPhyMgmtTimeout p s = .next (s.withLive
      ((s.live.setPort p.val fun x => { x with phySilent := true, phyAt := s.live.ticks }).raise (192 + p.val)
        (u8 linkDown ++ u8 linkDown) (s.live.portOwner p.val))) := by
  have still : (s.live.setPort p.val fun x => { x with phySilent := true, phyAt := s.live.ticks }).linkState p.val = linkDown := down
  have not_up : ¬ linkDown = linkUp := by decide
  unfold execPhyMgmtTimeout State.effect
  simp only [on, answered, still, not_up, not_true_eq_false, Bool.false_eq_true, or_self, if_false, if_true]
  rfl

/-- Settles O7: what a PHY senses is one field of its port; a silent PHY takes one branch of its command; the decay is
`decay_all`. -/
theorem linksAndDamping : Obligations.LinksAndDamping := by
  have own_port (l : Live) (p : Nat) (f : Port → Port) :
      (l.setPort p f).portRt p = f (l.portRt p) ∧ ∀ q, q ≠ p → (l.setPort p f).portRt q = l.portRt q :=
    ⟨Live.setPort_same .., fun _ => Live.setPort_other l f⟩
  refine ⟨fun s p partner fec => ?_, fun s p => ?_, fun s p on answered down => ?_, fun s p answers silent waited on => ?_,
    fun s on falls undone calm => ?_, fun s between => ?_⟩
  · obtain ⟨t, ran, only, live⟩ := exec_touches (.linkUp p partner fec) s rfl rfl rfl
    exact ⟨t, ran, only, by rw [live]; exact own_port ..⟩
  · obtain ⟨t, ran, only, live⟩ := exec_touches (.linkDown p) s rfl rfl rfl
    exact ⟨t, ran, only, by rw [live]; exact own_port ..⟩
  · obtain ⟨t, ran, only, live⟩ := exec_touches (.phyMgmtTimeout p) s (execPhyMgmtTimeout_down on answered down) rfl rfl
    obtain ⟨own, others⟩ := own_port s.live p.val fun x => { x with phySilent := true, phyAt := s.live.ticks }
    refine ⟨t, ran, only, ?_, fun q other => ?_, ?_⟩
    · rw [live, Live.raise_portRt, own]
    · rw [live, Live.raise_portRt, others q other]
    · rw [live]
      exact arose_raise (portsRun_ev (by exact on)) (by rfl) (by rfl) ..
  · obtain ⟨t, ran, only, live⟩ := exec_touches (.phyRetry p answers) s rfl (if_pos ⟨silent, waited, on⟩) rfl
    exact ⟨t, ran, only, by rw [live]; exact own_port ..⟩
  · obtain ⟨t, ran, only, live⟩ := exec_touches .penaltyDecay s rfl (if_pos ⟨on, falls, undone⟩) rfl
    obtain ⟨plane, decayed, -⟩ := decay_all s.live 52 calm
    refine ⟨t, ran, only, ?_, fun p access => ?_⟩
    · rw [live, Live.setPlane_plane, plane]
    · rw [live, Live.setPlane_rd, decayed p access]
  · exact exec_idle .penaltyDecay s rfl (if_neg fun due => between due.2.1)

end Sys2Proof

namespace Sys2Proof

open Machine

/-! ### Keep copies (R467, R470) -/

/-- The counters that a keep copy advances as it reaches Flannel change events alone. -/
theorem keepCopy_counted (l : Live) (f : Frame) (n : Nat) :
    Keeps [.events] l ((l.blk 18 .eventsIn 1 f.port f.tc n).blk 18 .bytesIn (f.bytes.length - 4) f.port f.tc n) :=
  .via (Live.blk_keeps ..) rfl ((Live.blk_keeps ..).mono rfl)

/-- A keep copy of a stream that writes, of its tenancy's frame, is appended to the open segment where its record fits. -/
theorem keepCopy_appends {l : Live} {f : Frame} {i : Nat} (writes : streamWrites (l.rd .STATE_1240 (2 * f.port + wKeepSlot f.word)) = true)
    (tenancy : f.tn = l.streamTn (2 * f.port + wKeepSlot f.word)) (held : l.openSeg (2 * f.port + wKeepSlot f.word) = some i)
    (fits : (l.seg i).bytes + recordSize (f.bytes.length - 4) ≤ segSize) :
    ∃ m, Keeps [.events] l m ∧ l.keepCopy f = m.append i f := by
  unfold Live.keepCopy
  extract_lets stream tn m room
  have counted : Keeps [.events] l m := keepCopy_counted ..
  have flannel : m.flannel = l.flannel := counted.flannel_eq (by decide)
  have held' : m.openSeg stream = some i := by
    unfold Live.openSeg Live.segsWhere at held ⊢
    rw [flannel]; exact held
  have stays : room = m := by
    simp only [room, held']
    exact if_neg (by rw [seg_flannel flannel]; omega)
  refine ⟨m, counted, ?_⟩
  rw [if_neg (by rw [counted.rd]; simp [writes, tenancy, stream, tn]), stays, held']

/-- A keep copy of a stream that does not write is discarded. -/
theorem keepCopy_discards {l : Live} {f : Frame} (idle : streamWrites (l.rd .STATE_1240 (2 * f.port + wKeepSlot f.word)) = false) :
    ∃ m, Keeps [.events] l m ∧ l.keepCopy f = m.keepDiscard f (2 * f.port + wKeepSlot f.word) := by
  unfold Live.keepCopy
  extract_lets stream tn m
  have counted : Keeps [.events] l m := keepCopy_counted ..
  exact ⟨m, counted, if_pos (.inl (by rw [counted.rd]; simp [stream, idle]))⟩

/-- A discard counts in KEEP_DISCARDS of its stream. -/
theorem keepDiscard_does {l : Live} (ev : l.mode.evaluates = true) (counts : l.mode ≠ .freeze) (f : Frame) {stream : Nat}
    (known : stream < 96) :
    l.cellsBut [Obj.key .KEEP_DISCARDS stream 0 0, Obj.key .WRAPPED_ANY 0 0 0] (l.keepDiscard f stream) ∧
    (l.keepDiscard f stream).rd .KEEP_DISCARDS stream = (l.rd .KEEP_DISCARDS stream + 1) % 256 ^ Obj.KEEP_DISCARDS.len := by
  have shown : Keeps [.events] (l.count .KEEP_DISCARDS 1 stream) (l.keepDiscard f stream) :=
    .via (Live.mark_keeps ..) rfl (.via (Live.blk_keeps ..) rfl (.refl _ _))
  refine ⟨.keep shown (Live.count_cells ev ..), ?_⟩
  rw [shown.rd]
  exact Live.count_rd ev counts (Nat.zero_le _) (Nat.le_of_lt_succ known)
    (by simp only [Obj.key, Obj.index, Obj.KEEP_DISCARDS, Obj.WRAPPED_ANY]; omega)

/-- Flannel takes the keep copy that port K hands over, and no link word was bad. -/
theorem execKeepCopy_taken {s : State} {at_ : Nat} {f : Frame} {m : Live} (served : s.live.portServed 53 = true)
    (taken : (s.live.at at_).takeFrom 53 = (some f, m)) : execKeepCopy at_ none s = .next (s.withLive (m.keepCopy f)) := by
  unfold execKeepCopy State.effect
  simp only [served, taken, if_true]

/-- Port K is served in the running family alone. -/
theorem running_of_portServed {l : Live} (served : l.portServed 53 = true) : l.mode.running = true := by
  simpa [Live.portServed] using served

/-- What a frame leaves of the machine as port K hands it over. -/
theorem takeFrom_keeps_some {l m : Live} {at_ p : Nat} {f : Frame} (taken : (l.at at_).takeFrom p = (some f, m)) :
    Keeps [.store, .plane, .events] l m :=
  .of2 taken ((Live.takeFrom_keeps ..).via rfl ((Live.at_keeps ..).mono rfl))

/-! ### Segments (R471) -/

/-- Segments that are 480,000 beats old close, then the index engine commits. -/
theorem segmentsAge_due {l : Live} {i : Nat} (running : l.mode.running = true) (isOpen : (l.seg i).state = segOpen)
    (old : (l.seg i).opened + 480000 ≤ l.ticks) :
    i ∈ l.segsWhere (fun g => g.state == segOpen && g.opened + 480000 ≤ l.ticks) ∧
    l.segmentsAge = (l.forL (l.segsWhere fun g => g.state == segOpen && g.opened + 480000 ≤ l.ticks) Live.closeSeg).commitIndex := by
  have due : i ∈ l.segsWhere (fun g => g.state == segOpen && g.opened + 480000 ≤ l.ticks) :=
    mem_segsWhere (fun reset => absurd isOpen (by rw [reset]; decide)) (by simp [isOpen, old])
  refine ⟨due, ?_⟩
  unfold Live.segmentsAge
  rw [if_pos running]
  exact if_neg (by rw [List.isEmpty_iff]; exact List.ne_nil_of_mem due)

/-! ### Heartbeats (R476, R477) -/

/-- A check after a heartbeat that went unanswered judges a miss before it schedules the next. -/
theorem heartbeatCheck_missed {l : Live} {b : Nat} (running : l.mode.running = true) (enabled : l.rdB .PROBE_ENABLE = true)
    (falls : l.elapsed % max 1 (l.rd .PROBE_INTERVAL) = 0) (ran : l.flannel.ranFrom < l.ticks)
    (checked : l.flannel.lastCheck = some b) (earlier : b ≠ l.ticks) (unsent : l.flannel.beaten = false) :
    ∃ j, l.heartbeatCheck = ((l.probeJudge false).setFlannel fun x =>
      { x with lastCheck := some l.ticks, beaten := false, replied := false, sendAt := some (l.ticks + j) }).commitIndex := by
  unfold Live.heartbeatCheck
  extract_lets due judged j
  have is_due : due = true := by simp [due, running, enabled, falls, ran, checked, earlier]
  have missed : judged = l.probeJudge false := by
    simp only [judged, unsent, Bool.false_and]
    exact if_neg (by simp [checked])
  rw [is_due, missed]
  exact ⟨j, if_neg (by decide)⟩

/-- A heartbeat that is due goes to the probe engine. -/
theorem execHeartbeatSend_due {s : State} {at_ b : Nat} (scheduled : s.live.flannel.sendAt = some b) (due : b ≤ s.live.ticks)
    (running : s.live.mode.running = true) :
    execHeartbeatSend at_ s = .next (s.withLive (((s.live.at at_).setFlannel fun x => { x with sendAt := none }).probeWork .send)) := by
  unfold execHeartbeatSend State.effect
  simp only [scheduled]
  rw [if_neg (by simp [running, due])]

/-- The probe engine does its work of the beat at once where it has none behind it. -/
theorem probeWork_now {l : Live} (w : ProbeWork) (fresh : l.flannel.probed ≠ some l.ticks) (none_waits : l.flannel.probeQueue = []) :
    l.probeWork w = l.probeDo w := if_neg (by simp [fresh, none_waits])

/-- A heartbeat that goes out takes the next sequence number. -/
theorem heartbeatOut_sends {l : Live} (running : l.mode.running = true) (healthy : l.rd .LINK_JUDGEMENT ≠ 1)
    (sighted : l.probeBlind = false) : ∃ p, l.heartbeatOut =
      ((l.wr .PROBE_SEQ ((l.rd .PROBE_SEQ + 1) % 2 ^ 32)).setFlannel fun x => { x with beaten := true, replied := false }).flannelSend
        0 (l.rd .PROBE_VLAN) 7 (l.rd .GATEWAY_MAC) p := by
  unfold Live.heartbeatOut
  rw [if_neg (by simp [running, healthy, sighted])]
  exact ⟨_, rfl⟩

/-- A heartbeat that meets an idle engine goes out at once. -/
theorem probeWork_sends {l : Live} (fresh : l.flannel.probed ≠ some l.ticks) (waits : l.flannel.probeQueue = [])
    (running : l.mode.running = true) (healthy : l.rd .LINK_JUDGEMENT ≠ 1) (sighted : l.probeBlind = false) :
    ∃ p, l.probeWork .send =
      (((l.setFlannel fun x => { x with probed := some l.ticks }).wr .PROBE_SEQ ((l.rd .PROBE_SEQ + 1) % 2 ^ 32)).setFlannel fun x =>
        { x with beaten := true, replied := false }).flannelSend 0 (l.rd .PROBE_VLAN) 7 (l.rd .GATEWAY_MAC) p := by
  rw [probeWork_now .send fresh waits]
  exact heartbeatOut_sends (l := l.setFlannel fun x => { x with probed := some l.ticks }) running healthy sighted

/-- What a write to a buffer makes of the pools depends on the pools alone. -/
theorem bufWrite_bpm_congr {a b : Live} (same : b.bpm = a.bpm) (key off : Nat) (bs : List Byte) (poisoned : Bool) :
    (b.bufWrite key off bs poisoned).bpm = (a.bufWrite key off bs poisoned).bpm := by
  unfold Live.bufWrite Live.setBuf Live.setBpm
  dsimp only
  rw [same]

/-- Settles O35: each command's own lemma gives its outcome; `append_seg`, `closeSegs`, `keepDiscard_does` and the laws of the
updates give what it sets and what it leaves. -/
theorem keepCopiesSegmentsAndHeartbeats : Obligations.KeepCopiesSegmentsAndHeartbeats := by
  refine ⟨fun s at_ i fr m served taken writes tenancy held fits => ?_, fun s at_ fr m served taken idle known => ?_,
    fun s i running isOpen old => ?_, fun s running => ?_, fun s running enabled falls ran first sighted => ?_,
    fun s b running enabled falls ran checked earlier unsent => ?_,
    fun s at_ b scheduled due running fresh waits healthy sighted => ?_, fun s at_ b scheduled due running worked => ?_,
    fun s port src payload on fresh waits valid => ?_, fun s port src payload on fresh waits invalid => ?_⟩
  · obtain ⟨u, counted, appends⟩ := keepCopy_appends writes tenancy held fits
    have runs := execKeepCopy_taken served taken
    obtain ⟨t, ran, only, live⟩ := exec_touches (.keepCopy at_ none) s runs appends rfl
    have seg (j : Nat) : u.seg j = m.seg j := seg_flannel (counted.flannel_eq (by decide)) j
    obtain ⟨frames, bytes, lastBeat, others, bpm⟩ := append_seg u i fr
    rw [← live] at frames bytes lastBeat others bpm
    simp only [seg] at frames bytes others bpm
    exact ⟨t, ran, only, frames, bytes, lastBeat, others, bpm.trans (bufWrite_bpm_congr (counted.bpm_eq (by decide)) ..)⟩
  · obtain ⟨u, counted, discards⟩ := keepCopy_discards idle
    have runs := execKeepCopy_taken served taken
    obtain ⟨t, ran, only, live⟩ := exec_touches (.keepCopy at_ none) s runs discards rfl
    have handed := takeFrom_keeps_some taken
    obtain ⟨ev, counts⟩ := running_live (running_of_portServed served)
    have mode : u.mode = s.live.mode := (counted.mode_eq (by decide)).trans (handed.mode_eq (by decide))
    obtain ⟨cells, reads⟩ := keepDiscard_does (l := u) (by rw [mode]; exact ev) (by rw [mode]; exact counts) fr known
    have discarded := Live.keepDiscard_keeps u fr (2 * fr.port + wKeepSlot fr.word)
    rw [← live] at cells reads discarded
    refine ⟨t, ran, only, ?_, ?_, ⟨fun o i k n other => ?_⟩, ?_⟩
    · rw [discarded.flannel_eq (by decide), counted.flannel_eq (by decide), handed.flannel_eq (by decide)]
    · rw [discarded.bpm_eq (by decide), counted.bpm_eq (by decide), handed.bpm_eq (by decide)]
    · rw [cells.same o i k n other, counted.rd]
    · rw [reads, counted.rd]
  · obtain ⟨named, ages⟩ := segmentsAge_due running isOpen old
    obtain ⟨t, ran, only, live⟩ := exec_touches .segmentAgeClose s rfl ages rfl
    obtain ⟨closed, others⟩ := closeSegs (s.live.segsWhere fun g => g.state == segOpen && g.opened + 480000 ≤ s.live.ticks) s.live
    exact ⟨t, _, ran, only, live, closed i named, others⟩
  · exact exec_touches .prerollFree s rfl (if_pos running) rfl
  · obtain ⟨t, ran, only, live⟩ := exec_to .heartbeatCheck s rfl (first_check running enabled falls ran first sighted)
      ((Live.commitIndex_keeps _).via rfl (Live.setFlannel_keeps ..))
    refine ⟨t, _, _, ran, only, live, Nat.le_add_right .., ?_, rfl⟩
    rw [Nat.add_comm 1]
    exact Nat.mod_lt _ (Nat.succ_pos _)
  · obtain ⟨j, judges⟩ := heartbeatCheck_missed running enabled falls ran checked earlier unsent
    obtain ⟨t, ran, only, live⟩ := exec_touches .heartbeatCheck s rfl judges rfl
    exact ⟨t, _, ran, only, live, rfl, rfl⟩
  · have runs := execHeartbeatSend_due (at_ := at_) scheduled due running
    obtain ⟨p, sends⟩ := probeWork_sends (l := (s.live.at at_).setFlannel fun x => { x with sendAt := none })
      fresh waits running healthy sighted
    obtain ⟨t, ran, only, live⟩ := exec_touches (.heartbeatSend at_) s runs sends rfl
    refine ⟨t, _, p, ran, only, live, ?_, ?_, rfl⟩
    · exact .of_store (.wr (.of_store (.refl _ s.live) rfl) (List.mem_singleton_self _)) rfl
    · exact (Live.rd_wr_same ..).trans (Nat.mod_eq_of_lt (Nat.mod_lt _ (by decide)))
  · have runs := execHeartbeatSend_due (at_ := at_) scheduled due running
    obtain ⟨t, ran, only, live⟩ := exec_to (m := [.plane, .flannel]) (.heartbeatSend at_) s runs (if_pos (.inl worked))
      (.via (Live.setFlannel_keeps ..) rfl (.via (Live.setFlannel_keeps ..) rfl ((Live.at_keeps ..).mono rfl)))
    exact ⟨t, ran, only, by rw [live]; rfl⟩
  · have replied : s.live.probeWork (.reply port.val src payload s.live.now) = _ := (probeWork_now _ fresh waits).trans (reply_good valid)
    obtain ⟨t, ran, only, live⟩ := exec_to (m := [.store, .flannel]) (.probeReply port src payload) s rfl ((if_pos on).trans replied)
      (.via (Live.setFlannel_keeps ..) rfl (.via (Live.wr_keeps ..) rfl ((Live.setFlannel_keeps ..).mono rfl)))
    refine ⟨t, ran, only, ?_⟩
    rw [live]
    exact ⟨.of_store (.wr (.of_store (.refl _ _) rfl) (List.mem_singleton_self _)) rfl, Live.rd_wr_same .., rfl⟩
  · have ignored : s.live.probeWork (.reply port.val src payload s.live.now) = _ := (probeWork_now _ fresh waits).trans (reply_bad invalid)
    obtain ⟨t, ran, only, live⟩ := exec_to (m := [.store, .flannel, .events]) (.probeReply port src payload) s rfl ((if_pos on).trans ignored)
      ((Live.count_keeps ..).via rfl ((Live.setFlannel_keeps ..).mono rfl))
    obtain ⟨ev, counts⟩ := engineOn_live on
    refine ⟨t, ran, only, ?_⟩
    rw [live]
    refine ⟨?_, ?_, ?_⟩
    · exact ⟨fun o i k n other => (Live.count_cells (by exact ev) ..).same o i k n other⟩
    · exact Live.count_rd (by exact ev) (by exact counts) (Nat.le_refl _) (Nat.le_refl _) (by decide)
    · rw [Live.count_flannel]; rfl

end Sys2Proof

namespace Sys2Proof

open Machine

/-! ### Images (R151 to R153) -/

/-- The verdict on a slot reads the stored images and MIN_SECURITY_VERSION alone. -/
theorem slotVerdict_setModes {l : Live} {f : Modes → Modes} (images : (f l.modes).slotA = l.modes.slotA ∧ (f l.modes).slotB = l.modes.slotB)
    (slot : Nat) : (l.setModes f).slotVerdict slot = l.slotVerdict slot := by
  have bytes : (l.setModes f).imageBytes slot = l.imageBytes slot := by
    funext off n
    unfold Live.imageBytes Live.imageByte
    simp only [Live.setModes_modes, images.1, images.2]
  unfold Live.slotVerdict
  rw [bytes, Live.setModes_rd]

/-- Image `k` runs, and the versions of both slots show (R151). -/
def Machine.Live.imageRuns (l : Live) (k : Nat) : Live :=
  ((((l.wr .RUNNING_IMAGE k).wr .IMAGE_A_VERSION (l.slotVersion 0)).wr .IMAGE_B_VERSION (l.slotVersion 1)).wr .DICTIONARY_VERSION
    Config.dictionaryVersion).setModes fun m => { m with imageOk := true }

theorem imageRuns_does (l : Live) (k : Nat) :
    (l.imageRuns k).modes.imageOk = true ∧ (l.imageRuns k).rd .RUNNING_IMAGE = k % 256 := by
  unfold Live.imageRuns
  refine ⟨by rw [Live.setModes_modes], ?_⟩
  rw [Live.setModes_rd, Live.rd_wr_other _ _ (by decide), Live.rd_wr_other _ _ (by decide), Live.rd_wr_other _ _ (by decide),
    Live.rd_wr_same]
  rfl

/-- The boot ROM accepts the preferred image, else the other, else it waits for a recovery image (R151). -/
theorem imageAccepted_eq {l : Live} (up : l.mode = .bringup) (unaccepted : l.modes.imageOk = false)
    (boots : l.modes.recovery = false) (kept : l.modes.revert = false) : l.imageAccepted =
      let l2 := l.setModes fun m => { m with revert := false }
      if l.slotVerdict (l.rd .BOOT_PREFERENCE) = 2 then
        l2.imageRuns (l.rd .BOOT_PREFERENCE)
      else if l.slotVerdict (1 - l.rd .BOOT_PREFERENCE) = 2 then
        ((l2.raise 5).wr .BOOT_PREFERENCE (1 - l.rd .BOOT_PREFERENCE)).imageRuns (1 - l.rd .BOOT_PREFERENCE)
      else l2.setModes fun m => { m with recovery := true } := by
  unfold Live.imageAccepted
  rw [if_neg (by simp [up, unaccepted, boots])]
  extract_lets l1 l2 first runs l2'
  have settled : l1 = l := if_neg (by simp [kept])
  have verdict (slot : Nat) : l2.slotVerdict slot = l.slotVerdict slot := by
    simp only [l2, settled]
    exact slotVerdict_setModes ⟨rfl, rfl⟩ slot
  have first_eq : first = l.rd .BOOT_PREFERENCE := by simp only [first, l2, settled, Live.setModes_rd]
  have l2_eq : l2 = l2' := by simp only [l2, l2', settled]
  rw [verdict, verdict, first_eq, l2_eq]
  simp only [runs, Live.imageRuns]

/-- IMAGE_ACTIVATE with a valid image in the other slot asks for the restart into it (R152). -/
theorem imageActivate_trial {l : Live} (free : l.modes.acted = false) (valid : l.slotVerdict l.otherSlot = 2) :
    (l.imageActivate 2).2.mode = l.mode ∧ (l.imageActivate 2).2.modes.restart = some 4 ∧
    (l.imageActivate 2).2.modes.goTo = l.modes.goTo := by
  unfold Live.imageActivate
  rw [if_neg (by decide), if_neg (by decide), if_neg (by simp [free])]
  dsimp only
  rw [if_pos valid]
  simp [Live.mode, Live.dormantWithdrawn, Live.wrB]

theorem engineOn_of_leaves {m : Mode} (leaves : m.leaves = true) : m.engineOn = true := by
  revert leaves; cases m <;> decide

/-- A restart that waits takes effect as the mode is evaluated, where no wipe was asked for (R131). -/
theorem modeEval_restarts {l : Live} {w : Nat} (leaves : l.mode.leaves = true) (waits : l.modes.restart = some w)
    (unwiped : l.modes.goTo ≠ some .wipe) : l.modeEval.mode = .bringup := by
  rw [modeEval_live leaves]
  unfold Live.liveEval
  rw [if_neg unwiped, waits]
  exact restart_mode l w

/-- The machine as a trial's image is confirmed, before event 8 (R153). -/
def Machine.Live.confirmed (l : Live) : Live :=
  (((l.wrB .TRIAL false).wr .MIN_SECURITY_VERSION (l.slotSecurity (l.rd .RUNNING_IMAGE))).wr .IMAGE_STATUS 2).setModes
    fun m => { m with trialStart := none }

theorem confirmed_does (l : Live) :
    l.cellsBut [Obj.key .TRIAL 0 0 0, Obj.key .MIN_SECURITY_VERSION 0 0 0, Obj.key .IMAGE_STATUS 0 0 0] l.confirmed ∧
    l.confirmed.rd .TRIAL = 0 ∧ l.confirmed.rd .IMAGE_STATUS = 2 := by
  unfold Live.confirmed Live.wrB
  refine ⟨.of_store (.wr (.wr (.wr (.refl _ l) (by simp)) (by simp)) (by simp)) (Live.setModes_store ..), ?_, ?_⟩
  · rw [Live.setModes_rd, Live.rd_wr_other _ _ (by decide), Live.rd_wr_other _ _ (by decide), Live.rd_wr_same]
    rfl
  · rw [Live.setModes_rd, Live.rd_wr_same]
    rfl

/-- A confirmation within the trial's window (R153). -/
theorem imageConfirm_open {l : Live} {t0 : Nat} (started : l.modes.trialStart = some t0) (trial : l.rdB .TRIAL = true)
    (inside : l.ticks ≤ t0 + l.rd .TRIAL_WINDOW) : l.imageConfirm = l.confirmed.raise 8 := by
  unfold Live.imageConfirm
  simp only [started]
  exact if_pos ⟨trial, inside⟩

/-! ### Start-up (R156, R157) -/

/-- The stored set that is loaded is not dirty, and early PoE touches neither that nor the modes (R154, R156). -/
theorem storedLoad_does (l : Live) : l.storedLoad.earlyPoe.modes.storedLoaded = true ∧
    l.storedLoad.earlyPoe.modes.dirtySince = false ∧ l.storedLoad.earlyPoe.rd .STORED_DIRTY = 0 := by
  have early (x : Live) : x.earlyPoe.modes = x.modes ∧ x.earlyPoe.store = x.store := by
    unfold Live.earlyPoe; split <;> exact ⟨rfl, rfl⟩
  have clean : l.storedLoad.rd .STORED_DIRTY = 0 := by
    unfold Live.storedLoad
    exact Live.rd_wr_same ..
  refine ⟨?_, ?_, ?_⟩
  · rw [(early _).1]; rfl
  · rw [(early _).1]; rfl
  · unfold Live.rd at clean ⊢; rw [(early _).2, clean]

/-- Trained channels are ACTIVE (R536). -/
theorem trainingDone_ok {l : Live} (up : l.mode = .bringup) (untrained : l.modes.trained = false) (tries : l.modes.trainingFails < 3) :
    l.trainingDone true = ((l.setModes fun m => { m with trained := true }).chTo 0 chActive).chTo 1 chActive := by
  unfold Live.trainingDone
  rw [if_neg (by simp [up, untrained, tries]), if_pos rfl]

/-- A failed training that is not the third is counted (R536). -/
theorem trainingDone_failed {l : Live} (up : l.mode = .bringup) (untrained : l.modes.trained = false)
    (tries : l.modes.trainingFails < 2) :
    l.trainingDone false = l.setModes fun m => { m with trainingFails := l.modes.trainingFails + 1 } := by
  unfold Live.trainingDone
  rw [if_neg (by simp [up, untrained]; omega), if_neg (by decide)]
  exact if_pos (by omega)

/-- Start-up whose work is complete ends in CONFIGURE (R131). -/
theorem bringupEval_complete {l : Live} (accepted : l.modes.imageOk = true) (settled : l.rd .LC_PENDING = 0xFF) (serves : l.rd .LC_STATE ≠ 3)
    (loaded : l.modes.storedLoaded = true) (trained : l.modes.trained = true) (filled : l.modes.filled = true) :
    l.bringupEval = l.configureEntry := by
  unfold Live.bringupEval
  rw [if_neg (by simp [accepted]), if_neg (by simp [settled]), if_neg serves, if_pos ⟨loaded, trained, filled⟩]

/-! ### The life cycle (R142, R143) -/

/-- A vendor reset that is not signed leaves the unit DECOMMISSIONED. -/
theorem vendorReset_unsigned {l : Live} {confirm : Nat} {auth : List Byte} (free : l.modes.acted = false) (out : l.mode = .decommissioned)
    (stays : l.modes.restart = none) (asked : l.modes.goTo = none) (unsigned : vendorAuth confirm auth = false) :
    (l.lifeCycleNow 3 confirm (some auth)).mode = .decommissioned := by
  have refused (pair : Nat × Nat) : (l.lifeCycle 3 true (some confirm) (some auth) pair).2 = l.raise 18 := by
    simp [Live.lifeCycle, free, unsigned]
  have out' : (l.raise 18).mode = .decommissioned := by unfold Live.mode; rw [Live.raise_modes]; exact out
  unfold Live.lifeCycleNow
  rw [refused]
  have evaluated : (l.raise 18).modeEval.mode = (l.raise 18).stayEval.mode := by
    unfold Live.modeEval; rw [out']; exact modeEval_tail _
  rw [evaluated]
  unfold Live.stayEval
  rw [Live.raise_modes, if_neg (by simp [asked]), stays]
  dsimp only
  rw [if_neg (by simp [out']), out']

/-! ### Start-up, life cycle and images as commands -/

/-- A command that keeps the queue and the snapshot, as the statements of start-up say it. -/
theorem exec_lives (c : Instr) (s : State) {y x : Live} (runs : exec c s = .next (s.withLive y)) (outcome : y = x) :
    ∃ t, exec c s = .next t ∧ t.start = s.start ∧ t.pending = s.pending ∧ t.live = x := ⟨_, runs, rfl, rfl, outcome⟩

/-- The end of start-up touches neither the mode it enters nor the beat number. -/
theorem execConfigureEntry_complete {s : State} (up : s.live.mode = .bringup) (accepted : s.live.modes.imageOk = true)
    (settled : s.live.rd .LC_PENDING = 0xFF) (serves : s.live.rd .LC_STATE ≠ 3) (loaded : s.live.modes.storedLoaded = true)
    (trained : s.live.modes.trained = true) (filled : s.live.modes.filled = true) :
    execConfigureEntry s = .next (s.withLive s.live.configureEntry.showCauses.heldRaised) := by
  unfold execConfigureEntry State.effect
  simp only [bringupEval_complete accepted settled serves loaded trained filled, configureEntry_mode, up, if_true]

theorem collapse_beat (l : Live) : l.collapse.beat = l.beat := by
  unfold Live.collapse; rfl

/-- The warning of the last module that carries load (R164, R191). -/
theorem lastWarning_none {l : Live} (on : l.mode ≠ .off)
    (last : ((List.range bays).filter fun b => (l.power.modules.get b).carries) = []) : l.lastWarning = l.shutdownRecord 0 := by
  unfold Live.lastWarning
  rw [last]
  exact if_neg on

theorem lastWarning_one {l : Live} {b : Nat} (last : ((List.range bays).filter fun b => (l.power.modules.get b).carries) = [b]) :
    l.lastWarning = l.powerFailWarning b := by
  unfold Live.lastWarning
  rw [last]

/-- Settles O15: what each command of start-up, of the life cycle and of the images makes of the machine is its own lemma; the
modes they end in are those of `powerUp_mode`, `collapse_mode`, `configureEntry_mode`, `lifeCycle_mode`, `newRun_mode` and
`restart_mode`. -/
theorem startUpAndLifeCycle : Obligations.StartUpAndLifeCycle := by
  refine ⟨fun s off carried cool => ?_, fun s on dark => ?_, fun s on last => ?_, fun s b last => ?_,
    fun s up unaccepted boots kept preferred => ?_, fun s up untrained tries => ?_, fun s up untrained tries => ?_,
    fun s up accepted unloaded settled serves => ?_, fun s up trained => ?_,
    fun s up accepted settled serves loaded trained filled => ?_, fun s free blank configure => ?_, fun s free used leaves => ?_,
    fun s auth free retired out stays asked => ?_, fun s on falls stale => ?_, fun s wiping tries => ?_, fun s wiping tries => ?_,
    fun s on => ?_, fun s quiet leaves => ?_, fun s t0 started trial inside ev => ?_⟩
  · obtain ⟨t, ran, start, queue, live⟩ := exec_lives .powerOnReset s rfl (if_pos ⟨off, carried, cool⟩)
    exact ⟨t, ran, start, queue, by rw [live, powerUp_mode]⟩
  · obtain ⟨t, ran, start, queue, live⟩ := exec_lives .mainsCollapse s rfl (if_pos (by simp [on, dark]))
    exact ⟨t, ran, start, queue, by rw [live, collapse_mode], by rw [live, collapse_beat]⟩
  · obtain ⟨t, ran, only, live⟩ := exec_to .powerFailWarning s rfl (lastWarning_none on last) (Live.shutdownRecord_keeps ..)
    exact ⟨t, ran, only, by rw [live]; rfl⟩
  · exact exec_touches .powerFailWarning s rfl (lastWarning_one last) rfl
  · obtain ⟨t, ran, only, live⟩ := exec_touches .imageAccepted s rfl (imageAccepted_eq up unaccepted boots kept) rfl
    refine ⟨t, ran, only, ?_⟩
    rw [live]
    dsimp only
    split
    · obtain ⟨accepted, running⟩ := imageRuns_does (s.live.setModes fun m => { m with revert := false }) (s.live.rd .BOOT_PREFERENCE)
      exact ⟨accepted, by rw [running, Nat.mod_eq_of_lt (by omega)]⟩
    · split
      · rw [(imageRuns_does ..).1, (imageRuns_does ..).2]
        exact ⟨rfl, Nat.mod_eq_of_lt (by omega)⟩
      · rfl
  · obtain ⟨t, ran, only, live⟩ := exec_to (m := [.store, .modes]) (.dramTrainingDone true) s rfl
      (trainingDone_ok up untrained tries)
      (.via (Live.chTo_keeps ..) rfl (.via (Live.chTo_keeps ..) rfl (.via (Live.setModes_keeps (fun _ => by exact rfl) _) rfl (.refl _ _))))
    refine ⟨t, ran, only, ?_⟩
    rw [live]
    unfold Live.chTo
    refine ⟨rfl, ?_, Live.rd_wr_same .., .wr (.wr (.of_store (.refl _ _) rfl) (by simp)) (by simp)⟩
    exact (Live.rd_wr_other _ _ (key_item (by decide) (by decide))).trans (Live.rd_wr_same ..)
  · obtain ⟨t, ran, only, live⟩ := exec_to (m := [.modes]) (.dramTrainingDone false) s rfl (trainingDone_failed up untrained tries)
      (Live.setModes_keeps (fun _ => by exact rfl) _)
    exact ⟨t, ran, only, by rw [live]; rfl⟩
  · obtain ⟨t, ran, only, live⟩ := exec_touches .storedSetLoad s rfl
      (if_pos ⟨up, accepted, by simp [unloaded], settled, serves⟩) rfl
    exact ⟨t, ran, only, by rw [live]; exact storedLoad_does s.live⟩
  · obtain ⟨t, ran, only, live⟩ := exec_touches .zeroFillComplete s rfl (if_pos ⟨up, trained⟩) rfl
    exact ⟨t, ran, only, by rw [live]; rfl⟩
  · have runs := execConfigureEntry_complete up accepted settled serves loaded trained filled
    obtain ⟨t, ran, ⟨start, queue, kept⟩, live⟩ := exec_touches .configureEntry s runs rfl rfl
    refine ⟨t, ran, start, queue, ?_, (kept .clock (by decide)).1.symm⟩
    rw [live, (Live.heldRaised_keeps _).mode_eq (by decide), (Live.showCauses_keeps _).mode_eq (by decide), configureEntry_mode]
  · obtain ⟨t, ran, start, queue, live⟩ := exec_lives (.lcCommission (s.live.rd .LC_CHALLENGE)) s rfl rfl
    refine ⟨t, ran, start, queue, ?_⟩
    rw [live]
    exact lifeCycle_mode free blank (by rw [configure]; rfl) (.inl (by decide)) (.inl (by rw [configure]; rfl))
  · obtain ⟨t, ran, start, queue, live⟩ := exec_lives (.lcDecommission (s.live.rd .LC_CHALLENGE)) s rfl rfl
    refine ⟨t, ran, start, queue, ?_⟩
    rw [live]
    exact lifeCycle_mode free used leaves (.inl (by decide)) (.inl leaves)
  · obtain ⟨t, ran, start, queue, live⟩ := exec_lives (.lcVendorReset (s.live.rd .LC_CHALLENGE) auth) s rfl rfl
    refine ⟨t, ran, start, queue, ?_⟩
    rw [live]
    cases signed : vendorAuth (s.live.rd .LC_CHALLENGE) auth with
    | true => exact lifeCycle_mode free retired (by rw [out]; rfl) (.inr ⟨auth, rfl, signed⟩) (.inr out)
    | false => exact vendorReset_unsigned free out stays asked signed
  · obtain ⟨t, ran, only, live⟩ := exec_touches .lcChallengeUpdate s rfl
      (if_neg (by simp [on, falls, stale])) rfl
    refine ⟨t, ran, only, ?_⟩
    rw [live]
    refine ⟨.wr (.of_store (.refl _ _) rfl) (by simp), ?_, rfl⟩
    exact (Live.rd_wr_same ..).trans (Nat.mod_eq_of_lt (Nat.mod_lt _ (by decide)))
  · obtain ⟨t, ran, start, queue, live⟩ := exec_lives .wipeDone s rfl rfl
    refine ⟨t, ran, start, queue, ?_⟩
    rw [live]
    unfold Live.wipeDone
    rw [if_neg (by simp [wiping, tries])]
    exact newRun_mode ..
  · obtain ⟨t, ran, only, live⟩ := exec_touches .wipeVerifyFail s rfl (if_pos ⟨wiping, tries⟩) rfl
    exact ⟨t, ran, only, by rw [live, Live.raise_modes]; rfl⟩
  · have verified : (s.live.imageActivate 1).2 = s.live.wr .IMAGE_STATUS (s.live.slotVerdict s.live.otherSlot) := by
      unfold Live.imageActivate; rw [if_pos rfl]
    obtain ⟨t, ran, only, live⟩ := exec_to .imageActivateVerify s rfl ((if_pos on).trans verified) (Live.wr_keeps ..)
    exact ⟨t, ran, only, by rw [live]; exact .wr (.refl _ _) (by simp), by rw [live]; exact Live.rd_wr_same ..⟩
  · obtain ⟨t, ran, start, queue, live⟩ := exec_lives .imageActivateTrial s rfl (if_pos (.inl (engineOn_of_leaves leaves)))
    refine ⟨t, ran, start, queue, fun valid => ?_⟩
    obtain ⟨mode, waits, asked⟩ := imageActivate_trial quiet.acted valid
    rw [live]
    exact modeEval_restarts (by rw [mode]; exact leaves) waits (by rw [asked, quiet.goTo]; decide)
  · have runs := imageConfirm_open started trial inside
    obtain ⟨t, ran, only, live⟩ := exec_touches .imageConfirm s rfl runs rfl
    obtain ⟨cells, ended, status⟩ := confirmed_does s.live
    refine ⟨t, ran, only, ?_⟩
    rw [live]
    have ev' : s.live.confirmed.mode.evaluates = true := ev
    exact ⟨.raise cells ev', by rw [Live.raise_rd ev', ended], by rw [Live.raise_rd ev', status], by rw [Live.raise_modes]; rfl,
      arose_raise ev' rfl rfl ..⟩

end Sys2Proof

namespace Sys2Proof

open Machine

/-! ### Requests reach the dictionary (R75, R83 to R85, R109) -/

/-- The commands that carry a master's request, with their operations (R96). -/
def requestCommands (m : Fin 15) (r : Req) : List (Instr × Nat) :=
  [(.read m r, 0), (.write m r, 1), (.writeAtBeat m r, 2), (.command m r, 3), (.segmentInit m r, 4), (.segment m r, 5),
   (.notifyRequest m r, 6)]

/-- A request that is heard reaches the dictionary, and every response made leaves. -/
theorem exec_request {m : Fin 15} {r : Req} {e : Instr × Nat} (named : e ∈ requestCommands m r) {s : State}
    (heard : s.live.heard (rankOf m)) :
    ∃ t, exec e.1 s = .next t ∧ s.only (touches e.1) t ∧ t.live = (rules.request s.start s.live (rankOf m) e.2 r).deliver := by
  have runs : exec e.1 s = s.serve m e.2 r ∧ Instr.boundary e.1 = false := by
    simp only [requestCommands, List.mem_cons, List.not_mem_nil, or_false] at named
    rcases named with rfl | rfl | rfl | rfl | rfl | rfl | rfl <;> exact ⟨rfl, rfl⟩
  exact exec_touches e.1 s runs.1 (serve_heard heard) runs.2

/-- The three commands that write, under their operations. -/
theorem write_requests {m : Fin 15} {r : Req} {e : Instr × Nat}
    (named : e ∈ [(Instr.write m r, 1), (.writeAtBeat m r, 2), (.command m r, 3)]) :
    e ∈ requestCommands m r ∧ (e.2 = 1 ∨ e.2 = 2 ∨ e.2 = 3) := by
  simp only [List.mem_cons, List.not_mem_nil, or_false] at named
  rcases named with rfl | rfl | rfl <;> simp [requestCommands]

/-- The response to a request of a master (R96). -/
abbrev replyTo (rank op : Nat) (r : Req) (status : Nat) (payload : List Byte := []) : Response :=
  { rank := rank, op := op, reqId := r.id, index := r.index, sub := r.sub, status := status, payload := payload }

/-- What a machine whose responses have left holds of the queue, the caches and the transfers. -/
theorem delivered_dict {l m : Live} (delivered : m = l.deliver) :
    m.dict.queue = l.dict.queue ∧ m.dict.cache = l.dict.cache ∧ m.dict.transfers = l.dict.transfers ∧
    m.dict.arrivals = l.dict.arrivals := by
  subst delivered; exact deliver_dict l

/-- A response that is not cached leaves them too. -/
theorem delivered_sent {l m : Live} {r : Response} (delivered : m = (l.send r).deliver) :
    m.dict.queue = l.dict.queue ∧ m.dict.cache = l.dict.cache ∧ m.dict.transfers = l.dict.transfers := by
  obtain ⟨queue, cache, transfers, -⟩ := delivered_dict delivered
  rw [send_dict] at queue cache transfers
  exact ⟨queue, cache, transfers⟩

/-- An answer that is cached leaves the queue. -/
theorem delivered_answer {l m : Live} {r : Response} (delivered : m = (l.answer r).deliver) : m.dict.queue = l.dict.queue :=
  (delivered_dict delivered).1.trans (answer_queue l r)

/-- A request of which the dictionary has an answer is answered with it, whatever it asks for; a segment of an open transfer is
not judged by what it repeats (R85, R103). -/
theorem request_repeated {st l l' : Live} {rank op : Nat} {r : Req} (heard : l.heard rank) (whole : op ≠ 5)
    (known : l.repeated rank op r = some l') : rules.request st l rank op r = l' := by
  unfold DictRules.request
  rw [if_neg (not_not_intro heard.mode)]
  simp only [beq_false_of_ne whole, Bool.false_and, Bool.false_eq_true, if_false, known]

/-- A request whose answer is cached is answered DUPLICATE, with the cached code in the high half (R84). -/
theorem repeated_cached {l : Live} {rank op : Nat} {r : Req} {x : CacheEntry}
    (cached : ((l.dict.cache.get rank).find? fun y => y.op == op && y.reqId == r.id && y.index == r.index && y.sub == r.sub &&
      y.fresh l.ticks) = some x) :
    l.repeated rank op r = some (l.send (replyTo rank op r (16 * (x.code % 16) + stDuplicate) x.payload)) := by
  unfold Live.repeated
  simp only [cached]

/-! ### Reads and writes at their arrival (R65, R97) -/

/-- A read that passes its checks is answered with the value that the object shows at the start of the beat. -/
theorem serveRead_shows {st l : Live} {rank : Nat} {r : Req} {o : Obj} {i k : Nat}
    (reaches : rules.checkReach st rank (rules.instAt st rank r.index) r.index r.sub false [] = stOk) (bare : r.payload = [])
    (formed : r.malformed = false) (allows : l.mode.allowsRead r.index = true) (found : findObject r.index r.sub = some (o, i, k))
    (fits : (Live.show st rank o i k (Live.instOf st rank o)).length ≤ payloadLimit rank) :
    rules.serveRead st l rank r =
      l.answer (replyTo rank 0 r stOk (Live.show st rank o i k (Live.instOf st rank o))) := by
  have value : rules.valueAt st rank r.index r.sub = Live.show st rank o i k (Live.instOf st rank o) := by
    unfold DictRules.valueAt
    rw [found]
    rfl
  unfold DictRules.serveRead
  dsimp only
  rw [value, if_neg (not_not_intro reaches), if_neg (by simp [bare, formed, fits]), if_neg (not_not_intro allows)]

/-- A read that fails check 3 to 7 is answered with that check's code. -/
theorem serveRead_refused {st l : Live} {rank : Nat} {r : Req}
    (refused : rules.checkReach st rank (rules.instAt st rank r.index) r.index r.sub false [] ≠ stOk) :
    rules.serveRead st l rank r =
      l.answer (replyTo rank 0 r (rules.checkReach st rank (rules.instAt st rank r.index) r.index r.sub false [])) := by
  unfold DictRules.serveRead
  exact if_pos refused

/-- A write that fails one of the first checks is answered with that check's code. -/
theorem serveWrite_refused {l : Live} {rank op : Nat} {r : Req}
    (refused : rules.checkReach l rank (rules.instAt l rank r.index) r.index r.sub true
      (if op = 2 then r.payload.drop 8 else r.payload) ≠ stOk) :
    rules.serveWrite l rank op r =
      l.answer (replyTo rank op r (rules.checkReach l rank (rules.instAt l rank r.index) r.index r.sub true
        (if op = 2 then r.payload.drop 8 else r.payload))) := by
  unfold DictRules.serveWrite
  exact if_pos refused

/-! ### Segmented transfer (R99 to R103) -/

/-- The machine with a master's open transfer. -/
def Machine.Live.putTransfer (l : Live) (rank : Nat) (x : Transfer) : Live :=
  l.setDict fun d => { d with transfers := d.transfers.put rank (some x) }

theorem putTransfer_get (l : Live) (rank : Nat) (x : Transfer) : (l.putTransfer rank x).dict.transfers.get rank = some x :=
  Tbl.get_put_same _ _ (some x)

/-- A transfer that is to write a value of `total` bytes, opened by a request. -/
def openedWrite (l : Live) (rank : Nat) (r : Req) (total : Nat) : Transfer :=
  { reqId := r.id, index := r.index, sub := r.sub, inst := rules.instAt l rank r.index, total := total, size := segmentData rank,
    last := l.ticks }

/-- SEGMENT_INIT of a plain write of a record opens a transfer and says how its segments lie (R99, R101). -/
theorem serveSegInit_opens {st l : Live} {rank total : Nat} {r : Req} (closed : l.dict.transfers.get rank = none)
    (reaches : rules.checkReach l rank (rules.instAt l rank r.index) r.index r.sub true [] = stOk) (formed : r.malformed = false)
    (header : r.payload = u32 total ++ [0, 0, 0, 0]) (some_bytes : 0 < total) (fits : total ≤ 1048576) (record : r.sub = 0xFF)
    (room : l.checkTarget rank r.index [r.sub] none = stOk) :
    rules.serveSegInit st l rank r =
      (l.putTransfer rank (openedWrite l rank r total)).send
        (replyTo rank 4 r stOk (u32 total ++ u16 (segmentData rank) ++ u16 (cdiv total (segmentData rank)))) := by
  have length : fieldAt r.payload 0 4 = total := by rw [header]; exact fieldAt_u32 (by omega) _
  have flags : fieldAt r.payload 4 1 = 0 := by rw [header]; rfl
  have reserved : fieldAt r.payload 5 3 = 0 := by rw [header]; rfl
  have bytes : r.payload.length = 8 := by rw [header]; rfl
  have write : bit 0 0 = false := by decide
  have plain : bit 0 1 = false := by decide
  unfold DictRules.serveSegInit
  simp only [closed, length, flags, reserved, bytes, write, plain, formed, Bool.not_false, Bool.false_eq_true, if_false, reaches, room]
  rw [if_neg (not_not_intro rfl), if_neg (by simp [Nat.ne_of_gt some_bytes]), if_neg (by omega), if_neg (by simp [record]),
    if_neg (not_not_intro rfl)]
  rfl

/-- A segment that belongs to the master's open transfer is taken as its own (R103). -/
theorem request_own_segment {st l : Live} {rank : Nat} {r : Req} {x : Transfer} (heard : l.heard rank)
    (opened : l.dict.transfers.get rank = some x) (own : x.reqId = r.id ∧ x.index = r.index ∧ x.sub = r.sub) :
    rules.request st l rank 5 r = rules.serveSegment l rank r := by
  obtain ⟨id, index, sub⟩ := own
  unfold DictRules.request
  rw [if_neg (not_not_intro heard.mode)]
  simp [opened, id, index, sub]

/-- A transfer with the data of its next segment. -/
def Machine.Transfer.extended (x : Transfer) (r : Req) (now : Nat) : Transfer :=
  { x with next := x.next + 1, data := x.data ++ r.payload.drop 2, last := now }

/-- The next segment of a write that is not its last adds its data and is acknowledged (R102). -/
theorem serveSegment_adds {l : Live} {rank : Nat} {r : Req} {x : Transfer} (opened : l.dict.transfers.get rank = some x)
    (own : x.reqId = r.id ∧ x.index = r.index ∧ x.sub = r.sub) (formed : r.malformed = false) (writes : x.read = false)
    (next : fieldAt r.payload 0 2 = x.next) (full : r.payload.length = 2 + min x.size (x.total - x.next * x.size))
    (more : x.next + 1 < cdiv x.total x.size) :
    rules.serveSegment l rank r = (l.putTransfer rank (x.extended r l.ticks)).send (replyTo rank 5 r stOk (u16 x.next)) := by
  obtain ⟨id, index, sub⟩ := own
  have long : ¬ r.payload.length < 2 := by omega
  unfold DictRules.serveSegment
  simp only [opened, next]
  rw [if_neg (by simp [id, index, sub, long]), if_neg (by simp [formed]), if_neg (by simp [writes]), if_neg (by omega),
    if_neg (by simp [full]), if_pos more]
  rfl

/-! ### The paths to the dictionary (R113 to R119) -/

/-- A request that waits in the mailbox is taken once room exists: REQ_BUSY clears, and the dictionary serves it (R119). -/
theorem mbxTake_serves {st l : Live} {f : Nat} (serves : l.mbxServes f = true) (busy : (l.mailboxes.get f).reqBusy = true)
    (room : l.mbxOwed f < 320) :
    Live.mbxTake st l f =
      let q := dauRequest (slice (l.mailboxes.get f).request 0 1032) 1024 true
      Live.serveRequest st (l.setMbx f fun m => { m with reqBusy := false }) (functionRank f) q.1 q.2 := by
  unfold Live.mbxTake
  exact if_neg (by simp [serves, busy, room])

/-- A frame that passes the checks of R114 is served for its session. -/
theorem inbandRequest_accepted {st l : Live} {port : Nat} {frame : List Byte} {x : InbandIn} {k seq : Nat} {old : Bool}
    (arrives : (if port < 52 then l.receives port else l.mode.engineOn) = true) (parsed : inbandParse frame = some x)
    (accepted : l.inbandVerdict port x = .accepted k seq old) :
    Live.inbandRequest st l port frame = Live.inbandAccepted st l port k seq old x := by
  unfold Live.inbandRequest
  rw [if_neg (not_not_intro arrives)]
  simp only [parsed, accepted]

/-- Settles O26: `exec_request` brings each request to the dictionary, the lemma of its operation says what the dictionary makes
of it, and `deliver_dict` that handing the responses over leaves queue, caches and transfers. -/
theorem dictionaryServesRequests : Obligations.DictionaryServesRequests := by
  refine ⟨fun s m r o i k heard new reaches bare formed allows found fits => ?_, fun s m r c heard new code refused => ?_,
    fun s m r e value fs target named value_eq target_eq heard new reaches formed long command fields room arrival => ?_,
    fun s m r e c named heard new code refused => ?_, fun s m r e x named heard cached => ?_,
    fun s m r total heard new closed reaches formed header some_bytes fits record room => ?_,
    fun s m r x heard opened id index sub formed writes next full more => ?_, fun s m r c heard new code => ?_,
    fun s f q serves busy room q_eq => ?_, fun s port frame x k seq old arrives parsed accepted => ?_⟩
  · obtain ⟨t, ran, only, live⟩ := exec_request (m := m) (r := r) (e := (.read m r, 0)) (by simp [requestCommands]) heard
    obtain ⟨reads, -, -, -⟩ := request_new (st := s.start) heard new
    exact ⟨t, ran, only, by rw [live, reads rfl, serveRead_shows reaches bare formed allows found fits]⟩
  · obtain ⟨t, ran, -, live⟩ := exec_request (m := m) (r := r) (e := (.read m r, 0)) (by simp [requestCommands]) heard
    obtain ⟨reads, -, -, -⟩ := request_new (st := s.start) heard new
    subst code
    rw [reads rfl, serveRead_refused refused] at live
    exact ⟨t, ran, delivered_answer live, live⟩
  · obtain ⟨request, op⟩ := write_requests named
    obtain ⟨t, ran, only, live⟩ := exec_request request heard
    obtain ⟨-, -, writes, -⟩ := request_new (st := s.start) heard new
    obtain ⟨inst, queued⟩ := write_accepted value_eq target_eq reaches formed long command fields room arrival
    rw [writes op, queued] at live
    obtain ⟨queue, cache, -, arrivals⟩ := delivered_dict live
    exact ⟨t, _, ran, only, queue, cache, arrivals, rfl, rfl, rfl, rfl, rfl, rfl, rfl, rfl, rfl⟩
  · obtain ⟨request, op⟩ := write_requests named
    obtain ⟨t, ran, -, live⟩ := exec_request request heard
    obtain ⟨-, -, writes, -⟩ := request_new (st := s.start) heard new
    subst code
    rw [writes op, serveWrite_refused refused] at live
    exact ⟨t, ran, delivered_answer live, live⟩
  · have request : e ∈ requestCommands m r ∧ e.2 ≠ 5 := by
      simp only [List.mem_cons, List.not_mem_nil, or_false] at named
      rcases named with rfl | rfl | rfl | rfl | rfl <;> simp [requestCommands]
    obtain ⟨t, ran, -, live⟩ := exec_request request.1 heard
    rw [request_repeated heard request.2 (repeated_cached cached)] at live
    obtain ⟨queue, cache, -⟩ := delivered_sent live
    exact ⟨t, ran, queue, cache, live⟩
  · obtain ⟨t, ran, -, live⟩ := exec_request (m := m) (r := r) (e := (.segmentInit m r, 4)) (by simp [requestCommands]) heard
    obtain ⟨-, inits, -, -⟩ := request_new (st := s.start) heard new
    rw [inits rfl, serveSegInit_opens closed reaches formed header some_bytes fits record room] at live
    obtain ⟨queue, -, transfers⟩ := delivered_sent live
    exact ⟨t, openedWrite s.live (rankOf m) r total, ran, by rw [transfers, putTransfer_get], rfl, rfl, rfl, rfl, rfl, rfl,
      rfl, rfl, rfl, rfl, queue⟩
  · obtain ⟨t, ran, -, live⟩ := exec_request (m := m) (r := r) (e := (.segment m r, 5)) (by simp [requestCommands]) heard
    rw [request_own_segment heard opened ⟨id, index, sub⟩,
      serveSegment_adds opened ⟨id, index, sub⟩ formed writes next full more] at live
    obtain ⟨queue, cache, transfers⟩ := delivered_sent live
    exact ⟨t, ran, by rw [transfers, putTransfer_get]; rfl, queue, cache⟩
  · obtain ⟨t, ran, -, live⟩ := exec_request (m := m) (r := r) (e := (.notifyRequest m r, 6)) (by simp [requestCommands]) heard
    obtain ⟨-, -, -, notifies⟩ := request_new (st := s.start) heard new
    exact ⟨t, ran, by rw [live, notifies rfl c code]⟩
  · subst q_eq
    exact exec_touches (.mbxRequestTake f) s rfl (mbxTake_serves serves busy room) rfl
  · exact exec_touches (.inbandRequest port frame) s rfl (inbandRequest_accepted arrives parsed accepted) rfl

end Sys2Proof

namespace Sys2Proof

open Machine

/-! ### How the paths' own state ends (R84, R87, R104, R116, R118, R119) -/

/-- What is left of a cache after its expiry is fresh (R84). -/
theorem cacheExpire_does (l : Live) (rank : Nat) :
    (∀ e, e ∈ (l.cacheExpire rank).dict.cache.get rank ↔ e ∈ l.dict.cache.get rank ∧ l.ticks ≤ e.at_ + 8000) ∧
    ∀ k, k ≠ rank → (l.cacheExpire rank).dict.cache.get k = l.dict.cache.get k := by
  unfold Live.cacheExpire
  rw [Live.setDict_dict]
  refine ⟨fun e => ?_, fun k other => Tbl.get_put_other _ _ other⟩
  rw [Tbl.get_put_same, List.mem_filter, CacheEntry.fresh, decide_eq_true_iff]

/-- A transfer whose last segment is 8,000 beats old closes, with event 78 unless it was served whole (R104). -/
theorem segmentAbandon_old {l : Live} {rank : Nat} {x : Transfer} (opened : l.dict.transfers.get rank = some x)
    (old : x.last + 8000 ≤ l.ticks) : l.segmentAbandon rank =
      let closed := l.setDict fun d => { d with transfers := d.transfers.del rank }
      if x.done then closed else closed.raise 78 := by
  unfold Live.segmentAbandon
  simp only [opened, if_pos old]

/-- A transfer with a segment in the last 8,000 beats stays open. -/
theorem segmentAbandon_recent {l : Live} {rank : Nat} {x : Transfer} (opened : l.dict.transfers.get rank = some x)
    (recent : l.ticks < x.last + 8000) : l.segmentAbandon rank = l := by
  unfold Live.segmentAbandon
  simp only [opened]
  exact if_neg (by omega)

/-- The previous epoch whose grace is over goes, with its key and its window (R116). -/
theorem epochGrace_over {l : Live} {k e : Nat} (grace : (l.sessions.get k).graceEnd = some e) (ended : e ≤ l.ticks) :
    l.epochGrace k = l.setSession k fun x => { x with graceEnd := none, oldKey := 0, oldWindow := {} } := by
  unfold Live.epochGrace
  simp only [grace, if_pos ended]

/-- What has arisen stays so through an entry of the fault journal. -/
theorem hostFault_mono {l : Live} {x : Occ} (ev : l.mode.evaluates = true) (f reason detail off : Nat) (data : List Byte)
    (arisen : x ∈ l.events.arisen) : x ∈ (l.hostFault f reason detail off data).events.arisen := by
  unfold Live.hostFault
  refine Live.raise_mono ?_ _ _ _ ?_
  · rw [blk_mode]; exact ev
  · rw [Live.blk_arisen]; exact arisen

/-- A doorbell while REQ_BUSY reads 1 is a protocol error, with event 79 (R119). -/
theorem doorbell_busy {l : Live} {f : Nat} (busy : (l.mailboxes.get f).reqBusy = true) (ev : l.mode.evaluates = true) :
    (l.doorbell f).mailboxes = (l.setMbx f fun m => { m with protocolError := true }).mailboxes ∧
    l.occ 79 ∈ (l.doorbell f).events.arisen := by
  unfold Live.doorbell
  rw [if_pos busy]
  refine ⟨?_, hostFault_mono ?_ _ _ _ _ _ (Live.raise_mem (a := l) ev ?_ ?_ ..)⟩
  · rw [(Live.hostFault_keeps ..).mailboxes_eq (by decide), Live.raise_mailboxes]
  · unfold Live.mode; rw [Live.raise_modes]; exact ev
  · exact Live.setMbx_modes ..
  · exact Live.setMbx_beat ..

/-- A response that none waits behind is released, and the area reads zero (R119). -/
theorem rspRelease_last {l : Live} {f : Nat} (ready : (l.mailboxes.get f).rspReady = true) (last : (l.mailboxes.get f).waiting = []) :
    l.rspRelease f = l.setMbx f Mailbox.release := by
  have released : ((l.setMbx f Mailbox.release).mailboxes.get f).waiting = [] := by
    rw [setMbx_same, Mailbox.release, if_pos ready, last]
  unfold Live.rspRelease Live.mbxNext
  exact if_pos (.inr released)

/-- Settles O27: each command's own lemma gives its outcome, and the laws of tables what it leaves of the other masters,
sessions and mailboxes. -/
theorem cachesTransfersAndMailboxesEnd : Obligations.CachesTransfersAndMailboxesEnd := by
  refine ⟨fun s m => ?_, fun s m on => ?_, fun s on => ?_, fun s m x opened old ev => ?_, fun s m x opened recent => ?_,
    fun s k e grace ended => ?_, fun s f serves idle => ?_, fun s f serves busy ev => ?_, fun s f serves ready last => ?_⟩
  · obtain ⟨t, ran, only, live⟩ := exec_touches (.requestCacheExpiry m) s rfl rfl rfl
    obtain ⟨own, others⟩ := cacheExpire_does s.live (rankOf m)
    exact ⟨t, ran, only, by rw [live]; rfl, by rw [live]; exact own, by rw [live]; exact others⟩
  · obtain ⟨t, ran, only, live⟩ := exec_touches (.myCacheFlush m) s rfl (if_pos on) rfl
    refine ⟨t, ran, only, by rw [live]; rfl, ?_, fun k other => ?_⟩
    · rw [live]; exact Tbl.get_del_same ..
    · rw [live]; exact Tbl.get_del_other _ other
  · obtain ⟨t, ran, only, live⟩ := exec_touches .clampClear s rfl (if_pos on) rfl
    exact ⟨t, ran, only, by rw [live]; rfl⟩
  · obtain ⟨t, ran, only, live⟩ := exec_touches (.segmentAbandoned m) s rfl (segmentAbandon_old opened old) rfl
    have ev' : (s.live.setDict fun d => { d with transfers := d.transfers.del (rankOf m) }).mode.evaluates = true := ev
    have dict : t.live.dict = { s.live.dict with transfers := s.live.dict.transfers.del (rankOf m) } := by
      rw [live]; split <;> simp
    refine ⟨t, ran, only, ?_, by rw [dict], ?_, fun k other => ?_, fun unserved => ?_, fun served => ?_⟩
    · rw [live]
      split
      · rfl
      · exact Live.raise_store ev' ..
    · rw [dict]; exact Tbl.get_del_same ..
    · rw [dict]; exact Tbl.get_del_other _ other
    · rw [live, unserved]
      exact arose_raise ev' rfl rfl ..
    · rw [live, served]; rfl
  · exact exec_idle (.segmentAbandoned m) s rfl (segmentAbandon_recent opened recent)
  · obtain ⟨t, ran, only, live⟩ := exec_touches (.keyEpochGraceEnd k) s rfl (epochGrace_over grace ended) rfl
    exact ⟨t, ran, only, by rw [live]; exact setSession_same .., fun j other => by rw [live]; exact setSession_other _ _ other⟩
  · have rings : s.live.doorbell f.val = s.live.setMbx f.val fun m => { m with reqBusy := true } := if_neg (by simp [idle])
    obtain ⟨t, ran, only, live⟩ := exec_to (.mbxDoorbell f) s rfl ((if_pos serves).trans rings) (Live.setMbx_keeps ..)
    exact ⟨t, ran, only, by rw [live]; exact setMbx_same .., fun j other => by rw [live]; exact setMbx_other _ _ other⟩
  · obtain ⟨t, ran, only, live⟩ := exec_touches (.mbxDoorbell f) s rfl (if_pos serves) rfl
    obtain ⟨mailboxes, arisen⟩ := doorbell_busy busy ev
    rw [← live] at mailboxes arisen
    refine ⟨t, ran, only, ?_, fun j other => ?_, arisen⟩
    · rw [mailboxes]; exact setMbx_same ..
    · rw [mailboxes]; exact setMbx_other _ _ other
  · obtain ⟨t, ran, only, live⟩ := exec_to (.mbxRspRelease f) s rfl ((if_pos serves).trans (rspRelease_last ready last))
      (Live.setMbx_keeps ..)
    refine ⟨t, ran, only, ?_, fun j other => by rw [live]; exact setMbx_other _ _ other⟩
    rw [live, setMbx_same, Mailbox.release, if_pos ready]

end Sys2Proof

namespace Sys2Proof

open Machine

/-! ### CAN ports (R97, R105, R108 to R112, R126) -/

/-- The error counters of a CAN port and its state are three cells. -/
theorem canState_keys (c : Nat) : Obj.key .TEC c 0 0 ≠ Obj.key .REC c 0 0 ∧ Obj.key .TEC c 0 0 ≠ Obj.key .STATE_0782 c 0 0 ∧
    Obj.key .REC c 0 0 ≠ Obj.key .STATE_0782 c 0 0 := by
  simp only [Obj.key, Obj.index, Obj.TEC, Obj.REC, Obj.STATE_0782]; omega

/-- A node table and the set of the nodes present are two cells. -/
theorem nodeTable_key (c : Nat) : Obj.key .NODE_TABLE c 0 0 ≠ Obj.key .NODES_PRESENT c 0 0 := by
  simp only [Obj.key, Obj.index, Obj.NODE_TABLE, Obj.NODES_PRESENT]; omega

theorem canErrorState_lt (tec rec : Nat) : canErrorState tec rec < 3 := by
  unfold canErrorState; split
  · decide
  · split <;> decide

/-- The error counters of a port that is neither disabled nor bus-off set its error state (R108). -/
theorem canErrors_does {l : Live} {c : Nat} (on_bus : l.rd .STATE_0782 c ≠ 2) (enabled : l.rd .STATE_0782 c ≠ 3) (tec rec : Nat) :
    l.cellsBut [Obj.key .TEC c 0 0, Obj.key .REC c 0 0, Obj.key .STATE_0782 c 0 0] (l.canErrors c tec rec) ∧
    (l.canErrors c tec rec).rd .TEC c = min tec (256 ^ Obj.len .TEC - 1) ∧
    (l.canErrors c tec rec).rd .REC c = min rec (256 ^ Obj.len .REC - 1) ∧
    (l.canErrors c tec rec).rd .STATE_0782 c = canErrorState tec rec := by
  obtain ⟨tec_rec, tec_state, rec_state⟩ := canState_keys c
  have set : l.canErrors c tec rec = ((l.wrSat .TEC tec c).wrSat .REC rec c).wr .STATE_0782 (canErrorState tec rec) c :=
    if_neg fun silent => silent.elim enabled on_bus
  rw [set]
  refine ⟨.wr (.wr (.wr (.refl _ _) (by simp)) (by simp)) (by simp), ?_, ?_, ?_⟩
  · rw [Live.rd_wr_other _ _ tec_state]
    exact (Live.rd_wr_other _ _ tec_rec).trans (rd_wrSat_same ..)
  · rw [Live.rd_wr_other _ _ rec_state, rd_wrSat_same]
  · rw [Live.rd_wr_same]
    exact Nat.mod_eq_of_lt (Nat.lt_trans (canErrorState_lt tec rec) (by decide))

/-- A port that comes back from bus-off is active, with its counters at 0 (R108). -/
theorem canRecovered_does (l : Live) (c : Nat) : let m := ((l.wr .STATE_0782 0 c).wr .TEC 0 c).wr .REC 0 c
    l.cellsBut [Obj.key .TEC c 0 0, Obj.key .REC c 0 0, Obj.key .STATE_0782 c 0 0] m ∧
    m.rd .STATE_0782 c = 0 ∧ m.rd .TEC c = 0 ∧ m.rd .REC c = 0 := by
  obtain ⟨tec_rec, tec_state, rec_state⟩ := canState_keys c
  refine ⟨.wr (.wr (.wr (.refl _ _) (by simp)) (by simp)) (by simp), ?_, ?_, ?_⟩
  · rw [Live.rd_wr_other _ _ rec_state.symm, Live.rd_wr_other _ _ tec_state.symm, Live.rd_wr_same, Nat.zero_mod]
  · rw [Live.rd_wr_other _ _ tec_rec, Live.rd_wr_same, Nat.zero_mod]
  · rw [Live.rd_wr_same, Nat.zero_mod]

/-- A frame sent whole on a bus that serves, in time, leaves the port's queue (R109). -/
theorem canTxEnd_sent {l : Live} {c : Nat} {f : CanFrame} (sending : (l.can.get c).sending = some f)
    (in_time : (l.can.get c).tooLate = false) (on_bus : l.rd .STATE_0782 c ≠ 2) :
    l.canTxEnd c true = l.setCan c fun _ => { l.can.get c with
      sending := none, progress := .idle, tooLate := false, drop := false, node := none, lastSent := some f } := by
  unfold Live.canTxEnd
  simp only [canStart_sending sending, sending, in_time, if_neg on_bus, Bool.false_eq_true, if_true, if_false]

/-- A roll-call that is due, with no call open before it, opens one (R111). -/
theorem rollcall_opens {l : Live} {c : Nat} (sends : l.mode.rollcalls = true) (serves : l.canServes c = true)
    (enabled : l.rdB .ROLLCALL_ENABLE c = true) (closed : (l.can.get c).callOpen = false)
    (due : (l.can.get c).lastCall + l.rd .ROLLCALL_INTERVAL c ≤ l.ticks) :
    l.rollcall c = l.setCan c fun p =>
      let n := (p.callSeq + 1) % 256
      { p with callSeq := n, lastCall := l.ticks, callOpen := true, answered := [], excuse := p.changedAt == some l.ticks,
               calls := p.calls ++ [l.canFrame c 0x380 (u8 n ++ u8 (l.rd .NODE c) ++ List.replicate 6 (byte 0))] } := by
  have unjudged : l.judgeCall c = l := if_pos (by simp [closed])
  unfold Live.rollcall
  rw [unjudged]
  exact if_pos ⟨sends, serves, enabled, due⟩

/-! ### Answers to a roll-call (R112) -/

/-- The port notes that a node answered the latest call. -/
def Machine.Live.answerNoted (l : Live) (c n : Nat) : Live :=
  l.setCan c fun p => { p with answered := n :: p.answered, missed := p.missed.del n }

/-- A node shows a new entry; where another was present under its number, that one is lost. -/
def Machine.Live.nodeShown (l : Live) (c n entry : Nat) : Live :=
  ((if bit (l.nodeEntry c n) 56 then l.raise (65 + 2 * c) (u8 n) else l).setNode c n entry).raise (64 + 2 * c) (u8 n)

/-- An answer that echoes the latest CALL_SEQ is noted, and an entry other than the one held is shown. -/
theorem rollcallAnswer_taken {l : Live} {c n : Nat} {data : List Byte} (numbered : n ≠ 0) (whole : 8 ≤ data.length)
    (called : (l.can.get c).callOpen = true) (echoes : fieldAt data 0 1 = (l.can.get c).callSeq) (serves : l.canServes c = true) :
    l.rollcallAnswer c n data =
      if l.nodeEntry c n = 2 ^ 56 + fieldAt data 1 7 then l.answerNoted c n
      else (l.answerNoted c n).nodeShown c n (2 ^ 56 + fieldAt data 1 7) := by
  unfold Live.rollcallAnswer
  exact if_neg (by simp [numbered, called, echoes, serves, Nat.not_lt.mpr whole])

/-- An entry that is set reads back from the node table, and no other cells change than the table and the set of the nodes
present. -/
theorem setNode_does (l : Live) (c n entry : Nat) :
    l.cellsBut [Obj.key .NODE_TABLE c 0 0, Obj.key .NODES_PRESENT c 0 0] (l.setNode c n entry) ∧
    (l.setNode c n entry).rd .NODE_TABLE c =
      setBits (l.rd .NODE_TABLE c) (64 * (31 - n)) 64 entry % 256 ^ Obj.len .NODE_TABLE := by
  unfold Live.setNode
  refine ⟨.wr (.wr (.refl _ _) (by simp)) (by simp), ?_⟩
  rw [Live.rd_wr_other _ _ (nodeTable_key c), Live.rd_wr_same]

/-- What a new entry changes: the node's cells, and the events of a node found and of the one lost. -/
theorem nodeShown_does {l : Live} (ev : l.mode.evaluates = true) (c n entry : Nat) :
    l.cellsBut [Obj.key .NODE_TABLE c 0 0, Obj.key .NODES_PRESENT c 0 0] (l.nodeShown c n entry) ∧
    (l.nodeShown c n entry).can = l.can ∧
    (l.nodeShown c n entry).rd .NODE_TABLE c =
      setBits (l.rd .NODE_TABLE c) (64 * (31 - n)) 64 entry % 256 ^ Obj.len .NODE_TABLE ∧
    l.occ (64 + 2 * c) (u8 n) ∈ (l.nodeShown c n entry).events.arisen ∧
    (bit (l.nodeEntry c n) 56 = true → l.occ (65 + 2 * c) (u8 n) ∈ (l.nodeShown c n entry).events.arisen) := by
  unfold Live.nodeShown
  generalize lost_eq : (if bit (l.nodeEntry c n) 56 then l.raise (65 + 2 * c) (u8 n) else l) = lost
  have kept : Keeps [.events] l lost := by
    rw [← lost_eq]; split
    · exact raise_keeps_events ev ..
    · exact .refl _ l
  have kept_set : Keeps [.store, .events] l (lost.setNode c n entry) :=
    .via (Live.setNode_keeps ..) rfl (kept.mono rfl)
  have ev_set : (lost.setNode c n entry).mode.evaluates = true := by rw [kept_set.mode_eq (by decide)]; exact ev
  obtain ⟨cells, table⟩ := setNode_does lost c n entry
  refine ⟨.raise ⟨fun o i k t other => ?_⟩ ev_set, ?_, ?_, ?_, fun present => ?_⟩
  · rw [cells.same o i k t other, kept.rd]
  · rw [Live.raise_can, kept_set.can_eq (by decide)]
  · rw [Live.raise_rd ev_set, table, kept.rd]
  · exact Live.raise_mem ev (kept_set.modes_eq (by decide)) (kept_set.beat_eq (by decide)) ..
  · refine Live.raise_mono ev_set _ _ _ ?_
    rw [(Live.setNode_keeps ..).events_eq (by decide), ← lost_eq, if_pos present]
    exact Live.raise_mem ev rfl rfl ..

/-- Settles O25: each command's own lemma gives its outcome, the laws of cells and counters what it leaves of the dictionary, and
the law of tables what it leaves of the other port. -/
theorem canPortsFollowTheirBus : Obligations.CanPortsFollowTheirBus := by
  refine ⟨fun s c f ev counts serves ignores => ?_, fun s c tec rec on_bus enabled => ?_, fun s c off_bus => ?_,
    fun s c f sending in_time on_bus => ?_, fun s c sends serves enabled closed due => ?_,
    fun s c n data numbered whole ev called echoes serves => ?_⟩
  · obtain ⟨t, ran, only, live⟩ := exec_touches (.canFrameIgnored c f) s rfl (if_pos ⟨serves, ignores⟩) rfl
    refine ⟨t, ran, only, ?_⟩
    rw [live]
    refine ⟨Live.count_cells ev .., Live.count_rd ev counts (Nat.zero_le _) (Nat.le_of_lt_succ c.isLt) ?_⟩
    simp only [Obj.key, Obj.index, Obj.RX_IGNORED, Obj.WRAPPED_ANY]; omega
  · obtain ⟨t, ran, only, live⟩ := exec_touches (.canErrorStateChange c tec rec) s rfl rfl rfl
    refine ⟨t, ran, only, ?_⟩
    rw [live]
    exact canErrors_does on_bus enabled tec rec
  · obtain ⟨t, ran, only, live⟩ := exec_touches (.canBusOffRecovery c) s rfl (if_pos off_bus) rfl
    refine ⟨t, ran, only, ?_⟩
    rw [live]
    exact canRecovered_does s.live c
  · obtain ⟨t, ran, only, live⟩ := exec_to (.canTxComplete c true) s rfl (canTxEnd_sent sending in_time on_bus)
      (Live.setCan_keeps ..)
    refine ⟨t, ran, only, ?_⟩
    rw [live]
    exact ⟨setCan_same .., fun d other => setCan_other _ _ other⟩
  · obtain ⟨t, ran, only, live⟩ := exec_to (.rollcall c) s rfl (rollcall_opens sends serves enabled closed due)
      (Live.setCan_keeps ..)
    refine ⟨t, ran, only, ?_⟩
    rw [live]
    refine ⟨fun d other => setCan_other _ _ other, fun n next => ?_⟩
    rw [setCan_same, ← next]
  · obtain ⟨t, ran, only, live⟩ := exec_touches (.rollcallAnswer c n data) s rfl
      (rollcallAnswer_taken numbered whole called echoes serves) rfl
    refine ⟨t, ran, only, ?_⟩
    rw [live]
    split
    · exact ⟨.of_store (.refl _ _) rfl, setCan_same .., rfl, rfl⟩
    · obtain ⟨cells, can, table, found, lost⟩ :=
        nodeShown_does (l := s.live.answerNoted c n) ev c.val n.val (2 ^ 56 + fieldAt data 1 7)
      exact ⟨⟨cells.same⟩, by rw [can]; exact setCan_same .., table, found, lost⟩

end Sys2Proof

namespace Sys2Proof

open Machine

/-! ### Power modules (R191, R192, R196) -/

/-- A command that changes the module of one bay changes the power part alone. -/
theorem exec_setsModule (c : Instr) (s : State) {y : Live} {b : Nat} {f : Module → Module}
    (runs : exec c s = .next (s.withLive y)) (outcome : y = s.live.setModule b f) :
    ∃ t, exec c s = .next t ∧ s.only [.power] t ∧ t.live.power =
      { s.live.power with modules := s.live.power.modules.put b (f (s.live.power.modules.get b)) } := by
  obtain ⟨t, ran, only, live⟩ := exec_to c s runs outcome (Live.setModule_keeps ..)
  exact ⟨t, ran, only, by rw [live]; rfl⟩

/-- A command that changes the module of one bay and reports it, where events are evaluated, changes nothing else. -/
theorem exec_reportsModule (c : Instr) (s : State) {y : Live} {b src : Nat} {data : List Byte} {f : Module → Module}
    (ev : s.live.mode.evaluates = true) (runs : exec c s = .next (s.withLive y))
    (outcome : y = (s.live.setModule b f).raise src data) :
    ∃ t, exec c s = .next t ∧ s.only [.power, .events] t ∧ t.live.power =
      { s.live.power with modules := s.live.power.modules.put b (f (s.live.power.modules.get b)) } ∧
      s.live.arose t.live [s.live.occ src data] := by
  have ev' : (s.live.setModule b f).mode.evaluates = true := ev
  obtain ⟨t, ran, only, live⟩ := exec_to (m := [.power, .events]) c s runs outcome
    (.via (raise_keeps_events ev' src data 0) rfl ((Live.setModule_keeps ..).mono rfl))
  refine ⟨t, ran, only, ?_, ?_⟩
  · rw [live, Live.raise_power]; rfl
  · rw [live]; exact arose_raise ev' rfl rfl src data 0

/-- A LOW_LINE module's input has been high for its 8,000 beats (R192). -/
theorem lineRise_high {l : Live} {b t0 : Nat} (low : (l.power.modules.get b).report = modLow)
    (since : (l.power.modules.get b).aboveSince = some t0) (long : t0 + 8000 ≤ l.ticks) :
    l.lineRise b = l.setModule b fun m => { m with report := modHigh, aboveSince := none } := by
  unfold Live.lineRise
  simp only [since]
  exact if_pos ⟨low, long⟩

/-- The warning of a module that carries load, where another carries too (R194) and where none does (R164). -/
theorem powerFailWarning_shared {l : Live} {b : Nat} (carries : (l.power.modules.get b).carries = true)
    (other : l.otherCarries b = true) : l.powerFailWarning b =
      (l.setModule b fun m => { m with report := modWarning, aboveSince := none }).raise 99 (u8 b) :=
  (if_pos carries).trans (if_pos (.inl other))

theorem powerFailWarning_last {l : Live} {b : Nat} (carries : (l.power.modules.get b).carries = true)
    (alone : l.otherCarries b = false) (on : l.mode ≠ .off) : l.powerFailWarning b =
      ((l.setModule b fun m => { m with report := modWarning, aboveSince := none }).raise 99 (u8 b)).shutdownRecord 0 :=
  (if_pos carries).trans (if_neg (by simp [alone, on]))

/-- A module regains its input where no other carries: no wake is looked for (R136, R192). -/
theorem mainsRestored_alone {l : Live} {b : Nat} {dc : Bool} {volts hz : Nat} (fitted : (l.power.modules.get b).fitted = true)
    (dark : (l.power.modules.get b).carries = false) (stays : (l.power.modules.get b).leaving = false)
    (inside : inputInRange dc volts hz = true) (alone : l.otherCarries b = false) :
    l.mainsRestored b dc volts hz = l.setModule b fun m =>
      { m with report := firstLine dc volts, kind := dc.toNat, volts := volts, hz := if dc then 0 else hz, aboveSince := none } := by
  unfold Live.mainsRestored
  rw [if_pos (by simp [fitted, dark, stays, inside]), if_neg (by simp [alone])]

/-! ### Silicon tokens (R202) -/

/-- A requester that holds no token and does not wait begins to. -/
theorem siliconRequest_new {l : Live} {r : Nat} (deferrable : r < 4) (empty : l.token r = 0)
    (silent : l.power.waiting.get r = none) :
    l.siliconRequest r = l.setPower fun p => { p with waiting := p.waiting.put r (some 0) } := by
  unfold Live.siliconRequest
  rw [if_pos ⟨deferrable, empty⟩, silent]

/-- Settles O12: each command sets the module of its bay, and reports it where it says so (`exec_setsModule`,
`exec_reportsModule`); a request and a release are one branch each. -/
theorem powerModulesAndTokens : Obligations.PowerModulesAndTokens := by
  refine ⟨fun s b dc volts hz inlet serial bay vacant ev => ?_, fun s b m is bay fitted stays ev => ?_,
    fun s b volts m is high ac fell above => ?_, fun s b t0 m is low since long => ?_, fun s b m is carries other ev => ?_,
    fun s b carries alone on => ?_, fun s b m is present => ?_, fun s b volts hz m is present stays outside => ?_,
    fun s b dc volts hz m is fitted dark stays inside alone => ?_, fun s r on wants empty silent => ?_, fun s r ends => ?_⟩
  · exact exec_reportsModule (.psuInserted b dc volts hz inlet serial) s ev rfl (if_pos (by simp [bay, vacant]))
  · subst is
    exact exec_reportsModule (.psuRemoved b) s ev rfl (if_pos (by simp [bay, fitted, stays]))
  · subst is
    exact exec_setsModule (.moduleLineFall b volts) s rfl (if_pos ⟨high, ac, fell, above⟩)
  · subst is
    exact exec_setsModule (.moduleLineRise b) s rfl (lineRise_high low since long)
  · subst is
    exact exec_reportsModule (.psuPowerFailWarning b) s ev rfl (powerFailWarning_shared carries other)
  · exact exec_touches (.psuPowerFailWarning b) s rfl (powerFailWarning_last carries alone on) rfl
  · subst is
    exact exec_setsModule (.psuFailed b) s rfl (if_pos present)
  · subst is
    exact exec_setsModule (.psuInputOutOfRange b volts hz) s rfl (if_pos (by simp [present, stays, outside]))
  · subst is
    exact exec_setsModule (.mainsRestored b dc volts hz) s rfl (mainsRestored_alone fitted dark stays inside alone)
  · obtain ⟨t, ran, only, live⟩ := exec_to (.siliconRequest r) s rfl
      ((if_pos ⟨on, wants⟩).trans (siliconRequest_new r.isLt empty silent)) (Live.setPower_keeps ..)
    exact ⟨t, ran, only, by rw [live]; rfl⟩
  · exact exec_touches (.siliconRelease r) s rfl ((if_pos ends).trans (if_pos r.isLt)) rfl

end Sys2Proof

namespace Sys2Proof

open Machine

/-! ### Mode requests (R128, R131, R138) -/

/-- What stands in the way of a request stays out of it as the request is taken. -/
structure Machine.Live.unhindered (l : Live) : Prop where
  restart : l.modes.restart = none
  goTo : l.modes.goTo ≠ some .wipe
  trial : l.trialExpired = false

theorem quiet_unexpired {l : Live} (q : l.quiet) : l.trialExpired = false := by
  unfold Live.trialExpired
  rw [q.trial, Bool.false_and]

/-- A DORMANT request that waits is carried out where no partial match stands (R138). -/
theorem dormantEval_enters {l : Live} (waits : l.modes.dormantAsked.isSome = true) (clear : l.partialMatch = false) :
    l.dormantEval.mode = .dormant := by
  obtain ⟨d, asked⟩ := Option.isSome_iff_exists.1 waits
  unfold Live.dormantEval
  simp only [asked]
  rw [if_pos (.inl (by simp [clear]))]
  exact enter_mode ..

/-- Where no DORMANT request waits the evaluation of one changes nothing. -/
theorem dormantEval_unasked {l : Live} (unasked : l.modes.dormantAsked = none) : l.dormantEval = l := by
  unfold Live.dormantEval
  rw [unasked]

/-- Without a cause of FREEZE the first mode whose cause is active is of the running family (R128). -/
theorem runningMode_running {l : Live} (thawed : l.freezeCause = false) : l.runningMode.1.running = true := by
  unfold Live.runningMode
  rw [if_neg (by simp [thawed])]
  split
  · rfl
  · split
    · rfl
    · split <;> rfl

/-- The evaluation of CONFIGURE and the running family goes past a wipe, a restart and a trial where none is due (R131). -/
theorem liveEval_unhindered {l : Live} (free : l.unhindered) : l.liveEval =
    if l.modes.goTo = some .configure then l.enter .configure 0xFF
    else if l.freezeCause then l.dormantWithdrawn.enter .freeze 0
    else if l.modes.goTo = some .listen then l.enter .listen 0xFF
    else if l.dormantEval.mode.running ∨ (l.dormantEval.mode = .configure ∧ l.dormantEval.modes.goTo = some .service) then
      l.dormantEval.enter l.dormantEval.runningMode.1 l.dormantEval.runningMode.2
    else l.dormantEval := by
  unfold Live.liveEval
  rw [if_neg free.goTo, free.restart]
  simp only [free.trial, Bool.false_eq_true, if_false]

theorem liveEval_configure {l : Live} (free : l.unhindered) (asked : l.modes.goTo = some .configure) :
    l.liveEval.mode = .configure := by
  rw [liveEval_unhindered free, if_pos asked]
  exact enter_mode ..

theorem liveEval_freeze {l : Live} (free : l.unhindered) (unasked : l.modes.goTo = none) (cause : l.freezeCause = true) :
    l.liveEval.mode = .freeze := by
  rw [liveEval_unhindered free, if_neg (by simp [unasked]), if_pos cause]
  exact enter_mode ..

theorem liveEval_listen {l : Live} (free : l.unhindered) (thawed : l.freezeCause = false)
    (asked : l.modes.goTo = some .listen) : l.liveEval.mode = .listen := by
  rw [liveEval_unhindered free, if_neg (by simp [asked]), if_neg (by simp [thawed]), if_pos asked]
  exact enter_mode ..

theorem liveEval_dormant {l : Live} (free : l.unhindered) (thawed : l.freezeCause = false) (unasked : l.modes.goTo = none)
    (waits : l.modes.dormantAsked.isSome = true) (clear : l.partialMatch = false) : l.liveEval.mode = .dormant := by
  have enters := dormantEval_enters waits clear
  rw [liveEval_unhindered free, if_neg (by simp [unasked]), if_neg (by simp [thawed]), if_neg (by simp [unasked]),
    if_neg (by simp [enters, Mode.running]), enters]

theorem liveEval_service {l : Live} (free : l.unhindered) (thawed : l.freezeCause = false) (configure : l.mode = .configure)
    (awake : l.modes.dormantAsked = none) (asked : l.modes.goTo = some .service) : l.liveEval.mode.running = true := by
  rw [liveEval_unhindered free, if_neg (by simp [asked]), if_neg (by simp [thawed]), if_neg (by simp [asked]),
    dormantEval_unasked awake, if_pos (.inr ⟨configure, asked⟩), enter_mode]
  exact runningMode_running thawed

/-- A request taken in a quiet state stands before the evaluation with its own wish alone. -/
theorem asks_unhindered {l : Live} {f : Modes → Modes} (q : l.quiet)
    (restart : (f { l.modes with dormantAsked := none }).restart = l.modes.restart)
    (goTo : (f { l.modes with dormantAsked := none }).goTo ≠ some .wipe) : (l.asks f).unhindered where
  restart := by rw [asks_modes]; exact restart.trans q.restart
  goTo := by rw [asks_modes]; exact goTo
  trial := trial_asks q.trial f

/-- Taking a request brings no cause of FREEZE but the request's own. -/
theorem asks_freezeCause {l : Live} (f : Modes → Modes) :
    (l.asks f).freezeCause = ((f { l.modes with dormantAsked := none }).freezeAsked || l.diagnoseCause) := by
  unfold Live.freezeCause
  rw [diagnose_asks, asks_modes]

/-- In CONFIGURE and the running family a MODE_REQUEST of any mode is answered OK, one of SERVICE on a commissioned unit
(R132). -/
theorem modeAllowed_leaves {l : Live} {v : Nat} (leaves : l.mode.leaves = true) (serves : v ≠ 6 ∨ l.rd .LC_STATE = 2) :
    l.modeAllowed v = true := by
  unfold Live.modeAllowed
  split
  case h_4 => simpa [leaves] using serves
  all_goals simp [leaves]

theorem request_configure {l : Live} (q : l.quiet) (running : l.mode.running = true) : (l.requestNow 5).mode = .configure := by
  have leaves : l.mode.leaves = true := by simp [Mode.leaves, running]
  rw [request_mode q (modeAllowed_leaves leaves (.inl (by decide))) (asked_configure (running_ne running) running) rfl leaves]
  exact liveEval_configure (asks_unhindered q rfl nofun) (by rw [asks_modes])

theorem request_service {l : Live} (q : l.quiet) (configure : l.mode = .configure) (serves : l.rd .LC_STATE = 2)
    (thawed : l.freezeCause = false) : (l.requestNow 6).mode.running = true := by
  have leaves : l.mode.leaves = true := by rw [configure]; rfl
  rw [request_mode q (modeAllowed_leaves leaves (.inr serves)) (asked_service configure) rfl leaves]
  exact liveEval_service (asks_unhindered q rfl nofun) ((asks_freezeCause _).trans thawed)
    (by unfold Live.mode; rw [asks_modes]; exact configure) (by rw [asks_modes]) (by rw [asks_modes])

theorem request_listen {l : Live} (q : l.quiet) (leaves : l.mode.leaves = true) (thawed : l.freezeCause = false) :
    (l.requestNow 2).mode = .listen := by
  rw [request_mode q (modeAllowed_leaves leaves (.inl (by decide))) (asked_listen (leaves_ne leaves).1) rfl leaves]
  exact liveEval_listen (asks_unhindered q rfl nofun) ((asks_freezeCause _).trans thawed) (by rw [asks_modes])

theorem request_freeze {l : Live} (q : l.quiet) (leaves : l.mode.leaves = true) : (l.requestNow 10).mode = .freeze := by
  rw [request_mode q (modeAllowed_leaves leaves (.inl (by decide))) (asked_freeze (leaves_ne leaves).2.2) rfl leaves]
  exact liveEval_freeze (asks_unhindered q rfl (by simp [q.goTo])) (by rw [asks_modes]; exact q.goTo)
    ((asks_freezeCause _).trans (Bool.true_or _))

/-- The machine as a request of DORMANT begins to wait. -/
def Machine.Live.dormantNoted (l : Live) : Live := l.setModes fun m => { m with dormantAsked := some l.ticks, acted := true }

theorem dormantNoted_unhindered {l : Live} (q : l.quiet) : l.dormantNoted.unhindered where
  restart := q.restart
  goTo := fun wipe => nomatch q.goTo.symm.trans wipe
  trial := quiet_unexpired (l := l) q

theorem request_dormant {l : Live} (q : l.quiet) (leaves : l.mode.leaves = true) (thawed : l.freezeCause = false)
    (clear : l.partialMatch = false) (unasked : l.modes.dormantAsked = none) : (l.requestNow 1).mode = .dormant := by
  have noted : l.requestNow 1 = l.dormantNoted.modeEval := by
    unfold Live.requestNow Live.modeCommand
    rw [if_neg (by simp [q.acted]), if_pos (modeAllowed_leaves leaves (.inl (by decide))),
      asked_dormant (leaves_ne leaves).2.1 unasked]
    rfl
  have leaves' : l.dormantNoted.mode.leaves = true := leaves
  rw [noted, modeEval_live leaves']
  exact liveEval_dormant (dormantNoted_unhindered q) thawed q.goTo rfl clear

/-! ### Restarts (R131, R147, R153) -/

/-- A wish for a restart takes effect as FREEZE is evaluated, where no wipe was asked for. -/
theorem modeEval_restarts_frozen {l : Live} {w : Nat} (frozen : l.mode = .freeze) (waits : l.modes.restart = some w)
    (unwiped : l.modes.goTo ≠ some .wipe) : l.modeEval.mode = .bringup := by
  rw [modeEval_stay frozen]
  unfold Live.stayEval
  rw [if_neg unwiped, waits]
  exact restart_mode l w

theorem restartCommand_restarts {l : Live} (free : l.modes.acted = false) (unwiped : l.modes.goTo ≠ some .wipe)
    (served : l.mode.leaves = true ∨ l.mode = .freeze) : l.restartCommand.2.modeEval.mode = .bringup := by
  unfold Live.restartCommand
  rw [if_neg (by simp [free]), if_pos served]
  have mode : (l.asks fun m => { m with restart := some 1 }).mode = l.mode := by unfold Live.mode; rw [asks_modes]
  have waits : (l.asks fun m => { m with restart := some 1 }).modes.restart = some 1 := by rw [asks_modes]
  have unwiped' : (l.asks fun m => { m with restart := some 1 }).modes.goTo ≠ some .wipe := by rw [asks_modes]; exact unwiped
  rcases served with leaves | frozen
  · exact modeEval_restarts (by rw [mode]; exact leaves) waits unwiped'
  · exact modeEval_restarts_frozen (mode.trans frozen) waits unwiped'

/-! ### Wake sources (R136) -/

/-- The first source to fire is noted with its beat. -/
theorem wakeFired_first {l : Live} (asleep : l.modes.wake = none) (source : Nat) :
    (l.wakeFired source).modes = { l.modes with wake := some source, wakeAt := l.ticks } := by
  unfold Live.wakeFired
  rw [asleep]

/-- MODE_CMD wakes from both supervisor modes, another enabled source from DORMANT where it is neither LINK nor PHRASE. -/
theorem wakeBy_command {l : Live} (super : l.mode = .dormant ∨ l.mode = .listen) : l.wakeBy 0 = l.wakeFired 0 := by
  unfold Live.wakeBy
  rcases super with mode | mode <;> rw [mode] <;> exact if_pos ⟨rfl, .inl rfl⟩

theorem wakeBy_dormant {l : Live} {source : Nat} (dormant : l.mode = .dormant) (fires : (source != 2 && source != 3) = true)
    (enabled : bit (l.rd .WAKE_SOURCES) source = true) : l.wakeBy source = l.wakeFired source := by
  unfold Live.wakeBy
  rw [dormant]
  exact if_pos ⟨fires, .inr enabled⟩

/-- A wake source that is first of its beat, as its command. -/
theorem execWake_first {s : State} {source : Fin 5} {line : Fin 52} (asleep : s.live.modes.wake = none)
    (runs : exec (.wake source line) s = .next (s.withLive (s.live.wakeFired source.val))) :
    ∃ t, exec (.wake source line) s = .next t ∧ s.only [.modes] t ∧
      t.live.modes = { s.live.modes with wake := some source.val, wakeAt := s.live.ticks } := by
  obtain ⟨t, ran, only, live⟩ := exec_to (.wake source line) s runs rfl (Live.wakeFired_keeps ..)
  exact ⟨t, ran, only, by rw [live, wakeFired_first asleep]⟩

/-- A command of the unit mode, as the statements of requests and restarts say it. -/
theorem exec_mode (c : Instr) (s : State) {y : Live} {P : Mode → Prop} (runs : exec c s = .next (s.withLive y)) (reached : P y.mode) :
    ∃ t, exec c s = .next t ∧ t.start = s.start ∧ t.pending = s.pending ∧ P t.live.mode := ⟨_, runs, rfl, rfl, reached⟩

/-- What is shown of the causes does not touch the mode. -/
theorem showCauses_mode (l : Live) : l.showCauses.mode = l.mode := (Live.showCauses_keeps l).mode_eq (by decide)

/-- Settles O14: each request's own lemma gives the mode that it leads to, `restart_mode` that of a restart; a wake and a
watchdog restart are noted. -/
theorem modeRequestsAndRestarts : Obligations.ModeRequestsAndRestarts := by
  refine ⟨fun s q running => ?_, fun s q configure serves thawed => ?_, fun s q leaves thawed => ?_,
    fun s q leaves thawed clear unasked => ?_, fun s q leaves => ?_, fun s waits served clear => ?_,
    fun s line super asleep => ?_, fun s line dormant enabled masked asleep => ?_, fun s free unwiped served => ?_,
    fun s served => ?_, fun s expired served => ?_⟩
  · exact exec_mode .modeRequestConfigure s (P := (· = .configure)) rfl (request_configure q running)
  · exact exec_mode .modeRequestService s (P := (·.running = true)) rfl (request_service q configure serves thawed)
  · exact exec_mode .modeRequestListen s (P := (· = .listen)) rfl (request_listen q leaves thawed)
  · exact exec_mode .modeRequestDormant s (P := (· = .dormant)) rfl (request_dormant q leaves thawed clear unasked)
  · exact exec_mode .modeRequestFreeze s (P := (· = .freeze)) rfl (request_freeze q leaves)
  · refine exec_mode .dormantEntry s (P := (· = .dormant)) rfl ?_
    dsimp only
    rw [if_pos ⟨waits, served⟩, showCauses_mode]
    exact dormantEval_enters waits clear
  · exact execWake_first asleep (State.effect_to ((if_pos rfl).trans (wakeBy_command super)))
  · exact execWake_first asleep (State.effect_to ((if_pos (by simp [masked, line.isLt])).trans (wakeBy_dormant dormant rfl enabled)))
  · exact exec_mode .warmRestart s (P := (· = .bringup)) rfl (restartCommand_restarts free unwiped served)
  · obtain ⟨t, ran, only, live⟩ := exec_to .watchdogRestart s rfl (if_pos served) (Live.setModes_keeps (fun _ => by exact rfl) _)
    exact ⟨t, ran, only, by rw [live]; rfl⟩
  · refine exec_mode .trialRevert s (P := (· = .bringup)) rfl ?_
    dsimp only [Live.restartNow]
    rw [if_pos expired, if_pos served, showCauses_mode]
    exact restart_mode ..

end Sys2Proof

namespace Sys2Proof

open Machine

/-! ### Tenancy commands (R170, R179, R181, R189) -/

/-- CREATE by the state of the tenancy: absent, being wiped, ACTIVE. -/
theorem tnCreate_absent {l : Live} {n : Nat} (absent : l.rd .TN_STATE n = 0) :
    l.tnCreate n = ((l.setTn n 1).raise 19 (u8 n) n).markDirty := by
  unfold Live.tnCreate
  simp only [absent]

theorem tnCreate_wiping {l : Live} {n : Nat} {w : TnWipe} (wiping : l.rd .TN_STATE n = 2) (runs : l.tnWipe n = some w) :
    l.tnCreate n = (l.setWipe n (some { w with create := true })).markDirty := by
  unfold Live.tnCreate
  simp only [wiping, runs]

theorem tnCreate_active {l : Live} {n : Nat} (active : l.rd .TN_STATE n = 1) : l.tnCreate n = l := by
  unfold Live.tnCreate
  simp only [active]

/-- CREATE of an engine that is on, as a command. -/
theorem execTnCreate_to {s : State} {n : Fin 7} {x : Live} (on : s.live.mode.engineOn = true)
    (creates : s.live.tnCreate (tnOf n) = x) : exec (.tnCreate n) s = .next (s.withLive x.tenanciesSettle) :=
  State.effect_to ((if_pos on).trans (congrArg Live.tenanciesSettle creates))

/-- RESET and DELETE where no entry of a drain waits for its acknowledgement: an ACTIVE tenancy's wipe starts, then the
responses made leave and what follows from the tenancies is computed (R179). -/
theorem wipeCommand_served {l : Live} {n : Nat} (command : Live → Nat → Live) (kind : WipeKind)
    (starts : ∀ l n, command l n = if l.rd .TN_STATE n = 1 then (l.wipeStart n kind).markDirty else l)
    (on : l.mode.engineOn = true) (untaken : ∀ f, f < 8 → (l.ring f 8).taken = []) :
    (if l.mode.engineOn then (command l.drainAcks n).deliver.tenanciesSettle else l) =
      if l.rd .TN_STATE n = 1 then (l.wipeStart n kind).markDirty.deliver.tenanciesSettle else l.deliver.tenanciesSettle := by
  rw [if_pos on, drainAcks_none untaken, starts, apply_ite Live.deliver, apply_ite Live.tenanciesSettle]

/-- A wipe whose end has come ends, the record is dirty, and what follows from the tenancies is computed again (R181). -/
theorem wipesOver_due {l : Live} {n : Nat} {w : TnWipe} (runs : l.tnWipe n = some w) (ended : w.endsAt ≤ l.ticks)
    (on : l.mode.engineOn = true) : l.wipesOver n = (l.wipeEnd n w).markDirty.tenanciesSettle := by
  unfold Live.wipesOver
  rw [runs]
  exact if_pos ⟨ended, on⟩

/-- Settles O11: each command of a tenancy takes the branch of its state, with no drain entry to acknowledge before RESET and
DELETE; what is computed at the end of a commit phase leaves the modes, and so the dirty record, alone. -/
theorem tenancyLifecycle : Obligations.TenancyLifecycle := by
  refine ⟨fun s n on absent => execTnCreate_to on (tnCreate_absent absent),
    fun s n w on wiping runs => execTnCreate_to on (tnCreate_wiping wiping runs),
    fun s n on active => execTnCreate_to on (tnCreate_active active),
    fun s n on untaken => State.effect_to (wipeCommand_served Live.tnReset .reset (fun _ _ => rfl) on untaken),
    fun s n on untaken => State.effect_to (wipeCommand_served Live.tnDelete .delete (fun _ _ => rfl) on untaken),
    fun s n w runs ended on => ?_, setTn_rd, fun l => ⟨rfl, Live.rd_wr_same .., ?_⟩⟩
  · obtain ⟨t, ran, start, queue, live⟩ := exec_lives (.tenancyWipeEnd n) s rfl (wipesOver_due runs ended on)
    refine ⟨t, ran, start, queue, ?_, live⟩
    rw [live, (Live.tenanciesSettle_keeps _).modes_eq (by decide)]
    rfl
  · exact .wr (.of_store (.refl _ l) rfl) (List.mem_singleton_self _)

end Sys2Proof

namespace Sys2Proof

open Machine

/-! ### Next hops (R336, R337) -/

/-- A cell that is set with its version leaves the forwarding unit's own record alone. -/
theorem wrV_fwd (l : Live) (o : Obj) (v i k t : Nat) : (l.wrV o v i k t).plane.fwd = l.plane.fwd := by
  unfold Live.wrV
  split
  · rfl
  · rw [Live.wr_plane]
    unfold Live.keepVersion
    split <;> rfl

/-- So does a table's element, which reads back; no other cell changes. -/
theorem setElemV_does (l : Live) (o : Obj) (e v : Nat) :
    l.cellsBut [o.key (e / 128) (e % 128) 0] (l.setElemV o e v) ∧ (l.setElemV o e v).elem o e = v % 256 ^ o.len ∧
    (l.setElemV o e v).plane.fwd = l.plane.fwd := by
  have cell : (l.setElemV o e v).rd o (e / 128) (e % 128) = v % 256 ^ o.len := by
    unfold Live.setElemV
    rw [heal_rd, Nat.zero_add, rd_wrV_same]
  refine ⟨⟨fun o' i k t other => ?_⟩, by unfold Live.elem; rw [Nat.zero_add, cell], ?_⟩
  · unfold Live.setElemV
    rw [heal_rd, Nat.zero_add]
    exact Live.rd_wrV_other (List.ne_of_not_mem_cons other)
  · unfold Live.setElemV
    rw [heal_fwd, wrV_fwd]

/-- The firmware's record of a next hop changes alone. -/
theorem setHop_does (l : Live) (n : Nat) (f : Resolution → Resolution) :
    (l.setHop n f).plane.fwd.nextHops.get n = f (l.plane.fwd.nextHops.get n) ∧
    ∀ k, k ≠ n → (l.setHop n f).plane.fwd.nextHops.get k = l.plane.fwd.nextHops.get k :=
  ⟨Tbl.get_upd_same .., fun _ => Tbl.get_upd_other _ _⟩

/-- The machine with a next hop UNRESOLVED again: its element's state, and the firmware's record of it (R336). -/
def Machine.Live.hopGivenUp (l : Live) (n : Nat) : Live :=
  (l.setElemV .NEXT_HOP_TABLE n (setBits (l.elem .NEXT_HOP_TABLE n) 253 2 0)).setHop n fun r =>
    { r with missed := 0, asked := none, done := none }

theorem hopGivenUp_does (l : Live) (n : Nat) :
    l.cellsBut [Obj.key .NEXT_HOP_TABLE (n / 128) (n % 128) 0] (l.hopGivenUp n) ∧
    (l.hopGivenUp n).elem .NEXT_HOP_TABLE n = setBits (l.elem .NEXT_HOP_TABLE n) 253 2 0 % 256 ^ 32 ∧
    (l.hopGivenUp n).plane.fwd.nextHops.get n = { l.plane.fwd.nextHops.get n with missed := 0, asked := none, done := none } ∧
    ∀ k, k ≠ n → (l.hopGivenUp n).plane.fwd.nextHops.get k = l.plane.fwd.nextHops.get k := by
  obtain ⟨cells, element, fwd⟩ := setElemV_does l .NEXT_HOP_TABLE n (setBits (l.elem .NEXT_HOP_TABLE n) 253 2 0)
  rw [← fwd]
  exact ⟨.of_store cells rfl, element, setHop_does ..⟩

/-- A RESOLVED hop that missed 3 resolutions, the last of them a second ago, is given up. -/
theorem execNhUnresolved_missed {s : State} {n : Fin 8192} {b : Nat} (valid : nhValid (s.live.elem .NEXT_HOP_TABLE n.val) = true)
    (resolved : nhState (s.live.elem .NEXT_HOP_TABLE n.val) = 1) (missed : 3 ≤ (s.live.plane.fwd.nextHops.get n.val).missed)
    (asked : (s.live.plane.fwd.nextHops.get n.val).asked = some b) (past : b + 8000 ≤ s.live.ticks)
    (running : s.live.mode.running = true) : execNhUnresolved n s = .next (s.withLive (s.live.hopGivenUp n.val)) := by
  unfold execNhUnresolved State.effect
  simp only [asked]
  rw [if_pos ⟨valid, resolved, missed, decide_eq_true past, running⟩]
  rfl

/-! ### Snooped groups (R338, R339) -/

/-- Members and router ports whose time is over are removed where the engine is on. -/
theorem snoopExpiry_on {l : Live} (on : l.mode.engineOn = true) : l.snoopExpiry =
    ((l.plane.fwd.routers.filter fun r => r.2.2 ≤ l.ticks).map (·.1)).eraseDups.foldl (fun l tn => l.showGroups tn)
      ((l.setFwd fun x => { x with routers := x.routers.filter fun r => l.ticks < r.2.2 }).keepMembers fun _ m => l.ticks < m.2) := by
  unfold Live.snoopExpiry
  exact if_pos on

/-- Settles O30: each command takes the branch that its hypotheses name; `setHop_does` and `hopGivenUp_does`
say what a hop that is asked for or given up changes. -/
theorem firmwareResolvesHopsAndSnoops : Obligations.FirmwareResolvesHopsAndSnoops := by
  refine ⟨fun s p vlan m routed answer => ?_, fun s p vlan m routed request own => ?_, fun s p vlan m unrouted => ?_,
    fun s n due => ?_, fun s n undue => ?_, fun s n b valid resolved missed asked past running => ?_,
    fun s p vlan ip6 groups frame snooped => ?_, fun s p vlan ip6 group snooped fast => ?_, fun s p vlan ip6 group slow => ?_,
    fun s p vlan frame snooped => ?_, fun s on => ?_⟩
  · exact exec_touches (.arpNdReceived p vlan m) s rfl ((if_pos routed).trans (if_neg (by simp [answer]))) rfl
  · obtain ⟨t, ran, only, live⟩ := exec_touches (.arpNdReceived p vlan m) s rfl ((if_pos routed).trans (if_pos ⟨request, own⟩)) rfl
    exact ⟨t, _, ran, only, rfl, live⟩
  · exact exec_idle (.arpNdReceived p vlan m) s rfl (if_neg (by simp [unrouted]))
  · obtain ⟨t, ran, only, live⟩ := exec_touches (.nhRefresh n) s rfl (if_pos due) rfl
    obtain ⟨noted, others⟩ := setHop_does s.live n.val fun r => { r with asked := some s.live.ticks, missed := r.missed + 1 }
    exact ⟨t, _, _, ran, only, live, rfl, noted, others⟩
  · exact exec_idle (.nhRefresh n) s rfl (if_neg (by simp [undue]))
  · obtain ⟨t, ran, only, live⟩ := exec_touches (.nhUnresolved n) s
      (execNhUnresolved_missed valid resolved missed asked past running) rfl rfl
    exact ⟨t, ran, only, by rw [live]; exact hopGivenUp_does ..⟩
  · obtain ⟨t, ran, only, live⟩ := exec_touches (.snoopReport p vlan ip6 groups frame) s rfl (if_pos snooped) rfl
    exact ⟨t, _, ran, only, rfl, live⟩
  · exact exec_touches (.snoopLeave p vlan ip6 group) s rfl (if_pos ⟨snooped, fast⟩) rfl
  · exact exec_idle (.snoopLeave p vlan ip6 group) s rfl (if_neg (by simp [slow]))
  · obtain ⟨t, ran, only, live⟩ := exec_touches (.snoopQuery p vlan frame) s rfl (if_pos snooped) rfl
    exact ⟨t, _, _, ran, only, rfl, rfl, live⟩
  · obtain ⟨t, ran, only, live⟩ := exec_touches .snoopMemberExpiry s rfl (snoopExpiry_on on) rfl
    exact ⟨t, _, ran, only, rfl, live⟩

end Sys2Proof

namespace Sys2Proof

open Machine

/-! ### PoE ports (R203, R205 to R207, R213, R217) -/

/-- A cell of an item reads as before when another subindex of the item is set. -/
theorem rd_wr_row (l : Live) {o o' : Obj} {v i : Nat}
    (row : o'.base = o.base ∧ o'.stride = o.stride ∧ o'.sub ≠ o.sub) : (l.wr o v i).rd o' i = l.rd o' i := by
  obtain ⟨base, stride, sub⟩ := row
  exact Live.rd_wr_other _ _ fun same => sub (by simp only [Obj.key, Obj.index, base, stride] at same; omega)

/-- A value that fits the object's type reads back as it was set. -/
theorem rd_wr_fits (l : Live) {o : Obj} {v i : Nat} (fits : v < 256 ^ o.len) : (l.wr o v i).rd o i = v :=
  (Live.rd_wr_same ..).trans (Nat.mod_eq_of_lt fits)

/-- The faults of a port that still count: those of the last 480,000 beats (R217). -/
def Machine.Live.faultsInWindow (l : Live) (k : Nat) : List Nat :=
  (l.power.ports.get k).faults.filter fun t => l.ticks ≤ t + 480000

/-- A fault with fewer than three others in the window makes its port search, and is counted (R206, R217). -/
theorem poeFault_counted {l : Live} {k reason : Nat} (ev : l.mode.evaluates = true) (code : reason < 256)
    (few : (l.faultsInWindow k).length < 3) :
    l.cellsBut (poeCells k) (l.poeFault k reason) ∧ (l.poeFault k reason).rd .STATE_0340 k = poeSearching ∧
    (l.poeFault k reason).rd .REASON k = reason ∧
    (l.poeFault k reason).rd .FAULTS_IN_WINDOW k = (l.faultsInWindow k).length + 1 := by
  have outcome : l.poeFault k reason = ((l.poeTo k poeSearching reason).setPse k fun p =>
      { p with faults := l.faultsInWindow k ++ [l.ticks] }).wr .FAULTS_IN_WINDOW ((l.faultsInWindow k).length + 1) k :=
    if_pos few
  obtain ⟨state, cause, -, -⟩ := poeTo_rd ev k poeSearching reason
  rw [outcome]
  refine ⟨.wr (.of_store (poeTo_cells ev ..) rfl) (by simp [poeCells]), ?_, ?_, ?_⟩
  · rw [rd_wr_row _ (by decide), Live.setPse_rd, state]
    rfl
  · rw [rd_wr_row _ (by decide), Live.setPse_rd, cause, Nat.mod_eq_of_lt code]
  · exact rd_wr_fits _ (Nat.lt_of_lt_of_le (Nat.succ_lt_succ few) (by decide))

/-- The fourth fault in the window puts its port in HOLD, the longer the higher its backoff level (R217). -/
theorem poeFault_held {l : Live} {k : Nat} (reason : Nat) (ev : l.mode.evaluates = true)
    (many : 3 ≤ (l.faultsInWindow k).length) (level : l.rd .BACKOFF_LEVEL k ≤ 4) :
    l.cellsBut (poeCells k) (l.poeFault k reason) ∧ (l.poeFault k reason).rd .STATE_0340 k = poeHold ∧
    (l.poeFault k reason).rd .REASON k = 10 ∧
    (l.poeFault k reason).rd .HOLD_REMAINING k = 240000 * 2 ^ l.rd .BACKOFF_LEVEL k ∧
    ((l.poeFault k reason).power.ports.get k).holdEnd = some (l.ticks + 240000 * 2 ^ l.rd .BACKOFF_LEVEL k) := by
  have outcome : l.poeFault k reason = (((l.poeTo k poeHold 10).setPse k fun p =>
      { p with faults := l.faultsInWindow k ++ [l.ticks], holdEnd := some (l.ticks + 240000 * 2 ^ l.rd .BACKOFF_LEVEL k) }).wr
        .HOLD_REMAINING (240000 * 2 ^ l.rd .BACKOFF_LEVEL k) k).wr .FAULTS_IN_WINDOW 3 k :=
    if_neg (Nat.not_lt.mpr many)
  have fits : 240000 * 2 ^ l.rd .BACKOFF_LEVEL k < 256 ^ Obj.HOLD_REMAINING.len :=
    calc 240000 * 2 ^ l.rd .BACKOFF_LEVEL k ≤ 240000 * 2 ^ 4 := Nat.mul_le_mul_left _ (Nat.pow_le_pow_right Nat.two_pos level)
      _ < 256 ^ Obj.HOLD_REMAINING.len := by decide
  obtain ⟨state, cause, -, -⟩ := poeTo_rd ev k poeHold 10
  rw [outcome]
  refine ⟨.wr (.wr (.of_store (poeTo_cells ev ..) rfl) (by simp [poeCells])) (by simp [poeCells]), ?_, ?_, ?_, ?_⟩
  · rw [rd_wr_row _ (by decide), rd_wr_row _ (by decide), Live.setPse_rd, state]
    rfl
  · rw [rd_wr_row _ (by decide), rd_wr_row _ (by decide), Live.setPse_rd, cause]
  · rw [rd_wr_row _ (by decide), rd_wr_fits _ fits]
  · rw [Live.wr_power, Live.wr_power, Live.setPse_power, Tbl.get_upd_same]

/-- A hold that expires makes its port search, with its faults forgotten and its backoff level one higher (R217). -/
theorem holdEnds_expired {l : Live} {k t0 : Nat} (ev : l.mode.evaluates = true) (held : l.rd .STATE_0340 k = poeHold)
    (ends : (l.power.ports.get k).holdEnd = some t0) (past : t0 ≤ l.ticks) :
    l.cellsBut (poeCells k) (l.holdEnds k) ∧ (l.holdEnds k).rd .STATE_0340 k = poeSearching ∧
    (l.holdEnds k).rd .REASON k = 0 ∧ (l.holdEnds k).rd .FAULTS_IN_WINDOW k = 0 ∧
    (l.holdEnds k).rd .BACKOFF_LEVEL k = min 4 (l.rd .BACKOFF_LEVEL k + 1) ∧
    ((l.holdEnds k).power.ports.get k).faults = [] ∧ ((l.holdEnds k).power.ports.get k).holdEnd = none := by
  have outcome : l.holdEnds k = (l.poeTo k poeSearching 0).wr .BACKOFF_LEVEL (min 4 (l.rd .BACKOFF_LEVEL k + 1)) k := by
    unfold Live.holdEnds
    simp only [ends]
    exact if_pos ⟨held, past⟩
  obtain ⟨state, cause, -, -⟩ := poeTo_rd ev k poeSearching 0
  obtain ⟨no_hold, no_faults, no_count⟩ := poeTo_hold ev k poeSearching 0 (by decide) held
  rw [outcome, Live.wr_power]
  refine ⟨.wr (poeTo_cells ev ..) (by simp [poeCells]), ?_, ?_, ?_, ?_, no_faults, no_hold⟩
  · rw [rd_wr_row _ (by decide), state]
    rfl
  · rw [rd_wr_row _ (by decide), cause]
  · rw [rd_wr_row _ (by decide), no_count]
  · exact rd_wr_fits _ (Nat.lt_of_le_of_lt (Nat.min_le_left ..) (by decide))

/-- The machine with a port's PD classified: it waits for power (R203, R205). -/
def Machine.Live.poeClassified (l : Live) (k : Nat) (cls : Fin 9) (second : Option (Fin 9)) (type : Fin 5) : Live :=
  ((((l.wr .STATE_0340 poeWaiting k).wr .REASON 0 k).wr .CLASS cls.val k).wr .PD_TYPE
    (type.val + (if second.isSome then 0x80 else 0)) k).setPse k fun p => { p with class2 := second.map Fin.val }

/-- The class and the type read back, and no cell of another port changes. -/
theorem poeClassified_does (l : Live) (k : Nat) (cls : Fin 9) (second : Option (Fin 9)) (type : Fin 5) :
    l.cellsBut (poeCells k) (l.poeClassified k cls second type) ∧
    (l.poeClassified k cls second type).rd .STATE_0340 k = poeWaiting ∧
    (l.poeClassified k cls second type).rd .REASON k = 0 ∧ (l.poeClassified k cls second type).rd .CLASS k = cls.val ∧
    (l.poeClassified k cls second type).rd .PD_TYPE k = type.val + (if second.isSome then 0x80 else 0) := by
  have class_fits : cls.val < 256 ^ Obj.CLASS.len := Nat.lt_trans cls.isLt (by decide)
  have type_fits : type.val + (if second.isSome then 0x80 else 0) < 256 ^ Obj.PD_TYPE.len := by
    have one_byte : 256 ^ Obj.PD_TYPE.len = 256 := rfl
    split <;> omega
  unfold Live.poeClassified
  simp only [Live.setPse_rd]
  refine ⟨?_, ?_, ?_, ?_, rd_wr_fits _ type_fits⟩
  · exact .of_store (.wr (.wr (.wr (.wr (.refl ..) (by simp [poeCells])) (by simp [poeCells])) (by simp [poeCells]))
      (by simp [poeCells])) rfl
  · rw [rd_wr_row _ (by decide), rd_wr_row _ (by decide), rd_wr_row _ (by decide)]
    exact rd_wr_fits _ (by decide)
  · rw [rd_wr_row _ (by decide), rd_wr_row _ (by decide)]
    exact rd_wr_fits _ (by decide)
  · rw [rd_wr_row _ (by decide)]
    exact rd_wr_fits _ class_fits

/-- Settles O13: each command takes the branch that its hypotheses name; `poeTo_rd` and `poeTo_cells` say what a port's change
of state leaves, `poeFault_counted`, `poeFault_held` and `holdEnds_expired` what a fault and a hold's end do. -/
theorem poePortsMoveByTheirEvents : Obligations.PoePortsMoveByTheirEvents := by
  refine ⟨fun s k cls second type searching => ?_, fun s k powered ev => ?_, fun s k short powered ev few => ?_,
    fun s k short powered ev many level => ?_, fun s k powered ev waited undrawn few => ?_,
    fun s k t0 held ev ends past => ?_, fun s k powered long => ?_, fun s k watts powered allowed asked => ?_,
    fun s ports some_report => ?_, fun s ports => ?_⟩
  · obtain ⟨t, ran, only, live⟩ := exec_touches (x := s.live.poeClassified k.val cls second type)
      (.pdClassified k cls second type) s rfl (if_pos searching) rfl
    obtain ⟨cells, state, cause, classed, kind⟩ := poeClassified_does s.live k.val cls second type
    exact ⟨t, ran, only, by rw [live]; exact ⟨cells, state, cause, classed, kind, rfl⟩⟩
  · obtain ⟨t, ran, only, live⟩ := exec_touches (.pdRemoved k) s rfl (if_pos powered) rfl
    obtain ⟨state, cause, -, classed⟩ := poeTo_rd ev k.val poeSearching 9
    exact ⟨t, ran, only, by rw [live]; exact ⟨poeTo_cells ev .., state, cause, classed rfl, poeTo_arose ev powered⟩⟩
  · obtain ⟨t, ran, only, live⟩ := exec_touches (.pdFault k short) s rfl (if_pos powered) rfl
    exact ⟨t, ran, only, by rw [live]; exact poeFault_counted ev (by split <;> decide) few⟩
  · obtain ⟨t, ran, only, live⟩ := exec_touches (.pdFault k short) s rfl (if_pos powered) rfl
    exact ⟨t, ran, only, by rw [live]; exact poeFault_held _ ev many level⟩
  · obtain ⟨t, ran, only, live⟩ := exec_touches (.faultStartup k) s rfl (if_pos ⟨powered, waited, by simp [undrawn]⟩) rfl
    obtain ⟨cells, state, cause, -⟩ := poeFault_counted ev (reason := 8) (by decide) few
    exact ⟨t, ran, only, by rw [live]; exact ⟨cells, state, cause⟩⟩
  · obtain ⟨t, ran, only, live⟩ := exec_touches (.holdEnd k) s rfl rfl rfl
    exact ⟨t, ran, only, by rw [live]; exact holdEnds_expired ev held ends past⟩
  · obtain ⟨t, ran, only, live⟩ := exec_touches (.backoffLevelReset k) s rfl (if_pos ⟨powered, long⟩) rfl
    exact ⟨t, ran, only, by rw [live]; exact ⟨.wr (.refl ..) (List.mem_singleton_self _), rd_wr_fits _ (by decide)⟩⟩
  · obtain ⟨t, ran, only, live⟩ := exec_touches (.lldpPowerRequest k watts) s rfl (if_pos ⟨powered, allowed, asked⟩) rfl
    exact ⟨t, ran, only, by rw [live]; rfl⟩
  · obtain ⟨t, ran, only, live⟩ := exec_to (.pseControllerFault ports) s rfl (if_neg some_report) (Live.setPower_keeps ..)
    exact ⟨t, ran, only, by rw [live]; rfl⟩
  · obtain ⟨t, ran, only, live⟩ := exec_touches (.pseControllerFaultClear ports) s rfl rfl rfl
    exact ⟨t, ran, only, by rw [live]; rfl⟩

end Sys2Proof

namespace Sys2Proof

open Machine

/-! ### Uplink modules (R231 to R233) -/

/-- The cells of a port's module. -/
def moduleCells (p : Nat) : List Nat :=
  [Obj.key .MODULE_STATE p 0 0, Obj.key .MODULE_ID p 0 0, Obj.key .MODULE_DDM p 0 0, Obj.key .MODULE_ALARMS p 0 0]

/-- A change of one port's record is seen there and at no other port. -/
theorem setPort_does (l : Live) (p : Nat) (f : Port → Port) :
    (l.setPort p f).portRt p = f (l.portRt p) ∧ ∀ q, q ≠ p → (l.setPort p f).portRt q = l.portRt q :=
  ⟨Live.setPort_same .., fun _ => Live.setPort_other l f⟩

/-- Where ports run, a disabled port rests as it is while only its module's cells change (R265). -/
theorem restState_disabled {l m : Live} {p : Nat} (cells : l.cellsBut (moduleCells p) m) (mode : m.mode = l.mode)
    (on : l.mode.portsRun = true) (off : l.rdB .ENABLE_0400 p = false) (disabled : l.linkState p = linkDisabled) :
    m.linkState p = linkDisabled ∧ m.restState p = linkDisabled ∧ m.linkSettle p = m := by
  have off' : m.rdB .ENABLE_0400 p = false := by
    unfold Live.rdB at off ⊢
    rw [cells.same .ENABLE_0400 p 0 0 (by simp [moduleCells, Obj.key, Obj.index, Obj.ENABLE_0400, Obj.MODULE_STATE,
      Obj.MODULE_ID, Obj.MODULE_DDM, Obj.MODULE_ALARMS]; omega), off]
  have disabled' : m.linkState p = linkDisabled := by
    unfold Live.linkState at disabled ⊢
    rw [cells.same .LINK_STATE_0401 p 0 0 (by simp [moduleCells, Obj.key, Obj.index, Obj.LINK_STATE_0401, Obj.MODULE_STATE,
      Obj.MODULE_ID, Obj.MODULE_DDM, Obj.MODULE_ALARMS]; omega), disabled]
  have on' : m.mode.portsRun = true := by rw [mode]; exact on
  refine ⟨disabled', ?_, linkSettle_disabled on' off' disabled'⟩
  unfold Live.restState
  rw [if_neg (by simp [on']), if_pos (by simp [off'])]

/-- A module that becomes present is unidentified, with its transmitter off (R231). -/
theorem moduleArrives_does {l : Live} (ev : l.mode.evaluates = true) (p : Nat) :
    l.cellsBut [Obj.key .MODULE_STATE p 0 0] (l.moduleArrives p) ∧ (l.moduleArrives p).rd .MODULE_STATE p = 1 ∧
    ((l.moduleArrives p).portRt p).present = true ∧ ((l.moduleArrives p).portRt p).txDisabled = true ∧
    (∀ q, q ≠ p → (l.moduleArrives p).portRt q = l.portRt q) ∧ l.arose (l.moduleArrives p) [l.occ 248 (u8 (p - 48))] := by
  unfold Live.moduleArrives
  refine ⟨.raise (.wr (.of_store (.refl _ l) rfl) (List.mem_singleton_self _)) ev, ?_, ?_, ?_, fun q other => ?_,
    arose_raise (by exact ev) (by rfl) (by rfl) ..⟩
  · rw [Live.raise_rd (by exact ev)]; exact rd_wr_fits _ (by decide)
  · rw [Live.raise_portRt, Live.wr_portRt, Live.setPort_same]
  · rw [Live.raise_portRt, Live.wr_portRt, Live.setPort_same]
  · rw [Live.raise_portRt, Live.wr_portRt, Live.setPort_other _ _ other]

/-- A port's module with its identification stored, accepted and its transmitter on (R231). -/
def Machine.Live.moduleServed (l : Live) (p : Nat) (id : List Byte) : Live :=
  ((l.wr .MODULE_ID (beVal (slice id 0 96)) p).wr .MODULE_STATE 2 p).setPort p fun x => { x with txDisabled := false }

theorem moduleServed_does (l : Live) (p : Nat) (id : List Byte) :
    l.cellsBut [Obj.key .MODULE_ID p 0 0, Obj.key .MODULE_STATE p 0 0] (l.moduleServed p id) ∧
    (l.moduleServed p id).rd .MODULE_STATE p = 2 ∧
    (l.moduleServed p id).rd .MODULE_ID p = beVal (slice id 0 96) % 256 ^ 96 ∧
    ((l.moduleServed p id).portRt p).txDisabled = false := by
  unfold Live.moduleServed
  refine ⟨.keep (Live.setPort_keeps ..) (.wr (.wr (.refl _ l) (by simp)) (by simp)), ?_, ?_, ?_⟩
  · rw [Live.setPort_rd]; exact rd_wr_fits _ (by decide)
  · rw [Live.setPort_rd, rd_wr_row _ (by decide), Live.rd_wr_same]; rfl
  · rw [Live.setPort_same]

/-- An accepted identification on a disabled port leaves its link alone. -/
theorem identify_accepted {l : Live} {p : Nat} {id : List Byte} (awaits : l.rd .MODULE_STATE p = 1)
    (on : l.mode.portsRun = true) (accepted : moduleAccepted id = true) (off : l.rdB .ENABLE_0400 p = false)
    (disabled : l.linkState p = linkDisabled) : l.identify p true id = l.moduleServed p id := by
  have cells : l.cellsBut (moduleCells p) (l.moduleServed p id) :=
    .keep (Live.setPort_keeps ..) (.wr (.wr (.refl _ l) (by simp [moduleCells])) (by simp [moduleCells]))
  obtain ⟨-, -, settled⟩ := restState_disabled cells rfl on off disabled
  unfold Live.identify
  rw [if_neg (by simp [awaits, modulesRun_of_ports on]), if_pos rfl]
  exact (if_pos accepted).trans settled

/-- A failed read that is not the third is counted (R231). -/
theorem identify_failed {l : Live} {p : Nat} (awaits : l.rd .MODULE_STATE p = 1) (on : l.mode.modulesRun = true)
    (few : (l.portRt p).idFails + 1 < 3) (id : List Byte) :
    l.identify p false id = l.setPort p fun x => { x with idFails := (l.portRt p).idFails + 1 } := by
  unfold Live.identify
  rw [if_neg (by simp [awaits, on]), if_neg Bool.false_ne_true]
  exact if_neg (Nat.not_le.mpr few)

/-- A port's record and cells without a module (R232). -/
def Machine.Live.moduleCleared (l : Live) (p : Nat) : Live :=
  ((((l.setPort p fun x =>
    { x with present := false, idFails := 0, faulted := false, txDisabled := true, release := none, txFaults := [] }).wr
      .MODULE_STATE 0 p).wr .MODULE_ID 0 p).wr .MODULE_DDM 0 p).wr .MODULE_ALARMS 0 p

theorem moduleCleared_does (l : Live) (p : Nat) :
    l.cellsBut (moduleCells p) (l.moduleCleared p) ∧ (l.moduleCleared p).rd .MODULE_STATE p = 0 ∧
    (l.moduleCleared p).rd .MODULE_ID p = 0 ∧ ((l.moduleCleared p).portRt p).present = false := by
  unfold Live.moduleCleared
  refine ⟨?_, ?_, ?_, ?_⟩
  · exact .wr (.wr (.wr (.wr (.of_store (.refl _ l) rfl) (by simp [moduleCells])) (by simp [moduleCells]))
      (by simp [moduleCells])) (by simp [moduleCells])
  · rw [rd_wr_row _ (by decide), rd_wr_row _ (by decide), rd_wr_row _ (by decide)]
    exact rd_wr_fits _ (by decide)
  · rw [rd_wr_row _ (by decide), rd_wr_row _ (by decide), Live.rd_wr_same, Nat.zero_mod]
  · simp only [Live.wr_portRt, Live.setPort_same]

/-- Removal from a disabled port leaves its link alone. -/
theorem moduleRemoved_disabled {l : Live} {p : Nat} (present : (l.portRt p).present = true) (on : l.mode.portsRun = true)
    (off : l.rdB .ENABLE_0400 p = false) (disabled : l.linkState p = linkDisabled) :
    l.moduleRemoved p = (l.moduleCleared p).raise 249 := by
  obtain ⟨cells, -⟩ := moduleCleared_does l p
  obtain ⟨still, rest, -⟩ := restState_disabled cells rfl on off disabled
  have stays : (l.moduleCleared p).linkRest p ((l.moduleCleared p).restState p) = l.moduleCleared p := by
    unfold Live.linkRest
    exact if_pos (still.trans rest.symm)
  unfold Live.moduleRemoved
  rw [if_neg (by simp [present])]
  exact (if_pos (modulesRun_of_ports on)).trans (congrArg (Live.raise · 249) stays)

/-- The first TX_FAULT of an accepted module on a port that is not UP turns its transmitter off for 8 beats (R233). -/
theorem txFault_first {l : Live} {p : Nat} (accepted : l.rd .MODULE_STATE p = 2) (on : l.mode.modulesRun = true)
    (first : (l.portRt p).txFaults = []) (not_up : l.linkState p ≠ linkUp) :
    l.txFault p = l.setPort p fun x => { x with txFaults := [l.ticks], txDisabled := true, release := some (l.ticks + 8) } := by
  unfold Live.txFault
  rw [if_neg (by simp [accepted, on]), first]
  refine (if_neg (show ¬ 3 ≤ 1 by decide)).trans ?_
  unfold Live.linkLost
  exact if_pos (.inr (.inl not_up))

/-- TX_DISABLE is released once its 8 beats are over (R233). -/
theorem txRelease_over {l : Live} {u b : Nat} (held : (l.portRt (48 + u)).release = some b) (ended : b ≤ l.ticks) :
    l.txRelease u = l.setPort (48 + u) fun x =>
      { x with release := none, txDisabled := l.linkState (48 + u) == linkSuppressed } := by
  unfold Live.txRelease
  simp only [held]
  exact if_pos ended

/-- Page A2h reads back from the module's two cells (R231). -/
theorem moduleDiagnosed_does (l : Live) (p : Nat) (ddm alarms : List Byte) :
    let m := (l.wr .MODULE_DDM (beVal (slice ddm 0 10)) p).wr .MODULE_ALARMS (beVal (slice alarms 0 4)) p
    l.cellsBut [Obj.key .MODULE_DDM p 0 0, Obj.key .MODULE_ALARMS p 0 0] m ∧
    m.rd .MODULE_DDM p = beVal (slice ddm 0 10) % 256 ^ 10 ∧ m.rd .MODULE_ALARMS p = beVal (slice alarms 0 4) % 256 ^ 4 := by
  refine ⟨.wr (.wr (.refl _ l) (by simp)) (by simp), ?_, Live.rd_wr_same ..⟩
  exact (rd_wr_row _ (by decide)).trans (Live.rd_wr_same ..)

/-- Settles O8: each command takes the branch that its hypotheses name; `restState_disabled` says why a disabled port's link does
not move with its module. -/
theorem uplinkModulesComeAndGo : Obligations.UplinkModulesComeAndGo := by
  refine ⟨fun s u absent on => ?_, fun s u present => ?_, fun s u id awaits on accepted off disabled => ?_,
    fun s u id awaits on few => ?_, fun s u present on off disabled => ?_, fun s u => ?_,
    fun l u accepted on first not_up => txFault_first accepted on first not_up, fun s u b held ended => ?_,
    fun s u ddm alarms accepted declares on => ?_⟩
  · obtain ⟨t, ran, only, live⟩ := exec_touches (.sfpInserted u) s rfl ((if_neg (by simp [absent])).trans (if_pos on)) rfl
    have arrives := moduleArrives_does (modulesRun_ev on) (48 + u.val)
    rw [Nat.add_sub_cancel_left] at arrives
    exact ⟨t, ran, only, by rw [live]; exact arrives⟩
  · exact exec_idle (.sfpInserted u) s rfl (if_pos present)
  · obtain ⟨t, ran, only, live⟩ := exec_to (m := [.store, .plane]) (.moduleIdentify u true id) s rfl
      (identify_accepted awaits on accepted off disabled)
      (.via (Live.setPort_keeps ..) rfl (.via (Live.wr_keeps ..) rfl ((Live.wr_keeps ..).mono rfl)))
    exact ⟨t, ran, only, by rw [live]; exact moduleServed_does ..⟩
  · obtain ⟨t, ran, only, live⟩ := exec_to (.moduleIdentify u false id) s rfl (identify_failed awaits on few id)
      (Live.setPort_keeps ..)
    exact ⟨t, ran, only, by rw [live]; exact setPort_does ..⟩
  · have cleared : Keeps [.store, .plane] s.live (s.live.moduleCleared (48 + u.val)) :=
      .via (Live.wr_keeps ..) rfl (.via (Live.wr_keeps ..) rfl (.via (Live.wr_keeps ..) rfl (.via (Live.wr_keeps ..) rfl
        ((Live.setPort_keeps ..).mono rfl))))
    obtain ⟨t, ran, only, live⟩ := exec_to (m := [.store, .plane, .events]) (.sfpRemoved u) s rfl
      (moduleRemoved_disabled present on off disabled) (.via (Live.raise_keeps ..) rfl (cleared.mono rfl))
    have ev : (s.live.moduleCleared (48 + u.val)).mode.evaluates = true := portsRun_ev on
    obtain ⟨cells, state, ident, gone⟩ := moduleCleared_does s.live (48 + u.val)
    refine ⟨t, ran, only, ?_⟩
    rw [live, Live.raise_rd ev, Live.raise_rd ev, Live.raise_portRt]
    exact ⟨.raise cells ev, state, ident, gone, arose_raise ev rfl rfl ..⟩
  · obtain ⟨t, ran, only, live⟩ := exec_touches (.txFault u) s rfl rfl rfl
    exact ⟨t, ran, only, by rw [live]; exact setPort_does ..⟩
  · obtain ⟨t, ran, only, live⟩ := exec_touches (.txDisableRelease u) s rfl (txRelease_over held ended) rfl
    exact ⟨t, ran, only, by rw [live]; exact setPort_does ..⟩
  · obtain ⟨t, ran, only, live⟩ := exec_touches (.moduleDdmRead u ddm alarms) s rfl (if_pos ⟨accepted, declares, on⟩) rfl
    exact ⟨t, ran, only, by rw [live]; exact moduleDiagnosed_does ..⟩

end Sys2Proof

namespace Sys2Proof

open Machine

/-! ### The half-life of a penalty (R247) -/

/-- M is the one number between the bounds of R247. -/
theorem decayFactor_unique {h m : Nat} (set : h ≠ 0) (low : 2 * m ^ h ≤ 65536 ^ h) (high : 65536 ^ h < 2 * (m + 1) ^ h) :
    decayFactor h = m := by
  obtain ⟨found_low, found_high⟩ := decayFactor_floor h set
  exact Nat.le_antisymm (q_greatest h set _ _ found_low high) (q_greatest h set _ _ low found_high)

/-- Settles O23: `decay_each` gives what a decay makes of each port's PENALTY, suppressed or not, and `decayFactor_unique` says
that the factor it takes is M. -/
theorem penaltiesDecayByTheHalfLife : Obligations.PenaltiesDecayByTheHalfLife := by
  intro s on falls undone
  obtain ⟨t, ran, only, live⟩ := exec_touches .penaltyDecay s rfl (if_pos ⟨on, falls, undone⟩) rfl
  obtain ⟨decayed, -, halfLife⟩ := decay_each s.live (modulesRun_ev on) 52
  refine ⟨t, ran, only, fun p port => ?_⟩
  rw [live, Live.setPlane_rd, Live.setPlane_rd, decayed p port, halfLife]
  refine ⟨rfl, fun m set low high => ?_⟩
  rw [decayFactor_unique set low high, Nat.shiftRight_eq_div_pow]
  rfl

end Sys2Proof

namespace Sys2Proof

open Machine

/-! ### Pause timers and storms (R238, R243 to R245) -/

/-- A pause timer's value shows in its bit of PAUSED_RX and in its port's record, and nowhere else (R238). -/
theorem setPause_does (l : Live) (p q t : Nat) :
    l.cellsBut [Obj.key .PAUSED_RX p 0 0] (l.setPause p q t) ∧
    (l.setPause p q t).rd .PAUSED_RX p = setBit (l.rd .PAUSED_RX p) q (t != 0) % 256 ^ 4 := by
  unfold Live.setPause
  exact ⟨.wr (.of_store (.refl _ l) rfl) (List.mem_singleton_self _), Live.rd_wr_same ..⟩

/-- What a PFC frame counts before its times are taken (R238). -/
def Machine.Live.pfcCounted (l : Live) (p : Nat) (f : List Byte) : Live :=
  ((l.count .PFC_RX_FRAMES 1 p).blk (macBlock p) .signalA 1 p).count .PFC_RX_IGNORED
    ((members 8 (pfcVector f)).filter fun q => !bit (l.rd .PFC_RX_ENABLE p) q).length p

/-- The counts of a PFC frame touch neither the storms nor the port's record. -/
theorem pfcCounted_does {l : Live} (ev : l.mode.evaluates = true) (p : Nat) (f : List Byte) :
    (l.pfcCounted p f).rd .STORM_ACTIVE p = l.rd .STORM_ACTIVE p ∧ ∀ r, (l.pfcCounted p f).portRt r = l.portRt r := by
  have no_counter : Obj.key .STORM_ACTIVE p 0 0 ≠ Obj.key .PFC_RX_FRAMES p 0 0 ∧
      Obj.key .STORM_ACTIVE p 0 0 ≠ Obj.key .PFC_RX_IGNORED p 0 0 ∧
      Obj.key .STORM_ACTIVE p 0 0 ≠ Obj.key .WRAPPED_ANY 0 0 0 := by
    simp only [Obj.key, Obj.index, Obj.STORM_ACTIVE, Obj.PFC_RX_FRAMES, Obj.PFC_RX_IGNORED, Obj.WRAPPED_ANY]; omega
  obtain ⟨not_frames, not_ignored, not_wrapped⟩ := no_counter
  have ev' : ((l.count .PFC_RX_FRAMES 1 p).blk (macBlock p) .signalA 1 p).mode.evaluates = true := by
    rw [blk_mode]; unfold Live.mode; rw [Live.count_modes]; exact ev
  unfold Live.pfcCounted
  refine ⟨?_, fun r => by rw [Live.count_portRt, Live.blk_portRt, Live.count_portRt]⟩
  rw [Live.rd_count_other ev' not_ignored not_wrapped, blk_rd, Live.rd_count_other ev not_frames not_wrapped]

/-- The machine as a PFC frame has set its timers: those of the priorities it names that are enabled and that no storm holds
(R238, R244). -/
def Machine.Live.pfcTimed (l : Live) (p : Nat) (f : List Byte) : Live :=
  (l.pfcCounted p f).forL ((members 8 (pfcVector f)).filter fun q =>
    bit (l.rd .PFC_RX_ENABLE p) q && !bit (l.rd .STORM_ACTIVE p) q) fun l q => l.setPause p q (pfcTime f q)

theorem pfcTimed_does {l : Live} (ev : l.mode.evaluates = true) (p : Nat) (f : List Byte) :
    l.pfcReceived p f = (l.pfcTimed p f).kick p ∧
    (∀ q, q < 8 → ((l.pfcTimed p f).portRt p).pause.get q =
      if bit (pfcVector f) q ∧ bit (l.rd .PFC_RX_ENABLE p) q ∧ ¬ bit (l.rd .STORM_ACTIVE p) q then pfcTime f q
      else (l.portRt p).pause.get q) ∧
    ∀ r, r ≠ p → (l.pfcTimed p f).portRt r = l.portRt r := by
  obtain ⟨storms, ports⟩ := pfcCounted_does ev p f
  obtain ⟨-, timers, others⟩ := setPause_all p (pfcTime f) ((members 8 (pfcVector f)).filter fun q =>
    bit (l.rd .PFC_RX_ENABLE p) q && !bit (l.rd .STORM_ACTIVE p) q) (l.pfcCounted p f)
  refine ⟨?_, fun q priority => ?_, fun r other => (others r other).trans (ports r)⟩
  · unfold Live.pfcReceived Live.pfcTimed
    rw [← storms]
    rfl
  · refine (timers q).trans ?_
    rw [ports]
    exact if_congr (by simp [members, priority, and_comm]) rfl rfl

/-- The machine as a storm trips, before the port is offered its next frame (R243, R244). -/
def Machine.Live.stormTripped (l : Live) (p q : Nat) : Live :=
  (((((l.wr .STORM_ACTIVE (setBit (l.rd .STORM_ACTIVE p) q true) p).count .STORM_TRIPS 1 p).setStormBeats p q 8000).setPause p q
    0).recoveryStart 4 (8 * p + q) (l.portOwner p)).raise 256 (u8 p ++ u8 q) (l.portOwner p)

theorem stormTripped_does {l : Live} (ev : l.mode.evaluates = true) (p q : Nat) :
    (l.stormTripped p q).rd .STORM_ACTIVE p = setBit (l.rd .STORM_ACTIVE p) q true % 256 ^ 4 ∧
    ((l.stormTripped p q).portRt p).pause.get q = 0 ∧
    l.occ 256 (u8 p ++ u8 q) (l.portOwner p) ∈ (l.stormTripped p q).events.arisen ∧
    ∀ r, r ≠ p → (l.stormTripped p q).portRt r = l.portRt r := by
  have no_counter : Obj.key .STORM_ACTIVE p 0 0 ≠ Obj.key .STORM_TRIPS p 0 0 ∧
      Obj.key .STORM_ACTIVE p 0 0 ≠ Obj.key .WRAPPED_ANY 0 0 0 ∧
      Obj.key .STORM_ACTIVE p 0 0 ≠ Obj.key .PAUSED_RX p 0 0 := by
    simp only [Obj.key, Obj.index, Obj.STORM_ACTIVE, Obj.STORM_TRIPS, Obj.WRAPPED_ANY, Obj.PAUSED_RX]; omega
  obtain ⟨not_trips, not_wrapped, not_paused⟩ := no_counter
  unfold Live.stormTripped Live.setStormBeats
  generalize tripped : ((l.wr .STORM_ACTIVE (setBit (l.rd .STORM_ACTIVE p) q true) p).count .STORM_TRIPS 1 p).wr .STORM_BEATS _ p
    = m
  have kept : Keeps [.store, .events] l m := by
    rw [← tripped]
    exact .via (Live.wr_keeps ..) rfl (.via (Live.count_keeps ..) rfl ((Live.wr_keeps ..).mono rfl))
  have active : m.rd .STORM_ACTIVE p = setBit (l.rd .STORM_ACTIVE p) q true % 256 ^ 4 := by
    rw [← tripped, rd_wr_row _ (by decide), Live.rd_count_other (by exact ev) not_trips not_wrapped, Live.rd_wr_same]
    rfl
  have started : Keeps [.store, .plane, .events, .recoveries] l
      ((m.setPause p q 0).recoveryStart 4 (8 * p + q) (l.portOwner p)) :=
    .via (Live.recoveryStart_keeps ..) rfl (.via (Live.setPause_keeps ..) rfl (kept.mono rfl))
  have port (r : Nat) : m.portRt r = l.portRt r := by unfold Live.portRt; rw [kept.plane_eq (by decide)]
  refine ⟨?_, ?_, ?_, fun r other => ?_⟩
  · rw [Live.raise_rd (by rw [started.mode_eq (by decide)]; exact ev), (Live.recoveryStart_keeps ..).rd,
      setPause_other not_paused, active]
  · rw [Live.raise_portRt, recoveryStart_portRt, setPause_port, Tbl.get_put_same]
  · exact Live.raise_mem ev (started.modes_eq (by decide)) (started.beat_eq (by decide)) ..
  · rw [Live.raise_portRt, recoveryStart_portRt, setPause_others _ _ _ other, port]

/-- The machine as a storm's window ends, before the port is offered its next frame (R245). -/
def Machine.Live.stormCleared (l : Live) (p q : Nat) : Live :=
  (l.wr .STORM_ACTIVE (setBit (l.rd .STORM_ACTIVE p) q false) p).raise 257 [] (l.portOwner p)

theorem stormCleared_does {l : Live} (ev : l.mode.evaluates = true) (p q : Nat) :
    l.cellsBut [Obj.key .STORM_ACTIVE p 0 0] (l.stormCleared p q) ∧
    (l.stormCleared p q).rd .STORM_ACTIVE p = setBit (l.rd .STORM_ACTIVE p) q false % 256 ^ 4 ∧
    l.arose (l.stormCleared p q) [l.occ 257 [] (l.portOwner p)] := by
  unfold Live.stormCleared
  refine ⟨.raise (.wr (.refl _ l) (List.mem_singleton_self _)) ev, ?_, arose_raise (by exact ev) (by rfl) (by rfl) ..⟩
  rw [Live.raise_rd (by exact ev), Live.rd_wr_same]
  rfl

/-- With no recovery under way or done, the end of a storm's window journals none. -/
theorem stormClear_eq {l : Live} {p q : Nat} (active : bit (l.rd .STORM_ACTIVE p) q = true) (window : l.stormBeats p q = 0)
    (on : l.mode.engineOn = true) (idle : l.recoveries.active = []) (none_done : l.recoveries.done = []) :
    l.stormClear p q = (l.stormCleared p q).kick p := by
  have kept : Keeps [.store, .plane, .events] l ((l.stormCleared p q).kick p) :=
    .via (Live.kick_keeps ..) rfl (.via (Live.raise_keeps ..) rfl ((Live.wr_keeps ..).mono rfl))
  have recoveries := kept.recoveries_eq (by decide)
  have no_span : ((l.stormCleared p q).kick p).recoveryDone 4 (8 * p + q) = (l.stormCleared p q).kick p :=
    recoveryDone_none (by rw [recoveries, idle]) ..
  unfold Live.stormClear
  refine (if_pos ⟨active, window, on⟩).trans ((congrArg Live.journalRecoveries no_span).trans (journal_none ?_))
  rw [recoveries, none_done]

/-! ### Reclaim passes, flushes and histograms (R379, R431) -/

/-- A reclaim pass of 768 beats that ends shows the cells free (R379). -/
theorem reclaimDone_over {l : Live} {t0 : Nat} (began : l.plane.reclaim = some t0) (past : t0 + 768 ≤ l.ticks)
    (runs : l.mode ≠ .freeze) :
    l.reclaimDone = (l.setPlane fun x => { x with reclaim := none, reclaimCells := 0 }).showCells := by
  unfold Live.reclaimDone
  simp only [began]
  exact if_pos ⟨past, runs⟩

/-- The figures of the fabric read as the plane has them (R372). -/
theorem showCells_does (l : Live) :
    l.cellsBut [Obj.key .CELLS_FREE 0 0 0, Obj.key .CELLS_FREE_LOW 0 0 0, Obj.key .ENTRIES_FREE 0 0 0] l.showCells ∧
    l.showCells.rd .CELLS_FREE = l.cellsFree % 256 ^ 4 ∧ l.showCells.plane = l.plane := by
  unfold Live.showCells
  refine ⟨.wr (.wr (.wr (.refl _ l) (by simp)) (by simp)) (by simp), ?_, rfl⟩
  rw [rd_wr_row _ (by decide), rd_wr_row _ (by decide), Live.rd_wr_same]
  rfl

/-- A flush shows its beat, and event 416 tells of it (R431). -/
theorem flushQueues_does {l : Live} (ev : l.mode.evaluates = true) (p mask : Nat) :
    (l.flushQueues p mask).rd .LAST_FLUSH_BEAT p = l.now % 256 ^ 8 ∧
    ∃ n tn, l.occ 416 (u8 p ++ u64 (mask % 256) ++ u32 n) tn ∈ (l.flushQueues p mask).events.arisen := by
  unfold Live.flushQueues
  extract_lets qs sent emptied
  have kept : Keeps [.store, .plane, .events] l emptied :=
    .forL (fun l q => .via (Live.removeEntries_keeps ..) rfl (.forL (fun l e => .via (Live.blk_keeps ..) rfl
      (.via (Live.count_keeps ..) rfl ((Live.queueDrop_keeps ..).mono rfl))) (.refl _ l))) (.refl _ l)
  have modes := kept.modes_eq (by decide)
  refine ⟨?_, sent.length, l.portOwner p, Live.raise_mem ev ?_ ?_ ..⟩
  · rw [Live.raise_rd (by unfold Live.mode; rw [Live.wr_modes, Live.wr_modes, modes]; exact ev), Live.rd_wr_same]
    rfl
  · rw [Live.wr_modes, Live.wr_modes, modes]
  · rw [Live.wr_beat, Live.wr_beat, kept.beat_eq (by decide)]

/-- Settles O9: each command's own lemma gives what it does before the port is offered its next frame; `setPause_all` and
`hist_all` say what a set of priorities and of queues makes of the timers and the histograms. -/
theorem flowControlAndQueues : Obligations.FlowControlAndQueues := by
  refine ⟨fun s p vector times receives => ?_, fun s p q running thawed => ?_, fun s p q xoff receives busy => ?_,
    fun s p q enabled inactive long on => ?_, fun s p q active ended on idle none_done => ?_,
    fun s t0 began past runs => ?_, fun s p mask on => ?_, fun s p mask on => ?_⟩
  · have ev := (engineOn_live (receives_engine receives)).1
    obtain ⟨received, timers, others⟩ := pfcTimed_does ev p.val (pfcBytes (vector % 256) fun q => times.getD q 0)
    obtain ⟨t, ran, only, live⟩ := exec_touches (.pfcFrameReceived p vector times) s rfl ((if_pos receives).trans received) rfl
    exact ⟨t, ran, only, live, timers, others⟩
  · obtain ⟨t, ran, only, live⟩ := exec_touches (.pauseTimerExpiry p q) s rfl (if_pos ⟨running, thawed⟩) rfl
    obtain ⟨cells, paused⟩ := setPause_does s.live p.val q.val 0
    exact ⟨t, ran, only, live, cells, paused, setPause_port .., fun r other => setPause_others _ _ _ other⟩
  · have due : s.live.duePfc p.val q.val = s.live.setPort p.val fun x => { x with pfcDue := setBit x.pfcDue q.val true } :=
      startPfc_busy (by rw [Live.setPort_same]; exact busy)
    obtain ⟨t, ran, only, live⟩ := exec_to (.pfcRefresh p q) s rfl ((if_pos ⟨xoff, receives⟩).trans due) (Live.setPort_keeps ..)
    exact ⟨t, ran, only, by rw [live]; exact setPort_does ..⟩
  · obtain ⟨t, ran, only, live⟩ := exec_touches (.pfcStormTrip p q) s rfl (if_pos ⟨enabled, by simp [inactive], long, on⟩) rfl
    exact ⟨t, ran, only, live, stormTripped_does (engineOn_live on).1 ..⟩
  · obtain ⟨t, ran, only, live⟩ := exec_to (m := [.store, .plane, .events]) (.pfcStormClear p q) s rfl
      (stormClear_eq active ended on idle none_done)
      (.via (Live.kick_keeps ..) rfl (.via (Live.raise_keeps ..) rfl ((Live.wr_keeps ..).mono rfl)))
    exact ⟨t, ran, only, live, stormCleared_does (engineOn_live on).1 ..⟩
  · obtain ⟨t, ran, only, live⟩ := exec_touches .reclaimPassDone s rfl (reclaimDone_over began past runs) rfl
    obtain ⟨cells, free, plane⟩ := showCells_does (s.live.setPlane fun x => { x with reclaim := none, reclaimCells := 0 })
    refine ⟨t, ran, only, ?_⟩
    rw [live]
    exact ⟨⟨cells.same⟩, plane, free⟩
  · obtain ⟨t, ran, only, live⟩ := exec_touches (.flush p mask) s rfl (if_pos on) rfl
    refine ⟨t, ran, only, ?_⟩
    rw [live]
    have flushed := flushQueues_does (engineOn_live on).1 p.val (mask % 256)
    rwa [Nat.mod_mod] at flushed
  · obtain ⟨t, ran, only, live⟩ := exec_touches (.histClear p mask) s rfl (if_pos on) rfl
    refine ⟨t, ran, only, fun k => ?_⟩
    have cleared := hist_all p.val (members 8 mask) k s.live
    rw [live]
    exact ⟨fun named => cleared.trans (if_pos named), fun unnamed => cleared.trans (if_neg unnamed)⟩

end Sys2Proof

namespace Sys2Proof

open Machine

/-! ### Received frames (R234 to R236) -/

/-- A counter that counts changes its own cell and WRAPPED_ANY. -/
theorem cellsBut_count {ks : List Nat} {a b : Live} {o : Obj} {n i k t : Nat} (before : a.cellsBut ks b)
    (ev : b.mode.evaluates = true) (own : o.key i k t ∈ ks) (wraps : Obj.key .WRAPPED_ANY 0 0 0 ∈ ks) :
    a.cellsBut ks (b.count o n i k t) := by
  refine ⟨fun o' i' k' t' other => ?_⟩
  rw [Live.rd_count_other ev (fun same => other (by rw [same]; exact own)) (fun same => other (by rw [same]; exact wraps))]
  exact before.same o' i' k' t' other

/-- A frame whose last byte has arrived, counted by the MAC's blocks and not yet judged (R234). -/
def Machine.Live.frameSeen (l : Live) (at_ p : Nat) (f : List Byte) : Live :=
  ((l.at at_).blk (macBlock p) .eventsIn 1 p).blk (macBlock p) .bytesIn f.length p

/-- The blocks' counters are no cells of the dictionary. -/
theorem frameSeen_rd (l : Live) (at_ p : Nat) (f : List Byte) (o : Obj) (i k t : Nat) :
    (l.frameSeen at_ p f).rd o i k t = l.rd o i k t := by
  unfold Live.frameSeen; rw [blk_rd, blk_rd, Live.at_rd]

/-- Counting the blocks leaves the mode: a port that receives does so with the engine on. -/
theorem frameSeen_on {l : Live} {p : Nat} (receives : l.receives p = true) (at_ : Nat) (f : List Byte) :
    (l.frameSeen at_ p f).mode.engineOn = true :=
  (received_blk l at_ p f.length (receives_engine receives)).2

/-- A frame that is refused counts in one counter of its port's receiver (R234, R235). -/
theorem frameRefused_does {l : Live} {p : Fin 52} (receives : l.receives p.val = true) (at_ : Nat) (f : List Byte) {o : Obj}
    (counter : o.base = 0x0407 ∧ o.stride = 16 ∧ o.sub < 256 ∧ o.lo = 0 ∧ o.hi = 55) :
    l.cellsBut [o.key p.val 0 0, Obj.key .WRAPPED_ANY 0 0 0] ((l.frameSeen at_ p.val f).macDiscard p.val o) ∧
    ((l.frameSeen at_ p.val f).macDiscard p.val o).rd o p.val = (l.rd o p.val + 1) % 256 ^ o.len := by
  obtain ⟨base, stride, sub, first, last⟩ := counter
  have no_wrap : o.key p.val 0 0 ≠ Obj.key .WRAPPED_ANY 0 0 0 := by
    simp only [Obj.key, Obj.index, base, stride, Obj.WRAPPED_ANY]; omega
  obtain ⟨cells, counted⟩ := macDiscard_does (frameSeen_on receives at_ f) p.val o (by omega) (by omega) no_wrap
  refine ⟨⟨fun o' i k t other => (cells.same o' i k t other).trans (frameSeen_rd ..)⟩, counted.trans ?_⟩
  exact congrArg (fun v => (v + 1) % 256 ^ o.len) (frameSeen_rd ..)

section
variable {l : Live} {p : Nat} {f : List Byte}

/-- The first test of a received frame that fails refuses it: the FIFO, the FCS, the least length, MAX_FRAME (R234, R235). -/
theorem receiveFrame_overflow (long : fifoBytes p < f.length) (at_ age ts : Nat) :
    (l.at at_).receiveFrame p f false false age ts = ((l.frameSeen at_ p f).macDiscard p .RX_OVERFLOW_DROPS).mark 258 :=
  if_pos (.inr long)

theorem receiveFrame_error (fits : f.length ≤ fifoBytes p) (bad : fcsGood f = false) (at_ age ts : Nat) :
    (l.at at_).receiveFrame p f false false age ts = (l.frameSeen at_ p f).macDiscard p .RX_ERRORS :=
  (if_neg (by simp [fits])).trans (if_pos (by simp [bad]))

theorem receiveFrame_runt (fits : f.length ≤ fifoBytes p) (good : fcsGood f = true) (short : f.length < 64) (at_ age ts : Nat) :
    (l.at at_).receiveFrame p f false false age ts =
      ((l.frameSeen at_ p f).macDiscard p .RX_RUNTS).blk (macBlock p) .signalB 1 p :=
  (if_neg (by simp [fits])).trans ((if_neg (by simp [good])).trans (if_pos short))

/-- MAX_FRAME is read as of the frame's ingress beat, which the blocks' counters do not move (R43). -/
theorem frameSeen_rdAt (l : Live) (at_ p : Nat) (f : List Byte) (b : Nat) (o : Obj) (i : Nat) :
    (l.frameSeen at_ p f).rdAt b o i = l.rdAt b o i := by
  unfold Live.frameSeen; rw [blk_rdAt, blk_rdAt]; rfl

theorem receiveFrame_oversize (fits : f.length ≤ fifoBytes p) (good : fcsGood f = true) (whole : 64 ≤ f.length) {age : Nat}
    (exceeds : l.rdAt (l.ticks - min (min age 61) l.ticks) .MAX_FRAME p < f.length) (at_ ts : Nat) :
    (l.at at_).receiveFrame p f false false age ts = (l.frameSeen at_ p f).macDiscard p .RX_OVERSIZE :=
  (if_neg (by simp [fits])).trans ((if_neg (by simp [good])).trans ((if_neg (Nat.not_lt.mpr whole)).trans
    (if_pos ((frameSeen_rdAt ..).trans_lt exceeds))))

/-- A frame that passes every test counts, and the MAC hands it on (R235). -/
def Machine.Live.frameAdmitted (l : Live) (at_ p : Nat) (f : List Byte) : Live :=
  ((((l.frameSeen at_ p f).count .RX_FRAMES 1 p).count .RX_BYTES f.length p).blk (macBlock p) .eventsOut 1 p).blk (macBlock p)
    .bytesOut f.length p

theorem receiveFrame_admitted (fits : f.length ≤ fifoBytes p) (good : fcsGood f = true) (whole : 64 ≤ f.length) {age : Nat}
    (inside : f.length ≤ l.rdAt (l.ticks - min (min age 61) l.ticks) .MAX_FRAME p) (no_control : fieldAt f 12 2 ≠ 0x8808)
    (no_slow : fieldAt f 12 2 ≠ 0x8809) (at_ ts : Nat) :
    (l.at at_).receiveFrame p f false false age ts = (l.frameAdmitted at_ p f).classify p (l.ticks - min (min age 61) l.ticks)
      (l.beat.numberAgo (min (min age 61) l.ticks)) (ts % 2 ^ 64 / 8 * 8) f :=
  (if_neg (by simp [fits])).trans ((if_neg (by simp [good])).trans ((if_neg (Nat.not_lt.mpr whole)).trans
    ((if_neg (Nat.not_lt.mpr (inside.trans_eq (frameSeen_rdAt ..).symm))).trans
      ((if_neg fun pfc => no_control pfc.1).trans (if_neg fun control => control.elim no_control no_slow)))))

end

theorem frameAdmitted_does {l : Live} {p : Fin 52} (receives : l.receives p.val = true) (at_ : Nat) (f : List Byte) :
    l.cellsBut [Obj.key .RX_FRAMES p.val 0 0, Obj.key .RX_BYTES p.val 0 0, Obj.key .WRAPPED_ANY 0 0 0]
      (l.frameAdmitted at_ p.val f) ∧
    (l.frameAdmitted at_ p.val f).rd .RX_FRAMES p.val = (l.rd .RX_FRAMES p.val + 1) % 256 ^ 8 ∧
    (l.frameAdmitted at_ p.val f).rd .RX_BYTES p.val = (l.rd .RX_BYTES p.val + f.length) % 256 ^ 8 := by
  have keys : Obj.key .RX_FRAMES p.val 0 0 ≠ Obj.key .RX_BYTES p.val 0 0 ∧
      Obj.key .RX_FRAMES p.val 0 0 ≠ Obj.key .WRAPPED_ANY 0 0 0 ∧ Obj.key .RX_BYTES p.val 0 0 ≠ Obj.key .WRAPPED_ANY 0 0 0 := by
    simp only [Obj.key, Obj.index, Obj.RX_FRAMES, Obj.RX_BYTES, Obj.WRAPPED_ANY]; omega
  obtain ⟨distinct, frames_wrap, bytes_wrap⟩ := keys
  obtain ⟨ev, counts⟩ := engineOn_live (frameSeen_on receives at_ f)
  have seen : Keeps [.plane, .events] l (l.frameSeen at_ p.val f) :=
    .via (Live.blk_keeps ..) rfl (.via (Live.blk_keeps ..) rfl ((Live.at_keeps ..).mono rfl))
  have low (o : Obj) (first : o.lo = 0) : o.lo ≤ p.val := by omega
  have high (o : Obj) (last : o.hi = 55) : p.val ≤ o.hi := by omega
  generalize counted : (l.frameSeen at_ p.val f).count .RX_FRAMES 1 p.val = m
  have mode : m.mode = (l.frameSeen at_ p.val f).mode := by rw [← counted]; unfold Live.mode; rw [Live.count_modes]
  have ev' : m.mode.evaluates = true := by rw [mode]; exact ev
  unfold Live.frameAdmitted
  rw [counted, blk_rd, blk_rd, blk_rd, blk_rd]
  refine ⟨.keep (Live.blk_keeps ..) (.keep (Live.blk_keeps ..) (cellsBut_count ?_ ev' (by simp) (by simp))), ?_, ?_⟩
  · rw [← counted]
    exact cellsBut_count (.keep seen (.refl ..)) ev (by simp) (by simp)
  · rw [Live.rd_count_other ev' distinct frames_wrap, ← counted,
      Live.count_rd ev counts (low _ rfl) (high _ rfl) frames_wrap, frameSeen_rd]
    rfl
  · rw [Live.count_rd ev' (by rw [mode]; exact counts) (low _ rfl) (high _ rfl) bytes_wrap, ← counted,
      Live.rd_count_other ev distinct.symm bytes_wrap, frameSeen_rd]
    rfl

/-! ### LLDP (R251, R252) -/

/-- The first LLDPDU of a port, and each TX_INTERVAL seconds after the last, is due (R251). -/
theorem execLldpTransmit_due {s : State} {p : Fin 52} (sends : s.live.lldpTx p.val = true)
    (due : ∀ b, (s.live.portRt p.val).lldpSent = some b → b + 8000 * s.live.rd .TX_INTERVAL p.val ≤ s.live.ticks) :
    execLldpTransmit p s = .next (s.withLive ((s.live.setPort p.val fun x => { x with lldpSent := some s.live.ticks }).firmwareSend
      p.val 0 none (s.live.lldpFrame p.val))) := by
  unfold execLldpTransmit State.effect
  refine congrArg (fun l => Host.Outcome.next (s.withLive l)) (if_pos ⟨sends, ?_⟩)
  cases sent : (s.live.portRt p.val).lldpSent with
  | none => rfl
  | some b => exact decide_eq_true (due b sent)

/-- A change of a port's record that an event tells of, where events are evaluated, is all that changes. -/
theorem setPort_raised {l : Live} (ev : l.mode.evaluates = true) (p : Nat) (f : Port → Port) (src : Nat) (data : List Byte)
    (tn : Nat) : let m := (l.setPort p f).raise src data tn
    m.store = l.store ∧ m.portRt p = f (l.portRt p) ∧ (∀ r, r ≠ p → m.portRt r = l.portRt r) ∧
    l.arose m [l.occ src data tn] := by
  refine ⟨Live.raise_store (by exact ev) .., ?_, fun r other => ?_, arose_raise (by exact ev) (by rfl) (by rfl) ..⟩
  · rw [Live.raise_portRt, Live.setPort_same]
  · rw [Live.raise_portRt, Live.setPort_other _ _ other]

/-- A neighbour that is held leaves its slot with event 254 (R252). -/
theorem neighbourLost_held {l : Live} {p k : Nat} {m : Neighbour} (held : (l.portRt p).neighbours.get k = some m) :
    l.neighbourLost p k =
      (l.setPort p fun x => { x with neighbours := x.neighbours.put k none }).raise 254 (u8 p ++ u8 k) (l.portOwner p) := by
  unfold Live.neighbourLost
  rw [held]

/-- A neighbour is aged out once its TTL has expired, and not before (R252). -/
theorem neighbourAged_expired {l : Live} {p k : Nat} {m : Neighbour} (held : (l.portRt p).neighbours.get k = some m)
    (expired : m.expires ≤ l.ticks) : l.neighbourAged p k = l.neighbourLost p k := by
  unfold Live.neighbourAged
  rw [held]
  exact if_pos expired

theorem neighbourAged_fresh {l : Live} {p k : Nat}
    (fresh : ∀ m, (l.portRt p).neighbours.get k = some m → l.ticks < m.expires) : l.neighbourAged p k = l := by
  unfold Live.neighbourAged
  cases held : (l.portRt p).neighbours.get k with
  | none => rfl
  | some m => exact if_neg (Nat.not_le.mpr (fresh m held))

/-- A fifth key counts in LLDP_TOO_MANY with event 255, and no slot changes (R252). -/
theorem fifthKey_does {l : Live} (ev : l.mode.evaluates = true) (counts : l.mode ≠ .freeze) (p : Fin 52) :
    let m := (l.count .LLDP_TOO_MANY 1 p.val).raise 255 [] (l.portOwner p.val)
    l.cellsBut [Obj.key .LLDP_TOO_MANY p.val 0 0, Obj.key .WRAPPED_ANY 0 0 0] m ∧
    m.rd .LLDP_TOO_MANY p.val = (l.rd .LLDP_TOO_MANY p.val + 1) % 256 ^ Obj.LLDP_TOO_MANY.len ∧
    (m.portRt p.val).neighbours = (l.portRt p.val).neighbours ∧ l.occ 255 [] (l.portOwner p.val) ∈ m.events.arisen := by
  have no_wrap : Obj.key .LLDP_TOO_MANY p.val 0 0 ≠ Obj.key .WRAPPED_ANY 0 0 0 := by
    simp only [Obj.key, Obj.index, Obj.LLDP_TOO_MANY, Obj.WRAPPED_ANY]; omega
  have modes := Live.count_modes l .LLDP_TOO_MANY 1 p.val 0 0
  have ev' : (l.count .LLDP_TOO_MANY 1 p.val).mode.evaluates = true := by unfold Live.mode; rw [modes]; exact ev
  refine ⟨.raise (Live.count_cells ev ..) ev', ?_, ?_, Live.raise_mem ev modes (Live.count_beat ..) ..⟩
  · rw [Live.raise_rd ev']
    exact Live.count_rd ev counts (Nat.zero_le _) (Nat.le_of_lt_succ p.isLt) no_wrap
  · rw [Live.raise_portRt, Live.count_portRt]

/-- Settles O28: the equations of `receiveFrame` say which test a frame fails, `received_new`, `received_known` and
`received_fifth` which slot an LLDPDU's key has; `frameRefused_does`, `frameAdmitted_does`, `setPort_raised` and `fifthKey_does`
what each outcome changes. -/
theorem framesArriveLeaveAndNeighboursAreKept : Obligations.FramesArriveLeaveAndNeighboursAreKept := by
  refine ⟨fun s p f age at_ ts receives long => ?_, fun s p f age at_ ts receives fits bad => ?_,
    fun s p f age at_ ts receives fits good short => ?_, fun s p f age at_ ts receives fits good whole over_long => ?_,
    fun s p f age at_ ts receives fits good whole inside no_control no_slow => ?_, fun s p at_ busy runs => ?_,
    fun s p sends due => ?_, fun s p mac pdu n ttl k hears parsed lives slot unknown vacant first => ?_,
    fun s p mac pdu n m ttl k hears parsed lives slot held known first => ?_,
    fun s p mac pdu n m k hears parsed slot held known first => ?_,
    fun s p mac pdu n ttl hears parsed lives full => ?_, fun s p k m held expired ev => ?_, fun s p k fresh => ?_⟩
  · obtain ⟨t, ran, only, live⟩ := exec_touches (.frameReceived p f false false age at_ ts) s rfl
      ((if_pos receives).trans (receiveFrame_overflow long at_ age ts)) rfl
    obtain ⟨cells, counted⟩ := frameRefused_does receives at_ f (o := .RX_OVERFLOW_DROPS) ⟨rfl, rfl, by decide, rfl, rfl⟩
    exact ⟨t, ran, only, by rw [live]; exact .keep (Live.mark_keeps ..) cells, by rw [live, mark_rd']; exact counted⟩
  · obtain ⟨t, ran, only, live⟩ := exec_touches (.frameReceived p f false false age at_ ts) s rfl
      ((if_pos receives).trans (receiveFrame_error fits bad at_ age ts)) rfl
    exact ⟨t, ran, only, by rw [live]; exact frameRefused_does receives at_ f ⟨rfl, rfl, by decide, rfl, rfl⟩⟩
  · obtain ⟨t, ran, only, live⟩ := exec_touches (.frameReceived p f false false age at_ ts) s rfl
      ((if_pos receives).trans (receiveFrame_runt fits good short at_ age ts)) rfl
    obtain ⟨cells, counted⟩ := frameRefused_does receives at_ f (o := .RX_RUNTS) ⟨rfl, rfl, by decide, rfl, rfl⟩
    exact ⟨t, ran, only, by rw [live]; exact .keep (Live.blk_keeps ..) cells, by rw [live, blk_rd]; exact counted⟩
  · obtain ⟨t, ran, only, live⟩ := exec_touches (.frameReceived p f false false age at_ ts) s rfl
      ((if_pos receives).trans (receiveFrame_oversize fits good whole over_long at_ ts)) rfl
    exact ⟨t, ran, only, by rw [live]; exact frameRefused_does receives at_ f ⟨rfl, rfl, by decide, rfl, rfl⟩⟩
  · obtain ⟨t, ran, only, live⟩ := exec_touches (.frameReceived p f false false age at_ ts) s rfl
      ((if_pos receives).trans (receiveFrame_admitted fits good whole inside no_control no_slow at_ ts)) rfl
    exact ⟨t, _, ran, only, live, frameAdmitted_does receives at_ f⟩
  · exact exec_touches (.frameTxDone p at_ none) s rfl (if_neg (not_or.mpr ⟨busy, runs⟩)) rfl
  · obtain ⟨t, ran, only, live⟩ := exec_touches (.lldpTransmit p) s (execLldpTransmit_due sends due) rfl rfl
    exact ⟨t, _, ran, only, live, rfl, Live.setPort_same ..⟩
  · obtain ⟨t, ran, only, live⟩ := exec_touches (.lldpduReceived p mac pdu) s rfl
      ((if_pos hears).trans (received_new parsed lives slot unknown vacant first)) rfl
    exact ⟨t, ran, only, by rw [live]; exact setPort_raised (lldpRx_ev hears).1 ..⟩
  · obtain ⟨t, ran, only, live⟩ := exec_touches (.lldpduReceived p mac pdu) s rfl
      ((if_pos hears).trans ((received_known parsed slot held known first).trans (if_neg lives))) rfl
    refine ⟨t, ran, only, by rw [live]; rfl, ?_, fun j other => ?_, by rw [live]; rfl⟩
    · rw [live, Live.setPort_same, Tbl.get_upd_same, held]
      rfl
    · rw [live, Live.setPort_same, Tbl.get_upd_other _ _ other]
  · obtain ⟨t, ran, only, live⟩ := exec_touches (.lldpduReceived p mac pdu) s rfl
      ((if_pos hears).trans ((received_known parsed slot held known first).trans ((if_pos rfl).trans (neighbourLost_held held)))) rfl
    obtain ⟨store, own, -, arose⟩ := setPort_raised (lldpRx_ev hears).1 p.val
      (fun x => { x with neighbours := x.neighbours.put k none }) 254 (u8 p.val ++ u8 k) (s.live.portOwner p.val)
    exact ⟨t, ran, only, by rw [live]; exact ⟨store, own, arose⟩⟩
  · obtain ⟨t, ran, only, live⟩ := exec_touches (.lldpduReceived p mac pdu) s rfl
      ((if_pos hears).trans (received_fifth parsed lives full)) rfl
    obtain ⟨ev, counts⟩ := lldpRx_ev hears
    exact ⟨t, ran, only, by rw [live]; exact fifthKey_does ev counts p⟩
  · obtain ⟨t, ran, only, live⟩ := exec_touches (.lldpNeighbourLost p k) s rfl
      ((neighbourAged_expired held expired).trans (neighbourLost_held held)) rfl
    obtain ⟨store, own, -, arose⟩ := setPort_raised ev p.val
      (fun x => { x with neighbours := x.neighbours.put k.val none }) 254 (u8 p.val ++ u8 k.val) (s.live.portOwner p.val)
    exact ⟨t, ran, only, by rw [live]; exact ⟨store, own, arose⟩⟩
  · exact exec_idle (.lldpNeighbourLost p k) s rfl (neighbourAged_fresh fresh)

end Sys2Proof

namespace Sys2Proof

open Machine

/-! ### The MAC table in the background (R288, R313 to R315, R317, R321, R322) -/

/-- Applying the learn requests leaves those whose ingress beat is less than 63 beats back (R288, R317). -/
theorem learnApply_learns (l : Live) :
    l.learnApply.plane.fwd.learns = l.plane.fwd.learns.filter fun r => l.ticks < r.ingress + 63 := by
  unfold Live.learnApply
  rw [showMac_plane]
  exact forL_inv (P := fun m => m.plane.fwd.learns = _) (fun m r same => (learnOne_learns m r).trans same) _ _ rfl

/-- A request for a new key, within quota and limit and with a free location, creates the entry of that location (R313, R317). -/
theorem learnOne_new {l : Live} {r : Learn} {loc : Nat} (unknown : l.macFind r.fid r.mac = none)
    (within : l.macUse r.tn < l.rd .EFFECTIVE_QUOTA r.tn 4)
    (below : l.learnedNow (l.countPort r.dest) < l.rd .LEARN_LIMIT r.port) (room : l.freeLoc r.fid r.mac = some loc) :
    (l.learnOne r).plane.fwd.settle = l.plane.fwd.settle ++ [(max (r.ingress + 64) (l.ticks + 1), loc)] := by
  unfold Live.learnOne Live.learnNew
  simp only [unknown, room, Option.none_or, if_neg (Nat.not_le.mpr within), if_neg (Nat.not_le.mpr below), Live.blk_plane,
    Live.macCreate, macChange_fwd]

/-! A change settles or takes effect without touching the changes that wait, and settling adds none. -/

theorem macSettle_does (l : Live) (v loc : Nat) :
    (∀ x ∈ (l.macSettle v loc).plane.fwd.settle, x ∈ l.plane.fwd.settle) ∧
    (l.macSettle v loc).plane.fwd.later = l.plane.fwd.later := by
  unfold Live.macSettle
  dsimp only
  split
  · exact ⟨fun _ held => held, rfl⟩
  · split
    · exact ⟨fun _ held => List.mem_of_mem_filter held, rfl⟩
    · rw [setMac_plane]
      exact ⟨fun _ held => held, rfl⟩

theorem macLater_does (l : Live) (c : MacLater) :
    (∀ x ∈ (l.macLater c).plane.fwd.settle, x ∈ l.plane.fwd.settle ∨ l.ticks ≤ x.1) ∧
    (l.macLater c).plane.fwd.later = l.plane.fwd.later := by
  have changed (loc : Nat) (e : MacEntry) (dest : Nat) :
      (∀ x ∈ (l.macChange loc (max c.at_ l.ticks) e dest).plane.fwd.settle, x ∈ l.plane.fwd.settle ∨ l.ticks ≤ x.1) ∧
      (l.macChange loc (max c.at_ l.ticks) e dest).plane.fwd.later = l.plane.fwd.later := by
    rw [macChange_fwd]
    refine ⟨fun x held => (List.mem_append.mp held).imp_right fun new => ?_, rfl⟩
    rw [List.mem_singleton.mp new]
    exact Nat.le_max_right ..
  unfold Live.macLater
  split
  · exact changed ..
  · split
    · exact ⟨fun _ held => .inl held, rfl⟩
    · split
      · exact changed ..
      · exact ⟨fun _ held => .inl held, rfl⟩

/-- What settling keeps at each change it takes: the beat, no change left to settle that is 64 beats old, and the changes that
wait. -/
structure Machine.Live.settling (beat : Nat) (later : List MacLater) (l : Live) : Prop where
  ticks : l.ticks = beat
  young : ∀ x ∈ l.plane.fwd.settle, beat < x.1 + 64
  waiting : l.plane.fwd.later = later

theorem ticks_of_keeps {m : List Part} {a b : Live} (kept : Keeps m a b) (no_clock : Part.beat ∉ m := by decide) :
    b.ticks = a.ticks := by
  unfold Live.ticks; rw [kept.beat_eq no_clock]

theorem macSettle_settling {beat : Nat} {later : List MacLater} {l : Live} (h : l.settling beat later) (v loc : Nat) :
    (l.macSettle v loc).settling beat later := by
  obtain ⟨fewer, same⟩ := macSettle_does l v loc
  exact ⟨(ticks_of_keeps (Live.macSettle_keeps ..)).trans h.ticks, fun x held => h.young x (fewer x held), same.trans h.waiting⟩

theorem macLater_settling {beat : Nat} {later : List MacLater} {l : Live} (h : l.settling beat later) (c : MacLater) :
    (l.macLater c).settling beat later := by
  obtain ⟨young, same⟩ := macLater_does l c
  have ticks := h.ticks
  refine ⟨(ticks_of_keeps (Live.macLater_keeps ..)).trans ticks, fun x held => (young x held).elim (h.young x) fun new => ?_,
    same.trans h.waiting⟩
  omega

/-- After settling no change is 64 beats old, and of the changes that wait those not yet due are left (R314, R315). -/
theorem settle_settling (l : Live) : l.settle.settling l.ticks (l.plane.fwd.later.filter fun c => l.ticks < c.at_) := by
  unfold Live.settle
  extract_lets due l1 l2 now l3
  have first : l1.settling l.ticks l.plane.fwd.later :=
    ⟨rfl, fun x held => of_decide_eq_true (List.mem_filter.mp held).2, rfl⟩
  have settled : l2.settling l.ticks l.plane.fwd.later :=
    forL_inv (P := Live.settling _ _) (fun m x h => macSettle_settling h x.1 x.2) due l1 first
  have taken : l3.settling l.ticks (l.plane.fwd.later.filter fun c => l.ticks < c.at_) :=
    ⟨settled.ticks, settled.young, congrArg (List.filter _) settled.waiting⟩
  obtain ⟨ticks, young, waiting⟩ := forL_inv (P := Live.settling _ _) (fun m c h => macLater_settling h c) now l3 taken
  refine ⟨(ticks_of_keeps (Live.showMac_keeps _)).trans ticks, ?_, ?_⟩
  · rwa [showMac_plane]
  · rwa [showMac_plane]

/-- The sweep's visit of an aged entry removes it with the next beat visible (R322). -/
theorem ageVisit_aged {l : Live} {loc : Nat} (used : macUsed (l.macAt loc) = true)
    (aged : l.aged (MacEntry.unpack (l.macAt loc)) = true)
    (free : l.macFree loc (l.ticks + 1) (MacEntry.unpack (l.macAt loc)) = true) :
    l.ageVisit loc = l.macChange loc (l.ticks + 1) (MacEntry.unpack (l.macAt loc)) destAbsent :=
  if_pos ⟨used, aged, free⟩

/-- Where the table holds one entry alone, flagged and below 9 moves, the end of a damping window clears both (R321). -/
theorem dampingStep_clears {l : Live} {loc : Nat} {e : MacEntry} (on : l.mode.engineOn = true) (window : l.elapsed % 8000 = 0)
    (first : l.plane.fwd.dampedAt ≠ some l.ticks) (alone : l.macAll = [(loc, e)]) (flagged : e.flag = true)
    (calm : e.moves < 9) :
    l.dampingStep = ((l.setMac loc { e with moves := 0, flag := false }).raise 389 [] e.tn).setFwd fun x =>
      { x with dampedAt := some l.ticks } := by
  have cleared : l.dampingEnd = (l.setMac loc { e with moves := 0, flag := false }).raise 389 [] e.tn := by
    unfold Live.dampingEnd
    rw [alone]
    simp [Live.forL, flagged, calm]
  rw [← cleared]
  exact if_pos ⟨on, window, first⟩

/-- An entry that is set, with an event that tells of it, changes its own element and the events alone. -/
theorem setMac_raised {l : Live} (ev : l.mode.evaluates = true) (loc : Nat) (e : MacEntry) (src : Nat) (data : List Byte)
    (tn : Nat) : let m := (l.setMac loc e).raise src data tn
    l.cellsBut [Obj.key .MAC_TABLE (0 + loc / 128) (loc % 128) 0] m ∧ m.macAt loc = e.pack % 256 ^ Obj.len .MAC_TABLE ∧
    l.arose m [l.occ src data tn] := by
  have kept := Live.setMac_keeps l loc e
  have ev' : (l.setMac loc e).mode.evaluates = true := by rw [kept.mode_eq (by decide)]; exact ev
  exact ⟨.raise (.wr (.refl _ l) (List.mem_singleton_self _)) ev', (Live.raise_rd ev' ..).trans (Live.rd_wr_same ..),
    arose_raise ev' (kept.events_eq (by decide)) (congrArg Beat.number (kept.beat_eq (by decide))) ..⟩

/-- Settles O6: each command's own lemma gives its outcome; settling keeps `Live.settling` at each change that it takes. -/
theorem macTableWorksInTheBackground : Obligations.MacTableWorksInTheBackground := by
  refine ⟨fun s running due => ?_, fun l r loc unknown within below room => learnOne_new unknown within below room,
    fun s thawed due => ?_, fun s loc on used aged free => ?_, fun s loc e on window first alone flagged calm => ?_,
    fun s thawed due => ?_⟩
  · obtain ⟨t, ran, only, live⟩ := exec_touches .learnApply s rfl (if_pos ⟨running, due⟩) rfl
    exact ⟨t, ran, only, by rw [live, learnApply_learns]⟩
  · obtain ⟨t, ran, only, live⟩ := exec_touches .settle s rfl (if_pos ⟨by rw [due, Bool.true_or], thawed⟩) rfl
    obtain ⟨-, young, waiting⟩ := settle_settling s.live
    exact ⟨t, ran, only, by rw [live]; exact ⟨young, waiting⟩⟩
  · obtain ⟨t, ran, only, live⟩ := exec_touches (.ageOut loc) s rfl
      ((if_pos on).trans (congrArg Live.showMac (ageVisit_aged used aged free))) rfl
    exact ⟨t, ran, only, by rw [live, showMac_plane, macChange_fwd]⟩
  · obtain ⟨t, ran, only, live⟩ := exec_touches .dampingWindowEnd s rfl
      (dampingStep_clears on window first alone flagged calm) rfl
    obtain ⟨cells, entry, arose⟩ :=
      setMac_raised (engineOn_live on).1 loc { e with moves := 0, flag := false } 389 [] e.tn
    exact ⟨t, ran, only, by rw [live]; exact ⟨.keep (Live.setFwd_keeps ..) cells, entry, arose⟩⟩
  · obtain ⟨t, ran, only, live⟩ := exec_touches .versionRetire s rfl (if_pos ⟨thawed, due⟩) rfl
    exact ⟨t, ran, only, by rw [live]; rfl⟩

end Sys2Proof

namespace Sys2Proof

open Machine

/-! ### Weaves (R291, R292) -/

/-- What a weave of a set of tables comes to: the first fault in order, or 1 where they swap (R292). -/
def Machine.Live.swapResult (l : Live) (ts : List Nat) : Nat :=
  if ts.any l.shadowIncomplete then 2 else if ts.any l.copying then 4 else if ts.any l.draining then 3 else 1

theorem swapResult_swaps {l : Live} {ts : List Nat}
    (ready : ∀ t ∈ ts, l.shadowIncomplete t = false ∧ l.copying t = false ∧ l.draining t = false) :
    l.swapResult ts = 1 := by
  have no_load : ¬ ts.any l.shadowIncomplete = true := by simpa using fun t named => (ready t named).1
  have no_copy : ¬ ts.any l.copying = true := by simpa using fun t named => (ready t named).2.1
  have no_drain : ¬ ts.any l.draining = true := by simpa using fun t named => (ready t named).2.2
  exact (if_neg no_load).trans ((if_neg no_copy).trans (if_neg no_drain))

theorem swapResult_code (l : Live) (ts : List Nat) : l.swapResult ts < 256 := by
  unfold Live.swapResult
  split
  · decide
  · split
    · decide
    · split <;> decide

/-- The named tables with their banks changed and their former active banks draining. -/
def Machine.Live.banksSwapped (l : Live) (ts : List Nat) : Live := l.forL ts fun l t =>
  ((l.wrV .ACTIVE_BANK (1 - l.rd .ACTIVE_BANK t) t).wr .LAST_SWAP_BEAT l.now t).setCalico fun x =>
    { x with drains := x.drains.put t (some l.ticks) }

/-- The banks, their swap beats and their drains become those of `swap_all`, the named tables given by the mask. -/
theorem banksSwapped_does (l : Live) (mask : Nat) : let m := l.banksSwapped (members 4 mask)
    m.modes = l.modes ∧ m.beat = l.beat ∧ m.events = l.events ∧ m.recoveries = l.recoveries ∧
    (∀ k, k < 4 → m.rd .ACTIVE_BANK k = if bit mask k then 1 - l.rd .ACTIVE_BANK k else l.rd .ACTIVE_BANK k) ∧
    (∀ k, k < 4 → m.rd .LAST_SWAP_BEAT k = if bit mask k then l.now % 256 ^ 8 else l.rd .LAST_SWAP_BEAT k) ∧
    ∀ k, k < 4 → m.plane.calico.drains.get k = if bit mask k then some l.ticks else l.plane.calico.drains.get k := by
  have distinct : (members 4 mask).Nodup := List.nodup_range.filter _
  obtain ⟨modes, beat, events, recoveries, -, banks, beats, drains⟩ :=
    swap_all l.now (members 4 mask) l distinct (fun k named => List.mem_range.mp (List.mem_filter.mp named).1) rfl
  exact ⟨modes, beat, events, recoveries,
    fun k table => (banks k table).trans (if_congr (mem_members4 mask k table) rfl rfl),
    fun k table => (beats k table).trans (if_congr (mem_members4 mask k table) rfl rfl),
    fun k table => (drains k table).trans (if_congr (mem_members4 mask k table) rfl rfl)⟩

/-- The machine after a weave that swaps. -/
def Machine.Live.woven (l : Live) (mask : Nat) : Live :=
  (((l.banksSwapped (members 4 mask)).wr .TABLE_GENERATION ((l.rd .TABLE_GENERATION + 1) % 2 ^ 32)).wr .SWAP_RESULT 1).raise 352
    (u64 (mask % 16) ++ u32 ((l.rd .TABLE_GENERATION + 1) % 2 ^ 32) ++ u64 l.now)

/-- The machine after a weave that is abandoned, up to the withdrawal and the recovery that it starts. -/
def Machine.Live.unwoven (l : Live) (mask r : Nat) : Live :=
  (l.wr .SWAP_RESULT r).raise 353 (u64 (mask % 16) ++ u8 r ++ u64 l.now)

theorem twillSwap_weaves {l : Live} {mask : Nat} (named : members 4 mask ≠ []) (swaps : l.swapResult (members 4 mask) = 1) :
    l.twillSwap mask = l.woven mask :=
  (if_neg (by simpa using named)).trans (if_pos swaps)

theorem twillSwap_abandons {l : Live} {mask r : Nat} (result : r = l.swapResult (members 4 mask)) (fault : r ≠ 1) :
    l.twillSwap mask =
      (if r = 2 then (l.unwoven mask r).withdraw [4] else l.unwoven mask r).recoveryAt 3 (mask % 16) 0xFF := by
  subst result
  have named : members 4 mask ≠ [] := fun none => fault (by rw [none]; rfl)
  exact (if_neg (by simpa using named)).trans (if_neg fault)

theorem woven_does {l : Live} (ev : l.mode.evaluates = true) (mask : Nat) :
    (∀ k, k < 4 → (l.woven mask).rd .ACTIVE_BANK k = if bit mask k then 1 - l.rd .ACTIVE_BANK k else l.rd .ACTIVE_BANK k) ∧
    (∀ k, k < 4 → (l.woven mask).rd .LAST_SWAP_BEAT k = if bit mask k then l.now % 256 ^ 8 else l.rd .LAST_SWAP_BEAT k) ∧
    (∀ k, k < 4 → (l.woven mask).plane.calico.drains.get k =
      if bit mask k then some l.ticks else l.plane.calico.drains.get k) ∧
    (l.woven mask).rd .TABLE_GENERATION = (l.rd .TABLE_GENERATION + 1) % 2 ^ 32 ∧ (l.woven mask).rd .SWAP_RESULT = 1 ∧
    (l.woven mask).recoveries = l.recoveries ∧
    l.arose (l.woven mask) [l.occ 352 (u64 (mask % 16) ++ u32 ((l.rd .TABLE_GENERATION + 1) % 2 ^ 32) ++ u64 l.now)] := by
  obtain ⟨modes, beat, events, recoveries, banks, beats, drains⟩ := banksSwapped_does l mask
  unfold Live.woven
  generalize l.banksSwapped (members 4 mask) = m at *
  have ev' : m.mode.evaluates = true := by unfold Live.mode; rw [modes]; exact ev
  have other {o : Obj} {v w k : Nat} (generation : o.key k 0 0 ≠ Obj.key .TABLE_GENERATION 0 0 0)
      (result : o.key k 0 0 ≠ Obj.key .SWAP_RESULT 0 0 0) :
      ((m.wr .TABLE_GENERATION v).wr .SWAP_RESULT w).rd o k = m.rd o k := by
    rw [Live.rd_wr_other _ _ result, Live.rd_wr_other _ _ generation]
  refine ⟨fun k table => ?_, fun k table => ?_, fun k table => ?_, ?_, ?_, ?_, ?_⟩
  · rw [Live.raise_rd (by exact ev'), other, banks k table]
    all_goals simp only [Obj.key, Obj.index, Obj.ACTIVE_BANK, Obj.TABLE_GENERATION, Obj.SWAP_RESULT]; omega
  · rw [Live.raise_rd (by exact ev'), other, beats k table]
    all_goals simp only [Obj.key, Obj.index, Obj.LAST_SWAP_BEAT, Obj.TABLE_GENERATION, Obj.SWAP_RESULT]; omega
  · rw [Live.raise_plane, Live.wr_plane, Live.wr_plane, drains k table]
  · rw [Live.raise_rd (by exact ev'), rd_wr_row _ (by decide), rd_wr_fits _ (by exact Nat.mod_lt _ (by decide))]
  · rw [Live.raise_rd (by exact ev')]
    exact rd_wr_fits _ (by decide)
  · rw [Live.raise_recoveries, Live.wr_recoveries, Live.wr_recoveries, recoveries]
  · exact arose_raise (by exact ev') (by exact events) (by exact congrArg Beat.number beat) ..

theorem unwoven_does {l : Live} (ev : l.mode.evaluates = true) {r : Nat} (code : r < 256) (mask : Nat) :
    l.cellsBut [Obj.key .SWAP_RESULT 0 0 0] (l.unwoven mask r) ∧ (l.unwoven mask r).rd .SWAP_RESULT = r ∧
    (l.unwoven mask r).mode = l.mode ∧ (l.unwoven mask r).plane = l.plane ∧
    l.occ 353 (u64 (mask % 16) ++ u8 r ++ u64 l.now) ∈ (l.unwoven mask r).events.arisen := by
  unfold Live.unwoven
  refine ⟨.raise (.wr (.refl _ l) (List.mem_singleton_self _)) ev, ?_, (Live.raise_keeps ..).mode_eq (by decide), ?_,
    Live.raise_mem ev (by rfl) (by rfl) ..⟩
  · rw [Live.raise_rd (by exact ev)]
    exact rd_wr_fits _ (by exact code)
  · rw [Live.raise_plane, Live.wr_plane]

/-- What follows an abandoned weave — the withdrawal of guarantees, the recovery and its journal — moves no cell but theirs, and
what has arisen stays. -/
theorem abandoned_after {m : Live} (ev : m.mode.evaluates = true) (p : Prop) [Decidable p] (subject : Nat) :
    let n := ((if p then m.withdraw [4] else m).recoveryAt 3 subject 0xFF).journalRecoveries
    n.plane = m.plane ∧
    (∀ o k, o.key k 0 0 ∉ [Obj.key .GUARANTEES 0 0 0, Obj.key .WITHDRAWN_CAUSE 0 0 0, Obj.key .WITHDRAWN_BEAT 0 0 0,
      Obj.key .RECOVERY_TOTAL 0 0 0] → n.rd o k = m.rd o k) ∧
    ∀ x ∈ m.events.arisen, x ∈ n.events.arisen := by
  generalize withdrawn : (if p then m.withdraw [4] else m) = w
  have kept : Keeps [.store, .events] m w := by
    rw [← withdrawn]; exact .ite (Live.withdraw_keeps ..) (.refl ..)
  have journalled : Keeps [.store, .recoveries] w (w.recoveryAt 3 subject 0xFF).journalRecoveries :=
    .via (Live.journalRecoveries_keeps _) rfl ((Live.recoveryAt_keeps ..).mono rfl)
  refine ⟨(journalled.plane_eq (by decide)).trans (kept.plane_eq (by decide)), fun o k apart => ?_, fun x held => ?_⟩
  · simp only [List.mem_cons, List.not_mem_nil, or_false, not_or] at apart
    obtain ⟨guarantees, cause, beat, total⟩ := apart
    rw [journal_other _ _ _ _ _ total, (Live.recoveryAt_keeps ..).rd, ← withdrawn]
    split
    · exact withdraw_other m ev _ _ _ _ _ guarantees cause beat
    · rfl
  · rw [journalled.events_eq (by decide), ← withdrawn]
    split
    · exact withdraw_mono ev _ held
    · exact held

/-! ### Drains and shadow copies (R293, R297) -/

/-- The tables whose banks swapped in an earlier beat. -/
def Machine.Live.drained (l : Live) : List Nat := (List.range 4).filter fun t => match l.plane.calico.drains.get t with
  | some s => s + 1 ≤ l.ticks
  | none => false

theorem mem_drained {l : Live} {k : Nat} (table : k < 4) :
    k ∈ l.drained ↔ ∃ b, l.plane.calico.drains.get k = some b ∧ b < l.ticks := by
  unfold Live.drained
  rw [List.mem_filter]
  cases l.plane.calico.drains.get k with
  | none => simp
  | some b => simp [table]

/-- Where a bank has drained, those that have end their drains with event 354 (R293). -/
theorem drainDone_ends {l : Live} {k : Nat} (ended : k ∈ l.drained) (runs : l.mode ≠ .freeze) :
    l.drainDone 1 = (l.setCalico fun x => { x with drains := l.drained.foldl (fun d t => d.put t none) x.drains }).raise 354
      (u64 (maskOf l.drained)) :=
  if_neg (not_or.mpr ⟨fun none => List.ne_nil_of_mem ended (List.isEmpty_iff.mp none), runs⟩)

theorem drained_drains (l : Live) {k : Nat} (table : k < 4) :
    (l.drained.foldl (fun d t => d.put t none) l.plane.calico.drains).get k = match l.plane.calico.drains.get k with
      | some c => if c < l.ticks then none else some c
      | none => none := by
  rw [drains_all]
  have ended := mem_drained (l := l) table
  cases held : l.plane.calico.drains.get k with
  | none => simp
  | some c => simp [ended, held]

/-- A shadow copy shows busy and holds the active bank for the shadow; no other copy changes (R297). -/
theorem shadowCopy_does (l : Live) (k : Nat) :
    (l.shadowCopy k).rd .SHADOW_COPY_BUSY k = 1 ∧ l.cellsBut [Obj.key .SHADOW_COPY_BUSY k 0 0] (l.shadowCopy k) ∧
    (l.shadowCopy k).plane.calico.copies.get k = some
      { start := l.ticks, bank := 1 - l.rd .ACTIVE_BANK k, source := l.bankContent k (l.rd .ACTIVE_BANK k) } ∧
    ∀ j, j ≠ k → (l.shadowCopy k).plane.calico.copies.get j = l.plane.calico.copies.get j := by
  unfold Live.shadowCopy Live.wrB
  refine ⟨Live.rd_wr_same .., .wr (.of_store (.refl _ l) rfl) (List.mem_singleton_self _), ?_, fun j other => ?_⟩
  · dsimp only
    rw [Live.wr_plane, setCalico_calico, Tbl.get_put_same]
  · dsimp only
    rw [Live.wr_plane, setCalico_calico, Tbl.get_put_other _ _ other]

/-- The machine as a shadow copy's last byte has been copied, before its event (R297). -/
def Machine.Live.copyEnded (l : Live) (k : Nat) : Live :=
  let m := (l.setCalico fun x => { x with copies := x.copies.put k none }).wrB .SHADOW_COPY_BUSY false k
  { m with host := { m.host with marks := m.host.marks.filter (· != 2 * k + (1 - l.rd .ACTIVE_BANK k)) } }

theorem shadowCopyDone_ends {l : Live} {k : Nat} {c : ShadowCopy} (held : l.plane.calico.copies.get k = some c)
    (whole : ctSize k * ctBytes k ≤ c.pos) (runs : l.mode ≠ .freeze) :
    l.shadowCopyDone k = (l.copyEnded k).raise 355 (u64 (2 ^ k)) := by
  unfold Live.shadowCopyDone
  rw [held]
  exact if_pos ⟨whole, runs⟩

theorem copyEnded_does (l : Live) (k : Nat) :
    l.cellsBut [Obj.key .SHADOW_COPY_BUSY k 0 0] (l.copyEnded k) ∧ (l.copyEnded k).rd .SHADOW_COPY_BUSY k = 0 ∧
    (l.copyEnded k).plane.calico.copies.get k = none ∧
    (l.copyEnded k).host.marks = l.host.marks.filter (· != 2 * k + (1 - l.rd .ACTIVE_BANK k)) := by
  have cleared : (l.copyEnded k).store = (l.wr .SHADOW_COPY_BUSY 0 k).store := rfl
  have copies : (l.copyEnded k).plane.calico.copies = l.plane.calico.copies.put k none := rfl
  refine ⟨.of_store (.wr (.refl _ l) (List.mem_singleton_self _)) cleared, ?_, by rw [copies, Tbl.get_put_same], rfl⟩
  exact (Live.rd_wr_same l .SHADOW_COPY_BUSY 0 k 0 0).trans rfl

/-- Settles O29: `woven_does` and `unwoven_does` say what a weave sets, `swapResult` which of the two it is; `drained_drains` and
`copyEnded_does` what the end of a drain and of a copy clears. -/
theorem weavesSwapDrainAndCopy : Obligations.WeavesSwapDrainAndCopy := by
  have method {l : Live} {ts : List Nat} (twill : ∀ k ∈ ts, l.rd .METHOD k = 0) :
      (ts.all fun t => l.rd .METHOD t == 0) = true := by simpa using twill
  refine ⟨fun s mask on named twill ready none_done => ?_, fun s mask r on twill result fault => ?_,
    fun s k b table swapped past on => ?_, fun s k on allowed => ?_, fun s k refused => ?_, fun s k c held whole on => ?_⟩
  · obtain ⟨banks, beats, drains, generation, result, recoveries, arose⟩ := woven_does (engineOn_live on).1 mask
    obtain ⟨t, ran, only, live⟩ := exec_touches (.twillSwap mask) s rfl ((if_pos ⟨on, method twill⟩).trans
      ((congrArg Live.journalRecoveries (twillSwap_weaves named (swapResult_swaps ready))).trans
        (journal_none (by rw [recoveries]; exact none_done)))) rfl
    exact ⟨t, ran, only, by rw [live]; exact ⟨banks, beats, drains, generation, result, arose⟩⟩
  · have code : r < 256 := result ▸ swapResult_code ..
    obtain ⟨cells, shown, mode, plane, arisen⟩ := unwoven_does (engineOn_live on).1 code mask
    obtain ⟨plane', cells', arisen'⟩ :=
      abandoned_after (m := s.live.unwoven mask r) (by rw [mode]; exact (engineOn_live on).1) (r = 2) (mask % 16)
    obtain ⟨t, ran, only, live⟩ := exec_touches (.twillSwap mask) s rfl ((if_pos ⟨on, method twill⟩).trans
      (congrArg Live.journalRecoveries (twillSwap_abandons result fault))) rfl
    refine ⟨t, ran, only, ?_⟩
    rw [live]
    refine ⟨plane'.trans plane, fun k table => (cells' _ _ ?_).trans (cells.same _ _ _ _ ?_),
      (cells' _ _ ?_).trans (cells.same _ _ _ _ ?_), (cells' _ _ ?_).trans shown, arisen' _ arisen⟩
    · simp only [List.mem_cons, List.not_mem_nil, or_false, not_or, Obj.key, Obj.index, Obj.ACTIVE_BANK, Obj.GUARANTEES,
        Obj.WITHDRAWN_CAUSE, Obj.WITHDRAWN_BEAT, Obj.RECOVERY_TOTAL]
      omega
    · simp only [List.mem_singleton, Obj.key, Obj.index, Obj.ACTIVE_BANK, Obj.SWAP_RESULT]; omega
    all_goals decide
  · have ended : k ∈ s.live.drained := (mem_drained table).mpr ⟨b, swapped, past⟩
    obtain ⟨ev, runs⟩ := engineOn_live on
    obtain ⟨t, ran, only, live⟩ := exec_touches .twillDrainDone s rfl (drainDone_ends ended runs) rfl
    refine ⟨t, ran, only, ?_⟩
    rw [live]
    refine ⟨Live.raise_store (by exact ev) .., fun j below => ?_, _, arose_raise (by exact ev) rfl rfl ..⟩
    rw [Live.raise_plane]
    exact drained_drains s.live below
  · obtain ⟨t, ran, only, live⟩ := exec_touches (.shadowCopy k) s rfl (if_pos ⟨on, allowed⟩) rfl
    obtain ⟨busy, cells, copy, others⟩ := shadowCopy_does s.live k.val
    exact ⟨t, ran, only, by rw [live]; exact ⟨busy, copy, cells, others⟩⟩
  · exact exec_idle (.shadowCopy k) s rfl (if_neg (by simp [refused]))
  · obtain ⟨ev, runs⟩ := engineOn_live on
    obtain ⟨t, ran, only, live⟩ := exec_touches (.shadowCopyDone k) s rfl (shadowCopyDone_ends held whole runs) rfl
    obtain ⟨cells, idle, copy, marks⟩ := copyEnded_does s.live k.val
    have ev' : (s.live.copyEnded k.val).mode.evaluates = true := ev
    refine ⟨t, ran, only, ?_⟩
    rw [live, Live.raise_rd ev', Live.raise_plane, Live.raise_host]
    exact ⟨.raise cells ev', idle, copy, marks, arose_raise ev' rfl rfl ..⟩

end Sys2Proof

namespace Sys2Proof

open Machine

/-! ### TX entries (R607, R610 to R612) -/

/-- The tenancy of a TX entry: the PF names it, a VF's is its own (R611). -/
def txTenancy (f : Nat) (e : List Byte) : Nat := if f = 0 then fieldAt e 15 1 else f

/-- A TX entry that names no port of its own and keeps to its bounds (R611). -/
structure TxLegal (f : Nat) (e : List Byte) : Prop where
  long : 60 ≤ leAt e 8 2
  inside : leAt e 8 2 ≤ 9212
  tagged : leAt e 12 2 ≠ 0
  vlan : leAt e 12 2 ≤ 4094
  tenancy : txTenancy f e ≤ 7
  forwarded : bit (fieldAt e 10 1) 0 = false

theorem txTenancy_le {f : Fin 8} {e : List Byte} (named : f.val = 0 → fieldAt e 15 1 ≤ 7) : txTenancy f.val e ≤ 7 := by
  unfold txTenancy
  split
  · exact named ‹_›
  · omega

/-- What a legal frame counts before it enters port H (R612). -/
def Machine.Live.txCounted (l : Live) (at_ f n : Nat) : Live :=
  (((l.at at_).count .H_TX_ACCEPTED 1 f).blk 23 .eventsOut 1 f 0 f).blk 23 .bytesOut n f 0 f

section
variable {s : State} {f : Fin 8} {k : Fin 4} {b : Nat} {e : List Byte} {es : List (Nat × List Byte)}
  (oldest : (s.live.ring f.val (4 + k.val)).taken = (b, e) :: es) (works : s.live.ringWorks f.val (4 + k.val) = true)
include oldest works

/-- The oldest entry of a working ring, its frame read whole: a short one is bad (R611). -/
theorem execTxFrame_short (short : leAt e 8 2 < 60) (data : List Byte) (poison : Bool) (at_ : Nat) :
    execTxFrame f k data poison at_ s = .next (s.withLive
      ((s.live.at at_).tookFree.txComplete f.val (4 + k.val) e txBadEntry ((s.live.at at_).freeVal % 2 ^ 64))) := by
  unfold execTxFrame State.effect
  simp only [oldest]
  rw [if_neg (not_not.mpr works), if_pos (.inl short)]

/-- A legal entry of a VLAN that the tenancy does not own is denied (R612). -/
theorem execTxFrame_denied (legal : TxLegal f.val e) (foreign : s.live.vidOwner (leAt e 12 2) ≠ txTenancy f.val e)
    (data : List Byte) (at_ : Nat) :
    execTxFrame f k data false at_ s = .next (s.withLive
      (((s.live.at at_).count .H_TX_DENIED 1 f.val).txComplete f.val (4 + k.val) e txDenied s.live.now)) := by
  obtain ⟨long, inside, tagged, vlan, tenancy, forwarded⟩ := legal
  unfold txTenancy at tenancy
  unfold execTxFrame State.effect
  simp only [oldest]
  rw [if_neg (not_not.mpr works), if_neg (by simp only [forwarded, Bool.false_eq_true, false_and, or_false]; omega)]
  exact congrArg (fun l => Host.Outcome.next (s.withLive l)) (if_pos (.inr (.inl foreign)))

/-- A legal entry of an active tenancy that owns the VLAN enters port H (R612). -/
theorem execTxFrame_accepted (legal : TxLegal f.val e) (active : s.live.tnActive (txTenancy f.val e) = true)
    (own : s.live.vidOwner (leAt e 12 2) = txTenancy f.val e) (data : List Byte) (at_ : Nat) :
    execTxFrame f k data false at_ s = .next (s.withLive
      (((s.live.txCounted at_ f.val (leAt e 8 2)).txEnter f.val (txTenancy f.val e) (leAt e 12 2) (fieldAt e 11 1 % 8)
        (fieldAt e 14 1) false (slice data 0 (leAt e 8 2)) false).txComplete f.val (4 + k.val) e txAccepted s.live.now)) := by
  obtain ⟨long, inside, tagged, vlan, tenancy, forwarded⟩ := legal
  unfold txTenancy at tenancy
  unfold execTxFrame State.effect
  simp only [oldest, forwarded]
  rw [if_neg (not_not.mpr works), if_neg (by simp only [Bool.false_eq_true, false_and, or_false]; omega)]
  refine congrArg (fun l => Host.Outcome.next (s.withLive l)) (if_neg ?_)
  rintro (inactive | foreign | ⟨direct, -⟩)
  · exact inactive active
  · exact foreign own
  · exact Bool.false_ne_true direct

/-- A failed read of its frame counts in H_TX_DMA_ERRORS (R617). -/
theorem execDmaReadFailed_frame :
    execDmaReadFailed f ⟨4 + k.val, by omega⟩ true false false s = .next (s.withLive
      ((s.live.count .H_TX_DMA_ERRORS 1 f.val).tookFree.txComplete f.val (4 + k.val) e txDmaError (s.live.freeVal % 2 ^ 64))) := by
  have queue : ∀ k : Fin 4, hasSq (4 + k.val) = true := by decide
  unfold execDmaReadFailed State.effect
  simp [oldest, works, queue k, show 4 + k.val < 8 by omega]

end

/-- A counter of a function's frames counts in its own cell, after operations of the plane alone (R656). -/
theorem txCounter_does {l m : Live} (on : l.mode.engineOn = true) {o : Obj} (f : Fin 8)
    (counter : o.base = 0x1610 ∧ o.stride = 1 ∧ o.lo = 0 ∧ o.hi = 7 ∧ o.sub < 256) (kept : Keeps [.plane] l m) :
    l.cellsBut [o.key f.val 0 0, Obj.key .WRAPPED_ANY 0 0 0] (m.count o 1 f.val) ∧
    (m.count o 1 f.val).rd o f.val = (l.rd o f.val + 1) % 256 ^ o.len ∧ (m.count o 1 f.val).host = l.host := by
  obtain ⟨base, stride, first, last, sub⟩ := counter
  have no_wrap : o.key f.val 0 0 ≠ Obj.key .WRAPPED_ANY 0 0 0 := by
    simp only [Obj.key, Obj.index, base, stride, Obj.WRAPPED_ANY]; omega
  obtain ⟨ev, counts⟩ := engineOn_live on
  have mode : m.mode = l.mode := kept.mode_eq (by decide)
  refine ⟨count_same (kept.store_eq (by decide)) mode ev .., ?_, ?_⟩
  · rw [Live.count_rd (by rw [mode]; exact ev) (by rw [mode]; exact counts) (by omega) (by omega) no_wrap, kept.rd]
  · rw [Live.count_host, kept.host_eq (by decide)]

/-- The completion of the oldest entry takes it off its ring, one off what is owed, and is the CQ entry last written (R607,
R610). -/
theorem txComplete_does {l m : Live} {f k b : Nat} {e : List Byte} {es : List (Nat × List Byte)} (host : m.host = l.host)
    (oldest : (l.ring f k).taken = (b, e) :: es) (status beat : Nat) : let n := m.txComplete f k e status beat
    Keeps [.host] m n ∧ (n.ring f k).taken = es ∧ (n.ring f k).owed = (l.ring f k).owed - 1 ∧
    (n.ring f k).lastEntry = slice e 16 4 ++ u8 status ++ List.replicate 3 0 ++ leBytes 8 beat := by
  obtain ⟨entry, owed, taken⟩ := txComplete_ring m f k e status beat
  rw [ring_host host] at owed taken
  rw [oldest] at taken
  exact ⟨Live.txComplete_keeps .., taken, owed, entry⟩

/-! ### Buffers and loads (R613, R616, R684) -/

/-- A BUFFER entry that is posted adds its address to its function's buffers and leaves its ring (R613). -/
theorem bufferPosted_does {l : Live} {f b : Nat} {e : List Byte} {es : List (Nat × List Byte)}
    (oldest : (l.ring f 8).taken = (b, e) :: es) :
    let n := (l.dropTaken f 8).setFn f fun x => { x with buffers := x.buffers ++ [leAt e 8 8] }
    (n.fn f).buffers = (l.fn f).buffers ++ [leAt e 8 8] ∧ n.ring f 8 = { l.ring f 8 with taken := es } ∧
    ∀ g, g ≠ f → n.fn g = l.fn g := by
  have fns (g : Nat) : (l.dropTaken f 8).fn g = if g = f then { l.fn f with rings := (l.fn f).rings.upd 8 fun r =>
      { r with taken := r.taken.drop 1 } } else l.fn g := by
    unfold Live.dropTaken Live.setRing
    split
    · next same => rw [same, setFn_same]
    · next other => exact setFn_other _ _ other
  have rings := setFn_ring (l.dropTaken f 8) f (g := fun x => { x with buffers := x.buffers ++ [leAt e 8 8] }) (fun _ => rfl) f 8
  refine ⟨?_, ?_, fun g other => ?_⟩
  · rw [setFn_same, fns, if_pos rfl]
  · rw [rings]
    unfold Live.dropTaken
    rw [setRing_same, oldest]
    rfl
  · rw [setFn_other _ _ other, fns, if_neg other]

theorem execDrainBufferPost_buffer {s : State} {f : Fin 8} {b : Nat} {e : List Byte} {es : List (Nat × List Byte)}
    (oldest : (s.live.ring f.val 8).taken = (b, e) :: es) (works : s.live.ringWorks f.val 8 = true) (buffer : drainOp e = 1) :
    execDrainBufferPost f s = .next (s.withLive
      ((s.live.dropTaken f.val 8).setFn f.val fun x => { x with buffers := x.buffers ++ [leAt e 8 8] })) := by
  unfold execDrainBufferPost State.effect
  simp only [oldest]
  rw [if_pos ⟨works, buffer⟩]

/-- The machine as a legal load is taken: its function has had its turn, and its completion is owed (R616). -/
def Machine.Live.loadTaken (l : Live) (f : Nat) (entry : List Byte) (x : Load) : Live :=
  (((l.takeEntry f 11 entry true).dropTaken f 11).setHost fun h => { h with loadAt := h.loadAt.put f (some l.ticks) }).setHost
    fun h => { h with loads := h.loads ++ [x] }

theorem loadTaken_does (l : Live) (f : Nat) (entry : List Byte) (x : Load) :
    Keeps [.host] l (l.loadTaken f entry x) ∧ (l.loadTaken f entry x).host.loads = l.host.loads ++ [x] ∧
    (l.loadTaken f entry x).host.loadAt.get f = some l.ticks ∧
    ((l.loadTaken f entry x).ring f 11).owed = (l.ring f 11).owed + 1 := by
  have fns : (l.loadTaken f entry x).host.fns = ((l.takeEntry f 11 entry true).dropTaken f 11).host.fns := rfl
  have turns : (l.loadTaken f entry x).host.loadAt = l.host.loadAt.put f (some l.ticks) := rfl
  refine ⟨.via (Live.setHost_keeps ..) rfl (.via (Live.setHost_keeps ..) rfl (.via (Live.dropTaken_keeps ..) rfl
    (Live.takeEntry_keeps ..))), rfl, by rw [turns, Tbl.get_put_same], ?_⟩
  have rings : (l.loadTaken f entry x).ring f 11 = ((l.takeEntry f 11 entry true).dropTaken f 11).ring f 11 := by
    unfold Live.ring Live.fn
    rw [fns]
  rw [rings]
  unfold Live.dropTaken Live.takeEntry
  rw [setRing_twice, if_pos rfl]
  rfl

/-- The machine as a load ends, before its completion: it is off the list and its bank's mark is cleared (R684). -/
def Machine.Live.loadEnded (l : Live) (x : Load) (rest : List Load) : Live :=
  (l.setHost fun h => { h with loads := rest }).markBank x.table x.bank false

theorem execTableLoadDone_whole {s : State} {x : Load} {xs : List Load} (first : s.live.host.loads = x :: xs)
    (whole : x.count ≤ x.pos) (works : s.live.ringWorks x.fn 11 = true) :
    execTableLoadDone s = .next (s.withLive ((s.live.loadEnded x xs).loadComplete x 0)) := by
  unfold execTableLoadDone State.effect
  simp only [first]
  rw [if_neg (not_or.mpr ⟨Nat.not_lt.mpr whole, not_not.mpr works⟩)]
  rfl

/-- The completion of a load is the CQ entry last written, with event 593; the loads and the marks stay (R616). -/
theorem loadComplete_does {l : Live} (ev : l.mode.evaluates = true) (x : Load) (status : Nat) :
    (l.loadComplete x status).store = l.store ∧ (l.loadComplete x status).host.loads = l.host.loads ∧
    (l.loadComplete x status).host.marks = l.host.marks ∧ l.arose (l.loadComplete x status) [l.occ 593] ∧
    ((l.loadComplete x status).ring x.fn 11).lastEntry = leBytes 4 x.cookie ++ u8 status ++ u8 x.poison.toNat ++ leBytes 2 0 ++
      leBytes 4 x.written ++ leBytes 4 x.clamped ++ leBytes 4 x.denied ++ leBytes 4 0 ++ leBytes 8 l.now := by
  unfold Live.loadComplete
  extract_lets entry
  have kept := Live.cqOwed_keeps l x.fn 11 entry [] false
  have rest := cqOwed_rest l x.fn 11 entry [] false
  obtain ⟨written, -, -⟩ := cqOwed_ring l x.fn 11 entry [] false
  have ev' : (l.cqOwed x.fn 11 entry []).mode.evaluates = true := by rw [kept.mode_eq (by decide)]; exact ev
  refine ⟨?_, ?_, ?_, arose_raise ev' (kept.events_eq (by decide)) (congrArg Beat.number (kept.beat_eq (by decide))) .., ?_⟩
  · rw [Live.raise_store ev', kept.store_eq (by decide)]
  · rw [Live.raise_host, rest]
  · rw [Live.raise_host, rest]
  · rw [ring_host (Live.raise_host ..)]
    exact written

/-! ### Reads that fail (R617, R633) -/

/-- Ring control data that cannot be read stops the ring; a Completion Timeout raises 590 first (R617, R633). -/
def Machine.Live.timedOut (l : Live) (f : Nat) (timeout : Bool) : Live :=
  if timeout then (l.raise 590 (u8 f) (fnTn f)).raise 587 (u8 14) else l

theorem timedOut_does {l : Live} (ev : l.mode.evaluates = true) (f : Nat) (timeout : Bool) :
    Keeps [.events] l (l.timedOut f timeout) ∧
    (timeout = true → l.occ 590 (u8 f) f ∈ (l.timedOut f timeout).events.arisen) := by
  unfold Live.timedOut
  have reported := raise_keeps_events ev 590 (u8 f) (fnTn f)
  have ev' : (l.raise 590 (u8 f) (fnTn f)).mode.evaluates = true := by rw [reported.mode_eq (by decide)]; exact ev
  cases timeout with
  | false => exact ⟨.refl _ l, fun named => Bool.noConfusion named⟩
  | true => exact ⟨.via (raise_keeps_events ev' ..) rfl reported,
      fun _ => Live.raise_mono ev' _ _ _ (Live.raise_mem ev (by rfl) (by rfl) ..)⟩

theorem execDmaReadFailed_control {s : State} {f : Fin 8} {k : Fin 13} (works : s.live.ringWorks f.val k.val = true)
    (queue : hasSq k.val = true) (poisoned timeout : Bool) :
    execDmaReadFailed f k false poisoned timeout s = .next (s.withLive
      ((s.live.timedOut f.val timeout).stopRing f.val k.val (if poisoned ∧ ¬ timeout then 2 else 1))) := by
  unfold execDmaReadFailed State.effect
  simp only [works, queue, Bool.false_eq_true, not_true_eq_false, false_and, or_self, if_false, not_false_eq_true, if_true]
  rfl

/-- Settles O33: each command's own lemma gives its outcome; `txComplete_does` gives the completion of a TX entry,
`loadComplete_does` that of a load, and `stopRing_does` the ring that stops. -/
theorem entriesCompleteAndLoadsRun : Obligations.EntriesCompleteAndLoadsRun := by
  refine ⟨fun s f k data e b at_ es oldest works long inside tagged vlan named forwarded active own => ?_,
    fun s f k data e b at_ es oldest works long inside tagged vlan named forwarded foreign => ?_,
    fun s f k data e b at_ poison es oldest works short => ?_, fun s f e b es oldest works buffer => ?_,
    fun s f entry x takes turn active load table bank nonempty fits shadow idle => ?_,
    fun s x xs first whole works => ?_, fun s f k poisoned timeout works queue => ?_, fun s f k e b es oldest works => ?_⟩
  · have legal : TxLegal f.val e := ⟨long, inside, tagged, vlan, txTenancy_le named, forwarded⟩
    obtain ⟨t, ran, only, live⟩ := exec_touches (.txFrame f k data false at_) s
      (execTxFrame_accepted oldest works legal active own data at_) rfl rfl
    obtain ⟨cells, counted, -⟩ := txCounter_does (ringsRun_ev works) (o := .H_TX_ACCEPTED) f ⟨rfl, rfl, rfl, rfl, by decide⟩
      (Live.at_keeps s.live at_)
    refine ⟨t, s.live.txCounted at_ f.val (leAt e 8 2), ran, only, live, .of_store cells ?_, ?_, ?_⟩
    · exact (blk_store' ..).trans (blk_store' ..)
    · exact (blk_rd ..).trans ((blk_rd ..).trans counted)
    · rw [live]
      exact (txComplete_ring ..).1
  · have legal : TxLegal f.val e := ⟨long, inside, tagged, vlan, txTenancy_le named, forwarded⟩
    obtain ⟨t, ran, only, live⟩ := exec_touches (.txFrame f k data false at_) s
      (execTxFrame_denied oldest works legal foreign data at_) rfl rfl
    obtain ⟨cells, counted, host⟩ := txCounter_does (ringsRun_ev works) (o := .H_TX_DENIED) f
      ⟨rfl, rfl, rfl, rfl, by decide⟩ (Live.at_keeps s.live at_)
    obtain ⟨kept, taken, -, entry⟩ := txComplete_does host oldest txDenied s.live.now
    refine ⟨t, ran, only, ?_⟩
    rw [live, kept.rd]
    exact ⟨.keep kept cells, counted, taken, entry⟩
  · obtain ⟨t, ran, only, live⟩ := exec_touches (.txFrame f k data poison at_) s
      (execTxFrame_short oldest works short data poison at_) rfl rfl
    obtain ⟨kept, taken, owed, entry⟩ := txComplete_does (l := s.live) (m := (s.live.at at_).tookFree) rfl oldest
      txBadEntry ((s.live.at at_).freeVal % 2 ^ 64)
    refine ⟨t, (s.live.at at_).freeVal % 2 ^ 64, ran, only, ?_⟩
    rw [live]
    exact ⟨kept.store_eq (by decide), taken, owed, entry⟩
  · obtain ⟨t, ran, only, live⟩ := exec_touches (.drainBufferPost f) s (execDrainBufferPost_buffer oldest works buffer) rfl rfl
    exact ⟨t, ran, only, by rw [live]; exact bufferPosted_does oldest⟩
  · obtain ⟨kept, loads, loadAt, owed⟩ := loadTaken_does s.live f.val (slice entry 0 32) x
    obtain ⟨t, ran, only, live⟩ := exec_to (.tableLoad f entry) s rfl
      (load_eq takes turn active load table bank nonempty fits shadow idle) kept
    exact ⟨t, ran, only, by rw [live]; exact ⟨loads, loadAt, owed⟩⟩
  · obtain ⟨t, ran, only, live⟩ := exec_touches .tableLoadDone s (execTableLoadDone_whole first whole works) rfl rfl
    obtain ⟨store, loads, marks, arose, entry⟩ :=
      loadComplete_does (l := s.live.loadEnded x xs) (engineOn_live (ringsRun_ev works)).1 x 0
    exact ⟨t, ran, only, by rw [live]; exact ⟨store, loads, marks, arose, entry⟩⟩
  · obtain ⟨ev, counts⟩ := engineOn_live (ringsRun_ev works)
    obtain ⟨kept, late⟩ := timedOut_does ev f.val timeout
    have mode : (s.live.timedOut f.val timeout).mode = s.live.mode := kept.mode_eq (by decide)
    have ev' : (s.live.timedOut f.val timeout).mode.evaluates = true := by rw [mode]; exact ev
    obtain ⟨t, ran, only, live⟩ := exec_touches (.dmaReadFailed f k false poisoned timeout) s
      (execDmaReadFailed_control works queue poisoned timeout) rfl rfl
    obtain ⟨stopped, others, -, errors, arisen⟩ := stopRing_does ev' (by rw [mode]; exact counts) (k := k.val) f.isLt
      (if poisoned ∧ ¬ timeout then 2 else 1)
    have rings (i j : Nat) : (s.live.timedOut f.val timeout).ring i j = s.live.ring i j := ring_host (kept.host_eq (by decide)) i j
    have now : (s.live.timedOut f.val timeout).now = s.live.now := congrArg Beat.number (kept.beat_eq (by decide))
    refine ⟨t, ran, only, ?_⟩
    rw [live]
    refine ⟨by rw [stopped, rings], fun g j other => (others g j other).trans (rings g j), by rw [errors, kept.rd], ?_,
      fun named => stop_mono ev' _ _ _ (late named)⟩
    unfold Live.occ at arisen ⊢
    rwa [now] at arisen
  · obtain ⟨t, ran, only, live⟩ := exec_touches (.dmaReadFailed f ⟨4 + k.val, by omega⟩ true false false) s
      (execDmaReadFailed_frame oldest works) rfl rfl
    obtain ⟨cells, counted, host⟩ := txCounter_does (ringsRun_ev works) (o := .H_TX_DMA_ERRORS) f
      ⟨rfl, rfl, rfl, rfl, by decide⟩ (.refl _ s.live)
    obtain ⟨kept, taken, -, entry⟩ := txComplete_does (m := (s.live.count .H_TX_DMA_ERRORS 1 f.val).tookFree) host oldest
      txDmaError (s.live.freeVal % 2 ^ 64)
    refine ⟨t, s.live.freeVal % 2 ^ 64, ran, only, ?_⟩
    rw [live, kept.rd]
    exact ⟨.keep kept (.of_store cells rfl), counted, taken, entry⟩

end Sys2Proof

namespace Sys2Proof

open Machine

/-! ### What a MAC_OP reports (R324, R343) -/

/-- A MAC_OP whose outcome is its report changes the three result cells and the events alone. -/
theorem exec_reports (c : Instr) (s : State) {y : Live} {r op result loc eff : Nat} (ev : s.live.mode.evaluates = true)
    (runs : exec c s = .next (s.withLive y)) (outcome : y = s.live.opReport r op result loc eff) (code : result < 256) :
    ∃ t, exec c s = .next t ∧ s.only [.store, .events] t ∧
      s.live.cellsBut [Obj.key .OP_RESULT 0 0 r, Obj.key .OP_LOCATION 0 0 r, Obj.key .OP_EFFECTIVE 0 0 r] t.live ∧
      t.live.rd .OP_RESULT 0 0 r = result := by
  obtain ⟨t, ran, only, live⟩ := exec_to c s runs outcome (Live.opReport_keeps ..)
  refine ⟨t, ran, only, ?_⟩
  rw [live]
  exact ⟨opReport_keeps' ev .., (opReport_result ev ..).trans (Nat.mod_eq_of_lt code)⟩

/-- The occurrence of event 391 is the one that a report raises. -/
theorem opReport_arose {l : Live} (ev : l.mode.evaluates = true) (r op result loc eff : Nat) :
    l.arose (l.opReport r op result loc eff)
      [l.occ 391 (u8 r ++ u8 op ++ u8 result ++ u32 loc ++ u64 eff) (l.masterTenancy r)] := by
  rw [opReport_eq ev]; rfl

/-- A report that follows a change of the MAC table: what it says, and that forwarding is as the change left it. -/
theorem opReport_changed {l m : Live} (ev : l.mode.evaluates = true) (changed : Keeps [.store, .plane] l m) (dirty : Bool)
    {r op result loc eff : Nat} (code : result < 256) :
    let x := (m.showMac.when dirty Live.markDirty).opReport r op result loc eff
    x.rd .OP_RESULT 0 0 r = result ∧ x.rd .OP_LOCATION 0 0 r = loc % 2 ^ 32 ∧ x.plane.fwd = m.plane.fwd := by
  have marked := when_markDirty_keeps m.showMac dirty
  have ev' : (m.showMac.when dirty Live.markDirty).mode.evaluates = true := by
    rw [marked.mode_eq (by decide), (Live.showMac_keeps m).mode_eq (by decide), changed.mode_eq (by decide)]
    exact ev
  refine ⟨(opReport_result ev' ..).trans (Nat.mod_eq_of_lt code), opReport_location ev' .., ?_⟩
  rw [opReport_plane, marked.plane_eq (by decide), showMac_plane]

/-! ### FIND, DELETE and ADD_STATIC (R313, R315, R324) -/

section
variable {l : Live} {r tn loc : Nat} {e : MacEntry}

/-- No operation is denied to a master that acts for no tenancy, or for the one that owns what it names (R324). -/
theorem not_foreign {owner : Nat} (own : tn = 0 ∨ owner = tn) : ¬(tn ≠ 0 ∧ owner ≠ tn) :=
  fun ⟨tenant, foreign⟩ => own.elim tenant foreign

theorem macFindOp_present (own : tn = 0 ∨ l.vidOwner (l.rd .OP_FID 0 0 r) = tn)
    (found : l.macFind (l.rd .OP_FID 0 0 r) (l.rd .OP_MAC 0 0 r) = some (loc, e)) (present : e.dest ≠ destAbsent) :
    l.macFindOp r tn = l.opReport r 3 opDone loc l.now := by
  unfold Live.macFindOp
  simp only [if_neg (not_foreign own), found, if_neg present]

theorem macFindOp_absent (own : tn = 0 ∨ l.vidOwner (l.rd .OP_FID 0 0 r) = tn)
    (absent : l.macFind (l.rd .OP_FID 0 0 r) (l.rd .OP_MAC 0 0 r) = none) :
    l.macFindOp r tn = l.opReport r 3 opNotFound noLoc l.now := by
  unfold Live.macFindOp
  simp only [if_neg (not_foreign own), absent]

theorem macFindOp_foreign (tenant : tn ≠ 0) (foreign : l.vidOwner (l.rd .OP_FID 0 0 r) ≠ tn) :
    l.macFindOp r tn = l.opReport r 3 opDenied noLoc l.now :=
  if_pos ⟨tenant, foreign⟩

theorem macDelete_present (own : tn = 0 ∨ l.vidOwner (l.rd .OP_FID 0 0 r) = tn)
    (found : l.macFind (l.rd .OP_FID 0 0 r) (l.rd .OP_MAC 0 0 r) = some (loc, e)) (present : e.dest ≠ destAbsent) :
    l.macDelete r tn = ((l.macRemove loc l.ticks e).showMac.when e.static Live.markDirty).opReport r 2 opDone loc
      (l.beatOf (l.macNext loc l.ticks e)) := by
  unfold Live.macDelete
  simp only [if_neg (not_foreign own), found, if_neg present]

theorem macDelete_absent (own : tn = 0 ∨ l.vidOwner (l.rd .OP_FID 0 0 r) = tn)
    (absent : l.macFind (l.rd .OP_FID 0 0 r) (l.rd .OP_MAC 0 0 r) = none) :
    l.macDelete r tn = l.opReport r 2 opNotFound noLoc l.now := by
  unfold Live.macDelete
  simp only [if_neg (not_foreign own), absent]

theorem macDelete_foreign (tenant : tn ≠ 0) (foreign : l.vidOwner (l.rd .OP_FID 0 0 r) ≠ tn) :
    l.macDelete r tn = l.opReport r 2 opDenied noLoc l.now :=
  if_pos ⟨tenant, foreign⟩

theorem addStatic_foreign (tenant : tn ≠ 0) (foreign : l.vidOwner (l.rd .OP_FID 0 0 r) ≠ tn) :
    l.addStatic r tn = l.opReport r 1 opDenied noLoc l.now :=
  if_pos ⟨tenant, .inl foreign⟩

/-- The entry that an ADD_STATIC of a new key creates (R324). -/
def Machine.Live.staticEntry (l : Live) (r : Nat) : MacEntry :=
  { static := true, tn := l.vidOwner (l.rd .OP_FID 0 0 r), fid := l.rd .OP_FID 0 0 r, mac := l.rd .OP_MAC 0 0 r,
    dest := l.opDest r, prev := 0, age := 0, effective := 0 }

/-- The PF's ADD_STATIC of a new key, within quota and with a free location, creates the entry there. -/
theorem addStatic_new (absent : l.macFind (l.rd .OP_FID 0 0 r) (l.rd .OP_MAC 0 0 r) = none)
    (within : l.macUse (l.vidOwner (l.rd .OP_FID 0 0 r)) < l.rd .EFFECTIVE_QUOTA (l.vidOwner (l.rd .OP_FID 0 0 r)) 4)
    (room : l.freeLoc (l.rd .OP_FID 0 0 r) (l.rd .OP_MAC 0 0 r) = some loc) :
    l.addStatic r 0 =
      ((l.macCreate loc l.ticks (l.staticEntry r)).showMac.when true Live.markDirty).opReport r 1 opDone loc l.now := by
  unfold Live.addStatic Live.when Live.staticEntry
  simp only [ne_eq, not_true_eq_false, false_and, reduceIte, absent, if_neg (Nat.not_le.mpr within), room]

/-- A removal takes effect now where R315 leaves it, and otherwise waits for the first beat that R315 leaves. -/
theorem macRemove_does (l : Live) (loc v : Nat) (e : MacEntry) :
    if l.macFree loc v e = true then
      (l.macRemove loc v e).plane.fwd.settle = l.plane.fwd.settle ++ [(v, loc)] ∧
        (l.macRemove loc v e).plane.fwd.later = l.plane.fwd.later
    else (l.macRemove loc v e).plane.fwd.settle = l.plane.fwd.settle ∧
      (l.macRemove loc v e).plane.fwd.later = l.plane.fwd.later ++
        [{ at_ := l.macNext loc v e, tn := e.tn, fid := e.fid, mac := e.mac, dest := destAbsent, static := e.static }] := by
  unfold Live.macRemove Live.macSet
  split
  · rw [macChange_fwd]
    exact ⟨rfl, rfl⟩
  · exact ⟨rfl, rfl⟩

/-! ### Flushes (R324, R325) -/

/-- With room a criterion waits behind those that wait already. -/
theorem queueFlush_flushes (room : l.flushRoom = true) (k : FlushKind) :
    (l.queueFlush k).plane.fwd.flushes = l.plane.fwd.flushes ++ [{ kind := k, at_ := l.ticks }] := by
  unfold Live.queueFlush
  rw [if_pos room]
  rfl

/-- A flush of what the master may name, with room, queues its criterion and reports it queued. -/
theorem macFlush_queued {allowed : Bool} (may : tn = 0 ∨ allowed = true) (room : l.flushRoom = true) (op : Nat)
    (k : FlushKind) : l.macFlush r tn op k allowed = (l.queueFlush k).opReport r op opQueued noLoc l.now := by
  unfold Live.macFlush
  rw [if_neg fun denied => may.elim denied.1 denied.2, if_pos room]

/-- Without room a flush of what the master may name changes nothing. -/
theorem macFlush_full {allowed : Bool} (may : tn = 0 ∨ allowed = true) (full : l.flushRoom = false) (op : Nat)
    (k : FlushKind) : l.macFlush r tn op k allowed = l := by
  unfold Live.macFlush
  rw [if_neg fun denied => may.elim denied.1 denied.2, if_neg (by simp [full])]

theorem flushFidOp_foreign (tenant : tn ≠ 0) (foreign : l.vidOwner (l.rd .OP_FID 0 0 r) ≠ tn) :
    l.flushFidOp r tn = l.opReport r 5 opDenied noLoc l.now :=
  if_pos ⟨tenant, by simpa using foreign⟩

end

/-- A flush command whose criterion the master may name, with room: its result, and the criteria that wait. -/
theorem exec_flushes (c : Instr) (s : State) {y : Live} {r tn op : Nat} {k : FlushKind} {allowed : Bool}
    (on : s.live.mode.engineOn = true) (room : s.live.flushRoom = true) (may : tn = 0 ∨ allowed = true)
    (runs : exec c s = .next (s.withLive y)) (flush : y = s.live.macFlush r tn op k allowed) :
    ∃ t, exec c s = .next t ∧ s.only [.store, .plane, .events] t ∧ t.live.rd .OP_RESULT 0 0 r = opQueued ∧
      t.live.plane.fwd.flushes = s.live.plane.fwd.flushes ++ [{ kind := k, at_ := s.live.ticks }] := by
  have ev : (s.live.queueFlush k).mode.evaluates = true := by
    rw [(Live.queueFlush_keeps ..).mode_eq (by decide)]
    exact (engineOn_live on).1
  obtain ⟨t, ran, only, live⟩ := exec_to c s runs (flush.trans (macFlush_queued may room ..)) (m := [.store, .plane, .events])
    (.via (Live.opReport_keeps ..) (by decide) (.mono (Live.queueFlush_keeps ..) (by decide)))
  refine ⟨t, ran, only, ?_⟩
  rw [live, opReport_plane]
  exact ⟨opReport_result ev .., queueFlush_flushes room k⟩

/-- The end of a pass: FLUSH_BUSY is its only cell, the criteria of the pass are gone, and event 393 arises (R325). -/
theorem flushDone_does {l : Live} (ev : l.mode.evaluates = true) :
    l.cellsBut [Obj.key .FLUSH_BUSY 0 0 0] l.flushDone ∧ l.flushDone.rdB .FLUSH_BUSY = false ∧
    l.flushDone.plane.fwd.pass = [] ∧ l.arose l.flushDone [l.occ 393] := by
  unfold Live.flushDone
  set m := (l.setFwd fun x => { x with pass := [], passPos := 0 }).wrB .FLUSH_BUSY false with idle
  have ev' : m.mode.evaluates = true := ev
  refine ⟨.raise (.wr (.of_store (.refl _ l) rfl) (List.mem_singleton_self _)) ev', ?_, ?_, arose_raise ev' rfl rfl ..⟩
  · unfold Live.rdB
    rw [Live.raise_rd ev', idle]
    unfold Live.wrB
    rw [Live.rd_wr_same]
    rfl
  · rw [Live.raise_plane]
    rfl

/-- Settles O5: where the engine works each command runs its operation, whose outcome is one report (`exec_reports`), a change
of the table with a report after it (`opReport_changed`), or a criterion queued (`exec_flushes`). -/
theorem macOperationsReport : Obligations.MacOperationsReport := by
  refine ⟨fun s m loc e on => ?_, fun s m on => ⟨fun own absent => ?_, fun tenant foreign => ?_⟩, fun s m loc e on => ?_,
    fun s m loc on => ?_, fun s m on room => ?_, fun s m on full => ?_, fun s pass visited on => ?_⟩
  · intro r tn fid own found present
    have ev := (engineOn_live on).1
    obtain ⟨t, ran, only, live⟩ := exec_to (.find m) s rfl ((if_pos on).trans (macFindOp_present own found present))
      (Live.opReport_keeps ..)
    refine ⟨t, ran, only, ?_⟩
    rw [live]
    exact ⟨opReport_keeps' ev .., opReport_result ev .., opReport_location ev .., opReport_arose ev ..⟩
  · have ev := (engineOn_live on).1
    exact ⟨exec_reports (.find m) s ev rfl ((if_pos on).trans (macFindOp_absent own absent)) (by decide),
      exec_reports (.delete m) s ev rfl ((if_pos on).trans (macDelete_absent own absent)) (by decide)⟩
  · have ev := (engineOn_live on).1
    exact ⟨exec_reports (.find m) s ev rfl ((if_pos on).trans (macFindOp_foreign tenant foreign)) (by decide),
      exec_reports (.delete m) s ev rfl ((if_pos on).trans (macDelete_foreign tenant foreign)) (by decide),
      exec_reports (.addStatic m) s ev rfl ((if_pos on).trans (addStatic_foreign tenant foreign)) (by decide),
      exec_reports (.flushFid m) s ev rfl ((if_pos on).trans (flushFidOp_foreign tenant foreign)) (by decide)⟩
  · intro r tn fid own found present
    obtain ⟨t, ran, only, live⟩ := exec_touches (.delete m) s rfl ((if_pos on).trans (macDelete_present own found present)) rfl
    obtain ⟨result, location, fwd⟩ := opReport_changed (engineOn_live on).1 (Live.macRemove_keeps s.live loc s.live.ticks e)
      e.static (r := r) (op := 2) (result := opDone) (loc := loc) (eff := s.live.beatOf (s.live.macNext loc s.live.ticks e))
      (by decide)
    refine ⟨t, ran, only, ?_⟩
    rw [live, fwd]
    exact ⟨result, location, macRemove_does ..⟩
  · intro r fid pf absent within room
    obtain ⟨t, ran, only, live⟩ := exec_touches (.addStatic m) s rfl
      ((if_pos on).trans ((congrArg _ pf).trans (addStatic_new absent within room))) rfl
    obtain ⟨result, location, fwd⟩ := opReport_changed (engineOn_live on).1
      (Live.macCreate_keeps s.live loc s.live.ticks (s.live.staticEntry r)) true (r := r) (op := 1) (result := opDone)
      (loc := loc) (eff := s.live.now) (by decide)
    refine ⟨t, ran, only, ?_⟩
    rw [live, fwd]
    refine ⟨result, location, ?_⟩
    unfold Live.macCreate
    rw [macChange_fwd]
  · exact ⟨fun pf => exec_flushes (.flushPort m) s on room (.inl pf) rfl (if_pos on),
      fun own => exec_flushes (.flushFid m) s on room (own.imp_right beq_iff_eq.mpr) rfl (if_pos on),
      exec_flushes (.flushTenancy m) s on room (.inr rfl) rfl (if_pos on)⟩
  · exact exec_idle (.flushTenancy m) s rfl ((if_pos on).trans (macFlush_full (.inr rfl) full ..))
  · obtain ⟨ev, thawed⟩ := engineOn_live on
    obtain ⟨t, ran, only, live⟩ := exec_touches .macFlushDone s rfl (if_pos ⟨by simp [pass], visited, thawed⟩) rfl
    exact ⟨t, ran, only, by rw [live]; exact flushDone_does ev⟩

end Sys2Proof

namespace Sys2Proof

open Machine

/-! ### Buffers and results (R386, R403) -/

/-- A change of one buffer leaves every other as it was. -/
theorem buf_upd {l m : Live} {key : Nat} {f : Buf → Buf} (bufs : m.bpm.bufs = l.bpm.bufs.upd key f) :
    m.buf key = f (l.buf key) ∧ ∀ j, j ≠ key → m.buf j = l.buf j := by
  unfold Live.buf
  rw [bufs]
  exact ⟨Tbl.get_upd_same .., fun _ => Tbl.get_upd_other _ _⟩

theorem setBuf_bufs (l : Live) (key : Nat) (f : Buf → Buf) : (l.setBuf key f).bpm.bufs = l.bpm.bufs.upd key f := rfl

/-- A result that is remembered changes no buffer. -/
theorem bpmResult_bufs (l : Live) (r code : Nat) (handle : Option Nat) :
    (l.bpmResult r code handle).bpm.bufs = l.bpm.bufs := rfl

/-- What SHARE, RELEASE and FREE leave: their result code is remembered, with the handle of the last ALLOC (R619). -/
def Machine.Live.answered (r : Nat) (a : Nat × Live) : Live := a.2.bpmResult r a.1 none

/-- What ALLOC leaves: its result code is remembered, with its handle. -/
def Machine.Live.handed (r : Nat) (a : (Nat × Nat) × Live) : Live := a.2.bpmResult r a.1.1 (some a.1.2)

/-- A command that changes one buffer, then remembers its result. -/
theorem settled_buffer {c : Instr} {s : State} {m : List Part} {x : Live} {r code key : Nat} {handle : Option Nat}
    {f : Buf → Buf} (settled : ∃ t, exec c s = .next t ∧ s.only m t ∧ t.live = x.bpmResult r code handle)
    (bufs : x.bpm.bufs = s.live.bpm.bufs.upd key f) :
    ∃ t, exec c s = .next t ∧ s.only m t ∧ t.live.bpm.results.get r = (code, handle.getD (x.bpm.results.get r).2) ∧
      t.live.buf key = f (s.live.buf key) ∧ ∀ j, j ≠ key → t.live.buf j = s.live.buf j := by
  obtain ⟨t, ran, only, live⟩ := settled
  refine ⟨t, ran, only, ?_, buf_upd ?_⟩
  · rw [live, bpmResult_get]
  · rw [live, bpmResult_bufs, bufs]

/-- A command that passes its checks and changes the owners of one buffer touches the pools alone. -/
theorem exec_owners (c : Instr) (s : State) {y : Live} {r key : Nat} {f : Buf → Buf} (runs : exec c s = .next (s.withLive y))
    (changed : y = Live.answered r (bpmOk, s.live.setBuf key f)) :
    ∃ t, exec c s = .next t ∧ s.only [.bpm] t ∧ (t.live.bpm.results.get r).1 = bpmOk ∧
      t.live.buf key = f (s.live.buf key) ∧ ∀ j, j ≠ key → t.live.buf j = s.live.buf j := by
  obtain ⟨t, ran, only, result, own, others⟩ := settled_buffer
    (exec_to c s runs changed (.via (Live.bpmResult_keeps ..) rfl (Live.setBuf_keeps ..))) (setBuf_bufs ..)
  exact ⟨t, ran, only, congrArg Prod.fst result, own, others⟩

/-- A command that fails a check answers the code and changes no buffer (R386). -/
theorem exec_bpmFault (c : Instr) (s : State) {y : Live} {r h code : Nat} (runs : exec c s = .next (s.withLive y))
    (faulted : y = Live.answered r (code, s.live.bpmFault r h code)) :
    ∃ t, exec c s = .next t ∧ t.live.bpm.bufs = s.live.bpm.bufs ∧ (t.live.bpm.results.get r).1 = code := by
  subst faulted
  refine ⟨_, runs, (bpmResult_bufs ..).trans (congrArg Bpm.bufs (bpmFault_bpm s.live r h code)), ?_⟩
  exact congrArg Prod.fst (bpmResult_get (s.live.bpmFault r h code) r code none)

section
variable {l : Live} {r h new size tn k i key : Nat} {final : Bool}

/-! ### ALLOC (R391, R392) -/

/-- The machine as buffer `i` of pool `k` is given to a requester, its only owner and its final owner (R392). -/
def Machine.Live.granted (l : Live) (r k i tn : Nat) : Live :=
  let taken := l.setBuf (bufKey k i) fun b =>
    { b with owners := [r], final := r, tn := bufferTn r tn, data := [], poison := [] }
  (taken.wr .IN_USE_HIGH (max (taken.rd .IN_USE_HIGH k) (taken.inUse k)) k).blk 20 .eventsIn 1 r 0 (requesterTn r)

theorem granted_bufs (l : Live) (r k i tn : Nat) : (l.granted r k i tn).bpm.bufs = l.bpm.bufs.upd (bufKey k i) fun b =>
    { b with owners := [r], final := r, tn := bufferTn r tn, data := [], poison := [] } := by
  unfold Live.granted
  rw [blk_bpm', Live.wr_bpm]
  rfl

theorem alloc_granted (pool : poolFor size = some k) (free : l.freeBuf k = some i) (ok : l.allocCode r k = bpmOk) :
    l.alloc r size tn = ((bpmOk, handleOf k (l.buf (bufKey k i)).gen i), l.granted r k i tn) := by
  unfold Live.alloc
  simp only [pool, free, if_pos ok]
  rfl

theorem alloc_refused (pool : poolFor size = some k) (refused : l.freeBuf k = none ∨ l.allocCode r k ≠ bpmOk) :
    l.alloc r size tn = ((l.allocCode r k, 0), l.allocRefused r (some k) (l.allocCode r k)) := by
  unfold Live.alloc
  simp only [pool]
  cases free : l.freeBuf k with
  | none => rfl
  | some i => exact if_neg (refused.resolve_left (by simp [free]))

/-- A refusal in a chosen pool raises event 323 with the requester, the pool and the result (R391). -/
theorem allocRefused_raises (ev : l.mode.evaluates = true) (r k code : Nat) :
    l.occ 323 (u8 r ++ u8 k ++ u8 code) (requesterTn r) ∈ (l.allocRefused r (some k) code).events.arisen :=
  Live.raise_mem ev (by simp) (by simp) ..

/-! ### SHARE, RELEASE and FREE (R396, R397) -/

theorem share_faulted (failed : l.checkHandle r h none ≠ bpmOk) :
    l.share r h new final = (l.checkHandle r h none, l.bpmFault r h (l.checkHandle r h none)) :=
  if_pos failed

theorem release_faulted (failed : l.checkHandle r h none ≠ bpmOk) :
    l.release r h = (l.checkHandle r h none, l.bpmFault r h (l.checkHandle r h none)) :=
  if_pos failed

theorem freeHandle_faulted (failed : l.checkHandle r h none ≠ bpmOk) :
    l.freeHandle r h = (l.checkHandle r h none, l.bpmFault r h (l.checkHandle r h none)) :=
  if_pos failed

/-- A SHARE without FINAL that passes its checks adds the new owner and leaves the final mark. -/
theorem share_added (passed : l.checkHandle r h none = bpmOk) (room : (l.buf (handleKey h)).owners.length < 4)
    (fresh : (l.buf (handleKey h)).owners.contains new = false) (known : l.requesterExists new = true)
    (own : new < 9 ∨ (l.buf (handleKey h)).tn = new - 8) :
    l.share r h new false = (bpmOk, l.setBuf (handleKey h) fun b => { b with owners := b.owners ++ [new] }) := by
  have of_tenancy : ¬(9 ≤ new ∧ (l.buf (handleKey h)).tn ≠ new - 8) := fun ⟨vf, foreign⟩ =>
    own.elim (Nat.not_lt.mpr vf) foreign
  unfold Live.share
  simp only [passed, ne_eq, not_true_eq_false, if_false, if_neg (Nat.not_le.mpr room), fresh, known, Bool.false_eq_true,
    or_self, if_neg of_tenancy, false_and]

/-- A RELEASE by an owner that is not the final one removes it. -/
theorem release_removed (passed : l.checkHandle r h none = bpmOk) (shared : (l.buf (handleKey h)).final ≠ r) :
    l.release r h = (bpmOk, l.setBuf (handleKey h) fun b => { b with owners := b.owners.filter fun o => o != r }) :=
  (if_neg (not_not_intro passed)).trans (if_neg shared)

/-- A FREE by the final owner, while it is the only owner, frees the buffer. -/
theorem freeHandle_freed (passed : l.checkHandle r h none = bpmOk) (last : (l.buf (handleKey h)).final = r)
    (only : (l.buf (handleKey h)).owners = [r]) : l.freeHandle r h = (bpmOk, l.freeBuffer (handleKey h) r) :=
  (if_neg (not_not_intro passed)).trans (if_neg fun refused => refused.elim (· last) (· only))

/-! ### The end of a zero-fill (R399) -/

/-- A buffer whose zero-fill ends keeps its generation alone. -/
theorem zeroFilled_bufs (l : Live) (key : Nat) :
    (l.zeroFilled key).bpm.bufs = l.bpm.bufs.upd key fun b => { gen := b.gen } := by
  unfold Live.zeroFilled
  dsimp only
  split <;> rfl

/-- The end of a zero-fill that no purge waits for ends no purge (R494). -/
theorem fillDone_unwaited (unwaited : (l.flannel.purgeKeys.any fun e => e.2 == key) = false) :
    l.fillDone key = (l.zeroFilled key).setFlannel fun x => { x with purgeKeys := x.purgeKeys.filter fun e => e.2 != key } :=
  if_neg (Bool.eq_false_iff.mp unwaited)

end

/-- Settles O4: what each operation makes of the pools is its own lemma (`alloc_granted`, `share_added`, `release_removed`,
`freeHandle_freed`, `fillDone_unwaited`); `settled_buffer` and `exec_owners` read off the result and the buffers of an operation
that succeeds, `exec_bpmFault` those of one that fails a check. -/
theorem bufferRequestsSettle : Obligations.BufferRequestsSettle := by
  refine ⟨fun s r size k i tn on pool free ok => ?_, fun s r size k tn on pool refused => ?_,
    fun s r new h final on passed room fresh known own unfinal => ?_, fun s r new h final on failed => ?_,
    fun s r h on passed shared => ?_, fun s r h on passed last only => ?_, fun s pool index inside due thawed unwaited => ?_⟩
  · obtain ⟨t, ran, only, result, taken, others⟩ := settled_buffer (exec_touches (.alloc r size tn) s rfl
      ((if_pos on).trans (congrArg (Live.handed r.val) (alloc_granted pool free ok))) rfl) (granted_bufs ..)
    exact ⟨t, ran, only, result, by rw [taken], by rw [taken], by rw [taken], others⟩
  · obtain ⟨t, ran, only, live⟩ := exec_touches (.alloc r size tn) s rfl
      ((if_pos on).trans (congrArg (Live.handed r.val) (alloc_refused pool refused))) rfl
    refine ⟨t, ran, only, ?_⟩
    rw [live]
    exact ⟨bpmResult_get .., (bpmResult_bufs ..).trans (congrArg Bpm.bufs (allocRefused_bpm ..)), allocRefused_raises (bpmRuns_ev on) ..⟩
  · subst unfinal
    obtain ⟨t, ran, only, result, added, others⟩ := exec_owners (.share r h new false) s rfl
      ((if_pos on).trans (congrArg (Live.answered r.val) (share_added passed room fresh known own)))
    exact ⟨t, ran, only, by rw [added], by rw [added], result, others⟩
  · exact ⟨exec_bpmFault (.share r h new final) s rfl
        ((if_pos on).trans (congrArg (Live.answered r.val) (share_faulted failed))),
      exec_bpmFault (.release r h) s rfl ((if_pos on).trans (congrArg (Live.answered r.val) (release_faulted failed))),
      exec_bpmFault (.free r h) s rfl ((if_pos on).trans (congrArg (Live.answered r.val) (freeHandle_faulted failed)))⟩
  · obtain ⟨t, ran, only, result, removed, others⟩ := exec_owners (.release r h) s rfl
      ((if_pos on).trans (congrArg (Live.answered r.val) (release_removed passed shared)))
    exact ⟨t, ran, only, by rw [removed], result, others⟩
  · obtain ⟨t, ran, kept, result, freed, others⟩ := settled_buffer (exec_touches (.free r h) s rfl
      ((if_pos on).trans (congrArg (Live.answered r.val) (freeHandle_freed passed last only))) rfl) (freeBuffer_bufs ..)
    exact ⟨t, ran, kept, by rw [freed], by rw [freed], by rw [freed], congrArg Prod.fst result, others⟩
  · obtain ⟨t, ran, only, live⟩ := exec_to (.zeroFillDone pool index) s rfl
      ((if_pos ⟨inside, due, thawed⟩).trans (fillDone_unwaited unwaited)) (m := [.bpm, .flannel])
      (.via (Live.setFlannel_keeps ..) rfl (.mono (Live.zeroFilled_keeps ..) rfl))
    obtain ⟨own, others⟩ := buf_upd (l := s.live) (m := t.live) (by rw [live, Live.setFlannel_bpm, zeroFilled_bufs])
    exact ⟨t, ran, only, own, others⟩

end Sys2Proof

namespace Sys2Proof

open Machine

/-- Cells read alike where the dictionary's cells are the same. -/
theorem rd_of_store {a b : Live} (same : b.store = a.store) (o : Obj) (i k t : Nat) : b.rd o i k t = a.rd o i k t := by
  unfold Live.rd; rw [same]

/-! ### Frames handed to functions (R602, R608 to R610) -/

section
variable {l m : Live} {fr : Frame} {k : Nat} {entry : List Byte}

/-- A frame that port H cannot hand over is gone, and counts in `o` (R609). -/
def Machine.Live.rxDropped (l : Live) (o : Obj) (f : Nat) : Live :=
  ((l.count o 1 f).blk 23 .drops 1 f 0 f).mark 584 (u8 f) (fnTn f)

/-- The entry of a frame's completion (R610). -/
def rxEntry (fr : Frame) (entry : List Byte) : List Byte :=
  slice entry 12 4 ++ leBytes 2 (body fr.bytes).length ++ u8 fr.poisoned.toNat ++ u8 fr.port ++ leBytes 8 fr.word
    ++ leBytes 8 fr.stamp ++ leBytes 8 fr.beat

/-- A frame in the buffer at the head of a function's ring, with its completion written (R608, R610). -/
def Machine.Live.rxFilled (l : Live) (fr : Frame) (k : Nat) (entry : List Byte) : Live :=
  (l.setRing fr.tn k fun r => { r with sqHead := (r.sqHead + 1) % r.sqSize }).cqWrite fr.tn k (rxEntry fr entry)
    (body fr.bytes) false

/-- A frame that is delivered counts, and its poison toward the host shows. -/
def Machine.Live.rxDelivered (l : Live) (fr : Frame) : Live :=
  (((l.count .H_RX_DELIVERED 1 fr.tn).blk 23 .eventsIn 1 fr.tn 0 fr.tn).blk 23 .bytesIn (body fr.bytes).length fr.tn 0
    fr.tn).poisonToHost fr.tn fr.poisoned

/-- A frame whose function and ring can take it fits the buffer at the head of the SQ, or leaves it (R602, R609). -/
theorem rxHandover_ready (taken : l.takeFrom 54 = (some fr, m)) (ring : k = bits (m.fn fr.tn).rxMap (2 * fr.tc) 2)
    (served : (m.fn fr.tn).flr = none ∨ (m.fn fr.tn).cleaned = true) (present : (m.fn fr.tn).present = true)
    (active : (m.ring fr.tn k).active = true) (held : (m.ring fr.tn k).sqHeld ≠ 0) (room : (m.ring fr.tn k).cqFull = false) :
    l.rxHandover entry = if leAt entry 8 2 < (body fr.bytes).length then m.rxDropped .H_RX_TOO_LONG fr.tn
      else (m.rxFilled fr k entry).rxDelivered fr := by
  have unreset : ¬((m.fn fr.tn).flr ≠ none ∧ ¬(m.fn fr.tn).cleaned = true) := fun ⟨resets, unclean⟩ => served.elim resets unclean
  subst ring
  unfold Live.rxHandover
  rw [taken]
  dsimp only
  rw [if_neg unreset, if_neg (not_not_intro present), if_neg (by simp [active, held, room])]
  rfl

/-- A dropped frame counts; the port's queue and the endpoint stand. -/
theorem rxDropped_does (on : m.mode.running = true) {o : Obj} {f : Nat} (inside : o.lo ≤ f ∧ f ≤ o.hi)
    (own : o.key f 0 0 ≠ Obj.key .WRAPPED_ANY 0 0 0) :
    (m.rxDropped o f).rd o f = (m.rd o f + 1) % 256 ^ o.len ∧ (m.rxDropped o f).plane = m.plane ∧
    (m.rxDropped o f).host = m.host := by
  obtain ⟨ev, counts⟩ := running_live on
  have kept : Keeps [.store, .events] m (m.rxDropped o f) :=
    .via (Live.mark_keeps ..) rfl (.via (Live.blk_keeps ..) rfl ((Live.count_keeps ..).mono rfl))
  have uncounted : Keeps [.events] (m.count o 1 f) (m.rxDropped o f) :=
    .via (Live.mark_keeps ..) rfl ((Live.blk_keeps ..).mono rfl)
  exact ⟨(uncounted.rd ..).trans (Live.count_rd ev counts inside.1 inside.2 own), kept.plane_eq (by decide),
    kept.host_eq (by decide)⟩

/-- What a completion leaves of the rings; the vector's signal changes no entry (R605, R610). -/
theorem cqWrite_ring (l : Live) (f k : Nat) (e d : List Byte) (now : Bool) :
    ((l.cqWrite f k e d now).ring f k).sqHead = (l.ring f k).sqHead ∧
    ((l.cqWrite f k e d now).ring f k).cqTail = ((l.ring f k).cqTail + 1) % (l.ring f k).cqSize ∧
    ((l.cqWrite f k e d now).ring f k).lastEntry = e ∧ ((l.cqWrite f k e d now).ring f k).lastData = d ∧
    ∀ i j, (i, j) ≠ (f, k) → (l.cqWrite f k e d now).ring i j = l.ring i j := by
  unfold Live.cqWrite
  refine ⟨?_, ?_, ?_, ?_, fun i j other => by rw [ringSignal_other _ other, setRing_other _ _ other]⟩ <;>
  · rcases ringSignal_ring _ f k now f k with h | h <;> rw [h, setRing_same]

theorem rxFilled_does (m : Live) (fr : Frame) (k : Nat) (entry : List Byte) : let n := m.rxFilled fr k entry
    Keeps [.host] m n ∧ (n.ring fr.tn k).sqHead = ((m.ring fr.tn k).sqHead + 1) % (m.ring fr.tn k).sqSize ∧
    (n.ring fr.tn k).cqTail = ((m.ring fr.tn k).cqTail + 1) % (m.ring fr.tn k).cqSize ∧
    (n.ring fr.tn k).lastEntry = rxEntry fr entry ∧ (n.ring fr.tn k).lastData = body fr.bytes ∧
    ∀ i j, (i, j) ≠ (fr.tn, k) → n.ring i j = m.ring i j := by
  obtain ⟨head, tail, last, data, others⟩ :=
    cqWrite_ring (m.setRing fr.tn k fun r => { r with sqHead := (r.sqHead + 1) % r.sqSize }) fr.tn k (rxEntry fr entry)
      (body fr.bytes) false
  rw [setRing_same] at head tail
  exact ⟨.via (Live.cqWrite_keeps ..) rfl (Live.setRing_keeps ..), head, tail, last, data,
    fun i j other => (others i j other).trans (setRing_other _ _ other)⟩

theorem rxDelivered_does (on : m.mode.running = true) (known : fr.tn < 8) :
    (m.rxDelivered fr).rd .H_RX_DELIVERED fr.tn = (m.rd .H_RX_DELIVERED fr.tn + 1) % 2 ^ 64 ∧
    (m.rxDelivered fr).plane = m.plane ∧ (m.rxDelivered fr).host = m.host := by
  obtain ⟨ev, counts⟩ := running_live on
  unfold Live.rxDelivered
  obtain ⟨store, plane, host⟩ := poison_host (((m.count .H_RX_DELIVERED 1 fr.tn).blk 23 .eventsIn 1 fr.tn 0 fr.tn).blk 23
    .bytesIn (body fr.bytes).length fr.tn 0 fr.tn) fr.tn fr.poisoned
  refine ⟨?_, by rw [plane, Live.blk_plane, Live.blk_plane, Live.count_plane],
    by rw [host, Live.blk_host, Live.blk_host, Live.count_host]⟩
  rw [rd_of_store store, blk_rd, blk_rd]
  exact Live.count_rd ev counts (Nat.zero_le _) (Nat.le_of_lt_succ known)
    (by simp only [Obj.key, Obj.index, Obj.H_RX_DELIVERED, Obj.WRAPPED_ANY]; omega)

end

/-- Settles O24: a frame that its function and ring can take, but not the buffer, is dropped by `rxHandover_ready`, and
`rxDropped_does` gives its counter, the port's queue without it, and the rings as they were. -/
theorem tooLongFramesLeaveTheBuffer : Obligations.TooLongFramesLeaveTheBuffer := by
  intro s entry ns fr l on taken known served present active held room long
  obtain ⟨t, ran, only, live⟩ := exec_touches (.rxFrameHandover entry ns) s rfl
    ((if_pos on).trans ((rxHandover_ready taken rfl served present active held room).trans (if_pos long))) rfl
  have kept := takeFrom_keeps_some taken
  obtain ⟨counted, plane, host⟩ := rxDropped_does (m := l) (o := .H_RX_TOO_LONG) (f := fr.tn)
    (by rw [kept.mode_eq (by decide)]; exact on) ⟨Nat.zero_le _, Nat.le_of_lt_succ known⟩
    (by simp only [Obj.key, Obj.index, Obj.H_RX_TOO_LONG, Obj.WRAPPED_ANY]; omega)
  rw [← live] at counted plane host
  exact ⟨t, ran, only, counted, plane, host.trans (kept.host_eq (by decide))⟩

/-- Settles O41: a frame that fits fills the buffer (`rxFilled_does`) and counts (`rxDelivered_does`). -/
theorem deliveredFramesFillAReceiveBuffer : Obligations.DeliveredFramesFillAReceiveBuffer := by
  intro s entry ns k fr l on taken known ring served present active held room fits
  obtain ⟨t, ran, only, live⟩ := exec_touches (.rxFrameHandover entry ns) s rfl
    ((if_pos on).trans ((rxHandover_ready taken ring served present active held room).trans (if_neg (Nat.not_lt.mpr fits)))) rfl
  obtain ⟨filled, head, tail, last, data, others⟩ := rxFilled_does l fr k entry
  obtain ⟨counted, plane, host⟩ := rxDelivered_does (m := l.rxFilled fr k entry)
    (by rw [filled.mode_eq (by decide), (takeFrom_keeps_some taken).mode_eq (by decide)]; exact on) known
  rw [← live] at counted plane host
  refine ⟨t, ran, only, ?_, ?_, ?_, ?_, fun i j other => ?_, ?_, plane.trans (filled.plane_eq (by decide))⟩
  · rw [ring_host host, head]
  · rw [ring_host host, tail]
  · rw [ring_host host, last]; rfl
  · rw [ring_host host, data]
  · rw [ring_host host, others i j other]
  · rw [counted, filled.rd]
end Sys2Proof

namespace Sys2Proof

open Machine

/-! ### Sensors (R710) -/

/-- A sensor's STATE and the CASE_TEMP that follows from it. -/
theorem sensorState_does (l : Live) (k : Fin 8) {v : Nat} (code : v < 256) : let m := (l.wr .STATE_1990 v k.val).showCaseTemp
    m.rd .STATE_1990 k.val = v ∧ m.enclosure = l.enclosure ∧
    l.cellsBut [Obj.key .STATE_1990 k.val 0 0, Obj.key .CASE_TEMP 0 0 0, Obj.key .CASE_TEMP 1 0 0] m := by
  have apart : ∀ c, Obj.key .STATE_1990 k.val 0 0 ≠ Obj.key .CASE_TEMP c 0 0 := fun c => by
    simp only [Obj.key, Obj.index, Obj.STATE_1990, Obj.CASE_TEMP]; omega
  refine ⟨?_, (Live.showCaseTemp_keeps _).enclosure_eq (by decide), showCaseTemp_cells (.wr (.refl _ l) ?_) ?_ ?_⟩
  · rw [showCaseTemp_rd _ (apart 0) (apart 1), rd_wr_fits l code]
  all_goals simp

theorem sensorJudge_lt (l : Live) (k old : Nat) (v : Int) : l.sensorJudge k old v < 256 := by
  unfold Live.sensorJudge
  dsimp only
  split
  · decide
  · split <;> decide

/-! ### Fans (R711, R713) -/

section
variable {l : Live} {tach : List (Nat × Nat)}

/-- The fans of a tray that is present, judged from their speeds. -/
def Machine.Live.fansJudged (l : Live) (tach : List (Nat × Nat)) : Live :=
  let begun := l.setUnit fun u => { u with evaluated := some l.ticks }
  if begun.rdB .TRAY_PRESENT then
    begun.forN 3 fun l k => (l.wrSat .FAN_RPM (tach.getD k (0, 0)).1 0 k).judgeFan k (tach.getD k (0, 0)).2
  else begun

/-- The level that an evaluation asks for: the target, reached downward one step at a time (R711). -/
def Machine.Live.fanStep (l : Live) : Nat :=
  if l.rd .FAN_LEVEL < l.fanTarget then l.fanTarget else max l.fanTarget (l.rd .FAN_LEVEL - 1)

theorem fanEvaluation_due (on : l.mode ≠ .off) (runs : l.fansWait = false) (due : l.elapsed % 8000 = 0)
    (fresh : l.enclosure.evaluated ≠ some l.ticks) :
    l.fanEvaluation tach = ((l.fansJudged tach).wr .FAN_LEVEL (l.fansJudged tach).fanStep).fanForce := by
  unfold Live.fanEvaluation
  rw [if_neg (by simp [on, runs, due, fresh])]
  rfl

theorem fansJudged_untrayed (gone : l.rdB .TRAY_PRESENT = false) :
    l.fansJudged tach = l.setUnit fun u => { u with evaluated := some l.ticks } :=
  if_neg (Bool.eq_false_iff.mp gone)

theorem fansJudged_does (l : Live) (tach : List (Nat × Nat)) : (l.fansJudged tach).rd .FAN_LEVEL = l.rd .FAN_LEVEL ∧
    (l.fansJudged tach).enclosure.evaluated = some l.ticks := by
  unfold Live.fansJudged
  dsimp only
  split
  · exact ⟨fan_level .., fan_eval _ _ _ fun m k => judge_eval ..⟩
  · exact ⟨rfl, rfl⟩

theorem fanStep_bounds (sane : l.rd .FAN_LEVEL ≤ 15) : l.rd .FAN_LEVEL ≤ l.fanStep + 1 ∧ l.fanStep ≤ 15 := by
  have target : l.fanTarget ≤ 15 := Nat.min_le_left ..
  unfold Live.fanStep
  split <;> omega

/-- Fans in trouble run at level 15; otherwise the level stands (R711). -/
theorem fanForce_does (l : Live) : l.fanForce.enclosure = l.enclosure ∧ (l.fanForce.rd .FAN_LEVEL = 15 ∨ l.fanForce = l) := by
  unfold Live.fanForce
  split
  · exact ⟨rfl, .inl (rd_wr_fits l (by decide))⟩
  · exact ⟨rfl, .inr rfl⟩

/-- Without the tray the level is 15. -/
theorem fanForce_untrayed (gone : l.rdB .TRAY_PRESENT = false) : l.fanForce.rd .FAN_LEVEL = 15 ∧
    l.cellsBut [Obj.key .FAN_LEVEL 0 0 0] l.fanForce := by
  rw [fanForce_level gone]
  exact ⟨rd_wr_fits l (by decide), .wr (.refl _ l) (by simp)⟩

/-- The tray with its misses forgotten, present or not. -/
def Machine.Live.trayNoted (l : Live) (present : Bool) : Live :=
  (l.wrB .TRAY_PRESENT present).setUnit fun u => { u with misses := [] }

theorem trayNoted_does (l : Live) (present : Bool) : (l.trayNoted present).rd .TRAY_PRESENT = present.toNat ∧
    (l.trayNoted present).enclosure = { l.enclosure with misses := [] } ∧
    l.cellsBut [Obj.key .TRAY_PRESENT 0 0 0] (l.trayNoted present) := by
  refine ⟨rd_wr_fits l ?_, rfl, .of_store (.wr (.refl _ l) (by simp)) rfl⟩
  cases present <;> decide

theorem trayChange_moves {present : Bool} (on : l.mode ≠ .off) (moves : l.rdB .TRAY_PRESENT ≠ present) :
    l.trayChange present = if present then l.trayNoted present else ((l.trayNoted present).wr .FAN_FAILED 7).fanForce :=
  if_neg (by simp [on, moves])

/-- A tray that is gone: its fans are failed, and the level is 15. -/
theorem trayGone_does (l : Live) : let m := ((l.trayNoted false).wr .FAN_FAILED 7).fanForce
    m.enclosure = { l.enclosure with misses := [] } ∧ m.rd .TRAY_PRESENT = 0 ∧ m.rd .FAN_FAILED = 7 ∧ m.rd .FAN_LEVEL = 15 ∧
    l.cellsBut [Obj.key .TRAY_PRESENT 0 0 0, Obj.key .FAN_FAILED 0 0 0, Obj.key .FAN_LEVEL 0 0 0] m := by
  obtain ⟨gone, misses, noted⟩ := trayNoted_does l false
  obtain ⟨level, forced⟩ := fanForce_untrayed (l := (l.trayNoted false).wr .FAN_FAILED 7) (tray_gone l)
  refine ⟨(fanForce_does _).1.trans misses, ?_, ?_, level, ⟨fun o i k t other => ?_⟩⟩
  · rw [forced.same _ _ _ _ (by decide), Live.rd_wr_other _ _ (by decide), gone]; rfl
  · rw [forced.same _ _ _ _ (by decide), rd_wr_fits _ (by decide)]
  · simp only [List.mem_cons, List.not_mem_nil, or_false, not_or] at other
    obtain ⟨tray, failed, level⟩ := other
    rw [forced.same _ _ _ _ (by simpa using level), Live.rd_wr_other _ _ failed, noted.same _ _ _ _ (by simpa using tray)]

end

/-! ### The thermal trip (R715) -/

theorem thermalTrip_hot {l : Live} (on : l.mode ≠ .off) (hot : 1250 ≤ l.rdI .VALUE 2) :
    l.thermalTrip = ((l.shutdownRecord 1).modulesDark).collapse.setUnit fun u => { u with trip := some l.now } :=
  if_neg (by simp [on, hot])

theorem tripRestored_ends {l : Live} {t0 : Nat} (tripped : l.enclosure.trip = some t0) :
    l.tripRestored.mode = .bringup ∧ l.tripRestored.enclosure.trip = none ∧ l.tripRestored.enclosure.tripped = true := by
  unfold Live.tripRestored
  simp only [tripped]
  exact ⟨powerUp_mode _, rfl, rfl⟩

/-- Settles O10: the supervisor's commands by the lemmas of the sensors, of the fan level and of the trip. -/
theorem unitSupervision : Obligations.UnitSupervision := by
  refine ⟨fun s on => ?_, fun s on awake heard => ?_, fun s t0 began past => ?_, fun s k on powered silent => ?_,
    fun s k faulty => ?_, fun s on present => ?_, fun s on gone => ?_, fun s tach on runs due fresh gone => ?_,
    fun s tach on runs due fresh sane => ?_, fun s on hot => ?_, fun s t0 tripped => ?_⟩
  · obtain ⟨t, ran, only, live⟩ := exec_touches .withdrawnClear s rfl (if_pos on) rfl
    refine ⟨t, ran, only, ?_⟩
    rw [live]
    unfold Live.withdrawnClear
    refine ⟨.wr (.wr (.wr (.refl _ _) ?_) ?_) ?_, ?_, ?_, rd_wr_fits _ (by decide)⟩
    any_goals simp
    · rw [Live.rd_wr_other _ _ (by decide), Live.rd_wr_other _ _ (by decide), rd_wr_fits _ (by decide)]
    · rw [Live.rd_wr_other _ _ (by decide), rd_wr_fits _ (by decide)]
  · obtain ⟨t, ran, only, live⟩ := exec_touches .ledTest s rfl (if_neg (by simp [on, awake, heard])) rfl
    exact ⟨t, ran, only, by rw [live]; rfl⟩
  · obtain ⟨t, ran, only, live⟩ := exec_touches .ledTestEnd s rfl (x := s.live.setUnit fun u => { u with ledTest := none })
      (by unfold Live.ledTestOver; simp only [began, if_pos past]) rfl
    exact ⟨t, ran, only, by rw [live]; rfl⟩
  · obtain ⟨t, ran, only, live⟩ := exec_touches (.sensorFault k) s rfl (if_pos ⟨on, powered, silent⟩) rfl
    obtain ⟨state, -, cells⟩ := sensorState_does s.live k (v := 3) (by decide)
    rw [← live] at state cells
    exact ⟨t, ran, only, state, cells⟩
  · obtain ⟨t, ran, only, live⟩ := exec_touches (.sensorReportRestored k) s rfl (if_pos faulty) rfl
    obtain ⟨state, enclosure, cells⟩ := sensorState_does (s.live.setUnit fun u => { u with silent := u.silent.put k.val 0 }) k
      (sensorJudge_lt s.live k.val 0 (s.live.rdI .VALUE k.val))
    exact ⟨t, ran, only, by rw [live]; exact enclosure, by rw [live]; exact state, by rw [live]; exact ⟨cells.same⟩⟩
  · obtain ⟨t, ran, only, live⟩ := exec_touches (.trayPresenceChange false) s rfl
      (trayChange_moves on (by simp [present])) rfl
    have does := trayGone_does s.live
    exact ⟨t, ran, only, by rw [live]; exact does⟩
  · obtain ⟨t, ran, only, live⟩ := exec_touches (.trayPresenceChange true) s rfl (trayChange_moves on (by simp [gone])) rfl
    obtain ⟨present, misses, cells⟩ := trayNoted_does s.live true
    refine ⟨t, ran, only, ?_⟩
    rw [live]
    exact ⟨present, misses, cells⟩
  · obtain ⟨t, ran, only, live⟩ := exec_touches (.fanEvaluation tach) s rfl (fanEvaluation_due on runs due fresh) rfl
    rw [fansJudged_untrayed gone] at live
    have unmoved : ((s.live.setUnit fun u => { u with evaluated := some s.live.ticks }).wr .FAN_LEVEL
        (s.live.setUnit fun u => { u with evaluated := some s.live.ticks }).fanStep).rdB .TRAY_PRESENT = false := by
      unfold Live.rdB at gone ⊢
      rw [Live.rd_wr_other _ _ (by decide)]; exact gone
    obtain ⟨level, forced⟩ := fanForce_untrayed unmoved
    refine ⟨t, ran, only, by rw [live]; exact (fanForce_does _).1, by rw [live]; exact level, ⟨fun o i k u other => ?_⟩⟩
    rw [live, forced.same _ _ _ _ other]
    exact Live.rd_wr_other _ _ (by simpa using other)
  · obtain ⟨t, ran, only, live⟩ := exec_touches (.fanEvaluation tach) s rfl (fanEvaluation_due on runs due fresh) rfl
    obtain ⟨kept, evaluated⟩ := fansJudged_does s.live tach
    obtain ⟨below, above⟩ := fanStep_bounds (l := s.live.fansJudged tach) (by omega)
    obtain ⟨enclosure, level⟩ := fanForce_does ((s.live.fansJudged tach).wr .FAN_LEVEL (s.live.fansJudged tach).fanStep)
    refine ⟨t, ran, only, ?_⟩
    rw [live]
    refine ⟨by rw [enclosure]; exact evaluated, ?_⟩
    rcases level with forced | unforced
    · omega
    · rw [unforced, rd_wr_fits _ (Nat.lt_of_le_of_lt above (by decide))]; omega
  · obtain ⟨t, ran, start, queue, live⟩ := exec_lives .thermalTrip s rfl (thermalTrip_hot on hot)
    refine ⟨t, ran, start, queue, ?_⟩
    rw [live]
    have dark : Keeps [.modes, .power] s.live (s.live.shutdownRecord 1).modulesDark :=
      .via (Live.modulesDark_keeps _) rfl (.mono (Live.shutdownRecord_keeps ..) rfl)
    refine ⟨?_, (Live.setUnit_keeps ..).mode_eq (by decide) |>.trans (collapse_mode _), rfl⟩
    rw [Live.setUnit_beat, collapse_beat, dark.beat_eq (by decide)]
  · obtain ⟨t, ran, start, queue, live⟩ := exec_lives .thermalTripRestore s rfl rfl
    refine ⟨t, ran, start, queue, ?_⟩
    rw [live]
    exact tripRestored_ends tripped
end Sys2Proof

namespace Sys2Proof

open Machine

/-! ### Latches, masks and spacing (R639, R643, R644) -/

/-- A change of the named sources of one group and tenancy leaves every other as it was. -/
theorem namedInstances_do (l : Live) (g : Nat) (tn : Fin 8) (named : Nat) {f : EvInst → EvInst} (again : ∀ e, f (f e) = f e)
    {k tn' : Nat} (inside : k < 32) (known : tn' < 8) :
    (l.forL (members 32 named) fun l k => l.setEv (32 * g + k) tn.val f).ev (32 * g + k) tn' =
      if bit named k ∧ tn' = tn.val then f (l.ev (32 * g + k) tn') else l.ev (32 * g + k) tn' := by
  rw [setEv_fold g tn.val f again tn.isLt _ _ _ _ known]
  simp only [mem_members named k inside]

theorem spacingExpiry_over {l : Live} {src tn : Nat} {o : Occ} (deferred : (l.ev src tn).deferred = some o)
    (past : (l.ev src tn).nextAt ≤ l.ticks) (routed : l.noteDests src tn ≠ []) :
    l.spacingExpiry src tn = if (l.ev src tn).masked then l.setEv src tn fun e => { e with deferred := none, folded := 0 }
      else l.sendNote o true (l.ev src tn).folded := by
  unfold Live.spacingExpiry
  simp only [deferred, if_neg (Nat.not_lt.mpr past), routed, or_false]

/-! ### Inputs (R649 to R652) -/

theorem evaluates_of_judges {m : Mode} (judges : m.judges = true) : m.evaluates = true := by
  revert judges; cases m <;> decide

theorem gpioSample_does {l : Live} (on : l.mode ≠ .off) (raw : Nat) : ∀ i, i < 16 →
    (l.gpioSample raw).rd .RAW_1900 i = (bit raw i ^^ l.rdB .INVERT_1900 i).toNat ∧
    ((l.gpioSample raw).events.gpio.get i).sample = (bit raw i ^^ l.rdB .INVERT_1900 i) ∧
    ((l.gpioSample raw).events.gpio.get i).run =
      if (l.events.gpio.get i).sample = (bit raw i ^^ l.rdB .INVERT_1900 i) then (l.events.gpio.get i).run + 1 else 1 := by
  obtain ⟨-, -, sampled⟩ := gpio_all raw 16 l
  unfold Live.gpioSample
  rw [if_neg on]
  dsimp only at sampled ⊢
  exact sampled

theorem gpioEdge_awake {l : Live} {i : Nat} (due : l.gpioDue i = true) (ev : l.mode.evaluates = true)
    (kept : (l.gpioLevelChange i).modes = l.modes) : l.gpioEdge i = l.gpioLevelChange i := by
  have awake : (l.gpioLevelChange i).wakeBy 1 = l.gpioLevelChange i :=
    wakeBy_awake (by unfold Live.mode; rw [kept]; exact ev) 1
  unfold Live.gpioEdge
  rw [if_pos due]
  dsimp only
  rw [awake, ite_self]

/-- An input judged at the end of its window. -/
def Machine.Live.chatterJudged (l : Live) (i : Nat) (on : Bool) : Live :=
  (l.wrB .CHATTERING on i).setGpio i fun g => { g with transitions := 0, judgedAt := some l.ticks }

theorem chatterJudged_rd (l : Live) (i : Nat) (on : Bool) : (l.chatterJudged i on).rd .CHATTERING i = on.toNat :=
  rd_wr_fits l (Nat.lt_of_lt_of_le (Bool.toNat_lt on) (by decide))

/-- The end of a chatter window judges the input by its transitions, and an input that chatters counts its window (R651). -/
theorem chatterWindowEnd_judges {l : Live} {i : Nat} (judges : l.mode.judges = true)
    (ends : l.beat.elapsed % l.rd .CHATTER_WINDOW i = 0) (fresh : (l.events.gpio.get i).judgedAt ≠ some l.ticks) :
    l.chatterWindowEnd i = if l.rd .CHATTER_TRANSITIONS i ≤ (l.events.gpio.get i).transitions
      then (l.chatterJudged i true).count .CHATTER_WINDOWS 1 i else l.chatterJudged i false := by
  unfold Live.chatterWindowEnd
  rw [if_pos ⟨judges, ends, fresh⟩]
  dsimp only
  by_cases on : l.rd .CHATTER_TRANSITIONS i ≤ (l.events.gpio.get i).transitions
  · simp only [on, if_true, decide_true]; rfl
  · simp only [on, if_false, decide_false]; rfl

theorem chatterWindows_rd {l : Live} (ev : l.mode.evaluates = true) (i : Nat) :
    (l.count .CHATTER_WINDOWS 1 i).rd .CHATTERING i = l.rd .CHATTERING i := by
  refine Live.rd_count_other ev ?_ ?_
  all_goals simp only [Obj.key, Obj.index, Obj.CHATTERING, Obj.CHATTER_WINDOWS, Obj.WRAPPED_ANY]; omega

/-- An input that has been at 1 for its time is STUCK, and the episode counts (R652). -/
theorem stuck_does {l : Live} (i : Fin 16) (ev : l.mode.evaluates = true) :
    let m := (l.wrB .STUCK true i.val).count .STUCK_EPISODES 1 i.val
    m.rd .STUCK i.val = 1 ∧
    l.cellsBut [Obj.key .STUCK i.val 0 0, Obj.key .STUCK_EPISODES i.val 0 0, Obj.key .WRAPPED_ANY 0 0 0] m := by
  have ev' : (l.wrB .STUCK true i.val).mode.evaluates = true := ev
  refine ⟨?_, cellsBut_count (.wr (.refl _ l) (by simp)) ev' (by simp) (by simp)⟩
  refine (Live.rd_count_other ev' ?_ ?_).trans (rd_wr_fits l (v := 1) (by decide))
  all_goals simp only [Obj.key, Obj.index, Obj.STUCK, Obj.STUCK_EPISODES, Obj.WRAPPED_ANY]; omega

/-! ### Snapshots (R664, R665) -/

/-- A capture that begins, with what it says of the captures armed (R664). -/
def Machine.Live.captured (l : Live) (b : Bank) : Live :=
  { l with events := { l.events with
      gathered := none
      copying := some ({ b with postponed := l.events.armed.any fun a => a < b.beat
                                auto := !l.events.armed.any fun a => a ≤ b.beat }, l.ticks)
      armed := l.events.armed.filter fun a => b.beat < a } }

theorem snapshotCapture_begins {l : Live} {b : Bank} (gathered : l.events.gathered = some b) (idle : l.events.copying = none)
    (thawed : l.mode ≠ .freeze) : l.snapshotCapture = (l.captured b).wrB .SNAPSHOT_BUSY true := by
  unfold Live.snapshotCapture
  simp only [gathered, idle, if_neg thawed]
  rfl

/-- The bank that a copy filled, shown as the second. -/
def Machine.Live.bankShown (l : Live) (b : Bank) : Live :=
  let seq := (l.rd .SNAPSHOT_SEQ + 1) % 2 ^ 32
  ((({ l with events := { l.events with bank1 := { b with seq := seq }, copying := none, copied := false } }.wr
    .SHOWN_BANK (1 - l.rd .SHOWN_BANK)).wr .SNAPSHOT_SEQ seq).wr .SNAPSHOT_BEAT b.beat).wrB .SNAPSHOT_BUSY false

theorem snapshotShow_second {l : Live} {b : Bank} {t0 : Nat} (copying : l.events.copying = some (b, t0)) (thawed : l.mode ≠ .freeze)
    (past : l.events.copied = true ∨ t0 + 64 ≤ l.ticks) (first : l.rd .SHOWN_BANK = 0) :
    l.snapshotShow = (l.bankShown b).raise 626 (u64 b.beat ++ u32 ((l.rd .SNAPSHOT_SEQ + 1) % 2 ^ 32)) := by
  unfold Live.snapshotShow
  simp only [copying, thawed, past, not_true_eq_false, or_self, if_false, first, if_true]
  unfold Live.bankShown
  simp only [first]

theorem bankShown_does {l : Live} {b : Bank} (first : l.rd .SHOWN_BANK = 0) :
    l.cellsBut [Obj.key .SHOWN_BANK 0 0 0, Obj.key .SNAPSHOT_SEQ 0 0 0, Obj.key .SNAPSHOT_BEAT 0 0 0,
      Obj.key .SNAPSHOT_BUSY 0 0 0] (l.bankShown b) ∧
    (l.bankShown b).rd .SHOWN_BANK = 1 ∧ (l.bankShown b).rd .SNAPSHOT_SEQ = (l.rd .SNAPSHOT_SEQ + 1) % 2 ^ 32 ∧
    (l.bankShown b).rd .SNAPSHOT_BUSY = 0 := by
  unfold Live.bankShown
  dsimp only
  refine ⟨.wr (.wr (.wr (.wr (.of_store (.refl _ l) rfl) ?_) ?_) ?_) ?_, ?_, ?_, rd_wr_fits _ (by decide)⟩
  any_goals simp
  · unfold Live.wrB
    rw [Live.rd_wr_other _ _ (by decide), Live.rd_wr_other _ _ (by decide), Live.rd_wr_other _ _ (by decide), first,
      rd_wr_fits _ (by decide)]
  · unfold Live.wrB
    rw [Live.rd_wr_other _ _ (by decide), Live.rd_wr_other _ _ (by decide), rd_wr_fits]
    exact Nat.mod_lt _ (by decide)

/-! ### Stored sets (R154, R155) -/

/-- A STORE that begins: the copy with the lower generation is being written. -/
theorem storeBegin_does (l : Live) : l.cellsBut [Obj.key .STORED_STATUS 0 0 0] l.storeBegin ∧ l.storeBegin.rd .STORED_STATUS = 1 ∧
    l.storeBegin.modes.dirtySince = false ∧
    ∃ c, l.storeBegin.modes.storing = some (l.modes.lower, c, l.ticks) ∧ c.cells = l.capture.cells := by
  refine ⟨.wr (.of_store (.refl _ l) rfl) (by simp), rd_wr_fits _ (by decide), rfl, ?_⟩
  exact ⟨{ l.capture with generation := max l.modes.copy0.generation l.modes.copy1.generation + 1 }, rfl, rfl⟩

/-- A copy that verified, before its event. -/
def Machine.Live.storeVerified (l : Live) (k : Nat) (c : StoredCopy) : Live :=
  let written := (l.setModes fun m => { m with storing := none }).setModes fun m =>
    { m.setCopy k { c with valid := true } with
      bootOrigin := (c.cells.find? (Obj.FREE_RUN_ORIGIN.key 0 0 0)).getD (Obj.FREE_RUN_ORIGIN.defaultAt 0 0 0) }
  ((written.wr .STORED_GENERATION c.generation).wr .STORED_STATUS 0).wrB .STORED_DIRTY written.modes.dirtySince

/-- A copy that did not verify, before its event. -/
def Machine.Live.storeFailed (l : Live) : Live := (l.setModes fun m => { m with storing := none }).wr .STORED_STATUS 2

theorem storeEnd_ends {l : Live} {k t0 : Nat} {c : StoredCopy} (storing : l.modes.storing = some (k, c, t0)) (ok : Bool) :
    l.storeEnd ok = if ok then (l.storeVerified k c).raise 11 else l.storeFailed.raise 12 := by
  unfold Live.storeEnd
  simp only [storing]
  rfl

theorem setCopy_mode (m : Modes) (k : Nat) (c : StoredCopy) :
    (m.setCopy k c).mode = m.mode ∧ (m.setCopy k c).storing = m.storing := by
  unfold Modes.setCopy; split <;> exact ⟨rfl, rfl⟩

theorem storeVerified_does (l : Live) (k : Nat) (c : StoredCopy) : (l.storeVerified k c).mode = l.mode ∧
    (l.storeVerified k c).rd .STORED_STATUS = 0 ∧ (l.storeVerified k c).modes.storing = none ∧
    (l.storeVerified k c).rd .STORED_GENERATION = c.generation % 256 ^ 4 := by
  obtain ⟨mode, storing⟩ := setCopy_mode { l.modes with storing := none } k { c with valid := true }
  refine ⟨mode, ?_, storing, ?_⟩
  · unfold Live.storeVerified Live.wrB
    dsimp only
    rw [Live.rd_wr_other _ _ (by decide), rd_wr_fits _ (by decide)]
  · unfold Live.storeVerified Live.wrB
    dsimp only
    rw [Live.rd_wr_other _ _ (by decide), Live.rd_wr_other _ _ (by decide), Live.rd_wr_same]
    rfl

/-- Settles O16: each command of the events, of the inputs and of the snapshots by the lemma of its operation, and STORE
with its end by those of the stored sets. -/
theorem eventsInputsAndSnapshots : Obligations.EventsInputsAndSnapshots := by
  refine ⟨fun s g tn mask on => ?_, fun s g tn mask on => ?_, fun s src tn o ev deferred past routed => ?_,
    fun s raw on => ?_, fun s i due unarmed ev => ?_, fun s i judges ends fresh _ => ?_,
    fun s i judges timed high unstuck long => ?_, fun s b gathered idle thawed => ?_, fun s copying => ?_,
    fun l b t0 copying ev thawed past first => ?_, fun s on idle => ?_, fun s k c t0 ok storing ev => ?_⟩
  · obtain ⟨t, ran, only, live⟩ := exec_touches (.clear g tn mask) s rfl (if_pos on) rfl
    refine ⟨t, ran, only, fun k tn' inside known => ?_⟩
    rw [live]
    exact namedInstances_do s.live g.val tn _ (f := fun e => { e with latched := false }) (fun _ => rfl) inside known
  · obtain ⟨t, ran, only, live⟩ := exec_touches (.unmask g tn mask) s rfl (if_pos on) rfl
    refine ⟨t, ran, only, fun k tn' inside known => ?_⟩
    rw [live]
    exact namedInstances_do s.live g.val tn _ (f := fun e => { e with masked := false, sent := 0 }) (fun _ => rfl) inside known
  · rw [← spacingExpiry_over deferred past routed]
    exact State.effect_to (if_pos ev)
  · obtain ⟨t, ran, only, live⟩ := exec_touches (.gpioSample raw) s (x := s.live.gpioSample raw) rfl rfl rfl
    exact ⟨t, ran, only, by rw [live]; exact gpioSample_does on raw⟩
  · obtain ⟨cells, level, event, -, modes, kept⟩ := level_out due unarmed ev
    obtain ⟨t, ran, only, live⟩ := exec_to (.gpioLevelChange i) s rfl (gpioEdge_awake due ev modes) kept
    refine ⟨t, ran, only, ?_⟩
    rw [live]
    exact ⟨cells, level, event⟩
  · obtain ⟨t, ran, only, live⟩ := exec_touches (.chatterWindowEnd i) s (x := s.live.chatterWindowEnd i.val) rfl rfl rfl
    refine ⟨t, ran, only, ?_⟩
    rw [live, chatterWindowEnd_judges judges ends fresh]
    split
    · rw [chatterWindows_rd (l := s.live.chatterJudged i.val true) (evaluates_of_judges judges), chatterJudged_rd]; rfl
    · rw [chatterJudged_rd]; rfl
  · obtain ⟨t, ran, only, live⟩ := exec_touches (.gpioStuck i) s rfl
      (if_pos ⟨judges, timed, high, Bool.eq_false_iff.mp unstuck, long⟩) rfl
    refine ⟨t, ran, only, ?_⟩
    rw [live]
    exact stuck_does i (evaluates_of_judges judges)
  · obtain ⟨t, ran, only, live⟩ := exec_touches .snapshotCapture s rfl (snapshotCapture_begins gathered idle thawed) rfl
    refine ⟨t, ran, only, ?_⟩
    rw [live]
    exact ⟨.wr (.of_store (.refl _ _) rfl) (by simp), rd_wr_fits _ (by decide), rfl⟩
  · obtain ⟨t, ran, only, live⟩ := exec_touches .snapshotDone s rfl (if_pos copying) rfl
    exact ⟨t, ran, only, by rw [live]⟩
  · obtain ⟨cells, bank, seq, busy⟩ := bankShown_does (b := b) first
    have ev' : (l.bankShown b).mode.evaluates = true := ev
    dsimp only
    rw [snapshotShow_second copying thawed past first]
    refine ⟨.raise cells ev', ?_, ?_, ?_, ?_⟩
    · rw [Live.raise_rd ev', bank]
    · rw [Live.raise_rd ev', seq]
    · rw [Live.raise_rd ev', busy]
    · rw [Live.raise_eq ev']; rfl
  · obtain ⟨t, ran, only, live⟩ := exec_touches .store s rfl (x := s.live.storeBegin)
      ((if_pos on).trans (congrArg Prod.snd (if_neg (by simp [idle])))) rfl
    refine ⟨t, ran, only, ?_⟩
    rw [live]
    exact storeBegin_does s.live
  · obtain ⟨t, ran, only, live⟩ := exec_touches (.storeDone ok) s rfl (storeEnd_ends storing ok) rfl
    refine ⟨t, ran, only, ?_⟩
    rw [live]
    cases ok with
    | true =>
      obtain ⟨mode, status, none_stored, generation⟩ := storeVerified_does s.live k c
      have ev' : (s.live.storeVerified k c).mode.evaluates = true := by rw [mode]; exact ev
      refine ⟨?_, ?_, arose_raise ev' rfl rfl .., fun _ => ?_⟩
      · exact (Live.raise_rd ev' ..).trans status
      · exact (congrArg Modes.storing (Live.raise_modes ..)).trans none_stored
      · exact (Live.raise_rd ev' ..).trans generation
    | false =>
      have ev' : s.live.storeFailed.mode.evaluates = true := ev
      refine ⟨?_, ?_, arose_raise ev' rfl rfl .., fun failed => absurd failed (by decide)⟩
      · exact (Live.raise_rd ev' ..).trans (rd_wr_fits _ (by decide))
      · exact congrArg Modes.storing (Live.raise_modes ..)
end Sys2Proof

namespace Sys2Proof

open Machine

/-! ### Changes of the gate list (R445 to R449, R464) -/

/-- The cells of a port's armed change. -/
def armedCells (p : Nat) : List Nat :=
  Obj.key .CHANGE_STATE p 0 0 :: Obj.key .ARMED_TIME p 0 0 ::
    (List.range 256).map fun e => Obj.key .GATE_ARMED (2 * p + e / 128) (e % 128) 0

theorem not_armedCells {p key : Nat} (other : key ∉ armedCells p) :
    key ≠ Obj.key .CHANGE_STATE p 0 0 ∧ key ≠ Obj.key .ARMED_TIME p 0 0 ∧
    ∀ e, e < 256 → key ≠ Obj.key .GATE_ARMED (2 * p + e / 128) (e % 128) 0 := by
  simp only [armedCells, List.mem_cons, List.mem_map, List.mem_range, not_or, not_exists, not_and] at other
  obtain ⟨state, time, list⟩ := other
  exact ⟨state, time, fun e inside same => list e inside same.symm⟩

section
variable {l : Live} {p : Nat}

/-- The close time of a frame in transmission shows in no cell, mode or event. -/
theorem recloseTx_does (l : Live) (p : Nat) : Keeps [.plane] l (l.recloseTx p) ∧
    ((l.recloseTx p).portRt p).armed = (l.portRt p).armed := ⟨Live.recloseTx_keeps .., reclose_armed ..⟩

/-- A change of time still to come arms the pending list (R446). -/
theorem changeTime_arms (gates : l.mode.gates = true) (known : p < 52) {t : Nat} (coming : l.ptpNs < t) (word : t < 2 ^ 64) :
    Keeps [.store, .plane, .events] l (l.changeTime p t) ∧ l.cellsBut (armedCells p) (l.changeTime p t) ∧
    (l.changeTime p t).rd .CHANGE_STATE p = 1 ∧ (l.changeTime p t).rd .ARMED_TIME p = t ∧
    (∀ e, e < 256 → (l.changeTime p t).elem .GATE_ARMED e (2 * p) =
      if e < l.rd .PENDING_LENGTH p then l.elem .GATE_PENDING e (2 * p) % 2 ^ 64 else 0) ∧
    ((l.changeTime p t).portRt p).armed = (l.rd .PENDING_LENGTH p, l.rd .PENDING_CYCLE_NS p) ∧
    l.arose (l.changeTime p t) (if l.rd .CHANGE_STATE p = 1 then [l.occ 433 (u8 p) (l.portOwner p)] else []) := by
  obtain ⟨m, others, state, time, list, armed, kept, arose, outcome⟩ := armed_does gates known t
  obtain ⟨reclosed, same⟩ := recloseTx_does m p
  rw [outcome, if_neg (Nat.not_le.mpr coming)]
  refine ⟨.via reclosed rfl kept, .keep reclosed ⟨fun o i k u other => ?_⟩, ?_, ?_, fun e inside => ?_, same.trans armed, ?_⟩
  · obtain ⟨h1, h2, h3⟩ := not_armedCells other
    exact others o i k u h1 h2 h3
  · rw [reclosed.rd, state]
  · rw [reclosed.rd, time, Nat.mod_eq_of_lt word]
  · exact (reclosed.rd ..).trans (list e inside)
  · unfold Live.arose at arose ⊢
    rw [reclosed.events_eq (by decide), arose]

/-- An armed change that is cancelled is gone (R448). -/
theorem gateCancel_discards (ev : l.mode.evaluates = true) (known : p < 52) (armed : l.rd .CHANGE_STATE p = 1) :
    l.cellsBut (armedCells p) (l.gateCancel p) ∧ (l.gateCancel p).rd .CHANGE_STATE p = 0 ∧
    (l.gateCancel p).rd .ARMED_TIME p = 0 ∧ ((l.gateCancel p).portRt p).armed = (0, 0) ∧
    (∀ e, e < 256 → (l.gateCancel p).elem .GATE_ARMED e (2 * p) = 0) ∧
    l.arose (l.gateCancel p) [l.occ 434 (u8 p) (l.portOwner p)] := by
  obtain ⟨others, state, time, none_armed, list⟩ := disarm_does known armed
  obtain ⟨reclosed, same⟩ := recloseTx_does (l.disarmGates p) p
  have kept : Keeps [.store, .plane] l ((l.disarmGates p).recloseTx p) :=
    .via reclosed rfl (.mono (Live.disarmGates_keeps ..) rfl)
  have ev' : ((l.disarmGates p).recloseTx p).mode.evaluates = true := by rw [kept.mode_eq (by decide)]; exact ev
  have outcome : l.gateCancel p = ((l.disarmGates p).recloseTx p).raise 434 (u8 p) (l.portOwner p) := if_pos armed
  rw [outcome]
  have reads := fun (o : Obj) (i k u : Nat) =>
    (Live.raise_rd ev' 434 (u8 p) (l.portOwner p) o i k u).trans (reclosed.rd o i k u)
  refine ⟨⟨fun o i k u other => ?_⟩, by rw [reads, state], by rw [reads, time], ?_, fun e inside => ?_, ?_⟩
  · obtain ⟨h1, h2, h3⟩ := not_armedCells other
    rw [reads, others o i k u h1 h2 h3]
  · rw [Live.raise_portRt, same, none_armed]
  · exact (reads ..).trans (list e inside)
  · exact arose_raise ev' (kept.events_eq (by decide)) (congrArg Beat.number (kept.beat_eq (by decide))) ..

/-- A change of a time already reached is armed and takes over at once, late (R446, R464). -/
theorem changeTime_late (gates : l.mode.gates = true) (known : p < 52) {t : Nat} (reached : t ≤ l.ptpNs) (word : t < 2 ^ 64) :
    let m := l.changeTime p t
    m.rd .OPER_ORIGIN p = t ∧ m.rd .LAST_TAKEOVER p = t ∧ m.rd .OPER_LENGTH p = l.rd .PENDING_LENGTH p % 2 ^ 16 ∧
    m.rd .OPER_CYCLE_NS p = l.rd .PENDING_CYCLE_NS p % 2 ^ 32 ∧ m.rd .CHANGE_STATE p = 0 ∧
    m.rd .TAKEOVERS p = (l.rd .TAKEOVERS p + 1) % 2 ^ 64 ∧ m.rd .LATE_TAKEOVERS p = (l.rd .LATE_TAKEOVERS p + 1) % 2 ^ 64 ∧
    (∀ e, e < 256 → m.elem .GATE_OPER e (2 * p) =
      if e < l.rd .PENDING_LENGTH p then l.elem .GATE_PENDING e (2 * p) % 2 ^ 64 else 0) ∧
    l.occ 432 (u8 p ++ u64 t) (l.portOwner p) ∈ m.events.arisen ∧ l.occ 435 (u8 p) (l.portOwner p) ∈ m.events.arisen := by
  obtain ⟨m, others, state, time, list, armed, kept, -, outcome⟩ := armed_does gates known t
  obtain ⟨origin, last, length, cycle, change, takeovers, lates, oper, event, late⟩ :=
    takeover_does (l := m) (by rw [kept.mode_eq (by decide)]; exact gates) known state true
  have word' : t % 2 ^ 64 = t := Nat.mod_eq_of_lt word
  have owner : m.portOwner p = l.portOwner p := by
    unfold Live.portOwner
    rw [others .PORT_OWNER 0 0 0]
    · simp only [Obj.key, Obj.index, Obj.PORT_OWNER, Obj.CHANGE_STATE]; omega
    · simp only [Obj.key, Obj.index, Obj.PORT_OWNER, Obj.ARMED_TIME]; omega
    · intro e inside
      simp only [Obj.key, Obj.index, Obj.PORT_OWNER, Obj.GATE_ARMED]; omega
  have occ : ∀ src data tn, m.occ src data tn = l.occ src data tn := fun _ _ _ => by
    unfold Live.occ Live.now; rw [kept.beat_eq (by decide)]
  have counter : ∀ o : Obj, (o = .TAKEOVERS ∨ o = .LATE_TAKEOVERS) → m.rd o p = l.rd o p := by
    intro o named
    rcases named with rfl | rfl
    all_goals
      apply others
      · simp only [Obj.key, Obj.index, Obj.TAKEOVERS, Obj.LATE_TAKEOVERS, Obj.CHANGE_STATE]; omega
      · simp only [Obj.key, Obj.index, Obj.TAKEOVERS, Obj.LATE_TAKEOVERS, Obj.ARMED_TIME]; omega
      · intro e inside
        simp only [Obj.key, Obj.index, Obj.TAKEOVERS, Obj.LATE_TAKEOVERS, Obj.GATE_ARMED]; omega
  simp only [time, word', armed, owner, occ] at origin last length cycle event late
  dsimp only
  rw [outcome, if_pos reached]
  refine ⟨origin, last, length, cycle, change, ?_, ?_, fun e inside => ?_, event, late trivial⟩
  · rw [takeovers, counter _ (.inl rfl)]
  · rw [lates, if_pos rfl, counter _ (.inr rfl)]
  · rw [oper e inside, armed, list e inside]
    split
    · exact Nat.mod_mod ..
    · rfl

end

/-- Settles O37: CHANGE_TIME arms (`changeTime_arms`) or takes over late (`changeTime_late`), CANCEL discards
(`gateCancel_discards`), and an armed change takes over at its instant (`takeover_does`). -/
theorem armedChangesTakeOver : Obligations.ArmedChangesTakeOver := by
  refine ⟨fun s p t0 gates coming => ?_, fun s p t0 gates reached => ?_, fun s p gates armed => ?_, fun s p unarmed => ?_,
    fun s p gates armed due => ?_, fun s p at_ gates => ?_⟩
  · obtain ⟨t, ran, only, live⟩ := exec_touches (.changeTime p t0) s rfl (if_pos gates) rfl
    obtain ⟨kept, does⟩ := changeTime_arms gates p.isLt coming (by omega)
    refine ⟨t, ran, only, ?_⟩
    rw [live]
    exact ⟨kept.modes_eq (by decide), does⟩
  · obtain ⟨t, ran, only, live⟩ := exec_touches (.changeTime p t0) s rfl (if_pos gates) rfl
    refine ⟨t, ran, only, ?_⟩
    rw [live]
    exact changeTime_late gates p.isLt reached (by omega)
  · obtain ⟨t, ran, only, live⟩ := exec_touches (.cancel p) s rfl (if_pos gates) rfl
    refine ⟨t, ran, only, ?_⟩
    rw [live]
    exact gateCancel_discards (gates_ev gates).1 p.isLt armed
  · refine exec_idle (.cancel p) s rfl ?_
    show (if s.live.mode.gates then s.live.gateCancel p.val else s.live) = s.live
    rw [show s.live.gateCancel p.val = s.live from if_neg unarmed, ite_self]
  · obtain ⟨t, ran, only, live⟩ := exec_touches (.gateTakeover p) s rfl (if_pos ⟨armed, gates, due⟩) rfl
    obtain ⟨origin, last, length, cycle, change, takeovers, lates, oper, event, -⟩ :=
      takeover_does (l := s.live.at (s.live.rd .ARMED_TIME p.val - s.live.ptpNs)) gates p.isLt armed false
    exact ⟨t, _, ran, only, live, origin, last, length, cycle, change, takeovers, lates, oper, event, takeover_sub ..⟩
  · obtain ⟨t, ran, only, live⟩ := exec_touches (.gateEntryStart p at_) s rfl (if_pos gates) rfl
    exact ⟨t, _, ran, only, rfl, (Live.blk_keeps ..).store_eq (by decide), congrArg Plane.sub (Live.blk_plane ..), live⟩
end Sys2Proof

namespace Sys2Proof

open Machine

/-! ### Jobs of the engines (R537, R540 to R563) -/

section
variable {l u : Live} {e source : Nat} {desc : List Byte} {j : Job} {js : List Job} {r : JobResult}

/-- An engine admits a job of a source: it runs, its queue has room, the source's turn is open and nothing holds it (R537). -/
structure Machine.Live.Admits (l : Live) (e source : Nat) : Prop where
  on : l.mode.engineOn = true
  room : (l.engine e).queue.length < 16
  turn : l.turnOver e source = false
  free : e = 0 → l.compHeld = false

theorem Machine.Live.Admits.passes (admits : l.Admits e source) :
    ¬(¬l.mode.engineOn = true ∨ 16 ≤ (l.engine e).queue.length ∨ l.turnOver e source = true ∨ (e = 0 ∧ l.compHeld = true)) := by
  rintro (off | full | past | ⟨comp, held⟩)
  · exact off admits.on
  · exact absurd admits.room (Nat.not_lt.mpr full)
  · exact absurd past (Bool.eq_false_iff.mp admits.turn)
  · exact absurd held (Bool.eq_false_iff.mp (admits.free comp))

theorem jobAdmit_firmware (admits : l.Admits e 0) :
    l.jobAdmit e 0 desc = l.jobEnter e 0 0 (slice desc 0 (if e = 0 then 256 else 64)) := by
  unfold Live.jobAdmit
  dsimp only
  rw [if_neg admits.passes, if_pos rfl]

theorem jobAdmit_block (admits : l.Admits 0 1) {b : ExportBlock} (waits : (l.flannel.blocks.find? fun b => !b.admitted) = some b) :
    l.jobAdmit 0 1 desc = ({ l with flannel := { l.flannel with blocks := l.flannel.blocks.map fun (c : ExportBlock) =>
      if c.tn = b.tn ∧ c.number = b.number then { c with admitted := true } else c } }).jobEnter 0 1 b.tn (exportDesc b) := by
  unfold Live.jobAdmit
  dsimp only
  rw [if_neg admits.passes, if_neg (by decide), if_pos rfl, if_neg (by decide), waits]

theorem jobAdmit_function {f b : Nat} {d : List Byte} {rest : List (Nat × List Byte)} (admits : l.Admits e (f + 2))
    (taken : (l.ring f (9 + e)).taken = (b, d) :: rest) :
    l.jobAdmit e (f + 2) desc =
      (l.dropTaken f (9 + e)).jobEnter e (f + 2) f (slice d 0 (if e = 0 then 256 else 64)) := by
  unfold Live.jobAdmit
  dsimp only
  rw [if_neg admits.passes, if_neg (by omega), if_neg (by omega), Nat.add_sub_cancel, taken]

/-- A bad descriptor ends its job so (R540). -/
theorem compRun_bad (bad : compBad j.desc = true) : l.compRun j = ({ status := jobBadDescriptor }, j, l) := if_pos bad

/-- A job whose buffers are allocated holds the result of what it read (R543 to R549). -/
theorem compRun_good (good : compBad j.desc = false) (inside : j.source = 1 ∨ compBounds (compExtents j.desc) = true)
    {hs : List Nat} (allocated : l.allocAll 1 j.tn (outSizes (outLimit j.desc)) [] = ((bpmOk, hs), u)) :
    let input := if j.source = 1 then (l.exportInput j.desc, none, u) else u.readExtents 1 (compExtents j.desc) []
    l.compRun j = (
      if fieldAt j.desc 4 1 = 1 then
        decompressRun (fieldAt j.desc 5 1) (outLimit j.desc)
          (if j.source = 1 then input.1.length else sumOf (·.len) (compExtents j.desc)) input.1 input.2.1
      else compressRun (fieldAt j.desc 5 1) (fieldAt j.desc 6 1) (outLimit j.desc) input.1 input.2.1,
      { j with outs := hs, input := input.1 }, input.2.2) := by
  have bounds : ¬(j.source ≠ 1 ∧ ¬compBounds (compExtents j.desc) = true) := fun ⟨function, outside⟩ =>
    inside.elim function outside
  unfold Live.compRun
  rw [if_neg (Bool.eq_false_iff.mp good), if_neg bounds, allocated]
  unfold Live.compWith
  dsimp only
  rw [if_neg (not_not_intro rfl)]
  by_cases op : fieldAt j.desc 4 1 = 1
  · rw [if_neg (by omega), if_pos op]
  · rw [if_pos (op_zero good op), if_neg op]

/-- A move whose descriptor, handles and bounds are good holds the rows that it read (R553, R554). -/
theorem moveRun_good {m : MoveDesc} (desc : m = moveDesc j.desc) (good : moveBad j.desc = false)
    (shape : m.rows = 1 ∨ m.len ≤ m.srcStride ∧ m.len ≤ m.dstStride) (src : l.checkHandle 2 m.src none = bpmOk)
    (dst : l.checkHandle 2 m.dst none = bpmOk) (srcFits : m.srcOff + m.srcSpan ≤ poolSize (handlePool m.src))
    (dstFits : m.dstOff + m.dstSpan ≤ poolSize (handlePool m.dst)) (apart : m.overlaps = false) :
    l.moveRun j = ({ status := jobOk, output := (List.range m.rows).flatMap fun r => (l.buf (handleKey m.src)).read (m.srcOff + r * m.srcStride) m.len, poisonCopied := !(m.marks (l.buf (handleKey m.src))).isEmpty, bytes := m.rows * m.len, marks := m.marks (l.buf (handleKey m.src)) }, { j with outs := [] }, l) := by
  subst desc
  unfold Live.moveRun
  dsimp only
  rw [if_neg (Bool.eq_false_iff.mp good), if_neg (by omega), if_neg (not_not_intro src), if_neg (not_not_intro dst),
    if_neg (by omega)]
  simp only [apart, Bool.false_and, Bool.false_eq_true, if_false, ne_eq, not_true_eq_false]

/-- A completion that may be posted goes to its submitter (R557). -/
theorem jobPost_posts (on : l.mode.engineOn = true) (found : (l.engine e).ended.find? (l.mayPost e) = some j)
    (removed : u = l.setEngine e fun x => { x with ended := x.ended.erase j }) :
    l.jobPost e = (if j.source = 0 then u else if j.source = 1 then u.exportDone j
      else u.cqOwed (j.source - 2) (9 + e) j.entry [] j.notify) := by
  subst removed
  unfold Live.jobPost
  rw [if_neg (not_not_intro on), found]

theorem jobPost_engine (l : Live) (j : Job) (e k : Nat) : (if j.source = 0 then l else if j.source = 1 then l.exportDone j
    else l.cqOwed (j.source - 2) (9 + e) j.entry [] j.notify).engine k = l.engine k := by
  split
  · rfl
  · split
    · exact engine_of (Live.exportDone_keeps ..) _ (by decide) (by decide)
    · exact engine_of (Live.cqOwed_keeps ..) _ (by decide) (by decide)

/-- A job that ends by a bad word of its engine's memory delivers nothing (R563). -/
theorem bad_delivers (l : Live) (e : Nat) (j : Job) (consumed : Nat) :
    ∃ d, (if e = 0 then l.compDeliver j { status := jobPoisoned, consumed := consumed }
      else ([], { status := jobPoisoned, consumed := consumed }, l.moveDeliver j { status := jobPoisoned, consumed := consumed })) =
      ([], { status := jobPoisoned, consumed := consumed }, d) ∧ Keeps [.store, .bpm, .events, .free] l d := by
  split
  · refine ⟨_, if_pos (show jobPoisoned ≠ jobOk by decide), .via (Live.dropShares_keeps ..) rfl (.mono (Live.freeAll_keeps ..) rfl)⟩
  · exact ⟨_, rfl, .mono (Live.moveDeliver_keeps ..) rfl⟩

end

/-- Settles O38: admission by the three `jobAdmit_` lemmas, the start by `compRun_bad`, `compRun_good` and `moveRun_good`, the
end by `end_does`, the post by `jobPost_posts`. -/
theorem engineJobsRunAndComplete : Obligations.EngineJobsRunAndComplete := by
  refine ⟨fun s e desc on room turn free => ?_, fun s e f desc d b rest on room turn free taken => ?_,
    fun s desc b on room turn free waits => ?_, fun s j js c on queue idle bad op => ?_,
    fun s j js hs u c on queue idle good inside allocated op => ?_,
    fun s j js m c on queue idle mdesc good shape src dst srcFits dstFits apart op => ?_,
    fun s j js r on queue done => ?_, fun s j js r on queue done => ?_, fun s e j js r on queue done => ?_,
    fun s e j on found => ?_⟩
  · obtain ⟨t, ran, only, live⟩ := exec_touches (.jobAdmit e 0 desc) s rfl (jobAdmit_firmware ⟨on, room, turn, free⟩) rfl
    refine ⟨t, ran, only, ?_⟩
    rw [live]
    exact enter_does s.live e.isLt ..
  · obtain ⟨t, ran, only, live⟩ := exec_touches (.jobAdmit e ⟨f.val + 2, by omega⟩ desc) s rfl
      (jobAdmit_function ⟨on, room, turn, free⟩ taken) rfl
    have dropped : Keeps [.host] s.live (s.live.dropTaken f.val (9 + e.val)) := Live.setRing_keeps ..
    obtain ⟨entered, other, host, flannel⟩ := enter_does (s.live.dropTaken f.val (9 + e.val)) e.isLt (f.val + 2) f.val
      (slice d 0 (if e.val = 0 then 256 else 64))
    rw [engine_of dropped _ (by decide) (by decide)] at entered other
    refine ⟨t, ran, only, ?_⟩
    rw [live]
    refine ⟨entered, other, flannel, ?_⟩
    rw [ring_host host]
    unfold Live.dropTaken
    rw [setRing_same, taken]; rfl
  · obtain ⟨t, ran, only, live⟩ := exec_touches (.jobAdmit 0 1 desc) s rfl
      (jobAdmit_block ⟨on, room, turn, fun _ => free⟩ waits) rfl
    refine ⟨t, ran, only, ?_⟩
    rw [live]
    exact enter_does _ (e := 0) (by decide) ..
  · obtain ⟨run, t, named, ran, only, live⟩ := comp_ran s op
    obtain ⟨started, other, bpm⟩ := start_does (e := 0) (by decide) on queue idle named ((if_pos rfl).trans (compRun_bad bad))
      (.refl _ _)
    rw [← live] at started other bpm
    exact ⟨t, ran, only, bpm, other, started⟩
  · obtain ⟨run, t, named, ran, only, live⟩ := comp_ran s op
    have kept := Live.compRun_keeps s.live j
    rw [compRun_good good inside allocated] at kept
    obtain ⟨started, other, -⟩ := start_does (e := 0) (by decide) on queue idle named
      ((if_pos rfl).trans (compRun_good good inside allocated)) kept
    rw [← live] at started other
    refine ⟨t, _, _, ran, only, rfl, rfl, other, started.trans ?_⟩
    split <;> rfl
  · obtain ⟨run, t, named, ran, only, live⟩ := move_ran s op
    obtain ⟨started, other, bpm⟩ := start_does (e := 1) (by decide) on queue idle named
      ((if_neg (by decide)).trans (moveRun_good mdesc good shape src dst srcFits dstFits apart)) (.refl _ _)
    rw [← live] at started other bpm
    exact ⟨t, ran, only, other, bpm, started⟩
  · obtain ⟨t, ran, only, live⟩ := exec_touches (.jobEnd 0 false) s (x := s.live.jobEnd 0 false) rfl rfl rfl
    obtain ⟨ended, other, bpm, store⟩ := end_does (e := 0) (bad := false) (by decide) on queue done rfl rfl
      (hs := (s.live.compDeliver j r).1) (r := (s.live.compDeliver j r).2.1) (d := (s.live.compDeliver j r).2.2) (if_pos rfl)
      (Live.compDeliver_keeps ..)
    rw [← live] at ended other bpm store
    exact ⟨t, ran, only, other, bpm, store, ended⟩
  · obtain ⟨t, ran, only, live⟩ := exec_touches (.jobEnd 1 false) s (x := s.live.jobEnd 1 false) rfl rfl rfl
    obtain ⟨ended, other, bpm, store⟩ := end_does (e := 1) (bad := false) (by decide) on queue done rfl rfl
      (hs := []) (r := r) (d := s.live.moveDeliver j r) (if_neg (by decide)) (.mono (Live.moveDeliver_keeps ..) rfl)
    rw [← live] at ended other bpm store
    exact ⟨t, ran, only, other, bpm, store, ended⟩
  · obtain ⟨t, ran, only, live⟩ := exec_touches (.jobEnd e true) s (x := s.live.jobEnd e.val true) rfl rfl rfl
    obtain ⟨d, delivered, kept⟩ := bad_delivers ((s.live.mark 519).withdraw [9]) e.val j r.consumed
    obtain ⟨ended, -⟩ := end_does (bad := true) e.isLt on queue done rfl rfl delivered
      (.via kept rfl (.via (Live.withdraw_keeps ..) rfl (.mono (Live.mark_keeps ..) rfl)))
    rw [← live] at ended
    refine ⟨t, _, ran, only, ?_, ?_, ?_, ?_, ended⟩
    all_goals rfl
  · obtain ⟨t, ran, only, live⟩ := exec_touches (.jobCompletionPost e) s rfl (jobPost_posts on found rfl) rfl
    refine ⟨t, _, ran, only, rfl, live, ?_⟩
    rw [live, jobPost_engine, engine_same]
end Sys2Proof

namespace Sys2Proof

open Machine

/-! ### The DRAM controller (R512 to R527) -/

section
variable {l : Live} {c : Nat}

/-- An alert counts, is reported and logged (R521). -/
def Machine.Live.alertNoted (l : Live) (c : Nat) (crc : Bool) (place : DramPlace) : Live :=
  ((l.count (if crc then .WRITE_CRC_ERRORS else .CA_PARITY_ERRORS) 1 c).raise (if crc then 483 else 482) (u8 c)).dramLog
    (if crc then 4 else 3) 2 { place with channel := c }

/-- A replay of a channel begins, from a command that failed (R521). -/
def Machine.Live.replayBegun (l : Live) (c time : Nat) (place : DramPlace) : Live :=
  ((((l.setChannel c fun x => { x with failed := (l.channel c).retry.find? fun x => time ≤ x.time + 40, failures := 1 }).chTo c
    chReplaying).count .REPLAYS 1 c).blk 19 .signalB 1 place.port).recoveryStart 1 c 0

theorem dramAlert_replays {crc : Bool} {time : Nat} {slots : List DramSlot} {place : DramPlace}
    (active : l.chState c = chActive) (live : l.mode ≠ .freeze) (checks : crc = true → l.checksCrc c = true)
    (policy : ((l.dramSlots c slots).channel c).diagnose = false) :
    l.dramAlert c crc time slots place = ((l.dramSlots c slots).alertNoted c crc place).replayBegun c time place := by
  have unreplayed : ¬chActive = chReplaying := by decide
  unfold Live.dramAlert
  dsimp only
  rw [active, if_neg (by simp_all), if_neg (Bool.eq_false_iff.mp policy), if_neg unreplayed]
  rfl

/-- An alert under the REPLAY policy is reported, and its channel replays. -/
theorem alert_does (ev : l.mode.evaluates = true) (c : Nat) (crc : Bool) (time : Nat) (slots : List DramSlot)
    (place : DramPlace) : let m := ((l.dramSlots c slots).alertNoted c crc place).replayBegun c time place
    m.chState c = chReplaying ∧ l.occ (if crc then 483 else 482) (u8 c) ∈ m.events.arisen := by
  have slotted : Keeps [.store, .events, .dram] l
      ((l.dramSlots c slots).count (if crc then .WRITE_CRC_ERRORS else .CA_PARITY_ERRORS) 1 c) :=
    .via (Live.count_keeps ..) rfl ((Live.dramSlots_keeps ..).mono rfl)
  have event := Live.raise_mem ev (slotted.modes_eq (by decide)) (slotted.beat_eq (by decide)) (if crc then 483 else 482) (u8 c) 0
  have noted : Keeps [.store, .dram, .events] l ((l.dramSlots c slots).alertNoted c crc place) :=
    .via (Live.dramLog_keeps ..) rfl (.via (Live.raise_keeps ..) rfl (slotted.mono rfl))
  rw [← dramLog_arisen _ (if crc then 4 else 3) 2 { place with channel := c }] at event
  unfold Live.replayBegun
  generalize hm : (l.dramSlots c slots).alertNoted c crc place = m at noted ⊢
  replace event : l.occ (if crc then 483 else 482) (u8 c) ∈ m.events.arisen := hm ▸ event
  generalize hx : (m.setChannel c fun x =>
    { x with failed := (m.channel c).retry.find? fun x => time ≤ x.time + 40, failures := 1 }) = x
  have set : Keeps [.dram] m x := hx ▸ Live.setChannel_keeps ..
  have ev' : (x.chTo c chReplaying).mode.evaluates = true := by
    rw [(Live.chTo_keeps ..).mode_eq (by decide), set.mode_eq (by decide), noted.mode_eq (by decide)]; exact ev
  have started := Live.recoveryStart_keeps (((x.chTo c chReplaying).count .REPLAYS 1 c).blk 19 .signalB 1 place.port) 1 c 0
  dsimp only
  constructor
  · refine (started.rd ..).trans ((blk_rd ..).trans ((Live.rd_count_other ev' ?_ ?_).trans (rd_wr_fits x (by decide))))
    all_goals simp only [Obj.key, Obj.index, Obj.STATE_1302, Obj.REPLAYS, Obj.WRAPPED_ANY]; omega
  · rw [started.events_eq (by decide), Live.blk_arisen]
    refine Live.count_mono ev' _ _ _ _ _ ?_
    rw [(Live.chTo_keeps ..).events_eq (by decide), set.events_eq (by decide)]
    exact event

/-- The policy that comes into force at a replay's end leaves what the replay left. -/
theorem dramPolicy_replayed (l : Live) (c : Nat) : ((l.dramPolicy c).channel c).failed = (l.channel c).failed ∧
    ((l.dramPolicy c).channel c).failures = (l.channel c).failures := by
  unfold Live.dramPolicy
  split
  · exact ⟨rfl, rfl⟩
  · rw [channel_set]; exact ⟨rfl, rfl⟩

/-- A channel whose replay ended, with the policy that comes into force (R520, R521). -/
def Machine.Live.replayEnded (l : Live) (c : Nat) : Live :=
  let x := (l.chTo c chActive).setChannel c fun x => { x with failed := none, failures := 0 }
  if x.mode = .bringup ∨ x.mode = .wipe then x else x.dramPolicy c

theorem replayEnded_does (l : Live) (c : Nat) : Keeps [.dram] (l.chTo c chActive) (l.replayEnded c) ∧
    ((l.replayEnded c).channel c).failed = none ∧ ((l.replayEnded c).channel c).failures = 0 := by
  have here := channel_set (l.chTo c chActive) c fun x => { x with failed := none, failures := 0 }
  unfold Live.replayEnded
  dsimp only
  split
  · exact ⟨Live.setChannel_keeps .., by rw [here], by rw [here]⟩
  · obtain ⟨failed, failures⟩ := dramPolicy_replayed
      ((l.chTo c chActive).setChannel c fun x => { x with failed := none, failures := 0 }) c
    exact ⟨.via (Live.dramPolicy_keeps ..) rfl (Live.setChannel_keeps ..), by rw [failed, here], by rw [failures, here]⟩

/-- A replay's end, with no recovery open (R521). -/
theorem replayDone_does (replays : l.chState c = chReplaying) (ev : l.mode.evaluates = true)
    (unopened : l.recoveries.active = []) (unjournalled : l.recoveries.done = []) : let m := l.replayDone c
    Keeps [.store, .dram, .events] l m ∧
    l.cellsBut [Obj.key .STATE_1302 c 0 0] m ∧ m.chState c = chActive ∧ (m.channel c).failed = none ∧
    (m.channel c).failures = 0 ∧ l.arose m [l.occ 484 (u8 c)] := by
  obtain ⟨active, failed, failures⟩ := replayEnded_does l c
  have kept : Keeps [.store, .dram] l (l.replayEnded c) := .via active rfl ((Live.chTo_keeps ..).mono rfl)
  have ev' : (l.replayEnded c).mode.evaluates = true := by rw [kept.mode_eq (by decide)]; exact ev
  have recoveries : ((l.replayEnded c).raise 484 (u8 c)).recoveries = l.recoveries :=
    ((Live.raise_keeps ..).recoveries_eq (by decide)).trans (kept.recoveries_eq (by decide))
  have outcome : l.replayDone c = (l.replayEnded c).raise 484 (u8 c) := by
    unfold Live.replayDone
    rw [if_neg (not_not_intro replays)]
    show (((l.replayEnded c).raise 484 (u8 c)).recoveryDone 1 c).journalRecoveries = _
    rw [recoveryDone_none (by rw [recoveries, unopened]), journal_none (by rw [recoveries, unjournalled])]
  rw [outcome]
  refine ⟨.via (Live.raise_keeps ..) rfl (kept.mono rfl), .raise (.keep active (.wr (.refl _ l) (by simp))) ev', ?_,
    by rw [channel_raise, failed], by rw [channel_raise, failures],
    arose_raise ev' (kept.events_eq (by decide)) (congrArg Beat.number (kept.beat_eq (by decide))) ..⟩
  exact (Live.raise_rd ev' ..).trans ((active.rd ..).trans (rd_wr_fits l (by decide)))

/-- A burst that cannot be corrected is counted, reported and logged (R523). -/
def Machine.Live.ueNoted (l : Live) (place : DramPlace) : Live :=
  (((l.count .UE_COUNT 1 (place.channel % 2)).raise 481 (u8 (place.channel % 2))).withdraw [9]).dramLog 2 1
    { place with channel := place.channel % 2 }

/-- A burst that cannot be corrected is noted, and marked where a buffer holds it (R523). -/
theorem dramUe_notes {place : DramPlace} (active : l.chState (place.channel % 2) = chActive) (live : l.mode ≠ .freeze)
    (policy : (l.channel (place.channel % 2)).diagnose = false) :
    Keeps [.bpm] (l.ueNoted place) (l.dramUe place) := by
  unfold Live.dramUe
  dsimp only
  rw [if_neg (by simp [live, active]), if_neg (Bool.eq_false_iff.mp policy)]
  split
  · exact Live.setBuf_keeps ..
  · exact .refl _ _

theorem ueNoted_raises (ev : l.mode.evaluates = true) (place : DramPlace) :
    l.occ 481 (u8 (place.channel % 2)) ∈ (l.ueNoted place).events.arisen := by
  have counted := Live.count_keeps l .UE_COUNT 1 (place.channel % 2) 0 0
  unfold Live.ueNoted
  rw [dramLog_arisen]
  refine withdraw_mono ?_ _ (Live.raise_mem ev (counted.modes_eq (by decide)) (counted.beat_eq (by decide)) ..)
  rw [(Live.raise_keeps ..).mode_eq (by decide), counted.mode_eq (by decide)]; exact ev

/-- A refresh that falls due while nothing panics is issued, and none is owed (R512). -/
theorem refreshDue_issues {rank fill0 fill4 : Nat} (active : l.chState c = chActive) (live : l.mode ≠ .freeze)
    (calm : (l.panicFills fill0 fill4).panicking = false) : l.refreshDue c rank fill0 fill4 =
      ((l.panicFills fill0 fill4).setChannel c fun x => { x with owed0 := 0, owed1 := 0 }).wr .REFRESH_OWED 0 c := by
  unfold Live.refreshDue
  dsimp only
  rw [if_neg (by simp [active, live, chActive, chSelfRefresh, chUntrained]), if_pos (Bool.eq_false_iff.mp calm)]

/-- A channel that enters self-refresh counts (R517). -/
theorem selfRefresh_does (active : l.chState c = chActive) (ev : l.mode.evaluates = true) (issued : Bool) :
    let m := l.selfRefresh c issued
    m.chState c = chSelfRefresh ∧
    l.cellsBut [Obj.key .STATE_1302 c 0 0, Obj.key .SR_ENTRIES c 0 0, Obj.key .WRAPPED_ANY 0 0 0] m := by
  have ev' : (l.chTo c chSelfRefresh).mode.evaluates = true := ev
  unfold Live.selfRefresh
  rw [if_pos active]
  refine ⟨?_, .keep (Live.setChannel_keeps ..) (cellsBut_count (.wr (.refl _ l) (by simp)) ev' (by simp) (by simp))⟩
  refine ((Live.setChannel_keeps ..).rd ..).trans ((Live.rd_count_other ev' ?_ ?_).trans (rd_wr_fits l (by decide)))
  all_goals simp only [Obj.key, Obj.index, Obj.STATE_1302, Obj.SR_ENTRIES, Obj.WRAPPED_ANY]; omega

/-- A channel that leaves self-refresh serves again (R519). -/
theorem selfRefreshExit_does (resting : l.chState c = chSelfRefresh) : let m := l.selfRefreshExit c
    m.chState c = chActive ∧ l.cellsBut [Obj.key .STATE_1302 c 0 0] m ∧ (m.channel c).used = l.ticks ∧
    (m.channel c).sre = false := by
  unfold Live.selfRefreshExit
  rw [if_pos resting]
  dsimp only
  rw [channel_set]
  have set := Live.setChannel_keeps (l.chTo c chActive) c fun x => { x with used := l.ticks, sre := false }
  exact ⟨(set.rd ..).trans (rd_wr_fits l (by decide)), .keep set (.wr (.refl _ l) (by simp)), rfl, rfl⟩

/-- A scrub pass is counted and stamped (R527). -/
def Machine.Live.scrubPassed (l : Live) : Live :=
  ((l.setDram fun d => { d with passes := d.passes - 1 }).count .SCRUB_PASSES).wr .LAST_PASS_BEAT l.now

theorem scrubPassed_does (ev : l.mode.evaluates = true) : Keeps [.store, .dram, .events] l l.scrubPassed ∧
    l.scrubPassed.dram = { l.dram with passes := l.dram.passes - 1 } ∧
    l.cellsBut [Obj.key .SCRUB_PASSES 0 0 0, Obj.key .WRAPPED_ANY 0 0 0, Obj.key .LAST_PASS_BEAT 0 0 0] l.scrubPassed ∧
    l.scrubPassed.rd .LAST_PASS_BEAT = l.now % 256 ^ 8 := by
  have set : Keeps [.dram] l (l.setDram fun d => { d with passes := d.passes - 1 }) := Live.setDram_keeps ..
  have ev' : (l.setDram fun d => { d with passes := d.passes - 1 }).mode.evaluates = true := ev
  refine ⟨.via (Live.wr_keeps ..) rfl (.via (Live.count_keeps ..) rfl (set.mono rfl)), ?_,
    .wr (cellsBut_count (.keep set (.refl _ l)) ev' (by simp) (by simp)) (by simp), Live.rd_wr_same ..⟩
  unfold Live.scrubPassed
  rw [Live.wr_dram, Live.count_dram]; rfl

/-- The burst of a pool's buffer at DIAG_ADDRESS shows its data (R526). -/
theorem diagRead_shows {key u : Nat} (burst : dramUnit (l.rd .DIAG_ADDRESS) = some (key, u)) :
    l.cellsBut [Obj.key .DIAG_DATA 0 0 0] l.diagRead ∧
    l.diagRead.rd .DIAG_DATA / 2 ^ 64 = beVal (l.bufRead key (64 * u) 64) % 2 ^ 512 := by
  unfold Live.diagRead
  dsimp only
  rw [burst]
  have taken : Keeps [.free] l l.tookFree.tookFree := .via (Live.tookFree_keeps _) rfl (Live.tookFree_keeps l)
  refine ⟨.wr (.keep taken (.refl _ l)) (by simp), ?_⟩
  rw [Live.rd_wr_same]
  exact upper_part (beVal_part _) (Nat.mod_lt _ (by decide))

end

/-- Settles O17: the alert by `alert_does`, the replay's end by `replayDone_does`, the rest by the lemma of each command. -/
theorem dramMemoryServes : Obligations.DramMemoryServes := by
  refine ⟨fun s c crc time slots place active ev live checks policy => ?_, fun s c replays ev unopened unjournalled => ?_,
    fun s place active ev live policy => ?_, fun s c rank fill0 fill4 active live calm => ?_,
    fun s c on enabled idle active => ?_, fun s c on resting => ?_, fun s passes on => ?_, fun s key u allowed burst => ?_,
    fun s on => ?_⟩
  · obtain ⟨t, ran, only, outcome⟩ := exec_touches (.dramAlert c crc time slots place) s rfl
      (dramAlert_replays active live checks policy) rfl
    refine ⟨t, ran, only, ?_⟩
    rw [outcome]
    exact alert_does ev c.val crc time slots place
  · obtain ⟨kept, does⟩ := replayDone_does replays ev unopened unjournalled
    obtain ⟨t, ran, only, live⟩ := exec_to (.dramReplayDone c) s (x := s.live.replayDone c.val) rfl rfl kept
    refine ⟨t, ran, only, ?_⟩
    rw [live]
    exact does
  · obtain ⟨t, ran, only, outcome⟩ := exec_touches (.dramUe place) s (x := s.live.dramUe place) rfl rfl rfl
    refine ⟨t, ran, only, ?_⟩
    rw [outcome, (dramUe_notes active live policy).events_eq (by decide)]
    exact ueNoted_raises ev place
  · obtain ⟨t, ran, only, outcome⟩ := exec_touches (.refreshDue c rank fill0 fill4) s rfl
      (refreshDue_issues active live calm) rfl
    refine ⟨t, ran, only, ?_⟩
    rw [outcome, channel_wr, channel_set]
    exact ⟨rd_wr_fits _ (by decide), rfl, rfl⟩
  · obtain ⟨t, ran, only, live⟩ := exec_touches (.idleSelfRefresh c) s rfl (if_pos ⟨on, enabled, idle⟩) rfl
    refine ⟨t, ran, only, ?_⟩
    rw [live]
    exact selfRefresh_does active (Mode.evaluates_of_engineOn on) false
  · have awake : ¬(s.live.mode = .dormant ∨ s.live.mode = .listen ∨ s.live.chState c.val ≠ chSelfRefresh) := by
      rintro (dormant | listens | serves)
      · rw [dormant] at on; exact absurd on (by decide)
      · rw [listens] at on; exact absurd on (by decide)
      · exact serves resting
    obtain ⟨t, ran, only, live⟩ := exec_to (.selfRefreshExit c false) s rfl ((if_neg awake).trans (if_neg (by simp)))
      (Live.selfRefreshExit_keeps ..)
    refine ⟨t, ran, only, ?_⟩
    rw [live]
    exact selfRefreshExit_does resting
  · obtain ⟨t, ran, only, live⟩ := exec_touches .dramScrubPassDone s (x := s.live.scrubPassed.raise 491) rfl
      (if_neg (by simp [passes, on])) rfl
    have ev := Mode.evaluates_of_engineOn on
    obtain ⟨kept, dram, cells, stamp⟩ := scrubPassed_does ev
    have ev' : s.live.scrubPassed.mode.evaluates = true := by rw [kept.mode_eq (by decide)]; exact ev
    refine ⟨t, ran, only, ?_⟩
    rw [live, Live.raise_dram, Live.raise_rd ev']
    exact ⟨dram, .raise cells ev', stamp, Live.raise_mem ev (kept.modes_eq (by decide)) (kept.beat_eq (by decide)) ..⟩
  · obtain ⟨t, ran, only, live⟩ := exec_touches .diagRead s rfl (if_pos allowed) rfl
    refine ⟨t, ran, only, ?_⟩
    rw [live]
    exact diagRead_shows burst
  · obtain ⟨t, ran, only, live⟩ := exec_touches .logClear s rfl (if_pos on) rfl
    exact ⟨t, ran, only, by rw [live]; rfl⟩
end Sys2Proof

namespace Sys2Proof

open Machine

/-! ### Rings (R604 to R607, R617) -/

/-- A change of one ring alone, to `r`. -/
structure Machine.Live.MovesRing (l m : Live) (f k : Nat) (r : Ring) : Prop where
  kept : Keeps [.host] l m
  here : m.ring f k = r
  others : ∀ g j, (g, j) ≠ (f, k) → m.ring g j = l.ring g j

section
variable {l m : Live} {f k v : Nat} {r : Ring}

theorem Machine.Live.MovesRing.refl (l : Live) (f k : Nat) : l.MovesRing l f k (l.ring f k) :=
  ⟨.refl _ l, rfl, fun _ _ _ => rfl⟩

theorem Machine.Live.MovesRing.set (moves : l.MovesRing m f k r) (g : Ring → Ring) :
    l.MovesRing (m.setRing f k g) f k (g r) :=
  ⟨.via (Live.setRing_keeps ..) rfl moves.kept, by rw [setRing_same, moves.here],
    fun i j other => (setRing_other _ _ other).trans (moves.others i j other)⟩

/-- A command whose outcome changes one ring alone. -/
theorem exec_ring (c : Instr) (s : State) {y x : Live} (runs : exec c s = .next (s.withLive y)) (outcome : y = x)
    (moves : s.live.MovesRing x f k r) : ∃ t, exec c s = .next t ∧ s.only [.host] t ∧ t.live.ring f k = r ∧
      ∀ g j, (g, j) ≠ (f, k) → t.live.ring g j = s.live.ring g j := by
  obtain ⟨t, ran, only, live⟩ := exec_to c s runs outcome moves.kept
  exact ⟨t, ran, only, by rw [live, moves.here], by rw [live]; exact moves.others⟩

theorem setRing_fn (l : Live) (f k : Nat) (g : Ring → Ring) :
    (l.setRing f k g).fn f = { l.fn f with rings := (l.fn f).rings.upd k g } := setFn_same ..

theorem sqTailWrite_moves (queue : hasSq k = true) (active : (l.ring f k).active = true) (inside : v < (l.ring f k).sqSize) :
    l.sqTailWrite f k v = l.setRing f k fun r => { r with sqTail := v } := by
  unfold Live.sqTailWrite
  dsimp only
  rw [if_neg (by simp [queue, active]), if_neg (Nat.not_le.mpr inside)]

theorem sqTailWrite_stops (queue : hasSq k = true) (active : (l.ring f k).active = true) (outside : (l.ring f k).sqSize ≤ v) :
    l.sqTailWrite f k v = l.stopRing f k 3 := by
  unfold Live.sqTailWrite
  dsimp only
  rw [if_neg (by simp [queue, active]), if_pos outside]

theorem cqHeadWrite_stops (active : (l.ring f k).active = true) (outside : (l.ring f k).cqSize ≤ v) :
    l.cqHeadWrite f k v = l.stopRing f k 4 := by
  unfold Live.cqHeadWrite
  dsimp only
  rw [if_neg (not_not_intro active), if_pos (.inl outside)]

/-- Entries that waited their time signal the ring's vector, once until they are consumed (R606). -/
theorem ringSignal_late {b : Nat} {bs : List Nat} (enabled : (l.ring f k).irqEn = true)
    (unsignalled : (l.ring f k).signalled = false) (waits : (l.ring f k).waits = b :: bs)
    (timed : bits (l.ring f k).coalesce 0 16 ≠ 0) (late : b + bits (l.ring f k).coalesce 0 16 ≤ l.ticks) (now : Bool) :
    l.ringSignal f k now =
      (l.setRing f k fun r => { r with signalled := true }).signalVector f (l.ring f k).vector := by
  unfold Live.ringSignal
  dsimp only
  rw [waits]
  dsimp only
  rw [if_pos ⟨enabled, by simp [unsignalled], by simp, .inr (.inr (by simp [timed, late]))⟩]

/-- A ring that signals a vector that is not masked. -/
theorem ringSignalled_does (running : (l.fn f).flr = none) (awake : l.modes.recovery = false) (up : l.host.up = true)
    (unmasked : (l.fn f).fnMask = false) (vector : bit ((l.fn f).msixWord (4 * vectorOf f v + 3)) 0 = false) :
    let m := (l.setRing f k fun r => { r with signalled := true }).signalVector f v
    m.ring f k = { l.ring f k with signalled := true } ∧
    (m.fn f).signals.get (vectorOf f v) = (l.fn f).signals.get (vectorOf f v) + 1 := by
  have same := setRing_fn l f k fun r => { r with signalled := true }
  dsimp only
  rw [signal_does (l := l.setRing f k fun r => { r with signalled := true }) (by rw [same]; exact running) awake up
    (by rw [same]; exact unmasked) (by rw [same]; exact vector)]
  constructor
  · rw [setFn_ring, setRing_same]
    exact fun _ => rfl
  · rw [setFn_same, same]
    dsimp only
    rw [Tbl.get_upd_same]

end

/-- Settles O31: what each command makes of its ring (`enable_eq`, `disable_eq`, `head_eq`, `take_eq`, the lemmas above), and
`stopRing_does` for a ring that a bad index stops. -/
theorem ringsEnableMoveAndStop : Obligations.RingsEnableMoveAndStop := by
  refine ⟨fun s f k control v serves disabled word sq low high => ?_, fun s f k control serves enabled unloads undrains sized => ?_,
    fun s f k v serves queue active inside => ?_, fun s f k v serves queue active outside live => ?_,
    fun s f k v n serves active inside count moves held waits => ?_, fun s f k v serves active outside live => ?_,
    fun s f k stopped => ?_, fun s f k e first last undrains works held room => ?_,
    fun s f k b bs works enabled unsignalled waits timed late running awake up unmasked vector => ?_⟩
  · obtain ⟨t, ran, only, here, others⟩ := exec_ring (.ringEnable f k control) s rfl
      (enable_eq serves disabled word sq low high) ((((Live.MovesRing.refl ..).set _).set _).set _)
    refine ⟨t, ran, only, here.trans ?_, others⟩
    simp only [disabled, Bool.false_eq_true, if_false]
  · obtain ⟨t, ran, only, here, others⟩ := exec_ring (.ringDisable f k control) s rfl
      (disable_eq serves enabled unloads undrains sized) (((Live.MovesRing.refl ..).set _).set _)
    refine ⟨t, ran, only, ?_⟩
    rw [here]
    exact ⟨rfl, rfl, rfl, rfl, rfl, rfl, others⟩
  · exact exec_ring (.sqTailWrite f k v) s rfl ((if_pos serves).trans (sqTailWrite_moves queue active inside))
      ((Live.MovesRing.refl ..).set _)
  · obtain ⟨t, ran, only, stopped⟩ := exec_touches (.sqTailWrite f k v) s rfl
      ((if_pos serves).trans (sqTailWrite_stops queue active outside)) rfl
    refine ⟨t, ran, only, ?_⟩
    rw [stopped]
    exact stopRing_does (serves_up serves) live f.isLt 3
  · obtain ⟨t, ran, only, here, others⟩ := exec_ring (.cqHeadWrite f k v) s rfl
      (head_eq serves active inside count moves held waits) ((Live.MovesRing.refl ..).set _)
    exact ⟨t, ran, only, by rw [here, waits], others⟩
  · obtain ⟨t, ran, only, outcome⟩ := exec_touches (.cqHeadWrite f k v) s rfl
      ((if_pos serves).trans (cqHeadWrite_stops active outside)) rfl
    obtain ⟨stopped, -, -, -, event⟩ := stopRing_does (k := k.val) (serves_up serves) live f.isLt 4
    rw [← outcome] at stopped event
    exact ⟨t, ran, only, stopped, event⟩
  · exact exec_ring (.ringQuiesced f k) s rfl (if_neg (Bool.eq_false_iff.mp stopped)) ((Live.MovesRing.refl ..).set _)
  · exact exec_ring (.sqEntryTake f k e) s rfl (take_eq first last undrains works held room)
      ((Live.MovesRing.refl ..).set _)
  · obtain ⟨t, ran, only, live⟩ := exec_touches (.cqCoalesceTimeout f k) s rfl
      ((if_pos works).trans (ringSignal_late enabled unsignalled waits timed late false)) rfl
    obtain ⟨ring, signals⟩ := ringSignalled_does (k := k.val) running awake up unmasked vector
    refine ⟨t, ran, only, ?_⟩
    rw [live]
    exact ⟨ring, signals⟩
end Sys2Proof

namespace Sys2Proof

open Machine

/-! ### The link, presence and function-level reset (R597 to R602, R626, R627) -/

/-- An occurrence raised where the mode and the beat are as they were arises as of then. -/
theorem raise_mem_of_keeps {m : List Part} {a l : Live} (ev : a.mode.evaluates = true) (kept : Keeps m a l)
    (mode : Part.mode ∉ m) (beat : Part.beat ∉ m) (src : Nat) (data : List Byte) (tn : Nat) :
    a.occ src data tn ∈ (l.raise src data tn).events.arisen := by
  rw [Live.raise_eq (by rw [kept.mode_eq mode]; exact ev)]
  simp [Live.occ, Live.now, kept.beat_eq beat]

section
variable {l : Live} {f : Nat}

/-- The four cells of the link. -/
def Machine.Live.linkShows (l : Live) (state speed width rate : Nat) : Live :=
  (((l.wr .LINK_STATE_1600 state).wr .LINK_SPEED_1600 speed).wr .LINK_WIDTH width).wr .H_RATE rate

theorem linkShows_does (l : Live) {state speed width rate : Nat} (codes : state < 256 ∧ speed < 256 ∧ width < 256)
    (word : rate < 2 ^ 64) : let m := l.linkShows state speed width rate
    l.cellsBut [Obj.key .LINK_STATE_1600 0 0 0, Obj.key .LINK_SPEED_1600 0 0 0, Obj.key .LINK_WIDTH 0 0 0, Obj.key .H_RATE 0 0 0] m ∧
    m.rd .LINK_STATE_1600 = state ∧ m.rd .LINK_SPEED_1600 = speed ∧ m.rd .LINK_WIDTH = width ∧ m.rd .H_RATE = rate := by
  obtain ⟨byteState, byteSpeed, byteWidth⟩ := codes
  refine ⟨.wr (.wr (.wr (.wr (.refl _ l) ?_) ?_) ?_) ?_, ?_, ?_, ?_, rd_wr_fits _ (Nat.lt_of_lt_of_le word (by decide))⟩
  any_goals simp
  · refine (rd_wr_row _ (by decide)).trans ((rd_wr_row _ (by decide)).trans ((rd_wr_row _ (by decide)).trans (rd_wr_fits _ ?_)))
    exact Nat.lt_of_lt_of_le byteState (by decide)
  · refine (rd_wr_row _ (by decide)).trans ((rd_wr_row _ (by decide)).trans (rd_wr_fits _ ?_))
    exact Nat.lt_of_lt_of_le byteSpeed (by decide)
  · refine (rd_wr_row _ (by decide)).trans (rd_wr_fits _ ?_)
    exact Nat.lt_of_lt_of_le byteWidth (by decide)

theorem portHRate_lt (gen width : Fin 4) : portHRate gen.val width.val < 2 ^ 64 := by
  revert gen width; decide

theorem width_lt (width : Fin 4) : 2 ^ width.val < 256 := by revert width; decide

/-- A function whose watchdog lapsed is absent (R602). -/
theorem samplePresence_lapsed (watched : (l.fn f).watchdog ≠ 0) (lapsed : (l.fn f).alive + (l.fn f).watchdog < l.ticks)
    (present : (l.fn f).present = true) : l.samplePresence f =
      ((l.setFn f fun x => { x with present := false }).wrB .PRESENT false f).raise 579 (u8 f) (fnTn f) := by
  have absent : l.isPresent f = false := by
    unfold Live.isPresent
    simp [watched, lapsed]
  unfold Live.samplePresence
  dsimp only
  rw [absent, present, if_neg (by decide)]
  rfl

theorem raise_fn (l : Live) (src : Nat) (data : List Byte) (tn g : Nat) : (l.raise src data tn).fn g = l.fn g :=
  fn_host ((Live.raise_keeps ..).host_eq (by decide)) g

/-- What a function's reset counts and drops before the function goes (R626). -/
def Machine.Live.flrDropped (l : Live) (f : Nat) : Live :=
  let shown := if (l.fn f).present then (l.wrB .PRESENT false f).raise 579 (u8 f) (fnTn f) else l
  let lost := sumOf (fun k => (l.ring f k).taken.length) [4, 5, 6, 7]
  (((shown.recoveryStart 2 f (fnTn f)).count .H_TX_ABORTED lost f).count .RX_OVERFLOW_DROPS lost 54).forL
    [4, 5, 6, 7, 9, 10] fun l k => l.setRing f k fun r => { r with taken := [] }

theorem flrDropped_does (l : Live) (f : Nat) : Keeps [.store, .host, .events, .recoveries] l (l.flrDropped f) ∧
    (∀ g, g ≠ f → (l.flrDropped f).fn g = l.fn g) ∧
    ∀ k ∈ [4, 5, 6, 7, 9, 10], ((l.flrDropped f).ring f k).taken = [] := by
  unfold Live.flrDropped
  dsimp only
  generalize hx : ((((if (l.fn f).present then (l.wrB .PRESENT false f).raise 579 (u8 f) (fnTn f) else l).recoveryStart 2 f
    (fnTn f)).count .H_TX_ABORTED (sumOf (fun k => (l.ring f k).taken.length) [4, 5, 6, 7]) f).count .RX_OVERFLOW_DROPS
    (sumOf (fun k => (l.ring f k).taken.length) [4, 5, 6, 7]) 54) = x
  have shown : Keeps [.store, .events] l
      (if (l.fn f).present then (l.wrB .PRESENT false f).raise 579 (u8 f) (fnTn f) else l) := by
    split
    · exact .via (Live.raise_keeps ..) rfl (.mono (Live.wrB_keeps ..) rfl)
    · exact .refl _ l
  have counted : Keeps [.store, .events, .recoveries] l x := by
    rw [← hx]
    exact .via (Live.count_keeps ..) rfl (.via (Live.count_keeps ..) rfl (.via (Live.recoveryStart_keeps ..) rfl (shown.mono rfl)))
  obtain ⟨kept, others, none_taken⟩ := taken_none f [4, 5, 6, 7, 9, 10] x
  exact ⟨.via kept rfl (counted.mono rfl), fun g other => (others g other).trans (fn_host (counted.host_eq (by decide)) g),
    fun k listed => none_taken k (.inl listed)⟩

theorem flrStart_starts (fresh : (l.fn f).flr = none) : l.flrStart f =
    ((l.flrDropped f).setFn f fun x => { x with present := false, flr := some l.ticks, cleaned := false }).raise 581 (u8 f)
      (fnTn f) := by
  unfold Live.flrStart
  rw [if_neg (not_not_intro fresh)]
  rfl

/-- A function that is reset is absent, in reset, and took nothing; the others stand (R626). -/
theorem flrStart_does (fresh : (l.fn f).flr = none) (ev : l.mode.evaluates = true) : let m := l.flrStart f
    (m.fn f).present = false ∧ (m.fn f).flr = some l.ticks ∧ (m.fn f).cleaned = false ∧
    (∀ k ∈ [4, 5, 6, 7, 9, 10], (m.ring f k).taken = []) ∧ (∀ g, g ≠ f → m.fn g = l.fn g) ∧
    l.occ 581 (u8 f) f ∈ m.events.arisen := by
  obtain ⟨kept, others, none_taken⟩ := flrDropped_does l f
  rw [flrStart_starts fresh]
  dsimp only
  simp only [raise_fn, setFn_same]
  refine ⟨trivial, trivial, trivial, fun k listed => ?_, fun g other => ?_, ?_⟩
  · rw [ring_host ((Live.raise_keeps ..).host_eq (by decide)), setFn_ring]
    · exact none_taken k listed
    · exact fun _ => rfl
  · rw [setFn_other _ _ other, others g other]
  · exact raise_mem_of_keeps ev (.via (Live.setFn_keeps ..) rfl kept) (by decide) (by decide) ..

/-- What a function's reset cleans up, in its order (R626). -/
def Machine.Live.flrCleaned (l : Live) (f : Nat) : Live :=
  ((((((l.drainAcks).withdrawMaster (functionRank f)).setMbx f fun _ => {}).forcedRelease (8 + f)).jobsStop (2 + f)).loadsCut
    f).offersCut f

theorem flrCleanup_cleans {w : Nat} (resets : (l.fn f).flr = some w) (unclean : (l.fn f).cleaned = false) (past : w < l.ticks) :
    l.flrCleanup f = (l.flrCleaned f).setFn f fun x => { x with cleaned := true } := by
  unfold Live.flrCleanup
  rw [resets]
  dsimp only
  rw [if_neg (by simp [unclean, past])]
  rfl

/-- A function whose reset ends, before its event (R626). -/
def Machine.Live.flrRestored (l : Live) (f : Nat) : Live :=
  ((((l.setFn f fun x => { resetDone := true, journalSeq := x.journalSeq, vfEnable := x.vfEnable }).routesReset f).setBpm fun x =>
    { x with results := x.results.del (8 + f) }).restartSeq (functionRank f)).count .FLR_COUNT 1 f

theorem flrRestored_keeps (l : Live) (f : Nat) : Keeps [.store, .dict, .modes, .bpm, .events]
    (l.setFn f fun x => { resetDone := true, journalSeq := x.journalSeq, vfEnable := x.vfEnable }) (l.flrRestored f) :=
  .via (Live.count_keeps ..) rfl (.via (Live.restartSeq_keeps ..) rfl (.via (Live.setBpm_keeps ..) rfl
    (.mono (Live.routesReset_keeps ..) rfl)))

theorem flrDone_ends {w : Nat} (resets : (l.fn f).flr = some w) (clean : (l.fn f).cleaned = true) (past : w + 9 ≤ l.ticks) :
    l.flrDone f = (((l.flrRestored f).raise 582 (u8 f) (fnTn f)).recoveryDone 2 f).journalRecoveries := by
  unfold Live.flrDone
  rw [resets]
  dsimp only
  rw [if_neg (by simp [clean, past])]
  rfl

/-- A function whose reset ended is as at reset but for what R626 names; the others stand. -/
theorem flrDone_does {w : Nat} (resets : (l.fn f).flr = some w) (clean : (l.fn f).cleaned = true) (past : w + 9 ≤ l.ticks)
    (ev : l.mode.evaluates = true) : let m := l.flrDone f
    m.fn f = { resetDone := true, journalSeq := (l.fn f).journalSeq, vfEnable := (l.fn f).vfEnable } ∧
    (∀ g, g ≠ f → m.fn g = l.fn g) ∧ l.occ 582 (u8 f) f ∈ m.events.arisen := by
  have restored := flrRestored_keeps l f
  have told : Keeps [.store, .recoveries] ((l.flrRestored f).raise 582 (u8 f) (fnTn f))
      (((l.flrRestored f).raise 582 (u8 f) (fnTn f)).recoveryDone 2 f).journalRecoveries :=
    .via (Live.journalRecoveries_keeps _) rfl (.mono (Live.recoveryDone_keeps ..) rfl)
  have same : ∀ g, (((l.flrRestored f).raise 582 (u8 f) (fnTn f)).recoveryDone 2 f).journalRecoveries.fn g =
      (l.setFn f fun x => { resetDone := true, journalSeq := x.journalSeq, vfEnable := x.vfEnable }).fn g := fun g =>
    (fn_host (told.host_eq (by decide)) g).trans ((raise_fn ..).trans (fn_host (restored.host_eq (by decide)) g))
  rw [flrDone_ends resets clean past]
  dsimp only
  rw [same, setFn_same]
  refine ⟨rfl, fun g other => (same g).trans (setFn_other _ _ other), ?_⟩
  rw [told.events_eq (by decide)]
  exact raise_mem_of_keeps ev (m := [.store, .dict, .modes, .bpm, .host, .events])
    (.via restored rfl (.mono (Live.setFn_keeps ..) rfl)) (by decide) (by decide) ..

end

/-- Settles O32: the link's cells by `linkShows_does`, the watchdog by `samplePresence_lapsed`, the reset by `flrStart_does`,
`flrCleanup_cleans` and `flrDone_does`. -/
theorem linkAndFunctionsComeAndGo : Obligations.LinkAndFunctionsComeAndGo := by
  refine ⟨fun s gen width down free ev => ?_, fun s up ev => ?_, fun s f serves => ?_,
    fun s f watched lapsed present ev => ?_, fun s f up virtual fresh ev => ?_, fun s f w resets unclean past => ?_,
    fun s f w resets clean past ev => ?_, fun s ecrc up ev => ?_⟩
  · obtain ⟨t, ran, only, live⟩ := exec_touches (.pcieLinkUp gen width) s
      (x := ((s.live.setHost fun h => { h with up := true }).linkShows 2 (gen.val + 1) (2 ^ width.val)
        (portHRate gen.val width.val)).raise 576) rfl (if_neg (by simp [down, free])) rfl
    obtain ⟨cells, state, speed, lanes, rate⟩ := linkShows_does (s.live.setHost fun h => { h with up := true }) (state := 2)
      (speed := gen.val + 1) ⟨by decide, by omega, width_lt width⟩ (portHRate_lt gen width)
    have ev' : ((s.live.setHost fun h => { h with up := true }).linkShows 2 (gen.val + 1) (2 ^ width.val)
        (portHRate gen.val width.val)).mode.evaluates = true := ev
    refine ⟨t, ran, only, ?_⟩
    rw [live]
    simp only [Live.raise_rd ev']
    exact ⟨Live.raise_host .., .raise ⟨cells.same⟩ ev', state, speed, lanes, rate, arose_raise ev' rfl rfl ..⟩
  · obtain ⟨t, ran, only, live⟩ := exec_touches .pcieLinkDown s
      (x := (((s.live.setHost fun h => { h with up := false }).linkShows 0 0 0 0).raise 577).flrOf 0) rfl (if_neg (by simp [up])) rfl
    obtain ⟨cells, state, speed, lanes, rate⟩ := linkShows_does (s.live.setHost fun h => { h with up := false }) (state := 0)
      (speed := 0) (width := 0) (rate := 0) (by decide) (by decide)
    have ev' : ((s.live.setHost fun h => { h with up := false }).linkShows 0 0 0 0).mode.evaluates = true := ev
    refine ⟨t, _, ran, only, live, ?_⟩
    simp only [Live.raise_rd ev']
    exact ⟨Live.raise_host .., .raise ⟨cells.same⟩ ev', state, speed, lanes, rate, arose_raise ev' rfl rfl ..⟩
  · obtain ⟨t, ran, only, live⟩ := exec_touches (.hostAlive f) s rfl (if_pos serves) rfl
    refine ⟨t, ran, only, ?_⟩
    rw [live]
    exact ⟨setFn_same .., fun g other => setFn_other _ _ other⟩
  · obtain ⟨t, ran, only, live⟩ := exec_touches (.hostWatchdogExpiry f) s rfl
      ((if_pos ⟨watched, lapsed⟩).trans (samplePresence_lapsed watched lapsed present)) rfl
    have ev' : ((s.live.setFn f.val fun x => { x with present := false }).wrB .PRESENT false f.val).mode.evaluates = true := ev
    refine ⟨t, ran, only, ?_⟩
    rw [live]
    simp only [raise_fn, Live.raise_rd ev']
    exact ⟨setFn_same .., fun g other => setFn_other _ _ other, .raise (.wr ⟨fun _ _ _ _ _ => rfl⟩ (by simp)) ev',
      rd_wr_fits _ (by decide), arose_raise ev' rfl rfl ..⟩
  · obtain ⟨t, ran, only, live⟩ := exec_touches (.flrStart f) s rfl ((if_pos up).trans (if_neg virtual)) rfl
    refine ⟨t, ran, only, ?_⟩
    rw [live]
    exact flrStart_does fresh ev
  · obtain ⟨t, ran, only, live⟩ := exec_touches (.flrCleanup f) s rfl (flrCleanup_cleans resets unclean past) rfl
    exact ⟨t, s.live.flrCleaned f.val, ran, only, rfl, live, by rw [live, setFn_same]⟩
  · obtain ⟨t, ran, only, live⟩ := exec_touches (.flrDone f) s (x := s.live.flrDone f.val) rfl rfl rfl
    refine ⟨t, ran, only, ?_⟩
    rw [live]
    exact flrDone_does resets clean past ev
  · obtain ⟨t, ran, only, live⟩ := exec_touches (.malformedTlp ecrc) s rfl (if_pos up) rfl
    refine ⟨t, ran, only, ?_⟩
    rw [live]
    exact ⟨(raise_keeps_events ev ..).store_eq (by decide), arose_raise ev rfl rfl ..⟩
end Sys2Proof

namespace Sys2Proof

open Machine

/-! ### Registers, the aperture and the recovery window (R599, R600, R619 to R628) -/

/-- A function whose BAR0 takes accesses: the link is up, a VF is enabled, and no reset of it runs. -/
structure Machine.Live.FnServed (l : Live) (f : Nat) : Prop where
  up : l.host.up = true
  enabled : f ≠ 0 → (l.fn f).vfEnable = true
  running : (l.fn f).flr = none

section
variable {l : Live} {f : Fin 8} {off reg width offset len : Nat} {data : List Byte}

theorem pageWrite_within (at_ : registerAt f.val off = some (reg, width)) (within : off + data.length ≤ reg + width)
    (filled : data ≠ []) : l.pageWrite f.val off data = l.registerSet f.val off reg width data := by
  unfold Live.pageWrite
  rw [at_]
  dsimp only
  rw [if_neg filled, if_neg (Nat.not_lt.mpr within)]

/-- A write that no register takes is journalled: outside every register, past its register, or to the register at offset 0,
which is read-only (R625). -/
theorem pageWrite_faults {r : Nat} (filled : data ≠ [])
    (outside : registerAt f.val off = none ∧ r = 1 ∨
      (∃ reg width, registerAt f.val off = some (reg, width) ∧ reg + width < off + data.length ∧ r = 9) ∨
      ∃ width, registerAt f.val off = some (0, width) ∧ off + data.length ≤ width ∧ r = 2) :
    l.pageWrite f.val off data = l.hostFault f.val r 0 off data := by
  rcases outside with ⟨reserved, rfl⟩ | ⟨reg, width, at_, past, rfl⟩ | ⟨width, at_, within, rfl⟩
  · unfold Live.pageWrite
    rw [reserved]; rfl
  · unfold Live.pageWrite
    rw [at_]
    dsimp only
    rw [if_neg filled, if_pos past]; rfl
  · rw [pageWrite_within at_ (by omega) filled]; rfl

theorem registerAt_control (f : Fin 8) : registerAt f.val 4 = some (4, 4) := by revert f; decide

theorem control_inside (f : Fin 8) : 4 + 4 ≤ barSize f.val := by revert f; decide

theorem aperture_inside (f : Fin 8) : apertureBase f.val + apertureSize f.val ≤ barSize f.val := by revert f; decide

theorem engineOn_mode {m : Mode} (on : m.engineOn = true) : m ≠ .bringup ∧ m ≠ .decommissioned ∧ m ≠ .freeze := by
  revert on; cases m <;> decide

/-- A write through the aperture whose handle passes its check writes the buffer (R620). -/
theorem apertureWrite_stores (served : l.FnServed f.val) (on : l.mode.engineOn = true)
    (inside : offset + data.length ≤ apertureSize f.val) (start : offset < apertureSize f.val)
    (passes : l.apertureCheck f.val offset data.length = bpmOk) :
    l.barWrite f.val (apertureBase f.val + offset) data false =
      l.bufWrite (handleKey (l.fn f.val).winHandle) ((l.fn f.val).winOffset + offset) data false := by
  obtain ⟨up, enabled, running⟩ := served
  obtain ⟨past, holds, live⟩ := engineOn_mode on
  have bar := aperture_inside f
  unfold Live.barWrite
  rw [if_neg, if_neg past, if_neg (not_not_intro running), if_neg (fun out => holds out.1), if_pos (by omega)]
  · unfold Live.apertureStore
    dsimp only
    rw [if_neg live, Nat.add_sub_cancel_left, if_neg (not_not_intro passes)]
    rfl
  · rintro (down | ⟨virtual, disabled⟩ | beyond)
    · exact down up
    · exact disabled (enabled virtual)
    · omega

/-- A function's aperture shows what the host read. -/
def Machine.Live.apertureShows (l : Live) (f : Nat) (d : Option (List Byte)) : Live :=
  l.setFn f fun x => { x with apertureRead := d }

theorem Machine.Live.FnServed.reads (served : l.FnServed f.val) :
    ¬(¬l.host.up = true ∨ (f.val ≠ 0 ∧ ¬(l.fn f.val).vfEnable = true)) := by
  rintro (down | ⟨virtual, disabled⟩)
  · exact down served.up
  · exact disabled (served.enabled virtual)

theorem apertureRead_shows (served : l.FnServed f.val) (on : l.mode.engineOn = true)
    (inside : offset + len ≤ apertureSize f.val) (passes : l.apertureCheck f.val offset len = bpmOk)
    (clean : (l.buf (handleKey (l.fn f.val).winHandle)).poisoned ((l.fn f.val).winOffset + offset) len = false) :
    l.apertureRead f.val offset len =
      l.apertureShows f.val (some (l.bufRead (handleKey (l.fn f.val).winHandle) ((l.fn f.val).winOffset + offset) len)) := by
  unfold Live.apertureRead
  dsimp only
  rw [if_neg served.reads, if_neg (by simp [on, served.running]), if_neg (engineOn_mode on).2.2, if_neg (Nat.not_lt.mpr inside),
    if_neg (not_not_intro passes), clean]
  rfl

theorem apertureRead_frozen (served : l.FnServed f.val) (frozen : l.mode = .freeze) :
    l.apertureRead f.val offset len = l.apertureShows f.val none := by
  unfold Live.apertureRead
  dsimp only
  rw [if_neg served.reads, if_neg (by simp [frozen, served.running]), if_pos frozen]
  rfl

/-- The blocks of an image that the recovery window staged (R628). -/
def stagedBlocks (staged : List Byte) : Tbl (List Byte) :=
  (List.range 32).foldl (fun (t : Tbl (List Byte)) k => t.put k (slice staged (1048576 * k) 1048576)) []

/-- An accepted recovery image in slot A, which is to run (R628). -/
def Machine.Live.recoveryWritten (l : Live) : Live :=
  ((((l.setModes fun m => { m with slotA := { blocks := stagedBlocks l.host.staged } }).setHost fun h =>
    { h with recoveryStatus := 0, staged := [], recoveryLength := 0 }).wr .BOOT_PREFERENCE 0).raise 592)

theorem recoveryWritten_does (up : l.mode = .bringup) :
    l.recoveryWritten.host = { l.host with recoveryStatus := 0, staged := [], recoveryLength := 0 } ∧
    l.recoveryWritten.rd .BOOT_PREFERENCE = 0 ∧
    ∀ k, k < 32 → l.recoveryWritten.modes.slotA.blocks.get k = slice l.host.staged (1048576 * k) 1048576 := by
  unfold Live.recoveryWritten
  refine ⟨(Live.raise_host ..).trans (Live.wr_host ..), ?_, fun k inside => ?_⟩
  · refine (raise_rd_up ?_ _ _ _ ?_).trans (rd_wr_fits _ ?_)
    · exact up
    all_goals decide
  · rw [Live.raise_modes, Live.wr_modes]
    exact (puts_all (fun k => slice l.host.staged (1048576 * k) 1048576) _ _ _).trans
      (if_pos (List.mem_range.mpr inside))

end

/-- Settles O34: a register's write by `pageWrite_within`, a fault by `pageWrite_faults` with `hostFault_does`, the aperture by
`apertureWrite_stores` and `apertureRead_shows`, the recovery image by `recoveryWritten_does`. -/
theorem registersApertureAndRecoveryWindow : Obligations.RegistersApertureAndRecoveryWindow := by
  refine ⟨fun s f off reg width data up enabled past running holds at_ within filled pages bar => ?_,
    fun s f data v up enabled past running holds word merged => ?_,
    fun s f off r data up enabled past running holds ev pages bar filled outside => ?_,
    fun s f offset data up enabled on running inside start passes => ?_,
    fun s f offset len up enabled on running inside passes clean => ?_,
    fun s f offset len up enabled frozen running => ?_, fun s length bringup recovery up => ?_,
    fun s bringup recovery accepted => ?_⟩
  · exact exec_touches (.registerWrite f off data false) s rfl
      ((pages_eq up enabled past running holds pages bar).trans (pageWrite_within at_ within filled)) rfl
  · have bar : 4 + data.length ≤ barSize f.val := by rw [word]; exact control_inside f
    have filled : data ≠ [] := by rintro rfl; exact absurd word (by decide)
    obtain ⟨t, ran, only, live⟩ := exec_touches (.registerWrite f 4 data false) s rfl
      ((pages_eq up enabled past running holds (by decide) bar).trans
        (pageWrite_within (registerAt_control f) (by omega) filled)) rfl
    refine ⟨t, ran, only, ?_⟩
    subst merged
    rw [live]
    exact ⟨setFn_same .., rfl, fun g other => setFn_other _ _ other⟩
  · obtain ⟨t, ran, only, live⟩ := exec_touches (.registerWrite f off data false) s rfl
      ((pages_eq up enabled past running holds pages bar).trans (pageWrite_faults filled outside)) rfl
    refine ⟨t, ran, only, ?_⟩
    rw [live]
    exact hostFault_does ev ..
  · exact exec_touches (.apertureWrite f offset data false) s rfl
      ((if_pos start).trans (apertureWrite_stores ⟨up, enabled, running⟩ on inside start passes)) rfl
  · obtain ⟨t, ran, only, live⟩ := exec_touches (.apertureRead f offset len) s rfl
      (apertureRead_shows ⟨up, enabled, running⟩ on inside passes clean) rfl
    refine ⟨t, ran, only, ?_⟩
    rw [live]
    exact ⟨rfl, setFn_same .., fun g other => setFn_other _ _ other⟩
  · obtain ⟨t, ran, only, live⟩ := exec_touches (.apertureRead f offset len) s rfl
      (apertureRead_frozen ⟨up, enabled, running⟩ frozen) rfl
    refine ⟨t, ran, only, ?_⟩
    rw [live]
    exact ⟨rfl, setFn_same ..⟩
  · obtain ⟨t, ran, only, live⟩ := exec_touches (.recoveryCommit length) s rfl (if_pos ⟨bringup, recovery, up⟩) rfl
    exact ⟨t, ran, only, by rw [live]; rfl⟩
  · obtain ⟨t, ran, start, queue, live⟩ := exec_lives .recoveryUsed s (x := s.live.recoveryWritten.restart 6) rfl
      (if_pos ⟨bringup, recovery, accepted⟩)
    exact ⟨t, s.live.recoveryWritten, ran, start, queue, live, recoveryWritten_does bringup⟩
end Sys2Proof

namespace Sys2Proof

open Machine

/-! ### Returns of segments and export blocks (R483 to R490, R494) -/

/-- A function takes an offer: its drain ring works, it posted a buffer, and its window is open (R483, R615). -/
structure Machine.Live.TakesOffer (l : Live) (f : Nat) : Prop where
  running : l.mode.running = true
  works : l.ringWorks f 8 = true
  served : (l.fn f).flr = none
  posted : (l.fn f).buffers ≠ []
  active : l.tnActive f = true
  window : l.offersTo f < l.rd .DRAIN_WINDOW 0 0 f

section
variable {l : Live} {f i : Nat}

theorem Machine.Live.TakesOffer.passes (takes : l.TakesOffer f) :
    ¬(!(l.mode.running && l.ringWorks f 8 && (l.fn f).flr == none && (l.fn f).buffers != [] && l.tnActive f
      && decide (l.offersTo f < l.rd .DRAIN_WINDOW 0 0 f))) = true := by
  obtain ⟨running, works, served, posted, active, window⟩ := takes
  simp [running, works, served, posted, active, window]

theorem drainOffer_block (takes : l.TakesOffer f) {b : ExportBlock}
    (waits : (l.flannel.blocks.find? fun b => b.tn == f && b.handle != 0 && b.offer == none) = some b) :
    l.drainOffer f = (l.offerOut f b.handle b.length 1 (List.replicate 64 0) b.reoffered).setFlannel fun x =>
      { x with blocks := x.blocks.map fun (c : ExportBlock) => if c = b then { c with offer := some (f, l.ticks) } else c } := by
  unfold Live.drainOffer
  dsimp only
  rw [if_neg takes.passes, waits]

theorem drainOffer_segment (takes : l.TakesOffer f) {is : List Nat}
    (unblocked : (l.flannel.blocks.find? fun b => b.tn == f && b.handle != 0 && b.offer == none) = none)
    (drains : l.returnPath f = 1) (next : l.returnOrder f = i :: is) :
    l.drainOffer f = ((l.checkCrc i).offerOut f ((l.checkCrc i).seg i).handle ((l.checkCrc i).seg i).bytes 0
      ((l.checkCrc i).seg i).record ((l.checkCrc i).seg i).reoffered).setSeg i
        fun g => { g with state := segReturning, offer := some (f, l.ticks) } := by
  unfold Live.drainOffer
  dsimp only
  rw [if_neg takes.passes, unblocked]
  dsimp only
  rw [if_neg (not_not_intro drains), next]

theorem drainAck_returns (running : l.mode.running = true) {b : Nat} {e : List Byte}
    (oldest : ((l.ring f 8).taken.find? fun e => drainOp e.2 == 2 && decide (e.1 < l.ticks)) = some (b, e))
    (named : (l.segsWhere (ackNames f e)).head? = some i) :
    l.drainAck f = (l.setRing f 8 fun r => { r with taken := r.taken.erase (b, e) }).returned i := by
  have same : ((l.setRing f 8 fun r => { r with taken := r.taken.erase (b, e) }).segsWhere (ackNames f e)).head? = some i := named
  unfold Live.drainAck
  rw [oldest]
  dsimp only
  rw [if_neg (not_not_intro running), same]

theorem lateBlocks_seg (xs : List ExportBlock) (l : Live) (i : Nat) :
    (l.forL xs fun l b => (l.withdrawBlock b).raise 458 [] b.tn).seg i = l.seg i := by
  unfold Live.forL
  induction xs generalizing l with
  | nil => rfl
  | cons b xs ih => rw [List.foldl_cons, ih, seg_flannel (Live.raise_flannel ..), block_seg]

/-- An offer that waited too long leaves its segment RETAINED and REOFFERED (R484). -/
theorem drainLate_withdraws (on : l.mode.engineOn = true) (returning : (l.seg i).state = segReturning)
    (late : l.offerLate (l.seg i).tn (l.seg i).handle (l.seg i).closeBeat (l.seg i).offer = true) :
    (l.drainLate.seg i).state = segRetained ∧ (l.drainLate.seg i).offer = none ∧ (l.drainLate.seg i).reoffered = true := by
  have used : l.seg i ≠ default := fun unused => by rw [unused] at returning; cases returning
  have offered : (l.seg i).offer ≠ none := fun unoffered => by rw [unoffered] at late; cases late
  have listed : i ∈ l.segsWhere fun g => l.offerLate g.tn g.handle g.closeBeat g.offer := mem_segsWhere used late
  unfold Live.drainLate
  rw [if_neg (not_not_intro on)]
  dsimp only
  rw [lateBlocks_seg]
  exact withdraw_all i _ l (.inr ⟨listed, returning, .inl offered⟩)

/-- A segment whose ACK did not come is to be sent again (R486). -/
theorem backfillLate_resends (running : l.mode.running = true) (sends : (l.seg i).sends = true) {b : Nat}
    (sent : (l.seg i).sentAt = some b) (late : b + l.rd .BACKFILL_ACK_TIMEOUT ≤ l.ticks) :
    (l.backfillLate.seg i).sent = 0 ∧ (l.backfillLate.seg i).sentAt = none ∧ (l.backfillLate.seg i).resent = true := by
  have used : l.seg i ≠ default := fun unused => by rw [unused] at sent; cases sent
  unfold Live.backfillLate
  rw [if_neg (not_not_intro running)]
  refine resend_all i _ l (.inl (mem_segsWhere used ?_))
  rw [sends, sent]
  simpa using late

/-- The backfill sender may send (R487). -/
structure Machine.Live.BackfillMay (l : Live) : Prop where
  running : l.mode.running = true
  linked : l.flannel.lost = false
  free : l.flannel.holdBackfill = false
  credit : 0 ≤ l.backfillCredit

theorem Machine.Live.BackfillMay.passes (may : l.BackfillMay) :
    ¬(¬l.mode.running = true ∨ l.flannel.lost = true ∨ l.flannel.holdBackfill = true ∨ l.backfillCredit < 0) := by
  obtain ⟨running, linked, free, credit⟩ := may
  simp [running, linked, free, credit]

theorem backfillSend_goes_on (may : l.BackfillMay) (sending : l.flannel.sending = some i)
    (vlan : l.backfillVlan (l.seg i).tn = true) : l.backfillSend = l.sendDatagram i := by
  unfold Live.backfillSend
  rw [if_neg may.passes, sending]
  exact if_pos vlan

theorem backfillSend_begins (may : l.BackfillMay) (idle : l.flannel.sending = none) (next : l.nextSend = some i) :
    l.backfillSend = (l.beginSend i).sendDatagram i := by
  unfold Live.backfillSend
  rw [if_neg may.passes, idle, next]

/-- A segment one of whose datagrams, of `w` bits, goes out (R485, R487). -/
def Machine.Live.datagramNoted (l : Live) (i w : Nat) : Live :=
  (l.setSeg i fun g => { g with
    sent := g.sent + 1, sentAt := if (l.seg i).sent + 1 = (l.seg i).datagrams then some l.ticks else none }).setFlannel fun x =>
      { x with credit := some (l.backfillCredit - w),
               sending := if (l.seg i).sent + 1 = (l.seg i).datagrams then none else some i }

theorem datagramNoted_seg (l : Live) (i w j : Nat) : (l.datagramNoted i w).seg j = (l.setSeg i fun g => { g with
    sent := g.sent + 1, sentAt := if (l.seg i).sent + 1 = (l.seg i).datagrams then some l.ticks else none }).seg j := rfl

theorem sendDatagram_notes {d : Datagram} (next : (l.datagrams i)[(l.seg i).sent]? = some d) :
    ∃ w, (l.sendDatagram i).flannel = (l.datagramNoted i w).flannel := by
  unfold Live.sendDatagram
  dsimp only
  rw [next]
  simp only [beq_iff_eq]
  exact ⟨_, (Live.flannelSend_keeps ..).flannel_eq (by decide)⟩

/-- One datagram of a segment goes out: the segment keeps when its last did (R485). -/
theorem sendDatagram_does {d : Datagram} (next : (l.datagrams i)[(l.seg i).sent]? = some d) : let m := l.sendDatagram i
    m.seg i = { l.seg i with sent := (l.seg i).sent + 1, sentAt := if (l.seg i).sent + 1 = (l.seg i).datagrams then some l.ticks else none } ∧
    (∀ j, j ≠ i → m.seg j = l.seg j) ∧
    m.flannel.sending = if (l.seg i).sent + 1 = (l.seg i).datagrams then none else some i := by
  obtain ⟨w, noted⟩ := sendDatagram_notes next
  refine ⟨?_, fun j other => ?_, by rw [noted]; rfl⟩
  · rw [seg_flannel noted, datagramNoted_seg, setSeg_same]
  · rw [seg_flannel noted, datagramNoted_seg, setSeg_other _ _ other]

end

/-- Settles O36: offers by `drainOffer_block` and `drainOffer_segment`, acknowledgements by `drainAck_returns`, the backfill
sender by `sendDatagram_does`, the lapses by `drainLate_withdraws` and `backfillLate_resends`. -/
theorem segmentsReturnAndAreSentAgain : Obligations.SegmentsReturnAndAreSentAgain := by
  refine ⟨fun s f b running works served posted active window waits => ?_,
    fun s f i is running works served posted active window unblocked drains next => ?_,
    fun s f b i e running oldest named => ?_, fun s i on returning late => ?_,
    fun s past i d running linked free credit sending vlan next => ?_,
    fun s past i running linked free credit idle next => ?_, fun s n payload running => ?_,
    fun s i b running sends sent late => ?_, fun s n on idle kept => ?_, fun s n on idle kept => ?_, fun s p on => ?_⟩
  · exact exec_touches (.drainOffer f) s rfl
      (drainOffer_block ⟨running, works, served, posted, active, window⟩ waits) rfl
  · obtain ⟨t, ran, only, live⟩ := exec_touches (.drainOffer f) s rfl
      (drainOffer_segment ⟨running, works, served, posted, active, window⟩ unblocked drains next) rfl
    refine ⟨t, _, ran, only, rfl, live, ?_⟩
    rw [live, setSeg_same]
    exact ⟨rfl, rfl⟩
  · obtain ⟨t, ran, only, live⟩ := exec_touches (.drainAck f) s rfl (drainAck_returns running oldest named) rfl
    exact ⟨t, _, ran, only, live, setRing_same .., rfl, rfl⟩
  · obtain ⟨t, ran, only, live⟩ := exec_touches .flnDrainTimeout s (x := s.live.drainLate) rfl rfl rfl
    refine ⟨t, ran, only, ?_⟩
    rw [live]
    exact drainLate_withdraws on returning late
  · obtain ⟨t, ran, only, live⟩ := exec_touches (.backfillSend past) s rfl ((if_pos running).trans
      (backfillSend_goes_on (l := s.live.at past) ⟨running, linked, free, credit⟩ sending vlan)) rfl
    refine ⟨t, ran, only, ?_⟩
    rw [live]
    exact sendDatagram_does (l := s.live.at past) next
  · exact exec_touches (.backfillSend past) s rfl ((if_pos running).trans
      (backfillSend_begins (l := s.live.at past) ⟨running, linked, free, credit⟩ idle next)) rfl
  · obtain ⟨t, ran, only, live⟩ := exec_touches (.backfillAck n payload) s rfl (if_pos running) rfl
    exact ⟨t, ran, only, by rw [live]; rfl⟩
  · obtain ⟨t, ran, only, live⟩ := exec_touches .flnBackfillTimeout s (x := s.live.backfillLate) rfl rfl rfl
    refine ⟨t, ran, only, ?_⟩
    rw [live]
    exact backfillLate_resends running sends sent late
  · obtain ⟨bs, filled, owned, outcome⟩ := export_some on idle kept
    obtain ⟨t, ran, only, live⟩ := exec_to (.indexExport n) s (m := [.store, .flannel]) rfl outcome
      (.via (Live.wrB_keeps ..) rfl (.mono (Live.setFlannel_keeps ..) rfl))
    refine ⟨t, bs, ran, only, ?_⟩
    rw [live]
    exact ⟨.wr ⟨fun _ _ _ _ _ => rfl⟩ (by simp), Live.rd_wr_same .., filled, owned, rfl⟩
  · have ev := Mode.evaluates_of_engineOn on
    obtain ⟨t, ran, only, live⟩ := exec_to (.indexExport n) s rfl (export_none on idle kept) (raise_keeps_events ev ..)
    exact ⟨t, ran, only, by rw [live]; exact arose_raise ev rfl rfl ..⟩
  · obtain ⟨t, ran, only, live⟩ := exec_touches (.purge p) s rfl (if_pos on) rfl
    exact ⟨t, _, ran, only, rfl, live⟩
end Sys2Proof

namespace Sys2Proof

open Machine

/-! ### Receivers (R566 to R569) -/

section
variable {l m : Live} {r k : Nat} {b : Bool}

theorem rxSense_does (l : Live) (r : Nat) {x : Nat × Nat × Nat} :
    let m := l.rxSense r x.1 x.2.1 x.2.2
    m.audio = { l.audio with rx := l.audio.rx.upd r fun y => { y with sensed := some x } } ∧
    (m.audio.rx.get r).sensed = some x ∧ ∀ q, q ≠ r → m.audio.rx.get q = l.audio.rx.get q :=
  ⟨rfl, congrArg AesRx.sensed (rx_same ..), fun _ other => rx_other _ _ other⟩

/-- A sample enters a channel's converter of a receiver. -/
def Machine.Live.sampleIn (l : Live) (r : Nat) (b : Bool) (x : Int) : Live :=
  l.setAesRx r fun y =>
    if b then { y with prevB := x, fifoB := (x :: y.fifoB).take 64 } else { y with prevA := x, fifoA := (x :: y.fifoA).take 64 }

theorem sampleIn_does (same : m.audio = l.audio) (r : Nat) (b : Bool) (x : Int) :
    (m.sampleIn r b x).audio.rx.get r = (if b then { l.audio.rx.get r with prevB := x, fifoB := (x :: (l.audio.rx.get r).fifoB).take 64 }
      else { l.audio.rx.get r with prevA := x, fifoA := (x :: (l.audio.rx.get r).fifoA).take 64 }) ∧
    ∀ q, q ≠ r → (m.sampleIn r b x).audio.rx.get q = l.audio.rx.get q := by
  unfold Live.sampleIn
  exact ⟨by rw [rx_same, same], fun q other => by rw [rx_other _ _ other, same]⟩

theorem subframe_good {raw : Nat} {v : Bool} (locked : l.rxLocked r = true) (valid : v = true → l.rd .VALIDITY_POLICY ≠ 1) :
    l.subframe r b raw v false false = l.sampleIn r b (sample24 (if l.wideWord r b then raw else raw / 16 * 16)) := by
  have good : (false || false || (v && l.rd .VALIDITY_POLICY == 1)) = false := by
    cases v
    · rfl
    · simpa using valid rfl
  unfold Live.subframe
  simp only [good, locked, not_true, if_false, Bool.false_eq_true]
  rfl

/-- The counts of a subframe that is not taken (R568). -/
def Machine.Live.subframeBad (l : Live) (r : Nat) (biphase : Bool) : Live :=
  ((if biphase then (l.count .BIPHASE_ERRORS 1 r).mark 554 else l).count .INVALID_SAMPLES 1 r).mark 554

theorem subframe_bad {raw : Nat} {v p e : Bool} (locked : l.rxLocked r = true)
    (bad : p = true ∨ e = true ∨ v = true ∧ l.rd .VALIDITY_POLICY = 1) : l.subframe r b raw v p e =
      (l.subframeBad r e).sampleIn r b (if b then (l.audio.rx.get r).prevB else (l.audio.rx.get r).prevA) := by
  have invalid : (p || e || (v && l.rd .VALIDITY_POLICY == 1)) = true := by
    rcases bad with parity | biphase | ⟨validity, policy⟩
    · simp [parity]
    · simp [biphase]
    · simp [validity, policy]
  unfold Live.subframe
  simp only [invalid, locked, not_true, if_false, if_true]
  rfl

theorem mark_evaluates (l : Live) (src : Nat) : (l.mark src).mode = l.mode := (Live.mark_keeps ..).mode_eq (by decide)

theorem subframeBad_does (ev : l.mode.evaluates = true) (live : l.mode ≠ .freeze) (known : r < 4) (e : Bool) :
    (l.subframeBad r e).audio = l.audio ∧
    (l.subframeBad r e).rd .INVALID_SAMPLES r = (l.rd .INVALID_SAMPLES r + 1) % 2 ^ 64 ∧
    (l.subframeBad r e).rd .BIPHASE_ERRORS r = if e then (l.rd .BIPHASE_ERRORS r + 1) % 2 ^ 64 else l.rd .BIPHASE_ERRORS r := by
  have apart : Obj.key .INVALID_SAMPLES r 0 0 ≠ Obj.key .BIPHASE_ERRORS r 0 0 ∧
      Obj.key .INVALID_SAMPLES r 0 0 ≠ Obj.key .WRAPPED_ANY 0 0 0 ∧ Obj.key .BIPHASE_ERRORS r 0 0 ≠ Obj.key .WRAPPED_ANY 0 0 0 := by
    simp only [Obj.key, Obj.index, Obj.INVALID_SAMPLES, Obj.BIPHASE_ERRORS, Obj.WRAPPED_ANY]; omega
  obtain ⟨other, ownInvalid, ownBiphase⟩ := apart
  have noted : ∀ m : Live, Keeps [.events] m (m.mark 554) := fun m => Live.mark_keeps ..
  -- the count of a biphase error
  have before : let m := if e then (l.count .BIPHASE_ERRORS 1 r).mark 554 else l
      Keeps [.store, .events] l m ∧ m.rd .INVALID_SAMPLES r = l.rd .INVALID_SAMPLES r ∧
      m.rd .BIPHASE_ERRORS r = if e then (l.rd .BIPHASE_ERRORS r + 1) % 2 ^ 64 else l.rd .BIPHASE_ERRORS r := by
    cases e
    · exact ⟨.refl _ l, rfl, rfl⟩
    · exact ⟨.via (noted _) rfl (.mono (Live.count_keeps ..) rfl), ((noted _).rd ..).trans (Live.rd_count_other ev other ownInvalid),
        ((noted _).rd ..).trans (Live.count_rd ev live (Nat.zero_le _) (Nat.le_of_lt_succ known) ownBiphase)⟩
  unfold Live.subframeBad
  generalize (if e then (l.count .BIPHASE_ERRORS 1 r).mark 554 else l) = m at before ⊢
  obtain ⟨kept, invalid, biphase⟩ := before
  have ev' : m.mode.evaluates = true := by rw [kept.mode_eq (by decide)]; exact ev
  have live' : m.mode ≠ .freeze := by rw [kept.mode_eq (by decide)]; exact live
  refine ⟨((noted _).audio_eq (by decide)).trans ((Live.count_audio ..).trans (kept.audio_eq (by decide))), ?_, ?_⟩
  · rw [← invalid]
    exact ((noted _).rd ..).trans (Live.count_rd ev' live' (Nat.zero_le _) (Nat.le_of_lt_succ known) ownInvalid)
  · rw [← biphase]
    exact ((noted _).rd ..).trans (Live.rd_count_other ev' other.symm ownBiphase)

/-- A channel-status block that waits for the boundary (R569). -/
def Machine.Live.csNoted (l : Live) (r : Nat) (b : Bool) (v u : Nat) : Live :=
  l.setAesRx r fun y => { y with blocks := y.blocks ++ [{ chB := b, status := v, user := u, beat := l.now }] }

theorem csBlock_accepts {cs user : List Byte} {v : Nat} (status : v = beVal (slice cs 0 24))
    (checks : bit (blockByte v 0) 0 = true → csCrc (slice cs 0 24) = blockByte v 23) :
    l.csBlock r b cs user = if l.csLast r b = v then l.csNoted r b v (beVal (slice user 0 24))
      else (l.csNoted r b v (beVal (slice user 0 24))).raise 553 := by
  subst status
  unfold Live.csBlock
  dsimp only
  rw [if_neg (fun ⟨carried, wrong⟩ => wrong (checks carried))]
  rfl

/-- A block that is accepted changes what waits alone, with event 553 where the status differs from the last. -/
theorem csAccepted_does (ev : l.mode.evaluates = true) (r : Nat) (b : Bool) (v u : Nat) :
    let m := if l.csLast r b = v then l.csNoted r b v u else (l.csNoted r b v u).raise 553
    m.store = l.store ∧ m.audio = (l.csNoted r b v u).audio ∧ l.arose m (if l.csLast r b = v then [] else [l.occ 553]) := by
  have ev' : (l.csNoted r b v u).mode.evaluates = true := ev
  dsimp only
  split
  · refine ⟨rfl, rfl, ?_⟩
    unfold Live.arose
    rw [List.append_nil]; rfl
  · exact ⟨(raise_keeps_events ev' ..).store_eq (by decide), Live.raise_audio .., arose_raise ev' rfl rfl ..⟩

theorem csBlock_refuses {cs user : List Byte} {v : Nat} (status : v = beVal (slice cs 0 24))
    (carried : bit (blockByte v 0) 0 = true) (wrong : csCrc (slice cs 0 24) ≠ blockByte v 23) :
    l.csBlock r b cs user = (l.count .CS_CRC_ERRORS 1 r).mark 554 := by
  subst status
  exact if_pos ⟨carried, wrong⟩

theorem csRefused_does (ev : l.mode.evaluates = true) (live : l.mode ≠ .freeze) (known : r < 4) :
    let m := (l.count .CS_CRC_ERRORS 1 r).mark 554
    m.audio = l.audio ∧ l.cellsBut [Obj.key .CS_CRC_ERRORS r 0 0, Obj.key .WRAPPED_ANY 0 0 0] m ∧
    m.rd .CS_CRC_ERRORS r = (l.rd .CS_CRC_ERRORS r + 1) % 2 ^ 64 := by
  have noted := Live.mark_keeps (l.count .CS_CRC_ERRORS 1 r) 554
  refine ⟨(noted [] 0).audio_eq (by decide) |>.trans (Live.count_audio ..), .keep (noted [] 0) (Live.count_cells ev ..),
    ((noted [] 0).rd ..).trans (Live.count_rd ev live (Nat.zero_le _) (Nat.le_of_lt_succ known) ?_)⟩
  simp only [Obj.key, Obj.index, Obj.CS_CRC_ERRORS, Obj.WRAPPED_ANY]; omega

/-! ### Converters (R570) -/

/-- A receiver's converter that slips is recentred, and its two sources fault. -/
theorem asrcSlip_rx {i : Nat} {high : Bool} (runs : l.rxRuns i = true) (locked : l.rxLocked i = true)
    (slips : if high then 60 < (l.audio.rx.get i).fifoA.length else (l.audio.rx.get i).fifoA.length < 4) :
    ∃ o n, l.asrcSlip false i high = ((l.setAesRx i fun x => { x with fifoA := recentre x.fifoA, fifoB := recentre x.fifoB }).forL
      [2 * i, 2 * i + 1] fun l k => (l.count o n k).when (!false) fun l => l.sourceFault k).raise 557 := by
  have both : (l.rxRuns i && l.rxLocked i) = true := by rw [runs, locked]; rfl
  unfold Live.asrcSlip
  dsimp only
  rw [if_pos ⟨both, slips⟩]
  exact ⟨_, _, rfl⟩

/-- A transmitter's converter that slips is recentred. -/
theorem asrcSlip_tx {i : Nat} {high : Bool} (runs : l.matrixRuns = true) (enabled : l.rdB .ENABLE_1520 i = true)
    (slips : if high then 60 < (l.audio.tx.get i).fifoA.length else (l.audio.tx.get i).fifoA.length < 4) :
    ∃ o n, l.asrcSlip true i high =
      (((l.setAesTx i fun x => { x with fifoA := recentre x.fifoA, fifoB := recentre x.fifoB }).count o n (2 * i)).count o n
        (2 * i + 1)).raise 557 := by
  have both : (l.matrixRuns && l.rdB .ENABLE_1520 i) = true := by rw [runs, enabled]; rfl
  unfold Live.asrcSlip
  dsimp only
  rw [if_pos ⟨both, slips⟩]
  exact ⟨_, _, rfl⟩

/-! ### Transmitters (R574, R575) -/

/-- The blocks of a transmitter, built at the first of each 192 frames (R574). -/
def Machine.Live.blocksBuilt (l : Live) (k : Nat) : Live :=
  if (l.audio.tx.get k).frames % 192 = 0 then
    (l.wr .CS_BUILT_A (beVal (l.csBuild k false)) k).setAesTx k fun x =>
      { x with csB := beVal (l.csBuild k true), user := l.userBuild k }
  else l

theorem blocksBuilt_does (l : Live) (k : Nat) :
    (l.blocksBuilt k).audio.tx.get k = (if (l.audio.tx.get k).frames % 192 = 0
      then { l.audio.tx.get k with csB := beVal (l.csBuild k true), user := l.userBuild k } else l.audio.tx.get k) ∧
    (l.blocksBuilt k).rd .CS_BUILT_A k = (if (l.audio.tx.get k).frames % 192 = 0
      then beVal (l.csBuild k false) % 256 ^ 24 else l.rd .CS_BUILT_A k) ∧
    l.cellsBut [Obj.key .CS_BUILT_A k 0 0] (l.blocksBuilt k) ∧
    ∀ q, q ≠ k → (l.blocksBuilt k).audio.tx.get q = l.audio.tx.get q := by
  unfold Live.blocksBuilt
  split
  · exact ⟨tx_same .., Live.rd_wr_same .., .of_store (.wr (.refl _ l) (by simp)) rfl, fun _ other => tx_other _ _ other⟩
  · exact ⟨rfl, rfl, .refl _ l, fun _ _ => rfl⟩

/-- A transmitter after frame `n` of its block, with the bits of channel A's status `a`. -/
def frameOut (k take n a : Nat) (x : AesTx) : AesTx :=
  { x with subA := subframeOf (asrcOut (8 + 2 * k) x.fifoA) (blockBit x.user n) (blockBit a n), subB := subframeOf (asrcOut (9 + 2 * k) x.fifoB) (blockBit x.user n) (blockBit x.csB n), fifoA := dropOld take x.fifoA, fifoB := dropOld take x.fifoB, frames := x.frames + 1 }

theorem frameSent_tx (l : Live) (k take : Nat) : (l.frameSent k take).audio.tx.get k =
    frameOut k take ((l.audio.tx.get k).frames % 192) ((l.blocksBuilt k).rd .CS_BUILT_A k) ((l.blocksBuilt k).audio.tx.get k) :=
  tx_same (l.blocksBuilt k) k _

theorem frameSent_others (l : Live) (k take : Nat) : (l.frameSent k take).store = (l.blocksBuilt k).store ∧
    ∀ q, q ≠ k → (l.frameSent k take).audio.tx.get q = (l.blocksBuilt k).audio.tx.get q :=
  ⟨rfl, fun _ other => tx_other (l.blocksBuilt k) _ other⟩

/-! ### Sources (R580) -/

/-- A source that ramps in, counted and reported. -/
def Machine.Live.rampNoted (l : Live) (q : Nat) : Live :=
  ((l.setSource q fun x => { x with fade := { x.fade with state := 1 } }).count .RAMPS 1 q).raise 556 (u16 q)

theorem rampIn_ramps {q : Nat} (runs : l.audioClass ≠ 0) (first : l.audio.slot = 0) (good : 2 ≤ (l.source q).good)
    (silent : (l.source q).fade.state = 0 ∨ (l.source q).fade.state = 3) : l.rampIn q = (l.rampNoted q).showFade q :=
  if_pos ⟨runs, first, good, silent⟩

theorem rampNoted_does (ev : l.mode.evaluates = true) (live : l.mode ≠ .freeze) {q : Nat} (known : q < 16) :
    (l.rampNoted q).audio =
      { l.audio with sources := l.audio.sources.upd q fun x => { x with fade := { x.fade with state := 1 } } } ∧
    (l.rampNoted q).rd .RAMPS q = (l.rd .RAMPS q + 1) % 2 ^ 64 ∧ l.occ 556 (u16 q) ∈ (l.rampNoted q).events.arisen := by
  have counted := Live.count_keeps (l.setSource q fun x => { x with fade := { x.fade with state := 1 } }) .RAMPS 1 q 0 0
  have ev' : ((l.setSource q fun x => { x with fade := { x.fade with state := 1 } }).count .RAMPS 1 q).mode.evaluates = true := by
    rw [counted.mode_eq (by decide)]; exact ev
  unfold Live.rampNoted
  refine ⟨(Live.raise_audio ..).trans (Live.count_audio ..), ?_,
    Live.raise_mem ev (counted.modes_eq (by decide)) (counted.beat_eq (by decide)) ..⟩
  refine (Live.raise_rd ev' ..).trans
    (Live.count_rd (l := l.setSource q fun x => { x with fade := { x.fade with state := 1 } }) ev live (Nat.zero_le _)
      (Nat.le_of_lt_succ known) ?_)
  simp only [Obj.key, Obj.index, Obj.RAMPS, Obj.WRAPPED_ANY]; omega

theorem showFade_does (l : Live) (q : Nat) (code : (l.source q).fade.state < 256) :
    (l.showFade q).rd .STATE_1540 q = (l.source q).fade.state ∧ (l.showFade q).rd .RAMPS q = l.rd .RAMPS q := by
  unfold Live.showFade
  exact ⟨(rd_wr_row _ (by decide)).trans (rd_wr_fits _ (Nat.lt_of_lt_of_le code (by decide))),
    (rd_wr_row _ (by decide)).trans (rd_wr_row _ (by decide))⟩

end

/-- Settles O39: what each command makes of its receiver, converter, transmitter or source, by the lemmas above; the slips of a
receiver's sources by `slip_does`. -/
theorem receiversConvertersAndTransmitters : Obligations.ReceiversConvertersAndTransmitters := by
  refine ⟨fun s r c x runs shows => ?_, fun s r b raw v runs locked valid => ?_,
    fun s r b raw v p e runs locked ev live bad => ?_, fun s r b cs user v runs locked status checks ev => ?_,
    fun s r b cs user v runs locked status carried wrong ev live => ?_, fun s i high ev runs locked slips => ?_,
    fun s i high runs enabled slips => ?_, fun s k take runs enabled => ?_,
    fun s q ev live runs first good silent => ?_⟩
  · have sensed : exec c s = .next (s.withLive (s.live.rxSense r.val x.1 x.2.1 x.2.2)) := by
      rcases shows with ⟨rfl, found, rfl⟩ | ⟨rfl, found, rfl⟩ | ⟨rate, hz, rfl, within, rfl⟩
      all_goals exact congrArg (fun l => Host.Outcome.next (s.withLive l)) (if_pos ⟨runs, by assumption⟩)
    obtain ⟨t, ran, only, live⟩ := exec_to c s (m := [.audio]) sensed rfl (Live.rxSense_keeps ..)
    refine ⟨t, ran, only, ?_⟩
    rw [live]
    exact rxSense_does s.live r.val
  · obtain ⟨t, ran, only, live⟩ := exec_touches (.aes3SubframeReceived r b raw v false false) s rfl
      ((if_pos ⟨runs, locked_state locked⟩).trans (subframe_good locked valid)) rfl
    refine ⟨t, _, ran, only, rfl, ?_⟩
    rw [live]
    exact ⟨rfl, rfl, sampleIn_does rfl ..⟩
  · obtain ⟨t, ran, only, outcome⟩ := exec_touches (.aes3SubframeReceived r b raw v p e) s rfl
      ((if_pos ⟨runs, locked_state locked⟩).trans (subframe_bad locked bad)) rfl
    obtain ⟨audio, invalid, biphase⟩ := subframeBad_does ev live r.isLt e
    refine ⟨t, _, ran, only, rfl, ?_⟩
    rw [outcome]
    exact ⟨invalid, biphase, sampleIn_does audio ..⟩
  · obtain ⟨t, ran, only, live⟩ := exec_touches (.aesCsChange r b cs user) s rfl
      ((if_pos ⟨runs, locked⟩).trans (csBlock_accepts status checks)) rfl
    refine ⟨t, ran, only, ?_⟩
    rw [live]
    exact csAccepted_does ev r.val b v _
  · obtain ⟨t, ran, only, outcome⟩ := exec_touches (.aesCsChange r b cs user) s rfl
      ((if_pos ⟨runs, locked⟩).trans (csBlock_refuses status carried wrong)) rfl
    refine ⟨t, ran, only, ?_⟩
    rw [outcome]
    exact csRefused_does ev live r.isLt
  · obtain ⟨o, n, outcome⟩ := asrcSlip_rx runs locked slips
    obtain ⟨t, ran, only, live⟩ := exec_touches (.asrcSlip false i high) s rfl outcome rfl
    obtain ⟨rx, faultA, faultB, modes, beat⟩ := slip_does
      (s.live.setAesRx i.val fun x => { x with fifoA := recentre x.fifoA, fifoB := recentre x.fifoB }) (2 * i.val)
      (2 * i.val + 1) (by omega) o n
    have event := Live.raise_mem ev modes beat 557 [] 0
    refine ⟨t, ran, only, ?_⟩
    unfold Live.source at faultA faultB ⊢
    rw [live, Live.raise_audio, rx, rx_same]
    exact ⟨rfl, rfl, recentre_length _, faultA, faultB, event⟩
  · obtain ⟨o, n, outcome⟩ := asrcSlip_tx runs enabled slips
    obtain ⟨t, ran, only, live⟩ := exec_touches (.asrcSlip true i high) s rfl outcome rfl
    refine ⟨t, ran, only, ?_⟩
    rw [live, Live.raise_audio, Live.count_audio, Live.count_audio, tx_same]
    refine ⟨rfl, recentre_length _, Live.raise_mem (Mode.evaluates_of_engineOn runs) ?_ ?_ ..⟩
    · rw [Live.count_modes, Live.count_modes]; rfl
    · rw [Live.count_beat, Live.count_beat]; rfl
  · obtain ⟨t, ran, only, live⟩ := exec_touches (.aes3FrameTransmit k take) s (x := s.live.frameSent k.val take) rfl
      (if_pos ⟨runs, enabled⟩) rfl
    obtain ⟨built, status, cells, others⟩ := blocksBuilt_does s.live k.val
    obtain ⟨store, rest⟩ := frameSent_others s.live k.val take
    refine ⟨t, _, _, _, _, ran, only, rfl, rfl, rfl, rfl, ?_⟩
    rw [live, frameSent_tx, built, status]
    exact ⟨rfl, status, .of_store cells store, fun q other => (rest q other).trans (others q other)⟩
  · obtain ⟨t, ran, only, outcome⟩ := exec_touches (.audioRampIn q) s rfl (rampIn_ramps runs first good silent) rfl
    obtain ⟨audio, ramps, event⟩ := rampNoted_does ev live q.isLt
    have ramping : ((s.live.rampNoted q.val).source q.val).fade.state = 1 := by
      unfold Live.source
      rw [audio, Tbl.get_upd_same]
    obtain ⟨state, counted⟩ := showFade_does (s.live.rampNoted q.val) q.val (by rw [ramping]; decide)
    have shown := Live.showFade_keeps (s.live.rampNoted q.val) q.val
    refine ⟨t, ran, only, ?_⟩
    rw [outcome, shown.audio_eq (by decide), shown.events_eq (by decide), state, counted]
    exact ⟨audio, ramping, ramps, event⟩
end Sys2Proof

namespace Sys2Proof

open Machine

section
variable {l u v : Live} {i k : Nat}

/-! ### Sample slots (R565, R576, R578) -/

/-- The sources, the converters and the pre-roll rings of a slot (R576, R579, R589). -/
def Machine.Live.slotTaken (l : Live) (takes : List Nat) : Live :=
  (l.sourceSlots.2.rxTake takes).forN 2 fun m i => m.ringPush i l.sourceSlots.1

/-- The sinks of a slot, where the matrix runs. -/
def Machine.Live.slotMixed (l : Live) (takes : List Nat) (misses : Nat) : Live :=
  if l.matrixRuns then (l.slotTaken takes).forN 16 fun m k => m.sinkSlot k l.sourceSlots.1 (bit misses k) else l.slotTaken takes

theorem forN_slot (n : Nat) {f : Live → Nat → Live} (keeps : ∀ m k, (f m k).audio.slot = m.audio.slot) (l : Live) :
    (l.forN n f).audio.slot = l.audio.slot :=
  forL_inv (P := fun m : Live => m.audio.slot = l.audio.slot) (fun m k same => (keeps m k).trans same) (List.range n) l rfl

theorem slotMixed_slot (l : Live) (takes : List Nat) (misses : Nat) :
    (l.slotMixed takes misses).audio.slot = l.audio.slot := by
  have taken : (l.slotTaken takes).audio.slot = l.audio.slot := by
    unfold Live.slotTaken
    rw [slotOf_rings, slotOf_sources]
  unfold Live.slotMixed
  split
  · rw [forN_slot 16 fun m k => slotOf_sink ..]
    exact taken
  · exact taken

theorem sampleSlot_runs (takes : List Nat) (misses : Nat) (first : l.audio.slot < 6) (runs : l.audioClass ≠ 0) :
    l.sampleSlot takes misses =
      ((l.slotMixed takes misses).setAudio fun a => { a with slot := a.slot + 1 }).packetsFree := by
  unfold Live.sampleSlot
  rw [if_neg (by omega)]
  rfl

/-! ### Packets out (R581 to R583) -/

/-- The packet of a stream that falls due: AAF or RTP (R582, R583). -/
def Machine.Live.packetDue (l : Live) (k : Nat) : Nat × List Byte :=
  if l.rd .FORMAT k = 0 then (0x22F0, l.aafBody k (l.outBeats k) ((l.audio.outs.get k).seq % 256) (l.audio.outs.get k).mr (l.outSamples k (l.outBeats k)))
  else (0x0800, l.rtpPacket k (l.outBeats k) (l.audio.outs.get k).seq (l.audio.outs.get k).mark (l.outSamples k (l.outBeats k)))

/-- A stream after a packet, sent or held (R581, R585). -/
def Machine.Live.packetMade (l : Live) (k : Nat) : Live :=
  l.setAudio fun a => { a with outs := a.outs.upd k fun x => { x with seq := (x.seq + 1) % 2 ^ 16, last := some l.ticks } }

/-- A stream whose packet is sent (R581). -/
def Machine.Live.packetCounted (l : Live) (k : Nat) : Live :=
  (((l.packetMade k).setAudio fun a => { a with outs := a.outs.upd k fun x => { x with mark := false } }).count .PACKETS_SENT 1 k).blk
    22 .eventsOut 1 k

theorem packetOut_sends (unheld : l.packetsHeld = false) : l.packetOut k = (l.packetCounted k).muslinSend k (l.packetDue k) := by
  unfold Live.packetOut
  dsimp only
  rw [if_neg]
  · rfl
  · exact Bool.eq_false_iff.mp unheld

theorem packetOut_holds (held : l.packetsHeld = true) :
    l.packetOut k = ((l.packetMade k).count .PACKETS_HELD 1 k).mark 561 [] (l.rd .TENANCY k) := if_pos held

theorem running_of_outDue (due : l.outDue k = true) : l.mode.running = true := by
  unfold Live.outDue at due
  simp only [Bool.and_eq_true] at due
  obtain ⟨⟨⟨⟨running, -⟩, -⟩, -⟩, -⟩ := due
  exact running

/-- The counter of a stream, counted where nothing but the audio changed before. -/
theorem streamCount_does (on : l.mode.running = true) (same : u.store = l.store) (mode : u.mode = l.mode) {o : Obj} (word : o.len = 8)
    (inside : o.lo ≤ k ∧ k ≤ o.hi) (own : o.key k 0 0 ≠ Obj.key .WRAPPED_ANY 0 0 0) :
    l.cellsBut [o.key k 0 0, Obj.key .WRAPPED_ANY 0 0 0] (u.count o 1 k) ∧
    (u.count o 1 k).rd o k = (l.rd o k + 1) % 2 ^ 64 := by
  obtain ⟨ev, live⟩ := running_live on
  refine ⟨count_same same mode ev .., ?_⟩
  have counted := Live.count_rd (l := u) (o := o) (n := 1) (by rw [mode]; exact ev) (by rw [mode]; exact live) inside.1 inside.2 own
  have read : u.rd o k = l.rd o k := by unfold Live.rd; rw [same]
  have modulus : 256 ^ o.len = 2 ^ 64 := by rw [word]; rfl
  rw [counted, read, modulus]

theorem packetCounted_does (on : l.mode.running = true) (known : k < 8) :
    (l.packetCounted k).audio.outs.get k = { l.audio.outs.get k with seq := ((l.audio.outs.get k).seq + 1) % 2 ^ 16, last := some l.ticks, mark := false } ∧
    (l.packetCounted k).plane = l.plane ∧
    l.cellsBut [Obj.key .PACKETS_SENT k 0 0, Obj.key .WRAPPED_ANY 0 0 0] (l.packetCounted k) ∧
    (l.packetCounted k).rd .PACKETS_SENT k = (l.rd .PACKETS_SENT k + 1) % 2 ^ 64 := by
  obtain ⟨cells, sent⟩ := streamCount_does (o := .PACKETS_SENT) (k := k)
    (u := (l.packetMade k).setAudio fun a => { a with outs := a.outs.upd k fun x => { x with mark := false } }) on rfl rfl rfl
    ⟨Nat.zero_le _, Nat.le_of_lt_succ known⟩ (by simp only [Obj.key, Obj.index, Obj.PACKETS_SENT, Obj.WRAPPED_ANY]; omega)
  unfold Live.packetCounted
  refine ⟨?_, by rw [Live.blk_plane, Live.count_plane]; rfl, .keep (Live.blk_keeps ..) cells, (blk_rd ..).trans sent⟩
  rw [Live.blk_audio, Live.count_audio]
  exact outs_twice ..

theorem packetHeld_does (on : l.mode.running = true) (known : k < 8) (tn : Nat) :
    let m := ((l.packetMade k).count .PACKETS_HELD 1 k).mark 561 [] tn
    m.plane = l.plane ∧
    m.audio.outs.get k = { l.audio.outs.get k with seq := ((l.audio.outs.get k).seq + 1) % 2 ^ 16, last := some l.ticks } ∧
    l.cellsBut [Obj.key .PACKETS_HELD k 0 0, Obj.key .WRAPPED_ANY 0 0 0] m ∧
    m.rd .PACKETS_HELD k = (l.rd .PACKETS_HELD k + 1) % 2 ^ 64 := by
  obtain ⟨cells, counted⟩ := streamCount_does (o := .PACKETS_HELD) (k := k) (u := l.packetMade k) on rfl rfl rfl
    ⟨Nat.zero_le _, Nat.le_of_lt_succ known⟩ (by simp only [Obj.key, Obj.index, Obj.PACKETS_HELD, Obj.WRAPPED_ANY]; omega)
  have marked := Live.mark_keeps ((l.packetMade k).count .PACKETS_HELD 1 k) 561 [] tn
  refine ⟨(marked.plane_eq (by decide)).trans (Live.count_plane ..), ?_, .keep marked cells, (marked.rd ..).trans counted⟩
  rw [marked.audio_eq (by decide), Live.count_audio]
  exact outs_once ..

/-! ### Packets in (R584, R585) -/

/-- A packet's sequence number is noted, and a gap before it counted (R584). -/
def Machine.Live.packetNoted (l : Live) (i : Nat) (p : AudioPacket) : Live :=
  ((l.setSource (8 + i) fun x => { x with seq := some p.seq }).when
    (match (l.source (8 + i)).seq with | some q => p.seq != (q + 1) % p.wrap | none => false) fun l => l.count .SEQ_GAPS 1 i).blk 22
      .eventsIn 1 i

/-- A packet in the buffer `h`, its samples in their slots (R584). -/
def Machine.Live.packetStored (l : Live) (i : Nat) (p : AudioPacket) (b : AudioBuf) : Live :=
  (((l.bufWrite (handleKey b.handle) 0 p.pcm false).setAudio fun a => { a with packets := a.packets ++ [b] }).placeSamples i p).count
    .PACKETS_ACCEPTED 1 i

theorem packetFor_accepts {p : AudioPacket} {h n : Nat} (samples : n = p.pcm.length / (3 * (l.inSources i).length))
    (begun : ((l.packetNoted i p).audio.slot : Int) ≤ p.slot 0) (ends : p.slot (n - 1) ≤ ((l.packetNoted i p).audio.slot : Int) + 1536)
    (unheld : (l.packetNoted i p).packetsHeld = false)
    (allocated : (l.packetNoted i p).alloc 3 p.pcm.length (l.rd .IN_TENANCY i) = ((0, h), v)) :
    l.packetFor i p = v.packetStored i p
      { handle := h, stream := i, first := (l.packetNoted i p).slotAt (p.slot 0),
        last := (l.packetNoted i p).slotAt (p.slot (n - 1)) } := by
  subst samples
  unfold Live.packetFor
  refine (if_neg (not_lt.mpr begun)).trans ((if_neg (not_lt.mpr ends)).trans
    ((if_neg (Bool.eq_false_iff.mp unheld)).trans ?_))
  show (match (l.packetNoted i p).alloc 3 p.pcm.length (l.rd .IN_TENANCY i) with
    | ((0, h), m) => m.packetStored i p
        { handle := h, stream := i, first := (l.packetNoted i p).slotAt (p.slot 0),
          last := (l.packetNoted i p).slotAt (p.slot (p.pcm.length / (3 * (l.inSources i).length) - 1)) }
    | (_, m) => m.count .PACKETS_DISCARDED 1 i) = _
  rw [allocated]
  rfl

theorem packetStored_packets (v : Live) (i : Nat) (p : AudioPacket) (b : AudioBuf) :
    (v.packetStored i p b).audio.packets = v.audio.packets ++ [b] := by
  unfold Live.packetStored
  rw [Live.count_audio, packetsOf_place]
  exact congrArg (fun a : Audio => a.packets ++ [b]) ((Live.bufWrite_keeps v ..).audio_eq (by decide))

/-- A frame that port M hands on reaches Muslin (R308, R584). -/
theorem execPacketIn_taken {s : State} {at_ : Nat} {f : Frame} (on : s.live.mode.running = true)
    (taken : (s.live.at at_).takeFrom 55 = (some f, u)) :
    exec (.packetIn at_ none) s = .next (s.withLive (u.packetIn f)) := by
  have served : s.live.portServed 55 = true := by
    unfold Live.portServed
    rw [on]; rfl
  refine congrArg (fun l => Host.Outcome.next (s.withLive l)) ((if_pos served).trans ?_)
  rw [taken]

theorem packetIn_filters {f : Frame} (unmatched : l.streamFor f (parse f.bytes) = none) :
    l.packetIn f = l.count .FILTERED 1 f.port := by
  unfold Live.packetIn
  rw [unmatched]

theorem packetIn_matches {f : Frame} {p : AudioPacket} (found : l.streamFor f (parse f.bytes) = some (i, p))
    (clean : f.poisoned = false) : l.packetIn f = l.packetFor i p := by
  unfold Live.packetIn
  rw [found]
  exact if_neg (Bool.eq_false_iff.mp clean)

/-! ### The spotter (R586 to R589) -/

/-- The templates of a spotter, moved by the feature frame of its last 1,024 samples (R586, R587). -/
def Machine.Live.templatesMoved (l : Live) (i : Nat) : Live :=
  (l.setSpotter i fun x => { x with frame := l.now, framed := some l.ticks }).forN 8 fun m k =>
    m.templateFrame i k (featureBytes ((l.spotter i).ring.take 1024 ++ List.replicate (1024 - (l.spotter i).ring.length) 0).reverse)
      (l.spotter i).frame

theorem featureFrames_first (runs : l.audioClass ≠ 0) (due : l.elapsed % 80 = 0) (enabled : l.rdB .ENABLE_1560 i = true)
    (fresh : (l.spotter i).framed ≠ some l.ticks)
    (before : ∀ j, j < i → l.rdB .ENABLE_1560 j = false ∨ (l.spotter j).framed = some l.ticks) :
    l.featureFrames i = (l.templatesMoved i).wr .PARTIAL_SCORE ((l.templatesMoved i).partialScore i) i := by
  unfold Live.featureFrames Live.forN
  rw [List.range_succ, List.foldl_append, frames_first before i (Nat.le_refl i)]
  show l.featureFrame i = _
  unfold Live.featureFrame
  dsimp only
  rw [if_neg (by simp [runs, due, enabled, fresh])]
  rfl

end

/-- Settles O40: slots by `sampleSlot_runs`, packets by `packetOut_sends`, `packetOut_holds` and `packetFor_accepts`, feature
frames by `featureFrames_first`. -/
theorem slotsPacketsAndTheSpotterRun : Obligations.SlotsPacketsAndTheSpotterRun := by
  refine ⟨fun s takes misses first runs => ?_, fun s takes misses stopped => ?_, fun s k past due before unheld => ?_,
    fun s k past due before held => ?_, fun s past f u on taken unmatched => ?_,
    fun s past i h f u w v p on taken found clean noted begun ends unheld allocated => ?_,
    fun s i runs due enabled fresh before => ?_, fun s i => ?_⟩
  · obtain ⟨t, ran, only, live⟩ := exec_touches (.sampleSlot takes misses) s rfl (sampleSlot_runs takes misses first runs) rfl
    refine ⟨t, s.live.slotTaken takes, s.live.slotMixed takes misses, ran, only, rfl, rfl, live, ?_⟩
    rw [live, slotOf_packets]
    exact congrArg (· + 1) (slotMixed_slot ..)
  · exact exec_idle (.sampleSlot takes misses) s rfl (if_pos stopped)
  · obtain ⟨t, ran, only, live⟩ := exec_touches (.packetOut k past) s rfl ((if_pos due).trans
      ((outs_eq (l := s.live.at past) due before).trans (packetOut_sends unheld))) rfl
    refine ⟨t, (s.live.at past).packetCounted k.val, ran, only, live, ?_⟩
    obtain ⟨made, plane, cells, sent⟩ := packetCounted_does (l := s.live.at past) (running_of_outDue due) k.isLt
    refine ⟨made, ?_, plane, ⟨cells.same⟩, sent⟩
    rw [live]
    exact (Live.muslinSend_keeps ..).audio_eq (by decide)
  · obtain ⟨t, ran, only, live⟩ := exec_touches (.packetOut k past) s rfl ((if_pos due).trans
      ((outs_eq (l := s.live.at past) due before).trans (packetOut_holds held))) rfl
    obtain ⟨plane, made, cells, counted⟩ := packetHeld_does (l := s.live.at past) (running_of_outDue due) k.isLt
      ((s.live.at past).rd .TENANCY k.val)
    refine ⟨t, ran, only, ?_⟩
    rw [live]
    exact ⟨plane, made, ⟨cells.same⟩, counted⟩
  · obtain ⟨t, ran, only, live⟩ := exec_touches (.packetIn past none) s (execPacketIn_taken on taken)
      (packetIn_filters unmatched) rfl
    have on' : u.mode.running = true := by rw [(takeFrom_keeps_some taken).mode_eq (by decide)]; exact on
    refine ⟨t, ran, only, live, fun known => ?_, by rw [live, Live.count_audio]⟩
    rw [live]
    exact (streamCount_does (o := .FILTERED) on' rfl rfl rfl ⟨Nat.zero_le _, known⟩
      (by simp only [Obj.key, Obj.index, Obj.FILTERED, Obj.WRAPPED_ANY]; omega)).2
  · obtain rfl : w = u.packetNoted i p := noted
    obtain ⟨t, ran, only, live⟩ := exec_touches (.packetIn past none) s (execPacketIn_taken on taken)
      ((packetIn_matches found clean).trans (packetFor_accepts rfl begun ends unheld allocated)) rfl
    exact ⟨t, _, ran, only, rfl, live, by rw [live, packetStored_packets]⟩
  · obtain ⟨t, ran, only, live⟩ := exec_touches (.featureFrame i) s rfl
      (featureFrames_first runs due enabled fresh before) rfl
    exact ⟨t, s.live.templatesMoved i.val, ran, only, rfl, live, by rw [live]; exact Live.rd_wr_same ..⟩
  · obtain ⟨t, ran, only, live⟩ := exec_touches (.clipRelease i) s (x := s.live.wrB .CLIP_LOCKED false i.val) rfl rfl rfl
    refine ⟨t, ran, only, ?_⟩
    rw [live]
    refine ⟨?_, .wr (.refl _ _) (by simp)⟩
    have unlocked : (s.live.wrB .CLIP_LOCKED false i.val).rd .CLIP_LOCKED i.val = 0 := rd_wr_fits _ (by decide)
    unfold Live.rdB
    rw [unlocked]; rfl
end Sys2Proof
